-- ==== Sys2Proof/Word.lean ====
section
/-! DEFINITION. The word types every other file uses.  The sled stores every multi-byte field least
significant byte first (R16); the byte-order helpers stand in Machine/Bits.lean. -/

namespace Sys2Proof

/-- One byte of any memory, frame, descriptor or record. -/
abbrev Byte := BitVec 8

/-- A tile scalar register, a descriptor body field, a timestamp: 64 bits. -/
abbrev Word := BitVec 64

/-- A 32-bit field. -/
abbrev Half := BitVec 32

end Sys2Proof
end

