-- ==== Sys2Proof/Syntax.lean ====
section
/-! DEFINITION. The commands of the block: one constructor per row of spec/opcode_table.json.  The table gives
no operand fields, so the operands are the model's (log entry 3): `t` is the local time in ns at which the command
arrives, and the others are what the command carries or what the environment supplies with it.  An operand with a
default has the value of the plain case when it is left out. -/

namespace Sys2Proof

/-- What a start-up test or a sweep found: the failing units (R187, R1037).  The test patterns are not
published, so the results are inputs. -/
structure TestResults where
  tiles : List Nat := []
  hbm : List Nat := []
  cellar : List Nat := []
  arrays : List Nat := []
  lots : List Nat := []
  ports : List Nat := []
  cores : List Nat := []
  bridge : Bool := false
  junction : Bool := false
  switch : Bool := false
  adders : Bool := false
  clear : Bool := false
  deriving DecidableEq, Repr

/-- What the IPv6 and UDP layers say of a received frame (R294, R295). -/
structure NetSource where
  /-- The source address is link-local. -/
  linkLocal : Bool := true
  hopLimit : Nat := 255
  fragment : Bool := false
  /-- UDP destination port. -/
  port : Nat := 61605
  /-- The sender's IPv6 address times 65,536 plus its UDP port. -/
  client : Nat := 0
  deriving DecidableEq, Repr

/-- The units with a hardware progress monitor (R1083). -/
inductive WedgeUnit where
  | junction | switch | collective | host | bridge
  deriving DecidableEq, Repr

/-- What raises a micro machine check (R628, R631, R640, R641, R643, R650): a control-store row as fetched, by the
positions of its flipped bits; the microword at an address as executed; or the event that the subcause names. -/
inductive MicroCheck where
  | row (flips : List Nat)
  | word (upc : Nat)
  | mw7Busy
  | spillFull
  | returnEmpty
  | saveArea
  | poison
  deriving DecidableEq, Repr

/-- Who reads a word of HBM or the cellar (R523). -/
inductive Reader where
  | tile (tile : Nat)
  | mover (tile : Nat)
  | copy (queue index : Nat)
  | station (core : Nat)
  | host
  | peer
  deriving DecidableEq, Repr

/-- Upsets of a scrubber's own registers and table (R1002, R1003). -/
inductive ScrubUpset where
  /-- A single-bit or a double error of a golden entry. -/
  | goldenSingle | goldenDouble
  /-- One copy of a control register differs, or all three do. -/
  | voteOne | voteSplit
  deriving DecidableEq, Repr

/-- Where a station core's access goes: a tile's scratchpad, HBM, or other memory (R555). -/
inductive StationPlace where
  | scratch (tile : Nat)
  | hbm
  | other
  deriving DecidableEq, Repr

/-- What an atomic instruction of a station core does with the old value and its operand (R555). -/
inductive AmoOp where
  | swap | add | and | or | xor | min | max | minu | maxu
  deriving DecidableEq, Repr

/-- Registers of the host port's configuration space (R347, R348). -/
inductive ConfigReg where
  | vendorId | deviceId | revisionId | classCode | subsystemVendorId | subsystemId
  | bar (n : Nat)
  | expansionRom
  | slotCapabilities
  | deviceCapabilities
  /-- Maximum payload size, maximum read request size and 14-bit tags. -/
  | maxPayload | maxRead | tags14
  | msixTableSize
  /-- Sizes that BAR2 can take, and the size it has, in GiB. -/
  | resizableSizes | resizableSize
  | aerUncorStatus | aerUncorMask | aerCorStatus | aerCorMask
  deriving DecidableEq, Repr

/-- What an agent that has no row of its own in the table does during a tick (log entry 140): station firmware, the host's
reads and configuration accesses, fabric logic, and the devices at the serialiser lanes. -/
inductive Act where
  /-- Station firmware loads PC60, or PC61 (R398). -/
  | checkpoint (second : Bool) (cycle phase : Nat)
  /-- Station core `core` stores, loads, fences, or runs an atomic or LR/SC instruction (R554, R555). -/
  | stationStore (core : Nat) (place : StationPlace) (addr : Nat) (data : List Byte)
  | stationLoad (core : Nat) (place : StationPlace) (addr length : Nat)
  | stationFence (core : Nat) (predR predW succR succW tso : Bool)
  | stationAmo (core : Nat) (place : StationPlace) (addr width : Nat) (op : AmoOp) (operand : Nat) (aq rl : Bool)
  | stationLr (core : Nat) (place : StationPlace) (addr width : Nat) (aq rl : Bool)
  | stationSc (core : Nat) (place : StationPlace) (addr width value : Nat) (aq rl : Bool)
  /-- The `n`-th buffered store of a station core becomes visible. -/
  | stationDrain (core n : Nat)
  /-- The host reads BAR0, or BAR4 (R353, R358). -/
  | hostRead (bar4 : Bool) (offset length : Nat)
  /-- A configuration request of the host (R347, R348, R350). -/
  | configRead (reg : ConfigReg)
  | configWrite (reg : ConfigReg) (value : Nat)
  /-- The endpoint logs an error in an AER status register (R347). -/
  | aerError (uncorrectable : Bool) (bit : Nat)
  /-- Fabric logic uses a port of a lot memory (R926). -/
  | lotMemory (lot mem : Nat) (second : Bool) (word : Nat) (write : Option Nat)
  /-- A cell's output, or the acknowledge of a dual-rail stage, follows its inputs; bit i of `ports` is the level at input i where
  hard logic or a pad drives it (R909, R911, R913). -/
  | cell (lot n ports : Nat)
  | stage (lot n : Nat)
  /-- Fabric logic hands words to a LINK_OUT controller, or takes words from a LINK_IN controller; a word crosses the link
  (R930, R931, R933). -/
  | linkOffer (ctrl : Nat) (words : List Nat)
  | linkTake (ctrl n : Nat)
  | linkMove (ctrl : Nat)
  /-- A receiving lane takes a word from the wire; fabric logic takes words from it (R951, R952). -/
  | laneReceive (bank lane word : Nat)
  | laneTake (bank lane n : Nat)
  /-- Fabric logic hands a word to a transmitting lane; the lane sends a word (R951, R952). -/
  | lanePut (bank lane word : Nat)
  | laneSend (bank lane : Nat)
  deriving DecidableEq, Repr

/-- A command: one row of spec/opcode_table.json each (R2, R45, R46). -/
inductive Instr where
  /-- KIOSK_START (R180): SB_12V reaches its operating range; the kiosk starts, samples the straps and the sled enters STANDBY in NO_REF with UNNUMBERED set. -/
  | kioskStart (t slotAddr : Nat)
  /-- STANDBY_POWER_LOSS (R121): Neither SB_12V nor the bulk can hold the standby domain; the Roundabout state, kiosk comparators, sessions and unsaved entries are lost and the sled becomes ABSENT. -/
  | standbyPowerLoss (t : Nat)
  /-- MAINS_CROSSING (R80): A crossing arrives on MAINS_REF; it is timestamped, classified, and accepted or counted as a glitch, and the run of valid periods is followed. -/
  | mainsCrossing (t above : Nat)
  /-- WINDOW_CLOSE (R81): A crossing window closes without an accepted crossing; one missing crossing is counted and the state moves to COAST. -/
  | windowClose (t : Nat)
  /-- RUN_TIMEOUT (R1143): 22.222 ms pass after a run's last crossing without another; the run ends and ACQUIRING clears. -/
  | runTimeout (t : Nat)
  /-- TICK (R70): A tick length ends; RB_PHASE advances, skipping or repeating at correction points, RB_CYCLE increments at wrap, and the package copy follows. -/
  | tick (acts : List Act := [])
  /-- APPLY_BEACON_DELTA (R102): At the cycle boundary after a usable beacon, a pending D is added to RB_CYCLE (any D first time, positive D later, negative D only while the package is unpowered). -/
  | applyBeaconDelta
  /-- FREEWHEEL_LONG (R117): Freewheel reaches 65,536 cycles; FREEWHEEL_LONG is set and a REF_LONG_FREEWHEEL record written. -/
  | freewheelLong
  /-- EVENT_FIRE (R107): A kiosk or package comparator reaches its scheduled cycle and tick (or a skipped or past one) and fires once, in the order of R111. -/
  | eventFire
  /-- HALF_CYCLE_BOUNDARY (R134): RB_PHASE reaches the offset or offset plus 2,048; the governor fixes ceiling, floor, slews and clock step for the next half-cycle and applies pending policy. -/
  | halfCycleBoundary (t : Nat)
  /-- POWER_SAMPLE (R128): Every 1 µs the governor samples input power, updates p16 and adjusts hold_back and ballast_level under the control law. -/
  | powerSample (t mainMv bulkMv powerMw : Nat) (pfWarn : Bool)
  /-- BALLAST_BURST (R665): A tile runs one 15-cycle BALLAST burst at the current level and repeats while BALLAST_REQ holds. -/
  | ballastBurst (tile : Fin 160)
  /-- MAIN_INPUT_QUALIFY (R127): MAIN_54V stays at or above 49.0 V for 100 ms, permitting precharge. -/
  | mainInputQualify (t : Nat)
  /-- START_QUALIFIED (R182): All start conditions hold together for 100 ms; precharge is scheduled for the next boundary. -/
  | startQualified (t : Nat)
  /-- PRECHARGE_COMPLETE (R126): The bulk reaches within 1.0 V of the input; the input switch closes fully and the sled enters POWERED. -/
  | prechargeComplete (t : Nat)
  /-- BROWNOUT_DETECT (R167): MAIN_54V stays below the brownout threshold for 1 ms; brownout is due at the next boundary and recorded. -/
  | brownoutDetect (t : Nat)
  /-- BROWNOUT_CLEAR_QUALIFY (R168): MAIN_54V stays at or above threshold plus 0.50 V for 100 ms; brownout leaves at the next boundary. -/
  | brownoutClearQualify (t : Nat)
  /-- OVERVOLTAGE_NOTICE (R170): The input stays above 58.0 V for 1 ms; an OVERVOLTAGE record is written. -/
  | overvoltageNotice (t : Nat)
  /-- CURFEW_DECLARE (R157): MAIN_54V below 46.0 V for 200 µs or PF_WARN_N asserted for 2 µs; curfew begins, issue and ballast stop and writes are refused. -/
  | curfewDeclare (t : Nat)
  /-- REMOVAL_DROP_BEGIN (R171): EARLY_N stays asserted for 10 µs; the removal drop runs the curfew sequence with cause REMOVAL. -/
  | removalDropBegin (t : Nat)
  /-- CURFEW_DEPARTURE_NOTICE (R160): At 10 µs a departure notice with cause CURFEW or REMOVAL leaves on every trained link. -/
  | curfewDepartureNotice (t : Nat)
  /-- CURFEW_HALT (R160): At 100 µs tiles, movers, Junction and switch halt and are clock-gated. -/
  | curfewHalt (t : Nat)
  /-- CURFEW_LOG_START (R160): At 150 µs the kiosk starts writing the event log. -/
  | curfewLogStart (t : Nat)
  /-- CORE_RAILS_OFF (R160): At 500 µs the compute-die core rails switch off. -/
  | coreRailsOff (t : Nat)
  /-- HBM_OFF (R160): At 1.0 ms the HBM stacks switch off. -/
  | hbmOff (t : Nat)
  /-- CELLAR_FABRIC_OFF (R160): At 1.5 ms the cellar, Burund chiplets and link retimers switch off. -/
  | cellarFabricOff (t : Nat)
  /-- CURFEW_SWITCH_OPEN (R160): At 2.0 ms the input switch opens and the main domain is off. -/
  | curfewSwitchOpen (t : Nat)
  /-- EVENT_LOG_COMPLETE (R160): At 12.0 ms the event log is complete, the curfew or removal counter increments and the sled enters OFF. -/
  | eventLogComplete (t : Nat)
  /-- EARLY_N_CHANGE (R171): EARLY_N changes state; assertion starts the removal qualification, deassertion feeds the start conditions. -/
  | earlyNChange (t : Nat) (asserted : Bool)
  /-- PRSNT_N_CHANGE (R1104): PRSNT_N changes state; it only feeds the start conditions. -/
  | prsntNChange (t : Nat) (asserted : Bool)
  /-- LATCH_OPEN (R1099): The ejector latch opens; LATCH_OPEN is set and a departure request with code 1 is made. -/
  | latchOpen (t : Nat)
  /-- STATION_FW_VERIFIED (R184): In POWERED the kiosk verifies and loads station firmware, microcode and policy; the sled enters VERDICT, or LEFT with FIRMWARE_INVALID. -/
  | stationFwVerified (t : Nat) (aOk bOk : Bool := true)
  /-- VERDICT_COMPLETE (R187): The active set is decided and memory and fabric initialised; the sled enters TRAINING, or LEFT with START_UNFIT. -/
  | verdictComplete (t : Nat) (res : TestResults)
  /-- PORT_TRAIN_TIMEOUT (R193): A port does not train within 800 ms and is marked failed. -/
  | portTrainTimeout (t : Nat) (port : Fin 16)
  /-- TRAINING_COMPLETE (R194): Links are trained or given up; the sled enters JOINED or DEGRADED, sends arrival notices and may begin a full fabric load. -/
  | trainingComplete (t : Nat)
  /-- DEPART_INSTANT (R202): The departure instant fires; the sled enters DRAINING and starts no new step. -/
  | departInstant (t : Nat)
  /-- DRAIN_COMPLETE (R202): All started steps and collectives have completed and groups re-formed; the sled sends LEAVE and enters LEFT. -/
  | drainComplete (t : Nat)
  /-- DRAIN_TIMEOUT (R203): DRAINING lasts the drain limit; running steps abort, a DRAIN_TIMEOUT notice is sent and the sled enters LEFT. -/
  | drainTimeout (t : Nat)
  /-- RESET_HOLD_END (R209): The package has been in RESET_HELD for 10 ms with no other hold; it is released into POWERED or the switch opens. -/
  | resetHoldEnd (t : Nat)
  /-- RESET_BTN_PRESS (R210): RESET_BTN_N becomes asserted; a press begins and is counted. -/
  | resetBtnPress (t : Nat)
  /-- RESET_BTN_RELEASE (R210): A press ends after 10 ms deasserted; a 50 ms–2 s press in a powered state starts a full reset, a long press releases its hold. -/
  | resetBtnRelease (t : Nat)
  /-- RESET_BTN_HOLD (R210): A press reaches 2 s; a full reset begins and the package is held, or start is inhibited. -/
  | resetBtnHold (t : Nat)
  /-- RESET_STUCK (R211): A press reaches 30 s; the button is declared stuck, RESET_STUCK set and a FENCED record written. -/
  | resetStuck (t : Nat)
  /-- RESET_STUCK_CLEAR (R214): RESET_BTN_N stays deasserted for 1 s; RESET_STUCK clears. -/
  | resetStuckClear (t : Nat)
  /-- PERST_ASSERT (R209): PERST_N asserted for 100 µs while the package runs requests a full reset held until deassertion. -/
  | perstAssert (t heldNs : Nat)
  /-- PERST_DEASSERT (R349): PERST_N deasserts; the endpoint starts link training and a held reset may release. -/
  | perstDeassert (t : Nat)
  /-- FULL_RESET_REQUEST (R209): A full reset begins: departure notices with cause RESET, then the descent of R176. -/
  | fullResetRequest (t : Nat)
  /-- JOP_FRAME_DISCARD (R328): A received JOP frame fails header or tag checks and is discarded and counted. -/
  | jopFrameDiscard (t : Nat) (src : NetSource) (frame : List Byte)
  /-- JOP_REQUEST (R258): A REQUEST frame is accepted and queued for the kiosk, or refused with BUSY when the path's queue is full. -/
  | jopRequest (t : Nat) (src : NetSource) (frame : List Byte)
  /-- MB_SUBMIT (R276): A write of SUBMIT passes the mailbox request to the kiosk and sets BUSY, or is ignored with FAULT. -/
  | mbSubmit (t : Nat)
  /-- MB_OPEN (R1149): A write of OPEN ends any mailbox session and opens a new one with the rights of object 0x1101. -/
  | mbOpen (t : Nat)
  /-- MB_CLOSE (R1149): A write of CLOSE ends the mailbox session and clears DONE and FAULT. -/
  | mbClose (t : Nat)
  /-- MB_VECTOR_WRITE (R275): A write to MB_VECTOR takes a vector 1–2,047 or 0xFFFF and leaves the register unchanged for any other value. -/
  | mbVectorWrite (value : Half)
  /-- TRANSACTION_EXECUTE (R251): The kiosk takes the next request by the path rotation and checks duplicates, staleness, form and curfew, then checks and applies its operations atomically and replies. -/
  | transactionExecute (t : Nat) (storeOk : Bool)
  /-- DOMAIN_VERIFY_DONE (R273): Verification of a committed DOMAIN finishes within 5 s; the value is replaced in one step, or SIGNATURE is replied and the staging discarded. -/
  | domainVerifyDone (t : Nat) (storeOk : Bool)
  /-- STAGING_EXPIRE (R274): No WRITE_SEG reaches an open staging for the idle limit; it is discarded and counted. -/
  | stagingExpire (t : Nat)
  /-- REGISTER_WRITE (R363): A write to a register with no row of its own updates it, or is ignored where its state forbids it. -/
  | registerWrite (t offset : Nat) (value : List Byte) (bar4 : Bool := false)
  /-- SESSION_OPEN (R337): A SESSION_OPEN frame is rate-checked and answered with SESSION_ACCEPT or SESSION_REFUSE. -/
  | sessionOpen (t : Nat) (src : NetSource) (frame : List Byte)
  /-- SESSION_CONFIRM (R335): A SESSION_CONFIRM whose tag verifies opens the session with its credential's right. -/
  | sessionConfirm (t : Nat) (src : NetSource) (frame : List Byte)
  /-- SESSION_CLOSE (R339): A verified SESSION_CLOSE ends the session, its record and its staging. -/
  | sessionClose (t : Nat) (src : NetSource) (frame : List Byte)
  /-- HALF_OPEN_EXPIRE (R337): A half-open session receives no valid confirm within 2 s and is discarded. -/
  | halfOpenExpire (t session : Nat)
  /-- SESSION_IDLE_EXPIRE (R339): No frame of a session verifies for the idle limit; the session ends. -/
  | sessionIdleExpire (t session : Nat)
  /-- BEACON_INSTANT (R312): The beacon instant fires; a coordinator sends its beacon, a candidate counts its listen or claims, and node-ID writes take effect. -/
  | beaconInstant (t : Nat)
  /-- CLAIM_SUCCESS (R305): A claim beacon ends without collision; its sender becomes coordinator and activates PLCA. -/
  | claimSuccess (t : Nat)
  /-- CLAIM_COLLISION (R306): A claim beacon collides; the candidate backs off by its EUI-derived time. -/
  | claimCollision (t : Nat)
  /-- BACKOFF_EXPIRE (R307): The backoff ends without carrier; the candidate sends a deferred claim beacon. -/
  | backoffExpire (t : Nat)
  /-- CARRIER_DETECT_BACKOFF (R307): A candidate detects carrier during its backoff and yields as follower on its fallback ID. -/
  | carrierDetectBackoff (t : Nat)
  /-- BEACON_RECEIVE (R99): A beacon frame is received; it serves numbering, guard, wake, yielding and resync as its flags allow. -/
  | beaconReceive (t : Nat) (src : NetSource) (frame : List Byte)
  /-- BEACON_GUARD_CLOSE (R323): A sleeping sled's guard closes without a beacon; BEACON_MISSED is set and it enters SEARCHING. -/
  | beaconGuardClose (t : Nat)
  /-- SEARCH_EXPIRE (R324): Two beacon periods pass in SEARCHING without a beacon; BEACON_LOST is recorded. -/
  | searchExpire (t : Nat)
  /-- BACKUP_TAKEOVER (R343): A LOCKED backup follower hears no beacon at four consecutive instants and becomes a candidate on node 0. -/
  | backupTakeover (t : Nat)
  /-- STATUS_SLOT (R317): The sled's status slot begins; it sends its status frame or RESYNC notice, or drops it at the slot end. -/
  | statusSlot (t : Nat) (slotEnded : Bool)
  /-- STATUS_FRAME_RECEIVE (R318): A coordinator receives a status frame and marks the node present. -/
  | statusFrameReceive (t : Nat) (src : NetSource) (frame : List Byte)
  /-- NOTICE_SEND (R341): A notice is sent in the first transmit opportunity after its cause and again after the next beacon. -/
  | noticeSend (t : Nat)
  /-- QUEUE_ENABLE (R364): ENABLE on a DISABLED queue checks the context, zeroes head and tail and enters ENABLED or records the refusal. -/
  | queueEnable (t : Nat) (queue : Fin 4096)
  /-- QUEUE_DISABLE (R365): DISABLE on an ENABLED or ERROR queue enters FLUSHING and flushes unstarted descriptors. -/
  | queueDisable (t : Nat) (queue : Fin 4096)
  /-- QUEUE_FLUSH_DONE (R365): Every fetched descriptor of a flushing queue has its completion record; the queue enters DISABLED. -/
  | queueFlushDone (t : Nat) (queue : Fin 4096)
  /-- DOORBELL_TAIL (R367): A TAIL write sets the queue's tail and starts fetching, or is ignored and counted. -/
  | doorbellTail (t : Nat) (queue : Fin 4096) (bytes value : Nat)
  /-- DOORBELL_CPL_HEAD (R370): A CPL_HEAD write frees completion entries, letting held records be written. -/
  | doorbellCplHead (t : Nat) (queue : Fin 4096) (value : Nat)
  /-- DESCRIPTOR_FETCH (R375): A descriptor is fetched into a reserved or free pool slot, or the queue waits and a stall is counted. -/
  | descriptorFetch (t : Nat) (queue : Fin 4096)
  /-- DESCRIPTOR_START (R377): A fetched descriptor starts once its predecessor started, its fence is met and its gate fired. -/
  | descriptorStart (t : Nat) (queue : Fin 4096)
  /-- WAIT_POLL (R382): At least every 1 µs a WAIT re-reads its location and completes when the value is reached. -/
  | waitPoll (t : Nat) (queue : Fin 4096) (index : Nat)
  /-- DESCRIPTOR_COMPLETE (R396): A descriptor ends; its writes are made visible and its completion record written, or held until ring space frees. -/
  | descriptorComplete (t : Nat) (queue : Fin 4096) (index : Nat)
  /-- IRQ_DELAY_EXPIRE (R390): The interrupt delay since the first unsignalled record passes and the queue's vector is raised. -/
  | irqDelayExpire (t : Nat) (queue : Fin 4096)
  /-- QUEUE_FAULT (R400): A fetch or completion write ends in UR, CA or timeout; the queue enters ERROR. -/
  | queueFault (t : Nat) (queue : Fin 4096) (fetch : Bool)
  /-- HBM_WINDOW_BASE_WRITE (R355): A write to HBM_WINDOW_BASE moves the BAR2 window when aligned to the window size, and is ignored otherwise. -/
  | hbmWindowBaseWrite (value : Half)
  /-- GL_EVENT_CAUSE_WRITE (R354): A write-1-to-clear of GL_EVENT_CAUSE clears cause bits. -/
  | glEventCauseWrite (value : Half)
  /-- GL_RB_CYCLE_LO_READ (R353): A read of GL_RB_CYCLE_LO returns the low cycle bits and latches the high bits and phase. -/
  | glRbCycleLoRead
  /-- BAR2_ACCESS (R356): A host access through BAR2 reaches HBM, or reads all ones and discards writes outside HBM, on a fenced stack or before readiness. -/
  | bar2Access (offset length : Nat) (write : Option (List Byte))
  /-- ENDPOINT_READY (R350): The endpoint becomes ready and stops answering configuration requests with retry status. -/
  | endpointReady (t : Nat) (width : Nat := 16) (rate : Nat := 640) (flitMode : Bool := true)
  /-- HOST_LINK_DOWN (R405): DL_Down while the package runs disables HOST_WORK queues, or requests a full reset, and ends the mailbox session. -/
  | hostLinkDown (t : Nat)
  /-- HOT_RESET (R408): A Hot Reset from the link partner requests a full reset held until the link leaves Hot Reset. -/
  | hotReset (t : Nat)
  /-- TILE_NOP (R669): Tile NOP retires. -/
  | tileNop (t : Nat) (tile : Fin 160)
  /-- END (R669): Ends the program on this tile; logical index 0 sets the exit word. -/
  | tileEnd (t : Nat) (tile : Fin 160)
  /-- STEP (R669): The tile waits at the step barrier for STEP_RELEASE and GATE_FIRED. -/
  | tileStep (t : Nat) (tile : Fin 160)
  /-- STEP_RELEASE (R624): Every tile has reached the barrier and the gate fired; flags and checkpoints are written, spares substituted and pages promoted. -/
  | stepRelease (t : Nat)
  /-- JMP (R669): PC += IMM × 16. -/
  | jmp (t : Nat) (tile : Fin 160)
  /-- BEQ (R669): Branches when S[RA] equals S[RB]. -/
  | beq (t : Nat) (tile : Fin 160)
  /-- BNE (R669): Branches when S[RA] differs from S[RB]. -/
  | bne (t : Nat) (tile : Fin 160)
  /-- BLT (R669): Branches when S[RA] < S[RB], signed. -/
  | blt (t : Nat) (tile : Fin 160)
  /-- BGE (R669): Branches when S[RA] ≥ S[RB], signed. -/
  | bge (t : Nat) (tile : Fin 160)
  /-- ADD (R669): S[RD] = S[RA] + S[RB]. -/
  | add (t : Nat) (tile : Fin 160)
  /-- SUB (R669): S[RD] = S[RA] − S[RB]. -/
  | sub (t : Nat) (tile : Fin 160)
  /-- AND (R669): S[RD] = S[RA] AND S[RB]. -/
  | and (t : Nat) (tile : Fin 160)
  /-- OR (R669): S[RD] = S[RA] OR S[RB]. -/
  | or (t : Nat) (tile : Fin 160)
  /-- XOR (R669): S[RD] = S[RA] XOR S[RB]. -/
  | xor (t : Nat) (tile : Fin 160)
  /-- SHL (R669): Logical left shift by S[RB] mod 64. -/
  | shl (t : Nat) (tile : Fin 160)
  /-- SHR (R669): Logical right shift by S[RB] mod 64. -/
  | shr (t : Nat) (tile : Fin 160)
  /-- ADDI (R669): S[RD] = S[RA] + sign-extended IMM. -/
  | addi (t : Nat) (tile : Fin 160)
  /-- LI (R669): S[RD] = sign-extended IMM. -/
  | li (t : Nat) (tile : Fin 160)
  /-- LD (R630): Loads 8 bytes at S[RA] + IMM into S[RD]. -/
  | ld (t : Nat) (tile : Fin 160)
  /-- ST (R630): Stores S[RB] at S[RA] + IMM. -/
  | st (t : Nat) (tile : Fin 160)
  /-- SYNC_SS (R553): Orders earlier stores before later stores. -/
  | syncSs (t : Nat) (tile : Fin 160)
  /-- SYNC_LL (R553): Orders earlier loads before later loads. -/
  | syncLl (t : Nat) (tile : Fin 160)
  /-- SYNC_SL (R553): Orders every earlier access before every later access. -/
  | syncSl (t : Nat) (tile : Fin 160)
  /-- FLAGRD (R503): Returns the tile's flag sets after earlier arithmetic retires. -/
  | flagrd (t : Nat) (tile : Fin 160)
  /-- FLAGSWP (R504): Returns and clears the tile's flag sets in one step. -/
  | flagswp (t : Nat) (tile : Fin 160)
  /-- FLAGCLR (R502): Clears the tile's flag sets. -/
  | flagclr (t : Nat) (tile : Fin 160)
  /-- MOV0 (R591): Issues the command at S[RA] to mover channel 0, stalling while it is full. -/
  | mov0 (t : Nat) (tile : Fin 160)
  /-- MOV1 (R591): Issues the command at S[RA] to mover channel 1, stalling while it is full. -/
  | mov1 (t : Nat) (tile : Fin 160)
  /-- MVWAIT0 (R671): Waits until mover channel 0 is idle. -/
  | mvwait0 (t : Nat) (tile : Fin 160)
  /-- MVWAIT1 (R671): Waits until mover channel 1 is idle. -/
  | mvwait1 (t : Nat) (tile : Fin 160)
  /-- MMA (R471): Dot product into an FP32 or INT32 accumulator. -/
  | mma (t : Nat) (tile : Fin 160)
  /-- MMA_WRITE (R486): Dot product written in FD with SD and coarse scales applied. -/
  | mmaWrite (t : Nat) (tile : Fin 160)
  /-- SETCS (R669): Sets CSA, CSB or CSD from IMM. -/
  | setcs (t : Nat) (tile : Fin 160)
  /-- VADD (R493): Elementwise addition. -/
  | vadd (t : Nat) (tile : Fin 160)
  /-- VMUL (R493): Elementwise multiplication. -/
  | vmul (t : Nat) (tile : Fin 160)
  /-- VFMA (R493): A × B + C with one rounding. -/
  | vfma (t : Nat) (tile : Fin 160)
  /-- VMIN (R495): Elementwise minimum. -/
  | vmin (t : Nat) (tile : Fin 160)
  /-- VMAX (R495): Elementwise maximum. -/
  | vmax (t : Nat) (tile : Fin 160)
  /-- VMINNUM (R495): Elementwise minimum number. -/
  | vminnum (t : Nat) (tile : Fin 160)
  /-- VMAXNUM (R495): Elementwise maximum number. -/
  | vmaxnum (t : Nat) (tile : Fin 160)
  /-- VSUB (R493): Elementwise subtraction. -/
  | vsub (t : Nat) (tile : Fin 160)
  /-- VCVT (R446): Converts FA to FD with one rounding. -/
  | vcvt (t : Nat) (tile : Fin 160)
  /-- VCVTS (R457): Scaled write to FD with SD and C_out = CSD. -/
  | vcvts (t : Nat) (tile : Fin 160)
  /-- QSUB (R670): Submits a 64-byte descriptor to a queue, or raises ACCESS_FAULT; suppressed when replaying. -/
  | qsub (t : Nat) (tile : Fin 160)
  /-- QWAIT (R671): Waits until an 8-byte word reaches S[RB]. -/
  | qwait (t : Nat) (tile : Fin 160)
  /-- WINDOW_OVERFLOW (R646): A CALL with seven windows occupied traps to 0x020 in MW7. -/
  | windowOverflow (t : Nat) (tile : Fin 160) (before : Nat)
  /-- WINDOW_UNDERFLOW (R648): A RETURN with one window and spilled windows traps to 0x030 in MW7. -/
  | windowUnderflow (t : Nat) (tile : Fin 160) (before : Nat)
  /-- RTT (R658): Return from trap reloads state from the frame and resumes at W15 of MW7. -/
  | rtt (t : Nat) (tile : Fin 160)
  /-- FAULT_TAKE (R652): An ILLEGAL_INSTRUCTION or ACCESS_FAULT writes the trap frame and enters the handler at 0x010. -/
  | faultTake (t : Nat) (tile : Fin 160)
  /-- INTERRUPT_TAKE (R657): A pending interrupt is taken at an interrupt point; the trap frame is written and the handler entered. -/
  | interruptTake (t : Nat) (tile : Fin 160) (raised : Nat)
  /-- STATION_RESUME (R661): Station firmware orders RESUME and the trap handler continues. -/
  | stationResume (t : Nat) (tile : Fin 160)
  /-- STATION_ABANDON (R661): Station firmware orders ABANDON and aborts the program with the fault's cause. -/
  | stationAbandon (t : Nat) (tile : Fin 160)
  /-- MICRO_MACHINE_CHECK (R643): A micro machine check stops the tile in hardware, fences it, records MICRO_MC and starts a step replay. -/
  | microMachineCheck (t : Nat) (tile : Fin 160) (found : MicroCheck)
  /-- CS_PATROL_READ (R642): Every 256 tile cycles a control-store row is read and checked; errors are corrected or machine-checked. -/
  | csPatrolRead (t : Nat) (tile : Fin 160) (flips : List Nat)
  /-- REPLAY_RESTART (R1076): Once channels stop and engines idle, a spare is substituted, every tile reloads from the checkpoint page and the step restarts. -/
  | replayRestart (t : Nat)
  /-- MEMORY_READ_ERROR (R523): A read finds a single-bit error (corrected and rewritten) or an uncorrectable one (poisoned and reported to the reader). -/
  | memoryReadError (t : Nat) (cellar : Bool) (addr : Nat) (uncorrectable : Bool) (reader : Reader)
  /-- MEMORY_PATROL (R525): The controller patrols each word of HBM and cellar once per patrol period, correcting single-bit errors. -/
  | memoryPatrol (t : Nat) (cellar : Bool) (errors : Nat)
  /-- MEM_CHANNEL_FAIL (R526): A controller reports a channel failure or the UE rate reaches its threshold; the stack or package is fenced and programs abort. -/
  | memChannelFail (t : Nat) (cellar : Bool) (unit : Nat) (channel : Bool)
  /-- BOX (R595): A channel starts a BOX transfer, optionally with WINDOW or TRANSPOSE_INNER. -/
  | box (t : Nat) (tile : Fin 160) (chan : Fin 2)
  /-- GATHER (R597): A channel gathers listed bricks into a stack of destination bricks. -/
  | gather (t : Nat) (tile : Fin 160) (chan : Fin 2)
  /-- SCATTER (R597): A channel scatters a stack of source bricks to listed bricks. -/
  | scatter (t : Nat) (tile : Fin 160) (chan : Fin 2)
  /-- PERMUTE (R607): A channel reorders the four axes element by element. -/
  | permute (t : Nat) (tile : Fin 160) (chan : Fin 2)
  /-- MOVER_COMMAND_COMPLETE (R556): A mover command's writes become visible and the channel signals completion. -/
  | moverCommandComplete (t : Nat) (tile : Fin 160) (chan : Fin 2)
  /-- PEER_ACCESS (R544): A MEM_REQ slab arrives; the lender serves it in its lend region or refuses it with PEER_REFUSED. -/
  | peerAccess (t borrower offset length : Nat) (write : Option (List Byte))
  /-- PEER_RESPONSE (R547): A MEM_RSP slab completes a peer access at the requester. -/
  | peerResponse (t access status : Nat) (data : List Byte)
  /-- LAYER (R729): A LAYER descriptor starts in submission order, checks its record and begins Score. -/
  | layer (t : Nat) (queue : Fin 4096)
  /-- LOAD_ROUTER (R724): Loads a router image into a weight plane of the arrays. -/
  | loadRouter (t : Nat) (queue : Fin 4096)
  /-- JUNCTION_FLAGS (R725): After earlier layers end, writes and optionally clears the Junction's flag set. -/
  | junctionFlags (t : Nat) (queue : Fin 4096)
  /-- SCORE_STAGE (R734): Tokens are scored on the arrays or read from the digital score table. -/
  | scoreStage (t : Nat)
  /-- SELECT_STAGE (R735): After Score completes, top-k experts are chosen and gate weights formed. -/
  | selectStage (t : Nat)
  /-- ADMIT_STAGE (R740): After Select completes, pairs are admitted or dropped in admission order and gates renormalised. -/
  | admitStage (t : Nat)
  /-- SORT_STAGE (R744): After Admit completes, pairs are sorted into destination lists, combine slots assigned and statistics written. -/
  | sortStage (t : Nat)
  /-- SHIP_STAGE (R749): After Sort completes, the lists are submitted as one EXCHANGE_V, or copied locally in Replica mode. -/
  | shipStage (t : Nat)
  /-- AWAIT_STAGE (R750): Ship's collective completes; v is written to READY_ADDR and unrouted rows zeroed. -/
  | awaitStage (t : Nat)
  /-- GATHER_STAGE (R753): The DONE word reaches v; Gather submits one EXCHANGE_ADD, or adds locally in Replica mode. -/
  | gatherStage (t : Nat)
  /-- RESTORE_STAGE (R755): A combine slot's vector completes and is written, through the Gather tap, to its token's row; the last row ends the layer. -/
  | restoreStage (t : Nat)
  /-- TAP_REPLY (R760): A tap reply arrives and is applied, rejected as invalid, or found to break protocol. -/
  | tapReply (t : Nat) (tap : Fin 4) (words : List Nat)
  /-- TAP_TIMEOUT (R762): A tap item is not accepted or answered within the tap timeout; items default, taps bypass and the lot is fenced. -/
  | tapTimeout (t : Nat) (tap : Fin 4)
  /-- ARRAY_TEMP_DRIFT (R712): An array's temperature moves beyond RECAL_DELTA; it is marked CAL_DUE. -/
  | arrayTempDrift (t : Nat) (array : Fin 32) (temp : Int)
  /-- RECALIBRATION_START (R713): With no Score stage running, one CAL_DUE array starts recalibrating. -/
  | recalibrationStart (t : Nat) (array : Fin 32)
  /-- RECALIBRATION_COMPLETE (R715): A recalibration ends after 120 µs; the array returns READY or becomes FAILED_RECAL and is fenced. -/
  | recalibrationComplete (t : Nat) (array : Fin 32) (passed : Bool)
  /-- PLANE_REFRESH (R716): Every refresh period each loaded plane is rewritten from its image when no Score stage uses it. -/
  | planeRefresh (t : Nat) (plane : Fin 2)
  /-- SLAB_SEND (R790): An output port sends a slab chosen by VC arbitration when credits permit. -/
  | slabSend (t : Nat) (port : Fin 16)
  /-- SLAB_RECEIVE (R784): A slab arrives; the link layer accepts it once, discards duplicates, sends NAKs, returns credits and passes it to the switch. -/
  | slabReceive (t : Nat) (port : Fin 16) (bytes : List Byte) (corrected uncorrectable : Nat)
  /-- SLAB_FORWARD (R806): The switch routes a transit slab by dimension order, skips, twins and detours, or discards it. -/
  | slabForward (t : Nat)
  /-- ACK_TIMEOUT (R787): A slab is unacknowledged for 2 µs; a replay starts, or RETRAINING on the eighth. -/
  | ackTimeout (t : Nat) (port : Fin 16)
  /-- REPLAY_BUDGET_EXPIRE (R788): 20 µs pass after the first replay without acknowledgement; the port retrains. -/
  | replayBudgetExpire (t : Nat) (port : Fin 16)
  /-- FEC_LOCK_LOSS (R796): A lane loses FEC lock for 1 µs; the port retrains. -/
  | fecLockLoss (t : Nat) (port : Fin 16)
  /-- WIDTH8_ATTEMPT_EXPIRE (R797): A retrain fails at width 8 within 1.0 ms and tries width 4. -/
  | width8AttemptExpire (t : Nat) (port : Fin 16)
  /-- RETRAIN_COMPLETE (R798): A retrain succeeds with replay state intact; PORT_INFO is exchanged and replay follows. -/
  | retrainComplete (t : Nat) (port : Fin 16) (width : Nat)
  /-- RETRAIN_TIMEOUT (R800): A retrain fails within 2 ms or the retrain rate exceeds its limit; the port is FAILED and LINK_DOWN sent. -/
  | retrainTimeout (t : Nat) (port : Fin 16)
  /-- PORT_INFO_REPEAT (R799): Every 10 µs a port repeats its PORT_INFO until the partner's arrives. -/
  | portInfoRepeat (t : Nat) (port : Fin 16)
  /-- FAILED_PORT_RETRY (R801): The retry period passes; a FAILED port attempts initial training. -/
  | failedPortRetry (t : Nat) (port : Fin 16)
  /-- PORT_TRAIN_START (R794): A port with a cable begins training, or its partner begins training. -/
  | portTrainStart (t : Nat) (port : Fin 16)
  /-- LANES_SILENT (R802): A port whose partner sent a departure notice falls silent and enters PARTNER_LEFT. -/
  | lanesSilent (t : Nat) (port : Fin 16)
  /-- INJECTOR_TRIGGER (R828): An armed injector's trigger condition is met and injection begins. -/
  | injectorTrigger (t : Nat) (port : Fin 16)
  /-- REORDER_HOLD_EXPIRE (R826): A slab held by REORDER for 10 µs with no successor passes alone. -/
  | reorderHoldExpire (t : Nat) (port : Fin 16)
  /-- ARM_HELLO_TIMER (R838): Every 1 ms in ARMING the sled sends ARM_HELLO to every other member. -/
  | armHelloTimer (t group : Nat)
  /-- ARM_HELLO (R839): An ARM_HELLO arrives; matching CRCs advance arming to ARMED and an armed epoch-0 member answers. -/
  | armHello (t : Nat)
  /-- ARM_TIMEOUT (R840): A group still ARMING after the arm limit returns to DEFINED. -/
  | armTimeout (t group : Nat)
  /-- EXCHANGE (R849): Sends SIZE bytes to each member and receives theirs, by stream or by alley. -/
  | exchange (t group : Nat)
  /-- EXCHANGE_V (R850): Sends capacity-bounded record lists to each member, padding unfilled places. -/
  | exchangeV (t group : Nat)
  /-- EXCHANGE_ADD (R853): Sends contributions to slots that the destination adds in fixed pair order. -/
  | exchangeAdd (t group : Nat)
  /-- HAMPER_PLACE_FREED (R866): Channel 1 writes received slabs to DST; freed places are granted to sources in round robin. -/
  | hamperPlaceFreed (t group : Nat)
  /-- FINISHED (R879): A FINISHED with matching CRC arrives; with all of them the collective enters DONE. -/
  | finished (t : Nat)
  /-- PROGRESS (R881): A PROGRESS message restarts the collective's watchdog. -/
  | progress (t : Nat)
  /-- GRANT (R865): A GRANT raises the stream position below which the source may send. -/
  | grant (t : Nat)
  /-- WINDOW (R874): A WINDOW raises the slot limit below which the source may send contributions. -/
  | window (t : Nat)
  /-- ABORT (R885): An ABORT aborts the collective with its cause and the group enters REFORMING. -/
  | abort (t : Nat)
  /-- REFORM (R891): A REFORM updates the proposal; with matching REFORMs from all proposed members the group is ARMED under the new epoch. -/
  | reform (t : Nat)
  /-- LEAVE (R887): A LEAVE makes its sender lost to the group. -/
  | leave (t : Nat)
  /-- PROGRESS_TIMER (R882): At the end of each 1 ms with slab movement the member sends PROGRESS. -/
  | progressTimer (t group : Nat)
  /-- WATCHDOG_EXPIRE (R883): A collective's watchdog runs its WATCHDOG time without restart; the collective aborts with TIMEOUT. -/
  | watchdogExpire (t group : Nat)
  /-- REFORM_RESEND (R890): Every 1 ms in REFORMING the sled resends REFORM. -/
  | reformResend (t group : Nat)
  /-- REFORM_TIMEOUT (R893): A group still REFORMING after the limit becomes DEFINED with REFORM_FAIL. -/
  | reformTimeout (t group : Nat)
  /-- FABRIC_NOP (R936): FABRIC NOP completes at once. -/
  | fabricNop (t : Nat) (queue : Fin 4096)
  /-- PUSH (R936): Moves words from HBM into a STREAM_IN queue controller, or is refused. -/
  | push (t : Nat) (queue : Fin 4096) (index taken : Nat)
  /-- PULL (R936): Moves words from a STREAM_OUT controller into HBM, or is refused. -/
  | pull (t : Nat) (queue : Fin 4096) (index : Nat) (words : List Nat)
  /-- FEED_SUBMIT (R934): A FEED controller gathers 16 words and submits them as a descriptor to a FABRIC queue. -/
  | feedSubmit (t : Nat) (ctrl : Fin 128) (words : List Nat)
  /-- QC_STALL (R935): A controller under PUSH or PULL waits for the stall limit; the descriptor aborts and the lot is fenced. -/
  | qcStall (t : Nat) (ctrl : Fin 128)
  /-- FABRIC_BROWNOUT (R921): FAB_VDD stays below 0.55 V for 1 µs; every lot of the chiplet is fenced. -/
  | fabricBrownout (t : Nat) (chip : Fin 4)
  /-- IOB_FAULT (R949): IOBn_VCC leaves its band for 10 µs; the bank enters FAULT and its pads float. -/
  | iobFault (t : Nat) (bank : Fin 4)
  /-- SER_LANE_LOCK (R953): A receiving lane gains lock after a valid signal or loses it after 1 µs without transitions. -/
  | serLaneLock (t : Nat) (bank : Fin 4) (lane : Fin 8) (locked : Bool)
  /-- TEST_LOGIC_RESET (R960): Test-Logic-Reset or TRST_N selects IDCODE on every TAP, aborts a load in progress and applies a pending test-port source. -/
  | testLogicReset (t : Nat) (ext : Bool)
  /-- BYPASS (R962): Selects the 1-bit bypass register; `code` is its own code or one that the TAP does not list. -/
  | bypass (t : Nat) (ext : Bool) (tap : Fin 5) (code : Nat := 0xFF)
  /-- IDCODE (R962): Selects the identification register. -/
  | idcode (t : Nat) (ext : Bool) (tap : Fin 5)
  /-- SAMPLE_PRELOAD (R962): Samples or preloads the boundary register. -/
  | samplePreload (t : Nat) (ext : Bool) (tap : Fin 5) (pins preload : Nat)
  /-- EXTEST (R964): Drives pads from the boundary register when every lot of the chiplet is CLEAR, HELD or FENCED. -/
  | extest (t : Nat) (ext : Bool) (tap : Fin 5) (pins drive : Nat)
  /-- CFG_LOAD (R977): Shifts a lot section into the load engine, which checks and writes accepted frames. -/
  | cfgLoad (t : Nat) (ext : Bool) (chip : Fin 4) (words : List Nat)
  /-- CFG_STATUS (R981): Captures the load engine's status. -/
  | cfgStatus (t : Nat) (ext : Bool) (chip : Fin 4)
  /-- CFG_READBACK (R982): Captures a named configuration frame when readback is permitted. -/
  | cfgReadback (t : Nat) (ext : Bool) (chip : Fin 4) (select : Nat)
  /-- SCAN_ENABLE (R1024): Selects the scan control register under the sweep conditions. -/
  | scanEnable (t : Nat) (ext : Bool) (tap : Fin 5) (shift : Nat) (isolated : Bool)
  /-- SWEEP_REPORT (R1046): Captures the first 128 bytes of the stored verdict. -/
  | sweepReport (t : Nat) (ext : Bool)
  /-- SECTION_VERIFY_COMPLETE (R980): The signature check after a trailer completes; the lot becomes HELD or CLEAR, or the load fails. -/
  | sectionVerifyComplete (t : Nat) (chip : Fin 4)
  /-- FULL_LOAD_COMPLETE (R989): Every section of a full load has passed; lots without HOLD_AFTER_LOAD are released together. -/
  | fullLoadComplete (t : Nat)
  /-- DEFERRED_LOT_COMMAND (R984): A held lot command or full load waiting for a layer to end proceeds when it ends. -/
  | deferredLotCommand (t : Nat)
  /-- SCRUB_PASS_START (R996): Every 40 ms the scrubber starts a pass with the sentinel frame. -/
  | scrubPassStart (t : Nat) (chip : Fin 4) (sentinelOk : Bool)
  /-- SCRUB_FRAME_READ (R998): A frame read every 3.0 µs is compared with its golden entry and corrected, fenced or reloaded by policy. -/
  | scrubFrameRead (t : Nat) (chip : Fin 4) (flips : List Nat)
  /-- VOTE_RESTORE (R1002): An upset in a triple-voted register or a single-bit golden-entry error is corrected and counted. -/
  | voteRestore (t : Nat) (chip : Fin 4) (upset : ScrubUpset)
  /-- SWEEP_SLOT (R1011): The stagger slot fires; the sweep is skipped by its conditions or the draw ramps toward the sweep level. -/
  | sweepSlot (t : Nat) (east west : Int)
  /-- SWEEP_PHASE_COMPLETE (R1038): A sweep phase finishes and the next starts; the last stores the verdict and clears passed fences. -/
  | sweepPhaseComplete (t : Nat) (res : TestResults) (storeOk : Bool) (margin : TestResults := {})
  /-- SWEEP_WINDOW_CHECK (R1036): Every 1 ms the input voltage and die temperatures are checked and the sweep abandoned on failure. -/
  | sweepWindowCheck (t : Nat) (east west : Int)
  /-- SWEEP_DESCENT (R1021): The descent slot fires; the ordered shutdown resumes from its descent step. -/
  | sweepDescent (t : Nat)
  /-- LOG_COMMIT (R1059): Buffered records are committed as a batch within 100 ms of forming, or the batch fails and is retried. -/
  | logCommit (t : Nat) (storeOk : Bool)
  /-- REPEAT_WINDOW_END (R1061): A repeat window ends; a SUMMARY record is formed when occurrences were folded. -/
  | repeatWindowEnd (t cause unitType unit : Nat)
  /-- STATION_WATCHDOG_EXPIRE (R1068): A station core's heartbeat is unchanged for the watchdog time, or it machine-checks; the core is fenced. -/
  | stationWatchdogExpire (t : Nat) (core : Fin 4) (machineCheck : Bool)
  /-- UNIT_WEDGED (R1083): An unfenceable unit fails to advance for the wedge limit; SLED_FATAL is raised. -/
  | unitWedged (t : Nat) (unit : WedgeUnit) (waitedNs : Nat)
  /-- BRIDGE_FAIL (R35): The die-to-die bridge fails; SLED_FATAL is raised. -/
  | bridgeFail (t : Nat)
  /-- ENGINE_OPERATION_COMPLETE (R662): A matrix or vector operation issued earlier finishes, writes its result and sets its flags, retiring for FLAGRD and interlocks. -/
  | engineOperationComplete (t : Nat) (tile : Fin 160)
  /-- PORT_LANES_TRAINED (R774): A port's lanes finish initial training at width 8 or width 4, sequence numbers start from 0 and PORT_INFO exchange begins. -/
  | portLanesTrained (t : Nat) (port : Fin 16) (width : Nat)
  /-- CABLE_PRESENCE_CHANGE (R193): A link cage starts or stops reporting a cable, moving the port into or out of NO_CABLE. -/
  | cablePresenceChange (t : Nat) (port : Fin 16) (present : Bool)
  /-- HOT_RESET_EXIT (R408): The host link leaves Hot Reset, ending that hold on a package in RESET_HELD. -/
  | hotResetExit (t : Nat)
  /-- LATCH_CLOSE (R1099): The ejector latch closes; LATCH_OPEN clears and any departure request stands. -/
  | latchClose (t : Nat)
  /-- IOB_VCC_GOOD (R945): A bank's IOBn_VCC reaches its setting and the bank moves from RAMPING to GOOD. -/
  | iobVccGood (t : Nat) (bank : Fin 4)
  /-- PLCA_BEACON_CHANGE (R292): The PHY starts or stops hearing PLCA BEACONs, switching the sled between PLCA and CSMA/CD and letting a listening candidate yield. -/
  | plcaBeaconChange (t : Nat) (heard : Bool)
  /-- ICMPV6_MESSAGE (R293): An ICMPv6 echo request or neighbour-discovery message arrives and is answered or applied. -/
  | icmpv6Message (t : Nat) (src : NetSource) (message : List Byte)
  deriving DecidableEq, Repr

end Sys2Proof
end

