-- ==== Sys2Proof/Decode.lean ====
section
/-! DEFINITION. The commands that a word of spec/opcode_table.json spells.  The table gives no row any bits, so no word
spells a command: commands reach the block as the queue's elements. -/

namespace Sys2Proof

/-- The command whose bits, as the table numbers them, are `w`: none, for the table gives no bits. -/
def decodeTableWord (_nbits _w : Nat) : Option Instr := none

end Sys2Proof
end

