-- ==== Sys2Proof/Config.lean ====
section
/-! DEFINITION. What one sled fixes and the spec leaves open: constants and free values.  Each is an
opaque constant: nothing in Lean can evaluate it, so every claim holds whatever its value is. -/

namespace Sys2Proof.Config

/-- A value the spec leaves open, taken fresh each time by the state's counter (log entry 2). -/
opaque freeValue : Nat → Nat
/-- Byte i of a destination that the n-th abort leaves undefined (R888): a free value. -/
opaque undefinedByte : Nat → Nat → Byte
/-- Whether an adder's independent units disagree with it at the n-th evaluation they check (R876): a free value. -/
opaque adderDisagrees : Nat → Bool

/-- Identity data fixed at manufacture (R281): serial number, EUI-64, public key, day. -/
opaque serialNumber : List Byte
opaque eui64 : Nat
opaque identityKey : List Byte
opaque manufactureDay : Nat
/-- The factory credential of slot 1 (R332). -/
opaque factoryCredential : List Byte

/-- HMAC-SHA-256 of a cited standard: key and message give 32 bytes (R333, R334). -/
opaque hmacSha256 : List Byte → List Byte → List Byte
/-- The 48-bit link-layer address of the field network's interface: the spec names none (log entry 128). -/
opaque linkAddress : Nat
/-- WAKE bits that a sled acting as coordinator sends in the beacon of a cycle: the spec names no source for them
(log entry 129). -/
opaque wakeBits : Nat → Nat
/-- The context of FIRMWARE queue Q4064 + n, which is not published: descriptor ring and completion ring in HBM, divided by
64 and by 32, and ring size code (R359, log entry 137). -/
opaque firmwareRing : Nat → Nat
opaque firmwareCpl : Nat → Nat
opaque firmwareSize : Nat → Nat
/-- The sled nonce of an accepted session, by session number (R333). -/
opaque sledNonce : Nat → List Byte
/-- ECDSA P-384 signature by the device identity key, 96 bytes (R335). -/
opaque identitySignature : List Byte → List Byte
/-- ECDSA P-384 verification: key, signed bytes, signature (R284, R979). -/
opaque verifySignature : List Byte → List Byte → List Byte → Bool
/-- Marulo's image key (R284). -/
opaque imageKey : List Byte
/-- SHA-256 of a cited standard. -/
opaque sha256 : List Byte → List Byte

/-- The microcode section of a station image's bytes: 4,096 words of 20 bytes, word 0 first (R615); the place of the section in
the image is not published (log entry 79). -/
opaque microSection : List Byte → List Byte

/-- The mode code, 0 to 15, that a lot's configuration memory gives its controller q (R932): the bits of a type-1
frame have no published places (log entry 40). -/
opaque qcMode : List (Nat × Byte) → Nat → Nat
/-- Pads that a type-1 frame claims, by frame index and contents (R947, log entry 40). -/
opaque frameClaims : Nat → List Byte → Nat
/-- Serialiser lanes that a type-1 frame enables (R946, log entry 40). -/
opaque frameLanes : Nat → List Byte → Nat
/-- Those of them that it makes transmitters (R950, log entry 40). -/
opaque frameLanesTx : Nat → List Byte → Nat
/-- A type-1 frame holds memory aspect code 7 (R925, log entry 40). -/
opaque frameAspect7 : Nat → List Byte → Bool
/-- Aspect code of lot memory m (R925, log entry 40). -/
opaque memAspect : List (Nat × Byte) → Nat → Nat

/-- What a wire of a lot's routing comes from: a cell's output, the acknowledge of a stage's completion tree, a kerb channel
that enters over the border to lot j XOR 1 or j XOR 2 with what the neighbour sends or acknowledges on it, or a port of hard
logic, that is a queue controller, a lot memory, a lane or a pad (R907, R909, R916). -/
inductive FabricWire where
  | cell (n : Nat)
  | ack (stage : Nat)
  | kerb (border : Bool) (chan : Nat)
  | kerbAck (border : Bool) (chan : Nat)
  | port
  deriving DecidableEq, Repr, Inhabited

/-- What a lot's configuration memory says of cell n (R909, R911, log entry 40): its 64-bit table, its C-element's reset value,
that the output bypasses the C-element, how many dual-rail inputs the pair to which it belongs has (none: it belongs to no
pair), where its input i comes from, and the cell that gives the rail t (false) or f (true) of its bit. -/
opaque cellTable : List (Nat × Byte) → Nat → Nat
opaque cellReset : List (Nat × Byte) → Nat → Bool
opaque cellBypass : List (Nat × Byte) → Nat → Bool
opaque cellPair : List (Nat × Byte) → Nat → Option Nat
opaque cellSource : List (Nat × Byte) → Nat → Nat → FabricWire
opaque cellRail : List (Nat × Byte) → Nat → Bool → Nat
/-- The C-element of a cell outside a pair: its next output from the table's output, the six inputs and the output it holds;
the spec names no second input of it (log entry 40). -/
opaque cellElement : Bool → Nat → Bool → Bool
/-- The bits over which stage n's completion tree looks, as the cells of their t and f rails (R909, R913, log entry 40). -/
opaque stageBits : List (Nat × Byte) → Nat → List (Nat × Nat)
/-- What a lot sends over kerb channel c of a border, and the stage that acknowledges what arrives on it (R907, log entry 40). -/
opaque kerbDriver : List (Nat × Byte) → Bool → Nat → Option Nat
opaque kerbStage : List (Nat × Byte) → Bool → Nat → Option Nat
/-- The cell that drives a pad of the lot's chiplet, if any does (R947, log entry 40). -/
opaque padDriver : List (Nat × Byte) → Nat → Option Nat

/-- A reading of the environment, by entry key and local time: temperatures, handshake times, probe counts
(log entry 41). -/
opaque measured : Nat → Nat → Nat

/-- The fuse record (R33, R185, R513, R1040): tiles that manufacture fused off, and the 32 digest bytes. -/
opaque fusedOff : Nat → Bool
opaque fuseDigest : List Byte
/-- Gain, offset and delay trims of an array, 258 bytes, and its residual in 0.1 code step, as a sweep at a local time
finds them (R1040). -/
opaque arrayTrims : Nat → Nat → List Byte
opaque arrayResidual : Nat → Nat → Nat

end Sys2Proof.Config
end

