-- ==== Sys2Proof/Machine/Bits.lean ====
section
/-! DEFINITION. Tables in one canonical form, byte order (R16), CRC-32C (R778) and the small integer
helpers that every unit uses. -/

namespace Sys2Proof.Machine

/-- A sparse table: (key, value) pairs with keys strictly rising.  Every memory of the machine and every
numbered collection of units is one; a key that is not listed reads as the table's own default. -/
abbrev Tab (α : Type) := List (Nat × α)

/-- Reading key `k`: the listed value, or the default `d`. -/
def tabGet {α : Type} (d : α) (k : Nat) : Tab α → α
  | [] => d
  | (j, v) :: t => if j = k then v else tabGet d k t

/-- Listing `v` at `k` (keys kept rising). -/
def tabInsert {α : Type} (k : Nat) (v : α) : Tab α → Tab α
  | [] => [(k, v)]
  | (j, w) :: t =>
    if k < j then (k, v) :: (j, w) :: t
    else if k = j then (k, v) :: t
    else (j, w) :: tabInsert k v t

/-- Dropping key `k`. -/
def tabErase {α : Type} (k : Nat) : Tab α → Tab α
  | [] => []
  | (j, w) :: t => if j = k then tabErase k t else (j, w) :: tabErase k t

/-- Writing `v` at `k`: the canonical form lists no entry equal to the default. -/
def tabPut {α : Type} [DecidableEq α] (d : α) (k : Nat) (v : α) (t : Tab α) : Tab α :=
  if v = d then tabErase k t else tabInsert k v t

/-- Keys strictly rising from `lo`, and no entry equal to the default. -/
def tabWfFrom {α : Type} [DecidableEq α] (d : α) : Nat → Tab α → Bool
  | _, [] => true
  | lo, (j, v) :: t => decide (lo ≤ j) && decide (v ≠ d) && tabWfFrom d (j + 1) t

/-- The canonical form of a table. -/
def tabWf {α : Type} [DecidableEq α] (d : α) (t : Tab α) : Bool := tabWfFrom d 0 t

/-- A byte memory: (address, byte) pairs; an unlisted address reads zero. -/
abbrev Memory := List Host.Cell

/-- The canonical form of a memory. -/
def Memory.wf (m : Memory) : Bool := tabWf (0 : Byte) m

/-- One byte of memory. -/
def memGet (m : Memory) (a : Nat) : Byte := tabGet 0 a m

/-- Writing one byte of memory. -/
def memPut (m : Memory) (a : Nat) (b : Byte) : Memory := tabPut 0 a b m

/-- `n` bytes from address `a`, lowest address first. -/
def memRead (m : Memory) (a : Nat) : Nat → List Byte
  | 0 => []
  | n + 1 => memGet m a :: memRead m (a + 1) n

/-- Writing bytes from address `a` upward. -/
def memWrite (m : Memory) (a : Nat) : List Byte → Memory
  | [] => m
  | b :: bs => memWrite (memPut m a b) (a + 1) bs

/-- The unsigned value of bytes, least significant first (R16). -/
def leNat : List Byte → Nat
  | [] => 0
  | b :: bs => b.toNat + 256 * leNat bs

/-- The `n` low bytes of a value, least significant first (R16). -/
def natLe (v : Nat) : Nat → List Byte
  | 0 => []
  | n + 1 => BitVec.ofNat 8 v :: natLe (v / 256) n

/-- An unsigned field of `n` bytes at offset `o` of a byte string. -/
def field (bs : List Byte) (o n : Nat) : Nat := leNat ((bs.drop o).take n)

/-- Bits [hi:lo] of a value (R15). -/
def bits (v hi lo : Nat) : Nat := (v / 2 ^ lo) % 2 ^ (hi + 1 - lo)

/-- Bit `i` of a value. -/
def bit (v i : Nat) : Bool := (v / 2 ^ i) % 2 == 1

/-- 1 for true, shifted to bit `i`. -/
def flag (b : Bool) (i : Nat) : Nat := if b then 2 ^ i else 0

/-- Two's complement of an integer in `n` bytes. -/
def intLe (v : Int) (n : Nat) : List Byte := natLe (v % (2 ^ (8 * n) : Int)).toNat n

/-- The signed value of an unsigned `w`-bit value. -/
def signed (v w : Nat) : Int := if v < 2 ^ (w - 1) then (v : Int) else (v : Int) - (2 ^ w : Int)

/-- A byte string cut or zero-filled to `n` bytes. -/
def padTo (bs : List Byte) (n : Nat) : List Byte := (bs ++ List.replicate (n - bs.length) 0).take n

/-- Zero padding up to the next multiple of 4 (R245, R247). -/
def pad4 (bs : List Byte) : List Byte := bs ++ List.replicate ((4 - bs.length % 4) % 4) 0

/-- Serial order on `w` bits: `n` is newer than `h` when the distance lies from 1 to 2^(w-1) - 1. -/
def serialNewer (w n h : Nat) : Bool :=
  let d := (n + 2 ^ w - h % 2 ^ w) % 2 ^ w
  decide (1 ≤ d) && decide (d ≤ 2 ^ (w - 1) - 1)

/-- One bit of the reflected CRC-32C register. -/
def crcBit (c : Nat) : Nat := if c % 2 = 1 then (c / 2) ^^^ 0x82F63B78 else c / 2

/-- One byte of the reflected CRC-32C register. -/
def crcByte (c : Nat) (b : Byte) : Nat :=
  let x := c ^^^ b.toNat
  crcBit (crcBit (crcBit (crcBit (crcBit (crcBit (crcBit (crcBit x)))))))

/-- CRC-32C over a byte string, from a register value (R778). -/
def crcFrom : Nat → List Byte → Nat
  | c, [] => c
  | c, b :: bs => crcFrom (crcByte c b) bs

/-- CRC-32C over a byte string: initial value and final inversion all ones (R778). -/
def crc32c (bs : List Byte) : Nat := (crcFrom 0xFFFFFFFF bs) ^^^ 0xFFFFFFFF

/-- The first index at which a test holds. -/
def findIdx {α : Type} (p : α → Bool) : List α → Option Nat
  | [] => none
  | a :: as => if p a then some 0 else (findIdx p as).map (· + 1)

/-- Replacing element `i` by its image. -/
def modIdx {α : Type} (i : Nat) (f : α → α) : List α → List α
  | [] => []
  | a :: as => match i with
    | 0 => f a :: as
    | j + 1 => a :: modIdx j f as

/-- Summing a function over the numbers below `n`. -/
def sumTo : Nat → (Nat → Nat) → Nat
  | 0, _ => 0
  | n + 1, f => sumTo n f + f n

/-- How many numbers below `n` pass a test. -/
def countTo (n : Nat) (p : Nat → Bool) : Nat := sumTo n fun i => if p i then 1 else 0

/-- The lowest number below `n` (from `i`, with `n` numbers to try) that passes a test. -/
def firstFrom : Nat → Nat → (Nat → Bool) → Option Nat
  | 0, _, _ => none
  | n + 1, i, p => if p i then some i else firstFrom n (i + 1) p

/-- Applying a state change for every number of a list, in order. -/
def forEach {σ α : Type} (f : α → σ → σ) : List α → σ → σ
  | [], s => s
  | a :: as, s => forEach f as (f a s)

end Sys2Proof.Machine
end

