-- ==== Sys2Proof/Machine/Dict.lean ====
section
/-! DEFINITION. The object dictionary's entries, transcribed from the object tables of the chapters (R222,
R237, R280): index and subindex range, type, access, default, range, and the saved and authorised marks.
Ranges that are no interval, and defaults that differ along an array, stand in Kiosk.lean and below. -/

namespace Sys2Proof.Machine

/-- Entry types with their DESCRIBE codes (chapter 05, Types and encodings). -/
inductive ObjType where
  | boolean | int8 | int16 | int32 | int64 | u8 | u16 | u32 | u64 | real32
  | string (n : Nat) | octets (n : Nat) | domain (max : Nat)
  deriving DecidableEq, Repr

/-- Access column (R228). -/
inductive Access where
  | ro | wo | rw
  deriving DecidableEq, Repr

/-- One row of an object table. -/
structure Entry where
  idxLo : Nat
  idxHi : Nat
  subLo : Nat
  subHi : Nat
  ty : ObjType
  acc : Access
  dflt : Nat := 0
  lo : Nat := 0
  hi : Nat := 0
  mult : Nat := 1
  saved : Bool := false
  auth : Bool := false
  deriving DecidableEq, Repr

/-- The entries of chapter 00. -/
def rowsScope : List Entry := [
  ⟨0xF000, 0xF000, 0, 0, .u16, .ro, 34368, 0, 65535, 1, false, false⟩,  -- FAMILY_MEMBER
  ⟨0xF001, 0xF001, 0, 0, (.string 4), .ro, 0, 0, 0, 1, false, false⟩,  -- HW_REVISION
  ⟨0xF010, 0xF010, 0, 0, .u16, .ro, 160, 0, 65535, 1, false, false⟩,  -- TILES_PHYSICAL
  ⟨0xF011, 0xF011, 0, 0, .u16, .ro, 144, 0, 65535, 1, false, false⟩,  -- TILES_ACTIVE_MAX
  ⟨0xF012, 0xF012, 0, 0, .u8, .ro, 8, 0, 255, 1, false, false⟩,  -- HBM_STACKS
  ⟨0xF013, 0xF013, 0, 0, .u32, .ro, 288, 0, 4294967295, 1, false, false⟩,  -- HBM_CAPACITY
  ⟨0xF014, 0xF014, 0, 0, .u32, .ro, 512, 0, 4294967295, 1, false, false⟩,  -- CELLAR_CAPACITY
  ⟨0xF015, 0xF015, 0, 0, .u8, .ro, 16, 0, 255, 1, false, false⟩,  -- LINK_PORTS
  ⟨0xF016, 0xF016, 0, 0, .u8, .ro, 32, 0, 255, 1, false, false⟩,  -- SCORING_ARRAYS
  ⟨0xF017, 0xF017, 0, 0, .u8, .ro, 16, 0, 255, 1, false, false⟩,  -- FABRIC_LOTS
  ⟨0xF018, 0xF018, 0, 0, .u16, .ro, 4096, 0, 65535, 1, false, false⟩,  -- QUEUES
  ⟨0xF019, 0xF019, 0, 0, .u16, .ro, 1600, 0, 65535, 1, false, false⟩]  -- MAIN_POWER_MAX

/-- The entries of chapter 02. -/
def rowsRoundabout : List Entry := [
  ⟨0x2000, 0x2000, 0, 0, .u8, .ro, 0, 0, 255, 1, false, false⟩,  -- RB_STATE
  ⟨0x2001, 0x2001, 0, 0, .u16, .ro, 64, 0, 65535, 1, false, false⟩,  -- RB_FLAGS
  ⟨0x2002, 0x2002, 0, 0, .u64, .ro, 0, 0, 18446744073709551615, 1, false, false⟩,  -- RB_CYCLE
  ⟨0x2003, 0x2003, 0, 0, .u16, .ro, 0, 0, 65535, 1, false, false⟩,  -- RB_PHASE
  ⟨0x2004, 0x2004, 0, 0, .u32, .ro, 0, 0, 4294967295, 1, false, false⟩,  -- RB_PERIOD_EST
  ⟨0x2005, 0x2005, 0, 0, .int16, .ro, 0, 0, 16, 1, false, false⟩,  -- RB_PHASE_ERROR
  ⟨0x2006, 0x2006, 0, 0, .u32, .ro, 0, 0, 4294967295, 1, false, false⟩,  -- RB_FREEWHEEL_CYCLES
  ⟨0x2007, 0x2007, 0, 0, .int32, .ro, 0, 0, 32, 1, false, false⟩,  -- RB_BEACON_DELTA
  ⟨0x2010, 0x2010, 0, 0, .u16, .rw, 0, 0, 4095, 1, true, false⟩,  -- RB_REF_PHASE_OFFSET
  ⟨0x2011, 0x2011, 0, 0, .u8, .rw, 0, 0, 2, 1, true, false⟩,  -- RB_FORM_SELECT
  ⟨0x2012, 0x2012, 0, 0, .u32, .rw, 2000000, 1538462, 2222222, 1, true, false⟩,  -- RB_NOMINAL_PERIOD
  ⟨0x2013, 0x2013, 0, 0, .u8, .ro, 16, 0, 255, 1, false, false⟩,  -- RB_SLEW_MAX
  ⟨0x2020, 0x2020, 0, 0, .u8, .ro, 6, 0, 255, 1, false, false⟩,  -- RB_COUNTERS
  ⟨0x2020, 0x2020, 1, 1, .u32, .ro, 0, 0, 4294967295, 1, false, false⟩,  -- CROSSINGS
  ⟨0x2020, 0x2020, 2, 2, .u32, .ro, 0, 0, 4294967295, 1, false, false⟩,  -- GLITCHES
  ⟨0x2020, 0x2020, 3, 3, .u32, .ro, 0, 0, 4294967295, 1, false, false⟩,  -- MISSED
  ⟨0x2020, 0x2020, 4, 4, .u32, .ro, 0, 0, 4294967295, 1, false, false⟩,  -- LOSSES
  ⟨0x2020, 0x2020, 5, 5, .u32, .ro, 0, 0, 4294967295, 1, false, false⟩,  -- LATE_EVENTS
  ⟨0x2020, 0x2020, 6, 6, .u32, .ro, 0, 0, 4294967295, 1, false, false⟩]  -- CYCLE_STEPS

/-- The entries of chapter 03. -/
def rowsGovernor : List Entry := [
  ⟨0x2100, 0x2100, 0, 0, .u8, .ro, 0, 0, 255, 1, false, false⟩,  -- GOV_STATE
  ⟨0x2101, 0x2101, 0, 0, .u16, .ro, 0, 0, 65535, 1, false, false⟩,  -- GOV_FLAGS
  ⟨0x2102, 0x2102, 0, 0, .u16, .ro, 0, 0, 65535, 1, false, false⟩,  -- INPUT_VOLTAGE
  ⟨0x2103, 0x2103, 0, 0, .u16, .ro, 0, 0, 65535, 1, false, false⟩,  -- INPUT_POWER
  ⟨0x2104, 0x2104, 0, 0, .u16, .ro, 0, 0, 65535, 1, false, false⟩,  -- HALF_CYCLE_MEAN
  ⟨0x2105, 0x2105, 0, 0, .u16, .ro, 0, 0, 65535, 1, false, false⟩,  -- CEILING_NOW
  ⟨0x2106, 0x2106, 0, 0, .u16, .ro, 0, 0, 65535, 1, false, false⟩,  -- FLOOR_NOW
  ⟨0x2107, 0x2107, 0, 0, .u8, .ro, 0, 0, 255, 1, false, false⟩,  -- BALLAST_LEVEL_NOW
  ⟨0x2108, 0x2108, 0, 0, .u16, .ro, 1800, 0, 65535, 1, false, false⟩,  -- TILE_CLOCK_NOW
  ⟨0x2110, 0x2110, 0, 0, .u16, .rw, 200, 50, 800, 1, true, false⟩,  -- UP_SLEW
  ⟨0x2111, 0x2111, 0, 0, .u16, .rw, 300, 250, 800, 1, true, false⟩,  -- DOWN_SLEW
  ⟨0x2112, 0x2112, 0, 0, .u16, .rw, 1600, 200, 1600, 1, true, false⟩,  -- POWER_CAP
  ⟨0x2113, 0x2113, 0, 0, .u16, .rw, 50, 0, 800, 1, true, false⟩,  -- BALLAST_DEPTH
  ⟨0x2114, 0x2114, 0, 0, .u16, .rw, 8, 1, 65535, 1, true, false⟩,  -- IDLE_RELEASE
  ⟨0x2115, 0x2115, 0, 0, .boolean, .rw, 1, 0, 1, 1, true, false⟩,  -- BALLAST_SPARES
  ⟨0x2116, 0x2116, 0, 0, .u16, .rw, 4800, 4650, 5000, 1, true, false⟩,  -- BROWNOUT_THRESHOLD
  ⟨0x2117, 0x2117, 0, 0, .u16, .rw, 1200, 0, 65535, 1, true, false⟩,  -- CLOCK_FLOOR
  ⟨0x2120, 0x2120, 0, 0, .u16, .ro, 800, 0, 65535, 1, false, false⟩,  -- SLEW_CEILING
  ⟨0x2121, 0x2121, 0, 0, .u16, .ro, 4600, 0, 65535, 1, false, false⟩,  -- CURFEW_THRESHOLD
  ⟨0x2122, 0x2122, 0, 0, .u16, .ro, 200, 0, 65535, 1, false, false⟩,  -- CURFEW_FILTER
  ⟨0x2123, 0x2123, 0, 0, .u8, .ro, 20, 0, 255, 1, false, false⟩,  -- STORED_ENERGY_MAX
  ⟨0x2124, 0x2124, 0, 0, .u8, .ro, 60, 0, 255, 1, false, false⟩,  -- REMOVAL_DRAW_MAX
  ⟨0x2125, 0x2125, 0, 0, .u16, .ro, 2000, 0, 65535, 1, false, false⟩,  -- PRECHARGE_CURRENT_MAX
  ⟨0x2130, 0x2130, 0, 0, .u8, .ro, 6, 0, 255, 1, false, false⟩,  -- GOV_COUNTERS
  ⟨0x2130, 0x2130, 1, 1, .u64, .ro, 0, 0, 18446744073709551615, 1, false, false⟩,  -- BALLAST_ENERGY
  ⟨0x2130, 0x2130, 2, 2, .u32, .ro, 0, 0, 4294967295, 1, false, false⟩,  -- HOLD_HALF_CYCLES
  ⟨0x2130, 0x2130, 3, 3, .u32, .ro, 0, 0, 4294967295, 1, false, false⟩,  -- ENVELOPE_EXCURSIONS
  ⟨0x2130, 0x2130, 4, 4, .u32, .ro, 0, 0, 4294967295, 1, false, false⟩,  -- BROWNOUTS
  ⟨0x2130, 0x2130, 5, 5, .u32, .ro, 0, 0, 4294967295, 1, true, false⟩,  -- CURFEWS
  ⟨0x2130, 0x2130, 6, 6, .u32, .ro, 0, 0, 4294967295, 1, true, false⟩]  -- REMOVAL_DROPS

/-- The entries of chapter 04. -/
def rowsLife : List Entry := [
  ⟨0x3000, 0x3000, 0, 0, .u8, .ro, 1, 0, 255, 1, false, false⟩,  -- LIFE_STATE
  ⟨0x3001, 0x3001, 0, 0, .u16, .ro, 128, 0, 65535, 1, false, false⟩,  -- LIFE_FLAGS
  ⟨0x3002, 0x3002, 0, 0, .u16, .ro, 0, 0, 65535, 1, false, false⟩,  -- LAST_LIFE_CAUSE
  ⟨0x3003, 0x3003, 0, 0, .u8, .ro, 0, 0, 255, 1, false, false⟩,  -- START_PATH
  ⟨0x3004, 0x3004, 0, 0, .u32, .ro, 0, 0, 4294967295, 1, false, false⟩,  -- TIME_IN_STATE
  ⟨0x3010, 0x3010, 0, 0, .u8, .rw, 1, 0, 1, 1, true, false⟩,  -- POWER_TARGET
  ⟨0x3011, 0x3011, 0, 0, .u8, .rw, 0, 0, 2, 1, false, false⟩,  -- DEPART_REQUEST
  ⟨0x3012, 0x3012, 0, 0, .u16, .rw, 16, 8, 4096, 1, true, false⟩,  -- DEPART_LEAD
  ⟨0x3013, 0x3013, 0, 0, .u32, .rw, 10000, 100, 600000, 1, true, false⟩,  -- DRAIN_LIMIT
  ⟨0x3014, 0x3014, 0, 0, .boolean, .rw, 1, 0, 1, 1, true, false⟩,  -- SWEEP_ON_DEPART
  ⟨0x3015, 0x3015, 0, 0, .u64, .ro, 0, 0, 18446744073709551615, 1, false, false⟩,  -- DEPART_CYCLE
  ⟨0x3020, 0x3020, 0, 0, .u8, .rw, 0, 0, 1, 1, false, false⟩,  -- RESET_REQUEST
  ⟨0x3021, 0x3021, 0, 0, .boolean, .rw, 0, 0, 1, 1, false, true⟩,  -- RESET_BTN_OVERRIDE
  ⟨0x3022, 0x3022, 0, 0, .boolean, .rw, 0, 0, 1, 1, true, false⟩,  -- AUTO_RESET_FATAL
  ⟨0x3023, 0x3023, 0, 0, .boolean, .rw, 0, 0, 1, 1, true, false⟩,  -- CELLAR_RETAIN
  ⟨0x3024, 0x3024, 0, 0, .boolean, .rw, 0, 0, 1, 1, true, false⟩,  -- FORCE_SLOW_START
  ⟨0x3030, 0x3030, 0, 0, .u8, .ro, 8, 0, 255, 1, false, false⟩,  -- LIFE_COUNTERS
  ⟨0x3030, 0x3030, 1, 1, .u32, .ro, 0, 0, 4294967295, 1, true, false⟩,  -- QUICK_STARTS
  ⟨0x3030, 0x3030, 2, 2, .u32, .ro, 0, 0, 4294967295, 1, true, false⟩,  -- SLOW_STARTS
  ⟨0x3030, 0x3030, 3, 3, .u32, .ro, 0, 0, 4294967295, 1, true, false⟩,  -- FULL_RESETS
  ⟨0x3030, 0x3030, 4, 4, .u32, .ro, 0, 0, 4294967295, 1, true, false⟩,  -- PRESSES_IGNORED
  ⟨0x3030, 0x3030, 5, 5, .u32, .ro, 0, 0, 4294967295, 1, true, false⟩,  -- STUCK_BUTTONS
  ⟨0x3030, 0x3030, 6, 6, .u32, .ro, 0, 0, 4294967295, 1, true, false⟩,  -- REQUESTED_DEPARTURES
  ⟨0x3030, 0x3030, 7, 7, .u32, .ro, 0, 0, 4294967295, 1, true, false⟩,  -- SURPRISE_DEPARTURES
  ⟨0x3030, 0x3030, 8, 8, .u32, .ro, 0, 0, 4294967295, 1, true, false⟩]  -- DRAIN_TIMEOUTS

/-- The entries of chapter 05. -/
def rowsKiosk : List Entry := [
  ⟨0x1000, 0x1000, 0, 0, .u32, .ro, 317345, 0, 4294967295, 1, false, false⟩,  -- VENDOR_ID
  ⟨0x1001, 0x1001, 0, 0, (.string 16), .ro, 0, 0, 0, 1, false, false⟩,  -- PRODUCT_NAME
  ⟨0x1002, 0x1002, 0, 0, (.string 16), .ro, 0, 0, 0, 1, false, false⟩,  -- SERIAL_NUMBER
  ⟨0x1003, 0x1003, 0, 0, .u64, .ro, 0, 0, 18446744073709551615, 1, false, false⟩,  -- EUI64
  ⟨0x1004, 0x1004, 0, 0, (.octets 97), .ro, 0, 0, 0, 1, false, false⟩,  -- IDENTITY_PUBLIC_KEY
  ⟨0x1005, 0x1005, 0, 0, .u32, .ro, 0, 0, 4294967295, 1, false, false⟩,  -- MANUFACTURE_DAY
  ⟨0x1008, 0x1008, 0, 0, .u8, .ro, 5, 0, 255, 1, false, false⟩,  -- FIRMWARE_VERSIONS
  ⟨0x1008, 0x1008, 1, 1, .u32, .ro, 0, 0, 4294967295, 1, false, false⟩,  -- KIOSK_FW
  ⟨0x1008, 0x1008, 2, 2, .u32, .ro, 0, 0, 4294967295, 1, false, false⟩,  -- STATION_FW
  ⟨0x1008, 0x1008, 3, 3, .u32, .ro, 0, 0, 4294967295, 1, false, false⟩,  -- MICROCODE
  ⟨0x1008, 0x1008, 4, 4, .u32, .ro, 0, 0, 4294967295, 1, false, false⟩,  -- GOVERNOR_POLICY
  ⟨0x1008, 0x1008, 5, 5, .u32, .ro, 50397184, 0, 4294967295, 1, false, false⟩,  -- JOP_PROTOCOL
  ⟨0x1009, 0x1009, 0, 0, .u32, .ro, 0, 0, 4294967295, 1, true, false⟩,  -- KIOSK_STARTS
  ⟨0x100A, 0x100A, 0, 0, .u8, .ro, 0, 0, 255, 1, false, false⟩,  -- SLOT_ADDRESS
  ⟨0x1100, 0x1100, 0, 0, .u16, .ro, 768, 0, 65535, 1, false, false⟩,  -- DICT_VERSION
  ⟨0x1101, 0x1101, 0, 0, .u8, .rw, 1, 0, 2, 1, true, true⟩,  -- MAILBOX_RIGHTS
  ⟨0x1102, 0x1102, 0, 0, .u16, .wo, 0, 57082, 57082, 1, false, true⟩,  -- RESTORE_DEFAULTS
  ⟨0x1103, 0x1103, 0, 0, .u32, .rw, 60000, 1000, 600000, 1, true, false⟩,  -- DOMAIN_IDLE_LIMIT
  ⟨0x1104, 0x1104, 0, 0, .u16, .ro, 0, 0, 65535, 1, false, false⟩,  -- OPEN_STAGING
  ⟨0x1105, 0x1105, 0, 0, .u32, .ro, 0, 0, 4294967295, 1, false, false⟩,  -- STAGED_LENGTH
  ⟨0x1110, 0x1110, 0, 0, .u8, .ro, 8, 0, 255, 1, false, false⟩,  -- TXN_COUNTERS
  ⟨0x1110, 0x1110, 1, 1, .u32, .ro, 0, 0, 4294967295, 1, false, false⟩,  -- EXECUTED
  ⟨0x1110, 0x1110, 2, 2, .u32, .ro, 0, 0, 4294967295, 1, false, false⟩,  -- DUPLICATES_REPLAYED
  ⟨0x1110, 0x1110, 3, 3, .u32, .ro, 0, 0, 4294967295, 1, false, false⟩,  -- DUPLICATE_READS
  ⟨0x1110, 0x1110, 4, 4, .u32, .ro, 0, 0, 4294967295, 1, false, false⟩,  -- STALE
  ⟨0x1110, 0x1110, 5, 5, .u32, .ro, 0, 0, 4294967295, 1, false, false⟩,  -- REFUSED
  ⟨0x1110, 0x1110, 6, 6, .u32, .ro, 0, 0, 4294967295, 1, false, false⟩,  -- STAGINGS_EXPIRED
  ⟨0x1110, 0x1110, 7, 7, .u32, .ro, 0, 0, 4294967295, 1, false, false⟩,  -- STORES
  ⟨0x1110, 0x1110, 8, 8, .u32, .ro, 0, 0, 4294967295, 1, false, false⟩,  -- STORE_FAILURES
  ⟨0x1120, 0x1120, 0, 0, .u8, .ro, 0, 0, 255, 1, false, false⟩,  -- SESSIONS_OPEN
  ⟨0x1300, 0x1300, 0, 0, (.domain 33554432), .wo, 0, 0, 0, 1, false, true⟩,  -- STATION_IMAGE
  ⟨0x1301, 0x1301, 0, 0, (.domain 4194304), .wo, 0, 0, 0, 1, false, true⟩,  -- KIOSK_IMAGE
  ⟨0x1302, 0x1302, 0, 0, (.domain 1048576), .wo, 0, 0, 0, 1, false, true⟩,  -- POLICY_IMAGE
  ⟨0x1310, 0x1310, 0, 0, .u8, .ro, 6, 0, 255, 1, false, false⟩,  -- IMAGE_BANKS
  ⟨0x1310, 0x1310, 1, 1, .u32, .ro, 0, 0, 4294967295, 1, false, false⟩,  -- STATION_A
  ⟨0x1310, 0x1310, 2, 2, .u32, .ro, 0, 0, 4294967295, 1, false, false⟩,  -- STATION_B
  ⟨0x1310, 0x1310, 3, 3, .u32, .ro, 0, 0, 4294967295, 1, false, false⟩,  -- KIOSK_A
  ⟨0x1310, 0x1310, 4, 4, .u32, .ro, 0, 0, 4294967295, 1, false, false⟩,  -- KIOSK_B
  ⟨0x1310, 0x1310, 5, 5, .u32, .ro, 0, 0, 4294967295, 1, false, false⟩,  -- POLICY_A
  ⟨0x1310, 0x1310, 6, 6, .u32, .ro, 0, 0, 4294967295, 1, false, false⟩]  -- POLICY_B

/-- The entries of chapter 06. -/
def rowsNet : List Entry := [
  ⟨0x1200, 0x1200, 0, 0, .u8, .ro, 0, 0, 255, 1, false, false⟩,  -- T1S_STATE
  ⟨0x1201, 0x1201, 0, 0, .u16, .ro, 0, 0, 65535, 1, false, false⟩,  -- NET_FLAGS
  ⟨0x1202, 0x1202, 0, 0, .u8, .ro, 255, 0, 255, 1, false, false⟩,  -- NODE_ID_NOW
  ⟨0x1210, 0x1210, 0, 0, .u8, .rw, 255, 0, 255, 1, true, false⟩,  -- PLCA_NODE_ID
  ⟨0x1211, 0x1211, 0, 0, .u8, .rw, 31, 1, 31, 1, true, false⟩,  -- FALLBACK_NODE_ID
  ⟨0x1212, 0x1212, 0, 0, .u8, .rw, 32, 2, 32, 1, true, false⟩,  -- PLCA_NODE_COUNT
  ⟨0x1213, 0x1213, 0, 0, .u8, .rw, 32, 32, 255, 1, true, false⟩,  -- PLCA_TO_TIMER
  ⟨0x1214, 0x1214, 0, 0, .boolean, .rw, 0, 0, 1, 1, true, false⟩,  -- BACKUP_COORDINATOR
  ⟨0x1215, 0x1215, 0, 0, .boolean, .rw, 0, 0, 1, 1, true, false⟩,  -- LOW_POWER_LISTEN
  ⟨0x1217, 0x1217, 0, 0, .u8, .rw, 2, 2, 16, 1, true, false⟩,  -- ABSENT_PERIODS
  ⟨0x1220, 0x1220, 0, 0, .u32, .rw, 300000, 10000, 3600000, 1, true, false⟩,  -- SESSION_IDLE_LIMIT
  ⟨0x1221, 0x1221, 0, 0, (.octets 32), .wo, 0, 0, 0, 1, true, true⟩,  -- SEGMENT_KEY
  ⟨0x1222, 0x1222, 0, 0, .u8, .ro, 8, 0, 255, 1, false, false⟩,  -- CREDENTIAL_KEYS
  ⟨0x1222, 0x1222, 1, 8, (.octets 32), .wo, 0, 0, 0, 1, true, true⟩,  -- CREDENTIAL_KEY
  ⟨0x1223, 0x1223, 0, 0, .u8, .ro, 8, 0, 255, 1, false, false⟩,  -- CREDENTIAL_RIGHTS
  ⟨0x1223, 0x1223, 1, 8, .u8, .rw, 0, 0, 2, 1, true, true⟩,  -- CREDENTIAL_RIGHT
  ⟨0x1230, 0x1230, 0, 0, .u8, .ro, 8, 0, 255, 1, false, false⟩,  -- NET_COUNTERS
  ⟨0x1230, 0x1230, 1, 1, .u32, .ro, 0, 0, 4294967295, 1, false, false⟩,  -- BEACONS_SENT
  ⟨0x1230, 0x1230, 2, 2, .u32, .ro, 0, 0, 4294967295, 1, false, false⟩,  -- BEACONS_HEARD
  ⟨0x1230, 0x1230, 3, 3, .u32, .ro, 0, 0, 4294967295, 1, false, false⟩,  -- BEACONS_MISSED
  ⟨0x1230, 0x1230, 4, 4, .u32, .ro, 0, 0, 4294967295, 1, false, false⟩,  -- CLAIM_COLLISIONS
  ⟨0x1230, 0x1230, 5, 5, .u32, .ro, 0, 0, 4294967295, 1, false, false⟩,  -- FRAMES_DISCARDED
  ⟨0x1230, 0x1230, 6, 6, .u32, .ro, 0, 0, 4294967295, 1, false, false⟩,  -- RESYNCS
  ⟨0x1230, 0x1230, 7, 7, .u32, .ro, 0, 0, 4294967295, 1, false, false⟩,  -- STATUS_DROPPED
  ⟨0x1230, 0x1230, 8, 8, .u32, .ro, 0, 0, 4294967295, 1, false, false⟩,  -- SESSIONS_REFUSED
  ⟨0x1240, 0x1240, 0, 0, .u32, .ro, 0, 0, 4294967295, 1, false, false⟩,  -- MEMBERSHIP
  ⟨0x1241, 0x1241, 0, 0, .u64, .ro, 0, 0, 18446744073709551615, 1, false, false⟩]  -- COORDINATOR_EUI

/-- The entries of chapter 07. -/
def rowsHost : List Entry := [
  ⟨0xA000, 0xA000, 0, 0, .u16, .ro, 16384, 0, 65535, 1, false, false⟩,  -- POOL_SLOTS
  ⟨0xA001, 0xA001, 0, 0, .u16, .ro, 256, 0, 65535, 1, false, false⟩,  -- POOL_RESERVED
  ⟨0xA002, 0xA002, 0, 0, .u16, .ro, 0, 0, 65535, 1, false, false⟩,  -- POOL_IN_USE
  ⟨0xA003, 0xA003, 0, 0, .u16, .ro, 32, 0, 65535, 1, false, false⟩,  -- QUEUES_ENABLED
  ⟨0xA010, 0xA010, 0, 0, .u16, .rw, 64, 0, 65535, 1, true, false⟩,  -- BAR2_DEFAULT_SIZE
  ⟨0xA011, 0xA011, 0, 0, .u8, .rw, 0, 0, 1, 1, true, false⟩,  -- HOST_LINK_DOWN_ACTION
  ⟨0xA020, 0xA020, 0, 0, .u8, .ro, 6, 0, 255, 1, false, false⟩,  -- HOST_COUNTERS
  ⟨0xA020, 0xA020, 1, 1, .u32, .ro, 0, 0, 4294967295, 1, false, false⟩,  -- DOORBELLS_IGNORED
  ⟨0xA020, 0xA020, 2, 2, .u32, .ro, 0, 0, 4294967295, 1, false, false⟩,  -- BAD_DESCRIPTORS
  ⟨0xA020, 0xA020, 3, 3, .u32, .ro, 0, 0, 4294967295, 1, false, false⟩,  -- BAR2_DISCARDS
  ⟨0xA020, 0xA020, 4, 4, .u32, .ro, 0, 0, 4294967295, 1, false, false⟩,  -- COMPLETIONS_DISCARDED
  ⟨0xA020, 0xA020, 5, 5, .u32, .ro, 0, 0, 4294967295, 1, false, false⟩,  -- HOST_LINK_DOWNS
  ⟨0xA020, 0xA020, 6, 6, .u32, .ro, 0, 0, 4294967295, 1, false, false⟩]  -- FETCH_STALLS

/-- The entries of chapter 09. -/
def rowsNumeric : List Entry := [
  ⟨0x4000, 0x4000, 0, 0, .u8, .rw, 0, 0, 3, 1, true, false⟩,  -- DEFAULT_RM
  ⟨0x4001, 0x4001, 0, 0, .u8, .rw, 0, 0, 2, 1, true, false⟩,  -- DEFAULT_SUBN
  ⟨0x4002, 0x4002, 0, 0, .u8, .rw, 0, 0, 1, 1, true, false⟩,  -- DEFAULT_DOT
  ⟨0x4003, 0x4003, 0, 0, .u8, .rw, 0, 0, 1, 1, true, false⟩,  -- DEFAULT_IOVF
  ⟨0x4004, 0x4004, 0, 0, .boolean, .rw, 0, 0, 1, 1, true, false⟩,  -- FORCE_STEPWISE
  ⟨0x4010, 0x4010, 0, 0, .u8, .ro, 16, 0, 255, 1, false, false⟩,  -- STEP_LENGTH
  ⟨0x4011, 0x4011, 0, 0, .u8, .ro, 64, 0, 255, 1, false, false⟩,  -- GROUP_LENGTH
  ⟨0x4012, 0x4012, 0, 0, .u8, .ro, 27, 0, 255, 1, false, false⟩,  -- ALIGN_WINDOW
  ⟨0x4100, 0x4100, 0, 0, .u8, .ro, 160, 0, 255, 1, false, false⟩,  -- TILE_FLAGS
  ⟨0x4100, 0x4100, 1, 160, .u16, .ro, 0, 0, 65535, 1, false, false⟩,  -- TILE_FLAG_SETS
  ⟨0x4101, 0x4101, 0, 0, .u16, .ro, 0, 0, 65535, 1, false, false⟩]  -- LAST_PROGRAM_FLAGS

/-- The entries of chapter 10. -/
def rowsTiles : List Entry := [
  ⟨0x5000, 0x5000, 0, 0, .u16, .ro, 144, 0, 65535, 1, false, false⟩,  -- TILES_ACTIVE
  ⟨0x5001, 0x5001, 0, 0, .u16, .ro, 16, 0, 65535, 1, false, false⟩,  -- SPARES_LEFT
  ⟨0x5010, 0x5010, 1, 160, .u8, .ro, 0, 0, 255, 1, false, false⟩,  -- TILE_STATE
  ⟨0x5011, 0x5011, 1, 160, .boolean, .ro, 0, 0, 1, 1, true, false⟩,  -- TILE_RUN_FENCE
  ⟨0x5012, 0x5012, 1, 160, .u8, .ro, 0, 0, 255, 1, false, false⟩,  -- TILE_LOGICAL
  ⟨0x5020, 0x5020, 1, 8, .u8, .ro, 0, 0, 255, 1, false, false⟩,  -- HBM_STACK_STATE
  ⟨0x5022, 0x5022, 1, 8, .u32, .ro, 0, 0, 4294967295, 1, false, false⟩,  -- HBM_CORRECTED
  ⟨0x5023, 0x5023, 1, 8, .u32, .ro, 0, 0, 4294967295, 1, false, false⟩,  -- HBM_UNCORRECTABLE
  ⟨0x5030, 0x5030, 1, 16, .u8, .ro, 0, 0, 255, 1, false, false⟩,  -- CELLAR_PKG_STATE
  ⟨0x5032, 0x5032, 1, 16, .u32, .ro, 0, 0, 4294967295, 1, false, false⟩,  -- CELLAR_CORRECTED
  ⟨0x5033, 0x5033, 1, 16, .u32, .ro, 0, 0, 4294967295, 1, false, false⟩,  -- CELLAR_UNCORRECTABLE
  ⟨0x5040, 0x5040, 0, 0, .u32, .ro, 137329, 0, 4294967295, 1, false, false⟩,  -- HBM_PAGES
  ⟨0x5041, 0x5041, 0, 0, .u32, .ro, 244140, 0, 4294967295, 1, false, false⟩,  -- CELLAR_PAGES
  ⟨0x5100, 0x5100, 0, 0, .u32, .rw, 68664, 0, 4294967295, 1, true, false⟩,  -- DRIVER_HBM_PAGES
  ⟨0x5101, 0x5101, 0, 0, .u32, .rw, 0, 0, 4294967295, 1, true, false⟩,  -- DRIVER_CELLAR_PAGES
  ⟨0x5102, 0x5102, 0, 0, .u32, .rw, 86400, 3600, 604800, 1, true, false⟩,  -- PATROL_PERIOD
  ⟨0x5103, 0x5103, 0, 0, .u8, .rw, 4, 1, 64, 1, true, false⟩,  -- UE_FENCE_THRESHOLD
  ⟨0x5104, 0x5104, 0, 0, .u64, .rw, 0, 0, 18446744073709551615, 1, false, false⟩,  -- HOST_SPILL_BASE
  ⟨0x5105, 0x5105, 0, 0, .u32, .rw, 0, 0, 131072, 1, false, false⟩,  -- HOST_SPILL_PAGES
  ⟨0x5106, 0x5106, 0, 0, .u32, .rw, 0, 0, 32768, 1, true, false⟩,  -- PEER_LEND_PAGES
  ⟨0x5107, 0x5107, 1, 4, .u16, .rw, 65535, 0, 65535, 1, true, false⟩,  -- PEER_SPILL_TARGET
  ⟨0x5108, 0x5108, 0, 0, .boolean, .rw, 1, 0, 1, 1, true, false⟩,  -- PROMOTE_AT_BOUNDARY
  ⟨0x5110, 0x5110, 1, 4, .u32, .ro, 0, 0, 4294967295, 1, false, false⟩,  -- PAGES_IN_USE
  ⟨0x5120, 0x5120, 1, 4, .u32, .ro, 0, 0, 4294967295, 1, false, false⟩]  -- TIER_COUNTERS

/-- The entries of chapter 11. -/
def rowsMovers : List Entry := [
  ⟨0x5400, 0x5400, 0, 0, .u8, .ro, 2, 0, 255, 1, false, false⟩,  -- MOVER_CHANNELS
  ⟨0x5401, 0x5401, 0, 0, .u8, .ro, 8, 0, 255, 1, false, false⟩,  -- CHANNEL_QUEUE_DEPTH
  ⟨0x5402, 0x5402, 0, 0, .u16, .ro, 32768, 0, 65535, 1, false, false⟩,  -- BRICK_BYTES_MAX
  ⟨0x5403, 0x5403, 0, 0, .u16, .ro, 65535, 0, 65535, 1, false, false⟩,  -- LIST_LENGTH_MAX
  ⟨0x5404, 0x5404, 0, 0, .u8, .ro, 64, 0, 255, 1, false, false⟩,  -- SECTOR_BYTES
  ⟨0x5410, 0x5410, 0, 0, .boolean, .rw, 0, 0, 1, 1, true, false⟩,  -- FORCE_OOB_TRAP
  ⟨0x5420, 0x5420, 0, 0, .u8, .ro, 6, 0, 255, 1, false, false⟩,  -- MOVER_COUNTERS
  ⟨0x5420, 0x5420, 1, 1, .u32, .ro, 0, 0, 4294967295, 1, false, false⟩,  -- COMMANDS
  ⟨0x5420, 0x5420, 2, 2, .u32, .ro, 0, 0, 4294967295, 1, false, false⟩,  -- OOB_PADDED
  ⟨0x5420, 0x5420, 3, 3, .u32, .ro, 0, 0, 4294967295, 1, false, false⟩,  -- OOB_DISCARDED
  ⟨0x5420, 0x5420, 4, 4, .u32, .ro, 0, 0, 4294967295, 1, false, false⟩,  -- NULL_ENTRIES
  ⟨0x5420, 0x5420, 5, 5, .u32, .ro, 0, 0, 4294967295, 1, false, false⟩,  -- PERMUTE_ELEMENTS
  ⟨0x5420, 0x5420, 6, 6, .u32, .ro, 0, 0, 4294967295, 1, false, false⟩]  -- CHANNEL_FULL_STALLS

/-- The entries of chapter 12. -/
def rowsUcode : List Entry := [
  ⟨0x5800, 0x5800, 0, 0, .u8, .rw, 1, 0, 1, 1, true, false⟩,  -- CS_PROTECTION
  ⟨0x5801, 0x5801, 0, 0, .u8, .rw, 0, 0, 1, 1, true, false⟩,  -- DEFAULT_IRQ_MODE
  ⟨0x5802, 0x5802, 0, 0, .u16, .ro, 4096, 0, 65535, 1, false, false⟩,  -- CS_WORDS
  ⟨0x5803, 0x5803, 0, 0, .u8, .ro, 1, 0, 255, 1, false, false⟩,  -- CS_MODE_NOW
  ⟨0x5804, 0x5804, 0, 0, .u16, .ro, 256, 0, 65535, 1, false, false⟩,  -- CS_PATROL_INTERVAL
  ⟨0x5810, 0x5810, 1, 160, .u32, .ro, 0, 0, 4294967295, 1, false, false⟩,  -- TILE_MC
  ⟨0x5811, 0x5811, 1, 160, .u32, .ro, 0, 0, 4294967295, 1, false, false⟩,  -- CS_CORRECTED
  ⟨0x5820, 0x5820, 0, 0, .u8, .ro, 6, 0, 255, 1, false, false⟩,  -- UCODE_COUNTERS
  ⟨0x5820, 0x5820, 1, 1, .u32, .ro, 0, 0, 4294967295, 1, false, false⟩,  -- MACHINE_CHECKS
  ⟨0x5820, 0x5820, 2, 2, .u32, .ro, 0, 0, 4294967295, 1, false, false⟩,  -- WINDOW_OVERFLOWS
  ⟨0x5820, 0x5820, 3, 3, .u32, .ro, 0, 0, 4294967295, 1, false, false⟩,  -- WINDOW_UNDERFLOWS
  ⟨0x5820, 0x5820, 4, 4, .u32, .ro, 0, 0, 4294967295, 1, false, false⟩,  -- INTERRUPTS
  ⟨0x5820, 0x5820, 5, 5, .u32, .ro, 0, 0, 4294967295, 1, false, false⟩,  -- FAULT_TRAPS
  ⟨0x5820, 0x5820, 6, 6, .u32, .ro, 0, 0, 4294967295, 1, false, false⟩]  -- BALLAST_EXITS

/-- The entries of chapter 13. -/
def rowsArrays : List Entry := [
  ⟨0x6800, 0x6800, 0, 0, .u8, .ro, 32, 0, 255, 1, false, false⟩,  -- ARRAYS_USABLE
  ⟨0x6801, 0x6801, 1, 32, .u8, .ro, 0, 0, 255, 1, false, false⟩,  -- ARRAY_STATE
  ⟨0x6802, 0x6802, 1, 32, .int16, .ro, 0, 0, 16, 1, false, false⟩,  -- ARRAY_TEMP
  ⟨0x6803, 0x6803, 1, 32, .int16, .ro, 0, 0, 16, 1, false, false⟩,  -- ARRAY_CAL_TEMP
  ⟨0x6804, 0x6804, 0, 0, .u16, .ro, 5000, 0, 65535, 1, false, false⟩,  -- UNIT_TIME
  ⟨0x6805, 0x6805, 0, 0, .u8, .ro, 12, 0, 255, 1, false, false⟩,  -- CODE_ERROR_SIGMA
  ⟨0x6810, 0x6810, 0, 0, .u8, .rw, 1, 1, 2, 1, true, false⟩,  -- DEFAULT_SCORE_MODE
  ⟨0x6811, 0x6811, 0, 0, .u8, .rw, 15, 5, 40, 1, true, false⟩,  -- RECAL_DELTA
  ⟨0x6812, 0x6812, 0, 0, .u32, .rw, 1000, 0, 4294967295, 1, true, false⟩,  -- PLANE_REFRESH_PERIOD
  ⟨0x6813, 0x6813, 0, 0, .boolean, .rw, 0, 0, 1, 1, true, false⟩,  -- FORCE_DIGITAL
  ⟨0x6820, 0x6820, 0, 0, .u8, .ro, 7, 0, 255, 1, false, false⟩,  -- SCORE_COUNTERS
  ⟨0x6820, 0x6820, 1, 1, .u64, .ro, 0, 0, 18446744073709551615, 1, false, false⟩,  -- EVALUATIONS
  ⟨0x6820, 0x6820, 2, 2, .u32, .ro, 0, 0, 4294967295, 1, false, false⟩,  -- SATURATED_CODES
  ⟨0x6820, 0x6820, 3, 3, .u32, .ro, 0, 0, 4294967295, 1, false, false⟩,  -- ZERO_SKIPS
  ⟨0x6820, 0x6820, 4, 4, .u32, .ro, 0, 0, 4294967295, 1, false, false⟩,  -- RECALIBRATIONS
  ⟨0x6820, 0x6820, 5, 5, .u32, .ro, 0, 0, 4294967295, 1, false, false⟩,  -- RECALS_ABORTED
  ⟨0x6820, 0x6820, 6, 6, .u32, .ro, 0, 0, 4294967295, 1, false, false⟩,  -- SPLIT_LAYERS
  ⟨0x6820, 0x6820, 7, 7, .u32, .ro, 0, 0, 4294967295, 1, false, false⟩]  -- PLANE_LOADS

/-- The entries of chapter 14. -/
def rowsJunction : List Entry := [
  ⟨0x6000, 0x6000, 0, 0, .u8, .ro, 0, 0, 255, 1, false, false⟩,  -- JUNCTION_STAGE
  ⟨0x6001, 0x6001, 0, 0, .u16, .ro, 0, 0, 65535, 1, false, false⟩,  -- LAYERS_WAITING
  ⟨0x6002, 0x6002, 0, 0, .u16, .ro, 1600, 0, 65535, 1, false, false⟩,  -- JUNCTION_CLOCK
  ⟨0x6010, 0x6010, 1, 64, .u16, .rw, 0, 0, 65535, 1, true, false⟩,  -- CAP_PROFILE
  ⟨0x6020, 0x6020, 1, 4, .u8, .rw, 255, 0, 255, 1, true, false⟩,  -- TAP_LOT
  ⟨0x6021, 0x6021, 1, 4, .u8, .ro, 3, 0, 255, 1, false, false⟩,  -- TAP_STATE
  ⟨0x6022, 0x6022, 0, 0, .u16, .rw, 20, 1, 1000, 1, true, false⟩,  -- TAP_TIMEOUT
  ⟨0x6023, 0x6023, 0, 0, .u8, .rw, 15, 0, 15, 1, true, false⟩,  -- TAP_PERMIT
  ⟨0x6030, 0x6030, 0, 0, .u16, .ro, 0, 0, 65535, 1, false, false⟩,  -- JUNCTION_FLAGS
  ⟨0x6040, 0x6040, 0, 0, .u8, .ro, 11, 0, 255, 1, false, false⟩,  -- JUNCTION_COUNTERS
  ⟨0x6040, 0x6040, 1, 1, .u32, .ro, 0, 0, 4294967295, 1, false, false⟩,  -- LAYERS_DONE
  ⟨0x6040, 0x6040, 2, 2, .u32, .ro, 0, 0, 4294967295, 1, false, false⟩,  -- LAYERS_ABORTED
  ⟨0x6040, 0x6040, 3, 3, .u64, .ro, 0, 0, 18446744073709551615, 1, false, false⟩,  -- PAIRS_SELECTED
  ⟨0x6040, 0x6040, 4, 4, .u64, .ro, 0, 0, 18446744073709551615, 1, false, false⟩,  -- PAIRS_ADMITTED
  ⟨0x6040, 0x6040, 5, 5, .u64, .ro, 0, 0, 18446744073709551615, 1, false, false⟩,  -- DROPS_CAPACITY
  ⟨0x6040, 0x6040, 6, 6, .u64, .ro, 0, 0, 18446744073709551615, 1, false, false⟩,  -- DROPS_MASKED
  ⟨0x6040, 0x6040, 7, 7, .u64, .ro, 0, 0, 18446744073709551615, 1, false, false⟩,  -- DROPS_TAP
  ⟨0x6040, 0x6040, 8, 8, .u64, .ro, 0, 0, 18446744073709551615, 1, false, false⟩,  -- UNROUTED_TOKENS
  ⟨0x6040, 0x6040, 9, 9, .u32, .ro, 0, 0, 4294967295, 1, false, false⟩,  -- TAP_TIMEOUTS
  ⟨0x6040, 0x6040, 10, 10, .u32, .ro, 0, 0, 4294967295, 1, false, false⟩,  -- TAP_REJECTS
  ⟨0x6040, 0x6040, 11, 11, .u32, .ro, 0, 0, 4294967295, 1, false, false⟩]  -- TAP_PROTOCOL

/-- The entries of chapter 15. -/
def rowsLinks : List Entry := [
  ⟨0x7000, 0x7000, 0, 0, .u16, .ro, 0, 0, 65535, 1, false, false⟩,  -- PORTS_UP
  ⟨0x7001, 0x7001, 0, 0, .u16, .rw, 65535, 0, 65535, 1, true, false⟩,  -- SLED_ADDRESS
  ⟨0x7002, 0x7002, 1, 4, .u8, .rw, 4, 1, 16, 1, true, false⟩,  -- TORUS_EXTENT
  ⟨0x7003, 0x7003, 0, 0, .u8, .rw, 1, 0, 1, 1, true, false⟩,  -- VC_MODE
  ⟨0x7004, 0x7004, 1, 6, .u8, .rw, 4, 1, 15, 1, true, false⟩,  -- VC_WEIGHT
  ⟨0x7010, 0x7010, 1, 8, .u16, .rw, 1, 0, 65535, 1, true, false⟩,  -- EXPRESS_CONFIG
  ⟨0x7011, 0x7011, 1, 16, .boolean, .rw, 1, 0, 1, 1, true, false⟩,  -- PORT_ENABLE
  ⟨0x7012, 0x7012, 0, 0, .u8, .rw, 4, 1, 16, 1, true, false⟩,  -- RETRAIN_LIMIT
  ⟨0x7013, 0x7013, 0, 0, .u32, .rw, 10000, 1000, 3600000, 1, true, false⟩,  -- FAILED_RETRY
  ⟨0x7014, 0x7014, 0, 0, .boolean, .rw, 1, 0, 1, 1, true, false⟩,  -- WIDTH_FALLBACK
  ⟨0x7015, 0x7015, 0, 0, .boolean, .rw, 1, 0, 1, 1, true, false⟩,  -- DETOUR_ON_RETRAIN
  ⟨0x7020, 0x7020, 1, 16, .u8, .ro, 1, 0, 255, 1, false, false⟩,  -- PORT_STATE
  ⟨0x7021, 0x7021, 1, 16, .u32, .ro, 4294967295, 0, 4294967295, 1, false, false⟩,  -- PORT_PARTNER
  ⟨0x7022, 0x7022, 1, 16, .u8, .ro, 0, 0, 255, 1, false, false⟩,  -- PORT_WIDTH
  ⟨0x7030, 0x703F, 0, 0, .u8, .ro, 10, 0, 255, 1, false, false⟩,  -- PORT_COUNTERS
  ⟨0x7030, 0x703F, 1, 1, .u64, .ro, 0, 0, 18446744073709551615, 1, false, false⟩,  -- SLABS_SENT
  ⟨0x7030, 0x703F, 2, 2, .u64, .ro, 0, 0, 18446744073709551615, 1, false, false⟩,  -- SLABS_ACCEPTED
  ⟨0x7030, 0x703F, 3, 3, .u32, .ro, 0, 0, 4294967295, 1, false, false⟩,  -- CRC_ERRORS
  ⟨0x7030, 0x703F, 4, 4, .u64, .ro, 0, 0, 18446744073709551615, 1, false, false⟩,  -- FEC_CORRECTED
  ⟨0x7030, 0x703F, 5, 5, .u32, .ro, 0, 0, 4294967295, 1, false, false⟩,  -- FEC_UNCORRECTABLE
  ⟨0x7030, 0x703F, 6, 6, .u32, .ro, 0, 0, 4294967295, 1, false, false⟩,  -- DUPLICATES
  ⟨0x7030, 0x703F, 7, 7, .u32, .ro, 0, 0, 4294967295, 1, false, false⟩,  -- NAKS_SENT
  ⟨0x7030, 0x703F, 8, 8, .u32, .ro, 0, 0, 4294967295, 1, false, false⟩,  -- REPLAYS
  ⟨0x7030, 0x703F, 9, 9, .u32, .ro, 0, 0, 4294967295, 1, false, false⟩,  -- RETRAINS
  ⟨0x7030, 0x703F, 10, 10, .u32, .ro, 0, 0, 4294967295, 1, false, false⟩,  -- CREDIT_STALLS
  ⟨0x7040, 0x7040, 0, 0, .u8, .ro, 6, 0, 255, 1, false, false⟩,  -- SWITCH_COUNTERS
  ⟨0x7040, 0x7040, 1, 1, .u32, .ro, 0, 0, 4294967295, 1, false, false⟩,  -- NO_ROUTE
  ⟨0x7040, 0x7040, 2, 2, .u32, .ro, 0, 0, 4294967295, 1, false, false⟩,  -- HOP_LIMIT
  ⟨0x7040, 0x7040, 3, 3, .u32, .ro, 0, 0, 4294967295, 1, false, false⟩,  -- BAD_KIND
  ⟨0x7040, 0x7040, 4, 4, .u32, .ro, 0, 0, 4294967295, 1, false, false⟩,  -- NOTICES_FORWARDED
  ⟨0x7040, 0x7040, 5, 5, .u32, .ro, 0, 0, 4294967295, 1, false, false⟩,  -- ALLEY_UNEXPECTED
  ⟨0x7040, 0x7040, 6, 6, .u32, .ro, 0, 0, 4294967295, 1, false, false⟩,  -- DETOURS
  ⟨0x7100, 0x710F, 0, 0, .u8, .ro, 8, 0, 255, 1, false, false⟩,  -- INJECTOR
  ⟨0x7100, 0x710F, 1, 1, .u8, .rw, 0, 0, 255, 1, false, true⟩,  -- FI_ACTION
  ⟨0x7100, 0x710F, 2, 2, .u8, .rw, 252, 0, 255, 1, false, true⟩,  -- FI_VC_MASK
  ⟨0x7100, 0x710F, 3, 3, .u8, .rw, 0, 0, 1, 1, false, true⟩,  -- FI_RATE_MODE
  ⟨0x7100, 0x710F, 4, 4, .u32, .rw, 0, 0, 4294967295, 1, false, true⟩,  -- FI_RATE
  ⟨0x7100, 0x710F, 5, 5, .u8, .rw, 0, 0, 2, 1, false, true⟩,  -- FI_TRIGGER
  ⟨0x7100, 0x710F, 6, 6, .u64, .rw, 0, 0, 18446744073709551615, 1, false, true⟩,  -- FI_TRIGGER_VALUE
  ⟨0x7100, 0x710F, 7, 7, .u32, .rw, 0, 0, 4294967295, 1, false, true⟩,  -- FI_COUNT
  ⟨0x7100, 0x710F, 8, 8, .boolean, .rw, 0, 0, 1, 1, false, true⟩,  -- FI_ARM
  ⟨0x7110, 0x7110, 1, 16, .u32, .ro, 0, 0, 4294967295, 1, false, false⟩]  -- FI_INJECTED

/-- The entries of chapter 16. -/
def rowsColl : List Entry := [
  ⟨0x7400, 0x77FF, 1, 1, .u16, .rw, 0, 0, 65535, 1, true, false⟩,  -- ORIGIN
  ⟨0x7400, 0x77FF, 2, 2, .u16, .rw, 0, 0, 65535, 1, true, false⟩,  -- EXTENT
  ⟨0x7400, 0x77FF, 3, 3, .u8, .rw, 2, 2, 5, 1, true, false⟩,  -- GROUP_VC
  ⟨0x7400, 0x77FF, 4, 4, .u8, .rw, 2, 2, 64, 1, true, false⟩,  -- RESERVE_CHUNKS
  ⟨0x7400, 0x77FF, 5, 5, .u8, .rw, 64, 2, 255, 1, true, false⟩,  -- MAX_CHUNKS
  ⟨0x7400, 0x77FF, 6, 6, .u32, .rw, 50, 5, 60000, 1, true, false⟩,  -- WATCHDOG
  ⟨0x7400, 0x77FF, 7, 7, .boolean, .rw, 0, 0, 1, 1, true, false⟩,  -- RESIDUE_CHECK
  ⟨0x7400, 0x77FF, 8, 8, .u16, .rw, 4096, 0, 32768, 64, true, false⟩,  -- ADDER_RESERVE
  ⟨0x7400, 0x77FF, 9, 9, .boolean, .rw, 0, 0, 1, 1, true, false⟩,  -- REFORM_HOLD
  ⟨0x7400, 0x77FF, 10, 10, .u8, .rw, 0, 0, 2, 1, false, false⟩,  -- ARM
  ⟨0x7400, 0x77FF, 11, 11, .u8, .ro, 0, 0, 255, 1, false, false⟩,  -- GROUP_STATE
  ⟨0x7400, 0x77FF, 12, 12, .u16, .ro, 0, 0, 65535, 1, false, false⟩,  -- ARM_CAUSE
  ⟨0x7400, 0x77FF, 13, 13, .u16, .ro, 0, 0, 65535, 1, false, false⟩,  -- EPOCH
  ⟨0x7400, 0x77FF, 14, 14, .u32, .ro, 0, 0, 4294967295, 1, false, false⟩,  -- MEMBERS
  ⟨0x7400, 0x77FF, 15, 15, .u16, .ro, 65535, 0, 65535, 1, false, false⟩,  -- RANK
  ⟨0x7400, 0x77FF, 16, 16, .u64, .ro, 0, 0, 18446744073709551615, 1, false, false⟩,  -- GROUP_PAGE
  ⟨0x7400, 0x77FF, 17, 17, .u16, .ro, 65535, 0, 65535, 1, false, false⟩,  -- QUEUE
  ⟨0x7400, 0x77FF, 18, 18, .u16, .ro, 0, 0, 65535, 1, false, false⟩,  -- ADDER_FLAGS
  ⟨0x7400, 0x77FF, 19, 19, .boolean, .wo, 0, 1, 1, 1, false, false⟩,  -- ADDER_FLAGS_CLEAR
  ⟨0x7400, 0x77FF, 20, 20, (.domain 8192), .rw, 0, 0, 0, 1, true, false⟩,  -- EXCLUDE
  ⟨0x7400, 0x77FF, 21, 21, (.domain 8192), .ro, 0, 0, 0, 1, false, false⟩,  -- MEMBER_MAP
  ⟨0x7800, 0x7800, 0, 0, .u16, .rw, 256, 64, 1024, 64, true, false⟩,  -- HAMPER_SHARE
  ⟨0x7801, 0x7801, 0, 0, .u8, .rw, 64, 0, 255, 1, true, false⟩,  -- CHUNK_SIZE
  ⟨0x7802, 0x7802, 0, 0, .u16, .ro, 576, 0, 65535, 1, false, false⟩,  -- HAMPER_CHUNKS
  ⟨0x7803, 0x7803, 0, 0, .u16, .ro, 0, 0, 65535, 1, false, false⟩,  -- HAMPER_RESERVED
  ⟨0x7804, 0x7804, 0, 0, .u16, .ro, 32768, 0, 65535, 1, false, false⟩,  -- ADDER_STORE
  ⟨0x7805, 0x7805, 0, 0, .u16, .ro, 0, 0, 65535, 1, false, false⟩,  -- ADDER_RESERVED
  ⟨0x7806, 0x7806, 0, 0, .u16, .ro, 0, 0, 65535, 1, false, false⟩,  -- GROUPS_ARMED
  ⟨0x7807, 0x7807, 0, 0, .u32, .rw, 10000, 1000, 600000, 1, true, false⟩,  -- ARM_LIMIT
  ⟨0x7808, 0x7808, 0, 0, .u32, .rw, 200, 20, 60000, 1, true, false⟩,  -- REFORM_LIMIT
  ⟨0x7810, 0x7810, 0, 0, .u8, .ro, 11, 0, 255, 1, false, false⟩,  -- COLL_COUNTERS
  ⟨0x7810, 0x7810, 1, 1, .u32, .ro, 0, 0, 4294967295, 1, false, false⟩,  -- DONE
  ⟨0x7810, 0x7810, 2, 2, .u32, .ro, 0, 0, 4294967295, 1, false, false⟩,  -- ABORTED
  ⟨0x7810, 0x7810, 3, 3, .u32, .ro, 0, 0, 4294967295, 1, false, false⟩,  -- TIMEOUTS
  ⟨0x7810, 0x7810, 4, 4, .u32, .ro, 0, 0, 4294967295, 1, false, false⟩,  -- LINK_DOWN_ABORTS
  ⟨0x7810, 0x7810, 5, 5, .u32, .ro, 0, 0, 4294967295, 1, false, false⟩,  -- DUPLICATES
  ⟨0x7810, 0x7810, 6, 6, .u32, .ro, 0, 0, 4294967295, 1, false, false⟩,  -- LATE_DISCARDS
  ⟨0x7810, 0x7810, 7, 7, .u32, .ro, 0, 0, 4294967295, 1, false, false⟩,  -- RESIDUE_FAILS
  ⟨0x7810, 0x7810, 8, 8, .u32, .ro, 0, 0, 4294967295, 1, false, false⟩,  -- ADDER_CHECK_FAILS
  ⟨0x7810, 0x7810, 9, 9, .u32, .ro, 0, 0, 4294967295, 1, false, false⟩,  -- REFORMS
  ⟨0x7810, 0x7810, 10, 10, .u32, .ro, 0, 0, 4294967295, 1, false, false⟩,  -- MISMATCHES
  ⟨0x7810, 0x7810, 11, 11, .u32, .ro, 0, 0, 4294967295, 1, false, false⟩]  -- DEF_MISMATCHES

/-- The entries of chapter 17. -/
def rowsFabric : List Entry := [
  ⟨0x8000, 0x8000, 1, 4, .u16, .ro, 0, 0, 65535, 1, false, false⟩,  -- FAB_VDD_NOW
  ⟨0x8001, 0x8001, 1, 4, .int16, .ro, 0, 0, 16, 1, false, false⟩,  -- FAB_TEMP
  ⟨0x8002, 0x8002, 1, 4, .u16, .ro, 0, 0, 65535, 1, false, false⟩,  -- HANDSHAKE_NOW
  ⟨0x8003, 0x8003, 1, 16, .u8, .ro, 0, 0, 255, 1, false, false⟩,  -- LOT_STATE
  ⟨0x8004, 0x8004, 1, 16, .u16, .ro, 0, 0, 65535, 1, false, false⟩,  -- LOT_FENCE_CAUSE
  ⟨0x8010, 0x8010, 0, 0, .u16, .rw, 750, 600, 800, 10, true, false⟩,  -- FAB_VDD_TARGET
  ⟨0x8011, 0x8011, 0, 0, .u16, .ro, 550, 0, 65535, 1, false, false⟩,  -- FAB_BROWNOUT_LEVEL
  ⟨0x8012, 0x8012, 0, 0, .u32, .rw, 100, 1, 60000, 1, true, false⟩,  -- QC_STALL_LIMIT
  ⟨0x8020, 0x8020, 1, 4, .u8, .rw, 0, 0, 255, 1, true, false⟩,  -- IOB_STANDARD
  ⟨0x8021, 0x8021, 1, 4, .u8, .ro, 0, 0, 255, 1, false, false⟩,  -- IOB_STATE
  ⟨0x8022, 0x8022, 1, 4, .u16, .ro, 0, 0, 65535, 1, false, false⟩,  -- IOB_VCC_NOW
  ⟨0x8023, 0x8023, 1, 4, .u16, .rw, 3200, 400, 3200, 100, true, false⟩,  -- SER_RATE
  ⟨0x8024, 0x8024, 1, 4, .u16, .ro, 0, 0, 65535, 1, false, false⟩,  -- SER_LANE_STATUS
  ⟨0x8030, 0x8030, 1, 128, .u8, .ro, 0, 0, 255, 1, false, false⟩,  -- QC_MODE_NOW
  ⟨0x8031, 0x8031, 1, 128, .u16, .ro, 0, 0, 65535, 1, false, false⟩,  -- QC_FILL
  ⟨0x8032, 0x8032, 1, 128, .u16, .rw, 65535, 0, 65535, 1, true, false⟩,  -- QC_PEER
  ⟨0x8040, 0x8040, 1, 32, .u32, .rw, 0, 0, 4294967295, 1, false, false⟩,  -- PROBE_SELECT
  ⟨0x8041, 0x8041, 1, 32, .u32, .ro, 0, 0, 4294967295, 1, false, false⟩,  -- PROBE_TRANSITIONS
  ⟨0x8042, 0x8042, 1, 32, .u64, .ro, 0, 0, 18446744073709551615, 1, false, false⟩,  -- PROBE_LAST
  ⟨0x8050, 0x8050, 0, 0, .u8, .ro, 7, 0, 255, 1, false, false⟩,  -- FABRIC_COUNTERS
  ⟨0x8050, 0x8050, 1, 1, .u64, .ro, 0, 0, 18446744073709551615, 1, false, false⟩,  -- QC_WORDS_IN
  ⟨0x8050, 0x8050, 2, 2, .u64, .ro, 0, 0, 18446744073709551615, 1, false, false⟩,  -- QC_WORDS_OUT
  ⟨0x8050, 0x8050, 3, 3, .u32, .ro, 0, 0, 4294967295, 1, false, false⟩,  -- QC_DISCARDS
  ⟨0x8050, 0x8050, 4, 4, .u32, .ro, 0, 0, 4294967295, 1, false, false⟩,  -- LOT_FENCES
  ⟨0x8050, 0x8050, 5, 5, .u32, .ro, 0, 0, 4294967295, 1, false, false⟩,  -- SER_OVERRUNS
  ⟨0x8050, 0x8050, 6, 6, .u32, .ro, 0, 0, 4294967295, 1, false, false⟩,  -- SER_UNDERRUNS
  ⟨0x8050, 0x8050, 7, 7, .u32, .ro, 0, 0, 4294967295, 1, false, false⟩]  -- BROWNOUTS

/-- The entries of chapter 18. -/
def rowsLoading : List Entry := [
  ⟨0x8800, 0x8800, 0, 0, (.domain 30088192), .wo, 0, 0, 0, 1, false, true⟩,  -- FABRIC_IMAGE
  ⟨0x8801, 0x8801, 0, 0, (.domain 1880512), .wo, 0, 0, 0, 1, false, true⟩,  -- LOT_IMAGE
  ⟨0x8802, 0x8802, 1, 16, .u64, .ro, 0, 0, 18446744073709551615, 1, false, false⟩,  -- LOADED_DESIGN_ID
  ⟨0x8803, 0x8803, 1, 4, (.octets 97), .rw, 0, 0, 0, 1, true, true⟩,  -- SIGNER_KEY
  ⟨0x8810, 0x8810, 0, 0, .boolean, .rw, 1, 0, 1, 1, true, false⟩,  -- FABRIC_AUTOLOAD
  ⟨0x8811, 0x8811, 0, 0, .u8, .rw, 0, 0, 1, 1, false, false⟩,  -- FABRIC_LOAD
  ⟨0x8812, 0x8812, 1, 16, .u8, .rw, 0, 0, 4, 1, false, false⟩,  -- LOT_COMMAND
  ⟨0x8813, 0x8813, 1, 16, .u8, .rw, 1, 0, 2, 1, true, false⟩,  -- SCRUB_POLICY
  ⟨0x8814, 0x8814, 0, 0, .boolean, .rw, 0, 0, 1, 1, true, true⟩,  -- READBACK_PERMIT
  ⟨0x8815, 0x8815, 0, 0, .u8, .rw, 0, 0, 1, 1, false, true⟩,  -- TEST_PORT_SOURCE
  ⟨0x8816, 0x8816, 0, 0, .u8, .rw, 100, 1, 100, 1, true, false⟩,  -- INTERNAL_TCK
  ⟨0x8820, 0x8820, 0, 0, .u8, .ro, 0, 0, 255, 1, false, false⟩,  -- LOAD_STATE
  ⟨0x8821, 0x8821, 0, 0, .u16, .ro, 0, 0, 65535, 1, false, false⟩,  -- LOAD_ERROR
  ⟨0x8822, 0x8822, 0, 0, .u32, .ro, 0, 0, 4294967295, 1, false, false⟩,  -- LOAD_FRAMES
  ⟨0x8830, 0x8830, 1, 4, .u8, .ro, 0, 0, 255, 1, false, false⟩,  -- SCRUBBER_STATE
  ⟨0x8831, 0x8831, 1, 4, .u32, .ro, 0, 0, 4294967295, 1, false, false⟩,  -- SCRUB_PASSES
  ⟨0x8840, 0x8840, 0, 0, .u8, .ro, 9, 0, 255, 1, false, false⟩,  -- LOAD_COUNTERS
  ⟨0x8840, 0x8840, 1, 1, .u32, .ro, 0, 0, 4294967295, 1, false, false⟩,  -- LOADS_DONE
  ⟨0x8840, 0x8840, 2, 2, .u32, .ro, 0, 0, 4294967295, 1, false, false⟩,  -- LOADS_FAILED
  ⟨0x8840, 0x8840, 3, 3, .u32, .ro, 0, 0, 4294967295, 1, false, false⟩,  -- CORRECTIONS
  ⟨0x8840, 0x8840, 4, 4, .u32, .ro, 0, 0, 4294967295, 1, false, false⟩,  -- UNCORRECTABLE
  ⟨0x8840, 0x8840, 5, 5, .u32, .ro, 0, 0, 4294967295, 1, false, false⟩,  -- SCRUB_RELOADS
  ⟨0x8840, 0x8840, 6, 6, .u32, .ro, 0, 0, 4294967295, 1, false, false⟩,  -- SCRUB_FENCES
  ⟨0x8840, 0x8840, 7, 7, .u32, .ro, 0, 0, 4294967295, 1, false, false⟩,  -- TABLE_CORRECTIONS
  ⟨0x8840, 0x8840, 8, 8, .u32, .ro, 0, 0, 4294967295, 1, false, false⟩,  -- VOTE_CORRECTIONS
  ⟨0x8840, 0x8840, 9, 9, .u32, .ro, 0, 0, 4294967295, 1, false, false⟩,  -- SENTINEL_FAILS
  ⟨0x8841, 0x8841, 1, 16, .u32, .ro, 0, 0, 4294967295, 1, false, false⟩]  -- LOT_MISMATCHES

/-- The entries of chapter 19. -/
def rowsSweep : List Entry := [
  ⟨0x3100, 0x3100, 0, 0, .u8, .ro, 0, 0, 255, 1, false, false⟩,  -- SWEEP_STATE
  ⟨0x3101, 0x3101, 0, 0, .u8, .ro, 0, 0, 255, 1, false, false⟩,  -- SWEEP_PHASE
  ⟨0x3102, 0x3102, 0, 0, .u8, .ro, 0, 0, 255, 1, true, false⟩,  -- LAST_OUTCOME
  ⟨0x3103, 0x3103, 0, 0, .u16, .ro, 0, 0, 65535, 1, true, false⟩,  -- LAST_OUTCOME_CAUSE
  ⟨0x3104, 0x3104, 0, 0, (.domain 8580), .ro, 0, 0, 0, 1, false, false⟩,  -- VERDICT
  ⟨0x3105, 0x3105, 0, 0, .u32, .ro, 0, 0, 4294967295, 1, true, false⟩,  -- VERDICT_SEQUENCE
  ⟨0x3106, 0x3106, 0, 0, .u64, .ro, 0, 0, 18446744073709551615, 1, false, false⟩,  -- SWEEP_SLOT_CYCLE
  ⟨0x3110, 0x3110, 0, 0, .u8, .rw, 255, 0, 255, 1, true, false⟩,  -- SWEEP_SLOT
  ⟨0x3111, 0x3111, 0, 0, .u8, .rw, 16, 1, 64, 1, true, false⟩,  -- SWEEP_SLOTS
  ⟨0x3112, 0x3112, 0, 0, .u16, .rw, 8, 2, 256, 1, true, false⟩,  -- SWEEP_SLOT_CYCLES
  ⟨0x3113, 0x3113, 0, 0, .u16, .rw, 700, 500, 1100, 1, true, false⟩,  -- SWEEP_LEVEL
  ⟨0x3114, 0x3114, 0, 0, .boolean, .rw, 1, 0, 1, 1, true, false⟩,  -- SWEEP_MARGIN
  ⟨0x3120, 0x3120, 0, 0, .u8, .ro, 5, 0, 255, 1, false, false⟩,  -- SWEEP_COUNTERS
  ⟨0x3120, 0x3120, 1, 1, .u32, .ro, 0, 0, 4294967295, 1, true, false⟩,  -- COMPLETED
  ⟨0x3120, 0x3120, 2, 2, .u32, .ro, 0, 0, 4294967295, 1, true, false⟩,  -- SKIPPED
  ⟨0x3120, 0x3120, 3, 3, .u32, .ro, 0, 0, 4294967295, 1, true, false⟩,  -- ABANDONED
  ⟨0x3120, 0x3120, 4, 4, .u32, .ro, 0, 0, 4294967295, 1, true, false⟩,  -- UNITS_FAILED
  ⟨0x3120, 0x3120, 5, 5, .u32, .ro, 0, 0, 4294967295, 1, true, false⟩]  -- FENCES_CLEARED

/-- The entries of chapter 20. -/
def rowsContain : List Entry := [
  ⟨0x9000, 0x9000, 0, 0, (.domain 262144), .ro, 0, 0, 0, 1, false, false⟩,  -- ERROR_LOG
  ⟨0x9001, 0x9001, 0, 0, (.domain 16384), .ro, 0, 0, 0, 1, false, false⟩,  -- EVENT_LOG
  ⟨0x9002, 0x9002, 0, 0, .u32, .ro, 0, 0, 4294967295, 1, true, false⟩,  -- LAST_SEQUENCE
  ⟨0x9003, 0x9003, 0, 0, (.octets 64), .ro, 0, 0, 0, 1, false, false⟩,  -- LAST_RECORD
  ⟨0x9004, 0x9004, 0, 0, .u16, .wo, 0, 49642, 49642, 1, false, true⟩,  -- LOG_CLEAR
  ⟨0x9010, 0x9010, 0, 0, .u16, .rw, 1000, 100, 60000, 1, true, false⟩,  -- REPEAT_WINDOW
  ⟨0x9011, 0x9011, 1, 6, .u32, .ro, 0, 0, 4294967295, 1, true, false⟩,  -- CLASS_COUNTS
  ⟨0x9012, 0x9012, 0, 0, .u8, .rw, 2, 0, 5, 1, true, false⟩,  -- HOST_NOTIFY_CLASS
  ⟨0x9013, 0x9013, 0, 0, .u8, .rw, 2, 1, 4, 1, true, false⟩,  -- REPLAY_LIMIT
  ⟨0x9014, 0x9014, 0, 0, .u32, .rw, 100, 10, 10000, 1, true, false⟩,  -- WEDGE_LIMIT
  ⟨0x9015, 0x9015, 0, 0, .u16, .rw, 100, 20, 5000, 1, true, false⟩,  -- STATION_WATCHDOG
  ⟨0x9020, 0x9020, 0, 0, .u8, .ro, 4, 0, 255, 1, false, false⟩,  -- CONTAIN_COUNTERS
  ⟨0x9020, 0x9020, 1, 1, .u32, .ro, 0, 0, 4294967295, 1, false, false⟩,  -- RECORDS_FOLDED
  ⟨0x9020, 0x9020, 2, 2, .u32, .ro, 0, 0, 4294967295, 1, false, false⟩,  -- RECORDS_DROPPED
  ⟨0x9020, 0x9020, 3, 3, .u32, .ro, 0, 0, 4294967295, 1, false, false⟩,  -- STEPS_REPLAYED
  ⟨0x9020, 0x9020, 4, 4, .u32, .ro, 0, 0, 4294967295, 1, true, false⟩,  -- SLED_FATALS
  ⟨0x9030, 0x9030, 1, 1, .u8, .ro, 0, 0, 255, 1, true, false⟩,  -- STACK_FENCES
  ⟨0x9030, 0x9030, 2, 2, .u16, .ro, 0, 0, 65535, 1, true, false⟩,  -- CELLAR_FENCES
  ⟨0x9030, 0x9030, 3, 3, .u32, .ro, 0, 0, 4294967295, 1, true, false⟩,  -- ARRAY_FENCES
  ⟨0x9030, 0x9030, 4, 4, .u8, .ro, 0, 0, 255, 1, true, false⟩]  -- STATION_FENCES

/-- Every entry of every chapter, in index order. -/
def dictRows : List Entry :=
  rowsScope ++
  rowsRoundabout ++
  rowsGovernor ++
  rowsLife ++
  rowsKiosk ++
  rowsNet ++
  rowsHost ++
  rowsNumeric ++
  rowsTiles ++
  rowsMovers ++
  rowsUcode ++
  rowsArrays ++
  rowsJunction ++
  rowsLinks ++
  rowsColl ++
  rowsFabric ++
  rowsLoading ++
  rowsSweep ++
  rowsContain
/-- The key under which an entry's value is held. -/
def objKey (idx sub : Nat) : Nat := idx * 256 + sub

/-- Does a row cover the entry. -/
def Entry.covers (e : Entry) (idx sub : Nat) : Bool :=
  decide (e.idxLo ≤ idx) && decide (idx ≤ e.idxHi) && decide (e.subLo ≤ sub) && decide (sub ≤ e.subHi)

/-- The row listed for an entry. -/
def listedEntry (idx sub : Nat) : Option Entry := dictRows.find? fun e => e.covers idx sub

/-- The highest subindex that any row lists for an index. -/
def highestSub (idx : Nat) : Nat :=
  dictRows.foldl (fun m e => if e.idxLo ≤ idx ∧ idx ≤ e.idxHi then max m e.subHi else m) 0

/-- Some row lists the index (R280). -/
def indexExists (idx : Nat) : Bool := dictRows.any fun e => decide (e.idxLo ≤ idx) && decide (idx ≤ e.idxHi)

/-- The entry at an index and subindex; subindex 0 of every record and array exists (R222). -/
def findEntry (idx sub : Nat) : Option Entry :=
  match listedEntry idx sub with
  | some e => some e
  | none =>
    if sub = 0 ∧ indexExists idx then
      some { idxLo := idx, idxHi := idx, subLo := 0, subHi := 0, ty := .u8, acc := .ro,
             dflt := highestSub idx, hi := 255 }
    else none

/-- Subindex 0 of a record or array (R220, R234). -/
def isCountEntry (idx sub : Nat) : Bool := sub == 0 && decide (0 < highestSub idx)

/-- Width of a type in bytes; a DOMAIN's maximum length. -/
def ObjType.width : ObjType → Nat
  | .boolean => 1 | .int8 => 1 | .int16 => 2 | .int32 => 4 | .int64 => 8 | .u8 => 1 | .u16 => 2
  | .u32 => 4 | .u64 => 8 | .real32 => 4 | .string n => n | .octets n => n | .domain m => m

/-- The type code DESCRIBE reports. -/
def ObjType.code : ObjType → Nat
  | .boolean => 1 | .int8 => 2 | .int16 => 3 | .int32 => 4 | .int64 => 5 | .u8 => 6 | .u16 => 7
  | .u32 => 8 | .u64 => 9 | .real32 => 10 | .string _ => 11 | .octets _ => 12 | .domain _ => 13

/-- The entry holds a byte string rather than a number. -/
def ObjType.isBytes : ObjType → Bool
  | .string _ => true | .octets _ => true | _ => false

/-- The entry is a DOMAIN. -/
def ObjType.isDomain : ObjType → Bool
  | .domain _ => true | _ => false

/-- The access code DESCRIBE reports (R249). -/
def Access.code : Access → Nat
  | .ro => 1 | .wo => 2 | .rw => 3

/-- The Default column, entry by entry (R237): arrays whose entries differ are spelt out. -/
def objDefault (key : Nat) : Nat :=
  let idx := key / 256
  let sub := key % 256
  if idx = 0x7004 ∧ (sub = 5 ∨ sub = 6) then 2
  else if idx = 0x7010 ∧ 1 ≤ sub then 1 + 4 * (sub - 1)
  else if idx = 0x1223 ∧ sub = 1 then 2
  else match findEntry idx sub with
    | some e => e.dflt
    | none => 0

/-- The entry is kept in non-volatile storage (R238). -/
def isSaved (key : Nat) : Bool :=
  match findEntry (key / 256) (key % 256) with
  | some e => e.saved
  | none => false

/-- A package-held entry (R234): RO, not saved, in 0x4000-0x8FFF or 0xA000-0xAFFF, no count entry. -/
def packageHeld (idx sub : Nat) : Bool :=
  match findEntry idx sub with
  | none => false
  | some e =>
    (decide (0x4000 ≤ idx) && decide (idx ≤ 0x8FFF) || decide (0xA000 ≤ idx) && decide (idx ≤ 0xAFFF))
      && decide (e.acc = .ro) && !e.saved && !isCountEntry idx sub

end Sys2Proof.Machine
end

