-- ==== Sys2Proof/Machine/State.lean ====
section
/-! DEFINITION. The machine's state as plain data: every register, buffer, counter, mode and pin the spec gives the
sled, unit by unit, and the queue of waiting commands.  Default values of the fields are the reset values. -/

namespace Sys2Proof.Machine

/-! ## Roundabout (chapter 02) -/

/-- State codes of object 0x2000:00. -/
inductive RbState where
  | noRef | locked | coast | freewheel | slewing
  deriving DecidableEq, Repr

/-- The code of object 0x2000:00. -/
def RbState.code : RbState → Nat
  | .noRef => 0 | .locked => 1 | .coast => 2 | .freewheel => 3 | .slewing => 4

/-- Reference forms (R63, R64), as RB_FLAGS.FORM reports them. -/
inductive RefForm where
  | unset | pulse | sense
  deriving DecidableEq, Repr

/-- The code of RB_FLAGS.FORM. -/
def RefForm.code : RefForm → Nat
  | .unset => 0 | .pulse => 1 | .sense => 2

/-- An event comparator (R107 to R112, R398). -/
structure Comparator where
  /-- Loaded cycle. -/
  cycle : Nat := 0
  /-- Loaded tick. -/
  phase : Nat := 0
  /-- The queue, program or purpose the comparator serves (R398). -/
  tag : Nat := 0
  /-- BUSY: loaded and not yet fired. -/
  busy : Bool := false
  /-- LATE of its last firing (R110). -/
  late : Bool := false
  /-- The instant had passed when it was loaded (R110). -/
  passed : Bool := false
  /-- A late comparator waits for the next tick (R110). -/
  waitTick : Bool := false
  /-- It has fired, and its user has not yet taken the firing. -/
  fired : Bool := false
  /-- It fired on the present tick (R111). -/
  fresh : Bool := false
  deriving DecidableEq, Repr

/-- The Roundabout: everything chapter 02 gives it. -/
structure Roundabout where
  /-- Object 0x2000:00. -/
  state : RbState := .noRef
  /-- RB_CYCLE, 48 bits (R70). -/
  cycle : Nat := 0
  /-- RB_PHASE, 12 bits (R70). -/
  phase : Nat := 0
  /-- Start of the present tick length, in 10 ns / 2^32 (R69). -/
  tickStart : Nat := 0
  /-- Length of the present tick, in 10 ns / 2^32 (R69). -/
  tickLen : Nat := 2000000 * 2 ^ 20
  /-- Four times P_est, in 10 ns: the sum of four periods (R71). -/
  pEst4 : Nat := 8000000
  /-- The form fixed at lock (R67). -/
  form : RefForm := .unset
  /-- A lock has been declared since standby power was applied (R90). -/
  everLocked : Bool := false
  /-- Timestamp of the last crossing of any kind, 10 ns (R65, R1143). -/
  lastRaw : Option Nat := none
  /-- A run of valid periods is in progress (R1143). -/
  runActive : Bool := false
  /-- Valid periods of the run so far (R77). -/
  runLen : Nat := 0
  /-- The form of the run's first valid period (R76). -/
  runForm : RefForm := .unset
  /-- The run's last four valid periods, newest first, 10 ns. -/
  runHist : List Nat := []
  /-- Timestamp of the last accepted crossing, 10 ns (R79). -/
  lastAccepted : Nat := 0
  /-- Consecutive missing crossings (R82, R83). -/
  missing : Nat := 0
  /-- The last four accepted one-cycle periods, newest first, 10 ns (R71). -/
  hist : List Nat := []
  /-- Corrections still to apply: the sign gives the direction (R86, R87). -/
  corr : Int := 0
  /-- Correction decided for the point being held: +1, -1 or 0 (R88, R89). -/
  corrHere : Int := 0
  /-- Object 0x2005:00: e at the last accepted crossing (R85). -/
  err : Int := 0
  /-- Ticks counted since the last loss; object 0x2006:00 is a 4,096th of it. -/
  freewheelTicks : Nat := 0
  /-- RB_FLAGS.FREEWHEEL_LONG (R117). -/
  freewheelLong : Bool := false
  /-- RB_FLAGS.UNNUMBERED (R100). -/
  unnumbered : Bool := true
  /-- RB_FLAGS.CYCLE_MISMATCH (R103). -/
  mismatch : Bool := false
  /-- Pending negative D, as its magnitude; zero when none (R103, 0x2007:00). -/
  pendingNeg : Nat := 0
  /-- D to apply at the next cycle boundary (R101, R102, R105). -/
  applyD : Option Int := none
  /-- The pending application is the first since standby power (R101). -/
  applyFirst : Bool := false
  /-- A cycle boundary is passing: RB_CYCLE has just incremented (R101). -/
  atCycleStart : Bool := false
  /-- A half-cycle boundary is due and not yet taken (R74, R164). -/
  boundaryDue : Bool := false
  /-- Ticks still to repeat after a backward first-lock step (R90, R164). -/
  repeatLeft : Nat := 0
  /-- Start of the last passing of tick 1,024, and its cycle (R99). -/
  mark1024 : Option (Nat × Nat) := none
  /-- The package's copy of the count (R75). -/
  pkgCycle : Nat := 0
  /-- The package's copy of the count (R75). -/
  pkgPhase : Nat := 0
  /-- The 16 kiosk comparators. -/
  kioskCmp : Tab Comparator := []
  /-- The 64 package comparators PC00-PC63 (R398). -/
  pkgCmp : Tab Comparator := []
  deriving DecidableEq, Repr

/-! ## Governor and input stage (chapter 03) -/

/-- State codes of object 0x2100:00. -/
inductive GovState where
  | off | precharge | regulating | brownout | curfew | removal
  deriving DecidableEq, Repr

/-- The code of object 0x2100:00. -/
def GovState.code : GovState → Nat
  | .off => 0 | .precharge => 1 | .regulating => 2 | .brownout => 3 | .curfew => 4 | .removal => 5

/-- Which sequence of R160 and R171 runs. -/
inductive DropCause where
  | curfew | removal
  deriving DecidableEq, Repr

/-- The curfew or removal sequence in progress (R160, R171, R175). -/
structure DropSeq where
  cause : DropCause
  /-- The moment t0 of event 2, ns. -/
  t0 : Nat
  /-- Events 2 to 10 already taken: the number of the last one. -/
  event : Nat := 2
  /-- The other cause arose during the sequence (R175). -/
  both : Bool := false
  deriving DecidableEq, Repr

/-- The governor and the input stage. -/
structure Governor where
  /-- Object 0x2100:00. -/
  state : GovState := .off
  /-- The input switch is fully closed (R126, R160). -/
  switchClosed : Bool := false
  /-- MAIN_54V at the last sample, mV (R128). -/
  mainMv : Nat := 0
  /-- The bulk voltage at the last sample, mV (R126). -/
  bulkMv : Nat := 0
  /-- The last 16 voltage samples, newest first (0x2102:00). -/
  volts : List Nat := []
  /-- The last 16 power samples in mW, newest first (R128). -/
  power : List Nat := []
  /-- Sum of the half-cycle's samples, mW (R130). -/
  sumMw : Nat := 0
  /-- Number of the half-cycle's samples (R130). -/
  samples : Nat := 0
  /-- A of the last completed half-cycle, mW (R130). -/
  aMw : Nat := 0
  /-- Ceiling of the present half-cycle, mW. -/
  ceilMw : Nat := 0
  /-- Floor of the present half-cycle, mW. -/
  floorMw : Nat := 0
  /-- Effective U of the present half-cycle, mW (R134). -/
  uMw : Nat := 0
  /-- Effective D of the present half-cycle, mW (R134). -/
  dMw : Nat := 0
  /-- hold_back in sixteenths (R139). -/
  holdBack : Nat := 0
  /-- Samples since hold_back was last lowered. -/
  holdTimer : Nat := 0
  /-- ballast_level, 0 to 15 (R141). -/
  ballast : Nat := 0
  /-- Samples since ballast_level was last lowered by the slow rule. -/
  ballastTimer : Nat := 0
  /-- Tile clock, MHz (R150). -/
  clock : Nat := 1800
  /-- idle_half_cycles (R138). -/
  idleHalf : Nat := 0
  /-- A work instruction issued in this half-cycle (R138). -/
  workThis : Bool := false
  /-- hold_back was above zero in this half-cycle (0x2130:02). -/
  heldThis : Bool := false
  /-- Sum of hold_back over the half-cycle's samples (R151). -/
  holdSum : Nat := 0
  /-- Half-cycles in a row whose mean hold_back lay below 1/16 (R152). -/
  lowHalves : Nat := 0
  /-- UP_SLEW limit register, W (R134). -/
  upReg : Nat := 200
  /-- DOWN_SLEW limit register, W (R134). -/
  downReg : Nat := 300
  /-- POWER_CAP in force, W (R143). -/
  capNow : Nat := 1600
  /-- BALLAST_DEPTH in force, W (R143). -/
  depthNow : Nat := 50
  /-- IDLE_RELEASE in force (R143). -/
  idleReleaseNow : Nat := 8
  /-- BALLAST_SPARES in force (R143). -/
  sparesNow : Bool := true
  /-- BROWNOUT_THRESHOLD in force, 10 mV (R143). -/
  brownThr : Nat := 4800
  /-- CLOCK_FLOOR in force, MHz (R143). -/
  clockFloorNow : Nat := 1200
  /-- GOV_FLAGS.CLAMPED (R134). -/
  clamped : Bool := false
  /-- GOV_FLAGS.CAP_DESCENT (R149). -/
  capDescent : Bool := false
  /-- GOV_FLAGS.OVERVOLTAGE (R170). -/
  overVolt : Bool := false
  /-- The depth in force equals D by the idle rule (GOV_FLAGS.IDLE_RELEASED). -/
  idleReleased : Bool := false
  /-- The depth is D whatever idle_half_cycles holds (R176, R196). -/
  fullDepth : Bool := false
  /-- The ceiling a SLED_FATAL without ballast holds, mW (R178). -/
  fatalCapMw : Option Nat := none
  /-- A SLED_FATAL without ballast arose in the present half-cycle (R178). -/
  fatalDue : Bool := false
  /-- Since when MAIN_54V has been at or above 49.0 V (R127). -/
  okSince : Option Nat := none
  /-- MAIN_54V has qualified for precharge (R127). -/
  inputOk : Bool := false
  /-- Since when MAIN_54V has been below the brownout threshold (R167). -/
  brownSince : Option Nat := none
  /-- Since when MAIN_54V has been at or above the threshold plus 0.50 V (R168). -/
  brownOkSince : Option Nat := none
  /-- Since when MAIN_54V has been above 58.0 V (R170). -/
  overSince : Option Nat := none
  /-- Since when MAIN_54V has been below 46.0 V (R157). -/
  lowSince : Option Nat := none
  /-- Since when PF_WARN_N has been asserted (R157). -/
  pfSince : Option Nat := none
  /-- Brownout is due at the next boundary (R167). -/
  brownDue : Bool := false
  /-- Leaving brownout is due at the next boundary (R168). -/
  brownClearDue : Bool := false
  /-- The OVERVOLTAGE record is due at the next boundary (R170). -/
  overDue : Bool := false
  /-- The OVERVOLTAGE record of this excursion has been written. -/
  overNoted : Bool := false
  /-- Ballast energy below one mJ, nJ (R147). -/
  ballastNj : Nat := 0
  /-- The sequence of R160 or R171, while it runs. -/
  drop : Option DropSeq := none
  /-- Main-domain supply groups enabled, 0 to 5 (R1132). -/
  supplyGroups : Nat := 0
  /-- Draw that the supply sequence permits so far, mW (R1132). -/
  supplyMw : Nat := 0
  /-- Core rails, HBM, and cellar with fabric and retimers are powered (R160). -/
  railsOn : Bool := false
  hbmOn : Bool := false
  cellarOn : Bool := false
  deriving DecidableEq, Repr

/-! ## Life states (chapter 04) -/

/-- Life states (R179, R180). -/
inductive LifeState where
  | absent | standby | precharge | powered | verdict | training | joined | running | degraded
  | departReq | draining | left | sweep | curfew | off | resetHeld
  deriving DecidableEq, Repr

/-- The code of object 0x3000:00. -/
def LifeState.code : LifeState → Nat
  | .absent => 0 | .standby => 1 | .precharge => 2 | .powered => 3 | .verdict => 4 | .training => 5
  | .joined => 6 | .running => 7 | .degraded => 8 | .departReq => 9 | .draining => 10 | .left => 11
  | .sweep => 12 | .curfew => 13 | .off => 14 | .resetHeld => 15

/-- The stages of an ordered shutdown or a reset descent (R176, R196). -/
inductive Descent where
  /-- No descent. -/
  | idle
  /-- A full reset descends; package reset follows (R176). -/
  | toReset
  /-- An ordered shutdown descends; package reset follows (R196). -/
  | toOff
  /-- Package reset is asserted; the switch opens next (R196, R197). -/
  | resetAsserted
  deriving DecidableEq, Repr

/-- The input pins and straps (R1097 to R1109). -/
structure Pins where
  /-- SB_12V in its operating range. -/
  standby : Bool := false
  /-- PRSNT_N asserted. -/
  prsnt : Bool := false
  /-- EARLY_N asserted. -/
  early : Bool := true
  /-- PF_WARN_N asserted. -/
  pfWarn : Bool := false
  /-- PERST_N asserted. -/
  perst : Bool := false
  /-- RESET_BTN_N asserted. -/
  btn : Bool := false
  /-- The host link is in Hot Reset (R408). -/
  hotReset : Bool := false
  /-- SLOT_ADDR[5:0] as sampled at kiosk start (0x100A:00). -/
  slotAddr : Nat := 0
  /-- Since when EARLY_N has been asserted (R171). -/
  earlySince : Option Nat := none
  deriving DecidableEq, Repr

/-- The life-state machine, the departure, the reset and the button. -/
structure Life where
  state : LifeState := .absent
  /-- Local time of entry, ns (0x3004:00). -/
  since : Nat := 0
  /-- Object 0x3002:00. -/
  lastCause : Nat := 0
  /-- Object 0x3003:00. -/
  startPath : Nat := 0
  drainTimedOut : Bool := false
  cellarRetained : Bool := false
  latchOpen : Bool := false
  /-- START_UNFIT inhibit (R191, R192, R1085). -/
  unfit : Bool := false
  /-- FIRMWARE_INVALID inhibit (R192, R218). -/
  fwInvalid : Bool := false
  /-- A valid image has been written since FIRMWARE_INVALID arose (R192). -/
  fwWritten : Bool := false
  /-- Since when the conditions of R182 have held. -/
  startSince : Option Nat := none
  /-- The conditions have qualified; precharge at the next boundary (R183). -/
  startDue : Bool := false
  /-- Object 0x3011:00: the departure code in force, 0 none. -/
  departCode : Nat := 0
  /-- Object 0x3015:00. -/
  departCycle : Nat := 0
  /-- State and POWER_TARGET before the departure request (R201). -/
  prevState : LifeState := .standby
  prevTarget : Nat := 1
  /-- A sweep is due on LEFT (R204). -/
  sweepDue : Bool := false
  descent : Descent := .idle
  /-- Start of RESET_HELD (R209). -/
  heldSince : Nat := 0
  /-- The button's own hold, past 2 s (R210). -/
  btnHold : Bool := false
  /-- The stuck hold (R211, R212). -/
  stuckHold : Bool := false
  /-- LIFE_FLAGS.RESET_STUCK (R211, R214). -/
  stuck : Bool := false
  /-- The press in progress: its start and the life state it began in (R210). -/
  press : Option (Nat × LifeState) := none
  /-- The press has already had its 2 s effect. -/
  pressActed : Bool := false
  /-- Since when the line has been deasserted (R210, R214). -/
  releasedSince : Option Nat := none
  /-- Object 0x3021:00 as a live override (R213). -/
  override : Bool := false
  /-- The package entered VERDICT from RESET_HELD (R189). -/
  fromHeld : Bool := false
  /-- OFF was entered at event 10: changing requests are still refused (R287). -/
  dropOff : Bool := false
  /-- The package's last start, ns of local time (0x8042). -/
  packageAt : Nat := 0
  /-- A departure request arrived in PRECHARGE and waits for POWERED (R205, log entry 16). -/
  departWaits : Bool := false
  deriving DecidableEq, Repr

/-! ## Records and containment (chapter 20) -/

/-- A record (R1053), CRC left out: it is computed when the record is read. -/
structure LogRecord where
  cause : Nat
  cls : Nat
  summary : Bool := false
  unitType : Nat := 0
  subcause : Nat := 0
  unit : Nat := 0
  sequence : Nat := 0
  tag : Nat := 0
  queue : Nat := 0xFFFF
  sledAddress : Nat := 0
  cycle : Nat := 0
  phase : Nat := 0
  life : Nat := 0
  repeats : Nat := 0
  localNs : Nat := 0
  detail0 : Nat := 0
  detail1 : Nat := 0
  detail2 : Nat := 0
  deriving DecidableEq, Repr

/-- An open repeat window (R1061). -/
structure RepeatWindow where
  /-- Forming of the record that opened it, ns. -/
  start : Nat
  /-- Its length, ns. -/
  len : Nat
  /-- Occurrences folded. -/
  count : Nat := 0
  /-- Sum of the folded DETAIL2 values (R1148). -/
  sum2 : Nat := 0
  /-- The last occurrence, which names the triple. -/
  last : LogRecord
  deriving DecidableEq, Repr

/-- Bytes of a station core at a place: a store that other agents do not see yet (R551), or what LR read. -/
structure StationStore where
  place : StationPlace
  addr : Nat
  data : List Byte
  deriving DecidableEq, Repr

/-- A station core (R554, R555, R1068 to R1070). -/
structure StationCore where
  fenced : Bool := false
  /-- Local time of the last heartbeat change, ns. -/
  beat : Nat := 0
  /-- Stores that other agents do not see yet, oldest first; none is a fence that orders stores (R551, R554). -/
  buffer : List (Option StationStore) := []
  /-- The value of the last load, LR or atomic, or 0 and 1 of an SC that did and did not store. -/
  loaded : List Byte := []
  /-- The reservation of LR, with the bytes it read (R555). -/
  reserved : Option StationStore := none
  /-- The access fault taken last: 5 load, 7 store or atomic (R523, R555). -/
  trap : Option Nat := none
  deriving DecidableEq, Repr

/-- Records, logs and station cores. -/
structure Contain where
  /-- SEQUENCE of the last record formed (R1056). -/
  sequence : Nat := 0
  /-- Object 0x9002:00. -/
  lastCommitted : Nat := 0
  /-- The buffer of 64 and 16 places, oldest first (R1059). -/
  buffer : List LogRecord := []
  /-- Local time at which the oldest buffered record formed, ns (R1059). -/
  bufferSince : Nat := 0
  /-- The error log, oldest first, at most 4,096 (R1058). -/
  errorLog : List LogRecord := []
  /-- The event log, oldest first, at most 256 (R1058). -/
  eventLog : List LogRecord := []
  windows : List RepeatWindow := []
  /-- Records dropped since the last LOG_OVERRUN occurrence (R1060, R1148). -/
  dropped : Nat := 0
  /-- No record is formed after event 2 (R1062). -/
  frozen : Bool := false
  cores : Tab StationCore := []
  /-- Run-time fences of stacks, cellar packages and arrays, saved (0x9030). -/
  stackFences : Nat := 0
  cellarFences : Nat := 0
  arrayFences : Nat := 0
  /-- A stack or cellar package has been fenced since the last start (R1082). -/
  memoryLost : Bool := false
  deriving DecidableEq, Repr

/-! ## The kiosk and the object dictionary (chapter 05) -/

/-- A recorded outcome of a session (R260, R261). -/
structure TxnOutcome where
  txn : Nat
  /-- It contained a changing operation (R1141). -/
  changing : Bool
  reply : List Byte
  deriving DecidableEq, Repr

/-- A session of either path (R258 to R266, R331 to R339). -/
structure Session where
  /-- 0 closed, 1 half-open, 2 open. -/
  phase : Nat := 0
  /-- 0 MONITOR, 1 OPERATOR, 2 AUTHORISED. -/
  rights : Nat := 0
  /-- H, once a request has been executed (R261). -/
  high : Option Nat := none
  /-- The 32 most recent outcomes, newest first (R260). -/
  record : List TxnOutcome := []
  /-- Credential slot 1 to 8; 0 for the mailbox (R335). -/
  slot : Nat := 0
  /-- Keys of R333; empty for the mailbox. -/
  keyC2s : List Byte := []
  keyS2c : List Byte := []
  /-- When the half-open session began, or the last frame verified, ns. -/
  seen : Nat := 0
  /-- A TAG_FAIL record has been written (R336). -/
  tagFailed : Bool := false
  /-- Snapshots of the two logs held for the session (R1063). -/
  snapError : Option (List Byte) := none
  snapEvent : Option (List Byte) := none
  deriving DecidableEq, Repr

/-- A request waiting in a path's queue (R258). -/
structure Request where
  /-- Mailbox path rather than the JOP path. -/
  mailbox : Bool
  session : Nat
  body : List Byte
  /-- Arrival, ns (R255). -/
  at_ : Nat
  /-- Source address and port of a JOP request: address times 65,536 plus port (R329). -/
  client : Nat := 0
  deriving DecidableEq, Repr

/-- The one open staging (R268 to R274). -/
structure Staging where
  session : Nat
  mailbox : Bool
  /-- Key of the DOMAIN (index times 256). -/
  key : Nat
  data : List Byte
  /-- Last WRITE_SEG, ns (R274). -/
  seen : Nat
  /-- A commit is being verified: its TXN (R273). -/
  verifying : Option Nat := none
  /-- Its session ended while the commit was being verified (R289). -/
  orphan : Bool := false
  /-- MB_STATUS.BUSY waits for this commit (R289). -/
  busy : Bool := false
  /-- Where the commit's REPLY goes (R273, R329). -/
  client : Nat := 0
  deriving DecidableEq, Repr

/-- A firmware image bank (R284, R1140, R1147). -/
structure Bank where
  /-- 0 when empty or invalid. -/
  version : Nat := 0
  data : List Byte := []
  deriving DecidableEq, Repr

/-- The kiosk: transactions, staging, mailbox registers and image banks. -/
structure Kiosk where
  /-- Local time of the kiosk's start, ns (R337, R1053). -/
  startedAt : Nat := 0
  /-- Values of RW and WO entries that differ from their defaults (R237). -/
  objects : Tab Nat := []
  /-- Values of byte-string entries that differ from their defaults. -/
  strings : Tab (List Byte) := []
  /-- Counter entries of every object, saturating. -/
  counters : Tab Nat := []
  /-- JOP sessions by session number (R331 to R339). -/
  sessions : Tab Session := []
  /-- The number the next session takes. -/
  nextSession : Nat := 1
  /-- The open mailbox session's number; 0 when none (MB_SESSION_ID). -/
  mbSession : Nat := 0
  mbSess : Session := {}
  jopQueue : List Request := []
  mbQueue : List Request := []
  /-- The path to serve next, when decided: true for the mailbox (R255). -/
  turn : Option Bool := none
  staging : Option Staging := none
  /-- Mailbox registers (R275). -/
  mbReqLength : Nat := 0
  mbRspLength : Nat := 0
  mbVector : Nat := 0xFFFF
  mbBusy : Bool := false
  mbDone : Bool := false
  mbFault : Bool := false
  mbRequest : Memory := []
  mbResponse : List Byte := []
  /-- Banks A and B of station, kiosk and policy images (R1147). -/
  stationA : Bank := {}
  stationB : Bank := {}
  kioskA : Bank := {}
  kioskB : Bank := {}
  policyA : Bank := {}
  policyB : Bank := {}
  /-- Running bank of each kind: 0 none since standby power, 1 A, 2 B (R285). -/
  stationBank : Nat := 0
  kioskBank : Nat := 0
  policyBank : Nat := 0
  /-- The station bank that a commit has written since the present entry into POWERED, 0 none: its image waits for the next
  entry (R286, R1139). -/
  stationNew : Nat := 0
  /-- Station firmware runs (0x1008:02, 0x1008:03). -/
  stationRunning : Bool := false
  /-- Sub-second count of SESSION_OPEN frames and its second (R337). -/
  openSecond : Nat := 0
  openCount : Nat := 0
  deriving DecidableEq, Repr

/-- What leaves the sled at its boundary, oldest first. -/
inductive Emission where
  /-- A JOP frame in a UDP packet from the sled's link-local address: IPv6 hop limit, source port, destination (address times
  65,536 plus port) and bytes (R294, R295, R329). -/
  | frame (hopLimit srcPort dst : Nat) (bytes : List Byte)
  /-- A DMA write into host memory by MSI-X. -/
  | msi (vector : Nat)
  /-- A slab on a link port. -/
  | slab (port : Nat) (bytes : List Byte)
  /-- An ICMPv6 message with hop limit 255: source and destination address, and bytes (R293). -/
  | icmp (src dst : Nat) (bytes : List Byte)
  /-- Data returned for a configuration read; a configuration request answered with Retry Status (R350). -/
  | configRead (value : Nat)
  | configRetry
  /-- A serialiser lane's 16 bits, in the order they are on the wire (R951). -/
  | lane (bank lane : Nat) (bits : List Bool)
  /-- Data returned to the host for a read. -/
  | hostRead (bytes : List Byte)
  /-- Poisoned data returned to the host for a read (R523). -/
  | hostPoison (length : Nat)
  /-- A peer memory request on VC6; its slab layout is not published. -/
  | peerRequest (access sled offset length : Nat) (data : Option (List Byte))
  /-- A peer memory response on VC7: 0 served, with data read; 1 refused; 2 poisoned. -/
  | peerReply (borrower status : Nat) (data : List Byte)
  /-- A value shifted out of the test port. -/
  | tap (value : Nat)
  deriving DecidableEq, Repr

/-! ## The field network (chapter 06) -/

/-- States of the network.  Low-power listen is a follower for which the conditions of R319 hold; it is computed. -/
inductive NetState where
  | down | listen | backoff | coordinator | follower | searching
  deriving DecidableEq, Repr

/-- The code of object 0x1200:00 outside low-power listen. -/
def NetState.code : NetState → Nat
  | .down => 0 | .listen => 1 | .backoff => 2 | .coordinator => 3 | .follower => 4
  | .searching => 6

/-- A notice waiting for its transmit opportunities (R341). -/
structure NetNotice where
  cause : Nat
  cycle : Nat
  phase : Nat := 0
  missed : Nat := 0
  /-- It has been sent once and waits for the next non-deferred beacon. -/
  sentOnce : Bool := false
  /-- Its second transmit opportunity has come (R341). -/
  again : Bool := false
  deriving DecidableEq, Repr

/-- The field network interface. -/
structure Net where
  state : NetState := .down
  /-- Node ID in force; 0xFF none (0x1202:00). -/
  nodeId : Nat := 0xFF
  nodeIdInvalid : Bool := false
  duplicate : Bool := false
  beaconMissed : Bool := false
  beaconLost : Bool := false
  /-- PLCA in force on the segment. -/
  plca : Bool := false
  /-- Beacon instants listened through without a beacon (R302). -/
  listened : Nat := 0
  /-- Beacon instants in a row without a beacon, as a follower (R343). -/
  silent : Nat := 0
  /-- Object 0x1210:00 was written; it takes effect at the next beacon instant (R300). -/
  idWritten : Bool := false
  /-- Object 0x1211:00 was written; it takes effect at the next beacon instant (R300). -/
  fallbackWritten : Bool := false
  /-- The fallback node ID in force (R300, R303). -/
  fallback : Nat := 31
  /-- Claim collisions so far (R306). -/
  collisions : Nat := 0
  /-- The claim beacon is on the wire. -/
  claiming : Bool := false
  /-- End of the backoff, ns (R306). -/
  backoffEnd : Nat := 0
  /-- A beacon instant has come and no non-deferred beacon has been heard in its cycle or since. -/
  awaiting : Bool := false
  /-- RB_CYCLE in which the last non-deferred beacon was heard or sent (R313, R320). -/
  gotCycle : Option Nat := none
  /-- The WAKE word of the last non-deferred beacon heard (R319). -/
  lastWake : Option Nat := none
  /-- A miss has been resolved and the Roundabout has not been LOCKED since (R327). -/
  afterMiss : Bool := false
  /-- RB_CYCLE times 4,096 plus RB_PHASE when SEARCHING began (R323). -/
  searchFrom : Nat := 0
  /-- Beacon instants missed since the miss (R326). -/
  missedInstants : Nat := 0
  /-- A RESYNC notice is due in the own status slot (R326). -/
  resync : Option NetNotice := none
  /-- The status frame of this period is still to be sent (R317). -/
  statusDue : Bool := false
  notices : List NetNotice := []
  /-- As coordinator: nodes heard in this period, and periods each has been silent. -/
  heardNow : Nat := 0
  silentPeriods : Tab Nat := []
  /-- PRESENT bits of the next beacon (R318). -/
  present : Nat := 0
  /-- Object 0x1240:00. -/
  membership : Nat := 0
  /-- Object 0x1241:00. -/
  coordinatorEui : Nat := 0
  /-- Local time at which duplicate address detection ends, ns (R293). -/
  dadUntil : Nat := 0
  /-- Duplicate address detection found another owner of the address (R293). -/
  conflict : Bool := false
  /-- Neighbours learned: IPv6 address to link-layer address (R293). -/
  neighbours : Tab Nat := []
  /-- Packets that wait for their destination's link-layer address (R293). -/
  unresolved : List (Nat × Emission) := []
  /-- Packets that the quiet window held back, oldest first (R313). -/
  held : List Emission := []
  deriving DecidableEq, Repr

/-! ## The host interface (chapter 07) -/

/-- Queue states (R364, R365, R400). -/
inductive QueueState where
  | disabled | enabled | flushing | error
  deriving DecidableEq, Repr

/-- The code of QC_STATUS[2:0]. -/
def QueueState.code : QueueState → Nat
  | .disabled => 0 | .enabled => 1 | .flushing => 2 | .error => 3

/-- How far a fetched descriptor has come. -/
inductive DescState where
  | fetched | gated | started | ended
  deriving DecidableEq, Repr

/-- A descriptor that occupies a pool slot (R375 to R381). -/
structure Desc where
  /-- Its number in the queue, counted over every fetch since package reset. -/
  index : Nat
  /-- Its 64 bytes. -/
  data : List Byte
  state : DescState := .fetched
  /-- The comparator it holds (R379). -/
  gate : Option Nat := none
  late : Bool := false
  replayed : Bool := false
  /-- Progress of the operation: bytes done, exit word, cause ... -/
  result : Nat := 0
  status : Nat := 0
  cause : Nat := 0
  /-- END_CYCLE and END_PHASE, once ended (R385). -/
  endCycle : Nat := 0
  endPhase : Nat := 0
  /-- Its queue was DISABLED while it ran (R405): true when its record is bound for host memory and will be discarded. -/
  stray : Option Bool := none
  /-- Last re-read of a WAIT's location, ns (R382). -/
  polled : Nat := 0
  deriving DecidableEq, Repr

/-- A queue: context registers, rings and the descriptors in flight. -/
structure Queue where
  ringBase : Nat := 0
  cplBase : Nat := 0
  config : Nat := 0
  slots : Nat := 0
  irq : Nat := 0
  state : QueueState := .disabled
  /-- QC_STATUS[31:16]. -/
  cause : Nat := 0
  head : Nat := 0
  /-- Descriptors fetched so far: the number of the next one. -/
  fetched : Nat := 0
  cplTail : Nat := 0
  tail : Nat := 0
  /-- CPL_HEAD as the driver last wrote it (R370). -/
  cplHead : Nat := 0
  /-- Free entries of the completion ring (R370). -/
  cplFree : Nat := 0
  /-- The PHASE bit of the present pass (R386). -/
  phase : Bool := true
  /-- Descriptors between fetch and completion record, ring order. -/
  flight : List Desc := []
  /-- Numbers of ended descriptors whose record is not yet written, in order of ending (R387). -/
  held : List Nat := []
  /-- Unsignalled records since the last raise, and the first one's time (R390). -/
  irqCount : Nat := 0
  irqSince : Nat := 0
  /-- A fetch is waiting for a pool slot (R375). -/
  stalled : Bool := false
  /-- A record's write has failed: the completion ring is unusable until the next ENABLE (R401). -/
  cplBroken : Bool := false
  /-- The last record written: its address and the bytes that stood there (R400, R401). -/
  lastRecord : Option (Nat × List Byte) := none
  /-- The group that owns the queue; 0 none (R360). -/
  group : Nat := 0
  deriving DecidableEq, Repr

/-- The host interface. -/
structure HostIf where
  /-- The data link is up (R349, R405). -/
  linkUp : Bool := false
  /-- Lanes of the trained link, and its rate in tenths of GT/s (R344); 0 before training. -/
  linkWidth : Nat := 0
  linkRate : Nat := 0
  /-- Start of link training, ns (R349). -/
  trainAt : Option Nat := none
  /-- The endpoint answers configuration requests (R350). -/
  ready : Bool := false
  /-- The link partner does not support Flit Mode (R345). -/
  flitRequired : Bool := false
  /-- GL_EVENT_CAUSE and GL_EVENT_MASK (R354). -/
  eventCause : Nat := 0
  eventMask : Nat := 0
  /-- GL_RB_CYCLE_HI and GL_RB_PHASE as latched (R353). -/
  latchHi : Nat := 0
  latchPhase : Nat := 0
  windowBase : Nat := 0
  /-- BAR2 size in GiB (R357). -/
  windowSize : Nat := 64
  queues : Tab Queue := []
  /-- Pending bits of the MSI-X pending bit array. -/
  pending : Tab Bool := []
  /-- The MSI-X table, byte by byte. -/
  msixTable : Memory := []
  /-- Base addresses that the host has written into BAR0, BAR2 and BAR4. -/
  bars : Tab Nat := []
  /-- Maximum payload and read request size in bytes, and 14-bit tags, as the host has set them (R347). -/
  maxPayload : Nat := 128
  maxRead : Nat := 512
  tags14 : Bool := false
  /-- AER status and mask registers (R347). -/
  aerUncor : Nat := 0
  aerUncorMask : Nat := 0
  aerCor : Nat := 0
  aerCorMask : Nat := 0
  deriving DecidableEq, Repr

/-! ## Tiles and memory tiers (chapters 10 to 12, 20) -/

/-- Tile states (object 0x5010). -/
inductive TileState where
  | active | spare | fused | failedTest | fencedRun
  deriving DecidableEq, Repr

/-- The code of object 0x5010. -/
def TileState.code : TileState → Nat
  | .active => 0 | .spare => 1 | .fused => 2 | .failedTest => 3 | .fencedRun => 4

/-- An operation issued to the matrix or vector unit and not yet finished (R662). -/
structure EngineOp where
  /-- The tile instruction, 128 bits. -/
  instr : Nat
  /-- Addresses read from S when it issued. -/
  dst : Nat
  srcA : Nat
  srcB : Nat
  srcC : Nat
  /-- Resolved arithmetic fields (R461, R463). -/
  rm : Nat
  subn : Nat
  stepwise : Bool
  wrap : Bool
  /-- Coarse scales at issue, FP32 bits. -/
  csa : Nat
  csb : Nat
  csd : Nat
  deriving DecidableEq, Repr

/-- A mover channel (R586 to R593). -/
structure Channel where
  /-- Tile-local addresses of the command records held, oldest first, at most 8, each with the number of engine
  operations its tile had issued before it (R556). -/
  commands : List (Nat × Nat) := []
  /-- The oldest command has started and not yet completed. -/
  started : Bool := false
  /-- The record and the two views as the start read them (R590). -/
  held : List Byte := []
  /-- Its elements have been moved. -/
  moved : Bool := false
  /-- Peer accesses of the started command not yet answered (R547, R583). -/
  waiting : Nat := 0
  /-- Peer bytes read for it, at sled * 2^48 + offset. -/
  peer : Memory := []
  /-- The cause of a fault not yet taken, because the tile was in a trap (R656). -/
  fault : Option Nat := none
  deriving DecidableEq, Repr

/-- A tile: its place in the active set, its sequencer, flag sets, scratchpad and mover. -/
structure Tile where
  state : TileState := .fused
  /-- Object 0x5012: logical index, 0xFF none. -/
  logical : Nat := 0xFF
  /-- Object 0x5011, saved: the run-time fence. -/
  runFence : Bool := false
  /-- A program runs on the tile (it has been started and has not ended there). -/
  works : Bool := false
  /-- It waits at the step barrier (R624). -/
  atStep : Bool := false
  /-- The instruction at PC waits: for a descriptor, a channel or the engines (R144, R671). -/
  waits : Bool := false
  /-- The step in which the program ended on the tile. -/
  endedAt : Option Nat := none
  /-- A MOV waits for a place on its full channel (R591). -/
  movStalled : Bool := false
  /-- Level of the ballast burst that runs, 0 outside the routine (R665, R666). -/
  burst : Nat := 0
  /-- Issue has been stopped (R160, R196, R1076). -/
  stopped : Bool := false
  /-- The control store is loaded and the sequencer released (R616, R618). -/
  loaded : Bool := false
  /-- S0-S31. -/
  sregs : Tab Word := []
  /-- W0-W15 of MW0-MW7, at 16 * window + register. -/
  wregs : Tab Word := []
  /-- G0-G7. -/
  gregs : Tab Word := []
  pc : Nat := 0
  /-- IR, 128 bits. -/
  ir : Nat := 0
  upc : Nat := 0
  cwp : Nat := 0
  occ : Nat := 1
  spill : Nat := 0
  lc : Word := 0
  /-- Coarse scales, FP32 bits (1.0 at a program start). -/
  csa : Nat := 0x3F800000
  csb : Nat := 0x3F800000
  csd : Nat := 0x3F800000
  /-- ALU flags. -/
  aluZ : Bool := false
  aluN : Bool := false
  aluC : Bool := false
  aluV : Bool := false
  inTrap : Bool := false
  /-- The trap in progress wrote a trap frame (R657). -/
  framed : Bool := false
  /-- RESUME ordered by station firmware. -/
  resume : Bool := false
  /-- TCAUSE of the last trap frame. -/
  tcause : Nat := 0
  /-- Interrupt sources pending: bits 1 to 4. -/
  irqs : Nat := 0
  /-- Flag sets in the layout of object 0x4100. -/
  flags : Nat := 0
  scratch : Memory := []
  ops : List EngineOp := []
  /-- Engine operations issued and retired since the program start (R556, R633). -/
  issued : Nat := 0
  retired : Nat := 0
  chan0 : Channel := {}
  chan1 : Channel := {}
  /-- Object 0x5810: the last machine check. -/
  lastCheck : Nat := 0
  /-- Next row the patrol reads (R642). -/
  patrolRow : Nat := 0
  deriving DecidableEq, Repr

/-- Where an arena page lies (R538, R539). -/
inductive PageLoc where
  | hbm (page : Nat)
  | cellar (page : Nat)
  | host (page : Nat)
  | peer (sled page : Nat)
  deriving DecidableEq, Repr

/-- The program that runs (R620 to R626, R1074 to R1081). -/
structure Program where
  queue : Nat
  /-- Ring index of its LAUNCH. -/
  index : Nat
  tag : Nat := 0
  /-- The program header's fields. -/
  image : Nat := 0
  argument : Nat := 0
  tiles : Nat := 0
  resident : Bool := false
  group : Nat := 0
  trapMode : Bool := false
  stepGate : Nat := 0
  gateTick : Nat := 0
  window : Nat := 0
  /-- Comparator of PC56-PC59 (R623). -/
  cmp : Option Nat := none
  gateLoaded : Bool := false
  gateFired : Bool := false
  /-- Step boundaries since launch. -/
  step : Nat := 0
  /-- Arena pages in order. -/
  arena : List PageLoc := []
  /-- HBM pages behind the overflow windows. -/
  windowPages : List Nat := []
  /-- Checkpoint page (R1074). -/
  ckpt : Nat := 0
  /-- Numeric defaults and OOB_TRAP latched at launch (R461, R463, R579). -/
  defRm : Nat := 0
  defSubn : Nat := 0
  defDot : Nat := 0
  defIovf : Nat := 0
  forceStepwise : Bool := false
  oobTrap : Bool := false
  /-- PROGRAM_FLAGS bit 0 (R620). -/
  arrayScoring : Bool := false
  /-- The promotions of the step boundary have begun (R541). -/
  promoted : Bool := false
  /-- Where a page that is read back from a peer goes, by arena page. -/
  promoting : List (Nat × PageLoc) := []
  /-- Replays begun in this step (R1079). -/
  attempts : Nat := 0
  replayed : Bool := false
  /-- A replay is in progress: the failed tile (R1076). -/
  replaying : Option Nat := none
  /-- QSUBs still to be retired unsubmitted, by logical index (R1077). -/
  suppress : Tab Nat := []
  /-- Exit word (R669 END). -/
  exit : Word := 0
  deriving DecidableEq, Repr

/-- Memory tiers and the tile array as a whole. -/
structure Tiers where
  /-- Stacks and packages in the address maps, ascending, of the last start (R519, R530). -/
  hbmMap : List Nat := [0, 1, 2, 3, 4, 5, 6, 7]
  cellarMap : List Nat := [0, 1, 2, 3, 4, 5, 6, 7, 8, 9, 10, 11, 12, 13, 14, 15]
  /-- Stacks and packages that failed the last test or verdict (R187). -/
  hbmFailed : Nat := 0
  cellarFailed : Nat := 0
  /-- Poisoned words, by address / 8 (R523). -/
  hbmPoison : Tab Bool := []
  cellarPoison : Tab Bool := []
  /-- Moments of the uncorrectable errors of the last second: unit number and ns (R526). -/
  hbmErrors : List (Nat × Nat) := []
  cellarErrors : List (Nat × Nat) := []
  /-- The patrols' next words (R525). -/
  hbmPatrol : Nat := 0
  cellarPatrol : Nat := 0
  /-- HBM pages of the arena pool in use by a program or a group. -/
  hbmUsed : Tab Bool := []
  cellarUsed : Tab Bool := []
  hostUsed : Tab Bool := []
  /-- Lend pages granted, page to borrower's sled address (R546). -/
  lent : Tab Nat := []
  /-- The microcode section of the station image, as the last entry into VERDICT wrote it into the control store of every tile
  that is not fused off: 4,096 microwords of 20 bytes, least significant byte first (R615, R616). -/
  control : List Byte := []
  /-- Object 0x5803: the protection mode in force, true ECC. -/
  ecc : Bool := true
  /-- Object 0x4101. -/
  lastFlags : Nat := 0
  /-- n_C when the cellar's contents were written (R534). -/
  cellarCount : Nat := 16
  deriving DecidableEq, Repr
/-! ## Links and the switch (chapter 15) -/

/-- The codes of object 0x7020. -/
inductive PortState where
  | disabled | noCable | training | up | retraining | failed | miswired | partnerLeft
  deriving DecidableEq, Repr

/-- The code of object 0x7020. -/
def PortState.code : PortState → Nat
  | .disabled => 0 | .noCable => 1 | .training => 2 | .up => 3 | .retraining => 4 | .failed => 5 | .miswired => 6
  | .partnerLeft => 7

/-- A slab without its link-layer fields: SEQ, ACK, credits and CRC are filled in as it is sent (R776). -/
structure Slab where
  kind : Nat
  vc : Nat
  last : Bool := true
  dest : Nat := 0
  src : Nat := 0
  detour : Bool := false
  hops : Nat := 0
  /-- The valid payload bytes: LENGTH of them. -/
  payload : List Byte := []
  /-- The port it came in by; none from this sled. -/
  inPort : Option Nat := none
  /-- Credits it needs at its output port (R810). -/
  needs : Nat := 1
  deriving DecidableEq, Repr

/-- A sequenced slab held until it is acknowledged (R782). -/
structure Held where
  seq : Nat
  slab : Slab
  /-- Its latest transmission, ns. -/
  sentAt : Nat
  deriving DecidableEq, Repr

/-- A port's fault injector (R825 to R829). -/
structure Injector where
  /-- Injection has begun (R828). -/
  begun : Bool := false
  /-- Matching slabs since arming. -/
  matched : Nat := 0
  /-- Injections since arming. -/
  injected : Nat := 0
  /-- The slab REORDER holds, and since when. -/
  heldSlab : Option Slab := none
  heldAt : Nat := 0
  deriving DecidableEq, Repr

/-- A link port (R770 to R803). -/
structure Port where
  state : PortState := .noCable
  /-- The cage reports a cable (R193). -/
  cable : Bool := false
  /-- Lanes in use: 0, 4, 8 (0x7022). -/
  width : Nat := 0
  /-- Object 0x7021: the partner's address and port. -/
  partner : Option (Nat × Nat) := none
  /-- Lanes are trained and PORT_INFO is being exchanged (R795, R798, R799). -/
  exchanging : Bool := false
  /-- When training, the retrain or the failure began, ns. -/
  since : Nat := 0
  /-- When PORT_INFO was last sent, ns. -/
  infoAt : Nat := 0
  /-- Retrains begun in the last second, ns (R800). -/
  retrains : List Nat := []
  /-- Width 8 failed in this retrain: width 4 is tried (R797). -/
  narrow : Bool := false
  /-- SEQ of the next new sequenced slab (R781). -/
  nextSeq : Nat := 0
  /-- The replay buffer, oldest first (R782). -/
  unacked : List Held := []
  /-- Slabs of the replay buffer still to be resent (R787). -/
  resend : List Nat := []
  /-- Replays started for the oldest slab, and when the first started (R788). -/
  replays : Nat := 0
  firstReplay : Option Nat := none
  /-- SEQ expected next (R784); 0 after initial training, so the ACK sent is 0xFFF before any (R783). -/
  expected : Nat := 0
  /-- The last NAK: its time and the value it named (R786). -/
  lastNak : Option (Nat × Nat) := none
  /-- Credits held, by VC (R790). -/
  credits : Tab Nat := []
  /-- Last CREDIT_COUNT seen, by VC (R791). -/
  creditSeen : Tab Nat := []
  /-- Cumulative slabs freed at this receiver, by VC (R791). -/
  freed : Tab Nat := []
  /-- Position of the CREDIT_VC round: VC0, VC2 to VC7. -/
  creditTurn : Nat := 0
  /-- Routed slabs waiting to be sent, in arrival order. -/
  outq : List Slab := []
  /-- LINK slabs waiting. -/
  linkq : List (List Byte) := []
  /-- Arbitration: deficits, the VC last served, collective slabs in a row, memory VC last served (R816 to R818). -/
  deficit : Tab Nat := []
  lastVc : Nat := 7
  collRun : Nat := 0
  lastMem : Nat := 7
  /-- A ready slab is waiting for credit (0x703x:0A). -/
  stalled : Bool := false
  inj : Injector := {}
  deriving DecidableEq, Repr

/-- An engine message that waits in the collective engine's inbox (R861). -/
structure EngineMsg where
  code : Nat
  group : Nat
  epoch : Nat
  cseq : Nat
  rank : Nat
  /-- SRC of its slab. -/
  src : Nat
  /-- Payload bytes from offset 9. -/
  extra : List Byte
  deriving DecidableEq, Repr

/-- Who waits for a peer access (R544, R547). -/
inductive PeerUser where
  | copy (queue index : Nat)
  | mover (tile chan : Nat)
  /-- The promotion of arena page `page` (R541). -/
  | promote (page : Nat)
  deriving DecidableEq, Repr

/-- A peer access under way. -/
structure PeerAccess where
  user : PeerUser
  sled : Nat
  /-- Offset within the lender's lend region. -/
  offset : Nat
  length : Nat
  write : Bool
  deriving DecidableEq, Repr

/-- The switch and its ports. -/
structure Links where
  ports : Tab Port := []
  /-- Accepted and own slabs waiting to be routed, oldest first. -/
  transit : List Slab := []
  /-- Failure map: masks by sled address (R808). -/
  failMap : Tab Nat := []
  /-- Last SERIAL by source, plus one; zero unheard (R822). -/
  serials : Tab Nat := []
  /-- Notices since the kiosk started (R821). -/
  noticeCount : Nat := 0
  /-- Sleds whose departure notice has come (R802). -/
  departed : Tab Bool := []
  /-- Station-firmware CONTROL messages delivered, oldest first (R861). -/
  firmware : List (List Byte) := []
  /-- Peer accesses under way, by number, and the next number. -/
  accesses : Tab (Option PeerAccess) := []
  nextAccess : Nat := 1
  deriving DecidableEq, Repr

/-! ## Collectives (chapter 16) -/

/-- States of a collective that is neither IDLE, DONE nor ABORTED. -/
inductive CollState where
  | armed | running | draining
  deriving DecidableEq, Repr

/-- A stream slab received and not yet written to DST (R866). -/
structure InSlab where
  rank : Nat
  pos : Nat
  data : List Byte
  /-- Its slab place in the group's inbound chunks (R866). -/
  place : Nat := 0
  /-- Channel 1 has written it to DST; its place is not yet free (R593). -/
  written : Bool := false
  deriving DecidableEq, Repr

/-- A contribution held by the adders, or the mark that its (source rank, key) has been taken (R868, R897). -/
structure Contribution where
  slot : Nat
  seg : Nat
  rank : Nat
  key : Nat
  data : List Byte
  deriving DecidableEq, Repr

/-- A list entry of EXCHANGE_ADD with the elements it sends (R853). -/
structure AddEntry where
  rank : Nat
  key : Nat
  slot : Nat
  data : List Byte
  deriving DecidableEq, Repr

/-- A collective of a group. -/
structure Collective where
  /-- Ring index of its descriptor. -/
  index : Nat
  cseq : Nat
  op : Nat
  /-- The descriptor's 64 bytes. -/
  data : List Byte
  state : CollState := .armed
  /-- Submitted by the Junction: Ship's or Gather's (R749, R753). -/
  ofLayer : Bool := false
  /-- What it sends, read as it starts: data slabs of the stream to each rank (R857), and list entries (R853). -/
  out : List (List (List Byte)) := []
  adds : List AddEntry := []
  /-- EXPECT of each own slot (R853); capacities by rank and this sled's own (R850). -/
  expect : List Nat := []
  caps : List Nat := []
  cap : Nat := 0
  /-- Stream position below which each rank lets this sled send (GRANT), and slabs sent so far. -/
  limit : Tab Nat := []
  sent : Tab Nat := []
  /-- Ranks to which END has been sent, as bits. -/
  endSent : Nat := 0
  /-- Positions granted to each source (R866). -/
  granted : Tab Nat := []
  /-- Ranks and positions whose slabs were lost with a hamper share, to be granted again (R905). -/
  regrant : List (Nat × Nat) := []
  /-- Bitmaps of received positions, by source rank (R897). -/
  seen : Tab Nat := []
  /-- Received slabs waiting for channel 1. -/
  inbox : List InSlab := []
  /-- Slabs written to DST, by source rank. -/
  written : Tab Nat := []
  /-- Data slabs before END, plus one, by source rank; zero before END. -/
  ends : Tab Nat := []
  /-- EXCHANGE_V: place of record k of rank r, plus one, at 2^32 * r + k. -/
  places : Tab Nat := []
  /-- EXCHANGE_ADD: contributions held, and (slot, segment) pairs written. -/
  held : List Contribution := []
  slotDone : List (Nat × Nat) := []
  /-- Combined segments of Gather's slots, at 2^14 * slot + segment. -/
  parts : Tab (List Byte) := []
  /-- The rank to which the next freed place is granted (R866). -/
  grantTurn : Nat := 0
  /-- Slot limit by destination (WINDOW), and L when the last WINDOW was sent. -/
  windows : Tab Nat := []
  windowAt : Nat := 0
  /-- List entries sent or skipped, as bits. -/
  sentList : Nat := 0
  /-- Ranks from which FINISHED has come, as bits. -/
  finished : Nat := 0
  /-- Last restart of the watchdog, ns (R881). -/
  watch : Nat := 0
  /-- A slab moved in the present ms, and when that ms began (R882). -/
  moved : Bool := false
  msAt : Nat := 0
  /-- Alley parts received, as bits by rank. -/
  alley : Nat := 0
  deriving DecidableEq, Repr

/-- A group at run time; its definition is its record object (R833 to R846). -/
structure Group where
  /-- 0 DEFINED, 1 ARMING, 2 ARMED, 3 REFORMING. -/
  state : Nat := 0
  /-- ARM_CAUSE. -/
  cause : Nat := 0
  epoch : Nat := 0
  /-- Members' addresses, ascending; empty while DEFINED. -/
  members : List Nat := []
  /-- HBM page and queue held. -/
  page : Nat := 0
  queue : Nat := 0xFFFF
  /-- Hamper chunks held: the first stages what leaves, the others receive (R863, R864). -/
  chunks : List Nat := []
  /-- ARMING: members whose ARM_HELLO has come; when it began; last HELLO sent. -/
  helloFrom : List Nat := []
  since : Nat := 0
  lastSent : Nat := 0
  /-- Switch-adder flag set (R872). -/
  adderFlags : Nat := 0
  nextCseq : Nat := 0
  /-- Fetched collectives, oldest first. -/
  colls : List Collective := []
  /-- REFORMING: addresses lost, members heard, and release of a held re-form (R894). -/
  lost : List Nat := []
  reformFrom : List Nat := []
  released : Bool := false
  /-- Alley parts of the next CSEQ, kept in its reserved space (R902). -/
  alleyNext : List (Nat × InSlab) := []
  deriving DecidableEq, Repr

/-- The collective engine. -/
structure Coll where
  groups : Tab Group := []
  inbox : List EngineMsg := []
  deriving DecidableEq, Repr
/-! ## Scoring arrays and the Junction (chapters 13 and 14) -/

/-- Array states (object 0x6801). -/
inductive ArrState where
  | ready | calDue | calibrating | failedSweep | failedRecal
  deriving DecidableEq, Repr

/-- The code of object 0x6801. -/
def ArrState.code : ArrState → Nat
  | .ready => 0 | .calDue => 1 | .calibrating => 2 | .failedSweep => 3 | .failedRecal => 4

/-- A scoring array. -/
structure Arr where
  state : ArrState := .ready
  /-- Present temperature and that of the last passing calibration, 0.1 degrees C. -/
  temp : Int := 0
  calTemp : Int := 0
  /-- Its trims, 258 bytes as an ARRAY_CAL block holds them: a gain and an offset trim for each column, and the delay
  reference's (R708, R710); bytes that are missing are zero. -/
  trims : List Byte := []
  /-- Start of the recalibration in progress, ns. -/
  since : Nat := 0
  /-- Recalibrations aborted in a row. -/
  aborts : Nat := 0
  deriving DecidableEq, Repr

/-- A weight plane of the arrays (R676 to R683, R724). -/
structure Plane where
  loaded : Bool := false
  /-- Image address, H and E of the last load that succeeded. -/
  image : Nat := 0
  hidden : Nat := 0
  experts : Nat := 0
  /-- Weights of every slot, cleared beyond H and E (R681), at 65,536 times the slot. -/
  weights : Memory := []
  /-- Expert scales and biases, FP32 bits. -/
  scales : List Nat := []
  biases : List Nat := []
  /-- Last rewrite, ns (R716). -/
  written : Nat := 0
  deriving DecidableEq, Repr

/-- What became of a selected pair (R740). -/
inductive Fate where
  | admitted | capacity | masked | tap
  deriving DecidableEq, Repr

/-- A selected pair: token, expert, selection rank and gate. -/
structure Pair where
  token : Nat
  expert : Nat
  rank : Nat
  gate : Nat
  fate : Option Fate := none
  renormed : Bool := false
  deriving DecidableEq, Repr

/-- An item offered to a tap and not yet answered (R760). -/
structure TapItem where
  token : Nat
  /-- Admit: the expert.  Gather: the combine slot. -/
  key : Nat := 0
  /-- When it was offered, ns. -/
  since : Nat
  deriving DecidableEq, Repr

/-- A record of a destination list: its place and its bytes (R746, R747). -/
structure ListEntry where
  place : Nat
  data : List Byte
  deriving DecidableEq, Repr

/-- The layer that runs (R720 to R765). -/
structure Layer where
  queue : Nat
  /-- Ring index of its descriptor. -/
  index : Nat
  signalAddr : Nat
  signalValue : Nat
  /-- The 128 bytes of its record. -/
  data : List Byte
  resident : Bool
  /-- ACT_VIEW and RETURN_VIEW, 64 bytes each, as the start read them. -/
  act : List Byte
  ret : List Byte
  /-- Members' addresses by rank, as latched (R730); this sled alone in Replica mode. -/
  members : List Nat
  cap : Nat
  /-- Owner and local index by expert (R731); none: no owner among the members. -/
  owners : List (Option (Nat × Nat))
  /-- The mask bitmap as the start read it; empty for none (R732). -/
  mask : List Byte
  /-- Taps in service at the start and still so, bits 0 to 3 (R758, R763). -/
  taps : Nat
  /-- Bound taps of which lots (latched 0x6020), and the timeout, ns. -/
  lots : List Nat
  tapNs : Nat
  /-- Taps not in service at the start (TAPS_BYPASSED). -/
  bypassed : Nat
  /-- Last stage begun: 0 none, 1 Score to 8 Restore (R720). -/
  stage : Nat := 0
  /-- Rows the Score tap has passed or left, by token; FP32 bits. -/
  rows : Tab (List Nat) := []
  /-- Tokens offered to the Score tap so far, and tokens selected so far in order. -/
  scoreNext : Nat := 0
  selectNext : Nat := 0
  /-- Own or tapped selection by token: (expert, gate) by rank; listed once final. -/
  picks : Tab (Option (List (Nat × Nat))) := []
  /-- The Junction's own selection while the Select tap holds the token. -/
  own : Tab (List (Nat × Nat)) := []
  unrouted : List Nat := []
  /-- Outstanding items by tap, oldest first. -/
  items : Tab (List TapItem) := []
  /-- Pairs in admission order, formed when Admit begins, and how many have been decided or offered. -/
  pairs : List Pair := []
  formed : Bool := false
  admitNext : Nat := 0
  /-- Token of each combine slot (R745). -/
  slots : List Nat := []
  /-- Destination lists by rank (R744 to R748). -/
  lists : List (List ListEntry) := []
  /-- Ring index of Ship's and Gather's collective on the group queue. -/
  ship : Option Nat := none
  gather : Option Nat := none
  shipDone : Bool := false
  readyWritten : Bool := false
  /-- Combined vectors waiting for Restore or the Gather tap, by slot. -/
  vectors : Tab (Option (List Byte)) := []
  /-- Slots whose rows are written. -/
  restored : List Nat := []
  deriving DecidableEq, Repr

/-- What the Junction keeps of the program that submits layers (R620, R684, R707, R729). -/
structure LayerProgram where
  resident : Bool := false
  group : Nat := 0
  arrayScoring : Bool := false
  scoreMode : Nat := 1
  deriving DecidableEq, Repr

/-- A descriptor submitted to a JUNCTION queue. -/
structure Submission where
  queue : Nat
  /-- Ring index. -/
  index : Nat
  /-- FLAGS rather than LAYER. -/
  flags : Bool
  deriving DecidableEq, Repr

/-- The Junction and the scoring arrays. -/
structure Junction where
  /-- The flag set (R767), in the order of fOF to fFZ. -/
  flags : Nat := 0
  /-- LAYER and FLAGS descriptors submitted, oldest first: a LAYER until it ends, a FLAGS until it starts (R723, R725). -/
  order : List Submission := []
  layer : Option Layer := none
  plane0 : Plane := {}
  plane1 : Plane := {}
  arrays : Tab Arr := []
  /-- Taps bypassed to the end of the present step (R763). -/
  stepTaps : Nat := 0
  program : LayerProgram := {}
  /-- No layer starts before this moment, ns (64 aborted recalibrations in a row). -/
  pauseUntil : Nat := 0
  deriving DecidableEq, Repr
/-! ## The Burund fabric, its loading and its scrubbers (chapters 17 and 18) -/

/-- Lot states (object 0x8003). -/
inductive LotState where
  | clear | loading | inService | held | fenced | unwatched
  deriving DecidableEq, Repr

/-- The codes of object 0x8003. -/
def LotState.code : LotState → Nat
  | .clear => 0 | .loading => 1 | .inService => 2 | .held => 3 | .fenced => 4 | .unwatched => 5

/-- A lot. -/
structure Lot where
  state : LotState := .clear
  /-- Object 0x8004. -/
  cause : Nat := 0
  /-- Configuration memory: byte i of frame f at 512 * f + i (R969, R970). -/
  config : Memory := []
  /-- Golden entries of type 0 and 1 frames: the frame's 4,096 bits summed up as a CRC and a 14-bit check (R995). -/
  goldenCrc : Tab Nat := []
  goldenCheck : Tab Nat := []
  /-- Pads claimed by the loaded configuration (R947). -/
  claims : Nat := 0
  /-- Lot memories: byte i of memory m at 4,608 * m + i (R925, R929, R970). -/
  mems : Memory := []
  /-- Data with which port p of memory m last acknowledged, at 2 * m + p (R926). -/
  memAck : Tab Nat := []
  /-- Serialiser lanes that the loaded configuration enables, and those of them that transmit (R946, R950). -/
  lanes : Nat := 0
  lanesTx : Nat := 0
  /-- Outputs of the cells that differ from their reset values (R909, R911). -/
  cells : Tab Bool := []
  /-- Acknowledges of the stages that are high (R913). -/
  acks : Tab Bool := []
  /-- Object 0x8802. -/
  design : Nat := 0
  /-- HOLD_AFTER_LOAD of the section loaded last (R987). -/
  hold : Bool := false
  /-- Object 0x8812: a command that waits or runs. -/
  cmd : Nat := 0
  /-- A reload that the scrub policy asked for waits (R990). -/
  policyReload : Bool := false
  deriving DecidableEq, Repr

/-- A PUSH or PULL that has started (R936, R937). -/
structure Stream where
  queue : Nat
  index : Nat
  push : Bool
  /-- Next HBM address, and bytes left. -/
  addr : Nat
  left : Nat
  done : Nat := 0
  /-- FRAME or TO_LAST. -/
  mark : Bool
  /-- Last progress, ns (R935). -/
  since : Nat
  deriving DecidableEq, Repr

/-- State of a load engine (R981). -/
inductive EngineState where
  | idle | receiving | verifying | done | error
  deriving DecidableEq, Repr

/-- The codes of CFG_STATUS[3:0]. -/
def EngineState.code : EngineState → Nat
  | .idle => 0 | .receiving => 1 | .verifying => 2 | .done => 3 | .error => 4

/-- A chiplet: its load engine, scrubber, boundary register and readings. -/
structure Chiplet where
  /-- FAB_VDD in force, mV. -/
  vdd : Nat := 0
  engine : EngineState := .idle
  /-- Lot within the chiplet of the present or last section. -/
  target : Nat := 0
  /-- Error code of the last section. -/
  err : Nat := 0
  /-- Frames accepted of the present or last section. -/
  frames : Nat := 0
  /-- The section comes from the service header (R1009). -/
  external : Bool := false
  /-- Words of the present section, taken in parts: the header, the frame or trailer under way. -/
  header : List Nat := []
  part : List Nat := []
  trailer : List Nat := []
  /-- Boundary register, 144 cells, and whether EXTEST drives the pads from it. -/
  boundary : Nat := 0
  extest : Bool := false
  /-- Frame named by the last Update-DR of CFG_READBACK. -/
  readSel : Nat := 0
  suspect : Bool := false
  /-- Start of the pass in progress, ns; lots still to read, in order; next frame of the first of them. -/
  passAt : Option Nat := none
  passLots : List Nat := []
  passFrame : Nat := 0
  deriving DecidableEq, Repr

/-- A serialiser lane: its FIFO, oldest word first, and the word it sent last (R951, R952). -/
structure Lane where
  fifo : List Nat := []
  last : Nat := 0
  deriving DecidableEq, Repr

/-- An I/O bank (R945 to R953). -/
structure IoBank where
  /-- Object 0x8021. -/
  state : Nat := 0
  /-- Standard and serialiser rate applied at the last entry into VERDICT. -/
  standard : Nat := 0
  rate : Nat := 0
  /-- Object 0x8024. -/
  lock : Nat := 0
  overrun : Nat := 0
  lanes : Tab Lane := []
  deriving DecidableEq, Repr

/-- The fabric as a whole. -/
structure Fabric where
  lots : Tab Lot := []
  chips : Tab Chiplet := []
  banks : Tab IoBank := []
  /-- Moment of the latest transition that each probe counted, ns since the package's last start (R943). -/
  probeLast : Tab Nat := []
  /-- Words in each controller's FIFO, oldest first: 32 data bits, FIRST at bit 32, LAST at bit 33 (R930, R931). -/
  fifos : Tab (List Nat) := []
  /-- Streams of each controller, the running one first (R937). -/
  streams : Tab (List Stream) := []
  /-- CFG_ERR_N is asserted (R992, R993). -/
  cfgErr : Bool := false
  /-- Object 0x8820: 2 LOADING and 3 FAILED of the last full load; and whether one waits (R984). -/
  failed : Bool := false
  fullWaits : Bool := false
  /-- A full load runs, and the lots still to shift, the one under way first; reloads use the same list. -/
  full : Bool := false
  jobs : List Nat := []
  /-- Object 0x8821 and 0x8822. -/
  loadError : Nat := 0
  loadFrames : Nat := 0
  /-- The fabric store: one section slot for each lot, saved (R972, R976). -/
  store : Tab (List Byte) := []
  /-- Instruction registers of the package TAP (0) and of B0 to B3 (1 to 4); IDCODE after Test-Logic-Reset. -/
  ir : Tab Nat := []
  /-- The service header drives the chain: object 0x8815 as applied (R961). -/
  external : Bool := false
  /-- Boundary cell of the package TAP. -/
  pkgBoundary : Nat := 0
  deriving DecidableEq, Repr

/-! ## The sweep (chapter 19) -/

/-- The stages of object 0x3100. -/
inductive SweepStage where
  | idle | waitSlot | ramping | body | waitDescent
  deriving DecidableEq, Repr

/-- The codes of object 0x3100. -/
def SweepStage.code : SweepStage → Nat
  | .idle => 0 | .waitSlot => 1 | .ramping => 2 | .body => 3 | .waitDescent => 4

/-- The sweep. -/
structure Sweep where
  stage : SweepStage := .idle
  /-- Object 0x3101. -/
  phase : Nat := 0
  /-- Objects 0x3102 and 0x3103, saved. -/
  outcome : Nat := 0
  cause : Nat := 0
  /-- Object 0x3106; zero when none. -/
  slotCycle : Nat := 0
  /-- The CLEARED latch (R1023). -/
  cleared : Bool := false
  /-- The verdict of this sweep has been stored. -/
  stored : Bool := false
  /-- Units that failed so far, unit type and number. -/
  failures : List (Nat × Nat) := []
  /-- RB_CYCLE and temperatures when phase 8 ended (R1040), 0.1 degrees C. -/
  endCycle : Nat := 0
  endEast : Int := 0
  endWest : Int := 0
  /-- Last window check, ns. -/
  checkedAt : Nat := 0
  /-- Scan control register: DOMAIN and AT_SPEED by TAP. -/
  domain : Tab Nat := []
  atSpeed : Tab Bool := []
  /-- The stored verdict, saved, and VERDICT_FRESH (R1039, R1041). -/
  verdict : List Byte := []
  fresh : Bool := false
  deriving DecidableEq, Repr

/-! ## The whole state -/

/-- The machine's state. -/
structure State where
  /-- Local time, ns. -/
  now : Nat := 0
  pins : Pins := {}
  rb : Roundabout := {}
  gov : Governor := {}
  life : Life := {}
  contain : Contain := {}
  kiosk : Kiosk := {}
  net : Net := {}
  host : HostIf := {}
  tiles : Tab Tile := []
  tiers : Tiers := {}
  prog : Option Program := none
  links : Links := {}
  coll : Coll := {}
  junc : Junction := {}
  fab : Fabric := {}
  sweep : Sweep := {}
  /-- Host memory, as the sled reads and writes it. -/
  hostMem : Memory := []
  hbm : Memory := []
  cellar : Memory := []
  /-- What has left the sled, oldest first. -/
  outbox : List Emission := []
  /-- The model's own field: the next free value's number. -/
  freeCount : Nat := 0
  /-- Commands waiting, first in, first out. -/
  pending : List Instr := []
  deriving DecidableEq, Repr

/-- Faults: the block stops.  No meaning of this model raises one on the commands the spec describes. -/
inductive Fault where
  /-- Raised by no meaning: kept for a unit the sled does not have.  Safe. -/
  | noSuchUnit
  deriving DecidableEq, Repr

/-- Refusals. -/
inductive Refusal where
  /-- A command whose meaning is not written yet, by its table name.  Safe. -/
  | notModelled (mnemonic : String)
  deriving DecidableEq, Repr

/-- What a meaning answers. -/
abbrev Out := Host.Outcome State Fault Refusal

/-- The factory image of a bank: the 3.x line's version; its contents are not published (R282, R1147, log entry 5). -/
def factoryBank : Bank := { version := 0x03000000 }

/-- The kiosk as delivered: the factory image in every bank (R1147). -/
def factoryKiosk : Kiosk :=
  { stationA := factoryBank, stationB := factoryBank, kioskA := factoryBank, kioskB := factoryBank
    policyA := factoryBank, policyB := factoryBank }

/-- The sled as delivered, before standby power is first applied: life state ABSENT, every entry at its
default, the factory images in the banks, no command waiting (R237, R281, R1147; log entry 1). -/
def State.reset : State := { kiosk := factoryKiosk }

end Sys2Proof.Machine
end

