-- ==== Sys2Proof/Machine/Ops.lean ====
section
/-! DEFINITION. The operations every unit shares: time, entries and counters of the dictionary, what leaves the
sled, records (chapter 20), interrupt causes, notices, life-state changes and what a reset or a loss of power
takes away (chapter 04). -/

namespace Sys2Proof.Machine

/-! ### Fields of the state -/

def State.modRb (f : Roundabout → Roundabout) (s : State) : State := { s with rb := f s.rb }
def State.modGov (f : Governor → Governor) (s : State) : State := { s with gov := f s.gov }
def State.modLife (f : Life → Life) (s : State) : State := { s with life := f s.life }
def State.modPins (f : Pins → Pins) (s : State) : State := { s with pins := f s.pins }
def State.modContain (f : Contain → Contain) (s : State) : State := { s with contain := f s.contain }
def State.modKiosk (f : Kiosk → Kiosk) (s : State) : State := { s with kiosk := f s.kiosk }
def State.modNet (f : Net → Net) (s : State) : State := { s with net := f s.net }
def State.modHost (f : HostIf → HostIf) (s : State) : State := { s with host := f s.host }

/-- A command arrives at local time `t`; time never runs back (R1137). -/
def clockTo (t : Nat) (s : State) : State := { s with now := max s.now t }

/-- Local time since a moment, ns. -/
def elapsed (s : State) (since : Nat) : Nat := s.now - since

/-- A condition that began at `since` has lasted `ns`. -/
def lasted (s : State) (since : Option Nat) (ns : Nat) : Bool :=
  match since with
  | some a => decide (ns ≤ s.now - a)
  | none => false

/-- The start of a condition: kept while it holds, taken now when it begins, dropped when it ends. -/
def track (c : Bool) (now : Nat) (since : Option Nat) : Option Nat :=
  if c then (match since with | some a => some a | none => some now) else none

/-- Something leaves the sled. -/
def emit (e : Emission) (s : State) : State := { s with outbox := s.outbox ++ [e] }

/-- Taking the next free value's number (log entry 2). -/
def takeFree (s : State) : Nat × State := (s.freeCount, { s with freeCount := s.freeCount + 1 })

/-! ### Entries and counters of the dictionary (R237, R238) -/

/-- The present value of a numeric RW or WO entry. -/
def objAt (s : State) (idx sub : Nat) : Nat :=
  tabGet (objDefault (objKey idx sub)) (objKey idx sub) s.kiosk.objects

/-- Giving a numeric entry a value. -/
def setObj (idx sub v : Nat) (s : State) : State :=
  s.modKiosk fun k =>
    { k with objects := tabPut (objDefault (objKey idx sub)) (objKey idx sub) v k.objects }

/-- The present value of a byte-string entry. -/
def strAt (s : State) (idx sub : Nat) : List Byte := tabGet [] (objKey idx sub) s.kiosk.strings

/-- Giving a byte-string entry a value. -/
def setStr (idx sub : Nat) (v : List Byte) (s : State) : State :=
  s.modKiosk fun k => { k with strings := tabPut [] (objKey idx sub) v k.strings }

/-- A counter entry. -/
def counterAt (s : State) (idx sub : Nat) : Nat := tabGet 0 (objKey idx sub) s.kiosk.counters

/-- The value at which a counter entry saturates (R115, R155, R215, R283, R342, R399). -/
def counterMax (idx sub : Nat) : Nat :=
  match findEntry idx sub with
  | some e => 256 ^ e.ty.width - 1
  | none => 0xFFFFFFFF

/-- Giving a counter entry a value. -/
def setCounter (idx sub v : Nat) (s : State) : State :=
  s.modKiosk fun k => { k with counters := tabPut 0 (objKey idx sub) v k.counters }

/-- Counting `n` events in a counter entry, saturating. -/
def count (idx sub n : Nat) (s : State) : State :=
  setCounter idx sub (min (counterAt s idx sub + n) (counterMax idx sub)) s

/-! ### Where the sled stands -/

/-- The package has power (R36, R37, R180). -/
def packagePowered (s : State) : Bool :=
  match s.life.state with
  | .powered | .verdict | .training | .joined | .running | .degraded | .departReq | .draining
  | .left | .sweep | .resetHeld => true
  | .curfew => s.gov.railsOn
  | _ => false

/-- The package runs: it is powered and not held in reset. -/
def packageRuns (s : State) : Bool :=
  match s.life.state with
  | .powered | .verdict | .training | .joined | .running | .degraded | .departReq | .draining
  | .left | .sweep => decide (s.life.descent ≠ .resetAsserted)
  | _ => false

/-- A member of the container (R180). -/
def isMember (s : State) : Bool :=
  match s.life.state with
  | .joined | .running | .degraded | .departReq | .draining => true
  | _ => false

/-- The powered states of R180. -/
def poweredState (l : LifeState) : Bool :=
  match l with
  | .precharge | .powered | .verdict | .training | .joined | .running | .degraded | .departReq
  | .draining | .left | .sweep | .resetHeld => true
  | _ => false

/-- A state from POWERED to SWEEP (R180, R209). -/
def resettable (l : LifeState) : Bool :=
  match l with
  | .powered | .verdict | .training | .joined | .running | .degraded | .departReq | .draining
  | .left | .sweep => true
  | _ => false

/-- A curfew or removal sequence is running from event 2 on (R160, R410). -/
def dropping (s : State) : Bool := s.gov.drop.isSome

/-! ### Work on tiles (R61, R138, R144) -/

/-- A channel is idle: it holds no command. -/
def Channel.idle (c : Channel) : Bool := c.commands.isEmpty

/-- Both channels are idle and no engine operation is pending. -/
def Tile.quiet (x : Tile) : Bool := x.ops.isEmpty && x.chan0.idle && x.chan1.idle

/-- The tile has issued work: its program runs and does not wait, or an operation of it is pending.  A tile whose program
waits at the step barrier or in an instruction, with engines and channels idle, has none (DEDUCED, log entry 114). -/
def Tile.busy (x : Tile) : Bool := x.works && (!(x.waits || x.atStep) || !x.quiet)

/-- Every issue slot is withheld, so what would issue to an engine or a mover waits in place (R139, R663); below 16/16 the
withheld slots only delay it (R140). -/
def withheld (s : State) : Bool := decide (16 ≤ s.gov.holdBack)

/-- Issue is stopped: a full reset or an ordered shutdown descends, or the sled has left (R176, R196, R1018). -/
def issueStopped (s : State) : Bool :=
  decide (s.life.descent ≠ .idle) || decide (s.life.state = .left) || decide (s.life.state = .sweep)

/-- A station core takes an access fault: 5 for a load, 7 for a store or an atomic (R523, R555). -/
def stationTrap (c cause : Nat) (s : State) : State :=
  { s with contain := { s.contain with
    cores := tabPut {} c { tabGet {} c s.contain.cores with trap := some cause } s.contain.cores } }

/-! ### Interrupts and event causes (R354, R389, R410) -/

/-- A byte of the MSI-X table: an entry's mask bit is set until the driver clears it. -/
def msixByte (s : State) (a : Nat) : Byte :=
  memGet s.host.msixTable a ^^^ (if a % 16 = 12 then 1 else 0)

/-- Raising an MSI-X vector: the message leaves, or the pending bit is set while the entry is masked. -/
def raiseVector (v : Nat) (s : State) : State :=
  if dropping s then s
  else if (msixByte s (16 * v + 12)).toNat % 2 = 1 then
    s.modHost fun h => { h with pending := tabPut false v true h.pending }
  else emit (.msi v) s

/-- A cause bit of GL_EVENT_CAUSE becomes set: vector 0 is raised unless masked (R354). -/
def glCause (b : Nat) (s : State) : State :=
  if !packageRuns s then s
  else if bit s.host.eventCause b then s
  else
    let s' := s.modHost fun h => { h with eventCause := h.eventCause + 2 ^ b }
    if bit s.host.eventMask b then s' else raiseVector 0 s'

/-! ### Records (R1051 to R1062, R1148) -/

/-- NOTICE and CORRECTED fold; FENCED and above do not (R1061). -/
def foldable (cls : Nat) : Bool := decide (cls ≤ 1)

/-- The same triple of cause, unit type and unit. -/
def sameTriple (a b : LogRecord) : Bool :=
  decide (a.cause = b.cause) && decide (a.unitType = b.unitType) && decide (a.unit = b.unit)

/-- Forming one record: SEQUENCE, the moment's fields, a buffer place or a drop (R1056, R1059, R1060), and the
host's notice of it (R1087). -/
def placeRecord (r : LogRecord) (s : State) : State :=
  let r' := { r with
    sequence := s.contain.sequence + 1
    sledAddress := objAt s 0x7001 0
    cycle := s.rb.cycle
    phase := s.rb.phase
    life := s.life.state.code
    localNs := s.now - s.kiosk.startedAt }
  let room := if foldable r.cls then 64 else 80
  let s := s.modContain fun c => { c with sequence := c.sequence + 1 }
  let s :=
    if s.contain.buffer.length < room then
      s.modContain fun c => { c with
        buffer := c.buffer ++ [r']
        bufferSince := if c.buffer.isEmpty then s.now else c.bufferSince }
    else count 0x9020 2 1 (s.modContain fun c => { c with dropped := c.dropped + 1 })
  if objAt s 0x9012 0 ≤ r.cls then glCause 1 s else s

/-- The record of a buffer place was kept (R1061: only a written record opens a window). -/
def hasRoom (r : LogRecord) (s : State) : Bool :=
  decide (s.contain.buffer.length < (if foldable r.cls then 64 else 80))

/-- Ending a repeat window: the SUMMARY record, when it folded anything (R1061, R1148). -/
def endWindow (w : RepeatWindow) (s : State) : State :=
  let s := s.modContain fun c => { c with windows := c.windows.filter fun x => !sameTriple x.last w.last }
  if w.count = 0 then s
  else placeRecord { w.last with
    summary := true
    repeats := min w.count 65535
    detail2 := if w.last.cause = 0x9004 then min w.sum2 0xFFFFFFFF else w.last.detail2 } s

/-- Causes that the curfew and removal sequences themselves record (R1062, R175). -/
def sequenceCause (c : Nat) : Bool := decide (c = 0x2007) || decide (c = 0x2008)

/-- Recording an occurrence: folded into its triple's open window, or formed (R1061, R1062). -/
def record (r : LogRecord) (s : State) : State :=
  if s.contain.frozen && !sequenceCause r.cause then s
  else
    let s := match s.contain.windows.find? fun w => sameTriple w.last r with
      | some w => if w.len ≤ s.now - w.start then endWindow w s else s
      | none => s
    match s.contain.windows.find? fun w => sameTriple w.last r with
    | some w =>
      if foldable r.cls then
        count 0x9020 1 1 (s.modContain fun c => { c with
          windows := c.windows.map fun x =>
            if sameTriple x.last r then
              { x with count := x.count + 1, sum2 := x.sum2 + r.detail2, last := r }
            else x })
      else placeRecord r s
    | none =>
      let opens := foldable r.cls && hasRoom r s && !s.contain.frozen
      let s' := placeRecord r s
      if opens then
        s'.modContain fun c => { c with windows := c.windows ++
          [({ start := s.now, len := objAt s 0x9010 0 * 1000000, last := r } : RepeatWindow)] }
      else s'

/-- Unit type codes of R1054. -/
def utSled : Nat := 0x00
def utTile : Nat := 0x01
def utStack : Nat := 0x02
def utCellar : Nat := 0x03
def utArray : Nat := 0x04
def utLot : Nat := 0x05
def utPort : Nat := 0x06
def utCore : Nat := 0x07
def utJunction : Nat := 0x08
def utSwitch : Nat := 0x09
def utColl : Nat := 0x0A
def utHost : Nat := 0x0B
def utBridge : Nat := 0x0C
def utBank : Nat := 0x0D
def utQueue : Nat := 0x0E
def utGroup : Nat := 0x0F
def utKiosk : Nat := 0x10
def utButton : Nat := 0x11
def utMains : Nat := 0x12
def utInput : Nat := 0x13
def utNet : Nat := 0x14

/-- A NOTICE record of a unit. -/
def noteRecord (cause ut unit : Nat) (s : State) : State :=
  record { cause := cause, cls := 0, unitType := ut, unit := unit } s

/-! ### Roundabout flags (object 0x2001:00) -/

/-- ACQUIRING is reported only in NO_REF and FREEWHEEL (R1144). -/
def acquiring (r : Roundabout) : Bool :=
  r.runActive && (decide (r.state = .noRef) || decide (r.state = .freewheel))

/-- The value of RB_FLAGS. -/
def rbFlags (r : Roundabout) : Nat :=
  flag r.mismatch 7 + flag r.unnumbered 6 + flag r.freewheelLong 5 + flag (decide (r.state = .freewheel)) 4
    + flag (acquiring r) 3 + 2 * r.form.code

/-- A change of the Roundabout: GL_EVENT_CAUSE.RB_FLAGS_CHANGE follows a change of RB_FLAGS (log entry 12). -/
def changeRb (f : Roundabout → Roundabout) (s : State) : State :=
  let s' := s.modRb f
  if rbFlags s'.rb = rbFlags s.rb then s' else glCause 3 s'

/-! ### Comparators (R107 to R112, R379) -/

/-- One instant is not earlier than another, cycle first (R107). -/
def instantReached (cycle phase n t : Nat) : Bool := decide (n < cycle) || (decide (n = cycle) && decide (t ≤ phase))

/-- One instant lies before another. -/
def instantBefore (n t cycle phase : Nat) : Bool := decide (n < cycle) || (decide (n = cycle) && decide (t < phase))

/-- Loading a comparator at cycle `n` tick `t`: an instant already passed is late (R110).  An instant equal to the present
tick has not passed: its event fires on this tick, without LATE (DESIGN CHOICE, log entry 113).  LATE of the last firing
stands until the next (R398). -/
def loadComparator (r : Roundabout) (n t tag : Nat) (c : Comparator) : Comparator :=
  let p := instantBefore n t r.cycle r.phase
  { cycle := n, phase := t, tag := tag, busy := true, late := c.late, passed := p, waitTick := p }

/-- What a comparator's user leaves when it takes the firing or withdraws the event: the loaded values and LATE of its last
firing stay in its status entry (R398). -/
def releaseComparator (c : Comparator) : Comparator :=
  { cycle := c.cycle, phase := c.phase, tag := c.tag, late := c.late }

/-- Loading kiosk comparator `i`. -/
def armKiosk (i n t tag : Nat) (s : State) : State :=
  s.modRb fun r => { r with kioskCmp := tabPut {} i (loadComparator r n t tag (tabGet {} i r.kioskCmp)) r.kioskCmp }

/-- Loading package comparator `i`. -/
def armPackage (i n t tag : Nat) (s : State) : State :=
  s.modRb fun r => { r with pkgCmp := tabPut {} i (loadComparator r n t tag (tabGet {} i r.pkgCmp)) r.pkgCmp }

/-- Clearing a kiosk comparator. -/
def clearKioskCmp (i : Nat) (s : State) : State :=
  s.modRb fun r => { r with kioskCmp := tabPut {} i (releaseComparator (tabGet {} i r.kioskCmp)) r.kioskCmp }

/-- Clearing a package comparator. -/
def clearPackageCmp (i : Nat) (s : State) : State :=
  s.modRb fun r => { r with pkgCmp := tabPut {} i (releaseComparator (tabGet {} i r.pkgCmp)) r.pkgCmp }

/-- A comparator can fire at the present tick: its instant has come, or it was late and a tick has passed (R107, R110). -/
def comparatorDue (r : Roundabout) (c : Comparator) : Bool :=
  c.busy && !c.waitTick && (c.passed || instantReached r.cycle r.phase c.cycle c.phase)

/-- Kiosk comparator numbers of this model (R107): the beacon instant, the sweep's slot, the departure.  The package's
comparators for departures and for checkpoints are those of R398. -/
def kcBeacon : Nat := 0
def kcSweep : Nat := 1
def kcDepart : Nat := 2
def pcDepart : Nat := 62
def pcDrain : Nat := 63
def pcCheckpoint : Nat := 60

end Sys2Proof.Machine
end

