-- ==== Sys2Proof/Machine/Governor.lean ====
section
/-! DEFINITION. The governor and the input stage (chapter 03): samples, the control law, ballast, and the
qualifications of the input. -/

namespace Sys2Proof.Machine

/-- A tile has issued work (R61, R144). -/
def anyTileWorks (s : State) : Bool := s.tiles.any fun (_, x) => x.busy

/-- Ballast is permitted on the tile (R144): active tiles without issued work, and unfenced spares while the policy says so. -/
def ballastPermitted (spares : Bool) (x : Tile) : Bool :=
  match x.state with
  | .active => !x.busy && !x.runFence
  | .spare => spares && !x.runFence
  | _ => false

/-- Tiles idle with ballast permitted. -/
def idleTiles (s : State) : Nat :=
  if packageRuns s && s.gov.railsOn then (s.tiles.filter fun (_, x) => ballastPermitted s.gov.sparesNow x).length
  else 0

/-- Per-level ballast increment in mW at a tile clock (R145). -/
def ballastInc (clock : Nat) : Nat :=
  if clock = 1800 then 420 else if clock = 1600 then 340 else if clock = 1400 then 270 else 210

/-- Idle draw of a tile in mW at a tile clock (R145). -/
def idleDraw (clock : Nat) : Nat :=
  if clock = 1800 then 1100 else if clock = 1600 then 1000 else if clock = 1400 then 920 else 850

/-- Sum of the last 16 samples: sixteen times p16 (R128).  Until 16 samples exist the missing ones count as 0 W, the draw of
the open switch before them (DESIGN CHOICE, log entry 115). -/
def p16Sum (g : Governor) : Nat := g.power.foldl (· + ·) 0

/-- The input draws and is sampled: from PRECHARGE until the switch opens (R38, R128). -/
def sampling (g : Governor) : Bool := decide (g.state ≠ .off)

/-- The envelope is tested: from PRECHARGE until curfew or the removal drop begins (R133). -/
def measuring (g : Governor) : Bool :=
  match g.state with
  | .precharge | .regulating | .brownout => true
  | _ => false

/-- The control law is in force (R133). -/
def regulating (g : Governor) : Bool :=
  match g.state with
  | .regulating | .brownout => true
  | _ => false

/-- p16 lies outside the envelope of the present half-cycle (R132, R156). -/
def outsideEnvelope (g : Governor) : Bool :=
  decide (16 * (g.aMw + g.uMw) < p16Sum g) || decide (p16Sum g + 16 * g.dMw < 16 * g.aMw)

/-- hold_back for one sample (the control law). -/
def holdLaw (g : Governor) : Governor :=
  let sum := p16Sum g
  let hot := decide (16 * g.ceilMw < sum + 320000)
  let cool := decide (sum + 640000 < 16 * g.ceilMw)
  let g := { g with holdTimer := min (g.holdTimer + 1) 4 }
  let g :=
    if hot then { g with holdBack := min 16 (g.holdBack + 1) }
    else if cool = true ∧ 0 < g.holdBack ∧ 4 ≤ g.holdTimer then
      { g with holdBack := g.holdBack - 1, holdTimer := 0 }
    else g
  { g with heldThis := g.heldThis || decide (0 < g.holdBack), holdSum := g.holdSum + g.holdBack }

/-- ballast_level for one sample (the control law): `n` tiles idle with ballast permitted, `p1` the sample. -/
def ballastLaw (works : Bool) (n p1 : Nat) (g : Governor) : Governor :=
  let sum := p16Sum g
  let hot := decide (16 * g.ceilMw < sum + 320000)
  let low := decide (sum < 16 * (g.floorMw + 20000))
  let high := decide (16 * (g.floorMw + 60000) < sum)
  let g := { g with ballastTimer := min (g.ballastTimer + 1) 8 }
  if hot = true ∧ 0 < g.ballast ∧ works = false then { g with ballast := g.ballast - 1 }
  else if low = true ∧ 0 < n then
    let short := g.floorMw + 20000 - p1
    let unit := n * ballastInc g.clock
    { g with ballast := min 15 (g.ballast + max 1 ((short + unit - 1) / unit)) }
  else if high = true ∧ 0 < g.ballast ∧ 8 ≤ g.ballastTimer then
    { g with ballast := g.ballast - 1, ballastTimer := 0 }
  else g

/-- The voltage conditions that qualify by time (R127, R157, R167, R168, R170, R182). -/
def trackInput (now mainMv : Nat) (pf : Bool) (g : Governor) : Governor :=
  { g with
    okSince := track (decide (49000 ≤ mainMv)) now g.okSince
    inputOk := g.inputOk && decide (49000 ≤ mainMv)
    brownSince := track (decide (mainMv < 10 * g.brownThr)) now g.brownSince
    brownOkSince := track (decide (10 * g.brownThr + 500 ≤ mainMv)) now g.brownOkSince
    overSince := track (decide (58000 < mainMv)) now g.overSince
    overVolt := decide (58000 < mainMv)
    overNoted := g.overNoted && decide (58000 < mainMv)
    lowSince := track (decide (mainMv < 46000)) now g.lowSince
    pfSince := track pf now g.pfSince }

/-- Ballast energy of one µs in nJ (R147). -/
def ballastEnergy (s : State) : Nat := idleTiles s * s.gov.ballast * ballastInc s.gov.clock

/-- The conditions of R182. -/
def startConditions (s : State) : Bool :=
  decide (objAt s 0x3010 0 = 1) && s.pins.prsnt && !s.pins.early && decide (49000 ≤ s.gov.mainMv) &&
  (!s.pins.btn || s.life.override) && !s.life.btnHold && !s.life.stuckHold

/-- An inhibit of R192 holds. -/
def startInhibited (s : State) : Bool :=
  decide (objAt s 0x3010 0 ≠ 1) || s.life.unfit || s.life.fwInvalid || s.gov.drop.isSome

/-- Changing the life state (R179, R402). -/
def enterLife (l : LifeState) (s : State) : State :=
  let s := s.modLife fun x => { x with state := l, since := s.now, dropOff := false }
  if l = .departReq ∨ l = .draining ∨ l = .left then glCause 0 s else s

/-- STANDBY and OFF follow the inhibits, and the start conditions are timed (R182, R192). -/
def settle (s : State) : State :=
  let s :=
    if s.life.state = .standby ∧ startInhibited s = true then enterLife .off s
    else if s.life.state = .off ∧ startInhibited s = false then enterLife .standby s
    else s
  let ok := decide (s.life.state = .standby) && startConditions s
  s.modLife fun l => { l with startSince := track ok s.now l.startSince, startDue := l.startDue && ok }

/-- One power sample, every 1 µs: voltages, p16, the envelope and the control law (R128, R130, R156). -/
def execPowerSample (t mainMv bulkMv powerMw : Nat) (pfWarn : Bool) (s : State) : Out :=
  let s := clockTo t s
  if s.life.state = .absent then .next s
  else
    let s := s.modPins fun p => { p with pfWarn := pfWarn }
    let s := s.modGov fun g =>
      trackInput s.now mainMv pfWarn
        { g with mainMv := mainMv, bulkMv := bulkMv, volts := (mainMv :: g.volts).take 16 }
    let s := settle s
    if !sampling s.gov then .next s
    else
      let s := s.modGov fun g => { g with
        power := (powerMw :: g.power).take 16, sumMw := g.sumMw + powerMw, samples := g.samples + 1 }
      let s := if measuring s.gov && outsideEnvelope s.gov then noteRecord 0x2004 utInput 0 (count 0x2130 3 1 s) else s
      if !regulating s.gov then .next s
      else
        let nj := s.gov.ballastNj + ballastEnergy s
        let s := count 0x2130 1 (nj / 1000000) (s.modGov fun g => { g with ballastNj := nj % 1000000 })
        .next (s.modGov fun g => ballastLaw (anyTileWorks s) (idleTiles s) powerMw (holdLaw g))

/-- MAIN_54V has stayed at or above 49.0 V for 100 ms (R127). -/
def execMainInputQualify (t : Nat) (s : State) : Out :=
  let s := clockTo t s
  if lasted s s.gov.okSince 100000000 then .next (s.modGov fun g => { g with inputOk := true })
  else .next s

/-- MAIN_54V has stayed below the brownout threshold for 1 ms (R167).  BROWNOUT is a state of the control law: a sag in
PRECHARGE qualifies once the law is in force (DESIGN CHOICE, log entry 117). -/
def execBrownoutDetect (t : Nat) (s : State) : Out :=
  let s := clockTo t s
  if s.gov.state = .regulating ∧ lasted s s.gov.brownSince 1000000 = true then
    .next (s.modGov fun g => { g with brownDue := true })
  else .next s

/-- MAIN_54V has stayed at or above the threshold plus 0.50 V for 100 ms (R168). -/
def execBrownoutClearQualify (t : Nat) (s : State) : Out :=
  let s := clockTo t s
  if s.gov.state = .brownout ∧ lasted s s.gov.brownOkSince 100000000 = true then
    .next (s.modGov fun g => { g with brownClearDue := true })
  else .next s

/-- MAIN_54V has been above 58.0 V for 1 ms: the record is due at the next boundary (R170). -/
def execOvervoltageNotice (t : Nat) (s : State) : Out :=
  let s := clockTo t s
  if measuring s.gov = true ∧ lasted s s.gov.overSince 1000000 = true ∧ s.gov.overNoted = false then
    .next (s.modGov fun g => { g with overDue := true, overNoted := true })
  else .next s

/-! ### The half-cycle boundary (R134, R138, R143, R148 to R152) -/

/-- The limit registers and the policy take the objects' values (R134, R143). -/
def loadPolicy (s : State) (g : Governor) : Governor :=
  let up := objAt s 0x2110 0
  let down := objAt s 0x2111 0
  { g with
    upReg := up, downReg := down
    clamped := decide (800 < up) || decide (800 < down)
    capNow := objAt s 0x2112 0
    depthNow := objAt s 0x2113 0
    idleReleaseNow := objAt s 0x2114 0
    sparesNow := decide (objAt s 0x2115 0 = 1)
    brownThr := objAt s 0x2116 0
    clockFloorNow := objAt s 0x2117 0 }

/-- A of the half-cycle just ended (R130); a SLED_FATAL without ballast in it fixes the ceiling that R178 holds. -/
def closeHalf (g : Governor) : Governor :=
  let a := if g.samples = 0 then g.aMw else g.sumMw / g.samples
  { g with
    aMw := a, sumMw := 0, samples := 0, holdSum := 0, heldThis := false, workThis := false
    lowHalves := if g.holdSum < g.samples then min 4 (g.lowHalves + 1) else 0
    fatalCapMw := if g.fatalDue then some a else g.fatalCapMw, fatalDue := false }

/-- The tile clock steps by at most one step (R150 to R152); `sum` and `n` are the half-cycle's hold_back sum and
samples.  R151 stops a step down only where the clock equals CLOCK_FLOOR, so a clock that a raised floor has passed still
steps down to 1.20 GHz (DEDUCED, log entry 152). -/
def clockLaw (sum n : Nat) (g : Governor) : Governor :=
  if 4 * n < sum ∧ g.clock ≠ g.clockFloorNow ∧ 1200 < g.clock then { g with clock := g.clock - 200 }
  else if 4 ≤ g.lowHalves ∧ g.clock < 1800 then { g with clock := g.clock + 200 }
  else g

/-- U is zero in brownout and above 58.0 V (the control law, R167, R170). -/
def effectiveUp (g : Governor) : Nat :=
  if g.state = .brownout ∨ g.overVolt = true then 0 else min g.upReg 800

/-- Ceiling and floor of the coming half-cycle (the control law). -/
def fixLimits (idleHalf : Nat) (g : Governor) : Governor :=
  let u := 1000 * effectiveUp g
  let d := 1000 * min g.downReg 800
  let released := decide (g.idleReleaseNow ≤ idleHalf)
  let depth := if released || g.fullDepth then d else min (1000 * g.depthNow) d
  let cap := 1000 * g.capNow
  let c0 := max (min (g.aMw + u) cap) (g.aMw - d)
  let c := match g.fatalCapMw with | some x => min c0 x | none => c0
  { g with
    uMw := u, dMw := d, idleHalf := idleHalf, idleReleased := released
    ceilMw := c, floorMw := min (g.aMw - depth) c
    capDescent := decide (cap < c) }

/-- Brownout is entered and left at a boundary (R167, R168). -/
def brownoutStep (s : State) : State :=
  if s.gov.brownDue = true ∧ s.gov.state = .regulating then
    noteRecord 0x2005 utInput 0 (count 0x2130 4 1
      (s.modGov fun g => { g with state := .brownout, brownDue := false }))
  else if s.gov.brownClearDue = true ∧ s.gov.state = .brownout then
    s.modGov fun g => { g with state := .regulating, brownClearDue := false }
  else s

/-- The governor's part of a half-cycle boundary: `busy` says whether a HOST_WORK descriptor is pending (R138).  Policy and
limits are fixed at every boundary, so they stand when PRECHARGE begins at one (R133, R134, R143, R183). -/
def governorBoundary (busy : Bool) (s : State) : State :=
  let idle := if s.gov.workThis || busy then 0 else s.gov.idleHalf + 1
  let s := if s.gov.heldThis then count 0x2130 2 1 s else s
  let s := brownoutStep s
  let s := if s.gov.overDue then
      noteRecord 0x2006 utInput 0 (s.modGov fun g => { g with overDue := false }) else s
  s.modGov fun g =>
    let g' := loadPolicy s (closeHalf g)
    fixLimits idle (clockLaw g.holdSum g.samples g')

/-- The value of GOV_FLAGS. -/
def govFlags (s : State) : Nat :=
  let g := s.gov
  let ramps := match s.rb.state with | .noRef | .coast | .freewheel => true | _ => false
  flag g.clamped 7 + flag ramps 6 + flag g.overVolt 5 + flag (decide (g.state = .brownout)) 4 + flag g.capDescent 3
    + flag g.idleReleased 2 + flag (decide (0 < g.ballast) && decide (0 < idleTiles s)) 1
    + flag (decide (0 < g.holdBack)) 0

end Sys2Proof.Machine
end

