-- ==== Sys2Proof/Machine/Roundabout.lean ====
section
/-! DEFINITION. The Roundabout (chapter 02): crossings, lock and loss, ticks and phase correction, cycle numbering
and scheduled events. -/

namespace Sys2Proof.Machine

/-! ### Periods and forms -/

/-- Shortest and longest accepted period, 10 ns (R76, log entry 10). -/
def periodMin : Nat := 1538462
def periodMax : Nat := 2222222

/-- Local time after its last crossing at which a run ends, 10 ns (R1143, log entry 10). -/
def runLimit : Nat := 2222200

/-- The form of a period of length `len` (10 ns) whose time above the threshold is `above` ns (R66, R68).  A short period
whose time meets both conditions is taken as pulse form (DESIGN CHOICE, log entry 110). -/
def classifyForm (select len above : Nat) : RefForm :=
  let pulse := decide (20000 ≤ above) && decide (above ≤ 1000000)
  let sense := decide (35 * len * 10 ≤ 100 * above) && decide (100 * above ≤ 65 * len * 10)
  if select = 1 then (if pulse then .pulse else .unset)
  else if select = 2 then (if sense then .sense else .unset)
  else if pulse then .pulse
  else if sense then .sense
  else .unset

/-- A period is valid for acquisition (R76). -/
def periodValid (r : Roundabout) (len : Nat) (f : RefForm) : Bool :=
  decide (periodMin ≤ len) && decide (len ≤ periodMax) && decide (f ≠ .unset) &&
  (decide (r.runLen = 0) ||
    (decide (f = r.runForm) &&
      decide (50 * ((len : Int) - (r.runHist.headD 0 : Nat)).natAbs ≤ r.runHist.headD 0)))

/-- Following the run of valid periods at a crossing (R78, R1143). -/
def followRun (ts : Nat) (valid : Bool) (len : Nat) (f : RefForm) (r : Roundabout) : Roundabout :=
  if valid then
    { r with
      lastRaw := some ts, runActive := true, runLen := r.runLen + 1
      runForm := if r.runLen = 0 then f else r.runForm
      runHist := (len :: r.runHist).take 4 }
  else { r with lastRaw := some ts, runActive := true, runLen := 0, runForm := .unset, runHist := [] }

/-- Sum of a list of periods. -/
def sumList (l : List Nat) : Nat := l.foldl (· + ·) 0

/-! ### Scheduled events -/

/-- The comparator that fires next on this tick: kiosk before package, each in ascending number (R111). -/
def nextDue (r : Roundabout) : Option (Bool × Nat) :=
  match firstFrom 16 0 fun i => comparatorDue r (tabGet {} i r.kioskCmp) with
  | some i => some (true, i)
  | none => (firstFrom 64 0 fun i => comparatorDue r (tabGet {} i r.pkgCmp)).map fun i => (false, i)

/-- A comparator fires once: BUSY clears and LATE shows whether its instant had passed (R107, R110). -/
def fireComparator (c : Comparator) : Comparator :=
  { c with busy := false, fired := true, fresh := true, late := c.passed }

/-- What the firing of a package comparator raises at once: PC60 and PC61 leave the interrupt CHECKPOINT, code 2, pending on
every tile that runs a program (R24, R398 and the table of interrupt sources). -/
def raiseCheckpoint (i : Nat) (s : State) : State :=
  if i = 60 ∨ i = 61 then
    { s with tiles := s.tiles.map fun (n, x) => (n, if x.works then { x with irqs := x.irqs ||| 4 } else x) }
  else s

/-- The next due comparator fires (R107 to R111). -/
def fireNext (s : State) : State :=
  match nextDue s.rb with
  | none => s
  | some (true, i) =>
    let c := tabGet {} i s.rb.kioskCmp
    let s1 := s.modRb fun r => { r with kioskCmp := tabPut {} i (fireComparator c) r.kioskCmp }
    if c.passed then count 0x2020 5 1 s1 else s1
  | some (false, i) =>
    let c := tabGet {} i s.rb.pkgCmp
    let s1 := raiseCheckpoint i (s.modRb fun r => { r with pkgCmp := tabPut {} i (fireComparator c) r.pkgCmp })
    if c.passed then count 0x2020 5 1 s1 else s1

/-- The first `n` due comparators fire. -/
def fireDue : Nat → State → State
  | 0, s => s
  | n + 1, s => fireDue n (fireNext s)

/-- A scheduled event fires; a half-cycle boundary of the same tick comes first (R60, R107 to R111). -/
def execEventFire (s : State) : Out := .next (if s.rb.boundaryDue then s else fireNext s)

/-- A comparator has fired on the present tick and its user has not yet taken the firing. -/
def freshFiring (c : Comparator) : Bool := c.fired && c.fresh

/-- Kiosk comparator `i` may take effect (R60, R111): the half-cycle limit of the tick has applied, and so have the firings of
lower-numbered kiosk comparators; a departure takes effect with the package's comparators. -/
def kioskTurn (i : Nat) (r : Roundabout) : Bool :=
  let waits (n : Nat) : Bool :=
    let c := tabGet {} n r.kioskCmp
    comparatorDue r c || (freshFiring c && decide (n ≠ kcDepart))
  !r.boundaryDue && (firstFrom i 0 waits).isNone

/-! ### Phase error and correction -/

/-- The phase error e at a crossing at `ts` (10 ns): offset minus the fractional phase, wrapped and rounded to
the nearest tick, halves away from zero (R85). -/
def phaseError (off ts : Nat) (r : Roundabout) : Int :=
  let l : Int := max r.tickLen 1
  let d : Int := ((ts * 2 ^ 32 : Nat) : Int) - (r.tickStart : Int)
  let v : Int := ((off : Int) - (r.phase : Int)) * l - d
  let w : Int := (v + 2048 * l) % (4096 * l) - 2048 * l
  let m : Int := ((2 * (w.natAbs : Int) + l) / (2 * l) : Int)
  let e : Int := if w < 0 then -m else m
  if e = 2048 then -2048 else e

/-- e clamped to 16 rt (R86). -/
def clampCorr (e : Int) : Int := max (-16) (min 16 e)

/-- The tick length of P_est, in 10 ns / 2^32 (R69, R114). -/
def tickLength (pEst4 : Nat) : Nat := pEst4 * 2 ^ 18

/-- The package's copy follows the kiosk's count while the package has power (R75). -/
def copyCount (powered : Bool) (r : Roundabout) : Roundabout :=
  if powered then { r with pkgCycle := r.cycle, pkgPhase := r.phase } else r

/-- The first lock since standby power: one step to the offset (R90); tick 1,024 jumped counts as passed (R99).  A new tick
begins at the lock crossing (DESIGN CHOICE, log entry 111). -/
def firstLockStep (off ts : Nat) (e : Int) (r : Roundabout) : Roundabout :=
  let fw := (off + 4096 - r.phase % 4096) % 4096
  let bw := (r.phase + 4096 - off % 4096) % 4096
  let forward := decide (0 ≤ e)
  { r with
    phase := off % 4096
    cycle := if forward then (if r.phase + fw ≥ 4096 then (r.cycle + 1) % 2 ^ 48 else r.cycle)
             else (if r.phase < bw then (r.cycle + 2 ^ 48 - 1) % 2 ^ 48 else r.cycle)
    boundaryDue := r.boundaryDue || (forward && decide (1 ≤ fw))
    repeatLeft := if forward then 0 else bw
    mark1024 :=
      if forward = true ∧ r.phase < 1024 ∧ 1024 ≤ r.phase + fw then some (ts * 2 ^ 32, r.cycle)
      else if forward = true ∧ 5120 ≤ r.phase + fw then some (ts * 2 ^ 32, (r.cycle + 1) % 2 ^ 48)
      else r.mark1024
    tickStart := ts * 2 ^ 32
    tickLen := tickLength r.pEst4
    corr := 0, corrHere := 0
    state := .locked, everLocked := true }

/-- The correction of an accepted crossing replaces any pending one (R86, R87, R92). -/
def takeCorrection (e : Int) (r : Roundabout) : Roundabout :=
  { r with corr := clampCorr e, corrHere := 0, state := if e.natAbs ≤ 16 then .locked else .slewing }

/-- Declaring lock at a crossing (R77, R90 to R92, R118). -/
def declareLock (off ts : Nat) (r : Roundabout) : Roundabout :=
  let e := phaseError off ts r
  let r1 := { r with
    pEst4 := sumList r.runHist, form := r.runForm, lastAccepted := ts, missing := 0, hist := r.runHist
    err := e, freewheelTicks := 0, freewheelLong := false }
  if r.everLocked then takeCorrection e r1 else firstLockStep off ts e r1

/-- A crossing lies in window `k` after the last accepted one (R79). -/
def inWindow (r : Roundabout) (ts k : Nat) : Bool :=
  decide ((16 * ((ts : Int) - r.lastAccepted) - 4 * k * r.pEst4).natAbs ≤ r.pEst4)

/-- A crossing is accepted while locked (R80). -/
def crossingAccepted (r : Roundabout) (ts : Nat) (f : RefForm) : Bool :=
  let k := r.missing + 1
  let i := ts - r.lastAccepted
  inWindow r ts k && decide (f = r.form) && decide (periodMin * k ≤ i) && decide (i ≤ periodMax * k)

/-- An accepted crossing while locked (R71, R84, R86, R92). -/
def acceptCrossing (off ts : Nat) (r : Roundabout) : Roundabout :=
  let e := phaseError off ts r
  let single := decide (r.missing = 0)
  let h := if single then ((ts - r.lastAccepted) :: r.hist).take 4 else r.hist
  takeCorrection e { r with
    hist := h, pEst4 := if single then sumList h else r.pEst4
    lastAccepted := ts, missing := 0, err := e }

/-- A LOCKED Roundabout lifts the bar that a miss sets to low-power listen (R327). -/
def noteLock (s : State) : State :=
  if s.rb.state = .locked ∧ s.net.afterMiss = true then s.modNet fun n => { n with afterMiss := false } else s

/-- A crossing arrives on MAINS_REF (R63 to R68, R76 to R86, R1143).  Events of the present tick have fired before a first
lock can step the count (R1137). -/
def execMainsCrossing (t above : Nat) (s : State) : Out :=
  let s := clockTo t s
  if s.life.state = .absent then .next s
  else
    let ts := s.now / 10
    let off := objAt s 0x2010 0
    let len := match s.rb.lastRaw with | some a => ts - a | none => 0
    let f := classifyForm (objAt s 0x2011 0) len above
    let valid := periodValid s.rb len f
    let s1 := changeRb (followRun ts valid len f) s
    if s.rb.state = .noRef ∨ s.rb.state = .freewheel then
      if valid = true ∧ 8 ≤ s1.rb.runLen then
        let s1 := if s.rb.everLocked then s1 else fireDue 80 s1
        .next (noteLock (count 0x2020 1 1 (changeRb (fun r => copyCount (packagePowered s) (declareLock off ts r)) s1)))
      else .next s1
    else if crossingAccepted s.rb ts f then
      .next (noteLock (count 0x2020 1 1 (changeRb (acceptCrossing off ts) s1)))
    else .next (count 0x2020 2 1 s1)

/-- A window is open to close: its end, (k + 0.25) P_est after the last accepted crossing, has passed (R79, R81). -/
def windowOver (r : Roundabout) (ts : Nat) : Bool :=
  decide ((4 * (r.missing + 1) + 1) * r.pEst4 ≤ 16 * (ts - r.lastAccepted))

/-- The states in which windows run (R79). -/
def tracking (r : Roundabout) : Bool :=
  decide (r.state = .locked) || decide (r.state = .coast) || decide (r.state = .slewing)

/-- A window closes empty (R81 to R83, R116). -/
def execWindowClose (t : Nat) (s : State) : Out :=
  let s := clockTo t s
  if tracking s.rb && windowOver s.rb (s.now / 10) then
    let s := count 0x2020 3 1 s
    if s.rb.missing + 1 < 3 then
      .next (changeRb (fun r => { r with missing := r.missing + 1, state := .coast }) s)
    else
      .next (noteRecord 0x2001 utMains 0 (count 0x2020 4 1 (changeRb (fun r => { r with
        missing := r.missing + 1, state := .freewheel, form := .unset, corr := 0, corrHere := 0
        freewheelTicks := 0 }) s)))
  else .next s

/-- A run ends 22.222 ms after its last crossing (R1143, R1144). -/
def execRunTimeout (t : Nat) (s : State) : Out :=
  let s := clockTo t s
  match s.rb.lastRaw with
  | some a =>
    if s.rb.runActive = true ∧ a + runLimit ≤ s.now / 10 then
      .next (changeRb (fun r => { r with runActive := false, runLen := 0, runForm := .unset, runHist := [] }) s)
    else .next s
  | none => .next s

/-! ### Ticks -/

/-- How far RB_PHASE moves at the end of the tick: 2 at a forward correction, 0 at a backward one (R88, R89). -/
def tickMove (r : Roundabout) : Nat := if r.corrHere = 1 then 2 else if r.corrHere = -1 then 0 else 1

/-- One of the values passed lies on a half-cycle boundary of the offset (R74, R164). -/
def passesBoundary (off p move : Nat) : Bool :=
  (decide (1 ≤ move) && decide ((p + 1) % 2048 = off % 2048)) ||
  (decide (2 ≤ move) && decide ((p + 2) % 2048 = off % 2048))

/-- A correction point (R87). -/
def correctionPoint (p : Nat) : Bool := decide (p % 256 = 128)

/-- The end of a tick length (R69, R70, R74, R87 to R89, R164). -/
def tickRb (off : Nat) (r : Roundabout) : Roundabout :=
  let move := tickMove r
  let abs := r.phase + move
  let wrap := decide (4096 ≤ abs)
  let p := abs % 4096
  let cyc := if wrap then (r.cycle + 1) % 2 ^ 48 else r.cycle
  let start := r.tickStart + r.tickLen
  let takes := decide (1 ≤ move) && correctionPoint p && decide (r.corr ≠ 0)
  let sign : Int := if 0 < r.corr then 1 else -1
  let fresh := decide (r.repeatLeft = 0)
  let unwait (c : Comparator) : Comparator := { c with waitTick := false, fresh := false }
  { r with
    phase := p
    cycle := cyc
    tickStart := start
    tickLen := tickLength r.pEst4
    corrHere := if takes then sign else 0
    corr := if takes then r.corr - sign else r.corr
    boundaryDue := r.boundaryDue || (fresh && passesBoundary off r.phase move)
    repeatLeft := r.repeatLeft - move
    atCycleStart := wrap
    freewheelTicks := if r.state = .freewheel then r.freewheelTicks + move else r.freewheelTicks
    mark1024 := if r.phase < 1024 ∧ 1024 ≤ abs then some (start, cyc) else r.mark1024
    kioskCmp := r.kioskCmp.map fun (i, c) => (i, unwait c)
    pkgCmp := r.pkgCmp.map fun (i, c) => (i, unwait c) }

/-- A tick length ends (R70, R75). -/
def endTick (s : State) : State :=
  let s1 := changeRb (fun r => copyCount (packagePowered s) (tickRb (objAt s 0x2010 0) r)) s
  { s1 with now := max s1.now (s1.rb.tickStart / 2 ^ 32 * 10) }

/-- Freewheel reaches 65,536 cycles (R117). -/
def execFreewheelLong (s : State) : Out :=
  if s.rb.state = .freewheel ∧ 65536 * 4096 ≤ s.rb.freewheelTicks ∧ s.rb.freewheelLong = false then
    .next (noteRecord 0x2002 utMains 0 (changeRb (fun r => { r with freewheelLong := true }) s))
  else .next s

/-! ### Cycle numbering -/

/-- Adding D to RB_CYCLE, which wraps at 48 bits. -/
def addCycles (c : Nat) (d : Int) : Nat := (((c : Int) + d) % (2 ^ 48 : Int)).toNat

/-- Correction points strictly between a phase and the next passing of tick 1,024. -/
def pointsTo1024 (p : Nat) : Nat :=
  let dist := (1024 + 4096 - p % 4096) % 4096
  countTo 16 fun j => decide (0 < (128 + 256 * j + 4096 - p % 4096) % 4096) &&
    decide ((128 + 256 * j + 4096 - p % 4096) % 4096 < dist)

/-- When and in which cycle the count will next pass tick 1,024, pending corrections applied (R99). -/
def next1024 (r : Roundabout) : Nat × Nat :=
  let dist := (1024 + 4096 - r.phase % 4096) % 4096
  let n := min r.corr.natAbs (pointsTo1024 r.phase)
  let adj : Int := (if 0 < r.corr then (n : Int) else -(n : Int)) + r.corrHere
  let ticks : Int := (dist : Int) - adj
  let u : Int := r.tickStart + (if 1 ≤ ticks then (r.tickLen : Int) + (ticks - 1) * tickLength r.pEst4 else 0)
  (u.toNat, if r.phase ≤ 1024 then r.cycle else (r.cycle + 1) % 2 ^ 48)

/-- The own cycle whose tick 1,024 lies nearest to local time `t` ns (R99). -/
def nearestCycle (t : Nat) (r : Roundabout) : Nat :=
  let u : Int := ((t / 10 * 2 ^ 32 : Nat) : Int)
  let nx := next1024 r
  match r.mark1024 with
  | none => nx.2
  | some (u0, c0) => if (u - u0).natAbs ≤ ((nx.1 : Int) - u).natAbs then c0 else nx.2

/-- The beacon's comparator after a backward step: it is loaded for the beacon instant that the count reaches first (R96). -/
def rearmBeacon (r : Roundabout) : Roundabout :=
  let n := if r.cycle % 8 = 0 ∧ r.phase < 1024 then r.cycle else r.cycle / 8 * 8 + 8
  if (tabGet {} kcBeacon r.kioskCmp).busy then
    { r with kioskCmp := tabPut {} kcBeacon (loadComparator r n 1024 0 (tabGet {} kcBeacon r.kioskCmp)) r.kioskCmp }
  else r

/-- Adding D at a cycle boundary, counted when it is not zero (R101 to R105); the cycle last marked is renumbered too, and the
package's copy follows (R75). -/
def stepCycle (d : Int) (s : State) : State :=
  let s := changeRb (fun r =>
    let r := copyCount (packagePowered s) { r with
      cycle := addCycles r.cycle d, applyD := none, applyFirst := false, mismatch := false, pendingNeg := 0
      mark1024 := r.mark1024.map fun (u, c) => (u, addCycles c d) }
    if d < 0 then rearmBeacon r else r) s
  if d = 0 then s else count 0x2020 6 1 s

/-- The D that is due at the present cycle boundary is applied, or becomes pending (R101 to R105). -/
def applyDue (s : State) : State :=
  if s.rb.atCycleStart = false then s
  else match s.rb.applyD with
    | some d =>
      if s.rb.applyFirst = true ∨ 0 ≤ d ∨ packagePowered s = false then stepCycle d s
      else noteRecord 0x2003 utMains 0 (changeRb (fun r => { r with
        mismatch := true, pendingNeg := d.natAbs, applyD := none }) s)
    | none =>
      if s.rb.pendingNeg ≠ 0 ∧ packagePowered s = false then stepCycle (-(s.rb.pendingNeg : Int)) s
      else s

/-- Using a beacon that names cycle `n` for numbering, at local time now (R98 to R105, R1145).  The first use is the first
while UNNUMBERED stands: a sled that has numbered itself as coordinator (R309) treats a beacon as a later one (DEDUCED,
log entry 112).  A D that arises on the tick of a cycle boundary waits for the next one (R1137). -/
def useBeacon (n : Nat) (s : State) : State :=
  if s.rb.state ≠ .locked then s
  else
    let s := (applyDue s).modRb fun r => { r with atCycleStart := false }
    let d : Int := (n : Int) - nearestCycle s.now s.rb
    if s.rb.unnumbered then
      changeRb (fun r => { r with
        unnumbered := false, mismatch := false, pendingNeg := 0
        applyD := if d = 0 then none else some d, applyFirst := true }) s
    else if 0 ≤ d then
      changeRb (fun r => { r with
        mismatch := false, pendingNeg := 0, applyD := if d = 0 then none else some d, applyFirst := false }) s
    else if packagePowered s then
      noteRecord 0x2003 utMains 0 (changeRb (fun r => { r with
        mismatch := true, pendingNeg := d.natAbs, applyD := none, applyFirst := false }) s)
    else
      changeRb (fun r => { r with
        pendingNeg := if r.mismatch then d.natAbs else 0, applyD := some d, applyFirst := false }) s

/-- A cycle boundary at which a pending D may be applied (R101 to R105). -/
def execApplyBeaconDelta (s : State) : Out := .next (applyDue s)

end Sys2Proof.Machine
end

