-- ==== Sys2Proof/Machine/Net.lean ====
section
/-! DEFINITION. The field network (chapter 06): frames and tags, the coordinator, beacons, status slots, low-power
listen, notices and sessions. -/

namespace Sys2Proof.Machine

/-! ### Frames (R294 to R296, R328, R334, R338) -/

/-- JOP frame types. -/
def ftRequest : Nat := 0x01
def ftReply : Nat := 0x02
def ftBeacon : Nat := 0x10
def ftStatus : Nat := 0x11
def ftNotice : Nat := 0x12
def ftOpen : Nat := 0x20
def ftAccept : Nat := 0x21
def ftConfirm : Nat := 0x22
def ftClose : Nat := 0x23
def ftRefuse : Nat := 0x24

/-- A type code the header table lists. -/
def knownType (t : Nat) : Bool :=
  decide (t = 1) || decide (t = 2) || (decide (0x10 ≤ t) && decide (t ≤ 0x12)) || (decide (0x20 ≤ t) && decide (t ≤ 0x24))

/-- The 32-byte header with a given tag. -/
def jopHeader (typ flags session len : Nat) (tag : List Byte) : List Byte :=
  [0x4A, 0x4F, 0x03] ++ natLe typ 1 ++ natLe flags 2 ++ natLe session 2 ++ natLe len 2 ++ natLe 0 6 ++ padTo tag 16

/-- The tag of a frame: HMAC over the whole of it with TAG zero, cut to 16 bytes (R334). -/
def frameTag (key f : List Byte) : List Byte :=
  padTo (Config.hmacSha256 key (f.take 16 ++ List.replicate 16 0 ++ f.drop 32)) 16

/-- A frame the sled sends, tagged when a key is given. -/
def buildFrame (key : Option (List Byte)) (typ session : Nat) (payload : List Byte) : List Byte :=
  match key with
  | none => jopHeader typ 0 session payload.length [] ++ payload
  | some k =>
    jopHeader typ 1 session payload.length (frameTag k (jopHeader typ 1 session payload.length [] ++ payload)) ++ payload

/-- The segment key, when object 0x1221:00 is not all zeros (R338). -/
def segmentKey (s : State) : Option (List Byte) :=
  let k := strAt s 0x1221 0
  if k.all (· = 0) then none else some k

/-- The frame came by a path R295 admits, on the JOP port. -/
def sourceOk (src : NetSource) : Bool :=
  src.linkLocal && decide (src.hopLimit = 255) && !src.fragment && decide (src.port = 61605)

/-- The header passes the checks of R328 that need no key. -/
def headerOk (f : List Byte) : Bool :=
  decide (32 ≤ f.length) && decide (field f 0 2 = 0x4F4A) && decide (field f 2 1 = 3) && knownType (field f 3 1) &&
  decide (field f 8 2 = f.length - 32) && decide (field f 8 2 ≤ 1280)

/-- The frame's TAGGED bit is set and its tag verifies under a key (R334). -/
def tagOk (key f : List Byte) : Bool := bit (field f 4 1) 0 && decide ((f.drop 16).take 16 = frameTag key f)

/-- The types that every node on the segment receives. -/
def multicastType (t : Nat) : Bool := decide (t = ftBeacon) || decide (t = ftStatus) || decide (t = ftNotice)

/-- A frame with SESSION 0, or one whose session is open, half-open for a SESSION_CONFIRM, and whose tag verifies (R335,
R336). -/
def sessionRule (s : State) (f : List Byte) : Bool :=
  let n := field f 6 2
  let x := tabGet {} n s.kiosk.sessions
  decide (n = 0) ||
    ((decide (x.phase = 2) || (decide (x.phase = 1) && decide (field f 3 1 = ftConfirm))) && tagOk x.keyC2s f)

/-- BEACON, STATUS and NOTICE frames verify under the segment key when it is set (R338). -/
def segmentRule (s : State) (f : List Byte) : Bool :=
  !multicastType (field f 3 1) || (match segmentKey s with | none => true | some k => tagOk k f)

/-- The tag rules of a frame (R336, R338). -/
def frameTagRule (s : State) (f : List Byte) : Bool := sessionRule s f && segmentRule s f

/-- Discarding a frame: counted under R328, and a session's first failing tag is recorded (R336). -/
def discardFrame (f : List Byte) (s : State) : State :=
  let s := count 0x1230 5 1 s
  let n := field f 6 2
  let sess := tabGet {} n s.kiosk.sessions
  if headerOk f = true ∧ n ≠ 0 ∧ sess.phase = 2 ∧ sess.tagFailed = false then
    noteRecord 0x1006 utNet 0 (s.modKiosk fun k =>
      { k with sessions := tabPut {} n { sess with tagFailed := true } k.sessions })
  else s

/-! ### Low-power listen, the receiver and the address (R293, R319 to R322, R325) -/

/-- The conditions of low-power listen (R319, R327). -/
def sleepConditions (s : State) : Bool :=
  decide (objAt s 0x1215 0 = 1) && (decide (s.life.state = .standby) || decide (s.life.state = .off)) &&
  decide (s.net.nodeId ≠ 0) && !s.net.beaconMissed && (s.net.lastWake.any fun w => !bit w s.net.nodeId) &&
  (!s.net.afterMiss || decide (s.rb.state = .locked))

/-- The sled is in low-power listen while all conditions hold (R319). -/
def sleeping (s : State) : Bool := decide (s.net.state = .follower) && sleepConditions s

/-- Object 0x1200:00. -/
def t1sState (s : State) : Nat := if sleeping s then 5 else s.net.state.code

/-- Local time in ns of a moment in 10 ns / 2^32. -/
def nsOf (u : Nat) : Nat := u / 2 ^ 32 * 10

/-- The guard of an own beacon instant: 500 µs of local time on either side, the coming instant placed by the present tick
length (R322; log entry 130). -/
def inGuard (s : State) : Bool :=
  let near (u c : Nat) : Bool := decide (c % 8 = 0) && decide (((s.now : Int) - (nsOf u : Int)).natAbs ≤ 500000)
  (s.rb.mark1024.any fun (u, c) => near u c) || near (next1024 s.rb).1 (next1024 s.rb).2

/-- The own beacon instant of the present cycle lies no more than 500 µs back (R322). -/
def guardOpen (s : State) : Bool :=
  s.rb.mark1024.any fun (u, c) => decide (c = s.rb.cycle) && decide (s.now ≤ nsOf u + 500000)

/-- The own status slot is in progress (R316). -/
def inStatusSlot (s : State) : Bool :=
  decide (s.rb.cycle % 8 = 1 + s.net.nodeId / 16) && decide (s.rb.phase / 256 = s.net.nodeId % 16)

/-- A beacon of the present own cycle has been heard or sent. -/
def gotBeacon (s : State) : Bool := decide (s.net.gotCycle = some s.rb.cycle)

/-- The PHY has started; an invalid node ID leaves it receiving (R298). -/
def phyUp (s : State) : Bool := decide (s.net.state ≠ .down) || s.net.nodeIdInvalid

/-- The receiver is on (R320). -/
def receiverOn (s : State) : Bool :=
  phyUp s && (!sleeping s || inStatusSlot s ||
    (decide (s.rb.cycle % 8 = 0) && decide (864 ≤ s.rb.phase) && !gotBeacon s && (decide (s.rb.phase < 1024) || guardOpen s)))

/-- The link-local address has passed duplicate address detection (R293). -/
def addressUp (s : State) : Bool := !s.net.conflict && decide (s.net.dadUntil ≤ s.now)

/-- A frame reaches the sled: standby is up, the receiver is on, and an address that is the sled's carries it there. -/
def frameReaches (s : State) (f : List Byte) : Bool :=
  decide (s.life.state ≠ .absent) && receiverOn s && (multicastType (field f 3 1) || addressUp s)

/-- The sled handles requests and session frames: it is awake and no miss is unresolved (R321, R325). -/
def netAwake (s : State) : Bool := decide (s.life.state ≠ .absent) && !sleeping s && !s.net.beaconMissed

/-- The sled may transmit: its node ID is valid, no miss is unresolved and its address stands (R293, R298, R325). -/
def netMaySend (s : State) : Bool :=
  decide (s.life.state ≠ .absent) && decide (s.net.state ≠ .down) && !s.net.nodeIdInvalid && !s.net.beaconMissed && addressUp s

/-! ### Sending (R293 to R296, R313) -/

/-- The link-local address: fe80::/64 and the modified EUI-64. -/
def linkLocal : Nat := 0xFE80 * 2 ^ 112 + (Config.eui64 ^^^ 2 ^ 57) % 2 ^ 64

/-- ff02::1, all nodes of the segment. -/
def allNodes : Nat := 0xFF02 * 2 ^ 112 + 1

/-- The solicited-node multicast address of an address. -/
def solicitedNode (a : Nat) : Nat := 0xFF02 * 2 ^ 112 + 0x1FF * 2 ^ 24 + a % 2 ^ 24

/-- The address of a client. -/
def clientAddress (c : Nat) : Nat := c / 65536

/-- A JOP frame leaves from port 61605 with hop limit 255 (R294, R295). -/
def jopPacket (dst : Nat) (f : List Byte) : Emission := .frame 255 61605 dst f

/-- A JOP frame to every node of the segment. -/
def segmentPacket (f : List Byte) : Emission := jopPacket (allNodes * 65536 + 61605) f

/-- The quiet window of R313: no frame but a beacon begins in it, until the cycle's beacon or tick 1,280. -/
def quietWindow (s : State) : Bool :=
  decide (s.rb.cycle % 8 = 0) && decide (640 ≤ s.rb.phase) && decide (s.rb.phase < 1280) && !gotBeacon s

/-- A packet leaves, or the quiet window holds it back; where the sled may not transmit, nothing leaves (R313, R325). -/
def netEmit (e : Emission) (s : State) : State :=
  if netMaySend s = false then s
  else if quietWindow s then s.modNet fun n => { n with held := n.held ++ [e] }
  else emit e s

/-- A big-endian field, as the IETF standards order bytes (R17). -/
def fieldBE (bs : List Byte) (o n : Nat) : Nat := leNat (((bs.drop o).take n).reverse)

/-- Bytes of a value, most significant first (R17). -/
def natBE (v n : Nat) : List Byte := (natLe v n).reverse

/-- Sum of 16-bit words, most significant byte first. -/
def wordSum : List Byte → Nat
  | a :: b :: rest => 256 * a.toNat + b.toNat + wordSum rest
  | [a] => 256 * a.toNat
  | [] => 0

/-- The checksum of the Internet standards: the complement of the sum with its carries added back. -/
def internetChecksum (bs : List Byte) : Nat :=
  let v := wordSum bs
  let v := v % 65536 + v / 65536
  65535 - (v % 65536 + v / 65536)

/-- An ICMPv6 message of a type, its checksum over the pseudo-header included (R293). -/
def icmpPacket (src dst typ : Nat) (rest : List Byte) : Emission :=
  let pseudo := natBE src 16 ++ natBE dst 16 ++ natBE (4 + rest.length) 4 ++ natBE 58 4
  .icmp src dst (natBE typ 1 ++ natBE 0 1 ++
    natBE (internetChecksum (pseudo ++ natBE typ 1 ++ natBE 0 3 ++ rest)) 2 ++ rest)

/-- A neighbour solicitation for an address, with the own link-layer address (R293). -/
def solicitation (target : Nat) : Emission :=
  icmpPacket linkLocal (solicitedNode target) 135 (natBE 0 4 ++ natBE target 16 ++ [1, 1] ++ natBE Config.linkAddress 6)

/-- The solicitation of duplicate address detection, from the unspecified address (R293). -/
def dadSolicitation : Emission := icmpPacket 0 (solicitedNode linkLocal) 135 (natBE 0 4 ++ natBE linkLocal 16)

/-- A neighbour advertisement of the own address: solicited to a client, unsolicited to all nodes (R293). -/
def advertisement (dst : Nat) (solicited : Bool) : Emission :=
  icmpPacket linkLocal dst 136
    (natBE ((if solicited then 0x60000000 else 0x20000000)) 4 ++ natBE linkLocal 16 ++ [2, 1] ++ natBE Config.linkAddress 6)

/-- A unicast packet leaves once the link-layer address of its destination is known; until then it waits, and the first one
that waits sends a solicitation (R293). -/
def sendTo (addr : Nat) (e : Emission) (s : State) : State :=
  if netMaySend s = false then s
  else if tabGet 0 addr s.net.neighbours ≠ 0 then netEmit e s
  else
    let asked := s.net.unresolved.any fun (a, _) => a == addr
    let s := s.modNet fun n => { n with unresolved := n.unresolved ++ [(addr, e)] }
    if asked then s else netEmit (solicitation addr) s

/-- A neighbour's link-layer address becomes known; what waited for it leaves (R293). -/
def learnNeighbour (addr mac : Nat) (s : State) : State :=
  let waits := s.net.unresolved.filter fun (a, _) => a == addr
  forEach (fun (x : Nat × Emission) s => netEmit x.2 s) waits (s.modNet fun n => { n with
    neighbours := tabPut 0 addr mac n.neighbours, unresolved := n.unresolved.filter fun (a, _) => a != addr })

/-! ### Notices (R341) -/

/-- A notice's cause arises: it waits for its transmit opportunity. -/
def netNotice (n : NetNotice) (s : State) : State :=
  if s.life.state = .absent then s else s.modNet fun x => { x with notices := x.notices ++ [n] }

/-- The sled address, or 0xFFFF (R42). -/
def sledAddress (s : State) : Nat := objAt s 0x7001 0

/-- The notice body; CYCLE is RB_CYCLE at sending but for DEPARTED and RESYNC. -/
def noticeBody (s : State) (n : NetNotice) : List Byte :=
  let cycle := if n.cause = 0x3002 ∨ n.cause = 0x1005 then n.cycle else s.rb.cycle
  natLe n.cause 2 ++ natLe (sledAddress s) 2 ++ natLe Config.eui64 8 ++ natLe cycle 6 ++ natLe n.phase 2 ++
    natLe n.missed 4

/-- The NOTICE frame of a notice. -/
def noticeFrame (s : State) (n : NetNotice) : List Byte := buildFrame (segmentKey s) ftNotice 0 (noticeBody s n)

/-- Splitting off the first element that passes a test. -/
def splitFirst {α : Type} (p : α → Bool) : List α → Option (α × List α)
  | [] => none
  | a :: as => if p a then some (a, as) else (splitFirst p as).map fun (x, r) => (x, a :: r)

/-- A transmit opportunity takes a waiting notice: one never sent first, else one due again; else the oldest packet that the
quiet window held back (R313, R341). -/
def execNoticeSend (t : Nat) (s : State) : Out :=
  let s := clockTo t s
  if netMaySend s = false ∨ quietWindow s = true then .next s
  else match splitFirst (fun n : NetNotice => !n.sentOnce) s.net.notices with
    | some (n, rest) =>
      .next (emit (segmentPacket (noticeFrame s n))
        (s.modNet fun x => { x with notices := rest ++ [{ n with sentOnce := true }] }))
    | none =>
      match splitFirst (fun n : NetNotice => n.again) s.net.notices with
      | some (n, rest) => .next (emit (segmentPacket (noticeFrame s n)) (s.modNet fun x => { x with notices := rest }))
      | none =>
        match s.net.held with
        | e :: rest => .next (emit e (s.modNet fun x => { x with held := rest }))
        | [] => .next s

/-! ### Node ID and roles (R297 to R305) -/

/-- The node ID of R297. -/
def derivedNodeId (s : State) : Nat :=
  let v := objAt s 0x1210 0
  if v ≤ 31 then v else s.pins.slotAddr % 32 + 1

/-- The node ID takes effect: invalid, candidate or follower (R297, R298, R300, R301).  A value that leaves the node ID as it
is leaves the role too, unless the sled has yielded (R303; log entry 131). -/
def takeNodeId (s : State) : State :=
  let id := derivedNodeId s
  let s := s.modNet fun n => { n with idWritten := false }
  if id = 32 then
    if s.net.nodeIdInvalid then s
    else noteRecord 0x1002 utNet 0 (s.modNet fun n => { n with
      state := .down, nodeId := 0xFF, nodeIdInvalid := true, duplicate := false, claiming := false })
  else if id = s.net.nodeId ∧ s.net.duplicate = false then s
  else
    s.modNet fun n => { n with
      state := if id = 0 then .listen else if n.beaconMissed then .searching else .follower
      nodeId := id, nodeIdInvalid := false, duplicate := false
      listened := 0, collisions := 0, claiming := false
      plca := if id = 0 then false else n.plca }

/-- The fallback ID takes effect; a sled that has yielded takes it as its node ID (R300, R303). -/
def takeFallback (s : State) : State :=
  let v := objAt s 0x1211 0
  s.modNet fun n => { n with
    fallbackWritten := false, fallback := v, nodeId := if n.duplicate then v else n.nodeId }

/-- Yielding the coordinator's role (R303). -/
def yieldRole (s : State) : State :=
  let s := noteRecord 0x1003 utNet 0 (s.modNet fun n => { n with
    state := .follower, nodeId := n.fallback, duplicate := true, listened := 0, collisions := 0, claiming := false })
  netNotice { cause := 0x1003, cycle := s.rb.cycle } s

/-! ### Beacons (R304 to R312, R318) -/

/-- The beacon body. -/
def beaconBody (s : State) (flags : Nat) : List Byte :=
  natLe s.rb.cycle 6 ++ natLe flags 2 ++ natLe Config.eui64 8 ++ natLe s.net.present 4 ++ natLe (Config.wakeBits s.rb.cycle) 4 ++
    natLe (objAt s 0x1212 0) 1 ++ natLe 0 7

/-- BEACON_FLAGS.FREEWHEEL (R309). -/
def beaconFreewheel (s : State) : Bool := decide (s.rb.state ≠ .locked) && decide (s.rb.state ≠ .slewing)

/-- The coordinator's view at the end of a beacon period (R318). -/
def closePeriod (s : State) : State :=
  let lim := objAt s 0x1217 0
  let silent (n : Nat) : Nat := if bit s.net.heardNow n then 0 else tabGet 0 n s.net.silentPeriods + 1
  let heard (n : Nat) : Bool := n == 0 || bit s.net.heardNow n
  s.modNet fun x => { x with
    present := sumTo 32 fun n => flag (heard n) n
    membership := sumTo 32 fun n => flag (heard n || (bit x.membership n && decide (silent n < lim))) n
    silentPeriods := (List.range 32).foldl (fun t n => tabPut 0 n (if n = 0 then 0 else silent n) t) []
    heardNow := 0 }

/-- A coordinator sends its beacon (R96, R97, R309, R312). -/
def sendBeacon (s : State) : State :=
  if netMaySend s = false then s
  else
    let s := closePeriod s
    let s := emit (segmentPacket (buildFrame (segmentKey s) ftBeacon 0 (beaconBody s (flag (beaconFreewheel s) 2)))) s
    let s := changeRb (fun r => { r with unnumbered := false }) s
    count 0x1230 1 1 (s.modNet fun n => { n with
      coordinatorEui := Config.eui64, awaiting := false, silent := 0, gotCycle := some s.rb.cycle
      notices := n.notices.map fun x => { x with again := x.sentOnce } })

/-- A candidate sends a claim beacon by CSMA/CD (R304, R307). -/
def sendClaim (deferred : Bool) (s : State) : State :=
  if netMaySend s = false then s
  else emit (segmentPacket (buildFrame (segmentKey s) ftBeacon 0
      (beaconBody s (1 + flag deferred 1 + flag (beaconFreewheel s) 2))))
    (s.modNet fun n => { n with claiming := true })

/-- A beacon instant in the sled's period: the last period's status frame, if it is still to be sent, is dropped, and the
silence and the miss are counted (R317, R326, R343). -/
def openPeriod (s : State) : State :=
  let s := if s.net.statusDue then count 0x1230 7 1 s else s
  let got := gotBeacon s
  s.modNet fun n => { n with
    silent := if got then 0 else n.silent + 1
    awaiting := !got
    missedInstants := if n.beaconMissed && n.awaiting then n.missedInstants + 1 else n.missedInstants
    statusDue := !n.nodeIdInvalid }

/-- The beacon instant of the own count (R300 to R304, R312, R317, R343). -/
def execBeaconInstant (t : Nat) (s : State) : Out :=
  let s := clockTo t s
  if (tabGet {} kcBeacon s.rb.kioskCmp).fired = false ∨ kioskTurn kcBeacon s.rb = false then .next s
  else
    let s := armKiosk kcBeacon (s.rb.cycle / 8 * 8 + 8) 1024 0 s
    let s := if s.net.fallbackWritten then takeFallback s else s
    let s := if s.net.idWritten then takeNodeId s else s
    let s := openPeriod s
    match s.net.state with
    | .coordinator => .next (sendBeacon s)
    | .listen =>
      if s.rb.state ≠ .locked then .next (s.modNet fun n => { n with listened := 0 })
      else if 4 ≤ s.net.listened then .next (sendClaim false s)
      else .next (s.modNet fun n => { n with listened := n.listened + 1 })
    | .down | .backoff | .follower | .searching => .next s

/-- A claim beacon ended without collision (R305). -/
def execClaimSuccess (t : Nat) (s : State) : Out :=
  let s := clockTo t s
  if s.net.claiming then
    .next (s.modNet fun n => { n with
      state := .coordinator, nodeId := 0, plca := true, claiming := false, awaiting := false, collisions := 0
      membership := 1, present := 1, heardNow := 0, silentPeriods := [], coordinatorEui := Config.eui64 })
  else .next s

/-- B of R306 after the n-th collision (n from 0). -/
def backoffBits (n : Nat) : Nat := bits Config.eui64 (10 * (n % 6) + 9) (10 * (n % 6))

/-- A claim beacon collided (R306). -/
def execClaimCollision (t : Nat) (s : State) : Out :=
  let s := clockTo t s
  if s.net.claiming then
    .next (count 0x1230 4 1 (s.modNet fun n => { n with
      state := .backoff, claiming := false, collisions := n.collisions + 1
      backoffEnd := s.now + backoffBits n.collisions * 20000 }))
  else .next s

/-- The backoff ended without a carrier (R307). -/
def execBackoffExpire (t : Nat) (s : State) : Out :=
  let s := clockTo t s
  if s.net.state = .backoff ∧ s.net.claiming = false ∧ s.net.backoffEnd ≤ s.now then .next (sendClaim true s)
  else .next s

/-- A carrier during the backoff (R307). -/
def execCarrierDetectBackoff (t : Nat) (s : State) : Out :=
  let s := clockTo t s
  if s.net.state = .backoff ∧ s.net.claiming = false then .next (yieldRole s) else .next s

/-- A non-deferred beacon ends a miss: the RESYNC notice is scheduled for the own slot (R326).  An instant counts as missed when
no beacon came before the next one (log entry 132). -/
def resync (s : State) : State :=
  if s.net.beaconMissed then
    count 0x1230 6 1 (noteRecord 0x1005 utNet 0 (s.modNet fun n => { n with
      beaconMissed := false, beaconLost := false, state := if n.state = .searching then .follower else n.state
      afterMiss := decide (s.rb.state ≠ .locked)
      resync := some { cause := 0x1005, cycle := s.rb.cycle, phase := s.rb.phase, missed := n.missedInstants } }))
  else s

/-- A non-deferred beacon is heard: the quiet window ends, the silence ends, its WAKE word is taken, notices become due
again and a miss is resolved (R313, R319, R326, R341, R343). -/
def hearBeacon (body : List Byte) (s : State) : State :=
  resync (s.modNet fun n => { n with
    awaiting := false, silent := 0, gotCycle := some s.rb.cycle, lastWake := some (field body 20 4)
    notices := n.notices.map fun x => { x with again := x.sentOnce } })

/-- It is accepted: counted, and its sender is the coordinator (objects 0x1230:02 and 0x1241). -/
def acceptBeacon (body : List Byte) (s : State) : State :=
  count 0x1230 2 1 ((hearBeacon body s).modNet fun n => { n with coordinatorEui := field body 8 8 })

/-- A follower accepts a beacon and uses it for numbering (R98, R99). -/
def followBeacon (body : List Byte) (s : State) : State := useBeacon (field body 0 6) (acceptBeacon body s)

/-- A deferred beacon is only evidence that a coordinator exists (R308, R343). -/
def hearDeferred (s : State) : State := s.modNet fun n => { n with silent := 0 }

/-- A valid beacon frame is heard (R99, R302, R308, R310, R322, R326).  A candidate yields while it listens LOCKED or backs
off.  The beacon on which a candidate or a coordinator yields makes it a follower; it serves no numbering (DESIGN CHOICE, log
entry 120). -/
def takeBeacon (body : List Byte) (s : State) : State :=
  let deferred := bit (field body 6 2) 1
  let evidence (s : State) : State := if deferred then hearDeferred s else acceptBeacon body s
  match s.net.state with
  | .listen =>
    if s.rb.state = .locked then yieldRole (evidence s)
    else if deferred then hearDeferred s else hearBeacon body s
  | .backoff => yieldRole (evidence s)
  | .coordinator =>
    if deferred then s
    else if field body 8 8 < Config.eui64 then yieldRole (acceptBeacon body s) else hearBeacon body s
  | .follower =>
    if sleeping s && (deferred || !inGuard s) then s
    else if deferred then hearDeferred s else followBeacon body s
  | .down | .searching => if deferred then hearDeferred s else followBeacon body s

/-- A beacon frame arrives (R99, R295, R328, R338). -/
def execBeaconReceive (t : Nat) (src : NetSource) (frame : List Byte) (s : State) : Out :=
  let s := clockTo t s
  if frameReaches s frame = false ∨ sourceOk src = false then .next s
  else if headerOk frame = false ∨ frameTagRule s frame = false then .next (discardFrame frame s)
  else if field frame 3 1 ≠ ftBeacon ∨ frame.length ≠ 64 then .next s
  else .next (takeBeacon (frame.drop 32) s)

/-- The guard of the last own beacon instant is over at local time now (R322). -/
def guardOver (s : State) : Bool :=
  s.rb.mark1024.any fun (u, c) => decide (c % 8 = 0) && decide (nsOf u + 500000 ≤ s.now)

/-- The count in ticks. -/
def countTicks (s : State) : Nat := s.rb.cycle * 4096 + s.rb.phase

/-- The guard closes without a beacon; requests that wait are discarded (R323, R325). -/
def execBeaconGuardClose (t : Nat) (s : State) : Out :=
  let s := clockTo t s
  if sleeping s = true ∧ s.net.awaiting = true ∧ guardOver s = true then
    .next (count 0x1230 3 1 ((s.modKiosk fun k => { k with jopQueue := [] }).modNet fun n => { n with
      state := .searching, beaconMissed := true, awaiting := false, missedInstants := 1, searchFrom := countTicks s }))
  else .next s

/-- Two beacon periods of SEARCHING, 16 cycles of the own count, pass without a beacon (R324). -/
def execSearchExpire (t : Nat) (s : State) : Out :=
  let s := clockTo t s
  if s.net.state = .searching ∧ s.net.beaconLost = false ∧ s.net.searchFrom + 65536 ≤ countTicks s then
    .next (noteRecord 0x1004 utNet 0 (s.modNet fun n => { n with beaconLost := true }))
  else .next s

/-- The time in which the present beacon instant's beacon may still come: the quiet window after it (R313). -/
def beaconMayCome (s : State) : Bool :=
  decide (s.rb.cycle % 8 = 0) && decide (1024 ≤ s.rb.phase) && decide (s.rb.phase < 1280)

/-- A backup follower becomes a candidate on node 0 after four beacon instants without a beacon (R343); the fourth has none
once its quiet window is over (DEDUCED, log entry 133). -/
def execBackupTakeover (t : Nat) (s : State) : Out :=
  let s := clockTo t s
  if s.net.state = .follower ∧ objAt s 0x1214 0 = 1 ∧ s.rb.state = .locked ∧ 4 ≤ s.net.silent ∧ beaconMayCome s = false then
    .next (s.modNet fun n => { n with state := .listen, nodeId := 0, listened := 4, collisions := 0, plca := false })
  else .next s

/-! ### Status slots (R316 to R318, R326) -/

/-- The status body. -/
def statusBody (s : State) : List Byte :=
  let valid := decide (sledAddress s ≠ 0xFFFF)
  natLe Config.eui64 8 ++ natLe s.net.nodeId 1 ++ natLe s.life.state.code 1 ++ natLe s.rb.state.code 1 ++
    natLe (flag (sleeping s) 0 + flag s.net.duplicate 1 + flag s.rb.unnumbered 2 + flag valid 3) 1 ++
    natLe (sledAddress s) 2 ++ natLe 0 2

/-- Ticks of the own count since the last beacon instant. -/
def periodTicks (s : State) : Nat := (s.rb.cycle % 8 * 4096 + s.rb.phase + 32768 - 1024) % 32768

/-- The own status slot of this period is over (R316, R317). -/
def statusSlotOver (s : State) : Bool :=
  decide ((1 + s.net.nodeId / 16) * 4096 + 256 * (s.net.nodeId % 16 + 1) - 1024 ≤ periodTicks s)

/-- What the sled sends in its own slot: the RESYNC notice that waits, or its status frame (R316, R317, R326). -/
def slotFrame (s : State) : List Byte :=
  match s.net.resync with
  | some n => noticeFrame s n
  | none => buildFrame (segmentKey s) ftStatus 0 (statusBody s)

/-- The status slot: the frame or the RESYNC notice goes out, or the slot ends without it (R317, R326). -/
def execStatusSlot (t : Nat) (slotEnded : Bool) (s : State) : Out :=
  let s := clockTo t s
  if s.net.statusDue = false then .next s
  else if slotEnded then
    if statusSlotOver s then .next (count 0x1230 7 1 (s.modNet fun n => { n with statusDue := false })) else .next s
  else if inStatusSlot s = false ∨ netMaySend s = false then .next s
  else .next (emit (segmentPacket (slotFrame s)) (s.modNet fun n => { n with resync := none, statusDue := false }))

/-- A coordinator marks the sender of a valid status frame present (R318). -/
def execStatusFrameReceive (t : Nat) (src : NetSource) (frame : List Byte) (s : State) : Out :=
  let s := clockTo t s
  if frameReaches s frame = false ∨ sourceOk src = false then .next s
  else if headerOk frame = false ∨ frameTagRule s frame = false then .next (discardFrame frame s)
  else if field frame 3 1 ≠ ftStatus ∨ frame.length ≠ 48 ∨ s.net.state ≠ .coordinator then .next s
  else
    let n := field (frame.drop 32) 8 1
    if 32 ≤ n ∨ bit s.net.heardNow n = true then .next s
    else .next (s.modNet fun x => { x with
      heardNow := x.heardNow + 2 ^ n
      membership := if bit x.membership n = true then x.membership else x.membership + 2 ^ n })

/-- The PHY starts or stops hearing PLCA BEACONs (R292, R302). -/
def execPlcaBeaconChange (t : Nat) (heard : Bool) (s : State) : Out :=
  let s := clockTo t s
  if s.life.state = .absent ∨ s.net.state = .coordinator then .next s
  else if heard = true ∧ s.net.state = .listen ∧ s.rb.state = .locked then
    .next (yieldRole (s.modNet fun n => { n with plca := true }))
  else .next (s.modNet fun n => { n with plca := heard })

/-! ### IPv6 (R293) -/

/-- The link-layer address in the option of a type of a neighbour-discovery message; at most `n` options are read. -/
def linkOption (typ : Nat) : Nat → List Byte → Option Nat
  | 0, _ => none
  | n + 1, bs =>
    if bs.length < 8 ∨ field bs 1 1 = 0 then none
    else if field bs 0 1 = typ then some (fieldBE bs 2 6)
    else linkOption typ n (bs.drop (8 * field bs 1 1))

/-- Duplicate address detection is in progress. -/
def tentative (s : State) : Bool := !s.net.conflict && decide (s.now < s.net.dadUntil)

/-- A neighbour solicitation for the own address: another node's detection is a conflict while the own one runs; an address in
use is advertised (R293). -/
def takeSolicitation (src : NetSource) (message : List Byte) (s : State) : State :=
  let from_ := clientAddress src.client
  if tentative s then (if from_ = 0 then s.modNet fun n => { n with conflict := true } else s)
  else if addressUp s = false then s
  else if from_ = 0 then netEmit (advertisement allNodes false) s
  else
    let s := match linkOption 1 64 (message.drop 24) with
      | some mac => learnNeighbour from_ mac s
      | none => s
    sendTo from_ (advertisement from_ true) s

/-- A neighbour advertisement: of the own address a conflict while detection runs; of an address that is awaited or known, its
link-layer address is taken, an existing one only with the override flag (R293). -/
def takeAdvertisement (message : List Byte) (s : State) : State :=
  let target := fieldBE message 8 16
  if target = linkLocal then (if tentative s then s.modNet fun n => { n with conflict := true } else s)
  else match linkOption 2 64 (message.drop 24) with
    | none => s
    | some mac =>
      let known := decide (tabGet 0 target s.net.neighbours ≠ 0)
      if known then (if bit (fieldBE message 4 4) 29 then learnNeighbour target mac s else s)
      else if s.net.unresolved.any fun (a, _) => a == target then learnNeighbour target mac s
      else s

/-- An ICMPv6 echo request, neighbour solicitation or advertisement (R293); other messages are ignored. -/
def execIcmpv6Message (t : Nat) (src : NetSource) (message : List Byte) (s : State) : Out :=
  let s := clockTo t s
  if s.life.state = .absent ∨ receiverOn s = false ∨ sleeping s = true then .next s
  else
    let typ := field message 0 1
    let nd := decide (src.hopLimit = 255) && decide (field message 1 1 = 0) && decide (24 ≤ message.length)
    if typ = 128 ∧ addressUp s = true then
      let back := clientAddress src.client
      .next (sendTo back (icmpPacket linkLocal back 129 (message.drop 4)) s)
    else if typ = 135 ∧ nd = true ∧ fieldBE message 8 16 = linkLocal then .next (takeSolicitation src message s)
    else if typ = 136 ∧ nd = true then .next (takeAdvertisement message s)
    else .next s

/-! ### Sessions (R331 to R339) -/

/-- A credential slot's key: slot 1 holds the factory key until it is written (R331, R332). -/
def credentialKey (s : State) (slot : Nat) : List Byte :=
  let k := strAt s 0x1222 slot
  if k = [] then (if slot = 1 then Config.factoryCredential else List.replicate 32 0) else k

/-- The slot exists and its key is not all zeros (R331). -/
def credentialEnabled (s : State) (slot : Nat) : Bool :=
  decide (1 ≤ slot) && decide (slot ≤ 8) && !(credentialKey s slot).all (· = 0)

/-- JOP sessions in a phase. -/
def sessionsIn (s : State) (phase : Nat) : Nat := (s.kiosk.sessions.filter fun (_, x) => x.phase = phase).length

/-- "JOP3 session" in ASCII (R333). -/
def sessionLabel : List Byte := [0x4A, 0x4F, 0x50, 0x33, 0x20, 0x73, 0x65, 0x73, 0x73, 0x69, 0x6F, 0x6E]

/-- k_session (R333). -/
def sessionKey (ck nc ns : List Byte) (sn : Nat) : List Byte :=
  Config.hmacSha256 ck (sessionLabel ++ nc ++ ns ++ natLe Config.eui64 8 ++ natLe sn 2)

/-- The next free session number from the counter (0 is no session). -/
def freshSession (s : State) : Nat :=
  (firstFrom 16 0 fun i =>
    let n := (s.kiosk.nextSession + i - 1) % 65535 + 1
    decide ((tabGet {} n s.kiosk.sessions).phase = 0)).elim 1 fun i => (s.kiosk.nextSession + i - 1) % 65535 + 1

/-- A unicast JOP frame to a client. -/
def sendJop (client : Nat) (f : List Byte) (s : State) : State := sendTo (clientAddress client) (jopPacket client f) s

/-- Refusing a session (R337). -/
def refuseSession (client code : Nat) (s : State) : State :=
  count 0x1230 8 1 (sendJop client (buildFrame none ftRefuse 0 (natLe code 1)) s)

/-- Accepting a SESSION_OPEN: keys, nonce, signature and the half-open session (R333, R337). -/
def acceptSession (client : Nat) (body : List Byte) (s : State) : State :=
  let slot := field body 0 1
  let nc := (body.drop 4).take 16
  let (i, s) := takeFree s
  let ns := padTo (Config.sledNonce i) 16
  let sn := freshSession s
  let ks := sessionKey (credentialKey s slot) nc ns sn
  let kc := Config.hmacSha256 ks [0x63, 0x32, 0x73]
  let kr := Config.hmacSha256 ks [0x73, 0x32, 0x63]
  let sig := padTo (Config.identitySignature (body ++ ns ++ natLe sn 2)) 96
  sendJop client (buildFrame (some kr) ftAccept sn (ns ++ sig)) (s.modKiosk fun k => { k with
    nextSession := sn % 65535 + 1
    sessions := tabPut {} sn { phase := 1, slot := slot, keyC2s := kc, keyS2c := kr, seen := s.now } k.sessions })

/-- The SESSION_OPEN frames already counted in the present second since the kiosk's start (R337). -/
def opensBefore (s : State) : Nat :=
  if s.kiosk.openSecond = (s.now - s.kiosk.startedAt) / 1000000000 then s.kiosk.openCount else 0

/-- One more is counted. -/
def countOpen (s : State) : State :=
  s.modKiosk fun k => { k with
    openSecond := (s.now - s.kiosk.startedAt) / 1000000000, openCount := opensBefore s + 1 }

/-- A verified frame of an open session restarts its idle time (R339). -/
def touchSession (n : Nat) (s : State) : State :=
  let x := tabGet {} n s.kiosk.sessions
  if x.phase = 2 then s.modKiosk fun k => { k with sessions := tabPut {} n { x with seen := s.now } k.sessions } else s

/-- A received JOP frame: path, header and tag are checked, a frame that passes restarts its session's idle time, and one of the
awaited type has its effect, unless the sled sleeps or a miss stands (R295, R321, R325, R328, R336, R339). -/
def takeFrame (src : NetSource) (f : List Byte) (awaited : Bool) (effect : State → State) (s : State) : State :=
  if frameReaches s f = false ∨ sourceOk src = false then s
  else if headerOk f = false ∨ frameTagRule s f = false then discardFrame f s
  else if netAwake s = false then s
  else if awaited then effect (touchSession (field f 6 2) s)
  else touchSession (field f 6 2) s

/-- A SESSION_OPEN that is checked: refused, or accepted (R337). -/
def openSession (client before : Nat) (body : List Byte) (s : State) : State :=
  if 4 ≤ before then refuseSession client 3 s
  else if credentialEnabled s (field body 0 1) = false then refuseSession client 2 s
  else if 8 ≤ sessionsIn s 2 ∨ 4 ≤ sessionsIn s 1 then refuseSession client 1 s
  else acceptSession client body s

/-- A SESSION_OPEN frame: counted in its second whatever its outcome, then checked (R337). -/
def execSessionOpen (t : Nat) (src : NetSource) (frame : List Byte) (s : State) : Out :=
  let s := clockTo t s
  let n := opensBefore s
  let s := if frameReaches s frame && decide (src.port = 61605) && decide (field frame 3 1 = ftOpen) then countOpen s else s
  .next (takeFrame src frame (decide (field frame 3 1 = ftOpen) && decide (frame.length = 52))
    (openSession src.client n (frame.drop 32)) s)

/-- Ending a JOP session: its record, its waiting requests and its staging go (R266, R274, R1150). -/
def endSession (n : Nat) (s : State) : State :=
  s.modKiosk fun k => { k with
    sessions := tabPut {} n {} k.sessions
    jopQueue := k.jopQueue.filter fun r => r.session ≠ n
    staging := match k.staging with
      | some g =>
        if g.session ≠ n ∨ g.mailbox = true then some g
        else if g.verifying.isSome then some { g with orphan := true } else none
      | none => none }

/-- A half-open session opens with its slot's right, while fewer than eight are open (R335, R337; log entry 134). -/
def confirmSession (n : Nat) (s : State) : State :=
  let x := tabGet {} n s.kiosk.sessions
  if x.phase = 1 ∧ sessionsIn s 2 < 8 then
    s.modKiosk fun k => { k with
      sessions := tabPut {} n { x with phase := 2, rights := objAt s 0x1223 x.slot, seen := s.now } k.sessions }
  else s

/-- A SESSION_CONFIRM whose tag verifies opens the session (R335). -/
def execSessionConfirm (t : Nat) (src : NetSource) (frame : List Byte) (s : State) : Out :=
  .next (takeFrame src frame (decide (field frame 3 1 = ftConfirm)) (confirmSession (field frame 6 2)) (clockTo t s))

/-- A SESSION_CLOSE that verifies ends the session (R339). -/
def execSessionClose (t : Nat) (src : NetSource) (frame : List Byte) (s : State) : Out :=
  .next (takeFrame src frame (decide (field frame 3 1 = ftClose) && decide (field frame 6 2 ≠ 0))
    (endSession (field frame 6 2)) (clockTo t s))

/-- A half-open session gets no valid confirm within 2 s (R337). -/
def execHalfOpenExpire (t session : Nat) (s : State) : Out :=
  let s := clockTo t s
  let x := tabGet {} session s.kiosk.sessions
  if x.phase = 1 ∧ x.seen + 2000000000 ≤ s.now then .next (endSession session s) else .next s

/-- No frame of a session verifies for the idle limit (R339). -/
def execSessionIdleExpire (t session : Nat) (s : State) : Out :=
  let s := clockTo t s
  let x := tabGet {} session s.kiosk.sessions
  if x.phase = 2 ∧ x.seen + objAt s 0x1220 0 * 1000000 ≤ s.now then .next (endSession session s) else .next s

/-- A received JOP frame that fails its checks (R295, R328, R336). -/
def execJopFrameDiscard (t : Nat) (src : NetSource) (frame : List Byte) (s : State) : Out :=
  .next (takeFrame src frame false id (clockTo t s))

/-- The reply to a request that is refused as a whole: a header alone (R248). -/
def wholeReply (txn status : Nat) : List Byte := natLe txn 4 ++ natLe status 1 ++ natLe 0 3

/-- Sending a REPLY frame to the request's source, with the session's tag or outside any session (R329). -/
def sendReply (session client : Nat) (body : List Byte) (s : State) : State :=
  let x := tabGet {} session s.kiosk.sessions
  if session = 0 then sendJop client (buildFrame none ftReply 0 body) s
  else if x.phase = 2 then sendJop client (buildFrame (some x.keyS2c) ftReply session body) s
  else s

/-- A request of the JOP path: refused with BUSY, unchecked, when 32 wait; a duplicate of one whose commit is in progress is
discarded; else queued (R258, R264). -/
def queueRequest (client n : Nat) (body : List Byte) (s : State) : State :=
  let x := tabGet {} n s.kiosk.sessions
  if 32 ≤ s.kiosk.jopQueue.length then sendReply n client (wholeReply (field body 0 4) 0x0C) s
  else if n ≠ 0 ∧ 8 ≤ body.length ∧ x.record.any (fun o => decide (o.txn = field body 0 4) && o.reply.isEmpty) = true then s
  else s.modKiosk fun k => { k with
    jopQueue := k.jopQueue ++ [({ mailbox := false, session := n, body := body, at_ := s.now, client := client } : Request)] }

/-- A REQUEST frame arrives (R258, R264, R1142). -/
def execJopRequest (t : Nat) (src : NetSource) (frame : List Byte) (s : State) : Out :=
  .next (takeFrame src frame (decide (field frame 3 1 = ftRequest))
    (queueRequest src.client (field frame 6 2) (frame.drop 32)) (clockTo t s))

end Sys2Proof.Machine
end

