-- ==== Sys2Proof/Machine/LinkOps.lean ====
section
/-! DEFINITION. The switch and the ports as other units use them (chapter 15): slabs as bytes, routing, the failure map,
notices and what waits at a port. -/

namespace Sys2Proof.Machine

def State.modLinks (f : Links → Links) (s : State) : State := { s with links := f s.links }
def State.modColl (f : Coll → Coll) (s : State) : State := { s with coll := f s.coll }

/-- A port. -/
def portAt (s : State) (p : Nat) : Port := tabGet {} p s.links.ports

/-- Changing a port. -/
def modPort (p : Nat) (f : Port → Port) (s : State) : State :=
  s.modLinks fun l => { l with ports := tabPut {} p (f (tabGet {} p l.ports)) l.ports }

/-- KIND codes (the KIND table of chapter 15). -/
def kIdle : Nat := 0
def kLink : Nat := 1
def kNotice : Nat := 2
def kAlley : Nat := 3
def kControl : Nat := 4
def kColl : Nat := 5
def kMemReq : Nat := 6
def kMemRsp : Nat := 7

/-- A KIND is defined and travels on the VC (R779). -/
def kindAllows (kind vc : Nat) : Bool :=
  if kind = kIdle then true
  else if kind = kLink then decide (vc = 1)
  else if kind = kNotice ∨ kind = kAlley ∨ kind = kControl then decide (vc = 0)
  else if kind = kColl then decide (2 ≤ vc) && decide (vc ≤ 5)
  else if kind = kMemReq then decide (vc = 6)
  else if kind = kMemRsp then decide (vc = 7)
  else false

/-- A slab's 128 bytes with its link-layer fields (R776 to R778). -/
def slabBytes (x : Slab) (seq ack creditVc creditCount : Nat) : List Byte :=
  let head :=
    natLe (x.kind + 16 * x.vc + flag x.last 7) 1 ++ natLe (seq % 4096) 2 ++
    natLe (ack % 4096 + 4096 * creditVc) 2 ++ natLe creditCount 1 ++ natLe x.dest 2 ++ natLe x.src 2 ++
    natLe (x.payload.length + flag x.detour 7) 1 ++ natLe (x.hops % 64) 1 ++ padTo x.payload 112
  head ++ natLe (crc32c head) 4

/-- The slab a 128-byte string holds, its link-layer fields apart. -/
def slabOf (bs : List Byte) (inPort : Nat) : Slab :=
  let len := min 112 (field bs 10 1 % 128)
  { kind := field bs 0 1 % 16, vc := bits (field bs 0 1) 6 4, last := bit (field bs 0 1) 7
    dest := field bs 6 2, src := field bs 8 2, detour := bit (field bs 10 1) 7, hops := field bs 11 1 % 64
    payload := (bs.drop 12).take len, inPort := some inPort }

/-! ### Addresses (R42, R803 to R805, R833) -/

/-- Coordinate of an address on axis 0 W, 1 X, 2 Y, 3 Z. -/
def coord (addr axis : Nat) : Nat := (addr / 16 ^ (3 - axis)) % 16

/-- An address with one coordinate replaced. -/
def setCoord (addr axis c : Nat) : Nat := addr - coord addr axis * 16 ^ (3 - axis) + c * 16 ^ (3 - axis)

/-- Torus extent of an axis (object 0x7002). -/
def extent (s : State) (axis : Nat) : Nat := objAt s 0x7002 (axis + 1)

/-- One step along an axis. -/
def stepAddr (s : State) (addr axis : Nat) (plus : Bool) (n : Nat) : Nat :=
  let e := extent s axis
  setCoord addr axis ((coord addr axis + (if plus then n else e - n % e)) % e)

/-- A port's express word: object 0x7010 for L8 to L15. -/
def expressWord (s : State) (p : Nat) : Nat := if 8 ≤ p then objAt s 0x7010 (p - 7) else 0

/-- What a port is for: a torus port, a twin of one, or a skip along one's direction (R773, R1138). -/
inductive Role where
  | off
  | torus (p : Nat)
  | twin (p : Nat)
  | skip (p dist : Nat)
  deriving DecidableEq, Repr

/-- The role an express word gives. -/
def roleOfWord (w : Nat) : Role :=
  match w % 4 with
  | 1 => .twin (bits w 4 2)
  | 2 => .skip (bits w 4 2) (bits w 8 5)
  | _ => .off

/-- A port's role. -/
def portRole (s : State) (p : Nat) : Role := if p < 8 then .torus p else roleOfWord (expressWord s p)

/-- The torus port in whose direction a port points. -/
def Role.along : Role → Option Nat
  | .off => none | .torus p => some p | .twin p => some p | .skip p _ => some p

/-- A port is DISABLED by object 0x7011, by its axis or by its role (R805, 0x7020 code 0). -/
def portDisabled (s : State) (p : Nat) : Bool :=
  decide (objAt s 0x7011 (p + 1) = 0) ||
  (match (portRole s p).along with
   | none => true
   | some q => decide (extent s (q / 2) = 1))

/-- The address a port's partner must have (R803). -/
def expectedPartner (s : State) (p : Nat) : Nat :=
  match portRole s p with
  | .torus q => stepAddr s (sledAddress s) (q / 2) (q % 2 == 0) 1
  | .twin q => stepAddr s (sledAddress s) (q / 2) (q % 2 == 0) 1
  | .skip q d => stepAddr s (sledAddress s) (q / 2) (q % 2 == 0) d
  | .off => 0xFFFF

/-- The partner's port and its express word fit the port's role (R803). -/
def partnerPortOk (s : State) (p partnerPort partnerWord : Nat) : Bool :=
  match portRole s p with
  | .torus q => decide (partnerPort = q ^^^ 1)
  | .twin q => decide (8 ≤ partnerPort) && decide (roleOfWord partnerWord = .twin (q ^^^ 1))
  | .skip q d => decide (8 ≤ partnerPort) && decide (roleOfWord partnerWord = .skip (q ^^^ 1) d)
  | .off => false

/-! ### The failure map (R808) -/

/-- UP_PORTS of this sled: bit p when Lp is UP. -/
def upPorts (s : State) : Nat := sumTo 16 fun p => flag (decide ((portAt s p).state = .up)) p

/-- The mask of another sled. -/
def maskOf (s : State) (addr : Nat) : Nat := tabGet 0xFFFF addr s.links.failMap

/-- A local port may carry a slab now: UP, and the partner's bit set (R808). -/
def hopUsable (s : State) (p : Nat) : Bool :=
  decide ((portAt s p).state = .up) &&
  (match (portAt s p).partner with
   | some (a, q) => bit (maskOf s a) q
   | none => false)

/-- Local ports of a role test, ascending. -/
def portsWith (s : State) (f : Role → Bool) : List Nat := (List.range 16).filter fun p => f (portRole s p)

/-- A remote sled's hop from `a` to `b` in torus direction `q`: some port of that direction is usable at both ends.
Express twins are taken from this sled's own object 0x7010 (log entry 31). -/
def remoteHop (s : State) (a b q : Nat) : Bool :=
  let outs := portsWith s fun r => decide (r = .torus q) || decide (r = .twin q)
  let ins := portsWith s fun r => decide (r = .torus (q ^^^ 1)) || decide (r = .twin (q ^^^ 1))
  outs.any (fun p => bit (maskOf s a) p) && ins.any (fun p => bit (maskOf s b) p)

/-- Every torus hop from `a` along direction `q` for `n` steps is usable; the first from this sled by its own ports,
RETRAINING counted as usable when `soft` (R809, R886). -/
def pathUsable (s : State) (soft : Bool) (q : Nat) : Nat → Nat → Bool
  | 0, _ => true
  | n + 1, a =>
    let b := stepAddr s a (q / 2) (q % 2 == 0) 1
    let ok :=
      if a = sledAddress s then
        (portsWith s fun r => decide (r = .torus q) || decide (r = .twin q)).any fun p =>
          hopUsable s p || (soft && decide ((portAt s p).state = .retraining))
      else remoteHop s a b q
    ok && pathUsable s soft q n b

/-- The first axis on which two addresses differ (R806). -/
def nextAxis (a b : Nat) : Option Nat := firstFrom 4 0 fun x => decide (coord a x ≠ coord b x)

/-- The torus port of the shorter direction on an axis, + when equal, and the distance (R806). -/
def shorter (s : State) (a b axis : Nat) : Nat × Nat :=
  let e := extent s axis
  let up := (coord b axis + e - coord a axis) % e
  let down := (coord a axis + e - coord b axis) % e
  if up ≤ down then (2 * axis, up) else (2 * axis + 1, down)

/-- A destination can be reached under R806 to R809, axis by axis from `a` (fuel: axes left). -/
def reachFrom (s : State) : Nat → Nat → Nat → Bool
  | 0, a, b => decide (a = b)
  | n + 1, a, b =>
    match nextAxis a b with
    | none => true
    | some axis =>
      let (q, d) := shorter s a b axis
      let a' := setCoord a axis (coord b axis)
      (pathUsable s true q d a || pathUsable s true (q ^^^ 1) (extent s axis - d) a) && reachFrom s n a' b

/-- R886: a member can be reached. -/
def reachable (s : State) (b : Nat) : Bool := decide (b = sledAddress s) || reachFrom s 4 (sledAddress s) b

/-! ### Routing (R806 to R812) -/

/-- Where a slab goes. -/
inductive Route where
  /-- To a port, with the credits it needs and DETOUR. -/
  | port (p needs : Nat) (detour : Bool)
  /-- Discarded with NO_ROUTE. -/
  | noRoute
  /-- Discarded: HOPS would exceed 63. -/
  | hopLimit
  deriving DecidableEq, Repr

/-- The member of a torus port and its twin that a slab takes among those passing a test (R807). -/
def pickTwin (s : State) (ok : Nat → Bool) (q : Nat) (x : Slab) : Option Nat :=
  let twins := (portsWith s fun r => decide (r = .twin q)).filter ok
  let odd := (x.src ^^^ x.dest ^^^ x.vc) % 2 == 1
  match ok q, twins with
  | true, t :: _ => some (if odd then t else q)
  | true, [] => some q
  | false, t :: _ => some t
  | false, [] => none

/-- The largest skip of at most `d` in a direction among ports passing a test (R807). -/
def pickSkip (s : State) (ok : Nat → Bool) (q d : Nat) : Option Nat :=
  (portsWith s fun r => match r with | .skip p k => decide (p = q) && decide (k ≤ d) | _ => false).foldl
    (fun best p =>
      if ok p then
        match best with
        | none => some p
        | some b => match portRole s p, portRole s b with
          | .skip _ k, .skip _ j => if j < k then some p else some b
          | _, _ => some b
      else best) none

/-- A port for one hop in direction `q` with distance `d` left, among ports passing a test. -/
def pickPort (s : State) (ok : Nat → Bool) (q d : Nat) (x : Slab) : Option Nat :=
  match pickSkip s ok q d with
  | some p => some p
  | none => pickTwin s ok q x

/-- The direction in which a slab came in, as the torus port it is travelling along. -/
def travelling (s : State) (x : Slab) : Option Nat := x.inPort.bind fun p => (portRole s p).along.map (· ^^^ 1)

/-- A port is a skip port. -/
def isSkip (s : State) (p : Nat) : Bool := match portRole s p with | .skip .. => true | _ => false

/-- Credits for a slab leaving by `p` in direction `q`: two when it enters a ring (R810). -/
def creditsNeeded (s : State) (x : Slab) (p q : Nat) : Nat :=
  match x.inPort, travelling s x with
  | some i, some d => if d = q ∧ isSkip s i = isSkip s p then 1 else 2
  | _, _ => 2

/-- Routing one slab at this sled (R806 to R812). -/
def route (s : State) (x : Slab) : Route :=
  if x.dest = 0xFFFF ∨ (List.range 4).any (fun a => extent s a ≤ coord x.dest a) = true then .noRoute
  else if 63 ≤ x.hops then .hopLimit
  else
    let me := sledAddress s
    match nextAxis me x.dest with
    | none => .noRoute
    | some axis =>
      let (q0, d0) := shorter s me x.dest axis
      -- a slab with DETOUR set keeps its direction on its axis (log entry 32)
      let (q, d) := match x.detour, travelling s x with
        | true, some t => if t / 2 = axis ∧ t ≠ q0 then (t, extent s axis - d0) else (q0, d0)
        | _, _ => (q0, d0)
      match pickPort s (hopUsable s) q d x with
      | some p => .port p (creditsNeeded s x p q) x.detour
      | none =>
        let back := q ^^^ 1
        let waiting := pickPort s (fun p => decide ((portAt s p).state = .retraining)) q d x
        let reversed :=
          if x.detour then none
          else if pathUsable s false back (extent s axis - d) me then pickPort s (hopUsable s) back (extent s axis - d) x
          else none
        match waiting with
        | some w =>
          if x.kind = kColl ∧ objAt s 0x7015 0 = 1 then
            match reversed with
            | some p => .port p 2 true
            | none => .port w (creditsNeeded s x w q) x.detour
          else .port w (creditsNeeded s x w q) x.detour
        | none =>
          match reversed with
          | some p => .port p 2 true
          | none => .noRoute

/-- A slab of this sled goes to the switch; one for this sled itself never leaves. -/
def submitSlab (x : Slab) (s : State) : State := s.modLinks fun l => { l with transit := l.transit ++ [x] }

/-- A slab joins the queue of an output port. -/
def enqueue (p : Nat) (x : Slab) (s : State) : State := modPort p (fun a => { a with outq := a.outq ++ [x] }) s

/-- A buffer place of an input port is freed (R791, R792). -/
def freePlace (x : Slab) (s : State) : State :=
  match x.inPort with
  | none => s
  | some p => modPort p (fun a => { a with freed := tabPut 0 x.vc ((tabGet 0 x.vc a.freed + 1) % 256) a.freed }) s

/-! ### Notices (R195, R200, R207, R821 to R824) -/

/-- Causes whose notices tell of a departure. -/
def departureCause (c : Nat) : Bool :=
  decide (c = 0x3002) || decide (c = 0x3003) || decide (c = 0x2007) || decide (c = 0x2008) || decide (c = 0x3004)

/-- The NOTICE slab of this sled (R821). -/
def noticeSlab (s : State) (n : NetNotice) (port : Nat) : Slab :=
  let serial := (counterAt s 0x1009 0 % 65536) * 65536 + s.links.noticeCount % 65536
  let up := if departureCause n.cause then 0 else upPorts s
  { kind := kNotice, vc := 0, dest := 0xFFFF, src := sledAddress s
    payload := noticeBody s n ++ natLe serial 4 ++ natLe port 1 ++ natLe 0 1 ++ natLe up 2 ++ natLe 0 80 }

/-- Queueing a notice on every UP port but one. -/
def floodNotice (x : Slab) (except : Option Nat) (s : State) : State :=
  forEach (fun p s => if (portAt s p).state = .up ∧ except ≠ some p then enqueue p x s else s) (List.range 16) s

/-- A notice of this sled leaves on every UP port. -/
def portNotice (cause cycle port : Nat) (s : State) : State :=
  let s := s.modLinks fun l => { l with noticeCount := l.noticeCount + 1 }
  floodNotice (noticeSlab s { cause := cause, cycle := cycle } port) none s

/-- A notice leaves on every trained link (R195, R200, R207). -/
def linkNotice (cause cycle : Nat) (s : State) : State := portNotice cause cycle 0xFF s

/-- A notice leaves over the links and over the field network (R195, R200, R207, R341). -/
def sendNotice (cause cycle : Nat) (s : State) : State :=
  netNotice { cause := cause, cycle := cycle } (linkNotice cause cycle s)

/-- A CONTROL slab of this sled with an engine message (R861). -/
def engineSlab (s : State) (dest code group epoch cseq rank : Nat) (extra : List Byte) : Slab :=
  { kind := kControl, vc := 0, dest := dest, src := sledAddress s
    payload := natLe code 1 ++ natLe group 2 ++ natLe epoch 2 ++ natLe cseq 2 ++ natLe rank 2 ++ extra }

end Sys2Proof.Machine
end

