-- ==== Sys2Proof/Machine/MemOps.lean ====
section
/-! DEFINITION. The memory tiers as every unit reaches them (chapters 07 and 10): which addresses exist, interleaving and
fences, poison, reads and writes by space, and the pages of the arena pools. -/

namespace Sys2Proof.Machine

def State.modTiers (f : Tiers → Tiers) (s : State) : State := { s with tiers := f s.tiers }

/-- Bytes of a page (R520). -/
def pageBytes : Nat := 2097152

/-- The unit a byte address lies on: 512-byte granules over the units of a map (R519, R530). -/
def unitOf (map : List Nat) (a : Nat) : Nat := map.getD ((a / 512) % map.length) 255

/-- Size of the HBM address space (R519). -/
def hbmSize (s : State) : Nat := s.tiers.hbmMap.length * 36000000000

/-- Size of the cellar address space (R530). -/
def cellarSize (s : State) : Nat := s.tiers.cellarMap.length * 32000000000

/-- An HBM byte address that exists and lies on no fenced stack (R356, R519, R528). -/
def hbmValid (s : State) (a : Nat) : Bool :=
  decide (a < hbmSize s) && !bit s.contain.stackFences (unitOf s.tiers.hbmMap a)

/-- A cellar byte address that exists and lies on no fenced package (R530, R532). -/
def cellarValid (s : State) (a : Nat) : Bool :=
  decide (a < cellarSize s) && !bit s.contain.cellarFences (unitOf s.tiers.cellarMap a)

/-- Every byte of a range passes a test that is constant over 512-byte granules. -/
def rangeValid (p : Nat → Bool) (a n : Nat) : Bool :=
  decide (n = 0) ||
    (List.range ((a + n - 1) / 512 - a / 512 + 1)).all fun i => p (max a (min (512 * (a / 512 + i)) (a + n - 1)))

/-- A range covers a poisoned word (R523). -/
def poisoned (t : Tab Bool) (a n : Nat) : Bool :=
  t.any fun (w, p) => p && decide (8 * w < a + n) && decide (a < 8 * w + 8)

/-- A write clears the poison of the words it covers whole (R524). -/
def clearPoison (a n : Nat) (t : Tab Bool) : Tab Bool :=
  t.filter fun (w, _) => !(decide (a ≤ 8 * w) && decide (8 * w + 8 ≤ a + n))

/-- Writing HBM. -/
def hbmWrite (a : Nat) (bs : List Byte) (s : State) : State :=
  { s with hbm := memWrite s.hbm a bs, tiers := { s.tiers with hbmPoison := clearPoison a bs.length s.tiers.hbmPoison } }

/-- Writing the cellar. -/
def cellarWrite (a : Nat) (bs : List Byte) (s : State) : State :=
  { s with
    cellar := memWrite s.cellar a bs
    tiers := { s.tiers with cellarPoison := clearPoison a bs.length s.tiers.cellarPoison } }

/-- Writing host memory. -/
def hostWrite (a : Nat) (bs : List Byte) (s : State) : State := { s with hostMem := memWrite s.hostMem a bs }

/-- HBM reads. -/
def hbmRead (s : State) (a n : Nat) : List Byte := memRead s.hbm a n

/-- The unsigned 8-byte word of HBM at an address. -/
def hbmWord (s : State) (a : Nat) : Nat := leNat (hbmRead s a 8)

/-! ### Pages (R520, R530, R535, R538, R539) -/

/-- Object 0x5040:00. -/
def hbmPages (s : State) : Nat := hbmSize s / pageBytes

/-- Object 0x5041:00. -/
def cellarPages (s : State) : Nat := cellarSize s / pageBytes

/-- Up to `n` pages not in use from page `p`, trying `fuel` of them; lowest first. -/
def takeFreePages (used : Tab Bool) : Nat → Nat → Nat → List Nat
  | 0, _, _ => []
  | _, _, 0 => []
  | fuel + 1, p, n + 1 =>
    if tabGet false p used then takeFreePages used fuel (p + 1) (n + 1) else p :: takeFreePages used fuel (p + 1) n

/-- Marking pages. -/
def markPages (v : Bool) (ps : List Nat) (t : Tab Bool) : Tab Bool := ps.foldl (fun t p => tabPut false p v t) t

/-- First page and number of pages of the HBM arena pool, the lend region left out (R535). -/
def hbmPool (s : State) : Nat × Nat :=
  (objAt s 0x5100 0, hbmPages s - objAt s 0x5106 0 - objAt s 0x5100 0)

/-- First page and number of pages of the cellar arena pool (R535). -/
def cellarPool (s : State) : Nat × Nat := (objAt s 0x5101 0, cellarPages s - objAt s 0x5101 0)

/-- At most `n` free pages of the HBM arena pool, lowest first. -/
def freeHbm (s : State) (n : Nat) : List Nat := takeFreePages s.tiers.hbmUsed (hbmPool s).2 (hbmPool s).1 n

/-- At most `n` free pages of the cellar arena pool, lowest first. -/
def freeCellar (s : State) (n : Nat) : List Nat := takeFreePages s.tiers.cellarUsed (cellarPool s).2 (cellarPool s).1 n

/-- At most `n` free pages of the host spill region (R539). -/
def freeHost (s : State) (n : Nat) : List Nat := takeFreePages s.tiers.hostUsed (objAt s 0x5105 0) 0 n

/-- Taking or giving back HBM pages. -/
def markHbm (v : Bool) (ps : List Nat) (s : State) : State :=
  s.modTiers fun t => { t with hbmUsed := markPages v ps t.hbmUsed }

/-- Start of the lend region, the last pages of the HBM address space (R535, R544). -/
def lendBase (s : State) : Nat := (hbmPages s - objAt s 0x5106 0) * pageBytes

/-- Size of the lend region in bytes. -/
def lendSize (s : State) : Nat := objAt s 0x5106 0 * pageBytes

/-- Bytes of each tile's hamper share (R510, 0x7800:00). -/
def hamperBytes (s : State) : Nat := 1024 * objAt s 0x7800 0

/-- End of the program area (R510). -/
def programEnd (s : State) : Nat := 0x1FF000 - hamperBytes s

end Sys2Proof.Machine
end

