-- ==== Sys2Proof/Machine/Host.lean ====
section
/-! DEFINITION. The host interface (chapter 07): registers, queues, doorbells, fetching, completion records,
interrupts and BAR2. -/

namespace Sys2Proof.Machine

/-! ### Queues -/

/-- The context of a FIRMWARE queue, which station firmware fixes (R359, R373; log entry 137). -/
def firmwareQueue (n : Nat) : Queue :=
  { state := .enabled, ringBase := 64 * Config.firmwareRing n + 1, cplBase := 32 * Config.firmwareCpl n + 1
    config := 64 + Config.firmwareSize n % 13, slots := 8 + 8 * 65536, cplFree := 2 ^ (Config.firmwareSize n % 13 + 4) }

/-- The context a queue has before it is written: Q4064-Q4095 belong to station firmware (R359, R373). -/
def queueDefault (q : Nat) : Queue := if 4064 ≤ q ∧ q < 4096 then firmwareQueue (q - 4064) else {}

/-- Once the endpoint is ready, every queue is DISABLED until the sled leaves TRAINING (R351). -/
def queuesShut (s : State) : Bool :=
  s.host.ready && (match s.life.state with | .powered | .verdict | .training => true | _ => false)

/-- A queue. -/
def queueAt (s : State) (q : Nat) : Queue :=
  let x := tabGet (queueDefault q) q s.host.queues
  if 4064 ≤ q ∧ queuesShut s = true then { x with state := .disabled } else x

/-- Changing a queue. -/
def modQueue (q : Nat) (f : Queue → Queue) (s : State) : State :=
  s.modHost fun h => { h with queues := tabPut (queueDefault q) q (f (tabGet (queueDefault q) q h.queues)) h.queues }

/-- QC_CONFIG and QC_SLOTS fields. -/
def Queue.entries (x : Queue) : Nat := 2 ^ (x.config % 16 + 4)
def Queue.cls (x : Queue) : Nat := bits x.config 7 4
def Queue.reserve (x : Queue) : Nat := bits x.slots 15 0
def Queue.slotMax (x : Queue) : Nat := bits x.slots 31 16
def Queue.space (base : Nat) : Nat := base % 4

/-- QC_IRQ fields. -/
def Queue.irqOn (x : Queue) : Bool := bit x.irq 15
def Queue.vector (x : Queue) : Nat := bits x.irq 10 0
def Queue.threshold (x : Queue) : Nat := max 1 (bits x.irq 23 16)
def Queue.delayNs (x : Queue) : Nat := bits x.irq 31 24 * 1000

/-- A queue holds its reservation: it is not DISABLED (R373, R374). -/
def Queue.holds (x : Queue) : Bool := decide (x.state ≠ .disabled)

/-- Sum of reservations in force, the FIRMWARE queues' 256 included (0xA001:00). -/
def poolReserved (s : State) : Nat :=
  s.host.queues.foldl (fun n (q, x) => if q < 4064 ∧ x.holds = true then n + x.reserve else n) 256

/-- Slots holding descriptors (0xA002:00). -/
def poolInUse (s : State) : Nat := s.host.queues.foldl (fun n (_, x) => n + x.flight.length) 0

/-- Slots in use beyond the reservation of their queue (R372). -/
def poolExtra (s : State) : Nat :=
  s.host.queues.foldl (fun n (_, x) => n + (x.flight.length - (if x.holds then x.reserve else 0))) 0

/-- FIRMWARE queues that are not DISABLED (R351, R404). -/
def firmwareEnabled (s : State) : Nat :=
  if queuesShut s then 0 else 32 - (s.host.queues.filter fun (q, x) => decide (4064 ≤ q) && !x.holds).length

/-- Queues not DISABLED, FIRMWARE included (0xA003:00). -/
def queuesEnabled (s : State) : Nat :=
  s.host.queues.foldl (fun n (q, x) => if q < 4064 ∧ x.holds = true then n + 1 else n) (firmwareEnabled s)

/-- The host reaches the package: the endpoint is ready and the package runs (R350, R351). -/
def hostReady (s : State) : Bool := s.host.ready && packageRuns s

/-- The states that accept queue enables (R352). -/
def queuesReady (s : State) : Bool :=
  match s.life.state with
  | .joined | .running | .degraded | .departReq => true
  | _ => false

/-- The context passes the checks of an ENABLE (R362, R364). -/
def contextOk (x : Queue) : Bool :=
  let cls := x.cls
  let hbmOnly := decide (cls = 2) || decide (cls = 3)
  (decide (cls = 0) || hbmOnly) && decide (x.config % 16 ≤ 12) &&
  decide (Queue.space x.ringBase ≤ 1) && decide (Queue.space x.cplBase ≤ 1) &&
  (!hbmOnly || (decide (Queue.space x.ringBase = 1) && decide (Queue.space x.cplBase = 1))) &&
  decide (1 ≤ x.reserve) && decide (x.reserve ≤ 4096) && decide (x.reserve ≤ x.slotMax) && decide (x.slotMax ≤ 4096) &&
  (!x.irqOn || decide (1 ≤ x.vector))

/-- A queue as ENABLE leaves it: indices at 0, an empty completion ring, the first pass (R364, R386).  QC_STATUS keeps the cause of
the last refusal or ERROR, and started descriptors that R405 left run on (R366). -/
def freshQueue (x : Queue) : Queue :=
  { x with state := .enabled, head := 0, tail := 0, cplTail := 0, cplHead := 0, cplFree := x.entries
           phase := true, irqCount := 0, stalled := false, cplBroken := false, lastRecord := none }

/-! ### Ending descriptors and completion records (R385 to R391, R396) -/

/-- A descriptor in flight. -/
def Queue.desc (x : Queue) (index : Nat) : Option Desc := x.flight.find? fun d => d.index = index

/-- Changing a descriptor in flight. -/
def modDesc (q index : Nat) (f : Desc → Desc) (s : State) : State :=
  modQueue q (fun x => { x with flight := x.flight.map fun d => if d.index = index then f d else d }) s

/-- A descriptor ends: its outcome and END_CYCLE and END_PHASE are fixed, and its record waits in order of ending
(R385, R387). -/
def endDesc (q index status cause result : Nat) (s : State) : State :=
  let s := if status = 3 then count 0xA020 2 1 s else s
  let s := match (queueAt s q).desc index with
    | some d => match d.gate with
      | some g => if d.state = .gated then clearPackageCmp g s else s
      | none => s
    | none => s
  modQueue q (fun x => { x with
    held := if x.held.contains index then x.held else x.held ++ [index]
    flight := x.flight.map fun d =>
      if d.index = index then
        { d with state := .ended, status := status, cause := cause, result := result, endCycle := s.rb.pkgCycle,
                 endPhase := s.rb.pkgPhase }
      else d }) s

/-- A completion record's 32 bytes (R385). -/
def completionBytes (q : Nat) (x : Queue) (d : Desc) : List Byte :=
  (d.data.drop 4).take 4 ++ natLe q 2 ++ natLe d.status 1 ++
    natLe (flag x.phase 0 + flag d.replayed 1 + flag d.late 2 + flag (bit (field d.data 1 1) 2) 3) 1 ++
    natLe (if d.status = 0 then 0 else d.cause) 2 ++ natLe 0 6 ++ natLe d.result 8 ++ natLe d.endCycle 6 ++
    natLe (d.endPhase % 4096) 2

/-- Writing bytes into a ring's space (R385): 0 host memory, 1 HBM. -/
def writeRing (space a : Nat) (bs : List Byte) (s : State) : State :=
  if space = 0 then hostWrite a bs s else hbmWrite a bs s

/-- Reading bytes of a ring's space. -/
def readRing (s : State) (space a n : Nat) : List Byte :=
  if space = 0 then memRead s.hostMem a n else memRead s.hbm a n

/-- A record is discarded rather than written: the host link is down or went down while the descriptor ran, or the ring is
unusable (R401, R405). -/
def recordLost (s : State) (x : Queue) (d : Desc) : Bool :=
  (decide (Queue.space x.cplBase = 0) && !s.host.linkUp) || x.cplBroken || d.stray == some true

/-- Counting a record towards the queue's vector (R390, R391). -/
def signalRecord (q : Nat) (d : Desc) (s : State) : State :=
  let x := queueAt s q
  if x.irqOn = false ∨ bit (field d.data 1 1) 1 = true then s
  else if x.threshold ≤ x.irqCount + 1 then raiseVector x.vector (modQueue q (fun x => { x with irqCount := 0 }) s)
  else modQueue q (fun x => { x with
    irqCount := x.irqCount + 1, irqSince := if x.irqCount = 0 then s.now else x.irqSince }) s

/-- A group queue's record is written: COMPLETED of its page rises by one (R844, R845). -/
def countCompleted (q : Nat) (s : State) : State :=
  let x := queueAt s q
  if x.group = 0 then s
  else
    let a := x.ringBase / 64 * 64 + 0x6000
    hbmWrite a (natLe (hbmWord s a + 1) 8) s

/-- Writing the oldest waiting record of a queue, when it may be written (R370, R371, R386, R396, R410). -/
def writeRecord (q : Nat) (s : State) : State :=
  let x := queueAt s q
  match x.held with
  | [] => s
  | i :: rest =>
    match x.desc i with
    | none => modQueue q (fun x => { x with held := rest }) s
    | some d =>
      let gone (x : Queue) : Queue := { x with held := rest, flight := x.flight.filter fun y => y.index ≠ i }
      if dropping s then s
      else if recordLost s x d then count 0xA020 4 1 (modQueue q gone s)
      else if x.cplFree = 0 then s
      else
        let a := x.cplBase / 32 * 32 + 32 * x.cplTail
        let old := readRing s (Queue.space x.cplBase) a 32
        let s := writeRing (Queue.space x.cplBase) a (completionBytes q x d) s
        let last := decide (x.cplTail + 1 = x.entries)
        let s := modQueue q (fun x => { gone x with
          lastRecord := some (a, old)
          cplTail := if last then 0 else x.cplTail + 1
          phase := if last then !x.phase else x.phase
          cplFree := x.cplFree - 1 }) s
        signalRecord q d (if d.stray.isNone then countCompleted q s else s)

/-- Writing waiting records, at most `n`. -/
def writeRecords (q : Nat) : Nat → State → State
  | 0, s => s
  | n + 1, s => writeRecords q n (writeRecord q s)

/-- Writing every record that may be written. -/
def flushRecords (q : Nat) (s : State) : State := writeRecords q (queueAt s q).held.length s

/-- ENABLE (R351, R352, R359, R362, R364, R374); records that still wait go into the empty ring. -/
def enableQueue (q : Nat) (s : State) : State :=
  let x := queueAt s q
  if hostReady s = false ∨ 4064 ≤ q ∨ x.state ≠ .disabled then s
  else if queuesReady s = false then modQueue q (fun x => { x with cause := 0xA001 }) s
  else if contextOk x = false then modQueue q (fun x => { x with cause := 0xA002 }) s
  else if 16384 < poolReserved s + x.reserve then modQueue q (fun x => { x with cause := 0xA003 }) s
  else flushRecords q (modQueue q freshQueue s)

/-- A write of ENABLE. -/
def execQueueEnable (t : Nat) (queue : Fin 4096) (s : State) : Out := .next (enableQueue queue.val (clockTo t s))

/-- Descriptors fetched and not started end FLUSHED (R365, R403, R405). -/
def flushUnstarted (q cause : Nat) (s : State) : State :=
  forEach (fun (d : Desc) s => if d.state = .fetched ∨ d.state = .gated then endDesc q d.index 4 cause 0 s else s)
    (queueAt s q).flight s

/-- The submission is that of the running layer. -/
def layerRuns (s : State) (y : Submission) : Bool :=
  match s.junc.layer with
  | some l => decide (l.queue = y.queue) && decide (l.index = y.index)
  | none => false

/-- DISABLE (R365): layers submitted to the queue and not started are no longer waited for (R723). -/
def disableQueue (q : Nat) (s : State) : State :=
  let x := queueAt s q
  if x.state = .enabled ∨ x.state = .error then
    let s := { s with junc := { s.junc with order := s.junc.order.filter fun y => decide (y.queue ≠ q) || layerRuns s y } }
    flushRecords q (flushUnstarted q 0 (modQueue q (fun x => { x with state := .flushing }) s))
  else s

/-- A DISABLE of the driver (R359, R365). -/
def driverDisable (q : Nat) (s : State) : State := if hostReady s = false ∨ 4064 ≤ q then s else disableQueue q s

/-- A write of DISABLE. -/
def execQueueDisable (t : Nat) (queue : Fin 4096) (s : State) : Out := .next (driverDisable queue.val (clockTo t s))

/-- A queue with nothing in flight: its context stays, or, of a group that has dissolved, the page of its rings is given
back (R360, R842). -/
def retireQueue (q : Nat) (s : State) : State :=
  let x := queueAt s q
  if x.group = 0 then modQueue q (fun x => { x with state := .disabled }) s
  else modQueue q (fun x => { fetched := x.fetched }) (markHbm false [x.ringBase / 64 * 64 / pageBytes] s)

/-- Every fetched descriptor of a flushing queue has its record (R365). -/
def execQueueFlushDone (t : Nat) (queue : Fin 4096) (s : State) : Out :=
  let s := clockTo t s
  let x := queueAt s queue.val
  if x.state = .flushing ∧ x.flight = [] then .next (retireQueue queue.val s) else .next s

/-! ### Doorbells (R358, R367 to R371) -/

/-- A write to TAIL of `bytes` bytes (R367, R368). -/
def writeTail (q bytes value : Nat) (s : State) : State :=
  let x := queueAt s q
  if hostReady s = false then s
  else if bytes ≠ 4 ∨ x.state ≠ .enabled ∨ x.entries ≤ value then count 0xA020 1 1 s
  else modQueue q (fun x => { x with tail := value }) s

/-- A write to TAIL. -/
def execDoorbellTail (t : Nat) (queue : Fin 4096) (bytes value : Nat) (s : State) : Out :=
  .next (writeTail queue.val bytes value (clockTo t s))

/-- A write to CPL_HEAD frees the entries the driver has consumed, and held records are written (R370). -/
def writeCplHead (q value : Nat) (s : State) : State :=
  if hostReady s = false then s
  else
    flushRecords q (modQueue q (fun x => { x with
      cplHead := value % x.entries
      cplFree := min x.entries (x.cplFree + (value % x.entries + x.entries - x.cplHead) % x.entries) }) s)

/-- A write to CPL_HEAD. -/
def execDoorbellCplHead (t : Nat) (queue : Fin 4096) (value : Nat) (s : State) : Out :=
  .next (writeCplHead queue.val value (clockTo t s))

/-! ### Fetching (R367, R372, R375, R393) -/

/-- A slot is free for the queue: one of its reservation, or, below its slot maximum, an unreserved one (R372). -/
def freeSlot (s : State) (x : Queue) : Bool :=
  decide (x.flight.length < x.reserve) ||
    (decide (x.flight.length < x.slotMax) && decide (poolReserved s + poolExtra s < 16384))

/-- A group. -/
def groupAt (s : State) (g : Nat) : Group := tabGet {} g s.coll.groups

/-- Changing a group. -/
def modGroup (g : Nat) (f : Group → Group) (s : State) : State :=
  { s with coll := { s.coll with groups := tabPut {} g (f (tabGet {} g s.coll.groups)) s.coll.groups } }

/-- The descriptor of a number of a group queue is Ship's or Gather's of the running layer (R749, R753). -/
def layerOwns (s : State) (q i : Nat) : Bool :=
  match s.junc.layer with
  | some l => l.resident && decide ((groupAt s (field l.data 12 2)).queue = q) &&
      ((decide (l.ship = some i) && !l.shipDone) || decide (l.gather = some i))
  | none => false

/-- A descriptor fetched from a group queue takes the next CSEQ and is a collective of the group (R846). -/
def enterCollective (q i : Nat) (data : List Byte) (s : State) : State :=
  let g := (queueAt s q).group
  if g = 0 then s
  else
    let own := layerOwns s q i
    modGroup g (fun x => { x with
      nextCseq := (x.nextCseq + 1) % 65536
      colls := x.colls ++ [({ index := i, cseq := x.nextCseq, op := field data 0 1, data := data, ofLayer := own } :
        Collective)] }) s

/-- The number that the next descriptor submitted to the ring will have. -/
def Queue.nextSubmit (x : Queue) : Nat := x.fetched + (x.tail + x.entries - x.head) % x.entries

/-- Submitting a descriptor into a queue's HBM ring, as QSUB does; none while the ring is full (R369, R670, R723). -/
def submitDesc (q : Nat) (data : List Byte) (s : State) : Option State :=
  let x := queueAt s q
  if (x.tail + 1) % x.entries = x.head then none
  else
    let s := hbmWrite (x.ringBase / 64 * 64 + 64 * x.tail) data s
    let s := modQueue q (fun x => { x with tail := (x.tail + 1) % x.entries }) s
    let op := field data 0 1
    some (if x.cls = 2 ∧ (op = 1 ∨ op = 3) then
      { s with junc := { s.junc with
        order := s.junc.order ++ [({ queue := q, index := x.nextSubmit, flags := decide (op = 3) } : Submission)] } } else s)

/-- The first descriptor of a queue that has not started. -/
def Queue.next (x : Queue) : Option Desc := x.flight.find? fun d => d.state = .fetched ∨ d.state = .gated

/-- The user of a package comparator that has fired can act now: the queue of a gated descriptor (PC00 to PC55), the program
(PC56 to PC59), the departure (PC62, PC63); a tile takes a checkpoint when its sequencer can (R111, R398). -/
def userActs (s : State) (i : Nat) : Bool :=
  let q := (tabGet {} i s.rb.pkgCmp).tag
  let x := queueAt s q
  let op := (x.next.map fun d => field d.data 0 1).getD 0
  if i < 56 then
    packageRuns s && !dropping s &&
      (if x.group ≠ 0 then (groupAt s x.group).colls.all fun c => decide (c.state = .armed)
       else if x.cls = 0 then !(decide (op = 4) && s.prog.isSome)
       else if x.cls = 2 then !(decide (op = 1) && s.junc.layer.isSome)
       else true)
  else if i < 60 then packageRuns s && !dropping s && s.tiles.all fun (_, x) => x.ops.isEmpty
  else decide (62 ≤ i) && decide (s.life.state = .departReq)

/-- Package comparator `i` may take effect (R111): the half-cycle limit of the tick has applied, the kiosk's events have, and
so have the firings of lower-numbered package comparators whose users can act. -/
def turnOf (i : Nat) (s : State) : Bool :=
  let waits (n : Nat) : Bool := let c := tabGet {} n s.rb.pkgCmp; comparatorDue s.rb c || (freshFiring c && userActs s n)
  kioskTurn 16 s.rb && (firstFrom i 0 waits).isNone

/-- Everything that R111 orders on this tick has taken effect (R1137). -/
def tickSettled (s : State) : Bool := turnOf 64 s

/-- The fence of the next descriptor is met: nothing earlier of its queue is without its record (R378). -/
def fenceMet (x : Queue) (d : Desc) (fenced : Bool) : Bool :=
  !fenced || decide ((x.flight.find? fun d => d.stray.isNone).map (·.index) = some d.index)

/-- The next descriptor of a queue, if it is GATED and its fence is met, takes a free comparator of PC00 to PC55 (R379, R381). -/
def takeGate (q : Nat) (fenced : Desc → Bool) (s : State) : State :=
  let x := queueAt s q
  match x.next with
  | none => s
  | some d =>
    if bit (field d.data 1 1) 2 = false ∨ d.gate.isSome = true ∨ fenceMet x d (fenced d) = false then s
    else match firstFrom 56 0 fun i => let c := tabGet {} i s.rb.pkgCmp; !c.busy && !c.fired with
      | none => s
      | some i =>
        modDesc q d.index (fun d => { d with gate := some i, state := .gated })
          (armPackage i (field d.data 56 6) (field d.data 62 2 % 4096) q s)

/-- The next descriptor of a queue may start: its predecessors have started, its fence is met and its gate has fired.
A gated one takes its comparator when it reaches the head (R377 to R381). -/
def admitNext (q : Nat) (fenced : Desc → Bool) (s : State) : Option Desc × State :=
  let x := queueAt s q
  match x.next with
  | none => (none, s)
  | some d =>
    if fenceMet x d (fenced d) = false then (none, s)
    else if bit (field d.data 1 1) 2 = false then (some d, s)
    else match d.gate with
      | some i =>
        let c := tabGet {} i s.rb.pkgCmp
        if c.fired = true ∧ turnOf i s = true then
          (some { d with late := c.late },
            modDesc q d.index (fun d => { d with late := c.late }) (clearPackageCmp i s))
        else (none, s)
      | none => (none, takeGate q fenced s)

/-- FENCE of a descriptor (R376, R378). -/
def fenceSet (d : Desc) : Bool := bit (field d.data 1 1) 0

/-- A descriptor starts. -/
def startDesc (q index : Nat) (s : State) : State := modDesc q index (fun d => { d with state := .started }) s

/-- The next descriptor of a queue is fetched into a slot, or the queue waits (R367, R375, R410). -/
def fetchNext (q : Nat) (s : State) : State :=
  let x := queueAt s q
  if x.state ≠ .enabled ∨ x.head = x.tail ∨ dropping s = true ∨ packageRuns s = false then s
  else match freeSlot s x with
    | false =>
      if x.stalled then s else count 0xA020 6 1 (modQueue q (fun x => { x with stalled := true }) s)
    | true =>
      let d := readRing s (Queue.space x.ringBase) (x.ringBase / 64 * 64 + 64 * x.head) 64
      enterCollective q x.fetched d (modQueue q (fun x => { x with
        head := (x.head + 1) % x.entries, fetched := x.fetched + 1, stalled := false
        flight := x.flight ++ [({ index := x.fetched, data := d } : Desc)] }) s)

/-- The delay since the first unsignalled record has passed (R390). -/
def execIrqDelayExpire (t : Nat) (queue : Fin 4096) (s : State) : Out :=
  let s := clockTo t s
  let x := queueAt s queue.val
  if x.irqOn = true ∧ 0 < x.irqCount ∧ x.irqSince + x.delayNs ≤ s.now then
    .next (raiseVector x.vector (modQueue queue.val (fun x => { x with irqCount := 0 }) s))
  else .next s

/-- The write of the last record failed: its place holds what it held, the ring is unusable, and the record is discarded and
counted (R400, R401). -/
def breakRing (q : Nat) (s : State) : State :=
  let x := queueAt s q
  let s := match x.lastRecord with
    | some (a, old) => count 0xA020 4 1 (writeRing (Queue.space x.cplBase) a old s)
    | none => s
  modQueue q (fun x => { x with cplBroken := true, lastRecord := none }) s

/-- A fetch or a record write ended in UR, CA or a timeout (R400, R401).  A queue that is in ERROR already fetches no more; a
failing record write makes its ring unusable too. -/
def execQueueFault (t : Nat) (queue : Fin 4096) (fetch : Bool) (s : State) : Out :=
  let s := clockTo t s
  let q := queue.val
  let x := queueAt s q
  if x.state = .disabled ∨ (x.state = .error ∧ (fetch || x.cplBroken) = true) ∨ packageRuns s = false then .next s
  else
    let cause := if fetch then 0xA004 else 0xA005
    let s := if fetch then s else breakRing q s
    let s := record { cause := cause, cls := 2, unitType := utQueue, unit := q, queue := q }
      (modQueue q (fun x => { x with state := .error, cause := cause }) s)
    .next (flushRecords q (glCause 2 s))

/-! ### Registers (R353 to R358, R363) -/

/-- GL_STATUS. -/
def glStatus (s : State) : Nat :=
  flag (queuesReady s) 0 + flag (decide (s.life.state = .degraded)) 1 + flag (decide (s.life.state = .draining)) 2 +
    flag s.host.flitRequired 3 + s.life.state.code * 256

/-- GL_QUEUE_ERROR: the bit of a queue. -/
def queueErrorBit (s : State) (q : Nat) : Bool := decide ((queueAt s q).state = .error)

/-- A write to HBM_WINDOW_BASE (R355). -/
def writeWindowBase (v : Nat) (s : State) : State :=
  if hostReady s = false ∨ bits v 8 0 % max 1 s.host.windowSize ≠ 0 then s
  else s.modHost fun h => { h with windowBase := bits v 8 0 }

/-- A write to HBM_WINDOW_BASE. -/
def execHbmWindowBaseWrite (value : Half) (s : State) : Out := .next (writeWindowBase value.toNat s)

/-- A write-one-to-clear of GL_EVENT_CAUSE (R354). -/
def clearCauses (v : Nat) (s : State) : State :=
  if hostReady s then
    s.modHost fun h => { h with eventCause := sumTo 5 fun i => flag (bit h.eventCause i && !bit v i) i }
  else s

/-- A write to GL_EVENT_CAUSE. -/
def execGlEventCauseWrite (value : Half) (s : State) : Out := .next (clearCauses value.toNat s)

/-- A read that covers GL_RB_CYCLE_LO latches the rest of the count (R353). -/
def latchCount (s : State) : State :=
  s.modHost fun h => { h with latchHi := s.rb.pkgCycle / 2 ^ 32 % 65536, latchPhase := s.rb.pkgPhase }

/-- A read of GL_RB_CYCLE_LO latches the rest of the count (R353). -/
def execGlRbCycleLoRead (s : State) : Out :=
  if hostReady s then
    .next (emit (.hostRead (natLe (s.rb.pkgCycle % 2 ^ 32) 4)) (latchCount s))
  else .next s

/-- BAR2 answers with HBM (R351): the sled has left TRAINING. -/
def bar2Open (s : State) : Bool :=
  match s.life.state with
  | .joined | .running | .degraded | .departReq | .draining | .left => true
  | _ => false

/-- A poisoned read completes with the EP bit set, and AER logs Poisoned TLP Received, bit 12 of its status (R523). -/
def poisonToHost (length : Nat) (s : State) : State :=
  emit (.hostPoison length) (s.modHost fun h => { h with aerUncor := h.aerUncor ||| 2 ^ 12 })

/-- A host access through BAR2 (R351, R355, R356, R523, R524). -/
def execBar2Access (offset length : Nat) (write : Option (List Byte)) (s : State) : Out :=
  if hostReady s = false then .next s
  else
    let a := s.host.windowBase * 2 ^ 30 + offset
    let ok := bar2Open s && decide (offset + length ≤ s.host.windowSize * 2 ^ 30) && rangeValid (hbmValid s) a length
    match write with
    | none =>
      if ok = true ∧ poisoned s.tiers.hbmPoison a length = true then .next (poisonToHost length s)
      else if ok then .next (emit (.hostRead (memRead s.hbm a length)) s)
      else .next (emit (.hostRead (List.replicate length 0xFF)) (count 0xA020 3 1 s))
    | some bs =>
      if ok then .next (hbmWrite a (bs.take length) s) else .next (count 0xA020 3 1 s)

/-! ### The endpoint (R349, R350, R357, R405 to R409) -/

/-- Link training starts: BAR2 takes its default size (R349, R357). -/
def startEndpoint (s : State) : State :=
  s.modHost fun h => { h with
    linkUp := false, trainAt := some s.now, ready := false, flitRequired := false, linkWidth := 0, linkRate := 0
    windowSize := objAt s 0xA010 0, windowBase := 0 }

/-- Training ends: the link is up at a width and a rate in tenths of GT/s and the endpoint becomes ready; or the partner does not
support Flit Mode and the link stays in Detect (R344, R345, R350). -/
def execEndpointReady (t : Nat) (s : State) (width : Nat := 16) (rate : Nat := 640) (flitMode : Bool := true) : Out :=
  let s := clockTo t s
  if s.host.trainAt.isNone = true ∨ packageRuns s = false then .next s
  else if flitMode then
    .next (s.modHost fun h => { h with linkUp := true, ready := true, flitRequired := false, linkWidth := width, linkRate := rate })
  else .next (s.modHost fun h => { h with
    linkUp := false, ready := false, flitRequired := true, linkWidth := 0, linkRate := 0 })

/-- The mailbox session ends: its record, its waiting request and its staging go (R266, R274, R289, R1150). -/
def endMailboxSession (s : State) : State :=
  s.modKiosk fun k => { k with
    mbSession := 0, mbSess := {}, mbQueue := [], mbDone := false, mbFault := false, mbRspLength := 0
    mbBusy := k.mbBusy && k.mbQueue.isEmpty
    staging := match k.staging with
      | some g =>
        if g.mailbox = false then some g
        else if g.verifying.isSome then some { g with orphan := true } else none
      | none => none }

/-- Every HOST_WORK queue goes DISABLED and its unstarted descriptors end FLUSHED (R405). -/
def dropHostQueues (s : State) : State :=
  forEach (fun (qx : Nat × Queue) s =>
    if qx.1 < 4064 ∧ qx.2.cls = 0 ∧ qx.2.state ≠ .disabled then
      modQueue qx.1 (fun x => { x with
          state := .disabled, cause := 0xA006
          flight := x.flight.map fun d => { d with stray := some (d.stray == some true || decide (Queue.space x.cplBase = 0)) } })
        (flushRecords qx.1 (flushUnstarted qx.1 0xA006 s))
    else s) s.host.queues s

end Sys2Proof.Machine
end

