-- ==== Sys2Proof/Machine/JuncOps.lean ====
section
/-! DEFINITION. The end of a layer, as every unit that can end one uses it (chapter 14). -/

namespace Sys2Proof.Machine

def State.modJunc (f : Junction → Junction) (s : State) : State := { s with junc := f s.junc }

/-- Changing the running layer. -/
def modLayer (f : Layer → Layer) (s : State) : State := s.modJunc fun j => { j with layer := j.layer.map f }

/-- Raising flags in the Junction's set (R767). -/
def juncFlags (fl : Nat) (s : State) : State := s.modJunc fun j => { j with flags := j.flags ||| fl }

/-- Pairs of a layer with a fate. -/
def Layer.withFate (l : Layer) (f : Fate) : Nat := (l.pairs.filter fun p => p.fate = some f).length

/-- Pairs decided against. -/
def Layer.dropped (l : Layer) : Nat := l.withFate .capacity + l.withFate .masked + l.withFate .tap

/-- RESULT of a LAYER (R726). -/
def Layer.result (l : Layer) : Nat := l.withFate .admitted % 2 ^ 32 + l.dropped % 2 ^ 32 * 2 ^ 32

/-- Writing an 8-byte word of HBM, where HBM can be reached. -/
def writeWord (a v : Nat) (s : State) : State :=
  if rangeValid (hbmValid s) a 8 then hbmWrite a (natLe v 8) s else s

/-- The running layer is no longer one. -/
def dropLayer (l : Layer) (s : State) : State :=
  s.modJunc fun j => { j with
    layer := none, order := j.order.filter fun y => decide (y.queue ≠ l.queue) || decide (y.index ≠ l.index) }

/-- The running layer ends OK: v to SIGNAL_ADDR, then its completion (R726, R727, R757). -/
def completeLayer (s : State) : State :=
  match s.junc.layer with
  | none => s
  | some l =>
    let s := writeWord l.signalAddr l.signalValue (dropLayer l s)
    flushRecords l.queue (endDesc l.queue l.index 0 0 l.result (count 0x6040 1 1 s))

/-- The running layer ends ABORTED: v OR 2^63 to SIGNAL_ADDR, and to READY_ADDR unless v is there (R727, R769). -/
def abortLayer (cause : Nat) (s : State) : State :=
  match s.junc.layer with
  | none => s
  | some l =>
    let v := l.signalValue + 2 ^ 63
    let s := writeWord l.signalAddr v (dropLayer l s)
    let s := if l.readyWritten then s else writeWord (field l.data 72 8) v s
    flushRecords l.queue (endDesc l.queue l.index 1 cause l.result (count 0x6040 2 1 s))

/-- The collective at a ring index of the group queue is one that the running layer waits for (R749, R753). -/
def layerAwaits (s : State) (index : Nat) : Bool :=
  match s.junc.layer with
  | some l => (decide (l.ship = some index) && !l.shipDone) || decide (l.gather = some index)
  | none => false

/-- The layer's collective at a ring index of its group queue has completed OK (R749, R750). -/
def layerCollDone (index : Nat) (s : State) : State :=
  modLayer (fun l => if l.ship = some index ∧ l.shipDone = false then { l with shipDone := true } else l) s

end Sys2Proof.Machine
end

