-- ==== Sys2Proof/Machine/Numeric.lean ====
section
/-! DEFINITION. Number formats and exact arithmetic (chapters 08 and 09): decoding into exact values, rounding once,
round-to-odd, scaled writes, dot products in both modes, split products, and the sticky flags. -/

namespace Sys2Proof.Machine

/-- An exact value: what the plaza form holds (R427 to R430), and sums and products of such values.
A finite non-zero value is `(-1)^neg * m * 2^e` with `m > 0`. -/
inductive Val where
  | nan
  | inf (neg : Bool)
  | zero (neg : Bool)
  | fin (neg : Bool) (m : Nat) (e : Int)
  deriving DecidableEq, Repr

/-- The element formats of R412. -/
inductive Fmt where
  | fp32 | bf16 | fp16 | e5m2 | e4m3 | e3m2 | e2m3 | e2m1 | int8 | int4 | int2 | ter2 | bin1
  deriving DecidableEq, Repr

/-- Format codes; 0xD to 0xF are reserved (R412, R413). -/
def Fmt.ofCode : Nat → Option Fmt
  | 0 => some .fp32 | 1 => some .bf16 | 2 => some .fp16 | 3 => some .e5m2 | 4 => some .e4m3 | 5 => some .e3m2
  | 6 => some .e2m3 | 7 => some .e2m1 | 8 => some .int8 | 9 => some .int4 | 10 => some .int2 | 11 => some .ter2
  | 12 => some .bin1 | _ => none

/-- Width in bits. -/
def Fmt.width : Fmt → Nat
  | .fp32 => 32 | .bf16 => 16 | .fp16 => 16 | .e5m2 => 8 | .e4m3 => 8 | .e3m2 => 6 | .e2m3 => 6 | .e2m1 => 4
  | .int8 => 8 | .int4 => 4 | .int2 => 2 | .ter2 => 2 | .bin1 => 1

/-- How the all-ones exponent is used (R415). -/
inductive Special where
  | ieee | e4m3 | none
  deriving DecidableEq, Repr

/-- Exponent bits, mantissa bits, bias and special codes of a floating-point format (R415). -/
structure FloatSpec where
  ebits : Nat
  mbits : Nat
  bias : Nat
  special : Special
  deriving DecidableEq, Repr

/-- The parameters of R415; none for the integer, ternary and binary formats. -/
def Fmt.float : Fmt → Option FloatSpec
  | .fp32 => some ⟨8, 23, 127, .ieee⟩ | .bf16 => some ⟨8, 7, 127, .ieee⟩ | .fp16 => some ⟨5, 10, 15, .ieee⟩
  | .e5m2 => some ⟨5, 2, 15, .ieee⟩ | .e4m3 => some ⟨4, 3, 7, .e4m3⟩ | .e3m2 => some ⟨3, 2, 3, .none⟩
  | .e2m3 => some ⟨2, 3, 1, .none⟩ | .e2m1 => some ⟨2, 1, 1, .none⟩ | _ => none

/-- Formats that may be flushed (R442). -/
def Fmt.flushable : Fmt → Bool
  | .fp32 => true | .bf16 => true | .fp16 => true | .e5m2 => true | .e4m3 => true | _ => false

/-- Formats of 8 bits or fewer carry fine scales (R434). -/
def Fmt.narrow (f : Fmt) : Bool := decide (f.width ≤ 8)

/-- Integer-like formats of R466. -/
def Fmt.integer : Fmt → Bool
  | .int8 => true | .int4 => true | .int2 => true | .ter2 => true | .bin1 => true | _ => false

/-! ### Sticky flags as one number: OF, UF, NX, NV, FZ in bits 0 to 4 (R500) -/

def fOF : Nat := 1
def fUF : Nat := 2
def fNX : Nat := 4
def fNV : Nat := 8
def fFZ : Nat := 16

/-! ### Exact values -/

/-- The value is negative, by its sign. -/
def Val.neg : Val → Bool
  | .nan => false | .inf n => n | .zero n => n | .fin n _ _ => n

/-- floor(log2 |v|) of a finite non-zero value. -/
def Val.log (m : Nat) (e : Int) : Int := (Nat.log2 m : Int) + e

/-- A signed integer at exponent `e`. -/
def Val.ofInt (v : Int) (e : Int) (zeroNeg : Bool) : Val :=
  if v = 0 then .zero zeroNeg else .fin (decide (v < 0)) v.natAbs e

/-- The product of R467, with its flags. -/
def Val.mul (a b : Val) : Val × Nat :=
  match a, b with
  | .nan, _ => (.nan, 0)
  | _, .nan => (.nan, 0)
  | .inf _, .zero _ => (.nan, fNV)
  | .zero _, .inf _ => (.nan, fNV)
  | .inf x, y => (.inf (x ^^ y.neg), 0)
  | x, .inf y => (.inf (x.neg ^^ y), 0)
  | .zero x, y => (.zero (x ^^ y.neg), 0)
  | x, .zero y => (.zero (x.neg ^^ y), 0)
  | .fin x m e, .fin y n f => (.fin (x ^^ y) (m * n) (e + f), 0)

/-- The lowest exponent among finite terms, from a start. -/
def lowExp : List Val → Int → Int
  | [], lo => lo
  | .fin _ _ e :: t, lo => lowExp t (min e lo)
  | _ :: t, lo => lowExp t lo

/-- A finite term as an integer multiple of 2^lo. -/
def scaledInt (lo : Int) : Val → Int
  | .fin n m e => let k : Int := (m * 2 ^ (e - lo).toNat : Nat); if n then -k else k
  | _ => 0

/-- Some exponent of the terms, zero when none is finite and non-zero. -/
def someExp : List Val → Int
  | [] => 0
  | .fin _ _ e :: _ => e
  | _ :: t => someExp t

/-- The sum of R468 and R469, with its flags. -/
def sumVals (ts : List Val) : Val × Nat :=
  let pinf := ts.any fun v => v == Val.inf false
  let ninf := ts.any fun v => v == Val.inf true
  if pinf && ninf then (.nan, fNV)
  else if ts.any fun v => v == Val.nan then (.nan, 0)
  else if pinf then (.inf false, 0)
  else if ninf then (.inf true, 0)
  else
    let lo := lowExp ts (someExp ts)
    let total := ts.foldl (fun acc v => acc + scaledInt lo v) 0
    (Val.ofInt total lo (ts.all fun v => v == Val.zero true), 0)

/-- Two exact values are equal as numbers. -/
def Val.same (a b : Val) : Bool :=
  match a, b with
  | .fin x m e, .fin y n f =>
    let lo := min e f
    (x == y) && decide (m * 2 ^ (e - lo).toNat = n * 2 ^ (f - lo).toNat)
  | .zero _, .zero _ => true
  | a, b => a == b

/-- |a| ≤ |b| for finite values. -/
def Val.absLe (a b : Val) : Bool :=
  match a, b with
  | .zero _, _ => true
  | .fin _ m e, .fin _ n f =>
    let lo := min e f
    decide (m * 2 ^ (e - lo).toNat ≤ n * 2 ^ (f - lo).toNat)
  | _, _ => false

/-- Negation of an exact value. -/
def Val.negate : Val → Val
  | .nan => .nan | .inf n => .inf !n | .zero n => .zero !n | .fin n m e => .fin (!n) m e

/-! ### The plaza form (R427 to R429) -/

/-- The 37-bit plaza form of a decoded value. -/
def plazaBits : Val → Nat
  | .nan => 3 * 2 ^ 34
  | .inf n => flag n 36 + 2 * 2 ^ 34
  | .zero n => flag n 36
  | .fin n m e =>
    let l := Nat.log2 m
    let sig := if l ≤ 23 then m * 2 ^ (23 - l) else m / 2 ^ (l - 23)
    flag n 36 + 2 ^ 34 + ((Val.log m e + 511).toNat % 1024) * 2 ^ 24 + sig

/-! ### Decoding (R414 to R419, R423 to R425, R431) -/

/-- A floating-point code's exact value. -/
def decodeFloat (p : FloatSpec) (code : Nat) : Val :=
  let neg := bit code (p.ebits + p.mbits)
  let e := (code / 2 ^ p.mbits) % 2 ^ p.ebits
  let m := code % 2 ^ p.mbits
  let top := decide (e = 2 ^ p.ebits - 1)
  if p.special = .ieee ∧ top = true then (if m = 0 then .inf neg else .nan)
  else if p.special = .e4m3 ∧ top = true ∧ m = 7 then .nan
  else if e = 0 then
    if m = 0 then .zero neg else .fin neg m (1 - (p.bias : Int) - p.mbits)
  else .fin neg (2 ^ p.mbits + m) ((e : Int) - p.bias - p.mbits)

/-- The code is a floating-point subnormal. -/
def subnormalCode (p : FloatSpec) (code : Nat) : Bool :=
  decide ((code / 2 ^ p.mbits) % 2 ^ p.ebits = 0) && decide (code % 2 ^ p.mbits ≠ 0)

/-- An unscaled code's exact value; a TER2 code 0b10 is NaN (R414 to R419). -/
def decodeCode (f : Fmt) (code : Nat) : Val :=
  match f.float with
  | some p => decodeFloat p code
  | none => match f with
    | .ter2 => if code = 2 then .nan else Val.ofInt (signed code 2) 0 false
    | .bin1 => .fin (decide (code = 1)) 1 0
    | _ => Val.ofInt (signed code f.width) 0 false

/-- The UE4M3 format without its sign (R424). -/
def ue4m3 : FloatSpec := ⟨4, 3, 7, .e4m3⟩

/-- The exact value of a fine scale: scale codes 1 E8M0 and 2 UE4M3 (R423, R424). -/
def decodeScale (g c : Nat) : Val :=
  if g = 1 then (if c = 255 then .nan else .fin false 1 ((c : Int) - 127))
  else if g = 2 then decodeFloat ue4m3 (c % 128)
  else .fin false 1 0

/-- Decoding one element under its fine scale and the subnormal mode (R431). -/
def decodeElem (f : Fmt) (code g c subn : Nat) : Val × Nat :=
  if f = .ter2 ∧ code = 2 then (.nan, fNV)
  else
    let flush := decide (subn = 2) && f.flushable &&
      (match f.float with | some p => subnormalCode p code | none => false)
    let v := if flush then Val.zero (decodeCode f code).neg else decodeCode f code
    let fl := if flush then fFZ else 0
    if g = 0 then (v, fl)
    else if g = 2 ∧ 128 ≤ c then (.nan, fl ||| fNV)
    else
      match v, decodeScale g c with
      | .nan, _ => (.nan, fl)
      | _, .nan => (.nan, fl)
      | .inf _, .zero _ => (.nan, fl ||| fNV)
      | .inf n, _ => (.inf n, fl)
      | .zero n, _ => (.zero n, fl)
      | .fin n _ _, .zero _ => (.zero n, fl)
      | .fin n m e, .fin _ k d => (.fin n (m * k) (e + d), fl)
      | .fin n m e, .inf _ => (.fin n m e, fl)

/-! ### Rounding (R445 to R452) -/

/-- n / 2^k rounded to an integer: 0 nearest-even, 1 toward zero, 2 toward +inf, 3 toward -inf (R445). -/
def roundShift (mode : Nat) (neg : Bool) (n k : Nat) : Nat :=
  let q := n / 2 ^ k
  let r := 2 * (n % 2 ^ k)
  if r = 0 then q
  else
    let up :=
      if mode = 0 then decide (2 ^ k < r) || (decide (r = 2 ^ k) && decide (q % 2 = 1))
      else if mode = 1 then false
      else if mode = 2 then !neg
      else neg
    if up then q + 1 else q

/-- m * 2^e rounded to an integer multiple of 2^q. -/
def roundTo (mode : Nat) (neg : Bool) (m : Nat) (e q : Int) : Nat :=
  if q ≤ e then m * 2 ^ (e - q).toNat else roundShift mode neg m (q - e).toNat

/-- m * 2^e is an integer multiple of 2^q. -/
def exactAt (m : Nat) (e q : Int) : Bool := decide (q ≤ e) || decide (m % 2 ^ (q - e).toNat = 0)

/-- Largest finite code of a format, sign clear. -/
def maxCode (p : FloatSpec) : Nat :=
  match p.special with
  | .ieee => (2 ^ p.ebits - 1) * 2 ^ p.mbits - 1
  | .e4m3 => 2 ^ (p.ebits + p.mbits) - 2
  | .none => 2 ^ (p.ebits + p.mbits) - 1

/-- Canonical NaN (R416); formats without NaN write +0 (R449). -/
def nanCode (p : FloatSpec) : Nat :=
  match p.special with
  | .ieee => (2 ^ p.ebits - 1) * 2 ^ p.mbits + 2 ^ (p.mbits - 1)
  | .e4m3 => 2 ^ (p.ebits + p.mbits) - 1
  | .none => 0

/-- Encoding a finite non-zero value into a floating-point format, one rounding (R443, R447 to R449). -/
def encodeFinite (p : FloatSpec) (flushable : Bool) (mode subn : Nat) (neg : Bool) (m : Nat) (e : Int) : Nat × Nat :=
  let s := if neg then 2 ^ (p.ebits + p.mbits) else 0
  let l := Val.log m e
  let qmin : Int := 1 - (p.bias : Int) - p.mbits
  let qfree := l - p.mbits
  let free := roundTo mode neg m e qfree
  -- floor(log2) of the value rounded with an unbounded exponent range
  let lfree := if free = 2 ^ (p.mbits + 1) then l + 1 else l
  let tiny := decide (lfree < 1 - (p.bias : Int))
  if tiny && flushable && decide (1 ≤ subn) then (s, fFZ ||| fUF ||| fNX)
  else
    let q := max qfree qmin
    let code := (q - qmin).toNat * 2 ^ p.mbits + roundTo mode neg m e q
    if maxCode p < code then
      let big := match p.special with
        | .ieee =>
          if mode = 0 ∨ (mode = 2 ∧ neg = false) ∨ (mode = 3 ∧ neg = true) then maxCode p + 1 else maxCode p
        | _ => maxCode p
      (s + big, fOF ||| fNX)
    else
      let nx := if exactAt m e q then 0 else fNX
      (s + code, if nx = 0 then 0 else if tiny then nx ||| fUF else nx)

/-- Conversion into a floating-point format (R446 to R449). -/
def encodeFloat (p : FloatSpec) (flushable : Bool) (mode subn : Nat) (v : Val) : Nat × Nat :=
  let s (n : Bool) : Nat := if n then 2 ^ (p.ebits + p.mbits) else 0
  match v with
  | .nan => match p.special with
    | .none => (0, fNV)
    | _ => (nanCode p, 0)
  | .inf n => match p.special with
    | .ieee => (s n + maxCode p + 1, 0)
    | .e4m3 => (nanCode p, fNV)
    | .none => (s n + maxCode p, fNV)
  | .zero n => (s n, 0)
  | .fin n m e => encodeFinite p flushable mode subn n m e

/-- Conversion into a signed integer range, low bits kept at width `w` (R449, R450, R452). -/
def encodeInt (w : Nat) (lo hi : Int) (mode : Nat) (v : Val) : Nat × Nat :=
  let put (x : Int) : Nat := (x % (2 ^ w : Int)).toNat
  match v with
  | .nan => (0, fNV)
  | .inf n => (put (if n then lo else hi), fNV)
  | .zero _ => (0, 0)
  | .fin n m e =>
    let k : Int := roundTo mode n m e 0
    let x := if n then -k else k
    if x < lo then (put lo, fNV)
    else if hi < x then (put hi, fNV)
    else (put x, if exactAt m e 0 then 0 else fNX)

/-- Conversion into BIN1: the sign alone (R449, R451). -/
def encodeBin (v : Val) : Nat × Nat :=
  match v with
  | .nan => (0, fNV ||| fNX)
  | _ => (if v.neg then 1 else 0, if v.same (.fin v.neg 1 0) then 0 else fNX)

/-- One conversion from an exact value into any element format (R446 to R452). -/
def encodeElem (f : Fmt) (mode subn : Nat) (v : Val) : Nat × Nat :=
  match f.float with
  | some p => encodeFloat p f.flushable mode subn v
  | none => match f with
    | .int8 => encodeInt 8 (-128) 127 mode v
    | .int4 => encodeInt 4 (-8) 7 mode v
    | .int2 => encodeInt 2 (-2) 1 mode v
    | .ter2 => encodeInt 2 (-1) 1 mode v
    | _ => encodeBin v

/-- The FP32 format. -/
def fp32 : FloatSpec := ⟨8, 23, 127, .ieee⟩

/-- round_fp32: one rounding to FP32 at nearest-even, flushed under SUBN (R470). -/
def roundFp32 (subn : Nat) (v : Val) : Val × Nat :=
  let (c, fl) := encodeFloat fp32 true 0 subn v
  (decodeFloat fp32 c, fl)

/-! ### Round-to-odd (R453, R454) -/

/-- (num / den) * 2^e truncated to `p` significant bits, the lowest kept bit set when bits were lost. -/
def oddQuotient (p : Nat) (neg : Bool) (num den : Nat) (e : Int) : Val :=
  -- at least p + 2 quotient bits
  let up := (p + 2 + Nat.log2 den) - Nat.log2 num
  let n := num * 2 ^ up
  let q := n / den
  let drop := Nat.log2 q + 1 - p
  let t := q / 2 ^ drop
  let lost := decide (n % den ≠ 0) || decide (q % 2 ^ drop ≠ 0)
  .fin neg (if lost && decide (t % 2 = 0) then t + 1 else t) (e - up + drop)

/-- Round-to-odd into the 24-bit plaza significand (R453, R454). -/
def roundOdd24 : Val → Val
  | .fin n m e => if m < 2 ^ 24 then .fin n m e else oddQuotient 24 n m 1 e
  | v => v

/-! ### Writing scaled results (R456 to R460) -/

/-- emax of R458. -/
def Fmt.emax : Fmt → Int
  | .e5m2 => 15 | .e4m3 => 8 | .e3m2 => 4 | .e2m3 => 2 | .e2m1 => 2 | .int8 => 6 | .int4 => 2 | _ => 0

/-- maxpos of R458 in halves. -/
def Fmt.maxpos2 : Fmt → Nat
  | .e5m2 => 114688 | .e4m3 => 896 | .e3m2 => 56 | .e2m3 => 15 | .e2m1 => 12 | .int8 => 254 | .int4 => 14 | _ => 2

/-- floor(log2(num / den)). -/
def logQuotient (num den : Nat) : Int :=
  let k : Int := (Nat.log2 num : Int) - Nat.log2 den
  let ge := if 0 ≤ k then decide (den * 2 ^ k.toNat ≤ num) else decide (den ≤ num * 2 ^ (-k).toNat)
  if ge then k else k - 1

/-- (num / den) * 2^e rounded up to a UE4M3 code, clamped to 448 (R457, R459). -/
def ue4m3Up (num den : Nat) (e : Int) : Nat :=
  let l := logQuotient num den + e
  let q := max (l - 3) (-9)
  let k := e - q
  let n := if 0 ≤ k then num * 2 ^ k.toNat else num
  let d := if 0 ≤ k then den else den * 2 ^ (-k).toNat
  min 126 (((q + 9).toNat) * 8 + (n + d - 1) / d)

/-- The greatest magnitude of a block's finite values. -/
def blockMax (xs : List Val) : Val :=
  xs.foldl (fun a x => if a.absLe x then x else a) (.zero false)

/-- What a scaled write of one block leaves: the scale code, the element codes and the flags. -/
structure BlockOut where
  scale : Nat
  codes : List Nat
  flags : Nat
  deriving DecidableEq, Repr

/-- The scaled write of one block, C_out = mc * 2^ec being positive, finite and normal (R457). -/
def writeBlock (xs : List Val) (mc : Nat) (ec : Int) (f : Fmt) (g mode subn : Nat) : BlockOut :=
  let bad := xs.any fun v => match v with | .nan => true | .inf _ => true | _ => false
  if bad then ⟨if g = 1 then 0xFF else 0x7F, xs.map fun _ => 0, fNV⟩
  else
    match blockMax xs with
    | .fin _ m e =>
      let sc : Nat × Nat × Int :=
        if g = 1 then
          let p := min (max (logQuotient m mc + (e - ec) - f.emax) (-127)) 127
          ((p + 127).toNat, 1, p)
        else
          let c := ue4m3Up (2 * m) (mc * f.maxpos2) (e - ec)
          match decodeScale 2 c with
          | .fin _ k d => (c, k, d)
          | _ => (c, 1, 0)
      let out := xs.map fun x =>
        match x with
        | .fin n xm xe => encodeElem f mode subn (oddQuotient 24 n xm (mc * sc.2.1) (xe - ec - sc.2.2))
        | v => encodeElem f mode subn v
      ⟨sc.1, out.map (·.1), out.foldl (fun a x => a ||| x.2) 0⟩
    | _ =>
      ⟨if g = 1 then 0x7F else 0x38, xs.map fun x => (encodeElem f mode subn (.zero x.neg)).1, 0⟩

/-- C_out may scale a write: positive, finite and normal (R456). -/
def coarseUsable (c : Nat) : Bool :=
  !bit c 31 && decide (1 ≤ (c / 2 ^ 23) % 256) && decide ((c / 2 ^ 23) % 256 ≤ 254)

/-- A block of a scaled write under any C_out (R456, R457). -/
def scaledBlock (xs : List Val) (cout : Nat) (f : Fmt) (g mode subn : Nat) : BlockOut :=
  if coarseUsable cout then
    match decodeFloat fp32 cout with
    | .fin _ mc ec => writeBlock xs mc ec f g mode subn
    | _ => ⟨if g = 1 then 0xFF else 0x7F, xs.map fun _ => 0, fNV⟩
  else ⟨if g = 1 then 0xFF else 0x7F, xs.map fun _ => 0, fNV⟩

/-! ### Split products (R480 to R484) -/

/-- A finite value truncated toward zero to 8 significant bits. -/
def trunc8 : Val → Val
  | .fin n m e => let k := Nat.log2 m + 1 - 8; .fin n (m / 2 ^ k) (e + k)
  | v => v

/-- A finite value rounded to 8 significant bits at nearest-even. -/
def near8 : Val → Val
  | .fin n m e => let k := Nat.log2 m + 1 - 8; .fin n (roundShift 0 n m k) (e + k)
  | v => v

/-- The exact difference of two finite values. -/
def subExact (a b : Val) : Val := (sumVals [a, b.negate]).1

/-- The pieces of a finite non-zero value (R480); zeros, infinities and NaNs are never split (R481). -/
def splitPieces (x : Val) : Nat → List Val
  | 0 => []
  | 1 => match x with
    | .fin .. => [near8 (roundOdd24 x)]
    | _ => [x]
  | n + 1 => match x with
    | .fin .. => let p := trunc8 x; p :: splitPieces (subExact x p) n
    | _ => [x]

/-- Pieces of a SPLIT code. -/
def splitCount (split : Nat) : Nat := if split = 1 then 2 else 3

/-- The piece pairs retained when both operands are FP32 (R482), 1-based. -/
def retained (split i j : Nat) : Bool :=
  if split = 3 then true
  else if split = 2 then decide (i + j ≤ 4)
  else decide (i + j ≤ 3)

/-- Numbering a list from 1. -/
def numbered {α : Type} : Nat → List α → List (Nat × α)
  | _, [] => []
  | n, a :: t => (n, a) :: numbered (n + 1) t

/-- The split product of a pair of elements (R483): `sa` and `sb` say which operand is FP32. -/
def splitProd (split : Nat) (sa sb : Bool) (a b : Val) : Val × Nat :=
  match a, b with
  | .fin .., .fin .. =>
    if split = 0 ∨ (sa = false ∧ sb = false) then a.mul b
    else
      let pa := if sa then splitPieces a (splitCount split) else [a]
      let pb := if sb then splitPieces b (splitCount split) else [b]
      let terms := (numbered 1 pa).flatMap fun (i, x) =>
        (numbered 1 pb).filterMap fun (j, y) =>
          if (sa && sb) = false ∨ retained split i j = true then some (x.mul y).1 else none
      sumVals terms
  | _, _ => a.mul b

/-! ### Dot products (R471 to R476, R489, R490) -/

/-- Cutting a list into runs of `n` (fuel: its length). -/
def chunksOf {α : Type} (n : Nat) : Nat → List α → List (List α)
  | 0, _ => []
  | _, [] => []
  | fuel + 1, l => l.take n :: chunksOf n fuel (l.drop n)

/-- One Stepwise step: the products and the accumulator summed exactly, one rounding (R471). -/
def stepwiseStep (subn : Nat) (ps : List (Val × Nat)) (acc : Val) (fl : Nat) : Val × Nat :=
  let (sum, f1) := sumVals (acc :: ps.map (·.1))
  let (r, f2) := roundFp32 subn sum
  (r, fl ||| f1 ||| f2 ||| ps.foldl (fun a p => a ||| p.2) 0)

/-- A term truncated toward zero to a multiple of 2^u (R474). -/
def truncTo (u : Int) : Val → Val
  | .fin n m e =>
    if u ≤ e then .fin n m e
    else let k := m / 2 ^ (u - e).toNat; if k = 0 then .zero n else .fin n k u
  | v => v

/-- The greatest floor(log2) among finite non-zero terms (R474). -/
def topLog : List Val → Option Int
  | [] => none
  | .fin _ m e :: t => match topLog t with
    | some x => some (max x (Val.log m e))
    | none => some (Val.log m e)
  | _ :: t => topLog t

/-- One Rounded-product group (R474, R475). -/
def roundedGroup (subn : Nat) (ps : List (Val × Nat)) (acc : Val) (fl : Nat) : Val × Nat :=
  let rp := ps.map fun (v, f) => let (r, g) := roundFp32 subn v; (r, f ||| g)
  let terms := acc :: rp.map (·.1)
  let fp := fl ||| rp.foldl (fun a p => a ||| p.2) 0
  let odd := terms.any fun v => match v with | .nan => true | .inf _ => true | _ => false
  if odd then
    let (sum, f1) := sumVals terms
    let (r, f2) := roundFp32 subn sum
    (r, fp ||| f1 ||| f2)
  else
    let x := (topLog terms).getD 0
    let (sum, _) := sumVals (terms.map (truncTo (x - 26)))
    let (r, f2) := roundFp32 subn sum
    let nx := if r.same (sumVals terms).1 then 0 else fNX
    (r, fp ||| (f2 &&& (fOF ||| fUF ||| fNV ||| fFZ)) ||| nx)

/-- Folding groups into an accumulator. -/
def foldGroups (step : List (Val × Nat) → Val → Nat → Val × Nat) : List (List (Val × Nat)) → Val → Nat → Val × Nat
  | [], acc, fl => (acc, fl)
  | g :: t, acc, fl => let (a, f) := step g acc fl; foldGroups step t a f

/-- An FP32 dot product from its products along K: Stepwise or Rounded-product (R471, R474). -/
def dotFp (stepwise : Bool) (subn : Nat) (ps : List (Val × Nat)) (acc : Val) : Val × Nat :=
  if stepwise then foldGroups (stepwiseStep subn) (chunksOf 16 ps.length ps) acc 0
  else foldGroups (roundedGroup subn) (chunksOf 64 ps.length ps) acc 0

/-- The exact integer of an integer-valued value. -/
def Val.toInt : Val → Int
  | .fin n m e => let k : Int := (m * 2 ^ e.toNat : Nat); if n then -k else k
  | _ => 0

/-- One addition to an INT32 accumulator: saturate or wrap, with OF (R490). -/
def addInt32 (wrap : Bool) (acc d : Int) : Int × Nat :=
  let x := acc + d
  if x < -2147483648 ∨ 2147483647 < x then
    (if wrap then signed (x % 4294967296).toNat 32 else if x < 0 then -2147483648 else 2147483647, fOF)
  else (x, 0)

/-- An INT32 dot product (R489, R490): a TER2 code 0b10 adds nothing beyond its NV. -/
def dotInt (stepwise wrap : Bool) (ps : List (Val × Nat)) (acc : Int) : Int × Nat :=
  let n := if stepwise then 16 else 64
  (chunksOf n ps.length ps).foldl (fun (a, f) g =>
    let d := g.foldl (fun x p => x + p.1.toInt) (0 : Int)
    let (a', f') := addInt32 wrap a d
    (a', f ||| f' ||| g.foldl (fun x p => x ||| p.2) 0)) (acc, 0)

/-! ### Vector operations (R492 to R496) -/

/-- The order of MIN and MAX: -0 below +0 (R495). -/
def Val.le (a b : Val) : Bool :=
  match a, b with
  | .inf true, _ => true
  | _, .inf false => true
  | .inf false, _ => false
  | _, .inf true => false
  | .zero x, .zero y => x || !y
  | .zero _, y => !y.neg
  | x, .zero _ => x.neg
  | .fin x m e, .fin y n f =>
    if x = true ∧ y = false then true
    else if x = false ∧ y = true then false
    else if x then (Val.fin false n f).absLe (.fin false m e)
    else (Val.fin false m e).absLe (.fin false n f)
  | _, _ => true

/-- MIN, MAX, MINNUM, MAXNUM on floating-point lanes. -/
def minMax (greater number : Bool) (a b : Val) : Val :=
  if a = .nan ∧ b = .nan then .nan
  else if a = .nan then (if number then b else .nan)
  else if b = .nan then (if number then a else .nan)
  else if greater then (if a.le b then b else a)
  else if a.le b then a else b

/-- Integer lanes of width `w`: add, subtract, multiply under IOVF (R490, R492). -/
def intLane (w : Nat) (wrap : Bool) (x : Int) : Nat × Nat :=
  let lo : Int := -(2 ^ (w - 1) : Int)
  let hi : Int := (2 ^ (w - 1) : Int) - 1
  let put (v : Int) : Nat := (v % (2 ^ w : Int)).toNat
  if x < lo ∨ hi < x then (if wrap then put x else if x < 0 then put lo else put hi, fOF)
  else (put x, 0)

/-! ### Packing (R420 to R422) -/

/-- Element `i` of width `w` of an array that starts at byte `a`. -/
def elemAt (rd : Nat → Nat → List Byte) (a w i : Nat) : Nat :=
  (leNat (rd (a + i * w / 8) ((i * w % 8 + w + 7) / 8)) / 2 ^ (i * w % 8)) % 2 ^ w

/-- Elements packed without gaps, lower index in lower bits. -/
def packElems (w : Nat) (codes : List Nat) : List Byte :=
  natLe (codes.foldr (fun c acc => acc * 2 ^ w + c % 2 ^ w) 0) ((codes.length * w + 7) / 8)

end Sys2Proof.Machine
end

