-- ==== Sys2Proof/Machine/CollOps.lean ====
section
/-! DEFINITION. Collective groups as other units use them (chapter 16): definitions and members, resources, engine
messages, aborts, losses and re-forming. -/

namespace Sys2Proof.Machine

/-! ### Definitions and members (R833 to R835) -/

/-- A value of a group's record object. -/
def groupObj (s : State) (g sub : Nat) : Nat := objAt s (0x7400 + g - 1) sub

/-- Extent of a sub-block on an axis. -/
def groupExtent (s : State) (g axis : Nat) : Nat := coord (groupObj s g 2) axis + 1

/-- Positions of a sub-block. -/
def groupPositions (s : State) (g : Nat) : Nat :=
  groupExtent s g 0 * groupExtent s g 1 * groupExtent s g 2 * groupExtent s g 3

/-- The address at a sub-block position (R833, R834). -/
def positionAddr (s : State) (g i : Nat) : Nat :=
  let eX := groupExtent s g 1
  let eY := groupExtent s g 2
  let eZ := groupExtent s g 3
  let at_ (axis n : Nat) : Nat := (coord (groupObj s g 1) axis + n) % max 1 (extent s axis) * 16 ^ (3 - axis)
  at_ 0 (i / (eX * eY * eZ)) + at_ 1 (i / (eY * eZ) % eX) + at_ 2 (i / eZ % eY) + at_ 3 (i % eZ)

/-- Bit `i` of EXCLUDE; missing bytes read as zero. -/
def excluded (s : State) (g i : Nat) : Bool := bit ((strAt s (0x7400 + g - 1) 0x14).getD (i / 8) 0).toNat (i % 8)

/-- Inserting into a rising list. -/
def insertRising (a : Nat) : List Nat → List Nat
  | [] => [a]
  | b :: t => if a ≤ b then a :: b :: t else b :: insertRising a t

/-- Sorting a list into rising order. -/
def rising (l : List Nat) : List Nat := l.foldl (fun acc a => insertRising a acc) []

/-- The members that a definition gives, ascending (R834, R835). -/
def definedMembers (s : State) (g : Nat) : List Nat :=
  rising (((List.range (groupPositions s g)).filter fun i => !excluded s g i).map (positionAddr s g))

/-- Rank of an address. -/
def rankIn (members : List Nat) (addr : Nat) : Option Nat := findIdx (fun a => a == addr) members

/-- This sled's rank in a group, 0xFFFF when it is no member. -/
def myRank (s : State) (g : Nat) : Nat := (rankIn (groupAt s g).members (sledAddress s)).getD 0xFFFF

/-- MEMBER_MAP of a list of addresses: bit i for sub-block position i. -/
def memberMap (s : State) (g : Nat) (members : List Nat) : List Byte :=
  (List.range ((groupPositions s g + 7) / 8)).map fun k =>
    BitVec.ofNat 8 (sumTo 8 fun i =>
      flag (decide (8 * k + i < groupPositions s g) && members.contains (positionAddr s g (8 * k + i))) i)

/-- CRC of a definition, as ARM_HELLO carries it. -/
def definitionCrc (s : State) (g : Nat) : Nat :=
  crc32c (natLe (groupObj s g 1) 2 ++ natLe (groupObj s g 2) 2 ++ natLe (groupObj s g 3) 1 ++ natLe (groupObj s g 4) 1 ++
    natLe (groupObj s g 5) 1 ++ natLe (groupObj s g 6) 4 ++ natLe (groupObj s g 7) 1 ++ natLe (groupObj s g 8) 2 ++
    strAt s (0x7400 + g - 1) 0x14)

/-- A group is armed for programs and layers: ARMED or REFORMING is not enough, it must be ARMED. -/
def groupArmed (s : State) (g : Nat) : Bool := decide (1 ≤ g) && decide (g ≤ 1024) && decide ((groupAt s g).state = 2)

/-! ### Resources (R837, R863, R864, R873) -/

/-- Active tiles. -/
def activeTiles (s : State) : Nat := (s.tiles.filter fun (_, x) => x.state = .active).length

/-- Object 0x7802:00. -/
def hamperChunks (s : State) : Nat := activeTiles s * objAt s 0x7800 0 / max 1 (objAt s 0x7801 0)

/-- Sum of a sub-entry over the groups that hold resources. -/
def sumGroups (s : State) (sub : Nat) : Nat :=
  s.coll.groups.foldl (fun n (g, x) => if x.state = 0 then n else n + groupObj s g sub) 0

/-- Objects 0x7803:00 and 0x7805:00. -/
def hamperReserved (s : State) : Nat := sumGroups s 4
def adderReserved (s : State) : Nat := sumGroups s 8

/-- The highest-numbered DISABLED queue of the pool (R360). -/
def freeQueue (s : State) : Option Nat :=
  (firstFrom 4064 0 fun i => decide ((queueAt s (4063 - i)).state = .disabled)).map (4063 - ·)

/-! ### Engine messages (R861) -/

/-- An engine message of this sled to one member. -/
def engineTo (g code epoch cseq : Nat) (extra : List Byte) (dest : Nat) (s : State) : State :=
  submitSlab (engineSlab s dest code g epoch cseq (myRank s g) extra) s

/-- An engine message to every other address of a list. -/
def engineToAll (g code epoch cseq : Nat) (extra : List Byte) (dests : List Nat) (s : State) : State :=
  forEach (fun d s => if d = sledAddress s then s else engineTo g code epoch cseq extra d s) dests s

/-! ### Collectives of a group -/

/-- The group takes part in collectives: ARMED, or ARMING as if it were (R841). -/
def Group.runs (x : Group) : Bool := decide (x.state = 1) || decide (x.state = 2)

/-- The collective of a CSEQ. -/
def Group.coll (x : Group) (cseq : Nat) : Option Collective := x.colls.find? fun c => c.cseq = cseq

/-- Changing a collective. -/
def modCollective (g cseq : Nat) (f : Collective → Collective) (s : State) : State :=
  modGroup g (fun x => { x with colls := x.colls.map fun c => if c.cseq = cseq then f c else c }) s

/-- A slab of the collective has moved: the watchdog restarts (R881, R882). -/
def touch (g cseq : Nat) (s : State) : State := modCollective g cseq (fun c => { c with watch := s.now, moved := true }) s

/-- Fields of a descriptor's body (the operation table). -/
def Collective.src (c : Collective) : Nat := field c.data 8 8
def Collective.dst (c : Collective) : Nat := if c.op = 3 then field c.data 32 8 else field c.data 16 8
def Collective.size (c : Collective) : Nat := field c.data 24 4
def Collective.isAlley (c : Collective) : Bool := decide (c.op = 1) && bit (field c.data 28 1) 0
def Collective.rs (c : Collective) : Nat := field c.data 32 4
def Collective.segs (c : Collective) : Nat := field c.data 36 4
def Collective.q (c : Collective) : Nat := field c.data 40 4
def Collective.slots (c : Collective) : Nat := field c.data 44 4
def Collective.rr (c : Collective) : Nat := field c.data 48 4
def Collective.nel (c : Collective) : Nat := field c.data 52 2
def Collective.fmt (c : Collective) : Nat := field c.data 54 1 % 16

/-- Bytes of one contribution, and its segments (R859). -/
def Collective.addBytes (c : Collective) : Nat := c.nel * (if c.fmt = 0 then 4 else 2)
def Collective.addSegs (c : Collective) : Nat := (c.addBytes + 95) / 96

/-- The number format of FMT. -/
def addFormat (k : Nat) : Fmt := (Fmt.ofCode k).getD .fp32

/-- The layer whose Ship or Gather a collective is. -/
def layerOf (s : State) (c : Collective) : Option Layer := if c.ofLayer then s.junc.layer else none

/-- n(d): experts whose owner is the member of rank d. -/
def Layer.owned (l : Layer) (d : Nat) : Nat := (l.owners.filter fun o => o.map (·.1) = some d).length

/-! ### What a collective sends (R849 to R853, R857) -/

/-- Capacities by rank (R850): of CAP_TABLE, or of the layer's owners (R749). -/
def capacities (s : State) (m : Nat) (c : Collective) : List Nat :=
  match layerOf s c with
  | some l => (List.range m).map fun d => l.owned d * l.cap
  | none => (List.range m).map fun d => leNat (hbmRead s (field c.data 24 8 + 4 * d) 4)

/-- The records, pads left out, that an EXCHANGE_V holds for a rank: place and bytes (R850, R851). -/
def recordsFor (s : State) (caps : List Nat) (c : Collective) (d : Nat) : List (Nat × List Byte) :=
  match layerOf s c with
  | some l => (l.lists.getD d []).map fun e => (e.place, padTo e.data c.rs)
  | none =>
    let base := c.src + c.rs * (caps.take d).foldl (· + ·) 0
    ((List.range (caps.getD d 0)).map fun q => (q, hbmRead s (base + c.rs * q) c.rs)).filter fun x =>
      decide (field x.2 0 4 ≠ 0xFFFFFFFF)

/-- The data of the stream slabs to a rank (R857). -/
def streamTo (s : State) (caps : List Nat) (c : Collective) (d : Nat) : List (List Byte) :=
  if c.op = 1 then
    let bs := hbmRead s (c.src + d * c.size) c.size
    chunksOf 96 bs.length bs
  else (recordsFor s caps c d).flatMap fun x => natLe x.1 4 :: chunksOf 96 x.2.length x.2

/-- The collective that runs or drains. -/
def Group.active (x : Group) : Option Collective := x.colls.find? fun c => c.state ≠ .armed

/-- An engine message about a collective to a rank. -/
def tellRank (g code : Nat) (c : Collective) (extra : List Byte) (d : Nat) (s : State) : State :=
  let x := groupAt s g
  engineTo g code x.epoch c.cseq extra (x.members.getD d 0xFFFF) s

/-- A pad place's header (R748). -/
def padHeader : List Byte := natLe 0xFFFFFFFF 4 ++ List.replicate 12 0

/-- Writing to DST. -/
def putDst (a : Nat) (bs : List Byte) (s : State) : State := hbmWrite a bs s

/-- Address of place q of rank r (R852). -/
def placeAddr (c : Collective) (m r q : Nat) : Nat :=
  c.dst + c.rs * ((q / max 1 c.segs * m + r) * c.segs + q % max 1 c.segs)

/-- Slabs of one record of an EXCHANGE_V stream. -/
def Collective.unit (c : Collective) : Nat := 1 + (c.rs + 95) / 96

/-- The slab can be written: the place of its record is known. -/
def placeKnown (c : Collective) (x : InSlab) : Bool :=
  decide (c.op = 1) || decide (x.pos % c.unit = 0) || decide (tabGet 0 (2 ^ 32 * x.rank + x.pos / c.unit) c.places ≠ 0)

/-- Channel 1 writes one received slab. -/
def writeInSlab (g : Nat) (c : Collective) (x : InSlab) (s : State) : State :=
  let m := (groupAt s g).members.length
  if c.op = 1 then putDst (c.dst + x.rank * c.size + 96 * x.pos) x.data s
  else
    let k := 2 ^ 32 * x.rank + x.pos / c.unit
    if x.pos % c.unit = 0 then
      modCollective g c.cseq (fun c => { c with places := tabPut 0 k (field x.data 0 4 + 1) c.places }) s
    else putDst (placeAddr c m x.rank (tabGet 0 k c.places - 1) + 96 * (x.pos % c.unit - 1)) x.data s

/-! ### The hamper (R863 to R867, R593, R905) -/

/-- The logical index of the tile in whose hamper share a chunk lies (R863). -/
def chunkTile (s : State) (n : Nat) : Nat := n * objAt s 0x7801 0 / max 1 (objAt s 0x7800 0)

/-- An active tile holds the logical index. -/
def shareLives (s : State) (l : Nat) : Bool := s.tiles.any fun (_, x) => decide (x.state = .active) && decide (x.logical = l)

/-- Chunks that no group holds, in shares of active tiles, the lowest numbers first (DESIGN CHOICE, log entry 143). -/
def freeChunks (s : State) (k : Nat) : List Nat :=
  let held := s.coll.groups.flatMap fun (_, x) => x.chunks
  ((List.range (144 * objAt s 0x7800 0 / max 1 (objAt s 0x7801 0))).filter fun n =>
    !held.contains n && shareLives s (chunkTile s n)).take k

/-- Slab places of a chunk (R860). -/
def chunkSlabs (s : State) : Nat := max 1 (objAt s 0x7801 0 * 1024 / 96)

/-- A received slab lies in the share of a logical tile: its place in the group's inbound chunks, all but the first it
holds. -/
def inShare (s : State) (x : Group) (l : Nat) (y : InSlab) : Bool :=
  match (x.chunks.drop 1)[y.place / chunkSlabs s]? with
  | some n => decide (chunkTile s n = l)
  | none => false

/-- The lowest slab place that no waiting slab takes. -/
def freeSlabPlace (c : Collective) : Nat :=
  (firstFrom c.inbox.length 0 fun k => c.inbox.all fun y => decide (y.place ≠ k)).getD c.inbox.length

/-- Positions granted again, once for each chunk of a source's stream (R905). -/
def grantAgain (g : Nat) (c : Collective) (s : State) : State :=
  let key (x : Nat × Nat) : Nat × Nat := (x.1, (x.2 - 1) / chunkSlabs s)
  forEach (fun k s =>
    let top := (c.regrant.filter fun x => key x = k).foldl (fun m x => max m x.2) 0
    tellRank g 0x83 c (natLe top 4) k.1 s) (c.regrant.map key).eraseDups s

/-- Lost positions of a group's streams are granted again as soon as it holds an inbound chunk of an active tile
(R867, R905). -/
def regrantGroup (g : Nat) (s : State) : State :=
  let x := groupAt s g
  if (x.chunks.drop 1).any fun n => shareLives s (chunkTile s n) then
    forEach (fun c s => if c.regrant = [] then s
      else modCollective g c.cseq (fun c => { c with regrant := [] }) (grantAgain g c s)) x.colls s
  else s

/-- The same for every group: a spare has brought its share into the hamper (R905). -/
def regrantAll (s : State) : State := forEach (fun (gx : Nat × Group) s => regrantGroup gx.1 s) s.coll.groups s

/-- What a collective loses with a hamper share: outbound data are staged again from SRC, and received slabs that channel 1
has not written are to be sent again (R905). -/
def restage (s : State) (x : Group) (l : Nat) (c : Collective) : Collective :=
  let gone (y : InSlab) : Bool := inShare s x l y && !y.written
  let out := if (x.chunks.take 1).any fun n => chunkTile s n = l then
      (List.range x.members.length).map (streamTo s c.caps c) else c.out
  if c.state = .armed ∨ c.op = 3 ∨ c.isAlley = true then c
  else { c with
    out := out
    inbox := c.inbox.filter fun y => !gone y
    seen := (c.inbox.filter gone).foldl (fun t y => tabPut 0 y.rank (tabGet 0 y.rank t - 2 ^ y.pos) t) c.seen
    regrant := c.regrant ++ (c.inbox.filter gone).map fun y => (y.rank, y.pos + 1) }

/-- The chunks of a group after a share is lost: free chunks of other shares stand in for those in it, as far as there are
any (DESIGN CHOICE, log entry 143). -/
def otherChunks (s : State) (l : Nat) : List Nat → List Nat → List Nat
  | [], _ => []
  | n :: t, free =>
    if chunkTile s n = l then
      match free with
      | m :: f => m :: otherChunks s l t f
      | [] => n :: otherChunks s l t []
    else n :: otherChunks s l t free

/-- A tile with a hamper share is fenced: nothing aborts, outbound chunks are staged again, and inbound positions are granted
again (R905). -/
def loseShare (l : Nat) (s : State) : State :=
  forEach (fun (gx : Nat × Group) s =>
    let x := groupAt s gx.1
    if x.chunks.any fun n => chunkTile s n = l then
      regrantGroup gx.1 (modGroup gx.1 (fun x => { x with
        colls := x.colls.map (restage s x l), chunks := otherChunks s l x.chunks (freeChunks s x.chunks.length) }) s)
    else s) s.coll.groups s

/-- The next received slab in a tile's share that its channel 1 can write: its group and collective with it. -/
def hamperReady (s : State) (l : Nat) : Option (Nat × Collective × InSlab) :=
  s.coll.groups.findSome? fun (g, x) =>
    match x.active with
    | some c => (c.inbox.find? fun y => placeKnown c y && !y.written && inShare s x l y &&
        !(decide (c.op = 2) && decide (y.pos % c.unit = 0) && decide (c.cap ≤ field y.data 0 4))).map fun y => (g, c, y)
    | none => none

/-- Channel 1 moves one hamper brick, a received slab, to DST; HAMPER_PLACE_FREED then frees its place (R593, R866). -/
def hamperBrick (l : Nat) (s : State) : State :=
  match hamperReady s l with
  | none => s
  | some (g, c, y) =>
    modCollective g c.cseq (fun c => { c with
      inbox := c.inbox.map fun z => if z.rank = y.rank ∧ z.pos = y.pos then { z with written := true } else z })
      (writeInSlab g c y s)

/-! ### Re-forming (R889 to R895) -/

/-- Proposed membership (R889). -/
def Group.proposal (x : Group) : List Nat := x.members.filter fun a => !x.lost.contains a

/-- Proposed epoch (R889). -/
def Group.nextEpoch (x : Group) : Nat := (x.epoch + 1) % 65536

/-- CRC of the proposed member map. -/
def proposalCrc (s : State) (g : Nat) : Nat := crc32c (memberMap s g (groupAt s g).proposal)

/-- REFORM to every proposed member (R890), unless a hold stands (R894). -/
def sendReform (g : Nat) (s : State) : State :=
  let x := groupAt s g
  if x.released = false then s
  else
    let lost := x.lost.take 40
    let body := natLe (proposalCrc s g) 4 ++ natLe lost.length 1 ++ lost.flatMap fun a => natLe a 2
    modGroup g (fun x => { x with lastSent := s.now }) (engineToAll g 0x86 x.nextEpoch 0 body x.proposal s)

/-- The ranges of memory that are a started collective's DST, by address and length (R849, R852, R853); Gather's vectors go to
the Junction. -/
def dstRanges (m : Nat) (c : Collective) : List (Nat × Nat) :=
  if c.state = .armed then []
  else if c.op = 1 then [(c.dst, m * c.size)]
  else if c.op = 2 then [(c.dst, c.rs * m * c.cap)]
  else if c.ofLayer then []
  else (numbered 0 c.expect).flatMap fun (k, e) => if e = 0 then [] else [(c.dst + c.rr * k, c.addBytes)]

/-- An abort leaves DST undefined (R888): every byte of it is a free value. -/
def undefineDst (g : Nat) (c : Collective) (s : State) : State :=
  forEach (fun (r : Nat × Nat) s =>
    let (k, s) := takeFree s
    hbmWrite r.1 ((List.range r.2).map (Config.undefinedByte k)) s) (dstRanges (groupAt s g).members.length c) s

/-- A collective's descriptor ends and its record is written; an abort leaves DST undefined, and a layer it belongs to ends
(R769, R888). -/
def endCollective (g : Nat) (c : Collective) (status cause result : Nat) (s : State) : State :=
  let q := (groupAt s g).queue
  let s := if status = 1 then undefineDst g c s else s
  let s := modGroup g (fun x => { x with colls := x.colls.filter fun y => y.index ≠ c.index ∨ y.cseq ≠ c.cseq }) s
  let s := flushRecords q (endDesc q c.index status cause result s)
  let s := if status = 1 then count 0x7810 2 1 s else s
  if c.ofLayer = false ∨ layerAwaits s c.index = false then s else if status = 0 then layerCollDone c.index s else abortLayer cause s

/-- The queue is returned to the pool, the page and the reservations are given back (R360, R840, R842).  While records wait for
ring space the queue is FLUSHING, and it and its page follow when they are written (R371). -/
def giveBack (g : Nat) (s : State) : State :=
  let q := (groupAt s g).queue
  let s := if q = 0xFFFF then s
    else
      let s := flushRecords q (flushUnstarted q 0 (modQueue q (fun x => { x with state := .flushing }) s))
      if (queueAt s q).flight = [] then retireQueue q s else s
  modGroup g (fun x => { state := x.state, cause := x.cause }) s

/-- A group becomes DEFINED with a cause in ARM_CAUSE (R843); a collective that it still runs ends ABORTED, DISSOLVED (R366; log
entry 138). -/
def makeDefined (g cause : Nat) (s : State) : State :=
  let s := forEach (fun c s => endCollective g c 1 0x7017 0 s) (groupAt s g).colls s
  glCause 4 (modGroup g (fun x => { x with state := 0, cause := cause }) (giveBack g s))

/-- Re-forming completes (R891, R895). -/
def completeReform (g : Nat) (s : State) : State :=
  let s := forEach (fun c s => endCollective g c 1 0x7018 0 s) (groupAt s g).colls s
  glCause 4 (count 0x7810 9 1 (modGroup g (fun x => { x with
    state := 2, epoch := x.nextEpoch, members := x.proposal, lost := [], reformFrom := [], released := false
    nextCseq := 0, colls := [], adderFlags := 0, alleyNext := [] }) s))

/-- What a proposal leads to: leaving, too few, completion, or waiting (R891 to R893). -/
def judgeProposal (g : Nat) (s : State) : State :=
  let x := groupAt s g
  let me := sledAddress s
  if x.state ≠ 3 then s
  else if x.lost.contains me then makeDefined g 3 s
  else if x.proposal.length < 2 then makeDefined g 4 s
  else if x.released && x.proposal.all fun a => decide (a = me) || x.reformFrom.contains a then completeReform g s
  else s

/-- A group enters REFORMING, or its proposal loses further members (R889, R890). -/
def reformGroup (g : Nat) (lost : List Nat) (s : State) : State :=
  let x := groupAt s g
  let more := lost.filter fun a => x.members.contains a && !x.lost.contains a
  if x.state = 2 then
    let s := glCause 4 (modGroup g (fun x => { x with
      state := 3, since := s.now, lost := x.lost ++ more, reformFrom := []
      released := decide (groupObj s g 9 = 0) }) s)
    judgeProposal g (sendReform g s)
  else if x.state = 3 ∧ more ≠ [] then
    judgeProposal g (sendReform g (modGroup g (fun x => { x with lost := x.lost ++ more, reformFrom := [] }) s))
  else s

/-! ### Aborts (R884 to R888) -/

/-- Counting an abort by its cause (object 0x7810). -/
def countAbort (cause : Nat) (s : State) : State :=
  if cause = 0x7011 then count 0x7810 3 1 s
  else if cause = 0x7001 then count 0x7810 4 1 s
  else if cause = 0x7014 then count 0x7810 7 1 s
  else if cause = 0x7015 then count 0x7810 8 1 s
  else if cause = 0x7012 ∨ cause = 0x7013 then count 0x7810 10 1 s
  else s

/-- A collective aborts on this member with the first cause it learns: ABORT to every other member, the GROUP_ABORT
record, and the completion record (R885, R888). -/
def abortCollective (g cause detector : Nat) (c : Collective) (s : State) : State :=
  let x := groupAt s g
  let s := engineToAll g 0x85 x.epoch c.cseq (natLe cause 2 ++ natLe detector 2) x.members s
  let s := record { cause := cause, cls := 3, unitType := utGroup, unit := g, queue := x.queue, tag := field c.data 4 4
                    detail0 := c.cseq + 65536 * x.epoch, detail1 := detector } s
  endCollective g c 1 cause 0 (countAbort cause s)

/-- Aborting a collective and re-forming the group without some members (R889). -/
def abortAndReform (g cause detector : Nat) (lost : List Nat) (c : Collective) (s : State) : State :=
  reformGroup g lost (abortCollective g cause detector c s)

/-- A member is lost (R884, R887, R889): the running collective aborts, or, when none runs, every armed one. -/
def memberLost (g addr : Nat) (s : State) : State :=
  let x := groupAt s g
  if (x.state ≠ 2 ∧ x.state ≠ 3) ∨ x.members.contains addr = false ∨ x.lost.contains addr = true then s
  else
    let s := match x.active with
      | some c => abortCollective g 0x7010 (myRank s g) c s
      | none => forEach (fun c s => abortCollective g 0x7010 (myRank s g) c s) x.colls s
    reformGroup g [addr] s

/-- A sled is lost to every group it belongs to (R887). -/
def lostToGroups (addr : Nat) (s : State) : State :=
  forEach (fun (gx : Nat × Group) s => memberLost gx.1 addr s) s.coll.groups s

/-- After a change of the failure map, groups with an unreachable member abort everything with LINK_DOWN (R886). -/
def checkReach (s : State) : State :=
  forEach (fun (gx : Nat × Group) s =>
    let x := groupAt s gx.1
    let gone := x.members.filter fun a => !x.lost.contains a && !reachable s a
    if (x.state = 2 ∨ x.state = 3) ∧ gone ≠ [] then
      reformGroup gx.1 gone (forEach (fun c s => abortCollective gx.1 0x7001 (myRank s gx.1) c s) x.colls s)
    else s) s.coll.groups s

/-- A program of a group ends by abort while a collective of it is RUNNING here (R884). -/
def programEndsCollective (g : Nat) (s : State) : State :=
  match (groupAt s g).active with
  | some c => if c.state = .running then abortAndReform g 0x7016 (myRank s g) [] c s else s
  | none => s

/-- The switch found no route for a slab of a group's collective (R813, R886). -/
def noRouteFor (g cseq : Nat) (s : State) : State :=
  let x := groupAt s g
  match x.colls.find? fun c => c.cseq = cseq with
  | some _ =>
    let s := forEach (fun c s => abortCollective g 0x7001 (myRank s g) c s) x.colls s
    reformGroup g [] s
  | none => s

end Sys2Proof.Machine
end

