-- ==== Sys2Proof/Machine/Tile.lean ====
section
/-! DEFINITION. Tiles as every unit uses them (chapters 10, 12 and 20): registers, tile-local memory, the checkpoint page,
ends of programs, fences, spares, replay and traps. -/

namespace Sys2Proof.Machine

/-! ### Tiles and their registers -/

/-- A tile. -/
def tileAt (s : State) (n : Nat) : Tile := tabGet {} n s.tiles

/-- Changing a tile. -/
def modTile (n : Nat) (f : Tile → Tile) (s : State) : State :=
  { s with tiles := tabPut {} n (f (tabGet {} n s.tiles)) s.tiles }

/-- Changing the program. -/
def modProg (f : Program → Program) (s : State) : State := { s with prog := s.prog.map f }

/-- A scalar register. -/
def Tile.sreg (x : Tile) (r : Nat) : Word := tabGet 0 r x.sregs

/-- Writing a scalar register. -/
def Tile.setS (r : Nat) (v : Word) (x : Tile) : Tile := { x with sregs := tabPut 0 r v x.sregs }

/-- Register `r` of window `w`; window 7 is MW7. -/
def Tile.wreg (x : Tile) (w r : Nat) : Word := tabGet 0 (16 * w + r) x.wregs

/-- Writing a window register. -/
def Tile.setW (w r : Nat) (v : Word) (x : Tile) : Tile := { x with wregs := tabPut 0 (16 * w + r) v x.wregs }

/-- A channel of a tile. -/
def Tile.chan (x : Tile) (c : Nat) : Channel := if c = 0 then x.chan0 else x.chan1

/-- Changing a channel of a tile. -/
def Tile.setChan (c : Nat) (f : Channel → Channel) (x : Tile) : Tile :=
  if c = 0 then { x with chan0 := f x.chan0 } else { x with chan1 := f x.chan1 }

/-! ### Numbering (R513 to R517) -/

/-- The tile is on the east die (R33). -/
def eastTile (n : Nat) : Bool := decide (n < 80)

/-- Tiles in a state, ascending. -/
def tilesIn (s : State) (st : TileState) : List Nat := (s.tiles.filter fun (_, x) => x.state = st).map (·.1)

/-- The tile that holds a logical index. -/
def tileOf (s : State) (l : Nat) : Option Nat :=
  (s.tiles.find? fun (_, x) => x.state = .active ∧ x.logical = l).map (·.1)

/-- The tiles of a program: logical indices below its tile count, fenced tiles not yet replaced among them. -/
def programTiles (s : State) (p : Program) : List Nat :=
  (s.tiles.filter fun (_, x) => decide (x.logical < p.tiles) && (x.state = .active || x.state = .fencedRun)).map (·.1)

/-- Renumbering logical indices in ascending tile number (R515, R517). -/
def renumber (s : State) : State :=
  let rec go : Nat → Tab Tile → Tab Tile
    | _, [] => []
    | k, (n, x) :: t =>
      if x.state = .active then (n, { x with logical := k }) :: go (k + 1) t
      else (n, { x with logical := 0xFF }) :: go k t
  { s with tiles := go 0 s.tiles }

/-- The active tiles' indices leave a gap. -/
def numberingGap (s : State) : Bool :=
  (List.range (activeTiles s)).any fun l => (tileOf s l).isNone

/-! ### Tile-local memory (R510 to R512, R570) -/

/-- A range lies in the program area or in the declared overflow window. -/
def inProgram (s : State) (p : Program) (a n : Nat) : Bool :=
  decide (a + n ≤ programEnd s) || (decide (0x200000 ≤ a) && decide (a + n ≤ 0x200000 + 65536 * p.window))

/-- A range touches the trap save area. -/
def inSaveArea (a n : Nat) : Bool := decide (0x1FF000 < a + n) && decide (a < 0x200000)

/-- HBM address of a byte of a logical index's overflow window (R512). -/
def windowAddr (p : Program) (l a : Nat) : Nat :=
  let lin := l * (65536 * p.window) + (a - 0x200000)
  p.windowPages.getD (lin / pageBytes) 0 * pageBytes + lin % pageBytes

/-- One byte of a tile's local memory. -/
def tileByte (s : State) (p : Program) (n a : Nat) : Byte :=
  if a < 0x200000 then memGet (tileAt s n).scratch a else memGet s.hbm (windowAddr p (tileAt s n).logical a)

/-- Bytes of a tile's local memory. -/
def tileRead (s : State) (p : Program) (n a len : Nat) : List Byte :=
  if a + len ≤ 0x200000 then memRead (tileAt s n).scratch a len else (List.range len).map fun i => tileByte s p n (a + i)

/-- Writing one byte of a tile's local memory. -/
def tilePut (p : Program) (n a : Nat) (b : Byte) (s : State) : State :=
  if a < 0x200000 then modTile n (fun x => { x with scratch := memPut x.scratch a b }) s
  else hbmWrite (windowAddr p (tileAt s n).logical a) [b] s

/-- Writing bytes of a tile's local memory. -/
def tileWrite (p : Program) (n a : Nat) (bs : List Byte) (s : State) : State :=
  if a + bs.length ≤ 0x200000 then modTile n (fun x => { x with scratch := memWrite x.scratch a bs }) s
  else
    let s' := forEach (fun i s => tilePut p n (a + i) (bs.getD i 0) s) (List.range bs.length) s
    { s' with tiers := { s'.tiers with hbmPoison :=
        if a % 8 = 0 ∧ bs.length % 8 = 0 ∧ 0x200000 ≤ a then
          (List.range (bs.length / 8)).foldl (fun t k =>
            clearPoison (windowAddr p (tileAt s n).logical (a + 8 * k)) 8 t) s.tiers.hbmPoison
        else s'.tiers.hbmPoison } }

/-- A window range covers poison (R523). -/
def tilePoisoned (s : State) (p : Program) (n a len : Nat) : Bool :=
  decide (0x200000 ≤ a) && (List.range ((a + len - 1) / 8 - a / 8 + 1)).any fun i =>
    poisoned s.tiers.hbmPoison (windowAddr p (tileAt s n).logical (8 * (a / 8 + i))) 8

/-- A window range lies on a fenced stack (R528). -/
def tileReachable (s : State) (p : Program) (n a len : Nat) : Bool :=
  decide (a < 0x200000) || (List.range ((a + len - 1) / 512 - a / 512 + 1)).all fun i =>
    hbmValid s (windowAddr p (tileAt s n).logical (max a (512 * (a / 512 + i))))

/-! ### The checkpoint page (R1074, R1075) -/

/-- HBM address of a logical index's checkpoint entry. -/
def entryAddr (p : Program) (l : Nat) : Nat := p.ckpt * pageBytes + 512 * l

/-- Writing a tile's entry for the step that starts at `pc` (R1074). -/
def writeEntry (p : Program) (x : Tile) (pc step : Nat) (s : State) : State :=
  hbmWrite (entryAddr p x.logical)
    (natLe pc 8 ++ (List.range 32).flatMap (fun r => natLe (x.sreg r).toNat 8) ++ natLe x.lc.toNat 8 ++ natLe x.csa 4 ++
      natLe x.csb 4 ++ natLe x.csd 4 ++ natLe x.flags 2 ++ natLe 0 2 ++ natLe 0 4 ++ natLe step 4 ++ natLe 0 216) s

/-- QSUBS of a logical index. -/
def qsubsOf (s : State) (p : Program) (l : Nat) : Nat := leNat (hbmRead s (entryAddr p l + 288) 4)

/-- Setting QSUBS of a logical index. -/
def setQsubs (p : Program) (l v : Nat) (s : State) : State := hbmWrite (entryAddr p l + 288) (natLe v 4) s

/-- A tile as its checkpoint entry restores it: windows discarded, UPC at 0x008 (R1076). -/
def reloadTile (p : Program) (n : Nat) (s : State) : State :=
  let a := entryAddr p (tileAt s n).logical
  let e := hbmRead s a 512
  modTile n (fun x => { x with
    works := true, atStep := false, waits := false, stopped := false, endedAt := none, ops := [], chan0 := {}, chan1 := {}
    issued := 0, retired := 0, inTrap := false, framed := false, resume := false, movStalled := false, burst := 0
    sregs := (List.range 32).foldl (fun t r => tabPut 0 r (BitVec.ofNat 64 (field e (8 + 8 * r) 8)) t) []
    wregs := [], cwp := 0, occ := 1, spill := 0
    pc := field e 0 8 % 2 ^ 32, lc := BitVec.ofNat 64 (field e 264 8), csa := field e 272 4, csb := field e 276 4
    csd := field e 280 4, flags := field e 284 2, upc := 8 }) s

/-! ### A program start on a tile (R616 to R626, R1076) -/

/-- The stream-table entry that names a logical index: CODE_OFFSET, CODE_LENGTH and LOAD_ADDR (R621). -/
def streamOf (s : State) (image l : Nat) : Nat × Nat × Nat :=
  let cnt := leNat (hbmRead s (image + 32) 2)
  let tab := image + leNat (hbmRead s (image + 36) 4)
  match (List.range cnt).find? fun k =>
    let e := hbmRead s (tab + 16 * k) 16
    decide (field e 0 2 ≤ l) && decide (l ≤ field e 2 2) with
  | some k => let e := hbmRead s (tab + 16 * k) 16; (field e 4 4, field e 8 4, field e 12 4)
  | none => (0, 0, 0)

/-- Copying a tile's instruction stream into its program area (R625). -/
def copyStream (p : Program) (n : Nat) (s : State) : State :=
  let (off, len, load) := streamOf s p.image (tileAt s n).logical
  let code := hbmRead s (p.image + off) (16 * len)
  modTile n (fun x => { x with scratch := memWrite x.scratch load code }) s

/-- A program starts on a tile (R625, R626). -/
def startOnTile (p : Program) (n : Nat) (s : State) : State :=
  let s := if (tileAt s n).burst = 0 then s else count 0x5820 6 1 s
  let load := (streamOf s p.image (tileAt s n).logical).2.2
  let s := copyStream p n s
  let s := modTile n (fun x => { x with
    works := true, atStep := false, waits := false, stopped := false, endedAt := none, ops := [], chan0 := {}, chan1 := {}
    issued := 0, retired := 0, inTrap := false, framed := false, resume := false, irqs := 0, movStalled := false
    burst := 0, sregs := tabPut 0 2 (BitVec.ofNat 64 p.argument) (tabPut 0 1 (BitVec.ofNat 64 x.logical) [])
    csa := 0x3F800000, csb := 0x3F800000, csd := 0x3F800000, flags := 0, pc := load, upc := 8 }) s
  writeEntry p (tileAt s n) load 0 s

/-! ### Spares (R516, R517) -/

/-- The spare that replaces a tile: the lowest-numbered of the same die, else of the other (R516). -/
def spareFor (s : State) (n : Nat) : Option Nat :=
  let sp := tilesIn s .spare
  match sp.find? fun m => eastTile m == eastTile n with
  | some m => some m
  | none => sp.head?

/-- The spare takes the fenced tile's logical index (R516) and brings its share into the hamper (R905). -/
def substitute (n : Nat) (s : State) : State × Option Nat :=
  match spareFor s n with
  | none => (s, none)
  | some m =>
    let l := (tileAt s n).logical
    (regrantAll (count 0x5120 3 1 (modTile m (fun x => { x with state := .active, logical := l })
      (modTile n (fun x => { x with logical := 0xFF }) s))), some m)

/-- Fenced tiles that still hold a logical index. -/
def vacated (s : State) : List Nat :=
  (s.tiles.filter fun (_, x) => x.state = .fencedRun ∧ x.logical ≠ 0xFF).map (·.1)

/-- Every fenced tile that still holds an index is replaced, as far as spares remain (R1096). -/
def substituteAll (s : State) : State := forEach (fun n s => (substitute n s).1) (vacated s) s

/-! ### Life state by capability (R180, R194) -/

/-- The JOINED criteria of R194. -/
def fullCapability (s : State) : Bool := decide (activeTiles s = 144) && decide (s.contain.stackFences = 0)

/-- JOINED and RUNNING fall to DEGRADED when capability is lost (R180). -/
def checkCapability (s : State) : State :=
  if (s.life.state = .joined ∨ s.life.state = .running) ∧ fullCapability s = false then enterLife .degraded s else s

/-! ### The end of a program -/

/-- Tiles of a program stop and keep their scratchpads. -/
def stopTiles (ns : List Nat) (s : State) : State :=
  forEach (fun n s => modTile n (fun x => { x with
    works := false, atStep := false, waits := false, ops := [], chan0 := {}, chan1 := {}, inTrap := false, framed := false
    resume := false, irqs := 0, movStalled := false, upc := 4 }) s) ns s

/-- Peer accesses of tile movers are forgotten. -/
def dropMoverAccesses (s : State) : State :=
  s.modLinks fun l => { l with accesses := l.accesses.filter fun (_, a) =>
    match a with
    | some a => match a.user with | .mover _ _ | .promote _ => false | .copy _ _ => true
    | none => false }

/-- Pages, comparator and indices of an ended program return (R517, R542, R623). -/
def releaseProgram (p : Program) (s : State) : State :=
  let pages := p.arena ++ p.promoting.map (·.2)
  let hbm := pages.filterMap fun l => match l with | .hbm n => some n | _ => none
  let cel := pages.filterMap fun l => match l with | .cellar n => some n | _ => none
  let hst := pages.filterMap fun l => match l with | .host n => some n | _ => none
  let s := markHbm false (p.ckpt :: (hbm ++ p.windowPages)) s
  let s := s.modTiers fun t => { t with
    cellarUsed := markPages false cel t.cellarUsed, hostUsed := markPages false hst t.hostUsed }
  let s := match p.cmp with | some c => clearPackageCmp c s | none => s
  let s : State := { s with prog := none, junc := { s.junc with stepTaps := 0 } }
  let s := if s.life.state = .running then enterLife .joined s else s
  let s := substituteAll s
  checkCapability (if numberingGap s then renumber s else s)

/-- The program's end: OR of the flag sets, its descriptor's end, and what it held (R388, 0x4101:00). -/
def endProgram (p : Program) (status cause : Nat) (s : State) : State :=
  let ts := programTiles s p
  let fl := ts.foldl (fun a n => a ||| (tileAt s n).flags) 0
  let s := s.modTiers fun t => { t with lastFlags := fl }
  let s := dropMoverAccesses (stopTiles ts s)
  let s := modDesc p.queue p.index (fun d => { d with replayed := p.replayed }) s
  releaseProgram p (endDesc p.queue p.index status cause (if status = 0 then p.exit.toNat else 0) s)

/-- The cause of a PROGRAM_ABORT record: an access fault with a cause that no such record carries is ACCESS_FAULT there
(R652, R661, R1094; DEDUCED, log entry 144). -/
def recordCause (cause : Nat) : Nat := if cause = 0x5006 ∨ cause = 0x7001 then 0x5012 else cause

/-- A program aborts: its PROGRAM_ABORT record, its collectives, and its end (R562, R884, R1051, R1055, R1088). -/
def abortProgram (cause detail0 detail1 : Nat) (s : State) : State :=
  match s.prog with
  | none => s
  | some p =>
    let tag := match (queueAt s p.queue).desc p.index with | some d => field d.data 4 4 | none => 0
    let s := record { cause := recordCause cause, cls := 4, unitType := utSled, unit := 0, tag := tag, queue := p.queue
                      detail0 := detail0, detail1 := detail1 } s
    let s := if p.group = 0 then s else programEndsCollective p.group s
    flushRecords p.queue (endProgram p 1 cause s)

/-- A program aborts with a record that carries its step number (R1055). -/
def abortAtStep (cause failed : Nat) (s : State) : State :=
  match s.prog with
  | some p => abortProgram cause p.step failed s
  | none => s

/-! ### Fences and replay (R516, R562, R643, R1076 to R1080) -/

/-- Every other tile of the program is stopped for a replay (R1076). -/
def beginReplay (p : Program) (n : Nat) (s : State) : State :=
  let s := forEach (fun m s => modTile m (fun x => { x with
    stopped := true, ops := [], chan0 := {}, chan1 := {} }) s) (programTiles s p) s
  modProg (fun p => { p with replaying := some n, attempts := p.attempts + 1, replayed := true }) (dropMoverAccesses s)

/-- More fenced tiles wait for a spare than there are spares (R562). -/
def sparesExhausted (s : State) : Bool := decide ((tilesIn s .spare).length < (vacated s).length)

/-- What the fence of an active tile means to the program and the active set (R516, R562, R1076, R1079, R1080, R1096). -/
def afterFence (n : Nat) (had : Tile) (s : State) : State :=
  match s.prog with
  | none =>
    match substitute n s with
    | (s, some _) => s
    | (s, none) => checkCapability (renumber s)
  | some p =>
    if sparesExhausted s then checkCapability (abortAtStep 0x5003 n s)
    else if p.tiles ≤ had.logical ∨ had.works = false then s
    else if had.atStep = true ∧ had.chan0.idle = true ∧ had.chan1.idle = true then s
    else if objAt s 0x9013 0 < p.attempts + 1 then abortAtStep 0x9006 n s
    else beginReplay p n s

/-- A tile is fenced by a micro machine check: it stops at once, its engines and channels stop, and no register, slot or
frame is written (R643, R644, R1055). -/
def machineCheck (n subcause : Nat) (s : State) : State :=
  let x := tileAt s n
  let tq := match s.prog with
    | some p => if x.works then
        ((match (queueAt s p.queue).desc p.index with | some d => field d.data 4 4 | none => 0), p.queue) else (0, 0xFFFF)
    | none => (0, 0xFFFF)
  let s := record { cause := 0x5010, cls := 2, unitType := utTile, unit := n, subcause := subcause, tag := tq.1
                    queue := tq.2, detail0 := x.upc + 65536 * (x.logical % 256), detail1 := x.pc } (count 0x5820 1 1 s)
  let active := decide (x.state = .active)
  let s := modTile n (fun x => { x with
    state := .fencedRun, runFence := true, logical := if active then x.logical else 0xFF
    lastCheck := x.upc + 4096 * subcause, ops := [], chan0 := {}, chan1 := {}, burst := 0
    works := false, waits := false, atStep := x.atStep && x.works }) s
  if active then afterFence n x (loseShare x.logical s)
  else if s.prog.isSome ∧ sparesExhausted s = true then checkCapability (abortAtStep 0x5003 n s)
  else s

/-! ### Traps (R646, R648, R652 to R658, R660) -/

/-- The trap frame (R660). -/
def trapFrame (p : Option Program) (x : Tile) (cause kind source faultAddr : Nat) (atWait : Bool) : List Byte :=
  natLe (cause + 65536 * kind + 2 ^ 24 * source + 2 ^ 32 * (if (p.map (·.trapMode)).getD false then 1 else 0)) 8 ++
    natLe x.pc 8 ++ natLe x.ir 16 ++
    natLe (x.upc + 4096 * x.cwp + 32768 * (x.occ - 1) + 2 ^ 18 * x.spill + flag atWait 23) 8 ++ natLe x.lc.toNat 8 ++
    natLe faultAddr 8 ++ natLe (x.chan0.commands.length + 16 * x.chan1.commands.length) 8 ++
    (List.range 8).flatMap (fun r => natLe (tabGet 0 r x.gregs).toNat 8) ++
    (List.range 16).flatMap fun r => natLe (x.wreg x.cwp r).toNat 8

/-- A fault or interrupt writes the frame, sets IN_TRAP, puts the resume address in W15 of MW7 and goes to 0x010
(R657). -/
def enterTrap (n cause kind source faultAddr resume : Nat) (atWait : Bool) (s : State) : State :=
  let f := trapFrame s.prog (tileAt s n) cause kind source faultAddr atWait
  modTile n (fun x => { x.setW 7 15 (BitVec.ofNat 64 resume) with
    scratch := memWrite x.scratch 0x1FF000 f, inTrap := true, framed := true, resume := false, tcause := cause
    upc := 0x010, atStep := false, waits := false, burst := 0 }) s

/-- Cause codes of faults (R1094). -/
def cIllegal : Nat := 0x5011
def cAccess : Nat := 0x5012

/-- A fault is taken at the microword that raises it; inside MW7 it is a machine check (R650, R652, R657). -/
def takeFault (n cause addr : Nat) (s : State) : State :=
  let x := tileAt s n
  if x.inTrap then machineCheck n 3 s
  else count 0x5820 5 1 (enterTrap n cause 1 0 (if cause = cIllegal then 0 else addr) x.upc false s)

end Sys2Proof.Machine
end

