-- ==== Sys2Proof/Machine/Copy.lean ====
section
/-! DEFINITION. COPY and FILL as far as bytes go (R384, R523): how many bytes can move, moving them, and the peer accesses of
a COPY. -/

namespace Sys2Proof.Machine

/-- A byte of one of the spaces 0 host memory, 1 HBM, 2 cellar can be reached; host memory while the host link is up (log
entry 139). -/
def spaceValid (s : State) (space a : Nat) : Bool :=
  if space = 1 then hbmValid s a else if space = 2 then cellarValid s a else s.host.linkUp

/-- Bytes from `a` before the first that cannot be reached, of `n`, granule by granule. -/
def goodPrefix (ok : Nat → Bool) (a : Nat) : Nat → Nat → Nat
  | 0, _ => 0
  | fuel + 1, n =>
    let k := min n (512 - a % 512)
    if n = 0 ∨ ok a = false then 0 else k + goodPrefix ok (a + k) fuel (n - k)

/-- Bytes that can be reached from `a`, of `n`. -/
def reachableBytes (s : State) (space a n : Nat) : Nat := goodPrefix (spaceValid s space) a (n / 512 + 2) n

/-- Bytes from `a` before the first poisoned word, of `n`. -/
def cleanBytes (t : Tab Bool) (a n : Nat) : Nat :=
  t.foldl (fun m (w, p) => if p = true ∧ a < 8 * w + 8 ∧ 8 * w < a + m then 8 * w - a else m) n

/-- Clean bytes of a source range. -/
def cleanSource (s : State) (space a n : Nat) : Nat :=
  if space = 1 then cleanBytes s.tiers.hbmPoison a n else if space = 2 then cleanBytes s.tiers.cellarPoison a n else n

/-- Bytes of a space. -/
def spaceRead (s : State) (space a n : Nat) : List Byte :=
  memRead (if space = 1 then s.hbm else if space = 2 then s.cellar else s.hostMem) a n

/-- Writing bytes into a space. -/
def spaceWrite (space a : Nat) (bs : List Byte) (s : State) : State :=
  if space = 1 then hbmWrite a bs s else if space = 2 then cellarWrite a bs s else hostWrite a bs s

/-- A descriptor's progress: bytes done, and the fault that ends it, if any. -/
def progress (q index done cause : Nat) (s : State) : State :=
  modDesc q index (fun d => { d with result := done, status := if cause = 0 then 0 else 5, cause := cause }) s

/-- Writing what a COPY has read; an address fault stops it (R384, R523). -/
def copyOut (q index n space a : Nat) (bs : List Byte) (srcCause : Nat) (s : State) : State :=
  let k := reachableBytes s space a bs.length
  let s := spaceWrite space a (bs.take k) s
  progress q index k (if k < bs.length then 0xA007 else if bs.length < n then srcCause else 0) s

/-- A peer access of a COPY leaves. -/
def copyAccess (q index sled off len : Nat) (data : Option (List Byte)) (s : State) : State :=
  let k := s.links.nextAccess
  emit (.peerRequest k sled off len data) (s.modLinks fun l => { l with
    nextAccess := k + 1
    accesses := tabPut none k (some
      { user := .copy q index, sled := sled, offset := off, length := len, write := data.isSome }) l.accesses })

/-- A COPY names no peer. -/
def localCopy (d : Desc) : Bool := decide (field d.data 32 1 ≠ 3) && decide (field d.data 33 1 ≠ 3)

/-- What a COPY reads on this sled: the bytes before the first that it cannot have, and the cause of that. -/
def copySource (s : State) (d : Desc) : List Byte × Nat :=
  let src := field d.data 8 8
  let ss := field d.data 32 1
  let r := reachableBytes s ss src (field d.data 24 8)
  let c := cleanSource s ss src r
  (spaceRead s ss src c, if c < r then 0x5001 else 0xA007)

/-- A COPY starts: an access of a peer leaves.  One within the sled moves its bytes as it completes (`endCopy`). -/
def startCopy (q : Nat) (d : Desc) (s : State) : State :=
  let n := field d.data 24 8
  let sled := field d.data 34 2
  if field d.data 32 1 = 3 then copyAccess q d.index sled (field d.data 8 8) n none s
  else if localCopy d then s
  else
    let (bs, cause) := copySource s d
    if bs.length < n then progress q d.index 0 cause s
    else copyAccess q d.index sled (field d.data 16 8) n (some bs) s

/-- A COPY within the sled moves its bytes; a word poisoned before then stops it (R384, R523). -/
def endCopy (q : Nat) (d : Desc) (s : State) : State :=
  if localCopy d = false then s
  else
    let (bs, cause) := copySource s d
    copyOut q d.index (field d.data 24 8) (field d.data 33 1) (field d.data 16 8) bs cause s

/-- The bytes of a FILL. -/
def fillBytes (pattern n : Nat) : List Byte := (List.replicate (n / 8) (natLe pattern 8)).flatten

/-- A FILL runs. -/
def startFill (q : Nat) (d : Desc) (s : State) : State :=
  copyOut q d.index (field d.data 16 8) (field d.data 32 1) (field d.data 8 8)
    (fillBytes (field d.data 24 8) (field d.data 16 8)) 0 s

/-- A COPY of this sled waits for a peer. -/
def copyWaits (s : State) (q index : Nat) : Bool :=
  s.links.accesses.any fun (_, a) => match a with
    | some a => decide (a.user = .copy q index)
    | none => false

end Sys2Proof.Machine
end

