-- ==== Sys2Proof/Machine/FabricOps.lean ====
section
/-! DEFINITION. The Burund fabric as every unit uses it (chapters 17 and 18): lots, queue controllers and their streams,
fencing, holding, clearing and releasing lots, and the waiting loads. -/

namespace Sys2Proof.Machine

/-! ### Lots, chiplets, banks and controllers -/

def State.modFab (f : Fabric → Fabric) (s : State) : State := { s with fab := f s.fab }

/-- A lot. -/
def lotAt (s : State) (l : Nat) : Lot := tabGet {} l s.fab.lots

/-- Changing a lot. -/
def modLot (l : Nat) (f : Lot → Lot) (s : State) : State :=
  s.modFab fun b => { b with lots := tabPut {} l (f (tabGet {} l b.lots)) b.lots }

/-- A chiplet. -/
def chipAt (s : State) (c : Nat) : Chiplet := tabGet {} c s.fab.chips

/-- Changing a chiplet. -/
def modChip (c : Nat) (f : Chiplet → Chiplet) (s : State) : State :=
  s.modFab fun b => { b with chips := tabPut {} c (f (tabGet {} c b.chips)) b.chips }

/-- An I/O bank. -/
def bankAt (s : State) (b : Nat) : IoBank := tabGet {} b s.fab.banks

/-- Changing an I/O bank. -/
def modBank (b : Nat) (f : IoBank → IoBank) (s : State) : State :=
  s.modFab fun x => { x with banks := tabPut {} b (f (tabGet {} b x.banks)) x.banks }

/-- The words in a controller's FIFO. -/
def fifoAt (s : State) (c : Nat) : List Nat := tabGet [] c s.fab.fifos

/-- Setting a controller's FIFO. -/
def setFifo (c : Nat) (ws : List Nat) (s : State) : State := s.modFab fun b => { b with fifos := tabPut [] c ws b.fifos }

/-- The streams of a controller, the running one first. -/
def streamsAt (s : State) (c : Nat) : List Stream := tabGet [] c s.fab.streams

/-- Setting a controller's streams. -/
def setStreams (c : Nat) (xs : List Stream) (s : State) : State :=
  s.modFab fun b => { b with streams := tabPut [] c xs b.streams }

/-- A lot in service (R956): IN_SERVICE or UNWATCHED. -/
def Lot.serves (x : Lot) : Bool := decide (x.state = .inService) || decide (x.state = .unwatched)

/-- Lots of a chiplet (R906). -/
def chipLots (c : Nat) : List Nat := (List.range 4).map (4 * c + ·)

/-- Controllers of a lot (R929). -/
def lotControllers (l : Nat) : List Nat := (List.range 8).map (8 * l + ·)

/-! ### Taps and their reservations (R758, R940, R958) -/

/-- The tap to which object 0x6020 gives a controller (R940). -/
def boundTap (s : State) (c : Nat) : Option Nat :=
  let n := c % 8 / 2
  if objAt s 0x6020 (n + 1) = c / 8 then some n else none

/-- The controller is reserved: the binding waits for a stream that still runs on it (R940, R958). -/
def reserved (s : State) (c : Nat) : Bool := (boundTap s c).isSome && (streamsAt s c).isEmpty

/-- Object 0x8030: the mode in which a controller runs (R932, R940, R955). -/
def controllerMode (s : State) (c : Nat) : Nat :=
  if reserved s c then 1
  else if (lotAt s (c / 8)).serves then
    let m := Config.qcMode (lotAt s (c / 8)).config (c % 8)
    if 7 ≤ m then 0 else m
  else 0

/-- A tap is in service for a layer that starts now with the given TAP_ENABLE (R758, R763, R958). -/
def tapInService (s : State) (enable n : Nat) : Bool :=
  let l := objAt s 0x6020 (n + 1)
  bit enable n && bit (objAt s 0x6023 0) n && decide (l < 16) && !s.fab.cfgErr && (lotAt s l).serves &&
    (streamsAt s (8 * l + 2 * n)).isEmpty && (streamsAt s (8 * l + 2 * n + 1)).isEmpty && !bit s.junc.stepTaps n

/-- The running layer has a tap in service on a lot (R765, R984). -/
def layerUsesLot (s : State) (l : Nat) : Bool :=
  match s.junc.layer with
  | some y => (List.range 4).any fun n => bit y.taps n && decide (y.lots.getD n 0xFF = l)
  | none => false

/-! ### Streams (R936 to R939) -/

/-- The cause with which a PUSH or PULL is refused, 0 when it may run (R938). -/
def streamCheck (s : State) (c : Nat) (x : Stream) : Nat :=
  if (lotAt s (c / 8)).serves = false then 0x8003
  else if (boundTap s c).isSome then 0x8004
  else
    let m := Config.qcMode (lotAt s (c / 8)).config (c % 8)
    if m = (if x.push then 2 else 3) then 0 else 0x8005

/-- The running stream of a controller ends, and its record is written. -/
def endHead (c status cause : Nat) (s : State) : State :=
  match streamsAt s c with
  | [] => s
  | x :: rest => flushRecords x.queue (endDesc x.queue x.index status cause x.done (setStreams c rest s))

/-- The streams at the head that may not run are refused; the first that may, runs (R937, R938). -/
def settleStreams (c : Nat) : Nat → State → State
  | 0, s => s
  | n + 1, s =>
    match streamsAt s c with
    | [] => s
    | x :: rest =>
      let k := streamCheck s c x
      if k = 0 then setStreams c ({ x with since := s.now } :: rest) s else settleStreams c n (endHead c 2 k s)

/-- The next stream of a controller is judged. -/
def nextStream (c : Nat) (s : State) : State := settleStreams c (streamsAt s c).length s

/-- Every stream of a lot's controllers ends (R983). -/
def endStreams (l status cause : Nat) (s : State) : State :=
  forEach (fun c s => forEach (fun (_ : Nat) s => endHead c status cause s) (List.range (streamsAt s c).length) s)
    (lotControllers l) s

/-- The FIFOs of a lot's controllers are emptied as the controllers go OFF. -/
def emptyFifos (l : Nat) (s : State) : State := forEach (fun c s => setFifo c [] s) (lotControllers l) s

/-! ### Cells, kerbs, probes and pads (R907 to R913, R943, R944, R948, R955) -/

/-- The output of a cell: low in the reset-clear state, its C-element's reset value out of service (R954, R955). -/
def cellOut (x : Lot) (n : Nat) : Bool :=
  if x.state = .clear then false else tabGet (Config.cellReset x.config n) n x.cells

/-- A probe of the lot is enabled and selects the rail that cell `n` gives: its number in object 0x8040 (R943). -/
def probeSees (s : State) (l n k : Nat) : Bool :=
  let v := objAt s 0x8040 k
  bit v 16 && decide (Config.cellRail (lotAt s l).config (v % 2 ^ 15) (bit v 15) = n)

/-- A transition of cell `n` is counted by the probes that see it (R943). -/
def probeTransition (l n : Nat) (s : State) : State :=
  forEach (fun k s => if probeSees s l n k then
      (count 0x8041 k 1 s).modFab fun b => { b with probeLast := tabPut 0 (k - 1) (s.now - s.life.packageAt) b.probeLast }
    else s) [2 * l + 1, 2 * l + 2] s

/-- A cell's output becomes `v`. -/
def setCell (l n : Nat) (v : Bool) (s : State) : State :=
  if cellOut (lotAt s l) n = v then s
  else probeTransition l n (modLot l (fun x => { x with cells := tabPut (Config.cellReset x.config n) n v x.cells }) s)

/-- Every C-element of a lot takes its reset value, and no stage acknowledges (R955). -/
def restCells (l : Nat) (s : State) : State :=
  let cfg := (lotAt s l).config
  modLot l (fun x => { x with cells := [], acks := [] })
    (forEach (fun (nv : Nat × Bool) s => setCell l nv.1 (Config.cellReset cfg nv.1) s) (lotAt s l).cells s)

/-- The lot of the same chiplet over a border: j XOR 1, or j XOR 2 (R907). -/
def borderLot (l : Nat) (border : Bool) : Nat := 4 * (l / 4) + ((l % 4) ^^^ (if border then 2 else 1))

/-- The kerb cells of a border are open: both lots are in service (R908, R956). -/
def kerbOpen (s : State) (l : Nat) (border : Bool) : Bool :=
  (lotAt s l).serves && (lotAt s (borderLot l border)).serves

/-- The level of a wire; `port` is that of the hard logic.  A closed kerb gives the spacer and no acknowledge (R908). -/
def wireLevel (s : State) (l : Nat) (w : Config.FabricWire) (port : Bool) : Bool :=
  let x := lotAt s l
  match w with
  | .cell n => cellOut x n
  | .ack n => tabGet false n x.acks
  | .kerb border c =>
    let y := lotAt s (borderLot l border)
    kerbOpen s l border && (match Config.kerbDriver y.config border c with
      | some n => cellOut y n
      | none => false)
  | .kerbAck border c =>
    let y := lotAt s (borderLot l border)
    kerbOpen s l border && (match Config.kerbStage y.config border c with
      | some n => tabGet false n y.acks
      | none => false)
  | .port => port

/-- A dual-rail bit holds data, or the spacer (R910). -/
def railData (t f : Bool) : Bool := t != f
def railSpacer (t f : Bool) : Bool := !t && !f

/-- The next output of a cell whose inputs are the bits of `v`: a table alone; a pair's cell, which goes to data only when each
of its dual-rail inputs, two wires each, holds data, and back only when each holds the spacer; or a C-element of its own
(R909, R911). -/
def cellNext (config : Memory) (n v : Nat) (held : Bool) : Bool :=
  let lut := bit (Config.cellTable config n) (v % 64)
  if Config.cellBypass config n then lut
  else match Config.cellPair config n with
    | some k =>
      if (List.range k).all fun i => railData (bit v (2 * i)) (bit v (2 * i + 1)) then lut
      else if (List.range k).all fun i => railSpacer (bit v (2 * i)) (bit v (2 * i + 1)) then false
      else held
    | none => Config.cellElement lut v held

/-- A cell's output follows its inputs; bit i of `ports` is the level at input i where hard logic drives it. -/
def runCell (l n ports : Nat) (s : State) : State :=
  let x := lotAt s l
  if x.serves = false then s
  else
    let v := sumTo 6 fun i => flag (wireLevel s l (Config.cellSource x.config n i) (bit ports i)) i
    setCell l n (cellNext x.config n v (cellOut x n)) s

/-- A stage's acknowledge rises when every bit of its output holds data and falls when every bit holds the spacer (R913). -/
def runStage (l n : Nat) (s : State) : State :=
  let x := lotAt s l
  let bs := Config.stageBits x.config n
  if x.serves = false ∨ bs = [] then s
  else
    let put (v : Bool) : State := modLot l (fun x => { x with acks := tabPut false n v x.acks }) s
    if bs.all fun (t, f) => railData (cellOut x t) (cellOut x f) then put true
    else if bs.all fun (t, f) => railSpacer (cellOut x t) (cellOut x f) then put false
    else s

/-- The lot in service that owns a pad of a bank's chiplet (R947). -/
def padOwner (s : State) (b p : Nat) : Option Nat :=
  (chipLots b).find? fun l => (lotAt s l).serves && bit (lotAt s l).claims p

/-- Every lot of a chiplet is CLEAR, HELD or FENCED, so that it accepts EXTEST (R964). -/
def chipQuiet (s : State) (c : Nat) : Bool :=
  (chipLots c).all fun l =>
    let x := (lotAt s l).state
    decide (x = .clear) || decide (x = .held) || decide (x = .fenced)

/-- The boundary register drives a chiplet's pads (R962 to R964). -/
def padTest (s : State) (b : Nat) : Bool := (chipAt s b).extest && chipQuiet s b

/-- A pad is high impedance (R948).  In EXTEST, which only a chiplet with no lot in service accepts, the boundary register
stands for the owner (R963; DEDUCED, log entry 150). -/
def padHighZ (s : State) (b p : Nat) : Bool :=
  s.fab.cfgErr || (if padTest s b then !bit (chipAt s b).boundary (3 * p + 1) else (padOwner s b p).isNone) ||
    decide ((bankAt s b).state = 0) || decide ((bankAt s b).state = 3)

/-- The level that a pad drives; none while it is high impedance or an input. -/
def padLevel (s : State) (b p : Nat) : Option Bool :=
  if padHighZ s b p then none
  else if padTest s b then some (bit (chipAt s b).boundary (3 * p))
  else (padOwner s b p).bind fun l => (Config.padDriver (lotAt s l).config p).map (cellOut (lotAt s l))

/-! ### Fencing, holding, clearing, releasing (R954, R955, R983, R986) -/

/-- A lot may be fenced: it is in service or HELD (the table of lot transitions). -/
def Lot.fenceable (x : Lot) : Bool := x.serves || decide (x.state = .held)

/-- Fencing a lot as far as the fabric goes: running streams end LOT_FENCED, those that wait are refused (R939, R955). -/
def fenceLotCore (l cause : Nat) (s : State) : State :=
  if (lotAt s l).fenceable = false then s
  else
    let s := forEach (fun c s => endHead c 1 0x8006 s) (lotControllers l) s
    let s := modLot l (fun x => { x with state := .fenced, cause := cause }) (restCells l s)
    let s := forEach (fun c s => nextStream c s) (lotControllers l) s
    count 0x8050 4 1 (emptyFifos l s)

/-- A lot leaves service for HELD or LOADING (R983): its cells go to their reset values. -/
def takeOut (l : Nat) (st : LotState) (s : State) : State :=
  emptyFifos l (modLot l (fun x => { x with state := st }) (restCells l (endStreams l 1 0x8008 s)))

/-- A lot enters the reset-clear state (R954). -/
def clearLot (l : Nat) (s : State) : State :=
  modLot l (fun x => { cause := x.cause, cmd := x.cmd, policyReload := x.policyReload }) (restCells l s)

/-- Controllers whose bitstream gives them a reserved mode code (R932). -/
def reservedModes (x : Lot) : Nat := countTo 8 fun q => decide (7 ≤ Config.qcMode x.config q)

/-- A HELD lot is released (R986). -/
def releaseLot (l : Nat) (s : State) : State :=
  if (lotAt s l).state ≠ .held then s
  else
    count 0x8050 3 (reservedModes (lotAt s l)) (modLot l (fun x => { x with
      state := if (chipAt s (l / 4)).suspect then .unwatched else .inService }) s)

/-! ### Loads that wait (R961, R984, R985, R988, R990) -/

/-- The kiosk may start a load: it drives the chain, and CLEARED is not set (R961, R1025). -/
def kioskDrives (s : State) : Bool := !s.fab.external && !s.sweep.cleared

/-- A reload of a lot begins (R983, R990). -/
def startReload (l : Nat) (s : State) : State :=
  (takeOut l .loading s).modFab fun b => { b with jobs := b.jobs ++ [l], loadFrames := 0 }

/-- A full load begins (R988, R993, R1005). -/
def startFullLoad (s : State) : State :=
  let s := s.modFab fun b => { b with
    cfgErr := false, failed := false, full := true, fullWaits := false, loadFrames := 0, jobs := List.range 16 }
  let s := forEach (fun l s => takeOut l .loading s) (List.range 16) s
  forEach (fun c s => modChip c (fun x => { x with suspect := false, passAt := none, passLots := [], engine := .idle }) s)
    (List.range 4) s

/-- No load runs, and no layer holds a lot that a full load would take. -/
def fullLoadFree (s : State) : Bool :=
  kioskDrives s && s.fab.jobs.isEmpty && (List.range 16).all fun l => !layerUsesLot s l

/-- The waiting command of a lot is carried out, or goes on waiting (R984 to R986). -/
def runLotCommand (l : Nat) (s : State) : State :=
  let x := lotAt s l
  if x.state = .loading ∨ s.fab.fullWaits = true then s
  else if x.policyReload = true ∧ x.cmd ≠ 4 then
    if kioskDrives s = true ∧ s.fab.cfgErr = false then startReload l s else s
  else if x.cmd = 1 then
    if kioskDrives s = true ∧ s.fab.cfgErr = false ∧ layerUsesLot s l = false then startReload l s else s
  else if x.cmd = 2 then
    if layerUsesLot s l then s
    else modLot l (fun x => { x with cmd := 0 }) (if x.serves then takeOut l .held s else s)
  else if x.cmd = 3 then modLot l (fun x => { x with cmd := 0 }) (releaseLot l s)
  else if x.cmd = 4 then modLot l (fun x => { x with cmd := 0, policyReload := false })
    (if x.state = .held ∨ x.state = .fenced then clearLot l s else s)
  else s

/-- A full load starts, or waits (R984, R988). -/
def askFullLoad (s : State) : State :=
  if fullLoadFree s then startFullLoad s else s.modFab fun b => { b with fullWaits := true }

/-- Whatever waited for the layer or the chain and may now proceed does so. -/
def runWaiting (s : State) : State :=
  if s.fab.fullWaits then (if fullLoadFree s then startFullLoad s else s)
  else forEach (fun l s => runLotCommand l s) (List.range 16) s

/-- Something waits. -/
def loadsWaiting (s : State) : Bool :=
  s.fab.fullWaits || s.fab.lots.any fun (_, x) =>
    decide (x.state ≠ .loading) && (x.policyReload || decide (x.cmd ≠ 0))

/-! ### Entry into VERDICT and package reset (R189, R945, R950, R954, R993, R1005) -/

/-- The banks take their standards and rates (R945, R949, R950). -/
def applyBanks (s : State) : State :=
  forEach (fun b s =>
    let std := objAt s 0x8020 (b + 1)
    modBank b (fun _ => { state := if std = 0 then 0 else 1, standard := std, rate := objAt s 0x8023 (b + 1) }) s)
    (List.range 4) s

/-- The fabric as package reset leaves it: the store and the applied test-port source stand (R976). -/
def fabricReset (s : State) : State :=
  s.modFab fun b => { store := b.store, external := b.external }

/-- The fabric on entry into VERDICT: every lot reset-clear (R189, R954, R993, R1005). -/
def fabricVerdict (s : State) : State :=
  applyBanks ((fabricReset s).modFab fun b => { b with
    chips := (List.range 4).foldl (fun t c =>
      tabPut {} c ({ vdd := min 800 (objAt s 0x8010 0) } : Chiplet) t) b.chips })

end Sys2Proof.Machine
end

