-- ==== Sys2Proof/Machine/Gates.lean ====
section
/-! DEFINITION. The Junction's arithmetic (chapters 13 and 14): FP32 operations with one rounding each, exact exponentials,
ordering of scores, top-k selection, gate weights and renormalisation.  Codes are FP32 codes. -/

namespace Sys2Proof.Machine

/-- The exact value of an FP32 code. -/
def f32 (c : Nat) : Val := decodeFloat fp32 c

/-- One rounding to FP32 at nearest-even with subnormal mode KEEP: the code and the flags (R470, R698). -/
def toF32 (v : Val) : Nat × Nat := encodeFloat fp32 true 0 0 v

/-- The code holds a NaN or an infinity. -/
def notFinite (c : Nat) : Bool := decide (c / 2 ^ 23 % 256 = 255)

/-- A score: positive, finite and normal (R682). -/
def normalPositive (c : Nat) : Bool := coarseUsable c

/-- Sum of two codes, rounded once. -/
def addF32 (a b : Nat) : Nat × Nat :=
  let (v, f) := sumVals [f32 a, f32 b]
  let (c, g) := toF32 v
  (c, f ||| g)

/-- Difference of two codes, rounded once. -/
def subF32 (a b : Nat) : Nat × Nat :=
  let (v, f) := sumVals [f32 a, (f32 b).negate]
  let (c, g) := toF32 v
  (c, f ||| g)

/-- Quotient of two codes, rounded once; `free` where the divisor is zero, infinite or not a number, a quotient the spec
does not state (log entry 43). -/
def divF32 (free a b : Nat) : Nat × Nat :=
  match f32 a, f32 b with
  | .fin x m e, .fin y n d => toF32 (oddQuotient 64 (x ^^ y) m n (e - d))
  | .zero x, .fin y _ _ => toF32 (.zero (x ^^ y))
  | _, _ => (free % 2 ^ 32, 0)

/-! ### Exponentials (R737) -/

/-- Fraction bits of the fixed-point exponential. -/
def expBits : Nat := 256

/-- 1 + y/k (1 + y/(k+1) (...)) down to k = 1, in units of 2^-256, from an inner value. -/
def expHorner (y : Nat) : Nat → Nat → Nat
  | 0, acc => acc
  | k + 1, acc => expHorner y k (2 ^ expBits + y * acc / ((k + 1) * 2 ^ expBits))

/-- e^y in units of 2^-256, for y in the same units and at most 110. -/
def expFixed (y : Nat) : Nat := expHorner y 500 (2 ^ expBits)

/-- |m * 2^e| in units of 2^-256, when it is at most 110. -/
def fixedArg (m : Nat) (e : Int) : Option Nat :=
  if 8 ≤ Val.log m e then none
  else
    let y := if 0 ≤ e + expBits then m * 2 ^ (e + expBits).toNat else m / 2 ^ (-(e + expBits)).toNat
    if 110 * 2 ^ expBits < y then none else some y

/-- exp(x) for x at most 0, near enough that one rounding to FP32 is the rounding of the exact value: never exact but at
0, and below every FP32 magnitude under -110. -/
def expVal : Val → Val
  | .zero _ => .fin false 1 0
  | .inf true => .zero false
  | .fin true m e => match fixedArg m e with
    | some y => .fin false (2 ^ (2 * expBits) / expFixed y ||| 1) (-(expBits : Int))
    | none => .fin false 1 (-300)
  | v => v

/-- sigmoid(x) likewise. -/
def sigmoidVal : Val → Val
  | .zero _ => .fin false 1 (-1)
  | .inf n => if n then .zero false else .fin false 1 0
  | .fin n m e => match fixedArg m e with
    | some y =>
      let x := expFixed y
      let num := if n then 2 ^ (2 * expBits) else x * 2 ^ expBits
      .fin false (num / (2 ^ expBits + x) ||| 1) (-(expBits : Int))
    | none => if n then .fin false 1 (-300) else .fin false (2 ^ expBits - 1) (-(expBits : Int))
  | .nan => .nan

/-! ### Selection (R735) -/

/-- The order of scores: +0 and -0 are equal. -/
def scoreLe (a b : Nat) : Bool :=
  let z : Val → Val := fun v => match v with | .zero _ => .zero false | v => v
  (z (f32 a)).le (z (f32 b))

/-- Inserting after every entry whose score is not lower: scores fall, equal ones keep their order. -/
def insertScore (x : Nat × Nat) : List (Nat × Nat) → List (Nat × Nat)
  | [] => [x]
  | y :: t => if scoreLe x.2 y.2 then y :: insertScore x t else x :: y :: t

/-- (expert, score) of the k best, best first; of equal scores the lower expert first. -/
def topK (k : Nat) (row : List Nat) : List (Nat × Nat) :=
  ((numbered 0 row).foldl (fun acc x => (insertScore x acc).take k) [])

/-! ### Gates (R737, R741) -/

/-- A left-to-right sum, each addition rounded. -/
def runningSum : List Nat → Nat × Nat
  | [] => (0, 0)
  | a :: t => t.foldl (fun (acc : Nat × Nat) x => let r := addF32 acc.1 x; (r.1, acc.2 ||| r.2)) (a, 0)

/-- The OR of a list's flags. -/
def gateFlags (l : List (Nat × Nat)) : Nat := l.foldl (fun a x => a ||| x.2) 0

/-- round_fp32(exp(round_fp32(x - m))). -/
def expTerm (m x : Nat) : Nat × Nat :=
  let d := subF32 x m
  let r := toF32 (expVal (f32 d.1))
  (r.1, d.2 ||| r.2)

/-- The greatest score of a row. -/
def rowMax (row : List Nat) : Nat := ((topK 1 row).head?.map (·.2)).getD 0

/-- Every term divided by the total; `free` gives the values of divisions that the spec leaves open. -/
def normalise (free : Nat → Nat) (total : Nat) (es : List Nat) : List (Nat × Nat) :=
  (numbered 0 es).map fun x => divF32 (free x.1) x.2 total

/-- gates: FP32 codes by rank, and the flags (R737). -/
def gates (free : Nat → Nat) (fn : Nat) (sel : List (Nat × Nat)) (row : List Nat) : List Nat × Nat :=
  let s := sel.map (·.2)
  if fn = 0 then
    let e := s.map (expTerm (s.headD 0))
    let t := runningSum (e.map (·.1))
    let g := normalise free t.1 (e.map (·.1))
    (g.map (·.1), gateFlags e ||| t.2 ||| gateFlags g)
  else if fn = 1 then
    let f := row.map (expTerm (rowMax row))
    let t := runningSum (f.map (·.1))
    let g := normalise free t.1 (sel.map fun x => (f.getD x.1 (0, 0)).1)
    (g.map (·.1), gateFlags f ||| t.2 ||| gateFlags g)
  else
    let e := s.map fun x => toF32 (sigmoidVal (f32 x))
    let t := runningSum (e.map (·.1))
    if fn = 3 then (e.map (·.1), gateFlags e ||| t.2)
    else
      let g := normalise free t.1 (e.map (·.1))
      (g.map (·.1), gateFlags e ||| t.2 ||| gateFlags g)

/-- renorm over the admitted gates in ascending rank (R741). -/
def renorm (free : Nat → Nat) (gs : List Nat) : List Nat × Nat :=
  let t := runningSum gs
  let g := normalise free t.1 gs
  (g.map (·.1), t.2 ||| gateFlags g)

/-! ### The pair tree (R754, R868, R869) -/

/-- The sum of two codes, rounded once into their format. -/
def addFmt (f : Fmt) (a b : Nat) : Nat × Nat :=
  let (v, x) := sumVals [decodeCode f a, decodeCode f b]
  let (c, y) := encodeElem f 0 0 v
  (c, x ||| y)

/-- One pass of the tree: neighbours are added, an odd one rises unchanged. -/
def combinePass (f : Fmt) : List Nat → List Nat × Nat
  | a :: b :: t =>
    let r := addFmt f a b
    let p := combinePass f t
    (r.1 :: p.1, r.2 ||| p.2)
  | l => (l, 0)

/-- The tree over one element's contributions (fuel: their number). -/
def combineCodes (f : Fmt) : Nat → List Nat → Nat × Nat
  | 0, l => (l.headD 0, 0)
  | n + 1, l =>
    match l with
    | [] => (0, 0)
    | [a] => (a, 0)
    | l =>
      let p := combinePass f l
      let r := combineCodes f n p.1
      (r.1, p.2 ||| r.2)

/-- Contributions of `n` elements each, combined element by element: bytes and flags. -/
def combineBytes (f : Fmt) (n : Nat) (cs : List (List Byte)) : List Byte × Nat :=
  let w := f.width / 8
  let out := (List.range n).map fun i => combineCodes f cs.length (cs.map fun c => field c (i * w) w)
  (out.flatMap fun x => natLe x.1 w, gateFlags out)

/-! ### Quantisation and scores (R689 to R692, R698) -/

/-- The token scale's exponent p (R689); none for an all-zero vector (R690). -/
def tokenExp (xs : List Val) : Option Int :=
  match blockMax xs with
  | .fin _ m e => some (Val.log m e - 6)
  | _ => none

/-- An element divided by 2^p, as an INT8 input, and the flags of the rounding (R689). -/
def quantise (p : Int) : Val → Int × Nat
  | .fin n m e => let r := encodeElem .int8 0 0 (.fin n m (e - p)); (signed r.1 8, r.2)
  | _ => (0, 0)

/-- q / 2^shift rounded to nearest-even, saturated to a 12-bit code (R692). -/
def idealCode (q : Int) (shift : Nat) : Int :=
  let r : Int := roundShift 0 (decide (q < 0)) q.natAbs shift
  max (-2048) (min 2047 (if q < 0 then -r else r))

/-- The score of a token and an expert (R698). -/
def scoreOf (n : Int) (shift : Nat) (p : Int) (scale bias : Nat) : Nat × Nat :=
  let a := (Val.ofInt n (shift + p) false).mul (f32 scale)
  let v := toF32 a.1
  let r := addF32 v.1 bias
  (r.1, a.2 ||| v.2 ||| r.2)

end Sys2Proof.Machine
end

