-- ==== Sys2Proof/Machine/Operands.lean ====
section
/-! DEFINITION. Tile instructions: their fields (R668), what makes one illegal (R413, R437, R465, R466, R669), the operands
they name and where these lie. -/

namespace Sys2Proof.Machine

/-! ### Fields (R668) -/

def iOp (i : Nat) : Nat := bits i 7 0
def iRd (i : Nat) : Nat := bits i 12 8
def iRa (i : Nat) : Nat := bits i 17 13
def iRb (i : Nat) : Nat := bits i 22 18
def iRc (i : Nat) : Nat := bits i 27 23
def iFa (i : Nat) : Nat := bits i 31 28
def iFb (i : Nat) : Nat := bits i 35 32
def iFd (i : Nat) : Nat := bits i 39 36
def iSa (i : Nat) : Nat := bits i 47 40
def iSb (i : Nat) : Nat := bits i 55 48
def iSd (i : Nat) : Nat := bits i 63 56
def iNd (i : Nat) : Bool := bit i 64
def iRm (i : Nat) : Nat := bits i 66 65
def iSubn (i : Nat) : Nat := bits i 68 67
def iDot (i : Nat) : Bool := bit i 69
def iIovf (i : Nat) : Bool := bit i 70
def iAcc (i : Nat) : Bool := bit i 71
def iSplit (i : Nat) : Nat := bits i 73 72
def iImm (i : Nat) : Nat := bits i 127 96

/-- IMM sign-extended. -/
def immInt (i : Nat) : Int := signed (iImm i) 32

/-! ### The bits an opcode uses (R669) -/

def mOp : Nat := 0xFF
def mRd : Nat := 0x1F * 2 ^ 8
def mRa : Nat := 0x1F * 2 ^ 13
def mRb : Nat := 0x1F * 2 ^ 18
def mRc : Nat := 0x1F * 2 ^ 23
def mFa : Nat := 0xF * 2 ^ 28
def mFb : Nat := 0xF * 2 ^ 32
def mFd : Nat := 0xF * 2 ^ 36
def mSa : Nat := 0xFF * 2 ^ 40
def mSb : Nat := 0xFF * 2 ^ 48
def mSd : Nat := 0xFF * 2 ^ 56
def mArith : Nat := 0x3FF * 2 ^ 64
def mImm : Nat := 0xFFFFFFFF * 2 ^ 96

/-- Fields of a two-operand vector operation. -/
def mVec : Nat := mOp + mRd + mRa + mRb + mFa + mFb + mFd + mArith + mImm

/-- The bits each opcode uses; none for a reserved opcode. -/
def usedBits (op : Nat) : Option Nat :=
  match op with
  | 0x01 => some mOp
  | 0x02 => some (mOp + mRa)
  | 0x03 => some mOp
  | 0x04 => some (mOp + mImm)
  | 0x05 | 0x06 | 0x07 | 0x08 => some (mOp + mRa + mRb + mImm)
  | 0x10 | 0x11 | 0x12 | 0x13 | 0x14 | 0x15 | 0x16 => some (mOp + mRd + mRa + mRb)
  | 0x17 => some (mOp + mRd + mRa + mImm)
  | 0x18 => some (mOp + mRd + mImm)
  | 0x19 => some (mOp + mRd + mRa + mImm)
  | 0x1A => some (mOp + mRa + mRb + mImm)
  | 0x20 | 0x21 | 0x22 => some mOp
  | 0x28 | 0x29 => some (mOp + mRd)
  | 0x2A => some mOp
  | 0x30 | 0x31 => some (mOp + mRa)
  | 0x32 | 0x33 => some mOp
  | 0x40 => some (mOp + mRd + mRa + mRb + mRc + mFa + mFb + mSa + mSb + mArith + mImm)
  | 0x41 => some (mOp + mRd + mRa + mRb + mRc + mFa + mFb + mFd + mSa + mSb + mSd + mArith + mImm)
  | 0x42 => some (mOp + mRd + mImm)
  | 0x50 | 0x51 | 0x53 | 0x54 | 0x55 | 0x56 | 0x57 => some mVec
  | 0x52 => some (mVec + mRc)
  | 0x58 => some (mOp + mRd + mRa + mFa + mFd + mArith + mImm)
  | 0x59 => some (mOp + mRd + mRa + mFa + mFd + mSd + mArith + mImm)
  | 0x60 => some (mOp + mRa + mImm)
  | 0x61 => some (mOp + mRa + mRb)
  | _ => none

/-! ### Scale specifications (R426, R434, R436 to R440) -/

def scaleCode (sp : Nat) : Nat := bits sp 1 0
def scaleBlock (sp : Nat) : Nat := 8 * 2 ^ bits sp 4 2
def scaleDir (sp : Nat) : Nat := bits sp 6 5
def scaleCoarse (sp : Nat) : Bool := bit sp 7

/-- A specification is legal for a format and the two axes of an operand (R413, R434, R437, R438). -/
def scaleOk (sp : Nat) (f : Fmt) (dirs : List Nat) : Bool :=
  decide (scaleCode sp = 0) ||
  (decide (scaleCode sp ≠ 3) && f.narrow && decide (bits sp 4 2 ≤ 4) && dirs.contains (scaleDir sp))

/-- The least multiple of 64 not below. -/
def align64 (a : Nat) : Nat := (a + 63) / 64 * 64

/-- Bytes of `n` packed elements. -/
def packedBytes (f : Fmt) (n : Nat) : Nat := (n * f.width + 7) / 8

/-- Number of fine scales of a matrix of `rows` by `cols`; `alongCols`: blocks run along a row (R440). -/
def scaleCount (sp rows cols : Nat) (alongCols : Bool) : Nat :=
  let b := scaleBlock sp
  if scaleCode sp = 0 then 0
  else if alongCols then rows * ((cols + b - 1) / b) else (rows + b - 1) / b * cols

/-- Place of the scale of element (r, c). -/
def scalePlace (sp cols r c : Nat) (alongCols : Bool) : Nat :=
  let b := scaleBlock sp
  if alongCols then r * ((cols + b - 1) / b) + c / b else r / b * cols + c

/-- Byte ranges of a packed operand and its scale array. -/
def operandRanges (a : Nat) (f : Fmt) (sp rows cols : Nat) (alongCols : Bool) : List (Nat × Nat) :=
  let v := packedBytes f (rows * cols)
  (a, v) :: (if scaleCode sp = 0 then [] else [(align64 (a + v), scaleCount sp rows cols alongCols)])

/-! ### Shapes -/

def mmaM (i : Nat) : Nat := 16 * (bits (iImm i) 7 0 + 1)
def mmaN (i : Nat) : Nat := 16 * (bits (iImm i) 15 8 + 1)
def mmaK (i : Nat) : Nat := 16 * (bits (iImm i) 23 16 + 1)

/-- The formats of an instruction; FP32 stands where a code is reserved. -/
def fmtA (i : Nat) : Fmt := (Fmt.ofCode (iFa i)).getD .fp32
def fmtB (i : Nat) : Fmt := (Fmt.ofCode (iFb i)).getD .fp32
def fmtD (i : Nat) : Fmt := (Fmt.ofCode (iFd i)).getD .fp32

/-- The subnormal field holds a code (R441); ND ignores it (R461). -/
def subnOk (i : Nat) : Bool := iNd i || decide (iSubn i ≠ 3)

/-- A matrix instruction is legal (R413, R437, R465, R466). -/
def mmaOk (i : Nat) (write : Bool) : Bool :=
  match Fmt.ofCode (iFa i), Fmt.ofCode (iFb i), Fmt.ofCode (iFd i) with
  | some a, some b, some d =>
    subnOk i && scaleOk (iSa i) a [0, 1] && scaleOk (iSb i) b [0, 2] && (!write || scaleOk (iSd i) d [1, 2]) &&
    !((decide (a = .fp32) || decide (b = .fp32)) && decide (iSplit i = 0)) &&
    (!iAcc i || (a.integer && b.integer && decide (scaleCode (iSa i) = 0) && decide (scaleCode (iSb i) = 0) &&
      !scaleCoarse (iSa i) && !scaleCoarse (iSb i))) &&
    decide (bits (iImm i) 31 24 = 0)
  | _, _, _ => false

/-- A vector instruction is legal: `int` for those that act on INT32 lanes with ACC (R492). -/
def vecOk (i : Nat) (int : Bool) : Bool :=
  subnOk i && decide (1 ≤ iImm i) && decide (iImm i ≤ 1048576) &&
  (Fmt.ofCode (iFa i)).isSome && (Fmt.ofCode (iFb i)).isSome && (Fmt.ofCode (iFd i)).isSome &&
  (!iAcc i || (int && decide (iFa i = 0) && decide (iFb i = 0) && decide (iFd i = 0)))

/-- The instruction breaches no rule that R669 names. -/
def instrOk (i : Nat) : Bool :=
  match usedBits (iOp i) with
  | none => false
  | some m =>
    decide (i &&& m = i) &&
    (match iOp i with
     | 0x40 => mmaOk i false
     | 0x41 => mmaOk i true
     | 0x42 => decide (iRd i ≤ 2)
     | 0x50 | 0x51 | 0x53 | 0x54 | 0x57 => vecOk i true
     | 0x52 | 0x55 | 0x56 | 0x58 => vecOk i false
     | 0x59 => vecOk i false && scaleOk (iSd i) (fmtD i) [1, 2]
     | _ => true)

/-! ### Addresses an instruction names -/

/-- S[RA] + IMM, the address of LD and ST. -/
def memAddr (x : Tile) (i : Nat) : Nat := (x.sreg (iRa i) + BitVec.ofInt 64 (immInt i)).toNat

/-- Width in bytes of a vector element: INT32 lanes under ACC. -/
def laneBytes (i : Nat) (f : Fmt) (n : Nat) : Nat := if iAcc i then 4 * n else packedBytes f n

/-- Ranges read and written by a matrix or vector operation, in tile-local addresses. -/
def engineRanges (i dst a b c : Nat) : List (Nat × Nat) × List (Nat × Nat) :=
  let m := mmaM i
  let n := mmaN i
  let k := mmaK i
  let v := iImm i
  match iOp i with
  | 0x40 | 0x41 =>
    let rd := operandRanges a (fmtA i) (iSa i) m k (decide (scaleDir (iSa i) = 0)) ++
      operandRanges b (fmtB i) (iSb i) k n (decide (scaleDir (iSb i) = 2)) ++
      (if iRc i = 0 then [] else [(c, 4 * m * n)])
    (rd, if iOp i = 0x40 then [(dst, 4 * m * n)]
      else operandRanges dst (fmtD i) (iSd i) m n (decide (scaleDir (iSd i) = 2)))
  | 0x52 =>
    ([(a, laneBytes i (fmtA i) v), (b, laneBytes i (fmtB i) v), (c, laneBytes i (fmtD i) v)],
      [(dst, laneBytes i (fmtD i) v)])
  | 0x58 => ([(a, laneBytes i (fmtA i) v)], [(dst, laneBytes i (fmtD i) v)])
  | 0x59 => ([(a, laneBytes i (fmtA i) v)], operandRanges dst (fmtD i) (iSd i) 1 v (decide (scaleDir (iSd i) = 2)))
  | _ => ([(a, laneBytes i (fmtA i) v), (b, laneBytes i (fmtB i) v)], [(dst, laneBytes i (fmtD i) v)])

/-- The operands of an instruction as registers hold them. -/
def dstOf (x : Tile) (i : Nat) : Nat := (x.sreg (iRd i)).toNat
def srcAOf (x : Tile) (i : Nat) : Nat := (x.sreg (iRa i)).toNat
def srcBOf (x : Tile) (i : Nat) : Nat := (x.sreg (iRb i)).toNat
def srcCOf (x : Tile) (i : Nat) : Nat := (x.sreg (iRc i)).toNat

/-- The first range of a list outside what the tile may reach, by its start. -/
def badRange (s : State) (p : Program) (n : Nat) (rs : List (Nat × Nat)) : Option Nat :=
  (rs.find? fun r => !(inProgram s p r.1 r.2 && tileReachable s p n r.1 r.2)).map (·.1)

/-- The fault that an instruction raises when it executes, with FAULT_ADDR (R511, R570, R630, R652, R669, R670). -/
def faultOf (s : State) (p : Program) (n i : Nat) : Option (Nat × Nat) :=
  let x := tileAt s n
  if instrOk i = false then some (cIllegal, 0)
  else
    match iOp i with
    | 0x19 | 0x1A =>
      let a := memAddr x i
      if inSaveArea a 8 then none
      else if a % 8 = 0 ∧ inProgram s p a 8 = true ∧ tileReachable s p n a 8 = true then none else some (cAccess, a)
    | 0x60 =>
      let a := srcAOf x i
      let q := iImm i % 4096
      if tabGet 0 x.logical p.suppress ≠ 0 then none
      else if a % 8 ≠ 0 ∨ (badRange s p n [(a, 64)]).isSome then some (cAccess, a)
      else if (queueAt s q).state ≠ .enabled ∨ (queueAt s q).cls = 0 ∨ (queueAt s q).cls = 4 ∨ 4064 ≤ q then
        some (cAccess, a)
      else none
    | 0x61 =>
      let a := srcAOf x i
      if a % 8 = 0 ∧ rangeValid (hbmValid s) a 8 = true then none else some (cAccess, a)
    | op =>
      if 0x40 ≤ op ∧ op ≠ 0x42 ∧ op < 0x60 then
        let (rd, wr) := engineRanges i (dstOf x i) (srcAOf x i) (srcBOf x i) (srcCOf x i)
        (badRange s p n (rd ++ wr)).map fun a => (cAccess, a)
      else none

/-- The tile executes: its program has started there and nothing holds it (R160, R624, R643, R656, R1076). -/
def tileRuns (s : State) (n : Nat) : Bool :=
  let x := tileAt s n
  decide (x.state = .active) && x.works && !x.atStep && !x.stopped && !x.inTrap && packageRuns s && !dropping s

/-- The instruction at PC, when PC lies in the program area (R633 DISPATCH). -/
def fetchInstr (s : State) (p : Program) (n : Nat) : Option Nat :=
  let x := tileAt s n
  if x.pc % 16 = 0 ∧ inProgram s p x.pc 16 = true then some (leNat (tileRead s p n x.pc 16)) else none

/-- DISPATCH: IR, the entry point, and the windows discarded (R651, R669). -/
def dispatch (n i : Nat) (s : State) : State :=
  modTile n (fun x => { x with ir := i, upc := 0x800 + 4 * iOp i, cwp := 0, occ := 1, spill := 0, waits := false }) s

/-- The instruction waits: until it goes on the tile has no issued work of its own (R144). -/
def park (n : Nat) (s : State) : State := modTile n (fun x => { x with waits := true }) s

/-- A tile whose instruction goes on stops its ballast (R61). -/
def endBurst (n : Nat) (s : State) : State :=
  if (tileAt s n).burst = 0 ∨ (tileAt s n).waits = true then s else modTile n (fun x => { x with burst := 0 }) s

/-- Executing the instruction at PC when it is the opcode a command names: it faults, or has its effect. -/
def withInstr (t n op : Nat) (k : Program → Nat → State → State) (s : State) : Out :=
  let s := clockTo t s
  match s.prog with
  | none => .next s
  | some p =>
    if tileRuns s n = false then .next s
    else match fetchInstr s p n with
      | none => .next s
      | some i =>
        if iOp i ≠ op then .next s
        else match faultOf s p n i with
          | some (c, a) => .next (takeFault n c a (dispatch n i s))
          | none => .next (endBurst n (k p i (dispatch n i s)))

/-- RETIRE: PC moves past the instruction. -/
def retire (n : Nat) (s : State) : State := modTile n (fun x => { x with pc := (x.pc + 16) % 2 ^ 32 }) s

/-- RETIRE_JUMP: PC moves by IMM instructions. -/
def jump (n i : Nat) (s : State) : State :=
  modTile n (fun x => { x with pc := (((x.pc : Int) + 16 * immInt i) % (2 ^ 32 : Int)).toNat }) s

/-- Writing S[RD] and retiring. -/
def putRd (n i : Nat) (v : Word) (s : State) : State := retire n (modTile n (Tile.setS (iRd i) v) s)

/-- Two ranges share a byte. -/
def overlaps (a b : Nat × Nat) : Bool := decide (a.1 < b.1 + b.2) && decide (b.1 < a.1 + a.2)

/-- A pending engine operation touches a range: its writes, and its reads too when the range is written (R633). -/
def interlocked (x : Tile) (r : Nat × Nat) (writes : Bool) : Bool :=
  x.ops.any fun o =>
    let (rd, wr) := engineRanges o.instr o.dst o.srcA o.srcB o.srcC
    wr.any (overlaps r) || (writes && rd.any (overlaps r))

end Sys2Proof.Machine
end

