-- ==== Sys2Proof/Machine/Layout.lean ====
section
/-! DEFINITION. Views and mover commands (chapter 11): their fields, what makes one illegal, and where an element, a brick
and a scale lie. -/

namespace Sys2Proof.Machine

/-! ### Views (R564 to R568) -/

/-- A view record. -/
structure View where
  value : Nat
  scale : Nat
  space : Nat
  fmt : Fmt
  spec : Nat
  bx : Nat
  by_ : Nat
  /-- TARGET. -/
  target : Nat
  /-- WRAP_A0 to WRAP_A3. -/
  wrap : Nat
  oob : Bool
  kOnA1 : Bool
  ext : List Nat
  stride : List Int
  run : Nat
  owners : Nat
  dist : Nat
  deriving DecidableEq, Repr

/-- The view of a 64-byte record. -/
def viewOf (b : List Byte) : View :=
  { value := field b 0 6, scale := field b 6 6, space := field b 12 1 % 16
    fmt := (Fmt.ofCode (field b 13 1 % 16)).getD .fp32, spec := field b 14 1
    bx := 16 * 2 ^ bits (field b 15 1) 2 0, by_ := 2 ^ bits (field b 15 1) 6 3
    target := field b 16 2, wrap := field b 18 1 % 16, oob := bit (field b 18 1) 4, kOnA1 := bit (field b 18 1) 5
    ext := (List.range 4).map fun i => field b (20 + 4 * i) 4
    stride := (List.range 4).map fun i => signed (field b (36 + 6 * i) 6) 48
    run := field b 60 2, owners := field b 62 2 % 4096 + 1, dist := bits (field b 62 2) 13 12 }

def View.extent (v : View) (i : Nat) : Nat := v.ext.getD i 1

/-- Brick extent along an axis. -/
def View.brick (v : View) (i : Nat) : Nat := if i = 0 then v.bx else if i = 1 then v.by_ else 1

/-- Bricks along an axis (R568). -/
def View.grid (v : View) (i : Nat) : Nat := (v.extent i + v.brick i - 1) / v.brick i

/-- Value bytes of a brick. -/
def View.bytes (v : View) : Nat := v.bx * v.by_ * v.fmt.width / 8

/-- A fine scale is named. -/
def View.scaled (v : View) : Bool := decide (scaleCode v.spec ≠ 0)

/-- The block axis, a0 or a1 (R566). -/
def View.blockAxis (v : View) : Option Nat :=
  if v.scaled then some (if scaleDir v.spec = 0 then (if v.kOnA1 then 1 else 0) else (if v.kOnA1 then 0 else 1)) else none

/-- A view record is legal (R565 to R567, R571, R584). -/
def viewOk (b : List Byte) : Bool :=
  let v := viewOf b
  decide (field b 12 1 < 16) && decide (v.space ≤ 6) && decide (field b 13 1 < 16) &&
  (Fmt.ofCode (field b 13 1)).isSome && scaleOk v.spec v.fmt [0, 1, 2] &&
  decide (bits (field b 15 1) 2 0 ≤ 5) && decide (bits (field b 15 1) 6 3 ≤ 8) && !bit (field b 15 1) 7 &&
  (decide (v.space = 1) || decide (v.space = 5) || decide (v.target = 0)) && decide (field b 18 2 < 64) &&
  (List.range 4).all (fun i => decide (1 ≤ v.extent i)) &&
  (if v.space = 6 then decide (1 ≤ v.run) && decide (field b 62 2 < 2 ^ 14) else decide (v.run = 0) && decide (field b 62 2 = 0)) &&
  decide (v.bytes % 64 = 0) && decide (v.bytes ≤ 32768) && v.stride.all (fun x => decide (x % 64 = 0)) &&
  (match v.blockAxis with
   | some a => decide (v.brick a % scaleBlock v.spec = 0)
   | none => true) &&
  !(decide (v.space = 6) && decide (v.dist ≤ 1) && decide (v.extent v.dist % v.brick v.dist ≠ 0))

/-! ### Command records (R586 to R589) -/

/-- A command record. -/
structure MoverCmd where
  kind : Nat
  xform : Nat
  src : Nat
  dst : Nat
  so : List Int
  do_ : List Int
  shape : List Nat
  list : Nat
  /-- PARAM. -/
  param : Nat
  deriving DecidableEq, Repr

/-- The command of a 64-byte record. -/
def moverCmdOf (b : List Byte) : MoverCmd :=
  { kind := field b 0 1, xform := field b 1 1 % 16, src := field b 4 4, dst := field b 8 4
    so := (List.range 4).map fun i => signed (field b (12 + 4 * i) 4) 32
    do_ := (List.range 4).map fun i => signed (field b (28 + 4 * i) 4) 32
    shape := (List.range 4).map fun i => field b (44 + 2 * i) 2, list := field b 52 4, param := field b 56 8 }

def MoverCmd.taps (m : MoverCmd) : Nat := bits m.param 15 0
def MoverCmd.step (m : MoverCmd) : Nat := bits m.param 31 16
def MoverCmd.dilation (m : MoverCmd) : Nat := bits m.param 47 32
def MoverCmd.stackAxis (m : MoverCmd) : Nat := m.param % 4

/-- GATHER or SCATTER. -/
def MoverCmd.lists (m : MoverCmd) : Bool := decide (m.kind = 2) || decide (m.kind = 3)

/-- Source axis of destination axis `i` of a PERMUTE. -/
def MoverCmd.perm (m : MoverCmd) (i : Nat) : Nat := bits m.param (2 * i + 1) (2 * i)

def MoverCmd.count (m : MoverCmd) (i : Nat) : Nat := m.shape.getD i 0

/-- The source axis that a destination axis follows. -/
def MoverCmd.sourceAxis (m : MoverCmd) (i : Nat) : Nat :=
  if m.kind = 4 then m.perm i else if m.xform = 2 ∧ i ≤ 1 then 1 - i else i

/-- Elements covered along each axis of the source and of the destination, for a command without a list. -/
def MoverCmd.srcCount (m : MoverCmd) (i : Nat) : Nat :=
  if m.xform = 1 ∧ i = 1 then
    (if m.count 1 = 0 then 0 else (m.count 1 - 1) * m.step + (m.taps - 1) * m.dilation + 1) else m.count i

def MoverCmd.dstCount (m : MoverCmd) (i : Nat) : Nat :=
  if m.xform = 1 ∧ i = 0 then m.taps * m.count 0 else m.count (m.sourceAxis i)

/-- The record is legal by itself (R587; a list needs an entry). -/
def recordOk (b : List Byte) : Bool :=
  let m := moverCmdOf b
  let within (x : Nat) : Bool := decide (1 ≤ x) && decide (x ≤ 64)
  decide (1 ≤ m.kind) && decide (m.kind ≤ 4) && decide (field b 1 1 ≤ 2) && (decide (m.kind = 1) || decide (m.xform = 0)) &&
  decide (field b 2 2 = 0) && (m.lists || decide (m.list = 0)) &&
  (if m.xform = 1 then within m.taps && within m.step && within m.dilation && decide (bits m.param 63 48 = 0)
   else if m.lists then decide (m.param < 4) && decide (1 ≤ m.count 0)
   else if m.kind = 4 then
     decide (m.param < 256) && (List.range 4).all fun a => (List.range 4).any fun i => decide (m.perm i = a)
   else decide (m.param = 0))

/-- Origins and counts along an axis are multiples of `k`, a count that reaches the extent apart (R589). -/
def multipleOk (v : View) (o : List Int) (cnt : Nat → Nat) (axis k : Nat) : Bool :=
  decide (o.getD axis 0 % k = 0) &&
    (decide (cnt axis % k = 0) || decide ((v.extent axis : Int) ≤ o.getD axis 0 + cnt axis))

/-- R589 for one view. -/
def countsOk (v : View) (o : List Int) (cnt : Nat → Nat) : Bool :=
  (decide (8 ≤ v.fmt.width) || multipleOk v o cnt 0 8) &&
  (match v.blockAxis with
   | some a => multipleOk v o cnt a (scaleBlock v.spec)
   | none => true)

/-- The view would wrap along its block axis although its extent there is no multiple of the block (R575). -/
def wrapsBadly (v : View) (past : Nat → Bool) : Bool :=
  match v.blockAxis with
  | some a => bit v.wrap a && decide (v.extent a % scaleBlock v.spec ≠ 0) && past a
  | none => false

/-- A command and its views agree (R575, R588, R589, R598, R604, R606); `entries` is its brick list. -/
def commandOk (m : MoverCmd) (s d : View) (entries : List (List Nat)) : Bool :=
  decide (s.fmt = d.fmt) && decide (scaleCode s.spec = scaleCode d.spec) &&
  (!s.scaled || decide (scaleBlock s.spec = scaleBlock d.spec)) &&
  (match s.blockAxis, d.blockAxis with
   | some a, some b => decide (m.sourceAxis b = a)
   | _, _ => true) &&
  (if m.lists then
    let g := decide (m.kind = 2)
    let v := if g then d else s
    let o := if g then m.do_ else m.so
    let listed := if g then s else d
    decide (s.bx = d.bx) && decide (s.by_ = d.by_) && decide (o.getD 0 0 % v.bx = 0) && decide (o.getD 1 0 % v.by_ = 0) &&
    !wrapsBadly listed (fun a => entries.any fun e => decide (e.getD 0 0 ≠ 0xFFFF) && decide (listed.grid a ≤ e.getD a 0)) &&
    !wrapsBadly v (fun a => decide (o.getD a 0 < 0) ||
      decide ((v.grid a : Int) * v.brick a < o.getD a 0 + v.brick a * (if a = m.stackAxis then m.count 0 else 1)))
  else
    countsOk s m.so m.srcCount && countsOk d m.do_ m.dstCount &&
    !wrapsBadly s (fun a => decide (m.so.getD a 0 < 0) || decide ((s.extent a : Int) < m.so.getD a 0 + m.srcCount a)) &&
    !wrapsBadly d (fun a => decide (m.do_.getD a 0 < 0) || decide ((d.extent a : Int) < m.do_.getD a 0 + m.dstCount a)) &&
    (decide (m.xform ≠ 1) || (decide (s.blockAxis ≠ some 1) && decide (d.blockAxis ≠ some 1) &&
      (!s.scaled || decide (m.count 0 % scaleBlock s.spec = 0)))) &&
    (decide (m.xform ≠ 2) || (decide (d.bx = s.by_) && decide (d.by_ = s.bx) &&
      (decide (s.fmt.width = 4) || decide (s.fmt.width = 8) || decide (s.fmt.width = 16) || decide (s.fmt.width = 32)))))

/-! ### Places (R569 to R573, R580 to R585) -/

/-- Where the bricks of a view lie: space and sled or tile, base addresses, and a brick's coordinates and grid there. -/
structure Home where
  space : Nat
  target : Nat
  value : Nat
  scale : Nat
  c : List Nat
  g : List Nat
  deriving DecidableEq, Repr

/-- The home of a brick; none where its owner entry holds 0xFFFF (R580 to R582, R585). -/
def homeOf (s : State) (v : View) (c : List Nat) : Option Home :=
  let g := (List.range 4).map v.grid
  if v.space ≠ 6 then some { space := v.space, target := v.target, value := v.value, scale := v.scale, c := c, g := g }
  else
    let cd := c.getD v.dist 0
    let e := hbmRead s (v.value + 16 * (cd / v.run % v.owners)) 16
    if field e 0 2 = 0xFFFF then none
    else some {
      space := 5, target := field e 0 2, value := field e 2 6, scale := field e 8 6
      c := modIdx v.dist (fun _ => cd / (v.run * v.owners) * v.run + cd % v.run) c
      g := modIdx v.dist (fun n => v.run * ((n + v.run * v.owners - 1) / (v.run * v.owners))) g }

/-- The brick of element coordinates. -/
def View.brickOf (v : View) (x : List Nat) : List Nat := (List.range 4).map fun i => x.getD i 0 / v.brick i

/-- Byte address and bit of an element (R569). -/
def elementAddr (v : View) (h : Home) (x : List Nat) : Int × Nat :=
  let u := x.getD 0 0 % v.bx
  let r := x.getD 1 0 % v.by_
  let w := v.fmt.width
  let base : Int := (List.range 4).foldl (fun a i => a + (h.c.getD i 0 : Int) * v.stride.getD i 0) (h.value : Int)
  (base + (r * (v.bx * w / 8) : Nat) + (u * w / 8 : Nat), u * w % 8)

/-- Address of the fine scale of an element (R572, R573). -/
def scaleAddr (v : View) (h : Home) (axis : Nat) (x : List Nat) : Int :=
  let b := scaleBlock v.spec
  let u := x.getD 0 0 % v.bx
  let r := x.getD 1 0 % v.by_
  let sb := v.bx * v.by_ / b
  let l := h.c.getD 0 0 + h.g.getD 0 0 * (h.c.getD 1 0 + h.g.getD 1 0 * (h.c.getD 2 0 + h.g.getD 2 0 * h.c.getD 3 0))
  ((h.scale + l * sb + (if axis = 0 then r * (v.bx / b) + u / b else r / b * v.bx + u) : Nat) : Int)

/-- A byte's place: a kind (0 HBM, 1 cellar, 2 host memory, 16 + n the local memory of tile n, 1,024 + a the lend region of
sled a) and an address there. -/
abbrev Spot := Nat × Nat

/-- A byte of this sled's lend region (R544, R583). -/
def lendSpot (s : State) (a : Nat) : Option Spot :=
  if a < lendSize s ∧ hbmValid s (lendBase s + a) = true then some (0, lendBase s + a) else none

/-- A byte of an address space; none where the access faults (R511, R528, R538, R544, R570). -/
def spotOf (s : State) (p : Program) (n space target : Nat) (addr : Int) : Option Spot :=
  if addr < 0 then none
  else
    let a := addr.toNat
    match space with
    | 0 => if inProgram s p a 1 = true ∧ tileReachable s p n a 1 = true then some (16 + n, a) else none
    | 1 => match tileOf s target with
      | some m => if inProgram s p a 1 = true ∧ tileReachable s p m a 1 = true then some (16 + m, a) else none
      | none => none
    | 2 => if hbmValid s a then some (0, a) else none
    | 3 => if cellarValid s a then some (1, a) else none
    | 4 => match p.arena[a / pageBytes]? with
      | some (.hbm k) => let b := k * pageBytes + a % pageBytes; if hbmValid s b then some (0, b) else none
      | some (.cellar k) => let b := k * pageBytes + a % pageBytes; if cellarValid s b then some (1, b) else none
      | some (.host k) => some (2, objAt s 0x5104 0 + k * pageBytes + a % pageBytes)
      | some (.peer sled k) => some (1024 + sled, k * pageBytes + a % pageBytes)
      | none => none
    | _ => if target = sledAddress s then lendSpot s a else some (1024 + target, a)

/-- The byte at a spot of this sled. -/
def spotByte (s : State) (p : Program) (x : Spot) : Byte :=
  if x.1 = 0 then memGet s.hbm x.2
  else if x.1 = 1 then memGet s.cellar x.2
  else if x.1 = 2 then memGet s.hostMem x.2
  else if x.1 < 1024 then tileByte s p (x.1 - 16) x.2
  else 0

/-- The poisoned word that a spot lies in: its address and its space code of chapter 07 (R523, R1055). -/
def spotPoison (s : State) (p : Program) (x : Spot) : Option (Nat × Nat) :=
  if x.1 = 0 then (if poisoned s.tiers.hbmPoison x.2 1 then some (x.2 / 8 * 8, 1) else none)
  else if x.1 = 1 then (if poisoned s.tiers.cellarPoison x.2 1 then some (x.2 / 8 * 8, 2) else none)
  else if 16 ≤ x.1 ∧ x.1 < 1024 ∧ tilePoisoned s p (x.1 - 16) x.2 1 = true then
    some (windowAddr p (tileAt s (x.1 - 16)).logical x.2 / 8 * 8, 1)
  else none

/-! ### Elements in and out of bounds (R574, R576, R585, R599, R600) -/

/-- What a command names on one side: an element, a position of a listed brick, or the null entry. -/
inductive Ref where
  | elem (x : List Int)
  | cell (c : List Int) (u r : Nat)
  | null
  deriving DecidableEq, Repr

/-- What that is: in bounds, out of bounds, or a position of a brick beyond the extent. -/
inductive Where where
  | inside (h : Home) (x : List Nat)
  | outside
  | beyond (h : Home) (x : List Nat)
  deriving DecidableEq, Repr

/-- A coordinate in bounds, wrapped where its WRAP bit is set (R574, R600); `n` is the extent or the grid. -/
def wrapCoord (v : View) (i n : Nat) (x : Int) : Option Nat :=
  if 0 ≤ x ∧ x < n then some x.toNat else if bit v.wrap i then some (x % (n : Int)).toNat else none

/-- Every coordinate in bounds. -/
def wrapAll (v : View) (n : Nat → Nat) (x : List Int) : Option (List Nat) :=
  (List.range 4).mapM fun i => wrapCoord v i (n i) (x.getD i 0)

/-- Coordinates lie within the extents. -/
def View.within (v : View) (x : List Nat) : Bool := (List.range 4).all fun i => decide (x.getD i 0 < v.extent i)

/-- Resolving a reference. -/
def resolve (s : State) (v : View) : Ref → Where
  | .elem x =>
    match wrapAll v v.extent x with
    | none => .outside
    | some y => match homeOf s v (v.brickOf y) with
      | some h => .inside h y
      | none => .outside
  | .cell c u r =>
    match wrapAll v v.grid c with
    | none => .outside
    | some b => match homeOf s v b with
      | none => .outside
      | some h =>
        let x := [b.getD 0 0 * v.bx + u, b.getD 1 0 * v.by_ + r, b.getD 2 0, b.getD 3 0]
        if v.within x then .inside h x else .beyond h x
  | .null => .outside

/-- Scale code of 1.0 (R576). -/
def scaleOne (v : View) : Nat := if scaleCode v.spec = 1 then 0x7F else 0x38

/-- The place of the stored scale that an element takes: its own, or that of a block it shares with elements in bounds;
none when the block has none (R576). -/
def scalePlaceOf (s : State) (v : View) (axis : Nat) (f : Ref) : Option (Home × List Nat) :=
  let b := scaleBlock v.spec
  match resolve s v f with
  | .inside h x => some (h, x)
  | .beyond h x =>
    let y := modIdx axis (fun a => a / b * b) x
    if v.within y then some (h, y) else none
  | .outside =>
    match f with
    | .elem x =>
      match resolve s v (.elem (modIdx axis (fun a => a / b * b) x)) with
      | .inside h y => some (h, y)
      | _ => none
    | _ => none

end Sys2Proof.Machine
end

