-- ==== Sys2Proof/Machine/Engine.lean ====
section
/-! DEFINITION. The matrix and vector units (chapters 08, 09 and 12): issuing an operation and finishing it. -/

namespace Sys2Proof.Machine

/-- An operation as it issues, its arithmetic fields resolved (R461 to R463, R662). -/
def engineOp (p : Program) (x : Tile) (i : Nat) : EngineOp :=
  { instr := i, dst := dstOf x i, srcA := srcAOf x i, srcB := srcBOf x i, srcC := srcCOf x i
    rm := if iNd i then p.defRm else iRm i
    subn := if iNd i then p.defSubn else iSubn i
    stepwise := p.forceStepwise || (if iNd i then decide (p.defDot = 1) else iDot i)
    wrap := if iNd i then decide (p.defIovf = 1) else iIovf i
    csa := x.csa, csb := x.csb, csd := x.csd }

/-- Issuing to the matrix or vector unit and retiring (R662), or waiting while every slot is withheld (R663); the half-cycle
holds work (R138). -/
def issueEngine (n : Nat) (p : Program) (i : Nat) (s : State) : State :=
  if withheld s then s
  else retire n ((modTile n (fun x => { x with ops := x.ops ++ [engineOp p x i], issued := x.issued + 1 }) s).modGov fun g =>
    { g with workThis := true })

/-- What an operation writes, and the flags it raises. -/
structure EngineOut where
  writes : List (Nat × List Byte) := []
  flags : Nat := 0
  /-- Free values taken. -/
  free : Nat := 0
  deriving DecidableEq, Repr

/-- Reading bytes at an address. -/
abbrev Reads := Nat → Nat → List Byte

/-- Decoding element (r, c) of an operand of `cols` columns at `a` with its fine scale (R431). -/
def operandElem (rd : Reads) (a : Nat) (f : Fmt) (sp rows cols subn : Nat) (alongCols : Bool) (r c : Nat) : Val × Nat :=
  let code := elemAt rd a f.width (r * cols + c)
  if scaleCode sp = 0 then decodeElem f code 0 0 subn
  else
    let base := align64 (a + packedBytes f (rows * cols))
    decodeElem f code (scaleCode sp) (leNat (rd (base + scalePlace sp cols r c alongCols) 1)) subn

/-- Every element of an operand, row by row. -/
def operandRows (rd : Reads) (a : Nat) (f : Fmt) (sp rows cols subn : Nat) (alongCols : Bool) : List (List (Val × Nat)) :=
  (List.range rows).map fun r => (List.range cols).map fun c => operandElem rd a f sp rows cols subn alongCols r c

/-- OR of the flags of a list of results. -/
def orFlags {α : Type} (l : List (α × Nat)) : Nat := l.foldl (fun a x => a ||| x.2) 0

/-- Products along K of a row of A and a column of B (R467, R483). -/
def products (split : Nat) (sa sb : Bool) : List (Val × Nat) → List (Val × Nat) → List (Val × Nat)
  | a :: as, b :: bs => splitProd split sa sb a.1 b.1 :: products split sa sb as bs
  | _, _ => []

/-- One accumulator after a dot product: an exact value, or an integer (R471, R474, R489). -/
def dotElem (o : EngineOp) (int : Bool) (c : Nat) (ps : List (Val × Nat)) : Val × Nat :=
  if int then
    let (v, f) := dotInt o.stepwise o.wrap ps (signed c 32)
    (Val.ofInt v 0 false, f)
  else dotFp o.stepwise o.subn ps (decodeFloat fp32 c)

/-- An integer product that is NaN leaves a result the spec does not state (R419, R466, R489). -/
def openInt (int : Bool) (ps : List (Val × Nat)) : Bool := int && ps.any fun x => x.1 == Val.nan

/-- The accumulators of a matrix operation, row by row, each with its flags. -/
def mmaAccs (rd : Reads) (o : EngineOp) : List (List (Val × Nat)) × Nat × Nat :=
  let i := o.instr
  let m := mmaM i
  let n := mmaN i
  let k := mmaK i
  let a := operandRows rd o.srcA (fmtA i) (iSa i) m k o.subn (decide (scaleDir (iSa i) = 0))
  let b := operandRows rd o.srcB (fmtB i) (iSb i) k n o.subn (decide (scaleDir (iSb i) = 2))
  let fl := orFlags a.flatten ||| orFlags b.flatten
  let sa := decide (fmtA i = .fp32)
  let sb := decide (fmtB i = .fp32)
  let rows := (List.range m).map fun r =>
    let ar := a.getD r []
    (List.range n).map fun c =>
      let ps := products (iSplit i) sa sb ar (b.map fun row => row.getD c (.zero false, 0))
      let c0 := if iRc i = 0 then 0 else leNat (rd (o.srcC + 4 * (r * n + c)) 4)
      (ps, c0)
  let out := rows.map fun row => row.map fun (ps, c0) => dotElem o (iAcc i) c0 ps
  let opens := rows.flatten.foldl (fun x (ps, _) => if openInt (iAcc i) ps then x + 1 else x) 0
  -- an open result is marked NaN here and replaced by a free value below
  let marked := (rows.zip out).map fun (ri, ro) => (ri.zip ro).map fun ((ps, _), v) =>
    if openInt (iAcc i) ps then (Val.nan, v.2) else v
  (marked, fl ||| orFlags out.flatten, opens)

/-- The 32 bits of an accumulator: FP32, or two's complement; an open integer result is the free value `fv` (log
entry 2). -/
def accCode (int : Bool) (fv : Nat) (v : Val) : Nat :=
  if int then (if v = .nan then Config.freeValue fv % 2 ^ 32 else (v.toInt % (2 ^ 32 : Int)).toNat)
  else (encodeFloat fp32 true 0 0 v).1

/-- Giving each open element its own free value's number. -/
def numberOpen : Nat → List Val → List (Val × Nat)
  | _, [] => []
  | k, v :: t => (v, k) :: numberOpen (if v = .nan then k + 1 else k) t

/-- An accumulator read as an exact value for the write: an open integer result is its free value. -/
def accVal (int : Bool) (fv : Nat) (v : Val) : Val :=
  if int = true ∧ v = .nan then Val.ofInt (signed (Config.freeValue fv % 2 ^ 32) 32) 0 false else v

/-- acc × C_A × C_B (R485). -/
def withCoarse (o : EngineOp) (v : Val) : Val × Nat :=
  let (a, f1) := if scaleCoarse (iSa o.instr) then v.mul (decodeFloat fp32 o.csa) else (v, 0)
  let (b, f2) := if scaleCoarse (iSb o.instr) then a.mul (decodeFloat fp32 o.csb) else (a, 0)
  (b, f1 ||| f2)

/-- Cutting a matrix's columns into blocks down the rows: blocks of column `c` (R439). -/
def columnBlocks (b cols : Nat) (rows : List (List Val)) : List (List (List Val)) :=
  (chunksOf b rows.length rows).map fun band => (List.range cols).map fun c => band.map fun r => r.getD c (.zero false)

/-- Writing a matrix in a format with or without fine scales (R446, R457): bytes of values and scales, and flags. -/
def writeMatrix (f : Fmt) (sp rm subn cout : Nat) (alongCols : Bool) (cols : Nat) (rows : List (List Val)) :
    List Byte × List Byte × Nat :=
  let b := scaleBlock sp
  if scaleCode sp = 0 then
    let es := rows.flatten.map fun v => encodeElem f rm subn v
    (packElems f.width (es.map (·.1)), [], orFlags es)
  else if alongCols then
    let bs := rows.flatMap fun r => (chunksOf b r.length r).map fun x =>
      scaledBlock (x.map roundOdd24) cout f (scaleCode sp) rm subn
    (packElems f.width (bs.flatMap (·.codes)), bs.map fun x => BitVec.ofNat 8 x.scale,
      bs.foldl (fun a x => a ||| x.flags) 0)
  else
    let bands := (columnBlocks b cols rows).map fun band => band.map fun x =>
      scaledBlock (x.map roundOdd24) cout f (scaleCode sp) rm subn
    let codes := bands.flatMap fun band =>
      (List.range ((band.head?.map (·.codes.length)).getD 0)).flatMap fun r => band.map fun x => x.codes.getD r 0
    (packElems f.width codes, bands.flatten.map fun x => BitVec.ofNat 8 x.scale,
      bands.flatten.foldl (fun a x => a ||| x.flags) 0)

/-- The writes of values and of their scale array. -/
def matrixWrites (dst : Nat) (vals scales : List Byte) : List (Nat × List Byte) :=
  (dst, vals) :: (if scales.isEmpty then [] else [(align64 (dst + vals.length), scales)])

/-- The result of MMA and MMA_WRITE (R485 to R491). -/
def mmaResult (rd : Reads) (fc : Nat) (o : EngineOp) : EngineOut :=
  let i := o.instr
  let n := mmaN i
  let (rows, fl, opens) := mmaAccs rd o
  let nums := numberOpen fc (rows.flatten.map (·.1))
  if iOp i = 0x40 then
    { writes := [(o.dst, nums.flatMap fun (v, k) => natLe (accCode (iAcc i) k v) 4)], flags := fl
      free := if iAcc i then opens else 0 }
  else if iAcc i = false ∧ fmtD i = .fp32 ∧ scaleCoarse (iSa i) = false ∧ scaleCoarse (iSb i) = false then
    { writes := [(o.dst, nums.flatMap fun (v, k) => natLe (accCode false k v) 4)], flags := fl }
  else
    let ys := nums.map fun (v, k) => withCoarse o (accVal (iAcc i) k v)
    let (vals, scales, wf) := writeMatrix (fmtD i) (iSd i) o.rm o.subn o.csd (decide (scaleDir (iSd i) = 2)) n
      (chunksOf n ys.length (ys.map (·.1)))
    { writes := matrixWrites o.dst vals scales, flags := fl ||| orFlags ys ||| wf
      free := if iAcc i then opens else 0 }

/-! ### Vector operations (R492 to R496) -/

/-- One lane of a floating-point vector operation: the exact result or the chosen operand, and flags. -/
def vecExact (op : Nat) (a b c : Val) : Val × Nat :=
  match op with
  | 0x50 => sumVals [a, b]
  | 0x57 => sumVals [a, b.negate]
  | 0x51 => a.mul b
  | 0x52 => let (p, f) := a.mul b; let (r, g) := sumVals [p, c]; (r, f ||| g)
  | 0x53 => (minMax false false a b, 0)
  | 0x54 => (minMax true false a b, 0)
  | 0x55 => (minMax false true a b, 0)
  | 0x56 => (minMax true true a b, 0)
  | _ => (a, 0)

/-- An operation that never rounds and sets no flag of its own (R495). -/
def isMinMax (op : Nat) : Bool := decide (0x53 ≤ op) && decide (op ≤ 0x56)

/-- One lane on integers of width `w` (R492, R496). -/
def vecInt (w op : Nat) (wrap : Bool) (a b : Int) : Nat × Nat :=
  match op with
  | 0x50 => intLane w wrap (a + b)
  | 0x57 => intLane w wrap (a - b)
  | 0x51 => intLane w wrap (a * b)
  | 0x53 => intLane w wrap (min a b)
  | _ => intLane w wrap (max a b)

/-- The result of a vector operation. -/
def vecResult (rd : Reads) (o : EngineOp) : EngineOut :=
  let i := o.instr
  let op := iOp i
  let n := iImm i
  let int8 := decide (fmtA i = .int8) && decide (fmtB i = .int8) && decide (fmtD i = .int8)
  if iAcc i || (int8 && (op = 0x50 || op = 0x51 || op = 0x53 || op = 0x54 || op = 0x57)) then
    let w := if iAcc i then 32 else 8
    let at_ (base k : Nat) : Int := signed (leNat (rd (base + k * (w / 8)) (w / 8))) w
    let out := (List.range n).map fun k => vecInt w op o.wrap (at_ o.srcA k) (at_ o.srcB k)
    { writes := [(o.dst, out.flatMap fun x => natLe x.1 (w / 8))], flags := orFlags out }
  else
    let dec (base : Nat) (f : Fmt) (k : Nat) : Val × Nat := decodeElem f (elemAt rd base f.width k) 0 0 o.subn
    let two := decide (op ≠ 0x58) && decide (op ≠ 0x59)
    let lanes := (List.range n).map fun k =>
      let a := dec o.srcA (fmtA i) k
      let b := if two then dec o.srcB (fmtB i) k else (.zero false, 0)
      let c := if op = 0x52 then dec o.srcC (fmtD i) k else (.zero false, 0)
      let r := vecExact op a.1 b.1 c.1
      (r.1, a.2 ||| b.2 ||| c.2 ||| r.2)
    if op = 0x59 ∧ scaleCode (iSd i) ≠ 0 then
      let (vals, scales, wf) := writeMatrix (fmtD i) (iSd i) o.rm o.subn o.csd (decide (scaleDir (iSd i) = 2)) n
        [lanes.map (·.1)]
      { writes := matrixWrites o.dst vals scales, flags := orFlags lanes ||| wf }
    else
      let es := lanes.map fun v => encodeElem (fmtD i) o.rm o.subn v.1
      { writes := [(o.dst, packElems (fmtD i).width (es.map (·.1)))]
        flags := orFlags lanes ||| (if isMinMax op then 0 else orFlags es) }

/-- An operation belongs to the matrix unit. -/
def isMatrix (i : Nat) : Bool := decide (iOp i < 0x50)

/-- The result of an operation. -/
def engineResult (rd : Reads) (fc : Nat) (o : EngineOp) : EngineOut :=
  if isMatrix o.instr then mmaResult rd fc o else vecResult rd o

/-- A matrix or vector operation finishes: its result is written, its flags join its engine's set, and it retires
(R488, R501, R503, R523, R662). -/
def execEngineOperationComplete (t : Nat) (tile : Fin 160) (s : State) : Out :=
  let s := clockTo t s
  let n := tile.val
  match s.prog, (tileAt s n).ops with
  | some p, o :: rest =>
    if packageRuns s = false ∨ dropping s = true then .next s
    else
      let (rds, _) := engineRanges o.instr o.dst o.srcA o.srcB o.srcC
      if rds.any fun r => tilePoisoned s p n r.1 r.2 then .next (machineCheck n 8 s)
      else
        let out := engineResult (tileRead s p n) s.freeCount o
        let s := { s with freeCount := s.freeCount + out.free }
        let s := forEach (fun (w : Nat × List Byte) s => tilePut' p n w s) out.writes s
        .next (modTile n (fun x => { x with
          ops := rest, retired := x.retired + 1
          flags := x.flags ||| (if isMatrix o.instr then out.flags else 256 * out.flags) }) s)
  | _, _ => .next s
where
  /-- One of the result's writes. -/
  tilePut' (p : Program) (n : Nat) (w : Nat × List Byte) (s : State) : State := tileWrite p n w.1 w.2 s

end Sys2Proof.Machine
end

