-- ==== Sys2Proof/Machine/TileInstr.lean ====
section
/-! DEFINITION. The tile instructions (R669), each the effect of the instruction at a tile's PC. -/

namespace Sys2Proof.Machine

/-- NOP retires. -/
def execTileNop (t : Nat) (tile : Fin 160) (s : State) : Out :=
  withInstr t tile.val 0x01 (fun _ _ s => retire tile.val s) s

/-- END: once its engine operations have landed the program ends on the tile; logical index 0 gives the exit word. -/
def execTileEnd (t : Nat) (tile : Fin 160) (s : State) : Out :=
  withInstr t tile.val 0x02 (fun p i s =>
    let x := tileAt s tile.val
    if x.ops ≠ [] then s
    else
      let s := modTile tile.val (fun x => { x with works := false, endedAt := some p.step, upc := 4 }) s
      if x.logical = 0 then modProg (fun p => { p with exit := x.sreg (iRa i) }) s else s) s

/-- Every tile of the program has reached its step barrier; a tile on which the program has ended no longer counts. -/
def allAtStep (s : State) (p : Program) : Bool :=
  (programTiles s p).all fun n => let x := tileAt s n; x.atStep || x.endedAt.isSome

/-- The first half-cycle boundary or gate tick after the present instant (R624). -/
def gateInstant (s : State) (p : Program) : Nat × Nat :=
  let c := s.rb.pkgCycle
  let ph := s.rb.pkgPhase
  if p.stepGate = 1 then
    let off := objAt s 0x2010 0 % 2048
    if ph < off then (c, off)
    else if ph < off + 2048 then (c, off + 2048)
    else (c + 1, off)
  else if ph < p.gateTick then (c, p.gateTick) else (c + 1, p.gateTick)

/-- The program's comparator is loaded once every tile waits (R624). -/
def loadGate (s : State) : State :=
  match s.prog with
  | none => s
  | some p =>
    match p.cmp with
    | none => s
    | some i =>
      if p.stepGate = 0 ∨ p.gateLoaded = true ∨ allAtStep s p = false then s
      else
        let (n, ph) := gateInstant s p
        modProg (fun p => { p with gateLoaded := true }) (armPackage i n ph p.queue s)

/-- STEP: the tile waits at the barrier once its engines are idle (R624, R671). -/
def execTileStep (t : Nat) (tile : Fin 160) (s : State) : Out :=
  withInstr t tile.val 0x03 (fun _ _ s =>
    if (tileAt s tile.val).ops ≠ [] then s
    else loadGate (modTile tile.val (fun x => { x with atStep := true }) s)) s

/-- JMP. -/
def execJmp (t : Nat) (tile : Fin 160) (s : State) : Out :=
  withInstr t tile.val 0x04 (fun _ i s => jump tile.val i s) s

/-- A conditional branch: taken to PC + IMM × 16, otherwise to the next instruction. -/
def branch (t n op : Nat) (c : Word → Word → Bool) (s : State) : Out :=
  withInstr t n op (fun _ i s =>
    let x := tileAt s n
    if c (x.sreg (iRa i)) (x.sreg (iRb i)) then jump n i s else retire n s) s

/-- BEQ. -/
def execBeq (t : Nat) (tile : Fin 160) (s : State) : Out := branch t tile.val 0x05 (fun a b => a == b) s

/-- BNE. -/
def execBne (t : Nat) (tile : Fin 160) (s : State) : Out := branch t tile.val 0x06 (fun a b => a != b) s

/-- BLT, signed. -/
def execBlt (t : Nat) (tile : Fin 160) (s : State) : Out := branch t tile.val 0x07 (fun a b => a.slt b) s

/-- BGE, signed. -/
def execBge (t : Nat) (tile : Fin 160) (s : State) : Out := branch t tile.val 0x08 (fun a b => !a.slt b) s

/-- A register operation: S[RD] = f(S[RA], S[RB]). -/
def scalarOp (t n op : Nat) (f : Word → Word → Word) (s : State) : Out :=
  withInstr t n op (fun _ i s =>
    let x := tileAt s n
    putRd n i (f (x.sreg (iRa i)) (x.sreg (iRb i))) s) s

/-- ADD. -/
def execAdd (t : Nat) (tile : Fin 160) (s : State) : Out := scalarOp t tile.val 0x10 (fun a b => a + b) s

/-- SUB. -/
def execSub (t : Nat) (tile : Fin 160) (s : State) : Out := scalarOp t tile.val 0x11 (fun a b => a - b) s

/-- AND. -/
def execAnd (t : Nat) (tile : Fin 160) (s : State) : Out := scalarOp t tile.val 0x12 (fun a b => a &&& b) s

/-- OR. -/
def execOr (t : Nat) (tile : Fin 160) (s : State) : Out := scalarOp t tile.val 0x13 (fun a b => a ||| b) s

/-- XOR. -/
def execXor (t : Nat) (tile : Fin 160) (s : State) : Out := scalarOp t tile.val 0x14 (fun a b => a ^^^ b) s

/-- SHL, by S[RB] mod 64. -/
def execShl (t : Nat) (tile : Fin 160) (s : State) : Out :=
  scalarOp t tile.val 0x15 (fun a b => a <<< (b.toNat % 64)) s

/-- SHR, logical, by S[RB] mod 64. -/
def execShr (t : Nat) (tile : Fin 160) (s : State) : Out :=
  scalarOp t tile.val 0x16 (fun a b => a >>> (b.toNat % 64)) s

/-- ADDI. -/
def execAddi (t : Nat) (tile : Fin 160) (s : State) : Out :=
  withInstr t tile.val 0x17 (fun _ i s =>
    putRd tile.val i ((tileAt s tile.val).sreg (iRa i) + BitVec.ofInt 64 (immInt i)) s) s

/-- LI. -/
def execLi (t : Nat) (tile : Fin 160) (s : State) : Out :=
  withInstr t tile.val 0x18 (fun _ i s => putRd tile.val i (BitVec.ofInt 64 (immInt i)) s) s

/-- LD: waits for engine writes to the word; the save area and poison are machine checks (R523, R630, R631, R633). -/
def execLd (t : Nat) (tile : Fin 160) (s : State) : Out :=
  withInstr t tile.val 0x19 (fun p i s =>
    let x := tileAt s tile.val
    let a := memAddr x i
    if inSaveArea a 8 then machineCheck tile.val 7 s
    else if tilePoisoned s p tile.val a 8 then machineCheck tile.val 8 s
    else if interlocked x (a, 8) false then s
    else putRd tile.val i (BitVec.ofNat 64 (leNat (tileRead s p tile.val a 8))) s) s

/-- ST: waits for engine accesses to the word; the save area is a machine check (R630, R631, R633). -/
def execSt (t : Nat) (tile : Fin 160) (s : State) : Out :=
  withInstr t tile.val 0x1A (fun p i s =>
    let x := tileAt s tile.val
    let a := memAddr x i
    if inSaveArea a 8 then machineCheck tile.val 7 s
    else if interlocked x (a, 8) true then s
    else retire tile.val (tileWrite p tile.val a (natLe (x.sreg (iRb i)).toNat 8) s)) s

/-- SYNC.SS: every earlier store of the sequencer is already visible in this model, so the fence retires (R553). -/
def execSyncSs (t : Nat) (tile : Fin 160) (s : State) : Out :=
  withInstr t tile.val 0x20 (fun _ _ s => retire tile.val s) s

/-- SYNC.LL (R553). -/
def execSyncLl (t : Nat) (tile : Fin 160) (s : State) : Out :=
  withInstr t tile.val 0x21 (fun _ _ s => retire tile.val s) s

/-- SYNC.SL waits for the tile's engine writes as well, then retires (R549 to R553, R632). -/
def execSyncSl (t : Nat) (tile : Fin 160) (s : State) : Out :=
  withInstr t tile.val 0x22 (fun _ _ s => if (tileAt s tile.val).ops = [] then retire tile.val s else s) s

/-- FLAGRD: the sets once every earlier arithmetic instruction has retired (R503). -/
def execFlagrd (t : Nat) (tile : Fin 160) (s : State) : Out :=
  withInstr t tile.val 0x28 (fun _ i s =>
    let x := tileAt s tile.val
    if x.ops = [] then putRd tile.val i (BitVec.ofNat 64 x.flags) s else s) s

/-- FLAGSWP: the same, and the sets are cleared in the same step (R504). -/
def execFlagswp (t : Nat) (tile : Fin 160) (s : State) : Out :=
  withInstr t tile.val 0x29 (fun _ i s =>
    let x := tileAt s tile.val
    if x.ops = [] then
      putRd tile.val i (BitVec.ofNat 64 x.flags) (modTile tile.val (fun x => { x with flags := 0 }) s)
    else s) s

/-- FLAGCLR clears the sets (R502). -/
def execFlagclr (t : Nat) (tile : Fin 160) (s : State) : Out :=
  withInstr t tile.val 0x2A (fun _ _ s => retire tile.val (modTile tile.val (fun x => { x with flags := 0 }) s)) s

/-- Issuing a command record to a channel, or stalling while every slot is withheld (R663) or the channel is full, counted
once (R591). -/
def issueMover (n c addr : Nat) (s : State) : State × Bool :=
  let x := tileAt s n
  if withheld s then (s, false)
  else if 8 ≤ (x.chan c).commands.length then
    (if x.movStalled then s else count 0x5420 6 1 (modTile n (fun x => { x with movStalled := true }) s), false)
  else
    ((modTile n (fun x => { x.setChan c (fun ch => { ch with commands := ch.commands ++ [(addr, x.issued)] }) with
        movStalled := false }) s).modGov fun g => { g with workThis := true }, true)

/-- MOV0 and MOV1. -/
def movInstr (t n op c : Nat) (s : State) : Out :=
  withInstr t n op (fun _ i s =>
    let (s, ok) := issueMover n c (srcAOf (tileAt s n) i) s
    if ok then retire n s else s) s

/-- MOV0. -/
def execMov0 (t : Nat) (tile : Fin 160) (s : State) : Out := movInstr t tile.val 0x30 0 s

/-- MOV1. -/
def execMov1 (t : Nat) (tile : Fin 160) (s : State) : Out := movInstr t tile.val 0x31 1 s

/-- MVWAIT0 and MVWAIT1: wait until the channel is idle (R671). -/
def mvwait (t n op c : Nat) (s : State) : Out :=
  withInstr t n op (fun _ _ s => if ((tileAt s n).chan c).idle then retire n s else s) s

/-- MVWAIT0. -/
def execMvwait0 (t : Nat) (tile : Fin 160) (s : State) : Out := mvwait t tile.val 0x32 0 s

/-- MVWAIT1. -/
def execMvwait1 (t : Nat) (tile : Fin 160) (s : State) : Out := mvwait t tile.val 0x33 1 s

/-- An instruction that issues to the matrix or vector unit (R662). -/
def engineInstr (t n op : Nat) (s : State) : Out := withInstr t n op (fun p i s => issueEngine n p i s) s

/-- MMA. -/
def execMma (t : Nat) (tile : Fin 160) (s : State) : Out := engineInstr t tile.val 0x40 s

/-- MMA_WRITE. -/
def execMmaWrite (t : Nat) (tile : Fin 160) (s : State) : Out := engineInstr t tile.val 0x41 s

/-- SETCS: IMM into CSA, CSB or CSD. -/
def execSetcs (t : Nat) (tile : Fin 160) (s : State) : Out :=
  withInstr t tile.val 0x42 (fun _ i s =>
    retire tile.val (modTile tile.val (fun x =>
      if iRd i = 0 then { x with csa := iImm i }
      else if iRd i = 1 then { x with csb := iImm i } else { x with csd := iImm i }) s)) s

/-- VADD. -/
def execVadd (t : Nat) (tile : Fin 160) (s : State) : Out := engineInstr t tile.val 0x50 s

/-- VMUL. -/
def execVmul (t : Nat) (tile : Fin 160) (s : State) : Out := engineInstr t tile.val 0x51 s

/-- VFMA. -/
def execVfma (t : Nat) (tile : Fin 160) (s : State) : Out := engineInstr t tile.val 0x52 s

/-- VMIN. -/
def execVmin (t : Nat) (tile : Fin 160) (s : State) : Out := engineInstr t tile.val 0x53 s

/-- VMAX. -/
def execVmax (t : Nat) (tile : Fin 160) (s : State) : Out := engineInstr t tile.val 0x54 s

/-- VMINNUM. -/
def execVminnum (t : Nat) (tile : Fin 160) (s : State) : Out := engineInstr t tile.val 0x55 s

/-- VMAXNUM. -/
def execVmaxnum (t : Nat) (tile : Fin 160) (s : State) : Out := engineInstr t tile.val 0x56 s

/-- VSUB. -/
def execVsub (t : Nat) (tile : Fin 160) (s : State) : Out := engineInstr t tile.val 0x57 s

/-- VCVT. -/
def execVcvt (t : Nat) (tile : Fin 160) (s : State) : Out := engineInstr t tile.val 0x58 s

/-- VCVTS. -/
def execVcvts (t : Nat) (tile : Fin 160) (s : State) : Out := engineInstr t tile.val 0x59 s

/-- One accepted QSUB of a logical index is counted (R1075). -/
def countQsub (p : Program) (l : Nat) (s : State) : State := setQsubs p l (qsubsOf s p l + 1) s

/-- QSUB: submits the descriptor, waits while the ring is full, or retires unsubmitted in a replayed attempt (R369,
R670, R1075, R1077). -/
def execQsub (t : Nat) (tile : Fin 160) (s : State) : Out :=
  withInstr t tile.val 0x60 (fun p i s =>
    let x := tileAt s tile.val
    let a := srcAOf x i
    let left := tabGet 0 x.logical p.suppress
    if left ≠ 0 then
      retire tile.val (countQsub p x.logical
        (modProg (fun p => { p with suppress := tabPut 0 x.logical (left - 1) p.suppress }) s))
    else if interlocked x (a, 64) false then s
    else if tilePoisoned s p tile.val a 64 then machineCheck tile.val 8 s
    else match submitDesc (iImm i % 4096) (tileRead s p tile.val a 64) s with
      | some s => retire tile.val (countQsub p x.logical s)
      | none => park tile.val s) s

/-- QWAIT: waits until the HBM word is at or above S[RB] (R523, R671). -/
def execQwait (t : Nat) (tile : Fin 160) (s : State) : Out :=
  withInstr t tile.val 0x61 (fun _ i s =>
    let x := tileAt s tile.val
    let a := srcAOf x i
    if poisoned s.tiers.hbmPoison a 8 then machineCheck tile.val 8 s
    else if (x.sreg (iRb i)).toNat ≤ hbmWord s a then retire tile.val s else park tile.val s) s

/-! ### The step barrier (R505, R516, R540, R541, R624, R1074, R1080) -/

/-- Moving the listed bytes of one range of a memory to another memory. -/
def moveBytes (src : Memory) (a : Nat) (dst : Memory) (b n : Nat) : Memory :=
  let cleared := dst.filter fun (k, _) => k < b ∨ b + n ≤ k
  (src.filter fun (k, _) => a ≤ k ∧ k < a + n).foldl (fun m (k, v) => memPut m (k - a + b) v) cleared

/-- Copying one page's contents between tiers. -/
def copyPage (src dst : PageLoc) (s : State) : State :=
  let from_ : Memory × Nat := match src with
    | .hbm p => (s.hbm, p * pageBytes)
    | .cellar p => (s.cellar, p * pageBytes)
    | .host p => (s.hostMem, objAt s 0x5104 0 + p * pageBytes)
    | .peer _ _ => ([], 0)
  match dst with
  | .hbm p => { s with hbm := moveBytes from_.1 from_.2 s.hbm (p * pageBytes) pageBytes }
  | .cellar p => { s with cellar := moveBytes from_.1 from_.2 s.cellar (p * pageBytes) pageBytes }
  | .host p => { s with hostMem := moveBytes from_.1 from_.2 s.hostMem (objAt s 0x5104 0 + p * pageBytes) pageBytes }
  | .peer _ _ => s

/-- A page is taken or given back in its tier. -/
def markPage (v : Bool) (l : PageLoc) (s : State) : State :=
  match l with
  | .hbm p => markHbm v [p] s
  | .cellar p => s.modTiers fun t => { t with cellarUsed := markPages v [p] t.cellarUsed }
  | .host p => s.modTiers fun t => { t with hostUsed := markPages v [p] t.hostUsed }
  | .peer _ _ => s

/-- The fastest tier with a free page above the tier of a page (R539, R541). -/
def fasterPage (s : State) (l : PageLoc) : Option PageLoc :=
  let h := (freeHbm s 1).head?.map PageLoc.hbm
  let c := (freeCellar s 1).head?.map PageLoc.cellar
  match l with
  | .hbm _ => none
  | .cellar _ => h
  | .host _ => match h with | some x => some x | none => c
  | .peer _ _ => match h with
    | some x => some x
    | none => match c with | some x => some x | none => (freeHost s 1).head?.map PageLoc.host

/-- A read of a whole page that a peer holds leaves for its promotion. -/
def askPage (i sled page : Nat) (s : State) : State :=
  let k := s.links.nextAccess
  emit (.peerRequest k sled (page * pageBytes) pageBytes none) (s.modLinks fun l => { l with
    nextAccess := k + 1
    accesses := tabPut none k (some
      { user := .promote i, sled := sled, offset := page * pageBytes, length := pageBytes, write := false }) l.accesses })

/-- Arena page `i` moves into a faster tier with a free page, if there is one (R541): at once within the sled, and with the
peer's answer from a lend region. -/
def promotePage (i : Nat) (s : State) : State :=
  match s.prog.bind fun p => p.arena[i]? with
  | none => s
  | some l =>
    match fasterPage s l with
    | none => s
    | some d =>
      let s := markPage true d s
      match l with
      | .peer sled page => askPage i sled page (modProg (fun p => { p with promoting := p.promoting ++ [(i, d)] }) s)
      | .hbm _ | .cellar _ | .host _ =>
        modProg (fun p => { p with arena := p.arena.set i d }) (count 0x5120 2 1 (markPage false l (copyPage l d s)))

/-- The promotions of a step boundary begin, lowest page number first (R541). -/
def promoteAll (s : State) : State :=
  match s.prog with
  | none => s
  | some p =>
    if p.promoted = true ∨ objAt s 0x5108 0 ≠ 1 then s
    else forEach promotePage (List.range p.arena.length) (modProg (fun p => { p with promoted := true }) s)

/-- The answer to a page's promotion: its bytes stand in the faster tier, or the page stays where it is. -/
def pageAnswer (i status : Nat) (data : List Byte) (s : State) : State :=
  match s.prog.bind fun p => p.promoting.find? fun x => x.1 = i with
  | none => s
  | some (_, d) =>
    let s := modProg (fun p => { p with promoting := p.promoting.filter fun x => decide (x.1 ≠ i) }) s
    if status ≠ 0 then markPage false d s
    else
      let bs := padTo data pageBytes
      let s := match d with
        | .hbm p => hbmWrite (p * pageBytes) bs s
        | .cellar p => cellarWrite (p * pageBytes) bs s
        | .host p => hostWrite (objAt s 0x5104 0 + p * pageBytes) bs s
        | .peer _ _ => s
      modProg (fun p => { p with arena := p.arena.set i d }) (count 0x5120 2 1 s)

/-- A released tile goes on behind its STEP; its entry is written for the next step (R1074). -/
def releaseTile (p : Program) (n : Nat) (s : State) : State :=
  let x := tileAt s n
  if x.atStep = false then s
  else
    let s := modTile n (fun x => { x with
      atStep := false, works := decide (x.state = .active), burst := 0, pc := (x.pc + 16) % 2 ^ 32, upc := 8 }) s
    writeEntry p (tileAt s n) (tileAt s n).pc (p.step + 1) s

/-- A fenced tile's spare takes its index, its code and its entry (R516, R1080). -/
def replaceTile (p : Program) (n : Nat) (s : State) : State :=
  let had := tileAt s n
  match substitute n s with
  | (s, some m) =>
    if p.tiles ≤ had.logical ∨ (had.endedAt.isSome ∧ had.endedAt ≠ some p.step) then s
    else reloadTile p m (copyStream p m s)
  | (s, none) => s

/-- The gate of the step has fired and its turn on the tick has come (R60, R111), or none was asked for (R624). -/
def gateFired (s : State) (p : Program) : Bool :=
  decide (p.stepGate = 0) ||
    (match p.cmp with | some i => (tabGet {} i s.rb.pkgCmp).fired && turnOf i s | none => true)

/-- Step release: pages promoted, entries and flags checkpointed, spares substituted, and the next step begins. -/
def execStepRelease (t : Nat) (s : State) : Out :=
  let s := clockTo t s
  match s.prog with
  | none => .next s
  | some p =>
    let ts := programTiles s p
    let waits := ts.any fun n => (tileAt s n).atStep
    let quiet := ts.all fun n => (tileAt s n).quiet
    if p.replaying.isSome ∨ waits = false ∨ allAtStep s p = false ∨ quiet = false ∨ gateFired s p = false ∨
        packageRuns s = false ∨ dropping s = true ∨ s.life.state = .draining ∨ issueStopped s = true then .next s
    else
      let s := promoteAll s
      if (s.prog.map fun p => p.promoting.isEmpty) = some false then .next s
      else
        let s := match p.cmp with | some i => clearPackageCmp i s | none => s
        let s := forEach (releaseTile p) ts s
        let fenced := vacated s
        let s := modProg (fun p => { p with
          step := p.step + 1, attempts := 0, gateLoaded := false, promoted := false, suppress := [] }) s
        let s := forEach (replaceTile { p with step := p.step + 1 }) fenced s
        .next { s with junc := { s.junc with stepTaps := 0 } }

/-- The replay restarts every tile of the program from the checkpoint page once engines are idle and channels have
stopped (R1076 to R1078, R1081, R1055). -/
def execReplayRestart (t : Nat) (s : State) : Out :=
  let s := clockTo t s
  match s.prog with
  | none => .next s
  | some p =>
    match p.replaying with
    | none => .next s
    | some failed =>
      if packageRuns s = false ∨ dropping s = true ∨ issueStopped s = true then .next s
      else
        let ls := (programTiles s p).map fun n => (tileAt s n).logical
        let counts := ls.map fun l => (l, qsubsOf s p l)
        let spare := (spareFor s failed).getD failed
        let s := forEach (fun n s => replaceTile p n s) (vacated s) s
        let s := forEach (fun n s =>
          let x := tileAt s n
          if x.endedAt.isSome ∧ x.endedAt ≠ some p.step then modTile n (fun x => { x with stopped := false }) s
          else reloadTile p n s) (programTiles s p) s
        let s := forEach (fun (lc : Nat × Nat) s => setQsubs p lc.1 0 s) counts s
        let total := counts.foldl (fun a lc => a + lc.2) 0
        let s := modProg (fun p => { p with
          replaying := none, replayed := true
          suppress := counts.foldl (fun tb lc => tabPut 0 lc.1 lc.2 tb) [] }) s
        let tag := match (queueAt s p.queue).desc p.index with | some d => field d.data 4 4 | none => 0
        .next (count 0x9020 3 1 (record { cause := 0x9005, cls := 0, unitType := utTile, unit := spare, tag := tag
                                          queue := p.queue, detail0 := p.step
                                          detail1 := failed + 65536 * ((p.attempts + 1) % 256), detail2 := total } s))

end Sys2Proof.Machine
end

