-- ==== Sys2Proof/Machine/Mover.lean ====
section
/-! DEFINITION. Mover commands (chapter 11): the checks at a start, the elements a command moves, and its completion. -/

namespace Sys2Proof.Machine

/-! ### The elements of a command (R595 to R607) -/

/-- One element to move, or a null entry met (R599). -/
inductive Job where
  | move (src dst : Ref)
  | nullEntry
  deriving DecidableEq, Repr

/-- Coordinates of the k-th offset of a box, a0 fastest (R596). -/
def offsets (n : Nat → Nat) (k : Nat) : List Nat :=
  [k % n 0, k / n 0 % n 1, k / (n 0 * n 1) % n 2, k / (n 0 * n 1 * n 2)]

/-- Adding an offset to an origin. -/
def plus (o : List Int) (y : List Nat) : List Int := (List.range 4).map fun i => o.getD i 0 + (y.getD i 0 : Int)

/-- Jobs of a BOX or a PERMUTE, in destination order. -/
def boxJobs (m : MoverCmd) : List Job :=
  let n := m.dstCount
  (List.range (n 0 * n 1 * n 2 * n 3)).map fun k =>
    let z := offsets n k
    let y : List Nat :=
      if m.xform = 1 then
        [z.getD 0 0 % m.count 0, z.getD 1 0 * m.step + z.getD 0 0 / m.count 0 * m.dilation, z.getD 2 0, z.getD 3 0]
      else (List.range 4).map fun a => ((List.range 4).find? fun i => m.sourceAxis i = a).elim 0 fun i => z.getD i 0
    .move (.elem (plus m.so y)) (.elem (plus m.do_ z))

/-- Jobs of one entry of a GATHER or SCATTER. -/
def entryJobs (m : MoverCmd) (v : View) (i : Nat) (e : List Nat) : List Job :=
  let o := if m.kind = 2 then m.do_ else m.so
  let c : List Int := (List.range 4).map fun a => o.getD a 0 / v.brick a + (if a = m.stackAxis then (i : Int) else 0)
  let l : List Int := e.map fun (x : Nat) => (x : Int)
  let cells (f : Nat → Nat → Job) : List Job := (List.range (v.bx * v.by_)).map fun k => f (k % v.bx) (k / v.bx)
  if e.getD 0 0 = 0xFFFF then
    .nullEntry :: (if m.kind = 2 then cells fun u r => .move .null (.cell c u r) else [])
  else if m.kind = 2 then cells fun u r => .move (.cell l u r) (.cell c u r)
  else cells fun u r => .move (.cell c u r) (.cell l u r)

/-- Every job of a command, in its order. -/
def jobsOf (m : MoverCmd) (v : View) (entries : List (List Nat)) : List Job :=
  if m.lists then (numbered 0 entries).flatMap fun (i, e) => entryJobs m v i e else boxJobs m

/-! ### Moving -/

/-- Why a command stops early. -/
inductive Stop where
  | fault
  | poison (addr space : Nat)
  deriving DecidableEq, Repr

/-- A command under way: bytes written so far by kind * 2^64 + address, bricks touched, and counts. -/
structure Run where
  out : Tab Byte := []
  touched : List (List Nat) := []
  padded : Nat := 0
  discarded : Nat := 0
  nulls : Nat := 0
  moved : Nat := 0
  stop : Option Stop := none
  deriving DecidableEq, Repr

/-- What a run works in: state, program, tile, channel data read from peers, views, and whether OOB traps. -/
structure Setting where
  s : State
  p : Program
  n : Nat
  peer : Memory
  src : View
  dst : View
  trap : Bool

def spotKey (x : Spot) : Nat := x.1 * 2 ^ 64 + x.2

/-- Reading `k` bytes. -/
def runRead (e : Setting) (h : Home) (a : Int) : Nat → Run → Run × List Byte
  | 0, r => (r, [])
  | k + 1, r =>
    let (r, b) : Run × Byte :=
      match spotOf e.s e.p e.n h.space h.target a with
      | none => ({ r with stop := some .fault }, 0)
      | some x => match spotPoison e.s e.p x with
        | some (w, sp) => ({ r with stop := some (.poison w sp) }, 0)
        | none => (r, if x.1 < 1024 then spotByte e.s e.p x else memGet e.peer ((x.1 - 1024) * 2 ^ 48 + x.2))
    if r.stop.isSome then (r, [])
    else let (r, bs) := runRead e h (a + 1) k r; (r, b :: bs)

/-- Writing bytes. -/
def runWrite (e : Setting) (h : Home) (a : Int) : List Byte → Run → Run
  | [], r => r
  | b :: bs, r =>
    match spotOf e.s e.p e.n h.space h.target a with
    | none => { r with stop := some .fault }
    | some x => runWrite e h (a + 1) bs { r with out := tabInsert (spotKey x) b r.out }

/-- The byte a write would leave standing beside narrow elements. -/
def runOld (e : Setting) (h : Home) (a : Int) (r : Run) : Byte :=
  match spotOf e.s e.p e.n h.space h.target a with
  | some x => tabGet (spotByte e.s e.p x) (spotKey x) r.out
  | none => 0

/-- Writing an element's code (R420, R421, R569). -/
def putCode (e : Setting) (h : Home) (x : List Nat) (code : Nat) (r : Run) : Run :=
  let w := e.dst.fmt.width
  let (a, b) := elementAddr e.dst h x
  let k := (b + w + 7) / 8
  let old := leNat ((List.range k).map fun (i : Nat) => runOld e h (a + (i : Int)) r)
  runWrite e h a (natLe (old - old / 2 ^ b % 2 ^ w * 2 ^ b + code % 2 ^ w * 2 ^ b) k) r

/-- Writing a scale (R573, R594). -/
def putScale (e : Setting) (h : Home) (x : List Nat) (code : Nat) (r : Run) : Run :=
  match e.dst.blockAxis with
  | some axis => runWrite e h (scaleAddr e.dst h axis x) (natLe code 1) r
  | none => r

/-- The positions of a partial brick beyond the extent are padded, once for each brick (R578). -/
def padBrick (e : Setting) (h : Home) (x : List Nat) (r : Run) : Run :=
  let v := e.dst
  let c := v.brickOf x
  if r.touched.contains c then r
  else
    let r := { r with touched := c :: r.touched }
    forEach (fun k r =>
      let y := [c.getD 0 0 * v.bx + k % v.bx, c.getD 1 0 * v.by_ + k / v.bx, c.getD 2 0, c.getD 3 0]
      if v.within y then r
      else
        let r := putCode e h y 0 r
        match v.blockAxis with
        | some a =>
          if v.within (modIdx a (fun i => i / scaleBlock v.spec * scaleBlock v.spec) y) then r
          else putScale e h y (scaleOne v) r
        | none => r) (List.range (v.bx * v.by_)) r

/-- The scale that an element brings along. -/
def getScale (e : Setting) (f : Ref) (r : Run) : Run × Nat :=
  match e.src.blockAxis with
  | none => (r, 0)
  | some axis => match scalePlaceOf e.s e.src axis f with
    | some (h, x) => let (r, b) := runRead e h (scaleAddr e.src h axis x) 1 r; (r, leNat b)
    | none => (r, scaleOne e.src)

/-- Reading the source of a job (R576, R577, R579, R599). -/
def getCode (e : Setting) (f : Ref) (r : Run) : Run × Nat :=
  match resolve e.s e.src f with
  | .inside h x =>
    let w := e.src.fmt.width
    let (a, b) := elementAddr e.src h x
    let (r, bs) := runRead e h a ((b + w + 7) / 8) r
    (r, leNat bs / 2 ^ b % 2 ^ w)
  | .beyond _ _ => (r, 0)
  | .outside =>
    if f = .null then (r, 0)
    else if e.trap || e.src.oob then ({ r with stop := some .fault }, 0)
    else ({ r with padded := r.padded + 1 }, 0)

/-- The offset opens a block of the destination. -/
def opensBlock (v : View) (f : Ref) : Bool :=
  match v.blockAxis, f with
  | some a, .elem x => decide (x.getD a 0 % scaleBlock v.spec = 0)
  | _, _ => false

/-- One job. -/
def runJob (e : Setting) (j : Job) (r : Run) : Run :=
  if r.stop.isSome then r
  else match j with
    | .nullEntry => { r with nulls := r.nulls + 1 }
    | .move f g =>
      let (r, code) := getCode e f r
      if r.stop.isSome then r
      else
        let (r, sc) := getScale e f r
        if r.stop.isSome then r
        else
          let r := { r with moved := r.moved + 1 + (if opensBlock e.dst g then 1 else 0) }
          match resolve e.s e.dst g with
          | .inside h x => putScale e h x sc (putCode e h x code (padBrick e h x r))
          | .beyond h x => padBrick e h x r
          | .outside =>
            if e.trap || e.dst.oob then { r with stop := some .fault } else { r with discarded := r.discarded + 1 }

/-- Consecutive keys gathered into runs of bytes. -/
def runsOf : Tab Byte → List (Nat × List Byte)
  | [] => []
  | (k, b) :: t => match runsOf t with
    | (j, bs) :: r => if j = k + 1 then (k, b :: bs) :: r else (k, [b]) :: (j, bs) :: r
    | [] => [(k, [b])]

/-! ### Peer accesses of a command (R547, R583) -/

/-- A peer access of a channel leaves. -/
def moverAccess (n c sled off len : Nat) (data : Option (List Byte)) (s : State) : State :=
  let k := s.links.nextAccess
  let s := s.modLinks fun l => { l with
    nextAccess := k + 1
    accesses := tabPut none k (some
      { user := .mover n c, sled := sled, offset := off, length := len, write := data.isSome }) l.accesses }
  modTile n (fun x => x.setChan c fun ch => { ch with waiting := ch.waiting + 1 }) (emit (.peerRequest k sled off len data) s)

/-- Writing one run of bytes where it belongs. -/
def commitRun (p : Program) (n c : Nat) (kb : Nat × List Byte) (s : State) : State :=
  let kind := kb.1 / 2 ^ 64
  let a := kb.1 % 2 ^ 64
  if kind = 0 then hbmWrite a kb.2 s
  else if kind = 1 then cellarWrite a kb.2 s
  else if kind = 2 then hostWrite a kb.2 s
  else if kind < 1024 then tileWrite p (kind - 16) a kb.2 s
  else moverAccess n c (kind - 1024) a kb.2.length (some kb.2) s

/-- The 64-byte sectors of peers that a list of byte places touches. -/
def sectors (s : State) (p : Program) (n : Nat) (h : Home) (a : Int) (k : Nat) : List (Nat × Nat) :=
  (List.range k).filterMap fun (i : Nat) => match spotOf s p n h.space h.target (a + (i : Int)) with
    | some x => if 1024 ≤ x.1 then some (x.1 - 1024, x.2 / 64) else none
    | none => none

/-- The peer sectors that a job reads. -/
def jobSectors (e : Setting) : Job → List (Nat × Nat)
  | .nullEntry => []
  | .move f _ =>
    (match resolve e.s e.src f with
     | .inside h x =>
       let (a, b) := elementAddr e.src h x
       sectors e.s e.p e.n h a ((b + e.src.fmt.width + 7) / 8)
     | _ => []) ++
    (match e.src.blockAxis with
     | some axis => match scalePlaceOf e.s e.src axis f with
       | some (h, x) => sectors e.s e.p e.n h (scaleAddr e.src h axis x) 1
       | none => []
     | none => [])

/-! ### Starting and running (R590, R591) -/

/-- The brick list of a command. -/
def entriesOf (s : State) (p : Program) (n : Nat) (m : MoverCmd) : List (List Nat) :=
  if m.lists then
    (List.range (m.count 0)).map fun i =>
      let b := tileRead s p n (m.list + 8 * i) 8
      (List.range 4).map fun a => field b (2 * a) 2
  else []

/-- The command at the head of a channel ends. -/
def popCommand (n c : Nat) (s : State) : State :=
  modTile n (fun x => x.setChan c fun ch => { commands := ch.commands.drop 1 }) s

/-- A command raises a trap: at once, or once the tile has left the trap it is in (R656).  FAULT_ADDR is free, because no
microword's ALU result stands behind it. -/
def failChannel (n c cause : Nat) (s : State) : State :=
  if (tileAt s n).inTrap then modTile n (fun x => x.setChan c fun ch => { ch with started := true, fault := some cause }) s
  else
    let (i, s) := takeFree s
    takeFault n cause (Config.freeValue i % 2 ^ 64) (popCommand n c s)

/-- The setting of a channel's started command. -/
def settingOf (s : State) (p : Program) (n c : Nat) : Setting :=
  let ch := (tileAt s n).chan c
  { s := s, p := p, n := n, peer := ch.peer, src := viewOf ((ch.held.drop 64).take 64), dst := viewOf (ch.held.drop 128)
    trap := p.oobTrap }

/-- The brick of the destination view that a job moves to. -/
def jobBrick (v : View) : Job → List Int
  | .nullEntry => []
  | .move _ (.elem x) => (List.range 4).map fun i => x.getD i 0 / (v.brick i : Int)
  | .move _ (.cell c _ _) => c
  | .move _ .null => []

/-- A command's jobs in order.  On channel 1 a hamper brick of the tile's share goes first and before every further brick,
while there is one (R593; a hamper brick is one slab, log entry 143). -/
def runJobs (e : Setting) (c : Nat) : List Job → Option (List Int) → Run → State → Run × State
  | [], _, r, s => (r, s)
  | j :: js, b, r, s =>
    let k := some (jobBrick e.dst j)
    let s := if c = 1 ∧ b ≠ k ∧ r.stop = none then hamperBrick (tileAt s e.n).logical s else s
    runJobs e c js k (runJob { e with s := s } j r) s

/-- The transfer takes place: its writes, its counts, and what stops it (R523, R570, R577, R579). -/
def runTransfer (p : Program) (n c : Nat) (s : State) : State :=
  let e := settingOf s p n c
  let m := moverCmdOf (((tileAt s n).chan c).held.take 64)
  let (r, s) := runJobs e c (jobsOf m (if m.kind = 2 then e.dst else e.src) (entriesOf s p n m)) none {} s
  let s := modTile n (fun x => x.setChan c fun ch => { ch with moved := true, peer := [] }) s
  let s := forEach (commitRun p n c) (runsOf r.out) s
  let s := count 0x5420 2 r.padded (count 0x5420 3 r.discarded (count 0x5420 4 r.nulls s))
  let s := if m.kind = 4 then count 0x5420 5 r.moved s else s
  match r.stop with
  | none => s
  | some .fault => failChannel n c cAccess s
  | some (.poison a sp) => abortProgram 0x5001 a sp s

/-- A range of the tile's program area that a command's start reads: absent, poisoned, or its bytes. -/
def readCtl (s : State) (p : Program) (n a len align : Nat) : Option (List Byte) :=
  if a % align = 0 ∧ (badRange s p n [(a, len)]).isNone = true then some (tileRead s p n a len) else none

/-- Mover channels of the tile run (R160, R1076). -/
def moverRuns (s : State) (n : Nat) : Bool :=
  let x := tileAt s n
  decide (x.state = .active) && !x.stopped && packageRuns s && !dropping s

/-- Requesting every sector that a command reads from peers, or moving at once when it reads none. -/
def beginTransfer (p : Program) (n c : Nat) (m : MoverCmd) (s : State) : State :=
  let e := settingOf s p n c
  let need := ((jobsOf m (if m.kind = 2 then e.dst else e.src) (entriesOf s p n m)).flatMap (jobSectors e)).eraseDups
  if need.isEmpty then runTransfer p n c s
  else forEach (fun (x : Nat × Nat) s => moverAccess n c x.1 (64 * x.2) 64 none s) need s

/-- The channel starts its oldest command, whose kind is `k`; reserved kinds start under BOX (R556, R565, R587, R590). -/
def startMover (t n c k : Nat) (s : State) : Out :=
  let s := clockTo t s
  match s.prog with
  | none => .next s
  | some p =>
    let x := tileAt s n
    let ch := x.chan c
    match ch.commands with
    | [] => .next s
    | (addr, stamp) :: _ =>
      if moverRuns s n = false ∨ ch.started = true ∨ x.retired < stamp then .next s
      else match readCtl s p n addr 64 64 with
        | none => if k = 1 then .next (failChannel n c cAccess (count 0x5420 1 1 s)) else .next s
        | some rec =>
          let m := moverCmdOf rec
          if (if 2 ≤ m.kind ∧ m.kind ≤ 4 then m.kind else 1) ≠ k then .next s
          else
            let s := count 0x5420 1 1 s
            let ctl := if recordOk rec then [(m.src, 64), (m.dst, 64), (m.list, if m.lists then 8 * m.count 0 else 0)] else []
            let bad := ((addr, 64) :: ctl).find?
              fun r => decide (0 < r.2) && (badRange s p n [r]).isNone && tilePoisoned s p n r.1 r.2
            if let some (a, _) := bad then .next (abortProgram 0x5001 (windowAddr p x.logical a / 8 * 8) 1 s)
            else if recordOk rec = false then .next (failChannel n c cIllegal s)
            else match readCtl s p n m.src 64 64, readCtl s p n m.dst 64 64,
                readCtl s p n m.list (if m.lists then 8 * m.count 0 else 0) 8 with
              | some sv, some dv, some _ =>
                if viewOk sv = false ∨ viewOk dv = false ∨
                    commandOk m (viewOf sv) (viewOf dv) (entriesOf s p n m) = false then
                  .next (failChannel n c cIllegal s)
                else
                  .next (beginTransfer p n c m (modTile n (fun x => x.setChan c fun ch => { ch with
                    started := true, moved := false, waiting := 0, peer := [], held := rec ++ sv ++ dv }) s))
              | _, _, _ => .next (failChannel n c cAccess s)

/-- BOX (R595, R602, R605). -/
def execBox (t : Nat) (tile : Fin 160) (chan : Fin 2) (s : State) : Out := startMover t tile.val chan.val 1 s

/-- GATHER (R597). -/
def execGather (t : Nat) (tile : Fin 160) (chan : Fin 2) (s : State) : Out := startMover t tile.val chan.val 2 s

/-- SCATTER (R597). -/
def execScatter (t : Nat) (tile : Fin 160) (chan : Fin 2) (s : State) : Out := startMover t tile.val chan.val 3 s

/-- PERMUTE (R607). -/
def execPermute (t : Nat) (tile : Fin 160) (chan : Fin 2) (s : State) : Out := startMover t tile.val chan.val 4 s

/-- The writes of a command have become visible: the channel's place is free.  A fault that had to wait is taken
(R556, R656). -/
def execMoverCommandComplete (t : Nat) (tile : Fin 160) (chan : Fin 2) (s : State) : Out :=
  let s := clockTo t s
  let n := tile.val
  let c := chan.val
  let ch := (tileAt s n).chan c
  if moverRuns s n = false ∨ ch.started = false then .next s
  else match ch.fault with
    | some cause => if (tileAt s n).inTrap then .next s else .next (failChannel n c cause s)
    | none => if ch.moved = true ∧ ch.waiting = 0 then .next (popCommand n c s) else .next s

end Sys2Proof.Machine
end

