-- ==== Sys2Proof/Machine/Arrays.lean ====
section
/-! DEFINITION. The scoring arrays (chapter 13): planes and their loading, quantisation and the Score stage, temperature,
recalibration and refresh; and how the Junction reaches rows of a view. -/

namespace Sys2Proof.Machine

/-! ### Fields of a layer record (R684, R728) -/

def Layer.tokens (l : Layer) : Nat := field l.data 0 4
def Layer.hidden (l : Layer) : Nat := field l.data 4 2
def Layer.experts (l : Layer) : Nat := field l.data 6 2
def Layer.k (l : Layer) : Nat := field l.data 8 1
def Layer.digital (l : Layer) : Bool := bit (field l.data 9 1) 0
def Layer.scoreMode (l : Layer) : Nat := bits (field l.data 9 1) 2 1
def Layer.shift (l : Layer) : Nat := bits (field l.data 9 1) 6 3
def Layer.plane (l : Layer) : Nat := bits (field l.data 9 1) 7 7
def Layer.gateFn (l : Layer) : Nat := bits (field l.data 10 1) 1 0
def Layer.renorms (l : Layer) : Bool := bit (field l.data 10 1) 2
def Layer.byGate (l : Layer) : Bool := bit (field l.data 10 1) 3
def Layer.group (l : Layer) : Nat := field l.data 12 2
def Layer.scoreAddr (l : Layer) : Nat := field l.data 24 8
def Layer.maskAddr (l : Layer) : Nat := field l.data 40 8
def Layer.recvAddr (l : Layer) : Nat := field l.data 48 8
def Layer.retAddr (l : Layer) : Nat := field l.data 56 8
def Layer.readyAddr (l : Layer) : Nat := field l.data 72 8
def Layer.doneAddr (l : Layer) : Nat := field l.data 80 8
def Layer.statsAddr (l : Layer) : Nat := field l.data 88 8
def Layer.actView (l : Layer) : View := viewOf l.act
def Layer.retView (l : Layer) : View := viewOf l.ret

/-! ### Bytes of a view that the Junction reads and writes -/

/-- Where a byte of a view lies for the Junction: HBM, or the running program's arena (R729). -/
def juncSpot (s : State) (space : Nat) (a : Int) : Option Spot :=
  if space = 2 then (if 0 ≤ a ∧ hbmValid s a.toNat = true then some (0, a.toNat) else none)
  else match s.prog with
    | some p => spotOf s p 0 4 0 a
    | none => none

/-- A byte as the Junction reads it; one of another sled's memory is a free value (log entry 44). -/
def juncByte (s : State) (x : Spot) : Byte :=
  if x.1 = 0 then memGet s.hbm x.2
  else if x.1 = 1 then memGet s.cellar x.2
  else if x.1 = 2 then memGet s.hostMem x.2
  else BitVec.ofNat 8 (Config.freeValue (s.freeCount + 2 ^ 63 + 2 ^ 48 * (x.1 - 1024) + x.2))

/-- The byte lies in a poisoned word. -/
def juncPoison (s : State) (x : Spot) : Bool :=
  (decide (x.1 = 0) && poisoned s.tiers.hbmPoison x.2 1) || (decide (x.1 = 1) && poisoned s.tiers.cellarPoison x.2 1)

/-- Bytes and the cause that stops their use: 0 none, ADDRESS_FAULT or MEM_UNCORRECTABLE. -/
def juncRead (s : State) (space : Nat) (a : Int) (n : Nat) : List Byte × Nat :=
  (List.range n).foldl (fun (bs, c) (i : Nat) =>
    match juncSpot s space (a + (i : Int)) with
    | none => (bs ++ [0], if c = 0 then 0xA007 else c)
    | some x => (bs ++ [juncByte s x], if c = 0 ∧ juncPoison s x = true then 0x5001 else c)) ([], 0)

/-- The first cause of a list. -/
def firstCause (l : List Nat) : Nat := (l.find? fun c => c ≠ 0).getD 0

/-- Element `i` of row `t` of a view, its code and its cause. -/
def rowCode (s : State) (v : View) (t i : Nat) : Nat × Nat :=
  let x := [i, t, 0, 0]
  match homeOf s v (v.brickOf x) with
  | none => (0, 0xA007)
  | some h =>
    let (a, b) := elementAddr v h x
    let (bs, c) := juncRead s v.space a ((b + v.fmt.width + 7) / 8)
    (leNat bs / 2 ^ b % 2 ^ v.fmt.width, c)

/-- Fine scale `k` of row `t`, blocks along a0. -/
def rowScale (s : State) (v : View) (t k : Nat) : Nat × Nat :=
  let x := [k * scaleBlock v.spec, t, 0, 0]
  match homeOf s v (v.brickOf x) with
  | none => (0, 0xA007)
  | some h =>
    let (bs, c) := juncRead s v.space (scaleAddr v h 0 x) 1
    (leNat bs, c)

/-- Scales of a row (R747): SC. -/
def View.rowScales (v : View) : Nat :=
  if v.scaled then (v.extent 0 + scaleBlock v.spec - 1) / scaleBlock v.spec else 0

/-- A row of a view: codes, scales and cause. -/
def readRow (s : State) (v : View) (t : Nat) : List Nat × List Nat × Nat :=
  let cs := (List.range (v.extent 0)).map (rowCode s v t)
  let sc := (List.range v.rowScales).map (rowScale s v t)
  (cs.map (·.1), sc.map (·.1), firstCause ((cs ++ sc).map (·.2)))

/-- The bytes of an HBM range and the cause that stops their use. -/
def hbmFetch (s : State) (a n : Nat) : List Byte × Nat :=
  (hbmRead s a n,
    if rangeValid (hbmValid s) a n = false then 0xA007 else if poisoned s.tiers.hbmPoison a n then 0x5001 else 0)

/-- Writing gathered bytes, keyed by kind * 2^64 + address, where they belong. -/
def juncCommit (out : Tab Byte) (s : State) : State :=
  forEach (fun (kb : Nat × List Byte) s =>
    let kind := kb.1 / 2 ^ 64
    let a := kb.1 % 2 ^ 64
    if kind = 0 then hbmWrite a kb.2 s
    else if kind = 1 then cellarWrite a kb.2 s
    else if kind = 2 then hostWrite a kb.2 s
    else emit (.peerRequest 0 (kind - 1024) a kb.2.length (some kb.2)) s) (runsOf out) s

/-- Writing a row of FP32, BF16 or FP16 codes, or the cause that prevents it (R755). -/
def writeRow (v : View) (t : Nat) (codes : List Nat) (s : State) : State × Nat :=
  let spots := (numbered 0 codes).flatMap fun (i, c) =>
    match homeOf s v (v.brickOf [i, t, 0, 0]) with
    | none => [(none, (0 : Byte))]
    | some h =>
      let a := (elementAddr v h [i, t, 0, 0]).1
      (numbered 0 (natLe c (v.fmt.width / 8))).map fun (j, b) => (juncSpot s v.space (a + (j : Int)), b)
  if spots.any fun x => x.1.isNone then (s, 0xA007)
  else
    (juncCommit (spots.foldl (fun t x => match x.1 with
      | some y => tabInsert (spotKey y) x.2 t
      | none => t) []) s, 0)

/-! ### Arrays and planes (R676 to R685) -/

/-- An array. -/
def arrAt (s : State) (n : Nat) : Arr := tabGet {} n s.junc.arrays

/-- Changing an array. -/
def modArr (n : Nat) (f : Arr → Arr) (s : State) : State :=
  s.modJunc fun j => { j with arrays := tabPut {} n (f (tabGet {} n j.arrays)) j.arrays }

/-- The trims that a calibration of an array sets: measured, so a free value (R708; log entry 2). -/
def calibrated (s : State) (n : Nat) : List Byte := padTo (Config.arrayTrims n s.now) 258

/-- U: arrays that are neither FAILED_SWEEP nor FAILED_RECAL (R685). -/
def usableArrays (s : State) : Nat :=
  countTo 32 fun n => decide ((arrAt s n).state ≠ .failedSweep) && decide ((arrAt s n).state ≠ .failedRecal)

/-- A plane. -/
def planeAt (s : State) (p : Nat) : Plane := if p = 0 then s.junc.plane0 else s.junc.plane1

/-- Setting a plane. -/
def setPlane (p : Nat) (x : Plane) (s : State) : State :=
  s.modJunc fun j => if p = 0 then { j with plane0 := x } else { j with plane1 := x }

/-- A Score stage is running. -/
def scoreRuns (s : State) : Bool := s.junc.layer.any fun l => decide (l.stage = 1)

/-- A running Score stage evaluates the plane (R718). -/
def planeBusy (s : State) (p : Nat) : Bool :=
  s.junc.layer.any fun l => decide (l.stage = 1) && !l.digital && decide (l.plane = p)

/-- R of R679. -/
def rowChunks (h : Nat) : Nat := (h + 1023) / 1024

/-- C of R679. -/
def columnGroups (e : Nat) : Nat := (e + 127) / 128

/-- Row `i` of slot `c * R + r` as loaded: INT4 columns beyond E are zero (R681). -/
def loadedRow (bs : List Byte) (c e : Nat) : List Byte :=
  (numbered 0 bs).map fun (k, b) =>
    let lo := if 128 * c + 2 * k < e then b.toNat % 16 else 0
    let hi := if 128 * c + 2 * k + 1 < e then b.toNat / 16 else 0
    BitVec.ofNat 8 (lo + 16 * hi)

/-- The weights of an image, rows beyond H left zero (R680, R681). -/
def loadedWeights (s : State) (image h e : Nat) : Memory :=
  (List.range (columnGroups e)).foldl (fun m c =>
    (List.range h).foldl (fun m i =>
      let slot := c * rowChunks h + i / 1024
      let o := 65536 * slot + 64 * (i % 1024)
      memWrite m o (loadedRow (hbmRead s (image + o) 64) c e)) m) []

/-- The FP32 words of an HBM range. -/
def hbmWords (s : State) (a n : Nat) : List Nat := (List.range n).map fun i => leNat (hbmRead s (a + 4 * i) 4)

/-- Loading a plane from an image: 0, or the cause that leaves the plane unchanged (R682, R683, R724). -/
def loadPlane (p image h e : Nat) (s : State) : State × Nat :=
  let grid := 65536 * (rowChunks h * columnGroups e)
  let (_, c) := hbmFetch s image (grid + 8 * e)
  let scales := hbmWords s (image + grid) e
  let biases := hbmWords s (image + grid + 4 * e) e
  if c ≠ 0 then (s, c)
  else if scales.all normalPositive = false ∨ biases.any notFinite = true then (s, 0x6010)
  else
    (setPlane p { loaded := true, image := image, hidden := h, experts := e, weights := loadedWeights s image h e
                  scales := scales, biases := biases, written := s.now } s, 0)

/-- The next descriptor of a queue of a class, when it has an opcode and may start (R376 to R381, R722). -/
def admitOp (q cls op : Nat) (s : State) : Option Desc × State :=
  let x := queueAt s q
  if packageRuns s = false ∨ dropping s = true ∨ x.cls ≠ cls then (none, s)
  else match x.next with
    | some d => if field d.data 0 1 = op then admitNext q fenceSet s else (none, s)
    | none => (none, s)

/-- The next descriptor of a queue of a class cannot start yet for a reason of its own; if it is GATED it takes its comparator
all the same (R379). -/
def holdGate (q cls : Nat) (s : State) : State :=
  if packageRuns s = false ∨ dropping s = true ∨ (queueAt s q).cls ≠ cls then s else takeGate q fenceSet s

/-- A descriptor's end and the writing of its record. -/
def finish (q index status cause result : Nat) (s : State) : State := flushRecords q (endDesc q index status cause result s)

/-- LOAD_ROUTER (R682, R683, R718, R721, R724). -/
def execLoadRouter (t : Nat) (queue : Fin 4096) (s : State) : Out :=
  let s := clockTo t s
  let q := queue.val
  match (queueAt s q).next with
  | none => .next s
  | some d =>
    let p := field d.data 20 1 % 2
    if field d.data 0 1 = 2 ∧ planeBusy s p = true then .next (holdGate q 2 s)
    else match admitOp q 2 2 s with
      | (none, s) => .next s
      | (some d, s) =>
        let image := field d.data 8 8
        let h := field d.data 16 2 + 1
        let e := field d.data 18 2 + 1
        if 32768 < h ∨ 1024 < e ∨ image % 64 ≠ 0 then .next (finish q d.index 3 0 0 s)
        else
          let (s, c) := loadPlane p image h e s
          let s := if c = 0 then count 0x6820 7 1 s else s
          .next (finish q d.index (if c = 0 then 0 else if c = 0x6010 then 1 else 5) c 0 s)

/-! ### The Score stage (R685 to R704) -/

/-- Weight of a slot at row `i`, column `j`. -/
def Plane.weight (x : Plane) (slot i j : Nat) : Int :=
  let b := (memGet x.weights (65536 * slot + 64 * i + j / 2)).toNat
  signed (if j % 2 = 0 then b % 16 else b / 16) 4

/-- A free error of a code, of either sign (R701 to R703, log entry 2). -/
def codeError (n : Nat) : Int :=
  let v := Config.freeValue n
  if v % 2 = 0 then ((v / 2 : Nat) : Int) else -((v / 2 + 1 : Nat) : Int)

/-- The code an array delivers: the ideal code and a free error, in 12 bits; exactly 0 for an evaluation that drives
nothing (R692, R697). -/
def arrayCode (x : Plane) (inputs : List Int) (slot j shift : Nat) (sparse : Bool) (free : Nat) : Int :=
  if sparse && inputs.all (· == 0) then 0
  else
    let q := (numbered 0 inputs).foldl (fun (a : Int) (iv : Nat × Int) => a + iv.2 * x.weight slot iv.1 j) 0
    max (-2048) (min 2047 (idealCode q shift + codeError free))

/-- What the Score stage finds for one token: its row of scores, flags, saturated codes, zero skips, whether it was
evaluated, and a cause that stops the layer. -/
structure Scored where
  row : List Nat
  flags : Nat
  saturated : Nat := 0
  skips : Nat := 0
  evaluated : Bool := false
  cause : Nat := 0
  deriving DecidableEq, Repr

/-- Scoring one token on the arrays (R689 to R700). -/
def scoreToken (s : State) (l : Layer) (x : Plane) (sparse : Bool) (t : Nat) : Scored :=
  let v := l.actView
  let (codes, scales, cause) := readRow s v t
  let b := scaleBlock v.spec
  let dec := (numbered 0 codes).map fun (i, c) =>
    decodeElem v.fmt c (scaleCode v.spec) (if v.scaled then scales.getD (i / b) 0 else 0) 0
  let vals := dec.map (·.1)
  let fl := gateFlags (dec.map fun y => (0, y.2))
  if vals.any fun y => match y with | .nan => true | .inf _ => true | _ => false then
    { row := List.replicate l.experts 0x7FC00000, flags := fl ||| fNV, cause := cause }
  else
    let p := (tokenExp vals).getD 0
    let qs := vals.map (quantise p)
    let xs := qs.map (·.1)
    let r := rowChunks l.hidden
    let chunk (k : Nat) : List Int := (xs.drop (1024 * k)).take 1024
    let codeOf (e k : Nat) : Int :=
      arrayCode x (chunk k) (e / 128 * r + k) (e % 128) l.shift sparse
        (s.freeCount + (t * 1024 + e) * 32 + k)
    let sums := (List.range l.experts).map fun e =>
      (List.range r).foldl (fun (a : Int) k => a + codeOf e k) 0
    let out := (numbered 0 sums).map fun (e, n) => scoreOf n l.shift p (x.scales.getD e 0) (x.biases.getD e 0)
    { row := out.map (·.1), flags := fl ||| gateFlags (qs.map fun y => (0, y.2)) ||| gateFlags out
      saturated := sumTo l.experts fun e => countTo r fun k => decide (codeOf e k = -2048) || decide (codeOf e k = 2047)
      skips := if sparse then countTo r (fun k => (chunk k).all (· == 0)) * columnGroups l.experts else 0
      evaluated := true, cause := cause }

/-- The mode of a layer is sparsity-driven (R684). -/
def sparseMode (s : State) (l : Layer) : Bool :=
  decide ((if l.scoreMode = 0 then s.junc.program.scoreMode else l.scoreMode) = 2)

/-- The layer's plane is reloaded before each of several rounds (R686). -/
def reloadRounds (l : Layer) (s : State) : State :=
  let u := usableArrays s
  let slots := rowChunks l.hidden * columnGroups l.experts
  if slots ≤ u ∨ u = 0 then s
  else
    let x := planeAt s l.plane
    count 0x6820 6 1 (count 0x6820 7 ((slots + u - 1) / u) (loadPlane l.plane x.image x.hidden x.experts s).1)

/-- The bytes of a row of scores. -/
def rowBytes (row : List Nat) : List Byte := row.flatMap fun c => natLe c 4

/-- Writing score rows from SCORE_ADDR on. -/
def writeScores (l : Layer) (rows : List (List Nat)) (s : State) : State :=
  hbmWrite l.scoreAddr (rows.flatMap rowBytes) s

/-- The Score stage: tokens are scored on the arrays, or the program's score table stands (R704, R734). -/
def execScoreStage (t : Nat) (s : State) : Out :=
  let s := clockTo t s
  match s.junc.layer with
  | none => .next s
  | some l =>
    if l.stage ≠ 1 ∨ packageRuns s = false ∨ dropping s = true then .next s
    else if l.digital then .next (modLayer (fun l => { l with stage := 2 }) s)
    else if rangeValid (hbmValid s) l.scoreAddr (4 * l.experts * l.tokens) = false then .next (abortLayer 0xA007 s)
    else
      let s := reloadRounds l s
      let x := planeAt s l.plane
      let sc := (List.range l.tokens).map (scoreToken s l x (sparseMode s l))
      let s : State := { s with freeCount := s.freeCount + 2 ^ 128 }
      let s := juncFlags (sc.foldl (fun a y => a ||| y.flags) 0) s
      let slots := rowChunks l.hidden * columnGroups l.experts
      let s := count 0x6820 1 ((sc.filter (·.evaluated)).length * slots) s
      let s := count 0x6820 2 ((sc.map (·.saturated)).foldl (· + ·) 0) s
      let s := count 0x6820 3 ((sc.map (·.skips)).foldl (· + ·) 0) s
      let c := firstCause (sc.map (·.cause))
      if c ≠ 0 then .next (abortLayer c s)
      else .next (modLayer (fun l => { l with stage := 2 }) (writeScores l (sc.map (·.row)) s))

/-! ### Temperature, recalibration and refresh (R712 to R716) -/

/-- An array's temperature is read; beyond RECAL_DELTA a READY array is due (R712). -/
def execArrayTempDrift (t : Nat) (array : Fin 32) (temp : Int) (s : State) : Out :=
  let s := clockTo t s
  if packageRuns s = false then .next s
  else .next (modArr array.val (fun x => { x with
    temp := temp
    state := if x.state = .ready ∧ 10 * objAt s 0x6811 0 < (temp - x.calTemp).natAbs then .calDue else x.state }) s)

/-- A recalibration starts (R713). -/
def execRecalibrationStart (t : Nat) (array : Fin 32) (s : State) : Out :=
  let s := clockTo t s
  let busy := (List.range 32).any fun n => decide ((arrAt s n).state = .calibrating)
  if packageRuns s = false ∨ dropping s = true ∨ scoreRuns s = true ∨ busy = true ∨ (arrAt s array.val).state ≠ .calDue then
    .next s
  else .next (modArr array.val (fun x => { x with state := .calibrating, since := s.now }) s)

/-- A recalibration ends after 120 us (R713, R715, R188). -/
def execRecalibrationComplete (t : Nat) (array : Fin 32) (passed : Bool) (s : State) : Out :=
  let s := clockTo t s
  let n := array.val
  let x := arrAt s n
  if packageRuns s = false ∨ x.state ≠ .calibrating ∨ s.now < x.since + 120000 then .next s
  else
    let s := count 0x6820 4 1 s
    if passed then .next (modArr n (fun x => { x with state := .ready, calTemp := x.temp, trims := calibrated s n, aborts := 0 }) s)
    else
      let s := record { cause := 0x6011, cls := 2, unitType := utArray, unit := n } s
      let s := s.modContain fun c => { c with arrayFences := c.arrayFences ||| 2 ^ n }
      .next (modArr n (fun x => { x with state := .failedRecal }) s)

/-- A Score stage that starts aborts a recalibration; after each 64 in a row of one array the next layer waits 120 us
(R714). -/
def abortRecalibration (s : State) : State :=
  forEach (fun n s =>
    let x := arrAt s n
    if x.state ≠ .calibrating then s
    else
      let s := count 0x6820 5 1 (modArr n (fun x => { x with state := .calDue, aborts := x.aborts + 1 }) s)
      if (x.aborts + 1) % 64 = 0 then s.modJunc fun j => { j with pauseUntil := s.now + 120000 } else s)
    (List.range 32) s

/-- The refresh period of a plane has passed (R716, R718). -/
def execPlaneRefresh (t : Nat) (plane : Fin 2) (s : State) : Out :=
  let s := clockTo t s
  let p := plane.val
  let x := planeAt s p
  let period := objAt s 0x6812 0 * 1000000
  if packageRuns s = false ∨ dropping s = true ∨ x.loaded = false ∨ period = 0 ∨ s.now < x.written + period ∨
      planeBusy s p = true then .next s
  else
    let (s, c) := loadPlane p x.image x.hidden x.experts s
    let s := if c = 0 then count 0x6820 7 1 s else setPlane p { x with written := s.now } s
    .next s

end Sys2Proof.Machine
end

