-- ==== Sys2Proof/Machine/Junction.lean ====
section
/-! DEFINITION. The Junction (chapter 14): starting a layer, its stages from Select to Restore, its taps, and fencing a lot
that serves one. -/

namespace Sys2Proof.Machine

/-! ### Starting a layer (R721 to R732, R758) -/

/-- A reserved field or code, or an operand out of range, makes a record bad (R684, R728, R729). -/
def badLayer (b : List Byte) : Bool :=
  let sc := field b 9 1
  let within (v lo hi : Nat) : Bool := decide (lo ≤ v) && decide (v ≤ hi)
  let aligned (o k : Nat) : Bool := decide (field b o 8 % k = 0)
  !(within (field b 0 4) 1 65536 && within (field b 4 2) 1 32768 && within (field b 6 2) 1 1024 &&
    within (field b 8 1) 1 8 && decide (field b 8 1 ≤ field b 6 2) && decide (bits sc 2 1 ≠ 3) && decide (bits sc 6 3 ≤ 9) &&
    decide (field b 11 1 < 64) && decide (field b 14 2 = 0) && (b.drop 96).all (fun x => x == 0) &&
    aligned 16 64 && aligned 24 64 && aligned 32 64 && aligned 40 64 && aligned 48 64 && aligned 56 64 && aligned 64 64 &&
    aligned 72 8 && aligned 80 8 && aligned 88 64)

/-- ACT_VIEW and RETURN_VIEW suit the layer (R729). -/
def viewsSuit (rec act ret : List Byte) : Bool :=
  let a := viewOf act
  let r := viewOf ret
  let home (v : View) : Bool := decide (v.space = 2) || decide (v.space = 4)
  viewOk act && viewOk ret && home a && home r &&
  decide (a.ext = [field rec 4 2, field rec 0 4, 1, 1]) && !a.kOnA1 && decide (a.blockAxis ≠ some 1) &&
  decide (r.extent 1 = field rec 0 4) && decide (r.extent 2 = 1) && decide (r.extent 3 = 1) && !r.scaled &&
  (decide (r.fmt = .fp32) || decide (r.fmt = .bf16) || decide (r.fmt = .fp16))

/-- Entry of an expert map: owner and local index. -/
def mapEntry (b : List Byte) (e : Nat) : Nat × Nat := (field b (4 * e) 2, field b (4 * e + 2) 1)

/-- Each owner's local indices are exactly 0 to n - 1 (R729). -/
def mapOk (b : List Byte) (experts : Nat) : Bool :=
  let es := (List.range experts).map (mapEntry b)
  es.all fun x => decide (x.1 = 0xFFFF) ||
    (decide (x.2 < (es.filter fun y => y.1 = x.1).length) && decide ((es.filter fun y => y = x).length = 1))

/-- Owners by rank and local index, masked experts without one (R731, R732). -/
def ownersOf (map mask : List Byte) (members : List Nat) (resident : Bool) (experts : Nat) : List (Option (Nat × Nat)) :=
  (List.range experts).map fun e =>
    if resident = false then some (0, e)
    else match rankIn members (mapEntry map e).1 with
      | some r => if (mapEntry map e).1 = 0xFFFF then none else some (r, (mapEntry map e).2)
      | none => none

/-- The bytes a layer's start reads beside its record: the views, the expert map and the mask. -/
structure LayerReads where
  act : List Byte
  ret : List Byte
  map : List Byte
  mask : List Byte
  /-- Causes of the four reads. -/
  causes : List Nat
  deriving DecidableEq, Repr

/-- Reading them (R728, R731, R732). -/
def layerReads (s : State) (b : List Byte) : LayerReads :=
  let a := hbmFetch s (field b 16 8) 64
  let r := hbmFetch s (field b 64 8) 64
  let m := if s.junc.program.resident then hbmFetch s (field b 32 8) (4 * field b 6 2) else ([], 0)
  let k := if field b 40 8 = 0 then ([], 0) else hbmFetch s (field b 40 8) 128
  { act := a.1, ret := r.1, map := m.1, mask := k.1, causes := [a.2, r.2, m.2, k.2] }

/-- The cause of the first check of R729 that fails, 0 when none does. -/
def layerFault (s : State) (b : List Byte) (x : LayerReads) : Nat :=
  let p := s.junc.program
  let g := field b 12 2
  let plane := planeAt s (bits (field b 9 1) 7 7)
  let digital := bit (field b 9 1) 0
  if badLayer b = true ∨ x.causes.getD 3 0 = 0xA007 then 0x6001
  else if objAt s 0x6010 (field b 11 1 + 1) = 0 then 0x6002
  else if (if p.resident then groupArmed s g = false ∨ g ≠ p.group else g ≠ 0) then 0x6003
  else if x.causes.getD 0 0 = 0xA007 ∨ x.causes.getD 1 0 = 0xA007 ∨ viewsSuit b x.act x.ret = false then 0x6004
  else if p.resident = true ∧ (x.causes.getD 2 0 = 0xA007 ∨ mapOk x.map (field b 6 2) = false) then 0x6005
  else if digital = false ∧ p.arrayScoring = false then 0x6012
  else if digital = false ∧
      (plane.loaded = false ∨ plane.hidden ≠ field b 4 2 ∨ plane.experts ≠ field b 6 2) then 0x6006
  else 0

/-- The descriptor is the first LAYER submitted and not ended, or was not submitted by QSUB and none was (R723). -/
def layerTurn (s : State) (q index : Nat) : Bool :=
  match s.junc.order.find? fun y => !y.flags with
  | some y => decide (y.queue = q) && decide (y.index = index)
  | none => true

/-- A submission no longer waits. -/
def dropSubmission (q index : Nat) (s : State) : State :=
  s.modJunc fun j => { j with order := j.order.filter fun y => decide (y.queue ≠ q) || decide (y.index ≠ index) }

/-- A layer that passed its checks starts with Score (R714, R720, R730, R758). -/
def beginLayer (q : Nat) (d : Desc) (b : List Byte) (x : LayerReads) (s : State) : State :=
  let p := s.junc.program
  let members := if p.resident then (groupAt s (field b 12 2)).members else [sledAddress s]
  let taps := sumTo 4 fun n => flag (tapInService s (field b 10 1 / 16) n) n
  let s := abortRecalibration s
  let y : Layer :=
    { queue := q, index := d.index, signalAddr := field d.data 16 8, signalValue := field d.data 24 8, data := b
      resident := p.resident, act := x.act, ret := x.ret, members := members
      cap := objAt s 0x6010 (field b 11 1 + 1), owners := ownersOf x.map x.mask members p.resident (field b 6 2)
      mask := x.mask, taps := taps, lots := (List.range 4).map fun n => objAt s 0x6020 (n + 1)
      tapNs := objAt s 0x6022 0 * 1000, bypassed := 15 - taps, stage := 1 }
  startDesc q d.index (s.modJunc fun j => { j with layer := some y })

/-- LAYER starts, or completes with BAD_DESCRIPTOR (R721 to R730). -/
def execLayer (t : Nat) (queue : Fin 4096) (s : State) : Out :=
  let s := clockTo t s
  let q := queue.val
  match (queueAt s q).next with
  | none => .next s
  | some d =>
    if field d.data 0 1 ≠ 1 then .next s
    else if s.junc.layer.isSome = true ∨ s.now < s.junc.pauseUntil ∨ layerTurn s q d.index = false then
      .next (holdGate q 2 s)
    else match admitOp q 2 1 s with
      | (none, s) => .next s
      | (some d, s) =>
        let a := field d.data 8 8
        let (b, c) := hbmFetch s a 128
        let x := layerReads s b
        let poison := decide (c = 0x5001) || x.causes.any fun c => decide (c = 0x5001)
        let k := if a % 128 ≠ 0 ∨ field d.data 16 8 % 8 ≠ 0 ∨ 2 ^ 63 ≤ field d.data 24 8 ∨ c = 0xA007 then 0x6001
          else layerFault s b x
        if k ≠ 0 then .next (finish q d.index 3 k 0 (dropSubmission q d.index s))
        else
          let s := beginLayer q d b x s
          .next (if poison then abortLayer 0x5001 s else s)

/-- FLAGS (R721, R725): after every LAYER submitted before it. -/
def execJunctionFlags (t : Nat) (queue : Fin 4096) (s : State) : Out :=
  let s := clockTo t s
  let q := queue.val
  match (queueAt s q).next with
  | none => .next s
  | some d =>
    let mine : Submission := { queue := q, index := d.index, flags := true }
    let before := s.junc.order.takeWhile fun y => decide (y ≠ mine)
    if field d.data 0 1 ≠ 3 then .next s
    else if before.any (fun y => !y.flags) = true then .next (holdGate q 2 s)
    else match admitOp q 2 3 s with
      | (none, s) => .next s
      | (some d, s) =>
        let a := field d.data 8 8
        let s := dropSubmission q d.index s
        if a % 8 ≠ 0 then .next (finish q d.index 3 0 0 s)
        else if rangeValid (hbmValid s) a 8 = false then .next (finish q d.index 5 0xA007 0 s)
        else
          let s := hbmWrite a (natLe (s.junc.flags % 32) 8) s
          let s := if bit (field d.data 16 1) 0 then s.modJunc fun j => { j with flags := 0 } else s
          .next (finish q d.index 0 0 0 s)

/-! ### Items of the taps (R759, R760, R941) -/

/-- Outstanding items of a tap, oldest first. -/
def Layer.tapItems (l : Layer) (n : Nat) : List TapItem := tabGet [] n l.items

/-- A tap is in service. -/
def Layer.tapOn (l : Layer) (n : Nat) : Bool := bit l.taps n

/-- An item leaves for a tap. -/
def offerItem (n : Nat) (it : TapItem) (words : Nat) (s : State) : State :=
  count 0x8050 1 words (modLayer (fun l => { l with items := tabPut [] n (l.tapItems n ++ [it]) l.items }) s)

/-- The oldest item of a tap is answered. -/
def dropItem (n : Nat) (s : State) : State :=
  modLayer (fun l => { l with items := tabPut [] n (l.tapItems n).tail l.items }) s

/-! ### Select (R735 to R738) -/

/-- A token's row: as the Score tap left it, or as it stands in the table. -/
def tokenRow (s : State) (l : Layer) (t : Nat) : List Nat :=
  let r := tabGet [] t l.rows
  if r = [] then hbmWords s (l.scoreAddr + 4 * l.experts * t) l.experts else r

/-- A token's selection is final. -/
def setPick (t : Nat) (x : List (Nat × Nat)) (s : State) : State :=
  modLayer (fun l => { l with picks := tabPut none t (some x) l.picks }) s

/-- Selecting one token; the Select tap may still replace the selection (R735 to R738). -/
def selectToken (t : Nat) (s : State) : State :=
  match s.junc.layer with
  | none => s
  | some l =>
    let row := tokenRow s l t
    if row.any notFinite then
      juncFlags fNV (setPick t [] (modLayer (fun l => { l with unrouted := l.unrouted ++ [t] }) s))
    else
      let top := topK l.k row
      let (g, fl) := gates (fun i => Config.freeValue (s.freeCount + i)) l.gateFn top row
      let sel := (top.map (·.1)).zip g
      let s := juncFlags fl { s with freeCount := s.freeCount + 8 }
      if l.tapOn 1 then
        offerItem 1 { token := t, since := s.now } (2 + 2 * sel.length)
          (modLayer (fun l => { l with own := tabPut [] t sel l.own }) s)
      else setPick t sel s

/-- Offering rows to the Score tap, at most 64 outstanding (fuel: tokens). -/
def offerScores : Nat → State → State
  | 0, s => s
  | n + 1, s =>
    match s.junc.layer with
    | none => s
    | some l =>
      if l.tapOn 0 = true ∧ l.scoreNext < l.tokens ∧ (l.tapItems 0).length < 64 then
        offerScores n (modLayer (fun l => { l with scoreNext := l.scoreNext + 1 })
          (offerItem 0 { token := l.scoreNext, since := s.now } (1 + l.experts) s))
      else s

/-- Selecting tokens in order as far as rows and the Select tap allow (fuel: tokens). -/
def selectOn : Nat → State → State
  | 0, s => s
  | n + 1, s =>
    match s.junc.layer with
    | none => s
    | some l =>
      let t := l.selectNext
      if l.tokens ≤ t ∨ (l.tapOn 0 = true ∧ tabGet [] t l.rows = []) ∨ (l.tapOn 1 = true ∧ 64 ≤ (l.tapItems 1).length) then s
      else selectOn n (modLayer (fun l => { l with selectNext := t + 1 }) (selectToken t s))

/-- Select goes on; once every token has its selection, Admit may begin. -/
def pumpSelect (s : State) : State :=
  match s.junc.layer with
  | none => s
  | some l =>
    let s := selectOn l.tokens (offerScores 64 s)
    modLayer (fun l =>
      if l.stage = 2 ∧ l.tokens ≤ l.selectNext ∧ l.tapItems 0 = [] ∧ l.tapItems 1 = [] then { l with stage := 3 } else l) s

/-- Select begins (R720, R735). -/
def execSelectStage (t : Nat) (s : State) : Out :=
  let s := clockTo t s
  match s.junc.layer with
  | none => .next s
  | some l =>
    if l.stage ≠ 2 ∨ 0 < l.scoreNext + l.selectNext ∨ packageRuns s = false ∨ dropping s = true then .next s
    else
      let (_, c) := hbmFetch s l.scoreAddr (4 * l.experts * l.tokens)
      if c ≠ 0 then .next (abortLayer c s) else .next (pumpSelect s)

/-! ### Admit (R739 to R741) -/

/-- Inserting a pair after every pair whose gate is not lower. -/
def insertGate (p : Pair) : List Pair → List Pair
  | [] => [p]
  | y :: t => if scoreLe p.gate y.gate then y :: insertGate p t else p :: y :: t

/-- Pairs of one selection rank, ascending token. -/
def pairsOfRank (l : Layer) (j : Nat) : List Pair :=
  (List.range l.tokens).filterMap fun t => match (tabGet none t l.picks).getD [] with
    | picks => match picks[j]? with
      | some x => some { token := t, expert := x.1, rank := j, gate := x.2 }
      | none => none

/-- Pairs in admission order (R739). -/
def admissionOrder (l : Layer) : List Pair :=
  (List.range l.k).flatMap fun j =>
    let ps := pairsOfRank l j
    if l.byGate then ps.foldl (fun acc p => insertGate p acc) [] else ps

/-- The pair is masked (R732, R733). -/
def Layer.masked (l : Layer) (e : Nat) : Bool :=
  (l.owners.getD e none).isNone || bit (l.mask.getD (e / 8) 0).toNat (e % 8)

/-- Pairs of this sled already admitted to an expert. -/
def Layer.admittedTo (l : Layer) (e : Nat) : Nat :=
  (l.pairs.filter fun p => decide (p.expert = e) && decide (p.fate = some .admitted)).length

/-- Deciding a pair by its place in the order. -/
def decidePair (i : Nat) (f : Fate) (s : State) : State :=
  modLayer (fun l => { l with pairs := modIdx i (fun p => { p with fate := some f }) l.pairs }) s

/-- Deciding the pair of a token and an expert. -/
def decideItem (t e : Nat) (f : Fate) (s : State) : State :=
  modLayer (fun l => { l with pairs := l.pairs.map fun p =>
    if p.token = t ∧ p.expert = e ∧ p.fate = none then { p with fate := some f } else p }) s

/-- Admitting pairs in order; an item for an expert waits while another item of that expert is unanswered (R740, log entry
45) (fuel: pairs). -/
def admitOn : Nat → State → State
  | 0, s => s
  | n + 1, s =>
    match s.junc.layer with
    | none => s
    | some l =>
      match l.pairs[l.admitNext]? with
      | none => s
      | some p =>
        let go := modLayer (fun l => { l with admitNext := l.admitNext + 1 })
        if l.masked p.expert then admitOn n (go (decidePair l.admitNext .masked s))
        else if (l.tapItems 2).any fun it => decide (it.key = p.expert) then s
        else if l.cap ≤ l.admittedTo p.expert then admitOn n (go (decidePair l.admitNext .capacity s))
        else if l.tapOn 2 then
          if 64 ≤ (l.tapItems 2).length then s
          else admitOn n (go (offerItem 2 { token := p.token, key := p.expert, since := s.now } 4 s))
        else admitOn n (go (decidePair l.admitNext .admitted s))

/-- A token's pairs in ascending rank. -/
def Layer.pairsOf (l : Layer) (t : Nat) : List Pair :=
  (List.range l.k).filterMap fun j => l.pairs.find? fun p => decide (p.token = t) && decide (p.rank = j)

/-- Its admitted pairs in ascending rank. -/
def Layer.admittedOf (l : Layer) (t : Nat) : List Pair := (l.pairsOf t).filter fun p => decide (p.fate = some .admitted)

/-- A pair among the listed ones takes its new gate. -/
def regate (a : List Pair) (g : List Nat) (p : Pair) : Pair :=
  match findIdx (fun y => y == p) a with
  | some i => { p with gate := g.getD i 0, renormed := true }
  | none => p

/-- Renormalising one token's admitted gates (R741). -/
def renormToken (t : Nat) (s : State) : State :=
  match s.junc.layer with
  | none => s
  | some l =>
    let a := l.admittedOf t
    if a = [] ∨ a.length = (l.pairsOf t).length then s
    else
      let (g, fl) := renorm (fun i => Config.freeValue (s.freeCount + i)) (a.map (·.gate))
      let s := juncFlags fl { s with freeCount := s.freeCount + 8 }
      modLayer (fun l => { l with pairs := l.pairs.map (regate a g) }) s

/-- Admit goes on; once every pair is decided, gates are renormalised and Sort may begin. -/
def pumpAdmit (s : State) : State :=
  match s.junc.layer with
  | none => s
  | some l =>
    let s := admitOn l.pairs.length s
    match s.junc.layer with
    | none => s
    | some l =>
      if l.stage = 3 ∧ l.formed = true ∧ l.pairs.length ≤ l.admitNext ∧ l.tapItems 2 = [] then
        modLayer (fun l => { l with stage := 4 })
          (if l.renorms then forEach renormToken (List.range l.tokens) s else s)
      else s

/-- Admit begins (R720, R739). -/
def execAdmitStage (t : Nat) (s : State) : Out :=
  let s := clockTo t s
  match s.junc.layer with
  | none => .next s
  | some l =>
    if l.stage ≠ 3 ∨ l.formed = true ∨ packageRuns s = false ∨ dropping s = true then .next s
    else .next (pumpAdmit (modLayer (fun l => { l with pairs := admissionOrder l, formed := true }) s))

/-! ### Sort (R743 to R747) -/

/-- The expert of a local index on a member. -/
def Layer.expertAt (l : Layer) (d i : Nat) : Option Nat := findIdx (fun o => o == some (d, i)) l.owners

/-- This sled's rank in the layer. -/
def Layer.me (s : State) (l : Layer) : Nat := (rankIn l.members (sledAddress s)).getD 0

/-- Record size RS (R747). -/
def Layer.recordSize (l : Layer) : Nat :=
  let v := l.actView
  align64 (16 + (l.hidden * v.fmt.width + 7) / 8 + v.rowScales)

/-- Return record size RR (R751). -/
def Layer.returnSize (l : Layer) : Nat := align64 (l.retView.extent 0 * l.retView.fmt.width / 8)

/-- Owner's rank of an expert. -/
def Layer.ownerRank (l : Layer) (e : Nat) : Nat := ((l.owners.getD e none).map (·.1)).getD 0

/-- Tokens by combine slot (R745). -/
def slotOrder (l : Layer) : List Nat :=
  (List.range l.members.length).flatMap fun d => (List.range l.tokens).filter fun t =>
    match (l.admittedOf t).head? with
    | some p => decide (l.ownerRank p.expert = d)
    | none => false

/-- The combine slot of a token. -/
def slotOf (slots : List Nat) (t : Nat) : Nat := (findIdx (fun x => x == t) slots).getD 0

/-- A dispatch record's header (R747). -/
def recordHeader (slots : List Nat) (p : Pair) : List Byte :=
  natLe (slotOf slots p.token) 4 ++ natLe p.expert 2 ++ natLe p.rank 1 ++ natLe (flag p.renormed 0) 1 ++ natLe p.gate 4 ++
    natLe 0 4

/-- Admitted pairs of an expert, ascending token. -/
def Layer.expertPairs (l : Layer) (e : Nat) : List Pair :=
  (List.range l.tokens).filterMap fun t =>
    l.pairs.find? fun p => decide (p.token = t) && decide (p.expert = e) && decide (p.fate = some .admitted)

/-- The list for member d: headers at their places (R744, R746). -/
def destinationList (l : Layer) (slots : List Nat) (d : Nat) : List ListEntry :=
  (List.range (l.owned d)).flatMap fun i => match l.expertAt d i with
    | some e => (numbered 0 (l.expertPairs e)).map fun (p, x) =>
        { place := i * l.cap + p, data := recordHeader slots x }
    | none => []

/-- Routed tokens with no admitted pair. -/
def Layer.emptyTokens (l : Layer) : List Nat :=
  (List.range l.tokens).filter fun t => decide (l.admittedOf t = []) && !l.unrouted.contains t

/-- The statistics record and the per-expert counts (R743). -/
def statistics (l : Layer) (slots : List Nat) : List Byte :=
  natLe l.pairs.length 4 ++ natLe (l.withFate .admitted) 4 ++ natLe (l.withFate .capacity) 4 ++
    natLe (l.withFate .masked) 4 ++ natLe (l.withFate .tap) 4 ++ natLe l.unrouted.length 4 ++ natLe l.emptyTokens.length 4 ++
    natLe slots.length 4 ++ natLe l.bypassed 1 ++ List.replicate 31 0 ++
    (List.range l.experts).flatMap fun e =>
      natLe ((l.pairs.filter fun p => decide (p.expert = e) && decide (p.fate ≠ some .admitted)).length) 4

/-- Sort (R743 to R746). -/
def execSortStage (t : Nat) (s : State) : Out :=
  let s := clockTo t s
  match s.junc.layer with
  | none => .next s
  | some l =>
    if l.stage ≠ 4 ∨ packageRuns s = false ∨ dropping s = true then .next s
    else if rangeValid (hbmValid s) l.statsAddr (64 + 4 * l.experts) = false then .next (abortLayer 0xA007 s)
    else
      let slots := slotOrder l
      let s := hbmWrite l.statsAddr (statistics l slots) s
      let s := count 0x6040 3 l.pairs.length s
      let s := count 0x6040 4 (l.withFate .admitted) s
      let s := count 0x6040 5 (l.withFate .capacity) s
      let s := count 0x6040 6 (l.withFate .masked) s
      let s := count 0x6040 7 (l.withFate .tap) s
      let s := count 0x6040 8 l.unrouted.length s
      .next (modLayer (fun l => { l with
        slots := slots, lists := (List.range l.members.length).map (destinationList l slots), stage := 5 }) s)

/-! ### Ship, Await, Gather (R747 to R754) -/

/-- A record as it travels: header, value bytes, scale bytes, padding (R747). -/
def fullRecord (s : State) (l : Layer) (e : ListEntry) : ListEntry × Nat :=
  let v := l.actView
  let (codes, scales, c) := readRow s v (l.slots.getD (field e.data 0 4) 0)
  ({ e with data := padTo (e.data ++ packElems v.fmt.width codes ++ scales.map (BitVec.ofNat 8)) l.recordSize }, c)

/-- The descriptor of a layer's collective, with the layer's TAG. -/
def layerDescriptor (s : State) (l : Layer) (op : Nat) (body : List Byte) : List Byte :=
  let tag := match (queueAt s l.queue).desc l.index with
    | some d => field d.data 4 4
    | none => 0
  natLe op 4 ++ natLe tag 4 ++ padTo body 56

/-- A Replica layer's records go into the receive region, pad headers into every other place (R748, R749). -/
def shipLocal (l : Layer) (entries : List ListEntry) (s : State) : State :=
  forEach (fun p s =>
    let a := l.recvAddr + l.recordSize * p
    match entries.find? fun e => e.place = p with
    | some e => hbmWrite a e.data s
    | none => hbmWrite a padHeader s) (List.range (l.owned 0 * l.cap)) s

/-- Ship (R747 to R749): one EXCHANGE_V on the group's queue, or a local copy. -/
def execShipStage (t : Nat) (s : State) : Out :=
  let s := clockTo t s
  match s.junc.layer with
  | none => .next s
  | some l =>
    if l.stage ≠ 5 ∨ l.ship.isSome = true ∨ l.shipDone = true ∨ packageRuns s = false ∨ dropping s = true then .next s
    else
      let full := l.lists.map fun es => es.map (fullRecord s l)
      let c := firstCause (full.flatten.map (·.2))
      let lists := full.map fun es => es.map (·.1)
      if c ≠ 0 then .next (abortLayer c s)
      else if l.resident = false then
        if rangeValid (hbmValid s) l.recvAddr (l.recordSize * (l.owned 0 * l.cap)) = false then .next (abortLayer 0xA007 s)
        else .next (modLayer (fun l => { l with lists := lists, shipDone := true })
          (shipLocal l (lists.getD 0 []) s))
      else
        let q := (groupAt s l.group).queue
        let body := natLe 0 8 ++ natLe l.recvAddr 8 ++ natLe 0 8 ++ natLe l.recordSize 4 ++ natLe l.cap 4
        let i := (queueAt s q).nextSubmit
        match submitDesc q (layerDescriptor s l 2 body) s with
        | some s => .next (modLayer (fun l => { l with lists := lists, ship := some i }) s)
        | none => .next s

/-- The layer ends once every slot's row is written (R757). -/
def settleLayer (s : State) : State :=
  match s.junc.layer with
  | none => s
  | some l => if 7 ≤ l.stage ∧ l.slots.length ≤ l.restored.length then completeLayer s else s

/-- Rows of +0 for tokens without an admitted pair; 0, or the cause that stopped it (R756). -/
def zeroRows (l : Layer) : List Nat → State → State × Nat
  | [], s => (s, 0)
  | t :: ts, s =>
    match writeRow l.retView t (List.replicate (l.retView.extent 0) 0) s with
    | (s, 0) => zeroRows l ts s
    | (s, c) => (s, c)

/-- Await begins: Ship's collective has completed (R750, R756). -/
def execAwaitStage (t : Nat) (s : State) : Out :=
  let s := clockTo t s
  match s.junc.layer with
  | none => .next s
  | some l =>
    if l.stage ≠ 5 ∨ l.shipDone = false ∨ packageRuns s = false ∨ dropping s = true then .next s
    else if rangeValid (hbmValid s) l.readyAddr 8 = false then .next (abortLayer 0xA007 s)
    else
      let s := modLayer (fun l => { l with stage := 6, readyWritten := true }) (writeWord l.readyAddr l.signalValue s)
      match zeroRows l ((List.range l.tokens).filter fun t => !l.slots.contains t) s with
      | (s, 0) => .next s
      | (s, c) => .next (abortLayer c s)

/-- A return record that Gather sends: the home member's rank, its slot, the key and where the record lies (R753). -/
structure ReturnEntry where
  rank : Nat
  slot : Nat
  key : Nat
  addr : Nat
  deriving DecidableEq, Repr

/-- The return records of every receive place that holds no pad, in place order (R748, R753). -/
def returnEntries (s : State) (l : Layer) : List ReturnEntry :=
  let m := l.members.length
  (List.range (l.owned (l.me s) * m * l.cap)).filterMap fun q =>
    let h := hbmRead s (l.recvAddr + l.recordSize * q) 16
    if field h 0 4 = 0xFFFFFFFF then none
    else some { rank := q / max 1 l.cap % m, slot := field h 0 4, key := field h 4 2, addr := l.retAddr + l.returnSize * q }

/-- Return bytes of one record: H_out elements. -/
def Layer.returnBytes (l : Layer) : Nat := l.retView.extent 0 * l.retView.fmt.width / 8

/-- Inserting a return entry by key. -/
def insertKey (x : ReturnEntry) : List ReturnEntry → List ReturnEntry
  | [] => [x]
  | y :: t => if y.key ≤ x.key then y :: insertKey x t else x :: y :: t

/-- A Replica layer's slot: its contributions by expert index, added in the pair tree (R754). -/
def gatherSlot (s : State) (l : Layer) (es : List ReturnEntry) (slot : Nat) : List Byte × Nat :=
  let own := (es.filter fun e => e.slot = slot).foldl (fun acc e => insertKey e acc) []
  combineBytes l.retView.fmt (l.retView.extent 0) (own.map fun e => hbmRead s e.addr l.returnBytes)

/-- Gather begins: the DONE word has reached v (R752 to R754). -/
def execGatherStage (t : Nat) (s : State) : Out :=
  let s := clockTo t s
  match s.junc.layer with
  | none => .next s
  | some l =>
    if l.stage ≠ 6 ∨ packageRuns s = false ∨ dropping s = true then .next s
    else
      let (_, c) := hbmFetch s l.doneAddr 8
      if c ≠ 0 then .next (abortLayer c s)
      else if hbmWord s l.doneAddr < l.signalValue then .next s
      else
        let m := l.members.length
        let c := firstCause [(hbmFetch s l.recvAddr (l.recordSize * (l.owned (l.me s) * m * l.cap))).2,
          (hbmFetch s l.retAddr (l.returnSize * (l.owned (l.me s) * m * l.cap))).2]
        let es := returnEntries s l
        if c ≠ 0 then .next (abortLayer c s)
        else if l.resident = false then
          let out := (List.range l.slots.length).map fun k => (k, gatherSlot s l es k)
          let s := juncFlags (out.foldl (fun a x => a ||| x.2.2) 0) s
          .next (settleLayer (modLayer (fun l => { l with
            stage := 7, vectors := out.foldl (fun t x => tabPut none x.1 (some x.2.1) t) l.vectors }) s))
        else
          let q := (groupAt s l.group).queue
          let body := natLe l.retAddr 8 ++ natLe 0 8 ++ natLe 0 8 ++ natLe 0 8 ++ natLe es.length 4 ++
            natLe l.slots.length 4 ++ natLe l.returnSize 4 ++ natLe (l.retView.extent 0) 2 ++ natLe (field l.ret 13 1) 1
          let i := (queueAt s q).nextSubmit
          match submitDesc q (layerDescriptor s l 3 body) s with
          | some s => .next (settleLayer (modLayer (fun l => { l with stage := 7, gather := some i }) s))
          | none => .next s

/-! ### Restore (R755 to R757) -/

/-- Each element times m, rounded once; unchanged when m is exactly 1.0 (R755). -/
def scaledVector (f : Fmt) (n m : Nat) (bs : List Byte) : List Nat × Nat :=
  let w := f.width / 8
  let cs := (List.range n).map fun i => field bs (i * w) w
  if m = 0x3F800000 then (cs, 0)
  else
    let out := cs.map fun c =>
      let p := (decodeCode f c).mul (f32 m)
      let r := encodeElem f 0 0 p.1
      (r.1, p.2 ||| r.2)
    (out.map (·.1), gateFlags out)

/-- A slot's vector is written to its token's row; the last one ends the layer (R755, R757). -/
def restoreSlot (slot m : Nat) (s : State) : State :=
  match s.junc.layer with
  | none => s
  | some l =>
    match tabGet none slot l.vectors with
    | none => s
    | some bs =>
      let (codes, fl) := scaledVector l.retView.fmt (l.retView.extent 0) m bs
      match writeRow l.retView (l.slots.getD slot 0) codes (juncFlags fl s) with
      | (s, 0) => settleLayer (modLayer (fun l => { l with
          vectors := tabPut none slot none l.vectors, restored := l.restored ++ [slot] }) s)
      | (s, c) => abortLayer c s

/-- The lowest slot whose vector is complete and not yet offered to the Gather tap. -/
def nextVector (l : Layer) : Option Nat :=
  (l.vectors.find? fun (k, v) => v.isSome && !(l.tapItems 3).any fun it => decide (it.key = k)).map (·.1)

/-- The next complete vector goes to the Gather tap, or to its row (R755, R760). -/
def execRestoreStage (t : Nat) (s : State) : Out :=
  let s := clockTo t s
  match s.junc.layer with
  | none => .next s
  | some l =>
    if l.stage < 7 ∨ packageRuns s = false ∨ dropping s = true then .next s
    else match nextVector l with
      | none => .next s
      | some k =>
        if l.tapOn 3 then
          if 64 ≤ (l.tapItems 3).length then .next s
          else .next (offerItem 3 { token := l.slots.getD k 0, key := k, since := s.now } 3 s)
        else .next (restoreSlot k 0x3F800000 s)

/-! ### Taps that fail (R759, R762, R763, R1001) -/

/-- An item takes its default (R759). -/
def defaultItem (n : Nat) (it : TapItem) (s : State) : State :=
  match s.junc.layer with
  | none => s
  | some l =>
    if n = 0 then
      let row := hbmWords s (l.scoreAddr + 4 * l.experts * it.token) l.experts
      modLayer (fun l => { l with rows := tabPut [] it.token row l.rows }) s
    else if n = 1 then setPick it.token (tabGet [] it.token l.own) s
    else if n = 2 then decideItem it.token it.key .admitted s
    else restoreSlot it.key 0x3F800000 s

/-- Every outstanding item of a tap takes its default, and the tap is bypassed (R763). -/
def bypassTap (n : Nat) (s : State) : State :=
  match s.junc.layer with
  | none => s
  | some l =>
    if l.tapOn n = false then s
    else
      let its := l.tapItems n
      let s := modLayer (fun l => { l with taps := l.taps - 2 ^ n, items := tabPut [] n [] l.items }) s
      forEach (defaultItem n) its s

/-- A stage that has begun goes on. -/
def pumpStage (s : State) : State :=
  match s.junc.layer with
  | none => s
  | some l =>
    if l.stage = 2 ∧ 0 < l.scoreNext + l.selectNext then pumpSelect s
    else if l.stage = 3 ∧ l.formed = true then pumpAdmit s
    else s

/-- The taps of a lot are bypassed to the end of the step and their items default (R763, R1001). -/
def bypassLot (lot : Nat) (s : State) : State :=
  match s.junc.layer with
  | none => s
  | some l =>
    let ns := (List.range 4).filter fun n => decide (l.lots.getD n 0xFF = lot)
    let s := s.modJunc fun j => { j with stepTaps := ns.foldl (fun m n => m ||| 2 ^ n) j.stepTaps }
    pumpStage (forEach bypassTap ns s)

/-- Fencing a lot, whatever it serves (R763, R955, R1001). -/
def fenceLot (lot cause : Nat) (s : State) : State :=
  if (lotAt s lot).fenceable = false then s
  else
    let uses := layerUsesLot s lot
    let s := fenceLotCore lot cause s
    if uses then bypassLot lot s else s

/-- A tap times out or breaks protocol: the record, the defaults and the fence (R763, R1055). -/
def tapFails (n cause : Nat) (s : State) : State :=
  match s.junc.layer with
  | none => s
  | some l =>
    let lot := l.lots.getD n 0xFF
    let s := record { cause := cause, cls := 2, unitType := utLot, unit := lot, detail0 := n
                      detail1 := ((l.tapItems n).head?.map (·.token)).getD 0 } s
    let s := count 0x6040 (if cause = 0x6007 then 0x09 else 0x0B) 1 s
    bypassLot lot (fenceLotCore lot cause s)

/-- The oldest item has waited for the tap timeout (R762). -/
def execTapTimeout (t : Nat) (tap : Fin 4) (s : State) : Out :=
  let s := clockTo t s
  match s.junc.layer with
  | none => .next s
  | some l =>
    match (l.tapItems tap.val).head? with
    | none => .next s
    | some it =>
      if packageRuns s = false ∨ dropping s = true ∨ s.now < it.since + l.tapNs then .next s
      else .next (tapFails tap.val 0x6007 s)

/-! ### Replies (R738, R759 to R762, R941, R942) -/

/-- FIRST on the first word alone, LAST on the last alone, no illegal code: bits 32, 33 and 34 of each word (R912, R942). -/
def framed (ws : List Nat) : Bool :=
  decide (ws ≠ []) && (numbered 1 ws).all fun (i, w) =>
    (bit w 32 == decide (i = 1)) && (bit w 33 == decide (i = ws.length)) && !bit w 34

/-- The 32 data bits of a word of a reply. -/
def replyWord (ws : List Nat) (i : Nat) : Nat := ws.getD i 0 % 2 ^ 32

/-- The pairs of a Select reply. -/
def replyPairs (ws : List Nat) (c : Nat) : List (Nat × Nat) :=
  (List.range c).map fun i => (replyWord ws (2 + 2 * i) % 65536, replyWord ws (3 + 2 * i))

/-- A reply keeps the protocol (R942). -/
def replyFramed (l : Layer) (n : Nat) (it : TapItem) (ws : List Nat) : Bool :=
  framed ws && decide (replyWord ws 0 = it.token) &&
  (if n = 0 then decide (ws.length = 1 + l.experts)
   else if n = 1 then
     decide (ws.length = 2 + 2 * replyWord ws 1) &&
     (List.range (replyWord ws 1)).all fun i => decide (replyWord ws (2 + 2 * i) < 65536)
   else if n = 2 then
     decide (ws.length = 2) && decide (replyWord ws 1 % 65536 = it.key) && decide (replyWord ws 1 / 65536 ≤ 1)
   else decide (ws.length = 2))

/-- A Select reply is valid (R738). -/
def selectionValid (l : Layer) (ps : List (Nat × Nat)) : Bool :=
  decide (ps.length ≤ l.k) && ps.all (fun p => decide (p.1 < l.experts) && !notFinite p.2 &&
    decide ((ps.filter fun y => y.1 = p.1).length = 1))

/-- Counting a rejected reply (R738, R761). -/
def rejectIf (b : Bool) (s : State) : State := if b then count 0x6040 0x0A 1 s else s

/-- A framed reply is applied (R738, R759, R761). -/
def applyReply (l : Layer) (n : Nat) (it : TapItem) (ws : List Nat) (s : State) : State :=
  if n = 0 then
    let row := (List.range l.experts).map fun i => replyWord ws (1 + i)
    rejectIf (row.any notFinite) (modLayer (fun l => { l with rows := tabPut [] it.token row l.rows }) s)
  else if n = 1 then
    let ps := replyPairs ws (replyWord ws 1)
    if selectionValid l ps then setPick it.token ps s
    else rejectIf true (setPick it.token (tabGet [] it.token l.own) s)
  else if n = 2 then decideItem it.token it.key (if replyWord ws 1 / 65536 = 1 then .tap else .admitted) s
  else
    let m := replyWord ws 1
    if notFinite m then rejectIf true (restoreSlot it.key 0x3F800000 s) else restoreSlot it.key m s

/-- A reply arrives for the oldest item; with none outstanding it is discarded. -/
def execTapReply (t : Nat) (tap : Fin 4) (words : List Nat) (s : State) : Out :=
  let s := clockTo t s
  let n := tap.val
  match s.junc.layer with
  | none => .next s
  | some l =>
    match (l.tapItems n).head? with
    | none => .next s
    | some it =>
      if packageRuns s = false ∨ dropping s = true then .next s
      else
        let s := count 0x8050 2 words.length s
        if replyFramed l n it words then .next (pumpStage (applyReply l n it words (dropItem n s)))
        else .next (tapFails n 0x6008 s)

/-! ### Readings -/

/-- Object 0x6000:00: the earliest stage in progress. -/
def junctionStage (s : State) : Nat :=
  match s.junc.layer with
  | none => 0
  | some l =>
    if l.stage = 7 ∧ l.slots.length ≤ l.restored.length + l.vectors.length then 8 else l.stage

/-- Object 0x6001:00. -/
def layersWaiting (s : State) : Nat :=
  s.host.queues.foldl (fun n (_, x) =>
    if x.cls = 2 then
      n + (x.flight.filter fun d => decide (field d.data 0 1 = 1) &&
        (decide (d.state = .fetched) || decide (d.state = .gated))).length
    else n) 0

/-- Object 0x6021. -/
def tapState (s : State) (n : Nat) : Nat :=
  if 16 ≤ objAt s 0x6020 (n + 1) then 3
  else if bit s.junc.stepTaps n then 2
  else match s.junc.layer with
    | some l => if l.tapOn n then 0 else 1
    | none => if tapInService s 15 n then 0 else 1

end Sys2Proof.Machine
end

