-- ==== Sys2Proof/Machine/Fabric.lean ====
section
/-! DEFINITION. The Burund fabric's commands (chapter 17): FABRIC descriptors, FEED controllers, stalls, brownout, I/O banks
and serialiser lanes. -/

namespace Sys2Proof.Machine

/-- The fabric acts: the package runs and no curfew or removal sequence does. -/
def fabricActs (s : State) : Bool := packageRuns s && !dropping s

/-- FABRIC NOP (R936). -/
def execFabricNop (t : Nat) (queue : Fin 4096) (s : State) : Out :=
  let s := clockTo t s
  match admitOp queue.val 3 1 s with
  | (none, s) => .next s
  | (some d, s) => .next (finish queue.val d.index 0 0 0 s)

/-! ### PUSH and PULL (R936 to R939) -/

/-- The body of a PUSH or PULL is in range (the table of FABRIC descriptors). -/
def streamBodyOk (b : List Byte) : Bool :=
  let n := field b 16 4
  decide (field b 8 8 % 4 = 0) && decide (n % 4 = 0) && decide (4 ≤ n) && decide (n ≤ 2 ^ 24) && decide (field b 20 1 < 128)

/-- A PUSH or PULL takes its turn on its controller, or ends BAD_DESCRIPTOR (R937). -/
def beginStream (push : Bool) (q index : Nat) (s : State) : State :=
  match (queueAt s q).next with
  | none => s
  | some d =>
    if d.index ≠ index then s
    else match admitOp q 3 (if push then 2 else 3) s with
      | (none, s) => s
      | (some d, s) =>
        if streamBodyOk d.data = false then finish q index 3 0 0 s
        else
          let c := field d.data 20 1
          let x : Stream :=
            { queue := q, index := index, push := push, addr := field d.data 8 8, left := field d.data 16 4
              mark := bit (field d.data 21 1) 0, since := s.now }
          let first := (streamsAt s c).isEmpty
          let s := setStreams c (streamsAt s c ++ [x]) (startDesc q index s)
          if first then nextStream c s else s

/-- The stream of a descriptor, when it runs: its controller and the stream. -/
def runningStream (s : State) (push : Bool) (q index : Nat) : Option (Nat × Stream) :=
  (s.fab.streams.find? fun (_, xs) => match xs with
    | x :: _ => decide (x.queue = q) && decide (x.index = index) && (x.push == push)
    | [] => false).bind fun (c, xs) => xs.head?.map fun x => (c, x)

/-- The running stream of a controller is replaced. -/
def setHead (c : Nat) (x : Stream) (s : State) : State := setStreams c (x :: (streamsAt s c).tail) s

/-- The running stream ends and the next is judged. -/
def closeHead (c status cause : Nat) (s : State) : State := nextStream c (endHead c status cause s)

/-- One word of a PUSH: FIRST on the first, LAST on the last, with FRAME (R936). -/
def pushWord (s : State) (x : Stream) (i : Nat) : Nat :=
  leNat (hbmRead s (x.addr + 4 * i) 4) + flag (x.mark && decide (x.done + i = 0)) 32 +
    flag (x.mark && decide (x.left = 4 * (i + 1))) 33

/-- A running PUSH moves words while the FIFO has room; the fabric takes `taken` words (R931, R936). -/
def runPush (q index taken : Nat) (s : State) : State :=
  match runningStream s true q index with
  | none => s
  | some (c, x) =>
    let f := fifoAt s c
    let n := min (x.left / 4) (256 + taken - f.length)
    let reach := reachableBytes s 1 x.addr (4 * n)
    let k := cleanSource s 1 x.addr reach / 4
    let ws := (List.range k).map (pushWord s x)
    let out := min taken (f.length + k)
    let s := setFifo c ((f ++ ws).drop out) s
    let s := setHead c { x with
      addr := x.addr + 4 * k, left := x.left - 4 * k, done := x.done + 4 * k
      since := if 0 < k + out then s.now else x.since } s
    let s := count 0x8050 1 k s
    if k < n then closeHead c 5 (if 4 * n ≤ reach then 0x5001 else 0xA007) s
    else if x.left = 4 * k then closeHead c 0 0 s
    else s

/-- PUSH starts, or goes on (R936 to R938). -/
def execPush (t : Nat) (queue : Fin 4096) (index taken : Nat) (s : State) : Out :=
  let s := clockTo t s
  if fabricActs s = false then .next s
  else .next (runPush queue.val index taken (beginStream true queue.val index s))

/-- A word with an illegal dual-rail code: bit 34 (R912). -/
def illegalWord (ws : List Nat) : Bool := ws.any fun w => bit w 34

/-- An illegal code at a controller that serves no tap is a protocol break too: the lot is fenced (R912, R942, R763). -/
def portBreaks (c : Nat) (s : State) : State :=
  let s := record { cause := 0x6008, cls := 2, unitType := utLot, unit := c / 8, detail0 := c % 8 / 2 } s
  fenceLot (c / 8) 0x6008 (count 0x6040 0x0B 1 s)

/-- A running PULL takes the words the fabric offers and writes them (R936). -/
def runPull (q index : Nat) (words : List Nat) (s : State) : State :=
  match runningStream s false q index with
  | none => s
  | some (c, x) =>
    if illegalWord words then portBreaks c s
    else
      let all := fifoAt s c ++ words
      let lim := x.left / 4
      let m := min all.length (if x.mark then (match findIdx (fun w => bit w 33) all with
        | some i => min lim (i + 1)
        | none => lim) else lim)
      let k := reachableBytes s 1 x.addr (4 * m) / 4
      let s := hbmWrite x.addr ((all.take k).flatMap fun w => natLe (w % 2 ^ 32) 4) s
      let s := setFifo c ((all.drop k).take 256) s
      let s := setHead c { x with
        addr := x.addr + 4 * k, left := x.left - 4 * k, done := x.done + 4 * k
        since := if 0 < k then s.now else x.since } s
      let s := count 0x8050 2 k s
      if k < m then closeHead c 5 0xA007 s
      else if k = lim ∨ (x.mark = true ∧ 0 < k ∧ bit (all.getD (k - 1) 0) 33 = true) then closeHead c 0 0 s
      else s

/-- PULL starts, or goes on (R936 to R938). -/
def execPull (t : Nat) (queue : Fin 4096) (index : Nat) (words : List Nat) (s : State) : Out :=
  let s := clockTo t s
  if fabricActs s = false then .next s
  else .next (runPull queue.val index words (beginStream false queue.val index s))

/-! ### FEED and stalls (R934, R935) -/

/-- Submitting each 16 words gathered, until the target ring is full (fuel: groups). -/
def feedOn (c : Nat) : Nat → State → State
  | 0, s => s
  | n + 1, s =>
    let f := fifoAt s c
    if f.length < 16 then s
    else
      let q := objAt s 0x8032 (c + 1)
      let x := queueAt s q
      let go (s : State) : State := feedOn c n (count 0x8050 2 16 (setFifo c (f.drop 16) s))
      if x.state ≠ .enabled ∨ x.cls ≠ 3 then go (count 0x8050 3 1 s)
      else match submitDesc q ((f.take 16).flatMap fun w => natLe (w % 2 ^ 32) 4) s with
        | some s => go s
        | none => s

/-- A FEED controller takes words and submits descriptors (R934). -/
def execFeedSubmit (t : Nat) (ctrl : Fin 128) (words : List Nat) (s : State) : Out :=
  let s := clockTo t s
  let c := ctrl.val
  if fabricActs s = false ∨ controllerMode s c ≠ 6 then .next s
  else if illegalWord words then .next (portBreaks c s)
  else
    let f := fifoAt s c ++ words
    let s := feedOn c (f.length / 16) (setFifo c f s)
    .next (setFifo c ((fifoAt s c).take 256) s)

/-- A stream has not moved for the stall limit: it aborts and its lot is fenced (R935). -/
def execQcStall (t : Nat) (ctrl : Fin 128) (s : State) : Out :=
  let s := clockTo t s
  let c := ctrl.val
  match streamsAt s c with
  | [] => .next s
  | x :: _ =>
    if fabricActs s = false ∨ s.now < x.since + objAt s 0x8012 0 * 1000000 then .next s
    else
      let tag := match (queueAt s x.queue).desc x.index with
        | some d => field d.data 4 4
        | none => 0
      let s := record { cause := 0x8002, cls := 2, unitType := utLot, unit := c / 8, tag := tag, queue := x.queue } s
      .next (fenceLot (c / 8) 0x8002 (endHead c 1 0x8002 s))

/-! ### Supplies, banks and lanes (R921, R945 to R953) -/

/-- FAB_VDD stayed below 0.55 V for 1 us: every lot of the chiplet is fenced (R921). -/
def execFabricBrownout (t : Nat) (chip : Fin 4) (s : State) : Out :=
  let s := clockTo t s
  if packageRuns s = false then .next s
  else
    let s := count 0x8050 7 1 (record { cause := 0x8001, cls := 2, unitType := utLot, unit := 4 * chip.val } s)
    .next (forEach (fun l s => fenceLot l 0x8001 s) (chipLots chip.val) s)

/-- IOBn_VCC left its band for 10 us (R949). -/
def execIobFault (t : Nat) (bank : Fin 4) (s : State) : Out :=
  let s := clockTo t s
  let x := bankAt s bank.val
  if packageRuns s = false ∨ (x.state ≠ 1 ∧ x.state ≠ 2) then .next s
  else
    let s := record { cause := 0x8007, cls := 2, unitType := utBank, unit := bank.val } s
    .next (modBank bank.val (fun x => { x with state := 3, lock := 0 }) s)

/-- IOBn_VCC reaches its setting (R945). -/
def execIobVccGood (t : Nat) (bank : Fin 4) (s : State) : Out :=
  let s := clockTo t s
  if packageRuns s = true ∧ (bankAt s bank.val).state = 1 then
    .next (modBank bank.val (fun x => { x with state := 2 }) s)
  else .next s

/-- Setting or clearing bit `i`. -/
def putBit (v i : Nat) (b : Bool) : Nat := v - flag (bit v i) i + flag b i

/-- A receiving lane gains or loses lock (R953). -/
def execSerLaneLock (t : Nat) (bank : Fin 4) (lane : Fin 8) (locked : Bool) (s : State) : Out :=
  let s := clockTo t s
  let x := bankAt s bank.val
  if packageRuns s = false ∨ (x.state ≠ 1 ∧ x.state ≠ 2) then .next s
  else .next (modBank bank.val (fun x => { x with lock := putBit x.lock lane.val locked }) s)

end Sys2Proof.Machine
end

