-- ==== Sys2Proof/Machine/Coll.lean ====
section
/-! DEFINITION. The collective engine (chapter 16): engine messages, arming, the three operations, slabs and their receipt,
the adders, the watchdog, aborts and re-forming. -/

namespace Sys2Proof.Machine

/-! ### What an EXCHANGE_ADD sends and its window (R853, R873) -/

/-- The list entries of an EXCHANGE_ADD; a rank of 0xFFFF is skipped (R853). -/
def addEntries (s : State) (c : Collective) : List AddEntry :=
  match layerOf s c with
  | some l => (returnEntries s l).map fun e =>
      { rank := e.rank, key := e.key, slot := e.slot, data := hbmRead s e.addr c.addBytes }
  | none => (List.range c.q).map fun q =>
      let e := hbmRead s (field c.data 16 8 + 8 * q) 8
      { rank := field e 0 2, key := field e 2 2, slot := field e 4 4, data := hbmRead s (c.src + c.rr * q) c.addBytes }

/-- EXPECT by own slot: of memory, or the layer's admitted pairs (R753, R853). -/
def expects (s : State) (c : Collective) : List Nat :=
  match layerOf s c with
  | some l => l.slots.map fun t => (l.admittedOf t).length
  | none => (List.range c.slots).map fun k => (memGet s.hbm (field c.data 24 8 + k)).toNat

/-- W (R873): none where nothing limits it. -/
def windowSize (s : State) (g : Nat) (c : Collective) (ex : List Nat) : Option Nat :=
  let m := ex.foldl max 0
  if m * c.rr = 0 then none else some (groupObj s g 8 * 1024 / (m * c.rr))

/-! ### Checks (R848, R874, R900) -/

/-- An HBM range exists. -/
def inHbm (s : State) (a n : Nat) : Bool := rangeValid (hbmValid s) a n

/-- The descriptor breaks no rule of its opcode; of a layer's collective only the window is judged. -/
def shapeOk (s : State) (g : Nat) (c : Collective) : Bool :=
  let m := (groupAt s g).members.length
  let mem := c.ofLayer
  match c.op with
  | 1 => decide (c.src % 64 = 0) && decide (c.dst % 64 = 0) && decide (c.size ≠ 0) &&
      (!c.isAlley || (decide (c.size ≤ 96) && decide (m ≤ 256))) && inHbm s c.src (m * c.size) && inHbm s c.dst (m * c.size)
  | 2 =>
    let caps := capacities s m c
    let me := myRank s g
    decide (c.rs % 64 = 0) && decide (64 ≤ c.rs) && decide (c.rs ≤ 1048576) && decide (1 ≤ c.segs) &&
      decide (c.dst % 64 = 0) && inHbm s c.dst (c.rs * m * caps.getD me 0) &&
      (mem || (decide (c.src % 64 = 0) && decide (field c.data 24 8 % 64 = 0) && inHbm s (field c.data 24 8) (4 * m) &&
        caps.all (fun k => decide (k % c.segs = 0)) && inHbm s c.src (c.rs * caps.foldl (· + ·) 0)))
  | 3 =>
    let ex := expects s c
    let w := match windowSize s g c ex with | some w => decide (0 < w) | none => true
    w && decide (c.rr % 64 = 0) && decide (1 ≤ c.nel) && decide (c.fmt ≤ 2) && decide (c.slots ≤ 65536) &&
      (mem || (decide (c.src % 64 = 0) && decide (c.dst % 64 = 0) && decide (field c.data 16 8 % 8 = 0) &&
        decide (field c.data 24 8 % 64 = 0) && inHbm s (field c.data 16 8) (8 * c.q) && inHbm s (field c.data 24 8) c.slots &&
        inHbm s c.src (c.rr * c.q) && inHbm s c.dst (c.rr * c.slots) && ex.all (fun k => decide (k ≤ 16)) &&
        (addEntries s c).all fun e => decide (e.rank < m) || decide (e.rank = 0xFFFF)))
  | _ => false

/-! ### Slabs and messages (R856, R861, R875, R901) -/

/-- Sum of bytes modulo 255. -/
def residueOf (bs : List Byte) : Nat := bs.foldl (fun a b => (a + b.toNat) % 255) 0

/-- RES of data bytes. -/
def resField (s : State) (g : Nat) (bs : List Byte) : Nat := if groupObj s g 7 = 1 then residueOf bs else 0

/-- A COLL slab of a collective to a rank (R856). -/
def collSlab (s : State) (g : Nat) (c : Collective) (d key pos : Nat) (isEnd last : Bool) (data : List Byte) : Slab :=
  let x := groupAt s g
  { kind := kColl, vc := groupObj s g 3, last := last, dest := x.members.getD d 0xFFFF, src := sledAddress s
    payload := natLe g 2 ++ natLe x.epoch 2 ++ natLe c.cseq 2 ++ natLe (myRank s g) 2 ++ natLe (c.op + flag isEnd 7) 1 ++
      natLe (resField s g data) 1 ++ natLe key 2 ++ natLe pos 4 ++ data }

/-- An ALLEY slab (R901). -/
def alleySlab (s : State) (g : Nat) (c : Collective) (d : Nat) (data : List Byte) : Slab :=
  let x := groupAt s g
  { kind := kAlley, vc := 0, dest := x.members.getD d 0xFFFF, src := sledAddress s
    payload := natLe g 2 ++ natLe x.epoch 2 ++ natLe c.cseq 2 ++ natLe (myRank s g) 2 ++ natLe data.length 1 ++
      natLe (resField s g data) 1 ++ natLe 0 6 ++ data }

/-- An engine message about a collective to every other member. -/
def tellAll (g code : Nat) (c : Collective) (extra : List Byte) (s : State) : State :=
  let x := groupAt s g
  engineToAll g code x.epoch c.cseq extra x.members s

/-- The shape CRC that FINISHED carries (R861). -/
def shapeCrc (c : Collective) : Nat :=
  let from_ := if c.op = 1 then 24 else if c.op = 2 then 32 else 48
  crc32c (c.data.take 1 ++ (c.data.take 56).drop from_)

/-- END data of a stream (R858). -/
def endData (caps : List Nat) (c : Collective) (d : Nat) : List Byte :=
  if c.op = 1 then natLe c.size 4 else natLe (caps.getD d 0) 4 ++ natLe c.rs 4

/-! ### Aborts with re-forming -/

/-- The running collective of a CSEQ aborts with a cause this member detected (R885, R889). -/
def abortHere (g cseq cause : Nat) (s : State) : State :=
  match (groupAt s g).coll cseq with
  | some c => abortAndReform g cause (myRank s g) [] c s
  | none => s

/-- A descriptor that fails its checks: BAD_DESCRIPTOR, ABORT for its CSEQ, and the group re-forms (R848). -/
def badCollective (g : Nat) (c : Collective) (s : State) : State :=
  let x := groupAt s g
  let s := engineToAll g 0x85 x.epoch c.cseq (natLe 0x7013 2 ++ natLe (myRank s g) 2) x.members s
  reformGroup g [] (endCollective g c 3 (if c.ofLayer then 0x7013 else 0) 0 (count 0x7810 0x0A 1 s))

/-- A collective's descriptor is judged as it is fetched (R848 and the table of collective states); a layer's is the
Junction's own, and only its window is judged, as it starts. -/
def judgeFetched (q i : Nat) (s : State) : State :=
  let g := (queueAt s q).group
  if g = 0 then s
  else match (groupAt s g).colls.find? fun c => c.index = i with
    | some c => if c.ofLayer = false ∧ shapeOk s g c = false then badCollective g c s else s
    | none => s

/-- The next descriptor of a queue is fetched (R367, R375, R410), and a collective's is judged (R848). -/
def execDescriptorFetch (t : Nat) (queue : Fin 4096) (s : State) : Out :=
  let s := clockTo t s
  let q := queue.val
  .next (judgeFetched q (queueAt s q).fetched (fetchNext q s))

/-! ### The local part and the end (R852, R855, R878, R879, R903) -/

/-- Pad headers go to every place that received no record (R852). -/
def writePads (g : Nat) (c : Collective) (s : State) : State :=
  let m := (groupAt s g).members.length
  forEach (fun r s =>
    let taken := (c.places.filter fun (k, _) => k / 2 ^ 32 = r).map fun (_, v) => v - 1
    forEach (fun q s => if taken.contains q then s else putDst (placeAddr c m r q) padHeader s) (List.range c.cap) s)
    (List.range m) s

/-- Ranks other than this sled's. -/
def otherRanks (s : State) (g : Nat) : List Nat :=
  (List.range (groupAt s g).members.length).filter fun r => r ≠ myRank s g

/-- Every segment of a slot is written, or none is due. -/
def Collective.slotWritten (c : Collective) (k : Nat) : Bool :=
  decide (c.expect.getD k 0 = 0) || (List.range c.addSegs).all fun j => c.slotDone.contains (k, j)

/-- The local part is done (R878, R903). -/
def localDone (s : State) (g : Nat) (c : Collective) : Bool :=
  if c.isAlley then (otherRanks s g).all fun r => bit c.alley r
  else if c.op = 3 then
    decide (c.sentList = 2 ^ c.adds.length - 1) && (List.range c.expect.length).all c.slotWritten
  else c.inbox.isEmpty && (otherRanks s g).all fun r =>
    bit c.endSent r && decide (tabGet 0 r c.ends = tabGet 0 r c.written + 1)

/-- RESULT of a collective that is done (R855). -/
def collResult (s : State) (g : Nat) (c : Collective) : Nat :=
  if c.op = 1 then (groupAt s g).members.length * c.size
  else if c.op = 2 then c.places.length
  else (c.expect.filter fun k => k ≠ 0).length

/-- FINISHED has come from every other member: DONE (R879). -/
def checkDone (g cseq : Nat) (s : State) : State :=
  match (groupAt s g).coll cseq with
  | none => s
  | some c =>
    if c.state = .draining ∧ (otherRanks s g).all (bit c.finished) = true then
      endCollective g c 0 0 (collResult s g c) (count 0x7810 1 1 s)
    else s

/-- The collective drains once its local part is done: FINISHED goes to every other member (R878). -/
def checkLocal (g cseq : Nat) (s : State) : State :=
  match (groupAt s g).coll cseq with
  | none => s
  | some c =>
    if c.state = .running ∧ localDone s g c = true then
      let s := if c.op = 2 then writePads g c s else s
      let s := tellAll g 0x81 c (natLe (shapeCrc c) 4) s
      checkDone g cseq (modCollective g cseq (fun c => { c with state := .draining }) s)
    else s

/-! ### The adders (R868 to R872) -/

/-- Inserting a contribution by source rank, then key. -/
def insertContribution (x : Contribution) : List Contribution → List Contribution
  | [] => [x]
  | y :: ys => if x.rank < y.rank ∨ (x.rank = y.rank ∧ x.key ≤ y.key) then x :: y :: ys else y :: insertContribution x ys

/-- Lowest own slot not yet written (R873). -/
def lowestSlot (c : Collective) : Nat :=
  (firstFrom c.expect.length 0 fun k => !c.slotWritten k).getD c.expect.length

/-- The limit for contributions goes to every member (R873). -/
def sendWindow (g cseq : Nat) (s : State) : State :=
  match (groupAt s g).coll cseq with
  | none => s
  | some c =>
    let l := lowestSlot c
    let limit := match windowSize s g c c.expect with | some w => l + w | none => 2 ^ 32 - 1
    let s := tellAll g 0x84 c (natLe limit 4) s
    modCollective g cseq (fun c => { c with
      windowAt := l, windows := tabPut 0 (myRank s g) (max limit (tabGet 0 (myRank s g) c.windows)) c.windows }) s

/-- While checking is on, the residue unit and the duplicate rounding unit check each addition of a tree; whether they
disagree is a free value (R876). -/
def adderCheck (g n : Nat) (s : State) : Bool × State :=
  if groupObj s g 7 = 1 ∧ 2 ≤ n then let (k, s) := takeFree s; (Config.adderDisagrees k, s) else (false, s)

/-- A slot segment is complete: the pair tree is evaluated and its root written (R868 to R870), or the checks of its
adders fail (R876). -/
def combineSegment (g cseq slot seg : Nat) (s : State) : State :=
  match (groupAt s g).coll cseq with
  | none => s
  | some c =>
    let mine (x : Contribution) : Bool := decide (x.slot = slot) && decide (x.seg = seg)
    let cs := (c.held.filter mine).foldl (fun acc x => insertContribution x acc) []
    let f := addFormat c.fmt
    let n := (match cs with | x :: _ => x.data.length | [] => 0) * 8 / f.width
    let (fault, s) := adderCheck g cs.length s
    if fault then abortHere g cseq 0x7015 s else
    let (bs, fl) := if cs.length = 1 then ((cs.map (·.data)).headD [], 0) else combineBytes f n (cs.map (·.data))
    let s := modGroup g (fun x => { x with adderFlags := x.adderFlags ||| fl }) s
    let s := modCollective g cseq (fun c => { c with
      held := c.held.map fun x => if mine x then { x with data := [] } else x
      slotDone := c.slotDone ++ [(slot, seg)]
      parts := if c.ofLayer then tabPut [] (slot * 2 ^ 14 + seg) bs c.parts else c.parts }) s
    if c.ofLayer then
      match (groupAt s g).coll cseq with
      | some c' => if c'.slotWritten slot then
          modLayer (fun l => if l.gather = some c.index then
            { l with vectors := tabPut none slot (some ((List.range c.addSegs).flatMap fun j =>
                tabGet [] (slot * 2 ^ 14 + j) c'.parts)) l.vectors } else l) s else s
      | none => s
    else putDst (c.dst + c.rr * slot + 96 * seg) bs s

/-- A new WINDOW once L has advanced by half of W (R873). -/
def advanceWindow (g cseq : Nat) (s : State) : State :=
  match (groupAt s g).coll cseq with
  | none => s
  | some c =>
    match windowSize s g c c.expect with
    | none => s
    | some w => if (w + 1) / 2 ≤ lowestSlot c - c.windowAt ∧ c.windowAt < lowestSlot c then sendWindow g cseq s else s

/-- A contribution reaches the adders (R868, R871, R897). -/
def takeContribution (g cseq : Nat) (x : Contribution) (s : State) : State :=
  match (groupAt s g).coll cseq with
  | none => s
  | some c =>
    if c.held.any (fun y => decide (y.slot = x.slot) && decide (y.seg = x.seg) && decide (y.rank = x.rank) &&
        decide (y.key = x.key)) then count 0x7810 5 1 s
    else
      let n := (c.held.filter fun y => decide (y.slot = x.slot) && decide (y.seg = x.seg)).length
      let e := c.expect.getD x.slot 0
      if e < n + 1 ∨ c.addSegs ≤ x.seg then abortHere g cseq 0x7013 s
      else
        let s := modCollective g cseq (fun c => { c with held := c.held ++ [x] }) s
        if n + 1 = e then checkLocal g cseq (advanceWindow g cseq (combineSegment g cseq x.slot x.seg s)) else s

/-! ### Sending (R857, R858, R865, R874) -/

/-- Stream slabs to a rank below its latest GRANT, and END after the last; END waits for the first GRANT only. -/
def sendStream (g cseq d : Nat) (s : State) : State :=
  match (groupAt s g).coll cseq with
  | none => s
  | some c =>
    let data := c.out.getD d []
    let lim := min data.length (tabGet 0 d c.limit)
    let from_ := tabGet 0 d c.sent
    if tabGet 0 d c.limit = 0 ∨ bit c.endSent d = true then s
    else
      let s := forEach (fun j s => submitSlab (collSlab s g c d 0 j false false (data.getD j [])) s)
        ((List.range lim).drop from_) s
      let done := decide (lim = data.length)
      let s := if done then
          submitSlab (collSlab s g c d 0 data.length true true
            (endData c.caps c d)) s else s
      let s := modCollective g cseq (fun c => { c with
        sent := tabPut 0 d (max from_ lim) c.sent, endSent := if done then c.endSent ||| 2 ^ d else c.endSent }) s
      if from_ < lim ∨ done = true then checkLocal g cseq (touch g cseq s) else s

/-- One list entry goes out, to the links or to the sled's own adders (R853, R859). -/
def sendEntry (g cseq : Nat) (e : AddEntry) (s : State) : State :=
  match (groupAt s g).coll cseq with
  | none => s
  | some c =>
    forEach (fun j s =>
      let data := (e.data.drop (96 * j)).take 96
      if e.rank = myRank s g then
        takeContribution g cseq { slot := e.slot, seg := j, rank := e.rank, key := e.key, data := data } s
      else submitSlab (collSlab s g c e.rank e.key (e.slot * 2 ^ 14 + j) false (decide (j + 1 = c.addSegs)) data) s)
      (List.range c.addSegs) s

/-- Every list entry that its destination's window permits goes out (R874). -/
def sendEntries (g cseq : Nat) (s : State) : State :=
  match (groupAt s g).coll cseq with
  | none => s
  | some c =>
    checkLocal g cseq (forEach (fun (qe : Nat × AddEntry) s =>
      let (q, e) := qe
      match (groupAt s g).coll cseq with
      | none => s
      | some c =>
        if bit c.sentList q then s
        else if e.rank = 0xFFFF then modCollective g cseq (fun c => { c with sentList := c.sentList + 2 ^ q }) s
        else if e.slot < tabGet 0 e.rank c.windows then
          touch g cseq (sendEntry g cseq e (modCollective g cseq (fun c => { c with sentList := c.sentList + 2 ^ q }) s))
        else s) (numbered 0 c.adds) s)

/-! ### Starting a collective (R846, R849 to R853, R866, R873, R900) -/

/-- Slab places in the inbound chunks: all but one of the reserved chunks are inbound (R860, R864, R866). -/
def inboundPlaces (s : State) (g : Nat) : Nat := (groupObj s g 4 - 1) * (objAt s 0x7801 0 * 1024 / 96)

/-- The first grants (R866). -/
def firstGrants (g cseq : Nat) (s : State) : State :=
  let n := max 1 (inboundPlaces s g / max 1 (groupAt s g).members.length)
  forEach (fun r s => match (groupAt s g).coll cseq with
    | some c => tellRank g 0x83 c (natLe n 4) r (modCollective g cseq (fun c => { c with granted := tabPut 0 r n c.granted }) s)
    | none => s) (otherRanks s g) s

/-- The sled's own part, without the links (R849, R852). -/
def ownPart (g : Nat) (c : Collective) (s : State) : State :=
  let me := myRank s g
  if c.op = 1 then putDst (c.dst + me * c.size) ((c.out.getD me []).flatten) s
  else if c.op = 2 then
    let m := (groupAt s g).members.length
    let rs := recordsFor s c.caps c me
    let s := forEach (fun (x : Nat × List Byte) s => putDst (placeAddr c m me x.1) x.2 s) rs s
    modCollective g c.cseq (fun c => { c with
      places := (numbered 0 rs).foldl (fun t x => tabPut 0 (2 ^ 32 * me + x.1) (x.2.1 + 1) t) c.places }) s
  else s

/-- An alley part of a rank arrives: it is written, or the shape or the residue is wrong (R875, R900, R903). -/
def takeAlley (g cseq : Nat) (x : InSlab) (s : State) : State :=
  match (groupAt s g).coll cseq with
  | none => s
  | some c =>
    let len := field x.data 8 1
    let data := (x.data.drop 16).take len
    if bit c.alley x.rank then count 0x7810 5 1 s
    else if c.isAlley = false ∨ len ≠ c.size then abortHere g cseq 0x7013 s
    else if groupObj s g 7 = 1 ∧ residueOf data ≠ field x.data 9 1 then abortHere g cseq 0x7014 s
    else
      let s := putDst (c.dst + x.rank * c.size) data s
      checkLocal g cseq (touch g cseq (modCollective g cseq (fun c => { c with alley := c.alley ||| 2 ^ x.rank }) s))

/-- The collective runs: what it sends is read, its own part moves, and grants or windows leave. -/
def runCollective (g : Nat) (c : Collective) (s : State) : State :=
  let m := (groupAt s g).members.length
  let me := myRank s g
  let caps := if c.op = 2 then capacities s m c else []
  let c : Collective := { c with
    state := .running, watch := s.now, msAt := s.now, grantTurn := 0
    out := if c.op = 3 then [] else (List.range m).map (streamTo s caps c)
    adds := if c.op = 3 then addEntries s c else []
    expect := if c.op = 3 then expects s c else []
    caps := caps
    cap := caps.getD me 0 }
  let s := ownPart g c (modCollective g c.cseq (fun _ => c) (startDesc (groupAt s g).queue c.index s))
  if c.isAlley then
    let s := forEach (fun d s => submitSlab (alleySlab s g c d ((c.out.getD d []).flatten)) s) (otherRanks s g) s
    let early := (groupAt s g).alleyNext.filter fun y => y.1 = c.cseq
    let s := modGroup g (fun x => { x with alleyNext := x.alleyNext.filter fun y => y.1 ≠ c.cseq }) s
    checkLocal g c.cseq (forEach (fun (y : Nat × InSlab) s => takeAlley g c.cseq y.2 s) early (touch g c.cseq s))
  else if c.op = 3 then sendEntries g c.cseq (sendWindow g c.cseq s)
  else
    let s := firstGrants g c.cseq s
    forEach (fun d s => sendStream g c.cseq d s) (otherRanks s g) s

/-- The oldest collective of a group starts, when it has the opcode and its turn has come (R846 to R848). -/
def startCollective (op t g : Nat) (s : State) : State :=
  let s := clockTo t s
  let x := groupAt s g
  match x.colls with
  | [] => s
  | c :: _ =>
    if x.runs = false ∨ packageRuns s = false ∨ dropping s = true then s
    else if c.state ≠ .armed then takeGate x.queue fenceSet s
    else if c.op ≠ op then s
    else match admitNext x.queue fenceSet s with
      | (none, s) => s
      | (some d, s) =>
        if d.index ≠ c.index then s
        else if c.ofLayer = true ∧ shapeOk s g c = false then badCollective g c s
        else runCollective g c s

/-- EXCHANGE (R849). -/
def execExchange (t group : Nat) (s : State) : Out := .next (startCollective 1 t group s)

/-- EXCHANGE_V (R850). -/
def execExchangeV (t group : Nat) (s : State) : Out := .next (startCollective 2 t group s)

/-- EXCHANGE_ADD (R853). -/
def execExchangeAdd (t group : Nat) (s : State) : Out := .next (startCollective 3 t group s)

/-! ### Receiving slabs (R820, R858, R871, R875, R897, R898, R902) -/

/-- A CSEQ whose collective has ended on this member. -/
def cseqEnded (x : Group) (cseq : Nat) : Bool := (x.coll cseq).isNone && decide (cseq ≠ x.nextCseq) && !serialNewer 16 cseq x.nextCseq

/-- END of a stream (R858). -/
def takeEnd (g cseq rank pos : Nat) (data : List Byte) (s : State) : State :=
  match (groupAt s g).coll cseq with
  | none => s
  | some c =>
    if tabGet 0 rank c.ends ≠ 0 then count 0x7810 5 1 s
    else if c.op = 2 ∧ field data 4 4 ≠ c.rs then abortHere g cseq 0x7013 s
    else if c.op = 2 ∧ field data 0 4 ≠ c.cap then abortHere g cseq 0x7012 s
    else if c.op = 1 ∧ field data 0 4 ≠ c.size then abortHere g cseq 0x7013 s
    else checkLocal g cseq (touch g cseq (modCollective g cseq (fun c => { c with ends := tabPut 0 rank (pos + 1) c.ends }) s))

/-- A stream slab with data waits for channel 1 (R897). -/
def takeStream (g cseq rank pos : Nat) (data : List Byte) (s : State) : State :=
  match (groupAt s g).coll cseq with
  | none => s
  | some c =>
    if bit (tabGet 0 rank c.seen) pos then count 0x7810 5 1 s
    else touch g cseq (modCollective g cseq (fun c => { c with
      seen := tabPut 0 rank (tabGet 0 rank c.seen + 2 ^ pos) c.seen
      inbox := c.inbox ++ [({ rank := rank, pos := pos, data := data, place := freeSlabPlace c } : InSlab)] }) s)

/-- A COLL slab reaches the engine. -/
def receiveColl (x : Slab) (s : State) : State :=
  let p := x.payload
  let g := field p 0 2 % 2048
  let y := groupAt s g
  let cseq := field p 4 2
  let rank := field p 6 2
  let data := p.drop 16
  if y.runs = false ∨ field p 2 2 ≠ y.epoch ∨ cseqEnded y cseq = true then count 0x7810 6 1 s
  else match y.coll cseq with
    | none => s
    | some c =>
      if c.state = .armed ∨ c.isAlley = true then s
      else if groupObj s g 7 = 1 ∧ residueOf data ≠ field p 9 1 then abortHere g cseq 0x7014 s
      else if field p 8 1 % 4 ≠ c.op then abortHere g cseq 0x7013 s
      else if c.op = 3 then
        let w := field p 12 4
        touch g cseq (takeContribution g cseq
          { slot := bits w 29 14, seg := w % 2 ^ 14, rank := rank, key := field p 10 2, data := data } s)
      else if bit (field p 8 1) 7 then takeEnd g cseq rank (field p 12 4) data s
      else takeStream g cseq rank (field p 12 4) data s

/-- An ALLEY slab reaches the engine: into reserved space, or discarded (R820, R898, R902). -/
def receiveAlley (x : Slab) (s : State) : State :=
  let p := x.payload
  let g := field p 0 2 % 2048
  let y := groupAt s g
  let cseq := field p 4 2
  let slab : InSlab := { rank := field p 6 2, pos := 0, data := p }
  let base := match y.active with
    | some c => c.cseq
    | none => (y.colls.head?.map (·.cseq)).getD y.nextCseq
  if y.runs = false ∨ 256 < y.members.length ∨ s.sweep.cleared = true then count 0x7040 5 1 s
  else if field p 2 2 ≠ y.epoch ∨ cseqEnded y cseq = true then count 0x7810 6 1 s
  else match y.active with
    | some c => if c.cseq = cseq then takeAlley g cseq slab s
      else if cseq = (base + 1) % 65536 then modGroup g (fun y => { y with alleyNext := y.alleyNext ++ [(cseq, slab)] }) s
      else count 0x7040 5 1 s
    | none => if cseq = base ∨ cseq = (base + 1) % 65536 then
        modGroup g (fun y => { y with alleyNext := y.alleyNext ++ [(cseq, slab)] }) s
      else count 0x7040 5 1 s

/-- A CONTROL slab: an engine message, a reserved code, or one for station firmware (R861). -/
def receiveControl (x : Slab) (s : State) : State :=
  let p := x.payload
  let code := field p 0 1
  if code < 0x80 ∨ 0x90 ≤ code then s.modLinks fun l => { l with firmware := l.firmware ++ [p] }
  else if 0x88 ≤ code then count 0x7040 3 1 s
  else
    let m : EngineMsg :=
      { code := code, group := field p 1 2, epoch := field p 3 2, cseq := field p 5 2, rank := field p 7 2
        src := x.src, extra := p.drop 9 }
    s.modColl fun c => { c with inbox := c.inbox ++ [m] }

/-! ### Channel 1 writes received slabs and places are granted again (R852, R866) -/

/-- The next source in round robin whose END has not arrived. -/
def nextSource (s : State) (g : Nat) (c : Collective) : Option Nat :=
  let m := (groupAt s g).members.length
  (firstFrom m 0 fun i =>
    let r := (c.grantTurn + i) % max 1 m
    decide (r ≠ myRank s g) && decide (tabGet 0 r c.ends = 0)).map fun i => (c.grantTurn + i) % max 1 m

/-- The freed place is granted (R866). -/
def grantPlace (g cseq : Nat) (s : State) : State :=
  match (groupAt s g).coll cseq with
  | none => s
  | some c =>
    match nextSource s g c with
    | none => s
    | some r =>
      let n := tabGet 0 r c.granted + 1
      let s := modCollective g cseq (fun c => { c with granted := tabPut 0 r n c.granted, grantTurn := r + 1 }) s
      tellRank g 0x83 c (natLe n 4) r s

/-- A received slab of the running collective is written and its place granted again. -/
def execHamperPlaceFreed (t group : Nat) (s : State) : Out :=
  let s := clockTo t s
  match (groupAt s group).active with
  | none => .next s
  | some c =>
    match c.inbox.find? (placeKnown c) with
    | none => .next s
    | some x =>
      if packageRuns s = false ∨ dropping s = true then .next s
      else if x.written = false ∧ c.op = 2 ∧ x.pos % c.unit = 0 ∧ c.cap ≤ field x.data 0 4 then .next (abortHere group c.cseq 0x7012 s)
      else
        let s := if x.written then s else writeInSlab group c x s
        let s := modCollective group c.cseq (fun c => { c with
          inbox := c.inbox.filter fun y => decide (y.rank ≠ x.rank) || decide (y.pos ≠ x.pos)
          written := tabPut 0 x.rank (tabGet 0 x.rank c.written + 1) c.written }) s
        .next (checkLocal group c.cseq (touch group c.cseq (grantPlace group c.cseq s)))

/-! ### Engine messages (R838, R839, R862, R865, R874, R879, R881, R885 to R892) -/

/-- A message about a CSEQ that this member has not fetched yet waits. -/
def messageWaits (s : State) (m : EngineMsg) : Bool :=
  let x := groupAt s m.group
  x.runs && decide (m.epoch = x.epoch) && decide (0x81 ≤ m.code) && decide (m.code ≤ 0x85) && (x.coll m.cseq).isNone &&
    !cseqEnded x m.cseq

/-- The oldest message that does not wait, when it has the code; the inbox without it. -/
def takeMessage (code : Nat) (s : State) : Option (EngineMsg × State) :=
  if packageRuns s = false ∨ dropping s = true then none
  else match findIdx (fun m => !messageWaits s m) s.coll.inbox with
    | none => none
    | some i => match s.coll.inbox[i]? with
      | some m => if m.code = code then some (m, { s with coll := { s.coll with inbox := s.coll.inbox.eraseIdx i } }) else none
      | none => none

/-- The collective a message is about: of the present epoch and not finished (R862). -/
def messageColl (s : State) (m : EngineMsg) : Option Collective :=
  let x := groupAt s m.group
  if x.runs = true ∧ m.epoch = x.epoch ∧ x.members.contains m.src = true then x.coll m.cseq else none

/-- ARM_HELLO of this sled to one member. -/
def armHelloTo (g dest : Nat) (s : State) : State := engineTo g 0x80 0 0 (natLe (definitionCrc s g) 4) dest s

/-- Every 1 ms in ARMING: ARM_HELLO to every other member (R838). -/
def execArmHelloTimer (t group : Nat) (s : State) : Out :=
  let s := clockTo t s
  let x := groupAt s group
  if x.state ≠ 1 ∨ s.now < x.lastSent + 1000000 ∨ packageRuns s = false ∨ dropping s = true then .next s
  else
    let s := modGroup group (fun x => { x with lastSent := s.now }) s
    .next (engineToAll group 0x80 0 0 (natLe (definitionCrc s group) 4) x.members s)

/-- Every other member has sent a fitting ARM_HELLO: ARMED (R838, R843). -/
def checkArmed (g : Nat) (s : State) : State :=
  let x := groupAt s g
  if x.state = 1 ∧ x.members.all (fun a => decide (a = sledAddress s) || x.helloFrom.contains a) = true then
    glCause 4 (modGroup g (fun x => { x with state := 2 }) s)
  else s

/-- An ARM_HELLO arrives (R838, R839). -/
def execArmHello (t : Nat) (s : State) : Out :=
  let s := clockTo t s
  match takeMessage 0x80 s with
  | none => .next s
  | some (m, s) =>
    let g := m.group
    let x := groupAt s g
    if x.runs = false ∨ (x.state = 2 ∧ x.epoch ≠ 0) ∨ x.members.contains m.src = false then .next s
    else if field m.extra 0 4 ≠ definitionCrc s g then .next (count 0x7810 0x0B 1 s)
    else if x.state = 2 then .next (armHelloTo g m.src s)
    else .next (checkArmed g (modGroup g (fun x => { x with
      helloFrom := if x.helloFrom.contains m.src then x.helloFrom else x.helloFrom ++ [m.src] }) s))

/-- A group still ARMING after the arm limit returns to DEFINED (R840). -/
def execArmTimeout (t group : Nat) (s : State) : Out :=
  let s := clockTo t s
  let x := groupAt s group
  if x.state ≠ 1 ∨ s.now < x.since + 1000000 * objAt s 0x7807 0 ∨ packageRuns s = false ∨ dropping s = true then .next s
  else .next (makeDefined group 0x0A s)

/-- FINISHED: the member has done its part with a shape (R879). -/
def execFinished (t : Nat) (s : State) : Out :=
  let s := clockTo t s
  match takeMessage 0x81 s with
  | none => .next s
  | some (m, s) =>
    match messageColl s m with
    | none => .next s
    | some c =>
      if field m.extra 0 4 ≠ shapeCrc c then .next (abortHere m.group m.cseq 0x7013 s)
      else .next (checkDone m.group m.cseq (modCollective m.group m.cseq (fun c => { c with
        watch := s.now, finished := c.finished ||| 2 ^ m.rank }) s))

/-- PROGRESS restarts the watchdog (R881). -/
def execProgress (t : Nat) (s : State) : Out :=
  let s := clockTo t s
  match takeMessage 0x82 s with
  | none => .next s
  | some (m, s) =>
    match messageColl s m with
    | none => .next s
    | some _ => .next (modCollective m.group m.cseq (fun c => { c with watch := s.now }) s)

/-- A position granted again: the slabs of its chunk of the stream up to it leave once more (R905). -/
def resendStream (g cseq d n : Nat) (s : State) : State :=
  match (groupAt s g).coll cseq with
  | none => s
  | some c =>
    let data := c.out.getD d []
    touch g cseq (forEach (fun j s => submitSlab (collSlab s g c d 0 j false false (data.getD j [])) s)
      ((List.range n).drop ((n - 1) / chunkSlabs s * chunkSlabs s)) s)

/-- GRANT raises the stream position below which this sled may send (R865); a position that has already been sent is granted
again (R905). -/
def execGrant (t : Nat) (s : State) : Out :=
  let s := clockTo t s
  match takeMessage 0x83 s with
  | none => .next s
  | some (m, s) =>
    match messageColl s m with
    | none => .next s
    | some c =>
      let s := modCollective m.group m.cseq (fun c => { c with
        limit := tabPut 0 m.rank (max (field m.extra 0 4) (tabGet 0 m.rank c.limit)) c.limit }) s
      let n := field m.extra 0 4
      if c.state = .armed ∨ c.op = 3 then .next s
      else if 1 ≤ n ∧ n ≤ tabGet 0 m.rank c.sent then .next (resendStream m.group m.cseq m.rank n s)
      else .next (sendStream m.group m.cseq m.rank s)

/-- WINDOW raises the slot limit below which this sled may send contributions (R874). -/
def execWindow (t : Nat) (s : State) : Out :=
  let s := clockTo t s
  match takeMessage 0x84 s with
  | none => .next s
  | some (m, s) =>
    match messageColl s m with
    | none => .next s
    | some c =>
      let s := modCollective m.group m.cseq (fun c => { c with
        windows := tabPut 0 m.rank (max (field m.extra 0 4) (tabGet 0 m.rank c.windows)) c.windows }) s
      if c.state = .armed then .next s else .next (sendEntries m.group m.cseq s)

/-- ABORT: this member aborts with the cause it learns (R885). -/
def execAbort (t : Nat) (s : State) : Out :=
  let s := clockTo t s
  match takeMessage 0x85 s with
  | none => .next s
  | some (m, s) =>
    match messageColl s m with
    | none => .next s
    | some c => .next (abortAndReform m.group (field m.extra 0 2) (field m.extra 2 2) [] c s)

/-- REFORM: further lost members leave the proposal, and a fitting proposal counts (R889 to R893). -/
def execReform (t : Nat) (s : State) : Out :=
  let s := clockTo t s
  match takeMessage 0x86 s with
  | none => .next s
  | some (m, s) =>
    let g := m.group
    let x := groupAt s g
    if (x.state ≠ 2 ∧ x.state ≠ 3) ∨ m.epoch ≠ x.nextEpoch ∨ x.members.contains m.src = false then .next s
    else
      let n := min 40 (field m.extra 4 1)
      let s := reformGroup g ((List.range n).map fun i => field m.extra (5 + 2 * i) 2) s
      if (groupAt s g).state = 3 ∧ field m.extra 0 4 = proposalCrc s g then
        .next (judgeProposal g (modGroup g (fun x => { x with
          reformFrom := if x.reformFrom.contains m.src then x.reformFrom else x.reformFrom ++ [m.src] }) s))
      else .next s

/-- A sled has left membership: the program that holds pages of its lend region aborts, and the pages lent to it are free
(R546, R563). -/
def lenderLost (addr : Nat) (s : State) : State :=
  let s := s.modTiers fun t => { t with lent := t.lent.filter fun (_, b) => b ≠ addr }
  match s.prog with
  | some p => if p.arena.any fun l => match l with | .peer a _ => a = addr | _ => false then abortAtStep 0x5007 0 s else s
  | none => s

/-- LEAVE: its sender is lost to the group (R887).  A sender that had announced its departure has left membership by its
drain, and a lender of pages with it (R202, R563; DEDUCED, log entry 145); one that only dissolves a group has not. -/
def execLeave (t : Nat) (s : State) : Out :=
  let s := clockTo t s
  match takeMessage 0x87 s with
  | none => .next s
  | some (m, s) =>
    let s := memberLost m.group m.src s
    .next (if tabGet false m.src s.links.departed then lenderLost m.src s else s)

/-! ### Timers (R882, R883, R890, R893) -/

/-- At the end of each 1 ms in which a slab moved: PROGRESS (R882). -/
def execProgressTimer (t group : Nat) (s : State) : Out :=
  let s := clockTo t s
  match (groupAt s group).active with
  | none => .next s
  | some c =>
    if c.state ≠ .running ∨ s.now < c.msAt + 1000000 ∨ packageRuns s = false ∨ dropping s = true then .next s
    else
      let s := modCollective group c.cseq (fun c => { c with moved := false, msAt := s.now }) s
      if c.moved then .next (tellAll group 0x82 c [] s) else .next s

/-- The watchdog runs out (R883). -/
def execWatchdogExpire (t group : Nat) (s : State) : Out :=
  let s := clockTo t s
  match (groupAt s group).active with
  | none => .next s
  | some c =>
    if s.now < c.watch + 1000000 * groupObj s group 6 ∨ packageRuns s = false ∨ dropping s = true then .next s
    else .next (abortAndReform group 0x7011 (myRank s group) [] c s)

/-- Every 1 ms in REFORMING: REFORM again (R890). -/
def execReformResend (t group : Nat) (s : State) : Out :=
  let s := clockTo t s
  let x := groupAt s group
  if x.state ≠ 3 ∨ s.now < x.lastSent + 1000000 ∨ packageRuns s = false ∨ dropping s = true then .next s
  else .next (sendReform group s)

/-- A group still REFORMING after the limit becomes DEFINED (R893). -/
def execReformTimeout (t group : Nat) (s : State) : Out :=
  let s := clockTo t s
  let x := groupAt s group
  if x.state ≠ 3 ∨ s.now < x.since + 1000000 * objAt s 0x7808 0 ∨ packageRuns s = false ∨ dropping s = true then .next s
  else .next (makeDefined group 0x0B s)

end Sys2Proof.Machine
end

