-- ==== Sys2Proof/Machine/Images.lean ====
section
/-! DEFINITION. Firmware image banks (chapter 05): which bank runs, which one a commit writes; replies on both paths
and the outcomes a session records; and what a commit that curfew cuts short leaves. -/

namespace Sys2Proof.Machine

/-- The image that is selected of two banks: the higher version, bank A on a tie, none when neither is valid (R1139). -/
def pickBank (a b : Bank) : Nat := if a.version < b.version then 2 else if a.version = 0 then 0 else 1

/-- The bank's image is not fit to run: it fails verification, and its entry of object 0x1310 reads 0. -/
def voidBank (x : Bank) : Bank := { x with version := 0 }

/-- A stored image verifies: it is the factory image, which holds no bytes here (log entry 5), or its signature verifies over
its header and body (R184, R284, R1140); `readable` says whether the store gives back what was written. -/
def bankVerifies (readable : Bool) (x : Bank) : Bool :=
  readable && decide (x.version ≠ 0) &&
    (decide (x.data = []) ||
      Config.verifySignature Config.imageKey (x.data.take (x.data.length - 96)) (x.data.drop (x.data.length - 96)))

/-- The image kind of a DOMAIN key: 1 station, 2 kiosk, 3 policy, 0 none (R1140). -/
def imageKind (key : Nat) : Nat :=
  if key = objKey 0x1300 0 then 1 else if key = objKey 0x1301 0 then 2 else if key = objKey 0x1302 0 then 3 else 0

/-- The running bank of a kind: where its image was loaded from, or what would be selected now (R285). -/
def runningBank (k : Kiosk) (kind : Nat) : Nat :=
  let (loaded, a, b) := match kind with
    | 1 => (k.stationBank, k.stationA, k.stationB)
    | 2 => (k.kioskBank, k.kioskA, k.kioskB)
    | _ => (k.policyBank, k.policyA, k.policyB)
  if loaded = 0 then pickBank a b else loaded

/-- The bank that a commit writes: never the running one (R285). -/
def targetBank (k : Kiosk) (kind : Nat) : Nat := if runningBank k kind = 1 then 2 else 1

/-- Writing a bank. -/
def setBank (kind bank : Nat) (x : Bank) (k : Kiosk) : Kiosk :=
  match kind, bank with
  | 1, 1 => { k with stationA := x }
  | 1, _ => { k with stationB := x }
  | 2, 1 => { k with kioskA := x }
  | 2, _ => { k with kioskB := x }
  | _, 1 => { k with policyA := x }
  | _, _ => { k with policyB := x }

/-! ### Replies and recorded outcomes (R246, R248, R260, R261, R277, R289) -/

/-- A session of either path. -/
def pathSession (s : State) (mailbox : Bool) (n : Nat) : Session :=
  if mailbox then s.kiosk.mbSess else tabGet {} n s.kiosk.sessions

/-- Changing a session of either path. -/
def modSession (mailbox : Bool) (n : Nat) (f : Session → Session) (s : State) : State :=
  s.modKiosk fun k =>
    if mailbox then { k with mbSess := f k.mbSess }
    else { k with sessions := tabPut {} n (f (tabGet {} n k.sessions)) k.sessions }

/-- A request outside any session: JOP's session number 0 (R265). -/
def sessionless (mailbox : Bool) (n : Nat) : Bool := !mailbox && n == 0

/-- A reply reaches its client: in a REPLY frame, or in MB_RESPONSE with DONE and the vector (R277, R329). -/
def deliver (mailbox : Bool) (n client : Nat) (reply : List Byte) (s : State) : State :=
  if mailbox then
    let s := s.modKiosk fun k => { k with
      mbResponse := reply, mbRspLength := reply.length, mbDone := true, mbBusy := false }
    if s.kiosk.mbVector = 0xFFFF then s else raiseVector s.kiosk.mbVector s
  else sendReply n client reply s

/-- An executed request takes its place among the 32 outcomes and H its TXN; the reply may still be to come (R260,
R261, R263). -/
def openOutcome (mailbox : Bool) (n txn : Nat) (changing : Bool) (s : State) : State :=
  count 0x1110 1 1 (modSession mailbox n (fun x => { x with
    high := some txn
    record := ({ txn := txn, changing := changing, reply := [] } :: x.record).take 32 }) s)

/-- Its reply is recorded (R260, R263). -/
def closeOutcome (mailbox : Bool) (n txn : Nat) (reply : List Byte) (s : State) : State :=
  let s := modSession mailbox n (fun x => { x with
    record := x.record.map fun o => if o.txn = txn then { o with reply := reply } else o }) s
  if field reply 4 1 = 0 then s else count 0x1110 5 1 s

/-- The request of a commit is answered; a session that has ended gets nothing, and MB_STATUS.BUSY clears (R273,
R289). -/
def answerCommit (g : Staging) (txn : Nat) (reply : List Byte) (s : State) : State :=
  if g.orphan then
    let s := if field reply 4 1 = 0 then s else count 0x1110 5 1 s
    if g.busy then s.modKiosk fun k => { k with mbBusy := false } else s
  else deliver g.mailbox g.session g.client reply (closeOutcome g.mailbox g.session txn reply s)

/-- A commit under way at event 2 is cut short: an image's target bank reads version 0, the staging stands, and the reply
is CURFEW (R288). -/
def cutCommit (s : State) : State :=
  match s.kiosk.staging with
  | none => s
  | some g =>
    match g.verifying with
    | none => s
    | some txn =>
      let s := s.modKiosk fun k =>
        let k := if imageKind g.key = 0 then k else setBank (imageKind g.key) (targetBank k (imageKind g.key)) {} k
        { k with staging := if g.orphan then none else some { g with verifying := none, busy := false } }
      answerCommit g txn (wholeReply txn 0x0A) s

end Sys2Proof.Machine
end

