-- ==== Sys2Proof/Machine/Reset.lean ====
section
/-! DEFINITION. What resets and losses of power take away (the table of what a full reset keeps, R112, R189,
R266), the descents (R176, R196) and the entry into LEFT (R203, R204, R404). -/

namespace Sys2Proof.Machine

/-- Draw of the package beside its tiles, mW: what the worked examples leave of 418.4 W for 160 idle tiles. -/
def restDraw : Nat := 242400

/-- The ballast level that holds p16 at its present value with every tile idle (R145, R176, R196, R1146). -/
def holdLevel (s : State) : Nat :=
  let unit := 16 * idleTiles s * ballastInc s.gov.clock
  let idle := 16 * (restDraw + 160 * idleDraw s.gov.clock)
  if unit = 0 then 0 else min 15 ((p16Sum s.gov - idle + unit - 1) / unit)

/-- Every tile stops issuing, and in the same step ballast holds p16 (R160, R176, R196). -/
def stopIssue (s : State) : State :=
  let s : State := { s with tiles := s.tiles.map fun (n, x) => (n, { x with works := false }) }
  s.modGov fun g => { g with ballast := holdLevel s }

/-- A sweep that has not stored its verdict ends at once (R216, R1048); nothing of a sweep goes on. -/
def abandonSweep (cause : Nat) (s : State) : State :=
  let due := (decide (s.life.state = .left) && s.life.sweepDue) ||
    (decide (s.life.state = .sweep) && (decide (s.sweep.stage = .ramping) || decide (s.sweep.stage = .body)))
  let s := if due then
      count 0x3120 3 1 (noteRecord 0x300A utSled 0 { s with sweep := { s.sweep with outcome := 3, cause := cause } })
    else s
  { s with sweep := { s.sweep with stage := .idle, phase := 0, slotCycle := 0, stored := false, failures := [] } }.modLife
    fun l => { l with sweepDue := false }

/-- A port as reset leaves it: only the cage's report of a cable stands. -/
def resetPort (x : Port) : Port := { cable := x.cable }

/-- Memory tiers as package reset leaves them: what the cellar holds stands, with the results of the last test. -/
def resetTiers (t : Tiers) : Tiers :=
  { hbmMap := t.hbmMap, cellarMap := t.cellarMap, hbmFailed := t.hbmFailed, cellarFailed := t.cellarFailed
    cellarPoison := t.cellarPoison, cellarCount := t.cellarCount }

/-- Every injector's ARM is cleared (R829). -/
def disarmInjectors (s : State) : State := forEach (fun p s => setObj (0x7100 + p) 8 0 s) (List.range 16) s

/-- What package reset takes: everything the package holds but the cellar (the table of what a full reset keeps). -/
def packageReset (s : State) : State :=
  let s := endMailboxSession s
  let s := s.modKiosk fun k => { k with
    stationRunning := false, mbReqLength := 0, mbVector := 0xFFFF, mbBusy := false, mbRequest := [], mbResponse := []
    staging := k.staging.map fun g => { g with busy := false }
    counters := k.counters.filter fun (key, _) => !packageHeld (key / 256) (key % 256) }
  let s := s.modRb fun r => { r with pkgCmp := [] }
  let s := disarmInjectors (setObj 0x5105 0 0 (fabricReset s))
  { s with
    host := { windowSize := s.host.windowSize }
    hbm := []
    tiles := s.tiles.foldl (fun t (n, x) => tabPut {} n ({ runFence := x.runFence } : Tile) t) []
    tiers := resetTiers s.tiers
    prog := none
    links := { ports := s.links.ports.foldl (fun t (p, x) => tabPut {} p (resetPort x) t) [], noticeCount := s.links.noticeCount }
    coll := {}
    junc := { arrays := s.junc.arrays.foldl (fun t (n, a) => tabPut {} n ({ temp := a.temp } : Arr) t) [] }
    sweep := { s.sweep with cleared := false, domain := [], atSpeed := [] } }

/-- Bound on the draw, mW, when a supply group has been reached (R1132). -/
def supplyBound (n : Nat) : Nat :=
  if n = 0 then 0 else if n = 1 then 90000 else if n = 2 then 150000 else if n = 3 then 180000 else 418400

/-- At most the first `n` supply groups stay enabled (R1133). -/
def lowerSupplies (n : Nat) (g : Governor) : Governor :=
  { g with supplyGroups := min n g.supplyGroups, supplyMw := min (supplyBound n) g.supplyMw }

/-- Groups 1 to 4 are up, and the draw of the last may rise to its bound (R1132). -/
def suppliesUp (g : Governor) : Bool := decide (4 ≤ g.supplyGroups) && decide (supplyBound 4 ≤ g.supplyMw)

/-- Tiles whose clocks are ungated, in groups of 16 as the permitted draw rises (R1132). -/
def ungatedTiles (g : Governor) : Nat := 16 * ((g.supplyMw - supplyBound 3) * 10 / (supplyBound 4 - supplyBound 3))

/-- What loss of main power takes: the package and the cellar. -/
def mainPowerLost (s : State) : State :=
  let s := packageReset s
  { s with cellar := [], tiers := { s.tiers with cellarPoison := [] } }.modGov fun g => { g with
    switchClosed := false, railsOn := false, hbmOn := false, cellarOn := false, supplyGroups := 0, supplyMw := 0
    state := .off, fullDepth := false, fatalCapMw := none, fatalDue := false, power := [], sumMw := 0, samples := 0, aMw := 0
    ceilMw := 0, floorMw := 0, ballast := 0, holdBack := 0, holdSum := 0, heldThis := false, workThis := false
    lowHalves := 0, capDescent := false }

/-- The input switch opens outside curfew: OFF or STANDBY follows POWER_TARGET and the inhibits (R180, R192, R197). -/
def openSwitch (s : State) : State :=
  let s := (mainPowerLost { s with sweep := { s.sweep with stage := .idle, slotCycle := 0, stored := false } }).modLife fun l => { l with descent := .idle, departCode := 0, departCycle := 0 }
  settle (enterLife (if startInhibited s then .off else .standby) s)

/-- Departure notices with a cause, and the counting of a surprise departure (R207). -/
def surpriseNotice (cause : Nat) (s : State) : State :=
  if isMember s then count 0x3030 7 1 (sendNotice cause s.rb.cycle s) else s

/-- The kiosk asserts package reset at the end of a full reset's descent (R176, R180, R209). -/
def assertReset (s : State) : State :=
  let s := (packageReset s).modLife fun l => { l with
    descent := .idle, heldSince := s.now, departCode := 0, departCycle := 0 }
  let s := s.modGov fun g => { lowerSupplies 3 g with fatalCapMw := none, fatalDue := false }
  enterLife .resetHeld (count 0x3030 3 1 (setObj 0x3020 0 0 s))

/-- A full reset begins: notices, records, and the descent (R176, R209, R217). -/
def beginFullReset (s : State) : State :=
  if resettable s.life.state = false ∨ s.life.descent = .toReset then s
  else
    let s := surpriseNotice 0x3004 s
    let s := stopIssue (abandonSweep 8 (noteRecord 0x3004 utSled 0 s))
    (s.modGov fun g => { g with fullDepth := true }).modLife fun l => { l with
      descent := .toReset, lastCause := 0x3004, departCycle := 0, sweepDue := false }

/-- The ordered shutdown begins (R196). -/
def beginShutdown (s : State) : State :=
  ((stopIssue s).modGov fun g => { g with fullDepth := true }).modLife fun l => { l with descent := .toOff }

/-- Every queue is disabled on entering LEFT (R404). -/
def disableAllQueues (s : State) : State :=
  let s := forEach (fun (qx : Nat × Queue) s => disableQueue qx.1 s) s.host.queues s
  forEach (fun n s => disableQueue (4064 + n) s) (List.range 32) s

/-- Entering LEFT (R204, R404, R1010): with a sweep due the descent is the sweep's. -/
def enterLeft (sweep : Bool) (s : State) : State :=
  let s := disableAllQueues (enterLife .left s)
  if sweep then
    ((stopIssue s).modGov fun g => { g with fullDepth := true }).modLife fun l => { l with sweepDue := true }
  else beginShutdown (s.modLife fun l => { l with sweepDue := false })

/-- A SLED_FATAL record (R1051, R1085). -/
def fatalRecord (cause ut unit : Nat) (s : State) : State :=
  count 0x9020 4 1 (record { cause := cause, cls := 5, unitType := ut, unit := unit } s)

/-- Supply group `n` is enabled (R1132): 1 brings up the cellar and the fabric, 2 HBM, 3 the compute dies in reset, 4
releases the package, 5 is the banks' supply. -/
def enableGroup (n : Nat) (g : Governor) : Governor :=
  { g with
    supplyGroups := n, cellarOn := g.cellarOn || decide (1 ≤ n), hbmOn := g.hbmOn || decide (2 ≤ n)
    railsOn := g.railsOn || decide (3 ≤ n) }

/-- The package enters POWERED (R150, R286, R349, R829, R1132, R1139): full clock, the policy image selected, injectors
disarmed, link training; out of RESET_HELD the supplies are already up. -/
def enterPowered (held : Bool) (s : State) : State :=
  let s := enterLife .powered s
  let s := (s.modGov fun g =>
    let g := { g with
      clock := 1800, lowHalves := 0, state := if g.state = .brownout then .brownout else .regulating
      switchClosed := true, fullDepth := false }
    if held then enableGroup 4 g else g).modLife fun l => { l with fromHeld := held, descent := .idle, packageAt := s.now }
  let s := disarmInjectors (s.modKiosk fun k => { k with
    policyBank := pickBank k.policyA k.policyB, stationNew := 0 })
  if s.pins.perst then s else startEndpoint s

end Sys2Proof.Machine
end

