-- ==== Sys2Proof/Machine/Drop.lean ====
section
/-! DEFINITION. Curfew and the removal drop (chapter 03): the ten events, in order, each no later than its time. -/

namespace Sys2Proof.Machine

/-- Record cause of a sequence. -/
def DropCause.record : DropCause → Nat
  | .curfew => 0x2007 | .removal => 0x2008

/-- Every open repeat window ends, and no record is formed from here on (R1062). -/
def freezeRecords (s : State) : State :=
  let s := forEach endWindow s.contain.windows s
  s.modContain fun c => { c with windows := [], frozen := true }

/-- Event 2: declared at once, before anything else in progress (R49, R160, R171, R181, R216, R288, R678, R1062). -/
def beginDrop (c : DropCause) (s : State) : State :=
  let s := if isMember s then count 0x3030 7 1 s else s
  let s := freezeRecords (abandonSweep (match c with | .curfew => 9 | .removal => 0x0A) s)
  let s := cutCommit (stopIssue (clearKioskCmp kcDepart (clearKioskCmp kcSweep s)))
  let s := s.modGov fun g => { g with
    state := (match c with | .curfew => .curfew | .removal => .removal), ballast := 0, holdBack := 0
    drop := some { cause := c, t0 := s.now }, brownDue := false, brownClearDue := false, overDue := false }
  let s : State := { s with junc := { s.junc with plane0 := {}, plane1 := {} } }
  enterLife .curfew (s.modLife fun l => { l with
    lastCause := c.record, descent := .idle, departCode := 0, departCycle := 0, sweepDue := false, startDue := false
    departWaits := false })

/-- The record of a sequence, where the log is being written (R172, R175). -/
def recordDrop (c : DropCause) (s : State) : State := noteRecord c.record utInput 0 s

/-- The other cause arises during a sequence (R175). -/
def secondCause (c : DropCause) (d : DropSeq) (s : State) : State :=
  if d.both = true ∨ d.cause = c then s
  else
    let s := s.modGov fun g => { g with drop := some { d with both := true } }
    if 5 ≤ d.event then recordDrop c s else s

/-- A sequence begins in a powered state, or its cause joins the one that runs. -/
def declareDrop (c : DropCause) (s : State) : State :=
  match s.gov.drop with
  | some d => secondCause c d s
  | none => if poweredState s.life.state then beginDrop c s else s

/-- Curfew is declared: MAIN_54V below 46.0 V for 200 µs, or PF_WARN_N for 2 µs (R157). -/
def execCurfewDeclare (t : Nat) (s : State) : Out :=
  let s := clockTo t s
  if lasted s s.gov.lowSince 200000 || lasted s s.gov.pfSince 2000 then .next (declareDrop .curfew s) else .next s

/-- EARLY_N has stayed asserted for 10 µs (R171). -/
def execRemovalDropBegin (t : Nat) (s : State) : Out :=
  let s := clockTo t s
  if lasted s s.pins.earlySince 10000 then .next (declareDrop .removal s) else .next s

/-- Event `n` of the running sequence follows event `n - 1`. -/
def dropEvent (n t : Nat) (f : DropSeq → State → State) (s : State) : State :=
  let s := clockTo t s
  match s.gov.drop with
  | some d => if d.event + 1 = n then f d (s.modGov fun g => { g with drop := some { d with event := n } }) else s
  | none => s

/-- Event 3: the departure notice on every trained link (R160, R207). -/
def execCurfewDepartureNotice (t : Nat) (s : State) : Out :=
  .next (dropEvent 3 t (fun d s => sendNotice d.cause.record s.rb.cycle s) s)

/-- Event 4: tiles, movers, Junction and switch halt; nothing more leaves on the links (R160). -/
def execCurfewHalt (t : Nat) (s : State) : Out :=
  .next (dropEvent 4 t (fun _ s => { s with tiles := s.tiles.map fun (n, x) => (n, { x with stopped := true }) }) s)

/-- Event 5: the kiosk starts to write the event log, one record for each cause (R160, R172, R175). -/
def execCurfewLogStart (t : Nat) (s : State) : Out :=
  .next (dropEvent 5 t (fun d s =>
    let s := recordDrop d.cause s
    if d.both then recordDrop (match d.cause with | .curfew => .removal | .removal => .curfew) s else s) s)

/-- Event 6: the compute-die core rails go off, and with them what the dies held (R160). -/
def execCoreRailsOff (t : Nat) (s : State) : Out :=
  .next (dropEvent 6 t (fun _ s =>
    { packageReset s with hbm := s.hbm }.modGov fun g => { lowerSupplies 2 g with railsOn := false }) s)

/-- Event 7: the HBM stacks go off (R160). -/
def execHbmOff (t : Nat) (s : State) : Out :=
  .next (dropEvent 7 t (fun _ s =>
    { s with hbm := [] }.modGov fun g => { lowerSupplies 1 g with hbmOn := false }) s)

/-- Event 8: cellar, fabric and link retimers go off (R160). -/
def execCellarFabricOff (t : Nat) (s : State) : Out :=
  .next (dropEvent 8 t (fun _ s =>
    { s with cellar := [], tiers := { s.tiers with cellarPoison := [] } }.modGov fun g => { lowerSupplies 0 g with
      cellarOn := false }) s)

/-- Event 9: the input switch opens and the main domain is off (R160, R266). -/
def execCurfewSwitchOpen (t : Nat) (s : State) : Out := .next (dropEvent 9 t (fun _ s => mainPowerLost s) s)

/-- Causes whose records belong to the event log, with every SLED_FATAL record (R1057). -/
def eventCause (c : Nat) : Bool :=
  decide (c = 0x2007) || decide (c = 0x2008) || (decide (0x3001 ≤ c) && decide (c ≤ 0x300B))

/-- The newest `n` records of a ring. -/
def newest (n : Nat) (l : List LogRecord) : List LogRecord := l.drop (l.length - n)

/-- Records join their logs, each ring losing its oldest (R1057, R1058, the class counts of object 0x9011). -/
def appendLogs (rs : List LogRecord) (s : State) : State :=
  let ev (r : LogRecord) : Bool := eventCause r.cause || decide (r.cls = 5)
  let s := forEach (fun (r : LogRecord) s => count 0x9011 (r.cls + 1) 1 s) rs s
  s.modContain fun c => { c with
    eventLog := newest 256 (c.eventLog ++ rs.filter ev)
    errorLog := newest 4096 (c.errorLog ++ rs.filter fun r => !ev r)
    lastCommitted := match rs.getLast? with | some r => r.sequence | none => c.lastCommitted }

/-- Every buffered record is committed as one batch (R1059). -/
def commitBuffer (s : State) : State :=
  let rs := s.contain.buffer
  if rs = [] then s else count 0x1110 7 1 (appendLogs rs (s.modContain fun c => { c with buffer := [] }))

/-- Event 10: the log is complete, the counters rise, and the sled is OFF (R155, R160, R175, R180, R192, R1062). -/
def execEventLogComplete (t : Nat) (s : State) : Out :=
  .next (dropEvent 10 t (fun d s =>
    let s := commitBuffer s
    let s := if d.both = true ∨ d.cause = .curfew then count 0x2130 5 1 s else s
    let s := if d.both = true ∨ d.cause = .removal then count 0x2130 6 1 s else s
    let s := (s.modGov fun g => { g with drop := none }).modContain fun c => { c with frozen := false }
    settle ((enterLife .off s).modLife fun l => { l with dropOff := true })) s)

end Sys2Proof.Machine
end

