-- ==== Sys2Proof/Machine/Contain.lean ====
section
/-! DEFINITION. Faults and containment (chapter 20): committing records, repeat windows, station cores, and SLED_FATAL. -/

namespace Sys2Proof.Machine

/-! ### Records (R1057 to R1061, R1148) -/

/-- Places have come free: the records dropped are told of once (R1060, R1148). -/
def noteOverrun (s : State) : State :=
  if s.contain.dropped = 0 then s
  else
    let n := s.contain.dropped
    record { cause := 0x9004, cls := 0, unitType := utKiosk, unit := 0, detail2 := min n 0xFFFFFFFF }
      (s.modContain fun c => { c with dropped := 0 })

/-- The buffered records are committed as one batch, or the batch fails and is tried again (R1059, R1060). -/
def execLogCommit (t : Nat) (storeOk : Bool) (s : State) : Out :=
  let s := clockTo t s
  if s.life.state = .absent ∨ dropping s = true ∨ s.contain.buffer = [] then .next s
  else if storeOk then .next (noteOverrun (commitBuffer s))
  else .next (noteRecord 0x1001 utKiosk 0 (count 0x1110 8 1 (s.modContain fun c => { c with bufferSince := s.now })))

/-- A repeat window's time is over (R1061). -/
def execRepeatWindowEnd (t cause unitType unit : Nat) (s : State) : Out :=
  let s := clockTo t s
  match s.contain.windows.find? fun w =>
      decide (w.last.cause = cause) && decide (w.last.unitType = unitType) && decide (w.last.unit = unit) with
  | some w => if w.len ≤ s.now - w.start ∧ s.life.state ≠ .absent then .next (endWindow w s) else .next s
  | none => .next s

/-! ### SLED_FATAL (R177, R178, R1070, R1083, R1085) -/

/-- The life states in which R1085 acts. -/
def fatalState (l : LifeState) : Bool :=
  match l with
  | .training | .joined | .running | .degraded | .departReq | .draining | .left | .sweep => true
  | _ => false

/-- Every started descriptor ends ABORTED with the fatal cause (R1085). -/
def endStarted (cause : Nat) (s : State) : State :=
  let s := match s.prog with | some p => flushRecords p.queue (endProgram p 1 cause s) | none => s
  let s : State := { s with junc := { s.junc with layer := none } }
  forEach (fun (qx : Nat × Queue) s =>
    flushRecords qx.1 (forEach (fun (d : Desc) s => if d.state = .started then endDesc qx.1 d.index 1 cause 0 s else s)
      (queueAt s qx.1).flight s)) s.host.queues s

/-- A SLED_FATAL fault of a unit (R1085); without ballast the ceiling is held down (R178).  A host interface that is itself
the wedged unit ends no descriptor. -/
def sledFatal (cause ut unit : Nat) (s : State) : State :=
  let s := fatalRecord cause ut unit s
  if fatalState s.life.state = false then s
  else
    let s := stopIssue s
    let s := if ut = utHost then s else endStarted cause s
    let s := s.modGov fun g => { g with fatalDue := g.fatalDue || decide (idleTiles s = 0) }
    let s := glCause 1 s
    if objAt s 0x3022 0 = 1 then beginFullReset s
    else
      let s := abandonSweep (if cause = 0x9002 then 7 else 8) (noteRecord 0x3004 utSled 0 (surpriseNotice 0x3004 s))
      enterLeft false (s.modLife fun l => { l with unfit := true, lastCause := 0x3004, departCycle := 0 })

/-- A station core is fenced: its heartbeat stood still, or it raised a machine check (R1068 to R1070). -/
def execStationWatchdogExpire (t : Nat) (core : Fin 4) (machineCheck : Bool) (s : State) : Out :=
  let s := clockTo t s
  let x := tabGet {} core.val s.contain.cores
  if s.kiosk.stationRunning = false ∨ packageRuns s = false ∨ dropping s = true ∨ x.fenced = true then .next s
  else if machineCheck = false ∧ s.now < x.beat + 1000000 * objAt s 0x9015 0 then .next s
  else
    let s := s.modContain fun c => { c with cores := tabPut {} core.val { x with fenced := true } c.cores }
    let s := record { cause := 0x9002, cls := 2, unitType := utCore, unit := core.val } s
    if (List.range 4).all fun n => (tabGet {} n s.contain.cores).fenced then .next (sledFatal 0x9002 utCore core.val s)
    else .next s

/-- Unit type of a unit with a progress monitor (R1054, R1083). -/
def wedgeType (u : WedgeUnit) : Nat :=
  match u with
  | .junction => utJunction | .switch => utSwitch | .collective => utColl | .host => utHost | .bridge => utBridge

/-- A unit's operation has not advanced for the wedge limit (R1083). -/
def execUnitWedged (t : Nat) (unit : WedgeUnit) (waitedNs : Nat) (s : State) : Out :=
  let s := clockTo t s
  if packageRuns s = false ∨ dropping s = true ∨ waitedNs < 1000000 * objAt s 0x9014 0 then .next s
  else .next (sledFatal 0x9003 (wedgeType unit) 0 s)

/-- The die-to-die bridge fails (R35, R1085). -/
def execBridgeFail (t : Nat) (s : State) : Out :=
  let s := clockTo t s
  if packageRuns s = false ∨ dropping s = true then .next s else .next (sledFatal 0x9001 utBridge 0 s)

end Sys2Proof.Machine
end

