-- ==== Sys2Proof/Machine/HostStart.lean ====
section
/-! DEFINITION. Starting and ending HOST_WORK descriptors (chapter 07), the checks and the placement of a LAUNCH (chapters
10, 12, 20), and descriptors of the other classes that name no opcode. -/

namespace Sys2Proof.Machine

/-! ### The program image (R620 to R622) -/

/-- Bytes of an image, `n` from offset `o`. -/
def imageBytes (s : State) (image o n : Nat) : List Byte := hbmRead s (image + o) n

/-- Reserved fields are zero and no field holds a reserved code (R620, R622). -/
def headerFieldsOk (h : List Byte) : Bool :=
  decide (1 ≤ field h 12 2) && decide (field h 12 2 ≤ 144) && decide (field h 14 1 ≤ 1) && decide (field h 15 1 ≤ 2) &&
  (if field h 14 1 = 1 then decide (1 ≤ field h 16 2) && decide (field h 16 2 ≤ 1024) else decide (field h 16 2 = 0)) &&
  decide (field h 18 1 ≤ 2) && decide (field h 19 1 ≤ 1) && decide (field h 20 2 < 4096) &&
  (decide (field h 18 1 = 2) || decide (field h 20 2 = 0)) && decide (field h 22 2 ≤ 96) &&
  decide (field h 28 4 ≤ field h 24 4) && decide (1 ≤ field h 32 2) && decide (field h 32 2 ≤ 144) &&
  decide (field h 34 2 = 0) && decide (field h 36 4 % 16 = 0) && decide (field h 40 20 = 0)

/-- MAGIC, FORMAT, MEMBER and CRC (R620, R622). -/
def headerIdentityOk (h : List Byte) : Bool :=
  decide (field h 0 4 = 0x54494C50) && decide (field h 4 2 = 3) && decide (field h 6 2 = 0x8640) &&
    decide (field h 60 4 = crc32c (h.take 60))

/-- One stream-table entry (R621, R622): `e` its bytes, `len` IMAGE_LENGTH, `area` the end of the program area. -/
def streamEntryOk (e : List Byte) (tiles len area : Nat) : Bool :=
  let bytes := 16 * field e 8 4
  decide (field e 0 2 ≤ field e 2 2) && decide (field e 2 2 < tiles) && decide (field e 4 4 % 16 = 0) &&
    decide (1 ≤ field e 8 4) && decide (field e 12 4 % 16 = 0) && decide (field e 4 4 + bytes ≤ len) &&
    decide (field e 12 4 + bytes ≤ area)

/-- The stream table names every logical index exactly once, and every stream fits (R621, R622). -/
def streamTableOk (s : State) (image : Nat) (h : List Byte) : Bool :=
  let cnt := field h 32 2
  let tab := field h 36 4
  let len := field h 8 4
  let es := (List.range cnt).map fun k => imageBytes s image (tab + 16 * k) 16
  decide (tab + 16 * cnt ≤ len) && es.all (fun e => streamEntryOk e (field h 12 2) len (programEnd s)) &&
    (List.range (field h 12 2)).all fun l =>
      (es.filter fun e => decide (field e 0 2 ≤ l) && decide (l ≤ field e 2 2)).length == 1

/-- The program passes R622. -/
def programOk (s : State) (image : Nat) : Bool :=
  let h := imageBytes s image 0 64
  decide (image % 64 = 0) && rangeValid (hbmValid s) image 64 && headerIdentityOk h && headerFieldsOk h &&
    rangeValid (hbmValid s) image (max 64 (field h 8 4)) && streamTableOk s image h

/-! ### Placement (R512, R535, R538, R539, R1074) -/

/-- HBM pages behind the overflow windows of a program (R512). -/
def windowPageCount (h : List Byte) : Nat := (field h 12 2 * (65536 * field h 22 2) + pageBytes - 1) / pageBytes

/-- Pages that the peers of object 0x5107 grant, in subindex order: how many, and which, the peers decide (free values). -/
def peerPages (s : State) : List Nat → Nat → List PageLoc × State
  | [], _ => ([], s)
  | i :: rest, need =>
    let sled := objAt s 0x5107 i
    if sled = 0xFFFF ∨ need = 0 then peerPages s rest need
    else
      let (n, s) := takeFree s
      let k := min need (Config.freeValue n)
      let pages := (List.range k).map fun j => PageLoc.peer sled (Config.freeValue (s.freeCount + j))
      let (more, s) := peerPages { s with freeCount := s.freeCount + k } rest (need - k)
      (pages ++ more, s)

/-- A program's pages. -/
structure Placement where
  ckpt : Nat
  windows : List Nat
  arena : List PageLoc
  deriving DecidableEq, Repr

/-- Placing the checkpoint page, the windows and the arena; none when they do not fit (R538, R539, R1082). -/
def place (s : State) (h : List Byte) : Option (Placement × State) :=
  let w := windowPageCount h
  let a := field h 24 4
  let own := freeHbm s (1 + w + a)
  if own.length < 1 + w + field h 28 4 then none
  else
    let inHbm := (own.drop (1 + w)).map PageLoc.hbm
    let inCellar := (freeCellar s (a - inHbm.length)).map PageLoc.cellar
    let inHost := (freeHost s (a - inHbm.length - inCellar.length)).map PageLoc.host
    let local_ := inHbm ++ inCellar ++ inHost
    let (peers, s) := peerPages s [1, 2, 3, 4] (a - local_.length)
    if (local_ ++ peers).length < a then none
    else some ({ ckpt := own.headD 0, windows := (own.drop 1).take w, arena := local_ ++ peers }, s)

/-! ### LAUNCH (R51, R461, R518, R528, R532, R620, R625, R659, R707, R1074, R1082) -/

/-- The cause that refuses a LAUNCH before placement, in the order of R1082; 0 for none. -/
def launchCause (s : State) (image : Nat) : Nat :=
  let h := imageBytes s image 0 64
  if programOk s image = false then 0x5008
  else if field h 14 1 = 1 ∧ groupArmed s (field h 16 2) = false then 0x6003
  else if activeTiles s < field h 12 2 then 0x5004
  else if s.contain.memoryLost then 0x5002
  else if objAt s 0x6813 0 = 1 ∧ field h 19 1 % 2 = 1 then 0x6012
  else 0

/-- The program as its LAUNCH starts it. -/
def newProgram (s : State) (q : Nat) (d : Desc) (y : Placement) : Program :=
  let image := field d.data 8 8
  let h := imageBytes s image 0 64
  { queue := q, index := d.index, tag := field d.data 4 4, image := image, argument := field d.data 16 8
    tiles := field h 12 2, resident := decide (field h 14 1 = 1), group := field h 16 2
    trapMode := decide (field h 15 1 = 2) || (decide (field h 15 1 = 0) && decide (objAt s 0x5801 0 = 1))
    stepGate := field h 18 1, gateTick := field h 20 2, window := field h 22 2
    cmp := if field h 18 1 = 0 then none
      else firstFrom 4 56 fun i => let c := tabGet {} i s.rb.pkgCmp; !c.busy && !c.fired
    arena := y.arena, windowPages := y.windows, ckpt := y.ckpt
    defRm := objAt s 0x4000 0, defSubn := objAt s 0x4001 0, defDot := objAt s 0x4002 0, defIovf := objAt s 0x4003 0
    forceStepwise := decide (objAt s 0x4004 0 = 1), oobTrap := decide (objAt s 0x5410 0 = 1)
    arrayScoring := decide (field h 19 1 % 2 = 1) }

/-- A program starts on every tile that it was compiled for, and the first one makes the sled RUNNING (R180, R625). -/
def startProgram (q : Nat) (d : Desc) (y : Placement) (s : State) : State :=
  let p := newProgram s q d y
  let s := forEach (markPage true) y.arena (markHbm true (y.ckpt :: y.windows) s)
  let spilled := (y.arena.filter fun l => match l with | .hbm _ => false | _ => true).length
  let s := count 0x5120 1 spilled (startDesc q d.index s)
  let s : State := { s with
    prog := some p
    junc := { s.junc with stepTaps := 0, program :=
      { resident := p.resident, group := p.group, arrayScoring := p.arrayScoring, scoreMode := objAt s 0x6810 0 } } }
  let s := forEach (startOnTile p) (programTiles s p) s
  if s.life.state = .joined then enterLife .running s else s

/-- A LAUNCH is checked and starts, or completes REFUSED (R383, R1082). -/
def launch (q : Nat) (d : Desc) (s : State) : State :=
  let image := field d.data 8 8
  if 65536 < field d.data 24 4 then finish q d.index 3 0 0 s
  else
    let c := launchCause s image
    if c ≠ 0 then finish q d.index 2 c 0 s
    else match place s (imageBytes s image 0 64) with
      | none => finish q d.index 2 0x5005 0 (count 0x5120 4 1 s)
      | some (y, s) => startProgram q d y s

/-! ### The other opcodes (the table of HOST_WORK opcodes, R382, R384, R397) -/

/-- The body of a COPY is in range. -/
def copyOk (b : List Byte) : Bool :=
  decide (1 ≤ field b 24 8) && decide (field b 24 8 ≤ 2 ^ 40) && decide (field b 32 1 ≤ 3) && decide (field b 33 1 ≤ 3)

/-- The body of a FILL is in range. -/
def fillOk (b : List Byte) : Bool := decide (field b 16 8 % 8 = 0) && decide (field b 32 1 ≤ 2)

/-- A SIGNAL writes its value (R384, R397). -/
def signal (q : Nat) (d : Desc) (s : State) : State :=
  let a := field d.data 8 8
  let space := field d.data 24 1
  if a % 8 ≠ 0 ∨ 1 < space then finish q d.index 3 0 0 s
  else if reachableBytes s space a 8 < 8 then finish q d.index 5 0xA007 0 s
  else finish q d.index 0 0 0 (spaceWrite space a (natLe (field d.data 16 8) 8) s)

/-- A WAIT's location can be read and holds the value or more. -/
def waitMet (s : State) (d : Desc) : Bool :=
  let a := field d.data 8 8
  !poisoned s.tiers.hbmPoison a 8 && decide (field d.data 16 8 ≤ hbmWord s a)

/-- A WAIT looks at its location (R382). -/
def pollWait (q : Nat) (d : Desc) (s : State) : State :=
  if waitMet s d then finish q d.index 0 0 0 s else modDesc q d.index (fun d => { d with polled := s.now }) s

/-- A WAIT starts. -/
def wait (q : Nat) (d : Desc) (s : State) : State :=
  let a := field d.data 8 8
  if a % 8 ≠ 0 then finish q d.index 3 0 0 s
  else if rangeValid (hbmValid s) a 8 = false then finish q d.index 5 0xA007 0 s
  else pollWait q d (startDesc q d.index s)

/-- A HOST_WORK descriptor that may start does so. -/
def startHostWork (q : Nat) (d : Desc) (s : State) : State :=
  match field d.data 0 1 with
  | 1 => finish q d.index 0 0 0 s
  | 2 => if copyOk d.data then startCopy q d (startDesc q d.index s) else finish q d.index 3 0 0 s
  | 3 => if fillOk d.data then startFill q d (startDesc q d.index s) else finish q d.index 3 0 0 s
  | 4 => launch q d s
  | 5 => signal q d s
  | 6 => wait q d s
  | _ => finish q d.index 3 0 0 s

/-- FENCE as the opcode has it: a SIGNAL starts as if it were set. -/
def hostFence (d : Desc) : Bool := fenceSet d || decide (field d.data 0 1 = 5)

/-- A LAUNCH that has to wait although nothing before it holds it back: a program is active (one at a time, log entry 20), or
issue is stopped (R176). -/
def launchWaits (s : State) (d : Desc) : Bool :=
  decide (field d.data 0 1 = 4) && (s.prog.isSome || issueStopped s)

/-- A WAIT that has started and is not satisfied blocks its queue (R382). -/
def waitBlocks (x : Queue) : Bool :=
  x.flight.any fun d => decide (d.state = .started) && decide (field d.data 0 1 = 6) && d.stray.isNone

/-- The next HOST_WORK descriptor of a queue (R377 to R382, R403). -/
def startNextHostWork (q : Nat) (s : State) : State :=
  if waitBlocks (queueAt s q) then s else
  match (queueAt s q).next with
  | none => s
  | some d =>
    if field d.data 0 1 = 4 ∧ (s.life.state = .draining ∨ s.life.state = .left) then finish q d.index 4 0x3002 0 s
    else if launchWaits s d then takeGate q hostFence s
    else match admitNext q hostFence s with
      | (none, s) => s
      | (some d, s) => startHostWork q d s

/-- A descriptor of another class whose opcode is reserved ends BAD_DESCRIPTOR (R413, R721, R936); a group queue's was judged
as it was fetched (R848). -/
def startReserved (q : Nat) (s : State) : State :=
  let x := queueAt s q
  let opOk (d : Desc) : Bool := decide (1 ≤ field d.data 0 1) && decide (field d.data 0 1 ≤ 3)
  match x.next with
  | none => s
  | some d =>
    if opOk d = true ∨ x.group ≠ 0 then s
    else match admitNext q fenceSet s with
      | (none, s) => s
      | (some d, s) => finish q d.index 3 0 0 s

/-- A fetched descriptor starts (R377, R410). -/
def execDescriptorStart (t : Nat) (queue : Fin 4096) (s : State) : Out :=
  let s := clockTo t s
  let q := queue.val
  if packageRuns s = false ∨ dropping s = true ∨ 4064 ≤ q then .next s
  else if (queueAt s q).cls = 0 ∧ (queueAt s q).group = 0 then .next (startNextHostWork q s)
  else .next (startReserved q s)

/-- A started descriptor of a queue. -/
def startedDesc (s : State) (q index : Nat) : Option Desc :=
  ((queueAt s q).desc index).bind fun d => if d.state = .started then some d else none

/-- The descriptor is a HOST_WORK one: its queue is, or was when R405 disabled it. -/
def hostWork (x : Queue) (d : Desc) : Bool := d.stray.isSome || (decide (x.cls = 0) && decide (x.group = 0))

/-- A WAIT re-reads its location (R382). -/
def execWaitPoll (t : Nat) (queue : Fin 4096) (index : Nat) (s : State) : Out :=
  let s := clockTo t s
  match startedDesc s queue.val index with
  | none => .next s
  | some d =>
    if hostWork (queueAt s queue.val) d = false ∨ field d.data 0 1 ≠ 6 ∨ packageRuns s = false ∨ dropping s = true then .next s
    else .next (pollWait queue.val d s)

/-- The program has ended on every tile. -/
def programEnded (s : State) (p : Program) : Bool :=
  p.replaying.isNone && (programTiles s p).all fun n => let x := tileAt s n; !x.works && !x.atStep && x.quiet

/-- A descriptor's operation is over: its end is fixed and its record written, or held (R384, R396, R517, R542, R623). -/
def execDescriptorComplete (t : Nat) (queue : Fin 4096) (index : Nat) (s : State) : Out :=
  let s := clockTo t s
  let q := queue.val
  match startedDesc s q index with
  | none => .next s
  | some d =>
    if hostWork (queueAt s q) d = false ∨ packageRuns s = false ∨ dropping s = true then .next s
    else match field d.data 0 1, s.prog with
      | 4, some p =>
        if p.queue = q ∧ p.index = index ∧ programEnded s p = true then .next (flushRecords q (endProgram p 0 0 s)) else .next s
      | 4, none => .next s
      | 2, _ =>
        if copyWaits s q index then .next s
        else
          let s := endCopy q d s
          let d := (startedDesc s q index).getD d
          .next (finish q index d.status d.cause d.result s)
      | 3, _ => .next (finish q index d.status d.cause d.result s)
      | _, _ => .next s

end Sys2Proof.Machine
end

