-- ==== Sys2Proof/Machine/LinkCmds.lean ====
section
/-! DEFINITION. The ports and the switch at work (chapter 15): training, sequence and replay, credits, arbitration, routing,
notices and the fault injectors. -/

namespace Sys2Proof.Machine

/-- The life states in which the switch forwards and ports train (R794, R815). -/
def switchState (s : State) : Bool :=
  match s.life.state with
  | .training | .joined | .running | .degraded | .departReq | .draining => true
  | _ => false

/-- The link layer runs: in those states, in LEFT until package reset (what was sent on leaving goes out), and in a curfew
or removal sequence until the switch halts (R160). -/
def linksRun (s : State) : Bool :=
  ((switchState s || decide (s.life.state = .left)) && packageRuns s && !dropping s) ||
    (match s.gov.drop with | some d => decide (d.event < 4) && decide (s.life.state = .curfew) | none => false)

/-- A counter of a port. -/
def countPort (p sub n : Nat) (s : State) : State := count (0x7030 + p) sub n s

/-! ### Sending (R777, R781 to R783, R787, R790, R791, R816 to R818) -/

/-- The VCs that CREDIT_VC goes through (R791). -/
def creditVcs : List Nat := [0, 2, 3, 4, 5, 6, 7]

/-- Initial credits by VC (the buffer table). -/
def initialCredits : List Nat := [32, 0, 48, 48, 48, 48, 64, 64]

/-- A slab leaves a port with its link-layer fields; ACK is 0xFFF before any slab in order (R783, R791). -/
def transmit (p seq : Nat) (x : Slab) (s : State) : State :=
  let a := portAt s p
  let vc := creditVcs.getD (a.creditTurn % 7) 0
  emit (.slab p (slabBytes x seq ((a.expected + 4095) % 4096) vc (tabGet 0 vc a.freed)))
    (modPort p (fun a => { a with creditTurn := (a.creditTurn + 1) % 7 }) s)

/-- The oldest waiting slab of a VC. -/
def Port.head (a : Port) (vc : Nat) : Option Slab := a.outq.find? fun x => x.vc = vc

/-- A VC's oldest slab holds its credits (R790, R810). -/
def Port.ready (a : Port) (vc : Nat) : Bool :=
  match a.head vc with
  | some x => decide (x.needs ≤ tabGet 0 vc a.credits)
  | none => false

/-- A VC's oldest slab waits for credit. -/
def Port.starved (a : Port) (vc : Nat) : Bool := (a.head vc).isSome && !a.ready vc

/-- The first VC after `v` in the circle of `n` VCs from `lo` that is ready. -/
def Port.turn (a : Port) (lo n v : Nat) : Option Nat :=
  (firstFrom n 1 fun i => a.ready (lo + (v - lo + i) % n)).map fun i => lo + (v - lo + i) % n

/-- Weighted mode: deficit round robin (R817). -/
def pickWeighted (s : State) (a : Port) : Option (Nat × Port) :=
  let v := max 2 a.lastVc
  let d := tabGet 0 v a.deficit
  if a.ready v = true ∧ 0 < d then some (v, { a with deficit := tabPut 0 v (d - 1) [] })
  else match a.turn 2 6 v with
    | some w => some (w, { a with lastVc := w, deficit := tabPut 0 w (objAt s 0x7004 (w - 1) - 1) [] })
    | none => none

/-- Collective-priority mode (R818). -/
def pickPriority (a : Port) : Option (Nat × Port) :=
  let mem := a.ready 6 || a.ready 7
  let m := if a.ready (13 - a.lastMem) then 13 - a.lastMem else a.lastMem
  let c := a.turn 2 4 (if 2 ≤ a.lastVc ∧ a.lastVc ≤ 5 then a.lastVc else 5)
  match c, mem && decide (15 ≤ a.collRun) with
  | some v, false => some (v, { a with lastVc := v, collRun := if mem then a.collRun + 1 else 0 })
  | _, _ => if mem then some (m, { a with lastMem := m, collRun := 0 }) else none

/-- The choice among VC2 to VC7 (R816). -/
def pickVc (s : State) (a : Port) : Option (Nat × Port) :=
  if objAt s 0x7003 0 = 0 then pickWeighted s a else pickPriority a

/-- A new sequenced slab of a VC leaves: it takes a credit and is held until acknowledged (R781, R782, R790, R792). -/
def sendNew (p vc : Nat) (s : State) : State :=
  let a := portAt s p
  match a.head vc with
  | none => s
  | some x =>
    let s := transmit p a.nextSeq x s
    let s := modPort p (fun a => { a with
      outq := match findIdx (fun y => y.vc == vc) a.outq with | some i => a.outq.eraseIdx i | none => a.outq
      nextSeq := (a.nextSeq + 1) % 4096
      unacked := a.unacked ++ [({ seq := a.nextSeq, slab := x, sentAt := s.now } : Held)]
      credits := tabPut 0 vc (tabGet 0 vc a.credits - 1) a.credits }) s
    countPort p 1 1 (freePlace x s)

/-- The next slab of the replay in progress is sent again (R787). -/
def sendAgain (p seq : Nat) (s : State) : State :=
  let s := modPort p (fun a => { a with resend := a.resend.tail }) s
  match (portAt s p).unacked.find? fun h => h.seq = seq with
  | none => s
  | some h =>
    modPort p (fun a => { a with unacked := a.unacked.map fun y => if y.seq = seq then { y with sentAt := s.now } else y })
      (transmit p seq h.slab s)

/-- A LINK slab. -/
def linkSlab (payload : List Byte) : Slab := { kind := kLink, vc := 1, payload := payload }

/-- The oldest LINK slab leaves. -/
def sendLink (p : Nat) (s : State) : State :=
  match (portAt s p).linkq with
  | [] => s
  | b :: rest => transmit p 0 (linkSlab b) (modPort p (fun a => { a with linkq := rest }) s)

/-- An IDLE slab: acknowledgement and credit only. -/
def sendIdle (p : Nat) (s : State) : State := transmit p 0 { kind := kIdle, vc := 0, last := false } s

/-- Waiting for credit is counted when it begins (0x703x:0A). -/
def noteStall (p : Nat) (s : State) : State :=
  let a := portAt s p
  let st := creditVcs.any a.starved
  let s := if st = true ∧ a.stalled = false then countPort p 0x0A 1 s else s
  modPort p (fun a => { a with stalled := st }) s

/-- One slab boundary of an UP port (R782, R787, R816). -/
def sendUp (p : Nat) (s : State) : State :=
  let s := noteStall p s
  let a := portAt s p
  match a.resend with
  | q :: _ => sendAgain p q s
  | [] =>
    let open_ := decide (a.unacked.length < 256)
    if open_ = true ∧ a.ready 0 = true then sendNew p 0 s
    else if a.linkq ≠ [] then sendLink p s
    else match if open_ then pickVc s a else none with
      | some (v, a') => sendNew p v (modPort p (fun _ => a') s)
      | none => sendIdle p s

/-- A slab boundary of an output port. -/
def execSlabSend (t : Nat) (port : Fin 16) (s : State) : Out :=
  let s := clockTo t s
  let p := port.val
  let a := portAt s p
  if linksRun s = false then .next s
  else if a.state = .up then .next (sendUp p s)
  else if a.exchanging then .next (if a.linkq = [] then sendIdle p s else sendLink p s)
  else .next s

/-! ### Port states (R788, R794 to R803, R824, R832) -/

/-- Slabs that waited at a port that no longer carries them are routed again; notices are not. -/
def reroute (p : Nat) (s : State) : State :=
  let xs := (portAt s p).outq.filter fun x => x.kind ≠ kNotice
  let s := modPort p (fun a => { a with outq := [], linkq := [], unacked := [], resend := [], inj := { a.inj with heldSlab := none } }) s
  forEach (fun (x : Slab) s => submitSlab { x with hops := x.hops - 1 } s) xs s

/-- This sled's LINK_UP or LINK_DOWN notice of a port (R824). -/
def portChange (p cause : Nat) (s : State) : State := portNotice cause s.rb.cycle p s

/-- A port is declared FAILED (R800). -/
def failPort (p : Nat) (s : State) : State :=
  let s := reroute p s
  let s := modPort p (fun a => { a with state := .failed, since := s.now, exchanging := false, width := 0 }) s
  let s := record { cause := 0x7001, cls := 2, unitType := utPort, unit := p } s
  checkReach (portChange p 0x7001 s)

/-- The partner of the port has sent a departure notice. -/
def partnerDeparted (s : State) (p : Nat) : Bool :=
  match (portAt s p).partner with
  | some (a, _) => tabGet false a s.links.departed
  | none => false

/-- A port whose partner has left (R802, R832). -/
def leavePort (p : Nat) (s : State) : State :=
  let gone := (portAt s p).partner
  let s := modPort p (fun a => { a with state := .partnerLeft, exchanging := false, width := 0 }) (reroute p s)
  match gone with
  | some (a, _) => checkReach (lenderLost a s)
  | none => s

/-- COLL slabs that wait at a port whose retrain has begun are routed again, so that they may detour (R811). -/
def detourWaiting (p : Nat) (s : State) : State :=
  if objAt s 0x7015 0 ≠ 1 then s
  else
    let xs := (portAt s p).outq.filter fun x => x.kind = kColl
    let s := modPort p (fun a => { a with outq := a.outq.filter fun x => x.kind ≠ kColl }) s
    forEach (fun (x : Slab) s => submitSlab { x with hops := x.hops - 1 } s) xs s

/-- An UP port begins a retrain, or is FAILED when it begins too many (R796, R800). -/
def beginRetrain (p : Nat) (ask : Bool) (s : State) : State :=
  let a := portAt s p
  if a.state ≠ .up then s
  else if partnerDeparted s p then leavePort p s
  else
    let recent := a.retrains.filter fun x => s.now - x ≤ 1000000000
    let s := countPort p 9 1 s
    let s := if ask then transmit p 0 (linkSlab (natLe 3 1)) s else s
    let s := modPort p (fun a => { a with retrains := recent ++ [s.now] }) s
    if objAt s 0x7012 0 ≤ recent.length then failPort p s
    else detourWaiting p (modPort p (fun a => { a with
      state := .retraining, since := s.now, narrow := false, exchanging := false, replays := 0, firstReplay := none
      resend := [], linkq := [], lastNak := none }) s)

/-- A replay starts from the slab named, or the oldest; an eighth retrains the port (R787, R788). -/
def startReplay (p : Nat) (from_ : Option Nat) (s : State) : State :=
  let a := portAt s p
  if a.state ≠ .up ∨ a.unacked = [] then s
  else if 7 ≤ a.replays then beginRetrain p true s
  else
    let seqs := a.unacked.map (·.seq)
    let i := match from_ with
      | some q => (findIdx (fun x => x == q) seqs).getD 0
      | none => 0
    countPort p 8 1 (modPort p (fun a => { a with
      resend := seqs.drop i, replays := a.replays + 1
      firstReplay := match a.firstReplay with | some x => some x | none => some s.now }) s)

/-- The oldest slab has been unacknowledged for 2 µs since its latest transmission (R787). -/
def execAckTimeout (t : Nat) (port : Fin 16) (s : State) : Out :=
  let s := clockTo t s
  let a := portAt s port.val
  match a.unacked with
  | h :: _ =>
    if linksRun s = true ∧ a.state = .up ∧ a.resend = [] ∧ h.sentAt + 2000 ≤ s.now then .next (startReplay port.val none s)
    else .next s
  | [] => .next s

/-- 20 µs since the first replay without acknowledgement (R788). -/
def execReplayBudgetExpire (t : Nat) (port : Fin 16) (s : State) : Out :=
  let s := clockTo t s
  let a := portAt s port.val
  match a.firstReplay with
  | some x => if linksRun s = true ∧ a.state = .up ∧ x + 20000 ≤ s.now then .next (beginRetrain port.val true s) else .next s
  | none => .next s

/-- A lane has lost FEC lock for 1 µs (R796). -/
def execFecLockLoss (t : Nat) (port : Fin 16) (s : State) : Out :=
  let s := clockTo t s
  if linksRun s then .next (beginRetrain port.val true s) else .next s

/-- The width-8 attempt of a retrain ends; width 4 is tried where it may be (R774, R797). -/
def execWidth8AttemptExpire (t : Nat) (port : Fin 16) (s : State) : Out :=
  let s := clockTo t s
  let a := portAt s port.val
  if linksRun s = true ∧ a.state = .retraining ∧ a.exchanging = false ∧ a.since + 1000000 ≤ s.now ∧ objAt s 0x7014 0 = 1 then
    .next (modPort port.val (fun a => { a with narrow := true }) s)
  else .next s

/-- PORT_INFO of this sled for a port (R780). -/
def portInfo (s : State) (p : Nat) : List Byte :=
  let a := portAt s p
  natLe 1 1 ++ natLe (sledAddress s) 2 ++ natLe p 1 ++ natLe (expressWord s p) 2 ++ natLe a.width 1 ++ natLe 0 1 ++
    initialCredits.map (BitVec.ofNat 8) ++ natLe a.expected 2 ++ natLe Config.eui64 8

/-- Lanes are trained: the exchange of PORT_INFO begins (R795, R798, R799). -/
def beginExchange (p width : Nat) (s : State) : State :=
  let s := modPort p (fun a => { a with exchanging := true, width := width, infoAt := s.now }) s
  modPort p (fun a => { a with linkq := [portInfo s p] }) s

/-- A retrain succeeds (R797, R798). -/
def execRetrainComplete (t : Nat) (port : Fin 16) (width : Nat) (s : State) : Out :=
  let s := clockTo t s
  let a := portAt s port.val
  if linksRun s = true ∧ a.state = .retraining ∧ a.exchanging = false ∧ width = (if a.narrow then 4 else 8) ∧
      s.now ≤ a.since + 2000000 then .next (beginExchange port.val width s)
  else .next s

/-- A retrain has not succeeded within 2 ms (R800). -/
def execRetrainTimeout (t : Nat) (port : Fin 16) (s : State) : Out :=
  let s := clockTo t s
  let a := portAt s port.val
  if linksRun s = true ∧ a.state = .retraining ∧ a.since + 2000000 ≤ s.now then .next (failPort port.val s) else .next s

/-- PORT_INFO is repeated every 10 µs until the partner's comes (R799). -/
def execPortInfoRepeat (t : Nat) (port : Fin 16) (s : State) : Out :=
  let s := clockTo t s
  let a := portAt s port.val
  if linksRun s = true ∧ a.exchanging = true ∧ a.infoAt + 10000 ≤ s.now then
    .next (modPort port.val (fun a => { a with infoAt := s.now, linkq := a.linkq ++ [portInfo s port.val] }) s)
  else .next s

/-- Initial training begins: sequence numbers, buffers and credits start anew (R781, R794). -/
def startTraining (p : Nat) (s : State) : State :=
  let s := reroute p s
  modPort p (fun a => { cable := a.cable, state := .training, since := s.now, inj := a.inj, retrains := a.retrains }) s

/-- A port may train (R193, R794, the port state table). -/
def mayTrain (s : State) (p : Nat) : Bool := linksRun s && switchState s && (portAt s p).cable && !portDisabled s p

/-- A FAILED port tries again (R801). -/
def execFailedPortRetry (t : Nat) (port : Fin 16) (s : State) : Out :=
  let s := clockTo t s
  let p := port.val
  let a := portAt s p
  if linksRun s = false ∨ switchState s = false ∨ a.state ≠ .failed ∨ s.now < a.since + 1000000 * objAt s 0x7013 0 then .next s
  else if a.cable = false then .next (modPort p (fun a => { a with state := .noCable }) s)
  else if portDisabled s p then .next (modPort p (fun a => { a with state := .disabled }) s)
  else .next (startTraining p s)

/-- The port, or its partner, begins initial training (R794, R802). -/
def execPortTrainStart (t : Nat) (port : Fin 16) (s : State) : Out :=
  let s := clockTo t s
  let p := port.val
  if mayTrain s p = true ∧ ((portAt s p).state ≠ .training ∨ (portAt s p).exchanging = true) then
    .next (checkReach (startTraining p s))
  else .next s

/-- Initial training ends at width 8, or at width 4 where it may (R774, R781, R795). -/
def execPortLanesTrained (t : Nat) (port : Fin 16) (width : Nat) (s : State) : Out :=
  let s := clockTo t s
  let a := portAt s port.val
  if linksRun s = true ∧ a.state = .training ∧ a.exchanging = false ∧
      (width = 8 ∨ (width = 4 ∧ objAt s 0x7014 0 = 1)) then .next (beginExchange port.val width s)
  else .next s

/-- A port has not trained within 800 ms and is marked failed (R193). -/
def execPortTrainTimeout (t : Nat) (port : Fin 16) (s : State) : Out :=
  let s := clockTo t s
  let a := portAt s port.val
  if linksRun s = true ∧ a.state = .training ∧ a.since + 800000000 ≤ s.now then .next (failPort port.val s) else .next s

/-- The lanes of a port whose partner has departed fall silent (R802). -/
def execLanesSilent (t : Nat) (port : Fin 16) (s : State) : Out :=
  let s := clockTo t s
  let a := portAt s port.val
  if linksRun s = true ∧ (a.state = .up ∨ a.state = .retraining) ∧ partnerDeparted s port.val = true then
    .next (leavePort port.val s)
  else .next s

/-- A cage starts or stops reporting a cable (R193, R794, the port state table). -/
def execCablePresenceChange (t : Nat) (port : Fin 16) (present : Bool) (s : State) : Out :=
  let s := clockTo t s
  let p := port.val
  let s := modPort p (fun a => { a with cable := present }) s
  let a := portAt s p
  if present then
    if a.state = .noCable ∧ mayTrain s p = true then .next (startTraining p s) else .next s
  else if a.state = .up ∨ a.state = .retraining ∨ a.state = .disabled then .next s
  else .next (modPort p (fun a => { a with state := .noCable, exchanging := false }) s)

/-- On entering TRAINING, every port with a cable trains (R193). -/
def trainPorts (s : State) : State :=
  forEach (fun p s =>
    if portDisabled s p then modPort p (fun a => { a with state := .disabled }) s
    else if (portAt s p).cable then startTraining p s
    else modPort p (fun a => { a with state := .noCable }) s) (List.range 16) s

/-! ### LINK slabs (R780, R786, R787, R795, R798, R803) -/

/-- Acknowledged slabs leave the replay buffer (R783). -/
def applyAck (p ack : Nat) (s : State) : State :=
  let a := portAt s p
  match findIdx (fun (h : Held) => h.seq == ack) a.unacked with
  | none => s
  | some i =>
    let rest := a.unacked.drop (i + 1)
    modPort p (fun a => { a with
      unacked := rest, replays := 0, firstReplay := none
      resend := a.resend.filter fun q => rest.any fun h => h.seq = q }) s

/-- Credits returned by a cumulative count (R791). -/
def applyCredit (p vc n : Nat) (s : State) : State :=
  if vc = 1 then s
  else modPort p (fun a => { a with
    credits := tabPut 0 vc (tabGet 0 vc a.credits + (n + 256 - tabGet 0 vc a.creditSeen) % 256) a.credits
    creditSeen := tabPut 0 vc n a.creditSeen }) s

/-- The port is UP (R795, R798, R824); after a retrain the sender replays from its partner's expected SEQ. -/
def portUp (p : Nat) (info : List Byte) (s : State) : State :=
  let initial := decide ((portAt s p).state = .training)
  let s := modPort p (fun a => { a with state := .up, exchanging := false }) s
  let s := s.modLinks fun l => { l with departed := tabPut false (field info 1 2) false l.departed }
  let s :=
    if initial then modPort p (fun a => { a with
      credits := (List.range 8).foldl (fun t v => tabPut 0 v (field info (8 + v) 1) t) []
      creditSeen := [] }) s
    else
      let s := applyAck p ((field info 16 2 + 4095) % 4096) s
      modPort p (fun a => { a with resend := a.unacked.map (·.seq) }) s
  portChange p 0x7002 (noteRecord 0x7002 utPort p s)

/-- The partner's PORT_INFO arrives (R795, R803, R804). -/
def takePortInfo (p : Nat) (info : List Byte) (s : State) : State :=
  if (portAt s p).exchanging = false then s
  else
    let addr := field info 1 2
    let port := field info 3 1
    let s := modPort p (fun a => { a with partner := some (addr, port) }) s
    if sledAddress s = 0xFFFF ∨ (addr = expectedPartner s p ∧ partnerPortOk s p port (field info 4 2) = true) then portUp p info s
    else noteRecord 0x7003 utPort p (modPort p (fun a => { a with state := .miswired, exchanging := false }) (reroute p s))

/-- A LINK slab arrives (R780). -/
def takeLink (p : Nat) (x : Slab) (s : State) : State :=
  match field x.payload 0 1 with
  | 1 => takePortInfo p x.payload s
  | 2 => startReplay p (some (field x.payload 1 2 % 4096)) s
  | 3 => beginRetrain p false s
  | _ => count 0x7040 3 1 s

/-- NAK for the expected SEQ, at most one per 0.5 µs for one value (R786). -/
def sendNak (p : Nat) (s : State) : State :=
  let a := portAt s p
  let hush := match a.lastNak with
    | some (t, v) => decide (v = a.expected) && decide (s.now < t + 500)
    | none => false
  if hush then s
  else countPort p 7 1 (modPort p (fun a => { a with
    lastNak := some (s.now, a.expected), linkq := a.linkq ++ [natLe 2 1 ++ natLe a.expected 2] }) s)

/-! ### The switch (R779, R804, R806 to R813, R815, R820 to R823) -/

/-- Causes that make a peer lost to its groups (R887). -/
def lossCause (c : Nat) : Bool := departureCause c && decide (c ≠ 0x3002)

/-- A new notice's effect on the switch: its SERIAL, the failure map, who has left, and its flooding (R808, R820 to R822). -/
def noteNotice (x : Slab) (s : State) : State :=
  let cause := field x.payload 0 2
  let s := s.modLinks fun l => { l with
    serials := tabPut 0 x.src (field x.payload 24 4 + 1) l.serials
    failMap := tabPut 0xFFFF x.src (field x.payload 30 2) l.failMap
    departed := if departureCause cause then tabPut false x.src true l.departed
      else if cause = 0x3001 then tabPut false x.src false l.departed else l.departed }
  count 0x7040 4 1 (floodNotice { x with hops := x.hops + 1, inPort := none, needs := 1 } x.inPort s)

/-- Ports that retrain toward a sled that has left end their retrains (R802). -/
def silencePartner (addr : Nat) (s : State) : State :=
  forEach (fun p s => match (portAt s p).partner with
    | some (a, _) => if a = addr ∧ (portAt s p).state = .retraining then leavePort p s else s
    | none => s) (List.range 16) s

/-- A notice arrives (R821 to R823, R832, R887). -/
def takeNotice (x : Slab) (s : State) : State :=
  let last := tabGet 0 x.src s.links.serials
  if x.src = sledAddress s ∨ (last ≠ 0 ∧ serialNewer 32 (field x.payload 24 4) (last - 1) = false) then s
  else
    let cause := field x.payload 0 2
    let s := noteNotice x s
    let s := if departureCause cause then silencePartner x.src s else s
    if lossCause cause then checkReach (lenderLost x.src (lostToGroups x.src s))
    else if cause = 0x3002 then s
    else checkReach s

/-- A slab that this sled consumes (R793, R820, R861); the payloads of MEM_REQ and MEM_RSP slabs are not published, and
their commands are PEER_ACCESS and PEER_RESPONSE. -/
def consume (x : Slab) (s : State) : State :=
  let s := freePlace x s
  if x.kind = kNotice then takeNotice x s
  else if x.kind = kAlley then receiveAlley x s
  else if x.kind = kControl then receiveControl x s
  else if x.kind = kColl then receiveColl x s
  else s

/-- An accepted slab reaches the switch (R779): consumed here, or waiting to be routed. -/
def toSwitch (x : Slab) (s : State) : State :=
  if kindAllows x.kind x.vc = false then count 0x7040 3 1 (freePlace x s)
  else if x.kind = kNotice ∨ x.dest = sledAddress s then consume x s
  else submitSlab x s

/-- A slab that has no route: counted, its place freed, and the collective engine told (R812, R813, R886). -/
def dropSlab (x : Slab) (s : State) : State :=
  let s := checkReach (freePlace x s)
  if x.kind = kColl ∨ x.kind = kAlley then noRouteFor (field x.payload 0 2 % 2048) (field x.payload 4 2) s else s

/-- A transit slab of a collective feeds this member's watchdog (R881). -/
def forwardTouch (x : Slab) (s : State) : State :=
  let g := field x.payload 0 2 % 2048
  if x.kind = kColl ∧ (groupAt s g).runs = true ∧ field x.payload 2 2 = (groupAt s g).epoch then
    modCollective g (field x.payload 4 2) (fun c => if c.state = .armed then c else { c with watch := s.now, moved := true }) s
  else s

/-- Routing a slab to an output port, or discarding it (R806 to R812); transit slabs go on in the states of R815 only. -/
def forwardSlab (x : Slab) (s : State) : State :=
  if sledAddress s = 0xFFFF then freePlace x s
  else if switchState s = false ∧ x.inPort.isSome = true then freePlace x s
  else if x.dest = sledAddress s then consume x s
  else match route s x with
    | .port p needs detour =>
      let s := if detour = true ∧ x.detour = false then count 0x7040 6 1 s else s
      forwardTouch x (enqueue p { x with hops := x.hops + 1, needs := needs, detour := detour } s)
    | .noRoute => dropSlab x (count 0x7040 1 1 s)
    | .hopLimit => freePlace x (count 0x7040 2 1 s)

/-- The oldest slab that waits to be routed. -/
def execSlabForward (t : Nat) (s : State) : Out :=
  let s := clockTo t s
  match s.links.transit with
  | [] => .next s
  | x :: rest =>
    if linksRun s then .next (forwardSlab x (s.modLinks fun l => { l with transit := rest })) else .next s

/-! ### The injectors (R825 to R830) -/

/-- An object of a port's injector. -/
def injObj (s : State) (p sub : Nat) : Nat := objAt s (0x7100 + p) sub

/-- An armed injector meets a slab: whether it injects, and the injector after it (R825 to R828). -/
def injectorMeets (s : State) (p vc free : Nat) : Bool × Injector :=
  let i := (portAt s p).inj
  let act := injObj s p 1
  if injObj s p 8 ≠ 1 ∨ bit (injObj s p 2) vc = false ∨ (act = 4 ∧ vc ≤ 1) then (false, i)
  else
    let n := i.matched + 1
    let begun := i.begun || (decide (injObj s p 5 = 2) && decide (injObj s p 6 < n))
    let rate := injObj s p 4
    let hit := if injObj s p 3 = 0 then decide (Config.freeValue free % 2 ^ 32 < rate) else decide (0 < rate) && decide (n % rate = 0)
    let room := decide (injObj s p 7 = 0) || decide (i.injected < injObj s p 7)
    (begun && room && hit && decide (act ≠ 0), { i with begun := begun, matched := n })

/-- Flipping a payload bit of a slab's bytes. -/
def flipPayload (n : Nat) (bs : List Byte) : List Byte :=
  let i := n % 896
  modIdx (12 + i / 8) (fun b => b ^^^ BitVec.ofNat 8 (2 ^ (i % 8))) bs

/-- An injection is made. -/
def noteInjection (p : Nat) (s : State) : State :=
  count 0x7110 (p + 1) 1 (modPort p (fun a => { a with inj := { a.inj with injected := a.inj.injected + 1 } }) s)

/-- The slab that REORDER holds passes to the switch. -/
def releaseHeld (p : Nat) (s : State) : State :=
  match (portAt s p).inj.heldSlab with
  | none => s
  | some x => toSwitch x (modPort p (fun a => { a with inj := { a.inj with heldSlab := none } }) s)

/-- An accepted slab passes to the switch, or REORDER holds it (R825, R826). -/
def passAccepted (p : Nat) (hold : Bool) (x : Slab) (s : State) : State :=
  match (portAt s p).inj.heldSlab with
  | some h => if h.vc = x.vc then releaseHeld p (toSwitch x s) else toSwitch x s
  | none =>
    if hold then noteInjection p (modPort p (fun a => { a with inj := { a.inj with heldSlab := some x, heldAt := s.now } }) s)
    else toSwitch x s

/-- A trigger on a cycle is met at a cycle boundary, tick 0 (R828). -/
def execInjectorTrigger (t : Nat) (port : Fin 16) (s : State) : Out :=
  let s := clockTo t s
  let p := port.val
  if injObj s p 8 = 1 ∧ injObj s p 5 = 1 ∧ injObj s p 6 ≤ s.rb.cycle ∧ s.rb.phase = 0 ∧ packageRuns s = true then
    .next (modPort p (fun a => { a with inj := { a.inj with begun := true } }) s)
  else .next s

/-- A slab held for 10 µs passes alone (R826). -/
def execReorderHoldExpire (t : Nat) (port : Fin 16) (s : State) : Out :=
  let s := clockTo t s
  let i := (portAt s port.val).inj
  if i.heldSlab.isSome = true ∧ i.heldAt + 10000 ≤ s.now ∧ linksRun s = true then .next (releaseHeld port.val s) else .next s

/-! ### Receiving (R783 to R786, R791) -/

/-- A sequenced slab whose bytes are good (R784 to R786). -/
def takeSequenced (p : Nat) (bs : List Byte) (pass hold : Bool) (s : State) : State :=
  let a := portAt s p
  let seq := field bs 1 2 % 4096
  if a.state ≠ .up then s
  else if seq = a.expected then
    let s := countPort p 2 1 (modPort p (fun a => { a with expected := (a.expected + 1) % 4096 }) s)
    let s' := if pass then noteInjection p s else s
    passAccepted p hold (slabOf (if pass then flipPayload a.inj.injected bs else bs) p) s'
  else
    let back := (a.expected + 4096 - seq) % 4096
    if 1 ≤ back ∧ back ≤ 256 then countPort p 6 1 s else sendNak p s

/-- A slab past the injector's first point: CRC and FEC, acknowledgement and credit, then by kind. -/
def linkReceive (p : Nat) (bs : List Byte) (fecOk pass hold : Bool) (s : State) : State :=
  let crcOk := decide (field bs 124 4 = crc32c (bs.take 124))
  let kind := field bs 0 1 % 16
  let s := if crcOk then s else countPort p 3 1 s
  if crcOk = false ∨ fecOk = false then
    (if 2 ≤ kind ∧ (portAt s p).state = .up then sendNak p s else s)
  else
    let w := field bs 3 2
    let s := applyAck p (w % 4096) s
    let s := applyCredit p (bits w 14 12) (field bs 5 1) s
    if kind = kIdle then s
    else if kind = kLink then
      (if bits (field bs 0 1) 6 4 = 1 then takeLink p (slabOf bs p) s else count 0x7040 3 1 s)
    else takeSequenced p bs pass hold s

/-- A slab arrives at a port; `corrected` and `uncorrectable` count its FEC codewords. -/
def execSlabReceive (t : Nat) (port : Fin 16) (bytes : List Byte) (corrected uncorrectable : Nat) (s : State) : Out :=
  let s := clockTo t s
  let p := port.val
  let a := portAt s p
  if linksRun s = false ∨ (a.state ≠ .up ∧ a.exchanging = false) then .next s
  else
    let s := countPort p 5 uncorrectable (countPort p 4 corrected s)
    let bs := padTo bytes 128
    let vc := bits (field bs 0 1) 6 4
    let (free, s) := takeFree s
    let (hit, inj) := if field bs 0 1 % 16 = kIdle then (false, a.inj) else injectorMeets s p vc free
    let s := modPort p (fun a => { a with inj := inj }) s
    let act := injObj s p 1
    if hit = true ∧ act = 1 then .next (noteInjection p s)
    else if hit = true ∧ act = 2 then
      .next (linkReceive p (flipPayload inj.injected bs) (decide (uncorrectable = 0)) false false (noteInjection p s))
    else .next (linkReceive p bs (decide (uncorrectable = 0)) (hit && decide (act = 3)) (hit && decide (act = 4)) s)

end Sys2Proof.Machine
end

