-- ==== Sys2Proof/Machine/Loading.lean ====
section
/-! DEFINITION. The test port and the loading of lots (chapter 18): test instructions, the load engines, full loads, reloads
and waiting lot commands. -/

namespace Sys2Proof.Machine

/-! ### The chain (R959 to R967) -/

/-- A command of one of the two paths reaches the chain (R961). -/
def chainDriven (s : State) (ext : Bool) : Bool := packageRuns s && !dropping s && (ext == s.fab.external)

/-- Instruction register of a TAP: 0 the package, 1 to 4 B0 to B3; IDCODE after Test-Logic-Reset (R960). -/
def irAt (s : State) (n : Nat) : Nat := tabGet 1 n s.fab.ir

/-- A load is in progress. -/
def loadRuns (s : State) : Bool :=
  !s.fab.jobs.isEmpty || (List.range 4).any fun c =>
    decide ((chipAt s c).engine = .receiving) || decide ((chipAt s c).engine = .verifying)

/-- The record of a failed section (R990, R992, R1053). -/
def cfgFailRecord (lot err : Nat) (s : State) : State :=
  record { cause := 0x8010, cls := 2, unitType := utLot, unit := lot, subcause := err } s

/-- A reload fails: the lot is FENCED with CFG_FAIL (R990). -/
def reloadFails (lot err : Nat) (s : State) : State :=
  let s := count 0x8050 4 1 (cfgFailRecord lot err s)
  modLot lot (fun x => { x with state := .fenced, cause := 0x8010, cmd := if x.cmd = 1 then 0 else x.cmd,
                                policyReload := false }) s

/-- A full load fails: it stops, its lots are CLEAR and CFG_ERR_N asserts (R992). -/
def fullLoadFails (lot err : Nat) (s : State) : State :=
  let s := cfgFailRecord lot err s
  let s := forEach clearLot (List.range 16) s
  s.modFab fun b => { b with cfgErr := true, failed := true, full := false, jobs := [] }

/-- A section fails with an error code (R977, R981, R990, R992). -/
def sectionFails (c err : Nat) (s : State) : State :=
  let x := chipAt s c
  let lot := 4 * c + x.target
  let s := modChip c (fun x => { x with engine := .error, err := err }) s
  let s := count 0x8840 2 1 (s.modFab fun b => { b with loadError := err + 256 * lot })
  if x.external then (if (lotAt s lot).state = .loading then reloadFails lot err s else s)
  else if s.fab.full then fullLoadFails (s.fab.jobs.headD 0) err s
  else
    let l := s.fab.jobs.headD 0
    reloadFails l err (s.modFab fun b => { b with jobs := b.jobs.tail })

/-- A section that has not reached the end of its trailer is aborted (R981, error 0x0B). -/
def abortSection (c : Nat) (s : State) : State :=
  if (chipAt s c).engine = .receiving then sectionFails c 0x0B s else s

/-- An instruction is selected on a TAP: on a chiplet it ends EXTEST, and a section in progress unless it is CFG_LOAD or
CFG_STATUS (R962, R981). -/
def selectIr (n code : Nat) (s : State) : State :=
  let s := if n = 0 ∨ code = 0x20 ∨ code = 0x21 then s else abortSection (n - 1) s
  let s := if n = 0 then s else modChip (n - 1) (fun x => { x with extest := false }) s
  s.modFab fun b => { b with ir := tabPut 1 n code b.ir }

/-- A value leaves at TDO. -/
def shiftOut (v : Nat) (s : State) : State := emit (.tap v) s

/-- Test-Logic-Reset or TRST_N (R960, R961, R981). -/
def execTestLogicReset (t : Nat) (ext : Bool) (s : State) : Out :=
  let s := clockTo t s
  if chainDriven s ext = false then .next s
  else
    let s := forEach abortSection (List.range 4) s
    let s := forEach (fun c s => modChip c (fun x => { x with extest := false }) s) (List.range 4) s
    let s := s.modFab fun b => { b with ir := [] }
    if loadRuns s = true ∨ s.life.state = .sweep then .next s
    else .next (runWaiting (s.modFab fun b => { b with external := decide (objAt s 0x8815 0 = 1) }))

/-- BYPASS, or any other code that the TAP does not list (R962). -/
def execBypass (t : Nat) (ext : Bool) (tap : Fin 5) (s : State) (code : Nat := 0xFF) : Out :=
  let s := clockTo t s
  if chainDriven s ext = false then .next s else .next (shiftOut 0 (selectIr tap.val (code % 256) s))

/-- IDCODE (R962 and the table of identification codes). -/
def execIdcode (t : Nat) (ext : Bool) (tap : Fin 5) (s : State) : Out :=
  let s := clockTo t s
  if chainDriven s ext = false then .next s
  else .next (shiftOut (if tap.val = 0 then 0x18640A3D else 0x1864BA3D) (selectIr tap.val 1 s))

/-- Cells of a boundary register (R962, R963). -/
def boundaryCells (tap : Nat) : Nat := if tap = 0 then 1 else 144

/-- Setting the boundary register of a TAP. -/
def setBoundary (tap v : Nat) (drives : Bool) (s : State) : State :=
  let v := v % 2 ^ boundaryCells tap
  if tap = 0 then s.modFab fun b => { b with pkgBoundary := v }
  else modChip (tap - 1) (fun x => { x with boundary := v, extest := drives }) s

/-- SAMPLE/PRELOAD: the cells are captured, then take the value shifted in (R962, R963). -/
def execSamplePreload (t : Nat) (ext : Bool) (tap : Fin 5) (pins preload : Nat) (s : State) : Out :=
  let s := clockTo t s
  if chainDriven s ext = false then .next s
  else .next (setBoundary tap.val preload false (shiftOut (pins % 2 ^ boundaryCells tap.val) (selectIr tap.val 2 s)))

/-- A TAP accepts EXTEST (R964). -/
def extestAllowed (s : State) (tap : Nat) : Bool := decide (tap = 0) || chipQuiet s (tap - 1)

/-- EXTEST: the pads follow the boundary register, or the bypass register answers (R962 to R964). -/
def execExtest (t : Nat) (ext : Bool) (tap : Fin 5) (pins drive : Nat) (s : State) : Out :=
  let s := clockTo t s
  if chainDriven s ext = false then .next s
  else if extestAllowed s tap.val = false then .next (shiftOut 0 (selectIr tap.val 0 s))
  else .next (setBoundary tap.val drive true (shiftOut (pins % 2 ^ boundaryCells tap.val) (selectIr tap.val 0 s)))

/-! ### Frames and golden entries (R969, R970, R978, R995) -/

/-- Type of a frame index (R970). -/
def frameType (f : Nat) : Nat := if f < 3072 then 0 else if f < 3328 then 1 else 2

/-- Address word of a frame (R969). -/
def frameAddress (f : Nat) : Nat := f + 4096 * frameType f

/-- Bytes of a list of 32-bit words. -/
def wordsBytes (ws : List Nat) : List Byte := ws.flatMap fun w => natLe w 4

/-- CRC of a frame: words 0 to 128 (R969). -/
def frameCrc (f : Nat) (data : List Byte) : Nat := crc32c (natLe (frameAddress f) 4 ++ data)

/-- The configuration bits of a frame as a lot holds them. -/
def frameData (x : Lot) (f : Nat) : List Byte := memRead x.config (512 * f) 512

/-- The 13-bit Hamming code of a frame's bits, the check column of bit i being i + 1, with the overall parity at bit 13
(R995, log entry 46). -/
def frameCheck (data : List Byte) : Nat :=
  (numbered 0 data).foldl (fun c (i, b) =>
    (List.range 8).foldl (fun c j => if bit b.toNat j then c ^^^ (8 * i + j + 1) ^^^ 8192 else c) c) 0

/-! ### The load engine (R968 to R979) -/

/-- The error of a complete header, 0 when none: `asked` is the lot within the chiplet that the load asked for (R968, R977,
R1009). -/
def headerError (s : State) (c : Nat) (asked : Option Nat) (h : List Nat) : Nat :=
  let w (i : Nat) : Nat := h.getD i 0
  let lot := w 2 % 4
  let st := (lotAt s (4 * c + lot)).state
  if w 0 ≠ 0x4255524E then 0x01
  else if w 1 ≠ 0x00030000 then 0x02
  else if w 2 / 4 % 4 ≠ c ∨ (match asked with
      | some l => decide (l ≠ lot)
      | none => decide (st ≠ .clear) && decide (st ≠ .held) && decide (st ≠ .fenced)) = true then 0x03
  else if w 4 ≠ 0x8640 ∨ w 2 / 32 ≠ 0 ∨ w 5 / 8 ≠ 0 ∨ (h.drop 8).any (fun x => x != 0) = true then 0x04
  else if w 3 ≠ 0 ∧ w 3 ≠ 3616 then 0x05
  else 0

/-- The standard of a bank permits its serialiser lanes (R946). -/
def lanesPermitted (std : Nat) : Bool := decide (std = 3) || decide (std = 4) || decide (std = 13) || decide (std = 14)

/-- Pads claimed by the other lots of a chiplet that are in service (R947). -/
def claimedByOthers (s : State) (c lot : Nat) : Nat :=
  (chipLots c).foldl (fun m l => if l ≠ lot ∧ (lotAt s l).serves = true then m ||| (lotAt s l).claims else m) 0

/-- The error of a frame, 0 when none (R925, R946, R947, R969, R970). -/
def frameError (s : State) (c lot expected : Nat) (p : List Nat) : Nat :=
  let data := wordsBytes ((p.drop 1).take 128)
  if p.getD 0 0 ≠ frameAddress expected then 0x06
  else if p.getD 129 0 ≠ frameCrc expected data then 0x07
  else if frameType expected = 1 ∧ (Config.frameAspect7 expected data = true ∨
      (Config.frameLanes expected data ≠ 0 ∧ lanesPermitted (bankAt s c).standard = false) ∨
      Config.frameClaims expected data &&& claimedByOthers s c lot ≠ 0) then 0x08
  else 0

/-- An accepted frame is written, with its golden entry (R977, R978). -/
def acceptFrame (c lot f : Nat) (p : List Nat) (s : State) : State :=
  let data := wordsBytes ((p.drop 1).take 128)
  let s := modLot lot (fun x =>
    let x := { x with config := memWrite x.config (512 * f) data }
    if frameType f = 2 then { x with mems := memWrite x.mems (512 * (f - 3328)) data }
    else
      let x := { x with
        goldenCrc := tabPut 0 f (p.getD 129 0) x.goldenCrc, goldenCheck := tabPut 0 f (frameCheck data) x.goldenCheck }
      if frameType f = 1 then { x with
        claims := x.claims ||| Config.frameClaims f data, lanes := x.lanes ||| Config.frameLanes f data
        lanesTx := x.lanesTx ||| Config.frameLanesTx f data }
      else x) s
  (modChip c (fun x => { x with frames := x.frames + 1, part := [] }) s).modFab fun b => { b with loadFrames := b.loadFrames + 1 }

/-- Length of a section in words. -/
def sectionWords (frames : Nat) : Nat := 16 + 130 * frames + 32

/-- The trailer is well formed (R971). -/
def trailerOk (frames : Nat) (w : List Nat) : Bool :=
  decide (w.getD 0 0 = 0x454E4421) && decide (w.getD 1 0 = sectionWords frames) && (w.drop 26).all fun x => x == 0

/-- The complete header is judged; a section from the service header takes its lot to LOADING (R977, R1009). -/
def judgeHeader (c : Nat) (s : State) : State :=
  let x := chipAt s c
  let asked := if x.external then none else s.fab.jobs.head?.map (· % 4)
  let e := headerError s c asked x.header
  let lot := 4 * c + x.header.getD 2 0 % 4
  if e ≠ 0 then sectionFails c e s
  else
    let s := modChip c (fun x => { x with target := x.header.getD 2 0 % 4 }) s
    modLot lot (fun x => { x with state := .loading, claims := 0, lanes := 0, lanesTx := 0 }) s

/-- One word of a section reaches the engine (R977). -/
def feedWord (c w : Nat) (s : State) : State :=
  let x := chipAt s c
  if x.engine ≠ .receiving then s
  else if x.header.length < 16 then
    let s := modChip c (fun x => { x with header := x.header ++ [w] }) s
    if x.header.length + 1 = 16 then judgeHeader c s else s
  else if x.frames < x.header.getD 3 0 then
    let s := modChip c (fun x => { x with part := x.part ++ [w] }) s
    if x.part.length + 1 < 130 then s
    else
      let e := frameError s c (4 * c + x.target) x.frames (x.part ++ [w])
      if e ≠ 0 then sectionFails c e s else acceptFrame c (4 * c + x.target) x.frames (x.part ++ [w]) s
  else
    let s := modChip c (fun x => { x with trailer := x.trailer ++ [w] }) s
    if x.trailer.length + 1 < 32 then s
    else if trailerOk (x.header.getD 3 0) (x.trailer ++ [w]) then modChip c (fun x => { x with engine := .verifying }) s
    else sectionFails c 0x09 s

/-- A section begins. -/
def beginSection (c : Nat) (external : Bool) (lot : Nat) (s : State) : State :=
  modChip c (fun x => { x with
    engine := .receiving, external := external, target := lot, err := 0, frames := 0, header := [], part := [], trailer := [] }) s

/-- The words of a stored section. -/
def storedWords (bs : List Byte) : List Nat := (List.range (bs.length / 4)).map fun i => field bs (4 * i) 4

/-- The kiosk shifts the store slot of the lot under load; an empty slot is an empty section (R988, R990). -/
def shiftSlot (c lot : Nat) (s : State) : State :=
  let bs := tabGet [] lot s.fab.store
  let s := beginSection c false (lot % 4) s
  if bs = [] then modChip c (fun x => { x with engine := .verifying }) s
  else abortSection c (forEach (fun w s => feedWord c w s) (storedWords bs) s)

/-- CFG_LOAD: the kiosk's load shifts a whole slot; the service header shifts the words given (R977, R1009).  While CLEARED is
set nothing is loaded but the sweep's own test sections (R1025). -/
def execCfgLoad (t : Nat) (ext : Bool) (chip : Fin 4) (words : List Nat) (s : State) : Out :=
  let s := clockTo t s
  let c := chip.val
  if chainDriven s ext = false then .next s
  else if s.sweep.cleared then .next (shiftOut 0 (selectIr (c + 1) 0x20 s))
  else
    let anew := decide (irAt s (c + 1) ≠ 0x20)
    let s := selectIr (c + 1) 0x20 s
    let e := (chipAt s c).engine
    if ext = false then
      match s.fab.jobs.head? with
      | some l => if l / 4 = c ∧ e ≠ .receiving ∧ e ≠ .verifying then .next (shiftOut 0 (shiftSlot c l s)) else .next s
      | none => .next s
    else if e = .verifying then .next (shiftOut 0 s)
    else
      let starts := decide (e = .idle) || decide (e = .done) || (decide (e = .error) && anew)
      let s := if starts = true ∧ words ≠ [] then beginSection c true 0 s else s
      .next (shiftOut 0 (forEach (fun w s => feedWord c w s) words s))

/-- CFG_STATUS (R981). -/
def cfgStatus (s : State) (c : Nat) : Nat :=
  let x := chipAt s c
  x.engine.code + 16 * x.target + 64 * x.err + 2 ^ 14 * (x.frames % 4096) + flag x.suspect 26 + flag s.fab.cfgErr 27

def execCfgStatus (t : Nat) (ext : Bool) (chip : Fin 4) (s : State) : Out :=
  let s := clockTo t s
  if chainDriven s ext = false then .next s
  else
    let s := selectIr (chip.val + 1) 0x21 s
    .next (shiftOut (cfgStatus s chip.val) s)

/-- The frame that CFG_READBACK captures, 130 words (R982). -/
def readbackValue (s : State) (c sel : Nat) : Nat :=
  let f := sel % 4096
  let x := lotAt s (4 * c + sel / 65536 % 4)
  let data := if frameType f = 2 ∧ x.serves = true then List.replicate 512 (0 : Byte) else frameData x f
  leNat (natLe (frameAddress f) 4 ++ data ++ natLe (frameCrc f data) 4)

/-- CFG_READBACK: captures the frame last named, then takes the name shifted in (R965, R982). -/
def execCfgReadback (t : Nat) (ext : Bool) (chip : Fin 4) (select : Nat) (s : State) : Out :=
  let s := clockTo t s
  let c := chip.val
  if chainDriven s ext = false then .next s
  else
    let s := selectIr (c + 1) 0x22 s
    if objAt s 0x8814 0 ≠ 1 then .next (shiftOut 0 s)
    else
      let sel := (chipAt s c).readSel
      let (i, s) := takeFree s
      let v := if sel % 4096 < 3616 then readbackValue s c sel else Config.freeValue i % 2 ^ 4160
      .next (modChip c (fun x => { x with readSel := select % 2 ^ 32 }) (shiftOut v s))

/-! ### The end of a section and of a load (R972, R979, R980, R986 to R992) -/

/-- The key that SIGNER names; none for an unused entry or a reserved code (R973). -/
def signerKey (s : State) (code : Nat) : Option (List Byte) :=
  if code = 0 then some Config.imageKey
  else if code ≤ 4 then
    let k := strAt s 0x8803 code
    if k.all (fun b => b == 0) then none else some k
  else none

/-- The signature bytes of a trailer: r and s (R971). -/
def trailerSignature (w : List Nat) : List Byte := wordsBytes ((w.drop 2).take 24)

/-- The bytes a loaded section's signature covers: the header and every frame as received. -/
def signedBytes (x : Chiplet) (l : Lot) : List Byte :=
  wordsBytes x.header ++ (List.range (x.header.getD 3 0)).flatMap fun f =>
    let d := frameData l f
    natLe (frameAddress f) 4 ++ d ++ natLe (frameCrc f d) 4

/-- The signature of the section in a chiplet's engine verifies; an empty slot has none (R973, R979, R988). -/
def sectionVerifies (s : State) (c lot : Nat) : Bool :=
  let x := chipAt s c
  if x.header = [] then true
  else match signerKey s (x.header.getD 5 0) with
    | some k => Config.verifySignature k (signedBytes x (lotAt s lot)) (trailerSignature x.trailer)
    | none => false

/-- DESIGN_ID of a header. -/
def headerDesign (h : List Nat) : Nat := h.getD 6 0 + 2 ^ 32 * h.getD 7 0

/-- A section passes: its lot is HELD, or CLEAR for an empty one (R980). -/
def sectionPasses (c lot : Nat) (s : State) : State :=
  let x := chipAt s c
  let s := count 0x8840 1 1 (modChip c (fun x => { x with engine := .done }) s)
  if x.header.getD 3 0 = 0 then clearLot lot s
  else modLot lot (fun y => { y with
    state := .held, hold := bit (x.header.getD 2 0) 4
    design := if s.fab.full && !x.external then y.design else headerDesign x.header }) s

/-- The signature check ends (R979, R980, R986, R990, R1009). -/
def execSectionVerifyComplete (t : Nat) (chip : Fin 4) (s : State) : Out :=
  let s := clockTo t s
  let c := chip.val
  let x := chipAt s c
  let lot := 4 * c + x.target
  if packageRuns s = false ∨ dropping s = true ∨ x.engine ≠ .verifying then .next s
  else if sectionVerifies s c lot = false then .next (sectionFails c 0x0A s)
  else
    let s := sectionPasses c lot s
    if x.external then .next s
    else
      let s := s.modFab fun b => { b with jobs := b.jobs.tail }
      if s.fab.full then .next s
      else
        let s := modLot lot (fun y => { y with cmd := if y.cmd = 1 then 0 else y.cmd, policyReload := false }) s
        if (lotAt s lot).hold then .next s else .next (releaseLot lot s)

/-- Every section of a full load has passed: release together, design identifiers (R987, R989). -/
def execFullLoadComplete (t : Nat) (s : State) : Out :=
  let s := clockTo t s
  if packageRuns s = false ∨ dropping s = true ∨ s.fab.full = false ∨ s.fab.jobs ≠ [] then .next s
  else
    let s := forEach (fun l s =>
      if (lotAt s l).state = .held then
        modLot l (fun x => { x with design := field (tabGet [] l s.fab.store) 24 8 }) s
      else s) (List.range 16) s
    let go := (List.range 16).filter fun l => decide ((lotAt s l).state = .held) && !(lotAt s l).hold
    .next (forEach releaseLot go (s.modFab fun b => { b with full := false }))

/-- What waited for a layer proceeds once it has ended (R984). -/
def execDeferredLotCommand (t : Nat) (s : State) : Out :=
  let s := clockTo t s
  if packageRuns s = true ∧ dropping s = false ∧ loadsWaiting s = true then .next (runWaiting s) else .next s

/-- Object 0x8820:00. -/
def loadState (s : State) : Nat :=
  if s.fab.full || !s.fab.jobs.isEmpty then 2 else if loadsWaiting s then 1 else if s.fab.failed then 3 else 0

end Sys2Proof.Machine
end

