-- ==== Sys2Proof/Machine/Sweep.lean ====
section
/-! DEFINITION. The sweep (chapter 19): its slots, the clearing, the phases and windows, the verdict, and the scan
instructions of the test port. -/

namespace Sys2Proof.Machine

def State.modSweep (f : Sweep → Sweep) (s : State) : State := { s with sweep := f s.sweep }

/-! ### Slots (R1013 to R1018) -/

/-- The sled's slot (R1013). -/
def sweepSlotNumber (s : State) : Nat :=
  let own := objAt s 0x3110 0
  (if own = 0xFF then s.pins.slotAddr else own) % max 1 (objAt s 0x3111 0)

/-- The first cycle after RB_CYCLE at which the sled's slot starts (R1014). -/
def nextSlotCycle (s : State) : Nat :=
  let frame := max 1 (objAt s 0x3111 0 * objAt s 0x3112 0)
  let base := s.rb.cycle + 1
  base + (sweepSlotNumber s * objAt s 0x3112 0 + frame - base % frame) % frame

/-- A slot instant is fixed and its comparator taken (R1014 to R1016). -/
def armSlot (stage : SweepStage) (s : State) : State :=
  let n := nextSlotCycle s
  armKiosk kcSweep n 0 0 (s.modSweep fun w => { w with slotCycle := n, stage := stage })

/-- The comparator of the slot has fired, and its user may take the firing (R111). -/
def slotFired (s : State) : Bool := (tabGet {} kcSweep s.rb.kioskCmp).fired && kioskTurn kcSweep s.rb

/-- The sled becomes ready at the first boundary at which ballast stops (R1018). -/
def sweepReady (s : State) : State :=
  if s.life.state = .left ∧ s.life.sweepDue = true ∧ s.sweep.stage = .idle ∧ s.gov.ballast = 0 then armSlot .waitSlot s
  else s

/-! ### Clearing (R1022 to R1026) -/

/-- A tile as clearing leaves it: its place in the array and its control store stand. -/
def clearedTile (x : Tile) : Tile :=
  { state := x.state, logical := x.logical, runFence := x.runFence, loaded := x.loaded, lastCheck := x.lastCheck
    patrolRow := x.patrolRow, csa := 0, csb := 0, csd := 0 }

/-- A port as clearing leaves it. -/
def clearedPort (x : Port) : Port :=
  { x with unacked := [], resend := [], outq := [], linkq := [], inj := {}, deficit := [] }

/-- The fabric as clearing leaves it: every lot CLEAR, and the banks as they stand but for the words in their lanes. -/
def clearedFabric (b : Fabric) : Fabric :=
  { b with
    lots := [], fifos := [], streams := [], jobs := [], full := false, fullWaits := false
    banks := b.banks.map fun (k, x) => (k, { x with lanes := [] })
    chips := b.chips.map fun (c, x) => (c, ({ vdd := x.vdd, suspect := x.suspect } : Chiplet)) }

/-- Zeroing what programs, bitstreams and peers may have placed in the package (R1022). -/
def clearPackage (s : State) : State :=
  { s with
    tiles := s.tiles.map fun (n, x) => (n, clearedTile x)
    prog := none
    junc := { arrays := s.junc.arrays }
    links := { s.links with
      ports := s.links.ports.map fun (p, x) => (p, clearedPort x)
      transit := [], failMap := [], firmware := [], accesses := [] }
    coll := {}
    contain := { s.contain with
      cores := s.contain.cores.map fun (c, x) => (c, { x with buffer := [], loaded := [], reserved := none }) }
    tiers := { s.tiers with hbmUsed := [], cellarUsed := [], hostUsed := [], lent := [] }
    host := { s.host with queues := s.host.queues.map fun (q, x) => (q, { x with flight := [], held := [] }) }
    fab := clearedFabric s.fab }

/-! ### The ramp and the body (R1011, R1012, R1018 to R1021) -/

/-- The sweep level, mW (R1019). -/
def sweepLevel (s : State) : Nat := 1000 * min (objAt s 0x3113 0) (objAt s 0x2112 0)

/-- The body begins at the first boundary after the draw has reached the level (R1019, R1022). -/
def sweepBody (s : State) : State :=
  if s.life.state = .sweep ∧ s.sweep.stage = .ramping ∧ 16 * sweepLevel s ≤ p16Sum s.gov then
    (clearPackage s).modSweep fun w => { w with stage := .body, phase := 1, checkedAt := s.now, failures := [] }
  else s

/-- What a half-cycle boundary means to the sweep. -/
def sweepBoundary (s : State) : State := sweepBody (sweepReady s)

/-- Both junction temperatures lie within 10 to 95 degrees C (R1011, R1036). -/
def tempsInWindow (east west : Int) : Bool :=
  decide (100 ≤ east) && decide (east ≤ 950) && decide (100 ≤ west) && decide (west ≤ 950)

/-- The condition that skips the sweep, by its cause; 0 for none (R1011). -/
def skipCause (s : State) (east west : Int) : Nat :=
  if objAt s 0x8815 0 = 1 then 1
  else if objAt s 0x2112 0 < 500 then 2
  else if tempsInWindow east west = false then 3
  else if s.gov.mainMv < 48000 then 4
  else 0

/-- The stagger slot comes: the sweep is skipped or begins (R1011, R1012, R1019). -/
def execSweepSlot (t : Nat) (east west : Int) (s : State) : Out :=
  let s := clockTo t s
  if s.sweep.stage ≠ .waitSlot ∨ slotFired s = false then .next s
  else
    let s := (clearKioskCmp kcSweep s).modSweep fun w => { w with slotCycle := 0, stage := .idle, stored := false }
    let s := s.modLife fun l => { l with sweepDue := false }
    let c := skipCause s east west
    if c ≠ 0 then
      let s := s.modSweep fun w => { w with outcome := 2, cause := c }
      .next (beginShutdown (count 0x3120 2 1 (noteRecord 0x3008 utSled 0 s)))
    else
      let s := (enterLife .sweep s).modSweep fun w => { w with stage := .ramping, endEast := east, endWest := west }
      .next (s.modGov fun g => { g with fullDepth := false })

/-- A sweep that cannot go on keeps its draw until its descent slot (R1036). -/
def abandonBody (cause : Nat) (s : State) : State :=
  let s := s.modSweep fun w => { w with outcome := 3, cause := cause, phase := 0 }
  armSlot .waitDescent (count 0x3120 3 1 (noteRecord 0x300A utSled 0 s))

/-- The window check of every 1 ms (R1036). -/
def execSweepWindowCheck (t : Nat) (east west : Int) (s : State) : Out :=
  let s := clockTo t s
  if s.sweep.stage ≠ .body ∨ s.now < s.sweep.checkedAt + 1000000 then .next s
  else
    let s := s.modSweep fun w => { w with
      checkedAt := s.now, endEast := if w.phase ≤ 8 then east else w.endEast, endWest := if w.phase ≤ 8 then west else w.endWest }
    if tempsInWindow east west = true ∧ 48000 ≤ s.gov.mainMv ∧ s.gov.mainMv ≤ 58000 then .next s
    else .next (abandonBody 6 s)

/-- The descent slot comes: the ordered shutdown goes on (R1021). -/
def execSweepDescent (t : Nat) (s : State) : Out :=
  let s := clockTo t s
  if s.sweep.stage ≠ .waitDescent ∨ slotFired s = false then .next s
  else .next (beginShutdown ((clearKioskCmp kcSweep s).modSweep fun w => { w with stage := .idle, slotCycle := 0 }))

/-! ### Phases (R1028 to R1034, R1037, R1038) -/

/-- Units that a phase tests and that fail it, unit type and number (R1037, the phase table). -/
def phaseFailures (s : State) (phase : Nat) (r : TestResults) : List (Nat × Nat) :=
  let units (ut n : Nat) (l : List Nat) : List (Nat × Nat) := (l.filter fun u => u < n).map fun u => (ut, u)
  let one (ut : Nat) (b : Bool) : List (Nat × Nat) := if b then [(ut, 0)] else []
  match phase with
  | 2 => units utCore 4 r.cores
  | 3 => units utTile 160 (r.tiles.filter fun u => (tileAt s u).state ≠ .fused)
  | 4 => units utPort 16 r.ports ++ one utBridge r.bridge ++ one utJunction r.junction ++ one utSwitch r.switch ++
      (if r.adders then [(utSwitch, 1)] else [])
  | 5 => units utStack 8 r.hbm
  | 6 => units utCellar 16 r.cellar
  | 7 => units utArray 32 r.arrays
  | 8 => units utLot 16 r.lots
  | _ => []

/-- The margin passes of a phase run, in the body of a sweep alone (R1034, R1035). -/
def marginOn (s : State) (phases : List Nat) : Bool :=
  decide (s.life.state = .sweep) && decide (s.sweep.stage = .body) && decide (objAt s 0x3114 0 = 1) && phases.contains s.sweep.phase

/-- Offsets of the compute-die core rail from its nominal value, mV, that the phase in progress applies in turn: one more pass
of every logic test, which are those of the station cores, tiles, Junction, switch, adders and bridge (R1034, R1035; log entry
151). -/
def coreOffsets (s : State) : List Int := if marginOn s [2, 3, 4] then [0, -30] else [0]

/-- Values of a chiplet's FAB_VDD, mV, that the phase in progress applies in turn (R1034, R1035). -/
def fabCorners (s : State) (c : Nat) : List Nat :=
  (chipAt s c).vdd :: (if marginOn s [8] then [600, 800] else [])

/-- Offsets of the arrays' supply, per mille, that the phase in progress applies in turn (R1034, R1035). -/
def arrayOffsets (s : State) : List Int := if marginOn s [7] then [0, -30, 30] else [0]

/-- Units that fail a phase: `res` at nominal voltages, and `margin` on the margin passes, which test no link port and no memory
and run only while the phase applies their voltages (R1034, R1037). -/
def sweepFailures (s : State) (phase : Nat) (res margin : TestResults) : List (Nat × Nat) :=
  let nominal := phaseFailures s phase res
  let more := phaseFailures s phase { margin with ports := [], hbm := [], cellar := [] }
  if marginOn s [2, 3, 4, 7, 8] then nominal ++ more.filter fun u => !nominal.contains u else nominal

/-- A failing unit: a NOTICE that names it, and the sweep goes on (R1031); the adders are part of the switch. -/
def unitFails (u : Nat × Nat) (s : State) : State :=
  let s := noteRecord 0x3009 u.1 (if u.1 = utSwitch then 0 else u.2) s
  (count 0x3120 4 1 s).modSweep fun w => { w with failures := w.failures ++ [u] }

/-- A unit has passed so far. -/
def unitPassed (s : State) (ut u : Nat) : Bool := !s.sweep.failures.contains (ut, u)

/-- The sweep calibrates every array (R708, R710, R711). -/
def sweepArrays (s : State) : State :=
  forEach (fun n s => modArr n (fun a =>
    if unitPassed s utArray n then { a with trims := calibrated s n, calTemp := a.temp }
    else { a with trims := calibrated s n, state := .failedSweep }) s) (List.range 32) s

/-- Memory marches leave nothing of the contents (R1037), and phase 7 leaves the arrays calibrated (R710). -/
def afterPhase (phase : Nat) (s : State) : State :=
  if phase = 5 then { s with hbm := [], tiers := { s.tiers with hbmPoison := [] } }
  else if phase = 6 then { s with cellar := [], tiers := { s.tiers with cellarPoison := [] } }
  else if phase = 7 then sweepArrays s
  else s

/-! ### The verdict (R1039 to R1045) -/

/-- A bit string of passed units. -/
def passBits (n : Nat) (p : Nat → Bool) : Nat := sumTo n fun i => flag (p i) i

/-- ARRAY_CAL block of an array. -/
def calBlock (s : State) (n : Nat) : List Byte :=
  let a := arrAt s n
  padTo a.trims 258 ++ intLe (if unitPassed s utArray n then a.calTemp else a.temp) 2 ++ natLe (Config.arrayResidual n s.now) 1 ++ natLe 0 3

/-- UNIT_FLAGS of the verdict. -/
def verdictUnits (s : State) : Nat :=
  flag (unitPassed s utBridge 0) 0 + flag (unitPassed s utJunction 0) 1 + flag (unitPassed s utSwitch 0) 2 +
    flag (unitPassed s utSwitch 1) 3 + 16 * passBits 4 (unitPassed s utCore) + flag (decide (objAt s 0x3114 0 = 1)) 8

/-- The running station firmware's version. -/
def stationVersion (s : State) : Nat :=
  if s.kiosk.stationBank = 1 then s.kiosk.stationA.version else if s.kiosk.stationBank = 2 then s.kiosk.stationB.version else 0

/-- The verdict's bytes but its CRC (R1040). -/
def verdictBody (s : State) : List Byte :=
  natLe 0x54445256 4 ++ natLe 3 2 ++ natLe 0 2 ++ natLe 8580 4 ++ natLe (counterAt s 0x3105 0) 4 ++
  natLe s.sweep.endCycle 6 ++ natLe (verdictUnits s) 2 ++ padTo Config.fuseDigest 32 ++ natLe (stationVersion s) 4 ++ natLe 0 4 ++
  natLe (passBits 160 fun n => decide ((tileAt s n).state ≠ .fused) && unitPassed s utTile n) 20 ++
  natLe (passBits 8 (unitPassed s utStack)) 1 ++ natLe (passBits 16 (unitPassed s utCellar)) 2 ++
  natLe (passBits 32 (unitPassed s utArray)) 4 ++ natLe (passBits 16 (unitPassed s utLot)) 2 ++
  natLe (passBits 16 (unitPassed s utPort)) 2 ++ natLe 0 1 ++ intLe s.sweep.endEast 2 ++ intLe s.sweep.endWest 2 ++
  (List.range 4).flatMap (fun c => natLe (Config.measured (objKey 0x8001 (c + 1)) s.now) 2) ++ natLe 0 20 ++
  (List.range 32).flatMap (calBlock s)

/-- The verdict with its CRC. -/
def verdictBytes (s : State) : List Byte :=
  let b := verdictBody s
  b ++ natLe (crc32c b) 4

/-- A stored verdict is valid (R1042). -/
def verdictValid (v : List Byte) : Bool :=
  decide (v.length = 8580) && decide (field v 0 4 = 0x54445256) && decide (field v 4 2 = 3) && decide (field v 8 4 = 8580) &&
    decide (field v 8576 4 = crc32c (v.take 8576))

/-- The run-time fences of what the verdict passes clear (R188, R1045). -/
def clearFences (s : State) : State :=
  let tiles := (s.tiles.filter fun (n, x) => x.runFence && unitPassed s utTile n).map (·.1)
  let s := forEach (fun n s => modTile n (fun x => { x with runFence := false }) (count 0x3120 5 1 s)) tiles s
  let s := forEach (fun n s => if (s.contain.cores.any fun (c, x) => c = n && x.fenced) && unitPassed s utCore n then
      s.modContain fun c => { c with cores := tabPut {} n { tabGet {} n c.cores with fenced := false } c.cores } else s)
    (List.range 4) s
  let hbmStacks := passBits 8 fun n => bit s.contain.stackFences n && unitPassed s utStack n
  let pkgs := passBits 16 fun n => bit s.contain.cellarFences n && unitPassed s utCellar n
  let arrs := passBits 32 fun n => bit s.contain.arrayFences n && unitPassed s utArray n
  let s := count 0x3120 5 (countTo 8 (bit hbmStacks) + countTo 16 (bit pkgs) + countTo 32 (bit arrs)) s
  s.modContain fun c => { c with
    stackFences := c.stackFences - hbmStacks, cellarFences := c.cellarFences - pkgs, arrayFences := c.arrayFences - arrs }

/-- Phase 9: the verdict is stored whole, or the sweep is abandoned (R1039, R1041, R1045, R1049). -/
def storeVerdict (storeOk : Bool) (s : State) : State :=
  if storeOk then
    let s := count 0x3105 0 1 s
    let v := verdictBytes s
    let s := s.modSweep fun w => { w with verdict := v, fresh := true, stored := true, outcome := 1, cause := 0, phase := 0 }
    armSlot .waitDescent (clearFences (count 0x1110 7 1 (count 0x3120 1 1 s)))
  else abandonBody 0x0B (noteRecord 0x1001 utKiosk 0 (count 0x1110 8 1 s))

/-- A phase of the sweep ends with what its tests found (R1023, R1026, R1031 to R1033, R1038). -/
def execSweepPhaseComplete (t : Nat) (res : TestResults) (storeOk : Bool) (s : State) (margin : TestResults := {}) : Out :=
  let s := clockTo t s
  let p := s.sweep.phase
  if s.sweep.stage ≠ .body then .next s
  else if (p = 3 ∨ p = 4) ∧ s.gov.clock ≠ 1800 then .next s
  else if p = 1 then
    if res.clear then .next (abandonBody 5 s)
    else .next (s.modSweep fun w => { w with cleared := true, phase := 2 })
  else if p = 9 then .next (storeVerdict storeOk s)
  else
    let s := afterPhase p (forEach unitFails (sweepFailures s p res margin) s)
    if p = 2 ∧ (List.range 4).all (fun c => !unitPassed s utCore c) = true then .next (abandonBody 7 s)
    else .next (s.modSweep fun w => { w with phase := p + 1, endCycle := if p = 8 then s.rb.cycle else w.endCycle })

/-! ### The scan instructions (R1024, R1027, R1046) -/

/-- The scan control register as captured. -/
def scanControl (s : State) (tap : Nat) (isolated : Bool) : Nat :=
  flag (decide (s.life.state = .sweep)) 0 + flag s.sweep.cleared 1 + flag isolated 2 + 256 * tabGet 0 tap s.sweep.domain

/-- SCAN_ENABLE: `isolated` says whether the unit that owns the domain named is isolated (R1024, R1027). -/
def execScanEnable (t : Nat) (ext : Bool) (tap : Fin 5) (shift : Nat) (isolated : Bool) (s : State) : Out :=
  let s := clockTo t s
  if chainDriven s ext = false then .next s
  else
    let s := selectIr tap.val 0x30 s
    if s.life.state ≠ .sweep ∨ s.sweep.cleared = false ∨ ext = true then .next (shiftOut 0 s)
    else
      let s := shiftOut (scanControl s tap.val isolated) s
      .next (s.modSweep fun w => { w with
        domain := tabPut 0 tap.val (if isolated then bits shift 15 8 else 0) w.domain
        atSpeed := tabPut false tap.val (bit shift 16) w.atSpeed })

/-- SWEEP_REPORT (R1046). -/
def execSweepReport (t : Nat) (ext : Bool) (s : State) : Out :=
  let s := clockTo t s
  if chainDriven s ext = false then .next s
  else .next (shiftOut (leNat (padTo s.sweep.verdict 128)) (selectIr 0 0x31 s))

end Sys2Proof.Machine
end

