-- ==== Sys2Proof/Machine/Life.lean ====
section
/-! DEFINITION. Arrival, departure and reset (chapter 04): the kiosk's start, the start paths, the departure and its drain,
the reset sources and the button. -/

namespace Sys2Proof.Machine

/-! ### Standby power (R39, R72, R100, R121, R237, R266, R286, R297, R1109, R1115, R1139) -/

/-- The Roundabout at the kiosk's start: NO_REF, its tick from object 0x2012:00 (R72, R121). -/
def freshRoundabout (now nominal : Nat) : Roundabout :=
  { tickStart := now / 10 * 2 ^ 32, tickLen := nominal * 2 ^ 20, pEst4 := 4 * nominal }

/-- SB_12V reaches its operating range: the kiosk starts and the sled enters STANDBY (R180).  A button that is down then is a
press that begins then (DESIGN CHOICE, log entry 124). -/
def execKioskStart (t slotAddr : Nat) (s : State) : Out :=
  let s := clockTo t s
  if s.life.state ≠ .absent then .next s
  else
    let s : State := { s with rb := freshRoundabout s.now (objAt s 0x2012 0) }
    let s := s.modKiosk fun k => { k with startedAt := s.now, kioskBank := pickBank k.kioskA k.kioskB }
    let s := s.modPins fun p => { p with standby := true, slotAddr := slotAddr % 64 }
    let s := count 0x1009 0 1 (s.modLife fun l => { l with
      state := .standby, since := s.now, press := if s.pins.btn then some (s.now, .standby) else none })
    let s := takeNodeId (s.modNet fun n => { n with fallback := objAt s 0x1211 0, dadUntil := s.now + 1000000000 })
    let s := if s.net.nodeIdInvalid then s else emit dadSolicitation s
    .next (settle (armKiosk kcBeacon 0 1024 0 s))

/-- The entries of a table whose keys are saved. -/
def keepSaved {α : Type} (t : Tab α) : Tab α := t.filter fun (k, _) => isSaved k

/-- What loss of standby power leaves of the kiosk: saved entries and the image banks. -/
def kioskKept (k : Kiosk) : Kiosk :=
  { objects := keepSaved k.objects, strings := keepSaved k.strings, counters := keepSaved k.counters
    stationA := k.stationA, stationB := k.stationB, kioskA := k.kioskA, kioskB := k.kioskB, policyA := k.policyA
    policyB := k.policyB }

/-- What loss of standby power leaves of the records: the logs, the sequence and the fences. -/
def containKept (c : Contain) : Contain :=
  { sequence := c.sequence, lastCommitted := c.lastCommitted, errorLog := c.errorLog, eventLog := c.eventLog
    cores := c.cores.foldl (fun t (n, x) => tabPut {} n ({ fenced := x.fenced } : StationCore) t) []
    stackFences := c.stackFences, cellarFences := c.cellarFences, arrayFences := c.arrayFences }

/-- Neither SB_12V nor the bulk holds the standby domain: what the table of the chapter keeps stays, the rest is fresh
(R121, R213, R214, R266, R339).  The latch stands as it is, and a stuck hold ends only by a write (R212). -/
def execStandbyPowerLoss (t : Nat) (s : State) : Out :=
  let s := clockTo t s
  if s.life.state = .absent then .next s
  else
    let life : Life := { unfit := s.life.unfit, fwInvalid := s.life.fwInvalid, fwWritten := s.life.fwWritten,
                         latchOpen := s.life.latchOpen, stuckHold := s.life.stuckHold }
    let sweep : Sweep := { outcome := s.sweep.outcome, cause := s.sweep.cause, verdict := s.sweep.verdict, fresh := s.sweep.fresh }
    .next
      { now := s.now
        pins := { s.pins with standby := false, hotReset := false, earlySince := none }
        life := life
        contain := containKept s.contain
        kiosk := kioskKept s.kiosk
        tiles := s.tiles.foldl (fun t (n, x) => tabPut {} n ({ runFence := x.runFence } : Tile) t) []
        links := { ports := s.links.ports.foldl (fun t (p, x) => tabPut {} p (resetPort x) t) [] }
        fab := { store := s.fab.store }
        sweep := sweep
        hostMem := s.hostMem
        outbox := s.outbox
        freeCount := s.freeCount
        pending := s.pending }

/-! ### Contacts and the start (R126, R171, R180, R182, R1104) -/

/-- EARLY_N changes (R171, R182). -/
def execEarlyNChange (t : Nat) (asserted : Bool) (s : State) : Out :=
  let s := clockTo t s
  let s := s.modPins fun p => { p with early := asserted, earlySince := track asserted s.now p.earlySince }
  .next (if s.life.state = .absent then s else settle s)

/-- PRSNT_N changes (R182, R1104). -/
def execPrsntNChange (t : Nat) (asserted : Bool) (s : State) : Out :=
  let s := (clockTo t s).modPins fun p => { p with prsnt := asserted }
  .next (if s.life.state = .absent then s else settle s)

/-- The conditions of R182 have held for 100 ms: precharge begins at the next boundary (R182, R183). -/
def execStartQualified (t : Nat) (s : State) : Out :=
  let s := clockTo t s
  if s.life.state = .standby ∧ startConditions s = true ∧ lasted s s.life.startSince 100000000 = true then
    .next (s.modLife fun l => { l with startDue := true })
  else .next s

/-! ### Departures (R198 to R205, R402, R403, R1099) -/

/-- The departure instant: the first multiple of 8 cycles with the lead of object 0x3012:00 (R199). -/
def departInstant (s : State) : Nat := (s.rb.cycle + objAt s 0x3012 0 + 7) / 8 * 8

/-- A departure request is accepted (R198 to R200). -/
def acceptDeparture (code : Nat) (s : State) : State :=
  let n := departInstant s
  let target := objAt s 0x3010 0
  let s := s.modLife fun l => { l with
    departCode := code, departCycle := n, prevState := l.state, prevTarget := target, lastCause := 0x3002 }
  let s := if code = 1 then setObj 0x3010 0 0 s else s
  let s := noteRecord 0x3002 utSled 0 (sendNotice 0x3002 n (count 0x3030 6 1 s))
  enterLife .departReq (armPackage pcDrain n 0 0 (armPackage pcDepart n 0 0 (armKiosk kcDepart n 0 0 s)))

/-- The departure's comparators are withdrawn. -/
def clearDeparture (s : State) : State := clearPackageCmp pcDrain (clearPackageCmp pcDepart (clearKioskCmp kcDepart s))

/-- A departure request with code 1 or 2, in each life state (R198, R205; in PRECHARGE it waits, log entry 16).  While a full
reset descends, code 1 sets POWER_TARGET to OFF, which the reset's end heeds, and code 2 has no effect (R209; DESIGN CHOICE,
log entry 125). -/
def requestDeparture (code : Nat) (s : State) : State :=
  if s.life.descent = .toReset then (if code = 1 then setObj 0x3010 0 0 s else s)
  else match s.life.state with
  | .standby => settle (setObj 0x3010 0 0 s)
  | .precharge => s.modLife fun l => { l with departWaits := true }
  | .powered | .verdict | .training => enterLeft false (setObj 0x3010 0 0 s)
  | .joined | .running | .degraded => acceptDeparture code s
  | .departReq | .draining | .left =>
    if code = 1 ∧ s.life.departCode = 2 then setObj 0x3010 0 0 (s.modLife fun l => { l with departCode := 1 }) else s
  | _ => s

/-- The member state that capability and programs give. -/
def memberState (s : State) : LifeState :=
  if fullCapability s = false then .degraded else if s.prog.isSome then .running else .joined

/-- A write of 0 before the instant cancels the request (R201). -/
def cancelDeparture (s : State) : State :=
  let s := setObj 0x3010 0 s.life.prevTarget (clearDeparture s)
  enterLife (memberState s) (s.modLife fun l => { l with departCode := 0, departCycle := 0 })

/-- The ejector latch opens: a departure request with code 1 (R198, R1099). -/
def execLatchOpen (t : Nat) (s : State) : Out :=
  let s := clockTo t s
  if s.life.latchOpen then .next s
  else
    let s := s.modLife fun l => { l with latchOpen := true }
    .next (if s.life.state = .absent then s else requestDeparture 1 s)

/-- The ejector latch closes; a request stands (R1099). -/
def execLatchClose (t : Nat) (s : State) : Out :=
  .next ((clockTo t s).modLife fun l => { l with latchOpen := false })

/-- The bulk lies within 1.0 V of the input: the switch closes and the sled enters POWERED (R126, R180). -/
def execPrechargeComplete (t : Nat) (s : State) : Out :=
  let s := clockTo t s
  if s.life.state = .precharge ∧ s.gov.mainMv ≤ s.gov.bulkMv + 1000 then
    let s := enterPowered false s
    .next (if s.life.departWaits then requestDeparture 1 (s.modLife fun l => { l with departWaits := false }) else s)
  else .next s

/-- Fetched LAUNCHes that have not started end FLUSHED with cause DEPARTED (R403). -/
def flushLaunches (s : State) : State :=
  forEach (fun (qx : Nat × Queue) s =>
    if qx.2.cls ≠ 0 ∨ 4064 ≤ qx.1 then s
    else flushRecords qx.1 (forEach (fun (d : Desc) s =>
      if (d.state = .fetched ∨ d.state = .gated) ∧ field d.data 0 1 = 4 then endDesc qx.1 d.index 4 0x3002 0 s else s)
      qx.2.flight s)) s.host.queues s

/-- The departure's comparators have fired, the kiosk's and the package's two, and their turn has come (R111, R199, R398). -/
def departFired (s : State) : Bool :=
  (tabGet {} kcDepart s.rb.kioskCmp).fired && (tabGet {} pcDepart s.rb.pkgCmp).fired &&
    (tabGet {} pcDrain s.rb.pkgCmp).fired && turnOf pcDepart s

/-- The departure instant comes: DRAINING (R180, R202, R402, R403). -/
def execDepartInstant (t : Nat) (s : State) : Out :=
  let s := clockTo t s
  if s.life.state = .departReq ∧ s.life.descent = .idle ∧ departFired s = true then
    let s := (clearDeparture s).modLife fun l => { l with drainTimedOut := false }
    .next (flushLaunches (enterLife .draining s))
  else .next s

/-- No tile is inside a step, and no replay runs. -/
def stepsDone (s : State) : Bool :=
  match s.prog with
  | none => true
  | some p => p.replaying.isNone && (programTiles s p).all fun n =>
      let x := tileAt s n
      (x.atStep || x.endedAt.isSome) && x.quiet

/-- Every step, layer and collective that had started is complete, and no group is still being re-formed (R202). -/
def drained (s : State) : Bool :=
  stepsDone s && s.junc.layer.isNone &&
    s.coll.groups.all fun (_, x) => x.active.isNone && decide (x.state ≠ 3)

/-- The sled leaves each of its groups: LEAVE to the other members (R202, R842). -/
def leaveGroups (s : State) : State :=
  forEach (fun (gx : Nat × Group) s =>
    if gx.2.state = 0 then s
    else makeDefined gx.1 3 (engineToAll gx.1 0x87 gx.2.epoch 0 [] gx.2.members s)) s.coll.groups s

/-- The drain ends in LEFT, with a sweep where R204 asks for one (R204, R1010). -/
def leaveAfterDrain (s : State) : State :=
  enterLeft (decide (s.life.departCode = 2) || decide (objAt s 0x3014 0 = 1)) s

/-- The drain is complete (R180, R202); a full reset has abandoned it (R217). -/
def execDrainComplete (t : Nat) (s : State) : Out :=
  let s := clockTo t s
  if s.life.state = .draining ∧ s.life.descent = .idle ∧ drained s = true then .next (leaveAfterDrain (leaveGroups s)) else .next s

/-- DRAINING has lasted object 0x3013:00 (R203). -/
def execDrainTimeout (t : Nat) (s : State) : Out :=
  let s := clockTo t s
  if s.life.state = .draining ∧ s.life.descent = .idle ∧ s.life.since + 1000000 * objAt s 0x3013 0 ≤ s.now then
    let s := sendNotice 0x3003 s.rb.cycle (abortAtStep 0x3003 0 s)
    let s := count 0x3030 8 1 (s.modLife fun l => { l with drainTimedOut := true, lastCause := 0x3003 })
    .next (leaveAfterDrain s)
  else .next s

/-! ### The start paths (R184 to R192, R218, R1042 to R1044) -/

/-- Passing tiles and stacks that a verdict records, and its bridge bit (R1040). -/
def verdictTiles (v : List Byte) : Nat := field v 64 20
def verdictStacks (v : List Byte) : Nat := field v 84 1
def verdictBridge (v : List Byte) : Bool := bit (field v 22 2) 0

/-- The start takes the quick path (R185, R1042 to R1044). -/
def quickPath (s : State) : Bool :=
  let v := s.sweep.verdict
  s.sweep.fresh && verdictValid v && decide (objAt s 0x3024 0 = 0) && ((v.drop 24).take 32 == padTo Config.fuseDigest 32) &&
    decide (72 ≤ countTo 160 (bit (verdictTiles v))) && decide (4 ≤ countTo 8 (bit (verdictStacks v))) && verdictBridge v

/-- Every tile that is not fused off has its control store loaded from the station image that runs, and waits at 0x004 (R615,
R616, R618). -/
def loadTiles (s : State) : State :=
  let image := if s.kiosk.stationBank = 2 then s.kiosk.stationB.data else s.kiosk.stationA.data
  forEach (fun n s => if Config.fusedOff n then s else modTile n (fun x => { x with loaded := true, upc := 4 }) s)
    (List.range 160) (s.modTiers fun x => { x with control := (Config.microSection image).take 81920 })

/-- Entry into VERDICT (R186, R189, R190, R616, R638, R945, R954). -/
def enterVerdict (s : State) : State :=
  let path := if quickPath s then 1 else 2
  let keep := s.life.fromHeld && decide (objAt s 0x3023 0 = 1)
  let s := count 0x3030 path 1 (enterLife .verdict s)
  let s := s.modLife fun l => { l with startPath := path, cellarRetained := keep }
  let s : State := { s with
    hbm := [], cellar := if keep then s.cellar else []
    sweep := { s.sweep with fresh := false }
    tiers := { s.tiers with
      hbmPoison := [], cellarPoison := if keep then s.tiers.cellarPoison else [], ecc := decide (objAt s 0x5800 0 = 1) } }
  loadTiles (fabricVerdict (s.modGov (enableGroup 5)))

/-- The station bank to load: of those that verify, the higher version, bank A on a tie, 0 for none; a bank written since the
entry into POWERED waits for the next one (R184, R286, R1139). -/
def pickStation (aOk bOk : Bool) (k : Kiosk) : Nat :=
  let fit (ok : Bool) (n : Nat) (x : Bank) : Bank := if bankVerifies ok x && decide (k.stationNew ≠ n) then x else voidBank x
  pickBank (fit aOk 1 k.stationA) (fit bOk 2 k.stationB)

/-- A station bank whose image fails its verification is invalid from then on (0x1310). -/
def voidStation (aOk bOk : Bool) (k : Kiosk) : Kiosk :=
  { k with
    stationA := if bankVerifies aOk k.stationA then k.stationA else voidBank k.stationA
    stationB := if bankVerifies bOk k.stationB then k.stationB else voidBank k.stationB }

/-- Station firmware, microcode and policy have been verified and loaded, or no bank holds a valid image (R184, R218).  `aOk` and
`bOk` say whether each bank still gives back what was written to it. -/
def execStationFwVerified (t : Nat) (s : State) (aOk bOk : Bool := true) : Out :=
  let s := clockTo t s
  if s.life.state ≠ .powered ∨ s.life.descent ≠ .idle ∨ suppliesUp s.gov = false then .next s
  else
    let bank := pickStation aOk bOk s.kiosk
    let s := s.modKiosk (voidStation aOk bOk)
    if bank = 0 then
      let s := fatalRecord 0x3006 utSled 0 s
      .next (enterLeft false (s.modLife fun l => { l with fwInvalid := true, fwWritten := false }))
    else
      let s := s.modKiosk fun k => { k with stationBank := bank, stationRunning := true }
      let s := s.modContain fun c => { c with
        cores := (List.range 4).foldl (fun t n => tabPut {} n { tabGet {} n t with beat := s.now } t) c.cores }
      let s := if s.sweep.fresh && !verdictValid s.sweep.verdict then
          noteRecord 0x300B utSled 0 (s.modSweep fun w => { w with fresh := false }) else s
      .next (enterVerdict s)

/-- What the start has found: passing units as bits, and the bridge. -/
structure Findings where
  tiles : Nat
  hbmStacks : Nat
  packages : Nat
  arrays : Nat
  bridge : Bool
  deriving DecidableEq, Repr

/-- Units 0 to n - 1 but the ones listed, as bits. -/
def allBut (n : Nat) (fails : List Nat) : Nat := passBits n fun u => !fails.contains u

/-- The verdict's findings on the quick path, the start-up test's on the slow path (R187). -/
def findings (s : State) (res : TestResults) : Findings :=
  let v := s.sweep.verdict
  if s.life.startPath = 1 then
    { tiles := verdictTiles v, hbmStacks := verdictStacks v, packages := field v 85 2, arrays := field v 87 4
      bridge := verdictBridge v }
  else
    { tiles := allBut 160 res.tiles, hbmStacks := allBut 8 res.hbm, packages := allBut 16 res.cellar
      arrays := allBut 32 res.arrays, bridge := !res.bridge }

/-- A slow path's test clears the run-time fence of every unit that it passes (R1066). -/
def clearTestedFences (f : Findings) (cores : List Nat) (s : State) : State :=
  let s : State := { s with tiles := s.tiles.foldl (fun t (n, x) =>
    tabPut {} n (if bit f.tiles n then { x with runFence := false } else x) t) [] }
  s.modContain fun c => { c with
    cores := c.cores.foldl (fun t (n, x) => tabPut {} n (if cores.contains n then x else { x with fenced := false }) t) []
    stackFences := passBits 8 fun u => bit c.stackFences u && !bit f.hbmStacks u
    cellarFences := passBits 16 fun u => bit c.cellarFences u && !bit f.packages u
    arrayFences := passBits 32 fun u => bit c.arrayFences u && !bit f.arrays u }

/-- The tile may be active or spare: not fused, passing, without a fence (R513). -/
def tileUsable (s : State) (f : Findings) (n : Nat) : Bool :=
  !Config.fusedOff n && bit f.tiles n && !(tileAt s n).runFence

/-- Usable tiles of the east and the west die, ascending (R514). -/
def usableEast (s : State) (f : Findings) : List Nat := (List.range 80).filter (tileUsable s f)
def usableWest (s : State) (f : Findings) : List Nat := ((List.range 80).map (80 + ·)).filter (tileUsable s f)

/-- Active tiles on the east die (R513). -/
def activeEast (uE uW : Nat) : Nat := min uE (max 72 (144 - uW))

/-- The active set: the lowest-numbered usable tiles of each die (R513, R514). -/
def activeSet (s : State) (f : Findings) : List Nat :=
  let e := usableEast s f
  let w := usableWest s f
  let qe := activeEast e.length w.length
  e.take qe ++ w.take (144 - qe)

/-- The state a tile takes at a start (R33, R187, R188, R514). -/
def startState (s : State) (f : Findings) (active : List Nat) (n : Nat) : TileState :=
  if Config.fusedOff n then .fused
  else if (tileAt s n).runFence then .fencedRun
  else if bit f.tiles n = false then .failedTest
  else if active.contains n then .active else .spare

/-- Every tile takes its state, and the active ones their logical indices (R514, R515). -/
def decideTiles (f : Findings) (s : State) : State :=
  let active := activeSet s f
  renumber { s with tiles := (List.range 160).foldl (fun t n =>
    tabPut {} n { tileAt s n with state := startState s f active n } t) [] }

/-- The address maps of the start: passing and unfenced stacks and packages, ascending (R519, R529, R530, R534). -/
def decideMemory (f : Findings) (s : State) : State :=
  let hbmStacks := (List.range 8).filter fun u => bit f.hbmStacks u && !bit s.contain.stackFences u
  let pkgs := (List.range 16).filter fun u => bit f.packages u && !bit s.contain.cellarFences u
  let keep := s.life.cellarRetained && decide (s.tiers.cellarCount = pkgs.length)
  let s := s.modTiers fun t => { t with
    hbmMap := hbmStacks, cellarMap := pkgs, cellarCount := pkgs.length
    hbmFailed := 255 - f.hbmStacks % 256, cellarFailed := 65535 - f.packages % 65536
    cellarPoison := if keep then t.cellarPoison else [] }
  let s : State := { s with cellar := if keep then s.cellar else [] }
  s.modLife fun l => { l with cellarRetained := keep }

/-- Arrays and their calibration: loaded from the verdict, or done by the test (R709 to R711). -/
def decideArrays (f : Findings) (s : State) : State :=
  let quick := decide (s.life.startPath = 1)
  let v := s.sweep.verdict
  forEach (fun n s => modArr n (fun a =>
    let cal := if quick then signed (field v (128 + 264 * n + 258) 2) 16 else a.temp
    let tr := if quick then padTo ((v.drop (128 + 264 * n)).take 258) 258 else calibrated s n
    if bit f.arrays n = true ∧ bit s.contain.arrayFences n = false then
      { temp := a.temp, state := .ready, calTemp := cal, trims := tr }
    else { temp := a.temp, trims := tr, state := if bit f.arrays n then .failedRecal else .failedSweep }) s) (List.range 32) s

/-- The active set is decided and memory initialised: TRAINING, or LEFT when the sled is unfit (R180, R187, R191). -/
def execVerdictComplete (t : Nat) (res : TestResults) (s : State) : Out :=
  let s := clockTo t s
  if s.life.state ≠ .verdict ∨ s.life.descent ≠ .idle then .next s
  else
    let f := findings s res
    let s := if s.life.startPath = 2 then clearTestedFences f res.cores s else s
    let s := decideArrays f (decideMemory f (decideTiles f s))
    if activeTiles s < 72 ∨ s.tiers.hbmMap.length < 4 ∨ f.bridge = false then
      let s := fatalRecord 0x3005 utSled 0 s
      .next (enterLeft false (s.modLife fun l => { l with unfit := true }))
    else
      let s := trainPorts (enterLife .training (s.modContain fun c => { c with memoryLost := false }))
      .next (if objAt s 0x8810 0 = 1 then askFullLoad s else s)

/-- Links are trained or given up: JOINED or DEGRADED, and the arrival is announced (R193 to R195). -/
def execTrainingComplete (t : Nat) (s : State) : Out :=
  let s := clockTo t s
  if s.life.state ≠ .training ∨ s.life.descent ≠ .idle ∨ s.links.ports.any (fun (_, a) => a.state = .training) = true then .next s
  else
    let s := enterLife (if fullCapability s then .joined else .degraded) s
    .next (noteRecord 0x3001 utSled 0 (sendNotice 0x3001 s.rb.cycle s))

/-! ### Resets (R209 to R214, R349, R405 to R409) -/

/-- A press that began in RESET_HELD is still going on: whether it will last over 2 s is not known before it ends, so the
package stays in reset until then (R209, R210; DEDUCED, log entry 123). -/
def pressedInReset (s : State) : Bool :=
  match s.life.press with
  | some (_, began) => decide (began = .resetHeld)
  | none => false

/-- A hold keeps the package in reset (R209, R210, R212, R408). -/
def resetHeldBy (s : State) : Bool :=
  s.pins.perst || s.pins.hotReset || s.life.btnHold || s.life.stuckHold || pressedInReset s

/-- The package has been held for 10 ms and no hold remains: released, or the switch opens (R150, R209). -/
def execResetHoldEnd (t : Nat) (s : State) : Out :=
  let s := clockTo t s
  if s.life.state ≠ .resetHeld ∨ s.life.descent ≠ .idle ∨ s.now < s.life.heldSince + 10000000 ∨ resetHeldBy s = true then .next s
  else if objAt s 0x3010 0 = 1 then .next (enterPowered true s)
  else .next (s.modLife fun l => { l with descent := .resetAsserted })

/-- A full reset is requested (R209). -/
def execFullResetRequest (t : Nat) (s : State) : Out := .next (beginFullReset (clockTo t s))

/-- PERST_N is asserted: after 100 µs with the package running, a full reset (R209, R409). -/
def execPerstAssert (t heldNs : Nat) (s : State) : Out :=
  let s := (clockTo t s).modPins fun p => { p with perst := true }
  if 100000 ≤ heldNs ∧ packageRuns s = true then .next (beginFullReset s) else .next s

/-- PERST_N deasserts: in a powered state the endpoint starts link training (R349). -/
def execPerstDeassert (t : Nat) (s : State) : Out :=
  let s := (clockTo t s).modPins fun p => { p with perst := false }
  if packageRuns s then .next (startEndpoint s) else .next s

/-- The data link goes down (R405 to R407, R543). -/
def execHostLinkDown (t : Nat) (s : State) : Out :=
  let s := clockTo t s
  if packageRuns s = false ∨ s.host.linkUp = false then .next s
  else
    let s := count 0xA020 5 1 (endMailboxSession (s.modHost fun h => { h with
      linkUp := false, ready := false, linkWidth := 0, linkRate := 0 }))
    let s := setObj 0x5105 0 0 s
    .next (if objAt s 0xA011 0 = 1 then beginFullReset s else dropHostQueues (noteRecord 0xA006 utHost 0 s))

/-- A Hot Reset from the link partner (R408). -/
def execHotReset (t : Nat) (s : State) : Out :=
  let s := clockTo t s
  if packageRuns s = true ∧ s.host.linkUp = true then
    .next (beginFullReset (s.modPins fun p => { p with hotReset := true }))
  else .next s

/-- The link leaves Hot Reset (R408). -/
def execHotResetExit (t : Nat) (s : State) : Out :=
  .next ((clockTo t s).modPins fun p => { p with hotReset := false })

/-! ### The button (R210 to R214) -/

/-- The press has been going on for `ns`: it is still down. -/
def pressLasts (s : State) (ns : Nat) : Bool :=
  match s.life.press with
  | some (a, _) => s.pins.btn && decide (a + ns ≤ s.now)
  | none => false

/-- RESET_BTN_N becomes asserted: a press begins, or one that a short deassertion did not end goes on (R210, R213). -/
def execResetBtnPress (t : Nat) (s : State) : Out :=
  let s := clockTo t s
  if s.pins.btn then .next s
  else
    let s := s.modPins fun p => { p with btn := true }
    if s.life.state = .absent then .next s
    else if s.life.override then .next (count 0x3030 4 1 s)
    else .next (settle (s.modLife fun l => { l with
      press := some (match l.press with | some x => x | none => (s.now, l.state))
      pressActed := l.pressActed && l.press.isSome, releasedSince := none }))

/-- A press of 2 s takes its effect by the state in which it began (R210). -/
def longPress (s : State) (began : LifeState) : State :=
  if resettable began then
    beginFullReset (s.modLife fun l => { l with pressActed := true, btnHold := true })
  else match began with
    | .resetHeld | .standby | .off | .precharge => s.modLife fun l => { l with pressActed := true, btnHold := true }
    | _ => s

/-- A press reaches 2 s (R210). -/
def execResetBtnHold (t : Nat) (s : State) : Out :=
  let s := clockTo t s
  match s.life.press with
  | some (_, began) =>
    if pressLasts s 2000000000 = true ∧ s.life.pressActed = false ∧ s.life.override = false then .next (settle (longPress s began))
    else .next s
  | none => .next s

/-- A press ends: the line has been deasserted for 10 ms.  A press of 50 ms to 2 s that began in a state from POWERED to
SWEEP begins a full reset; one without effect is counted (R210). -/
def endPress (began : LifeState) (len : Nat) (s : State) : State :=
  let acted := s.life.pressActed
  let s := s.modLife fun l => { l with press := none, pressActed := false, btnHold := false }
  if acted then s
  else if 50000000 ≤ len ∧ resettable began = true ∧ resettable s.life.state = true ∧ s.life.descent ≠ .toReset then beginFullReset s
  else count 0x3030 4 1 s

/-- The line has been deasserted for 10 ms (R210, R213). -/
def execResetBtnRelease (t : Nat) (s : State) : Out :=
  let s := clockTo t s
  if s.life.state = .absent then .next (s.modPins fun p => { p with btn := false })
  else if s.pins.btn = false then .next s
  else
    let s := (s.modPins fun p => { p with btn := false }).modLife fun l => { l with releasedSince := some (s.now - 10000000) }
    match s.life.press with
    | some (a, began) => .next (settle (endPress began (s.now - 10000000 - a) s))
    | none => .next (settle s)

/-- A press reaches 30 s: the button is stuck (R211). -/
def execResetStuck (t : Nat) (s : State) : Out :=
  let s := clockTo t s
  match s.life.press with
  | some (_, began) =>
    if pressLasts s 30000000000 = true ∧ s.life.stuck = false ∧ s.life.override = false ∧ began ≠ .curfew then
      let s := record { cause := 0x3007, cls := 2, unitType := utButton, unit := 0 } (count 0x3030 5 1 s)
      .next (settle (s.modLife fun l => { l with stuck := true, stuckHold := true, pressActed := true }))
    else .next s
  | none => .next s

/-- The line has stayed deasserted for 1 s (R214). -/
def execResetStuckClear (t : Nat) (s : State) : Out :=
  let s := clockTo t s
  if s.pins.btn = false ∧ lasted s s.life.releasedSince 1000000000 = true then
    .next (s.modLife fun l => { l with stuck := false })
  else .next s

end Sys2Proof.Machine
end

