-- ==== Sys2Proof/Machine/Scrub.lean ====
section
/-! DEFINITION. The scrubbers (chapter 18): passes, frames, corrections, fences, reloads and suspicion. -/

namespace Sys2Proof.Machine

/-- A lot that the scrubber reads: IN_SERVICE, or UNWATCHED for a suspect scrubber (R996, R997, R1004). -/
def scrubbed (s : State) (l : Nat) : Bool :=
  decide ((lotAt s l).state = .inService) ||
    ((chipAt s (l / 4)).suspect && decide ((lotAt s l).state = .unwatched))

/-- The scrubber becomes suspect (R1003, R1004). -/
def becomeSuspect (c : Nat) (s : State) : State :=
  if (chipAt s c).suspect then s
  else
    let s := modChip c (fun x => { x with suspect := true }) s
    let s := record { cause := 0x8014, cls := 2, unitType := utLot, unit := 4 * c } s
    forEach (fun l s => modLot l (fun x => if x.state = .inService then { x with state := .unwatched } else x) s)
      (chipLots c) s

/-- A pass starts with the sentinel frame (R996, R1003). -/
def execScrubPassStart (t : Nat) (chip : Fin 4) (sentinelOk : Bool) (s : State) : Out :=
  let s := clockTo t s
  let c := chip.val
  let due := match (chipAt s c).passAt with
    | some a => decide (a + 40000000 ≤ s.now)
    | none => true
  if packageRuns s = false ∨ dropping s = true ∨ due = false then .next s
  else
    let s := count 0x8831 (c + 1) 1 s
    let s := if sentinelOk then s else becomeSuspect c (count 0x8840 9 1 s)
    .next (modChip c (fun x => { x with
      passAt := some s.now, passLots := (chipLots c).filter (scrubbed s), passFrame := 0 }) s)

/-- Flipping one configuration bit of a frame. -/
def flipBit (l f i : Nat) (s : State) : State :=
  modLot l (fun x =>
    let a := 512 * f + i % 4096 / 8
    { x with config := memPut x.config a (memGet x.config a ^^^ BitVec.ofNat 8 (2 ^ (i % 8))) }) s

/-- A frame matches its golden entry by CRC (R998). -/
def frameMatches (x : Lot) (f : Nat) : Bool := decide (frameCrc f (frameData x f) = tabGet 0 f x.goldenCrc)

/-- Syndrome and parity of a frame against its golden entry. -/
def frameSyndrome (x : Lot) (f : Nat) : Nat := frameCheck (frameData x f) ^^^ tabGet 0 f x.goldenCheck

/-- The scrubber fences a lot (R998, R1001). -/
def scrubFence (l cause : Nat) (s : State) : State :=
  let s := record { cause := cause, cls := 2, unitType := utLot, unit := l } s
  count 0x8840 6 1 (fenceLot l cause s)

/-- An uncorrectable mismatch (R998). -/
def scrubUncorrectable (l : Nat) (s : State) : State :=
  let s := scrubFence l 0x8012 (count 0x8840 4 1 s)
  if objAt s 0x8813 (l + 1) = 1 then
    runLotCommand l (modLot l (fun x => { x with policyReload := true }) (count 0x8840 5 1 s))
  else s

/-- A mismatch under the lot's policy (R998, R999). -/
def scrubMismatch (l f : Nat) (s : State) : State :=
  let d := frameSyndrome (lotAt s l) f
  let syn := d % 8192
  if syn = 0 ∨ d / 8192 % 2 = 0 then scrubUncorrectable l s
  else if objAt s 0x8813 (l + 1) = 2 then scrubFence l 0x8011 s
  else if 4096 < syn then scrubUncorrectable l s
  else
    let s := flipBit l f (syn - 1) s
    if frameMatches (lotAt s l) f then
      count 0x8840 3 1 (record { cause := 0x8013, cls := 1, unitType := utLot, unit := l } s)
    else scrubUncorrectable l s

/-- The lots of the pass from the first that is still read (R997). -/
def passRest (s : State) : List Nat → Nat → List Nat × Nat
  | [], _ => ([], 0)
  | l :: ls, f => if scrubbed s l = true ∧ f < 3328 then (l :: ls, f) else passRest s ls 0

/-- The next frame of the pass is read; `flips` are the bits that upsets changed in it since (R996 to R1000, R1004). -/
def execScrubFrameRead (t : Nat) (chip : Fin 4) (flips : List Nat) (s : State) : Out :=
  let s := clockTo t s
  let c := chip.val
  if packageRuns s = false ∨ dropping s = true then .next s
  else
    let (ls, f) := passRest s (chipAt s c).passLots (chipAt s c).passFrame
    match ls with
    | [] => .next (modChip c (fun x => { x with passLots := [], passFrame := 0 }) s)
    | l :: _ =>
      let s := modChip c (fun x => { x with passLots := ls, passFrame := f + 1 }) s
      let s := forEach (fun i s => flipBit l f i s) flips s
      if frameMatches (lotAt s l) f then .next s
      else
        let s := count 0x8841 (l + 1) 1 s
        if (chipAt s c).suspect then .next s else .next (scrubMismatch l f s)

/-- Upsets of the scrubber's own table and registers (R1002, R1003). -/
def execVoteRestore (t : Nat) (chip : Fin 4) (upset : ScrubUpset) (s : State) : Out :=
  let s := clockTo t s
  let c := chip.val
  if packageRuns s = false ∨ dropping s = true ∨ (chipAt s c).suspect = true then .next s
  else match upset with
    | .goldenSingle => .next (count 0x8840 7 1 s)
    | .voteOne => .next (count 0x8840 8 1 s)
    | .goldenDouble => .next (becomeSuspect c s)
    | .voteSplit => .next (becomeSuspect c s)

/-- Object 0x8830 (R1004). -/
def scrubberState (s : State) (c : Nat) : Nat :=
  if (chipAt s c).suspect then 2
  else if (chipLots c).any fun l => decide ((lotAt s l).state = .inService) then 1 else 0

end Sys2Proof.Machine
end

