-- ==== Sys2Proof/Machine/Objects.lean ====
section
/-! DEFINITION. What each object reads, which writes each refuses, and what a write does (the object tables of every chapter,
R219 to R243). -/

namespace Sys2Proof.Machine

/-! ### Values that read-only entries report -/

/-- Object 0x2007:00: the pending negative D, saturating, in 32-bit two's complement (R103). -/
def deltaValue (r : Roundabout) : Nat :=
  if r.pendingNeg = 0 then 0 else 2 ^ 32 - min r.pendingNeg (2 ^ 31)

/-- A signed value in two's complement of `w` bytes. -/
def twos (w : Nat) (v : Int) : Nat := leNat (intLe v w)

/-- The Roundabout's entries (chapter 02); a mean of four periods that is no whole number of 10 ns is rounded down (DESIGN
CHOICE, log entry 119). -/
def rbValue (s : State) (idx : Nat) : Option Nat :=
  match idx with
  | 0x2000 => some s.rb.state.code
  | 0x2001 => some (rbFlags s.rb)
  | 0x2002 => some s.rb.cycle
  | 0x2003 => some s.rb.phase
  | 0x2004 => some (s.rb.pEst4 / 4)
  | 0x2005 => some (twos 2 s.rb.err)
  | 0x2006 => some (min (s.rb.freewheelTicks / 4096) (2 ^ 32 - 1))
  | 0x2007 => some (deltaValue s.rb)
  | _ => none

/-- Mean of the last voltage samples in 10 mV (0x2102:00). -/
def meanVolts (g : Governor) : Nat := g.volts.foldl (· + ·) 0 / (10 * max 1 g.volts.length)

/-- The governor's entries (chapter 03); p16, A, ceiling and floor show whole watts, rounded down (DESIGN CHOICE, log entry 116). -/
def govValue (s : State) (idx : Nat) : Option Nat :=
  match idx with
  | 0x2100 => some s.gov.state.code
  | 0x2101 => some (govFlags s)
  | 0x2102 => some (meanVolts s.gov)
  | 0x2103 => some (p16Sum s.gov / 16000)
  | 0x2104 => some (s.gov.aMw / 1000)
  | 0x2105 => some (s.gov.ceilMw / 1000)
  | 0x2106 => some (s.gov.floorMw / 1000)
  | 0x2107 => some s.gov.ballast
  | 0x2108 => some s.gov.clock
  | _ => none

/-- LIFE_FLAGS (0x3001:00). -/
def lifeFlags (s : State) : Nat :=
  let inhibited := decide (s.life.state = .off) || (decide (s.life.state = .standby) && !startConditions s)
  flag s.prog.isSome 9 + flag s.life.latchOpen 8 + flag (!s.gov.switchClosed) 7 + flag s.life.override 6 +
    flag s.life.stuck 5 + flag s.pins.btn 4 + flag s.life.cellarRetained 3 + flag s.sweep.fresh 2 + flag inhibited 1 +
    flag s.life.drainTimedOut 0

/-- The entries of life states and of the sweep (chapters 04 and 19). -/
def lifeValue (s : State) (idx : Nat) : Option Nat :=
  match idx with
  | 0x3000 => some s.life.state.code
  | 0x3001 => some (lifeFlags s)
  | 0x3002 => some s.life.lastCause
  | 0x3003 => some s.life.startPath
  | 0x3004 => some (min (elapsed s s.life.since / 1000000) (2 ^ 32 - 1))
  | 0x3015 => some s.life.departCycle
  | 0x3100 => some s.sweep.stage.code
  | 0x3101 => some s.sweep.phase
  | 0x3102 => some s.sweep.outcome
  | 0x3103 => some s.sweep.cause
  | 0x3106 => some s.sweep.slotCycle
  | _ => none

/-- A bank of a kind; an empty one where no bank is named. -/
def bankOf (k : Kiosk) (kind bank : Nat) : Bank :=
  match kind, bank with
  | 1, 1 => k.stationA | 1, 2 => k.stationB | 2, 1 => k.kioskA | 2, 2 => k.kioskB | 3, 1 => k.policyA | 3, 2 => k.policyB
  | _, _ => {}

/-- Object 0x1008: versions of what runs (log entry 5). -/
def versionValue (s : State) (sub : Nat) : Nat :=
  let k := s.kiosk
  match sub with
  | 1 => (bankOf k 2 k.kioskBank).version
  | 2 | 3 => if k.stationRunning then (bankOf k 1 k.stationBank).version else 0
  | 4 => (bankOf k 3 k.policyBank).version
  | _ => 0

/-- NET_FLAGS (0x1201:00). -/
def netFlags (s : State) : Nat :=
  let n := s.net
  flag (segmentKey s).isSome 5 + flag n.plca 4 + flag n.beaconLost 3 + flag n.beaconMissed 2 + flag n.nodeIdInvalid 1 +
    flag n.duplicate 0

/-- The kiosk's own entries and those of the field network (chapters 05 and 06). -/
def kioskValue (s : State) (idx sub : Nat) : Option Nat :=
  match idx with
  | 0x1003 => some Config.eui64
  | 0x1005 => some Config.manufactureDay
  | 0x1008 => if sub = 5 then none else some (versionValue s sub)
  | 0x100A => some s.pins.slotAddr
  | 0x1104 => some (s.kiosk.staging.elim 0 fun g => g.key / 256)
  | 0x1105 => some (s.kiosk.staging.elim 0 fun g => g.data.length)
  | 0x1120 => some (sessionsIn s 2 + if s.kiosk.mbSession = 0 then 0 else 1)
  | 0x1310 => some (bankOf s.kiosk ((sub + 1) / 2) ((sub + 1) % 2 + 1)).version
  | 0x1200 => some (t1sState s)
  | 0x1201 => some (netFlags s)
  | 0x1202 => some s.net.nodeId
  | 0x1240 => some (if s.net.state = .coordinator then s.net.membership else 0)
  | 0x1241 => some s.net.coordinatorEui
  | _ => none

/-- The host interface's entries (chapter 07). -/
def hostValue (s : State) (idx : Nat) : Option Nat :=
  match idx with
  | 0xA001 => some (poolReserved s)
  | 0xA002 => some (poolInUse s)
  | 0xA003 => some (queuesEnabled s)
  | _ => none

/-- A tile's flag sets once every operation it has issued has retired (R503, object 0x4100). -/
def flagsAfter (n : Fin 160) : Nat → State → Nat
  | 0, s => (tileAt s n.val).flags
  | k + 1, s =>
    match execEngineOperationComplete s.now n s with
    | .next s' => flagsAfter n k s'
    | _ => (tileAt s n.val).flags

/-- Object 0x4100 for a tile. -/
def tileFlags (s : State) (n : Nat) : Nat :=
  if h : n < 160 then flagsAfter ⟨n, h⟩ (tileAt s n).ops.length s else 0

/-- State of a memory unit: 2 outside the map of the last start, 1 fenced, 0 in use (objects 0x5020, 0x5030). -/
def memUnitState (map : List Nat) (fences n : Nat) : Nat := if map.contains n then (if bit fences n then 1 else 0) else 2

/-- Arena pages of the program in a tier: HBM, cellar, host, peers (object 0x5110). -/
def arenaPages (s : State) (tier : Nat) : Nat :=
  match s.prog with
  | none => 0
  | some p => (p.arena.filter fun l => match l, tier with
      | .hbm _, 1 | .cellar _, 2 | .host _, 3 | .peer _ _, 4 => true
      | _, _ => false).length

/-- A start has decided the active set; before that the entries read their defaults (R187, R237). -/
def tilesDecided (s : State) : Bool := s.tiles.any fun (_, x) => decide (x.state ≠ .fused)

/-- The entries of tiles, memory and microcode (chapters 09 to 12). -/
def tileValue (s : State) (idx sub : Nat) : Option Nat :=
  let x := tileAt s (sub - 1)
  match idx with
  | 0x4100 => some (tileFlags s (sub - 1))
  | 0x4101 => some s.tiers.lastFlags
  | 0x5000 => some (if tilesDecided s then activeTiles s else 144)
  | 0x5001 => some (if tilesDecided s = false then 16 else (s.tiles.filter fun (_, y) => y.state = .spare && !y.runFence).length)
  | 0x5010 => some x.state.code
  | 0x5011 => some (if x.runFence then 1 else 0)
  | 0x5012 => some (if x.state = .active then x.logical else 0xFF)
  | 0x5020 => some (memUnitState s.tiers.hbmMap s.contain.stackFences (sub - 1))
  | 0x5030 => some (memUnitState s.tiers.cellarMap s.contain.cellarFences (sub - 1))
  | 0x5040 => some (hbmPages s)
  | 0x5041 => some (cellarPages s)
  | 0x5110 => some (arenaPages s sub)
  | 0x5803 => some (if s.tiers.ecc then 1 else 0)
  | 0x5810 => some x.lastCheck
  | _ => none

/-- The entries of the Junction and the arrays (chapters 13 and 14). -/
def juncValue (s : State) (idx sub : Nat) : Option Nat :=
  let a := arrAt s (sub - 1)
  match idx with
  | 0x6000 => some (junctionStage s)
  | 0x6001 => some (layersWaiting s)
  | 0x6021 => some (tapState s (sub - 1))
  | 0x6030 => some s.junc.flags
  | 0x6800 => some (usableArrays s)
  | 0x6801 => some a.state.code
  | 0x6802 => some (twos 2 a.temp)
  | 0x6803 => some (twos 2 a.calTemp)
  | _ => none

/-- A group's live entries (chapter 16). -/
def groupValue (s : State) (g sub : Nat) : Option Nat :=
  let x := groupAt s g
  match sub with
  | 0x0B => some x.state
  | 0x0C => some x.cause
  | 0x0D => some x.epoch
  | 0x0E => some x.members.length
  | 0x0F => some (myRank s g)
  | 0x10 => some x.page
  | 0x11 => some x.queue
  | 0x12 => some x.adderFlags
  | _ => none

/-- The entries of links and collectives (chapters 15 and 16). -/
def linkValue (s : State) (idx sub : Nat) : Option Nat :=
  let a := portAt s (sub - 1)
  if 0x7400 ≤ idx ∧ idx ≤ 0x77FF then groupValue s (idx - 0x7400 + 1) sub
  else match idx with
    | 0x7000 => some (upPorts s)
    | 0x7020 => some a.state.code
    | 0x7021 => some (a.partner.elim 0xFFFFFFFF fun p => p.1 + 65536 * p.2)
    | 0x7022 => some a.width
    | 0x7802 => some (hamperChunks s)
    | 0x7803 => some (hamperReserved s)
    | 0x7805 => some (adderReserved s)
    | 0x7806 => some (s.coll.groups.filter fun (_, x) => x.state = 2).length
    | _ => none

/-- A reading of the environment now (log entry 41). -/
def reading (s : State) (idx sub : Nat) : Nat := Config.measured (objKey idx sub) s.now

/-- The fabric's entries (chapters 17 and 18); an entry that reads the environment is a free value (log entry 41). -/
def fabValue (s : State) (idx sub : Nat) : Option Nat :=
  let l := lotAt s (sub - 1)
  let b := bankAt s (sub - 1)
  match idx with
  | 0x8000 => some (chipAt s (sub - 1)).vdd
  | 0x8001 => some (reading s idx sub % 2 ^ 16)
  | 0x8002 => some (reading s idx sub % 2 ^ 16)
  | 0x8003 => some l.state.code
  | 0x8004 => some l.cause
  | 0x8021 => some b.state
  | 0x8022 => some (if b.state = 0 then 0 else reading s idx sub % 2 ^ 16)
  | 0x8024 => some (b.lock + 256 * b.overrun)
  | 0x8030 => some (controllerMode s (sub - 1))
  | 0x8031 => some (if controllerMode s (sub - 1) = 1 then reading s idx sub % 257 else (fifoAt s (sub - 1)).length)
  | 0x8042 => some (tabGet 0 (sub - 1) s.fab.probeLast)
  | 0x8802 => some l.design
  | 0x8820 => some (loadState s)
  | 0x8821 => some s.fab.loadError
  | 0x8822 => some s.fab.loadFrames
  | 0x8830 => some (scrubberState s (sub - 1))
  | _ => none

/-- The entries of containment (chapter 20). -/
def containValue (s : State) (idx sub : Nat) : Option Nat :=
  match idx, sub with
  | 0x9002, _ => some s.contain.lastCommitted
  | 0x9030, 1 => some s.contain.stackFences
  | 0x9030, 2 => some s.contain.cellarFences
  | 0x9030, 3 => some s.contain.arrayFences
  | 0x9030, 4 => some (sumTo 4 fun n => flag (tabGet {} n s.contain.cores).fenced n)
  | _, _ => none

/-- What a read-only entry reports beside counters and fixed values. -/
def liveValue (s : State) (idx sub : Nat) : Option Nat :=
  if idx < 0x2000 then kioskValue s idx sub
  else if idx < 0x2100 then rbValue s idx
  else if idx < 0x3000 then govValue s idx
  else if idx < 0x4000 then lifeValue s idx
  else if idx < 0x6000 then tileValue s idx sub
  else if idx < 0x7000 then juncValue s idx sub
  else if idx < 0x8000 then linkValue s idx sub
  else if idx < 0x9000 then fabValue s idx sub
  else if idx < 0xA000 then containValue s idx sub
  else hostValue s idx

/-- A read-write entry whose value the sled itself follows. -/
def followedValue (s : State) (idx sub : Nat) : Option Nat :=
  match idx with
  | 0x3011 => some s.life.departCode
  | 0x3021 => some (if s.life.override then 1 else 0)
  | 0x8811 => some (if s.fab.full || s.fab.fullWaits then 1 else 0)
  | 0x8812 => some (lotAt s (sub - 1)).cmd
  | _ => none

/-- The value a READ of a numeric entry returns. -/
def numValue (s : State) (e : Entry) (idx sub : Nat) : Nat :=
  if isCountEntry idx sub then e.dflt
  else if e.acc = .ro then (liveValue s idx sub).getD (e.dflt + counterAt s idx sub)
  else (followedValue s idx sub).getD (objAt s idx sub)

/-! ### Byte strings and DOMAINs -/

/-- A record's 64 bytes (R1053). -/
def recordBytes (r : LogRecord) : List Byte :=
  let b := natLe r.cause 2 ++ natLe r.cls 1 ++ natLe (flag r.summary 0) 1 ++ natLe r.unitType 1 ++ natLe r.subcause 1 ++
    natLe r.unit 2 ++ natLe r.sequence 4 ++ natLe r.tag 4 ++ natLe r.queue 2 ++ natLe r.sledAddress 2 ++ natLe r.cycle 6 ++
    natLe (r.phase % 4096) 2 ++ natLe r.life 1 ++ natLe 0 1 ++ natLe (min r.repeats 65535) 2 ++ natLe r.localNs 8 ++
    natLe r.detail0 8 ++ natLe r.detail1 8 ++ natLe r.detail2 4
  b ++ natLe (crc32c b) 4

/-- A log as its DOMAIN reads, oldest record first. -/
def logBytes (l : List LogRecord) : List Byte := l.flatMap recordBytes

/-- Object 0x9003:00: the newer of the two logs' newest records; zeros while both are empty. -/
def lastRecordBytes (s : State) : List Byte :=
  match s.contain.errorLog.getLast?, s.contain.eventLog.getLast? with
  | none, none => List.replicate 64 0
  | some a, none => recordBytes a
  | none, some b => recordBytes b
  | some a, some b => recordBytes (if serialNewer 32 a.sequence b.sequence then a else b)

/-- ASCII of a fixed string, filled to `n` bytes. -/
def ascii (t : String) (n : Nat) : List Byte := padTo (t.toList.map fun c => BitVec.ofNat 8 c.toNat) n

/-- The value of a byte-string entry, at its full width. -/
def strValue (s : State) (e : Entry) (idx sub : Nat) : List Byte :=
  let n := e.ty.width
  match idx with
  | 0x1001 => ascii "GV8640" n
  | 0x1002 => padTo Config.serialNumber n
  | 0x1004 => padTo Config.identityKey n
  | 0xF001 => ascii "B1" n
  | 0x9003 => lastRecordBytes s
  | 0x1222 => padTo (credentialKey s sub) n
  | _ => padTo (strAt s idx sub) n

/-- The present content of a DOMAIN that can be read. -/
def domainValue (s : State) (idx sub : Nat) : List Byte :=
  match idx with
  | 0x3104 => s.sweep.verdict
  | 0x9000 => logBytes s.contain.errorLog
  | 0x9001 => logBytes s.contain.eventLog
  | _ =>
    if sub = 0x15 then
      let g := idx - 0x7400 + 1
      if (groupAt s g).state = 0 then [] else memberMap s g (groupAt s g).members
    else strAt s idx sub

/-- What a READ returns (R223). -/
def readEntry (s : State) (e : Entry) (idx sub : Nat) : List Byte :=
  if e.ty.isBytes then strValue s e idx sub else natLe (numValue s e idx sub) e.ty.width

/-- A READ of SER_LANE_STATUS clears its OVERRUN bits. -/
def afterRead (idx sub : Nat) (s : State) : State :=
  if idx = 0x8024 ∧ 1 ≤ sub then modBank (sub - 1) (fun b => { b with overrun := 0 }) s else s

/-- DESCRIBE (R249). -/
def describe (e : Entry) (idx sub : Nat) : List Byte :=
  natLe e.ty.code 1 ++ natLe e.acc.code 1 ++
    natLe (flag e.saved 0 + flag e.auth 1 + flag (packageHeld idx sub) 2) 1 ++ natLe 0 1 ++ natLe e.ty.width 4

/-- A package-held entry reads only in VERDICT to LEFT (R236). -/
def heldReadable (s : State) : Bool :=
  match s.life.state with
  | .verdict | .training | .joined | .running | .degraded | .departReq | .draining | .left => true
  | _ => false

/-! ### Ranges (R224 to R227) -/

/-- A VISIBLE_STRING's bytes are printable up to the first 0x00, and zero from there on (R225). -/
def visibleOk : List Byte → Bool
  | [] => true
  | b :: t => if b = 0 then t.all (fun c => c == 0) else decide (0x20 ≤ b.toNat) && decide (b.toNat ≤ 0x7E) && visibleOk t

/-- Skip distance limits of every configured skip under given extents (R1138). -/
def skipOk (word extentOf : Nat) : Bool :=
  decide (word % 4 ≠ 2) || (decide (2 ≤ bits word 8 5) && decide (bits word 8 5 ≤ extentOf / 2))

/-- The range of an entry that is no interval, or that depends on other entries; none where the row's interval is all. -/
def specialRange (s : State) (idx sub v : Nat) : Option Bool :=
  let oneOf (l : List Nat) : Option Bool := some (l.contains v)
  let orLast (hi last : Nat) : Option Bool := some (decide (v ≤ hi) || decide (v = last))
  match idx with
  | 0x1210 => orLast 31 0xFF
  | 0x2117 => oneOf [1200, 1400, 1600, 1800]
  | 0x3110 => orLast 63 0xFF
  | 0x3111 => some (decide (v * objAt s 0x3112 0 ≤ 256))
  | 0x3112 => some (decide (objAt s 0x3111 0 * v ≤ 256))
  | 0x5100 => some (decide (v ≤ hbmPages s) && decide (objAt s 0x5106 0 ≤ hbmPages s - v))
  | 0x5101 => some (decide (v ≤ cellarPages s))
  | 0x5104 => some (decide (v % pageBytes = 0))
  | 0x5106 => some (decide (v ≤ hbmPages s - objAt s 0x5100 0))
  | 0x6020 => orLast 15 0xFF
  | 0x6812 => some (decide (v = 0) || (decide (100 ≤ v) && decide (v ≤ 3600000)))
  | 0x7002 => some ((List.range 8).all fun i =>
      let w := objAt s 0x7010 (i + 1)
      decide (bits w 4 2 / 2 + 1 ≠ sub) || skipOk w v)
  | 0x7010 => some (decide (v % 4 ≠ 3) && decide (v < 512) && skipOk v (extent s (bits v 4 2 / 2)))
  | 0x7801 => oneOf [16, 32, 64, 128]
  | 0x8020 => some (decide (v ≤ 0x0E))
  | 0x8032 => orLast 4063 0xFFFF
  | 0x8040 => some (decide (v % 2 ^ 15 < 24576) && decide (v < 2 ^ 17))
  | 0xA010 => oneOf [1, 2, 4, 8, 16, 32, 64, 128, 256]
  | _ => if 0x7100 ≤ idx ∧ idx ≤ 0x710F ∧ sub = 1 then some (decide (v ≤ 4)) else none

/-- An unsigned field whose byte order a cited standard gives, most significant byte first (R17). -/
def standardNat (bs : List Byte) : Nat := leNat bs.reverse

/-- The prime and the constant of the curve P-384, as its standard gives them. -/
def p384Prime : Nat := 2 ^ 384 - 2 ^ 128 - 2 ^ 96 + 2 ^ 32 - 1
def p384B : Nat :=
  0xb3312fa7e23ee7e4988e056be3f82d19181d9c6efe8141120314088f5013875ac656398d8a2ed19d2a85c8edd3ec2aef

/-- An uncompressed P-384 point: the byte 4, then X and Y of a point of the curve as the standard orders their bytes (R17,
0x8803; DEDUCED, log entry 126). -/
def p384Point (bs : List Byte) : Bool :=
  let x := standardNat ((bs.drop 1).take 48)
  let y := standardNat ((bs.drop 49).take 48)
  decide (field bs 0 1 = 4) && decide (x < p384Prime) && decide (y < p384Prime) &&
    decide ((y * y + 3 * x) % p384Prime = (x * x * x + p384B) % p384Prime)

/-- A signer's key: a point, or all zeros, which disables the entry (0x8803). -/
def signerKeyOk (bs : List Byte) : Bool := bs.all (· = 0) || p384Point bs

/-- A WRITE's bytes lie in the entry's range and encoding (R224 to R227). -/
def inRange (s : State) (e : Entry) (idx sub : Nat) (bs : List Byte) : Bool :=
  let v := leNat bs
  match e.ty with
  | .string _ => visibleOk bs
  | .octets _ => if idx = 0x8803 then signerKeyOk bs else true
  | .real32 => decide (bits v 30 23 ≠ 255)
  | _ => decide (e.lo ≤ v) && decide (v ≤ e.hi) && decide (v % e.mult = 0) && (specialRange s idx sub v).getD true

/-! ### Writes refused in the present state -/

/-- The cause with which an ARM of a DEFINED group is refused, 0 when every check of R837 passes. -/
def armCause (s : State) (g : Nat) : Nat :=
  let ms := definedMembers s g
  let member := match s.life.state with | .joined | .running | .degraded => true | _ => false
  if member = false ∨ sledAddress s = 0xFFFF then 1
  else if (List.range 4).any (fun a => decide (extent s a < groupExtent s g a)) = true ∨ groupObj s g 3 < 2 ∨
      5 < groupObj s g 3 ∨ groupObj s g 5 < groupObj s g 4 then 2
  else if ms.contains (sledAddress s) = false then 3
  else if ms.length < 2 then 4
  else if (freeQueue s).isNone = true then 5
  else if 16384 < poolReserved s + 4 then 6
  else if hamperChunks s < hamperReserved s + groupObj s g 4 then 7
  else if 32768 < adderReserved s + groupObj s g 8 then 8
  else if freeHbm s 1 = [] then 9
  else 0

/-- A collective of the group is RUNNING or DRAINING. -/
def collBusy (x : Group) : Bool := x.colls.any fun c => decide (c.state ≠ .armed)

/-- A group is not DEFINED. -/
def anyGroupArmed (s : State) : Bool := s.coll.groups.any fun (_, x) => decide (x.state ≠ 0)

/-- STATE_CONFLICT or BUSY of a write to a group's entry (R837, R842, R894, the table of the collective objects). -/
def groupConflict (s : State) (g sub v : Nat) : Nat :=
  let x := groupAt s g
  if sub = 0x0A then
    if v = 1 then (if x.state = 0 ∧ armCause s g ≠ 0 then 8 else 0)
    else if v = 2 then (if x.state = 3 ∧ x.released = false then 0 else 8)
    else if collBusy x then 8 else 0
  else if (sub ≤ 8 ∨ sub = 0x14) ∧ x.state ≠ 0 then 8
  else 0

/-- STATE_CONFLICT or BUSY of a write to LOT_COMMAND (R984, R985, the text after R993). -/
def lotConflict (s : State) (l v : Nat) : Nat :=
  let x := lotAt s l
  if v = 1 ∧ s.fab.cfgErr = true then 8
  else if v = 3 ∧ x.state ≠ .held then 8
  else if v = 4 ∧ x.state ≠ .held ∧ x.state ≠ .fenced then 8
  else if x.cmd ≠ 0 then 0x0C
  else 0

/-- A write of 0 to DEPART_REQUEST comes after the instant (R201). -/
def departPassed (s : State) : Bool :=
  if s.life.state = .departReq then instantReached s.rb.cycle s.rb.phase s.life.departCycle 0
  else decide (s.life.departCode ≠ 0)

/-- Pages that a larger lend region would take and that are in use (R548). -/
def lendConflict (s : State) (v : Nat) : Bool :=
  !s.tiers.lent.isEmpty ||
    s.tiers.hbmUsed.any fun (p, _) => decide (hbmPages s - v ≤ p) && decide (p < hbmPages s - objAt s 0x5106 0)

/-- The status with which a WRITE is refused in the present state: 8 STATE_CONFLICT, 0x0C BUSY, 0 none. -/
def writeConflict (s : State) (idx sub v : Nat) : Nat :=
  let conflict (b : Bool) : Nat := if b then 8 else 0
  if 0x7400 ≤ idx ∧ idx ≤ 0x77FF then groupConflict s (idx - 0x7400 + 1) sub v
  else match idx with
    | 0x1102 => conflict (decide (s.life.state ≠ .standby) && decide (s.life.state ≠ .off))
    | 0x2010 | 0x7001 | 0x7002 | 0x7010 => conflict (packagePowered s)
    | 0x3011 => conflict (decide (v = 0) && departPassed s)
    | 0x5100 | 0x5101 => conflict s.prog.isSome
    | 0x5104 | 0x5105 => conflict (!s.tiers.hostUsed.isEmpty)
    | 0x5106 => conflict (lendConflict s v)
    | 0x7800 | 0x7801 => conflict (anyGroupArmed s || s.prog.isSome)
    | 0x8032 => conflict (lotAt s ((sub - 1) / 8)).serves
    | 0x8812 => lotConflict s (sub - 1) v
    | _ => 0

/-! ### What a write does -/

/-- The group takes its resources and enters ARMING (R360, R373, R837, R844, R845, R872). -/
def armGroup (g : Nat) (s : State) : State :=
  match freeQueue s, freeHbm s 1 with
  | some q, p :: _ =>
    let page := p * pageBytes
    let s := hbmWrite (page + 0x6000) (natLe 0 8) (markHbm true [p] s)
    let s := modQueue q (fun x => freshQueue { x with
      ringBase := page + 1, cplBase := page + 0x4000 + 1, config := 0x14, slots := 4 + 65536 * 64, irq := 0, group := g }) s
    modGroup g (fun _ => { state := 1, members := definedMembers s g, page := page, queue := q, chunks := freeChunks s (groupObj s g 4), since := s.now, lastSent := s.now }) s
  | _, _ => s

/-- The group dissolves (R842, R843). -/
def dissolveGroup (g : Nat) (s : State) : State :=
  let x := groupAt s g
  if x.state = 0 then s
  else
    let s := forEach (fun c s => endCollective g c 1 0x7017 0 s) x.colls s
    makeDefined g x.cause (engineToAll g 0x87 x.epoch 0 [] x.members s)

/-- A held re-form goes on (R894). -/
def releaseReform (g : Nat) (s : State) : State :=
  judgeProposal g (sendReform g (modGroup g (fun x => { x with released := true }) s))

/-- A write to a group's ARM, REFORM_HOLD or ADDER_FLAGS_CLEAR (R837, R842, R872, R894). -/
def groupEffect (g sub v : Nat) (s : State) : State :=
  if sub = 0x0A then
    if v = 1 then (if (groupAt s g).state = 0 then armGroup g s else s)
    else if v = 2 then releaseReform g s
    else dissolveGroup g s
  else if sub = 9 then
    if v = 0 ∧ (groupAt s g).state = 3 ∧ (groupAt s g).released = false then releaseReform g s else s
  else if sub = 0x13 then modGroup g (fun x => { x with adderFlags := 0 }) s
  else s

/-- POWER_TARGET is written (R192, R198). -/
def writeTarget (v : Nat) (s : State) : State :=
  let s := match s.life.state with
    | .joined | .running | .degraded => if v = 0 then requestDeparture 1 s else s
    | _ => s
  let s := setObj 0x3010 0 v s
  s.modLife fun l => { l with
    unfit := false, fwInvalid := l.fwInvalid && !l.fwWritten, fwWritten := l.fwWritten && !l.fwInvalid }

/-- DEPART_REQUEST is written (R198, R201, R205). -/
def writeDepart (v : Nat) (s : State) : State :=
  if v ≠ 0 then requestDeparture v s
  else if s.life.state = .departReq ∧ s.life.descent = .idle then cancelDeparture s
  else s.modLife fun l => { l with departWaits := false }

/-- RESET_BTN_OVERRIDE is written (R212, R213).  A button that is down when the override ends is a press that begins then
(DESIGN CHOICE, log entry 124). -/
def writeOverride (v : Nat) (s : State) : State :=
  let s := setObj 0x3021 0 v s
  if v = 1 then s.modLife fun l => { l with
    override := true, press := none, pressActed := false, btnHold := false, stuckHold := false }
  else s.modLife fun l => { l with
    override := false
    press := if l.override && s.pins.btn then some (s.now, l.state) else l.press
    releasedSince := if l.override && s.pins.btn then none else l.releasedSince }

/-- PORT_ENABLE is written: the port is DISABLED, or may train (0x7020, R794). -/
def writePortEnable (p : Nat) (s : State) : State :=
  if linksRun s = false ∨ switchState s = false then s
  else if portDisabled s p then
    checkReach (modPort p (fun a => { a with state := .disabled, exchanging := false, width := 0, partner := none }) (reroute p s))
  else if (portAt s p).state ≠ .disabled then s
  else if mayTrain s p then startTraining p s
  else modPort p (fun a => { a with state := .noCable }) s

/-- FI_ARM is written: arming starts the counts and, with trigger 0, injection (R828). -/
def writeInjArm (p v : Nat) (s : State) : State :=
  if v = 0 then s
  else modPort p (fun a => { a with inj := { a.inj with begun := decide (injObj s p 5 = 0), matched := 0, injected := 0 } }) s

/-- FABRIC_LOAD and LOT_COMMAND act while the package runs (R984 to R990). -/
def writeLotCommand (l v : Nat) (s : State) : State :=
  if packageRuns s = false ∨ v = 0 then s else runLotCommand l (modLot l (fun x => { x with cmd := v }) s)

/-- Restoring defaults: every saved read-write entry in 0x2000 to 0xAFFF (R242, R243). -/
def restoreDefaults (s : State) : State :=
  let stays (k : Nat) : Bool := decide (k < 0x2000 * 256) || decide (0xB000 * 256 ≤ k) || !isSaved k
  s.modKiosk fun c => { c with
    objects := c.objects.filter fun (k, _) => stays k, strings := c.strings.filter fun (k, _) => stays k }

/-- Before the first lock P_est follows RB_NOMINAL_PERIOD (R72). -/
def followNominal (s : State) : State :=
  if s.rb.everLocked then s else s.modRb fun r => { r with pEst4 := 4 * objAt s 0x2012 0 }

/-- LOG_CLEAR empties the error log and zeroes the class counts (R1064). -/
def clearErrorLog (s : State) : State :=
  let s := s.modContain fun c => { c with errorLog := [] }
  forEach (fun n s => setCounter 0x9011 (n + 1) 0 s) (List.range 6) s

/-- What follows the new value of a numeric entry. -/
def writeEffect (idx sub v : Nat) (s : State) : State :=
  if 0x7400 ≤ idx ∧ idx ≤ 0x77FF then groupEffect (idx - 0x7400 + 1) sub v s
  else if 0x7100 ≤ idx ∧ idx ≤ 0x710F then (if sub = 8 then writeInjArm (idx - 0x7100) v s else s)
  else match idx with
    | 0x1210 => s.modNet fun n => { n with idWritten := true }
    | 0x1211 => s.modNet fun n => { n with fallbackWritten := true }
    | 0x2012 => followNominal s
    | 0x7011 => writePortEnable (sub - 1) s
    | 0x8040 => setCounter 0x8041 sub 0 s
    | _ => s

/-- A WRITE of a numeric entry. -/
def writeNum (idx sub v : Nat) (s : State) : State :=
  match idx with
  | 0x1102 => settle (followNominal (restoreDefaults s))
  | 0x3010 => settle (writeTarget v s)
  | 0x3011 => writeDepart v s
  | 0x3020 => if v = 1 ∧ resettable s.life.state = true then beginFullReset (setObj 0x3020 0 1 s) else s
  | 0x3021 => settle (writeOverride v s)
  | 0x8811 => if v = 1 ∧ packageRuns s = true then askFullLoad s else s
  | 0x8812 => writeLotCommand (sub - 1) v s
  | 0x9004 => clearErrorLog s
  | _ => writeEffect idx sub v (setObj idx sub v s)

/-- A WRITE that has passed its checks (R241); writing a byte string's present value changes nothing (R240). -/
def writeValue (e : Entry) (idx sub : Nat) (bs : List Byte) (s : State) : State :=
  if e.ty.isBytes then (if bs = strValue s e idx sub then s else setStr idx sub bs s)
  else writeNum idx sub (leNat bs) s

end Sys2Proof.Machine
end

