-- ==== Sys2Proof/Machine/Kiosk.lean ====
section
/-! DEFINITION. Transactions and the PCIe mailbox (chapter 05): a request is parsed, checked and applied whole, or refused;
staged DOMAINs are verified and committed. -/

namespace Sys2Proof.Machine

/-! ### Requests and replies (R244 to R250, R1142) -/

/-- Operation codes (the table after R245). -/
inductive OpKind where
  | read | write | readSeg | writeSeg | commit | abort | describe
  deriving DecidableEq, Repr

/-- The operation of a code; none for a reserved one. -/
def opKind (code : Nat) : Option OpKind :=
  match code with
  | 1 => some .read | 2 => some .write | 3 => some .readSeg | 4 => some .writeSeg | 5 => some .commit | 6 => some .abort
  | 7 => some .describe | _ => none

/-- The changing operations (R1141). -/
def OpKind.changing : OpKind → Bool
  | .write | .writeSeg | .commit | .abort => true
  | _ => false

/-- The operations that stand alone in a request (R250). -/
def OpKind.alone : OpKind → Bool
  | .writeSeg | .commit | .abort => true
  | _ => false

/-- An operation (R245). -/
structure Op where
  kind : OpKind
  idx : Nat
  sub : Nat
  offset : Nat
  length : Nat
  data : List Byte
  deriving DecidableEq, Repr

/-- `n` operations that fill the bytes exactly; none when a code is reserved or the lengths disagree (R245, R251). -/
def parseOps : Nat → List Byte → Option (List Op)
  | 0, bs => if bs = [] then some [] else none
  | n + 1, bs =>
    if bs.length < 12 then none
    else
      match opKind (field bs 0 1) with
      | none => none
      | some k =>
        let len := field bs 8 2
        let carries := decide (k = .write) || decide (k = .writeSeg)
        let size := if carries then (len + 3) / 4 * 4 else 0
        if bs.length < 12 + size then none
        else
          let o : Op := { kind := k, idx := field bs 2 2, sub := field bs 1 1, offset := field bs 4 4, length := len
                          data := if carries then (bs.drop 12).take len else [] }
          (parseOps n (bs.drop (12 + size))).map (o :: ·)

/-- Data bytes that an operation counts toward the reply (R251 step 2). -/
def replyCount (o : Op) : Nat :=
  match findEntry o.idx o.sub with
  | none => 0
  | some e =>
    match o.kind with
    | .read => if e.ty.isDomain then 0 else e.ty.width
    | .readSeg => o.length
    | .describe => 8
    | _ => 0

/-- The operations of a request, or none for BAD_REQUEST (R251 step 2). -/
def parseRequest (body : List Byte) : Option (List Op) :=
  let n := field body 4 1
  if 1280 < body.length ∨ field body 6 2 ≠ body.length ∨ n = 0 ∨ 16 < n then none
  else
    match parseOps n (body.drop 8) with
    | none => none
    | some ops =>
      let long := ops.any fun o => (decide (o.kind = .readSeg) || decide (o.kind = .writeSeg)) && decide (1024 < o.length)
      let mixed := ops.any (fun o => o.kind.alone) && decide (1 < ops.length)
      let size := ops.foldl (fun m o => m + 4 + (replyCount o + 3) / 4 * 4) 8
      if long || mixed || decide (1280 < size) then none else some ops

/-- Some operation of a request changes, as far as its operations can be told apart: a malformed request counts with those
before its first fault (R260, R1141; DEDUCED, log entry 127). -/
def changesAny : Nat → List Byte → Bool
  | 0, _ => false
  | n + 1, bs =>
    match opKind (field bs 0 1) with
    | none => false
    | some k =>
      let carries := decide (k = .write) || decide (k = .writeSeg)
      decide (12 ≤ bs.length) &&
        (k.changing || changesAny n (bs.drop (12 + if carries then (field bs 8 2 + 3) / 4 * 4 else 0)))

/-- A reply with one entry per operation (R246, R247). -/
def replyWith (txn status failOp : Nat) (entries : List (Nat × List Byte)) : List Byte :=
  natLe txn 4 ++ natLe status 1 ++ natLe failOp 1 ++ natLe entries.length 1 ++ natLe 0 1 ++
    entries.flatMap fun (st, d) => natLe st 1 ++ natLe 0 1 ++ natLe d.length 2 ++ pad4 d

/-- The reply when operation `i` of `n` fails: every other entry carries NOT_APPLIED (R253, R290). -/
def replyFailed (txn status i n : Nat) : List Byte :=
  replyWith txn status (i + 1) ((List.range n).map fun j => (if j = i then status else 0x11, []))

/-- A reply with FLAGS.DUPLICATE set (R260). -/
def markDuplicate (reply : List Byte) : List Byte := modIdx 7 (fun b => b ||| 1) reply

/-! ### Checking one operation (R228 to R232, R251 step 4, R268 to R273) -/

/-- Who asks: the path, the session (0 outside any) and its rights. -/
structure Asker where
  mailbox : Bool
  session : Nat
  rights : Nat
  /-- Source address and port of a JOP request (R329). -/
  client : Nat := 0
  deriving DecidableEq, Repr

/-- Rights do not suffice for a changing operation (R230 to R232). -/
def rightsShort (a : Asker) (e : Entry) (idx : Nat) : Bool :=
  sessionless a.mailbox a.session || (a.mailbox && idx == 0x1101) || decide (a.rights < (if e.auth then 2 else 1))

/-- The open staging belongs to the asker and holds the named DOMAIN. -/
def ownStaging (a : Asker) (key : Nat) (s : State) : Option Staging :=
  match s.kiosk.staging with
  | some g => if g.mailbox = a.mailbox ∧ g.session = a.session ∧ g.key = key ∧ g.orphan = false then some g else none
  | none => none

/-- The named DOMAIN is being verified (R273). -/
def verifyingKey (key : Nat) (s : State) : Bool :=
  s.kiosk.staging.any fun g => decide (g.key = key) && g.verifying.isSome

/-- The lot that the TARGET of a section's bytes names. -/
def targetLot (bs : List Byte) : Nat := field bs 8 4 % 16

/-- A lot is LOADING. -/
def lotLoading (s : State) (l : Nat) : Bool := decide ((lotAt s l).state = .loading)

/-- STATE_CONFLICT of a DOMAIN_COMMIT (R975, the table of the collective objects). -/
def commitConflict (a : Asker) (idx sub : Nat) (s : State) : Bool :=
  match idx with
  | 0x8800 => (List.range 16).any (lotLoading s)
  | 0x8801 => (ownStaging a (objKey idx sub) s).any fun g => lotLoading s (targetLot g.data)
  | _ => decide (groupConflict s (idx - 0x7400 + 1) sub 0 ≠ 0) && decide (0x7400 ≤ idx) && decide (idx ≤ 0x77FF)

/-- The staging rules of a segment operation: 0, BUSY or SEGMENT (R268 to R273). -/
def segmentCheck (a : Asker) (o : Op) (s : State) : Nat :=
  let key := objKey o.idx o.sub
  match o.kind with
  | .writeSeg =>
    if verifyingKey key s = true ∨ (s.kiosk.staging.isSome ∧ (ownStaging a key s).isNone) then 0x0C
    else if o.offset ≠ 0 ∧ (ownStaging a key s).all (fun g => decide (g.data.length ≠ o.offset)) = true then 0x0E
    else 0
  | .commit =>
    if verifyingKey key s then 0x0C
    else if (ownStaging a key s).all (fun g => decide (g.data.length ≠ o.offset)) = true then 0x0E
    else 0
  | .abort => if verifyingKey key s then 0x0C else 0
  | _ => 0

/-- The status with which an operation on an entry is refused, 0 when it passes (R251 step 4). -/
def checkEntry (a : Asker) (o : Op) (e : Entry) (s : State) : Nat :=
  let ch := o.kind.changing
  let segments := decide (o.kind ≠ .read) && decide (o.kind ≠ .write)
  if o.kind = .describe then 0
  else if ch = true ∧ e.acc = .ro then 3
  else if ch = false ∧ e.acc = .wo then 4
  else if ch = true ∧ rightsShort a e o.idx = true then 5
  else if e.ty.isDomain ≠ segments ∨ (o.kind = .write ∧ o.length ≠ e.ty.width) then 6
  else if o.kind = .write ∧ inRange s e o.idx o.sub o.data = false then 7
  else if o.kind = .writeSeg ∧ e.ty.width < o.offset + o.length then 7
  else if ch = false ∧ packageHeld o.idx o.sub = true ∧ heldReadable s = false then 9
  else if o.kind = .commit ∧ commitConflict a o.idx o.sub s = true then 8
  else if o.kind = .write then writeConflict s o.idx o.sub (leNat o.data)
  else segmentCheck a o s

/-- The status of an operation (R222, R251, R280). -/
def checkOp (a : Asker) (o : Op) (s : State) : Nat :=
  if indexExists o.idx = false then 1
  else match findEntry o.idx o.sub with
    | none => 2
    | some e => checkEntry a o e s

/-! ### Applying one operation (R254, R267 to R274, R1063) -/

/-- A log's snapshot of a session is taken, or kept (R1063). -/
def holdSnapshot (a : Asker) (idx : Nat) (v : List Byte) (s : State) : State :=
  modSession a.mailbox a.session (fun x =>
    if idx = 0x9000 then { x with snapError := some v } else { x with snapEvent := some v }) s

/-- The bytes a READ_SEG reads from (R267, R1063). -/
def segmentSource (a : Asker) (o : Op) (s : State) : List Byte × State :=
  let now := domainValue s o.idx o.sub
  if (o.idx ≠ 0x9000 ∧ o.idx ≠ 0x9001) ∨ sessionless a.mailbox a.session = true then (now, s)
  else if o.offset = 0 then (now, holdSnapshot a o.idx now s)
  else
    let x := pathSession s a.mailbox a.session
    ((if o.idx = 0x9000 then x.snapError else x.snapEvent).getD now, s)

/-- WRITE_SEG (R268, R269). -/
def stage (a : Asker) (o : Op) (s : State) : State :=
  let g : Staging := match ownStaging a (objKey o.idx o.sub) s with
    | some g => { g with data := (if o.offset = 0 then [] else g.data) ++ o.data, seen := s.now }
    | none => { session := a.session, mailbox := a.mailbox, key := objKey o.idx o.sub, data := o.data, seen := s.now }
  s.modKiosk fun k => { k with staging := some g }

/-- The operation's effect and the data it returns; `txn` names a commit's request (R254, R273). -/
def applyOp (a : Asker) (txn : Nat) (o : Op) (s : State) : List Byte × State :=
  match findEntry o.idx o.sub with
  | none => ([], s)
  | some e =>
    match o.kind with
    | .read => (readEntry s e o.idx o.sub, afterRead o.idx o.sub s)
    | .write => ([], writeValue e o.idx o.sub o.data s)
    | .readSeg =>
      let (bs, s) := segmentSource a o s
      ((bs.drop o.offset).take o.length, s)
    | .writeSeg => ([], stage a o s)
    | .commit =>
      ([], s.modKiosk fun k => { k with staging := k.staging.map fun g => { g with verifying := some txn, busy := a.mailbox, client := a.client } })
    | .abort =>
      ([], if (ownStaging a (objKey o.idx o.sub) s).isSome then s.modKiosk fun k => { k with staging := none } else s)
    | .describe => (describe e o.idx o.sub, s)

/-! ### A whole transaction (R239, R240, R251 to R254, R287, R290) -/

/-- What became of the operations: all passed, with their data, the state after them and the first operation that wrote a
saved entry; or one was refused. -/
inductive OpsOut where
  | passed (data : List (List Byte)) (saved : Option Nat) (s : State)
  | failed (i status : Nat)
  deriving DecidableEq, Repr

/-- Entries that non-volatile storage holds. -/
def savedPart (s : State) : Tab Nat × Tab (List Byte) := (keepSaved s.kiosk.objects, keepSaved s.kiosk.strings)

/-- The operation writes a saved entry. -/
def writesSaved (o : Op) (before after : State) : Bool :=
  decide (o.kind = .write) && (isSaved (objKey o.idx o.sub) || decide (savedPart before ≠ savedPart after))

/-- Operations are checked and applied in order, each against what the earlier ones leave (R252, R254). -/
def runOps (a : Asker) (txn : Nat) : Nat → List Op → List (List Byte) → Option Nat → State → OpsOut
  | _, [], acc, sv, s => .passed acc sv s
  | i, o :: rest, acc, sv, s =>
    let st := checkOp a o s
    if st ≠ 0 then .failed i st
    else
      let (d, s') := applyOp a txn o s
      runOps a txn (i + 1) rest (acc ++ [d]) (if sv.isNone ∧ writesSaved o s s' then some i else sv) s'

/-- A refused ARM leaves its cause (R837). -/
def noteRefusedArm (o : Op) (status : Nat) (s : State) : State :=
  if o.kind = .write ∧ 0x7400 ≤ o.idx ∧ o.idx ≤ 0x77FF ∧ o.sub = 0x0A ∧ leNat o.data = 1 ∧ status = 8 then
    modGroup (o.idx - 0x7400 + 1) (fun x => { x with cause := armCause s (o.idx - 0x7400 + 1) }) s
  else s

/-- The credential slots that a request writes; their sessions end after the reply (R339). -/
def writtenSlots (ops : List Op) : List Nat :=
  (ops.filter fun o => decide (o.kind = .write) && (o.idx == 0x1222 || o.idx == 0x1223)).map (·.sub)

/-- Sessions of the written credential slots end (R339). -/
def endSlots (slots : List Nat) (s : State) : State :=
  forEach (fun (nx : Nat × Session) s => if slots.contains nx.2.slot && nx.2.phase ≠ 0 then endSession nx.1 s else s)
    s.kiosk.sessions s

/-- A non-volatile store fails: counted and recorded (R283, R290). -/
def storeFails (s : State) : State := noteRecord 0x1001 utKiosk 0 (count 0x1110 8 1 s)

/-- Refusing as a whole in curfew (R287). -/
def curfewNow (s : State) : Bool := dropping s || s.life.dropOff

/-- The outcome of a request: its reply, none while a commit is being verified, and the state. -/
def runRequest (a : Asker) (txn : Nat) (ops : List Op) (storeOk : Bool) (s : State) : Option (List Byte) × State :=
  if ops.any (fun o => o.kind.changing) && curfewNow s then (some (wholeReply txn 0x0A), s)
  else
    match runOps a txn 0 ops [] none s with
    | .failed i st => (some (replyFailed txn st i ops.length), (ops[i]?).elim s fun o => noteRefusedArm o st s)
    | .passed data sv s' =>
      if ops.any (fun o => decide (o.kind = .commit)) then (none, s')
      else if savedPart s = savedPart s' then (some (replyWith txn 0 0 (data.map fun d => (0, d))), s')
      else if storeOk then (some (replyWith txn 0 0 (data.map fun d => (0, d))), count 0x1110 7 1 s')
      else (some (replyFailed txn 0x10 (sv.getD 0) ops.length), storeFails s)

/-- A request is executed and answered; `fresh` when it is recorded, `dup` when it is a duplicate read (R251, R260). -/
def serve (r : Request) (a : Asker) (txn : Nat) (ops : Option (List Op)) (storeOk fresh dup : Bool) (s : State) : State :=
  let ops' := ops.getD []
  let (reply, s) := match ops with
    | none => (some (wholeReply txn 0x0D), s)
    | some l => runRequest a txn l storeOk s
  match reply with
  | none => s
  | some body =>
    let s := if fresh then closeOutcome r.mailbox r.session txn body s else s
    let s := deliver r.mailbox r.session r.client (if dup then markDuplicate body else body) s
    if field body 4 1 = 0 then endSlots (writtenSlots ops') s else s

/-- Executing one request (R251, R260 to R265, R1142). -/
def execute (r : Request) (storeOk : Bool) (s : State) : State :=
  let txn := field r.body 0 4
  let x := pathSession s r.mailbox r.session
  let out := sessionless r.mailbox r.session
  let a : Asker := { mailbox := r.mailbox, session := r.session, rights := if out then 0 else x.rights, client := r.client }
  if r.body.length < 8 then deliver r.mailbox r.session r.client (wholeReply txn 0x0D) s
  else
    let ops := parseRequest r.body
    let changing := changesAny (min 16 (field r.body 4 1)) (r.body.drop 8)
    if out then serve r a txn ops storeOk false false s
    else
      match x.record.find? fun o => o.txn = txn with
      | some o =>
        if o.reply = [] then s
        else if o.changing then deliver r.mailbox r.session r.client (markDuplicate o.reply) (count 0x1110 2 1 s)
        else serve r a txn ops storeOk false true (count 0x1110 3 1 s)
      | none =>
        if x.high.all (fun h => serialNewer 32 txn h) then
          serve r a txn ops storeOk true false (openOutcome r.mailbox r.session txn changing s)
        else deliver r.mailbox r.session r.client (wholeReply txn 0x0B) (count 0x1110 4 1 s)

/-- The request that the kiosk takes next, the mailbox's when true (R255). -/
def nextPath (k : Kiosk) : Option Bool :=
  match k.jopQueue, k.mbQueue with
  | [], [] => none
  | _ :: _, [] => some false
  | [], _ :: _ => some true
  | j :: _, m :: _ => some (k.turn.getD (decide (m.at_ / 10 < j.at_ / 10)))

/-- Taking it: the next turn is the other path's, and undecided once nothing waits (R255). -/
def takeRequest (k : Kiosk) : Option (Request × Kiosk) :=
  match nextPath k with
  | none => none
  | some mb =>
    let (r?, k') := if mb then (k.mbQueue.head?, { k with mbQueue := k.mbQueue.drop 1 })
      else (k.jopQueue.head?, { k with jopQueue := k.jopQueue.drop 1 })
    let turn := if k'.jopQueue.isEmpty && k'.mbQueue.isEmpty then none else some (!mb)
    r?.map fun r => (r, { k' with turn := turn })

/-- Taking a request while the sled is awake on the network or not: asleep it handles none of the JOP path (R321). -/
def takeAwake (awake : Bool) (k : Kiosk) : Option (Request × Kiosk) :=
  if awake then takeRequest k
  else (takeRequest { k with jopQueue := [] }).map fun (r, k') => (r, { k' with jopQueue := k.jopQueue })

/-- The kiosk takes the next request and executes it (R251, R255, R321). -/
def execTransactionExecute (t : Nat) (storeOk : Bool) (s : State) : Out :=
  let s := clockTo t s
  if s.life.state = .absent then .next s
  else
    if tickSettled s = false then .next s
    else match takeAwake (netAwake s) s.kiosk with
    | none => .next s
    | some (r, k) => .next (execute r storeOk { s with kiosk := k })

/-! ### Committing a DOMAIN (R272 to R274, R284, R285, R972 to R974, R1140) -/

/-- An image is laid out as R1140 says and its signature verifies (R284). -/
def imageOk (kind : Nat) (bs : List Byte) : Bool :=
  let n := field bs 16 4
  decide (160 ≤ bs.length) && decide (bs.length = 160 + n) && decide (field bs 0 4 = 0x474D4946) && decide (field bs 4 1 = kind) &&
    decide (field bs 5 3 = 0) && decide (field bs 8 4 ≠ 0) && decide (field bs 12 2 = 0x8640) && decide (field bs 14 2 = 0) &&
    decide (field bs 20 44 = 0) && Config.verifySignature Config.imageKey (bs.take (64 + n)) (bs.drop (64 + n))

/-- An image replaces the bank that does not run (R285); a valid one answers FIRMWARE_INVALID (R192). -/
def commitImage (kind : Nat) (bs : List Byte) (s : State) : State :=
  let s := s.modKiosk fun k =>
    { setBank kind (targetBank k kind) { version := field bs 8 4, data := bs } k with
      stationNew := if kind = 1 then targetBank k kind else k.stationNew }
  s.modLife fun l => { l with fwWritten := l.fwWritten || (l.fwInvalid && decide (kind = 1)) }

/-- Bytes of a section, by its FRAME_COUNT. -/
def sectionBytes (bs : List Byte) : Nat := 4 * sectionWords (field bs 12 4)

/-- A section's signature verifies against the key its SIGNER names (R973). -/
def sectionSigned (s : State) (bs : List Byte) : Bool :=
  let n := sectionBytes bs
  decide (64 ≤ bs.length) && decide (bs.length = n) &&
  (match signerKey s (field bs 20 4) with
   | some k => Config.verifySignature k (bs.take (n - 128)) (trailerSignature (storedWords (bs.drop (n - 128))))
   | none => false)

/-- Sections `l` to `l + n - 1` of a fabric image; none when one fails (R972). -/
def fabricSections (s : State) : Nat → Nat → List Byte → Option (List (Nat × List Byte))
  | 0, _, bs => if bs = [] then some [] else none
  | n + 1, l, bs =>
    let x := bs.take (sectionBytes bs)
    if sectionSigned s x && decide (targetLot x = l) then
      (fabricSections s n (l + 1) (bs.drop (sectionBytes bs))).map ((l, x) :: ·)
    else none

/-- Store slots are replaced in one step (R972, R974). -/
def storeSections (xs : List (Nat × List Byte)) (s : State) : State :=
  s.modFab fun b => { b with store := xs.foldl (fun t (l, x) => tabPut [] l x t) b.store }

/-- What verification of a staged DOMAIN leads to; none when it fails. -/
def commitDomain (key : Nat) (bs : List Byte) (s : State) : Option State :=
  let kind := imageKind key
  if kind ≠ 0 then (if imageOk kind bs then some (commitImage kind bs s) else none)
  else if key = objKey 0x8800 0 then (fabricSections s 16 0 bs).map fun xs => storeSections xs s
  else if key = objKey 0x8801 0 then
    (if sectionSigned s bs then some (storeSections [(targetLot bs, bs)] s) else none)
  else some (setStr (key / 256) (key % 256) bs s)

/-- The commit of a DOMAIN's present value needs no store (R240). -/
def sameValue (key : Nat) (bs : List Byte) (s : State) : Bool :=
  decide (imageKind key = 0) && decide (key < 0x8000 * 256) && decide (strAt s (key / 256) (key % 256) = bs)

/-- A verification finishes: the value is replaced in one step, or SIGNATURE discards the staging; a store that fails leaves
the staging (R273, R290). -/
def finishCommit (g : Staging) (txn : Nat) (storeOk : Bool) (s : State) : State :=
  match commitDomain g.key g.data s with
  | none => answerCommit g txn (replyFailed txn 0x0F 0 1) (s.modKiosk fun k => { k with staging := none })
  | some s' =>
    if storeOk || sameValue g.key g.data s then
      let s' := if sameValue g.key g.data s then s' else count 0x1110 7 1 s'
      answerCommit g txn (replyWith txn 0 0 [(0, [])]) (s'.modKiosk fun k => { k with staging := none })
    else
      let kept := if g.orphan then none else some { g with verifying := none, busy := false }
      answerCommit g txn (replyFailed txn 0x10 0 1) (storeFails (s.modKiosk fun k => { k with staging := kept }))

/-- The verification of a committed DOMAIN finishes (R273). -/
def execDomainVerifyDone (t : Nat) (storeOk : Bool) (s : State) : Out :=
  let s := clockTo t s
  if tickSettled s = false then .next s
  else match s.kiosk.staging with
  | none => .next s
  | some g => .next (g.verifying.elim s fun txn => finishCommit g txn storeOk s)

/-- No WRITE_SEG has reached the staging for the time of object 0x1103:00 (R274). -/
def execStagingExpire (t : Nat) (s : State) : Out :=
  let s := clockTo t s
  match s.kiosk.staging with
  | none => .next s
  | some g =>
    if g.verifying.isNone ∧ g.seen + objAt s 0x1103 0 * 1000000 ≤ s.now then
      .next (count 0x1110 6 1 (s.modKiosk fun k => { k with staging := none }))
    else .next s

/-! ### The mailbox's control bits (R275 to R278, R1149) -/

/-- A write of CLOSE (R266, R1149). -/
def mbClose (s : State) : State := if hostReady s = false then s else endMailboxSession s

/-- A write of OPEN: any open session ends, and a new one takes the rights of object 0x1101:00 (R266, R278, R1149). -/
def mbOpen (s : State) : State :=
  if hostReady s = false then s
  else
    let s := endMailboxSession s
    let n := freshSession s
    s.modKiosk fun k => { k with
      mbSession := n, mbSess := { phase := 2, rights := objAt s 0x1101 0, seen := s.now }, nextSession := n % 65535 + 1 }

/-- A write of SUBMIT: the request goes to the kiosk, or the SUBMIT is ignored with FAULT (R276, R1149). -/
def mbSubmit (s : State) : State :=
  let k := s.kiosk
  if hostReady s = false then s
  else if k.mbSession = 0 ∨ k.mbBusy = true ∨ k.mbReqLength < 8 ∨ 1280 < k.mbReqLength then
    s.modKiosk fun k => { k with mbFault := true }
  else
    let r : Request := { mailbox := true, session := k.mbSession, body := memRead k.mbRequest 0 k.mbReqLength, at_ := s.now }
    s.modKiosk fun k => { k with mbDone := false, mbFault := false, mbBusy := true, mbQueue := k.mbQueue ++ [r] }

/-- A write to MB_VECTOR (R275, R389). -/
def writeMbVector (value : Nat) (s : State) : State :=
  let v := value % 65536
  if hostReady s = true ∧ ((1 ≤ v ∧ v ≤ 2047) ∨ v = 0xFFFF) then s.modKiosk fun k => { k with mbVector := v } else s

/-- A write of CLOSE alone. -/
def execMbClose (t : Nat) (s : State) : Out := .next (mbClose (clockTo t s))

/-- A write of OPEN alone. -/
def execMbOpen (t : Nat) (s : State) : Out := .next (mbOpen (clockTo t s))

/-- A write of SUBMIT alone. -/
def execMbSubmit (t : Nat) (s : State) : Out := .next (mbSubmit (clockTo t s))

/-- A write to MB_VECTOR. -/
def execMbVectorWrite (value : Half) (s : State) : Out := .next (writeMbVector value.toNat s)

end Sys2Proof.Machine
end

