-- ==== Sys2Proof/Machine/Registers.lean ====
section
/-! DEFINITION. The host's view by offset (chapters 05 and 07): BAR0 and BAR4 as they are read and written, the mailbox's
registers among them, and the configuration space. -/

namespace Sys2Proof.Machine

/-! ### Overlays -/

/-- Overlaying written bytes on a register's bytes. -/
def overlay (old : List Byte) (at_ : Nat) (new : List Byte) : List Byte :=
  old.take at_ ++ (new.take (old.length - at_)) ++ old.drop (at_ + new.length)

/-- Bytes written from `offset` on, inside a register of `w` bytes at `base`: the register's new value. -/
def regWrite (old base w offset : Nat) (value : List Byte) : Nat :=
  leNat (overlay (natLe old w) (offset - base) value)

/-! ### Writing BAR0 and BAR4 (R353, R358, R363, R275, R276, R1149) -/

/-- A context register keeps its defined bits (R18, R20). -/
def writeContext (o : Nat) (value : List Byte) (x : Queue) : Queue :=
  if o < 8 then { x with ringBase := regWrite x.ringBase 0 8 o value &&& 0xFFFFFFFFFFFFFFC3 }
  else if o < 16 then { x with cplBase := regWrite x.cplBase 8 8 o value &&& 0xFFFFFFFFFFFFFFE3 }
  else if o < 20 then { x with config := regWrite x.config 16 4 o value % 256 }
  else if o < 24 then { x with slots := regWrite x.slots 20 4 o value }
  else if o < 28 then { x with irq := regWrite x.irq 24 4 o value &&& 0xFFFF87FF }
  else x

/-- Unmasking an MSI-X entry sends its pending message. -/
def releasePending (s : State) : State :=
  match s.host.pending.find? fun (v, _) => (msixByte s (16 * v + 12)).toNat % 2 = 0 with
  | some (v, _) => raiseVector v (s.modHost fun h => { h with pending := tabPut false v false h.pending })
  | none => s

/-- Bytes of the MSI-X table are written. -/
def writeMsix (o : Nat) (value : List Byte) (s : State) : State :=
  let stored := (List.range value.length).map fun i => (value.getD i 0) ^^^ (if (o + i) % 16 = 12 then 1 else 0)
  releasePending (s.modHost fun h => { h with msixTable := memWrite h.msixTable o stored })

/-- QC_CONTROL: ENABLE, then DISABLE, when a write sets both (log entry 141). -/
def writeQcControl (q v : Nat) (s : State) : State :=
  let s := if bit v 0 then enableQueue q s else s
  if bit v 1 then driverDisable q s else s

/-- A write inside queue q's context (R359, R363). -/
def writeQueueReg (q o : Nat) (value : List Byte) (s : State) : State :=
  if 0x1C ≤ o ∧ o < 0x20 then writeQcControl q (regWrite 0 0x1C 4 o value) s
  else if 4064 ≤ q ∨ (queueAt s q).state ≠ .disabled then s
  else modQueue q (writeContext o value) s

/-- One write to MB_CONTROL acts on its bits in the order CLOSE, OPEN, SUBMIT (R1149). -/
def writeMbControl (v : Nat) (s : State) : State :=
  let s := if bit v 2 then mbClose s else s
  let s := if bit v 1 then mbOpen s else s
  if bit v 0 then mbSubmit s else s

/-- A write inside the mailbox (R275, R276). -/
def writeMailbox (o : Nat) (value : List Byte) (s : State) : State :=
  if o < 4 then writeMbControl (regWrite 0 0 4 o value) s
  else if 0x0008 ≤ o ∧ o < 0x000C then
    if s.kiosk.mbBusy then s
    else s.modKiosk fun k => { k with mbReqLength := regWrite k.mbReqLength 0x0008 4 o value % 2048 }
  else if 0x0014 ≤ o ∧ o < 0x0018 then writeMbVector (regWrite s.kiosk.mbVector 0x0014 4 o value) s
  else if 0x1000 ≤ o ∧ o < 0x1500 then
    if s.kiosk.mbBusy then s
    else s.modKiosk fun k => { k with mbRequest := memWrite k.mbRequest (o - 0x1000) (value.take (0x1500 - o)) }
  else s

/-- Bytes written within one aligned 4-byte word of BAR0; every other offset ignores writes (R353). -/
def writeWord0 (o : Nat) (value : List Byte) (s : State) : State :=
  if 0x20 ≤ o ∧ o < 0x24 then clearCauses (regWrite 0 0x20 4 o value) s
  else if 0x24 ≤ o ∧ o < 0x28 then
    s.modHost fun h => { h with eventMask := regWrite h.eventMask 0x24 4 o value % 32 }
  else if 0x1000 ≤ o ∧ o < 0x1004 then writeWindowBase (regWrite s.host.windowBase 0x1000 4 o value) s
  else if 0x10000 ≤ o ∧ o < 0x18000 then writeMsix (o - 0x10000) value s
  else if 0x100000 ≤ o ∧ o < 0x140000 then writeQueueReg ((o - 0x100000) / 64) ((o - 0x100000) % 64) value s
  else if 0xFF0000 ≤ o ∧ o < 0x1000000 then writeMailbox (o - 0xFF0000) value s
  else s

/-- A write word by word, lowest offset first; `n` bounds the words. -/
def writeWords0 : Nat → Nat → List Byte → State → State
  | 0, _, _, s => s
  | n + 1, o, bs, s =>
    if bs = [] then s
    else
      let k := 4 - o % 4
      writeWords0 n (o + k) (bs.drop k) (writeWord0 o (bs.take k) s)

/-- A write to BAR4: TAIL at offset 0 and CPL_HEAD at offset 8 of each page; every other offset ignores writes.  A write that
touches TAIL and is not those 4 bytes is ignored and counted (R358, R368). -/
def writeDoorbell (o : Nat) (value : List Byte) (s : State) : State :=
  let q := o / 4096 % 4096
  if o % 4096 < 4 then writeTail q (if o % 4096 = 0 then value.length else 0) (leNat value) s
  else if o % 4096 = 8 ∧ value.length = 4 then writeCplHead q (leNat value) s
  else s

/-- A write of the host to BAR0 or BAR4 (R353, R358, R363). -/
def execRegisterWrite (t offset : Nat) (value : List Byte) (s : State) (bar4 : Bool := false) : Out :=
  let s := clockTo t s
  if hostReady s = false then .next s
  else if bar4 then .next (writeDoorbell offset value s)
  else .next (writeWords0 (value.length + 1) offset value s)

/-! ### Reading BAR0 and BAR4 (R353, R358, R362, R398, R275, R1149) -/

/-- A comparator's status entry, 16 bytes (R398). -/
def comparatorEntry (c : Comparator) : List Byte :=
  natLe c.cycle 6 ++ natLe c.phase 2 ++ natLe c.tag 2 ++ natLe (flag c.busy 0 + flag c.late 1) 1 ++ natLe 0 5

/-- A queue's context as it reads, 64 bytes; QC_CONTROL reads zero. -/
def contextBytes (x : Queue) : List Byte :=
  natLe x.ringBase 8 ++ natLe x.cplBase 8 ++ natLe x.config 4 ++ natLe x.slots 4 ++ natLe x.irq 4 ++ natLe 0 4 ++
    natLe (x.state.code + 65536 * x.cause) 4 ++ natLe x.head 4 ++ natLe x.cplTail 4 ++ natLe 0 20

/-- MB_STATUS. -/
def mbStatus (k : Kiosk) : Nat :=
  flag k.mbBusy 0 + flag k.mbDone 1 + flag k.mbFault 2 + flag (decide (k.mbSession ≠ 0)) 3

/-- An 8-bit register file of 32-bit words: the byte at offset `o` of a list of words. -/
def wordByte (ws : List Nat) (o : Nat) : Byte := (natLe (ws.getD (o / 4) 0) 4).getD (o % 4) 0

/-- A byte of the mailbox: write-only registers and offsets without a register read zero (R275, R1149). -/
def mailboxByte (s : State) (o : Nat) : Byte :=
  let k := s.kiosk
  if o < 0x18 then wordByte [0, mbStatus k, k.mbReqLength, k.mbRspLength % 2048, k.mbSession, k.mbVector] o
  else if 0x2000 ≤ o ∧ o < 0x2500 then k.mbResponse.getD (o - 0x2000) 0
  else 0

/-- A byte of the global registers. -/
def globalByte (s : State) (o : Nat) : Byte :=
  wordByte [0x864000B1, glStatus s, s.rb.pkgCycle % 2 ^ 32, s.host.latchHi, s.host.latchPhase, 0, 0, 0, s.host.eventCause,
    s.host.eventMask] o

/-- A byte of BAR0; an offset that the table does not list reads zero (R353). -/
def bar0Byte (s : State) (o : Nat) : Byte :=
  if o < 0x100 then globalByte s o
  else if o < 0x300 then BitVec.ofNat 8 (sumTo 8 fun i => flag (queueErrorBit s (8 * (o - 0x100) + i)) i)
  else if 0x1000 ≤ o ∧ o < 0x1004 then wordByte [s.host.windowBase] (o - 0x1000)
  else if 0x10000 ≤ o ∧ o < 0x18000 then msixByte s (o - 0x10000)
  else if 0x18000 ≤ o ∧ o < 0x18100 then
    BitVec.ofNat 8 (sumTo 8 fun i => flag (tabGet false (8 * (o - 0x18000) + i) s.host.pending) i)
  else if 0x20000 ≤ o ∧ o < 0x20400 then
    (comparatorEntry (tabGet {} ((o - 0x20000) / 16) s.rb.pkgCmp)).getD ((o - 0x20000) % 16) 0
  else if 0x100000 ≤ o ∧ o < 0x140000 then
    (contextBytes (queueAt s ((o - 0x100000) / 64))).getD ((o - 0x100000) % 64) 0
  else if 0xFF0000 ≤ o ∧ o < 0x1000000 then mailboxByte s (o - 0xFF0000)
  else 0

/-- The host reads BAR0 or BAR4; BAR4 reads zero, and a read that covers GL_RB_CYCLE_LO latches the rest of the count
(R353, R358). -/
def hostReads (bar4 : Bool) (offset length : Nat) (s : State) : State :=
  if hostReady s = false then s
  else if bar4 then emit (.hostRead (List.replicate length 0)) s
  else
    let s := if offset < 0x0C ∧ 0x08 < offset + length then latchCount s else s
    emit (.hostRead ((List.range length).map fun i => bar0Byte s (offset + i))) s

/-! ### The configuration space (R346 to R350, R355) -/

/-- The sizes that BAR2 can take, in GiB. -/
def bar2Sizes : List Nat := [1, 2, 4, 8, 16, 32, 64, 128, 256]

/-- Size of a BAR in bytes; 0 for one that is absent. -/
def barSize (s : State) (n : Nat) : Nat :=
  if n = 0 ∨ n = 4 then 2 ^ 24 else if n = 2 then s.host.windowSize * 2 ^ 30 else 0

/-- What a configuration register reads (the table of identification fields, R347, R348).  A BAR reads as its 64-bit base with
the type bits of a 64-bit memory BAR, prefetchable for BAR2; Hot-Plug Surprise is bit 5 of Slot Capabilities (log entry
142). -/
def configValue (s : State) (r : ConfigReg) : Nat :=
  let h := s.host
  match r with
  | .vendorId | .subsystemVendorId => 0x1E5B
  | .deviceId | .subsystemId => 0x8640
  | .revisionId => 0xB1
  | .classCode => 0x120000
  | .bar n => if barSize s n = 0 then 0 else tabGet 0 n h.bars + (if n = 2 then 0xC else 0x4)
  | .expansionRom => 0
  | .slotCapabilities => 0x20
  | .deviceCapabilities => 512
  | .maxPayload => h.maxPayload
  | .maxRead => h.maxRead
  | .tags14 => if h.tags14 then 1 else 0
  | .msixTableSize => 2048
  | .resizableSizes => sumTo 9 fun i => 2 ^ i
  | .resizableSize => h.windowSize
  | .aerUncorStatus => h.aerUncor
  | .aerUncorMask => h.aerUncorMask
  | .aerCorStatus => h.aerCor
  | .aerCorMask => h.aerCorMask

/-- What a configuration write changes: a BAR's base in multiples of its size, the payload and read request sizes within the
limits of R347, the size of BAR2, and the AER registers, whose status bits a 1 clears.  The rest is read-only. -/
def configSet (r : ConfigReg) (v : Nat) (s : State) : State :=
  s.modHost fun h =>
    match r with
    | .bar n => if barSize s n = 0 then h else { h with bars := tabPut 0 n (v % 2 ^ 64 / barSize s n * barSize s n) h.bars }
    | .maxPayload => if [128, 256, 512].contains v then { h with maxPayload := v } else h
    | .maxRead => if [128, 256, 512, 1024, 2048, 4096].contains v then { h with maxRead := v } else h
    | .tags14 => { h with tags14 := decide (v = 1) }
    | .resizableSize => if bar2Sizes.contains v then { h with windowSize := v } else h
    | .aerUncorStatus => { h with aerUncor := sumTo 32 fun i => flag (bit h.aerUncor i && !bit v i) i }
    | .aerUncorMask => { h with aerUncorMask := v % 2 ^ 32 }
    | .aerCorStatus => { h with aerCor := sumTo 32 fun i => flag (bit h.aerCor i && !bit v i) i }
    | .aerCorMask => { h with aerCorMask := v % 2 ^ 32 }
    | .vendorId | .subsystemVendorId | .deviceId | .subsystemId | .revisionId | .classCode | .expansionRom
    | .slotCapabilities | .deviceCapabilities | .msixTableSize | .resizableSizes => h

/-- A configuration request: answered with Configuration Request Retry Status until the endpoint is ready (R350). -/
def configAccess (r : ConfigReg) (write : Option Nat) (s : State) : State :=
  if s.host.trainAt.isNone = true ∨ s.host.flitRequired = true ∨ packageRuns s = false then s
  else if s.host.ready = false then emit .configRetry s
  else match write with
    | none => emit (.configRead (configValue s r)) s
    | some v => configSet r v s

/-- An error bit becomes set in an AER status register (R347). -/
def logAer (uncorrectable : Bool) (b : Nat) (s : State) : State :=
  if hostReady s = false ∨ 32 ≤ b then s
  else s.modHost fun h =>
    if uncorrectable then { h with aerUncor := h.aerUncor ||| 2 ^ b } else { h with aerCor := h.aerCor ||| 2 ^ b }

end Sys2Proof.Machine
end

