-- ==== Sys2Proof/Machine/Acts.lean ====
section
/-! DEFINITION. What agents without a row of their own do during a tick, and TICK (log entry 140): station cores and their
memory order (chapter 10), lot memories, LINK controllers and serialiser lanes (chapter 17). -/

namespace Sys2Proof.Machine

/-! ### Station cores (R398, R549 to R555) -/

/-- A station core. -/
def coreAt (s : State) (c : Nat) : StationCore := tabGet {} c s.contain.cores

/-- Changing a station core. -/
def modCore (c : Nat) (f : StationCore → StationCore) (s : State) : State :=
  s.modContain fun k => { k with cores := tabPut {} c (f (tabGet {} c k.cores)) k.cores }

/-- A station core runs station firmware. -/
def coreRuns (s : State) (c : Nat) : Bool :=
  s.kiosk.stationRunning && packageRuns s && !dropping s && !(coreAt s c).fenced

/-- Memory that a station core reaches: the program area of a scratchpad (R510), and HBM on stacks that are not fenced
(R528). -/
def stationReaches (s : State) (p : StationPlace) (a n : Nat) : Bool :=
  match p with
  | .scratch t => decide (t < 160) && decide (a + n ≤ programEnd s)
  | .hbm => rangeValid (hbmValid s) a n
  | .other => false

/-- The bytes at a place, as every agent sees them. -/
def stationMemory (s : State) (p : StationPlace) (a n : Nat) : List Byte :=
  match p with
  | .scratch t => memRead (tileAt s t).scratch a n
  | .hbm => hbmRead s a n
  | .other => List.replicate n 0

/-- A place has a poisoned word in a range (R523). -/
def stationPoison (s : State) (p : StationPlace) (a n : Nat) : Bool :=
  match p with
  | .hbm => poisoned s.tiers.hbmPoison a n
  | .scratch _ | .other => false

/-- Two ranges of one place overlap. -/
def StationStore.meets (x : StationStore) (p : StationPlace) (a n : Nat) : Bool :=
  decide (x.place = p) && decide (x.addr < a + n) && decide (a < x.addr + x.data.length)

/-- A store becomes visible to every agent; it ends the reservations of the other cores that it meets. -/
def stationWrite (c : Nat) (x : StationStore) (s : State) : State :=
  let s := match x.place with
    | .scratch t => modTile t (fun y => { y with scratch := memWrite y.scratch x.addr x.data }) s
    | .hbm => hbmWrite x.addr x.data s
    | .other => s
  s.modContain fun k => { k with cores := k.cores.map fun (i, y) =>
    (i, match y.reserved with
      | some r => if i ≠ c ∧ r.meets x.place x.addr x.data.length = true then { y with reserved := none } else y
      | none => y) }

/-- The stores of a list that one location has seen, laid over its bytes in program order (R550). -/
def overStores (p : StationPlace) (a : Nat) : List (Option StationStore) → List Byte → List Byte
  | [], bs => bs
  | none :: r, bs => overStores p a r bs
  | some x :: r, bs =>
    overStores p a r (if x.place = p then
        (List.range bs.length).map fun i =>
          if x.addr ≤ a + i ∧ a + i < x.addr + x.data.length then x.data.getD (a + i - x.addr) 0 else bs.getD i 0
      else bs)

/-- What a core reads: its own stores come before what the others see. -/
def stationView (s : State) (c : Nat) (p : StationPlace) (a n : Nat) : List Byte :=
  overStores p a (coreAt s c).buffer (stationMemory s p a n)

/-- A buffered entry becomes visible, if it is a store. -/
def showEntry (c : Nat) (x : Option StationStore) (s : State) : State :=
  match x with
  | some x => stationWrite c x s
  | none => s

/-- Every buffered store becomes visible: SYNC.SL (R553). -/
def drainAll (c : Nat) (s : State) : State :=
  modCore c (fun y => { y with buffer := [] }) (forEach (showEntry c) (coreAt s c).buffer s)

/-- SYNC.SS: stores before it become visible before stores after it (R553). -/
def storeFence (c : Nat) (s : State) : State :=
  modCore c (fun y => { y with buffer := if y.buffer = [] then [] else y.buffer ++ [none] }) s

/-- Markers at the head order nothing any more. -/
def dropMarks : List (Option StationStore) → List (Option StationStore)
  | none :: r => dropMarks r
  | b => b

/-- The n-th entry may become visible: no store fence and no store to the same location stands before it (R550, R551). -/
def mayDrain (b : List (Option StationStore)) (n : Nat) : Option StationStore :=
  match b.getD n none with
  | none => none
  | some x =>
    if (b.take n).all fun e => match e with
      | none => false
      | some y => !y.meets x.place x.addr x.data.length
    then some x else none

/-- One buffered store of a core becomes visible. -/
def stationDrain (c n : Nat) (s : State) : State :=
  match mayDrain (coreAt s c).buffer n with
  | none => s
  | some x =>
    stationWrite c x (modCore c (fun y => { y with buffer := dropMarks (y.buffer.eraseIdx n) }) s)

/-- A store: an access fault where it reaches no memory, else it waits in the buffer (R528, R551). -/
def stationStore (c : Nat) (p : StationPlace) (a : Nat) (bs : List Byte) (s : State) : State :=
  if p = .other then s
  else if stationReaches s p a bs.length = false then stationTrap c 7 s
  else modCore c (fun y => { y with buffer := y.buffer ++ [some { place := p, addr := a, data := bs }] }) s

/-- A load takes its value at once, so later accesses never pass it (R552); a poisoned word or a fenced stack gives an access
fault (R523, R528). -/
def stationLoad (c : Nat) (p : StationPlace) (a n : Nat) (s : State) : State :=
  if p = .other then s
  else if stationReaches s p a n = false ∨ stationPoison s p a n = true then stationTrap c 5 s
  else modCore c (fun y => { y with loaded := stationView s c p a n }) s

/-- FENCE with its sets and FENCE.TSO: loads have taken their values, so SYNC.LL has nothing left to order (R554). -/
def stationFence (c : Nat) (predR predW succR succW tso : Bool) (s : State) : State :=
  if tso then storeFence c s
  else if predW && succR then drainAll c s
  else if predW && succW then storeFence c s
  else if predR then s
  else s

/-- What an atomic makes of the old value and its operand, `w` bits wide. -/
def amoResult (op : AmoOp) (w old v : Nat) : Nat :=
  match op with
  | .swap => v
  | .add => (old + v) % 2 ^ w
  | .and => old &&& v
  | .or => old ||| v
  | .xor => old ^^^ v
  | .min => if signed old w ≤ signed v w then old else v
  | .max => if signed v w ≤ signed old w then old else v
  | .minu => min old v
  | .maxu => max old v

/-- What rl and aq ask before the access: with rl the stores before it become visible first, as do stores to its own location
(R550, R555); SYNC.LL after it, which aq asks for, has nothing left to order. -/
def releaseBefore (c : Nat) (p : StationPlace) (a n : Nat) (rl : Bool) (s : State) : State :=
  let own := (coreAt s c).buffer.any fun e => match e with
    | some x => x.meets p a n
    | none => false
  if rl || own then drainAll c s else s

/-- With aq and rl the order holds around the access: nothing of the core is buffered after it (R555). -/
def aroundAfter (c : Nat) (aq rl : Bool) (s : State) : State := if aq && rl then drainAll c s else s

/-- The memory takes an atomic, LR or SC: scratchpad or HBM, aligned; else a store access fault (R555). -/
def atomicReaches (s : State) (p : StationPlace) (a w : Nat) : Bool :=
  decide (p ≠ .other) && decide (a % w = 0) && stationReaches s p a w && !stationPoison s p a w

/-- An atomic instruction (R555). -/
def stationAmo (c : Nat) (p : StationPlace) (a w : Nat) (op : AmoOp) (v : Nat) (aq rl : Bool) (s : State) : State :=
  if atomicReaches s p a w = false then stationTrap c 7 s
  else
    let s := releaseBefore c p a w rl s
    let old := stationMemory s p a w
    let s := stationWrite c { place := p, addr := a, data := natLe (amoResult op (8 * w) (leNat old) (v % 2 ^ (8 * w))) w } s
    aroundAfter c aq rl (modCore c (fun y => { y with loaded := old }) s)

/-- LR takes a reservation (R555). -/
def stationLr (c : Nat) (p : StationPlace) (a w : Nat) (aq rl : Bool) (s : State) : State :=
  if atomicReaches s p a w = false then stationTrap c 7 s
  else
    let s := releaseBefore c p a w rl s
    let old := stationMemory s p a w
    aroundAfter c aq rl (modCore c (fun y => { y with loaded := old, reserved := some { place := p, addr := a, data := old } }) s)

/-- SC stores where the core's reservation of the same bytes still stands and no agent has changed them: 0 stored, 1 not
(R555). -/
def stationSc (c : Nat) (p : StationPlace) (a w v : Nat) (aq rl : Bool) (s : State) : State :=
  if atomicReaches s p a w = false then stationTrap c 7 s
  else
    let s := releaseBefore c p a w rl s
    let ok := decide ((coreAt s c).reserved = some { place := p, addr := a, data := stationMemory s p a w })
    let s := if ok then stationWrite c { place := p, addr := a, data := natLe v w } s else s
    aroundAfter c aq rl (modCore c (fun y => { y with loaded := natLe (if ok then 0 else 1) w, reserved := none }) s)

/-- Station firmware loads PC60 or PC61 for a coordinated checkpoint (R24, R398). -/
def loadCheckpoint (second : Bool) (cycle phase : Nat) (s : State) : State :=
  if s.kiosk.stationRunning && packageRuns s && !dropping s then
    armPackage (pcCheckpoint + if second then 1 else 0) (cycle % 2 ^ 48) (phase % 4096) 0 s
  else s

/-! ### Lot memories (R925 to R929) -/

/-- Words and width of an aspect code. -/
def aspectShape (code : Nat) : Nat × Nat :=
  match code with
  | 0 => (32768, 1)
  | 1 => (16384, 2)
  | 2 => (8192, 4)
  | 3 => (4096, 9)
  | 4 => (2048, 18)
  | 5 => (1024, 36)
  | _ => (512, 72)

/-- Bytes of a lot memory that hold `w` bits from bit `at_` on. -/
def bitSpan (at_ w : Nat) : Nat := (at_ % 8 + w + 7) / 8

/-- `w` bits of a memory from bit `at_` on. -/
def bitsRead (m : Memory) (at_ w : Nat) : Nat := leNat (memRead m (at_ / 8) (bitSpan at_ w)) / 2 ^ (at_ % 8) % 2 ^ w

/-- Writing `w` bits from bit `at_` on. -/
def bitsWrite (m : Memory) (at_ w v : Nat) : Memory :=
  let n := bitSpan at_ w
  let old := leNat (memRead m (at_ / 8) n)
  memWrite m (at_ / 8) (natLe (old - bitsRead m at_ w * 2 ^ (at_ % 8) + v % 2 ^ w * 2 ^ (at_ % 8)) n)

/-- An access of fabric logic through a port of a lot memory, one at a time, so the arbiter's order is theirs (R926, R927).
With code 6 the first port writes and the second reads. -/
def lotMemory (l m : Nat) (second : Bool) (word : Nat) (write : Option Nat) (s : State) : State :=
  let x := lotAt s l
  let code := Config.memAspect x.config m % 8
  let (words, w) := aspectShape code
  if x.serves = false ∨ words ≤ word ∨ (code = 6 ∧ second = write.isSome) then s
  else
    let at_ := 8 * 4608 * m + w * word
    match write with
    | some v => modLot l (fun x => { x with mems := bitsWrite x.mems at_ w v }) s
    | none => modLot l (fun x => { x with
        memAck := tabPut 0 (2 * m + if second then 1 else 0) (bitsRead x.mems at_ w) x.memAck }) s

/-! ### LINK controllers (R930 to R933) -/

/-- Fabric logic hands words to a LINK_OUT controller, which acknowledges as many as its FIFO holds. -/
def linkOffer (c : Nat) (words : List Nat) (s : State) : State :=
  if controllerMode s c ≠ 5 then s
  else if illegalWord words then portBreaks c s
  else setFifo c ((fifoAt s c ++ words).take 256) s

/-- Fabric logic takes words from a LINK_IN controller. -/
def linkTake (c n : Nat) (s : State) : State :=
  if controllerMode s c ≠ 4 then s else setFifo c ((fifoAt s c).drop n) s

/-- A word crosses from a LINK_OUT controller to the LINK_IN controller that its entry names; it is held while the peer is no
LINK_IN, its lot is out of service, or its FIFO is full. -/
def linkMove (c : Nat) (s : State) : State :=
  let p := objAt s 0x8032 (c + 1)
  match fifoAt s c with
  | [] => s
  | w :: r =>
    if controllerMode s c ≠ 5 ∨ 128 ≤ p ∨ controllerMode s p ≠ 4 ∨ 256 ≤ (fifoAt s p).length then s
    else
      let s := setFifo c r s
      count 0x8050 1 1 (count 0x8050 2 1 (setFifo p (fifoAt s p ++ [w]) s))

/-! ### Serialiser lanes (R946, R950 to R952) -/

/-- A lane runs: its bank is GOOD, no CFG_ERR_N holds the pads, and a lot in service of the chiplet enables it.  The answer says
whether it transmits. -/
def laneRuns (s : State) (b j : Nat) : Option Bool :=
  if (bankAt s b).state ≠ 2 ∨ s.fab.cfgErr = true then none
  else ((chipLots b).find? fun l => (lotAt s l).serves && bit (lotAt s l).lanes j).map fun l => bit (lotAt s l).lanesTx j

/-- A lane of a bank. -/
def laneAt (s : State) (b j : Nat) : Lane := tabGet {} j (bankAt s b).lanes

/-- Changing a lane. -/
def modLane (b j : Nat) (f : Lane → Lane) (s : State) : State :=
  modBank b (fun x => { x with lanes := tabPut {} j (f (tabGet {} j x.lanes)) x.lanes }) s

/-- A word arrives at a receiving lane: with the FIFO full it is discarded and counted, and OVERRUN is set (R952). -/
def laneReceive (b j w : Nat) (s : State) : State :=
  if laneRuns s b j ≠ some false then s
  else if 32 ≤ (laneAt s b j).fifo.length then
    count 0x8050 5 1 (modBank b (fun x => { x with overrun := putBit x.overrun j true }) s)
  else modLane b j (fun x => { x with fifo := x.fifo ++ [w % 65536] }) s

/-- Fabric logic takes words from a receiving lane. -/
def laneTake (b j n : Nat) (s : State) : State :=
  if laneRuns s b j ≠ some false then s else modLane b j (fun x => { x with fifo := x.fifo.drop n }) s

/-- Fabric logic hands a word to a transmitting lane; a full FIFO does not acknowledge it. -/
def lanePut (b j w : Nat) (s : State) : State :=
  if laneRuns s b j ≠ some true ∨ 32 ≤ (laneAt s b j).fifo.length then s
  else modLane b j (fun x => { x with fifo := x.fifo ++ [w % 65536] }) s

/-- A transmitting lane sends its next word, bit 0 first; with its FIFO empty, the last one again, which is counted (R951,
R952). -/
def laneSend (b j : Nat) (s : State) : State :=
  if laneRuns s b j ≠ some true then s
  else
    let x := laneAt s b j
    let w := x.fifo.headD x.last
    let s := if x.fifo = [] then count 0x8050 6 1 s else s
    emit (.lane b j ((List.range 16).map (bit w))) (modLane b j (fun x => { fifo := x.fifo.tail, last := w }) s)

/-! ### TICK -/

/-- One act of the station firmware. -/
def runStation (a : Act) (c : Nat) (s : State) : State :=
  if coreRuns s c = false then s
  else match a with
    | .stationStore _ p x bs => stationStore c p x bs s
    | .stationLoad _ p x n => stationLoad c p x n s
    | .stationFence _ pr pw sr sw tso => stationFence c pr pw sr sw tso s
    | .stationAmo _ p x w op v aq rl => stationAmo c p x w op v aq rl s
    | .stationLr _ p x w aq rl => stationLr c p x w aq rl s
    | .stationSc _ p x w v aq rl => stationSc c p x w v aq rl s
    | .stationDrain _ n => stationDrain c n s
    | _ => s

/-- One act. -/
def runAct (a : Act) (s : State) : State :=
  let fab (f : State → State) : State := if packageRuns s && !dropping s then f s else s
  match a with
  | .checkpoint second cycle phase => loadCheckpoint second cycle phase s
  | .stationStore c _ _ _ => runStation a c s
  | .stationLoad c _ _ _ => runStation a c s
  | .stationFence c _ _ _ _ _ => runStation a c s
  | .stationAmo c _ _ _ _ _ _ _ => runStation a c s
  | .stationLr c _ _ _ _ _ => runStation a c s
  | .stationSc c _ _ _ _ _ _ => runStation a c s
  | .stationDrain c _ => runStation a c s
  | .hostRead bar4 offset length => hostReads bar4 offset length s
  | .configRead r => configAccess r none s
  | .configWrite r v => configAccess r (some v) s
  | .aerError u b => logAer u b s
  | .lotMemory l m second word write => fab (lotMemory l m second word write)
  | .cell l n ports => fab (runCell l n ports)
  | .stage l n => fab (runStage l n)
  | .linkOffer c ws => fab (linkOffer c ws)
  | .linkTake c n => fab (linkTake c n)
  | .linkMove c => fab (linkMove c)
  | .laneReceive b j w => fab (laneReceive b j w)
  | .laneTake b j n => fab (laneTake b j n)
  | .lanePut b j w => fab (lanePut b j w)
  | .laneSend b j => fab (laneSend b j)

/-- TICK: what the agents did during the tick, in order; then the tick length ends (R70, R75). -/
def execTick (s : State) (acts : List Act := []) : Out :=
  if s.life.state = .absent then .next s else .next (endTick (forEach runAct acts s))

end Sys2Proof.Machine
end

