-- ==== Sys2Proof/Machine/Ballast.lean ====
section
/-! DEFINITION. Ballast bursts on tiles (chapters 03 and 12). -/

namespace Sys2Proof.Machine

/-- BALLAST_REQ of a tile: the ballast level is above zero and ballast is permitted on it (R144). -/
def ballastReq (s : State) (x : Tile) : Bool :=
  decide (0 < s.gov.ballast) && x.loaded && ballastPermitted s.gov.sparesNow x && packageRuns s && s.gov.railsOn && !dropping s

/-- One burst of 15 cycles at the governor's level when it starts, repeated while BALLAST_REQ holds; the idle loop
otherwise; a program that waits keeps its place (log entry 114).  A burst touches nothing else (R146, R665 to R667). -/
def execBallastBurst (tile : Fin 160) (s : State) : Out :=
  let x := tileAt s tile.val
  if ballastReq s x then .next (modTile tile.val (fun x => { x with burst := s.gov.ballast, upc := if x.works then x.upc else 0x040 }) s)
  else if x.burst = 0 then .next s
  else .next (modTile tile.val (fun x => { x with burst := 0, upc := if x.works then x.upc else 0x004 }) s)

end Sys2Proof.Machine
end

