-- ==== Sys2Proof/Machine/Boundary.lean ====
section
/-! DEFINITION. The half-cycle boundary (R134): the governor first (R60, R111), then what the sled does at boundaries. -/

namespace Sys2Proof.Machine

/-- A descriptor is pending on a HOST_WORK queue (R138). -/
def hostBusy (s : State) : Bool :=
  s.host.queues.any fun (q, x) => decide (q < 4064) && decide (x.cls = 0) &&
    (!x.flight.isEmpty || (decide (x.state = .enabled) && decide (x.head ≠ x.tail)))

/-- From its slot to its descent the sweep raises the draw to its level, by at most U in a half-cycle, and ballast holds it
there (R1019, R1020). -/
def sweepFloor (s : State) : State :=
  if s.life.state = .sweep ∧ s.life.descent = .idle then
    s.modGov fun g => { g with floorMw := min g.ceilMw (max g.floorMw (min (sweepLevel s) (g.aMw + g.uMw))) }
  else s

/-- Qualified start conditions lead into PRECHARGE (R183). -/
def startStep (s : State) : State :=
  if s.life.state = .standby ∧ s.life.startDue = true then
    enterLife .precharge ((s.modGov fun g => { g with state := .precharge }).modLife fun l => { l with startDue := false })
  else s

/-- Package reset of an ordered shutdown (R196). -/
def shutdownReset (s : State) : State :=
  ((packageReset s).modGov (lowerSupplies 3)).modLife fun l => { l with
    descent := .resetAsserted }

/-- The descents: package reset once A is within D of 180 W, the switch once A is at most D (R176, R196, R197).  The draw at a
boundary is A of the half-cycle just ended (DESIGN CHOICE, log entry 118). -/
def descentStep (s : State) : State :=
  let low := decide (s.gov.aMw ≤ 180000 + s.gov.dMw)
  match s.life.descent with
  | .idle => s
  | .toReset => if low then assertReset s else s
  | .toOff => if low then shutdownReset s else s
  | .resetAsserted => if s.gov.aMw ≤ s.gov.dMw then openSwitch s else s

/-- One boundary of the supply sequence: the permitted draw rises by 50 W, and the next group is enabled once it passes the
bound of those that are up (R1132). -/
def raiseSupplies (g : Governor) : Governor :=
  let w := g.supplyMw + 50000
  let n := if g.supplyGroups < 4 ∧ supplyBound g.supplyGroups < w then g.supplyGroups + 1 else g.supplyGroups
  { enableGroup n g with supplyMw := min w (supplyBound n) }

/-- The main-domain supplies come up group by group (R1132). -/
def supplyStep (s : State) : State :=
  if s.life.state = .powered ∧ suppliesUp s.gov = false then s.modGov raiseSupplies else s

/-- FAB_VDD follows its object, never above 0.80 V (R143, R922). -/
def fabSupply (s : State) : State :=
  if packageRuns s = true ∧ 1 ≤ s.gov.supplyGroups then
    forEach (fun c s => modChip c (fun x => { x with vdd := min 800 (objAt s 0x8010 0) }) s) (List.range 4) s
  else s

/-- A half-cycle boundary (R74, R134, R164). -/
def execHalfCycleBoundary (t : Nat) (s : State) : Out :=
  let s := clockTo t s
  if s.rb.boundaryDue = false ∨ s.life.state = .absent then .next s
  else
    let s := governorBoundary (hostBusy s) (s.modRb fun r => { r with boundaryDue := false })
    .next (fabSupply (supplyStep (sweepBoundary (descentStep (startStep (sweepFloor s))))))

end Sys2Proof.Machine
end

