-- ==== Sys2Proof/Machine/Memory.lean ====
section
/-! DEFINITION. Errors of HBM and the cellar, fenced stacks and packages, and peer memory (chapter 10). -/

namespace Sys2Proof.Machine

/-! ### Errors (R521 to R526, R531) -/

/-- Size of a memory. -/
def memSize (s : State) (cellar : Bool) : Nat := if cellar then cellarSize s else hbmSize s

/-- Stack or package number of an address. -/
def memUnit (s : State) (cellar : Bool) (a : Nat) : Nat := unitOf (if cellar then s.tiers.cellarMap else s.tiers.hbmMap) a

/-- The address exists on an unfenced unit. -/
def memValid (s : State) (cellar : Bool) (a : Nat) : Bool := if cellar then cellarValid s a else hbmValid s a

/-- A word is poisoned. -/
def wordPoisoned (s : State) (cellar : Bool) (w : Nat) : Bool :=
  tabGet false w (if cellar then s.tiers.cellarPoison else s.tiers.hbmPoison)

/-- A corrected error is counted (R522). -/
def countCorrected (cellar : Bool) (unit : Nat) (s : State) : State := count (if cellar then 0x5032 else 0x5022) (unit + 1) 1 s

/-- Uncorrectable errors counted on a unit in the last second (R526). -/
def recentErrors (s : State) (cellar : Bool) (unit : Nat) : Nat :=
  ((if cellar then s.tiers.cellarErrors else s.tiers.hbmErrors).filter fun (u, t) =>
    decide (u = unit) && decide (s.now - t ≤ 1000000000)).length

/-- An uncorrectable error: the word is poisoned and the error counted (R523, R526). -/
def uncorrectable (cellar : Bool) (w unit : Nat) (s : State) : State :=
  let keep (l : List (Nat × Nat)) : List (Nat × Nat) :=
    (l.filter fun (_, t) => decide (s.now - t ≤ 1000000000)) ++ [(unit, s.now)]
  count (if cellar then 0x5033 else 0x5023) (unit + 1) 1 (s.modTiers fun t =>
    if cellar then { t with cellarPoison := tabPut false w true t.cellarPoison, cellarErrors := keep t.cellarErrors }
    else { t with hbmPoison := tabPut false w true t.hbmPoison, hbmErrors := keep t.hbmErrors })

/-- The other accesses of a user are no longer waited for. -/
def dropAccesses (u : PeerUser) (s : State) : State :=
  s.modLinks fun l => { l with accesses := l.accesses.filter fun (_, a) =>
    match a with
    | some a => decide (a.user ≠ u)
    | none => false }

/-- What each reader of a poisoned word receives (R523); a COPY within the sled finds it as its bytes move. -/
def poisonedReader (cellar : Bool) (addr : Nat) (r : Reader) (s : State) : State :=
  match r with
  | .tile n => if (tileAt s n).state = .active then machineCheck n 8 s else s
  | .mover n => if s.prog.isSome ∧ (tileAt s n).works = true then abortProgram 0x5001 addr (if cellar then 2 else 1) s else s
  | .copy q i => match (queueAt s q).desc i with
    | some d =>
      if d.state = .started ∧ field d.data 0 1 = 2 ∧ localCopy d = false then progress q i 0 0x5001 (dropAccesses (.copy q i) s)
      else s
    | none => s
  | .station c => stationTrap c 5 s
  | .host => poisonToHost 8 s
  | .peer => s

/-- A read finds an error (R522, R523). -/
def execMemoryReadError (t : Nat) (cellar : Bool) (addr : Nat) (uncorr : Bool) (reader : Reader) (s : State) : Out :=
  let s := clockTo t s
  if packageRuns s = false ∨ memValid s cellar addr = false then .next s
  else
    let u := memUnit s cellar addr
    if uncorr then .next (poisonedReader cellar addr reader (uncorrectable cellar (addr / 8) u s))
    else .next (countCorrected cellar u s)

/-- The patrol reads its next word and goes on to the one after it (R525). -/
def execMemoryPatrol (t : Nat) (cellar : Bool) (errors : Nat) (s : State) : Out :=
  let s := clockTo t s
  let n := memSize s cellar / 8
  if packageRuns s = false ∨ n = 0 then .next s
  else
    let w := (if cellar then s.tiers.cellarPatrol else s.tiers.hbmPatrol) % n
    let s := s.modTiers fun t =>
      if cellar then { t with cellarPatrol := (w + 1) % n } else { t with hbmPatrol := (w + 1) % n }
    if memValid s cellar (8 * w) = false ∨ wordPoisoned s cellar w = true ∨ errors = 0 then .next s
    else if errors = 1 then .next (countCorrected cellar (memUnit s cellar (8 * w)) s)
    else .next (uncorrectable cellar w (memUnit s cellar (8 * w)) s)

/-! ### Fences (R526 to R533) -/

/-- A stack or package is in the map and unfenced. -/
def unitServes (s : State) (cellar : Bool) (u : Nat) : Bool :=
  (if cellar then s.tiers.cellarMap else s.tiers.hbmMap).contains u &&
    !bit (if cellar then s.contain.cellarFences else s.contain.stackFences) u

/-- A stack or package is fenced: its contents are lost, programs abort and launches are refused (R527, R528, R532). -/
def fenceMemory (cellar : Bool) (u cause : Nat) (s : State) : State :=
  let n := recentErrors s cellar u
  let s := record { cause := cause, cls := 2, unitType := if cellar then utCellar else utStack, unit := u, detail2 := n } s
  let s := s.modContain fun c => { c with
    stackFences := if cellar then c.stackFences else c.stackFences ||| 2 ^ u
    cellarFences := if cellar then c.cellarFences ||| 2 ^ u else c.cellarFences
    memoryLost := true }
  checkCapability (abortAtStep 0x5002 0 s)

/-- A channel failure, or the rate of uncorrectable errors at its threshold (R526, R531). -/
def execMemChannelFail (t : Nat) (cellar : Bool) (unit : Nat) (channel : Bool) (s : State) : Out :=
  let s := clockTo t s
  if packageRuns s = false ∨ unitServes s cellar unit = false then .next s
  else if channel then .next (fenceMemory cellar unit 0x9007 s)
  else if objAt s 0x5103 0 ≤ recentErrors s cellar unit then .next (fenceMemory cellar unit 0x9008 s)
  else .next s

/-! ### Peer memory (R544 to R547) -/

/-- The life states in which peer accesses are accepted (R545). -/
def lends (s : State) : Bool :=
  match s.life.state with
  | .joined | .running | .degraded | .departReq => true
  | _ => false

/-- Pages of the lend region that a range touches. -/
def lendPages (offset length : Nat) : List Nat :=
  (List.range ((offset + length - 1) / pageBytes - offset / pageBytes + 1)).map (offset / pageBytes + ·)

/-- Pages not yet granted are granted to the borrower that asks first; none in DEPART_REQ (R546). -/
def grantPages (borrower offset length : Nat) (s : State) : State :=
  if s.life.state = .departReq then s
  else s.modTiers fun t => { t with
    lent := (lendPages offset length).foldl (fun l p =>
      if tabGet 0xFFFF p l = 0xFFFF then tabPut 0xFFFF p borrower l else l) t.lent }

/-- A peer access arrives: served in the lend region, or refused (R523, R528, R544 to R547). -/
def execPeerAccess (t borrower offset length : Nat) (write : Option (List Byte)) (s : State) : Out :=
  let s := clockTo t s
  if packageRuns s = false ∨ dropping s = true then .next s
  else if lends s = false ∨ length = 0 ∨ lendSize s < offset + length ∨
      rangeValid (hbmValid s) (lendBase s + offset) length = false then .next (emit (.peerReply borrower 1 []) s)
  else
    let s := grantPages borrower offset length s
    let a := lendBase s + offset
    match write with
    | some bs => .next (emit (.peerReply borrower 0 []) (hbmWrite a (padTo bs length) s))
    | none =>
      if poisoned s.tiers.hbmPoison a length then .next (emit (.peerReply borrower 2 []) s)
      else .next (emit (.peerReply borrower 0 (hbmRead s a length)) s)

/-- A mover's peer access is answered: the access fault of one refused or discarded has the cause PEER_REFUSED or LINK_DOWN
(R523, R544, R547, R813). -/
def moverAnswer (n c status : Nat) (a : PeerAccess) (data : List Byte) (s : State) : State :=
  match s.prog with
  | none => s
  | some p =>
    if ((tileAt s n).chan c).started = false then s
    else if status = 1 ∨ status = 3 then failChannel n c (if status = 1 then 0x5006 else 0x7001) (dropAccesses (.mover n c) s)
    else if status ≠ 0 then abortProgram 0x5001 a.offset 3 s
    else
      let s := modTile n (fun x => x.setChan c fun ch => { ch with
        waiting := ch.waiting - 1
        peer := if a.write then ch.peer else memWrite ch.peer (a.sled * 2 ^ 48 + a.offset) (padTo data a.length) }) s
      let ch := (tileAt s n).chan c
      if ch.waiting = 0 ∧ ch.moved = false then runTransfer p n c s else s

/-- A COPY's peer access is answered (R384, R523, R544, R547, R813). -/
def copyAnswer (q index status : Nat) (a : PeerAccess) (data : List Byte) (s : State) : State :=
  match (queueAt s q).desc index with
  | none => s
  | some d =>
    if status = 1 then progress q index 0 0x5006 s
    else if status = 3 then progress q index 0 0x7001 s
    else if status ≠ 0 then progress q index 0 0x5001 s
    else if a.write then progress q index a.length 0 s
    else if field d.data 33 1 = 3 then copyAccess q index a.sled (field d.data 16 8) a.length (some (padTo data a.length)) s
    else copyOut q index a.length (field d.data 33 1) (field d.data 16 8) (padTo data a.length) 0 s

/-- A response completes a peer access: 0 served, 1 refused, 2 poisoned, 3 its slab was discarded (R813). -/
def execPeerResponse (t access status : Nat) (data : List Byte) (s : State) : Out :=
  let s := clockTo t s
  match tabGet none access s.links.accesses with
  | none => .next s
  | some a =>
    if packageRuns s = false ∨ dropping s = true then .next s
    else
      let s := s.modLinks fun l => { l with accesses := tabPut none access none l.accesses }
      match a.user with
      | .mover n c => .next (moverAnswer n c status a data s)
      | .copy q i => .next (copyAnswer q i status a data s)
      | .promote i => .next (pageAnswer i status data s)

end Sys2Proof.Machine
end

