-- ==== Sys2Proof/Machine/Micro.lean ====
section
/-! DEFINITION. The microsequencer below the tile instruction (chapter 12): microwords, window traps, the return from a
trap, interrupts, station firmware's orders, machine checks and the control-store patrol. -/

namespace Sys2Proof.Machine

/-! ### Microword fields (R627) -/

def uNext (w : Nat) : Nat := bits w 159 148
def uSeq (w : Nat) : Nat := bits w 147 145
def uC (w i : Nat) : Nat := bits w (129 + 5 * i) (125 + 5 * i)
def uAlu (w : Nat) : Nat := bits w 124 120
def uSrcA (w : Nat) : Nat := bits w 119 115
def uSrcB (w : Nat) : Nat := bits w 114 110
def uDst (w : Nat) : Nat := bits w 109 105
def uBsel (w : Nat) : Nat := bits w 104 103
def uLit (w : Nat) : Nat := bits w 102 71
def uIfield (w : Nat) : Nat := bits w 70 65
def uMem (w : Nat) : Nat := bits w 64 62
def uMemAddr (w : Nat) : Nat := bits w 61 57
def uMemData (w : Nat) : Nat := bits w 56 52
def uMu (w : Nat) : Nat := bits w 51 48
def uMuReg (w : Nat) : Nat := bits w 47 43
def uVu (w : Nat) : Nat := bits w 42 39
def uVuReg (w : Nat) : Nat := bits w 38 34
def uMv (w : Nat) : Nat := bits w 33 31
def uMvReg (w : Nat) : Nat := bits w 30 26
def uFlag (w : Nat) : Nat := bits w 25 23
def uPcOp (w : Nat) : Nat := bits w 22 21
def uTrap (w : Nat) : Nat := bits w 20 18
def uLoop (w : Nat) : Nat := bits w 17 16

/-- The microword at an address of the control store (R615). -/
def controlWord (s : State) (upc : Nat) : Nat := leNat ((s.tiers.control.drop (20 * upc)).take 20)

/-- A DISPATCH, WAIT or RTT microword holds nothing but what R634 allows it. -/
def quietWord (w : Nat) : Bool :=
  decide (uAlu w = 0) && decide (uSrcA w = 0) && decide (uSrcB w = 0) && decide (uDst w = 0) && decide (uBsel w = 0) &&
  decide (uLit w = 0) && decide (uIfield w = 0) && decide (uMemAddr w = 0) && decide (uMemData w = 0) &&
  decide (uMu w = 0) && decide (uMuReg w = 0) && decide (uVu w = 0) && decide (uVuReg w = 0) && decide (uMv w = 0) &&
  decide (uMvReg w = 0) && decide (uFlag w = 0) && decide (uTrap w = 0) && decide (uLoop w = 0) &&
  (decide (uSeq w ≠ 4) || decide (uMem w = 0))

/-- The machine check a microword raises by its own content: BLANK_WORD or RESERVED_CODE (R628, R634, R664). -/
def wordCheck (w : Nat) : Option Nat :=
  if w % 2 ^ 160 = 0 then some 9
  else if w % 2 ^ 15 ≠ 0 ∨ 0x0A < uAlu w ∨ uBsel w = 3 ∨ 0x0E < uIfield w ∨ 3 < uMu w ∨ 1 < uVu w ∨ 2 < uMv w ∨
      3 < uFlag w ∨ uPcOp w = 3 ∨ 3 < uTrap w ∨ uLoop w = 3 ∨ uSeq w = 7 ∨ 12 < uMuReg w ∨ 12 < uVuReg w ∨
      (List.range 4).any (fun i => decide (0x14 < uC w i)) = true ∨
      ((uSeq w = 3 ∨ uSeq w = 4 ∨ uSeq w = 5) ∧ quietWord w = false) ∨
      ((uFlag w = 1 ∨ uFlag w = 2) ∧ uAlu w ≠ 0) then some 6
  else none

/-! ### Registers and conditions -/

/-- The window that W0 to W15 name: MW7 while IN_TRAP is set. -/
def Tile.window (x : Tile) : Nat := if x.inTrap then 7 else x.cwp

/-- Reading a register select. -/
def Tile.sel (x : Tile) (r : Nat) : Word :=
  if r < 0x10 then x.wreg x.window r
  else if r < 0x18 then tabGet 0 (r - 0x10) x.gregs
  else match r with
    | 0x18 => x.sreg (iRa x.ir)
    | 0x19 => x.sreg (iRb x.ir)
    | 0x1A => x.sreg (iRd x.ir)
    | 0x1B => BitVec.ofNat 64 x.pc
    | 0x1C => x.lc
    | 0x1D => BitVec.ofNat 64 x.tcause
    | 0x1E => BitVec.ofNat 64 x.logical
    | _ => 0

/-- Writing a register select; TCAUSE, TID and ZERO discard it. -/
def Tile.put (r : Nat) (v : Word) (x : Tile) : Tile :=
  if r < 0x10 then x.setW x.window r v
  else if r < 0x18 then { x with gregs := tabPut 0 (r - 0x10) v x.gregs }
  else match r with
    | 0x18 => x.setS (iRa x.ir) v
    | 0x19 => x.setS (iRb x.ir) v
    | 0x1A => x.setS (iRd x.ir) v
    | 0x1B => { x with pc := v.toNat % 2 ^ 32 }
    | 0x1C => { x with lc := v }
    | _ => x

/-- The IR field named by IFIELD. -/
def irField (p : Program) (x : Tile) (f : Nat) : Word :=
  let i := x.ir
  match f with
  | 0x00 => BitVec.ofNat 64 (iOp i)
  | 0x01 => BitVec.ofNat 64 (iRd i)
  | 0x02 => BitVec.ofNat 64 (iRa i)
  | 0x03 => BitVec.ofNat 64 (iRb i)
  | 0x04 => BitVec.ofNat 64 (iRc i)
  | 0x05 => BitVec.ofNat 64 (iFa i)
  | 0x06 => BitVec.ofNat 64 (iFb i)
  | 0x07 => BitVec.ofNat 64 (iFd i)
  | 0x08 => BitVec.ofNat 64 (iSa i)
  | 0x09 => BitVec.ofNat 64 (iSb i)
  | 0x0A => BitVec.ofNat 64 (iSd i)
  | 0x0B =>
    let o := engineOp p x i
    BitVec.ofNat 64 (flag (iNd i) 0 + 2 * o.rm + 8 * o.subn + flag o.stepwise 5 + flag o.wrap 6 + flag (iAcc i) 7 +
      256 * iSplit i)
  | 0x0C => BitVec.ofInt 64 (immInt i)
  | 0x0D => BitVec.ofNat 64 (iImm i)
  | 0x0E => BitVec.ofNat 64 (bits i 95 74)
  | _ => 0

/-- A condition code. -/
def condition (s : State) (p : Program) (x : Tile) (c : Nat) : Bool :=
  match c with
  | 0x01 => true
  | 0x02 => x.aluZ
  | 0x03 => x.aluN
  | 0x04 => x.aluC
  | 0x05 => x.aluV
  | 0x06 => decide (x.lc = 0)
  | 0x07 => x.ops.any fun o => isMatrix o.instr
  | 0x08 => x.ops.any fun o => !isMatrix o.instr
  | 0x09 => decide (8 ≤ x.chan0.commands.length)
  | 0x0A => decide (8 ≤ x.chan1.commands.length)
  | 0x0B => x.chan0.idle
  | 0x0C => x.chan1.idle
  | 0x0E => decide (0 < s.gov.ballast) && ballastPermitted s.gov.sparesNow x
  | 0x0F => decide (x.irqs ≠ 0)
  | 0x10 => p.trapMode
  | 0x11 => allAtStep s p
  | 0x12 => gateFired s p
  | 0x13 => x.resume
  | _ => false

/-- cond: the four conditions as bits 3 to 0. -/
def condBits (s : State) (p : Program) (x : Tile) (w : Nat) : Nat :=
  sumTo 4 fun i => flag (condition s p x (uC w i)) i

/-- The ALU: result, carry and overflow; none where the spec states no carry or overflow. -/
def alu (op : Nat) (a b : Word) : Word × Option Bool × Option Bool :=
  match op with
  | 0x01 =>
    let r := a + b
    (r, some (decide (2 ^ 64 ≤ a.toNat + b.toNat)), some (decide (a.msb = b.msb) && decide (r.msb ≠ a.msb)))
  | 0x02 | 0x0A => let r := a - b; (r, none, some (decide (a.msb ≠ b.msb) && decide (r.msb ≠ a.msb)))
  | 0x03 => (a &&& b, none, none)
  | 0x04 => (a ||| b, none, none)
  | 0x05 => (a ^^^ b, none, none)
  | 0x06 => (a <<< (b.toNat % 64), none, none)
  | 0x07 => (a >>> (b.toNat % 64), none, none)
  | 0x08 => (a.sshiftRight (b.toNat % 64), none, none)
  | _ => (b, none, none)

/-- A flag the spec states, or a free value (log entry 2). -/
def flagOr (f : Option Bool) (k : Nat) : Bool := f.getD (decide (Config.freeValue k % 2 = 1))

/-! ### Executing microwords -/

/-- What executing a microword comes to. -/
inductive MicroOut where
  | next (s : State)
  | stall
  | check (subcause : Nat)
  | overflow
  | underflow
  | fault (cause addr : Nat)
  deriving DecidableEq, Repr

/-- The oldest occupied window. -/
def Tile.oldest (x : Tile) : Nat := (x.cwp + 8 - x.occ) % 7

/-- Tile-local address of a save-area slot (R649). -/
def slotAddr (k : Nat) : Nat := 0x1FF100 + 0x80 * k

/-- SPILL (R649). -/
def spillWindow (x : Tile) : Tile :=
  let bs := (List.range 16).flatMap fun r => natLe (x.wreg x.oldest r).toNat 8
  { x with scratch := memWrite x.scratch (slotAddr x.spill) bs, spill := x.spill + 1, occ := x.occ - 1 }

/-- FILL (R649). -/
def fillWindow (x : Tile) : Tile :=
  let w := (x.cwp + 6) % 7
  let a := slotAddr (x.spill - 1)
  let x' := (List.range 16).foldl (fun y r => y.setW w r (BitVec.ofNat 64 (leNat (memRead x.scratch (a + 8 * r) 8)))) x
  { x' with spill := x.spill - 1, occ := x.occ + 1 }

/-- The ALU's effect: result register and flags (R629). -/
def aluEffect (w : Nat) (r : Word) (c v : Option Bool) (n : Nat) (s : State) : State :=
  if uAlu w = 0 then s
  else
    let k := s.freeCount
    let s : State := { s with freeCount := s.freeCount + 2 }
    modTile n (fun x =>
      let x := { x with aluZ := decide (r = 0), aluN := r.msb, aluC := flagOr c k, aluV := flagOr v (k + 1) }
      if uAlu w = 0x0A then x else x.put (uDst w) r) s

/-- The memory operation, with addresses and data as read before any write (R629 to R631, R649). -/
def memEffect (p : Program) (w a : Nat) (d : Word) (n : Nat) (s : State) : State :=
  match uMem w with
  | 1 => modTile n (Tile.put (uMemData w) (BitVec.ofNat 64 (leNat (tileRead s p n a 8)))) s
  | 2 => tileWrite p n a (natLe d.toNat 8) s
  | 6 => modTile n spillWindow s
  | 7 => modTile n fillWindow s
  | _ => s

/-- Issue to the engines and the mover, from window registers as read before any write. -/
def issueEffect (p : Program) (x0 : Tile) (w n : Nat) (s : State) : State :=
  let r (k : Nat) : Nat := (x0.sel k).toNat
  let put (o : EngineOp) (s : State) : State :=
    (modTile n (fun x => { x with ops := x.ops ++ [o], issued := x.issued + 1 }) s).modGov fun g =>
      { g with workThis := true }
  let o := engineOp p x0 x0.ir
  let s := if uMu w = 1 ∨ uMu w = 2 then
      put { o with srcA := r (uMuReg w), srcB := r (uMuReg w + 1), srcC := r (uMuReg w + 2), dst := r (uMuReg w + 3) } s
    else if uMu w = 3 then modTile n (fun x => { x with burst := s.gov.ballast }) s
    else s
  let s := if uVu w = 1 then
      put { o with dst := r (uVuReg w), srcA := r (uVuReg w + 1), srcB := r (uVuReg w + 2), srcC := r (uVuReg w + 3) } s
    else s
  if uMv w = 0 then s else (issueMover n (uMv w - 1) (r (uMvReg w)) s).1

/-- The flag, loop and PC operations, in that order (R629). -/
def lateEffect (w : Nat) (r : Word) (n : Nat) (s : State) : State :=
  modTile n (fun x =>
    let x := match uFlag w with
      | 1 => x.put (uDst w) (BitVec.ofNat 64 x.flags)
      | 2 => { x.put (uDst w) (BitVec.ofNat 64 x.flags) with flags := 0 }
      | 3 => { x with flags := 0 }
      | _ => x
    let x := match uLoop w with
      | 1 => { x with lc := r }
      | 2 => { x with lc := if x.lc = 0 then 0 else x.lc - 1 }
      | _ => x
    match uPcOp w with
    | 1 => { x with pc := (x.pc + 16) % 2 ^ 32 }
    | 2 => { x with pc := r.toNat % 2 ^ 32 }
    | _ => x) s

/-- RTT: from a trap with a frame PC, LC, G and the current window reload; IN_TRAP clears (R658). -/
def returnFromTrap (x : Tile) : Tile :=
  let back := (x.wreg 7 15).toNat % 4096
  let rd (o : Nat) : Word := BitVec.ofNat 64 (leNat (memRead x.scratch (0x1FF000 + o) 8))
  let x := if x.framed then
      let y := (List.range 16).foldl (fun y r => y.setW y.cwp r (rd (128 + 8 * r))) x
      { y with
        pc := (rd 8).toNat % 2 ^ 32, lc := rd 40
        gregs := (List.range 8).foldl (fun g r => tabPut 0 r (rd (64 + 8 * r)) g) [] }
    else x
  { x with inTrap := false, framed := false, resume := false, upc := back }

/-- Sequencing (R645, R647, and the SEQ table). -/
def sequence (s0 : State) (p : Program) (x0 : Tile) (w n : Nat) (s : State) : State :=
  let nx := uNext w ||| condBits s0 p x0 w
  match uSeq w with
  | 1 => modTile n (fun x =>
      { x.setW ((x.cwp + 1) % 7) 15 (BitVec.ofNat 64 nx) with
        cwp := (x.cwp + 1) % 7, occ := x.occ + 1, upc := uLit w % 4096 }) s
  | 2 => modTile n (fun x =>
      { x with upc := (x.wreg x.cwp 15).toNat % 4096, cwp := (x.cwp + 6) % 7, occ := x.occ - 1 }) s
  | 3 => match fetchInstr s p n with
    | some i => dispatch n i s
    | none => s
  | 4 => modTile n (fun x => { x with upc := uNext w }) s
  | 5 => modTile n returnFromTrap s
  | 6 => modTile n (fun x => { x with upc := 4, works := false, endedAt := some p.step }) s
  | _ => modTile n (fun x => { x with upc := nx }) s

/-- Executing one microword at an address (R627 to R635, R645 to R650, R664). -/
def microStep (p : Program) (n upc w : Nat) (s : State) : MicroOut :=
  let s := modTile n (fun x => { x with upc := upc, waits := false, burst := 0 }) s
  let x := tileAt s n
  let a := x.sel (uSrcA w)
  let b := if uBsel w = 0 then x.sel (uSrcB w)
    else if uBsel w = 1 then BitVec.ofNat 64 (uLit w) else irField p x (uIfield w)
  let (r, c, v) := alu (uAlu w) a b
  let ma := (x.sel (uMemAddr w)).toNat
  match wordCheck w with
  | some k => .check k
  | none =>
    if (uMem w = 6 ∨ uMem w = 7) ∧ x.inTrap = false then .check 7
    else if uMem w = 6 ∧ x.spill = 30 then .check 4
    else if (uMem w = 1 ∨ uMem w = 2) ∧ inSaveArea ma 8 = true ∧ x.inTrap = false then .check 7
    else if uTrap w = 1 then (if x.inTrap then .check 3 else .fault cIllegal 0)
    else if uTrap w = 2 then (if x.inTrap then .check 3 else .fault cAccess r.toNat)
    else if (uMem w = 1 ∨ uMem w = 2) ∧ inSaveArea ma 8 = false ∧
        (ma % 8 ≠ 0 ∨ inProgram s p ma 8 = false ∨ tileReachable s p n ma 8 = false) then
      (if x.inTrap then .check 3 else .fault cAccess r.toNat)
    else if uMem w = 1 ∧ tilePoisoned s p n ma 8 = true then .check 8
    else if (uMem w = 1 ∨ uMem w = 2) ∧ interlocked x (ma, 8) (uMem w = 2) = true then .stall
    else if uMv w ≠ 0 ∧ 8 ≤ (x.chan (uMv w - 1)).commands.length then .stall
    else if (uMu w = 1 ∨ uMu w = 2 ∨ uVu w = 1 ∨ uMv w ≠ 0) ∧ withheld s = true then .stall
    else if (uFlag w = 1 ∨ uFlag w = 2) ∧ x.ops ≠ [] then .stall
    else if uSeq w = 4 ∧ condBits s p x w = 0 then .stall
    else if uSeq w = 1 ∧ x.inTrap = true then .check 3
    else if uSeq w = 1 ∧ x.occ = 7 then .overflow
    else if uSeq w = 2 ∧ x.occ = 1 ∧ x.spill = 0 then .check 5
    else if uSeq w = 2 ∧ x.occ = 1 then (if x.inTrap then .check 3 else .underflow)
    else
      let s1 := lateEffect w r n (issueEffect p x w n (memEffect p w ma (x.sel (uMemData w)) n (aluEffect w r c v n s)))
      .next (sequence s p x w n s1)

/-- Executing the microword at UPC. -/
def microHere (p : Program) (n : Nat) (s : State) : MicroOut :=
  let upc := (tileAt s n).upc
  microStep p n upc (controlWord s upc) s

/-- Executing a number of microwords from the control store, in sequence from UPC; none when one of them does anything but go
on. -/
def microRun (p : Program) (n : Nat) : Nat → State → Option State
  | 0, s => some s
  | k + 1, s =>
    match microHere p n s with
    | .next s => microRun p n k s
    | _ => none

/-- A window trap: IN_TRAP, the microword's address in W15 of MW7, and the handler's address (R646, R648). -/
def windowTrap (n upc handler : Nat) (s : State) : State :=
  modTile n (fun x => { x.setW 7 15 (BitVec.ofNat 64 upc) with inTrap := true, framed := false, upc := handler }) s

/-- The handler's SPILL or FILL, its RTT, and the microword again (R646, R648, R649). -/
def windowHandler (p : Program) (n : Nat) (spill : Bool) (s : State) : State :=
  let x := tileAt s n
  if spill = true ∧ x.spill = 30 then machineCheck n 4 s
  else
    let s := modTile n (fun x => returnFromTrap (if spill then spillWindow x else fillWindow x)) s
    match microHere p n s with
    | .next s => s
    | _ => s

/-- A CALL with seven windows occupied, after `before` further microwords of the control store (R646). -/
def execWindowOverflow (t : Nat) (tile : Fin 160) (before : Nat) (s : State) : Out :=
  let s := clockTo t s
  match s.prog with
  | none => .next s
  | some p =>
    if tileRuns s tile.val = false then .next s
    else match microRun p tile.val before s with
      | none => .next s
      | some s' =>
        match microHere p tile.val s' with
        | .overflow =>
          .next (windowHandler p tile.val true (windowTrap tile.val (tileAt s' tile.val).upc 0x020 (count 0x5820 2 1 s')))
        | _ => .next s

/-- A RETURN with one window and spilled windows, after `before` further microwords of the control store (R648). -/
def execWindowUnderflow (t : Nat) (tile : Fin 160) (before : Nat) (s : State) : Out :=
  let s := clockTo t s
  match s.prog with
  | none => .next s
  | some p =>
    if tileRuns s tile.val = false then .next s
    else match microRun p tile.val before s with
      | none => .next s
      | some s' =>
        match microHere p tile.val s' with
        | .underflow =>
          .next (windowHandler p tile.val false (windowTrap tile.val (tileAt s' tile.val).upc 0x030 (count 0x5820 3 1 s')))
        | _ => .next s

/-! ### Traps, interrupts and station firmware -/

/-- The handler's RTT once RESUME is ordered (R658). -/
def execRtt (t : Nat) (tile : Fin 160) (s : State) : Out :=
  let s := clockTo t s
  let x := tileAt s tile.val
  if x.inTrap = true ∧ x.resume = true ∧ packageRuns s = true ∧ dropping s = false then
    .next (modTile tile.val returnFromTrap s)
  else .next s

/-- The instruction at PC raises a fault, or PC lies outside the program area (R511, R652, R657, R669). -/
def execFaultTake (t : Nat) (tile : Fin 160) (s : State) : Out :=
  let s := clockTo t s
  let n := tile.val
  match s.prog with
  | none => .next s
  | some p =>
    if tileRuns s n = false then .next s
    else match fetchInstr s p n with
      | none => .next (takeFault n cAccess (tileAt s n).pc s)
      | some i =>
        match faultOf s p n i with
        | some (c, a) => .next (takeFault n c a (dispatch n i s))
        | none => .next s

/-- The lowest pending interrupt source, 1 to 4. -/
def firstIrq (irqs : Nat) : Option Nat := firstFrom 4 1 (bit irqs)

/-- A pending interrupt is taken at an interrupt point: between instructions, or at a wait, whose instruction is
abandoned unretired (R654 to R657).  `raised` are the sources that station firmware raises: PREEMPT, BREAK and SINGLE_STEP;
CHECKPOINT comes from PC60 and PC61 alone (R398). -/
def execInterruptTake (t : Nat) (tile : Fin 160) (raised : Nat) (s : State) : Out :=
  let s := clockTo t s
  let n := tile.val
  let x := tileAt s n
  if s.prog.isNone = true ∨ x.state ≠ .active ∨ x.works = false ∨ x.stopped = true ∨ packageRuns s = false ∨
      dropping s = true then .next s
  else
    let s := modTile n (fun x => { x with irqs := x.irqs ||| (raised &&& 0x1A) }) s
    let x := tileAt s n
    if x.inTrap then .next s
    else match firstIrq x.irqs with
      | none => .next s
      | some k =>
        let trap := (s.prog.map (·.trapMode)).getD false
        let s := modTile n (fun x => { x with irqs := x.irqs - 2 ^ k }) s
        .next (count 0x5820 4 1 (enterTrap n 0 2 k 0 (if trap then x.upc else 8) x.atStep s))

/-- Station firmware orders RESUME once the engines are idle (R661). -/
def execStationResume (t : Nat) (tile : Fin 160) (s : State) : Out :=
  let s := clockTo t s
  let x := tileAt s tile.val
  if x.inTrap = true ∧ x.framed = true ∧ x.ops = [] then
    .next (modTile tile.val (fun x => { x with resume := true }) s)
  else .next s

/-- Station firmware orders ABANDON after a fault: the program aborts with its cause (R661). -/
def execStationAbandon (t : Nat) (tile : Fin 160) (s : State) : Out :=
  let s := clockTo t s
  let x := tileAt s tile.val
  if x.inTrap = true ∧ x.framed = true ∧ x.ops = [] ∧ x.tcause ≠ 0 then .next (abortAtStep x.tcause 0 s) else .next s

/-! ### Machine checks (R628, R636 to R643, R650) -/

/-- What a row read finds: none, a corrected error, or a machine check. -/
inductive RowCheck where
  | clean | corrected | check (subcause : Nat)
  deriving DecidableEq, Repr

/-- Parity group of a row's bit (R636). -/
def parityGroup (b : Nat) : Nat := if b < 160 then b / 10 else b - 160

/-- Judging a row by its flipped bits under the protection mode in force (R636, R637, R640, R641). -/
def checkRow (ecc : Bool) (flips : List Nat) : RowCheck :=
  if ecc then
    match (flips.filter fun b => b < 169).length with
    | 0 => .clean
    | 1 => .corrected
    | _ => .check 2
  else if (List.range 16).any fun g => (flips.filter fun b => b < 176 ∧ parityGroup b = g).length % 2 = 1 then .check 1
  else .clean

/-- Acting on a row read (R640, R641, R643). -/
def rowRead (n : Nat) (flips : List Nat) (s : State) : State :=
  match checkRow s.tiers.ecc flips with
  | .clean => s
  | .corrected => count 0x5811 (n + 1) 1 s
  | .check k => machineCheck n k s

/-- A tile whose control store is loaded and that is in use or in reserve. -/
def tileServes (s : State) (n : Nat) : Bool :=
  let x := tileAt s n
  x.loaded && (decide (x.state = .active) || decide (x.state = .spare)) && packageRuns s && !dropping s

/-- The machine check that a finding raises, if any. -/
def checkOf (s : State) (x : Tile) (f : MicroCheck) : Option Nat :=
  match f with
  | .row _ => none
  | .word upc =>
    let w := controlWord s upc
    match wordCheck w with
    | some k => some k
    | none => if (uMem w = 6 ∨ uMem w = 7) ∧ x.inTrap = false then some 7 else none
  | .mw7Busy => if x.inTrap then some 3 else none
  | .spillFull => if x.spill = 30 then some 4 else none
  | .returnEmpty => if x.occ = 1 ∧ x.spill = 0 then some 5 else none
  | .saveArea => if x.inTrap then none else some 7
  | .poison => some 8

/-- A micro machine check stops and fences the tile (R643). -/
def execMicroMachineCheck (t : Nat) (tile : Fin 160) (found : MicroCheck) (s : State) : Out :=
  let s := clockTo t s
  let n := tile.val
  if tileServes s n = false then .next s
  else match found with
    | .row flips => .next (rowRead n flips s)
    | f => match checkOf s (tileAt s n) f with
      | some k =>
        let s := match f with | .word upc => modTile n (fun x => { x with upc := upc }) s | _ => s
        .next (machineCheck n k s)
      | none => .next s

/-- The patrol reads the next row of a tile's control store (R642). -/
def execCsPatrolRead (t : Nat) (tile : Fin 160) (flips : List Nat) (s : State) : Out :=
  let s := clockTo t s
  let n := tile.val
  if tileServes s n = false then .next s
  else .next (rowRead n flips (modTile n (fun x => { x with patrolRow := (x.patrolRow + 1) % 4096 }) s))

end Sys2Proof.Machine
end

