-- ==== Sys2Proof/Machine/Dispatch.lean ====
section
/-! DEFINITION. One arm per command: the command's effect on everything but the queue. -/

namespace Sys2Proof.Machine

/-- The effect of a command. -/
def exec (i : Instr) (s : State) : Host.Outcome State Fault Refusal :=
  match i with
  | .kioskStart t slotAddr => Sys2Proof.Machine.execKioskStart t slotAddr s
  | .standbyPowerLoss t => Sys2Proof.Machine.execStandbyPowerLoss t s
  | .mainsCrossing t above => Sys2Proof.Machine.execMainsCrossing t above s
  | .windowClose t => Sys2Proof.Machine.execWindowClose t s
  | .runTimeout t => Sys2Proof.Machine.execRunTimeout t s
  | .tick acts => Sys2Proof.Machine.execTick s acts
  | .applyBeaconDelta => Sys2Proof.Machine.execApplyBeaconDelta s
  | .freewheelLong => Sys2Proof.Machine.execFreewheelLong s
  | .eventFire => Sys2Proof.Machine.execEventFire s
  | .halfCycleBoundary t => Sys2Proof.Machine.execHalfCycleBoundary t s
  | .powerSample t mainMv bulkMv powerMw pfWarn => Sys2Proof.Machine.execPowerSample t mainMv bulkMv powerMw pfWarn s
  | .ballastBurst tile => Sys2Proof.Machine.execBallastBurst tile s
  | .mainInputQualify t => Sys2Proof.Machine.execMainInputQualify t s
  | .startQualified t => Sys2Proof.Machine.execStartQualified t s
  | .prechargeComplete t => Sys2Proof.Machine.execPrechargeComplete t s
  | .brownoutDetect t => Sys2Proof.Machine.execBrownoutDetect t s
  | .brownoutClearQualify t => Sys2Proof.Machine.execBrownoutClearQualify t s
  | .overvoltageNotice t => Sys2Proof.Machine.execOvervoltageNotice t s
  | .curfewDeclare t => Sys2Proof.Machine.execCurfewDeclare t s
  | .removalDropBegin t => Sys2Proof.Machine.execRemovalDropBegin t s
  | .curfewDepartureNotice t => Sys2Proof.Machine.execCurfewDepartureNotice t s
  | .curfewHalt t => Sys2Proof.Machine.execCurfewHalt t s
  | .curfewLogStart t => Sys2Proof.Machine.execCurfewLogStart t s
  | .coreRailsOff t => Sys2Proof.Machine.execCoreRailsOff t s
  | .hbmOff t => Sys2Proof.Machine.execHbmOff t s
  | .cellarFabricOff t => Sys2Proof.Machine.execCellarFabricOff t s
  | .curfewSwitchOpen t => Sys2Proof.Machine.execCurfewSwitchOpen t s
  | .eventLogComplete t => Sys2Proof.Machine.execEventLogComplete t s
  | .earlyNChange t asserted => Sys2Proof.Machine.execEarlyNChange t asserted s
  | .prsntNChange t asserted => Sys2Proof.Machine.execPrsntNChange t asserted s
  | .latchOpen t => Sys2Proof.Machine.execLatchOpen t s
  | .stationFwVerified t aOk bOk => Sys2Proof.Machine.execStationFwVerified t s aOk bOk
  | .verdictComplete t res => Sys2Proof.Machine.execVerdictComplete t res s
  | .portTrainTimeout t port => Sys2Proof.Machine.execPortTrainTimeout t port s
  | .trainingComplete t => Sys2Proof.Machine.execTrainingComplete t s
  | .departInstant t => Sys2Proof.Machine.execDepartInstant t s
  | .drainComplete t => Sys2Proof.Machine.execDrainComplete t s
  | .drainTimeout t => Sys2Proof.Machine.execDrainTimeout t s
  | .resetHoldEnd t => Sys2Proof.Machine.execResetHoldEnd t s
  | .resetBtnPress t => Sys2Proof.Machine.execResetBtnPress t s
  | .resetBtnRelease t => Sys2Proof.Machine.execResetBtnRelease t s
  | .resetBtnHold t => Sys2Proof.Machine.execResetBtnHold t s
  | .resetStuck t => Sys2Proof.Machine.execResetStuck t s
  | .resetStuckClear t => Sys2Proof.Machine.execResetStuckClear t s
  | .perstAssert t heldNs => Sys2Proof.Machine.execPerstAssert t heldNs s
  | .perstDeassert t => Sys2Proof.Machine.execPerstDeassert t s
  | .fullResetRequest t => Sys2Proof.Machine.execFullResetRequest t s
  | .jopFrameDiscard t src frame => Sys2Proof.Machine.execJopFrameDiscard t src frame s
  | .jopRequest t src frame => Sys2Proof.Machine.execJopRequest t src frame s
  | .mbSubmit t => Sys2Proof.Machine.execMbSubmit t s
  | .mbOpen t => Sys2Proof.Machine.execMbOpen t s
  | .mbClose t => Sys2Proof.Machine.execMbClose t s
  | .mbVectorWrite value => Sys2Proof.Machine.execMbVectorWrite value s
  | .transactionExecute t storeOk => Sys2Proof.Machine.execTransactionExecute t storeOk s
  | .domainVerifyDone t storeOk => Sys2Proof.Machine.execDomainVerifyDone t storeOk s
  | .stagingExpire t => Sys2Proof.Machine.execStagingExpire t s
  | .registerWrite t offset value bar4 => Sys2Proof.Machine.execRegisterWrite t offset value s bar4
  | .sessionOpen t src frame => Sys2Proof.Machine.execSessionOpen t src frame s
  | .sessionConfirm t src frame => Sys2Proof.Machine.execSessionConfirm t src frame s
  | .sessionClose t src frame => Sys2Proof.Machine.execSessionClose t src frame s
  | .halfOpenExpire t session => Sys2Proof.Machine.execHalfOpenExpire t session s
  | .sessionIdleExpire t session => Sys2Proof.Machine.execSessionIdleExpire t session s
  | .beaconInstant t => Sys2Proof.Machine.execBeaconInstant t s
  | .claimSuccess t => Sys2Proof.Machine.execClaimSuccess t s
  | .claimCollision t => Sys2Proof.Machine.execClaimCollision t s
  | .backoffExpire t => Sys2Proof.Machine.execBackoffExpire t s
  | .carrierDetectBackoff t => Sys2Proof.Machine.execCarrierDetectBackoff t s
  | .beaconReceive t src frame => Sys2Proof.Machine.execBeaconReceive t src frame s
  | .beaconGuardClose t => Sys2Proof.Machine.execBeaconGuardClose t s
  | .searchExpire t => Sys2Proof.Machine.execSearchExpire t s
  | .backupTakeover t => Sys2Proof.Machine.execBackupTakeover t s
  | .statusSlot t slotEnded => Sys2Proof.Machine.execStatusSlot t slotEnded s
  | .statusFrameReceive t src frame => Sys2Proof.Machine.execStatusFrameReceive t src frame s
  | .noticeSend t => Sys2Proof.Machine.execNoticeSend t s
  | .queueEnable t queue => Sys2Proof.Machine.execQueueEnable t queue s
  | .queueDisable t queue => Sys2Proof.Machine.execQueueDisable t queue s
  | .queueFlushDone t queue => Sys2Proof.Machine.execQueueFlushDone t queue s
  | .doorbellTail t queue bytes value => Sys2Proof.Machine.execDoorbellTail t queue bytes value s
  | .doorbellCplHead t queue value => Sys2Proof.Machine.execDoorbellCplHead t queue value s
  | .descriptorFetch t queue => Sys2Proof.Machine.execDescriptorFetch t queue s
  | .descriptorStart t queue => Sys2Proof.Machine.execDescriptorStart t queue s
  | .waitPoll t queue index => Sys2Proof.Machine.execWaitPoll t queue index s
  | .descriptorComplete t queue index => Sys2Proof.Machine.execDescriptorComplete t queue index s
  | .irqDelayExpire t queue => Sys2Proof.Machine.execIrqDelayExpire t queue s
  | .queueFault t queue fetch => Sys2Proof.Machine.execQueueFault t queue fetch s
  | .hbmWindowBaseWrite value => Sys2Proof.Machine.execHbmWindowBaseWrite value s
  | .glEventCauseWrite value => Sys2Proof.Machine.execGlEventCauseWrite value s
  | .glRbCycleLoRead => Sys2Proof.Machine.execGlRbCycleLoRead s
  | .bar2Access offset length write => Sys2Proof.Machine.execBar2Access offset length write s
  | .endpointReady t width rate flitMode => Sys2Proof.Machine.execEndpointReady t s width rate flitMode
  | .hostLinkDown t => Sys2Proof.Machine.execHostLinkDown t s
  | .hotReset t => Sys2Proof.Machine.execHotReset t s
  | .tileNop t tile => Sys2Proof.Machine.execTileNop t tile s
  | .tileEnd t tile => Sys2Proof.Machine.execTileEnd t tile s
  | .tileStep t tile => Sys2Proof.Machine.execTileStep t tile s
  | .stepRelease t => Sys2Proof.Machine.execStepRelease t s
  | .jmp t tile => Sys2Proof.Machine.execJmp t tile s
  | .beq t tile => Sys2Proof.Machine.execBeq t tile s
  | .bne t tile => Sys2Proof.Machine.execBne t tile s
  | .blt t tile => Sys2Proof.Machine.execBlt t tile s
  | .bge t tile => Sys2Proof.Machine.execBge t tile s
  | .add t tile => Sys2Proof.Machine.execAdd t tile s
  | .sub t tile => Sys2Proof.Machine.execSub t tile s
  | .and t tile => Sys2Proof.Machine.execAnd t tile s
  | .or t tile => Sys2Proof.Machine.execOr t tile s
  | .xor t tile => Sys2Proof.Machine.execXor t tile s
  | .shl t tile => Sys2Proof.Machine.execShl t tile s
  | .shr t tile => Sys2Proof.Machine.execShr t tile s
  | .addi t tile => Sys2Proof.Machine.execAddi t tile s
  | .li t tile => Sys2Proof.Machine.execLi t tile s
  | .ld t tile => Sys2Proof.Machine.execLd t tile s
  | .st t tile => Sys2Proof.Machine.execSt t tile s
  | .syncSs t tile => Sys2Proof.Machine.execSyncSs t tile s
  | .syncLl t tile => Sys2Proof.Machine.execSyncLl t tile s
  | .syncSl t tile => Sys2Proof.Machine.execSyncSl t tile s
  | .flagrd t tile => Sys2Proof.Machine.execFlagrd t tile s
  | .flagswp t tile => Sys2Proof.Machine.execFlagswp t tile s
  | .flagclr t tile => Sys2Proof.Machine.execFlagclr t tile s
  | .mov0 t tile => Sys2Proof.Machine.execMov0 t tile s
  | .mov1 t tile => Sys2Proof.Machine.execMov1 t tile s
  | .mvwait0 t tile => Sys2Proof.Machine.execMvwait0 t tile s
  | .mvwait1 t tile => Sys2Proof.Machine.execMvwait1 t tile s
  | .mma t tile => Sys2Proof.Machine.execMma t tile s
  | .mmaWrite t tile => Sys2Proof.Machine.execMmaWrite t tile s
  | .setcs t tile => Sys2Proof.Machine.execSetcs t tile s
  | .vadd t tile => Sys2Proof.Machine.execVadd t tile s
  | .vmul t tile => Sys2Proof.Machine.execVmul t tile s
  | .vfma t tile => Sys2Proof.Machine.execVfma t tile s
  | .vmin t tile => Sys2Proof.Machine.execVmin t tile s
  | .vmax t tile => Sys2Proof.Machine.execVmax t tile s
  | .vminnum t tile => Sys2Proof.Machine.execVminnum t tile s
  | .vmaxnum t tile => Sys2Proof.Machine.execVmaxnum t tile s
  | .vsub t tile => Sys2Proof.Machine.execVsub t tile s
  | .vcvt t tile => Sys2Proof.Machine.execVcvt t tile s
  | .vcvts t tile => Sys2Proof.Machine.execVcvts t tile s
  | .qsub t tile => Sys2Proof.Machine.execQsub t tile s
  | .qwait t tile => Sys2Proof.Machine.execQwait t tile s
  | .windowOverflow t tile before => Sys2Proof.Machine.execWindowOverflow t tile before s
  | .windowUnderflow t tile before => Sys2Proof.Machine.execWindowUnderflow t tile before s
  | .rtt t tile => Sys2Proof.Machine.execRtt t tile s
  | .faultTake t tile => Sys2Proof.Machine.execFaultTake t tile s
  | .interruptTake t tile raised => Sys2Proof.Machine.execInterruptTake t tile raised s
  | .stationResume t tile => Sys2Proof.Machine.execStationResume t tile s
  | .stationAbandon t tile => Sys2Proof.Machine.execStationAbandon t tile s
  | .microMachineCheck t tile found => Sys2Proof.Machine.execMicroMachineCheck t tile found s
  | .csPatrolRead t tile flips => Sys2Proof.Machine.execCsPatrolRead t tile flips s
  | .replayRestart t => Sys2Proof.Machine.execReplayRestart t s
  | .memoryReadError t cellar addr uncorrectable reader => Sys2Proof.Machine.execMemoryReadError t cellar addr uncorrectable reader s
  | .memoryPatrol t cellar errors => Sys2Proof.Machine.execMemoryPatrol t cellar errors s
  | .memChannelFail t cellar unit channel => Sys2Proof.Machine.execMemChannelFail t cellar unit channel s
  | .box t tile chan => Sys2Proof.Machine.execBox t tile chan s
  | .gather t tile chan => Sys2Proof.Machine.execGather t tile chan s
  | .scatter t tile chan => Sys2Proof.Machine.execScatter t tile chan s
  | .permute t tile chan => Sys2Proof.Machine.execPermute t tile chan s
  | .moverCommandComplete t tile chan => Sys2Proof.Machine.execMoverCommandComplete t tile chan s
  | .peerAccess t borrower offset length write => Sys2Proof.Machine.execPeerAccess t borrower offset length write s
  | .peerResponse t access status data => Sys2Proof.Machine.execPeerResponse t access status data s
  | .layer t queue => Sys2Proof.Machine.execLayer t queue s
  | .loadRouter t queue => Sys2Proof.Machine.execLoadRouter t queue s
  | .junctionFlags t queue => Sys2Proof.Machine.execJunctionFlags t queue s
  | .scoreStage t => Sys2Proof.Machine.execScoreStage t s
  | .selectStage t => Sys2Proof.Machine.execSelectStage t s
  | .admitStage t => Sys2Proof.Machine.execAdmitStage t s
  | .sortStage t => Sys2Proof.Machine.execSortStage t s
  | .shipStage t => Sys2Proof.Machine.execShipStage t s
  | .awaitStage t => Sys2Proof.Machine.execAwaitStage t s
  | .gatherStage t => Sys2Proof.Machine.execGatherStage t s
  | .restoreStage t => Sys2Proof.Machine.execRestoreStage t s
  | .tapReply t tap words => Sys2Proof.Machine.execTapReply t tap words s
  | .tapTimeout t tap => Sys2Proof.Machine.execTapTimeout t tap s
  | .arrayTempDrift t array temp => Sys2Proof.Machine.execArrayTempDrift t array temp s
  | .recalibrationStart t array => Sys2Proof.Machine.execRecalibrationStart t array s
  | .recalibrationComplete t array passed => Sys2Proof.Machine.execRecalibrationComplete t array passed s
  | .planeRefresh t plane => Sys2Proof.Machine.execPlaneRefresh t plane s
  | .slabSend t port => Sys2Proof.Machine.execSlabSend t port s
  | .slabReceive t port bytes corrected uncorrectable => Sys2Proof.Machine.execSlabReceive t port bytes corrected uncorrectable s
  | .slabForward t => Sys2Proof.Machine.execSlabForward t s
  | .ackTimeout t port => Sys2Proof.Machine.execAckTimeout t port s
  | .replayBudgetExpire t port => Sys2Proof.Machine.execReplayBudgetExpire t port s
  | .fecLockLoss t port => Sys2Proof.Machine.execFecLockLoss t port s
  | .width8AttemptExpire t port => Sys2Proof.Machine.execWidth8AttemptExpire t port s
  | .retrainComplete t port width => Sys2Proof.Machine.execRetrainComplete t port width s
  | .retrainTimeout t port => Sys2Proof.Machine.execRetrainTimeout t port s
  | .portInfoRepeat t port => Sys2Proof.Machine.execPortInfoRepeat t port s
  | .failedPortRetry t port => Sys2Proof.Machine.execFailedPortRetry t port s
  | .portTrainStart t port => Sys2Proof.Machine.execPortTrainStart t port s
  | .lanesSilent t port => Sys2Proof.Machine.execLanesSilent t port s
  | .injectorTrigger t port => Sys2Proof.Machine.execInjectorTrigger t port s
  | .reorderHoldExpire t port => Sys2Proof.Machine.execReorderHoldExpire t port s
  | .armHelloTimer t group => Sys2Proof.Machine.execArmHelloTimer t group s
  | .armHello t => Sys2Proof.Machine.execArmHello t s
  | .armTimeout t group => Sys2Proof.Machine.execArmTimeout t group s
  | .exchange t group => Sys2Proof.Machine.execExchange t group s
  | .exchangeV t group => Sys2Proof.Machine.execExchangeV t group s
  | .exchangeAdd t group => Sys2Proof.Machine.execExchangeAdd t group s
  | .hamperPlaceFreed t group => Sys2Proof.Machine.execHamperPlaceFreed t group s
  | .finished t => Sys2Proof.Machine.execFinished t s
  | .progress t => Sys2Proof.Machine.execProgress t s
  | .grant t => Sys2Proof.Machine.execGrant t s
  | .window t => Sys2Proof.Machine.execWindow t s
  | .abort t => Sys2Proof.Machine.execAbort t s
  | .reform t => Sys2Proof.Machine.execReform t s
  | .leave t => Sys2Proof.Machine.execLeave t s
  | .progressTimer t group => Sys2Proof.Machine.execProgressTimer t group s
  | .watchdogExpire t group => Sys2Proof.Machine.execWatchdogExpire t group s
  | .reformResend t group => Sys2Proof.Machine.execReformResend t group s
  | .reformTimeout t group => Sys2Proof.Machine.execReformTimeout t group s
  | .fabricNop t queue => Sys2Proof.Machine.execFabricNop t queue s
  | .push t queue index taken => Sys2Proof.Machine.execPush t queue index taken s
  | .pull t queue index words => Sys2Proof.Machine.execPull t queue index words s
  | .feedSubmit t ctrl words => Sys2Proof.Machine.execFeedSubmit t ctrl words s
  | .qcStall t ctrl => Sys2Proof.Machine.execQcStall t ctrl s
  | .fabricBrownout t chip => Sys2Proof.Machine.execFabricBrownout t chip s
  | .iobFault t bank => Sys2Proof.Machine.execIobFault t bank s
  | .serLaneLock t bank lane locked => Sys2Proof.Machine.execSerLaneLock t bank lane locked s
  | .testLogicReset t ext => Sys2Proof.Machine.execTestLogicReset t ext s
  | .bypass t ext tap code => Sys2Proof.Machine.execBypass t ext tap s code
  | .idcode t ext tap => Sys2Proof.Machine.execIdcode t ext tap s
  | .samplePreload t ext tap pins preload => Sys2Proof.Machine.execSamplePreload t ext tap pins preload s
  | .extest t ext tap pins drive => Sys2Proof.Machine.execExtest t ext tap pins drive s
  | .cfgLoad t ext chip words => Sys2Proof.Machine.execCfgLoad t ext chip words s
  | .cfgStatus t ext chip => Sys2Proof.Machine.execCfgStatus t ext chip s
  | .cfgReadback t ext chip select => Sys2Proof.Machine.execCfgReadback t ext chip select s
  | .scanEnable t ext tap shift isolated => Sys2Proof.Machine.execScanEnable t ext tap shift isolated s
  | .sweepReport t ext => Sys2Proof.Machine.execSweepReport t ext s
  | .sectionVerifyComplete t chip => Sys2Proof.Machine.execSectionVerifyComplete t chip s
  | .fullLoadComplete t => Sys2Proof.Machine.execFullLoadComplete t s
  | .deferredLotCommand t => Sys2Proof.Machine.execDeferredLotCommand t s
  | .scrubPassStart t chip sentinelOk => Sys2Proof.Machine.execScrubPassStart t chip sentinelOk s
  | .scrubFrameRead t chip flips => Sys2Proof.Machine.execScrubFrameRead t chip flips s
  | .voteRestore t chip upset => Sys2Proof.Machine.execVoteRestore t chip upset s
  | .sweepSlot t east west => Sys2Proof.Machine.execSweepSlot t east west s
  | .sweepPhaseComplete t res storeOk margin => Sys2Proof.Machine.execSweepPhaseComplete t res storeOk s margin
  | .sweepWindowCheck t east west => Sys2Proof.Machine.execSweepWindowCheck t east west s
  | .sweepDescent t => Sys2Proof.Machine.execSweepDescent t s
  | .logCommit t storeOk => Sys2Proof.Machine.execLogCommit t storeOk s
  | .repeatWindowEnd t cause unitType unit => Sys2Proof.Machine.execRepeatWindowEnd t cause unitType unit s
  | .stationWatchdogExpire t core machineCheck => Sys2Proof.Machine.execStationWatchdogExpire t core machineCheck s
  | .unitWedged t unit waitedNs => Sys2Proof.Machine.execUnitWedged t unit waitedNs s
  | .bridgeFail t => Sys2Proof.Machine.execBridgeFail t s
  | .engineOperationComplete t tile => Sys2Proof.Machine.execEngineOperationComplete t tile s
  | .portLanesTrained t port width => Sys2Proof.Machine.execPortLanesTrained t port width s
  | .cablePresenceChange t port present => Sys2Proof.Machine.execCablePresenceChange t port present s
  | .hotResetExit t => Sys2Proof.Machine.execHotResetExit t s
  | .latchClose t => Sys2Proof.Machine.execLatchClose t s
  | .iobVccGood t bank => Sys2Proof.Machine.execIobVccGood t bank s
  | .plcaBeaconChange t heard => Sys2Proof.Machine.execPlcaBeaconChange t heard s
  | .icmpv6Message t src message => Sys2Proof.Machine.execIcmpv6Message t src message s

end Sys2Proof.Machine
end

