-- ==== Sys2Proof/WellFormed.lean ====
section
/-! DEFINITION. Well-formed commands: operands that the thing they stand for can have.  Nothing else is a command that
any sender can form; the meanings answer on every operand all the same. -/

namespace Sys2Proof

namespace WellFormed

/-- Numbers below a bound: bit positions of a control-store row or of a frame. -/
def wordsBelow (n : Nat) (ws : List Nat) : Bool := ws.all fun w => decide (w < n)

/-- Words of a fixed width: 34 bits on a fabric port with bit 34 for an illegal code (R912, R930), 32 in a section. -/
def wordsOk (width : Nat) (ws : List Nat) : Bool := wordsBelow (2 ^ width) ws

/-- A group is numbered 1 to 1,024 (chapter 16). -/
def groupOk (g : Nat) : Bool := decide (1 ≤ g) && decide (g ≤ 1024)

/-- Codes of the instructions other than BYPASS that a TAP lists (R962): 0 the package's, 1 to 4 a chiplet's. -/
def tapCodes (tap : Nat) : List Nat := [0x00, 0x01, 0x02, 0x30] ++ (if tap = 0 then [0x31] else [0x20, 0x21, 0x22])

/-- A trained port runs at width 8 or 4 (R774). -/
def widthOk (w : Nat) : Bool := decide (w = 8) || decide (w = 4)

/-- A write carries as many bytes as its length says. -/
def carriesOk (length : Nat) (write : Option (List Byte)) : Bool :=
  match write with
  | some bs => decide (bs.length = length)
  | none => true

/-- The source of a frame: a hop limit of 8 bits and a port of 16 (R294, R295). -/
def sourceOk (src : NetSource) : Bool := decide (src.hopLimit < 256) && decide (src.port < 65536)

/-- Test results name units the sled has (chapter 00). -/
def resultsOk (r : TestResults) : Bool :=
  wordsBelow 160 r.tiles && wordsBelow 8 r.hbm && wordsBelow 16 r.cellar && wordsBelow 32 r.arrays &&
    wordsBelow 16 r.lots && wordsBelow 16 r.ports && wordsBelow 4 r.cores

/-- What raises a micro machine check: flipped bits of a row, 176 physical bits, or a 160-bit microword (R627). -/
def checkOk (f : MicroCheck) : Bool :=
  match f with
  | .row flips => wordsBelow 176 flips
  | .word upc => decide (upc < 4096)
  | .mw7Busy => true
  | .spillFull => true
  | .returnEmpty => true
  | .saveArea => true
  | .poison => true

/-- A reader that the sled has: one of 160 tiles or 4,096 queues. -/
def readerOk (r : Reader) : Bool :=
  match r with
  | .tile n => decide (n < 160)
  | .mover n => decide (n < 160)
  | .copy q _ => decide (q < 4096)
  | .station c => decide (c < 4)
  | .host => true
  | .peer => true

/-- A place of a station core's access. -/
def placeOk (p : StationPlace) : Bool :=
  match p with
  | .scratch t => decide (t < 160)
  | .hbm => true
  | .other => true

/-- An atomic of 4 or 8 bytes by one of 4 cores (R549). -/
def atomicOk (core : Nat) (p : StationPlace) (width : Nat) : Bool :=
  decide (core < 4) && placeOk p && (decide (width = 4) || decide (width = 8))

/-- What an agent can do during a tick, by the units the sled has (chapter 00). -/
def actOk (a : Act) : Bool :=
  match a with
  | .checkpoint _ cycle phase => decide (cycle < 2 ^ 48) && decide (phase < 4096)
  | .stationStore core p _ bs => decide (core < 4) && placeOk p && decide (1 ≤ bs.length)
  | .stationLoad core p _ n => decide (core < 4) && placeOk p && decide (1 ≤ n)
  | .stationFence core _ _ _ _ _ => decide (core < 4)
  | .stationAmo core p _ width _ _ _ _ => atomicOk core p width
  | .stationLr core p _ width _ _ => atomicOk core p width
  | .stationSc core p _ width _ _ _ => atomicOk core p width
  | .stationDrain core _ => decide (core < 4)
  | .hostRead _ offset length => decide (offset + length ≤ 2 ^ 24) && decide (1 ≤ length)
  | .configRead _ => true
  | .configWrite _ _ => true
  | .aerError _ b => decide (b < 32)
  | .lotMemory lot mem _ word _ => decide (lot < 16) && decide (mem < 32) && decide (word < 32768)
  | .cell lot n ports => decide (lot < 16) && decide (n < 24576) && decide (ports < 64)
  | .stage lot n => decide (lot < 16) && decide (n < 1536)
  | .linkOffer ctrl ws => decide (ctrl < 128) && wordsOk 35 ws
  | .linkTake ctrl _ => decide (ctrl < 128)
  | .linkMove ctrl => decide (ctrl < 128)
  | .laneReceive bank lane w => decide (bank < 4) && decide (lane < 8) && decide (w < 65536)
  | .laneTake bank lane _ => decide (bank < 4) && decide (lane < 8)
  | .lanePut bank lane w => decide (bank < 4) && decide (lane < 8) && decide (w < 65536)
  | .laneSend bank lane => decide (bank < 4) && decide (lane < 8)

end WellFormed

open WellFormed

/-- The command's operands are ones it can have. -/
def Instr.wf (i : Instr) : Bool :=
  match i with
  | .kioskStart _ slotAddr => decide (slotAddr < 64)
  | .standbyPowerLoss _ => true
  | .mainsCrossing _ _ => true
  | .windowClose _ => true
  | .runTimeout _ => true
  | .tick acts => acts.all actOk
  | .applyBeaconDelta => true
  | .freewheelLong => true
  | .eventFire => true
  | .halfCycleBoundary _ => true
  | .powerSample _ _ _ _ _ => true
  | .ballastBurst _ => true
  | .mainInputQualify _ => true
  | .startQualified _ => true
  | .prechargeComplete _ => true
  | .brownoutDetect _ => true
  | .brownoutClearQualify _ => true
  | .overvoltageNotice _ => true
  | .curfewDeclare _ => true
  | .removalDropBegin _ => true
  | .curfewDepartureNotice _ => true
  | .curfewHalt _ => true
  | .curfewLogStart _ => true
  | .coreRailsOff _ => true
  | .hbmOff _ => true
  | .cellarFabricOff _ => true
  | .curfewSwitchOpen _ => true
  | .eventLogComplete _ => true
  | .earlyNChange _ _ => true
  | .prsntNChange _ _ => true
  | .latchOpen _ => true
  | .stationFwVerified _ _ _ => true
  | .verdictComplete _ res => resultsOk res
  | .portTrainTimeout _ _ => true
  | .trainingComplete _ => true
  | .departInstant _ => true
  | .drainComplete _ => true
  | .drainTimeout _ => true
  | .resetHoldEnd _ => true
  | .resetBtnPress _ => true
  | .resetBtnRelease _ => true
  | .resetBtnHold _ => true
  | .resetStuck _ => true
  | .resetStuckClear _ => true
  | .perstAssert _ _ => true
  | .perstDeassert _ => true
  | .fullResetRequest _ => true
  | .jopFrameDiscard _ src _ => sourceOk src
  | .jopRequest _ src _ => sourceOk src
  | .mbSubmit _ => true
  | .mbOpen _ => true
  | .mbClose _ => true
  | .mbVectorWrite _ => true
  | .transactionExecute _ _ => true
  | .domainVerifyDone _ _ => true
  | .stagingExpire _ => true
  | .registerWrite _ offset value _ => decide (offset < 2 ^ 24) && decide (1 ≤ value.length)
  | .sessionOpen _ src _ => sourceOk src
  | .sessionConfirm _ src _ => sourceOk src
  | .sessionClose _ src _ => sourceOk src
  | .halfOpenExpire _ _ => true
  | .sessionIdleExpire _ _ => true
  | .beaconInstant _ => true
  | .claimSuccess _ => true
  | .claimCollision _ => true
  | .backoffExpire _ => true
  | .carrierDetectBackoff _ => true
  | .beaconReceive _ src _ => sourceOk src
  | .beaconGuardClose _ => true
  | .searchExpire _ => true
  | .backupTakeover _ => true
  | .statusSlot _ _ => true
  | .statusFrameReceive _ src _ => sourceOk src
  | .noticeSend _ => true
  | .queueEnable _ _ => true
  | .queueDisable _ _ => true
  | .queueFlushDone _ _ => true
  | .doorbellTail _ _ bytes value => decide (value < 2 ^ (8 * bytes))
  | .doorbellCplHead _ _ value => decide (value < 2 ^ 32)
  | .descriptorFetch _ _ => true
  | .descriptorStart _ _ => true
  | .waitPoll _ _ _ => true
  | .descriptorComplete _ _ _ => true
  | .irqDelayExpire _ _ => true
  | .queueFault _ _ _ => true
  | .hbmWindowBaseWrite _ => true
  | .glEventCauseWrite _ => true
  | .glRbCycleLoRead => true
  | .bar2Access _ length write => carriesOk length write
  | .endpointReady _ width rate _ =>
    [16, 8, 4, 2, 1].contains width && [640, 320, 160, 80, 50, 25].contains rate
  | .hostLinkDown _ => true
  | .hotReset _ => true
  | .tileNop _ _ => true
  | .tileEnd _ _ => true
  | .tileStep _ _ => true
  | .stepRelease _ => true
  | .jmp _ _ => true
  | .beq _ _ => true
  | .bne _ _ => true
  | .blt _ _ => true
  | .bge _ _ => true
  | .add _ _ => true
  | .sub _ _ => true
  | .and _ _ => true
  | .or _ _ => true
  | .xor _ _ => true
  | .shl _ _ => true
  | .shr _ _ => true
  | .addi _ _ => true
  | .li _ _ => true
  | .ld _ _ => true
  | .st _ _ => true
  | .syncSs _ _ => true
  | .syncLl _ _ => true
  | .syncSl _ _ => true
  | .flagrd _ _ => true
  | .flagswp _ _ => true
  | .flagclr _ _ => true
  | .mov0 _ _ => true
  | .mov1 _ _ => true
  | .mvwait0 _ _ => true
  | .mvwait1 _ _ => true
  | .mma _ _ => true
  | .mmaWrite _ _ => true
  | .setcs _ _ => true
  | .vadd _ _ => true
  | .vmul _ _ => true
  | .vfma _ _ => true
  | .vmin _ _ => true
  | .vmax _ _ => true
  | .vminnum _ _ => true
  | .vmaxnum _ _ => true
  | .vsub _ _ => true
  | .vcvt _ _ => true
  | .vcvts _ _ => true
  | .qsub _ _ => true
  | .qwait _ _ => true
  | .windowOverflow _ _ before => decide (before < 2 ^ 16)
  | .windowUnderflow _ _ before => decide (before < 2 ^ 16)
  | .rtt _ _ => true
  | .faultTake _ _ => true
  | .interruptTake _ _ raised => decide (raised < 32)
  | .stationResume _ _ => true
  | .stationAbandon _ _ => true
  | .microMachineCheck _ _ found => checkOk found
  | .csPatrolRead _ _ flips => wordsBelow 176 flips
  | .replayRestart _ => true
  | .memoryReadError _ _ _ _ reader => readerOk reader
  | .memoryPatrol _ _ _ => true
  | .memChannelFail _ cellar unit _ => decide (unit < if cellar then 16 else 8)
  | .box _ _ _ => true
  | .gather _ _ _ => true
  | .scatter _ _ _ => true
  | .permute _ _ _ => true
  | .moverCommandComplete _ _ _ => true
  | .peerAccess _ _ _ length write => carriesOk length write
  | .peerResponse _ _ _ _ => true
  | .layer _ _ => true
  | .loadRouter _ _ => true
  | .junctionFlags _ _ => true
  | .scoreStage _ => true
  | .selectStage _ => true
  | .admitStage _ => true
  | .sortStage _ => true
  | .shipStage _ => true
  | .awaitStage _ => true
  | .gatherStage _ => true
  | .restoreStage _ => true
  | .tapReply _ _ words => wordsOk 35 words
  | .tapTimeout _ _ => true
  | .arrayTempDrift _ _ _ => true
  | .recalibrationStart _ _ => true
  | .recalibrationComplete _ _ _ => true
  | .planeRefresh _ _ => true
  | .slabSend _ _ => true
  | .slabReceive _ _ bytes _ _ => decide (bytes.length = 128)
  | .slabForward _ => true
  | .ackTimeout _ _ => true
  | .replayBudgetExpire _ _ => true
  | .fecLockLoss _ _ => true
  | .width8AttemptExpire _ _ => true
  | .retrainComplete _ _ width => widthOk width
  | .retrainTimeout _ _ => true
  | .portInfoRepeat _ _ => true
  | .failedPortRetry _ _ => true
  | .portTrainStart _ _ => true
  | .lanesSilent _ _ => true
  | .injectorTrigger _ _ => true
  | .reorderHoldExpire _ _ => true
  | .armHelloTimer _ group => groupOk group
  | .armHello _ => true
  | .armTimeout _ group => groupOk group
  | .exchange _ group => groupOk group
  | .exchangeV _ group => groupOk group
  | .exchangeAdd _ group => groupOk group
  | .hamperPlaceFreed _ group => groupOk group
  | .finished _ => true
  | .progress _ => true
  | .grant _ => true
  | .window _ => true
  | .abort _ => true
  | .reform _ => true
  | .leave _ => true
  | .progressTimer _ group => groupOk group
  | .watchdogExpire _ group => groupOk group
  | .reformResend _ group => groupOk group
  | .reformTimeout _ group => groupOk group
  | .fabricNop _ _ => true
  | .push _ _ _ _ => true
  | .pull _ _ _ words => wordsOk 35 words
  | .feedSubmit _ _ words => wordsOk 35 words
  | .qcStall _ _ => true
  | .fabricBrownout _ _ => true
  | .iobFault _ _ => true
  | .serLaneLock _ _ _ _ => true
  | .testLogicReset _ _ => true
  | .bypass _ _ tap code => decide (code < 256) && !(tapCodes tap.val).contains code
  | .idcode _ _ _ => true
  | .samplePreload _ _ _ pins preload => decide (pins < 2 ^ 144) && decide (preload < 2 ^ 144)
  | .extest _ _ _ pins drive => decide (pins < 2 ^ 144) && decide (drive < 2 ^ 144)
  | .cfgLoad _ _ _ words => wordsOk 32 words
  | .cfgStatus _ _ _ => true
  | .cfgReadback _ _ _ select => decide (select < 2 ^ 32)
  | .scanEnable _ _ _ shift _ => decide (shift < 2 ^ 32)
  | .sweepReport _ _ => true
  | .sectionVerifyComplete _ _ => true
  | .fullLoadComplete _ => true
  | .deferredLotCommand _ => true
  | .scrubPassStart _ _ _ => true
  | .scrubFrameRead _ _ flips => wordsBelow 4096 flips
  | .voteRestore _ _ _ => true
  | .sweepSlot _ _ _ => true
  | .sweepPhaseComplete _ res _ margin => resultsOk res && resultsOk margin
  | .sweepWindowCheck _ _ _ => true
  | .sweepDescent _ => true
  | .logCommit _ _ => true
  | .repeatWindowEnd _ cause unitType unit => decide (cause < 65536) && decide (unitType < 256) && decide (unit < 65536)
  | .stationWatchdogExpire _ _ _ => true
  | .unitWedged _ _ _ => true
  | .bridgeFail _ => true
  | .engineOperationComplete _ _ => true
  | .portLanesTrained _ _ width => widthOk width
  | .cablePresenceChange _ _ _ => true
  | .hotResetExit _ => true
  | .latchClose _ => true
  | .iobVccGood _ _ => true
  | .plcaBeaconChange _ _ => true
  | .icmpv6Message _ src _ => sourceOk src

end Sys2Proof
end

