-- ==== Sys2Proof/Safety.lean ====
section
/-! DEFINITION. What a safe run is, in the terms that claims use: memories stay in canonical form, the queue stays what
it was but for its front, local time never runs back, and no command stops the block. -/

namespace Sys2Proof.Machine

/-- Every memory of the sled is in canonical form. -/
def MemOk (s : State) : Prop := Memory.wf s.hbm = true ∧ Memory.wf s.cellar = true ∧ Memory.wf s.hostMem = true

/-- Every waiting command is well-formed. -/
def QueueOk (s : State) : Prop := ∀ c ∈ s.pending, c.wf = true

/-- What every run keeps: canonical memories and a queue of well-formed commands. -/
def Sound (s : State) : Prop := MemOk s ∧ QueueOk s

/-- The Roundabout's numbers lie in their ranges: a 12-bit phase, a 48-bit cycle, a correction of at most 16 rt. -/
def RoundaboutOk (s : State) : Prop :=
  s.rb.phase < 4096 ∧ s.rb.pkgPhase < 4096 ∧ s.rb.cycle < 2 ^ 48 ∧ s.rb.pkgCycle < 2 ^ 48 ∧ s.rb.corr.natAbs ≤ 16

/-- The answer is a next state with this queue and this local time. -/
def Keeps (o : Out) (q : List Instr) (n : Nat) : Prop :=
  match o with
  | .next u => u.pending = q ∧ u.now = n
  | _ => False

/-- The answer, if it is a next state, has canonical memories. -/
def EndsOk (o : Out) : Prop :=
  match o with
  | .next u => MemOk u
  | _ => True

/-- No byte of HBM, the cellar or host memory differs between two states. -/
def SameMemories (s u : State) : Prop :=
  ∀ a, memGet u.hbm a = memGet s.hbm a ∧ memGet u.cellar a = memGet s.cellar a ∧ memGet u.hostMem a = memGet s.hostMem a

/-- The package's units are as they were: tiles, program, arrays and Junction, collectives and fabric. -/
def SameWork (s u : State) : Prop :=
  u.tiles = s.tiles ∧ u.prog = s.prog ∧ u.tiers = s.tiers ∧ u.junc = s.junc ∧ u.coll = s.coll ∧ u.fab = s.fab

/-- The standby domain's own state is as it was: dictionary and kiosk, field network, records, sweep and pins. -/
def SameStandby (s u : State) : Prop :=
  u.kiosk = s.kiosk ∧ u.net = s.net ∧ u.contain = s.contain ∧ u.sweep = s.sweep ∧ u.pins = s.pins

/-- A counter entry has counted `n` more events, as far as it goes (it saturates). -/
def Counted (idx sub n : Nat) (s u : State) : Prop :=
  counterAt u idx sub = min (counterAt s idx sub + n) (counterMax idx sub)

/-- What a record and an interrupt cause may touch beside the records: counters, and the host's event and pending bits. -/
def Noted (s u : State) : Prop :=
  u.kiosk = { s.kiosk with counters := u.kiosk.counters } ∧
  u.host = { s.host with eventCause := u.host.eventCause, pending := u.host.pending }

/-- The instruction at a tile's PC is `i` and it executes: the tile runs and nothing faults. -/
def Executes (s : State) (n i : Nat) : Prop :=
  ∃ p, s.prog = some p ∧ tileRuns s n = true ∧ fetchInstr s p n = some i ∧ faultOf s p n i = none

/-- Nothing has changed but one tile and local time. -/
def OneTile (n t : Nat) (s u : State) : Prop :=
  u = { s with now := max s.now t, tiles := u.tiles } ∧ ∀ m, m ≠ n → tileAt u m = tileAt s m

/-- A tile as dispatching an instruction leaves it, at a new PC: it no longer waits, and its ballast ends (R61, R651, R669). -/
def Tile.after (x : Tile) (i pc : Nat) : Tile :=
  { x with ir := i, upc := 0x800 + 4 * iOp i, cwp := 0, occ := 1, spill := 0, waits := false, burst := 0, pc := pc }

end Sys2Proof.Machine
end

