-- ==== Sys2Proof/Certificates/Slice0/Obligations.lean ====
section
/-! DEFINITION. The statements for the provers: what the rules of spec/ say each command does, and that it leaves the rest
as it was. -/

open Sys2Proof Sys2Proof.Machine

/-- TICK (R70, R88, R89); APPLY_BEACON_DELTA and FREEWHEEL_LONG (R101 to R105, R117); EVENT_FIRE (R107, R110, R111). -/
def Obligations.TicksAndEvents : Prop :=
  (∀ (acts : List Act) (s : State), s.life.state ≠ .absent →
     ∃ v u, v = forEach runAct acts s ∧ (acts = [] → v = s) ∧
       exec (.tick acts) s = .next u ∧ u = { v with rb := u.rb, now := u.now } ∧
       (v.rb.corrHere = 0 → u.rb.phase = (v.rb.phase + 1) % 4096 ∧
         u.rb.cycle = if 4095 ≤ v.rb.phase then (v.rb.cycle + 1) % 2 ^ 48 else v.rb.cycle) ∧
       (v.rb.corrHere = 1 → u.rb.phase = (v.rb.phase + 2) % 4096) ∧
       (v.rb.corrHere = -1 → u.rb.phase = v.rb.phase % 4096) ∧
       (packagePowered v = true → u.rb.pkgCycle = u.rb.cycle ∧ u.rb.pkgPhase = u.rb.phase) ∧
       u.rb.tickStart = v.rb.tickStart + v.rb.tickLen ∧ u.rb.pEst4 = v.rb.pEst4 ∧ u.rb.state = v.rb.state) ∧
  (∀ s : State,
     (∀ d : Int, s.rb.atCycleStart = true → s.rb.applyD = some d → d ≠ 0 →
       s.rb.applyFirst = true ∨ 0 < d ∨ packagePowered s = false →
       ∃ u, exec .applyBeaconDelta s = .next u ∧ u.rb.cycle = (((s.rb.cycle : Int) + d) % (2 ^ 48 : Int)).toNat ∧
         u.rb.applyD = none ∧ u.rb.mismatch = false ∧ u.rb.phase = s.rb.phase ∧ Counted 0x2020 6 1 s u ∧
         (packagePowered s = true → u.rb.pkgCycle = u.rb.cycle) ∧
         u = { s with rb := u.rb, kiosk := u.kiosk, host := u.host, outbox := u.outbox }) ∧
     (∀ d : Int, s.rb.atCycleStart = true → s.rb.applyD = some d → d < 0 → s.rb.applyFirst = false → packagePowered s = true →
       ∃ u, exec .applyBeaconDelta s = .next u ∧ u.rb.cycle = s.rb.cycle ∧ u.rb.phase = s.rb.phase ∧ u.rb.applyD = none ∧
         u.rb.mismatch = true ∧ u.rb.pendingNeg = d.natAbs ∧ Noted s u ∧
         u = { s with rb := u.rb, contain := u.contain, kiosk := u.kiosk, host := u.host, outbox := u.outbox }) ∧
     (s.rb.state = .freewheel → 65536 * 4096 ≤ s.rb.freewheelTicks → s.rb.freewheelLong = false →
       ∃ u, exec .freewheelLong s = .next u ∧ u.rb = { s.rb with freewheelLong := true } ∧
         u.gov = s.gov ∧ u.life = s.life ∧ u.net = s.net ∧ SameWork s u ∧ SameMemories s u ∧ u.now = s.now)) ∧
  (∀ (s : State) (i : Nat),
     (s.rb.boundaryDue = true → exec .eventFire s = .next s) ∧
     (s.rb.boundaryDue = false → nextDue s.rb = some (true, i) →
       ∃ u c, exec .eventFire s = .next u ∧ c = tabGet ({} : Comparator) i u.rb.kioskCmp ∧ c.busy = false ∧ c.fired = true ∧
         c.late = (tabGet ({} : Comparator) i s.rb.kioskCmp).passed ∧
         (∀ j, j ≠ i → tabGet ({} : Comparator) j u.rb.kioskCmp = tabGet ({} : Comparator) j s.rb.kioskCmp) ∧
         (c.late = true → Counted 0x2020 5 1 s u) ∧
         u = { s with rb := { s.rb with kioskCmp := u.rb.kioskCmp }, kiosk := u.kiosk }) ∧
     (s.rb.boundaryDue = false → nextDue s.rb = some (false, i) →
       ∃ u c, exec .eventFire s = .next u ∧ c = tabGet ({} : Comparator) i u.rb.pkgCmp ∧ c.busy = false ∧ c.fired = true ∧
         c.late = (tabGet ({} : Comparator) i s.rb.pkgCmp).passed ∧
         (∀ j, j ≠ i → tabGet ({} : Comparator) j u.rb.pkgCmp = tabGet ({} : Comparator) j s.rb.pkgCmp) ∧
         (c.late = true → Counted 0x2020 5 1 s u) ∧
         (i ≠ 60 → i ≠ 61 → u.tiles = s.tiles) ∧ u.tiles.map (·.1) = s.tiles.map (·.1) ∧
         u = { s with rb := { s.rb with pkgCmp := u.rb.pkgCmp }, tiles := u.tiles, kiosk := u.kiosk }))

/-- MAINS_CROSSING (R77, R80, R84 to R86, R90, R92); WINDOW_CLOSE and RUN_TIMEOUT (R81 to R83, R1143). -/
def Obligations.CrossingsFollowedAndMissed : Prop :=
  (∀ (t above last : Nat) (s : State), s.life.state ≠ .absent → s.rb.lastRaw = some last →
     let ts := max s.now t / 10
     let off := objAt s 0x2010 0
     let f := classifyForm (objAt s 0x2011 0) (ts - last) above
     (tracking s.rb = true → crossingAccepted s.rb ts f = true →
       ∃ u, exec (.mainsCrossing t above) s = .next u ∧
         u = { s with rb := u.rb, now := max s.now t, kiosk := u.kiosk, host := u.host, outbox := u.outbox } ∧
         u.rb.lastAccepted = ts ∧ u.rb.missing = 0 ∧ u.rb.err = phaseError off ts s.rb ∧
         u.rb.corr = clampCorr (phaseError off ts s.rb) ∧
         u.rb.state = (if (phaseError off ts s.rb).natAbs ≤ 16 then .locked else .slewing) ∧
         u.rb.phase = s.rb.phase ∧ u.rb.cycle = s.rb.cycle ∧ Counted 0x2020 1 1 s u) ∧
     (tracking s.rb = true → crossingAccepted s.rb ts f = false →
       ∃ u, exec (.mainsCrossing t above) s = .next u ∧ u.rb.state = s.rb.state ∧ u.rb.phase = s.rb.phase ∧
         u.rb.cycle = s.rb.cycle ∧ u.rb.missing = s.rb.missing ∧ u.rb.lastAccepted = s.rb.lastAccepted ∧
         Counted 0x2020 2 1 s u) ∧
     (s.rb.state = .noRef → s.rb.everLocked = false → periodValid s.rb (ts - last) f = true → 7 ≤ s.rb.runLen →
       ∃ u, exec (.mainsCrossing t above) s = .next u ∧ u.rb.state = .locked ∧ u.rb.everLocked = true ∧
         u.rb.phase = off % 4096 ∧ u.rb.lastAccepted = ts ∧ u.rb.missing = 0 ∧ Counted 0x2020 1 1 s u)) ∧
  (∀ (t : Nat) (s : State),
     (tracking s.rb = true → windowOver s.rb (max s.now t / 10) = true →
       ∃ u, exec (.windowClose t) s = .next u ∧ Counted 0x2020 3 1 s u ∧ u.rb.missing = s.rb.missing + 1 ∧
         u.rb.phase = s.rb.phase ∧ u.rb.cycle = s.rb.cycle ∧ u.rb.lastAccepted = s.rb.lastAccepted ∧
         (s.rb.missing < 2 → u.rb.state = .coast) ∧
         (2 ≤ s.rb.missing → u.rb.state = .freewheel ∧ u.rb.form = .unset ∧ u.rb.corr = 0 ∧ u.rb.freewheelTicks = 0) ∧
         u.gov = s.gov ∧ u.life = s.life ∧ SameMemories s u ∧ SameWork s u) ∧
     (∀ a, s.rb.lastRaw = some a → s.rb.runActive = true → a + 2222200 ≤ max s.now t / 10 →
       ∃ u, exec (.runTimeout t) s = .next u ∧ u.rb.runLen = 0 ∧ acquiring u.rb = false ∧ u.rb.state = s.rb.state ∧
         u.rb.phase = s.rb.phase ∧ u.rb.cycle = s.rb.cycle ∧
         u = { s with rb := u.rb, now := max s.now t, host := u.host, outbox := u.outbox }))

/-- BALLAST_BURST (R141, R142, R146, R665, R666); MAIN_INPUT_QUALIFY, BROWNOUT_DETECT, BROWNOUT_CLEAR_QUALIFY, OVERVOLTAGE_NOTICE, START_QUALIFIED (R127, R167, R168,
R170, R182). -/
def Obligations.BallastAndInput : Prop :=
  (∀ (i : Fin 160) (s : State), let x := tileAt s i.val
     (ballastReq s x = true → exec (.ballastBurst i) s =
       .next (modTile i.val (fun x => { x with burst := s.gov.ballast, upc := if x.works then x.upc else 0x040 }) s)) ∧
     (ballastReq s x = false → 0 < x.burst → ∃ u, exec (.ballastBurst i) s = .next u ∧ u = { s with tiles := u.tiles } ∧
       tileAt u i.val = { x with burst := 0, upc := if x.works then x.upc else 4 } ∧
       ∀ j, j ≠ i.val → tileAt u j = tileAt s j) ∧
     (ballastReq s x = false → x.burst = 0 → exec (.ballastBurst i) s = .next s)) ∧
  (∀ (t a : Nat) (s : State), let n := max s.now t
     (s.gov.okSince = some a →
       (a + 100000000 ≤ n → exec (.mainInputQualify t) s = .next { s with now := n, gov := { s.gov with inputOk := true } }) ∧
       (n < a + 100000000 → exec (.mainInputQualify t) s = .next { s with now := n })) ∧
     (s.gov.state = .regulating → s.gov.brownSince = some a →
       (a + 1000000 ≤ n → exec (.brownoutDetect t) s = .next { s with now := n, gov := { s.gov with brownDue := true } }) ∧
       (n < a + 1000000 → exec (.brownoutDetect t) s = .next { s with now := n })) ∧
     (s.gov.state = .brownout → s.gov.brownOkSince = some a →
       (a + 100000000 ≤ n →
         exec (.brownoutClearQualify t) s = .next { s with now := n, gov := { s.gov with brownClearDue := true } }) ∧
       (n < a + 100000000 → exec (.brownoutClearQualify t) s = .next { s with now := n })) ∧
     (measuring s.gov = true → s.gov.overSince = some a → s.gov.overNoted = false →
       (a + 1000000 ≤ n →
         exec (.overvoltageNotice t) s = .next { s with now := n, gov := { s.gov with overDue := true, overNoted := true } }) ∧
       (n < a + 1000000 → exec (.overvoltageNotice t) s = .next { s with now := n })) ∧
     (s.life.state = .standby → startConditions s = true → s.life.startSince = some a →
       (a + 100000000 ≤ n → exec (.startQualified t) s = .next { s with now := n, life := { s.life with startDue := true } }) ∧
       (n < a + 100000000 → exec (.startQualified t) s = .next { s with now := n })))

/-- POWER_SAMPLE (R128, R130, the control law). -/
def Obligations.ControlLaw : Prop :=
  ∀ (t mainMv bulkMv p : Nat) (pf : Bool) (s : State),
    s.gov.state = .regulating → isMember s = true →
    let sum := ((p :: s.gov.power).take 16).foldl (· + ·) 0
    let hot := 16 * s.gov.ceilMw < sum + 320000
    let cool := sum + 640000 < 16 * s.gov.ceilMw
    let low := sum < 16 * (s.gov.floorMw + 20000)
    let high := 16 * (s.gov.floorMw + 60000) < sum
    let ease := hot ∧ 0 < s.gov.ballast ∧ anyTileWorks s = false
    let unit := idleTiles s * ballastInc s.gov.clock
    ∃ u, exec (.powerSample t mainMv bulkMv p pf) s = .next u ∧
      u = { s with
        now := max s.now t, pins := { s.pins with pfWarn := pf }, gov := u.gov, life := u.life, contain := u.contain
        kiosk := u.kiosk, host := u.host, outbox := u.outbox } ∧ Noted s u ∧
      u.gov.power = (p :: s.gov.power).take 16 ∧ u.gov.sumMw = s.gov.sumMw + p ∧ u.gov.samples = s.gov.samples + 1 ∧
      u.gov.mainMv = mainMv ∧ u.gov.ceilMw = s.gov.ceilMw ∧ u.gov.floorMw = s.gov.floorMw ∧ u.gov.clock = s.gov.clock ∧
      (hot → u.gov.holdBack = min 16 (s.gov.holdBack + 1)) ∧
      (¬ hot → cool → 0 < s.gov.holdBack → 3 ≤ s.gov.holdTimer → u.gov.holdBack = s.gov.holdBack - 1) ∧
      (¬ hot → ¬ (cool ∧ 0 < s.gov.holdBack ∧ 3 ≤ s.gov.holdTimer) → u.gov.holdBack = s.gov.holdBack) ∧
      (ease → u.gov.ballast = s.gov.ballast - 1) ∧
      (¬ ease → low → 0 < idleTiles s →
        u.gov.ballast = min 15 (s.gov.ballast + max 1 ((s.gov.floorMw + 20000 - p + unit - 1) / unit))) ∧
      (¬ ease → ¬ (low ∧ 0 < idleTiles s) → high → 0 < s.gov.ballast → 7 ≤ s.gov.ballastTimer →
        u.gov.ballast = s.gov.ballast - 1) ∧
      (¬ ease → ¬ (low ∧ 0 < idleTiles s) → ¬ (high ∧ 0 < s.gov.ballast ∧ 7 ≤ s.gov.ballastTimer) →
        u.gov.ballast = s.gov.ballast)

/-- HALF_CYCLE_BOUNDARY of a member, and the one that begins PRECHARGE (R130, R133, R134, R138, R148 to R152, R183). -/
def Obligations.BoundaryFixesLimits : Prop :=
  (∀ (t : Nat) (s : State), s.life.state = .standby → s.life.startDue = true → s.rb.boundaryDue = true →
    s.life.descent = .idle → s.gov.state = .off → s.gov.overDue = false → s.sweep.stage = .idle →
    ∃ u, exec (.halfCycleBoundary t) s = .next u ∧ u.life.state = .precharge ∧ u.gov.state = .precharge ∧
      u.gov.dMw = 1000 * min (objAt s 0x2111 0) 800 ∧ u.gov.floorMw ≤ u.gov.ceilMw ∧
      (s.gov.overVolt = false → u.gov.uMw = 1000 * min (objAt s 0x2110 0) 800) ∧ u.rb = { s.rb with boundaryDue := false } ∧
      SameMemories s u ∧ SameWork s u) ∧
  (∀ (t : Nat) (s : State),
    isMember s = true → s.life.descent = .idle → s.rb.boundaryDue = true → s.gov.state = .regulating → s.gov.brownDue = false →
    s.gov.overDue = false → 0 < s.gov.samples → s.gov.fatalCapMw = none → s.gov.fatalDue = false → s.gov.fullDepth = false →
    let a := s.gov.sumMw / s.gov.samples
    let up := 1000 * (if s.gov.overVolt then 0 else min (objAt s 0x2110 0) 800)
    let down := 1000 * min (objAt s 0x2111 0) 800
    let ceiling := max (min (a + up) (1000 * objAt s 0x2112 0)) (a - down)
    let idle := if s.gov.workThis || hostBusy s then 0 else s.gov.idleHalf + 1
    let depth := if objAt s 0x2114 0 ≤ idle then down else min (1000 * objAt s 0x2113 0) down
    ∃ u, exec (.halfCycleBoundary t) s = .next u ∧
      u = { s with
        now := max s.now t, rb := { s.rb with boundaryDue := false }, gov := u.gov
        kiosk := { s.kiosk with counters := u.kiosk.counters }, fab := { s.fab with chips := u.fab.chips } } ∧
      u.gov.aMw = a ∧ u.gov.uMw = up ∧ u.gov.dMw = down ∧ u.gov.ceilMw = ceiling ∧ u.gov.floorMw = min (a - depth) ceiling ∧
      u.gov.idleHalf = idle ∧ (u.gov.clamped = true ↔ 800 < objAt s 0x2110 0 ∨ 800 < objAt s 0x2111 0) ∧
      u.gov.sumMw = 0 ∧ u.gov.samples = 0 ∧ u.gov.power = s.gov.power ∧ u.gov.state = .regulating ∧
      u.gov.holdBack = s.gov.holdBack ∧ u.gov.ballast = s.gov.ballast ∧
      (4 * s.gov.samples < s.gov.holdSum → s.gov.clock ≠ objAt s 0x2117 0 → 1200 < s.gov.clock →
        u.gov.clock = s.gov.clock - 200) ∧
      (s.gov.holdSum ≤ 4 * s.gov.samples → s.gov.holdSum < s.gov.samples → 3 ≤ s.gov.lowHalves → s.gov.clock < 1800 →
        u.gov.clock = s.gov.clock + 200) ∧
      (s.gov.holdSum ≤ 4 * s.gov.samples → s.gov.samples ≤ s.gov.holdSum → u.gov.clock = s.gov.clock))

/-- CURFEW_DECLARE and REMOVAL_DROP_BEGIN (R157, R160, R171, R181, R678, R1062); CURFEW_DEPARTURE_NOTICE, CURFEW_HALT, HBM_OFF, CELLAR_FABRIC_OFF (R160, R171); CURFEW_LOG_START, CORE_RAILS_OFF, CURFEW_SWITCH_OPEN, EVENT_LOG_COMPLETE (R155, R160, R172, R175, R180, R192, R266). -/
def Obligations.DropSequence : Prop :=
  (∀ (t : Nat) (s : State), poweredState s.life.state = true → s.gov.drop = none →
     (∀ a, (s.gov.lowSince = some a ∧ a + 200000 ≤ max s.now t ∨ s.gov.pfSince = some a ∧ a + 2000 ≤ max s.now t) →
       ∃ u, exec (.curfewDeclare t) s = .next u ∧ u.gov.state = .curfew ∧ u.life.lastCause = 0x2007 ∧
         u.gov.drop = some { cause := .curfew, t0 := max s.now t, event := 2, both := false } ∧
         u.life.state = .curfew ∧ u.gov.ballast = 0 ∧ u.gov.holdBack = 0 ∧ (∀ e ∈ u.tiles, e.2.works = false) ∧
         u.junc.plane0 = {} ∧ u.junc.plane1 = {} ∧ u.contain.frozen = true ∧ u.contain.windows = [] ∧
         (isMember s = true → Counted 0x3030 7 1 s u) ∧
         u = { s with
           now := max s.now t, junc := u.junc, tiles := u.tiles, host := u.host, kiosk := u.kiosk, rb := u.rb, sweep := u.sweep
           gov := u.gov, life := u.life, contain := u.contain, outbox := u.outbox }) ∧
     (∀ a, s.pins.earlySince = some a → a + 10000 ≤ max s.now t →
       ∃ u, exec (.removalDropBegin t) s = .next u ∧ u.gov.state = .removal ∧ u.life.lastCause = 0x2008 ∧
         u.gov.drop = some { cause := .removal, t0 := max s.now t, event := 2, both := false } ∧
         u.life.state = .curfew ∧ u.gov.ballast = 0 ∧ u.gov.holdBack = 0 ∧ (∀ e ∈ u.tiles, e.2.works = false) ∧
         u.contain.frozen = true ∧ (isMember s = true → Counted 0x3030 7 1 s u) ∧
         u = { s with
           now := max s.now t, junc := u.junc, tiles := u.tiles, host := u.host, kiosk := u.kiosk, rb := u.rb, sweep := u.sweep
           gov := u.gov, life := u.life, contain := u.contain, outbox := u.outbox })) ∧
  (∀ (t : Nat) (d : DropSeq) (s : State), s.gov.drop = some d → let n := max s.now t
     let next (k : Nat) : Governor := { s.gov with drop := some { d with event := k } }
     (d.event = 2 → ∃ u, exec (.curfewDepartureNotice t) s = .next u ∧ u.links.noticeCount = s.links.noticeCount + 1 ∧
       u = { s with now := n, gov := next 3, net := u.net, links := u.links } ∧ u.links.transit = s.links.transit ∧
       (∀ p, p < 16 → (portAt s p).state = .up → (portAt u p).outq.length = (portAt s p).outq.length + 1)) ∧
     (d.event = 3 → exec (.curfewHalt t) s =
       .next { s with now := n, gov := next 4, tiles := s.tiles.map fun e => (e.1, { e.2 with stopped := true }) }) ∧
     (d.event = 6 → exec (.hbmOff t) s =
       .next { s with now := n, hbm := [], gov := { lowerSupplies 1 (next 7) with hbmOn := false } }) ∧
     (d.event = 7 → exec (.cellarFabricOff t) s =
       .next { s with
         now := n, cellar := [], tiers := { s.tiers with cellarPoison := [] }
         gov := { lowerSupplies 0 (next 8) with cellarOn := false } }) ∧
     (d.event ≠ 2 → exec (.curfewDepartureNotice t) s = .next { s with now := n }) ∧
     (d.event ≠ 3 → exec (.curfewHalt t) s = .next { s with now := n }) ∧
     (d.event ≠ 6 → exec (.hbmOff t) s = .next { s with now := n }) ∧
     (d.event ≠ 7 → exec (.cellarFabricOff t) s = .next { s with now := n })) ∧
  (∀ (t : Nat) (d : DropSeq) (s : State), s.gov.drop = some d →
     (d.event = 4 → s.contain.frozen = true → s.contain.windows = [] →
       ∃ u, exec (.curfewLogStart t) s = .next u ∧ u.contain.sequence = s.contain.sequence + (if d.both then 2 else 1) ∧
         u.gov = { s.gov with drop := some { d with event := 5 } } ∧ Noted s u ∧
         u = { s with
           now := max s.now t, gov := u.gov, contain := u.contain, kiosk := u.kiosk, host := u.host, outbox := u.outbox }) ∧
     (d.event = 5 → ∃ u, exec (.coreRailsOff t) s = .next u ∧ u.gov.railsOn = false ∧ u.gov.hbmOn = s.gov.hbmOn ∧
       u.prog = none ∧ u.hbm = s.hbm ∧ u.cellar = s.cellar ∧ u.hostMem = s.hostMem ∧ u.coll = {} ∧
       u.contain = s.contain ∧ u.life = s.life ∧ u.net = s.net ∧ u.pins = s.pins) ∧
     (d.event = 8 → ∃ u, exec (.curfewSwitchOpen t) s = .next u ∧ u.gov.state = .off ∧ u.gov.switchClosed = false ∧
       u.gov.railsOn = false ∧ u.gov.hbmOn = false ∧ u.gov.cellarOn = false ∧ u.hbm = [] ∧ u.cellar = [] ∧ u.prog = none ∧
       u.hostMem = s.hostMem ∧ u.contain = s.contain ∧ u.life = s.life ∧ u.net = s.net ∧ u.pins = s.pins) ∧
     (d.event = 9 → ∃ u, exec (.eventLogComplete t) s = .next u ∧ u.gov = { s.gov with drop := none } ∧
       u.contain.frozen = false ∧ u.contain.buffer = [] ∧
       (d.cause = .curfew ∨ d.both = true → Counted 0x2130 5 1 s u) ∧
       (d.cause = .removal ∨ d.both = true → Counted 0x2130 6 1 s u) ∧
       (objAt s 0x3010 0 ≠ 1 ∨ s.life.unfit = true ∨ s.life.fwInvalid = true → u.life.state = .off ∧ u.life.dropOff = true) ∧
       (objAt s 0x3010 0 = 1 → s.life.unfit = false → s.life.fwInvalid = false → u.life.state = .standby) ∧
       u = { s with
         now := max s.now t, gov := u.gov, life := u.life, contain := u.contain, kiosk := u.kiosk, host := u.host
         outbox := u.outbox }))

/-- KIOSK_START and STANDBY_POWER_LOSS (R39, R72, R121, R180, R237, R266, R1109). -/
def Obligations.KioskStartsAndDies : Prop :=
  ∀ (t slot : Nat) (s : State),
    (s.life.state = .absent →
      ∃ u, exec (.kioskStart t slot) s = .next u ∧
        u.life.state = (if objAt s 0x3010 0 = 1 ∧ s.life.unfit = false ∧ s.life.fwInvalid = false ∧ s.gov.drop = none
          then .standby else .off) ∧
        u.rb.state = .noRef ∧ u.rb.cycle = 0 ∧ u.rb.phase = 0 ∧ u.rb.unnumbered = true ∧ u.pins.standby = true ∧
        u.pins.slotAddr = slot % 64 ∧ u.kiosk.startedAt = max s.now t ∧ Counted 0x1009 0 1 s u ∧
        (tabGet {} 0 u.rb.kioskCmp).busy = true ∧
        u = { s with
          now := max s.now t, pins := u.pins, rb := u.rb, net := u.net, life := u.life, kiosk := u.kiosk
          contain := u.contain, host := u.host, outbox := u.outbox }) ∧
    (s.life.state ≠ .absent → exec (.kioskStart t slot) s = .next { s with now := max s.now t }) ∧
    (s.life.state ≠ .absent →
      ∃ u, exec (.standbyPowerLoss t) s = .next u ∧ u.life.state = .absent ∧ u.pins.standby = false ∧
        (∀ i a, objAt u i a = if isSaved (objKey i a) then objAt s i a else objDefault (objKey i a)) ∧
        (∀ i a, counterAt u i a = if isSaved (objKey i a) then counterAt s i a else 0) ∧
        (∀ i a, strAt u i a = if isSaved (objKey i a) then strAt s i a else []) ∧
        u.contain.errorLog = s.contain.errorLog ∧ u.contain.eventLog = s.contain.eventLog ∧
        u.contain.sequence = s.contain.sequence ∧ u.contain.buffer = [] ∧
        u.life.latchOpen = s.life.latchOpen ∧ u.life.stuckHold = s.life.stuckHold ∧ u.life.unfit = s.life.unfit ∧
        u.contain.stackFences = s.contain.stackFences ∧ u.kiosk.policyA = s.kiosk.policyA ∧
        u.kiosk.stationB = s.kiosk.stationB ∧ u.fab.store = s.fab.store ∧ u.sweep.verdict = s.sweep.verdict ∧
        u.rb = {} ∧ u.gov = {} ∧ u.net = {} ∧ u.host = {} ∧ u.prog = none ∧ u.coll = {} ∧ u.junc = {} ∧ u.tiers = {} ∧
        u.hbm = [] ∧ u.cellar = [] ∧ u.hostMem = s.hostMem ∧ u.outbox = s.outbox)

/-- EARLY_N_CHANGE, PRSNT_N_CHANGE, LATCH_CLOSE, HOT_RESET_EXIT, PERST_DEASSERT (R171, R182, R349, R408, R1099, R1104); RESET_BTN_PRESS, RESET_BTN_HOLD, RESET_BTN_RELEASE, RESET_STUCK, RESET_STUCK_CLEAR (R210 to R214). -/
def Obligations.ContactsAndButton : Prop :=
  (∀ (t : Nat) (b : Bool) (s : State), let n := max s.now t
     (∃ u, exec (.earlyNChange t b) s = .next u ∧ u.pins = { s.pins with early := b, earlySince := u.pins.earlySince } ∧
       (b = false → u.pins.earlySince = none) ∧ (b = true → s.pins.earlySince = none → u.pins.earlySince = some n) ∧
       (b = true → ∀ a, s.pins.earlySince = some a → u.pins.earlySince = some a) ∧
       (poweredState s.life.state = true → u.life.state = s.life.state ∧ u.life.since = s.life.since) ∧
       u = { s with now := n, pins := u.pins, life := u.life, host := u.host, outbox := u.outbox }) ∧
     (∃ u, exec (.prsntNChange t b) s = .next u ∧ u.pins = { s.pins with prsnt := b } ∧
       (poweredState s.life.state = true → u.life.state = s.life.state ∧ u.life.since = s.life.since) ∧
       u = { s with now := n, pins := u.pins, life := u.life, host := u.host, outbox := u.outbox }) ∧
     exec (.latchClose t) s = .next { s with now := n, life := { s.life with latchOpen := false } } ∧
     exec (.hotResetExit t) s = .next { s with now := n, pins := { s.pins with hotReset := false } } ∧
     (packageRuns s = true → exec (.perstDeassert t) s = .next { s with
       now := n, pins := { s.pins with perst := false }
       host := { s.host with
         linkUp := false, trainAt := some n, ready := false, flitRequired := false, linkWidth := 0, linkRate := 0
         windowSize := objAt s 0xA010 0, windowBase := 0 } }) ∧
     (packageRuns s = false → exec (.perstDeassert t) s = .next { s with now := n, pins := { s.pins with perst := false } })) ∧
  (∀ (t a : Nat) (began : LifeState) (s : State), let n := max s.now t
     (s.life.state ≠ .absent → s.pins.btn = false →
       (s.life.override = true → ∃ u, exec (.resetBtnPress t) s = .next u ∧ Counted 0x3030 4 1 s u ∧
         u = { s with now := n, pins := { s.pins with btn := true }, kiosk := u.kiosk }) ∧
       (s.life.override = false → s.life.press = none → ∃ u, exec (.resetBtnPress t) s = .next u ∧
         u.life.press = some (n, s.life.state) ∧ u.life.pressActed = false ∧
         u = { s with now := n, pins := { s.pins with btn := true }, life := u.life, host := u.host, outbox := u.outbox })) ∧
     (s.life.press = some (a, began) → s.pins.btn = true → s.life.override = false →
       (a + 2000000000 ≤ n → s.life.pressActed = false → resettable began = true → resettable s.life.state = true →
         s.life.descent ≠ .toReset →
         ∃ u, exec (.resetBtnHold t) s = .next u ∧ u.life.btnHold = true ∧ u.life.pressActed = true ∧
           u.life.descent = .toReset ∧ (∀ e ∈ u.tiles, e.2.works = false) ∧ SameMemories s u ∧ u.prog = s.prog) ∧
       (a + 2000000000 ≤ n → s.life.pressActed = false →
         began = .standby ∨ began = .off ∨ began = .precharge ∨ began = .resetHeld →
         ∃ u, exec (.resetBtnHold t) s = .next u ∧ u.life.btnHold = true ∧ u.life.pressActed = true ∧
           u.gov = s.gov ∧ u.tiles = s.tiles ∧ SameMemories s u) ∧
       (n < a + 2000000000 → exec (.resetBtnHold t) s = .next { s with now := n }) ∧
       (a + 30000000000 ≤ n → s.life.stuck = false → began ≠ .curfew →
         ∃ u, exec (.resetStuck t) s = .next u ∧ u.life.stuck = true ∧ u.life.stuckHold = true ∧ Counted 0x3030 5 1 s u ∧
           u = { s with
             now := n, life := u.life, contain := u.contain, kiosk := u.kiosk, host := u.host, outbox := u.outbox })) ∧
     (s.life.state ≠ .absent → s.pins.btn = true → s.life.press = some (a, began) → s.life.pressActed = false →
       (a + 60000000 ≤ n → resettable began = true → resettable s.life.state = true → s.life.descent ≠ .toReset →
         ∃ u, exec (.resetBtnRelease t) s = .next u ∧ u.pins.btn = false ∧ u.life.press = none ∧
           u.life.descent = .toReset ∧ u.life.btnHold = false ∧ SameMemories s u) ∧
       (n < a + 60000000 → ∃ u, exec (.resetBtnRelease t) s = .next u ∧ u.pins.btn = false ∧ u.life.press = none ∧
         Counted 0x3030 4 1 s u ∧ u.gov = s.gov ∧ u.tiles = s.tiles ∧ SameMemories s u)) ∧
     (s.pins.btn = false → s.life.releasedSince = some a → a + 1000000000 ≤ n →
       exec (.resetStuckClear t) s = .next { s with now := n, life := { s.life with stuck := false } }))

/-- LATCH_OPEN (R198 to R200, R1099); DEPART_INSTANT, DRAIN_COMPLETE, DRAIN_TIMEOUT (R180, R202 to R204). -/
def Obligations.DepartureAndDrain : Prop :=
  (∀ (t : Nat) (s : State), s.life.latchOpen = false → s.life.descent ≠ .toReset →
     (s.life.state = .joined ∨ s.life.state = .running ∨ s.life.state = .degraded →
       ∃ u, exec (.latchOpen t) s = .next u ∧ u.life.state = .departReq ∧ u.life.departCode = 1 ∧
         u.life.departCycle % 8 = 0 ∧ s.rb.cycle + objAt s 0x3012 0 ≤ u.life.departCycle ∧
         u.life.departCycle < s.rb.cycle + objAt s 0x3012 0 + 8 ∧ u.life.prevState = s.life.state ∧
         u.life.prevTarget = objAt s 0x3010 0 ∧ objAt u 0x3010 0 = 0 ∧ u.life.lastCause = 0x3002 ∧
         u.life.latchOpen = true ∧ Counted 0x3030 6 1 s u ∧
         (tabGet {} 2 u.rb.kioskCmp).busy = true ∧ (tabGet {} 2 u.rb.kioskCmp).cycle = u.life.departCycle ∧
         (∀ i, i = 62 ∨ i = 63 → (tabGet {} i u.rb.pkgCmp).busy = true ∧ (tabGet {} i u.rb.pkgCmp).cycle = u.life.departCycle) ∧
         u.gov = s.gov ∧ SameMemories s u ∧ SameWork s u) ∧
     (s.life.state = .standby →
       ∃ u, exec (.latchOpen t) s = .next u ∧ u.life.state = .off ∧ objAt u 0x3010 0 = 0 ∧ u.life.latchOpen = true ∧
         u.gov = s.gov ∧ u.rb = s.rb ∧ SameMemories s u ∧ SameWork s u)) ∧
  (∀ (t : Nat) (s : State),
     let sweep := decide (s.life.departCode = 2) || decide (objAt s 0x3014 0 = 1)
     (s.life.state = .departReq → s.life.descent = .idle → departFired s = true →
       ∃ u, exec (.departInstant t) s = .next u ∧ u.life.state = .draining ∧ u.life.since = max s.now t ∧
         u.life.drainTimedOut = false ∧ (tabGet {} 2 u.rb.kioskCmp).fired = false ∧
         (tabGet {} 62 u.rb.pkgCmp).fired = false ∧ (tabGet {} 63 u.rb.pkgCmp).fired = false ∧ u.gov = s.gov ∧ u.prog = s.prog ∧
         u.coll = s.coll ∧ u.tiles = s.tiles ∧ u.cellar = s.cellar) ∧
     (s.life.state = .draining → s.life.descent = .idle → drained s = true →
       ∃ u, exec (.drainComplete t) s = .next u ∧ u.life.state = .left ∧ u.life.sweepDue = sweep ∧
         u.life.descent = (if sweep then s.life.descent else .toOff) ∧ u.gov.fullDepth = true ∧
         (∀ e ∈ u.tiles, e.2.works = false) ∧ u.prog = s.prog ∧ u.cellar = s.cellar ∧ u.fab = s.fab ∧ u.contain = s.contain) ∧
     (s.life.state = .draining → s.life.descent = .idle → s.life.since + 1000000 * objAt s 0x3013 0 ≤ max s.now t →
       ∃ u, exec (.drainTimeout t) s = .next u ∧ u.life.state = .left ∧ u.life.sweepDue = sweep ∧
         u.life.drainTimedOut = true ∧ u.life.lastCause = 0x3003 ∧ u.gov.fullDepth = true ∧ Counted 0x3030 8 1 s u ∧
         (∀ e ∈ u.tiles, e.2.works = false) ∧ u.cellar = s.cellar ∧ u.fab = s.fab) ∧
     (s.life.state = .draining → max s.now t < s.life.since + 1000000 * objAt s 0x3013 0 →
       exec (.drainTimeout t) s = .next { s with now := max s.now t }) ∧
     (s.life.state = .draining → s.life.descent = .toReset →
       exec (.drainComplete t) s = .next { s with now := max s.now t } ∧
       exec (.drainTimeout t) s = .next { s with now := max s.now t }))

/-- PRECHARGE_COMPLETE, STATION_FW_VERIFIED, RESET_HOLD_END (R126, R150, R180, R184, R185, R209, R218, R1132). -/
def Obligations.StartPath : Prop :=
  ∀ (t : Nat) (s : State),
    (s.life.state = .precharge → s.gov.mainMv ≤ s.gov.bulkMv + 1000 → s.life.departWaits = false →
      ∃ u, exec (.prechargeComplete t) s = .next u ∧ u.life.state = .powered ∧ u.gov.switchClosed = true ∧
        u.gov.clock = 1800 ∧ u.gov.fullDepth = false ∧ (s.gov.state ≠ .brownout → u.gov.state = .regulating) ∧
        (∀ p, p < 16 → objAt u (0x7100 + p) 8 = 0) ∧ u.kiosk.policyBank = pickBank s.kiosk.policyA s.kiosk.policyB ∧
        u.contain = s.contain ∧ u.net = s.net ∧ SameMemories s u ∧ SameWork s u) ∧
    (s.life.state = .powered → s.life.descent = .idle → suppliesUp s.gov = true → ∀ aOk bOk : Bool,
      let bank := pickStation aOk bOk s.kiosk
      let path := if quickPath s then 1 else 2
      (bank ≠ 0 → ∃ u, exec (.stationFwVerified t aOk bOk) s = .next u ∧ u.life.state = .verdict ∧ u.life.startPath = path ∧
        u.kiosk.stationRunning = true ∧ u.kiosk.stationBank = bank ∧ u.sweep.fresh = false ∧
        u.sweep.verdict = s.sweep.verdict ∧ u.hbm = [] ∧ u.gov.supplyGroups = 5 ∧ Counted 0x3030 path 1 s u ∧
        (s.life.fromHeld = false → u.cellar = []) ∧ u.prog = s.prog ∧ u.coll = s.coll ∧ u.links = s.links ∧ u.net = s.net) ∧
      (bank = 0 → ∃ u, exec (.stationFwVerified t aOk bOk) s = .next u ∧ u.life.state = .left ∧ u.life.fwInvalid = true ∧
        u.life.fwWritten = false ∧ u.life.descent = .toOff ∧ Counted 0x9020 4 1 s u ∧ u.cellar = s.cellar ∧
        u.prog = s.prog ∧ u.coll = s.coll)) ∧
    (s.life.state = .resetHeld → s.life.descent = .idle → s.life.heldSince + 10000000 ≤ max s.now t → resetHeldBy s = false →
      (objAt s 0x3010 0 = 1 → ∃ u, exec (.resetHoldEnd t) s = .next u ∧ u.life.state = .powered ∧ u.life.fromHeld = true ∧
        u.gov.clock = 1800 ∧ u.gov.supplyGroups = 4 ∧ u.cellar = s.cellar ∧ SameWork s u) ∧
      (objAt s 0x3010 0 ≠ 1 → exec (.resetHoldEnd t) s =
        .next { s with now := max s.now t, life := { s.life with descent := .resetAsserted } }))

/-- VERDICT_COMPLETE and TRAINING_COMPLETE (R180, R187, R188, R191 to R195, R513, R514, R519). -/
def Obligations.VerdictDecides : Prop :=
  ∀ (t : Nat) (res : TestResults) (s : State), s.life.descent = .idle →
    (s.life.state = .verdict →
      let f := findings s res
      let s0 := if s.life.startPath = 2 then clearTestedFences f res.cores s else s
      let kept := (List.range 8).filter fun i => bit f.hbmStacks i && !bit s0.contain.stackFences i
      (72 ≤ (activeSet s0 f).length → 4 ≤ kept.length → f.bridge = true →
        ∃ u, exec (.verdictComplete t res) s = .next u ∧ u.life.state = .training ∧ u.tiers.hbmMap = kept ∧
          (∀ i, i < 160 → (tileAt u i).state = startState s0 f (activeSet s0 f) i) ∧ u.contain.memoryLost = false ∧
          u.prog = s.prog ∧ u.sweep = s.sweep) ∧
      ((activeSet s0 f).length < 72 ∨ kept.length < 4 ∨ f.bridge = false →
        ∃ u, exec (.verdictComplete t res) s = .next u ∧ u.life.state = .left ∧ u.life.unfit = true ∧
          u.life.descent = .toOff ∧ Counted 0x9020 4 1 s u)) ∧
    (s.life.state = .training → (∀ e ∈ s.links.ports, e.2.state ≠ .training) →
      ∃ u, exec (.trainingComplete t) s = .next u ∧
        u.life.state = (if fullCapability s then .joined else .degraded) ∧
        u.links.noticeCount = s.links.noticeCount + 1 ∧ u.gov = s.gov ∧ u.rb = s.rb ∧ SameMemories s u ∧ SameWork s u)

/-- FULL_RESET_REQUEST, PERST_ASSERT, HOT_RESET, HOST_LINK_DOWN (R176, R207, R209, R217, R405, R408, R409). -/
def Obligations.FullResetBegins : Prop :=
  ∀ (t held : Nat) (s : State), packageRuns s = true → s.life.descent ≠ .toReset → s.host.linkUp = true → 100000 ≤ held →
    objAt s 0xA011 0 = 1 →
    ∀ c, c = .fullResetRequest t ∨ c = .perstAssert t held ∨ c = .hotReset t ∨ c = .hostLinkDown t →
      ∃ u, exec c s = .next u ∧ u.life.descent = .toReset ∧ u.life.state = s.life.state ∧ u.life.lastCause = 0x3004 ∧
        u.gov.fullDepth = true ∧ (∀ e ∈ u.tiles, e.2.works = false) ∧ (isMember s = true → Counted 0x3030 7 1 s u) ∧
        (c = .perstAssert t held → u.pins = { s.pins with perst := true }) ∧
        (c = .hotReset t → u.pins = { s.pins with hotReset := true }) ∧
        (c = .hostLinkDown t → u.host.linkUp = false ∧ u.host.ready = false ∧ objAt u 0x5105 0 = 0 ∧ u.pins = s.pins) ∧
        (c = .fullResetRequest t → u.pins = s.pins) ∧
        u = { s with
          now := max s.now t, pins := u.pins, rb := u.rb, gov := u.gov, life := u.life, contain := u.contain, kiosk := u.kiosk
          net := u.net, host := u.host, tiles := u.tiles, links := u.links, sweep := u.sweep, outbox := u.outbox }

/-- TRANSACTION_EXECUTE: all or nothing, and no second execution (R252, R254, R255, R260). -/
def Obligations.TransactionAllOrNothing : Prop :=
  ∀ (t i st : Nat) (storeOk : Bool) (s : State) (r : Request) (k : Kiosk) (ops : List Op),
    let sn : State := { s with now := max s.now t }
    s.life.state ≠ .absent → tickSettled sn = true → takeAwake (netAwake sn) s.kiosk = some (r, k) → 8 ≤ r.body.length →
    parseRequest r.body = some ops → sessionless r.mailbox r.session = false →
    let s0 : State := { sn with kiosk := k }
    let x := pathSession s0 r.mailbox r.session
    let a : Asker := { mailbox := r.mailbox, session := r.session, rights := x.rights, client := r.client }
    let changing := changesAny (min 16 (field r.body 4 1)) (r.body.drop 8)
    let txn := field r.body 0 4
    (x.record.find? (fun o => o.txn = txn) = none → (∀ h, x.high = some h → serialNewer 32 txn h = true) →
      runOps a txn 0 ops [] none (openOutcome r.mailbox r.session txn changing s0) = .failed i st →
      ∃ u, exec (.transactionExecute t storeOk) s = .next u ∧
        u.kiosk.objects = s.kiosk.objects ∧ u.kiosk.strings = s.kiosk.strings ∧ u.kiosk.staging = k.staging ∧
        u.kiosk.jopQueue = k.jopQueue ∧ u.kiosk.mbQueue = k.mbQueue ∧ Counted 0x1110 1 1 s u ∧
        u = { s with
          now := max s.now t, kiosk := u.kiosk, net := u.net, coll := { s.coll with groups := u.coll.groups }, host := u.host
          outbox := u.outbox }) ∧
    (∀ o, x.record.find? (fun o => o.txn = txn) = some o → o.reply ≠ [] → o.changing = true →
      ∃ u, exec (.transactionExecute t storeOk) s = .next u ∧
        u.kiosk.objects = s.kiosk.objects ∧ u.kiosk.strings = s.kiosk.strings ∧ Counted 0x1110 2 1 s u ∧
        u = { s with now := max s.now t, kiosk := u.kiosk, net := u.net, host := u.host, outbox := u.outbox })

/-- TRANSACTION_EXECUTE of one WRITE (R237, R241, R251, R254, R261). -/
def Obligations.WriteTakesEffect : Prop :=
  ∀ (t : Nat) (s : State) (r : Request) (k : Kiosk) (o : Op) (e : Entry),
    let sn : State := { s with now := max s.now t }
    s.life.state ≠ .absent → tickSettled sn = true → takeAwake (netAwake sn) s.kiosk = some (r, k) → 8 ≤ r.body.length →
    parseRequest r.body = some [o] → sessionless r.mailbox r.session = false → curfewNow s = false →
    let s0 : State := { sn with kiosk := k }
    let x := pathSession s0 r.mailbox r.session
    let txn := field r.body 0 4
    x.record.find? (fun o => o.txn = txn) = none → (∀ h, x.high = some h → serialNewer 32 txn h = true) →
    o.kind = .write → findEntry o.idx o.sub = some e → e.ty.isBytes = false →
    o.idx ∉ [0x1102, 0x1210, 0x1211, 0x1222, 0x1223, 0x2012, 0x3010, 0x3011, 0x3020, 0x3021, 0x7011, 0x8811, 0x8812,
      0x9004] → (o.idx < 0x7100 ∨ 0x77FF < o.idx) →
    checkOp { mailbox := r.mailbox, session := r.session, rights := x.rights, client := r.client } o
      (openOutcome r.mailbox r.session txn (changesAny (min 16 (field r.body 4 1)) (r.body.drop 8)) s0) = 0 →
    ∃ u, exec (.transactionExecute t true) s = .next u ∧ objAt u o.idx o.sub = leNat o.data ∧
      (∀ j b, objKey j b ≠ objKey o.idx o.sub → objAt u j b = objAt s j b) ∧ u.kiosk.strings = s.kiosk.strings ∧
      Counted 0x1110 1 1 s u ∧ u.kiosk.jopQueue = k.jopQueue ∧ u.kiosk.mbQueue = k.mbQueue ∧
      u = { s with now := max s.now t, kiosk := u.kiosk, net := u.net, host := u.host, outbox := u.outbox }

/-- DOMAIN_VERIFY_DONE and STAGING_EXPIRE (R273, R274, R284, R285, R290). -/
def Obligations.DomainCommits : Prop :=
  ∀ (t : Nat) (s : State) (g : Staging), s.kiosk.staging = some g → let n := max s.now t
    (∀ txn, g.verifying = some txn → tickSettled { s with now := n } = true →
      (imageKind g.key = 0 → g.key ≠ objKey 0x8800 0 → g.key ≠ objKey 0x8801 0 →
        (∃ u, exec (.domainVerifyDone t true) s = .next u ∧ strAt u (g.key / 256) (g.key % 256) = g.data ∧
          u.kiosk.staging = none ∧ u.kiosk.objects = s.kiosk.objects ∧
          (∀ i a, objKey i a ≠ objKey (g.key / 256) (g.key % 256) → strAt u i a = strAt s i a) ∧
          u = { s with now := n, kiosk := u.kiosk, net := u.net, host := u.host, outbox := u.outbox }) ∧
        (strAt s (g.key / 256) (g.key % 256) ≠ g.data →
          ∃ u, exec (.domainVerifyDone t false) s = .next u ∧ u.kiosk.strings = s.kiosk.strings ∧
            u.kiosk.objects = s.kiosk.objects ∧ Counted 0x1110 8 1 s u ∧
            u.kiosk.staging = (if g.orphan then none else some { g with verifying := none, busy := false }) ∧
            u = { s with
              now := n, kiosk := u.kiosk, net := u.net, contain := u.contain, host := u.host, outbox := u.outbox })) ∧
      (imageKind g.key ≠ 0 → imageOk (imageKind g.key) g.data = true →
        let b := targetBank s.kiosk (imageKind g.key)
        ∃ u, exec (.domainVerifyDone t true) s = .next u ∧ u.kiosk.staging = none ∧
          bankOf u.kiosk (imageKind g.key) b = { version := field g.data 8 4, data := g.data } ∧
          bankOf u.kiosk (imageKind g.key) (3 - b) = bankOf s.kiosk (imageKind g.key) (3 - b) ∧
          u.kiosk.objects = s.kiosk.objects ∧ u.kiosk.strings = s.kiosk.strings ∧
          u = { s with now := n, kiosk := u.kiosk, net := u.net, life := u.life, host := u.host, outbox := u.outbox }) ∧
      (imageKind g.key ≠ 0 → imageOk (imageKind g.key) g.data = false → ∀ storeOk,
        ∃ u, exec (.domainVerifyDone t storeOk) s = .next u ∧ u.kiosk.staging = none ∧
          u.kiosk.stationA = s.kiosk.stationA ∧ u.kiosk.stationB = s.kiosk.stationB ∧ u.kiosk.kioskA = s.kiosk.kioskA ∧
          u.kiosk.kioskB = s.kiosk.kioskB ∧ u.kiosk.policyA = s.kiosk.policyA ∧ u.kiosk.policyB = s.kiosk.policyB ∧
          u = { s with now := n, kiosk := u.kiosk, net := u.net, host := u.host, outbox := u.outbox })) ∧
    (g.verifying = none →
      (g.seen + objAt s 0x1103 0 * 1000000 ≤ n →
        ∃ u, exec (.stagingExpire t) s = .next u ∧ u.kiosk.staging = none ∧ Counted 0x1110 6 1 s u ∧
          u = { s with now := n, kiosk := { s.kiosk with staging := none, counters := u.kiosk.counters } }) ∧
      (n < g.seen + objAt s 0x1103 0 * 1000000 → exec (.stagingExpire t) s = .next { s with now := n }))

/-- MB_OPEN, MB_CLOSE, MB_SUBMIT, MB_VECTOR (R266, R275, R276, R278, R1149); JOP_REQUEST and JOP_FRAME_DISCARD (R258, R264, R295, R328, R336). -/
def Obligations.MailboxAndFrames : Prop :=
  (∀ (t : Nat) (v : Half) (s : State), hostReady s = true → let n := max s.now t
     (∃ u, exec (.mbClose t) s = .next u ∧ u = { s with now := n, kiosk := u.kiosk } ∧ u.kiosk.mbSession = 0 ∧
       u.kiosk.mbQueue = [] ∧ u.kiosk.mbDone = false ∧ u.kiosk.mbRspLength = 0 ∧ u.kiosk.objects = s.kiosk.objects ∧
       u.kiosk.sessions = s.kiosk.sessions) ∧
     (∃ u, exec (.mbOpen t) s = .next u ∧ u = { s with now := n, kiosk := u.kiosk } ∧ u.kiosk.mbSession = freshSession s ∧
       u.kiosk.mbSess.phase = 2 ∧ u.kiosk.mbSess.rights = objAt s 0x1101 0 ∧ u.kiosk.mbSess.high = none ∧
       u.kiosk.mbSess.record = [] ∧ u.kiosk.mbQueue = [] ∧ u.kiosk.objects = s.kiosk.objects ∧
       u.kiosk.sessions = s.kiosk.sessions) ∧
     (s.kiosk.mbSession ≠ 0 → s.kiosk.mbBusy = false → 8 ≤ s.kiosk.mbReqLength → s.kiosk.mbReqLength ≤ 1280 →
       exec (.mbSubmit t) s = .next { s with
         now := n
         kiosk := { s.kiosk with
           mbDone := false, mbFault := false, mbBusy := true
           mbQueue := s.kiosk.mbQueue ++ [({ mailbox := true, session := s.kiosk.mbSession
                                             body := memRead s.kiosk.mbRequest 0 s.kiosk.mbReqLength, at_ := n } : Request)] } }) ∧
     (s.kiosk.mbSession = 0 ∨ s.kiosk.mbBusy = true ∨ s.kiosk.mbReqLength < 8 ∨ 1280 < s.kiosk.mbReqLength →
       exec (.mbSubmit t) s = .next { s with now := n, kiosk := { s.kiosk with mbFault := true } }) ∧
     (1 ≤ v.toNat ∧ v.toNat ≤ 2047 ∨ v.toNat = 0xFFFF →
       exec (.mbVectorWrite v) s = .next { s with kiosk := { s.kiosk with mbVector := v.toNat } }) ∧
     (v.toNat = 0 ∨ 2047 < v.toNat ∧ v.toNat < 0xFFFF → exec (.mbVectorWrite v) s = .next s)) ∧
  (∀ (t : Nat) (src : NetSource) (f : List Byte) (s : State), let now : State := { s with now := max s.now t }
     let n := field f 6 2
     let x := tabGet {} n s.kiosk.sessions
     let reply := buildFrame none 0x02 0 (wholeReply (field f 32 4) 0x0C)
     (frameReaches now f = false ∨ sourceOk src = false →
       exec (.jopRequest t src f) s = .next now ∧ exec (.jopFrameDiscard t src f) s = .next now) ∧
     (frameReaches now f = true → sourceOk src = true → headerOk f = true → frameTagRule s f = true → field f 3 1 = 1 →
       netAwake now = true →
       (s.kiosk.jopQueue.length < 32 → (∀ o ∈ x.record, o.txn = field f 32 4 → o.reply ≠ []) →
         ∃ u, exec (.jopRequest t src f) s = .next u ∧
         u.kiosk.jopQueue = s.kiosk.jopQueue ++
           [{ mailbox := false, session := n, body := f.drop 32, at_ := max s.now t, client := src.client }] ∧
         u = { s with now := max s.now t, kiosk := { s.kiosk with sessions := u.kiosk.sessions, jopQueue := u.kiosk.jopQueue } }) ∧
       (32 ≤ s.kiosk.jopQueue.length → ∃ u, exec (.jopRequest t src f) s = .next u ∧
         (n = 0 → netMaySend now = true → quietWindow s = false → tabGet 0 (clientAddress src.client) s.net.neighbours ≠ 0 →
           u.outbox = s.outbox ++ [.frame 255 61605 src.client reply]) ∧
         u = { s with
           now := max s.now t, kiosk := { s.kiosk with sessions := u.kiosk.sessions }, net := u.net, outbox := u.outbox })) ∧
     (frameReaches now f = true → sourceOk src = true → headerOk f = false ∨ frameTagRule s f = false →
       ∃ u, exec (.jopFrameDiscard t src f) s = .next u ∧
       Counted 0x1230 5 1 s u ∧ u.kiosk.jopQueue = s.kiosk.jopQueue ∧ u.kiosk.objects = s.kiosk.objects ∧
       (tabGet {} n u.kiosk.sessions = x ∨ tabGet {} n u.kiosk.sessions = { x with tagFailed := true }) ∧
       (headerOk f = true → n ≠ 0 → x.phase = 2 → (tabGet {} n u.kiosk.sessions).tagFailed = true) ∧
       u = { s with now := max s.now t, kiosk := u.kiosk, contain := u.contain, host := u.host, outbox := u.outbox }) ∧
     (frameReaches now f = true → sourceOk src = true → headerOk f = true → frameTagRule s f = true →
       ∃ u, exec (.jopFrameDiscard t src f) s = .next u ∧
         (x.phase = 2 → netAwake now = true → tabGet {} n u.kiosk.sessions = { x with seen := max s.now t }) ∧
         u = { s with now := max s.now t, kiosk := { s.kiosk with sessions := u.kiosk.sessions } }))

/-- SESSION_OPEN, SESSION_CONFIRM, SESSION_CLOSE, HALF_OPEN_EXPIRE, SESSION_IDLE_EXPIRE (R331 to R339, R1150). -/
def Obligations.SessionsOpenAndEnd : Prop :=
  ∀ (t n : Nat) (src : NetSource) (f : List Byte) (s : State), let now : State := { s with now := max s.now t }
    let taken : Prop := frameReaches now f = true ∧ netAwake now = true ∧ sourceOk src = true ∧ headerOk f = true ∧
      frameTagRule s f = true
    let s1 := touchSession (field f 6 2) now
    let ended (u : State) : Prop := tabGet {} n u.kiosk.sessions = {} ∧ (∀ r ∈ u.kiosk.jopQueue, r.session ≠ n) ∧
      (∀ m, m ≠ n → tabGet {} m u.kiosk.sessions = tabGet {} m s.kiosk.sessions) ∧
      u.kiosk.objects = s.kiosk.objects ∧ u = { s with now := max s.now t, kiosk := u.kiosk }
    let sec := (max s.now t - s.kiosk.startedAt) / 1000000000
    let opened := if s.kiosk.openSecond = sec then s.kiosk.openCount else 0
    (taken → field f 3 1 = 0x20 → f.length = 52 →
      (opened < 4 → credentialEnabled s (field f 32 1) = true → sessionsIn s1 2 < 8 → sessionsIn s1 1 < 4 →
        ∃ u, exec (.sessionOpen t src f) s = .next u ∧
          (tabGet {} (freshSession s1) u.kiosk.sessions).phase = 1 ∧
          (tabGet {} (freshSession s1) u.kiosk.sessions).slot = field f 32 1 ∧
          (tabGet {} (freshSession s1) u.kiosk.sessions).rights = 0 ∧ u.kiosk.openCount = opened + 1 ∧
          (∀ m, m ≠ freshSession s1 → tabGet {} m u.kiosk.sessions = tabGet {} m s1.kiosk.sessions) ∧
          u.freeCount = s.freeCount + 1 ∧
          u = { s with now := max s.now t, kiosk := u.kiosk, net := u.net, freeCount := u.freeCount, outbox := u.outbox }) ∧
      (4 ≤ opened ∨ credentialEnabled s (field f 32 1) = false ∨ 8 ≤ sessionsIn s1 2 ∨ 4 ≤ sessionsIn s1 1 →
        ∃ u, exec (.sessionOpen t src f) s = .next u ∧ Counted 0x1230 8 1 s u ∧
        u.kiosk.sessions = s1.kiosk.sessions ∧ u.kiosk.openCount = opened + 1 ∧
        u = { s with now := max s.now t, kiosk := u.kiosk, net := u.net, outbox := u.outbox })) ∧
    (taken → field f 6 2 = n →
      (field f 3 1 = 0x22 → (tabGet {} n s.kiosk.sessions).phase = 1 → sessionsIn s 2 < 8 →
        ∃ u, exec (.sessionConfirm t src f) s = .next u ∧
        (tabGet {} n u.kiosk.sessions).phase = 2 ∧
        (tabGet {} n u.kiosk.sessions).rights = objAt s 0x1223 (tabGet {} n s.kiosk.sessions).slot ∧
        (∀ m, m ≠ n → tabGet {} m u.kiosk.sessions = tabGet {} m s.kiosk.sessions) ∧
        u = { s with now := max s.now t, kiosk := { s.kiosk with sessions := u.kiosk.sessions } }) ∧
      (field f 3 1 = 0x22 → (tabGet {} n s.kiosk.sessions).phase = 2 → exec (.sessionConfirm t src f) s = .next s1) ∧
      (field f 3 1 = 0x23 → n ≠ 0 → ∃ u, exec (.sessionClose t src f) s = .next u ∧ ended u)) ∧
    ((tabGet {} n s.kiosk.sessions).phase = 1 → (tabGet {} n s.kiosk.sessions).seen + 2000000000 ≤ max s.now t →
      ∃ u, exec (.halfOpenExpire t n) s = .next u ∧ ended u) ∧
    ((tabGet {} n s.kiosk.sessions).phase = 2 →
      (tabGet {} n s.kiosk.sessions).seen + objAt s 0x1220 0 * 1000000 ≤ max s.now t →
      ∃ u, exec (.sessionIdleExpire t n) s = .next u ∧ ended u)

/-- BEACON_INSTANT, CLAIM_SUCCESS, CLAIM_COLLISION, BACKOFF_EXPIRE, CARRIER_DETECT_BACKOFF (R300 to R307, R312, R317). -/
def Obligations.CoordinatorArises : Prop :=
  ∀ (t : Nat) (s : State), let n := max s.now t
    let now : State := { s with now := n }
    ((tabGet {} 0 s.rb.kioskCmp).fired = true → kioskTurn 0 s.rb = true → s.net.idWritten = false →
      s.net.fallbackWritten = false →
      let armed (u : State) : Prop := (tabGet {} 0 u.rb.kioskCmp).cycle = s.rb.cycle / 8 * 8 + 8 ∧
        (tabGet {} 0 u.rb.kioskCmp).phase = 1024 ∧ (tabGet {} 0 u.rb.kioskCmp).busy = true
      (s.net.state = .coordinator → netMaySend now = true → ∃ u body rest, exec (.beaconInstant t) s = .next u ∧ armed u ∧
        u.outbox = s.outbox ++ .frame 255 61605 (allNodes * 65536 + 61605) (buildFrame (segmentKey s) 0x10 0 body) :: rest ∧
        body.take 6 = natLe s.rb.cycle 6 ∧
        u.rb.unnumbered = false ∧ u.rb.cycle = s.rb.cycle ∧ Counted 0x1230 1 1 s u ∧ u.net.state = .coordinator ∧
        u.net.gotCycle = some s.rb.cycle ∧
        u = { s with now := n, rb := u.rb, net := u.net, kiosk := u.kiosk, host := u.host, outbox := u.outbox }) ∧
      (s.net.state = .listen → s.rb.state = .locked → 4 ≤ s.net.listened → netMaySend now = true →
        ∃ u body, exec (.beaconInstant t) s = .next u ∧ armed u ∧
        u.outbox = s.outbox ++ [.frame 255 61605 (allNodes * 65536 + 61605) (buildFrame (segmentKey s) 0x10 0 body)] ∧
        u.net.claiming = true ∧ u.net.state = .listen ∧
        u = { s with
          now := n, rb := { s.rb with kioskCmp := u.rb.kioskCmp }, net := u.net
          kiosk := { s.kiosk with counters := u.kiosk.counters }, outbox := u.outbox }) ∧
      (s.net.state = .listen → s.rb.state ≠ .locked ∨ s.net.listened < 4 → ∃ u, exec (.beaconInstant t) s = .next u ∧ armed u ∧
        u.net.listened = (if s.rb.state = .locked then s.net.listened + 1 else 0) ∧ u.net.state = .listen ∧
        u.outbox = s.outbox ∧ u = { s with
          now := n, rb := { s.rb with kioskCmp := u.rb.kioskCmp }, net := u.net
          kiosk := { s.kiosk with counters := u.kiosk.counters } }) ∧
      (s.net.state = .follower → ∃ u, exec (.beaconInstant t) s = .next u ∧ armed u ∧
        u.net.silent = (if gotBeacon s then 0 else s.net.silent + 1) ∧ u.net.awaiting = !gotBeacon s ∧
        (s.net.nodeIdInvalid = false → u.net.statusDue = true) ∧ (s.net.statusDue = true → Counted 0x1230 7 1 s u) ∧
        u.outbox = s.outbox ∧ u = { s with
          now := n, rb := { s.rb with kioskCmp := u.rb.kioskCmp }, net := u.net
          kiosk := { s.kiosk with counters := u.kiosk.counters } })) ∧
    (s.net.claiming = true →
      (∃ u, exec (.claimSuccess t) s = .next u ∧ u.net.state = .coordinator ∧ u.net.nodeId = 0 ∧ u.net.plca = true ∧
        u.net.claiming = false ∧ u.net.collisions = 0 ∧ u = { s with now := n, net := u.net }) ∧
      (∃ u, exec (.claimCollision t) s = .next u ∧ u.net.state = .backoff ∧ u.net.claiming = false ∧
        u.net.collisions = s.net.collisions + 1 ∧ u.net.backoffEnd = n + backoffBits s.net.collisions * 20000 ∧
        Counted 0x1230 4 1 s u ∧ u = { s with now := n, net := u.net, kiosk := { s.kiosk with counters := u.kiosk.counters } })) ∧
    (s.net.state = .backoff → s.net.claiming = false →
      (s.net.backoffEnd ≤ n → netMaySend now = true → ∃ u body, exec (.backoffExpire t) s = .next u ∧
        u.outbox = s.outbox ++ [.frame 255 61605 (allNodes * 65536 + 61605) (buildFrame (segmentKey s) 0x10 0 body)] ∧
        bit (field body 6 2) 1 = true ∧
        u.net = { s.net with claiming := true } ∧ u = { s with now := n, net := u.net, outbox := u.outbox }) ∧
      (n < s.net.backoffEnd → exec (.backoffExpire t) s = .next now) ∧
      (∃ u, exec (.carrierDetectBackoff t) s = .next u ∧ u.net.state = .follower ∧ u.net.nodeId = s.net.fallback ∧
        u.net.duplicate = true ∧ u.net.collisions = 0 ∧ Noted s u ∧
        u = { s with
          now := n, net := u.net, contain := u.contain, kiosk := u.kiosk, host := u.host, outbox := u.outbox }))

/-- BEACON_RECEIVE, BEACON_GUARD_CLOSE, SEARCH_EXPIRE, BACKUP_TAKEOVER (R302, R303, R308, R310, R322 to R324, R328, R343). -/
def Obligations.BeaconsFollowed : Prop :=
  ∀ (t : Nat) (src : NetSource) (f : List Byte) (s : State), let n := max s.now t
    let now : State := { s with now := n }
    let beacon : Prop := frameReaches now f = true ∧ sourceOk src = true ∧ headerOk f = true ∧ frameTagRule s f = true ∧
      field f 3 1 = 0x10 ∧ f.length = 64
    let deferred := bit (field (f.drop 32) 6 2) 1
    let touches (u : State) : Prop := u = { s with
      now := n, rb := u.rb, net := u.net, contain := u.contain, kiosk := u.kiosk, host := u.host, outbox := u.outbox }
    let yielded (u : State) : Prop := u.net.state = .follower ∧ u.net.nodeId = s.net.fallback ∧ u.net.duplicate = true ∧
      u.rb = s.rb ∧ touches u
    (beacon → s.net.state = .follower → sleeping now = false → deferred = false → ∃ u,
      exec (.beaconReceive t src f) s = .next u ∧ Counted 0x1230 2 1 s u ∧ u.net.awaiting = false ∧ u.net.silent = 0 ∧
        u.net.coordinatorEui = field (f.drop 32) 8 8 ∧ u.net.lastWake = some (field (f.drop 32) 20 4) ∧
        u.net.beaconMissed = false ∧ u.net.gotCycle = some s.rb.cycle ∧ u.rb.phase = s.rb.phase ∧ touches u) ∧
    (beacon → s.net.state = .follower → sleeping now = true → deferred = false → inGuard now = true → ∃ u,
      exec (.beaconReceive t src f) s = .next u ∧ Counted 0x1230 2 1 s u ∧ u.net.awaiting = false ∧ u.net.silent = 0 ∧
        u.rb.phase = s.rb.phase ∧ touches u) ∧
    (beacon → s.net.state = .follower → sleeping now = true → deferred = true ∨ inGuard now = false →
      exec (.beaconReceive t src f) s = .next now) ∧
    (beacon → s.net.state = .follower → sleeping now = false → deferred = true →
      exec (.beaconReceive t src f) s = .next { now with net := { s.net with silent := 0 } }) ∧
    (beacon → s.net.state = .searching → deferred = false → ∃ u, exec (.beaconReceive t src f) s = .next u ∧
      Counted 0x1230 2 1 s u ∧ (s.net.beaconMissed = true → u.net.state = .follower ∧ u.net.resync.isSome = true ∧
        Counted 0x1230 6 1 s u) ∧ u.net.beaconMissed = false ∧ touches u) ∧
    (beacon → s.net.state = .listen → s.rb.state = .locked → ∃ u, exec (.beaconReceive t src f) s = .next u ∧ yielded u) ∧
    (beacon → s.net.state = .listen → s.rb.state ≠ .locked → ∃ u, exec (.beaconReceive t src f) s = .next u ∧
      u.net.state = .listen ∧ u.rb = s.rb ∧ touches u) ∧
    (beacon → s.net.state = .backoff → ∃ u, exec (.beaconReceive t src f) s = .next u ∧ yielded u) ∧
    (beacon → s.net.state = .coordinator →
      (deferred = true → exec (.beaconReceive t src f) s = .next now) ∧
      (deferred = false → field (f.drop 32) 8 8 < Config.eui64 → ∃ u, exec (.beaconReceive t src f) s = .next u ∧ yielded u) ∧
      (deferred = false → Config.eui64 ≤ field (f.drop 32) 8 8 → ∃ u, exec (.beaconReceive t src f) s = .next u ∧
        u.net.state = .coordinator ∧ u.rb = s.rb ∧ touches u)) ∧
    (sleeping now = true → s.net.awaiting = true → guardOver now = true →
      ∃ u, exec (.beaconGuardClose t) s = .next u ∧ u.net.state = .searching ∧ u.net.beaconMissed = true ∧
        u.net.missedInstants = 1 ∧ u.net.searchFrom = s.rb.cycle * 4096 + s.rb.phase ∧ u.net.awaiting = false ∧
        u.kiosk.jopQueue = [] ∧ Counted 0x1230 3 1 s u ∧
        u = { s with now := n, net := u.net, kiosk := { s.kiosk with jopQueue := [], counters := u.kiosk.counters } }) ∧
    (sleeping now = false ∨ s.net.awaiting = false → exec (.beaconGuardClose t) s = .next now) ∧
    (s.net.state = .searching → s.net.beaconLost = false → s.net.searchFrom + 16 * 4096 ≤ s.rb.cycle * 4096 + s.rb.phase →
      ∃ u, exec (.searchExpire t) s = .next u ∧ u.net = { s.net with beaconLost := true } ∧ Noted s u ∧
        u = { s with now := n, net := u.net, contain := u.contain, kiosk := u.kiosk, host := u.host, outbox := u.outbox }) ∧
    (s.net.state ≠ .searching ∨ s.net.beaconLost = true → exec (.searchExpire t) s = .next now) ∧
    (s.net.state = .follower → objAt s 0x1214 0 = 1 → s.rb.state = .locked → 4 ≤ s.net.silent → beaconMayCome s = false →
      exec (.backupTakeover t) s = .next { now with
        net := { s.net with state := .listen, nodeId := 0, listened := 4, collisions := 0, plca := false } }) ∧
    (s.net.state ≠ .follower ∨ objAt s 0x1214 0 ≠ 1 ∨ s.rb.state ≠ .locked ∨ s.net.silent < 4 →
      exec (.backupTakeover t) s = .next now)

/-- STATUS_SLOT, STATUS_FRAME_RECEIVE, NOTICE_SEND, PLCA_BEACON_CHANGE, ICMPV6_MESSAGE (R292, R293, R302, R313, R317, R318,
R326, R341). -/
def Obligations.SlotsAndNotices : Prop :=
  ∀ (t : Nat) (src : NetSource) (f : List Byte) (b : Bool) (s : State), s.life.state ≠ .absent → let n := max s.now t
    let now : State := { s with now := n }
    let sent (x : List Byte) : List Emission := s.outbox ++ [.frame 255 61605 (allNodes * 65536 + 61605) x]
    (s.net.statusDue = true →
      (statusSlotOver s = true → ∃ u, exec (.statusSlot t true) s = .next u ∧ u.net = { s.net with statusDue := false } ∧
        Counted 0x1230 7 1 s u ∧
        u = { s with now := n, net := u.net, kiosk := { s.kiosk with counters := u.kiosk.counters } }) ∧
      (statusSlotOver s = false → exec (.statusSlot t true) s = .next now) ∧
      (inStatusSlot s = true → netMaySend now = true →
        (s.net.resync = none → ∃ u, exec (.statusSlot t false) s = .next u ∧
          u.outbox = sent (buildFrame (segmentKey s) 0x11 0 (statusBody now)) ∧
          u = { s with now := n, net := { s.net with statusDue := false }, outbox := u.outbox }) ∧
        (∀ r, s.net.resync = some r → ∃ u, exec (.statusSlot t false) s = .next u ∧
          u.outbox = sent (noticeFrame s r) ∧
          u = { s with now := n, net := { s.net with statusDue := false, resync := none }, outbox := u.outbox }))) ∧
    (frameReaches now f = true → sourceOk src = true → headerOk f = true → frameTagRule s f = true → field f 3 1 = 0x11 →
      f.length = 48 → s.net.state = .coordinator → field (f.drop 32) 8 1 < 32 → bit s.net.heardNow (field (f.drop 32) 8 1) = false →
      let k := field (f.drop 32) 8 1
      ∃ u, exec (.statusFrameReceive t src f) s = .next u ∧ u.net.heardNow = s.net.heardNow + 2 ^ k ∧
        (bit s.net.membership k = true → u.net.membership = s.net.membership) ∧
        (bit s.net.membership k = false → u.net.membership = s.net.membership + 2 ^ k) ∧
        u = { s with now := n, net := { s.net with heardNow := u.net.heardNow, membership := u.net.membership } }) ∧
    (netMaySend now = true → quietWindow s = false →
      (∀ x rest, s.net.notices = x :: rest → x.sentOnce = false → ∃ u, exec (.noticeSend t) s = .next u ∧
        u.outbox = sent (noticeFrame s x) ∧
        u = { s with now := n, net := { s.net with notices := rest ++ [{ x with sentOnce := true }] }, outbox := u.outbox }) ∧
      (∀ x, s.net.notices = [x] → x.sentOnce = true → x.again = true → ∃ u, exec (.noticeSend t) s = .next u ∧
        u.outbox = sent (noticeFrame s x) ∧ u = { s with now := n, net := { s.net with notices := [] }, outbox := u.outbox }) ∧
      (∀ e rest, s.net.notices = [] → s.net.held = e :: rest → exec (.noticeSend t) s = .next { s with
        now := n, net := { s.net with held := rest }, outbox := s.outbox ++ [e] })) ∧
    (netMaySend now = false ∨ quietWindow s = true → exec (.noticeSend t) s = .next now) ∧
    (s.net.state ≠ .coordinator → s.net.state ≠ .listen ∨ b = false ∨ s.rb.state ≠ .locked →
      exec (.plcaBeaconChange t b) s = .next { s with now := n, net := { s.net with plca := b } }) ∧
    (s.net.state = .coordinator → exec (.plcaBeaconChange t b) s = .next now) ∧
    (s.net.state = .listen → s.rb.state = .locked → ∃ u, exec (.plcaBeaconChange t true) s = .next u ∧ u.net.plca = true ∧
      u.net.state = .follower ∧ u.net.nodeId = s.net.fallback ∧ u.net.duplicate = true ∧ Noted s u ∧
      u = { s with now := n, net := u.net, contain := u.contain, kiosk := u.kiosk, host := u.host, outbox := u.outbox }) ∧
    (receiverOn now = true → sleeping now = false → addressUp now = true → field f 0 1 = 128 → netMaySend now = true →
      quietWindow s = false → tabGet 0 (clientAddress src.client) s.net.neighbours ≠ 0 →
      exec (.icmpv6Message t src f) s = .next { s with
        now := n
        outbox := s.outbox ++ [icmpPacket linkLocal (clientAddress src.client) 129 (f.drop 4)] }) ∧
    (receiverOn now = true → sleeping now = false → tentative now = true → src.hopLimit = 255 → field f 1 1 = 0 →
      24 ≤ f.length → fieldBE f 8 16 = linkLocal →
      field f 0 1 = 136 ∨ field f 0 1 = 135 ∧ clientAddress src.client = 0 →
      exec (.icmpv6Message t src f) s = .next { s with now := n, net := { s.net with conflict := true } })

/-- QUEUE_ENABLE and QUEUE_FLUSH_DONE (R351, R352, R359, R362, R364, R365, R374, R386); QUEUE_DISABLE and DOORBELL_CPL_HEAD (R365, R370, R385, R386). -/
def Obligations.QueuesOnAndOff : Prop :=
  (∀ (t : Nat) (q : Fin 4096) (s : State), let x := queueAt s q.val
     let only (u : State) : Prop := (∀ r, r ≠ q.val → queueAt u r = queueAt s r) ∧
       u = { s with now := max s.now t, host := { s.host with queues := u.host.queues } }
     (hostReady s = true → q.val < 4064 → x.state = .disabled →
       (queuesReady s = false → ∃ u, exec (.queueEnable t q) s = .next u ∧ only u ∧ queueAt u q.val = { x with cause := 0xA001 }) ∧
       (queuesReady s = true → contextOk x = false →
         ∃ u, exec (.queueEnable t q) s = .next u ∧ only u ∧ queueAt u q.val = { x with cause := 0xA002 }) ∧
       (queuesReady s = true → contextOk x = true → 16384 < poolReserved s + x.reserve →
         ∃ u, exec (.queueEnable t q) s = .next u ∧ only u ∧ queueAt u q.val = { x with cause := 0xA003 }) ∧
       (queuesReady s = true → contextOk x = true → poolReserved s + x.reserve ≤ 16384 → x.held = [] →
         ∃ u, exec (.queueEnable t q) s = .next u ∧ only u ∧
           queueAt u q.val = { x with
             state := .enabled, head := 0, tail := 0, cplTail := 0, cplHead := 0, cplFree := x.entries
             phase := true, irqCount := 0, stalled := false, cplBroken := false, lastRecord := none })) ∧
     (4064 ≤ q.val → exec (.queueEnable t q) s = .next { s with now := max s.now t }) ∧
     (x.state = .flushing → x.flight = [] → x.group = 0 →
       ∃ u, exec (.queueFlushDone t q) s = .next u ∧ only u ∧ queueAt u q.val = { x with state := .disabled }) ∧
     (x.state = .flushing → x.flight = [] → x.group ≠ 0 → q.val < 4064 →
       ∃ u, exec (.queueFlushDone t q) s = .next u ∧ queueAt u q.val = { fetched := x.fetched } ∧
         tabGet false (x.ringBase / 64 * 64 / 2097152) u.tiers.hbmUsed = false ∧ SameMemories s u ∧ u.prog = s.prog ∧
         u.coll = s.coll ∧ u.tiles = s.tiles)) ∧
  (∀ (t v : Nat) (q : Fin 4096) (s : State), let x := queueAt s q.val
     let base := x.cplBase / 32 * 32
     let kept (u : State) : Prop := u.cellar = s.cellar ∧ u.tiles = s.tiles ∧ u.prog = s.prog ∧ u.life = s.life ∧
       u.contain = s.contain ∧ (∀ a, a < base ∨ base + 32 * x.entries ≤ a →
         memGet u.hbm a = memGet s.hbm a ∧ memGet u.hostMem a = memGet s.hostMem a)
     hostReady s = true → q.val < 4064 → x.group = 0 → x.cplTail < x.entries →
     (x.state = .enabled ∨ x.state = .error →
       ∃ u, exec (.queueDisable t q) s = .next u ∧ (queueAt u q.val).state = .flushing ∧ kept u ∧
       (∀ d ∈ (queueAt u q.val).flight, d.state ≠ .fetched ∧ d.state ≠ .gated)) ∧
     (∃ u, exec (.doorbellCplHead t q v) s = .next u ∧ (queueAt u q.val).cplHead = v % x.entries ∧ kept u ∧
       (queueAt u q.val).state = x.state ∧
       (x.held = [] → (queueAt u q.val).cplFree =
         min x.entries (x.cplFree + (v % x.entries + x.entries - x.cplHead) % x.entries) ∧
         u = { s with now := max s.now t, host := { s.host with queues := u.host.queues } })))

/-- DOORBELL_TAIL, DESCRIPTOR_FETCH, IRQ_DELAY_EXPIRE, QUEUE_FAULT (R367, R368, R372, R375, R390, R400, R401). -/
def Obligations.QueueTakesWork : Prop :=
  ∀ (t v b : Nat) (q : Fin 4096) (fetch : Bool) (s : State), let x := queueAt s q.val
    let only (u : State) : Prop := (∀ r, r ≠ q.val → queueAt u r = queueAt s r) ∧
      u = { s with now := max s.now t, host := { s.host with queues := u.host.queues } }
    (hostReady s = true → q.val < 4064 →
      (x.state = .enabled → v < x.entries →
        ∃ u, exec (.doorbellTail t q 4 v) s = .next u ∧ only u ∧ queueAt u q.val = { x with tail := v }) ∧
      (b ≠ 4 ∨ x.state ≠ .enabled ∨ x.entries ≤ v → ∃ u, exec (.doorbellTail t q b v) s = .next u ∧ Counted 0xA020 1 1 s u ∧
        u = { s with now := max s.now t, kiosk := { s.kiosk with counters := u.kiosk.counters } })) ∧
    (x.state = .enabled → x.head ≠ x.tail → dropping s = false → packageRuns s = true →
      (freeSlot s x = true → x.group = 0 → ∃ u, exec (.descriptorFetch t q) s = .next u ∧ only u ∧
        queueAt u q.val = { x with
          head := (x.head + 1) % x.entries, fetched := x.fetched + 1, stalled := false
          flight := x.flight ++ [{
            index := x.fetched
            data := readRing s (Queue.space x.ringBase) (x.ringBase / 64 * 64 + 64 * x.head) 64 }] }) ∧
      (freeSlot s x = false → x.group = 0 → x.stalled = false → ∃ u, exec (.descriptorFetch t q) s = .next u ∧ Counted 0xA020 6 1 s u ∧
        queueAt u q.val = { x with stalled := true } ∧ (∀ r, r ≠ q.val → queueAt u r = queueAt s r))) ∧
    (x.irqOn = true → 0 < x.irqCount → x.irqSince + x.delayNs ≤ max s.now t → dropping s = false →
      (msixByte s (16 * x.vector + 12)).toNat % 2 = 0 → ∃ u, exec (.irqDelayExpire t q) s = .next u ∧
        u.outbox = s.outbox ++ [.msi x.vector] ∧ queueAt u q.val = { x with irqCount := 0 } ∧
        u = { s with now := max s.now t, host := { s.host with queues := u.host.queues }, outbox := u.outbox }) ∧
    (x.state = .enabled → packageRuns s = true → x.held = [] → ∃ u, exec (.queueFault t q fetch) s = .next u ∧
      (fetch = true → queueAt u q.val = { x with state := .error, cause := 0xA004 }) ∧
      (fetch = false → queueAt u q.val = { x with state := .error, cause := 0xA005, cplBroken := true, lastRecord := none }) ∧
      (∀ w, fetch = false → x.lastRecord = some w → Counted 0xA020 4 1 s u) ∧
      (fetch = true ∨ x.lastRecord = none → SameMemories s u ∧ SameWork s u) ∧
      bit u.host.eventCause 2 = true ∧ (∀ r, r ≠ q.val → queueAt u r = queueAt s r) ∧ u.life = s.life ∧ u.prog = s.prog)

/-- DESCRIPTOR_START of NOP, SIGNAL and WAIT, and WAIT_POLL (R377, R382, R384 to R387, R397). -/
def Obligations.DescriptorsRun : Prop :=
  ∀ (t : Nat) (q : Fin 4096) (d : Desc) (s : State), let x := queueAt s q.val
    let a := x.cplBase / 32 * 32 + 32 * x.cplTail
    let ended : Desc := { d with
      state := .ended, status := 0, cause := 0, result := 0, endCycle := s.rb.pkgCycle, endPhase := s.rb.pkgPhase }
    let recorded (u : State) : Prop := memRead u.hbm a 32 = completionBytes q.val x ended ∧
      (∀ b, b < a ∨ a + 32 ≤ b → memGet u.hbm b = memGet s.hbm b) ∧ u.cellar = s.cellar ∧
      (queueAt u q.val).flight = [] ∧ (queueAt u q.val).held = [] ∧ (queueAt u q.val).cplFree = x.cplFree - 1 ∧
      (queueAt u q.val).cplTail = (if x.cplTail + 1 = x.entries then 0 else x.cplTail + 1) ∧
      (∀ r, r ≠ q.val → queueAt u r = queueAt s r) ∧ u.prog = s.prog ∧ u.tiles = s.tiles ∧ u.rb = s.rb ∧ u.life = s.life
    packageRuns s = true → dropping s = false → q.val < 4064 → x.group = 0 → x.cls = 0 → x.state = .enabled →
    x.flight = [d] → x.held = [] → 0 < x.cplFree → Queue.space x.cplBase = 1 → x.cplBroken = false → d.data.length = 64 →
    d.gate = none → d.stray = none → field d.data 1 1 = 0 →
    (d.state = .fetched → field d.data 0 1 = 1 →
      ∃ u, exec (.descriptorStart t q) s = .next u ∧ recorded u ∧ u.hostMem = s.hostMem) ∧
    (d.state = .fetched → field d.data 0 1 = 5 → field d.data 24 1 = 0 → field d.data 8 8 % 8 = 0 → s.host.linkUp = true →
      ∃ u, exec (.descriptorStart t q) s = .next u ∧ recorded u ∧
        memRead u.hostMem (field d.data 8 8) 8 = natLe (field d.data 16 8) 8 ∧
        (∀ b, b < field d.data 8 8 ∨ field d.data 8 8 + 8 ≤ b → memGet u.hostMem b = memGet s.hostMem b)) ∧
    (d.state = .fetched → field d.data 0 1 = 6 → field d.data 8 8 % 8 = 0 →
      rangeValid (hbmValid s) (field d.data 8 8) 8 = true → waitMet s d = false →
      ∃ u, exec (.descriptorStart t q) s = .next u ∧
        (queueAt u q.val).flight = [{ d with state := .started, polled := max s.now t }] ∧
        u = { s with now := max s.now t, host := { s.host with queues := u.host.queues } }) ∧
    (d.state = .started → field d.data 0 1 = 6 → waitMet s d = true →
      ∃ u, exec (.waitPoll t q d.index) s = .next u ∧
        memRead u.hbm a 32 = completionBytes q.val x ended ∧ (queueAt u q.val).flight = [] ∧ u.hostMem = s.hostMem ∧
        (∀ b, b < a ∨ a + 32 ≤ b → memGet u.hbm b = memGet s.hbm b)) ∧
    (d.state = .started → field d.data 0 1 = 6 → waitMet s d = false →
      ∃ u, exec (.waitPoll t q d.index) s = .next u ∧ (queueAt u q.val).flight = [{ d with polled := max s.now t }] ∧
        u = { s with now := max s.now t, host := { s.host with queues := u.host.queues } })

/-- DESCRIPTOR_START of LAUNCH and FILL, and DESCRIPTOR_COMPLETE (R180, R384, R385, R538, R620, R625, R1082). -/
def Obligations.LaunchesAndFills : Prop :=
  ∀ (t : Nat) (q : Fin 4096) (d : Desc) (s : State), let x := queueAt s q.val
    packageRuns s = true → dropping s = false → q.val < 4064 → x.group = 0 → x.cls = 0 → x.state = .enabled →
    x.flight = [d] → x.held = [] → d.gate = none → d.stray = none → field d.data 1 1 = 0 →
    (d.state = .fetched → field d.data 0 1 = 4 → s.prog = none → s.life.state = .joined →
      s.life.descent = .idle → field d.data 24 4 ≤ 65536 →
      (∀ y s', launchCause s (field d.data 8 8) = 0 →
        place { s with now := max s.now t } (imageBytes s (field d.data 8 8) 0 64) = some (y, s') →
        ∃ u p, exec (.descriptorStart t q) s = .next u ∧ u.prog = some p ∧ p.queue = q.val ∧ p.index = d.index ∧
          p.image = field d.data 8 8 ∧ p.argument = field d.data 16 8 ∧ p.step = 0 ∧ p.arena = y.arena ∧ p.ckpt = y.ckpt ∧
          u.life.state = .running ∧ u.cellar = s.cellar ∧ u.hostMem = s.hostMem ∧
          (queueAt u q.val).flight = [{ d with state := .started }]) ∧
      (launchCause s (field d.data 8 8) ≠ 0 →
        ∃ u, exec (.descriptorStart t q) s = .next u ∧ u.prog = none ∧ u.tiles = s.tiles ∧ u.life = s.life)) ∧
    (d.state = .fetched → field d.data 0 1 = 3 → field d.data 32 1 = 0 → field d.data 16 8 % 8 = 0 → s.host.linkUp = true →
      ∃ u, exec (.descriptorStart t q) s = .next u ∧
        memRead u.hostMem (field d.data 8 8) (field d.data 16 8) = fillBytes (field d.data 24 8) (field d.data 16 8) ∧
        (∀ b, b < field d.data 8 8 ∨ field d.data 8 8 + field d.data 16 8 ≤ b → memGet u.hostMem b = memGet s.hostMem b) ∧
        (queueAt u q.val).flight =
          [{ d with state := .started, result := field d.data 16 8, status := 0, cause := 0 }] ∧
        u = { s with now := max s.now t, hostMem := u.hostMem, host := { s.host with queues := u.host.queues } }) ∧
    (d.state = .started → field d.data 0 1 = 3 → 0 < x.cplFree → Queue.space x.cplBase = 1 → x.cplBroken = false →
      d.data.length = 64 →
      ∃ u, exec (.descriptorComplete t q d.index) s = .next u ∧
        memRead u.hbm (x.cplBase / 32 * 32 + 32 * x.cplTail) 32 = completionBytes q.val x { d with
          state := .ended, endCycle := s.rb.pkgCycle, endPhase := s.rb.pkgPhase } ∧
        (queueAt u q.val).flight = [] ∧ u.hostMem = s.hostMem ∧ u.prog = s.prog)

/-- HBM_WINDOW_BASE_WRITE, GL_EVENT_CAUSE_WRITE, GL_RB_CYCLE_LO_READ, REGISTER_WRITE, BAR2_ACCESS, ENDPOINT_READY (R344, R345,
R350, R351, R353 to R356, R358, R363, R1149). -/
def Obligations.RegistersActs : Prop :=
  (∀ (t width rate : Nat) (flit : Bool) (s : State), let n := max s.now t
    (s.host.trainAt.isSome = true → packageRuns s = true → exec (.endpointReady t width rate flit) s = .next { s with
      now := n
      host := { s.host with
        linkUp := flit, ready := flit, flitRequired := !flit, linkWidth := if flit then width else 0
        linkRate := if flit then rate else 0 } }) ∧
    (s.host.trainAt = none ∨ packageRuns s = false →
      exec (.endpointReady t width rate flit) s = .next { s with now := n })) ∧
  (∀ (t off : Nat) (b : Bool) (bs : List Byte) (v : Half) (s : State), hostReady s = false →
    exec (.hbmWindowBaseWrite v) s = .next s ∧ exec (.glEventCauseWrite v) s = .next s ∧
    exec .glRbCycleLoRead s = .next s ∧ exec (.bar2Access off t none) s = .next s ∧
    exec (.bar2Access off t (some bs)) s = .next s ∧
    exec (.registerWrite t off bs b) s = .next { s with now := max s.now t }) ∧
  (∀ (t off len : Nat) (v : Half) (bs : List Byte) (q : Nat) (s : State), hostReady s = true →
    (bits v.toNat 8 0 % max 1 s.host.windowSize = 0 →
      exec (.hbmWindowBaseWrite v) s = .next { s with host := { s.host with windowBase := bits v.toNat 8 0 } }) ∧
    (bits v.toNat 8 0 % max 1 s.host.windowSize ≠ 0 → exec (.hbmWindowBaseWrite v) s = .next s) ∧
    (∃ u, exec (.glEventCauseWrite v) s = .next u ∧
      (∀ i, i < 5 → bit u.host.eventCause i = (bit s.host.eventCause i && !bit v.toNat i)) ∧
      u = { s with host := { s.host with eventCause := u.host.eventCause } }) ∧
    (exec .glRbCycleLoRead s = .next { s with
      outbox := s.outbox ++ [.hostRead (natLe (s.rb.pkgCycle % 2 ^ 32) 4)]
      host := { s.host with latchHi := s.rb.pkgCycle / 2 ^ 32 % 65536, latchPhase := s.rb.pkgPhase } }) ∧
    (bs.length = 4 → exec (.registerWrite t 0x24 bs false) s = .next { s with
      now := max s.now t, host := { s.host with eventMask := leNat bs % 32 } }) ∧
    (bs.length = 4 → exec (.registerWrite t 0x04 bs false) s = .next { s with now := max s.now t }) ∧
    (bs.length = 4 → q < 4064 →
      let written (o : Nat) (x : Queue) : Prop := ∃ u, exec (.registerWrite t (0x100000 + 64 * q + o) bs false) s = .next u ∧
        queueAt u q = x ∧ (∀ r, r ≠ q → queueAt u r = queueAt s r) ∧
        u = { s with now := max s.now t, host := { s.host with queues := u.host.queues } }
      let x := queueAt s q
      (x.state = .disabled →
        written 0x00 { x with ringBase := regWrite x.ringBase 0 8 0 bs &&& 0xFFFFFFFFFFFFFFC3 } ∧
        written 0x0C { x with cplBase := regWrite x.cplBase 8 8 12 bs &&& 0xFFFFFFFFFFFFFFE3 } ∧
        written 0x10 { x with config := leNat bs % 256 } ∧ written 0x14 { x with slots := leNat bs } ∧
        written 0x18 { x with irq := leNat bs &&& 0xFFFF87FF }) ∧
      (x.state ≠ .disabled → written 0x00 x ∧ written 0x0C x ∧ written 0x10 x ∧ written 0x14 x ∧ written 0x18 x)) ∧
    (bs.length = 4 → exec (.registerWrite t 0xFF0000 bs false) s = .next
      (let now : State := { s with now := max s.now t }
       let closed := if bit (leNat bs) 2 then mbClose now else now
       let opened := if bit (leNat bs) 1 then mbOpen closed else closed
       if bit (leNat bs) 0 then mbSubmit opened else opened)) ∧
    (bs.length = 4 → q < 4096 → exec (.registerWrite t (4096 * q) bs true) s =
      .next (writeTail q 4 (leNat bs) { s with now := max s.now t })) ∧
    (bs.length = 4 → q < 4096 → exec (.registerWrite t (4096 * q + 8) bs true) s =
      .next (writeCplHead q (leNat bs) { s with now := max s.now t })) ∧
    (bs.length = 4 → q < 4096 → exec (.registerWrite t (4096 * q + 4) bs true) s = .next { s with now := max s.now t }) ∧
    (let a := s.host.windowBase * 2 ^ 30 + off
     let ok := bar2Open s && decide (off + len ≤ s.host.windowSize * 2 ^ 30) && rangeValid (hbmValid s) a len
     (ok = true → poisoned s.tiers.hbmPoison a len = false → exec (.bar2Access off len none) s =
       .next { s with outbox := s.outbox ++ [.hostRead (memRead s.hbm a len)] }) ∧
     (ok = true → bs.length = len → ∃ u, exec (.bar2Access off len (some bs)) s = .next u ∧ memRead u.hbm a len = bs ∧
       (∀ b, b < a ∨ a + len ≤ b → memGet u.hbm b = memGet s.hbm b) ∧
       u = { s with hbm := u.hbm, tiers := { s.tiers with hbmPoison := u.tiers.hbmPoison } }) ∧
     (ok = false → (∃ u, exec (.bar2Access off len none) s = .next u ∧ Counted 0xA020 3 1 s u ∧
         u.outbox = s.outbox ++ [.hostRead (List.replicate len 0xFF)] ∧ SameMemories s u) ∧
       (∃ u, exec (.bar2Access off len (some bs)) s = .next u ∧ Counted 0xA020 3 1 s u ∧
         u = { s with kiosk := { s.kiosk with counters := u.kiosk.counters } })) ∧
     (ok = true → poisoned s.tiers.hbmPoison a len = true → exec (.bar2Access off len none) s = .next { s with
       outbox := s.outbox ++ [.hostPoison len], host := { s.host with aerUncor := s.host.aerUncor ||| 2 ^ 12 } })))

/-- MEMORY_READ_ERROR, MEMORY_PATROL, MEM_CHANNEL_FAIL (R522 to R528, R531, R532); what station cores do to memory during a TICK
(R551, R553 to R555). -/
def Obligations.MemoryErrorsAndFences : Prop :=
  (∀ (c : Nat) (s : State), coreRuns s c = true →
    let x := coreAt s c
    (∀ p a bs, p ≠ .other → stationReaches s p a bs.length = true →
      ∃ u, exec (.tick [.stationStore c p a bs]) s = .next u ∧
        coreAt u c = { x with buffer := x.buffer ++ [some { place := p, addr := a, data := bs }] } ∧
        (∀ d, d ≠ c → coreAt u d = coreAt s d) ∧
        u = { s with rb := u.rb, now := u.now, contain := { s.contain with cores := u.contain.cores } }) ∧
    (∀ y r w, x.buffer = [some y] → y.place = .hbm →
      ∃ u, exec (.tick [.stationFence c r true true w false]) s = .next u ∧ (coreAt u c).buffer = [] ∧
        memRead u.hbm y.addr y.data.length = y.data ∧
        (∀ b, b < y.addr ∨ y.addr + y.data.length ≤ b → memGet u.hbm b = memGet s.hbm b) ∧ u.tiles = s.tiles) ∧
    (∀ p a w op v aq rl, p = .other ∨ a % w ≠ 0 → ∃ u, exec (.tick [.stationAmo c p a w op v aq rl]) s = .next u ∧
      coreAt u c = { x with trap := some 7 } ∧
      u = { s with rb := u.rb, now := u.now, contain := { s.contain with cores := u.contain.cores } }) ∧
    (∀ a w op v aq rl, a % w = 0 → rangeValid (hbmValid s) a w = true → poisoned s.tiers.hbmPoison a w = false →
      x.buffer = [] → ∃ u, exec (.tick [.stationAmo c .hbm a w op v aq rl]) s = .next u ∧
        (coreAt u c).loaded = memRead s.hbm a w ∧
        memRead u.hbm a w = natLe (amoResult op (8 * w) (leNat (memRead s.hbm a w)) (v % 2 ^ (8 * w))) w ∧
        (∀ b, b < a ∨ a + w ≤ b → memGet u.hbm b = memGet s.hbm b))) ∧
  ∀ (t : Nat) (cellar : Bool) (s : State), packageRuns s = true →
    let corrected := if cellar then 0x5032 else 0x5022
    let uncorrected := if cellar then 0x5033 else 0x5023
    let touches (u : State) : Prop := u = { s with
      now := max s.now t
      tiers := { s.tiers with
        hbmPoison := u.tiers.hbmPoison, cellarPoison := u.tiers.cellarPoison
        hbmErrors := u.tiers.hbmErrors, cellarErrors := u.tiers.cellarErrors
        hbmPatrol := u.tiers.hbmPatrol, cellarPatrol := u.tiers.cellarPatrol }
      kiosk := { s.kiosk with counters := u.kiosk.counters }, outbox := u.outbox
      host := { s.host with aerUncor := u.host.aerUncor }, contain := { s.contain with cores := u.contain.cores } }
    let poisons (w : Nat) (u : State) : Prop :=
      wordPoisoned u cellar w = true ∧ (∀ v, v ≠ w → wordPoisoned u cellar v = wordPoisoned s cellar v)
    (∀ addr, memValid s cellar addr = true →
      (∀ r, ∃ u, exec (.memoryReadError t cellar addr false r) s = .next u ∧
        Counted corrected (memUnit s cellar addr + 1) 1 s u ∧ u.tiers = s.tiers ∧ u.outbox = s.outbox ∧ u.host = s.host ∧
        u.contain = s.contain ∧ touches u) ∧
      (∀ c r out, (r, out) ∈ [(Reader.host, [Emission.hostPoison 8]), (.peer, []), (.station c, [])] →
        ∃ u, exec (.memoryReadError t cellar addr true r) s = .next u ∧
          Counted uncorrected (memUnit s cellar addr + 1) 1 s u ∧ poisons (addr / 8) u ∧ u.outbox = s.outbox ++ out ∧
          touches u ∧ (r ≠ .host → u.host = s.host) ∧
          (r = .station c → (coreAt u c).trap = some 5 ∧ ∀ d, d ≠ c → coreAt u d = coreAt s d) ∧
          (r ≠ .station c → u.contain = s.contain))) ∧
    (∀ errors, 0 < memSize s cellar / 8 →
      let n := memSize s cellar / 8
      let w := (if cellar then s.tiers.cellarPatrol else s.tiers.hbmPatrol) % n
      let unit := memUnit s cellar (8 * w)
      let reads := memValid s cellar (8 * w) = true ∧ wordPoisoned s cellar w = false
      ∃ u, exec (.memoryPatrol t cellar errors) s = .next u ∧
        (if cellar then u.tiers.cellarPatrol else u.tiers.hbmPatrol) = (w + 1) % n ∧ touches u ∧ u.outbox = s.outbox ∧
        u.host = s.host ∧ u.contain = s.contain ∧
        (¬ reads ∨ errors = 0 → u.kiosk = s.kiosk ∧ ∀ v, wordPoisoned u cellar v = wordPoisoned s cellar v) ∧
        (reads → errors = 1 → Counted corrected (unit + 1) 1 s u ∧ ∀ v, wordPoisoned u cellar v = wordPoisoned s cellar v) ∧
        (reads → 1 < errors → Counted uncorrected (unit + 1) 1 s u ∧ poisons w u)) ∧
    (∀ unit channel, unitServes s cellar unit = true →
      (channel = true ∨ objAt s 0x5103 0 ≤ recentErrors { s with now := max s.now t } cellar unit) →
      ∃ u, exec (.memChannelFail t cellar unit channel) s = .next u ∧ u.contain.memoryLost = true ∧ u.prog = none ∧
        (∀ a, memUnit s cellar a = unit → memValid u cellar a = false) ∧
        (∀ a, memUnit s cellar a ≠ unit → memValid u cellar a = memValid s cellar a) ∧
        (cellar = false → s.life.state = .joined ∨ s.life.state = .running → u.life.state = .degraded) ∧
        u.pins = s.pins ∧ u.gov = s.gov ∧ u.net = s.net ∧ u.fab = s.fab ∧ u.sweep = s.sweep)

/-- PEER_ACCESS, PEER_RESPONSE (R384, R523, R544 to R547). -/
def Obligations.PeerMemory : Prop :=
  ∀ (t borrower offset length : Nat) (s : State), packageRuns s = true → dropping s = false →
    let n := max s.now t
    let a := lendBase s + offset
    let inside := lends s = true ∧ 0 < length ∧ offset + length ≤ lendSize s ∧ rangeValid (hbmValid s) a length = true
    let owner (u : State) (page : Nat) := tabGet 0xFFFF page u.tiers.lent
    let granted (u : State) : Prop :=
      (∀ page, owner s page ≠ 0xFFFF ∨ page ∉ lendPages offset length ∨ s.life.state = .departReq →
        owner u page = owner s page) ∧
      (∀ page, page ∈ lendPages offset length → owner s page = 0xFFFF → s.life.state ≠ .departReq → owner u page = borrower)
    (∀ w, ¬ inside → exec (.peerAccess t borrower offset length w) s =
      .next { s with now := n, outbox := s.outbox ++ [.peerReply borrower 1 []] }) ∧
    (∀ bs, inside → bs.length = length → ∃ u, exec (.peerAccess t borrower offset length (some bs)) s = .next u ∧
      memRead u.hbm a length = bs ∧ (∀ b, b < a ∨ a + length ≤ b → memGet u.hbm b = memGet s.hbm b) ∧ granted u ∧
      u = { s with
        now := n, hbm := u.hbm, outbox := s.outbox ++ [.peerReply borrower 0 []]
        tiers := { s.tiers with lent := u.tiers.lent, hbmPoison := clearPoison a length s.tiers.hbmPoison } }) ∧
    (inside → ∃ u, exec (.peerAccess t borrower offset length none) s = .next u ∧ granted u ∧
      u = { s with
        now := n, tiers := { s.tiers with lent := u.tiers.lent }
        outbox := s.outbox ++ [if poisoned s.tiers.hbmPoison a length then .peerReply borrower 2 []
          else .peerReply borrower 0 (memRead s.hbm a length)] }) ∧
    (∀ access status data,
      (tabGet none access s.links.accesses = none →
        exec (.peerResponse t access status data) s = .next { s with now := n }) ∧
      (∀ x tile chan p, tabGet none access s.links.accesses = some x → x.user = .mover tile chan → s.prog = some p →
        ((tileAt s tile).chan chan).started = true →
        (status = 0 → 1 < ((tileAt s tile).chan chan).waiting →
          ∃ u, exec (.peerResponse t access status data) s = .next u ∧ tabGet none access u.links.accesses = none ∧
            (∀ k, k ≠ access → tabGet none k u.links.accesses = tabGet none k s.links.accesses) ∧
            (∀ m, m ≠ tile → tileAt u m = tileAt s m) ∧
            ((tileAt u tile).chan chan).waiting + 1 = ((tileAt s tile).chan chan).waiting ∧
            (x.write = false → memRead ((tileAt u tile).chan chan).peer (x.sled * 2 ^ 48 + x.offset) x.length =
              padTo data x.length) ∧
            u = { s with now := n, tiles := u.tiles, links := { s.links with accesses := u.links.accesses } }) ∧
        (status = 2 → ∃ u, exec (.peerResponse t access status data) s = .next u ∧ u.prog = none ∧ u.pins = s.pins ∧
          u.gov = s.gov ∧ u.net = s.net ∧ u.fab = s.fab ∧ u.sweep = s.sweep)) ∧
      (∀ x q i d, tabGet none access s.links.accesses = some x → x.user = .copy q i → (queueAt s q).desc i = some d →
        x.write = true → status = 0 →
        ∃ u, exec (.peerResponse t access status data) s = .next u ∧ tabGet none access u.links.accesses = none ∧
          u = { s with now := n, host := u.host, links := { s.links with accesses := u.links.accesses } }))

/-- What BOX, GATHER, SCATTER and PERMUTE move (R595, R597, R599, R602, R605, R607); BOX, GATHER, SCATTER, PERMUTE, MOVER_COMMAND_COMPLETE (R556, R577, R579, R590, R591, R599). -/
def Obligations.MoverWorks : Prop :=
  (∀ (m : MoverCmd) (v : View) (es : List (List Nat)),
     ((m.kind = 1 ∧ (m.xform = 0 ∨ m.xform = 2)) ∨ (m.kind = 4 ∧ m.xform = 0 ∧ ∀ a, a < 4 → ∃ i, i < 4 ∧ m.perm i = a) →
       (∀ y z : List Nat, y.length = 4 → z.length = 4 → (∀ a, a < 4 → y.getD a 0 < m.count a) →
         (∀ i, i < 4 → z.getD i 0 = y.getD (m.sourceAxis i) 0) →
         .move (.elem (plus m.so y)) (.elem (plus m.do_ z)) ∈ jobsOf m v es) ∧
       (∀ j ∈ jobsOf m v es, ∃ y z : List Nat, j = .move (.elem (plus m.so y)) (.elem (plus m.do_ z)) ∧
         (∀ a, a < 4 → y.getD a 0 < m.count a) ∧ ∀ i, i < 4 → z.getD i 0 = y.getD (m.sourceAxis i) 0)) ∧
     (m.kind = 1 → m.xform = 1 → ∀ p tap u y2 y3, p < m.count 1 → tap < m.taps → u < m.count 0 → y2 < m.count 2 →
       y3 < m.count 3 → .move (.elem (plus m.so [u, p * m.step + tap * m.dilation, y2, y3]))
         (.elem (plus m.do_ [tap * m.count 0 + u, p, y2, y3])) ∈ jobsOf m v es) ∧
     (∀ (i : Nat) (e : List Nat), es[i]? = some e →
       let at_ (o : List Int) : List Int := (List.range 4).map fun a =>
         o.getD a 0 / (v.brick a : Int) + (if a = m.stackAxis then (i : Int) else 0)
       let listed : List Int := e.map fun (x : Nat) => (x : Int)
       (m.lists = true → e.getD 0 0 = 0xFFFF → .nullEntry ∈ jobsOf m v es) ∧
       (e.getD 0 0 ≠ 0xFFFF → ∀ u r, u < v.bx → r < v.by_ →
         (m.kind = 2 → .move (.cell listed u r) (.cell (at_ m.do_) u r) ∈ jobsOf m v es) ∧
         (m.kind = 3 → .move (.cell (at_ m.so) u r) (.cell listed u r) ∈ jobsOf m v es)))) ∧
  ((∀ (t k addr stamp : Nat) (tile : Fin 160) (chan : Fin 2) (c : Instr) (p : Program) (rec sv dv : List Byte)
       (rest : List (Nat × Nat)) (s : State),
     (c, k) ∈ [(Instr.box t tile chan, 1), (.gather t tile chan, 2), (.scatter t tile chan, 3), (.permute t tile chan, 4)] →
     let n := tile.val
     let m := moverCmdOf rec
     let x := (tileAt s n).chan chan.val
     let listBytes := if m.lists then 8 * m.count 0 else 0
     s.prog = some p → moverRuns s n = true → x.commands = (addr, stamp) :: rest → x.started = false →
     stamp ≤ (tileAt s n).retired → readCtl s p n addr 64 64 = some rec → m.kind = k → recordOk rec = true →
     readCtl s p n m.src 64 64 = some sv → readCtl s p n m.dst 64 64 = some dv →
     (readCtl s p n m.list listBytes 8).isSome = true →
     (∀ a len, (a, len) ∈ [(addr, 64), (m.src, 64), (m.dst, 64), (m.list, listBytes)] → 0 < len →
       tilePoisoned s p n a len = false) →
     viewOk sv = true → viewOk dv = true → commandOk m (viewOf sv) (viewOf dv) (entriesOf s p n m) = true →
     let s1 := modTile n (fun y => y.setChan chan.val fun z => { z with
       started := true, moved := false, waiting := 0, peer := [], held := rec ++ sv ++ dv })
       (count 0x5420 1 1 { s with now := max s.now t })
     let e := settingOf s1 p n chan.val
     let jobs := jobsOf m (if m.kind = 2 then e.dst else e.src) (entriesOf s1 p n m)
     let r := forEach (runJob e) jobs {}
     let spread (base : Nat) (before after : Memory) : Prop :=
       ∀ a, a < 2 ^ 63 → memGet after a = tabGet (memGet before a) (base + a) r.out
     (∀ j ∈ jobs, jobSectors e j = []) → r.stop = none → (chan.val = 1 → hamperReady s1 (tileAt s1 n).logical = none) →
     ∃ u, exec c s = .next u ∧ Counted 0x5420 1 1 s u ∧ Counted 0x5420 2 r.padded s u ∧ Counted 0x5420 3 r.discarded s u ∧
       Counted 0x5420 4 r.nulls s u ∧ (m.kind = 4 → Counted 0x5420 5 r.moved s u) ∧
       ((tileAt u n).chan chan.val).commands = x.commands ∧ ((tileAt u n).chan chan.val).started = true ∧
       ((tileAt u n).chan chan.val).moved = true ∧ ((tileAt u n).chan chan.val).held = rec ++ sv ++ dv ∧
       ((∀ q ∈ r.out, q.1 < 2 ^ 63) → spread 0 s.hbm u.hbm ∧ u.cellar = s.cellar ∧ u.hostMem = s.hostMem) ∧
       ((∀ q ∈ r.out, 2 ^ 64 ≤ q.1 ∧ q.1 < 2 ^ 64 + 2 ^ 63) →
         spread (2 ^ 64) s.cellar u.cellar ∧ u.hbm = s.hbm ∧ u.hostMem = s.hostMem) ∧
       (∀ d, d < 160 → (∀ q ∈ r.out, (16 + d) * 2 ^ 64 ≤ q.1 ∧ q.1 < (16 + d) * 2 ^ 64 + 0x200000) →
         spread ((16 + d) * 2 ^ 64) (tileAt s d).scratch (tileAt u d).scratch ∧ u.hbm = s.hbm ∧ u.cellar = s.cellar ∧
         u.hostMem = s.hostMem) ∧
       u = { s with
         now := max s.now t, tiles := u.tiles, hbm := u.hbm, cellar := u.cellar, hostMem := u.hostMem, outbox := u.outbox
         links := { s.links with accesses := u.links.accesses, nextAccess := u.links.nextAccess }
         tiers := { s.tiers with hbmPoison := u.tiers.hbmPoison, cellarPoison := u.tiers.cellarPoison }
         kiosk := { s.kiosk with counters := u.kiosk.counters } }) ∧
   (∀ (t : Nat) (tile : Fin 160) (chan : Fin 2) (s : State),
     let x := (tileAt s tile.val).chan chan.val
     moverRuns s tile.val = true → x.started = true → x.fault = none → x.moved = true → x.waiting = 0 →
     ∃ u, exec (.moverCommandComplete t tile chan) s = .next u ∧ OneTile tile.val t s u ∧
       tileAt u tile.val = (tileAt s tile.val).setChan chan.val fun y => { commands := y.commands.drop 1 }))

/-- ADD, SUB, AND, OR, XOR, SHL, SHR (R669). -/
def Obligations.ScalarOperations : Prop :=
  ∀ (t i op : Nat) (tile : Fin 160) (c : Instr) (f : Word → Word → Word) (s : State),
    (c, op, f) ∈ ([(.add t tile, 0x10, fun a b => a + b), (.sub t tile, 0x11, fun a b => a - b),
      (.and t tile, 0x12, fun a b => a &&& b), (.or t tile, 0x13, fun a b => a ||| b), (.xor t tile, 0x14, fun a b => a ^^^ b),
      (.shl t tile, 0x15, fun a b => a <<< (b.toNat % 64)), (.shr t tile, 0x16, fun a b => a >>> (b.toNat % 64))] : List (Instr × Nat × (Word → Word → Word))) →
    Executes s tile.val i → iOp i = op →
    let x := tileAt s tile.val
    ∃ u, exec c s = .next u ∧ OneTile tile.val t s u ∧
      tileAt u tile.val = { x.after i ((x.pc + 16) % 2 ^ 32) with sregs := (tileAt u tile.val).sregs } ∧
      (tileAt u tile.val).sreg (iRd i) = f (x.sreg (iRa i)) (x.sreg (iRb i)) ∧
      (∀ r, r ≠ iRd i → (tileAt u tile.val).sreg r = x.sreg r)

/-- ADDI, LI, LD, FLAGRD, FLAGSWP, FLAGCLR, SETCS (R502 to R504, R630, R633, R669). -/
def Obligations.LoadsAndImmediates : Prop :=
  ∀ (t i : Nat) (tile : Fin 160) (s : State), Executes s tile.val i →
    let x := tileAt s tile.val
    let y := x.after i ((x.pc + 16) % 2 ^ 32)
    let a := memAddr x i
    let wrote (u : State) (v : Word) (fl : Nat) : Prop := OneTile tile.val t s u ∧
      tileAt u tile.val = { y with sregs := (tileAt u tile.val).sregs, flags := fl } ∧
      (tileAt u tile.val).sreg (iRd i) = v ∧ (∀ r, r ≠ iRd i → (tileAt u tile.val).sreg r = x.sreg r)
    (iOp i = 0x17 → ∃ u, exec (.addi t tile) s = .next u ∧
      wrote u (x.sreg (iRa i) + BitVec.ofInt 64 (immInt i)) x.flags) ∧
    (iOp i = 0x18 → ∃ u, exec (.li t tile) s = .next u ∧ wrote u (BitVec.ofInt 64 (immInt i)) x.flags) ∧
    (iOp i = 0x19 → ∀ p, s.prog = some p → inSaveArea a 8 = false → tilePoisoned s p tile.val a 8 = false →
      interlocked x (a, 8) false = false →
      ∃ u, exec (.ld t tile) s = .next u ∧ wrote u (BitVec.ofNat 64 (leNat (tileRead s p tile.val a 8))) x.flags) ∧
    (x.ops = [] →
      (iOp i = 0x28 → ∃ u, exec (.flagrd t tile) s = .next u ∧ wrote u (BitVec.ofNat 64 x.flags) x.flags) ∧
      (iOp i = 0x29 → ∃ u, exec (.flagswp t tile) s = .next u ∧ wrote u (BitVec.ofNat 64 x.flags) 0)) ∧
    (iOp i = 0x2A → ∃ u, exec (.flagclr t tile) s = .next u ∧ OneTile tile.val t s u ∧
      tileAt u tile.val = { y with flags := 0 }) ∧
    (iOp i = 0x42 → ∃ u, exec (.setcs t tile) s = .next u ∧ OneTile tile.val t s u ∧
      (iRd i = 0 → tileAt u tile.val = { y with csa := iImm i }) ∧
      (iRd i = 1 → tileAt u tile.val = { y with csb := iImm i }) ∧
      (iRd i = 2 → tileAt u tile.val = { y with csd := iImm i }))

/-- ST (R512, R630, R631, R633, R669). -/
def Obligations.StoreWritesOneWord : Prop :=
  ∀ (t i : Nat) (tile : Fin 160) (p : Program) (s : State), Executes s tile.val i → s.prog = some p → iOp i = 0x1A →
    let x := tileAt s tile.val
    let a := memAddr x i
    inSaveArea a 8 = false → interlocked x (a, 8) true = false →
    ∃ u, exec (.st t tile) s = .next u ∧ tileRead u p tile.val a 8 = natLe (x.sreg (iRb i)).toNat 8 ∧
      tileAt u tile.val = { x.after i ((x.pc + 16) % 2 ^ 32) with scratch := (tileAt u tile.val).scratch } ∧
      (∀ b, b < 0x200000 → b < a ∨ a + 8 ≤ b → memGet (tileAt u tile.val).scratch b = memGet x.scratch b) ∧
      (∀ h, (a < 0x200000 ∨ ∀ k, k < 8 → h ≠ windowAddr p x.logical (a + k)) → memGet u.hbm h = memGet s.hbm h) ∧
      (∀ m, m ≠ tile.val → tileAt u m = tileAt s m) ∧
      u = { s with
        now := max s.now t, tiles := u.tiles, hbm := u.hbm, tiers := { s.tiers with hbmPoison := u.tiers.hbmPoison } }

/-- NOP, JMP, BEQ, BNE, BLT, BGE, SYNC.SS, SYNC.LL, SYNC.SL, MVWAIT0, MVWAIT1, QWAIT (R549 to R553, R669, R671). -/
def Obligations.ControlFlow : Prop :=
  ∀ (t i : Nat) (tile : Fin 160) (s : State), Executes s tile.val i →
    let x := tileAt s tile.val
    let a := x.sreg (iRa i)
    let b := x.sreg (iRb i)
    let goes (c : Instr) (pc : Nat) : Prop :=
      ∃ u, exec c s = .next u ∧ OneTile tile.val t s u ∧ tileAt u tile.val = x.after i pc
    let jumped := (((x.pc : Int) + 16 * immInt i) % (2 ^ 32 : Int)).toNat
    let next := (x.pc + 16) % 2 ^ 32
    (iOp i = 0x01 → goes (.tileNop t tile) next) ∧
    (iOp i = 0x04 → goes (.jmp t tile) jumped) ∧
    (iOp i = 0x05 → goes (.beq t tile) (if a = b then jumped else next)) ∧
    (iOp i = 0x06 → goes (.bne t tile) (if a = b then next else jumped)) ∧
    (iOp i = 0x07 → goes (.blt t tile) (if a.toInt < b.toInt then jumped else next)) ∧
    (iOp i = 0x08 → goes (.bge t tile) (if a.toInt < b.toInt then next else jumped)) ∧
    (iOp i = 0x20 → goes (.syncSs t tile) next) ∧
    (iOp i = 0x21 → goes (.syncLl t tile) next) ∧
    (iOp i = 0x22 → goes (.syncSl t tile) (if x.ops = [] then next else x.pc)) ∧
    (iOp i = 0x32 → goes (.mvwait0 t tile) (if x.chan0.commands = [] then next else x.pc)) ∧
    (iOp i = 0x33 → goes (.mvwait1 t tile) (if x.chan1.commands = [] then next else x.pc)) ∧
    (iOp i = 0x61 → poisoned s.tiers.hbmPoison a.toNat 8 = false →
      (b.toNat ≤ hbmWord s a.toNat → goes (.qwait t tile) next) ∧
      (hbmWord s a.toNat < b.toNat → ∃ u, exec (.qwait t tile) s = .next u ∧ OneTile tile.val t s u ∧
        tileAt u tile.val = { x.after i x.pc with waits := true, burst := x.burst }))

/-- END, STEP and STEP_RELEASE (R624, R669, R671, R1074). -/
def Obligations.ProgramOnTiles : Prop :=
  ∀ (t i : Nat) (tile : Fin 160) (p : Program) (s : State), s.prog = some p →
    let x := tileAt s tile.val
    (Executes s tile.val i → x.ops = [] →
      (iOp i = 0x02 → ∃ u, exec (.tileEnd t tile) s = .next u ∧
        tileAt u tile.val = { x.after i x.pc with works := false, endedAt := some p.step, upc := 4 } ∧
        (x.logical = 0 → u.prog = some { p with exit := x.sreg (iRa i) }) ∧ (x.logical ≠ 0 → u.prog = some p) ∧
        (∀ m, m ≠ tile.val → tileAt u m = tileAt s m) ∧ u = { s with now := max s.now t, tiles := u.tiles, prog := u.prog }) ∧
      (iOp i = 0x03 → ∃ u, exec (.tileStep t tile) s = .next u ∧
        tileAt u tile.val = { x.after i x.pc with atStep := true } ∧ (∀ m, m ≠ tile.val → tileAt u m = tileAt s m) ∧
        u = { s with now := max s.now t, tiles := u.tiles, prog := u.prog, rb := { s.rb with pkgCmp := u.rb.pkgCmp } })) ∧
    (p.replaying = none → p.stepGate = 0 → p.cmp = none → vacated s = [] → allAtStep s p = true →
      (∃ n ∈ programTiles s p, (tileAt s n).atStep = true) → (∀ n ∈ programTiles s p, (tileAt s n).quiet = true) →
      packageRuns s = true → dropping s = false → s.life.state ≠ .draining → issueStopped s = false → p.promoting = [] →
      (objAt s 0x5108 0 ≠ 1 ∨ p.promoted = true ∨ ∀ d o, PageLoc.peer d o ∉ p.arena) →
      ∃ u p', exec (.stepRelease t) s = .next u ∧ u.prog = some p' ∧
        p' = { p with step := p.step + 1, attempts := 0, gateLoaded := false, promoted := false, suppress := []
                      arena := p'.arena } ∧
        p'.arena.length = p.arena.length ∧ u.junc.stepTaps = 0 ∧
        (objAt s 0x5108 0 ≠ 1 → p'.arena = p.arena ∧ u.cellar = s.cellar) ∧
        (∀ n ∈ programTiles s p, (tileAt s n).atStep = true →
          (tileAt u n).atStep = false ∧ (tileAt u n).pc = ((tileAt s n).pc + 16) % 2 ^ 32 ∧ (tileAt u n).upc = 8 ∧
          (tileAt u n).sregs = (tileAt s n).sregs ∧ (tileAt u n).scratch = (tileAt s n).scratch) ∧
        u.life = s.life ∧ u.host = s.host ∧ u.hostMem = s.hostMem ∧ u.coll = s.coll)

/-- MMA, MMA_WRITE, VADD, VMUL, VFMA, VMIN, VMAX, VMINNUM, VMAXNUM, VSUB, VCVT, VCVTS, MOV0, MOV1, QSUB (R138, R369, R591,
R662, R669, R670, R1077). -/
def Obligations.EnginesTakeWork : Prop :=
  ∀ (t i op : Nat) (tile : Fin 160) (c : Instr) (p : Program) (s : State), Executes s tile.val i → s.prog = some p →
    iOp i = op →
    let x := tileAt s tile.val
    let y := x.after i ((x.pc + 16) % 2 ^ 32)
    let others (u : State) : Prop := ∀ m, m ≠ tile.val → tileAt u m = tileAt s m
    ((c, op) ∈ [(Instr.mma t tile, 0x40), (.mmaWrite t tile, 0x41), (.vadd t tile, 0x50), (.vmul t tile, 0x51),
        (.vfma t tile, 0x52), (.vmin t tile, 0x53), (.vmax t tile, 0x54), (.vminnum t tile, 0x55), (.vmaxnum t tile, 0x56),
        (.vsub t tile, 0x57), (.vcvt t tile, 0x58), (.vcvts t tile, 0x59)] →
      (s.gov.holdBack < 16 → ∃ u, exec c s = .next u ∧ others u ∧
        tileAt u tile.val = { y with ops := x.ops ++ [engineOp p x i], issued := x.issued + 1 } ∧
        u = { s with now := max s.now t, tiles := u.tiles, gov := { s.gov with workThis := true } }) ∧
      (16 ≤ s.gov.holdBack → ∃ u, exec c s = .next u ∧ OneTile tile.val t s u ∧ tileAt u tile.val = x.after i x.pc)) ∧
    (∀ k : Nat, (c, op, k) ∈ [(Instr.mov0 t tile, 0x30, 0), (.mov1 t tile, 0x31, 1)] →
      (16 ≤ s.gov.holdBack → ∃ u, exec c s = .next u ∧ OneTile tile.val t s u ∧ tileAt u tile.val = x.after i x.pc) ∧
      (s.gov.holdBack < 16 → (x.chan k).commands.length < 8 → ∃ u, exec c s = .next u ∧ others u ∧
        tileAt u tile.val = { y.setChan k (fun ch => { ch with commands := ch.commands ++ [(srcAOf x i, x.issued)] }) with
          movStalled := false } ∧
        u = { s with now := max s.now t, tiles := u.tiles, gov := { s.gov with workThis := true } }) ∧
      (s.gov.holdBack < 16 → 8 ≤ (x.chan k).commands.length → x.movStalled = false → ∃ u, exec c s = .next u ∧ others u ∧
        Counted 0x5420 6 1 s u ∧ tileAt u tile.val = { x.after i x.pc with movStalled := true } ∧
        u = { s with now := max s.now t, tiles := u.tiles, kiosk := { s.kiosk with counters := u.kiosk.counters } })) ∧
    (op = 0x60 →
      let q := iImm i % 4096
      (tabGet 0 x.logical p.suppress ≠ 0 → ∃ u, exec (.qsub t tile) s = .next u ∧ others u ∧ tileAt u tile.val = y ∧
        u.host = s.host ∧ u.junc = s.junc ∧ (u.prog.map fun p => tabGet 0 x.logical p.suppress) =
          some (tabGet 0 x.logical p.suppress - 1)) ∧
      (tabGet 0 x.logical p.suppress = 0 → interlocked x (srcAOf x i, 64) false = false →
        tilePoisoned s p tile.val (srcAOf x i) 64 = false →
        ((queueAt s q).tail + 1) % (queueAt s q).entries ≠ (queueAt s q).head →
        ∃ u, exec (.qsub t tile) s = .next u ∧ others u ∧ tileAt u tile.val = y ∧ u.prog = s.prog ∧
          queueAt u q = { queueAt s q with tail := ((queueAt s q).tail + 1) % (queueAt s q).entries } ∧
          (∀ r, r ≠ q → queueAt u r = queueAt s r) ∧ u.cellar = s.cellar ∧ u.hostMem = s.hostMem) ∧
      (tabGet 0 x.logical p.suppress = 0 → interlocked x (srcAOf x i, 64) false = false →
        tilePoisoned s p tile.val (srcAOf x i) 64 = false →
        ((queueAt s q).tail + 1) % (queueAt s q).entries = (queueAt s q).head →
        ∃ u, exec (.qsub t tile) s = .next u ∧ OneTile tile.val t s u ∧
          tileAt u tile.val = { x.after i x.pc with waits := true, burst := x.burst }))

/-- ENGINE_OPERATION_COMPLETE (R488, R501, R503, R662). -/
def Obligations.EngineResultsLand : Prop :=
  ∀ (t : Nat) (tile : Fin 160) (p : Program) (o : EngineOp) (rest : List EngineOp) (a : Nat) (bs : List Byte) (s : State),
    let x := tileAt s tile.val
    let out := engineResult (tileRead s p tile.val) s.freeCount o
    s.prog = some p → x.ops = o :: rest → packageRuns s = true → dropping s = false →
    (∀ r ∈ (engineRanges o.instr o.dst o.srcA o.srcB o.srcC).1, tilePoisoned s p tile.val r.1 r.2 = false) →
    out.writes = [(a, bs)] → a + bs.length ≤ 0x200000 →
    ∃ u, exec (.engineOperationComplete t tile) s = .next u ∧
      memRead (tileAt u tile.val).scratch a bs.length = bs ∧
      (∀ b, b < a ∨ a + bs.length ≤ b → memGet (tileAt u tile.val).scratch b = memGet x.scratch b) ∧
      tileAt u tile.val = { x with
        ops := rest, retired := x.retired + 1, scratch := (tileAt u tile.val).scratch
        flags := x.flags ||| (if isMatrix o.instr then out.flags else 256 * out.flags) } ∧
      (∀ m, m ≠ tile.val → tileAt u m = tileAt s m) ∧
      u = { s with now := max s.now t, tiles := u.tiles, freeCount := s.freeCount + out.free }

/-- WINDOW_OVERFLOW and WINDOW_UNDERFLOW (R645 to R649); FAULT_TAKE, INTERRUPT_TAKE, STATION_RESUME, RTT, STATION_ABANDON (R652 to R661). -/
def Obligations.TrapsAndWindows : Prop :=
  (∀ (t before : Nat) (tile : Fin 160) (p : Program) (s s1 : State), s.prog = some p → tileRuns s tile.val = true →
     microRun p tile.val before { s with now := max s.now t } = some s1 →
     let x := tileAt s1 tile.val
     let w := controlWord s1 x.upc
     x.cwp < 7 → x.upc < 4096 →
     (microHere p tile.val s1 = .overflow → x.spill < 30 →
       ∃ u, exec (.windowOverflow t tile before) s = .next u ∧ Counted 0x5820 2 1 s1 u ∧
         (tileAt u tile.val).spill = x.spill + 1 ∧ (tileAt u tile.val).occ = 7 ∧ (tileAt u tile.val).inTrap = false ∧
         (tileAt u tile.val).cwp = (x.cwp + 1) % 7 ∧ (tileAt u tile.val).upc = uLit w % 4096 ∧ u.prog = s1.prog ∧
         (∀ m, m ≠ tile.val → tileAt u m = tileAt s1 m)) ∧
     (microHere p tile.val s1 = .underflow → 0 < x.spill →
       ∃ u, exec (.windowUnderflow t tile before) s = .next u ∧ Counted 0x5820 3 1 s1 u ∧
         (tileAt u tile.val).spill = x.spill - 1 ∧ (tileAt u tile.val).occ = 1 ∧ (tileAt u tile.val).inTrap = false ∧
         (tileAt u tile.val).cwp = (x.cwp + 6) % 7 ∧ u.prog = s1.prog ∧
         (∀ m, m ≠ tile.val → tileAt u m = tileAt s1 m))) ∧
  (∀ (t i : Nat) (tile : Fin 160) (p : Program) (s : State), s.prog = some p →
     let x := tileAt s tile.val
     (∀ c a, tileRuns s tile.val = true → fetchInstr s p tile.val = some i → faultOf s p tile.val i = some (c, a) →
       ∃ u, exec (.faultTake t tile) s = .next u ∧ Counted 0x5820 5 1 s u ∧ (tileAt u tile.val).inTrap = true ∧
         (tileAt u tile.val).framed = true ∧ (tileAt u tile.val).tcause = c ∧ (tileAt u tile.val).upc = 0x010 ∧
         (tileAt u tile.val).wreg 7 15 = BitVec.ofNat 64 (0x800 + 4 * iOp i) ∧ (tileAt u tile.val).pc = x.pc ∧
         (tileAt u tile.val).sregs = x.sregs ∧ (tileAt u tile.val).gregs = x.gregs ∧
         (∀ b, b < 0x1FF000 ∨ 0x1FF100 ≤ b → memGet (tileAt u tile.val).scratch b = memGet x.scratch b) ∧
         (∀ m, m ≠ tile.val → tileAt u m = tileAt s m) ∧
         u = { s with now := max s.now t, tiles := u.tiles, kiosk := { s.kiosk with counters := u.kiosk.counters } }) ∧
     (tileRuns s tile.val = true → fetchInstr s p tile.val = none →
       ∃ u, exec (.faultTake t tile) s = .next u ∧ Counted 0x5820 5 1 s u ∧ (tileAt u tile.val).inTrap = true ∧
         (tileAt u tile.val).framed = true ∧ (tileAt u tile.val).tcause = 0x5012 ∧ (tileAt u tile.val).upc = 0x010 ∧
         (tileAt u tile.val).pc = x.pc ∧ (tileAt u tile.val).sregs = x.sregs ∧
         (∀ m, m ≠ tile.val → tileAt u m = tileAt s m) ∧
         u = { s with now := max s.now t, tiles := u.tiles, kiosk := { s.kiosk with counters := u.kiosk.counters } }) ∧
     (∀ raised k, x.state = .active → x.works = true → x.stopped = false → x.inTrap = false → packageRuns s = true →
       dropping s = false → x.irqs ||| (raised &&& 0x1A) = 2 ^ k → 1 ≤ k → k ≤ 4 →
       ∃ u, exec (.interruptTake t tile raised) s = .next u ∧ Counted 0x5820 4 1 s u ∧
         (tileAt u tile.val).inTrap = true ∧ (tileAt u tile.val).framed = true ∧ (tileAt u tile.val).upc = 0x010 ∧
         (tileAt u tile.val).irqs = 0 ∧ (tileAt u tile.val).tcause = 0 ∧ (tileAt u tile.val).atStep = false ∧
         (tileAt u tile.val).wreg 7 15 = BitVec.ofNat 64 (if p.trapMode then x.upc else 8) ∧
         (tileAt u tile.val).pc = x.pc ∧ (tileAt u tile.val).sregs = x.sregs ∧
         u = { s with now := max s.now t, tiles := u.tiles, kiosk := { s.kiosk with counters := u.kiosk.counters } }) ∧
     (x.inTrap = true → x.framed = true → x.ops = [] →
       (∃ u, exec (.stationResume t tile) s = .next u ∧ OneTile tile.val t s u ∧
         tileAt u tile.val = { x with resume := true }) ∧
       (x.tcause ≠ 0 → ∃ u, exec (.stationAbandon t tile) s = .next u ∧ u.prog = none ∧ u.cellar = s.cellar ∧
         u.gov = s.gov)) ∧
     (x.inTrap = true → x.resume = true → packageRuns s = true → dropping s = false →
       ∃ u, exec (.rtt t tile) s = .next u ∧ OneTile tile.val t s u ∧ (tileAt u tile.val).inTrap = false ∧
         (tileAt u tile.val).framed = false ∧ (tileAt u tile.val).resume = false ∧
         (tileAt u tile.val).upc = (x.wreg 7 15).toNat % 4096 ∧ (tileAt u tile.val).sregs = x.sregs ∧
         (tileAt u tile.val).scratch = x.scratch ∧
         (x.framed = true → (tileAt u tile.val).pc = leNat (memRead x.scratch 0x1FF008 8) % 2 ^ 32) ∧
         (x.framed = false → (tileAt u tile.val).pc = x.pc)))

/-- CS_PATROL_READ, MICRO_MACHINE_CHECK, REPLAY_RESTART (R636 to R643, R1076 to R1081). -/
def Obligations.MachineChecks : Prop :=
  ∀ (t a b : Nat) (tile : Fin 160) (s : State), let x := tileAt s tile.val
    (tileServes s tile.val = true →
      (∃ u, exec (.csPatrolRead t tile []) s = .next u ∧ OneTile tile.val t s u ∧
        tileAt u tile.val = { x with patrolRow := (x.patrolRow + 1) % 4096 }) ∧
      (s.tiers.ecc = true → a < 169 → ∃ u, exec (.csPatrolRead t tile [a]) s = .next u ∧
        Counted 0x5811 (tile.val + 1) 1 s u ∧ tileAt u tile.val = { x with patrolRow := (x.patrolRow + 1) % 4096 } ∧
        u = { s with now := max s.now t, tiles := u.tiles, kiosk := { s.kiosk with counters := u.kiosk.counters } }) ∧
      (s.tiers.ecc = true → a < 169 → b < 169 → x.state = .spare →
        s.prog = none ∨ (vacated s).length < (tilesIn s .spare).length → ∃ u,
        exec (.microMachineCheck t tile (.row [a, b])) s = .next u ∧ Counted 0x5820 1 1 s u ∧
        (tileAt u tile.val).state = .fencedRun ∧ (tileAt u tile.val).runFence = true ∧
        (tileAt u tile.val).lastCheck = x.upc + 4096 * 2 ∧ (tileAt u tile.val).works = false ∧
        (tileAt u tile.val).scratch = x.scratch ∧ (tileAt u tile.val).sregs = x.sregs ∧
        (∀ m, m ≠ tile.val → tileAt u m = tileAt s m) ∧ u.prog = s.prog ∧ Noted s u ∧
        u = { s with
          now := max s.now t, tiles := u.tiles, contain := u.contain, kiosk := u.kiosk, host := u.host, outbox := u.outbox })) ∧
    (∀ p failed, s.prog = some p → p.replaying = some failed → packageRuns s = true → dropping s = false →
      issueStopped s = false → ∃ u p', exec (.replayRestart t) s = .next u ∧ u.prog = some p' ∧ p'.replaying = none ∧ p'.replayed = true ∧
        p'.step = p.step ∧ p'.arena = p.arena ∧ Counted 0x9020 3 1 s u ∧ u.life = s.life ∧
        (vacated s = [] → u.coll = s.coll) ∧
        u.cellar = s.cellar ∧ u.hostMem = s.hostMem)

/-- ARRAY_TEMP_DRIFT, RECALIBRATION_START, RECALIBRATION_COMPLETE, PLANE_REFRESH, LOAD_ROUTER, SCORE_STAGE (R681 to R683, R704,
R712, R713, R715, R716, R718, R724, R734). -/
def Obligations.ArraysAndPlanes : Prop :=
  ∀ (t : Nat) (s : State), packageRuns s = true →
    let now := max s.now t
    (∀ array : Fin 32, let x := arrAt s array.val
      let only (u : State) : Prop :=
        u = { s with
          now := now, junc := { s.junc with arrays := u.junc.arrays }, kiosk := u.kiosk, contain := u.contain
          host := u.host, outbox := u.outbox } ∧ ∀ m, m ≠ array.val → arrAt u m = arrAt s m
      (∀ temp : Int, ∃ u, exec (.arrayTempDrift t array temp) s = .next u ∧ only u ∧ u.kiosk = s.kiosk ∧
        arrAt u array.val = { x with
          temp := temp
          state := if x.state = .ready ∧ 10 * objAt s 0x6811 0 < (temp - x.calTemp).natAbs then .calDue else x.state }) ∧
      (dropping s = false → scoreRuns s = false → (∀ m, m < 32 → (arrAt s m).state ≠ .calibrating) → x.state = .calDue →
        ∃ u, exec (.recalibrationStart t array) s = .next u ∧ only u ∧ u.kiosk = s.kiosk ∧
          arrAt u array.val = { x with state := .calibrating, since := now }) ∧
      (x.state = .calibrating → x.since + 120000 ≤ now →
        (∃ u, exec (.recalibrationComplete t array true) s = .next u ∧ only u ∧ Counted 0x6820 4 1 s u ∧
          arrAt u array.val = { x with
            state := .ready, calTemp := x.temp, aborts := 0, trims := (arrAt u array.val).trims } ∧
          (arrAt u array.val).trims.length = 258 ∧ u.contain = s.contain) ∧
        (∃ u, exec (.recalibrationComplete t array false) s = .next u ∧ only u ∧ Counted 0x6820 4 1 s u ∧
          arrAt u array.val = { x with state := .failedRecal } ∧ bit u.contain.arrayFences array.val = true ∧
          (∀ m, m ≠ array.val → bit u.contain.arrayFences m = bit s.contain.arrayFences m))) ∧
      (x.state ≠ .calibrating ∨ now < x.since + 120000 → ∀ b,
        exec (.recalibrationComplete t array b) s = .next { s with now := now })) ∧
    (dropping s = false →
      let loads (u : State) (p image h e : Nat) : Prop :=
        (planeAt u p).loaded = true ∧ (planeAt u p).image = image ∧ (planeAt u p).hidden = h ∧ (planeAt u p).experts = e ∧
        (planeAt u p).written = now ∧ Counted 0x6820 7 1 s u ∧
        (planeAt u p).scales = hbmWords s (image + 65536 * (rowChunks h * columnGroups e)) e ∧
        (planeAt u p).biases = hbmWords s (image + 65536 * (rowChunks h * columnGroups e) + 4 * e) e ∧
        (∀ r c i j, r < rowChunks h → c < columnGroups e → i < 1024 → j < 128 →
          (planeAt u p).weight (c * rowChunks h + r) i j =
            if 1024 * r + i < h ∧ 128 * c + j < e then
              let b := (memGet s.hbm (image + 65536 * (c * rowChunks h + r) + 64 * i + j / 2)).toNat
              signed (if j % 2 = 0 then b % 16 else b / 16) 4
            else 0)
      let readable (image h e : Nat) : Prop :=
        (hbmFetch s image (65536 * (rowChunks h * columnGroups e) + 8 * e)).2 = 0
      let sane (image h e : Nat) : Prop :=
        (hbmWords s (image + 65536 * (rowChunks h * columnGroups e)) e).all normalPositive = true ∧
        (hbmWords s (image + 65536 * (rowChunks h * columnGroups e) + 4 * e) e).any notFinite = false
      (∀ plane : Fin 2, let x := planeAt s plane.val
        x.loaded = true → objAt s 0x6812 0 ≠ 0 → x.written + objAt s 0x6812 0 * 1000000 ≤ now → planeBusy s plane.val = false →
        readable x.image x.hidden x.experts → sane x.image x.hidden x.experts →
        ∃ u, exec (.planeRefresh t plane) s = .next u ∧ loads u plane.val x.image x.hidden x.experts ∧
          planeAt u (1 - plane.val) = planeAt s (1 - plane.val) ∧
          u = { s with
            now := now, kiosk := { s.kiosk with counters := u.kiosk.counters }
            junc := { s.junc with plane0 := u.junc.plane0, plane1 := u.junc.plane1 } }) ∧
      (∀ (q : Fin 4096) (d : Desc), let image := field d.data 8 8
        let h := field d.data 16 2 + 1
        let e := field d.data 18 2 + 1
        let p := field d.data 20 1 % 2
        (queueAt s q.val).cls = 2 → (queueAt s q.val).next = some d → field d.data 0 1 = 2 → field d.data 1 1 = 0 →
        planeBusy s p = false → h ≤ 32768 → e ≤ 1024 → image % 64 = 0 → readable image h e →
        ∃ u, exec (.loadRouter t q) s = .next u ∧
          (sane image h e → loads u p image h e ∧ planeAt u (1 - p) = planeAt s (1 - p)) ∧
          (¬ sane image h e → u.junc = s.junc) ∧ u.prog = s.prog ∧ u.tiles = s.tiles ∧ u.life = s.life ∧ u.coll = s.coll ∧
          u.fab = s.fab ∧ u.links = s.links ∧ u.cellar = s.cellar) ∧
      (∀ l : Layer, s.junc.layer = some l → l.stage = 1 →
        (l.digital = true →
          exec (.scoreStage t) s = .next { s with now := now, junc := { s.junc with layer := some { l with stage := 2 } } }) ∧
        (l.digital = false → rangeValid (hbmValid s) l.scoreAddr (4 * l.experts * l.tokens) = true →
          rowChunks l.hidden * columnGroups l.experts ≤ usableArrays s →
          let sc := (List.range l.tokens).map
            (scoreToken { s with now := now } l (planeAt s l.plane) (sparseMode s l))
          let n := 4 * l.experts * l.tokens
          (∀ y ∈ sc, y.cause = 0) →
          ∃ u, exec (.scoreStage t) s = .next u ∧ u.junc.layer = some { l with stage := 2 } ∧
            memRead u.hbm l.scoreAddr n = (sc.map (·.row)).flatMap rowBytes ∧
            (∀ b, b < l.scoreAddr ∨ l.scoreAddr + n ≤ b → memGet u.hbm b = memGet s.hbm b) ∧
            Counted 0x6820 1 ((sc.filter (·.evaluated)).length * (rowChunks l.hidden * columnGroups l.experts)) s u ∧
            u = { s with
              now := now, hbm := u.hbm, tiers := { s.tiers with hbmPoison := u.tiers.hbmPoison }, freeCount := u.freeCount
              kiosk := { s.kiosk with counters := u.kiosk.counters }
              junc := { s.junc with layer := u.junc.layer, flags := u.junc.flags } })))

/-- LAYER, JUNCTION_FLAGS (R714, R721 to R730). -/
def Obligations.LayersStart : Prop :=
  ∀ (t : Nat) (q : Fin 4096) (d : Desc) (s : State), packageRuns s = true → dropping s = false →
    (queueAt s q.val).cls = 2 → (queueAt s q.val).next = some d → field d.data 1 1 = 0 →
    let now := max s.now t
    (field d.data 0 1 = 1 → s.junc.layer = none → s.junc.pauseUntil ≤ now → layerTurn s q.val d.index = true →
      let a := field d.data 8 8
      let b := hbmRead s a 128
      let x := layerReads s b
      let good := a % 128 = 0 ∧ field d.data 16 8 % 8 = 0 ∧ field d.data 24 8 < 2 ^ 63 ∧ (hbmFetch s a 128).2 ≠ 0xA007 ∧
        layerFault s b x = 0
      (good → (hbmFetch s a 128).2 = 0 → (∀ c ∈ x.causes, c ≠ 0x5001) →
        ∃ u y, exec (.layer t q) s = .next u ∧ u.junc.layer = some y ∧ y.stage = 1 ∧ y.queue = q.val ∧ y.index = d.index ∧
          y.data = b ∧ y.act = x.act ∧ y.ret = x.ret ∧ y.mask = x.mask ∧ y.signalAddr = field d.data 16 8 ∧
          y.signalValue = field d.data 24 8 ∧ y.cap = objAt s 0x6010 (field b 11 1 + 1) ∧ y.pairs = [] ∧ y.picks = [] ∧
          (∀ n, n < 32 → (arrAt u n).state ≠ .calibrating) ∧
          u = { s with
            now := now, host := u.host, kiosk := { s.kiosk with counters := u.kiosk.counters }
            junc := { s.junc with layer := u.junc.layer, arrays := u.junc.arrays, pauseUntil := u.junc.pauseUntil } }) ∧
      (¬ good → ∃ u, exec (.layer t q) s = .next u ∧
        u.junc = { s.junc with order := s.junc.order.filter fun y => decide (y.queue ≠ q.val) || decide (y.index ≠ d.index) } ∧
        u.prog = s.prog ∧ u.tiles = s.tiles ∧ u.life = s.life ∧ u.coll = s.coll ∧ u.fab = s.fab ∧ u.cellar = s.cellar)) ∧
    (field d.data 0 1 = 3 →
      let a := field d.data 8 8
      let mine : Submission := { queue := q.val, index := d.index, flags := true }
      let x := queueAt s q.val
      let r := x.cplBase / 32 * 32 + 32 * x.cplTail
      (∀ y ∈ s.junc.order.takeWhile (fun y => decide (y ≠ mine)), y.flags = true) → a % 8 = 0 →
      rangeValid (hbmValid s) a 8 = true → x.group = 0 → x.state = .enabled → x.flight = [d] → d.state = .fetched →
      x.held = [] → 0 < x.cplFree → x.cplBroken = false → d.stray = none → Queue.space x.cplBase = 1 →
      d.data.length = 64 → r + 32 ≤ a ∨ a + 8 ≤ r →
      ∃ u, exec (.junctionFlags t q) s = .next u ∧ memRead u.hbm a 8 = natLe (s.junc.flags % 32) 8 ∧
        memRead u.hbm r 32 = completionBytes q.val x { d with
          state := .ended, status := 0, cause := 0, result := 0, endCycle := s.rb.pkgCycle, endPhase := s.rb.pkgPhase } ∧
        (∀ b, (b < a ∨ a + 8 ≤ b) → (b < r ∨ r + 32 ≤ b) → memGet u.hbm b = memGet s.hbm b) ∧ u.hostMem = s.hostMem ∧
        u.junc.flags = (if bit (field d.data 16 1) 0 then 0 else s.junc.flags) ∧ u.junc.layer = s.junc.layer ∧
        u.junc.arrays = s.junc.arrays ∧ u.prog = s.prog ∧ u.tiles = s.tiles ∧ u.life = s.life ∧ u.coll = s.coll ∧
        u.fab = s.fab ∧ u.cellar = s.cellar)

/-- SELECT_STAGE, ADMIT_STAGE, SORT_STAGE, SHIP_STAGE, AWAIT_STAGE, GATHER_STAGE, RESTORE_STAGE (R733, R735 to R755). -/
def Obligations.LayerStages : Prop :=
  ∀ (t : Nat) (l : Layer) (s : State), packageRuns s = true → dropping s = false → s.junc.layer = some l → l.taps = 0 →
    l.items = [] →
    let now := max s.now t
    let juncOnly (u : State) : Prop := u = { s with
      now := now, freeCount := u.freeCount, kiosk := { s.kiosk with counters := u.kiosk.counters }
      junc := { s.junc with layer := u.junc.layer, flags := u.junc.flags } }
    (l.stage = 2 → l.scoreNext = 0 → l.selectNext = 0 → l.rows = [] →
      (hbmFetch s l.scoreAddr (4 * l.experts * l.tokens)).2 = 0 →
      ∃ u y, exec (.selectStage t) s = .next u ∧ juncOnly u ∧ u.junc.layer = some y ∧ y.stage = 3 ∧
        y.selectNext = l.tokens ∧ ∀ k, k < l.tokens →
          let row := hbmWords s (l.scoreAddr + 4 * l.experts * k) l.experts
          (row.any notFinite = true → tabGet none k y.picks = some [] ∧ k ∈ y.unrouted) ∧
          (row.any notFinite = false → ∃ g : List Nat, tabGet none k y.picks = some (((topK l.k row).map (·.1)).zip g) ∧
            g.length = (topK l.k row).length)) ∧
    (l.stage = 3 → l.formed = false → l.admitNext = 0 →
      ∃ u y, exec (.admitStage t) s = .next u ∧ juncOnly u ∧ u.junc.layer = some y ∧ y.stage = 4 ∧
        (y.pairs.map fun p => (p.token, p.expert, p.rank)) = ((admissionOrder l).map fun p => (p.token, p.expert, p.rank)) ∧
        (∀ e, y.admittedTo e ≤ l.cap) ∧
        ∀ p ∈ y.pairs, (l.masked p.expert = true → p.fate = some .masked) ∧
          (l.masked p.expert = false → p.fate = some .admitted ∨ (p.fate = some .capacity ∧ y.admittedTo p.expert = l.cap))) ∧
    (l.stage = 4 → rangeValid (hbmValid s) l.statsAddr (64 + 4 * l.experts) = true →
      ∃ u y, exec (.sortStage t) s = .next u ∧ u.junc.layer = some y ∧ y.stage = 5 ∧ y.slots = slotOrder l ∧
        (∀ k ∈ y.slots, k < l.tokens ∧ l.admittedOf k ≠ []) ∧ y.lists.length = l.members.length ∧
        memRead u.hbm l.statsAddr (64 + 4 * l.experts) = statistics l (slotOrder l) ∧
        (∀ b, b < l.statsAddr ∨ l.statsAddr + (64 + 4 * l.experts) ≤ b → memGet u.hbm b = memGet s.hbm b) ∧
        Counted 0x6040 3 l.pairs.length s u ∧ Counted 0x6040 4 (l.withFate .admitted) s u ∧
        Counted 0x6040 5 (l.withFate .capacity) s u ∧ Counted 0x6040 6 (l.withFate .masked) s u ∧
        Counted 0x6040 7 (l.withFate .tap) s u ∧ Counted 0x6040 8 l.unrouted.length s u ∧
        u = { s with
          now := now, hbm := u.hbm, tiers := { s.tiers with hbmPoison := u.tiers.hbmPoison }
          kiosk := { s.kiosk with counters := u.kiosk.counters }, junc := { s.junc with layer := u.junc.layer } }) ∧
    (l.stage = 5 → l.ship = none → l.shipDone = false → l.resident = false →
      let places := l.owned 0 * l.cap
      let full := (l.lists.getD 0 []).map fun e => (fullRecord { s with now := now } l e).1
      (∀ es ∈ l.lists, ∀ e ∈ es, (fullRecord { s with now := now } l e).2 = 0) →
      rangeValid (hbmValid s) l.recvAddr (l.recordSize * places) = true →
      ∃ u, exec (.shipStage t) s = .next u ∧ (u.junc.layer.map fun y => y.shipDone) = some true ∧
        (∀ p, p < places → (∀ e ∈ full, e.place ≠ p) → memRead u.hbm (l.recvAddr + l.recordSize * p) 16 = padHeader) ∧
        (∀ e ∈ full, e.place < places → (∀ f ∈ full, f.place = e.place → f = e) →
          memRead u.hbm (l.recvAddr + l.recordSize * e.place) l.recordSize = e.data) ∧
        (∀ b, b < l.recvAddr ∨ l.recvAddr + l.recordSize * places ≤ b → memGet u.hbm b = memGet s.hbm b) ∧
        u = { s with
          now := now, hbm := u.hbm, tiers := { s.tiers with hbmPoison := u.tiers.hbmPoison }
          junc := { s.junc with layer := u.junc.layer } }) ∧
    (l.stage = 5 → l.shipDone = true → rangeValid (hbmValid s) l.readyAddr 8 = true →
      (∀ k, k < l.tokens → k ∈ l.slots) →
      ∃ u, exec (.awaitStage t) s = .next u ∧ u.junc.layer = some { l with stage := 6, readyWritten := true } ∧
        memRead u.hbm l.readyAddr 8 = natLe l.signalValue 8 ∧
        (∀ b, b < l.readyAddr ∨ l.readyAddr + 8 ≤ b → memGet u.hbm b = memGet s.hbm b) ∧
        u = { s with
          now := now, hbm := u.hbm, tiers := { s.tiers with hbmPoison := u.tiers.hbmPoison }
          junc := { s.junc with layer := u.junc.layer } }) ∧
    (l.stage = 6 → (hbmFetch s l.doneAddr 8).2 = 0 →
      let places := l.owned (l.me s) * l.members.length * l.cap
      (hbmWord s l.doneAddr < l.signalValue → exec (.gatherStage t) s = .next { s with now := now }) ∧
      (l.signalValue ≤ hbmWord s l.doneAddr → l.resident = false → l.restored.length < l.slots.length →
        (hbmFetch s l.recvAddr (l.recordSize * places)).2 = 0 → (hbmFetch s l.retAddr (l.returnSize * places)).2 = 0 →
        ∃ u y, exec (.gatherStage t) s = .next u ∧ juncOnly u ∧ u.junc.layer = some y ∧ y.stage = 7 ∧
          y.restored = l.restored ∧ ∀ k, k < l.slots.length →
            tabGet none k y.vectors = some (gatherSlot { s with now := now } l (returnEntries { s with now := now } l) k).1)) ∧
    (∀ k bs, l.stage = 7 → nextVector l = some k → tabGet none k l.vectors = some bs → l.restored.length + 1 < l.slots.length →
      let row := scaledVector l.retView.fmt (l.retView.extent 0) 0x3F800000 bs
      (writeRow l.retView (l.slots.getD k 0) row.1 { s with now := now }).2 = 0 →
      ∃ u y, exec (.restoreStage t) s = .next u ∧ u.junc.layer = some y ∧ y.restored = l.restored ++ [k] ∧
        tabGet none k y.vectors = none ∧ (∀ j, j ≠ k → tabGet none j y.vectors = tabGet none j l.vectors) ∧
        u.hbm = (writeRow l.retView (l.slots.getD k 0) row.1 { s with now := now }).1.hbm ∧
        u.cellar = (writeRow l.retView (l.slots.getD k 0) row.1 { s with now := now }).1.cellar ∧
        u.tiles = s.tiles ∧ u.prog = s.prog ∧ u.life = s.life ∧ u.coll = s.coll ∧ u.fab = s.fab ∧ u.kiosk = s.kiosk)

/-- TAP_REPLY, TAP_TIMEOUT (R738, R759 to R763, R942). -/
def Obligations.TapsServeLayers : Prop :=
  ∀ (t : Nat) (tap : Fin 4) (ws : List Nat) (l : Layer) (s : State), packageRuns s = true → dropping s = false →
    s.junc.layer = some l →
    let n := tap.val
    let now := max s.now t
    let bypassed (u : State) : Prop := bit u.junc.stepTaps n = true ∧
      (∀ y, u.junc.layer = some y → y.tapOn n = false ∧ (l.tapOn n = true → y.tapItems n = [])) ∧
      u.tiles = s.tiles ∧ u.prog = s.prog ∧ u.life = s.life ∧ u.coll = s.coll ∧ u.links = s.links ∧ u.pins = s.pins
    (l.tapItems n = [] → exec (.tapReply t tap ws) s = .next { s with now := now } ∧
      exec (.tapTimeout t tap) s = .next { s with now := now }) ∧
    (∀ it rest, l.tapItems n = it :: rest →
      (now < it.since + l.tapNs → exec (.tapTimeout t tap) s = .next { s with now := now }) ∧
      (it.since + l.tapNs ≤ now → ∃ u, exec (.tapTimeout t tap) s = .next u ∧ Counted 0x6040 0x09 1 s u ∧ bypassed u) ∧
      (replyFramed l n it ws = false → ∃ u, exec (.tapReply t tap ws) s = .next u ∧ Counted 0x6040 0x0B 1 s u ∧ bypassed u) ∧
      (replyFramed l n it ws = true →
        let juncOnly (u : State) : Prop := u = { s with
          now := now, freeCount := u.freeCount, kiosk := { s.kiosk with counters := u.kiosk.counters }
          junc := { s.junc with layer := u.junc.layer, flags := u.junc.flags } }
        (n = 0 → ∃ u y, exec (.tapReply t tap ws) s = .next u ∧ juncOnly u ∧ u.junc.layer = some y ∧
          tabGet [] it.token y.rows = (List.range l.experts).map fun i => replyWord ws (1 + i)) ∧
        (n = 1 → it.token < l.selectNext → let ps := replyPairs ws (replyWord ws 1)
          ∃ u y, exec (.tapReply t tap ws) s = .next u ∧ juncOnly u ∧ u.junc.layer = some y ∧
            tabGet none it.token y.picks = some (if selectionValid l ps then ps else tabGet [] it.token l.own) ∧
            (selectionValid l ps = false → Counted 0x6040 0x0A 1 s u)) ∧
        (n = 2 → l.pairs.length ≤ l.admitNext →
          ∃ u y, exec (.tapReply t tap ws) s = .next u ∧ juncOnly u ∧ u.junc.layer = some y ∧
            (y.pairs.map fun p => (p.token, p.expert, p.rank, p.fate)) = l.pairs.map fun p =>
              (p.token, p.expert, p.rank, if p.token = it.token ∧ p.expert = it.key ∧ p.fate = none then
                some (if replyWord ws 1 / 65536 = 1 then Fate.tap else Fate.admitted) else p.fate))))

/-- SLAB_SEND, SLAB_FORWARD (R781 to R783, R787, R790, R792, R806, R812, R815, R816). -/
def Obligations.SlabsSent : Prop :=
  ∀ (t : Nat) (port : Fin 16) (s : State), linksRun s = true →
    let now := max s.now t
    let p := port.val
    let a := portAt s p
    let ack := (a.expected + 4095) % 4096
    let sends (u : State) (seq : Nat) (x : Slab) : Prop := ∃ vc n,
      u.outbox = s.outbox ++ [.slab p (slabBytes x seq ack vc n)]
    let rest (u : State) : Prop :=
      (∀ m, m ≠ p → portAt u m = { portAt s m with freed := (portAt u m).freed }) ∧
      u = { s with
        now := now, outbox := u.outbox, links := { s.links with ports := u.links.ports }
        kiosk := { s.kiosk with counters := u.kiosk.counters } }
    let fresh (u : State) (vc : Nat) (x : Slab) : Prop := rest u ∧ sends u a.nextSeq x ∧ Counted (0x7030 + p) 1 1 s u ∧
      (portAt u p).nextSeq = (a.nextSeq + 1) % 4096 ∧
      (portAt u p).unacked = a.unacked ++ [{ seq := a.nextSeq, slab := x, sentAt := now }] ∧
      tabGet 0 vc (portAt u p).credits = tabGet 0 vc a.credits - 1 ∧
      (∀ w, w ≠ vc → tabGet 0 w (portAt u p).credits = tabGet 0 w a.credits) ∧
      (portAt u p).outq.length + 1 = a.outq.length ∧ (∀ y ∈ (portAt u p).outq, y ∈ a.outq) ∧ (portAt u p).linkq = a.linkq
    (a.state = .up → dropping s = false →
      (∀ q r h, a.resend = q :: r → a.unacked.find? (fun y => y.seq = q) = some h →
        ∃ u, exec (.slabSend t port) s = .next u ∧ rest u ∧ sends u q h.slab ∧ (portAt u p).resend = r ∧
          (portAt u p).unacked.map (fun y => (y.seq, y.slab)) = a.unacked.map (fun y => (y.seq, y.slab)) ∧
          (portAt u p).credits = a.credits ∧ (portAt u p).nextSeq = a.nextSeq ∧ (portAt u p).outq = a.outq) ∧
      (a.resend = [] →
        let open_ := a.unacked.length < 256
        (∀ x, open_ → a.ready 0 = true → a.head 0 = some x →
          ∃ u, exec (.slabSend t port) s = .next u ∧ fresh u 0 x) ∧
        (¬ (open_ ∧ a.ready 0 = true) →
          (∀ b r, a.linkq = b :: r → ∃ u, exec (.slabSend t port) s = .next u ∧ rest u ∧ sends u 0 (linkSlab b) ∧
            (portAt u p).linkq = r ∧ (portAt u p).unacked = a.unacked ∧ (portAt u p).outq = a.outq ∧
            (portAt u p).credits = a.credits) ∧
          (a.linkq = [] →
            (open_ → a.lastMem = 6 ∨ a.lastMem = 7 → (∃ v, 2 ≤ v ∧ v ≤ 7 ∧ a.ready v = true) →
              ∃ u v x, exec (.slabSend t port) s = .next u ∧ a.ready v = true ∧ a.head v = some x ∧ fresh u v x) ∧
            (¬ open_ ∨ (∀ v, a.ready v = false) →
              ∃ u, exec (.slabSend t port) s = .next u ∧ rest u ∧
                sends u 0 { kind := kIdle, vc := 0, last := false } ∧ (portAt u p).unacked = a.unacked ∧
                (portAt u p).outq = a.outq ∧ (portAt u p).credits = a.credits ∧ (portAt u p).nextSeq = a.nextSeq))))) ∧
    (∀ x r o needs detour, s.links.transit = x :: r → sledAddress s ≠ 0xFFFF → switchState s = true →
      x.dest ≠ sledAddress s → route s x = .port o needs detour →
      ∃ u, exec (.slabForward t) s = .next u ∧ u.links.transit = r ∧
        (portAt u o).outq = (portAt s o).outq ++ [{ x with hops := x.hops + 1, needs := needs, detour := detour }] ∧
        (∀ m, m ≠ o → portAt u m = portAt s m) ∧
        u = { s with
          now := now, coll := u.coll, kiosk := { s.kiosk with counters := u.kiosk.counters }
          links := { s.links with transit := u.links.transit, ports := u.links.ports } }) ∧
    (∀ x r, s.links.transit = x :: r → sledAddress s ≠ 0xFFFF → switchState s = true → x.dest ≠ sledAddress s →
      route s x = .noRoute → x.kind ≠ kColl → x.kind ≠ kAlley →
      ∃ u, exec (.slabForward t) s = .next u ∧ Counted 0x7040 1 1 s u ∧ (∀ m, (portAt u m).outq = (portAt s m).outq))

/-- SLAB_RECEIVE, ACK_TIMEOUT, REORDER_HOLD_EXPIRE, INJECTOR_TRIGGER (R783 to R787, R791, R826, R828). -/
def Obligations.SlabsReceived : Prop :=
  ∀ (t : Nat) (port : Fin 16) (s : State), linksRun s = true →
    let now := max s.now t
    let p := port.val
    let a := portAt s p
    let portsOnly (u : State) : Prop :=
      (∀ m, m ≠ p → portAt u m = portAt s m) ∧
      u = { s with
        now := now, freeCount := u.freeCount, kiosk := { s.kiosk with counters := u.kiosk.counters }
        links := { s.links with ports := u.links.ports, transit := u.links.transit } }
    (∀ (bs : List Byte) (c : Nat), bs.length = 128 → injObj s p 8 ≠ 1 → a.inj.heldSlab = none →
      let kind := field bs 0 1 % 16
      let seq := field bs 1 2 % 4096
      let w := field bs 3 2
      let back := (a.expected + 4096 - seq) % 4096
      let good := field bs 124 4 = crc32c (bs.take 124)
      (a.state ≠ .up → a.exchanging = false → ∀ n, exec (.slabReceive t port bs c n) s = .next { s with now := now }) ∧
      (a.state = .up → 2 ≤ kind →
        (good → seq = a.expected → kindAllows kind (bits (field bs 0 1) 6 4) = true → kind ≠ kNotice →
          field bs 6 2 ≠ sledAddress s →
          ∃ u, exec (.slabReceive t port bs c 0) s = .next u ∧ portsOnly u ∧ Counted (0x7030 + p) 2 1 s u ∧
            (portAt u p).expected = (a.expected + 1) % 4096 ∧ u.links.transit = s.links.transit ++ [slabOf bs p]) ∧
        (good → 1 ≤ back → back ≤ 256 →
          ∃ u, exec (.slabReceive t port bs c 0) s = .next u ∧ portsOnly u ∧ Counted (0x7030 + p) 6 1 s u ∧
            (portAt u p).expected = a.expected ∧ u.links.transit = s.links.transit) ∧
        ((¬ good ∨ 256 < back) → (∀ x, a.lastNak = some (x, a.expected) → x + 500 ≤ now) →
          ∃ u, exec (.slabReceive t port bs c 0) s = .next u ∧ portsOnly u ∧ Counted (0x7030 + p) 7 1 s u ∧
            (¬ good → Counted (0x7030 + p) 3 1 s u) ∧ (portAt u p).expected = a.expected ∧
            (portAt u p).linkq = a.linkq ++ [natLe 2 1 ++ natLe a.expected 2] ∧ u.links.transit = s.links.transit)) ∧
      (a.state = .up → kind = kIdle → good →
        ∃ u, exec (.slabReceive t port bs c 0) s = .next u ∧ portsOnly u ∧ u.links.transit = s.links.transit ∧
          (portAt u p).expected = a.expected ∧
          ((∀ h ∈ a.unacked, h.seq ≠ w % 4096) → (portAt u p).unacked = a.unacked) ∧
          (∀ pre h post, a.unacked = pre ++ h :: post → h.seq = w % 4096 → (∀ x ∈ pre, x.seq ≠ w % 4096) →
            (portAt u p).unacked = post ∧ (portAt u p).replays = 0 ∧ (portAt u p).firstReplay = none) ∧
          (∀ v, v = bits w 14 12 → v ≠ 1 →
            tabGet 0 v (portAt u p).credits =
              tabGet 0 v a.credits + (field bs 5 1 + 256 - tabGet 0 v a.creditSeen) % 256 ∧
            tabGet 0 v (portAt u p).creditSeen = field bs 5 1) ∧
          (∀ v, v ≠ bits w 14 12 → tabGet 0 v (portAt u p).credits = tabGet 0 v a.credits))) ∧
    (∀ h r, a.unacked = h :: r → a.state = .up → a.resend = [] →
      (h.sentAt + 2000 ≤ now → a.replays < 7 → ∃ u, exec (.ackTimeout t port) s = .next u ∧ portsOnly u ∧
        Counted (0x7030 + p) 8 1 s u ∧ (portAt u p).resend = a.unacked.map (·.seq) ∧ (portAt u p).unacked = a.unacked ∧
        (portAt u p).replays = a.replays + 1) ∧
      (now < h.sentAt + 2000 → exec (.ackTimeout t port) s = .next { s with now := now })) ∧
    (∀ x, a.inj.heldSlab = some x → a.inj.heldAt + 10000 ≤ now → kindAllows x.kind x.vc = true → x.kind ≠ kNotice →
      x.dest ≠ sledAddress s → ∃ u, exec (.reorderHoldExpire t port) s = .next u ∧ portsOnly u ∧
        portAt u p = { a with inj := { a.inj with heldSlab := none } } ∧ u.links.transit = s.links.transit ++ [x]) ∧
    (packageRuns s = true → injObj s p 8 = 1 → injObj s p 5 = 1 → injObj s p 6 ≤ s.rb.cycle → s.rb.phase = 0 →
      ∃ u, exec (.injectorTrigger t port) s = .next u ∧ portsOnly u ∧ u.links.transit = s.links.transit ∧
        portAt u p = { a with inj := { a.inj with begun := true } })

/-- FEC_LOCK_LOSS, REPLAY_BUDGET_EXPIRE, WIDTH8_ATTEMPT_EXPIRE, RETRAIN_COMPLETE, PORT_LANES_TRAINED, PORT_INFO_REPEAT,
RETRAIN_TIMEOUT, PORT_TRAIN_TIMEOUT, FAILED_PORT_RETRY, PORT_TRAIN_START, LANES_SILENT, CABLE_PRESENCE_CHANGE (R193, R774,
R781, R788, R794 to R802). -/
def Obligations.PortsTrain : Prop :=
  ∀ (t : Nat) (port : Fin 16) (s : State),
    let now := max s.now t
    let p := port.val
    let a := portAt s p
    let becomes (c : Instr) (b : Port) : Prop := ∃ u, exec c s = .next u ∧ portAt u p = b ∧
      (∀ m, m ≠ p → portAt u m = portAt s m) ∧
      u = { s with now := now, links := { s.links with ports := u.links.ports, transit := u.links.transit } }
    let standby (u : State) : Prop := u.pins = s.pins ∧ u.gov = s.gov ∧ u.net = s.net ∧ u.fab = s.fab ∧ u.sweep = s.sweep
    let cleared (b : Port) : Prop := b.state = .training ∧ b.nextSeq = 0 ∧ b.expected = 0 ∧ b.unacked = [] ∧ b.outq = [] ∧
      b.credits = [] ∧ b.freed = [] ∧ b.cable = a.cable ∧ b.since = now
    (linksRun s = true →
      (∀ c ∈ [Instr.fecLockLoss t port, .replayBudgetExpire t port], a.state = .up → partnerDeparted s p = false →
        (c = .fecLockLoss t port ∨ ∃ x, a.firstReplay = some x ∧ x + 20000 ≤ now) → (a.retrains.filter fun x => now - x ≤ 1000000000).length < objAt s 0x7012 0 →
        (objAt s 0x7015 0 ≠ 1 ∨ ∀ y ∈ a.outq, y.kind ≠ kColl) →
        ∃ u, exec c s = .next u ∧ (portAt u p).state = .retraining ∧ (portAt u p).since = now ∧
          (portAt u p).unacked = a.unacked ∧ (portAt u p).outq = a.outq ∧ (portAt u p).credits = a.credits ∧
          Counted (0x7030 + p) 9 1 s u ∧ (∀ m, m ≠ p → portAt u m = portAt s m) ∧
          u = { s with
            now := now, links := { s.links with ports := u.links.ports }, outbox := u.outbox
            kiosk := { s.kiosk with counters := u.kiosk.counters } }) ∧
      (a.state = .retraining → a.exchanging = false →
        (a.since + 1000000 ≤ now → objAt s 0x7014 0 = 1 → becomes (.width8AttemptExpire t port) { a with narrow := true }) ∧
        (∀ w, w = (if a.narrow then 4 else 8) → now ≤ a.since + 2000000 →
          becomes (.retrainComplete t port w) { a with
            exchanging := true, width := w, infoAt := now
            linkq := [portInfo (modPort p (fun b => { b with width := w }) { s with now := now }) p] })) ∧
      (a.state = .training → a.exchanging = false → ∀ w, w = 8 ∨ (w = 4 ∧ objAt s 0x7014 0 = 1) →
        becomes (.portLanesTrained t port w) { a with
          exchanging := true, width := w, infoAt := now
          linkq := [portInfo (modPort p (fun b => { b with width := w }) { s with now := now }) p] }) ∧
      (a.exchanging = true → a.infoAt + 10000 ≤ now →
        becomes (.portInfoRepeat t port) { a with infoAt := now, linkq := a.linkq ++ [portInfo { s with now := now } p] }) ∧
      (∀ c ∈ [(Instr.retrainTimeout t port, PortState.retraining, 2000000), (.portTrainTimeout t port, .training, 800000000)],
        a.state = c.2.1 →
        (a.since + c.2.2 ≤ now → ∃ u, exec c.1 s = .next u ∧ standby u ∧ (portAt u p).state = .failed ∧
          (portAt u p).since = now ∧ (portAt u p).width = 0 ∧ (portAt u p).outq = [] ∧ (portAt u p).unacked = []) ∧
        (now < a.since + c.2.2 → exec c.1 s = .next { s with now := now })) ∧
      (switchState s = true → a.state = .failed → a.since + 1000000 * objAt s 0x7013 0 ≤ now →
        (a.cable = true → portDisabled s p = false → ∃ u, exec (.failedPortRetry t port) s = .next u ∧ cleared (portAt u p) ∧
          (∀ m, m ≠ p → portAt u m = portAt s m) ∧
          u = { s with now := now, links := { s.links with ports := u.links.ports, transit := u.links.transit } }) ∧
        (a.cable = true → portDisabled s p = true → becomes (.failedPortRetry t port) { a with state := .disabled }) ∧
        (a.cable = false → becomes (.failedPortRetry t port) { a with state := .noCable })) ∧
      (mayTrain s p = true → a.state ≠ .training →
        ∃ u, exec (.portTrainStart t port) s = .next u ∧ standby u ∧ cleared (portAt u p)) ∧
      (a.state = .up ∨ a.state = .retraining → partnerDeparted s p = true →
        ∃ u, exec (.lanesSilent t port) s = .next u ∧ standby u ∧ (portAt u p).state = .partnerLeft ∧
          (portAt u p).width = 0 ∧ (portAt u p).outq = [])) ∧
    (a.state ≠ .up → a.state ≠ .retraining → a.state ≠ .disabled →
      becomes (.cablePresenceChange t port false) { a with cable := false, state := .noCable, exchanging := false }) ∧
    (a.state = .up ∨ a.state = .retraining ∨ a.state = .disabled →
      becomes (.cablePresenceChange t port false) { a with cable := false }) ∧
    (a.state = .noCable → linksRun s = true → switchState s = true → portDisabled s p = false →
      ∃ u, exec (.cablePresenceChange t port true) s = .next u ∧ (portAt u p).state = .training ∧
        (portAt u p).cable = true ∧ (portAt u p).since = now ∧ (∀ m, m ≠ p → portAt u m = portAt s m)) ∧
    (a.state ≠ .noCable → becomes (.cablePresenceChange t port true) { a with cable := true })

/-- ARM_HELLO_TIMER, ARM_HELLO, ARM_TIMEOUT, REFORM, LEAVE, REFORM_RESEND, REFORM_TIMEOUT (R838 to R843, R887 to R893). -/
def Obligations.GroupsArmAndReform : Prop :=
  ∀ (t g : Nat) (s : State), packageRuns s = true → dropping s = false →
    let now := max s.now t
    let x := groupAt s g
    let me := sledAddress s
    let others (l : List Nat) := l.filter fun a => decide (a ≠ me)
    let hello (d : Nat) := engineSlab s d 0x80 g 0 0 (myRank s g) (natLe (definitionCrc s g) 4)
    let proposes (d : Nat) := engineSlab s d 0x86 g x.nextEpoch 0 (myRank s g)
      (natLe (proposalCrc s g) 4 ++ natLe (x.lost.take 40).length 1 ++ (x.lost.take 40).flatMap fun a => natLe a 2)
    let group (u : State) (y : Group) : Prop := groupAt u g = y ∧ ∀ h, h ≠ g → groupAt u h = groupAt s h
    let dissolved (u : State) (cause : Nat) : Prop :=
      (groupAt u g).state = 0 ∧ (groupAt u g).cause = cause ∧ (groupAt u g).members = [] ∧ (groupAt u g).colls = [] ∧
      (∀ h, h ≠ g → groupAt u h = groupAt s h) ∧ u.prog = s.prog ∧ u.tiles = s.tiles ∧ u.links = s.links ∧
      u.life = s.life ∧ ((∀ c ∈ x.colls, c.ofLayer = false) → u.junc = s.junc)
    (x.state = 1 → x.lastSent + 1000000 ≤ now →
      ∃ u, exec (.armHelloTimer t g) s = .next u ∧ group u { x with lastSent := now } ∧
        u = { s with
          now := now, coll := { s.coll with groups := u.coll.groups }
          links := { s.links with transit := s.links.transit ++ (others x.members).map hello } }) ∧
    (x.state ≠ 1 ∨ now < x.lastSent + 1000000 → exec (.armHelloTimer t g) s = .next { s with now := now }) ∧
    (x.state = 1 → x.since + 1000000 * objAt s 0x7807 0 ≤ now →
      ∃ u, exec (.armTimeout t g) s = .next u ∧ dissolved u 0x0A) ∧
    (x.state = 3 → x.since + 1000000 * objAt s 0x7808 0 ≤ now →
      ∃ u, exec (.reformTimeout t g) s = .next u ∧ dissolved u 0x0B) ∧
    (x.state = 3 → x.released = true → x.lastSent + 1000000 ≤ now →
      ∃ u, exec (.reformResend t g) s = .next u ∧ group u { x with lastSent := now } ∧
        u = { s with
          now := now, coll := { s.coll with groups := u.coll.groups }
          links := { s.links with transit := s.links.transit ++ (others x.proposal).map proposes } }) ∧
    (∀ m rest, s.coll.inbox = m :: rest → messageWaits s m = false → m.group = g → x.members.contains m.src = true →
      (m.code = 0x80 → x.state = 1 → field m.extra 0 4 ≠ definitionCrc s g →
        ∃ u, exec (.armHello t) s = .next u ∧ Counted 0x7810 0x0B 1 s u ∧ group u x ∧ u.coll.inbox = rest ∧
          u = { s with now := now, coll := u.coll, kiosk := { s.kiosk with counters := u.kiosk.counters } }) ∧
      (m.code = 0x80 → x.state = 1 → field m.extra 0 4 = definitionCrc s g →
        let heard := if x.helloFrom.contains m.src then x.helloFrom else x.helloFrom ++ [m.src]
        let all := ∀ a ∈ x.members, a = me ∨ a ∈ heard
        ∃ u, exec (.armHello t) s = .next u ∧ u.coll.inbox = rest ∧ u.links = s.links ∧
          (all → group u { x with helloFrom := heard, state := 2 }) ∧ (¬ all → group u { x with helloFrom := heard }) ∧
          u = { s with now := now, coll := u.coll, host := u.host, outbox := u.outbox, kiosk := u.kiosk }) ∧
      (m.code = 0x80 → x.state = 2 → x.epoch = 0 → field m.extra 0 4 = definitionCrc s g →
        ∃ u, exec (.armHello t) s = .next u ∧ u.coll = { s.coll with inbox := rest } ∧
          u = { s with now := now, coll := u.coll, links := { s.links with transit := s.links.transit ++ [hello m.src] } }) ∧
      (m.code = 0x86 → x.state = 3 → m.epoch = x.nextEpoch → field m.extra 4 1 = 0 → field m.extra 0 4 = proposalCrc s g →
        me ∉ x.lost → 2 ≤ x.proposal.length → x.released = true →
        let heard := if x.reformFrom.contains m.src then x.reformFrom else x.reformFrom ++ [m.src]
        let all := ∀ a ∈ x.proposal, a = me ∨ a ∈ heard
        ∃ u, exec (.reform t) s = .next u ∧ u.coll.inbox = rest ∧
          (¬ all → group u { x with reformFrom := heard }) ∧
          (all → (groupAt u g).state = 2 ∧ (groupAt u g).epoch = x.nextEpoch ∧ (groupAt u g).members = x.proposal ∧
            (groupAt u g).colls = [] ∧ (groupAt u g).lost = [] ∧ (groupAt u g).nextCseq = 0 ∧ Counted 0x7810 9 1 s u)) ∧
      (m.code = 0x87 → x.state = 2 → x.colls = [] → x.lost = [] → m.src ≠ me → groupObj s g 9 ≠ 0 →
        2 ≤ (x.members.filter fun a => decide (a ≠ m.src)).length →
        ∃ u, exec (.leave t) s = .next u ∧ u.coll.inbox = rest ∧ (groupAt u g).state = 3 ∧ (groupAt u g).lost = [m.src] ∧
          (groupAt u g).members = x.members ∧ (groupAt u g).epoch = x.epoch ∧
          (tabGet false m.src s.links.departed = true → ∀ q ∈ u.tiers.lent, q.2 ≠ m.src) ∧
          (tabGet false m.src s.links.departed = false → u.tiers = s.tiers ∧ u.prog = s.prog)))

/-- EXCHANGE, EXCHANGE_V, EXCHANGE_ADD, and DESCRIPTOR_FETCH on a group's queue (R846 to R849, R852, R866, R873, R900). -/
def Obligations.CollectivesRun : Prop :=
  (∀ (t : Nat) (q : Fin 4096) (s : State), packageRuns s = true → dropping s = false →
    let x := queueAt s q.val
    let g := x.group
    let y := groupAt s g
    let data := readRing s (Queue.space x.ringBase) (x.ringBase / 64 * 64 + 64 * x.head) 64
    let c : Collective := { index := x.fetched, cseq := y.nextCseq, op := field data 0 1, data := data, ofLayer := false }
    let bad := natLe 0x7013 2 ++ natLe (myRank s g) 2
    g ≠ 0 → y.queue = q.val → y.state = 2 → y.colls = [] → x.state = .enabled → x.head ≠ x.tail → freeSlot s x = true →
    layerOwns s q.val x.fetched = false →
    (shapeOk s g c = true → ∃ u, exec (.descriptorFetch t q) s = .next u ∧
      groupAt u g = { y with nextCseq := (y.nextCseq + 1) % 65536, colls := [c] } ∧
      (∀ h, h ≠ g → groupAt u h = groupAt s h) ∧
      u = { s with now := max s.now t, host := u.host, coll := { s.coll with groups := u.coll.groups } }) ∧
    (shapeOk s g c = false → ∃ u tl, exec (.descriptorFetch t q) s = .next u ∧ Counted 0x7810 0x0A 1 s u ∧
      u.links.transit = s.links.transit ++ ((y.members.filter fun a => decide (a ≠ sledAddress s)).map fun a =>
        engineSlab s a 0x85 g y.epoch c.cseq (myRank s g) bad) ++ tl ∧ (groupAt u g).colls = [])) ∧
  ∀ (t g k : Nat) (i : Instr) (c : Collective) (more : List Collective) (d : Desc) (s : State),
    (i, k) ∈ ([(.exchange t g, 1), (.exchangeV t g, 2), (.exchangeAdd t g, 3)] : List (Instr × Nat)) →
    packageRuns s = true → dropping s = false →
    let now := max s.now t
    let x := groupAt s g
    let me := myRank s g
    let m := x.members.length
    let toOthers (code : Nat) (extra : List Byte) : List Slab :=
      (x.members.filter fun a => decide (a ≠ sledAddress s)).map fun a => engineSlab s a code g x.epoch c.cseq me extra
    x.colls = c :: more → (∀ y ∈ more, y.cseq ≠ c.cseq) → x.runs = true → c.op = k → c.state = .armed → me < m →
    c.limit = [] → c.endSent = 0 → c.windows = [] → c.sentList = 0 → c.alley = 0 → x.alleyNext = [] →
    (queueAt s x.queue).next = some d → d.index = c.index → field d.data 1 1 = 0 →
    (c.ofLayer = true → shapeOk s g c = false → more = [] → ∃ u tl, exec i s = .next u ∧ Counted 0x7810 0x0A 1 s u ∧
      u.links.transit = s.links.transit ++ toOthers 0x85 (natLe 0x7013 2 ++ natLe me 2) ++ tl ∧ (groupAt u g).colls = []) ∧
    (c.ofLayer = false → shapeOk s g c = true → (c.isAlley = true → otherRanks s g ≠ []) →
      (k = 3 → (∀ e ∈ addEntries s c, e.rank ≠ me) ∧ ∃ e ∈ addEntries s c, e.rank ≠ 0xFFFF) →
      ∃ u y, exec i s = .next u ∧ (groupAt u g).colls = y :: more ∧ y.state = .running ∧ y.cseq = c.cseq ∧ y.watch = now ∧
        (∀ h, h ≠ g → groupAt u h = groupAt s h) ∧
        (k = 1 → memRead u.hbm (c.dst + me * c.size) c.size = memRead s.hbm (c.src + me * c.size) c.size ∧
          (∀ b, b < c.dst + me * c.size ∨ c.dst + me * c.size + c.size ≤ b → memGet u.hbm b = memGet s.hbm b)) ∧
        (k = 2 → let caps := capacities s m c
          (∀ q bs, (q, bs) ∈ recordsFor s caps c me → memRead u.hbm (placeAddr c m me q) c.rs = bs) ∧
          (∀ b, b < c.dst ∨ c.dst + c.rs * m * caps.getD me 0 ≤ b → memGet u.hbm b = memGet s.hbm b)) ∧
        (k ≠ 3 → c.isAlley = false →
          let n := max 1 (inboundPlaces s g / max 1 m)
          u.links.transit = s.links.transit ++ (otherRanks s g).map fun r =>
            engineSlab s (x.members.getD r 0xFFFF) 0x83 g x.epoch c.cseq me (natLe n 4)) ∧
        (c.isAlley = true → otherRanks s g ≠ [] →
          u.links.transit = s.links.transit ++ (otherRanks s g).map fun r =>
            alleySlab s g c r (memRead s.hbm (c.src + r * c.size) c.size)) ∧
        (k = 3 → u.hbm = s.hbm ∧ ∃ limit, u.links.transit = s.links.transit ++ toOthers 0x84 (natLe limit 4)) ∧
        u = { s with
          now := now, host := u.host, hbm := u.hbm, tiers := { s.tiers with hbmPoison := u.tiers.hbmPoison }, coll := u.coll
          links := { s.links with transit := u.links.transit } })

/-- PROGRESS, GRANT, WINDOW, FINISHED, HAMPER_PLACE_FREED, PROGRESS_TIMER, ABORT, WATCHDOG_EXPIRE (R852, R865, R866, R874,
R879 to R885, R888). -/
def Obligations.CollectivesMove : Prop :=
  ∀ (t g : Nat) (c : Collective) (s : State), packageRuns s = true → dropping s = false →
    let now := max s.now t
    let x := groupAt s g
    let me := myRank s g
    let slab (a code : Nat) (extra : List Byte) := engineSlab s a code g x.epoch c.cseq me extra
    let toOthers (code : Nat) (extra : List Byte) : List Slab :=
      (x.members.filter fun a => decide (a ≠ sledAddress s)).map fun a => slab a code extra
    let only (u : State) (y : Collective) (more : List Slab) : Prop := (groupAt u g).colls = [y] ∧
      groupAt u g = { x with colls := [y] } ∧ (∀ h, h ≠ g → groupAt u h = groupAt s h) ∧
      u = { s with now := now, coll := u.coll, links := { s.links with transit := s.links.transit ++ more } }
    let aborts (u : State) (cause detector : Nat) : Prop := (groupAt u g).colls = [] ∧ Counted 0x7810 2 1 s u ∧
      (∃ tl, u.links.transit = s.links.transit ++ toOthers 0x85 (natLe cause 2 ++ natLe detector 2) ++ tl) ∧
      u.prog = s.prog ∧ u.tiles = s.tiles ∧ u.life = s.life ∧ u.pins = s.pins ∧ u.fab = s.fab
    x.state = 2 → x.colls = [c] → x.lost = [] →
    (c.state ≠ .armed →
      (c.watch + 1000000 * groupObj s g 6 ≤ now →
        ∃ u, exec (.watchdogExpire t g) s = .next u ∧ aborts u 0x7011 me ∧ Counted 0x7810 3 1 s u) ∧
      (now < c.watch + 1000000 * groupObj s g 6 → exec (.watchdogExpire t g) s = .next { s with now := now }) ∧
      (c.state = .running → c.msAt + 1000000 ≤ now → ∃ u, exec (.progressTimer t g) s = .next u ∧
        only u { c with moved := false, msAt := now } (if c.moved then toOthers 0x82 [] else [])) ∧
      (∀ y : InSlab, c.op = 1 → c.inbox.find? (placeKnown c) = some y → (∃ r ∈ otherRanks s g, tabGet 0 r c.ends = 0) →
        c.isAlley = false → ∃ u r, exec (.hamperPlaceFreed t g) s = .next u ∧
          (y.written = false → memRead u.hbm (c.dst + y.rank * c.size + 96 * y.pos) y.data.length = y.data) ∧
          (y.written = true → u.hbm = s.hbm) ∧
          (∀ b, b < c.dst + y.rank * c.size + 96 * y.pos ∨ c.dst + y.rank * c.size + 96 * y.pos + y.data.length ≤ b →
            memGet u.hbm b = memGet s.hbm b) ∧
          u.links.transit = s.links.transit ++
            [slab (x.members.getD r 0xFFFF) 0x83 (natLe (tabGet 0 r c.granted + 1) 4)] ∧
          ((groupAt u g).colls.map fun z => (tabGet 0 y.rank z.written, tabGet 0 r z.granted, z.watch)) =
            [(tabGet 0 y.rank c.written + 1, tabGet 0 r c.granted + 1, now)] ∧
          u = { s with
            now := now, hbm := u.hbm, tiers := { s.tiers with hbmPoison := u.tiers.hbmPoison }, coll := u.coll
            links := { s.links with transit := u.links.transit } })) ∧
    (∀ m rest, s.coll.inbox = m :: rest → m.group = g → m.epoch = x.epoch → m.cseq = c.cseq →
      x.members.contains m.src = true →
      (m.code = 0x82 → ∃ u, exec (.progress t) s = .next u ∧ only u { c with watch := now } [] ∧ u.coll.inbox = rest) ∧
      (m.code = 0x83 →
        let lim := max (field m.extra 0 4) (tabGet 0 m.rank c.limit)
        let data := c.out.getD m.rank []
        let from_ := tabGet 0 m.rank c.sent
        (c.state = .armed ∨ c.op = 3 → ∃ u, exec (.grant t) s = .next u ∧ u.coll.inbox = rest ∧
          only u { c with limit := tabPut 0 m.rank lim c.limit } []) ∧
        (c.state = .running → c.op ≠ 3 → c.isAlley = false → bit c.endSent m.rank = false → m.rank ∈ otherRanks s g →
          from_ < field m.extra 0 4 → lim < data.length → ∃ u, exec (.grant t) s = .next u ∧ u.coll.inbox = rest ∧
          only u { c with limit := tabPut 0 m.rank lim c.limit, sent := tabPut 0 m.rank lim c.sent, watch := now, moved := true }
            (((List.range lim).drop from_).map fun j => collSlab s g c m.rank 0 j false false (data.getD j []))) ∧
        (∀ n, n = field m.extra 0 4 → c.state ≠ .armed → c.op ≠ 3 → 1 ≤ n → n ≤ from_ → ∃ u, exec (.grant t) s = .next u ∧
          u.coll.inbox = rest ∧ only u { c with limit := tabPut 0 m.rank lim c.limit, watch := now, moved := true }
            (((List.range n).drop ((n - 1) / chunkSlabs s * chunkSlabs s)).map fun j =>
              collSlab s g c m.rank 0 j false false (data.getD j [])))) ∧
      (m.code = 0x84 → c.state = .armed → ∃ u, exec (.window t) s = .next u ∧ u.coll.inbox = rest ∧
        only u { c with windows := tabPut 0 m.rank (max (field m.extra 0 4) (tabGet 0 m.rank c.windows)) c.windows } []) ∧
      (m.code = 0x81 → field m.extra 0 4 = shapeCrc c →
        let fin := c.finished ||| 2 ^ m.rank
        let all := c.state = .draining ∧ ∀ r ∈ otherRanks s g, bit fin r = true
        (¬ all → ∃ u, exec (.finished t) s = .next u ∧ only u { c with watch := now, finished := fin } [] ∧
          u.coll.inbox = rest) ∧
        (all → ∃ u, exec (.finished t) s = .next u ∧ (groupAt u g).colls = [] ∧ Counted 0x7810 1 1 s u ∧
          u.coll.inbox = rest ∧ u.links = s.links ∧ u.prog = s.prog ∧ u.tiles = s.tiles ∧ u.life = s.life)) ∧
      (m.code = 0x85 → ∃ u, exec (.abort t) s = .next u ∧ aborts u (field m.extra 0 2) (field m.extra 2 2)))

/-- FABRIC_BROWNOUT, IOB_FAULT, IOB_VCC_GOOD, SER_LANE_LOCK (R921, R945, R949, R953); FABRIC_NOP, PUSH, PULL, FEED_SUBMIT,
QC_STALL (R931, R934 to R939, R955); words over LINK controllers and serialiser lanes during a TICK (R933, R951, R952). -/
def Obligations.FabricBanksAndStreams : Prop :=
  (∀ (c w : Nat) (r : List Nat) (s : State), packageRuns s = true → dropping s = false → controllerMode s c = 5 →
     fifoAt s c = w :: r →
     let p := objAt s 0x8032 (c + 1)
     let crosses := p < 128 ∧ controllerMode s p = 4 ∧ (fifoAt s p).length < 256
     (crosses → ∃ u, exec (.tick [.linkMove c]) s = .next u ∧ fifoAt u c = r ∧ fifoAt u p = fifoAt s p ++ [w] ∧
       (∀ k, k ≠ c → k ≠ p → fifoAt u k = fifoAt s k) ∧ Counted 0x8050 1 1 s u ∧ Counted 0x8050 2 1 s u ∧
       u = { s with
         rb := u.rb, now := u.now, fab := { s.fab with fifos := u.fab.fifos }
         kiosk := { s.kiosk with counters := u.kiosk.counters } }) ∧
     (¬ crosses → ∃ u, exec (.tick [.linkMove c]) s = .next u ∧ u = { s with rb := u.rb, now := u.now })) ∧
  (∀ (b j w : Nat) (s : State), packageRuns s = true → dropping s = false →
     let y := laneAt s b j
     let banksOnly (u : State) : Prop := u = { s with
       rb := u.rb, now := u.now, fab := { s.fab with banks := u.fab.banks }, outbox := u.outbox
       kiosk := { s.kiosk with counters := u.kiosk.counters } }
     (laneRuns s b j = some false → y.fifo.length < 32 → ∃ u, exec (.tick [.laneReceive b j w]) s = .next u ∧ banksOnly u ∧
       laneAt u b j = { y with fifo := y.fifo ++ [w % 65536] } ∧ u.outbox = s.outbox) ∧
     (laneRuns s b j = some false → 32 ≤ y.fifo.length → ∃ u, exec (.tick [.laneReceive b j w]) s = .next u ∧ banksOnly u ∧
       laneAt u b j = y ∧ Counted 0x8050 5 1 s u ∧ bit (bankAt u b).overrun j = true ∧ u.outbox = s.outbox) ∧
     (laneRuns s b j = some true → ∃ u, exec (.tick [.laneSend b j]) s = .next u ∧ banksOnly u ∧
       laneAt u b j = { fifo := y.fifo.tail, last := y.fifo.headD y.last } ∧ (y.fifo = [] → Counted 0x8050 6 1 s u) ∧
       u.outbox = s.outbox ++ [.lane b j ((List.range 16).map (bit (y.fifo.headD y.last)))])) ∧
  (∀ (t : Nat) (bank : Fin 4) (s : State), packageRuns s = true →
     let now := max s.now t
     let x := bankAt s bank.val
     let onlyBank (u : State) (y : IoBank) : Prop := bankAt u bank.val = y ∧
       (∀ b, b ≠ bank.val → bankAt u b = bankAt s b) ∧ u.fab = { s.fab with banks := u.fab.banks }
     (∃ u, exec (.fabricBrownout t bank) s = .next u ∧ Counted 0x8050 7 1 s u ∧
       (∀ l, l / 4 = bank.val → (lotAt s l).fenceable = true →
         (lotAt u l).state = .fenced ∧ (lotAt u l).cause = 0x8001 ∧ (lotAt u l).config = (lotAt s l).config) ∧
       (∀ l, l / 4 ≠ bank.val ∨ (lotAt s l).fenceable = false → lotAt u l = lotAt s l) ∧
       u.prog = s.prog ∧ u.tiles = s.tiles ∧ u.life = s.life ∧ u.coll = s.coll ∧ u.links = s.links ∧ u.net = s.net) ∧
     (x.state = 1 ∨ x.state = 2 →
       (∃ u, exec (.iobFault t bank) s = .next u ∧ onlyBank u { x with state := 3, lock := 0 } ∧
         u = { s with
           now := now, fab := u.fab, contain := u.contain, kiosk := u.kiosk, host := u.host, outbox := u.outbox }) ∧
       (∀ (lane : Fin 8) (b : Bool), ∃ u, exec (.serLaneLock t bank lane b) s = .next u ∧
         onlyBank u { x with lock := (bankAt u bank.val).lock } ∧ bit (bankAt u bank.val).lock lane.val = b ∧
         (∀ k, k ≠ lane.val → bit (bankAt u bank.val).lock k = bit x.lock k) ∧ u = { s with now := now, fab := u.fab })) ∧
     (x.state = 1 → ∃ u, exec (.iobVccGood t bank) s = .next u ∧ onlyBank u { x with state := 2 } ∧
       u = { s with now := now, fab := u.fab }) ∧
     (x.state ≠ 1 → exec (.iobVccGood t bank) s = .next { s with now := now })) ∧
  (∀ (t : Nat) (q : Fin 4096) (d : Desc) (s : State), packageRuns s = true → dropping s = false →
     let now := max s.now t
     let x := queueAt s q.val
     let standing (u : State) : Prop := u.prog = s.prog ∧ u.tiles = s.tiles ∧ u.life = s.life ∧ u.coll = s.coll ∧
       u.links = s.links ∧ u.pins = s.pins ∧ u.sweep = s.sweep ∧ u.net = s.net
     (x.cls = 3 → x.group = 0 → x.state = .enabled → x.flight = [d] → x.held = [] → 0 < x.cplFree → x.cplBroken = false →
       d.stray = none → Queue.space x.cplBase = 1 → d.gate = none → d.state = .fetched → field d.data 1 1 = 0 → field d.data 0 1 = 1 →
       let a := x.cplBase / 32 * 32 + 32 * x.cplTail
       ∃ u, exec (.fabricNop t q) s = .next u ∧ u.fab = s.fab ∧ standing u ∧ (queueAt u q.val).flight = [] ∧
         memRead u.hbm a 32 = completionBytes q.val x { d with
           state := .ended, status := 0, cause := 0, result := 0, endCycle := s.rb.pkgCycle, endPhase := s.rb.pkgPhase } ∧
         (∀ b, b < a ∨ a + 32 ≤ b → memGet u.hbm b = memGet s.hbm b)) ∧
     (x.cls = 3 → x.next = some d → field d.data 1 1 = 0 → streamBodyOk d.data = true →
       let c := field d.data 20 1
       let a := field d.data 8 8
       let len := field d.data 16 4
       let mark := bit (field d.data 21 1) 0
       let f := fifoAt s c
       let run (push : Bool) : Stream :=
         { queue := q.val, index := d.index, push := push, addr := a, left := len, mark := mark, since := now }
       streamsAt s c = [] → (∀ e ∈ s.fab.streams, ∀ y, e.2.head? = some y → y.queue ≠ q.val ∨ y.index ≠ d.index) →
       (∀ taken : Nat, field d.data 0 1 = 2 → streamCheck s c (run true) = 0 →
         let n := min (len / 4) (256 + taken - f.length)
         let words := (List.range n).map fun i =>
           leNat (memRead s.hbm (a + 4 * i) 4) + (if mark = true ∧ i = 0 then 2 ^ 32 else 0)
         4 * n < len → reachableBytes s 1 a (4 * n) = 4 * n → cleanSource s 1 a (4 * n) = 4 * n →
         ∃ u, exec (.push t q d.index taken) s = .next u ∧ standing u ∧
           fifoAt u c = (f ++ words).drop (min taken (f.length + n)) ∧ (∀ k, k ≠ c → fifoAt u k = fifoAt s k) ∧
           streamsAt u c = [{ run true with addr := a + 4 * n, left := len - 4 * n, done := 4 * n }] ∧
           Counted 0x8050 1 n s u ∧ u.hbm = s.hbm ∧ u.junc = s.junc ∧ (∀ l, lotAt u l = lotAt s l)) ∧
       (∀ words : List Nat, field d.data 0 1 = 3 → streamCheck s c (run false) = 0 → illegalWord words = false → mark = false →
         let all := f ++ words
         let m := all.length
         4 * m < len → reachableBytes s 1 a (4 * m) = 4 * m →
         ∃ u, exec (.pull t q d.index words) s = .next u ∧ standing u ∧ fifoAt u c = [] ∧
           (∀ k, k ≠ c → fifoAt u k = fifoAt s k) ∧
           (∀ (i w : Nat), all[i]? = some w → leNat (memRead u.hbm (a + 4 * i) 4) = w % 2 ^ 32) ∧
           (∀ b, b < a ∨ a + 4 * m ≤ b → memGet u.hbm b = memGet s.hbm b) ∧
           streamsAt u c = [{ run false with addr := a + 4 * m, left := len - 4 * m, done := 4 * m }] ∧
           Counted 0x8050 2 m s u ∧ u.junc = s.junc ∧ (∀ l, lotAt u l = lotAt s l))) ∧
     (∀ (ctrl : Fin 128) (words : List Nat), controllerMode s ctrl.val = 6 → illegalWord words = false →
       let all := fifoAt s ctrl.val ++ words
       let target := queueAt s (objAt s 0x8032 (ctrl.val + 1))
       (all.length < 16 → ∃ u, exec (.feedSubmit t ctrl words) s = .next u ∧ fifoAt u ctrl.val = all ∧
         u = { s with now := now, fab := { s.fab with fifos := u.fab.fifos } } ∧
         ∀ k, k ≠ ctrl.val → fifoAt u k = fifoAt s k) ∧
       (16 ≤ all.length → all.length < 32 →
         (target.state ≠ .enabled ∨ target.cls ≠ 3 → ∃ u, exec (.feedSubmit t ctrl words) s = .next u ∧
           fifoAt u ctrl.val = all.drop 16 ∧ Counted 0x8050 2 16 s u ∧ Counted 0x8050 3 1 s u ∧ u.hbm = s.hbm ∧
           u.host = s.host) ∧
         (target.state = .enabled → target.cls = 3 → (target.tail + 1) % target.entries ≠ target.head →
           let a := target.ringBase / 64 * 64 + 64 * target.tail
           ∃ u, exec (.feedSubmit t ctrl words) s = .next u ∧ fifoAt u ctrl.val = all.drop 16 ∧ Counted 0x8050 2 16 s u ∧
             memRead u.hbm a 64 = ((all.take 16).flatMap fun w => natLe (w % 2 ^ 32) 4) ∧
             (∀ b, b < a ∨ a + 64 ≤ b → memGet u.hbm b = memGet s.hbm b) ∧
             (queueAt u (objAt s 0x8032 (ctrl.val + 1))).tail = (target.tail + 1) % target.entries ∧ standing u))) ∧
     (∀ (ctrl : Fin 128) (y : Stream) (rest : List Stream), streamsAt s ctrl.val = y :: rest →
       (y.since + objAt s 0x8012 0 * 1000000 ≤ now → (lotAt s (ctrl.val / 8)).fenceable = true →
         ∃ u, exec (.qcStall t ctrl) s = .next u ∧ standing u ∧ (lotAt u (ctrl.val / 8)).state = .fenced ∧
           (lotAt u (ctrl.val / 8)).cause = 0x8002 ∧ streamsAt u ctrl.val = [] ∧ fifoAt u ctrl.val = [] ∧
           Counted 0x8050 4 1 s u ∧ (∀ l, l ≠ ctrl.val / 8 → lotAt u l = lotAt s l)) ∧
       (now < y.since + objAt s 0x8012 0 * 1000000 → exec (.qcStall t ctrl) s = .next { s with now := now })))

/-- TEST_LOGIC_RESET, BYPASS, IDCODE, SAMPLE_PRELOAD, EXTEST, CFG_STATUS, CFG_READBACK (R960 to R965, R981, R982). -/
def Obligations.TestPortAnswers : Prop :=
  ∀ (t : Nat) (ext : Bool) (s : State),
    let now := max s.now t
    let others (u : State) (n code : Nat) : Prop := irAt u n = code ∧ (∀ m, m ≠ n → irAt u m = irAt s m) ∧
      (∀ l, lotAt u l = lotAt s l) ∧
      u = { s with
        now := now, outbox := u.outbox, freeCount := u.freeCount
        fab := { s.fab with ir := u.fab.ir, chips := u.fab.chips, pkgBoundary := u.fab.pkgBoundary } }
    let boundary (u : State) (tap : Nat) : Nat := if tap = 0 then u.fab.pkgBoundary else (chipAt u (tap - 1)).boundary
    (chainDriven s ext = false → ∀ (tap : Fin 5) (chip : Fin 4) (a b code : Nat) (ws : List Nat),
      ∀ c ∈ [Instr.testLogicReset t ext, .bypass t ext tap code, .idcode t ext tap, .samplePreload t ext tap a b,
        .extest t ext tap a b, .cfgLoad t ext chip ws, .cfgStatus t ext chip, .cfgReadback t ext chip a],
      exec c s = .next { s with now := now }) ∧
    (chainDriven s ext = true →
      (∃ u, exec (.testLogicReset t ext) s = .next u ∧ (∀ n, irAt u n = 1) ∧
        (∀ c, c < 4 → (chipAt u c).extest = false ∧ (chipAt u c).engine ≠ .receiving) ∧ u.prog = s.prog ∧
        u.tiles = s.tiles ∧ u.life = s.life ∧ u.coll = s.coll ∧ u.links = s.links ∧ u.junc = s.junc) ∧
      (∀ tap : Fin 5, (tap.val = 0 ∨ (chipAt s (tap.val - 1)).engine ≠ .receiving) →
        (∀ code, ∃ u, exec (.bypass t ext tap code) s = .next u ∧ others u tap.val (code % 256) ∧
          u.outbox = s.outbox ++ [.tap 0]) ∧
        (∃ u, exec (.idcode t ext tap) s = .next u ∧ others u tap.val 1 ∧
          u.outbox = s.outbox ++ [.tap (if tap.val = 0 then 0x18640A3D else 0x1864BA3D)]) ∧
        (∀ pins v, ∃ u, exec (.samplePreload t ext tap pins v) s = .next u ∧ others u tap.val 2 ∧
          u.outbox = s.outbox ++ [.tap (pins % 2 ^ boundaryCells tap.val)] ∧
          boundary u tap.val = v % 2 ^ boundaryCells tap.val) ∧
        (∀ pins v, ∃ u, exec (.extest t ext tap pins v) s = .next u ∧ others u tap.val 0 ∧
          (extestAllowed s tap.val = true → u.outbox = s.outbox ++ [.tap (pins % 2 ^ boundaryCells tap.val)] ∧
            boundary u tap.val = v % 2 ^ boundaryCells tap.val ∧
            (tap.val ≠ 0 → (chipAt u (tap.val - 1)).extest = true)) ∧
          (extestAllowed s tap.val = false → u.outbox = s.outbox ++ [.tap 0] ∧
            (tap.val ≠ 0 → (chipAt u (tap.val - 1)).extest = false)))) ∧
      (∀ chip : Fin 4, (∃ u, exec (.cfgStatus t ext chip) s = .next u ∧ others u (chip.val + 1) 0x21 ∧
          u.outbox = s.outbox ++ [.tap (cfgStatus s chip.val)]) ∧
        (∀ sel, (chipAt s chip.val).engine ≠ .receiving → ∃ u, exec (.cfgReadback t ext chip sel) s = .next u ∧
          others u (chip.val + 1) 0x22 ∧
          (objAt s 0x8814 0 ≠ 1 → u.outbox = s.outbox ++ [.tap 0]) ∧
          (objAt s 0x8814 0 = 1 → (chipAt u chip.val).readSel = sel % 2 ^ 32 ∧
            ((chipAt s chip.val).readSel % 4096 < 3616 →
              u.outbox = s.outbox ++ [.tap (readbackValue s chip.val (chipAt s chip.val).readSel)])))))

/-- CFG_LOAD, SECTION_VERIFY_COMPLETE, FULL_LOAD_COMPLETE, DEFERRED_LOT_COMMAND (R968, R977 to R990, R1009). -/
def Obligations.LoadsComplete : Prop :=
  ∀ (t : Nat) (chip : Fin 4) (s : State), packageRuns s = true → dropping s = false →
    let now := max s.now t
    let c := chip.val
    let x := chipAt s c
    let standing (u : State) : Prop := u.prog = s.prog ∧ u.tiles = s.tiles ∧ u.life = s.life ∧ u.coll = s.coll ∧
      u.links = s.links ∧ u.pins = s.pins ∧ u.sweep = s.sweep ∧ u.net = s.net ∧ u.junc = s.junc
    (∀ ws ext, s.sweep.cleared = true → ext = s.fab.external → ∃ u, exec (.cfgLoad t ext chip ws) s = .next u ∧
      irAt u (c + 1) = 0x20 ∧ u.outbox = s.outbox ++ [.tap 0] ∧ (∀ l, lotAt u l = lotAt s l) ∧
      u = { s with now := now, outbox := u.outbox, fab := { s.fab with ir := u.fab.ir, chips := u.fab.chips } } ∧
      (chipAt u c).engine = x.engine ∧ (chipAt u c).header = x.header) ∧
    (∀ ws : List Nat, s.sweep.cleared = false → s.fab.external = true → (x.engine = .idle ∨ x.engine = .done) → ws.length = 16 →
      let lot := 4 * c + ws.getD 2 0 % 4
      (headerError s c none ws = 0 → ∃ u, exec (.cfgLoad t true chip ws) s = .next u ∧ standing u ∧
        (chipAt u c).engine = .receiving ∧ (chipAt u c).target = ws.getD 2 0 % 4 ∧ (chipAt u c).header = ws ∧
        (chipAt u c).frames = 0 ∧ lotAt u lot = { lotAt s lot with state := .loading, claims := 0, lanes := 0, lanesTx := 0 } ∧
        (∀ l, l ≠ lot → lotAt u l = lotAt s l) ∧ u.outbox = s.outbox ++ [.tap 0] ∧ irAt u (c + 1) = 0x20) ∧
      (headerError s c none ws ≠ 0 → ∃ u, exec (.cfgLoad t true chip ws) s = .next u ∧ standing u ∧
        (chipAt u c).engine = .error ∧ (chipAt u c).err = headerError s c none ws ∧ Counted 0x8840 2 1 s u)) ∧
    (∀ l rest, s.sweep.cleared = false → s.fab.external = false → s.fab.jobs = l :: rest → l / 4 = c → x.engine ≠ .receiving → x.engine ≠ .verifying →
      tabGet [] l s.fab.store = [] → ∀ ws, ∃ u, exec (.cfgLoad t false chip ws) s = .next u ∧ standing u ∧
        (chipAt u c).engine = .verifying ∧ (chipAt u c).target = l % 4 ∧ (chipAt u c).header = [] ∧ u.fab.jobs = s.fab.jobs ∧
        (∀ k, lotAt u k = lotAt s k)) ∧
    (x.engine = .verifying →
      let lot := 4 * c + x.target
      (sectionVerifies s c lot = false → ∃ u, exec (.sectionVerifyComplete t chip) s = .next u ∧ standing u ∧
        (chipAt u c).engine = .error ∧ (chipAt u c).err = 0x0A ∧ Counted 0x8840 2 1 s u) ∧
      (sectionVerifies s c lot = true → ∃ u, exec (.sectionVerifyComplete t chip) s = .next u ∧ standing u ∧
        (chipAt u c).engine = .done ∧ Counted 0x8840 1 1 s u ∧ (∀ l, l ≠ lot → lotAt u l = lotAt s l) ∧
        (x.external = true ∨ s.fab.full = true →
          (x.header.getD 3 0 = 0 → (lotAt u lot).state = .clear ∧ (lotAt u lot).config = []) ∧
          (x.header.getD 3 0 ≠ 0 → (lotAt u lot).state = .held ∧ (lotAt u lot).hold = bit (x.header.getD 2 0) 4 ∧
            (lotAt u lot).config = (lotAt s lot).config)) ∧
        u.fab.jobs = (if x.external then s.fab.jobs else s.fab.jobs.tail))) ∧
    (s.fab.full = true → s.fab.jobs = [] → ∃ u, exec (.fullLoadComplete t) s = .next u ∧ u.fab.full = false ∧
      (∀ l, l < 16 → (lotAt s l).state = .held →
        (lotAt s l).hold = true ∧ (lotAt u l).state = .held ∨
        (lotAt s l).hold = false ∧ (lotAt u l).state = (if (chipAt s (l / 4)).suspect then .unwatched else .inService)) ∧
      (∀ l, (lotAt s l).state ≠ .held → lotAt u l = lotAt s l) ∧
      u = { s with
        now := now, fab := { s.fab with lots := u.fab.lots, full := false }
        kiosk := { s.kiosk with counters := u.kiosk.counters } }) ∧
    (s.fab.fullWaits = true → fullLoadFree s = true → ∃ u, exec (.deferredLotCommand t) s = .next u ∧ standing u ∧
      u.fab.full = true ∧ u.fab.fullWaits = false ∧ u.fab.cfgErr = false ∧ u.fab.jobs = List.range 16 ∧
      (∀ l, l < 16 → (lotAt u l).state = .loading) ∧ (∀ k, k < 4 → (chipAt u k).suspect = false)) ∧
    (∀ l, s.fab.fullWaits = false → l < 16 → (lotAt s l).cmd = 2 → (lotAt s l).policyReload = false →
      (lotAt s l).serves = true → layerUsesLot s l = false → (l, lotAt s l) ∈ s.fab.lots →
      ∃ u, exec (.deferredLotCommand t) s = .next u ∧ standing u ∧ (lotAt u l).state = .held ∧ (lotAt u l).cmd = 0 ∧
        (lotAt u l).config = (lotAt s l).config)

/-- SCRUB_PASS_START, SCRUB_FRAME_READ, VOTE_RESTORE (R996 to R1004). -/
def Obligations.ScrubbersWatch : Prop :=
  ∀ (t : Nat) (chip : Fin 4) (s : State), packageRuns s = true →
    let now := max s.now t
    let c := chip.val
    let x := chipAt s c
    let noted (u : State) : Prop := u = { s with
      now := now, fab := { s.fab with lots := u.fab.lots, chips := u.fab.chips }, contain := u.contain, kiosk := u.kiosk
      host := u.host, outbox := u.outbox }
    let suspected (u : State) : Prop := (chipAt u c).suspect = true ∧
      (∀ l, l / 4 = c → lotAt u l = { lotAt s l with
        state := if (lotAt s l).state = .inService then .unwatched else (lotAt s l).state }) ∧
      (∀ l, l / 4 ≠ c → lotAt u l = lotAt s l)
    (dropping s = false →
      ((∀ a, x.passAt = some a → a + 40000000 ≤ now) →
        (∃ u, exec (.scrubPassStart t chip true) s = .next u ∧ noted u ∧ Counted 0x8831 (c + 1) 1 s u ∧
          (∀ l, lotAt u l = lotAt s l) ∧ (∀ k, k ≠ c → chipAt u k = chipAt s k) ∧
          chipAt u c = { x with passAt := some now, passLots := (chipLots c).filter (scrubbed s), passFrame := 0 }) ∧
        (x.suspect = false → ∃ u, exec (.scrubPassStart t chip false) s = .next u ∧ noted u ∧ Counted 0x8840 9 1 s u ∧
          suspected u)) ∧
      (∀ a b, x.passAt = some a → now < a + 40000000 → exec (.scrubPassStart t chip b) s = .next { s with now := now }) ∧
      (∀ l rest, x.passLots = l :: rest → scrubbed s l = true → x.passFrame < 3328 →
        (frameMatches (lotAt s l) x.passFrame = true →
          ∃ u, exec (.scrubFrameRead t chip []) s = .next u ∧ noted u ∧ u.kiosk = s.kiosk ∧
            chipAt u c = { x with passFrame := x.passFrame + 1 } ∧ (∀ k, lotAt u k = lotAt s k) ∧
            ∀ k, k ≠ c → chipAt u k = chipAt s k) ∧
        (∀ i flipped, i < 4096 → x.suspect = false → objAt s 0x8813 (l + 1) ≠ 2 →
          frameMatches (lotAt s l) x.passFrame = true → frameSyndrome (lotAt s l) x.passFrame = 0 →
          flipped = flipBit l x.passFrame i s → frameMatches (lotAt flipped l) x.passFrame = false →
          ∃ u, exec (.scrubFrameRead t chip [i]) s = .next u ∧ noted u ∧ Counted 0x8840 3 1 s u ∧
            Counted 0x8841 (l + 1) 1 s u ∧ (∀ a, memGet (lotAt u l).config a = memGet (lotAt s l).config a) ∧
            (lotAt u l).state = (lotAt s l).state ∧ (∀ k, k ≠ l → lotAt u k = lotAt s k)))) ∧
    (dropping s = false → x.suspect = false →
      (∃ u, exec (.voteRestore t chip .goldenSingle) s = .next u ∧ Counted 0x8840 7 1 s u ∧
        u = { s with now := now, kiosk := { s.kiosk with counters := u.kiosk.counters } }) ∧
      (∃ u, exec (.voteRestore t chip .voteOne) s = .next u ∧ Counted 0x8840 8 1 s u ∧
        u = { s with now := now, kiosk := { s.kiosk with counters := u.kiosk.counters } }) ∧
      (∀ y ∈ [ScrubUpset.goldenDouble, .voteSplit],
        ∃ u, exec (.voteRestore t chip y) s = .next u ∧ noted u ∧ suspected u)) ∧
    (x.suspect = true → ∀ y, exec (.voteRestore t chip y) s = .next { s with now := now })

/-- SWEEP_SLOT, SWEEP_PHASE_COMPLETE, SWEEP_WINDOW_CHECK, SWEEP_DESCENT, SCAN_ENABLE, SWEEP_REPORT (R1011 to R1046). -/
def Obligations.SweepRuns : Prop :=
  ∀ (t : Nat) (east west : Int) (s : State),
    let now := max s.now t
    let w := s.sweep
    let abandoned (u : State) (cause : Nat) : Prop := u.sweep.outcome = 3 ∧ u.sweep.cause = cause ∧ u.sweep.phase = 0 ∧
      u.sweep.stage = .waitDescent ∧ u.sweep.verdict = w.verdict ∧ Counted 0x3120 3 1 s u ∧ u.life = s.life ∧ u.gov = s.gov
    (w.stage = .waitSlot → slotFired s = true →
      (skipCause s east west = 0 → ∃ u, exec (.sweepSlot t east west) s = .next u ∧ u.life.state = .sweep ∧
        u.life.since = now ∧ u.life.sweepDue = false ∧ u.sweep.stage = .ramping ∧ u.sweep.endEast = east ∧
        u.sweep.endWest = west ∧ u.gov.fullDepth = false ∧ u.tiles = s.tiles ∧ slotFired u = false) ∧
      (skipCause s east west ≠ 0 → ∃ u, exec (.sweepSlot t east west) s = .next u ∧ u.sweep.outcome = 2 ∧
        u.sweep.cause = skipCause s east west ∧ u.sweep.stage = .idle ∧ Counted 0x3120 2 1 s u ∧
        u.life.state = s.life.state ∧ u.life.descent = .toOff ∧ u.gov.fullDepth = true ∧ slotFired u = false)) ∧
    (w.stage ≠ .waitSlot ∨ slotFired s = false → exec (.sweepSlot t east west) s = .next { s with now := now }) ∧
    (w.stage = .body → ∀ (res margin : TestResults) (ok : Bool),
      (w.phase = 1 → res.clear = false → exec (.sweepPhaseComplete t res ok margin) s =
        .next { s with now := now, sweep := { w with cleared := true, phase := 2 } }) ∧
      (w.phase = 1 → res.clear = true → ∃ u, exec (.sweepPhaseComplete t res ok margin) s = .next u ∧ abandoned u 5) ∧
      (∀ p, w.phase = p → 2 ≤ p → p ≤ 8 → (p = 3 ∨ p = 4 → s.gov.clock = 1800) →
        (p = 2 → ∃ c, c < 4 ∧ (utCore, c) ∉ w.failures ++ sweepFailures s 2 res margin) →
        ∃ u, exec (.sweepPhaseComplete t res ok margin) s = .next u ∧ u.sweep.stage = .body ∧ u.sweep.phase = p + 1 ∧
          u.sweep.failures = w.failures ++ sweepFailures s p res margin ∧ u.life = s.life ∧ u.gov = s.gov ∧ u.tiles = s.tiles ∧
          u.hbm = (if p = 5 then [] else s.hbm) ∧ u.cellar = (if p = 6 then [] else s.cellar)) ∧
      (w.phase = 2 → (∀ c, c < 4 → c ∈ res.cores) →
        ∃ u, exec (.sweepPhaseComplete t res ok margin) s = .next u ∧ abandoned u 7) ∧
      (w.phase = 9 → (∃ u, exec (.sweepPhaseComplete t res true margin) s = .next u ∧ verdictValid u.sweep.verdict = true ∧
          u.sweep.fresh = true ∧ u.sweep.stored = true ∧ u.sweep.outcome = 1 ∧ u.sweep.cause = 0 ∧
          u.sweep.stage = .waitDescent ∧ Counted 0x3120 1 1 s u ∧ Counted 0x3105 0 1 s u ∧ u.life = s.life ∧
          u.gov = s.gov ∧ (∀ n, bit u.contain.stackFences n = true → bit s.contain.stackFences n = true)) ∧
        (∃ u, exec (.sweepPhaseComplete t res false margin) s = .next u ∧ abandoned u 0x0B ∧ Counted 0x1110 8 1 s u))) ∧
    (w.stage = .body → w.checkedAt + 1000000 ≤ now →
      let good := tempsInWindow east west = true ∧ 48000 ≤ s.gov.mainMv ∧ s.gov.mainMv ≤ 58000
      (good → ∃ u, exec (.sweepWindowCheck t east west) s = .next u ∧ u = { s with
        now := now, sweep := { w with checkedAt := now, endEast := u.sweep.endEast, endWest := u.sweep.endWest } } ∧
        (w.phase ≤ 8 → u.sweep.endEast = east ∧ u.sweep.endWest = west)) ∧
      (¬ good → ∃ u, exec (.sweepWindowCheck t east west) s = .next u ∧ abandoned u 6)) ∧
    (w.stage = .waitDescent → slotFired s = true → ∃ u, exec (.sweepDescent t) s = .next u ∧ u.sweep.stage = .idle ∧
      u.sweep.verdict = w.verdict ∧ u.life = { s.life with descent := .toOff } ∧ u.gov.fullDepth = true ∧
      slotFired u = false ∧ ∀ n, (tileAt u n).works = false) ∧
    (w.stage ≠ .waitDescent ∨ slotFired s = false → exec (.sweepDescent t) s = .next { s with now := now }) ∧
    (∀ (ext : Bool) (tap : Fin 5) (v : Nat) (isolated : Bool), chainDriven s ext = true →
      (tap.val = 0 ∨ (chipAt s (tap.val - 1)).engine ≠ .receiving) →
      let open_ := s.life.state = .sweep ∧ w.cleared = true ∧ ext = false
      ∃ u, exec (.scanEnable t ext tap v isolated) s = .next u ∧ irAt u tap.val = 0x30 ∧
        (open_ → u.outbox = s.outbox ++ [.tap (scanControl s tap.val isolated)] ∧
          tabGet 0 tap.val u.sweep.domain = if isolated then bits v 15 8 else 0) ∧
        (¬ open_ → u.outbox = s.outbox ++ [.tap 0] ∧ u.sweep = w) ∧ u.life = s.life ∧ u.tiles = s.tiles ∧
        (∀ l, lotAt u l = lotAt s l)) ∧
    (∀ ext, chainDriven s ext = true → ∃ u, exec (.sweepReport t ext) s = .next u ∧ irAt u 0 = 0x31 ∧
      u.outbox = s.outbox ++ [.tap (leNat (padTo w.verdict 128))] ∧ u.sweep = w ∧ u.life = s.life ∧ u.tiles = s.tiles)

/-- LOG_COMMIT, REPEAT_WINDOW_END, STATION_WATCHDOG_EXPIRE, UNIT_WEDGED, BRIDGE_FAIL (R1059 to R1061, R1068 to R1070, R1083,
R1085). -/
def Obligations.FaultsContained : Prop :=
  ∀ (t : Nat) (s : State),
    let now := max s.now t
    let recordsOnly (u : State) : Prop :=
      u = { s with now := now, contain := u.contain, kiosk := u.kiosk, host := u.host, outbox := u.outbox }
    (s.life.state ≠ .absent → dropping s = false → s.contain.buffer ≠ [] →
      (s.contain.dropped = 0 → ∃ u, exec (.logCommit t true) s = .next u ∧ recordsOnly u ∧ u.contain.buffer = [] ∧
        Counted 0x1110 7 1 s u ∧ u.contain.windows = s.contain.windows ∧ u.contain.sequence = s.contain.sequence ∧
        (∀ r ∈ s.contain.buffer, s.contain.buffer.length ≤ 256 → r ∈ u.contain.errorLog ∨ r ∈ u.contain.eventLog)) ∧
      (∃ u more, exec (.logCommit t false) s = .next u ∧ recordsOnly u ∧ Counted 0x1110 8 1 s u ∧
        u.contain.buffer = s.contain.buffer ++ more ∧ u.contain.bufferSince = now ∧
        u.contain.errorLog = s.contain.errorLog ∧ u.contain.eventLog = s.contain.eventLog)) ∧
    (∀ w : RepeatWindow, s.contain.windows = [w] → w.start ≤ now → s.life.state ≠ .absent →
      let c := Instr.repeatWindowEnd t w.last.cause w.last.unitType w.last.unit
      (now < w.start + w.len → exec c s = .next { s with now := now }) ∧
      (w.start + w.len ≤ now → w.count = 0 →
        exec c s = .next { s with now := now, contain := { s.contain with windows := [] } }) ∧
      (w.start + w.len ≤ now → w.count ≠ 0 → s.contain.buffer.length < 64 → ∃ u r, exec c s = .next u ∧ recordsOnly u ∧
        u.contain.windows = [] ∧ u.contain.buffer = s.contain.buffer ++ [r] ∧ r.summary = true ∧
        r.repeats = min w.count 65535 ∧ r.cause = w.last.cause ∧ r.unit = w.last.unit ∧
        r.sequence = s.contain.sequence + 1)) ∧
    (∀ (core : Fin 4) (mc : Bool), let x : StationCore := tabGet {} core.val s.contain.cores
      s.kiosk.stationRunning = true → packageRuns s = true → dropping s = false → x.fenced = false →
      (mc = true ∨ x.beat + 1000000 * objAt s 0x9015 0 ≤ now →
        (∃ k, k < 4 ∧ k ≠ core.val ∧ (tabGet ({} : StationCore) k s.contain.cores).fenced = false) →
        ∃ u, exec (.stationWatchdogExpire t core mc) s = .next u ∧ recordsOnly u ∧
          tabGet {} core.val u.contain.cores = { x with fenced := true } ∧
          (∀ k, k ≠ core.val → tabGet ({} : StationCore) k u.contain.cores = tabGet {} k s.contain.cores)) ∧
      (mc = false → now < x.beat + 1000000 * objAt s 0x9015 0 →
        exec (.stationWatchdogExpire t core mc) s = .next { s with now := now })) ∧
    (packageRuns s = true → dropping s = false → ∀ (unit : WedgeUnit) (ns : Nat),
      (ns < 1000000 * objAt s 0x9014 0 → exec (.unitWedged t unit ns) s = .next { s with now := now }) ∧
      (∀ c, c = Instr.bridgeFail t ∨ c = Instr.unitWedged t unit ns ∧ 1000000 * objAt s 0x9014 0 ≤ ns →
        (fatalState s.life.state = false → ∃ u, exec c s = .next u ∧ recordsOnly u) ∧
        (fatalState s.life.state = true → objAt s 0x3022 0 ≠ 1 → ∃ u, exec c s = .next u ∧ u.life.state = .left ∧
          u.life.unfit = true ∧ u.life.lastCause = 0x3004 ∧ u.life.descent = .toOff ∧ u.life.sweepDue = false ∧
          u.gov.fullDepth = true ∧ (c = .bridgeFail t ∨ unit ≠ .host → u.prog = none) ∧ u.cellar = s.cellar ∧
          u.fab = s.fab ∧ u.pins = s.pins ∧ u.sweep.stage = .idle ∧ ∀ n, (tileAt u n).works = false)))

/-- REGISTER_WRITE to a context (R363). -/
def Obligations.ContextWritesIgnored : Prop :=
  ∀ (t off : Nat) (q : Fin 4096) (bs : List Byte) (s : State), off + bs.length ≤ 28 → (queueAt s q.val).state ≠ .disabled →
    0 < bs.length → exec (.registerWrite t (0x100000 + 64 * q.val + off) bs false) s = .next { s with now := max s.now t }

/-- BAR2_ACCESS outside HBM (R356). -/
def Obligations.Bar2BeyondHbm : Prop :=
  ∀ (off len b : Nat) (bs : List Byte) (s : State), hostReady s = true → s.host.windowBase * 2 ^ 30 + off ≤ b →
    b < s.host.windowBase * 2 ^ 30 + off + len →
    hbmSize s ≤ b ∨ bit s.contain.stackFences (unitOf s.tiers.hbmMap b) = true →
    (∃ u, exec (.bar2Access off len none) s = .next u ∧ Counted 0xA020 3 1 s u ∧
      u = { s with
        kiosk := { s.kiosk with counters := u.kiosk.counters }
        outbox := s.outbox ++ [.hostRead (List.replicate len 0xFF)] }) ∧
    (∃ u, exec (.bar2Access off len (some bs)) s = .next u ∧ Counted 0xA020 3 1 s u ∧
      u = { s with kiosk := { s.kiosk with counters := u.kiosk.counters } })

/-- The Roundabout's ranges, whatever command runs (R70, R86, R90, R102). -/
def Obligations.CountStaysInRange : Prop :=
  ∀ s : State, RoundaboutOk s → ∃ u, step s = .next u ∧ RoundaboutOk u

/-- The queue of waiting commands (log entries 3 and 4: the queue is the model's own). -/
def Obligations.StepRunsTheFront : Prop :=
  (∀ (c : Instr) (rest : List Instr) (s : State), step { s with pending := c :: rest } = exec c { s with pending := rest }) ∧
  (∀ s : State, s.pending = [] → step s = .next s)

/-- Every command completes (log entry 3). -/
def Obligations.CommandsNeverStop : Prop :=
  ∀ (c : Instr) (s : State), ∃ u, exec c s = .next u ∧ u.pending = s.pending ∧ s.now ≤ u.now

/-- The invariant of a run. -/
def Obligations.StepKeepsSound : Prop :=
  ∀ s : State, Sound s → ∃ u, step s = .next u ∧ Sound u

/-- The invariant's start (log entry 1). -/
def Obligations.ResetIsSound : Prop := Sound State.reset ∧ State.reset.pending = []
end

