-- ==== Sys2Proof/Laws/State.lean ====
section
/-! SUPPORT. The fields of the state: what each update of one unit changes, and that it changes nothing else. -/

namespace Sys2Proof.Machine

@[simp] theorem State.modRb_fields (f : Roundabout → Roundabout) (s : State) :
    (s.modRb f).rb = f s.rb ∧ (s.modRb f).now = s.now ∧ (s.modRb f).pins = s.pins ∧ (s.modRb f).gov = s.gov ∧
    (s.modRb f).life = s.life ∧ (s.modRb f).contain = s.contain ∧ (s.modRb f).kiosk = s.kiosk ∧
    (s.modRb f).net = s.net ∧ (s.modRb f).host = s.host ∧ (s.modRb f).tiles = s.tiles ∧ (s.modRb f).tiers = s.tiers ∧
    (s.modRb f).prog = s.prog ∧ (s.modRb f).links = s.links ∧ (s.modRb f).coll = s.coll ∧ (s.modRb f).junc = s.junc ∧
    (s.modRb f).fab = s.fab ∧ (s.modRb f).sweep = s.sweep ∧ (s.modRb f).hostMem = s.hostMem ∧
    (s.modRb f).hbm = s.hbm ∧ (s.modRb f).cellar = s.cellar ∧ (s.modRb f).outbox = s.outbox ∧
    (s.modRb f).freeCount = s.freeCount ∧ (s.modRb f).pending = s.pending := by
  simp [State.modRb]

@[simp] theorem State.modGov_fields (f : Governor → Governor) (s : State) :
    (s.modGov f).gov = f s.gov ∧ (s.modGov f).now = s.now ∧ (s.modGov f).pins = s.pins ∧ (s.modGov f).rb = s.rb ∧
    (s.modGov f).life = s.life ∧ (s.modGov f).contain = s.contain ∧ (s.modGov f).kiosk = s.kiosk ∧
    (s.modGov f).net = s.net ∧ (s.modGov f).host = s.host ∧ (s.modGov f).tiles = s.tiles ∧
    (s.modGov f).tiers = s.tiers ∧ (s.modGov f).prog = s.prog ∧ (s.modGov f).links = s.links ∧
    (s.modGov f).coll = s.coll ∧ (s.modGov f).junc = s.junc ∧ (s.modGov f).fab = s.fab ∧
    (s.modGov f).sweep = s.sweep ∧ (s.modGov f).hostMem = s.hostMem ∧ (s.modGov f).hbm = s.hbm ∧
    (s.modGov f).cellar = s.cellar ∧ (s.modGov f).outbox = s.outbox ∧ (s.modGov f).freeCount = s.freeCount ∧
    (s.modGov f).pending = s.pending := by
  simp [State.modGov]

@[simp] theorem State.modLife_fields (f : Life → Life) (s : State) :
    (s.modLife f).life = f s.life ∧ (s.modLife f).now = s.now ∧ (s.modLife f).pins = s.pins ∧
    (s.modLife f).rb = s.rb ∧ (s.modLife f).gov = s.gov ∧ (s.modLife f).contain = s.contain ∧
    (s.modLife f).kiosk = s.kiosk ∧ (s.modLife f).net = s.net ∧ (s.modLife f).host = s.host ∧
    (s.modLife f).tiles = s.tiles ∧ (s.modLife f).tiers = s.tiers ∧ (s.modLife f).prog = s.prog ∧
    (s.modLife f).links = s.links ∧ (s.modLife f).coll = s.coll ∧ (s.modLife f).junc = s.junc ∧
    (s.modLife f).fab = s.fab ∧ (s.modLife f).sweep = s.sweep ∧ (s.modLife f).hostMem = s.hostMem ∧
    (s.modLife f).hbm = s.hbm ∧ (s.modLife f).cellar = s.cellar ∧ (s.modLife f).outbox = s.outbox ∧
    (s.modLife f).freeCount = s.freeCount ∧ (s.modLife f).pending = s.pending := by
  simp [State.modLife]

@[simp] theorem State.modPins_fields (f : Pins → Pins) (s : State) :
    (s.modPins f).pins = f s.pins ∧ (s.modPins f).now = s.now ∧ (s.modPins f).rb = s.rb ∧ (s.modPins f).gov = s.gov ∧
    (s.modPins f).life = s.life ∧ (s.modPins f).contain = s.contain ∧ (s.modPins f).kiosk = s.kiosk ∧
    (s.modPins f).net = s.net ∧ (s.modPins f).host = s.host ∧ (s.modPins f).tiles = s.tiles ∧
    (s.modPins f).tiers = s.tiers ∧ (s.modPins f).prog = s.prog ∧ (s.modPins f).links = s.links ∧
    (s.modPins f).coll = s.coll ∧ (s.modPins f).junc = s.junc ∧ (s.modPins f).fab = s.fab ∧
    (s.modPins f).sweep = s.sweep ∧ (s.modPins f).hostMem = s.hostMem ∧ (s.modPins f).hbm = s.hbm ∧
    (s.modPins f).cellar = s.cellar ∧ (s.modPins f).outbox = s.outbox ∧ (s.modPins f).freeCount = s.freeCount ∧
    (s.modPins f).pending = s.pending := by
  simp [State.modPins]

@[simp] theorem State.modContain_fields (f : Contain → Contain) (s : State) :
    (s.modContain f).contain = f s.contain ∧ (s.modContain f).now = s.now ∧ (s.modContain f).pins = s.pins ∧
    (s.modContain f).rb = s.rb ∧ (s.modContain f).gov = s.gov ∧ (s.modContain f).life = s.life ∧
    (s.modContain f).kiosk = s.kiosk ∧ (s.modContain f).net = s.net ∧ (s.modContain f).host = s.host ∧
    (s.modContain f).tiles = s.tiles ∧ (s.modContain f).tiers = s.tiers ∧ (s.modContain f).prog = s.prog ∧
    (s.modContain f).links = s.links ∧ (s.modContain f).coll = s.coll ∧ (s.modContain f).junc = s.junc ∧
    (s.modContain f).fab = s.fab ∧ (s.modContain f).sweep = s.sweep ∧ (s.modContain f).hostMem = s.hostMem ∧
    (s.modContain f).hbm = s.hbm ∧ (s.modContain f).cellar = s.cellar ∧ (s.modContain f).outbox = s.outbox ∧
    (s.modContain f).freeCount = s.freeCount ∧ (s.modContain f).pending = s.pending := by
  simp [State.modContain]

@[simp] theorem State.modKiosk_fields (f : Kiosk → Kiosk) (s : State) :
    (s.modKiosk f).kiosk = f s.kiosk ∧ (s.modKiosk f).now = s.now ∧ (s.modKiosk f).pins = s.pins ∧
    (s.modKiosk f).rb = s.rb ∧ (s.modKiosk f).gov = s.gov ∧ (s.modKiosk f).life = s.life ∧
    (s.modKiosk f).contain = s.contain ∧ (s.modKiosk f).net = s.net ∧ (s.modKiosk f).host = s.host ∧
    (s.modKiosk f).tiles = s.tiles ∧ (s.modKiosk f).tiers = s.tiers ∧ (s.modKiosk f).prog = s.prog ∧
    (s.modKiosk f).links = s.links ∧ (s.modKiosk f).coll = s.coll ∧ (s.modKiosk f).junc = s.junc ∧
    (s.modKiosk f).fab = s.fab ∧ (s.modKiosk f).sweep = s.sweep ∧ (s.modKiosk f).hostMem = s.hostMem ∧
    (s.modKiosk f).hbm = s.hbm ∧ (s.modKiosk f).cellar = s.cellar ∧ (s.modKiosk f).outbox = s.outbox ∧
    (s.modKiosk f).freeCount = s.freeCount ∧ (s.modKiosk f).pending = s.pending := by
  simp [State.modKiosk]

@[simp] theorem State.modNet_fields (f : Net → Net) (s : State) :
    (s.modNet f).net = f s.net ∧ (s.modNet f).now = s.now ∧ (s.modNet f).pins = s.pins ∧ (s.modNet f).rb = s.rb ∧
    (s.modNet f).gov = s.gov ∧ (s.modNet f).life = s.life ∧ (s.modNet f).contain = s.contain ∧
    (s.modNet f).kiosk = s.kiosk ∧ (s.modNet f).host = s.host ∧ (s.modNet f).tiles = s.tiles ∧
    (s.modNet f).tiers = s.tiers ∧ (s.modNet f).prog = s.prog ∧ (s.modNet f).links = s.links ∧
    (s.modNet f).coll = s.coll ∧ (s.modNet f).junc = s.junc ∧ (s.modNet f).fab = s.fab ∧
    (s.modNet f).sweep = s.sweep ∧ (s.modNet f).hostMem = s.hostMem ∧ (s.modNet f).hbm = s.hbm ∧
    (s.modNet f).cellar = s.cellar ∧ (s.modNet f).outbox = s.outbox ∧ (s.modNet f).freeCount = s.freeCount ∧
    (s.modNet f).pending = s.pending := by
  simp [State.modNet]

@[simp] theorem State.modHost_fields (f : HostIf → HostIf) (s : State) :
    (s.modHost f).host = f s.host ∧ (s.modHost f).now = s.now ∧ (s.modHost f).pins = s.pins ∧
    (s.modHost f).rb = s.rb ∧ (s.modHost f).gov = s.gov ∧ (s.modHost f).life = s.life ∧
    (s.modHost f).contain = s.contain ∧ (s.modHost f).kiosk = s.kiosk ∧ (s.modHost f).net = s.net ∧
    (s.modHost f).tiles = s.tiles ∧ (s.modHost f).tiers = s.tiers ∧ (s.modHost f).prog = s.prog ∧
    (s.modHost f).links = s.links ∧ (s.modHost f).coll = s.coll ∧ (s.modHost f).junc = s.junc ∧
    (s.modHost f).fab = s.fab ∧ (s.modHost f).sweep = s.sweep ∧ (s.modHost f).hostMem = s.hostMem ∧
    (s.modHost f).hbm = s.hbm ∧ (s.modHost f).cellar = s.cellar ∧ (s.modHost f).outbox = s.outbox ∧
    (s.modHost f).freeCount = s.freeCount ∧ (s.modHost f).pending = s.pending := by
  simp [State.modHost]

@[simp] theorem State.modLinks_fields (f : Links → Links) (s : State) :
    (s.modLinks f).links = f s.links ∧ (s.modLinks f).now = s.now ∧ (s.modLinks f).pins = s.pins ∧
    (s.modLinks f).rb = s.rb ∧ (s.modLinks f).gov = s.gov ∧ (s.modLinks f).life = s.life ∧
    (s.modLinks f).contain = s.contain ∧ (s.modLinks f).kiosk = s.kiosk ∧ (s.modLinks f).net = s.net ∧
    (s.modLinks f).host = s.host ∧ (s.modLinks f).tiles = s.tiles ∧ (s.modLinks f).tiers = s.tiers ∧
    (s.modLinks f).prog = s.prog ∧ (s.modLinks f).coll = s.coll ∧ (s.modLinks f).junc = s.junc ∧
    (s.modLinks f).fab = s.fab ∧ (s.modLinks f).sweep = s.sweep ∧ (s.modLinks f).hostMem = s.hostMem ∧
    (s.modLinks f).hbm = s.hbm ∧ (s.modLinks f).cellar = s.cellar ∧ (s.modLinks f).outbox = s.outbox ∧
    (s.modLinks f).freeCount = s.freeCount ∧ (s.modLinks f).pending = s.pending := by
  simp [State.modLinks]

@[simp] theorem State.modColl_fields (f : Coll → Coll) (s : State) :
    (s.modColl f).coll = f s.coll ∧ (s.modColl f).now = s.now ∧ (s.modColl f).pins = s.pins ∧
    (s.modColl f).rb = s.rb ∧ (s.modColl f).gov = s.gov ∧ (s.modColl f).life = s.life ∧
    (s.modColl f).contain = s.contain ∧ (s.modColl f).kiosk = s.kiosk ∧ (s.modColl f).net = s.net ∧
    (s.modColl f).host = s.host ∧ (s.modColl f).tiles = s.tiles ∧ (s.modColl f).tiers = s.tiers ∧
    (s.modColl f).prog = s.prog ∧ (s.modColl f).links = s.links ∧ (s.modColl f).junc = s.junc ∧
    (s.modColl f).fab = s.fab ∧ (s.modColl f).sweep = s.sweep ∧ (s.modColl f).hostMem = s.hostMem ∧
    (s.modColl f).hbm = s.hbm ∧ (s.modColl f).cellar = s.cellar ∧ (s.modColl f).outbox = s.outbox ∧
    (s.modColl f).freeCount = s.freeCount ∧ (s.modColl f).pending = s.pending := by
  simp [State.modColl]

@[simp] theorem State.modTiers_fields (f : Tiers → Tiers) (s : State) :
    (s.modTiers f).tiers = f s.tiers ∧ (s.modTiers f).now = s.now ∧ (s.modTiers f).pins = s.pins ∧
    (s.modTiers f).rb = s.rb ∧ (s.modTiers f).gov = s.gov ∧ (s.modTiers f).life = s.life ∧
    (s.modTiers f).contain = s.contain ∧ (s.modTiers f).kiosk = s.kiosk ∧ (s.modTiers f).net = s.net ∧
    (s.modTiers f).host = s.host ∧ (s.modTiers f).tiles = s.tiles ∧ (s.modTiers f).prog = s.prog ∧
    (s.modTiers f).links = s.links ∧ (s.modTiers f).coll = s.coll ∧ (s.modTiers f).junc = s.junc ∧
    (s.modTiers f).fab = s.fab ∧ (s.modTiers f).sweep = s.sweep ∧ (s.modTiers f).hostMem = s.hostMem ∧
    (s.modTiers f).hbm = s.hbm ∧ (s.modTiers f).cellar = s.cellar ∧ (s.modTiers f).outbox = s.outbox ∧
    (s.modTiers f).freeCount = s.freeCount ∧ (s.modTiers f).pending = s.pending := by
  simp [State.modTiers]

@[simp] theorem State.modJunc_fields (f : Junction → Junction) (s : State) :
    (s.modJunc f).junc = f s.junc ∧ (s.modJunc f).now = s.now ∧ (s.modJunc f).pins = s.pins ∧
    (s.modJunc f).rb = s.rb ∧ (s.modJunc f).gov = s.gov ∧ (s.modJunc f).life = s.life ∧
    (s.modJunc f).contain = s.contain ∧ (s.modJunc f).kiosk = s.kiosk ∧ (s.modJunc f).net = s.net ∧
    (s.modJunc f).host = s.host ∧ (s.modJunc f).tiles = s.tiles ∧ (s.modJunc f).tiers = s.tiers ∧
    (s.modJunc f).prog = s.prog ∧ (s.modJunc f).links = s.links ∧ (s.modJunc f).coll = s.coll ∧
    (s.modJunc f).fab = s.fab ∧ (s.modJunc f).sweep = s.sweep ∧ (s.modJunc f).hostMem = s.hostMem ∧
    (s.modJunc f).hbm = s.hbm ∧ (s.modJunc f).cellar = s.cellar ∧ (s.modJunc f).outbox = s.outbox ∧
    (s.modJunc f).freeCount = s.freeCount ∧ (s.modJunc f).pending = s.pending := by
  simp [State.modJunc]

@[simp] theorem State.modFab_fields (f : Fabric → Fabric) (s : State) :
    (s.modFab f).fab = f s.fab ∧ (s.modFab f).now = s.now ∧ (s.modFab f).pins = s.pins ∧ (s.modFab f).rb = s.rb ∧
    (s.modFab f).gov = s.gov ∧ (s.modFab f).life = s.life ∧ (s.modFab f).contain = s.contain ∧
    (s.modFab f).kiosk = s.kiosk ∧ (s.modFab f).net = s.net ∧ (s.modFab f).host = s.host ∧
    (s.modFab f).tiles = s.tiles ∧ (s.modFab f).tiers = s.tiers ∧ (s.modFab f).prog = s.prog ∧
    (s.modFab f).links = s.links ∧ (s.modFab f).coll = s.coll ∧ (s.modFab f).junc = s.junc ∧
    (s.modFab f).sweep = s.sweep ∧ (s.modFab f).hostMem = s.hostMem ∧ (s.modFab f).hbm = s.hbm ∧
    (s.modFab f).cellar = s.cellar ∧ (s.modFab f).outbox = s.outbox ∧ (s.modFab f).freeCount = s.freeCount ∧
    (s.modFab f).pending = s.pending := by
  simp [State.modFab]

@[simp] theorem State.modSweep_fields (f : Sweep → Sweep) (s : State) :
    (s.modSweep f).sweep = f s.sweep ∧ (s.modSweep f).now = s.now ∧ (s.modSweep f).pins = s.pins ∧
    (s.modSweep f).rb = s.rb ∧ (s.modSweep f).gov = s.gov ∧ (s.modSweep f).life = s.life ∧
    (s.modSweep f).contain = s.contain ∧ (s.modSweep f).kiosk = s.kiosk ∧ (s.modSweep f).net = s.net ∧
    (s.modSweep f).host = s.host ∧ (s.modSweep f).tiles = s.tiles ∧ (s.modSweep f).tiers = s.tiers ∧
    (s.modSweep f).prog = s.prog ∧ (s.modSweep f).links = s.links ∧ (s.modSweep f).coll = s.coll ∧
    (s.modSweep f).junc = s.junc ∧ (s.modSweep f).fab = s.fab ∧ (s.modSweep f).hostMem = s.hostMem ∧
    (s.modSweep f).hbm = s.hbm ∧ (s.modSweep f).cellar = s.cellar ∧ (s.modSweep f).outbox = s.outbox ∧
    (s.modSweep f).freeCount = s.freeCount ∧ (s.modSweep f).pending = s.pending := by
  simp [State.modSweep]

@[simp] theorem clockTo_fields (t : Nat) (s : State) :
    (clockTo t s).now = max s.now t ∧ (clockTo t s).pins = s.pins ∧ (clockTo t s).rb = s.rb ∧
    (clockTo t s).gov = s.gov ∧ (clockTo t s).life = s.life ∧ (clockTo t s).contain = s.contain ∧
    (clockTo t s).kiosk = s.kiosk ∧ (clockTo t s).net = s.net ∧ (clockTo t s).host = s.host ∧
    (clockTo t s).tiles = s.tiles ∧ (clockTo t s).tiers = s.tiers ∧ (clockTo t s).prog = s.prog ∧
    (clockTo t s).links = s.links ∧ (clockTo t s).coll = s.coll ∧ (clockTo t s).junc = s.junc ∧
    (clockTo t s).fab = s.fab ∧ (clockTo t s).sweep = s.sweep ∧ (clockTo t s).hostMem = s.hostMem ∧
    (clockTo t s).hbm = s.hbm ∧ (clockTo t s).cellar = s.cellar ∧ (clockTo t s).outbox = s.outbox ∧
    (clockTo t s).freeCount = s.freeCount ∧ (clockTo t s).pending = s.pending := by
  simp [clockTo]

@[simp] theorem emit_fields (e : Emission) (s : State) :
    (emit e s).outbox = s.outbox ++ [e] ∧ (emit e s).now = s.now ∧ (emit e s).pins = s.pins ∧ (emit e s).rb = s.rb ∧
    (emit e s).gov = s.gov ∧ (emit e s).life = s.life ∧ (emit e s).contain = s.contain ∧ (emit e s).kiosk = s.kiosk ∧
    (emit e s).net = s.net ∧ (emit e s).host = s.host ∧ (emit e s).tiles = s.tiles ∧ (emit e s).tiers = s.tiers ∧
    (emit e s).prog = s.prog ∧ (emit e s).links = s.links ∧ (emit e s).coll = s.coll ∧ (emit e s).junc = s.junc ∧
    (emit e s).fab = s.fab ∧ (emit e s).sweep = s.sweep ∧ (emit e s).hostMem = s.hostMem ∧ (emit e s).hbm = s.hbm ∧
    (emit e s).cellar = s.cellar ∧ (emit e s).freeCount = s.freeCount ∧ (emit e s).pending = s.pending := by
  simp [emit]

/-- Only the kiosk's tables change. -/
@[simp] theorem setObj_fields (idx sub v : Nat) (s : State) :
    (setObj idx sub v s).now = s.now ∧ (setObj idx sub v s).pins = s.pins ∧ (setObj idx sub v s).rb = s.rb ∧
    (setObj idx sub v s).gov = s.gov ∧ (setObj idx sub v s).life = s.life ∧
    (setObj idx sub v s).contain = s.contain ∧ (setObj idx sub v s).net = s.net ∧
    (setObj idx sub v s).host = s.host ∧ (setObj idx sub v s).tiles = s.tiles ∧
    (setObj idx sub v s).tiers = s.tiers ∧ (setObj idx sub v s).prog = s.prog ∧
    (setObj idx sub v s).links = s.links ∧ (setObj idx sub v s).coll = s.coll ∧ (setObj idx sub v s).junc = s.junc ∧
    (setObj idx sub v s).fab = s.fab ∧ (setObj idx sub v s).sweep = s.sweep ∧
    (setObj idx sub v s).hostMem = s.hostMem ∧ (setObj idx sub v s).hbm = s.hbm ∧
    (setObj idx sub v s).cellar = s.cellar ∧ (setObj idx sub v s).outbox = s.outbox ∧
    (setObj idx sub v s).freeCount = s.freeCount ∧ (setObj idx sub v s).pending = s.pending := by
  simp [setObj]

/-- Only the kiosk's tables change. -/
@[simp] theorem setCounter_fields (idx sub v : Nat) (s : State) :
    (setCounter idx sub v s).now = s.now ∧ (setCounter idx sub v s).pins = s.pins ∧
    (setCounter idx sub v s).rb = s.rb ∧ (setCounter idx sub v s).gov = s.gov ∧
    (setCounter idx sub v s).life = s.life ∧ (setCounter idx sub v s).contain = s.contain ∧
    (setCounter idx sub v s).net = s.net ∧ (setCounter idx sub v s).host = s.host ∧
    (setCounter idx sub v s).tiles = s.tiles ∧ (setCounter idx sub v s).tiers = s.tiers ∧
    (setCounter idx sub v s).prog = s.prog ∧ (setCounter idx sub v s).links = s.links ∧
    (setCounter idx sub v s).coll = s.coll ∧ (setCounter idx sub v s).junc = s.junc ∧
    (setCounter idx sub v s).fab = s.fab ∧ (setCounter idx sub v s).sweep = s.sweep ∧
    (setCounter idx sub v s).hostMem = s.hostMem ∧ (setCounter idx sub v s).hbm = s.hbm ∧
    (setCounter idx sub v s).cellar = s.cellar ∧ (setCounter idx sub v s).outbox = s.outbox ∧
    (setCounter idx sub v s).freeCount = s.freeCount ∧ (setCounter idx sub v s).pending = s.pending := by
  simp [setCounter]

/-- Only the kiosk's tables change. -/
@[simp] theorem setStr_fields (idx sub : Nat) (v : List Byte) (s : State) :
    (setStr idx sub v s).now = s.now ∧ (setStr idx sub v s).pins = s.pins ∧ (setStr idx sub v s).rb = s.rb ∧
    (setStr idx sub v s).gov = s.gov ∧ (setStr idx sub v s).life = s.life ∧
    (setStr idx sub v s).contain = s.contain ∧ (setStr idx sub v s).net = s.net ∧
    (setStr idx sub v s).host = s.host ∧ (setStr idx sub v s).tiles = s.tiles ∧
    (setStr idx sub v s).tiers = s.tiers ∧ (setStr idx sub v s).prog = s.prog ∧
    (setStr idx sub v s).links = s.links ∧ (setStr idx sub v s).coll = s.coll ∧ (setStr idx sub v s).junc = s.junc ∧
    (setStr idx sub v s).fab = s.fab ∧ (setStr idx sub v s).sweep = s.sweep ∧
    (setStr idx sub v s).hostMem = s.hostMem ∧ (setStr idx sub v s).hbm = s.hbm ∧
    (setStr idx sub v s).cellar = s.cellar ∧ (setStr idx sub v s).outbox = s.outbox ∧
    (setStr idx sub v s).freeCount = s.freeCount ∧ (setStr idx sub v s).pending = s.pending := by
  simp [setStr]

/-- Only the kiosk's tables change. -/
@[simp] theorem count_fields (idx sub n : Nat) (s : State) :
    (count idx sub n s).now = s.now ∧ (count idx sub n s).pins = s.pins ∧ (count idx sub n s).rb = s.rb ∧
    (count idx sub n s).gov = s.gov ∧ (count idx sub n s).life = s.life ∧ (count idx sub n s).contain = s.contain ∧
    (count idx sub n s).net = s.net ∧ (count idx sub n s).host = s.host ∧ (count idx sub n s).tiles = s.tiles ∧
    (count idx sub n s).tiers = s.tiers ∧ (count idx sub n s).prog = s.prog ∧ (count idx sub n s).links = s.links ∧
    (count idx sub n s).coll = s.coll ∧ (count idx sub n s).junc = s.junc ∧ (count idx sub n s).fab = s.fab ∧
    (count idx sub n s).sweep = s.sweep ∧ (count idx sub n s).hostMem = s.hostMem ∧ (count idx sub n s).hbm = s.hbm ∧
    (count idx sub n s).cellar = s.cellar ∧ (count idx sub n s).outbox = s.outbox ∧
    (count idx sub n s).freeCount = s.freeCount ∧ (count idx sub n s).pending = s.pending := by
  simp [count, setCounter]

end Sys2Proof.Machine
end

