-- ==== Sys2Proof/Laws/Tables.lean ====
section
/-! SUPPORT. Tables and memories: writing keeps the canonical form, a read after a write to the same place gives what was
written, and a write leaves every other place. -/

namespace Sys2Proof.Machine

/-! ### Tables keep their canonical form -/

theorem tabWfFrom_mono {α : Type} [DecidableEq α] (d : α) (t : Tab α) (lo lo' : Nat) (h : lo' ≤ lo)
    (w : tabWfFrom d lo t = true) : tabWfFrom d lo' t = true := by
  cases t with
  | nil => rfl
  | cons a t =>
    simp [tabWfFrom] at w ⊢
    exact ⟨⟨by omega, w.1.2⟩, w.2⟩

theorem tabWfFrom_insert {α : Type} [DecidableEq α] (d : α) (k : Nat) (v : α) (t : Tab α) (lo : Nat) (hv : v ≠ d)
    (hk : lo ≤ k) (w : tabWfFrom d lo t = true) : tabWfFrom d lo (tabInsert k v t) = true := by
  induction t generalizing lo with
  | nil => simp [tabInsert, tabWfFrom, hv, hk]
  | cons a t ih =>
    obtain ⟨j, x⟩ := a
    simp [tabWfFrom] at w
    simp only [tabInsert]
    split
    · simp [tabWfFrom, hv, hk, w]; omega
    · split
      · subst_vars; simp [tabWfFrom, hv, w]
      · simp [tabWfFrom, w]; exact ih _ (by omega) w.2

theorem tabWfFrom_erase {α : Type} [DecidableEq α] (d : α) (k : Nat) (t : Tab α) (lo : Nat)
    (w : tabWfFrom d lo t = true) : tabWfFrom d lo (tabErase k t) = true := by
  induction t generalizing lo with
  | nil => rfl
  | cons a t ih =>
    obtain ⟨j, x⟩ := a
    simp [tabWfFrom] at w
    simp only [tabErase]
    split
    · exact tabWfFrom_mono d _ _ _ (by omega) (ih _ w.2)
    · simp [tabWfFrom, w]; exact ih _ w.2

/-- Writing an entry keeps the canonical form. -/
theorem tabPut_wf {α : Type} [DecidableEq α] (d : α) (k : Nat) (v : α) (t : Tab α) (w : tabWf d t = true) :
    tabWf d (tabPut d k v t) = true := by
  unfold tabPut tabWf at *
  split
  · exact tabWfFrom_erase d k t 0 w
  · exact tabWfFrom_insert d k v t 0 ‹_› (Nat.zero_le _) w

/-- Writing one byte keeps the canonical form. -/
theorem memPut_wf (m : Memory) (a : Nat) (b : Byte) (w : Memory.wf m = true) : Memory.wf (memPut m a b) = true :=
  tabPut_wf 0 a b m w

/-- Writing bytes keeps the canonical form. -/
theorem memWrite_wf (m : Memory) (a : Nat) (bs : List Byte) (w : Memory.wf m = true) :
    Memory.wf (memWrite m a bs) = true := by
  induction bs generalizing m a with
  | nil => exact w
  | cons b bs ih => exact ih _ _ (memPut_wf m a b w)

/-! ### Reading what was written -/

/-- Another key reads as before. -/
theorem tabGet_insert_other {α : Type} (d : α) (k j : Nat) (v : α) (t : Tab α) (h : j ≠ k) :
    tabGet d j (tabInsert k v t) = tabGet d j t := by
  induction t with
  | nil => simp [tabInsert, tabGet, Ne.symm h]
  | cons a t ih =>
    obtain ⟨i, w⟩ := a
    simp only [tabInsert]
    split
    · simp [tabGet, Ne.symm h]
    · split
      · subst_vars; simp [tabGet, Ne.symm h]
      · simp [tabGet, ih]

/-- The written key reads as written. -/
theorem tabGet_insert_same {α : Type} (d : α) (k : Nat) (v : α) (t : Tab α) : tabGet d k (tabInsert k v t) = v := by
  induction t with
  | nil => simp [tabInsert, tabGet]
  | cons a t ih =>
    obtain ⟨i, w⟩ := a
    simp only [tabInsert]
    split
    · simp [tabGet]
    · split
      · simp [tabGet]
      · simp only [tabGet]; split
        · omega
        · exact ih

/-- Dropping a key leaves the others. -/
theorem tabGet_erase_other {α : Type} (d : α) (k j : Nat) (t : Tab α) (h : j ≠ k) :
    tabGet d j (tabErase k t) = tabGet d j t := by
  induction t with
  | nil => rfl
  | cons a t ih =>
    obtain ⟨i, w⟩ := a
    simp only [tabErase]
    split
    · subst_vars; simp [tabGet, Ne.symm h, ih]
    · simp [tabGet, ih]

/-- A key below every listed one reads as the default. -/
theorem tabGet_below {α : Type} [DecidableEq α] (d : α) (k lo : Nat) (t : Tab α) (h : k < lo)
    (w : tabWfFrom d lo t = true) : tabGet d k t = d := by
  induction t generalizing lo with
  | nil => rfl
  | cons a t ih =>
    obtain ⟨i, x⟩ := a
    simp [tabWfFrom] at w
    simp only [tabGet]; split
    · omega
    · exact ih _ (by omega) w.2

/-- A dropped key reads as the default. -/
theorem tabGet_erase_same {α : Type} (d : α) (k : Nat) (t : Tab α) : tabGet d k (tabErase k t) = d := by
  induction t with
  | nil => rfl
  | cons a t ih =>
    obtain ⟨i, x⟩ := a
    simp only [tabErase]; split
    · exact ih
    · rename_i e; simp only [tabGet, e, if_false]; exact ih

/-- Every other key reads as before a write. -/
theorem tabGet_put_other {α : Type} [DecidableEq α] (d e : α) (k j : Nat) (v : α) (t : Tab α) (h : j ≠ k) :
    tabGet e j (tabPut d k v t) = tabGet e j t := by
  unfold tabPut; split
  · exact tabGet_erase_other e k j t h
  · exact tabGet_insert_other e k j v t h

/-- The written key reads as written. -/
theorem tabGet_put_same {α : Type} [DecidableEq α] (d : α) (k : Nat) (v : α) (t : Tab α) :
    tabGet d k (tabPut d k v t) = v := by
  unfold tabPut; split
  · subst_vars; exact tabGet_erase_same _ _ t
  · exact tabGet_insert_same d k v t

/-- A write leaves every byte outside it. -/
theorem memGet_write_outside (m : Memory) (a b : Nat) (bs : List Byte) (h : b < a ∨ a + bs.length ≤ b) :
    memGet (memWrite m a bs) b = memGet m b := by
  induction bs generalizing m a with
  | nil => rfl
  | cons x xs ih =>
    simp only [List.length_cons] at h
    rw [memWrite, ih _ _ (by omega)]
    exact tabGet_put_other 0 0 a b x m (by omega)

/-- A write reads back what was written. -/
theorem memGet_write_inside (m : Memory) (a i : Nat) (bs : List Byte) (h : i < bs.length) :
    memGet (memWrite m a bs) (a + i) = bs[i] := by
  induction bs generalizing m a i with
  | nil => simp at h
  | cons x xs ih =>
    cases i with
    | zero =>
      rw [memWrite, Nat.add_zero, memGet_write_outside _ _ _ _ (by omega)]
      exact tabGet_put_same 0 a x m
    | succ i =>
      have := ih (memPut m a x) (a + 1) i (by simpa using h)
      rw [memWrite, show a + (i + 1) = a + 1 + i by omega, this]; rfl

/-- Reading back a whole write. -/
theorem memRead_write (m : Memory) (a : Nat) (bs : List Byte) :
    memRead (memWrite m a bs) a bs.length = bs := by
  have go (n i : Nat) (h : i + n = bs.length) : memRead (memWrite m a bs) (a + i) n = bs.drop i := by
    induction n generalizing i with
    | zero => simp [memRead, List.drop_eq_nil_of_le (show bs.length ≤ i by omega)]
    | succ n ih =>
      have hi : i < bs.length := by omega
      rw [memRead, memGet_write_inside m a i bs hi, show a + i + 1 = a + (i + 1) by omega, ih (i + 1) (by omega)]
      exact (List.drop_eq_getElem_cons hi).symm
  simpa using go bs.length 0 (by simp)

end Sys2Proof.Machine
end

