-- ==== Sys2Proof/Laws/Counters.lean ====
section
/-! SUPPORT. Entries of the dictionary: what reading an entry gives after a write or a count.  Interrupt causes, changes
of the Roundabout and records: what they can change. -/

namespace Sys2Proof.Machine

/-- Two states with equal fields are equal. -/
theorem State.ext_fields {s u : State}
    (h0 : u.now = s.now)    (h1 : u.pins = s.pins)    (h2 : u.rb = s.rb)    (h3 : u.gov = s.gov)
    (h4 : u.life = s.life)    (h5 : u.contain = s.contain)    (h6 : u.kiosk = s.kiosk)    (h7 : u.net = s.net)
    (h8 : u.host = s.host)    (h9 : u.tiles = s.tiles)    (h10 : u.tiers = s.tiers)    (h11 : u.prog = s.prog)
    (h12 : u.links = s.links)    (h13 : u.coll = s.coll)    (h14 : u.junc = s.junc)    (h15 : u.fab = s.fab)
    (h16 : u.sweep = s.sweep)    (h17 : u.hostMem = s.hostMem)    (h18 : u.hbm = s.hbm)    (h19 : u.cellar = s.cellar)
    (h20 : u.outbox = s.outbox)    (h21 : u.freeCount = s.freeCount)    (h22 : u.pending = s.pending) : u = s := by
  cases s; cases u; simp_all

/-- Keys of different entries differ. -/
theorem objKey_ne {i j a b : Nat} (ha : a < 256) (hb : b < 256) (h : i ≠ j ∨ a ≠ b) : objKey i a ≠ objKey j b := by
  unfold objKey; omega

/-- Counting adds up and saturates (R283). -/
theorem counted_count {idx sub n : Nat} (s : State) : Counted idx sub n s (count idx sub n s) := by
  unfold Counted count setCounter State.modKiosk counterAt
  exact tabGet_put_same _ _ _ _

/-- A counter stands where the kiosk's counters stand. -/
theorem Counted.congr {idx sub n : Nat} {s s' u u' : State} (h : Counted idx sub n s u)
    (hs : s'.kiosk.counters = s.kiosk.counters) (hu : u'.kiosk.counters = u.kiosk.counters) :
    Counted idx sub n s' u' := by
  unfold Counted counterAt at *; rw [hs, hu]; exact h

/-- Counting one event leaves every other counter. -/
theorem counterAt_count_other {i j a b n : Nat} (s : State) (h : objKey j b ≠ objKey i a) :
    counterAt (count i a n s) j b = counterAt s j b := by
  unfold counterAt count setCounter State.modKiosk
  exact tabGet_put_other _ _ _ _ _ _ h

/-- Counting touches no value. -/
@[simp] theorem objAt_count (i a n j b : Nat) (s : State) : objAt (count i a n s) j b = objAt s j b := rfl

@[simp] theorem strAt_count (i a n j b : Nat) (s : State) : strAt (count i a n s) j b = strAt s j b := rfl

/-- Writing an entry leaves every other one. -/
theorem objAt_setObj_other {i j a b v : Nat} (s : State) (h : objKey j b ≠ objKey i a) :
    objAt (setObj i a v s) j b = objAt s j b := by
  unfold objAt setObj State.modKiosk
  exact tabGet_put_other _ _ _ _ _ _ h

/-- Writing an entry touches no counter. -/
@[simp] theorem counterAt_setObj (i a v j b : Nat) (s : State) : counterAt (setObj i a v s) j b = counterAt s j b := rfl

/-- A written entry reads as written. -/
theorem objAt_setObj_same {i a v : Nat} (s : State) : objAt (setObj i a v s) i a = v := by
  unfold objAt setObj State.modKiosk
  exact tabGet_put_same _ _ _ _

/-! ### What interrupts, changes of the Roundabout and records can change -/

/-- An interrupt changes the host interface or leaves the sled. -/
@[simp] theorem raiseVector_fields (v : Nat) (s : State) :
    (raiseVector v s).now = s.now ∧ (raiseVector v s).pins = s.pins ∧ (raiseVector v s).rb = s.rb ∧
    (raiseVector v s).gov = s.gov ∧ (raiseVector v s).life = s.life ∧ (raiseVector v s).contain = s.contain ∧
    (raiseVector v s).kiosk = s.kiosk ∧ (raiseVector v s).net = s.net ∧ (raiseVector v s).tiles = s.tiles ∧
    (raiseVector v s).tiers = s.tiers ∧ (raiseVector v s).prog = s.prog ∧ (raiseVector v s).links = s.links ∧
    (raiseVector v s).coll = s.coll ∧ (raiseVector v s).junc = s.junc ∧ (raiseVector v s).fab = s.fab ∧
    (raiseVector v s).sweep = s.sweep ∧ (raiseVector v s).hostMem = s.hostMem ∧ (raiseVector v s).hbm = s.hbm ∧
    (raiseVector v s).cellar = s.cellar ∧ (raiseVector v s).freeCount = s.freeCount ∧
    (raiseVector v s).pending = s.pending := by
  simp only [raiseVector]; (repeat' split) <;> simp

@[simp] theorem glCause_fields (b : Nat) (s : State) :
    (glCause b s).now = s.now ∧ (glCause b s).pins = s.pins ∧ (glCause b s).rb = s.rb ∧ (glCause b s).gov = s.gov ∧
    (glCause b s).life = s.life ∧ (glCause b s).contain = s.contain ∧ (glCause b s).kiosk = s.kiosk ∧
    (glCause b s).net = s.net ∧ (glCause b s).tiles = s.tiles ∧ (glCause b s).tiers = s.tiers ∧
    (glCause b s).prog = s.prog ∧ (glCause b s).links = s.links ∧ (glCause b s).coll = s.coll ∧
    (glCause b s).junc = s.junc ∧ (glCause b s).fab = s.fab ∧ (glCause b s).sweep = s.sweep ∧
    (glCause b s).hostMem = s.hostMem ∧ (glCause b s).hbm = s.hbm ∧ (glCause b s).cellar = s.cellar ∧
    (glCause b s).freeCount = s.freeCount ∧ (glCause b s).pending = s.pending := by
  simp only [glCause]; (repeat' split) <;> simp

/-- A change of RB_FLAGS raises an interrupt cause. -/
@[simp] theorem changeRb_fields (f : Roundabout → Roundabout) (s : State) :
    (changeRb f s).now = s.now ∧ (changeRb f s).pins = s.pins ∧ (changeRb f s).gov = s.gov ∧
    (changeRb f s).life = s.life ∧ (changeRb f s).contain = s.contain ∧ (changeRb f s).kiosk = s.kiosk ∧
    (changeRb f s).net = s.net ∧ (changeRb f s).tiles = s.tiles ∧ (changeRb f s).tiers = s.tiers ∧
    (changeRb f s).prog = s.prog ∧ (changeRb f s).links = s.links ∧ (changeRb f s).coll = s.coll ∧
    (changeRb f s).junc = s.junc ∧ (changeRb f s).fab = s.fab ∧ (changeRb f s).sweep = s.sweep ∧
    (changeRb f s).hostMem = s.hostMem ∧ (changeRb f s).hbm = s.hbm ∧ (changeRb f s).cellar = s.cellar ∧
    (changeRb f s).freeCount = s.freeCount ∧ (changeRb f s).pending = s.pending := by
  simp only [changeRb]; split <;> simp

@[simp] theorem changeRb_rb (f : Roundabout → Roundabout) (s : State) : (changeRb f s).rb = f s.rb := by
  simp only [changeRb]; split <;> simp

/-- A record touches records, counters, the host interface and what leaves the sled. -/
@[simp] theorem placeRecord_fields (r : LogRecord) (s : State) :
    (placeRecord r s).now = s.now ∧ (placeRecord r s).pins = s.pins ∧ (placeRecord r s).rb = s.rb ∧
    (placeRecord r s).gov = s.gov ∧ (placeRecord r s).life = s.life ∧ (placeRecord r s).net = s.net ∧
    (placeRecord r s).tiles = s.tiles ∧ (placeRecord r s).tiers = s.tiers ∧ (placeRecord r s).prog = s.prog ∧
    (placeRecord r s).links = s.links ∧ (placeRecord r s).coll = s.coll ∧ (placeRecord r s).junc = s.junc ∧
    (placeRecord r s).fab = s.fab ∧ (placeRecord r s).sweep = s.sweep ∧ (placeRecord r s).hostMem = s.hostMem ∧
    (placeRecord r s).hbm = s.hbm ∧ (placeRecord r s).cellar = s.cellar ∧ (placeRecord r s).freeCount = s.freeCount ∧
    (placeRecord r s).pending = s.pending := by
  simp only [placeRecord]; (repeat' split) <;> simp

@[simp] theorem endWindow_fields (w : RepeatWindow) (s : State) :
    (endWindow w s).now = s.now ∧ (endWindow w s).pins = s.pins ∧ (endWindow w s).rb = s.rb ∧
    (endWindow w s).gov = s.gov ∧ (endWindow w s).life = s.life ∧ (endWindow w s).net = s.net ∧
    (endWindow w s).tiles = s.tiles ∧ (endWindow w s).tiers = s.tiers ∧ (endWindow w s).prog = s.prog ∧
    (endWindow w s).links = s.links ∧ (endWindow w s).coll = s.coll ∧ (endWindow w s).junc = s.junc ∧
    (endWindow w s).fab = s.fab ∧ (endWindow w s).sweep = s.sweep ∧ (endWindow w s).hostMem = s.hostMem ∧
    (endWindow w s).hbm = s.hbm ∧ (endWindow w s).cellar = s.cellar ∧ (endWindow w s).freeCount = s.freeCount ∧
    (endWindow w s).pending = s.pending := by
  simp only [endWindow]; split <;> simp

@[simp] theorem record_fields (r : LogRecord) (s : State) :
    (record r s).now = s.now ∧ (record r s).pins = s.pins ∧ (record r s).rb = s.rb ∧ (record r s).gov = s.gov ∧
    (record r s).life = s.life ∧ (record r s).net = s.net ∧ (record r s).tiles = s.tiles ∧
    (record r s).tiers = s.tiers ∧ (record r s).prog = s.prog ∧ (record r s).links = s.links ∧
    (record r s).coll = s.coll ∧ (record r s).junc = s.junc ∧ (record r s).fab = s.fab ∧
    (record r s).sweep = s.sweep ∧ (record r s).hostMem = s.hostMem ∧ (record r s).hbm = s.hbm ∧
    (record r s).cellar = s.cellar ∧ (record r s).freeCount = s.freeCount ∧ (record r s).pending = s.pending := by
  simp only [record]; (repeat' split) <;> simp

@[simp] theorem noteRecord_fields (cause ut unit : Nat) (s : State) :
    (noteRecord cause ut unit s).now = s.now ∧ (noteRecord cause ut unit s).pins = s.pins ∧
    (noteRecord cause ut unit s).rb = s.rb ∧ (noteRecord cause ut unit s).gov = s.gov ∧
    (noteRecord cause ut unit s).life = s.life ∧ (noteRecord cause ut unit s).net = s.net ∧
    (noteRecord cause ut unit s).tiles = s.tiles ∧ (noteRecord cause ut unit s).tiers = s.tiers ∧
    (noteRecord cause ut unit s).prog = s.prog ∧ (noteRecord cause ut unit s).links = s.links ∧
    (noteRecord cause ut unit s).coll = s.coll ∧ (noteRecord cause ut unit s).junc = s.junc ∧
    (noteRecord cause ut unit s).fab = s.fab ∧ (noteRecord cause ut unit s).sweep = s.sweep ∧
    (noteRecord cause ut unit s).hostMem = s.hostMem ∧ (noteRecord cause ut unit s).hbm = s.hbm ∧
    (noteRecord cause ut unit s).cellar = s.cellar ∧ (noteRecord cause ut unit s).freeCount = s.freeCount ∧
    (noteRecord cause ut unit s).pending = s.pending := by
  simp [noteRecord]

/-- A new life state may raise an interrupt cause. -/
@[simp] theorem enterLife_fields (l : LifeState) (s : State) :
    (enterLife l s).now = s.now ∧ (enterLife l s).pins = s.pins ∧ (enterLife l s).rb = s.rb ∧
    (enterLife l s).gov = s.gov ∧ (enterLife l s).contain = s.contain ∧ (enterLife l s).kiosk = s.kiosk ∧
    (enterLife l s).net = s.net ∧ (enterLife l s).tiles = s.tiles ∧ (enterLife l s).tiers = s.tiers ∧
    (enterLife l s).prog = s.prog ∧ (enterLife l s).links = s.links ∧ (enterLife l s).coll = s.coll ∧
    (enterLife l s).junc = s.junc ∧ (enterLife l s).fab = s.fab ∧ (enterLife l s).sweep = s.sweep ∧
    (enterLife l s).hostMem = s.hostMem ∧ (enterLife l s).hbm = s.hbm ∧ (enterLife l s).cellar = s.cellar ∧
    (enterLife l s).freeCount = s.freeCount ∧ (enterLife l s).pending = s.pending := by
  simp only [enterLife]; split <;> simp

@[simp] theorem enterLife_life (l : LifeState) (s : State) :
    (enterLife l s).life = { s.life with state := l, since := s.now, dropOff := false } := by
  simp only [enterLife]; split <;> simp

/-- STANDBY and OFF follow the inhibits. -/
@[simp] theorem settle_fields (s : State) :
    (settle s).now = s.now ∧ (settle s).pins = s.pins ∧ (settle s).rb = s.rb ∧ (settle s).gov = s.gov ∧
    (settle s).contain = s.contain ∧ (settle s).kiosk = s.kiosk ∧ (settle s).net = s.net ∧
    (settle s).tiles = s.tiles ∧ (settle s).tiers = s.tiers ∧ (settle s).prog = s.prog ∧ (settle s).links = s.links ∧
    (settle s).coll = s.coll ∧ (settle s).junc = s.junc ∧ (settle s).fab = s.fab ∧ (settle s).sweep = s.sweep ∧
    (settle s).hostMem = s.hostMem ∧ (settle s).hbm = s.hbm ∧ (settle s).cellar = s.cellar ∧
    (settle s).freeCount = s.freeCount ∧ (settle s).pending = s.pending := by
  simp only [settle]; (repeat' split) <;> simp

/-- Records count, and change no value of the dictionary. -/
@[simp] theorem objAt_record (r : LogRecord) (s : State) (i a : Nat) : objAt (record r s) i a = objAt s i a := by
  have place (r : LogRecord) (s : State) : objAt (placeRecord r s) i a = objAt s i a := by
    simp only [placeRecord]; (repeat' split) <;> simp [objAt, count, setCounter, State.modKiosk]
  have close (w : RepeatWindow) (s : State) : objAt (endWindow w s) i a = objAt s i a := by
    simp only [endWindow]; split
    · simp [objAt]
    · rw [place]; simp [objAt]
  simp only [record]
  (repeat' split) <;> first
    | rfl
    | (simp only [objAt] at place close; simp [objAt, place, close, count, setCounter, State.modKiosk]; done)

end Sys2Proof.Machine
end

