-- ==== Sys2Proof/Laws/Frames.lean ====
section
/-! SUPPORT. What each operation leaves as it was: the queue, local time and the memories it does not write; and that
the memories it writes stay canonical.  This file: shared operations, the Roundabout, the governor, the field network, the links and the memory tiers. -/

namespace Sys2Proof.Machine

@[simp] theorem keeps_next (u : State) (q : List Instr) (n : Nat) :
    Keeps (.next u) q n ↔ u.pending = q ∧ u.now = n := Iff.rfl

@[simp] theorem ite_pending (c : Prop) [Decidable c] (a b : State) :
    (if c then a else b).pending = if c then a.pending else b.pending := apply_ite State.pending c a b

@[simp] theorem ite_now (c : Prop) [Decidable c] (a b : State) :
    (if c then a else b).now = if c then a.now else b.now := apply_ite State.now c a b

@[simp] theorem forEach_kept {α : Type} (f : α → State → State) (xs : List α) (s : State)
    (h : ∀ a u, (f a u).pending = u.pending ∧ (f a u).now = u.now) :
    (forEach f xs s).pending = s.pending ∧ (forEach f xs s).now = s.now := by
  induction xs generalizing s with
  | nil => exact ⟨rfl, rfl⟩
  | cons a as ih => simpa [forEach, h a s] using ih (f a s)

@[simp] theorem endsOk_next (u : State) : EndsOk (.next u) ↔
    Memory.wf u.hbm = true ∧ Memory.wf u.cellar = true ∧ Memory.wf u.hostMem = true := Iff.rfl

@[simp] theorem memory_wf_ite (c : Prop) [Decidable c] (a b : Memory) :
    Memory.wf (if c then a else b) = true ↔ (c → Memory.wf a = true) ∧ (¬c → Memory.wf b = true) := by split <;> simp [*]

@[simp] theorem memory_wf_nil : Memory.wf [] = true := rfl

@[simp] theorem ite_hbm (c : Prop) [Decidable c] (a b : State) :
    (if c then a else b).hbm = if c then a.hbm else b.hbm := apply_ite State.hbm c a b

@[simp] theorem forEach_hbm {α : Type} (f : α → State → State) (xs : List α) (s : State)
    (h : ∀ a u, (f a u).hbm = u.hbm) : (forEach f xs s).hbm = s.hbm := by
  induction xs generalizing s with
  | nil => rfl
  | cons a as ih => exact (ih (f a s)).trans (h a s)

@[simp] theorem forEach_hbm_wf {α : Type} (f : α → State → State) (xs : List α) (s : State)
    (h : ∀ a u, Memory.wf u.hbm = true → Memory.wf (f a u).hbm = true) (w : Memory.wf s.hbm = true) :
    Memory.wf (forEach f xs s).hbm = true := by
  induction xs generalizing s with
  | nil => exact w
  | cons a as ih => exact ih _ (h a s w)

@[simp] theorem ite_cellar (c : Prop) [Decidable c] (a b : State) :
    (if c then a else b).cellar = if c then a.cellar else b.cellar := apply_ite State.cellar c a b

@[simp] theorem forEach_cellar {α : Type} (f : α → State → State) (xs : List α) (s : State)
    (h : ∀ a u, (f a u).cellar = u.cellar) : (forEach f xs s).cellar = s.cellar := by
  induction xs generalizing s with
  | nil => rfl
  | cons a as ih => exact (ih (f a s)).trans (h a s)

@[simp] theorem forEach_cellar_wf {α : Type} (f : α → State → State) (xs : List α) (s : State)
    (h : ∀ a u, Memory.wf u.cellar = true → Memory.wf (f a u).cellar = true) (w : Memory.wf s.cellar = true) :
    Memory.wf (forEach f xs s).cellar = true := by
  induction xs generalizing s with
  | nil => exact w
  | cons a as ih => exact ih _ (h a s w)

@[simp] theorem ite_hostMem (c : Prop) [Decidable c] (a b : State) :
    (if c then a else b).hostMem = if c then a.hostMem else b.hostMem := apply_ite State.hostMem c a b

@[simp] theorem forEach_hostMem {α : Type} (f : α → State → State) (xs : List α) (s : State)
    (h : ∀ a u, (f a u).hostMem = u.hostMem) : (forEach f xs s).hostMem = s.hostMem := by
  induction xs generalizing s with
  | nil => rfl
  | cons a as ih => exact (ih (f a s)).trans (h a s)

@[simp] theorem forEach_hostMem_wf {α : Type} (f : α → State → State) (xs : List α) (s : State)
    (h : ∀ a u, Memory.wf u.hostMem = true → Memory.wf (f a u).hostMem = true) (w : Memory.wf s.hostMem = true) :
    Memory.wf (forEach f xs s).hostMem = true := by
  induction xs generalizing s with
  | nil => exact w
  | cons a as ih => exact ih _ (h a s w)


@[simp] theorem takeFree_kept (s : State) : (takeFree s).2.pending = s.pending ∧ (takeFree s).2.now = s.now := by simp [takeFree]

@[simp] theorem takeFree_same (s : State) : (takeFree s).2.hbm = s.hbm ∧ (takeFree s).2.cellar = s.cellar ∧
    (takeFree s).2.hostMem = s.hostMem := ⟨rfl, rfl, rfl⟩

@[simp] theorem stationTrap_kept (c cause : Nat) (s : State) :
    (stationTrap c cause s).pending = s.pending ∧ (stationTrap c cause s).now = s.now ∧
    (stationTrap c cause s).hbm = s.hbm ∧ (stationTrap c cause s).cellar = s.cellar ∧
    (stationTrap c cause s).hostMem = s.hostMem := by
  simp only [stationTrap]; (repeat' split) <;> first | (simp; done) | simp_all

@[simp] theorem raiseVector_kept (v : Nat) (s : State) :
    (raiseVector v s).pending = s.pending ∧ (raiseVector v s).now = s.now ∧ (raiseVector v s).hbm = s.hbm ∧
    (raiseVector v s).cellar = s.cellar ∧ (raiseVector v s).hostMem = s.hostMem := by
  simp only [raiseVector]; (repeat' split) <;> first | (simp; done) | simp_all

@[simp] theorem glCause_kept (b : Nat) (s : State) :
    (glCause b s).pending = s.pending ∧ (glCause b s).now = s.now ∧ (glCause b s).hbm = s.hbm ∧
    (glCause b s).cellar = s.cellar ∧ (glCause b s).hostMem = s.hostMem := by
  simp only [glCause]; (repeat' split) <;> first | (simp; done) | simp_all

@[simp] theorem placeRecord_kept (r : LogRecord) (s : State) :
    (placeRecord r s).pending = s.pending ∧ (placeRecord r s).now = s.now := by
  simp only [placeRecord]; (repeat' split) <;> first | (simp; done) | simp_all

@[simp] theorem placeRecord_mem (r : LogRecord) (s : State) :
    (Memory.wf s.hbm = true → Memory.wf (placeRecord r s).hbm = true) ∧
    (Memory.wf s.cellar = true → Memory.wf (placeRecord r s).cellar = true) ∧
    (Memory.wf s.hostMem = true → Memory.wf (placeRecord r s).hostMem = true) := by
  refine ⟨fun h => ?_, fun h => ?_, fun h => ?_⟩ <;>
    (simp only [placeRecord]; (repeat' split) <;> simp (maxDischargeDepth := 40) (contextual := true) [h])

@[simp] theorem endWindow_kept (w : RepeatWindow) (s : State) :
    (endWindow w s).pending = s.pending ∧ (endWindow w s).now = s.now := by
  simp only [endWindow]; (repeat' split) <;> first | (simp; done) | simp_all

@[simp] theorem endWindow_mem (w : RepeatWindow) (s : State) :
    (Memory.wf s.hbm = true → Memory.wf (endWindow w s).hbm = true) ∧
    (Memory.wf s.cellar = true → Memory.wf (endWindow w s).cellar = true) ∧
    (Memory.wf s.hostMem = true → Memory.wf (endWindow w s).hostMem = true) := by
  refine ⟨fun h => ?_, fun h => ?_, fun h => ?_⟩ <;>
    (simp only [endWindow]; (repeat' split) <;> simp (maxDischargeDepth := 40) (contextual := true) [h])

@[simp] theorem record_kept (r : LogRecord) (s : State) :
    (record r s).pending = s.pending ∧ (record r s).now = s.now := by
  simp only [record]; (repeat' split) <;> first | (simp; done) | simp_all

@[simp] theorem record_mem (r : LogRecord) (s : State) :
    (Memory.wf s.hbm = true → Memory.wf (record r s).hbm = true) ∧
    (Memory.wf s.cellar = true → Memory.wf (record r s).cellar = true) ∧
    (Memory.wf s.hostMem = true → Memory.wf (record r s).hostMem = true) := by
  refine ⟨fun h => ?_, fun h => ?_, fun h => ?_⟩ <;>
    (simp only [record]; (repeat' split) <;> simp (maxDischargeDepth := 40) (contextual := true) [h])

@[simp] theorem noteRecord_kept (cause ut unit : Nat) (s : State) :
    (noteRecord cause ut unit s).pending = s.pending ∧ (noteRecord cause ut unit s).now = s.now := by
  simp only [noteRecord]; (repeat' split) <;> first | (simp; done) | simp_all

@[simp] theorem noteRecord_mem (cause ut unit : Nat) (s : State) :
    (Memory.wf s.hbm = true → Memory.wf (noteRecord cause ut unit s).hbm = true) ∧
    (Memory.wf s.cellar = true → Memory.wf (noteRecord cause ut unit s).cellar = true) ∧
    (Memory.wf s.hostMem = true → Memory.wf (noteRecord cause ut unit s).hostMem = true) := by
  refine ⟨fun h => ?_, fun h => ?_, fun h => ?_⟩ <;>
    (simp only [noteRecord]; (repeat' split) <;> simp (maxDischargeDepth := 40) (contextual := true) [h])

@[simp] theorem changeRb_kept (f : Roundabout → Roundabout) (s : State) :
    (changeRb f s).pending = s.pending ∧ (changeRb f s).now = s.now ∧ (changeRb f s).hbm = s.hbm ∧
    (changeRb f s).cellar = s.cellar ∧ (changeRb f s).hostMem = s.hostMem := by
  simp only [changeRb]; (repeat' split) <;> first | (simp; done) | simp_all

@[simp] theorem armKiosk_kept (i n t tag : Nat) (s : State) :
    (armKiosk i n t tag s).pending = s.pending ∧ (armKiosk i n t tag s).now = s.now ∧
    (armKiosk i n t tag s).hbm = s.hbm ∧ (armKiosk i n t tag s).cellar = s.cellar ∧
    (armKiosk i n t tag s).hostMem = s.hostMem := by
  simp only [armKiosk]; (repeat' split) <;> first | (simp; done) | simp_all

@[simp] theorem armPackage_kept (i n t tag : Nat) (s : State) :
    (armPackage i n t tag s).pending = s.pending ∧ (armPackage i n t tag s).now = s.now ∧
    (armPackage i n t tag s).hbm = s.hbm ∧ (armPackage i n t tag s).cellar = s.cellar ∧
    (armPackage i n t tag s).hostMem = s.hostMem := by
  simp only [armPackage]; (repeat' split) <;> first | (simp; done) | simp_all

@[simp] theorem clearKioskCmp_kept (i : Nat) (s : State) :
    (clearKioskCmp i s).pending = s.pending ∧ (clearKioskCmp i s).now = s.now ∧ (clearKioskCmp i s).hbm = s.hbm ∧
    (clearKioskCmp i s).cellar = s.cellar ∧ (clearKioskCmp i s).hostMem = s.hostMem := by
  simp only [clearKioskCmp]; (repeat' split) <;> first | (simp; done) | simp_all

@[simp] theorem clearPackageCmp_kept (i : Nat) (s : State) :
    (clearPackageCmp i s).pending = s.pending ∧ (clearPackageCmp i s).now = s.now ∧
    (clearPackageCmp i s).hbm = s.hbm ∧ (clearPackageCmp i s).cellar = s.cellar ∧
    (clearPackageCmp i s).hostMem = s.hostMem := by
  simp only [clearPackageCmp]; (repeat' split) <;> first | (simp; done) | simp_all

@[simp] theorem raiseCheckpoint_kept (i : Nat) (s : State) :
    (raiseCheckpoint i s).pending = s.pending ∧ (raiseCheckpoint i s).now = s.now ∧
    (raiseCheckpoint i s).hbm = s.hbm ∧ (raiseCheckpoint i s).cellar = s.cellar ∧
    (raiseCheckpoint i s).hostMem = s.hostMem := by
  simp only [raiseCheckpoint]; (repeat' split) <;> first | (simp; done) | simp_all

@[simp] theorem fireNext_kept (s : State) :
    (fireNext s).pending = s.pending ∧ (fireNext s).now = s.now ∧ (fireNext s).hbm = s.hbm ∧
    (fireNext s).cellar = s.cellar ∧ (fireNext s).hostMem = s.hostMem := by
  simp only [fireNext]; (repeat' split) <;> first | (simp; done) | simp_all

@[simp] theorem fireDue_kept (n : Nat) (s : State) :
    (fireDue n s).pending = s.pending ∧ (fireDue n s).now = s.now ∧ (fireDue n s).hbm = s.hbm ∧
    (fireDue n s).cellar = s.cellar ∧ (fireDue n s).hostMem = s.hostMem := by
  induction n generalizing s with
  | zero => simp [fireDue]
  | succ n ih => simp [fireDue, ih]



@[simp] theorem execEventFire_kept (s : State) :
    Keeps (execEventFire s) s.pending s.now := by
  simp only [execEventFire]; (repeat' split) <;> first | (simp; done) | simp_all

theorem execEventFire_mem (s : State) (h : MemOk s) :
    EndsOk (execEventFire s) := by
  simp only [execEventFire]; (repeat' split) <;> simp (maxDischargeDepth := 40) (contextual := true) [h.1, h.2.1, h.2.2]

@[simp] theorem noteLock_kept (s : State) :
    (noteLock s).pending = s.pending ∧ (noteLock s).now = s.now ∧ (noteLock s).hbm = s.hbm ∧
    (noteLock s).cellar = s.cellar ∧ (noteLock s).hostMem = s.hostMem := by
  simp only [noteLock]; (repeat' split) <;> first | (simp; done) | simp_all

@[simp] theorem execMainsCrossing_kept (t above : Nat) (s : State) :
    Keeps (execMainsCrossing t above s) s.pending (max s.now t) := by
  simp only [execMainsCrossing]; (repeat' split) <;> first | (simp; done) | simp_all

theorem execMainsCrossing_mem (t above : Nat) (s : State) (h : MemOk s) :
    EndsOk (execMainsCrossing t above s) := by
  simp only [execMainsCrossing]; (repeat' split) <;> simp (maxDischargeDepth := 40) (contextual := true) [h.1, h.2.1, h.2.2]

@[simp] theorem execWindowClose_kept (t : Nat) (s : State) :
    Keeps (execWindowClose t s) s.pending (max s.now t) := by
  simp only [execWindowClose]; (repeat' split) <;> first | (simp; done) | simp_all

theorem execWindowClose_mem (t : Nat) (s : State) (h : MemOk s) :
    EndsOk (execWindowClose t s) := by
  simp only [execWindowClose]; (repeat' split) <;> simp (maxDischargeDepth := 40) (contextual := true) [h.1, h.2.1, h.2.2]

@[simp] theorem execRunTimeout_kept (t : Nat) (s : State) :
    Keeps (execRunTimeout t s) s.pending (max s.now t) := by
  simp only [execRunTimeout]; (repeat' split) <;> first | (simp; done) | simp_all

theorem execRunTimeout_mem (t : Nat) (s : State) (h : MemOk s) :
    EndsOk (execRunTimeout t s) := by
  simp only [execRunTimeout]; (repeat' split) <;> simp (maxDischargeDepth := 40) (contextual := true) [h.1, h.2.1, h.2.2]

@[simp] theorem endTick_kept (s : State) : (endTick s).pending = s.pending ∧ s.now ≤ (endTick s).now := by
  simp [endTick, Nat.le_max_left]

@[simp] theorem endTick_same (s : State) :
    (endTick s).hbm = s.hbm ∧ (endTick s).cellar = s.cellar ∧ (endTick s).hostMem = s.hostMem := by
  simp only [endTick]; (repeat' split) <;> first | (simp; done) | simp_all

@[simp] theorem execFreewheelLong_kept (s : State) :
    Keeps (execFreewheelLong s) s.pending s.now := by
  simp only [execFreewheelLong]; (repeat' split) <;> first | (simp; done) | simp_all

theorem execFreewheelLong_mem (s : State) (h : MemOk s) :
    EndsOk (execFreewheelLong s) := by
  simp only [execFreewheelLong]; (repeat' split) <;> simp (maxDischargeDepth := 40) (contextual := true) [h.1, h.2.1, h.2.2]

@[simp] theorem stepCycle_kept (d : Int) (s : State) :
    (stepCycle d s).pending = s.pending ∧ (stepCycle d s).now = s.now ∧ (stepCycle d s).hbm = s.hbm ∧
    (stepCycle d s).cellar = s.cellar ∧ (stepCycle d s).hostMem = s.hostMem := by
  simp only [stepCycle]; (repeat' split) <;> first | (simp; done) | simp_all

@[simp] theorem applyDue_kept (s : State) :
    (applyDue s).pending = s.pending ∧ (applyDue s).now = s.now := by
  simp only [applyDue]; (repeat' split) <;> first | (simp; done) | simp_all

@[simp] theorem applyDue_mem (s : State) :
    (Memory.wf s.hbm = true → Memory.wf (applyDue s).hbm = true) ∧
    (Memory.wf s.cellar = true → Memory.wf (applyDue s).cellar = true) ∧
    (Memory.wf s.hostMem = true → Memory.wf (applyDue s).hostMem = true) := by
  refine ⟨fun h => ?_, fun h => ?_, fun h => ?_⟩ <;>
    (simp only [applyDue]; (repeat' split) <;> simp (maxDischargeDepth := 40) (contextual := true) [h])

@[simp] theorem useBeacon_kept (n : Nat) (s : State) :
    (useBeacon n s).pending = s.pending ∧ (useBeacon n s).now = s.now := by
  simp only [useBeacon]; (repeat' split) <;> first | (simp; done) | simp_all

@[simp] theorem useBeacon_mem (n : Nat) (s : State) :
    (Memory.wf s.hbm = true → Memory.wf (useBeacon n s).hbm = true) ∧
    (Memory.wf s.cellar = true → Memory.wf (useBeacon n s).cellar = true) ∧
    (Memory.wf s.hostMem = true → Memory.wf (useBeacon n s).hostMem = true) := by
  refine ⟨fun h => ?_, fun h => ?_, fun h => ?_⟩ <;>
    (simp only [useBeacon]; (repeat' split) <;> simp (maxDischargeDepth := 40) (contextual := true) [h])

@[simp] theorem execApplyBeaconDelta_kept (s : State) :
    Keeps (execApplyBeaconDelta s) s.pending s.now := by
  simp only [execApplyBeaconDelta]; (repeat' split) <;> first | (simp; done) | simp_all

theorem execApplyBeaconDelta_mem (s : State) (h : MemOk s) :
    EndsOk (execApplyBeaconDelta s) := by
  simp only [execApplyBeaconDelta]; (repeat' split) <;> simp (maxDischargeDepth := 40) (contextual := true) [h.1, h.2.1, h.2.2]

@[simp] theorem enterLife_kept (l : LifeState) (s : State) :
    (enterLife l s).pending = s.pending ∧ (enterLife l s).now = s.now ∧ (enterLife l s).hbm = s.hbm ∧
    (enterLife l s).cellar = s.cellar ∧ (enterLife l s).hostMem = s.hostMem := by
  simp only [enterLife]; (repeat' split) <;> first | (simp; done) | simp_all

@[simp] theorem settle_kept (s : State) :
    (settle s).pending = s.pending ∧ (settle s).now = s.now ∧ (settle s).hbm = s.hbm ∧ (settle s).cellar = s.cellar ∧
    (settle s).hostMem = s.hostMem := by
  simp only [settle]; (repeat' split) <;> first | (simp; done) | simp_all

@[simp] theorem execPowerSample_kept (t mainMv bulkMv powerMw : Nat) (pfWarn : Bool) (s : State) :
    Keeps (execPowerSample t mainMv bulkMv powerMw pfWarn s) s.pending (max s.now t) := by
  simp only [execPowerSample]; (repeat' split) <;> first | (simp; done) | simp_all

theorem execPowerSample_mem (t mainMv bulkMv powerMw : Nat) (pfWarn : Bool) (s : State) (h : MemOk s) :
    EndsOk (execPowerSample t mainMv bulkMv powerMw pfWarn s) := by
  simp only [execPowerSample]; (repeat' split) <;> simp (maxDischargeDepth := 40) (contextual := true) [h.1, h.2.1, h.2.2]

@[simp] theorem execMainInputQualify_kept (t : Nat) (s : State) :
    Keeps (execMainInputQualify t s) s.pending (max s.now t) := by
  simp only [execMainInputQualify]; (repeat' split) <;> first | (simp; done) | simp_all

theorem execMainInputQualify_mem (t : Nat) (s : State) (h : MemOk s) :
    EndsOk (execMainInputQualify t s) := by
  simp only [execMainInputQualify]; (repeat' split) <;> simp (maxDischargeDepth := 40) (contextual := true) [h.1, h.2.1, h.2.2]

@[simp] theorem execBrownoutDetect_kept (t : Nat) (s : State) :
    Keeps (execBrownoutDetect t s) s.pending (max s.now t) := by
  simp only [execBrownoutDetect]; (repeat' split) <;> first | (simp; done) | simp_all

theorem execBrownoutDetect_mem (t : Nat) (s : State) (h : MemOk s) :
    EndsOk (execBrownoutDetect t s) := by
  simp only [execBrownoutDetect]; (repeat' split) <;> simp (maxDischargeDepth := 40) (contextual := true) [h.1, h.2.1, h.2.2]

@[simp] theorem execBrownoutClearQualify_kept (t : Nat) (s : State) :
    Keeps (execBrownoutClearQualify t s) s.pending (max s.now t) := by
  simp only [execBrownoutClearQualify]; (repeat' split) <;> first | (simp; done) | simp_all

theorem execBrownoutClearQualify_mem (t : Nat) (s : State) (h : MemOk s) :
    EndsOk (execBrownoutClearQualify t s) := by
  simp only [execBrownoutClearQualify]; (repeat' split) <;> simp (maxDischargeDepth := 40) (contextual := true) [h.1, h.2.1, h.2.2]

@[simp] theorem execOvervoltageNotice_kept (t : Nat) (s : State) :
    Keeps (execOvervoltageNotice t s) s.pending (max s.now t) := by
  simp only [execOvervoltageNotice]; (repeat' split) <;> first | (simp; done) | simp_all

theorem execOvervoltageNotice_mem (t : Nat) (s : State) (h : MemOk s) :
    EndsOk (execOvervoltageNotice t s) := by
  simp only [execOvervoltageNotice]; (repeat' split) <;> simp (maxDischargeDepth := 40) (contextual := true) [h.1, h.2.1, h.2.2]

@[simp] theorem brownoutStep_kept (s : State) :
    (brownoutStep s).pending = s.pending ∧ (brownoutStep s).now = s.now := by
  simp only [brownoutStep]; (repeat' split) <;> first | (simp; done) | simp_all

@[simp] theorem brownoutStep_mem (s : State) :
    (Memory.wf s.hbm = true → Memory.wf (brownoutStep s).hbm = true) ∧
    (Memory.wf s.cellar = true → Memory.wf (brownoutStep s).cellar = true) ∧
    (Memory.wf s.hostMem = true → Memory.wf (brownoutStep s).hostMem = true) := by
  refine ⟨fun h => ?_, fun h => ?_, fun h => ?_⟩ <;>
    (simp only [brownoutStep]; (repeat' split) <;> simp (maxDischargeDepth := 40) (contextual := true) [h])

@[simp] theorem governorBoundary_kept (busy : Bool) (s : State) :
    (governorBoundary busy s).pending = s.pending ∧ (governorBoundary busy s).now = s.now := by
  simp only [governorBoundary]; (repeat' split) <;> first | (simp; done) | simp_all

@[simp] theorem governorBoundary_mem (busy : Bool) (s : State) :
    (Memory.wf s.hbm = true → Memory.wf (governorBoundary busy s).hbm = true) ∧
    (Memory.wf s.cellar = true → Memory.wf (governorBoundary busy s).cellar = true) ∧
    (Memory.wf s.hostMem = true → Memory.wf (governorBoundary busy s).hostMem = true) := by
  refine ⟨fun h => ?_, fun h => ?_, fun h => ?_⟩ <;>
    (simp only [governorBoundary]; (repeat' split) <;> simp (maxDischargeDepth := 40) (contextual := true) [h])

@[simp] theorem discardFrame_kept (f : List Byte) (s : State) :
    (discardFrame f s).pending = s.pending ∧ (discardFrame f s).now = s.now := by
  simp only [discardFrame]; (repeat' split) <;> first | (simp; done) | simp_all

@[simp] theorem discardFrame_mem (f : List Byte) (s : State) :
    (Memory.wf s.hbm = true → Memory.wf (discardFrame f s).hbm = true) ∧
    (Memory.wf s.cellar = true → Memory.wf (discardFrame f s).cellar = true) ∧
    (Memory.wf s.hostMem = true → Memory.wf (discardFrame f s).hostMem = true) := by
  refine ⟨fun h => ?_, fun h => ?_, fun h => ?_⟩ <;>
    (simp only [discardFrame]; (repeat' split) <;> simp (maxDischargeDepth := 40) (contextual := true) [h])

@[simp] theorem netEmit_kept (e : Emission) (s : State) :
    (netEmit e s).pending = s.pending ∧ (netEmit e s).now = s.now ∧ (netEmit e s).hbm = s.hbm ∧
    (netEmit e s).cellar = s.cellar ∧ (netEmit e s).hostMem = s.hostMem := by
  simp only [netEmit]; (repeat' split) <;> first | (simp; done) | simp_all

@[simp] theorem sendTo_kept (addr : Nat) (e : Emission) (s : State) :
    (sendTo addr e s).pending = s.pending ∧ (sendTo addr e s).now = s.now ∧ (sendTo addr e s).hbm = s.hbm ∧
    (sendTo addr e s).cellar = s.cellar ∧ (sendTo addr e s).hostMem = s.hostMem := by
  simp only [sendTo]; (repeat' split) <;> first | (simp; done) | simp_all

@[simp] theorem learnNeighbour_kept (addr mac : Nat) (s : State) :
    (learnNeighbour addr mac s).pending = s.pending ∧ (learnNeighbour addr mac s).now = s.now ∧
    (learnNeighbour addr mac s).hbm = s.hbm ∧ (learnNeighbour addr mac s).cellar = s.cellar ∧
    (learnNeighbour addr mac s).hostMem = s.hostMem := by
  simp only [learnNeighbour]; (repeat' split) <;> first | (simp; done) | simp_all

@[simp] theorem netNotice_kept (n : NetNotice) (s : State) :
    (netNotice n s).pending = s.pending ∧ (netNotice n s).now = s.now ∧ (netNotice n s).hbm = s.hbm ∧
    (netNotice n s).cellar = s.cellar ∧ (netNotice n s).hostMem = s.hostMem := by
  simp only [netNotice]; (repeat' split) <;> first | (simp; done) | simp_all

@[simp] theorem execNoticeSend_kept (t : Nat) (s : State) :
    Keeps (execNoticeSend t s) s.pending (max s.now t) := by
  simp only [execNoticeSend]; (repeat' split) <;> first | (simp; done) | simp_all

theorem execNoticeSend_mem (t : Nat) (s : State) (h : MemOk s) :
    EndsOk (execNoticeSend t s) := by
  simp only [execNoticeSend]; (repeat' split) <;> simp (maxDischargeDepth := 40) (contextual := true) [h.1, h.2.1, h.2.2]

@[simp] theorem takeNodeId_kept (s : State) :
    (takeNodeId s).pending = s.pending ∧ (takeNodeId s).now = s.now := by
  simp only [takeNodeId]; (repeat' split) <;> first | (simp; done) | simp_all

@[simp] theorem takeNodeId_mem (s : State) :
    (Memory.wf s.hbm = true → Memory.wf (takeNodeId s).hbm = true) ∧
    (Memory.wf s.cellar = true → Memory.wf (takeNodeId s).cellar = true) ∧
    (Memory.wf s.hostMem = true → Memory.wf (takeNodeId s).hostMem = true) := by
  refine ⟨fun h => ?_, fun h => ?_, fun h => ?_⟩ <;>
    (simp only [takeNodeId]; (repeat' split) <;> simp (maxDischargeDepth := 40) (contextual := true) [h])

@[simp] theorem takeFallback_kept (s : State) :
    (takeFallback s).pending = s.pending ∧ (takeFallback s).now = s.now ∧ (takeFallback s).hbm = s.hbm ∧
    (takeFallback s).cellar = s.cellar ∧ (takeFallback s).hostMem = s.hostMem := by
  simp only [takeFallback]; (repeat' split) <;> first | (simp; done) | simp_all

@[simp] theorem yieldRole_kept (s : State) :
    (yieldRole s).pending = s.pending ∧ (yieldRole s).now = s.now := by
  simp only [yieldRole]; (repeat' split) <;> first | (simp; done) | simp_all

@[simp] theorem yieldRole_mem (s : State) :
    (Memory.wf s.hbm = true → Memory.wf (yieldRole s).hbm = true) ∧
    (Memory.wf s.cellar = true → Memory.wf (yieldRole s).cellar = true) ∧
    (Memory.wf s.hostMem = true → Memory.wf (yieldRole s).hostMem = true) := by
  refine ⟨fun h => ?_, fun h => ?_, fun h => ?_⟩ <;>
    (simp only [yieldRole]; (repeat' split) <;> simp (maxDischargeDepth := 40) (contextual := true) [h])

@[simp] theorem closePeriod_kept (s : State) :
    (closePeriod s).pending = s.pending ∧ (closePeriod s).now = s.now ∧ (closePeriod s).hbm = s.hbm ∧
    (closePeriod s).cellar = s.cellar ∧ (closePeriod s).hostMem = s.hostMem := by
  simp only [closePeriod]; (repeat' split) <;> first | (simp; done) | simp_all

@[simp] theorem sendBeacon_kept (s : State) :
    (sendBeacon s).pending = s.pending ∧ (sendBeacon s).now = s.now ∧ (sendBeacon s).hbm = s.hbm ∧
    (sendBeacon s).cellar = s.cellar ∧ (sendBeacon s).hostMem = s.hostMem := by
  simp only [sendBeacon]; (repeat' split) <;> first | (simp; done) | simp_all

@[simp] theorem sendClaim_kept (deferred : Bool) (s : State) :
    (sendClaim deferred s).pending = s.pending ∧ (sendClaim deferred s).now = s.now ∧
    (sendClaim deferred s).hbm = s.hbm ∧ (sendClaim deferred s).cellar = s.cellar ∧
    (sendClaim deferred s).hostMem = s.hostMem := by
  simp only [sendClaim]; (repeat' split) <;> first | (simp; done) | simp_all

@[simp] theorem openPeriod_kept (s : State) :
    (openPeriod s).pending = s.pending ∧ (openPeriod s).now = s.now ∧ (openPeriod s).hbm = s.hbm ∧
    (openPeriod s).cellar = s.cellar ∧ (openPeriod s).hostMem = s.hostMem := by
  simp only [openPeriod]; (repeat' split) <;> first | (simp; done) | simp_all

@[simp] theorem execBeaconInstant_kept (t : Nat) (s : State) :
    Keeps (execBeaconInstant t s) s.pending (max s.now t) := by
  simp only [execBeaconInstant]; (repeat' split) <;> first | (simp; done) | simp_all

theorem execBeaconInstant_mem (t : Nat) (s : State) (h : MemOk s) :
    EndsOk (execBeaconInstant t s) := by
  simp only [execBeaconInstant]; (repeat' split) <;> simp (maxDischargeDepth := 40) (contextual := true) [h.1, h.2.1, h.2.2]

@[simp] theorem execClaimSuccess_kept (t : Nat) (s : State) :
    Keeps (execClaimSuccess t s) s.pending (max s.now t) := by
  simp only [execClaimSuccess]; (repeat' split) <;> first | (simp; done) | simp_all

theorem execClaimSuccess_mem (t : Nat) (s : State) (h : MemOk s) :
    EndsOk (execClaimSuccess t s) := by
  simp only [execClaimSuccess]; (repeat' split) <;> simp (maxDischargeDepth := 40) (contextual := true) [h.1, h.2.1, h.2.2]

@[simp] theorem execClaimCollision_kept (t : Nat) (s : State) :
    Keeps (execClaimCollision t s) s.pending (max s.now t) := by
  simp only [execClaimCollision]; (repeat' split) <;> first | (simp; done) | simp_all

theorem execClaimCollision_mem (t : Nat) (s : State) (h : MemOk s) :
    EndsOk (execClaimCollision t s) := by
  simp only [execClaimCollision]; (repeat' split) <;> simp (maxDischargeDepth := 40) (contextual := true) [h.1, h.2.1, h.2.2]

@[simp] theorem execBackoffExpire_kept (t : Nat) (s : State) :
    Keeps (execBackoffExpire t s) s.pending (max s.now t) := by
  simp only [execBackoffExpire]; (repeat' split) <;> first | (simp; done) | simp_all

theorem execBackoffExpire_mem (t : Nat) (s : State) (h : MemOk s) :
    EndsOk (execBackoffExpire t s) := by
  simp only [execBackoffExpire]; (repeat' split) <;> simp (maxDischargeDepth := 40) (contextual := true) [h.1, h.2.1, h.2.2]

@[simp] theorem execCarrierDetectBackoff_kept (t : Nat) (s : State) :
    Keeps (execCarrierDetectBackoff t s) s.pending (max s.now t) := by
  simp only [execCarrierDetectBackoff]; (repeat' split) <;> first | (simp; done) | simp_all

theorem execCarrierDetectBackoff_mem (t : Nat) (s : State) (h : MemOk s) :
    EndsOk (execCarrierDetectBackoff t s) := by
  simp only [execCarrierDetectBackoff]; (repeat' split) <;> simp (maxDischargeDepth := 40) (contextual := true) [h.1, h.2.1, h.2.2]

@[simp] theorem resync_kept (s : State) :
    (resync s).pending = s.pending ∧ (resync s).now = s.now := by
  simp only [resync]; (repeat' split) <;> first | (simp; done) | simp_all

@[simp] theorem resync_mem (s : State) :
    (Memory.wf s.hbm = true → Memory.wf (resync s).hbm = true) ∧
    (Memory.wf s.cellar = true → Memory.wf (resync s).cellar = true) ∧
    (Memory.wf s.hostMem = true → Memory.wf (resync s).hostMem = true) := by
  refine ⟨fun h => ?_, fun h => ?_, fun h => ?_⟩ <;>
    (simp only [resync]; (repeat' split) <;> simp (maxDischargeDepth := 40) (contextual := true) [h])

@[simp] theorem hearBeacon_kept (body : List Byte) (s : State) :
    (hearBeacon body s).pending = s.pending ∧ (hearBeacon body s).now = s.now := by
  simp only [hearBeacon]; (repeat' split) <;> first | (simp; done) | simp_all

@[simp] theorem hearBeacon_mem (body : List Byte) (s : State) :
    (Memory.wf s.hbm = true → Memory.wf (hearBeacon body s).hbm = true) ∧
    (Memory.wf s.cellar = true → Memory.wf (hearBeacon body s).cellar = true) ∧
    (Memory.wf s.hostMem = true → Memory.wf (hearBeacon body s).hostMem = true) := by
  refine ⟨fun h => ?_, fun h => ?_, fun h => ?_⟩ <;>
    (simp only [hearBeacon]; (repeat' split) <;> simp (maxDischargeDepth := 40) (contextual := true) [h])

@[simp] theorem acceptBeacon_kept (body : List Byte) (s : State) :
    (acceptBeacon body s).pending = s.pending ∧ (acceptBeacon body s).now = s.now := by
  simp only [acceptBeacon]; (repeat' split) <;> first | (simp; done) | simp_all

@[simp] theorem acceptBeacon_mem (body : List Byte) (s : State) :
    (Memory.wf s.hbm = true → Memory.wf (acceptBeacon body s).hbm = true) ∧
    (Memory.wf s.cellar = true → Memory.wf (acceptBeacon body s).cellar = true) ∧
    (Memory.wf s.hostMem = true → Memory.wf (acceptBeacon body s).hostMem = true) := by
  refine ⟨fun h => ?_, fun h => ?_, fun h => ?_⟩ <;>
    (simp only [acceptBeacon]; (repeat' split) <;> simp (maxDischargeDepth := 40) (contextual := true) [h])

@[simp] theorem followBeacon_kept (body : List Byte) (s : State) :
    (followBeacon body s).pending = s.pending ∧ (followBeacon body s).now = s.now := by
  simp only [followBeacon]; (repeat' split) <;> first | (simp; done) | simp_all

@[simp] theorem followBeacon_mem (body : List Byte) (s : State) :
    (Memory.wf s.hbm = true → Memory.wf (followBeacon body s).hbm = true) ∧
    (Memory.wf s.cellar = true → Memory.wf (followBeacon body s).cellar = true) ∧
    (Memory.wf s.hostMem = true → Memory.wf (followBeacon body s).hostMem = true) := by
  refine ⟨fun h => ?_, fun h => ?_, fun h => ?_⟩ <;>
    (simp only [followBeacon]; (repeat' split) <;> simp (maxDischargeDepth := 40) (contextual := true) [h])

@[simp] theorem hearDeferred_kept (s : State) :
    (hearDeferred s).pending = s.pending ∧ (hearDeferred s).now = s.now ∧ (hearDeferred s).hbm = s.hbm ∧
    (hearDeferred s).cellar = s.cellar ∧ (hearDeferred s).hostMem = s.hostMem := by
  simp only [hearDeferred]; (repeat' split) <;> first | (simp; done) | simp_all

@[simp] theorem takeBeacon_kept (body : List Byte) (s : State) :
    (takeBeacon body s).pending = s.pending ∧ (takeBeacon body s).now = s.now := by
  simp only [takeBeacon]; (repeat' split) <;> first | (simp; done) | simp_all

@[simp] theorem takeBeacon_mem (body : List Byte) (s : State) :
    (Memory.wf s.hbm = true → Memory.wf (takeBeacon body s).hbm = true) ∧
    (Memory.wf s.cellar = true → Memory.wf (takeBeacon body s).cellar = true) ∧
    (Memory.wf s.hostMem = true → Memory.wf (takeBeacon body s).hostMem = true) := by
  refine ⟨fun h => ?_, fun h => ?_, fun h => ?_⟩ <;>
    (simp only [takeBeacon]; (repeat' split) <;> simp (maxDischargeDepth := 40) (contextual := true) [h])

@[simp] theorem execBeaconReceive_kept (t : Nat) (src : NetSource) (frame : List Byte) (s : State) :
    Keeps (execBeaconReceive t src frame s) s.pending (max s.now t) := by
  simp only [execBeaconReceive]; (repeat' split) <;> first | (simp; done) | simp_all

theorem execBeaconReceive_mem (t : Nat) (src : NetSource) (frame : List Byte) (s : State) (h : MemOk s) :
    EndsOk (execBeaconReceive t src frame s) := by
  simp only [execBeaconReceive]; (repeat' split) <;> simp (maxDischargeDepth := 40) (contextual := true) [h.1, h.2.1, h.2.2]

@[simp] theorem execBeaconGuardClose_kept (t : Nat) (s : State) :
    Keeps (execBeaconGuardClose t s) s.pending (max s.now t) := by
  simp only [execBeaconGuardClose]; (repeat' split) <;> first | (simp; done) | simp_all

theorem execBeaconGuardClose_mem (t : Nat) (s : State) (h : MemOk s) :
    EndsOk (execBeaconGuardClose t s) := by
  simp only [execBeaconGuardClose]; (repeat' split) <;> simp (maxDischargeDepth := 40) (contextual := true) [h.1, h.2.1, h.2.2]

@[simp] theorem execSearchExpire_kept (t : Nat) (s : State) :
    Keeps (execSearchExpire t s) s.pending (max s.now t) := by
  simp only [execSearchExpire]; (repeat' split) <;> first | (simp; done) | simp_all

theorem execSearchExpire_mem (t : Nat) (s : State) (h : MemOk s) :
    EndsOk (execSearchExpire t s) := by
  simp only [execSearchExpire]; (repeat' split) <;> simp (maxDischargeDepth := 40) (contextual := true) [h.1, h.2.1, h.2.2]

@[simp] theorem execBackupTakeover_kept (t : Nat) (s : State) :
    Keeps (execBackupTakeover t s) s.pending (max s.now t) := by
  simp only [execBackupTakeover]; split <;> simp

theorem execBackupTakeover_mem (t : Nat) (s : State) (h : MemOk s) :
    EndsOk (execBackupTakeover t s) := by
  simp only [execBackupTakeover]; split <;> simpa [MemOk] using h

@[simp] theorem execStatusSlot_kept (t : Nat) (slotEnded : Bool) (s : State) :
    Keeps (execStatusSlot t slotEnded s) s.pending (max s.now t) := by
  simp only [execStatusSlot]
  generalize statusSlotOver (clockTo t s) = w, inStatusSlot (clockTo t s) = q
  (repeat' split) <;> simp

theorem execStatusSlot_mem (t : Nat) (slotEnded : Bool) (s : State) (h : MemOk s) :
    EndsOk (execStatusSlot t slotEnded s) := by
  simp only [execStatusSlot]
  generalize statusSlotOver (clockTo t s) = w, inStatusSlot (clockTo t s) = q
  (repeat' split) <;> simpa [MemOk] using h

@[simp] theorem execStatusFrameReceive_kept (t : Nat) (src : NetSource) (frame : List Byte) (s : State) :
    Keeps (execStatusFrameReceive t src frame s) s.pending (max s.now t) := by
  simp only [execStatusFrameReceive]; (repeat' split) <;> first | (simp; done) | simp_all

theorem execStatusFrameReceive_mem (t : Nat) (src : NetSource) (frame : List Byte) (s : State) (h : MemOk s) :
    EndsOk (execStatusFrameReceive t src frame s) := by
  simp only [execStatusFrameReceive]; (repeat' split) <;> simp (maxDischargeDepth := 40) (contextual := true) [h.1, h.2.1, h.2.2]

@[simp] theorem execPlcaBeaconChange_kept (t : Nat) (heard : Bool) (s : State) :
    Keeps (execPlcaBeaconChange t heard s) s.pending (max s.now t) := by
  simp only [execPlcaBeaconChange]; (repeat' split) <;> first | (simp; done) | simp_all

theorem execPlcaBeaconChange_mem (t : Nat) (heard : Bool) (s : State) (h : MemOk s) :
    EndsOk (execPlcaBeaconChange t heard s) := by
  simp only [execPlcaBeaconChange]; (repeat' split) <;> simp (maxDischargeDepth := 40) (contextual := true) [h.1, h.2.1, h.2.2]

@[simp] theorem takeSolicitation_kept (src : NetSource) (message : List Byte) (s : State) :
    (takeSolicitation src message s).pending = s.pending ∧ (takeSolicitation src message s).now = s.now ∧
    (takeSolicitation src message s).hbm = s.hbm ∧ (takeSolicitation src message s).cellar = s.cellar ∧
    (takeSolicitation src message s).hostMem = s.hostMem := by
  simp only [takeSolicitation]; (repeat' split) <;> first | (simp; done) | simp_all

@[simp] theorem takeAdvertisement_kept (message : List Byte) (s : State) :
    (takeAdvertisement message s).pending = s.pending ∧ (takeAdvertisement message s).now = s.now ∧
    (takeAdvertisement message s).hbm = s.hbm ∧ (takeAdvertisement message s).cellar = s.cellar ∧
    (takeAdvertisement message s).hostMem = s.hostMem := by
  simp only [takeAdvertisement]; (repeat' split) <;> first | (simp; done) | simp_all

@[simp] theorem execIcmpv6Message_kept (t : Nat) (src : NetSource) (message : List Byte) (s : State) :
    Keeps (execIcmpv6Message t src message s) s.pending (max s.now t) := by
  simp only [execIcmpv6Message]; (repeat' split) <;> first | (simp; done) | simp_all

theorem execIcmpv6Message_mem (t : Nat) (src : NetSource) (message : List Byte) (s : State) (h : MemOk s) :
    EndsOk (execIcmpv6Message t src message s) := by
  simp only [execIcmpv6Message]; (repeat' split) <;> simp (maxDischargeDepth := 40) (contextual := true) [h.1, h.2.1, h.2.2]

@[simp] theorem sendJop_kept (client : Nat) (f : List Byte) (s : State) :
    (sendJop client f s).pending = s.pending ∧ (sendJop client f s).now = s.now ∧ (sendJop client f s).hbm = s.hbm ∧
    (sendJop client f s).cellar = s.cellar ∧ (sendJop client f s).hostMem = s.hostMem := by
  simp only [sendJop]; (repeat' split) <;> first | (simp; done) | simp_all

@[simp] theorem refuseSession_kept (client code : Nat) (s : State) :
    (refuseSession client code s).pending = s.pending ∧ (refuseSession client code s).now = s.now ∧
    (refuseSession client code s).hbm = s.hbm ∧ (refuseSession client code s).cellar = s.cellar ∧
    (refuseSession client code s).hostMem = s.hostMem := by
  simp only [refuseSession]; (repeat' split) <;> first | (simp; done) | simp_all

@[simp] theorem acceptSession_kept (client : Nat) (body : List Byte) (s : State) :
    (acceptSession client body s).pending = s.pending ∧ (acceptSession client body s).now = s.now ∧
    (acceptSession client body s).hbm = s.hbm ∧ (acceptSession client body s).cellar = s.cellar ∧
    (acceptSession client body s).hostMem = s.hostMem := by
  simp only [acceptSession]; (repeat' split) <;> first | (simp; done) | simp_all

@[simp] theorem countOpen_kept (s : State) :
    (countOpen s).pending = s.pending ∧ (countOpen s).now = s.now ∧ (countOpen s).hbm = s.hbm ∧
    (countOpen s).cellar = s.cellar ∧ (countOpen s).hostMem = s.hostMem := by
  simp only [countOpen]; (repeat' split) <;> first | (simp; done) | simp_all

@[simp] theorem touchSession_kept (n : Nat) (s : State) :
    (touchSession n s).pending = s.pending ∧ (touchSession n s).now = s.now ∧ (touchSession n s).hbm = s.hbm ∧
    (touchSession n s).cellar = s.cellar ∧ (touchSession n s).hostMem = s.hostMem := by
  simp only [touchSession]; (repeat' split) <;> first | (simp; done) | simp_all

@[simp] theorem takeFrame_kept (src : NetSource) (f : List Byte) (awaited : Bool) (effect : State → State) (s : State)
    (h : ∀ u, (effect u).pending = u.pending ∧ (effect u).now = u.now) :
    (takeFrame src f awaited effect s).pending = s.pending ∧ (takeFrame src f awaited effect s).now = s.now := by
  simp only [takeFrame]; (repeat' split) <;> simp [h]

@[simp] theorem takeFrame_mem (src : NetSource) (f : List Byte) (awaited : Bool) (effect : State → State) (s : State)
    (h : ∀ u, (Memory.wf u.hbm = true → Memory.wf (effect u).hbm = true) ∧
      (Memory.wf u.cellar = true → Memory.wf (effect u).cellar = true) ∧
      (Memory.wf u.hostMem = true → Memory.wf (effect u).hostMem = true)) :
    (Memory.wf s.hbm = true → Memory.wf (takeFrame src f awaited effect s).hbm = true) ∧
    (Memory.wf s.cellar = true → Memory.wf (takeFrame src f awaited effect s).cellar = true) ∧
    (Memory.wf s.hostMem = true → Memory.wf (takeFrame src f awaited effect s).hostMem = true) := by
  refine ⟨fun w => ?_, fun w => ?_, fun w => ?_⟩ <;>
    (simp only [takeFrame]; (repeat' split) <;> first | (simpa using w) | (simp [h, w]; done) | (simp; done))

@[simp] theorem openSession_kept (client before : Nat) (body : List Byte) (s : State) :
    (openSession client before body s).pending = s.pending ∧ (openSession client before body s).now = s.now ∧
    (openSession client before body s).hbm = s.hbm ∧ (openSession client before body s).cellar = s.cellar ∧
    (openSession client before body s).hostMem = s.hostMem := by
  simp only [openSession]; (repeat' split) <;> first | (simp; done) | simp_all

@[simp] theorem execSessionOpen_kept (t : Nat) (src : NetSource) (frame : List Byte) (s : State) :
    Keeps (execSessionOpen t src frame s) s.pending (max s.now t) := by
  simp only [execSessionOpen]; (repeat' split) <;> first | (simp; done) | simp_all

theorem execSessionOpen_mem (t : Nat) (src : NetSource) (frame : List Byte) (s : State) (h : MemOk s) :
    EndsOk (execSessionOpen t src frame s) := by
  simp only [execSessionOpen]; (repeat' split) <;> simp (maxDischargeDepth := 40) (contextual := true) [h.1, h.2.1, h.2.2]

@[simp] theorem endSession_kept (n : Nat) (s : State) :
    (endSession n s).pending = s.pending ∧ (endSession n s).now = s.now ∧ (endSession n s).hbm = s.hbm ∧
    (endSession n s).cellar = s.cellar ∧ (endSession n s).hostMem = s.hostMem := by
  simp only [endSession]; (repeat' split) <;> first | (simp; done) | simp_all

@[simp] theorem confirmSession_kept (n : Nat) (s : State) :
    (confirmSession n s).pending = s.pending ∧ (confirmSession n s).now = s.now ∧ (confirmSession n s).hbm = s.hbm ∧
    (confirmSession n s).cellar = s.cellar ∧ (confirmSession n s).hostMem = s.hostMem := by
  simp only [confirmSession]; (repeat' split) <;> first | (simp; done) | simp_all

@[simp] theorem execSessionConfirm_kept (t : Nat) (src : NetSource) (frame : List Byte) (s : State) :
    Keeps (execSessionConfirm t src frame s) s.pending (max s.now t) := by
  simp only [execSessionConfirm]; (repeat' split) <;> first | (simp; done) | simp_all

theorem execSessionConfirm_mem (t : Nat) (src : NetSource) (frame : List Byte) (s : State) (h : MemOk s) :
    EndsOk (execSessionConfirm t src frame s) := by
  simp only [execSessionConfirm]; (repeat' split) <;> simp (maxDischargeDepth := 40) (contextual := true) [h.1, h.2.1, h.2.2]

@[simp] theorem execSessionClose_kept (t : Nat) (src : NetSource) (frame : List Byte) (s : State) :
    Keeps (execSessionClose t src frame s) s.pending (max s.now t) := by
  simp only [execSessionClose]; (repeat' split) <;> first | (simp; done) | simp_all

theorem execSessionClose_mem (t : Nat) (src : NetSource) (frame : List Byte) (s : State) (h : MemOk s) :
    EndsOk (execSessionClose t src frame s) := by
  simp only [execSessionClose]; (repeat' split) <;> simp (maxDischargeDepth := 40) (contextual := true) [h.1, h.2.1, h.2.2]

@[simp] theorem execHalfOpenExpire_kept (t session : Nat) (s : State) :
    Keeps (execHalfOpenExpire t session s) s.pending (max s.now t) := by
  simp only [execHalfOpenExpire]; (repeat' split) <;> first | (simp; done) | simp_all

theorem execHalfOpenExpire_mem (t session : Nat) (s : State) (h : MemOk s) :
    EndsOk (execHalfOpenExpire t session s) := by
  simp only [execHalfOpenExpire]; (repeat' split) <;> simp (maxDischargeDepth := 40) (contextual := true) [h.1, h.2.1, h.2.2]

@[simp] theorem execSessionIdleExpire_kept (t session : Nat) (s : State) :
    Keeps (execSessionIdleExpire t session s) s.pending (max s.now t) := by
  simp only [execSessionIdleExpire]; (repeat' split) <;> first | (simp; done) | simp_all

theorem execSessionIdleExpire_mem (t session : Nat) (s : State) (h : MemOk s) :
    EndsOk (execSessionIdleExpire t session s) := by
  simp only [execSessionIdleExpire]; (repeat' split) <;> simp (maxDischargeDepth := 40) (contextual := true) [h.1, h.2.1, h.2.2]

@[simp] theorem execJopFrameDiscard_kept (t : Nat) (src : NetSource) (frame : List Byte) (s : State) :
    Keeps (execJopFrameDiscard t src frame s) s.pending (max s.now t) := by
  simp only [execJopFrameDiscard]; (repeat' split) <;> first | (simp; done) | simp_all

theorem execJopFrameDiscard_mem (t : Nat) (src : NetSource) (frame : List Byte) (s : State) (h : MemOk s) :
    EndsOk (execJopFrameDiscard t src frame s) := by
  simp only [execJopFrameDiscard]; (repeat' split) <;> simp (maxDischargeDepth := 40) (contextual := true) [h.1, h.2.1, h.2.2]

@[simp] theorem sendReply_kept (session client : Nat) (body : List Byte) (s : State) :
    (sendReply session client body s).pending = s.pending ∧ (sendReply session client body s).now = s.now ∧
    (sendReply session client body s).hbm = s.hbm ∧ (sendReply session client body s).cellar = s.cellar ∧
    (sendReply session client body s).hostMem = s.hostMem := by
  simp only [sendReply]; (repeat' split) <;> first | (simp; done) | simp_all

@[simp] theorem queueRequest_kept (client n : Nat) (body : List Byte) (s : State) :
    (queueRequest client n body s).pending = s.pending ∧ (queueRequest client n body s).now = s.now := by
  simp only [queueRequest]; (repeat' split) <;> first | (simp; done) | simp_all

@[simp] theorem queueRequest_mem (client n : Nat) (body : List Byte) (s : State) :
    (Memory.wf s.hbm = true → Memory.wf (queueRequest client n body s).hbm = true) ∧
    (Memory.wf s.cellar = true → Memory.wf (queueRequest client n body s).cellar = true) ∧
    (Memory.wf s.hostMem = true → Memory.wf (queueRequest client n body s).hostMem = true) := by
  refine ⟨fun h => ?_, fun h => ?_, fun h => ?_⟩ <;>
    (simp only [queueRequest]; (repeat' split) <;> simp (maxDischargeDepth := 40) (contextual := true) [h])

@[simp] theorem execJopRequest_kept (t : Nat) (src : NetSource) (frame : List Byte) (s : State) :
    Keeps (execJopRequest t src frame s) s.pending (max s.now t) := by
  simp only [execJopRequest]; (repeat' split) <;> first | (simp; done) | simp_all

theorem execJopRequest_mem (t : Nat) (src : NetSource) (frame : List Byte) (s : State) (h : MemOk s) :
    EndsOk (execJopRequest t src frame s) := by
  simp only [execJopRequest]; (repeat' split) <;> simp (maxDischargeDepth := 40) (contextual := true) [h.1, h.2.1, h.2.2]

@[simp] theorem modPort_kept (p : Nat) (f : Port → Port) (s : State) :
    (modPort p f s).pending = s.pending ∧ (modPort p f s).now = s.now ∧ (modPort p f s).hbm = s.hbm ∧
    (modPort p f s).cellar = s.cellar ∧ (modPort p f s).hostMem = s.hostMem := by
  simp only [modPort]; (repeat' split) <;> first | (simp; done) | simp_all

@[simp] theorem submitSlab_kept (x : Slab) (s : State) :
    (submitSlab x s).pending = s.pending ∧ (submitSlab x s).now = s.now ∧ (submitSlab x s).hbm = s.hbm ∧
    (submitSlab x s).cellar = s.cellar ∧ (submitSlab x s).hostMem = s.hostMem := by
  simp only [submitSlab]; (repeat' split) <;> first | (simp; done) | simp_all

@[simp] theorem enqueue_kept (p : Nat) (x : Slab) (s : State) :
    (enqueue p x s).pending = s.pending ∧ (enqueue p x s).now = s.now ∧ (enqueue p x s).hbm = s.hbm ∧
    (enqueue p x s).cellar = s.cellar ∧ (enqueue p x s).hostMem = s.hostMem := by
  simp only [enqueue]; (repeat' split) <;> first | (simp; done) | simp_all

@[simp] theorem freePlace_kept (x : Slab) (s : State) :
    (freePlace x s).pending = s.pending ∧ (freePlace x s).now = s.now ∧ (freePlace x s).hbm = s.hbm ∧
    (freePlace x s).cellar = s.cellar ∧ (freePlace x s).hostMem = s.hostMem := by
  simp only [freePlace]; (repeat' split) <;> first | (simp; done) | simp_all

@[simp] theorem floodNotice_kept (x : Slab) (except : Option Nat) (s : State) :
    (floodNotice x except s).pending = s.pending ∧ (floodNotice x except s).now = s.now ∧
    (floodNotice x except s).hbm = s.hbm ∧ (floodNotice x except s).cellar = s.cellar ∧
    (floodNotice x except s).hostMem = s.hostMem := by
  simp only [floodNotice]; (repeat' split) <;> first | (simp; done) | simp_all

@[simp] theorem portNotice_kept (cause cycle port : Nat) (s : State) :
    (portNotice cause cycle port s).pending = s.pending ∧ (portNotice cause cycle port s).now = s.now ∧
    (portNotice cause cycle port s).hbm = s.hbm ∧ (portNotice cause cycle port s).cellar = s.cellar ∧
    (portNotice cause cycle port s).hostMem = s.hostMem := by
  simp only [portNotice]; (repeat' split) <;> first | (simp; done) | simp_all

@[simp] theorem linkNotice_kept (cause cycle : Nat) (s : State) :
    (linkNotice cause cycle s).pending = s.pending ∧ (linkNotice cause cycle s).now = s.now ∧
    (linkNotice cause cycle s).hbm = s.hbm ∧ (linkNotice cause cycle s).cellar = s.cellar ∧
    (linkNotice cause cycle s).hostMem = s.hostMem := by
  simp only [linkNotice]; (repeat' split) <;> first | (simp; done) | simp_all

@[simp] theorem sendNotice_kept (cause cycle : Nat) (s : State) :
    (sendNotice cause cycle s).pending = s.pending ∧ (sendNotice cause cycle s).now = s.now ∧
    (sendNotice cause cycle s).hbm = s.hbm ∧ (sendNotice cause cycle s).cellar = s.cellar ∧
    (sendNotice cause cycle s).hostMem = s.hostMem := by
  simp only [sendNotice]; (repeat' split) <;> first | (simp; done) | simp_all

@[simp] theorem hbmWrite_kept (a : Nat) (bs : List Byte) (s : State) :
    (hbmWrite a bs s).pending = s.pending ∧ (hbmWrite a bs s).now = s.now := by
  simp only [hbmWrite]; (repeat' split) <;> first | (simp; done) | simp_all

@[simp] theorem hbmWrite_same (a : Nat) (bs : List Byte) (s : State) :
    (hbmWrite a bs s).cellar = s.cellar ∧ (hbmWrite a bs s).hostMem = s.hostMem := ⟨rfl, rfl⟩

@[simp] theorem hbmWrite_mem (a : Nat) (bs : List Byte) (s : State) (h : Memory.wf s.hbm = true) :
    Memory.wf (hbmWrite a bs s).hbm = true := memWrite_wf _ _ _ h

@[simp] theorem cellarWrite_kept (a : Nat) (bs : List Byte) (s : State) :
    (cellarWrite a bs s).pending = s.pending ∧ (cellarWrite a bs s).now = s.now := by
  simp only [cellarWrite]; (repeat' split) <;> first | (simp; done) | simp_all

@[simp] theorem cellarWrite_same (a : Nat) (bs : List Byte) (s : State) :
    (cellarWrite a bs s).hbm = s.hbm ∧ (cellarWrite a bs s).hostMem = s.hostMem := ⟨rfl, rfl⟩

@[simp] theorem cellarWrite_mem (a : Nat) (bs : List Byte) (s : State) (h : Memory.wf s.cellar = true) :
    Memory.wf (cellarWrite a bs s).cellar = true := memWrite_wf _ _ _ h

@[simp] theorem hostWrite_kept (a : Nat) (bs : List Byte) (s : State) :
    (hostWrite a bs s).pending = s.pending ∧ (hostWrite a bs s).now = s.now := by
  simp only [hostWrite]; (repeat' split) <;> first | (simp; done) | simp_all

@[simp] theorem hostWrite_same (a : Nat) (bs : List Byte) (s : State) :
    (hostWrite a bs s).hbm = s.hbm ∧ (hostWrite a bs s).cellar = s.cellar := ⟨rfl, rfl⟩

@[simp] theorem hostWrite_mem (a : Nat) (bs : List Byte) (s : State) (h : Memory.wf s.hostMem = true) :
    Memory.wf (hostWrite a bs s).hostMem = true := memWrite_wf _ _ _ h

@[simp] theorem markHbm_kept (v : Bool) (ps : List Nat) (s : State) :
    (markHbm v ps s).pending = s.pending ∧ (markHbm v ps s).now = s.now ∧ (markHbm v ps s).hbm = s.hbm ∧
    (markHbm v ps s).cellar = s.cellar ∧ (markHbm v ps s).hostMem = s.hostMem := by
  simp only [markHbm]; (repeat' split) <;> first | (simp; done) | simp_all

end Sys2Proof.Machine
end

