-- ==== Sys2Proof/Laws/FramesHost.lean ====
section
/-! SUPPORT. What each operation leaves as it was: the queue, local time and the memories it does not write; and that
the memories it writes stay canonical.  This file: queues, groups, tiles and the fabric as other units use them. -/

namespace Sys2Proof.Machine

@[simp] theorem modQueue_kept (q : Nat) (f : Queue → Queue) (s : State) :
    (modQueue q f s).pending = s.pending ∧ (modQueue q f s).now = s.now ∧ (modQueue q f s).hbm = s.hbm ∧
    (modQueue q f s).cellar = s.cellar ∧ (modQueue q f s).hostMem = s.hostMem := by
  simp only [modQueue]; (repeat' split) <;> first | (simp; done) | simp_all

@[simp] theorem modDesc_kept (q index : Nat) (f : Desc → Desc) (s : State) :
    (modDesc q index f s).pending = s.pending ∧ (modDesc q index f s).now = s.now ∧
    (modDesc q index f s).hbm = s.hbm ∧ (modDesc q index f s).cellar = s.cellar ∧
    (modDesc q index f s).hostMem = s.hostMem := by
  simp only [modDesc]; (repeat' split) <;> first | (simp; done) | simp_all

@[simp] theorem endDesc_kept (q index status cause result : Nat) (s : State) :
    (endDesc q index status cause result s).pending = s.pending ∧
    (endDesc q index status cause result s).now = s.now ∧ (endDesc q index status cause result s).hbm = s.hbm ∧
    (endDesc q index status cause result s).cellar = s.cellar ∧
    (endDesc q index status cause result s).hostMem = s.hostMem := by
  simp only [endDesc]; (repeat' split) <;> first | (simp; done) | simp_all

@[simp] theorem writeRing_kept (space a : Nat) (bs : List Byte) (s : State) :
    (writeRing space a bs s).pending = s.pending ∧ (writeRing space a bs s).now = s.now ∧
    (writeRing space a bs s).cellar = s.cellar := by
  simp only [writeRing]; (repeat' split) <;> first | (simp; done) | simp_all

@[simp] theorem writeRing_mem (space a : Nat) (bs : List Byte) (s : State) :
    (Memory.wf s.hbm = true → Memory.wf (writeRing space a bs s).hbm = true) ∧
    (Memory.wf s.hostMem = true → Memory.wf (writeRing space a bs s).hostMem = true) := by
  refine ⟨fun h => ?_, fun h => ?_⟩ <;>
    (simp only [writeRing]; (repeat' split) <;> simp (maxDischargeDepth := 40) (contextual := true) [h])

@[simp] theorem signalRecord_kept (q : Nat) (d : Desc) (s : State) :
    (signalRecord q d s).pending = s.pending ∧ (signalRecord q d s).now = s.now ∧ (signalRecord q d s).hbm = s.hbm ∧
    (signalRecord q d s).cellar = s.cellar ∧ (signalRecord q d s).hostMem = s.hostMem := by
  simp only [signalRecord]; (repeat' split) <;> first | (simp; done) | simp_all

@[simp] theorem countCompleted_kept (q : Nat) (s : State) :
    (countCompleted q s).pending = s.pending ∧ (countCompleted q s).now = s.now ∧
    (countCompleted q s).cellar = s.cellar ∧ (countCompleted q s).hostMem = s.hostMem := by
  simp only [countCompleted]; (repeat' split) <;> first | (simp; done) | simp_all

@[simp] theorem countCompleted_mem (q : Nat) (s : State) :
    (Memory.wf s.hbm = true → Memory.wf (countCompleted q s).hbm = true) := by
  intro h; simp only [countCompleted]; (repeat' split) <;> simp (maxDischargeDepth := 40) (contextual := true) [h]

@[simp] theorem writeRecord_kept (q : Nat) (s : State) :
    (writeRecord q s).pending = s.pending ∧ (writeRecord q s).now = s.now ∧ (writeRecord q s).cellar = s.cellar := by
  simp only [writeRecord]; (repeat' split) <;> first | (simp; done) | simp_all

@[simp] theorem writeRecord_mem (q : Nat) (s : State) :
    (Memory.wf s.hbm = true → Memory.wf (writeRecord q s).hbm = true) ∧
    (Memory.wf s.hostMem = true → Memory.wf (writeRecord q s).hostMem = true) := by
  refine ⟨fun h => ?_, fun h => ?_⟩ <;>
    (simp only [writeRecord]; (repeat' split) <;> simp (maxDischargeDepth := 40) (contextual := true) [h])

@[simp] theorem writeRecords_kept (q n : Nat) (s : State) :
    (writeRecords q n s).pending = s.pending ∧ (writeRecords q n s).now = s.now := by
  induction n generalizing s with
  | zero => simp [writeRecords]
  | succ n ih => simp [writeRecords, ih]

@[simp] theorem writeRecords_same (q n : Nat) (s : State) : (writeRecords q n s).cellar = s.cellar := by
  induction n generalizing s with
  | zero => rfl
  | succ n ih => simp [writeRecords, ih]

@[simp] theorem writeRecords_mem (q n : Nat) (s : State) :
    (Memory.wf s.hbm = true → Memory.wf (writeRecords q n s).hbm = true) ∧
    (Memory.wf s.hostMem = true → Memory.wf (writeRecords q n s).hostMem = true) := by
  induction n generalizing s with
  | zero => exact ⟨id, id⟩
  | succ n ih => exact ⟨fun h => (ih _).1 (by simp [h]), fun h => (ih _).2 (by simp [h])⟩

@[simp] theorem flushRecords_kept (q : Nat) (s : State) :
    (flushRecords q s).pending = s.pending ∧ (flushRecords q s).now = s.now ∧ (flushRecords q s).cellar = s.cellar := by
  simp only [flushRecords]; (repeat' split) <;> first | (simp; done) | simp_all

@[simp] theorem flushRecords_mem (q : Nat) (s : State) :
    (Memory.wf s.hbm = true → Memory.wf (flushRecords q s).hbm = true) ∧
    (Memory.wf s.hostMem = true → Memory.wf (flushRecords q s).hostMem = true) := by
  refine ⟨fun h => ?_, fun h => ?_⟩ <;>
    (simp only [flushRecords]; (repeat' split) <;> simp (maxDischargeDepth := 40) (contextual := true) [h])

@[simp] theorem enableQueue_kept (q : Nat) (s : State) :
    (enableQueue q s).pending = s.pending ∧ (enableQueue q s).now = s.now ∧ (enableQueue q s).cellar = s.cellar := by
  simp only [enableQueue]; (repeat' split) <;> first | (simp; done) | simp_all

@[simp] theorem enableQueue_mem (q : Nat) (s : State) :
    (Memory.wf s.hbm = true → Memory.wf (enableQueue q s).hbm = true) ∧
    (Memory.wf s.hostMem = true → Memory.wf (enableQueue q s).hostMem = true) := by
  refine ⟨fun h => ?_, fun h => ?_⟩ <;>
    (simp only [enableQueue]; (repeat' split) <;> simp (maxDischargeDepth := 40) (contextual := true) [h])

@[simp] theorem execQueueEnable_kept (t : Nat) (queue : Fin 4096) (s : State) :
    Keeps (execQueueEnable t queue s) s.pending (max s.now t) := by
  simp only [execQueueEnable]; (repeat' split) <;> first | (simp; done) | simp_all

theorem execQueueEnable_mem (t : Nat) (queue : Fin 4096) (s : State) (h : MemOk s) :
    EndsOk (execQueueEnable t queue s) := by
  simp only [execQueueEnable]; (repeat' split) <;> simp (maxDischargeDepth := 40) (contextual := true) [h.1, h.2.1, h.2.2]

@[simp] theorem flushUnstarted_kept (q cause : Nat) (s : State) :
    (flushUnstarted q cause s).pending = s.pending ∧ (flushUnstarted q cause s).now = s.now ∧
    (flushUnstarted q cause s).hbm = s.hbm ∧ (flushUnstarted q cause s).cellar = s.cellar ∧
    (flushUnstarted q cause s).hostMem = s.hostMem := by
  simp only [flushUnstarted]; (repeat' split) <;> first | (simp; done) | simp_all

@[simp] theorem disableQueue_kept (q : Nat) (s : State) :
    (disableQueue q s).pending = s.pending ∧ (disableQueue q s).now = s.now ∧ (disableQueue q s).cellar = s.cellar := by
  simp only [disableQueue]; (repeat' split) <;> first | (simp; done) | simp_all

@[simp] theorem disableQueue_mem (q : Nat) (s : State) :
    (Memory.wf s.hbm = true → Memory.wf (disableQueue q s).hbm = true) ∧
    (Memory.wf s.hostMem = true → Memory.wf (disableQueue q s).hostMem = true) := by
  refine ⟨fun h => ?_, fun h => ?_⟩ <;>
    (simp only [disableQueue]; (repeat' split) <;> simp (maxDischargeDepth := 40) (contextual := true) [h])

@[simp] theorem driverDisable_kept (q : Nat) (s : State) :
    (driverDisable q s).pending = s.pending ∧ (driverDisable q s).now = s.now ∧ (driverDisable q s).cellar = s.cellar := by
  simp only [driverDisable]; (repeat' split) <;> first | (simp; done) | simp_all

@[simp] theorem driverDisable_mem (q : Nat) (s : State) :
    (Memory.wf s.hbm = true → Memory.wf (driverDisable q s).hbm = true) ∧
    (Memory.wf s.hostMem = true → Memory.wf (driverDisable q s).hostMem = true) := by
  refine ⟨fun h => ?_, fun h => ?_⟩ <;>
    (simp only [driverDisable]; (repeat' split) <;> simp (maxDischargeDepth := 40) (contextual := true) [h])

@[simp] theorem execQueueDisable_kept (t : Nat) (queue : Fin 4096) (s : State) :
    Keeps (execQueueDisable t queue s) s.pending (max s.now t) := by
  simp only [execQueueDisable]; (repeat' split) <;> first | (simp; done) | simp_all

theorem execQueueDisable_mem (t : Nat) (queue : Fin 4096) (s : State) (h : MemOk s) :
    EndsOk (execQueueDisable t queue s) := by
  simp only [execQueueDisable]; (repeat' split) <;> simp (maxDischargeDepth := 40) (contextual := true) [h.1, h.2.1, h.2.2]

@[simp] theorem retireQueue_kept (q : Nat) (s : State) :
    (retireQueue q s).pending = s.pending ∧ (retireQueue q s).now = s.now ∧ (retireQueue q s).hbm = s.hbm ∧
    (retireQueue q s).cellar = s.cellar ∧ (retireQueue q s).hostMem = s.hostMem := by
  simp only [retireQueue]; (repeat' split) <;> first | (simp; done) | simp_all

@[simp] theorem execQueueFlushDone_kept (t : Nat) (queue : Fin 4096) (s : State) :
    Keeps (execQueueFlushDone t queue s) s.pending (max s.now t) := by
  simp only [execQueueFlushDone]; (repeat' split) <;> first | (simp; done) | simp_all

theorem execQueueFlushDone_mem (t : Nat) (queue : Fin 4096) (s : State) (h : MemOk s) :
    EndsOk (execQueueFlushDone t queue s) := by
  simp only [execQueueFlushDone]; (repeat' split) <;> simp (maxDischargeDepth := 40) (contextual := true) [h.1, h.2.1, h.2.2]

@[simp] theorem writeTail_kept (q bytes value : Nat) (s : State) :
    (writeTail q bytes value s).pending = s.pending ∧ (writeTail q bytes value s).now = s.now ∧
    (writeTail q bytes value s).hbm = s.hbm ∧ (writeTail q bytes value s).cellar = s.cellar ∧
    (writeTail q bytes value s).hostMem = s.hostMem := by
  simp only [writeTail]; (repeat' split) <;> first | (simp; done) | simp_all

@[simp] theorem execDoorbellTail_kept (t : Nat) (queue : Fin 4096) (bytes value : Nat) (s : State) :
    Keeps (execDoorbellTail t queue bytes value s) s.pending (max s.now t) := by
  simp only [execDoorbellTail]; (repeat' split) <;> first | (simp; done) | simp_all

theorem execDoorbellTail_mem (t : Nat) (queue : Fin 4096) (bytes value : Nat) (s : State) (h : MemOk s) :
    EndsOk (execDoorbellTail t queue bytes value s) := by
  simp only [execDoorbellTail]; (repeat' split) <;> simp (maxDischargeDepth := 40) (contextual := true) [h.1, h.2.1, h.2.2]

@[simp] theorem writeCplHead_kept (q value : Nat) (s : State) :
    (writeCplHead q value s).pending = s.pending ∧ (writeCplHead q value s).now = s.now ∧
    (writeCplHead q value s).cellar = s.cellar := by
  simp only [writeCplHead]; (repeat' split) <;> first | (simp; done) | simp_all

@[simp] theorem writeCplHead_mem (q value : Nat) (s : State) :
    (Memory.wf s.hbm = true → Memory.wf (writeCplHead q value s).hbm = true) ∧
    (Memory.wf s.hostMem = true → Memory.wf (writeCplHead q value s).hostMem = true) := by
  refine ⟨fun h => ?_, fun h => ?_⟩ <;>
    (simp only [writeCplHead]; (repeat' split) <;> simp (maxDischargeDepth := 40) (contextual := true) [h])

@[simp] theorem execDoorbellCplHead_kept (t : Nat) (queue : Fin 4096) (value : Nat) (s : State) :
    Keeps (execDoorbellCplHead t queue value s) s.pending (max s.now t) := by
  simp only [execDoorbellCplHead]; (repeat' split) <;> first | (simp; done) | simp_all

theorem execDoorbellCplHead_mem (t : Nat) (queue : Fin 4096) (value : Nat) (s : State) (h : MemOk s) :
    EndsOk (execDoorbellCplHead t queue value s) := by
  simp only [execDoorbellCplHead]; (repeat' split) <;> simp (maxDischargeDepth := 40) (contextual := true) [h.1, h.2.1, h.2.2]

@[simp] theorem modGroup_kept (g : Nat) (f : Group → Group) (s : State) :
    (modGroup g f s).pending = s.pending ∧ (modGroup g f s).now = s.now ∧ (modGroup g f s).hbm = s.hbm ∧
    (modGroup g f s).cellar = s.cellar ∧ (modGroup g f s).hostMem = s.hostMem := by
  simp only [modGroup]; (repeat' split) <;> first | (simp; done) | simp_all

@[simp] theorem enterCollective_kept (q i : Nat) (data : List Byte) (s : State) :
    (enterCollective q i data s).pending = s.pending ∧ (enterCollective q i data s).now = s.now ∧
    (enterCollective q i data s).hbm = s.hbm ∧ (enterCollective q i data s).cellar = s.cellar ∧
    (enterCollective q i data s).hostMem = s.hostMem := by
  simp only [enterCollective]; (repeat' split) <;> first | (simp; done) | simp_all

theorem submitDesc_kept (q : Nat) (data : List Byte) (s u : State) (h : submitDesc q data s = some u) :
    u.pending = s.pending ∧ u.now = s.now := by
  simp only [submitDesc] at h; split at h <;> simp at h; subst h; split <;> simp

theorem submitDesc_same (q : Nat) (data : List Byte) (s u : State) (h : submitDesc q data s = some u) :
    u.cellar = s.cellar ∧ u.hostMem = s.hostMem := by
  simp only [submitDesc] at h; split at h <;> simp at h; subst h; split <;> simp

theorem submitDesc_mem (q : Nat) (data : List Byte) (s u : State) (k : submitDesc q data s = some u)
    (h : Memory.wf s.hbm = true) : Memory.wf u.hbm = true := by
  simp only [submitDesc] at k; split at k <;> simp at k; subst k; split <;> simp [h]

@[simp] theorem takeGate_kept (q : Nat) (fenced : Desc → Bool) (s : State) :
    (takeGate q fenced s).pending = s.pending ∧ (takeGate q fenced s).now = s.now ∧
    (takeGate q fenced s).hbm = s.hbm ∧ (takeGate q fenced s).cellar = s.cellar ∧
    (takeGate q fenced s).hostMem = s.hostMem := by
  simp only [takeGate]; (repeat' split) <;> first | (simp; done) | simp_all

@[simp] theorem admitNext_kept (q : Nat) (fenced : Desc → Bool) (s : State) :
    (admitNext q fenced s).2.pending = s.pending ∧ (admitNext q fenced s).2.now = s.now := by
  simp only [admitNext]; (repeat' split) <;> simp

@[simp] theorem admitNext_same (q : Nat) (fenced : Desc → Bool) (s : State) :
    (admitNext q fenced s).2.hbm = s.hbm ∧ (admitNext q fenced s).2.cellar = s.cellar ∧
    (admitNext q fenced s).2.hostMem = s.hostMem := by
  simp only [admitNext]; (repeat' split) <;> simp

@[simp] theorem startDesc_kept (q index : Nat) (s : State) :
    (startDesc q index s).pending = s.pending ∧ (startDesc q index s).now = s.now ∧
    (startDesc q index s).hbm = s.hbm ∧ (startDesc q index s).cellar = s.cellar ∧
    (startDesc q index s).hostMem = s.hostMem := by
  simp only [startDesc]; (repeat' split) <;> first | (simp; done) | simp_all

@[simp] theorem fetchNext_kept (q : Nat) (s : State) :
    (fetchNext q s).pending = s.pending ∧ (fetchNext q s).now = s.now ∧ (fetchNext q s).hbm = s.hbm ∧
    (fetchNext q s).cellar = s.cellar ∧ (fetchNext q s).hostMem = s.hostMem := by
  simp only [fetchNext]; (repeat' split) <;> first | (simp; done) | simp_all

@[simp] theorem execIrqDelayExpire_kept (t : Nat) (queue : Fin 4096) (s : State) :
    Keeps (execIrqDelayExpire t queue s) s.pending (max s.now t) := by
  simp only [execIrqDelayExpire]; (repeat' split) <;> first | (simp; done) | simp_all

theorem execIrqDelayExpire_mem (t : Nat) (queue : Fin 4096) (s : State) (h : MemOk s) :
    EndsOk (execIrqDelayExpire t queue s) := by
  simp only [execIrqDelayExpire]; (repeat' split) <;> simp (maxDischargeDepth := 40) (contextual := true) [h.1, h.2.1, h.2.2]

@[simp] theorem breakRing_kept (q : Nat) (s : State) :
    (breakRing q s).pending = s.pending ∧ (breakRing q s).now = s.now ∧ (breakRing q s).cellar = s.cellar := by
  simp only [breakRing]; (repeat' split) <;> first | (simp; done) | simp_all

@[simp] theorem breakRing_mem (q : Nat) (s : State) :
    (Memory.wf s.hbm = true → Memory.wf (breakRing q s).hbm = true) ∧
    (Memory.wf s.hostMem = true → Memory.wf (breakRing q s).hostMem = true) := by
  refine ⟨fun h => ?_, fun h => ?_⟩ <;>
    (simp only [breakRing]; (repeat' split) <;> simp (maxDischargeDepth := 40) (contextual := true) [h])

@[simp] theorem execQueueFault_kept (t : Nat) (queue : Fin 4096) (fetch : Bool) (s : State) :
    Keeps (execQueueFault t queue fetch s) s.pending (max s.now t) := by
  simp only [execQueueFault]; (repeat' split) <;> first | (simp; done) | simp_all

theorem execQueueFault_mem (t : Nat) (queue : Fin 4096) (fetch : Bool) (s : State) (h : MemOk s) :
    EndsOk (execQueueFault t queue fetch s) := by
  simp only [execQueueFault]; (repeat' split) <;> simp (maxDischargeDepth := 40) (contextual := true) [h.1, h.2.1, h.2.2]

@[simp] theorem writeWindowBase_kept (v : Nat) (s : State) :
    (writeWindowBase v s).pending = s.pending ∧ (writeWindowBase v s).now = s.now ∧
    (writeWindowBase v s).hbm = s.hbm ∧ (writeWindowBase v s).cellar = s.cellar ∧
    (writeWindowBase v s).hostMem = s.hostMem := by
  simp only [writeWindowBase]; (repeat' split) <;> first | (simp; done) | simp_all

@[simp] theorem execHbmWindowBaseWrite_kept (value : Half) (s : State) :
    Keeps (execHbmWindowBaseWrite value s) s.pending s.now := by
  simp only [execHbmWindowBaseWrite]; (repeat' split) <;> first | (simp; done) | simp_all

theorem execHbmWindowBaseWrite_mem (value : Half) (s : State) (h : MemOk s) :
    EndsOk (execHbmWindowBaseWrite value s) := by
  simp only [execHbmWindowBaseWrite]; (repeat' split) <;> simp (maxDischargeDepth := 40) (contextual := true) [h.1, h.2.1, h.2.2]

@[simp] theorem clearCauses_kept (v : Nat) (s : State) :
    (clearCauses v s).pending = s.pending ∧ (clearCauses v s).now = s.now ∧ (clearCauses v s).hbm = s.hbm ∧
    (clearCauses v s).cellar = s.cellar ∧ (clearCauses v s).hostMem = s.hostMem := by
  simp only [clearCauses]; (repeat' split) <;> first | (simp; done) | simp_all

@[simp] theorem execGlEventCauseWrite_kept (value : Half) (s : State) :
    Keeps (execGlEventCauseWrite value s) s.pending s.now := by
  simp only [execGlEventCauseWrite]; (repeat' split) <;> first | (simp; done) | simp_all

theorem execGlEventCauseWrite_mem (value : Half) (s : State) (h : MemOk s) :
    EndsOk (execGlEventCauseWrite value s) := by
  simp only [execGlEventCauseWrite]; (repeat' split) <;> simp (maxDischargeDepth := 40) (contextual := true) [h.1, h.2.1, h.2.2]

@[simp] theorem latchCount_kept (s : State) :
    (latchCount s).pending = s.pending ∧ (latchCount s).now = s.now ∧ (latchCount s).hbm = s.hbm ∧
    (latchCount s).cellar = s.cellar ∧ (latchCount s).hostMem = s.hostMem := by
  simp only [latchCount]; (repeat' split) <;> first | (simp; done) | simp_all

@[simp] theorem execGlRbCycleLoRead_kept (s : State) :
    Keeps (execGlRbCycleLoRead s) s.pending s.now := by
  simp only [execGlRbCycleLoRead]; (repeat' split) <;> first | (simp; done) | simp_all

theorem execGlRbCycleLoRead_mem (s : State) (h : MemOk s) :
    EndsOk (execGlRbCycleLoRead s) := by
  simp only [execGlRbCycleLoRead]; (repeat' split) <;> simp (maxDischargeDepth := 40) (contextual := true) [h.1, h.2.1, h.2.2]

@[simp] theorem poisonToHost_kept (length : Nat) (s : State) :
    (poisonToHost length s).pending = s.pending ∧ (poisonToHost length s).now = s.now ∧
    (poisonToHost length s).hbm = s.hbm ∧ (poisonToHost length s).cellar = s.cellar ∧
    (poisonToHost length s).hostMem = s.hostMem := by
  simp only [poisonToHost]; (repeat' split) <;> first | (simp; done) | simp_all

@[simp] theorem execBar2Access_kept (offset length : Nat) (write : Option (List Byte)) (s : State) :
    Keeps (execBar2Access offset length write s) s.pending s.now := by
  simp only [execBar2Access]; (repeat' split) <;> first | (simp; done) | simp_all

theorem execBar2Access_mem (offset length : Nat) (write : Option (List Byte)) (s : State) (h : MemOk s) :
    EndsOk (execBar2Access offset length write s) := by
  simp only [execBar2Access]; (repeat' split) <;> simp (maxDischargeDepth := 40) (contextual := true) [h.1, h.2.1, h.2.2]

@[simp] theorem startEndpoint_kept (s : State) :
    (startEndpoint s).pending = s.pending ∧ (startEndpoint s).now = s.now ∧ (startEndpoint s).hbm = s.hbm ∧
    (startEndpoint s).cellar = s.cellar ∧ (startEndpoint s).hostMem = s.hostMem := by
  simp only [startEndpoint]; (repeat' split) <;> first | (simp; done) | simp_all

@[simp] theorem execEndpointReady_kept (t width rate : Nat) (flitMode : Bool) (s : State) :
    Keeps (execEndpointReady t s width rate flitMode) s.pending (max s.now t) := by
  simp only [execEndpointReady]; (repeat' split) <;> first | (simp; done) | simp_all

theorem execEndpointReady_mem (t width rate : Nat) (flitMode : Bool) (s : State) (h : MemOk s) :
    EndsOk (execEndpointReady t s width rate flitMode) := by
  simp only [execEndpointReady]; (repeat' split) <;> simp (maxDischargeDepth := 40) (contextual := true) [h.1, h.2.1, h.2.2]

@[simp] theorem endMailboxSession_kept (s : State) :
    (endMailboxSession s).pending = s.pending ∧ (endMailboxSession s).now = s.now ∧
    (endMailboxSession s).hbm = s.hbm ∧ (endMailboxSession s).cellar = s.cellar ∧
    (endMailboxSession s).hostMem = s.hostMem := by
  simp only [endMailboxSession]; (repeat' split) <;> first | (simp; done) | simp_all

@[simp] theorem dropHostQueues_kept (s : State) :
    (dropHostQueues s).pending = s.pending ∧ (dropHostQueues s).now = s.now ∧ (dropHostQueues s).cellar = s.cellar := by
  simp only [dropHostQueues]; (repeat' split) <;> first | (simp; done) | simp_all

@[simp] theorem dropHostQueues_mem (s : State) :
    (Memory.wf s.hbm = true → Memory.wf (dropHostQueues s).hbm = true) ∧
    (Memory.wf s.hostMem = true → Memory.wf (dropHostQueues s).hostMem = true) := by
  refine ⟨fun h => ?_, fun h => ?_⟩ <;>
    (simp only [dropHostQueues]; (repeat' split) <;> simp (maxDischargeDepth := 40) (contextual := true) [h])

@[simp] theorem modLayer_kept (f : Layer → Layer) (s : State) :
    (modLayer f s).pending = s.pending ∧ (modLayer f s).now = s.now ∧ (modLayer f s).hbm = s.hbm ∧
    (modLayer f s).cellar = s.cellar ∧ (modLayer f s).hostMem = s.hostMem := by
  simp only [modLayer]; (repeat' split) <;> first | (simp; done) | simp_all

@[simp] theorem juncFlags_kept (fl : Nat) (s : State) :
    (juncFlags fl s).pending = s.pending ∧ (juncFlags fl s).now = s.now ∧ (juncFlags fl s).hbm = s.hbm ∧
    (juncFlags fl s).cellar = s.cellar ∧ (juncFlags fl s).hostMem = s.hostMem := by
  simp only [juncFlags]; (repeat' split) <;> first | (simp; done) | simp_all

@[simp] theorem writeWord_kept (a v : Nat) (s : State) :
    (writeWord a v s).pending = s.pending ∧ (writeWord a v s).now = s.now ∧ (writeWord a v s).cellar = s.cellar ∧
    (writeWord a v s).hostMem = s.hostMem := by
  simp only [writeWord]; (repeat' split) <;> first | (simp; done) | simp_all

@[simp] theorem writeWord_mem (a v : Nat) (s : State) :
    (Memory.wf s.hbm = true → Memory.wf (writeWord a v s).hbm = true) := by
  intro h; simp only [writeWord]; (repeat' split) <;> simp (maxDischargeDepth := 40) (contextual := true) [h]

@[simp] theorem dropLayer_kept (l : Layer) (s : State) :
    (dropLayer l s).pending = s.pending ∧ (dropLayer l s).now = s.now ∧ (dropLayer l s).hbm = s.hbm ∧
    (dropLayer l s).cellar = s.cellar ∧ (dropLayer l s).hostMem = s.hostMem := by
  simp only [dropLayer]; (repeat' split) <;> first | (simp; done) | simp_all

@[simp] theorem completeLayer_kept (s : State) :
    (completeLayer s).pending = s.pending ∧ (completeLayer s).now = s.now ∧ (completeLayer s).cellar = s.cellar := by
  simp only [completeLayer]; (repeat' split) <;> first | (simp; done) | simp_all

@[simp] theorem completeLayer_mem (s : State) :
    (Memory.wf s.hbm = true → Memory.wf (completeLayer s).hbm = true) ∧
    (Memory.wf s.hostMem = true → Memory.wf (completeLayer s).hostMem = true) := by
  refine ⟨fun h => ?_, fun h => ?_⟩ <;>
    (simp only [completeLayer]; (repeat' split) <;> simp (maxDischargeDepth := 40) (contextual := true) [h])

@[simp] theorem abortLayer_kept (cause : Nat) (s : State) :
    (abortLayer cause s).pending = s.pending ∧ (abortLayer cause s).now = s.now ∧
    (abortLayer cause s).cellar = s.cellar := by
  simp only [abortLayer]; (repeat' split) <;> first | (simp; done) | simp_all

@[simp] theorem abortLayer_mem (cause : Nat) (s : State) :
    (Memory.wf s.hbm = true → Memory.wf (abortLayer cause s).hbm = true) ∧
    (Memory.wf s.hostMem = true → Memory.wf (abortLayer cause s).hostMem = true) := by
  refine ⟨fun h => ?_, fun h => ?_⟩ <;>
    (simp only [abortLayer]; (repeat' split) <;> simp (maxDischargeDepth := 40) (contextual := true) [h])

@[simp] theorem layerCollDone_kept (index : Nat) (s : State) :
    (layerCollDone index s).pending = s.pending ∧ (layerCollDone index s).now = s.now ∧
    (layerCollDone index s).hbm = s.hbm ∧ (layerCollDone index s).cellar = s.cellar ∧
    (layerCollDone index s).hostMem = s.hostMem := by
  simp only [layerCollDone]; (repeat' split) <;> first | (simp; done) | simp_all

@[simp] theorem engineTo_kept (g code epoch cseq : Nat) (extra : List Byte) (dest : Nat) (s : State) :
    (engineTo g code epoch cseq extra dest s).pending = s.pending ∧
    (engineTo g code epoch cseq extra dest s).now = s.now ∧ (engineTo g code epoch cseq extra dest s).hbm = s.hbm ∧
    (engineTo g code epoch cseq extra dest s).cellar = s.cellar ∧
    (engineTo g code epoch cseq extra dest s).hostMem = s.hostMem := by
  simp only [engineTo]; (repeat' split) <;> first | (simp; done) | simp_all

@[simp] theorem engineToAll_kept (g code epoch cseq : Nat) (extra : List Byte) (dests : List Nat) (s : State) :
    (engineToAll g code epoch cseq extra dests s).pending = s.pending ∧
    (engineToAll g code epoch cseq extra dests s).now = s.now ∧
    (engineToAll g code epoch cseq extra dests s).hbm = s.hbm ∧
    (engineToAll g code epoch cseq extra dests s).cellar = s.cellar ∧
    (engineToAll g code epoch cseq extra dests s).hostMem = s.hostMem := by
  simp only [engineToAll]; (repeat' split) <;> first | (simp; done) | simp_all

@[simp] theorem modCollective_kept (g cseq : Nat) (f : Collective → Collective) (s : State) :
    (modCollective g cseq f s).pending = s.pending ∧ (modCollective g cseq f s).now = s.now ∧
    (modCollective g cseq f s).hbm = s.hbm ∧ (modCollective g cseq f s).cellar = s.cellar ∧
    (modCollective g cseq f s).hostMem = s.hostMem := by
  simp only [modCollective]; (repeat' split) <;> first | (simp; done) | simp_all

@[simp] theorem touch_kept (g cseq : Nat) (s : State) :
    (touch g cseq s).pending = s.pending ∧ (touch g cseq s).now = s.now ∧ (touch g cseq s).hbm = s.hbm ∧
    (touch g cseq s).cellar = s.cellar ∧ (touch g cseq s).hostMem = s.hostMem := by
  simp only [touch]; (repeat' split) <;> first | (simp; done) | simp_all

@[simp] theorem tellRank_kept (g code : Nat) (c : Collective) (extra : List Byte) (d : Nat) (s : State) :
    (tellRank g code c extra d s).pending = s.pending ∧ (tellRank g code c extra d s).now = s.now ∧
    (tellRank g code c extra d s).hbm = s.hbm ∧ (tellRank g code c extra d s).cellar = s.cellar ∧
    (tellRank g code c extra d s).hostMem = s.hostMem := by
  simp only [tellRank]; (repeat' split) <;> first | (simp; done) | simp_all

@[simp] theorem putDst_kept (a : Nat) (bs : List Byte) (s : State) :
    (putDst a bs s).pending = s.pending ∧ (putDst a bs s).now = s.now ∧ (putDst a bs s).cellar = s.cellar ∧
    (putDst a bs s).hostMem = s.hostMem := by
  simp only [putDst]; (repeat' split) <;> first | (simp; done) | simp_all

@[simp] theorem putDst_mem (a : Nat) (bs : List Byte) (s : State) :
    (Memory.wf s.hbm = true → Memory.wf (putDst a bs s).hbm = true) := by
  intro h; simp only [putDst]; (repeat' split) <;> simp (maxDischargeDepth := 40) (contextual := true) [h]

@[simp] theorem writeInSlab_kept (g : Nat) (c : Collective) (x : InSlab) (s : State) :
    (writeInSlab g c x s).pending = s.pending ∧ (writeInSlab g c x s).now = s.now ∧
    (writeInSlab g c x s).cellar = s.cellar ∧ (writeInSlab g c x s).hostMem = s.hostMem := by
  simp only [writeInSlab]; (repeat' split) <;> first | (simp; done) | simp_all

@[simp] theorem writeInSlab_mem (g : Nat) (c : Collective) (x : InSlab) (s : State) :
    (Memory.wf s.hbm = true → Memory.wf (writeInSlab g c x s).hbm = true) := by
  intro h; simp only [writeInSlab]; (repeat' split) <;> simp (maxDischargeDepth := 40) (contextual := true) [h]

@[simp] theorem grantAgain_kept (g : Nat) (c : Collective) (s : State) :
    (grantAgain g c s).pending = s.pending ∧ (grantAgain g c s).now = s.now ∧ (grantAgain g c s).hbm = s.hbm ∧
    (grantAgain g c s).cellar = s.cellar ∧ (grantAgain g c s).hostMem = s.hostMem := by
  simp only [grantAgain]; (repeat' split) <;> first | (simp; done) | simp_all

@[simp] theorem regrantGroup_kept (g : Nat) (s : State) :
    (regrantGroup g s).pending = s.pending ∧ (regrantGroup g s).now = s.now ∧ (regrantGroup g s).hbm = s.hbm ∧
    (regrantGroup g s).cellar = s.cellar ∧ (regrantGroup g s).hostMem = s.hostMem := by
  simp only [regrantGroup]; (repeat' split) <;> first | (simp; done) | simp_all

@[simp] theorem regrantAll_kept (s : State) :
    (regrantAll s).pending = s.pending ∧ (regrantAll s).now = s.now ∧ (regrantAll s).hbm = s.hbm ∧
    (regrantAll s).cellar = s.cellar ∧ (regrantAll s).hostMem = s.hostMem := by
  simp only [regrantAll]; (repeat' split) <;> first | (simp; done) | simp_all

@[simp] theorem loseShare_kept (l : Nat) (s : State) :
    (loseShare l s).pending = s.pending ∧ (loseShare l s).now = s.now ∧ (loseShare l s).hbm = s.hbm ∧
    (loseShare l s).cellar = s.cellar ∧ (loseShare l s).hostMem = s.hostMem := by
  simp only [loseShare]; (repeat' split) <;> first | (simp; done) | simp_all

@[simp] theorem hamperBrick_kept (l : Nat) (s : State) :
    (hamperBrick l s).pending = s.pending ∧ (hamperBrick l s).now = s.now ∧ (hamperBrick l s).cellar = s.cellar ∧
    (hamperBrick l s).hostMem = s.hostMem := by
  simp only [hamperBrick]; (repeat' split) <;> first | (simp; done) | simp_all

@[simp] theorem hamperBrick_mem (l : Nat) (s : State) :
    (Memory.wf s.hbm = true → Memory.wf (hamperBrick l s).hbm = true) := by
  intro h; simp only [hamperBrick]; (repeat' split) <;> simp (maxDischargeDepth := 40) (contextual := true) [h]

@[simp] theorem sendReform_kept (g : Nat) (s : State) :
    (sendReform g s).pending = s.pending ∧ (sendReform g s).now = s.now ∧ (sendReform g s).hbm = s.hbm ∧
    (sendReform g s).cellar = s.cellar ∧ (sendReform g s).hostMem = s.hostMem := by
  simp only [sendReform]; (repeat' split) <;> first | (simp; done) | simp_all

@[simp] theorem undefineDst_kept (g : Nat) (c : Collective) (s : State) :
    (undefineDst g c s).pending = s.pending ∧ (undefineDst g c s).now = s.now ∧
    (undefineDst g c s).cellar = s.cellar ∧ (undefineDst g c s).hostMem = s.hostMem := by
  simp only [undefineDst]; (repeat' split) <;> first | (simp; done) | simp_all

@[simp] theorem undefineDst_mem (g : Nat) (c : Collective) (s : State) :
    (Memory.wf s.hbm = true → Memory.wf (undefineDst g c s).hbm = true) := by
  intro h; simp only [undefineDst]; (repeat' split) <;> simp (maxDischargeDepth := 40) (contextual := true) [h]

@[simp] theorem endCollective_kept (g : Nat) (c : Collective) (status cause result : Nat) (s : State) :
    (endCollective g c status cause result s).pending = s.pending ∧
    (endCollective g c status cause result s).now = s.now ∧
    (endCollective g c status cause result s).cellar = s.cellar := by
  simp only [endCollective]; (repeat' split) <;> first | (simp; done) | simp_all

@[simp] theorem endCollective_mem (g : Nat) (c : Collective) (status cause result : Nat) (s : State) :
    (Memory.wf s.hbm = true → Memory.wf (endCollective g c status cause result s).hbm = true) ∧
    (Memory.wf s.hostMem = true → Memory.wf (endCollective g c status cause result s).hostMem = true) := by
  refine ⟨fun h => ?_, fun h => ?_⟩ <;>
    (simp only [endCollective]; (repeat' split) <;> simp (maxDischargeDepth := 40) (contextual := true) [h])

@[simp] theorem giveBack_kept (g : Nat) (s : State) :
    (giveBack g s).pending = s.pending ∧ (giveBack g s).now = s.now ∧ (giveBack g s).cellar = s.cellar := by
  simp only [giveBack]; (repeat' split) <;> first | (simp; done) | simp_all

@[simp] theorem giveBack_mem (g : Nat) (s : State) :
    (Memory.wf s.hbm = true → Memory.wf (giveBack g s).hbm = true) ∧
    (Memory.wf s.hostMem = true → Memory.wf (giveBack g s).hostMem = true) := by
  refine ⟨fun h => ?_, fun h => ?_⟩ <;>
    (simp only [giveBack]; (repeat' split) <;> simp (maxDischargeDepth := 40) (contextual := true) [h])

@[simp] theorem makeDefined_kept (g cause : Nat) (s : State) :
    (makeDefined g cause s).pending = s.pending ∧ (makeDefined g cause s).now = s.now ∧
    (makeDefined g cause s).cellar = s.cellar := by
  simp only [makeDefined]; (repeat' split) <;> first | (simp; done) | simp_all

@[simp] theorem makeDefined_mem (g cause : Nat) (s : State) :
    (Memory.wf s.hbm = true → Memory.wf (makeDefined g cause s).hbm = true) ∧
    (Memory.wf s.hostMem = true → Memory.wf (makeDefined g cause s).hostMem = true) := by
  refine ⟨fun h => ?_, fun h => ?_⟩ <;>
    (simp only [makeDefined]; (repeat' split) <;> simp (maxDischargeDepth := 40) (contextual := true) [h])

@[simp] theorem completeReform_kept (g : Nat) (s : State) :
    (completeReform g s).pending = s.pending ∧ (completeReform g s).now = s.now ∧
    (completeReform g s).cellar = s.cellar := by
  simp only [completeReform]; (repeat' split) <;> first | (simp; done) | simp_all

@[simp] theorem completeReform_mem (g : Nat) (s : State) :
    (Memory.wf s.hbm = true → Memory.wf (completeReform g s).hbm = true) ∧
    (Memory.wf s.hostMem = true → Memory.wf (completeReform g s).hostMem = true) := by
  refine ⟨fun h => ?_, fun h => ?_⟩ <;>
    (simp only [completeReform]; (repeat' split) <;> simp (maxDischargeDepth := 40) (contextual := true) [h])

@[simp] theorem judgeProposal_kept (g : Nat) (s : State) :
    (judgeProposal g s).pending = s.pending ∧ (judgeProposal g s).now = s.now ∧ (judgeProposal g s).cellar = s.cellar := by
  simp only [judgeProposal]; (repeat' split) <;> first | (simp; done) | simp_all

@[simp] theorem judgeProposal_mem (g : Nat) (s : State) :
    (Memory.wf s.hbm = true → Memory.wf (judgeProposal g s).hbm = true) ∧
    (Memory.wf s.hostMem = true → Memory.wf (judgeProposal g s).hostMem = true) := by
  refine ⟨fun h => ?_, fun h => ?_⟩ <;>
    (simp only [judgeProposal]; (repeat' split) <;> simp (maxDischargeDepth := 40) (contextual := true) [h])

@[simp] theorem reformGroup_kept (g : Nat) (lost : List Nat) (s : State) :
    (reformGroup g lost s).pending = s.pending ∧ (reformGroup g lost s).now = s.now ∧
    (reformGroup g lost s).cellar = s.cellar := by
  simp only [reformGroup]; (repeat' split) <;> first | (simp; done) | simp_all

@[simp] theorem reformGroup_mem (g : Nat) (lost : List Nat) (s : State) :
    (Memory.wf s.hbm = true → Memory.wf (reformGroup g lost s).hbm = true) ∧
    (Memory.wf s.hostMem = true → Memory.wf (reformGroup g lost s).hostMem = true) := by
  refine ⟨fun h => ?_, fun h => ?_⟩ <;>
    (simp only [reformGroup]; (repeat' split) <;> simp (maxDischargeDepth := 40) (contextual := true) [h])

@[simp] theorem countAbort_kept (cause : Nat) (s : State) :
    (countAbort cause s).pending = s.pending ∧ (countAbort cause s).now = s.now ∧ (countAbort cause s).hbm = s.hbm ∧
    (countAbort cause s).cellar = s.cellar ∧ (countAbort cause s).hostMem = s.hostMem := by
  simp only [countAbort]; (repeat' split) <;> first | (simp; done) | simp_all

@[simp] theorem abortCollective_kept (g cause detector : Nat) (c : Collective) (s : State) :
    (abortCollective g cause detector c s).pending = s.pending ∧ (abortCollective g cause detector c s).now = s.now := by
  simp only [abortCollective]; (repeat' split) <;> first | (simp; done) | simp_all

@[simp] theorem abortCollective_mem (g cause detector : Nat) (c : Collective) (s : State) :
    (Memory.wf s.hbm = true → Memory.wf (abortCollective g cause detector c s).hbm = true) ∧
    (Memory.wf s.cellar = true → Memory.wf (abortCollective g cause detector c s).cellar = true) ∧
    (Memory.wf s.hostMem = true → Memory.wf (abortCollective g cause detector c s).hostMem = true) := by
  refine ⟨fun h => ?_, fun h => ?_, fun h => ?_⟩ <;>
    (simp only [abortCollective]; (repeat' split) <;> simp (maxDischargeDepth := 40) (contextual := true) [h])

@[simp] theorem abortAndReform_kept (g cause detector : Nat) (lost : List Nat) (c : Collective) (s : State) :
    (abortAndReform g cause detector lost c s).pending = s.pending ∧
    (abortAndReform g cause detector lost c s).now = s.now := by
  simp only [abortAndReform]; (repeat' split) <;> first | (simp; done) | simp_all

@[simp] theorem abortAndReform_mem (g cause detector : Nat) (lost : List Nat) (c : Collective) (s : State) :
    (Memory.wf s.hbm = true → Memory.wf (abortAndReform g cause detector lost c s).hbm = true) ∧
    (Memory.wf s.cellar = true → Memory.wf (abortAndReform g cause detector lost c s).cellar = true) ∧
    (Memory.wf s.hostMem = true → Memory.wf (abortAndReform g cause detector lost c s).hostMem = true) := by
  refine ⟨fun h => ?_, fun h => ?_, fun h => ?_⟩ <;>
    (simp only [abortAndReform]; (repeat' split) <;> simp (maxDischargeDepth := 40) (contextual := true) [h])

@[simp] theorem memberLost_kept (g addr : Nat) (s : State) :
    (memberLost g addr s).pending = s.pending ∧ (memberLost g addr s).now = s.now := by
  simp only [memberLost]; (repeat' split) <;> first | (simp; done) | simp_all

@[simp] theorem memberLost_mem (g addr : Nat) (s : State) :
    (Memory.wf s.hbm = true → Memory.wf (memberLost g addr s).hbm = true) ∧
    (Memory.wf s.cellar = true → Memory.wf (memberLost g addr s).cellar = true) ∧
    (Memory.wf s.hostMem = true → Memory.wf (memberLost g addr s).hostMem = true) := by
  refine ⟨fun h => ?_, fun h => ?_, fun h => ?_⟩ <;>
    (simp only [memberLost]; (repeat' split) <;> simp (maxDischargeDepth := 40) (contextual := true) [h])

@[simp] theorem lostToGroups_kept (addr : Nat) (s : State) :
    (lostToGroups addr s).pending = s.pending ∧ (lostToGroups addr s).now = s.now := by
  simp only [lostToGroups]; (repeat' split) <;> first | (simp; done) | simp_all

@[simp] theorem lostToGroups_mem (addr : Nat) (s : State) :
    (Memory.wf s.hbm = true → Memory.wf (lostToGroups addr s).hbm = true) ∧
    (Memory.wf s.cellar = true → Memory.wf (lostToGroups addr s).cellar = true) ∧
    (Memory.wf s.hostMem = true → Memory.wf (lostToGroups addr s).hostMem = true) := by
  refine ⟨fun h => ?_, fun h => ?_, fun h => ?_⟩ <;>
    (simp only [lostToGroups]; (repeat' split) <;> simp (maxDischargeDepth := 40) (contextual := true) [h])

@[simp] theorem checkReach_kept (s : State) :
    (checkReach s).pending = s.pending ∧ (checkReach s).now = s.now := by
  simp only [checkReach]; (repeat' split) <;> first | (simp; done) | simp_all

@[simp] theorem checkReach_mem (s : State) :
    (Memory.wf s.hbm = true → Memory.wf (checkReach s).hbm = true) ∧
    (Memory.wf s.cellar = true → Memory.wf (checkReach s).cellar = true) ∧
    (Memory.wf s.hostMem = true → Memory.wf (checkReach s).hostMem = true) := by
  refine ⟨fun h => ?_, fun h => ?_, fun h => ?_⟩ <;>
    (simp only [checkReach]; (repeat' split) <;> simp (maxDischargeDepth := 40) (contextual := true) [h])

@[simp] theorem programEndsCollective_kept (g : Nat) (s : State) :
    (programEndsCollective g s).pending = s.pending ∧ (programEndsCollective g s).now = s.now := by
  simp only [programEndsCollective]; (repeat' split) <;> first | (simp; done) | simp_all

@[simp] theorem programEndsCollective_mem (g : Nat) (s : State) :
    (Memory.wf s.hbm = true → Memory.wf (programEndsCollective g s).hbm = true) ∧
    (Memory.wf s.cellar = true → Memory.wf (programEndsCollective g s).cellar = true) ∧
    (Memory.wf s.hostMem = true → Memory.wf (programEndsCollective g s).hostMem = true) := by
  refine ⟨fun h => ?_, fun h => ?_, fun h => ?_⟩ <;>
    (simp only [programEndsCollective]; (repeat' split) <;> simp (maxDischargeDepth := 40) (contextual := true) [h])

@[simp] theorem noRouteFor_kept (g cseq : Nat) (s : State) :
    (noRouteFor g cseq s).pending = s.pending ∧ (noRouteFor g cseq s).now = s.now := by
  simp only [noRouteFor]; (repeat' split) <;> first | (simp; done) | simp_all

@[simp] theorem noRouteFor_mem (g cseq : Nat) (s : State) :
    (Memory.wf s.hbm = true → Memory.wf (noRouteFor g cseq s).hbm = true) ∧
    (Memory.wf s.cellar = true → Memory.wf (noRouteFor g cseq s).cellar = true) ∧
    (Memory.wf s.hostMem = true → Memory.wf (noRouteFor g cseq s).hostMem = true) := by
  refine ⟨fun h => ?_, fun h => ?_, fun h => ?_⟩ <;>
    (simp only [noRouteFor]; (repeat' split) <;> simp (maxDischargeDepth := 40) (contextual := true) [h])

@[simp] theorem modTile_kept (n : Nat) (f : Tile → Tile) (s : State) :
    (modTile n f s).pending = s.pending ∧ (modTile n f s).now = s.now ∧ (modTile n f s).hbm = s.hbm ∧
    (modTile n f s).cellar = s.cellar ∧ (modTile n f s).hostMem = s.hostMem := by
  simp only [modTile]; (repeat' split) <;> first | (simp; done) | simp_all

@[simp] theorem modProg_kept (f : Program → Program) (s : State) :
    (modProg f s).pending = s.pending ∧ (modProg f s).now = s.now ∧ (modProg f s).hbm = s.hbm ∧
    (modProg f s).cellar = s.cellar ∧ (modProg f s).hostMem = s.hostMem := by
  simp only [modProg]; (repeat' split) <;> first | (simp; done) | simp_all

@[simp] theorem renumber_kept (s : State) :
    (renumber s).pending = s.pending ∧ (renumber s).now = s.now ∧ (renumber s).hbm = s.hbm ∧
    (renumber s).cellar = s.cellar ∧ (renumber s).hostMem = s.hostMem := by
  simp only [renumber]; (repeat' split) <;> first | (simp; done) | simp_all

@[simp] theorem tilePut_kept (p : Program) (n a : Nat) (b : Byte) (s : State) :
    (tilePut p n a b s).pending = s.pending ∧ (tilePut p n a b s).now = s.now ∧
    (tilePut p n a b s).cellar = s.cellar ∧ (tilePut p n a b s).hostMem = s.hostMem := by
  simp only [tilePut]; (repeat' split) <;> first | (simp; done) | simp_all

@[simp] theorem tilePut_mem (p : Program) (n a : Nat) (b : Byte) (s : State) :
    (Memory.wf s.hbm = true → Memory.wf (tilePut p n a b s).hbm = true) := by
  intro h; simp only [tilePut]; (repeat' split) <;> simp (maxDischargeDepth := 40) (contextual := true) [h]

@[simp] theorem tileWrite_kept (p : Program) (n a : Nat) (bs : List Byte) (s : State) :
    (tileWrite p n a bs s).pending = s.pending ∧ (tileWrite p n a bs s).now = s.now ∧
    (tileWrite p n a bs s).cellar = s.cellar ∧ (tileWrite p n a bs s).hostMem = s.hostMem := by
  simp only [tileWrite]; (repeat' split) <;> first | (simp; done) | simp_all

@[simp] theorem tileWrite_mem (p : Program) (n a : Nat) (bs : List Byte) (s : State) :
    (Memory.wf s.hbm = true → Memory.wf (tileWrite p n a bs s).hbm = true) := by
  intro h; simp only [tileWrite]; (repeat' split) <;> simp (maxDischargeDepth := 40) (contextual := true) [h]

@[simp] theorem writeEntry_kept (p : Program) (x : Tile) (pc step : Nat) (s : State) :
    (writeEntry p x pc step s).pending = s.pending ∧ (writeEntry p x pc step s).now = s.now := by
  simp only [writeEntry]; (repeat' split) <;> first | (simp; done) | simp_all

@[simp] theorem writeEntry_mem (p : Program) (x : Tile) (pc step : Nat) (s : State) :
    (Memory.wf s.hbm = true → Memory.wf (writeEntry p x pc step s).hbm = true) ∧
    (Memory.wf s.cellar = true → Memory.wf (writeEntry p x pc step s).cellar = true) ∧
    (Memory.wf s.hostMem = true → Memory.wf (writeEntry p x pc step s).hostMem = true) := by
  refine ⟨fun h => ?_, fun h => ?_, fun h => ?_⟩ <;>
    (simp only [writeEntry]; (repeat' split) <;> simp (maxDischargeDepth := 40) (contextual := true) [h])

@[simp] theorem setQsubs_kept (p : Program) (l v : Nat) (s : State) :
    (setQsubs p l v s).pending = s.pending ∧ (setQsubs p l v s).now = s.now ∧ (setQsubs p l v s).cellar = s.cellar ∧
    (setQsubs p l v s).hostMem = s.hostMem := by
  simp only [setQsubs]; (repeat' split) <;> first | (simp; done) | simp_all

@[simp] theorem setQsubs_mem (p : Program) (l v : Nat) (s : State) :
    (Memory.wf s.hbm = true → Memory.wf (setQsubs p l v s).hbm = true) := by
  intro h; simp only [setQsubs]; (repeat' split) <;> simp (maxDischargeDepth := 40) (contextual := true) [h]

@[simp] theorem reloadTile_kept (p : Program) (n : Nat) (s : State) :
    (reloadTile p n s).pending = s.pending ∧ (reloadTile p n s).now = s.now ∧ (reloadTile p n s).hbm = s.hbm ∧
    (reloadTile p n s).cellar = s.cellar ∧ (reloadTile p n s).hostMem = s.hostMem := by
  simp only [reloadTile]; (repeat' split) <;> first | (simp; done) | simp_all

@[simp] theorem copyStream_kept (p : Program) (n : Nat) (s : State) :
    (copyStream p n s).pending = s.pending ∧ (copyStream p n s).now = s.now ∧ (copyStream p n s).hbm = s.hbm ∧
    (copyStream p n s).cellar = s.cellar ∧ (copyStream p n s).hostMem = s.hostMem := by
  simp only [copyStream]; (repeat' split) <;> first | (simp; done) | simp_all

@[simp] theorem startOnTile_kept (p : Program) (n : Nat) (s : State) :
    (startOnTile p n s).pending = s.pending ∧ (startOnTile p n s).now = s.now := by
  simp only [startOnTile]; (repeat' split) <;> first | (simp; done) | simp_all

@[simp] theorem startOnTile_mem (p : Program) (n : Nat) (s : State) :
    (Memory.wf s.hbm = true → Memory.wf (startOnTile p n s).hbm = true) ∧
    (Memory.wf s.cellar = true → Memory.wf (startOnTile p n s).cellar = true) ∧
    (Memory.wf s.hostMem = true → Memory.wf (startOnTile p n s).hostMem = true) := by
  refine ⟨fun h => ?_, fun h => ?_, fun h => ?_⟩ <;>
    (simp only [startOnTile]; (repeat' split) <;> simp (maxDischargeDepth := 40) (contextual := true) [h])

@[simp] theorem substitute_kept (n : Nat) (s : State) :
    (substitute n s).1.pending = s.pending ∧ (substitute n s).1.now = s.now := by
  simp only [substitute]; split <;> simp

@[simp] theorem substitute_same (n : Nat) (s : State) :
    (substitute n s).1.hbm = s.hbm ∧ (substitute n s).1.cellar = s.cellar ∧ (substitute n s).1.hostMem = s.hostMem := by
  simp only [substitute]; split <;> simp

@[simp] theorem substituteAll_kept (s : State) :
    (substituteAll s).pending = s.pending ∧ (substituteAll s).now = s.now ∧ (substituteAll s).hbm = s.hbm ∧
    (substituteAll s).cellar = s.cellar ∧ (substituteAll s).hostMem = s.hostMem := by
  simp only [substituteAll]; (repeat' split) <;> first | (simp; done) | simp_all

@[simp] theorem checkCapability_kept (s : State) :
    (checkCapability s).pending = s.pending ∧ (checkCapability s).now = s.now ∧ (checkCapability s).hbm = s.hbm ∧
    (checkCapability s).cellar = s.cellar ∧ (checkCapability s).hostMem = s.hostMem := by
  simp only [checkCapability]; (repeat' split) <;> first | (simp; done) | simp_all

@[simp] theorem stopTiles_kept (ns : List Nat) (s : State) :
    (stopTiles ns s).pending = s.pending ∧ (stopTiles ns s).now = s.now ∧ (stopTiles ns s).hbm = s.hbm ∧
    (stopTiles ns s).cellar = s.cellar ∧ (stopTiles ns s).hostMem = s.hostMem := by
  simp only [stopTiles]; (repeat' split) <;> first | (simp; done) | simp_all

@[simp] theorem dropMoverAccesses_kept (s : State) :
    (dropMoverAccesses s).pending = s.pending ∧ (dropMoverAccesses s).now = s.now ∧
    (dropMoverAccesses s).hbm = s.hbm ∧ (dropMoverAccesses s).cellar = s.cellar ∧
    (dropMoverAccesses s).hostMem = s.hostMem := by
  simp only [dropMoverAccesses]; (repeat' split) <;> first | (simp; done) | simp_all

@[simp] theorem releaseProgram_kept (p : Program) (s : State) :
    (releaseProgram p s).pending = s.pending ∧ (releaseProgram p s).now = s.now ∧ (releaseProgram p s).hbm = s.hbm ∧
    (releaseProgram p s).cellar = s.cellar ∧ (releaseProgram p s).hostMem = s.hostMem := by
  simp only [releaseProgram]; (repeat' split) <;> first | (simp; done) | simp_all

@[simp] theorem endProgram_kept (p : Program) (status cause : Nat) (s : State) :
    (endProgram p status cause s).pending = s.pending ∧ (endProgram p status cause s).now = s.now ∧
    (endProgram p status cause s).hbm = s.hbm ∧ (endProgram p status cause s).cellar = s.cellar ∧
    (endProgram p status cause s).hostMem = s.hostMem := by
  simp only [endProgram]; (repeat' split) <;> first | (simp; done) | simp_all

@[simp] theorem abortProgram_kept (cause detail0 detail1 : Nat) (s : State) :
    (abortProgram cause detail0 detail1 s).pending = s.pending ∧ (abortProgram cause detail0 detail1 s).now = s.now := by
  simp only [abortProgram]; (repeat' split) <;> first | (simp; done) | simp_all

@[simp] theorem abortProgram_mem (cause detail0 detail1 : Nat) (s : State) :
    (Memory.wf s.hbm = true → Memory.wf (abortProgram cause detail0 detail1 s).hbm = true) ∧
    (Memory.wf s.cellar = true → Memory.wf (abortProgram cause detail0 detail1 s).cellar = true) ∧
    (Memory.wf s.hostMem = true → Memory.wf (abortProgram cause detail0 detail1 s).hostMem = true) := by
  refine ⟨fun h => ?_, fun h => ?_, fun h => ?_⟩ <;>
    (simp only [abortProgram]; (repeat' split) <;> simp (maxDischargeDepth := 40) (contextual := true) [h])

@[simp] theorem abortAtStep_kept (cause failed : Nat) (s : State) :
    (abortAtStep cause failed s).pending = s.pending ∧ (abortAtStep cause failed s).now = s.now := by
  simp only [abortAtStep]; (repeat' split) <;> first | (simp; done) | simp_all

@[simp] theorem abortAtStep_mem (cause failed : Nat) (s : State) :
    (Memory.wf s.hbm = true → Memory.wf (abortAtStep cause failed s).hbm = true) ∧
    (Memory.wf s.cellar = true → Memory.wf (abortAtStep cause failed s).cellar = true) ∧
    (Memory.wf s.hostMem = true → Memory.wf (abortAtStep cause failed s).hostMem = true) := by
  refine ⟨fun h => ?_, fun h => ?_, fun h => ?_⟩ <;>
    (simp only [abortAtStep]; (repeat' split) <;> simp (maxDischargeDepth := 40) (contextual := true) [h])

@[simp] theorem beginReplay_kept (p : Program) (n : Nat) (s : State) :
    (beginReplay p n s).pending = s.pending ∧ (beginReplay p n s).now = s.now ∧ (beginReplay p n s).hbm = s.hbm ∧
    (beginReplay p n s).cellar = s.cellar ∧ (beginReplay p n s).hostMem = s.hostMem := by
  simp only [beginReplay]; (repeat' split) <;> first | (simp; done) | simp_all

@[simp] theorem afterFence_kept (n : Nat) (had : Tile) (s : State) :
    (afterFence n had s).pending = s.pending ∧ (afterFence n had s).now = s.now := by
  have h := substitute_kept n s
  simp only [afterFence]; (repeat' split) <;> simp_all

@[simp] theorem afterFence_mem (n : Nat) (had : Tile) (s : State) :
    (Memory.wf s.hbm = true → Memory.wf (afterFence n had s).hbm = true) ∧
    (Memory.wf s.cellar = true → Memory.wf (afterFence n had s).cellar = true) ∧
    (Memory.wf s.hostMem = true → Memory.wf (afterFence n had s).hostMem = true) := by
  have k := substitute_same n s
  refine ⟨fun h => ?_, fun h => ?_, fun h => ?_⟩ <;> (simp only [afterFence]; (repeat' split) <;> simp_all)

@[simp] theorem machineCheck_kept (n subcause : Nat) (s : State) :
    (machineCheck n subcause s).pending = s.pending ∧ (machineCheck n subcause s).now = s.now := by
  simp only [machineCheck]; (repeat' split) <;> first | (simp; done) | simp_all

@[simp] theorem machineCheck_mem (n subcause : Nat) (s : State) :
    (Memory.wf s.hbm = true → Memory.wf (machineCheck n subcause s).hbm = true) ∧
    (Memory.wf s.cellar = true → Memory.wf (machineCheck n subcause s).cellar = true) ∧
    (Memory.wf s.hostMem = true → Memory.wf (machineCheck n subcause s).hostMem = true) := by
  refine ⟨fun h => ?_, fun h => ?_, fun h => ?_⟩ <;>
    (simp only [machineCheck]; (repeat' split) <;> simp (maxDischargeDepth := 40) (contextual := true) [h])

@[simp] theorem enterTrap_kept (n cause kind source faultAddr resume : Nat) (atWait : Bool) (s : State) :
    (enterTrap n cause kind source faultAddr resume atWait s).pending = s.pending ∧
    (enterTrap n cause kind source faultAddr resume atWait s).now = s.now ∧
    (enterTrap n cause kind source faultAddr resume atWait s).hbm = s.hbm ∧
    (enterTrap n cause kind source faultAddr resume atWait s).cellar = s.cellar ∧
    (enterTrap n cause kind source faultAddr resume atWait s).hostMem = s.hostMem := by
  simp only [enterTrap]; (repeat' split) <;> first | (simp; done) | simp_all

@[simp] theorem takeFault_kept (n cause addr : Nat) (s : State) :
    (takeFault n cause addr s).pending = s.pending ∧ (takeFault n cause addr s).now = s.now := by
  simp only [takeFault]; (repeat' split) <;> first | (simp; done) | simp_all

@[simp] theorem takeFault_mem (n cause addr : Nat) (s : State) :
    (Memory.wf s.hbm = true → Memory.wf (takeFault n cause addr s).hbm = true) ∧
    (Memory.wf s.cellar = true → Memory.wf (takeFault n cause addr s).cellar = true) ∧
    (Memory.wf s.hostMem = true → Memory.wf (takeFault n cause addr s).hostMem = true) := by
  refine ⟨fun h => ?_, fun h => ?_, fun h => ?_⟩ <;>
    (simp only [takeFault]; (repeat' split) <;> simp (maxDischargeDepth := 40) (contextual := true) [h])

@[simp] theorem modLot_kept (l : Nat) (f : Lot → Lot) (s : State) :
    (modLot l f s).pending = s.pending ∧ (modLot l f s).now = s.now ∧ (modLot l f s).hbm = s.hbm ∧
    (modLot l f s).cellar = s.cellar ∧ (modLot l f s).hostMem = s.hostMem := by
  simp only [modLot]; (repeat' split) <;> first | (simp; done) | simp_all

@[simp] theorem modChip_kept (c : Nat) (f : Chiplet → Chiplet) (s : State) :
    (modChip c f s).pending = s.pending ∧ (modChip c f s).now = s.now ∧ (modChip c f s).hbm = s.hbm ∧
    (modChip c f s).cellar = s.cellar ∧ (modChip c f s).hostMem = s.hostMem := by
  simp only [modChip]; (repeat' split) <;> first | (simp; done) | simp_all

@[simp] theorem modBank_kept (b : Nat) (f : IoBank → IoBank) (s : State) :
    (modBank b f s).pending = s.pending ∧ (modBank b f s).now = s.now ∧ (modBank b f s).hbm = s.hbm ∧
    (modBank b f s).cellar = s.cellar ∧ (modBank b f s).hostMem = s.hostMem := by
  simp only [modBank]; (repeat' split) <;> first | (simp; done) | simp_all

@[simp] theorem setFifo_kept (c : Nat) (ws : List Nat) (s : State) :
    (setFifo c ws s).pending = s.pending ∧ (setFifo c ws s).now = s.now ∧ (setFifo c ws s).hbm = s.hbm ∧
    (setFifo c ws s).cellar = s.cellar ∧ (setFifo c ws s).hostMem = s.hostMem := by
  simp only [setFifo]; (repeat' split) <;> first | (simp; done) | simp_all

@[simp] theorem setStreams_kept (c : Nat) (xs : List Stream) (s : State) :
    (setStreams c xs s).pending = s.pending ∧ (setStreams c xs s).now = s.now ∧ (setStreams c xs s).hbm = s.hbm ∧
    (setStreams c xs s).cellar = s.cellar ∧ (setStreams c xs s).hostMem = s.hostMem := by
  simp only [setStreams]; (repeat' split) <;> first | (simp; done) | simp_all

@[simp] theorem endHead_kept (c status cause : Nat) (s : State) :
    (endHead c status cause s).pending = s.pending ∧ (endHead c status cause s).now = s.now ∧
    (endHead c status cause s).cellar = s.cellar := by
  simp only [endHead]; (repeat' split) <;> first | (simp; done) | simp_all

@[simp] theorem endHead_mem (c status cause : Nat) (s : State) :
    (Memory.wf s.hbm = true → Memory.wf (endHead c status cause s).hbm = true) ∧
    (Memory.wf s.hostMem = true → Memory.wf (endHead c status cause s).hostMem = true) := by
  refine ⟨fun h => ?_, fun h => ?_⟩ <;>
    (simp only [endHead]; (repeat' split) <;> simp (maxDischargeDepth := 40) (contextual := true) [h])

@[simp] theorem settleStreams_kept (c n : Nat) (s : State) :
    (settleStreams c n s).pending = s.pending ∧ (settleStreams c n s).now = s.now := by
  induction n generalizing s with
  | zero => simp [settleStreams]
  | succ n ih => simp only [settleStreams]; (repeat' split) <;> simp [ih]

@[simp] theorem settleStreams_same (c n : Nat) (s : State) : (settleStreams c n s).cellar = s.cellar := by
  induction n generalizing s with
  | zero => rfl
  | succ n ih => simp only [settleStreams]; (repeat' split) <;> simp [ih]

@[simp] theorem settleStreams_mem (c n : Nat) (s : State) :
    (Memory.wf s.hbm = true → Memory.wf (settleStreams c n s).hbm = true) ∧
    (Memory.wf s.hostMem = true → Memory.wf (settleStreams c n s).hostMem = true) := by
  induction n generalizing s with
  | zero => exact ⟨id, id⟩
  | succ n ih =>
    refine ⟨fun h => ?_, fun h => ?_⟩ <;> (simp only [settleStreams]; (repeat' split) <;> simp [ih, h])

@[simp] theorem nextStream_kept (c : Nat) (s : State) :
    (nextStream c s).pending = s.pending ∧ (nextStream c s).now = s.now ∧ (nextStream c s).cellar = s.cellar := by
  simp only [nextStream]; (repeat' split) <;> first | (simp; done) | simp_all

@[simp] theorem nextStream_mem (c : Nat) (s : State) :
    (Memory.wf s.hbm = true → Memory.wf (nextStream c s).hbm = true) ∧
    (Memory.wf s.hostMem = true → Memory.wf (nextStream c s).hostMem = true) := by
  refine ⟨fun h => ?_, fun h => ?_⟩ <;>
    (simp only [nextStream]; (repeat' split) <;> simp (maxDischargeDepth := 40) (contextual := true) [h])

@[simp] theorem endStreams_kept (l status cause : Nat) (s : State) :
    (endStreams l status cause s).pending = s.pending ∧ (endStreams l status cause s).now = s.now ∧
    (endStreams l status cause s).cellar = s.cellar := by
  simp only [endStreams]; (repeat' split) <;> first | (simp; done) | simp_all

@[simp] theorem endStreams_mem (l status cause : Nat) (s : State) :
    (Memory.wf s.hbm = true → Memory.wf (endStreams l status cause s).hbm = true) ∧
    (Memory.wf s.hostMem = true → Memory.wf (endStreams l status cause s).hostMem = true) := by
  refine ⟨fun h => ?_, fun h => ?_⟩ <;>
    (simp only [endStreams]; (repeat' split) <;> simp (maxDischargeDepth := 40) (contextual := true) [h])

@[simp] theorem emptyFifos_kept (l : Nat) (s : State) :
    (emptyFifos l s).pending = s.pending ∧ (emptyFifos l s).now = s.now ∧ (emptyFifos l s).hbm = s.hbm ∧
    (emptyFifos l s).cellar = s.cellar ∧ (emptyFifos l s).hostMem = s.hostMem := by
  simp only [emptyFifos]; (repeat' split) <;> first | (simp; done) | simp_all

@[simp] theorem probeTransition_kept (l n : Nat) (s : State) :
    (probeTransition l n s).pending = s.pending ∧ (probeTransition l n s).now = s.now ∧
    (probeTransition l n s).hbm = s.hbm ∧ (probeTransition l n s).cellar = s.cellar ∧
    (probeTransition l n s).hostMem = s.hostMem := by
  simp only [probeTransition]; (repeat' split) <;> first | (simp; done) | simp_all

@[simp] theorem setCell_kept (l n : Nat) (v : Bool) (s : State) :
    (setCell l n v s).pending = s.pending ∧ (setCell l n v s).now = s.now ∧ (setCell l n v s).hbm = s.hbm ∧
    (setCell l n v s).cellar = s.cellar ∧ (setCell l n v s).hostMem = s.hostMem := by
  simp only [setCell]; (repeat' split) <;> first | (simp; done) | simp_all

@[simp] theorem restCells_kept (l : Nat) (s : State) :
    (restCells l s).pending = s.pending ∧ (restCells l s).now = s.now ∧ (restCells l s).hbm = s.hbm ∧
    (restCells l s).cellar = s.cellar ∧ (restCells l s).hostMem = s.hostMem := by
  simp only [restCells]; (repeat' split) <;> first | (simp; done) | simp_all

@[simp] theorem runCell_kept (l n ports : Nat) (s : State) :
    (runCell l n ports s).pending = s.pending ∧ (runCell l n ports s).now = s.now ∧
    (runCell l n ports s).hbm = s.hbm ∧ (runCell l n ports s).cellar = s.cellar ∧
    (runCell l n ports s).hostMem = s.hostMem := by
  simp only [runCell]; (repeat' split) <;> first | (simp; done) | simp_all

@[simp] theorem runStage_kept (l n : Nat) (s : State) :
    (runStage l n s).pending = s.pending ∧ (runStage l n s).now = s.now ∧ (runStage l n s).hbm = s.hbm ∧
    (runStage l n s).cellar = s.cellar ∧ (runStage l n s).hostMem = s.hostMem := by
  simp only [runStage]; (repeat' split) <;> first | (simp; done) | simp_all

@[simp] theorem fenceLotCore_kept (l cause : Nat) (s : State) :
    (fenceLotCore l cause s).pending = s.pending ∧ (fenceLotCore l cause s).now = s.now ∧
    (fenceLotCore l cause s).cellar = s.cellar := by
  simp only [fenceLotCore]; (repeat' split) <;> first | (simp; done) | simp_all

@[simp] theorem fenceLotCore_mem (l cause : Nat) (s : State) :
    (Memory.wf s.hbm = true → Memory.wf (fenceLotCore l cause s).hbm = true) ∧
    (Memory.wf s.hostMem = true → Memory.wf (fenceLotCore l cause s).hostMem = true) := by
  refine ⟨fun h => ?_, fun h => ?_⟩ <;>
    (simp only [fenceLotCore]; (repeat' split) <;> simp (maxDischargeDepth := 40) (contextual := true) [h])

@[simp] theorem takeOut_kept (l : Nat) (st : LotState) (s : State) :
    (takeOut l st s).pending = s.pending ∧ (takeOut l st s).now = s.now ∧ (takeOut l st s).cellar = s.cellar := by
  simp only [takeOut]; (repeat' split) <;> first | (simp; done) | simp_all

@[simp] theorem takeOut_mem (l : Nat) (st : LotState) (s : State) :
    (Memory.wf s.hbm = true → Memory.wf (takeOut l st s).hbm = true) ∧
    (Memory.wf s.hostMem = true → Memory.wf (takeOut l st s).hostMem = true) := by
  refine ⟨fun h => ?_, fun h => ?_⟩ <;>
    (simp only [takeOut]; (repeat' split) <;> simp (maxDischargeDepth := 40) (contextual := true) [h])

@[simp] theorem clearLot_kept (l : Nat) (s : State) :
    (clearLot l s).pending = s.pending ∧ (clearLot l s).now = s.now ∧ (clearLot l s).hbm = s.hbm ∧
    (clearLot l s).cellar = s.cellar ∧ (clearLot l s).hostMem = s.hostMem := by
  simp only [clearLot]; (repeat' split) <;> first | (simp; done) | simp_all

@[simp] theorem releaseLot_kept (l : Nat) (s : State) :
    (releaseLot l s).pending = s.pending ∧ (releaseLot l s).now = s.now ∧ (releaseLot l s).hbm = s.hbm ∧
    (releaseLot l s).cellar = s.cellar ∧ (releaseLot l s).hostMem = s.hostMem := by
  simp only [releaseLot]; (repeat' split) <;> first | (simp; done) | simp_all

@[simp] theorem startReload_kept (l : Nat) (s : State) :
    (startReload l s).pending = s.pending ∧ (startReload l s).now = s.now ∧ (startReload l s).cellar = s.cellar := by
  simp only [startReload]; (repeat' split) <;> first | (simp; done) | simp_all

@[simp] theorem startReload_mem (l : Nat) (s : State) :
    (Memory.wf s.hbm = true → Memory.wf (startReload l s).hbm = true) ∧
    (Memory.wf s.hostMem = true → Memory.wf (startReload l s).hostMem = true) := by
  refine ⟨fun h => ?_, fun h => ?_⟩ <;>
    (simp only [startReload]; (repeat' split) <;> simp (maxDischargeDepth := 40) (contextual := true) [h])

@[simp] theorem startFullLoad_kept (s : State) :
    (startFullLoad s).pending = s.pending ∧ (startFullLoad s).now = s.now ∧ (startFullLoad s).cellar = s.cellar := by
  simp only [startFullLoad]; (repeat' split) <;> first | (simp; done) | simp_all

@[simp] theorem startFullLoad_mem (s : State) :
    (Memory.wf s.hbm = true → Memory.wf (startFullLoad s).hbm = true) ∧
    (Memory.wf s.hostMem = true → Memory.wf (startFullLoad s).hostMem = true) := by
  refine ⟨fun h => ?_, fun h => ?_⟩ <;>
    (simp only [startFullLoad]; (repeat' split) <;> simp (maxDischargeDepth := 40) (contextual := true) [h])

@[simp] theorem runLotCommand_kept (l : Nat) (s : State) :
    (runLotCommand l s).pending = s.pending ∧ (runLotCommand l s).now = s.now ∧ (runLotCommand l s).cellar = s.cellar := by
  simp only [runLotCommand]; (repeat' split) <;> first | (simp; done) | simp_all

@[simp] theorem runLotCommand_mem (l : Nat) (s : State) :
    (Memory.wf s.hbm = true → Memory.wf (runLotCommand l s).hbm = true) ∧
    (Memory.wf s.hostMem = true → Memory.wf (runLotCommand l s).hostMem = true) := by
  refine ⟨fun h => ?_, fun h => ?_⟩ <;>
    (simp only [runLotCommand]; (repeat' split) <;> simp (maxDischargeDepth := 40) (contextual := true) [h])

@[simp] theorem askFullLoad_kept (s : State) :
    (askFullLoad s).pending = s.pending ∧ (askFullLoad s).now = s.now ∧ (askFullLoad s).cellar = s.cellar := by
  simp only [askFullLoad]; (repeat' split) <;> first | (simp; done) | simp_all

@[simp] theorem askFullLoad_mem (s : State) :
    (Memory.wf s.hbm = true → Memory.wf (askFullLoad s).hbm = true) ∧
    (Memory.wf s.hostMem = true → Memory.wf (askFullLoad s).hostMem = true) := by
  refine ⟨fun h => ?_, fun h => ?_⟩ <;>
    (simp only [askFullLoad]; (repeat' split) <;> simp (maxDischargeDepth := 40) (contextual := true) [h])

@[simp] theorem runWaiting_kept (s : State) :
    (runWaiting s).pending = s.pending ∧ (runWaiting s).now = s.now ∧ (runWaiting s).cellar = s.cellar := by
  simp only [runWaiting]; (repeat' split) <;> first | (simp; done) | simp_all

@[simp] theorem runWaiting_mem (s : State) :
    (Memory.wf s.hbm = true → Memory.wf (runWaiting s).hbm = true) ∧
    (Memory.wf s.hostMem = true → Memory.wf (runWaiting s).hostMem = true) := by
  refine ⟨fun h => ?_, fun h => ?_⟩ <;>
    (simp only [runWaiting]; (repeat' split) <;> simp (maxDischargeDepth := 40) (contextual := true) [h])

@[simp] theorem applyBanks_kept (s : State) :
    (applyBanks s).pending = s.pending ∧ (applyBanks s).now = s.now ∧ (applyBanks s).hbm = s.hbm ∧
    (applyBanks s).cellar = s.cellar ∧ (applyBanks s).hostMem = s.hostMem := by
  simp only [applyBanks]; (repeat' split) <;> first | (simp; done) | simp_all

@[simp] theorem fabricReset_kept (s : State) :
    (fabricReset s).pending = s.pending ∧ (fabricReset s).now = s.now ∧ (fabricReset s).hbm = s.hbm ∧
    (fabricReset s).cellar = s.cellar ∧ (fabricReset s).hostMem = s.hostMem := by
  simp only [fabricReset]; (repeat' split) <;> first | (simp; done) | simp_all

@[simp] theorem fabricVerdict_kept (s : State) :
    (fabricVerdict s).pending = s.pending ∧ (fabricVerdict s).now = s.now ∧ (fabricVerdict s).hbm = s.hbm ∧
    (fabricVerdict s).cellar = s.cellar ∧ (fabricVerdict s).hostMem = s.hostMem := by
  simp only [fabricVerdict]; (repeat' split) <;> first | (simp; done) | simp_all

@[simp] theorem execBallastBurst_kept (tile : Fin 160) (s : State) :
    Keeps (execBallastBurst tile s) s.pending s.now := by
  simp only [execBallastBurst]; (repeat' split) <;> first | (simp; done) | simp_all

theorem execBallastBurst_mem (tile : Fin 160) (s : State) (h : MemOk s) :
    EndsOk (execBallastBurst tile s) := by
  simp only [execBallastBurst]; (repeat' split) <;> simp (maxDischargeDepth := 40) (contextual := true) [h.1, h.2.1, h.2.2]

end Sys2Proof.Machine
end

