-- ==== Sys2Proof/Laws/FramesTiles.lean ====
section
/-! SUPPORT. What each operation leaves as it was: the queue, local time and the memories it does not write; and that
the memories it writes stay canonical.  This file: tile instructions, microwords and mover channels. -/

namespace Sys2Proof.Machine

@[simp] theorem dispatch_kept (n i : Nat) (s : State) :
    (dispatch n i s).pending = s.pending ∧ (dispatch n i s).now = s.now ∧ (dispatch n i s).hbm = s.hbm ∧
    (dispatch n i s).cellar = s.cellar ∧ (dispatch n i s).hostMem = s.hostMem := by
  simp only [dispatch]; (repeat' split) <;> first | (simp; done) | simp_all

@[simp] theorem park_kept (n : Nat) (s : State) :
    (park n s).pending = s.pending ∧ (park n s).now = s.now ∧ (park n s).hbm = s.hbm ∧ (park n s).cellar = s.cellar ∧
    (park n s).hostMem = s.hostMem := by
  simp only [park]; (repeat' split) <;> first | (simp; done) | simp_all

@[simp] theorem endBurst_kept (n : Nat) (s : State) :
    (endBurst n s).pending = s.pending ∧ (endBurst n s).now = s.now ∧ (endBurst n s).hbm = s.hbm ∧
    (endBurst n s).cellar = s.cellar ∧ (endBurst n s).hostMem = s.hostMem := by
  simp only [endBurst]; (repeat' split) <;> first | (simp; done) | simp_all

@[simp] theorem withInstr_kept (t n op : Nat) (k : Program → Nat → State → State) (s : State)
    (h : ∀ p i u, (k p i u).pending = u.pending ∧ (k p i u).now = u.now) :
    Keeps (withInstr t n op k s) s.pending (max s.now t) := by
  simp only [withInstr]; (repeat' split) <;> simp [h]

theorem withInstr_mem (t n op : Nat) (k : Program → Nat → State → State) (s : State)
    (hk : ∀ p i u, MemOk u → MemOk (k p i u)) (h : MemOk s) : EndsOk (withInstr t n op k s) := by
  have hc : MemOk (clockTo t s) := h
  have hd (i : Nat) : MemOk (dispatch n i (clockTo t s)) := by simpa [MemOk] using hc
  have he (u : State) (w : MemOk u) : MemOk (endBurst n u) := by simpa [MemOk] using w
  simp only [withInstr]
  (repeat' split) <;> first
    | exact hc
    | exact he _ (hk _ _ _ (hd _))
    | exact ⟨by simp [h.1], by simp [h.2.1], by simp [h.2.2]⟩

@[simp] theorem retire_kept (n : Nat) (s : State) :
    (retire n s).pending = s.pending ∧ (retire n s).now = s.now ∧ (retire n s).hbm = s.hbm ∧
    (retire n s).cellar = s.cellar ∧ (retire n s).hostMem = s.hostMem := by
  simp only [retire]; (repeat' split) <;> first | (simp; done) | simp_all

@[simp] theorem jump_kept (n i : Nat) (s : State) :
    (jump n i s).pending = s.pending ∧ (jump n i s).now = s.now ∧ (jump n i s).hbm = s.hbm ∧
    (jump n i s).cellar = s.cellar ∧ (jump n i s).hostMem = s.hostMem := by
  simp only [jump]; (repeat' split) <;> first | (simp; done) | simp_all

@[simp] theorem putRd_kept (n i : Nat) (v : Word) (s : State) :
    (putRd n i v s).pending = s.pending ∧ (putRd n i v s).now = s.now ∧ (putRd n i v s).hbm = s.hbm ∧
    (putRd n i v s).cellar = s.cellar ∧ (putRd n i v s).hostMem = s.hostMem := by
  simp only [putRd]; (repeat' split) <;> first | (simp; done) | simp_all

@[simp] theorem issueEngine_kept (n : Nat) (p : Program) (i : Nat) (s : State) :
    (issueEngine n p i s).pending = s.pending ∧ (issueEngine n p i s).now = s.now ∧
    (issueEngine n p i s).hbm = s.hbm ∧ (issueEngine n p i s).cellar = s.cellar ∧
    (issueEngine n p i s).hostMem = s.hostMem := by
  simp only [issueEngine]; (repeat' split) <;> first | (simp; done) | simp_all

@[simp] theorem execEngineOperationComplete_kept (t : Nat) (tile : Fin 160) (s : State) :
    Keeps (execEngineOperationComplete t tile s) s.pending (max s.now t) := by
  simp only [execEngineOperationComplete]; (repeat' split) <;> simp [execEngineOperationComplete.tilePut']

theorem execEngineOperationComplete_mem (t : Nat) (tile : Fin 160) (s : State) (h : MemOk s) :
    EndsOk (execEngineOperationComplete t tile s) := by
  obtain ⟨h1, h2, h3⟩ := h
  simp only [execEngineOperationComplete]; (repeat' split) <;>
    simp (maxDischargeDepth := 40) (contextual := true) [execEngineOperationComplete.tilePut', h1, h2, h3]

@[simp] theorem execTileNop_kept (t : Nat) (tile : Fin 160) (s : State) :
    Keeps (execTileNop t tile s) s.pending (max s.now t) := by
  simp only [execTileNop]; (repeat' split) <;> first | (simp; done) | simp_all

theorem execTileNop_mem (t : Nat) (tile : Fin 160) (s : State) (h : MemOk s) :
    EndsOk (execTileNop t tile s) := by
  simp only [execTileNop]
  exact withInstr_mem _ _ _ _ _ (fun p i u k => by
    obtain ⟨k1, k2, k3⟩ := k
    (repeat' split) <;> simp (maxDischargeDepth := 40) [MemOk, k1, k2, k3]) h

@[simp] theorem execTileEnd_kept (t : Nat) (tile : Fin 160) (s : State) :
    Keeps (execTileEnd t tile s) s.pending (max s.now t) := by
  simp only [execTileEnd]; (repeat' split) <;> first | (simp; done) | simp_all

theorem execTileEnd_mem (t : Nat) (tile : Fin 160) (s : State) (h : MemOk s) :
    EndsOk (execTileEnd t tile s) := by
  simp only [execTileEnd]
  exact withInstr_mem _ _ _ _ _ (fun p i u k => by
    obtain ⟨k1, k2, k3⟩ := k
    (repeat' split) <;> simp (maxDischargeDepth := 40) [MemOk, k1, k2, k3]) h

@[simp] theorem loadGate_kept (s : State) :
    (loadGate s).pending = s.pending ∧ (loadGate s).now = s.now ∧ (loadGate s).hbm = s.hbm ∧
    (loadGate s).cellar = s.cellar ∧ (loadGate s).hostMem = s.hostMem := by
  simp only [loadGate]; (repeat' split) <;> first | (simp; done) | simp_all

@[simp] theorem execTileStep_kept (t : Nat) (tile : Fin 160) (s : State) :
    Keeps (execTileStep t tile s) s.pending (max s.now t) := by
  simp only [execTileStep]; (repeat' split) <;> first | (simp; done) | simp_all

theorem execTileStep_mem (t : Nat) (tile : Fin 160) (s : State) (h : MemOk s) :
    EndsOk (execTileStep t tile s) := by
  simp only [execTileStep]
  exact withInstr_mem _ _ _ _ _ (fun p i u k => by
    obtain ⟨k1, k2, k3⟩ := k
    (repeat' split) <;> simp (maxDischargeDepth := 40) [MemOk, k1, k2, k3]) h

@[simp] theorem execJmp_kept (t : Nat) (tile : Fin 160) (s : State) :
    Keeps (execJmp t tile s) s.pending (max s.now t) := by
  simp only [execJmp]; (repeat' split) <;> first | (simp; done) | simp_all

theorem execJmp_mem (t : Nat) (tile : Fin 160) (s : State) (h : MemOk s) :
    EndsOk (execJmp t tile s) := by
  simp only [execJmp]
  exact withInstr_mem _ _ _ _ _ (fun p i u k => by
    obtain ⟨k1, k2, k3⟩ := k
    (repeat' split) <;> simp (maxDischargeDepth := 40) [MemOk, k1, k2, k3]) h

@[simp] theorem branch_kept (t n op : Nat) (c : Word → Word → Bool) (s : State) :
    Keeps (branch t n op c s) s.pending (max s.now t) := by
  simp only [branch]; exact withInstr_kept _ _ _ _ _ fun p i u => by (repeat' split) <;> simp

theorem branch_mem (t n op : Nat) (c : Word → Word → Bool) (s : State) (h : MemOk s) : EndsOk (branch t n op c s) := by
  simp only [branch]
  exact withInstr_mem _ _ _ _ _ (fun p i u k => by (repeat' split) <;> simp_all [MemOk]) h

@[simp] theorem execBeq_kept (t : Nat) (tile : Fin 160) (s : State) :
    Keeps (execBeq t tile s) s.pending (max s.now t) := by
  simp only [execBeq]; (repeat' split) <;> first | (simp; done) | simp_all

theorem execBeq_mem (t : Nat) (tile : Fin 160) (s : State) (h : MemOk s) :
    EndsOk (execBeq t tile s) := by
  simp only [execBeq]; exact branch_mem _ _ _ _ _ h

@[simp] theorem execBne_kept (t : Nat) (tile : Fin 160) (s : State) :
    Keeps (execBne t tile s) s.pending (max s.now t) := by
  simp only [execBne]; (repeat' split) <;> first | (simp; done) | simp_all

theorem execBne_mem (t : Nat) (tile : Fin 160) (s : State) (h : MemOk s) :
    EndsOk (execBne t tile s) := by
  simp only [execBne]; exact branch_mem _ _ _ _ _ h

@[simp] theorem execBlt_kept (t : Nat) (tile : Fin 160) (s : State) :
    Keeps (execBlt t tile s) s.pending (max s.now t) := by
  simp only [execBlt]; (repeat' split) <;> first | (simp; done) | simp_all

theorem execBlt_mem (t : Nat) (tile : Fin 160) (s : State) (h : MemOk s) :
    EndsOk (execBlt t tile s) := by
  simp only [execBlt]; exact branch_mem _ _ _ _ _ h

@[simp] theorem execBge_kept (t : Nat) (tile : Fin 160) (s : State) :
    Keeps (execBge t tile s) s.pending (max s.now t) := by
  simp only [execBge]; (repeat' split) <;> first | (simp; done) | simp_all

theorem execBge_mem (t : Nat) (tile : Fin 160) (s : State) (h : MemOk s) :
    EndsOk (execBge t tile s) := by
  simp only [execBge]; exact branch_mem _ _ _ _ _ h

@[simp] theorem scalarOp_kept (t n op : Nat) (f : Word → Word → Word) (s : State) :
    Keeps (scalarOp t n op f s) s.pending (max s.now t) := by simp [scalarOp]

theorem scalarOp_mem (t n op : Nat) (f : Word → Word → Word) (s : State) (h : MemOk s) :
    EndsOk (scalarOp t n op f s) := by
  simp only [scalarOp]
  exact withInstr_mem _ _ _ _ _ (fun p i u k => by simp_all [MemOk]) h

@[simp] theorem execAdd_kept (t : Nat) (tile : Fin 160) (s : State) :
    Keeps (execAdd t tile s) s.pending (max s.now t) := by
  simp only [execAdd]; (repeat' split) <;> first | (simp; done) | simp_all

theorem execAdd_mem (t : Nat) (tile : Fin 160) (s : State) (h : MemOk s) :
    EndsOk (execAdd t tile s) := by
  simp only [execAdd]; exact scalarOp_mem _ _ _ _ _ h

@[simp] theorem execSub_kept (t : Nat) (tile : Fin 160) (s : State) :
    Keeps (execSub t tile s) s.pending (max s.now t) := by
  simp only [execSub]; (repeat' split) <;> first | (simp; done) | simp_all

theorem execSub_mem (t : Nat) (tile : Fin 160) (s : State) (h : MemOk s) :
    EndsOk (execSub t tile s) := by
  simp only [execSub]; exact scalarOp_mem _ _ _ _ _ h

@[simp] theorem execAnd_kept (t : Nat) (tile : Fin 160) (s : State) :
    Keeps (execAnd t tile s) s.pending (max s.now t) := by
  simp only [execAnd]; (repeat' split) <;> first | (simp; done) | simp_all

theorem execAnd_mem (t : Nat) (tile : Fin 160) (s : State) (h : MemOk s) :
    EndsOk (execAnd t tile s) := by
  simp only [execAnd]; exact scalarOp_mem _ _ _ _ _ h

@[simp] theorem execOr_kept (t : Nat) (tile : Fin 160) (s : State) :
    Keeps (execOr t tile s) s.pending (max s.now t) := by
  simp only [execOr]; (repeat' split) <;> first | (simp; done) | simp_all

theorem execOr_mem (t : Nat) (tile : Fin 160) (s : State) (h : MemOk s) :
    EndsOk (execOr t tile s) := by
  simp only [execOr]; exact scalarOp_mem _ _ _ _ _ h

@[simp] theorem execXor_kept (t : Nat) (tile : Fin 160) (s : State) :
    Keeps (execXor t tile s) s.pending (max s.now t) := by
  simp only [execXor]; (repeat' split) <;> first | (simp; done) | simp_all

theorem execXor_mem (t : Nat) (tile : Fin 160) (s : State) (h : MemOk s) :
    EndsOk (execXor t tile s) := by
  simp only [execXor]; exact scalarOp_mem _ _ _ _ _ h

@[simp] theorem execShl_kept (t : Nat) (tile : Fin 160) (s : State) :
    Keeps (execShl t tile s) s.pending (max s.now t) := by
  simp only [execShl]; (repeat' split) <;> first | (simp; done) | simp_all

theorem execShl_mem (t : Nat) (tile : Fin 160) (s : State) (h : MemOk s) :
    EndsOk (execShl t tile s) := by
  simp only [execShl]; exact scalarOp_mem _ _ _ _ _ h

@[simp] theorem execShr_kept (t : Nat) (tile : Fin 160) (s : State) :
    Keeps (execShr t tile s) s.pending (max s.now t) := by
  simp only [execShr]; (repeat' split) <;> first | (simp; done) | simp_all

theorem execShr_mem (t : Nat) (tile : Fin 160) (s : State) (h : MemOk s) :
    EndsOk (execShr t tile s) := by
  simp only [execShr]; exact scalarOp_mem _ _ _ _ _ h

@[simp] theorem execAddi_kept (t : Nat) (tile : Fin 160) (s : State) :
    Keeps (execAddi t tile s) s.pending (max s.now t) := by
  simp only [execAddi]; (repeat' split) <;> first | (simp; done) | simp_all

theorem execAddi_mem (t : Nat) (tile : Fin 160) (s : State) (h : MemOk s) :
    EndsOk (execAddi t tile s) := by
  simp only [execAddi]
  exact withInstr_mem _ _ _ _ _ (fun p i u k => by
    obtain ⟨k1, k2, k3⟩ := k
    (repeat' split) <;> simp (maxDischargeDepth := 40) [MemOk, k1, k2, k3]) h

@[simp] theorem execLi_kept (t : Nat) (tile : Fin 160) (s : State) :
    Keeps (execLi t tile s) s.pending (max s.now t) := by
  simp only [execLi]; (repeat' split) <;> first | (simp; done) | simp_all

theorem execLi_mem (t : Nat) (tile : Fin 160) (s : State) (h : MemOk s) :
    EndsOk (execLi t tile s) := by
  simp only [execLi]
  exact withInstr_mem _ _ _ _ _ (fun p i u k => by
    obtain ⟨k1, k2, k3⟩ := k
    (repeat' split) <;> simp (maxDischargeDepth := 40) [MemOk, k1, k2, k3]) h

@[simp] theorem execLd_kept (t : Nat) (tile : Fin 160) (s : State) :
    Keeps (execLd t tile s) s.pending (max s.now t) := by
  simp only [execLd]; (repeat' split) <;> first | (simp; done) | simp_all

theorem execLd_mem (t : Nat) (tile : Fin 160) (s : State) (h : MemOk s) :
    EndsOk (execLd t tile s) := by
  simp only [execLd]
  exact withInstr_mem _ _ _ _ _ (fun p i u k => by
    obtain ⟨k1, k2, k3⟩ := k
    (repeat' split) <;> simp (maxDischargeDepth := 40) [MemOk, k1, k2, k3]) h

@[simp] theorem execSt_kept (t : Nat) (tile : Fin 160) (s : State) :
    Keeps (execSt t tile s) s.pending (max s.now t) := by
  simp only [execSt]; (repeat' split) <;> first | (simp; done) | simp_all

theorem execSt_mem (t : Nat) (tile : Fin 160) (s : State) (h : MemOk s) :
    EndsOk (execSt t tile s) := by
  simp only [execSt]
  exact withInstr_mem _ _ _ _ _ (fun p i u k => by
    obtain ⟨k1, k2, k3⟩ := k
    (repeat' split) <;> simp (maxDischargeDepth := 40) [MemOk, k1, k2, k3]) h

@[simp] theorem execSyncSs_kept (t : Nat) (tile : Fin 160) (s : State) :
    Keeps (execSyncSs t tile s) s.pending (max s.now t) := by
  simp only [execSyncSs]; (repeat' split) <;> first | (simp; done) | simp_all

theorem execSyncSs_mem (t : Nat) (tile : Fin 160) (s : State) (h : MemOk s) :
    EndsOk (execSyncSs t tile s) := by
  simp only [execSyncSs]
  exact withInstr_mem _ _ _ _ _ (fun p i u k => by
    obtain ⟨k1, k2, k3⟩ := k
    (repeat' split) <;> simp (maxDischargeDepth := 40) [MemOk, k1, k2, k3]) h

@[simp] theorem execSyncLl_kept (t : Nat) (tile : Fin 160) (s : State) :
    Keeps (execSyncLl t tile s) s.pending (max s.now t) := by
  simp only [execSyncLl]; (repeat' split) <;> first | (simp; done) | simp_all

theorem execSyncLl_mem (t : Nat) (tile : Fin 160) (s : State) (h : MemOk s) :
    EndsOk (execSyncLl t tile s) := by
  simp only [execSyncLl]
  exact withInstr_mem _ _ _ _ _ (fun p i u k => by
    obtain ⟨k1, k2, k3⟩ := k
    (repeat' split) <;> simp (maxDischargeDepth := 40) [MemOk, k1, k2, k3]) h

@[simp] theorem execSyncSl_kept (t : Nat) (tile : Fin 160) (s : State) :
    Keeps (execSyncSl t tile s) s.pending (max s.now t) := by
  simp only [execSyncSl]; (repeat' split) <;> first | (simp; done) | simp_all

theorem execSyncSl_mem (t : Nat) (tile : Fin 160) (s : State) (h : MemOk s) :
    EndsOk (execSyncSl t tile s) := by
  simp only [execSyncSl]
  exact withInstr_mem _ _ _ _ _ (fun p i u k => by
    obtain ⟨k1, k2, k3⟩ := k
    (repeat' split) <;> simp (maxDischargeDepth := 40) [MemOk, k1, k2, k3]) h

@[simp] theorem execFlagrd_kept (t : Nat) (tile : Fin 160) (s : State) :
    Keeps (execFlagrd t tile s) s.pending (max s.now t) := by
  simp only [execFlagrd]; (repeat' split) <;> first | (simp; done) | simp_all

theorem execFlagrd_mem (t : Nat) (tile : Fin 160) (s : State) (h : MemOk s) :
    EndsOk (execFlagrd t tile s) := by
  simp only [execFlagrd]
  exact withInstr_mem _ _ _ _ _ (fun p i u k => by
    obtain ⟨k1, k2, k3⟩ := k
    (repeat' split) <;> simp (maxDischargeDepth := 40) [MemOk, k1, k2, k3]) h

@[simp] theorem execFlagswp_kept (t : Nat) (tile : Fin 160) (s : State) :
    Keeps (execFlagswp t tile s) s.pending (max s.now t) := by
  simp only [execFlagswp]; (repeat' split) <;> first | (simp; done) | simp_all

theorem execFlagswp_mem (t : Nat) (tile : Fin 160) (s : State) (h : MemOk s) :
    EndsOk (execFlagswp t tile s) := by
  simp only [execFlagswp]
  exact withInstr_mem _ _ _ _ _ (fun p i u k => by
    obtain ⟨k1, k2, k3⟩ := k
    (repeat' split) <;> simp (maxDischargeDepth := 40) [MemOk, k1, k2, k3]) h

@[simp] theorem execFlagclr_kept (t : Nat) (tile : Fin 160) (s : State) :
    Keeps (execFlagclr t tile s) s.pending (max s.now t) := by
  simp only [execFlagclr]; (repeat' split) <;> first | (simp; done) | simp_all

theorem execFlagclr_mem (t : Nat) (tile : Fin 160) (s : State) (h : MemOk s) :
    EndsOk (execFlagclr t tile s) := by
  simp only [execFlagclr]
  exact withInstr_mem _ _ _ _ _ (fun p i u k => by
    obtain ⟨k1, k2, k3⟩ := k
    (repeat' split) <;> simp (maxDischargeDepth := 40) [MemOk, k1, k2, k3]) h

@[simp] theorem issueMover_kept (n c addr : Nat) (s : State) :
    (issueMover n c addr s).1.pending = s.pending ∧ (issueMover n c addr s).1.now = s.now := by
  simp only [issueMover]; (repeat' split) <;> simp

@[simp] theorem issueMover_same (n c addr : Nat) (s : State) : (issueMover n c addr s).1.hbm = s.hbm ∧
    (issueMover n c addr s).1.cellar = s.cellar ∧ (issueMover n c addr s).1.hostMem = s.hostMem := by
  simp only [issueMover]; (repeat' split) <;> simp

@[simp] theorem movInstr_kept (t n op c : Nat) (s : State) :
    Keeps (movInstr t n op c s) s.pending (max s.now t) := by
  simp only [movInstr]; exact withInstr_kept _ _ _ _ _ fun p i u => by
    have h := issueMover_kept; (repeat' split) <;> simp_all

theorem movInstr_mem (t n op c : Nat) (s : State) (h : MemOk s) : EndsOk (movInstr t n op c s) := by
  simp only [movInstr]
  exact withInstr_mem _ _ _ _ _ (fun p i u k => by
    have j := issueMover_same; (repeat' split) <;> simp_all [MemOk]) h

@[simp] theorem execMov0_kept (t : Nat) (tile : Fin 160) (s : State) :
    Keeps (execMov0 t tile s) s.pending (max s.now t) := by
  simp only [execMov0]; (repeat' split) <;> first | (simp; done) | simp_all

theorem execMov0_mem (t : Nat) (tile : Fin 160) (s : State) (h : MemOk s) :
    EndsOk (execMov0 t tile s) := by
  simp only [execMov0]; exact movInstr_mem _ _ _ _ _ h

@[simp] theorem execMov1_kept (t : Nat) (tile : Fin 160) (s : State) :
    Keeps (execMov1 t tile s) s.pending (max s.now t) := by
  simp only [execMov1]; (repeat' split) <;> first | (simp; done) | simp_all

theorem execMov1_mem (t : Nat) (tile : Fin 160) (s : State) (h : MemOk s) :
    EndsOk (execMov1 t tile s) := by
  simp only [execMov1]; exact movInstr_mem _ _ _ _ _ h

@[simp] theorem mvwait_kept (t n op c : Nat) (s : State) :
    Keeps (mvwait t n op c s) s.pending (max s.now t) := by
  simp only [mvwait]; exact withInstr_kept _ _ _ _ _ fun p i u => by (repeat' split) <;> simp

theorem mvwait_mem (t n op c : Nat) (s : State) (h : MemOk s) : EndsOk (mvwait t n op c s) := by
  simp only [mvwait]
  exact withInstr_mem _ _ _ _ _ (fun p i u k => by (repeat' split) <;> simp_all [MemOk]) h

@[simp] theorem execMvwait0_kept (t : Nat) (tile : Fin 160) (s : State) :
    Keeps (execMvwait0 t tile s) s.pending (max s.now t) := by
  simp only [execMvwait0]; (repeat' split) <;> first | (simp; done) | simp_all

theorem execMvwait0_mem (t : Nat) (tile : Fin 160) (s : State) (h : MemOk s) :
    EndsOk (execMvwait0 t tile s) := by
  simp only [execMvwait0]; exact mvwait_mem _ _ _ _ _ h

@[simp] theorem execMvwait1_kept (t : Nat) (tile : Fin 160) (s : State) :
    Keeps (execMvwait1 t tile s) s.pending (max s.now t) := by
  simp only [execMvwait1]; (repeat' split) <;> first | (simp; done) | simp_all

theorem execMvwait1_mem (t : Nat) (tile : Fin 160) (s : State) (h : MemOk s) :
    EndsOk (execMvwait1 t tile s) := by
  simp only [execMvwait1]; exact mvwait_mem _ _ _ _ _ h

@[simp] theorem engineInstr_kept (t n op : Nat) (s : State) :
    Keeps (engineInstr t n op s) s.pending (max s.now t) := by
  simp only [engineInstr]; exact withInstr_kept _ _ _ _ _ fun p i u => by (repeat' split) <;> simp

theorem engineInstr_mem (t n op : Nat) (s : State) (h : MemOk s) : EndsOk (engineInstr t n op s) := by
  simp only [engineInstr]
  exact withInstr_mem _ _ _ _ _ (fun p i u k => by (repeat' split) <;> simp_all [MemOk]) h

@[simp] theorem execMma_kept (t : Nat) (tile : Fin 160) (s : State) :
    Keeps (execMma t tile s) s.pending (max s.now t) := by
  simp only [execMma]; (repeat' split) <;> first | (simp; done) | simp_all

theorem execMma_mem (t : Nat) (tile : Fin 160) (s : State) (h : MemOk s) :
    EndsOk (execMma t tile s) := by
  simp only [execMma]; exact engineInstr_mem _ _ _ _ h

@[simp] theorem execMmaWrite_kept (t : Nat) (tile : Fin 160) (s : State) :
    Keeps (execMmaWrite t tile s) s.pending (max s.now t) := by
  simp only [execMmaWrite]; (repeat' split) <;> first | (simp; done) | simp_all

theorem execMmaWrite_mem (t : Nat) (tile : Fin 160) (s : State) (h : MemOk s) :
    EndsOk (execMmaWrite t tile s) := by
  simp only [execMmaWrite]; exact engineInstr_mem _ _ _ _ h

@[simp] theorem execSetcs_kept (t : Nat) (tile : Fin 160) (s : State) :
    Keeps (execSetcs t tile s) s.pending (max s.now t) := by
  simp only [execSetcs]; (repeat' split) <;> first | (simp; done) | simp_all

theorem execSetcs_mem (t : Nat) (tile : Fin 160) (s : State) (h : MemOk s) :
    EndsOk (execSetcs t tile s) := by
  simp only [execSetcs]
  exact withInstr_mem _ _ _ _ _ (fun p i u k => by
    obtain ⟨k1, k2, k3⟩ := k
    (repeat' split) <;> simp (maxDischargeDepth := 40) [MemOk, k1, k2, k3]) h

@[simp] theorem execVadd_kept (t : Nat) (tile : Fin 160) (s : State) :
    Keeps (execVadd t tile s) s.pending (max s.now t) := by
  simp only [execVadd]; (repeat' split) <;> first | (simp; done) | simp_all

theorem execVadd_mem (t : Nat) (tile : Fin 160) (s : State) (h : MemOk s) :
    EndsOk (execVadd t tile s) := by
  simp only [execVadd]; exact engineInstr_mem _ _ _ _ h

@[simp] theorem execVmul_kept (t : Nat) (tile : Fin 160) (s : State) :
    Keeps (execVmul t tile s) s.pending (max s.now t) := by
  simp only [execVmul]; (repeat' split) <;> first | (simp; done) | simp_all

theorem execVmul_mem (t : Nat) (tile : Fin 160) (s : State) (h : MemOk s) :
    EndsOk (execVmul t tile s) := by
  simp only [execVmul]; exact engineInstr_mem _ _ _ _ h

@[simp] theorem execVfma_kept (t : Nat) (tile : Fin 160) (s : State) :
    Keeps (execVfma t tile s) s.pending (max s.now t) := by
  simp only [execVfma]; (repeat' split) <;> first | (simp; done) | simp_all

theorem execVfma_mem (t : Nat) (tile : Fin 160) (s : State) (h : MemOk s) :
    EndsOk (execVfma t tile s) := by
  simp only [execVfma]; exact engineInstr_mem _ _ _ _ h

@[simp] theorem execVmin_kept (t : Nat) (tile : Fin 160) (s : State) :
    Keeps (execVmin t tile s) s.pending (max s.now t) := by
  simp only [execVmin]; (repeat' split) <;> first | (simp; done) | simp_all

theorem execVmin_mem (t : Nat) (tile : Fin 160) (s : State) (h : MemOk s) :
    EndsOk (execVmin t tile s) := by
  simp only [execVmin]; exact engineInstr_mem _ _ _ _ h

@[simp] theorem execVmax_kept (t : Nat) (tile : Fin 160) (s : State) :
    Keeps (execVmax t tile s) s.pending (max s.now t) := by
  simp only [execVmax]; (repeat' split) <;> first | (simp; done) | simp_all

theorem execVmax_mem (t : Nat) (tile : Fin 160) (s : State) (h : MemOk s) :
    EndsOk (execVmax t tile s) := by
  simp only [execVmax]; exact engineInstr_mem _ _ _ _ h

@[simp] theorem execVminnum_kept (t : Nat) (tile : Fin 160) (s : State) :
    Keeps (execVminnum t tile s) s.pending (max s.now t) := by
  simp only [execVminnum]; (repeat' split) <;> first | (simp; done) | simp_all

theorem execVminnum_mem (t : Nat) (tile : Fin 160) (s : State) (h : MemOk s) :
    EndsOk (execVminnum t tile s) := by
  simp only [execVminnum]; exact engineInstr_mem _ _ _ _ h

@[simp] theorem execVmaxnum_kept (t : Nat) (tile : Fin 160) (s : State) :
    Keeps (execVmaxnum t tile s) s.pending (max s.now t) := by
  simp only [execVmaxnum]; (repeat' split) <;> first | (simp; done) | simp_all

theorem execVmaxnum_mem (t : Nat) (tile : Fin 160) (s : State) (h : MemOk s) :
    EndsOk (execVmaxnum t tile s) := by
  simp only [execVmaxnum]; exact engineInstr_mem _ _ _ _ h

@[simp] theorem execVsub_kept (t : Nat) (tile : Fin 160) (s : State) :
    Keeps (execVsub t tile s) s.pending (max s.now t) := by
  simp only [execVsub]; (repeat' split) <;> first | (simp; done) | simp_all

theorem execVsub_mem (t : Nat) (tile : Fin 160) (s : State) (h : MemOk s) :
    EndsOk (execVsub t tile s) := by
  simp only [execVsub]; exact engineInstr_mem _ _ _ _ h

@[simp] theorem execVcvt_kept (t : Nat) (tile : Fin 160) (s : State) :
    Keeps (execVcvt t tile s) s.pending (max s.now t) := by
  simp only [execVcvt]; (repeat' split) <;> first | (simp; done) | simp_all

theorem execVcvt_mem (t : Nat) (tile : Fin 160) (s : State) (h : MemOk s) :
    EndsOk (execVcvt t tile s) := by
  simp only [execVcvt]; exact engineInstr_mem _ _ _ _ h

@[simp] theorem execVcvts_kept (t : Nat) (tile : Fin 160) (s : State) :
    Keeps (execVcvts t tile s) s.pending (max s.now t) := by
  simp only [execVcvts]; (repeat' split) <;> first | (simp; done) | simp_all

theorem execVcvts_mem (t : Nat) (tile : Fin 160) (s : State) (h : MemOk s) :
    EndsOk (execVcvts t tile s) := by
  simp only [execVcvts]; exact engineInstr_mem _ _ _ _ h

@[simp] theorem countQsub_kept (p : Program) (l : Nat) (s : State) :
    (countQsub p l s).pending = s.pending ∧ (countQsub p l s).now = s.now ∧ (countQsub p l s).cellar = s.cellar ∧
    (countQsub p l s).hostMem = s.hostMem := by
  simp only [countQsub]; (repeat' split) <;> first | (simp; done) | simp_all

@[simp] theorem countQsub_mem (p : Program) (l : Nat) (s : State) :
    (Memory.wf s.hbm = true → Memory.wf (countQsub p l s).hbm = true) := by
  intro h; simp only [countQsub]; (repeat' split) <;> simp (maxDischargeDepth := 40) (contextual := true) [h]

@[simp] theorem execQsub_kept (t : Nat) (tile : Fin 160) (s : State) :
    Keeps (execQsub t tile s) s.pending (max s.now t) := by
  simp only [execQsub]; exact withInstr_kept _ _ _ _ _ fun p i u => by
    (repeat' split) <;> first | (simp; done) | (rename_i h; simp [submitDesc_kept _ _ _ _ h])

theorem execQsub_mem (t : Nat) (tile : Fin 160) (s : State) (h : MemOk s) : EndsOk (execQsub t tile s) := by
  simp only [execQsub]
  exact withInstr_mem _ _ _ _ _ (fun p i u k => by
    obtain ⟨k1, k2, k3⟩ := k
    (repeat' split) <;> first
      | (simp [MemOk, k1, k2, k3]; done)
      | (rename_i j; simp [MemOk, submitDesc_same _ _ _ _ j, submitDesc_mem _ _ _ _ j, k1, k2, k3])) h

@[simp] theorem execQwait_kept (t : Nat) (tile : Fin 160) (s : State) :
    Keeps (execQwait t tile s) s.pending (max s.now t) := by
  simp only [execQwait]; (repeat' split) <;> first | (simp; done) | simp_all

theorem execQwait_mem (t : Nat) (tile : Fin 160) (s : State) (h : MemOk s) :
    EndsOk (execQwait t tile s) := by
  simp only [execQwait]
  exact withInstr_mem _ _ _ _ _ (fun p i u k => by
    obtain ⟨k1, k2, k3⟩ := k
    (repeat' split) <;> simp (maxDischargeDepth := 40) [MemOk, k1, k2, k3]) h

@[simp] theorem copyPage_kept (src dst : PageLoc) (s : State) :
    (copyPage src dst s).pending = s.pending ∧ (copyPage src dst s).now = s.now := by
  simp only [copyPage]; (repeat' split) <;> first | (simp; done) | simp_all

theorem tabWfFrom_filter {α : Type} [DecidableEq α] (d : α) (p : Nat × α → Bool) (t : Tab α) (lo : Nat)
    (w : tabWfFrom d lo t = true) : tabWfFrom d lo (t.filter p) = true := by
  induction t generalizing lo with
  | nil => rfl
  | cons a t ih =>
    obtain ⟨j, x⟩ := a
    simp [tabWfFrom] at w
    simp only [List.filter_cons]
    split
    · simp [tabWfFrom, w]; exact ih _ w.2
    · exact tabWfFrom_mono d _ _ _ (by omega) (ih _ w.2)

/-- Copying a range of one memory into another keeps the canonical form. -/
@[simp] theorem moveBytes_wf (src : Memory) (a : Nat) (dst : Memory) (b n : Nat) (w : Memory.wf dst = true) :
    Memory.wf (moveBytes src a dst b n) = true := by
  have fold (xs : Memory) (m : Memory) (hm : Memory.wf m = true) :
      Memory.wf (xs.foldl (fun m (k, v) => memPut m (k - a + b) v) m) = true := by
    induction xs generalizing m with
    | nil => exact hm
    | cons x xs ih => exact ih _ (memPut_wf _ _ _ hm)
  exact fold _ _ (tabWfFrom_filter 0 _ dst 0 w)

@[simp] theorem copyPage_mem (src dst : PageLoc) (s : State) :
    (Memory.wf s.hbm = true → Memory.wf (copyPage src dst s).hbm = true) ∧
    (Memory.wf s.cellar = true → Memory.wf (copyPage src dst s).cellar = true) ∧
    (Memory.wf s.hostMem = true → Memory.wf (copyPage src dst s).hostMem = true) := by
  cases dst <;> simp (contextual := true) [copyPage]

@[simp] theorem markPage_kept (v : Bool) (l : PageLoc) (s : State) :
    (markPage v l s).pending = s.pending ∧ (markPage v l s).now = s.now ∧ (markPage v l s).hbm = s.hbm ∧
    (markPage v l s).cellar = s.cellar ∧ (markPage v l s).hostMem = s.hostMem := by
  simp only [markPage]; (repeat' split) <;> first | (simp; done) | simp_all

@[simp] theorem askPage_kept (i sled page : Nat) (s : State) :
    (askPage i sled page s).pending = s.pending ∧ (askPage i sled page s).now = s.now ∧
    (askPage i sled page s).hbm = s.hbm ∧ (askPage i sled page s).cellar = s.cellar ∧
    (askPage i sled page s).hostMem = s.hostMem := by
  simp only [askPage]; (repeat' split) <;> first | (simp; done) | simp_all

@[simp] theorem promotePage_kept (i : Nat) (s : State) :
    (promotePage i s).pending = s.pending ∧ (promotePage i s).now = s.now := by
  simp only [promotePage]; (repeat' split) <;> first | (simp; done) | simp_all

@[simp] theorem promotePage_mem (i : Nat) (s : State) :
    (Memory.wf s.hbm = true → Memory.wf (promotePage i s).hbm = true) ∧
    (Memory.wf s.cellar = true → Memory.wf (promotePage i s).cellar = true) ∧
    (Memory.wf s.hostMem = true → Memory.wf (promotePage i s).hostMem = true) := by
  refine ⟨fun h => ?_, fun h => ?_, fun h => ?_⟩ <;>
    (simp only [promotePage]; (repeat' split) <;> simp (maxDischargeDepth := 40) (contextual := true) [h])

@[simp] theorem promoteAll_kept (s : State) :
    (promoteAll s).pending = s.pending ∧ (promoteAll s).now = s.now := by
  simp only [promoteAll]; (repeat' split) <;> first | (simp; done) | simp_all

@[simp] theorem promoteAll_mem (s : State) :
    (Memory.wf s.hbm = true → Memory.wf (promoteAll s).hbm = true) ∧
    (Memory.wf s.cellar = true → Memory.wf (promoteAll s).cellar = true) ∧
    (Memory.wf s.hostMem = true → Memory.wf (promoteAll s).hostMem = true) := by
  refine ⟨fun h => ?_, fun h => ?_, fun h => ?_⟩ <;>
    (simp only [promoteAll]; (repeat' split) <;> simp (maxDischargeDepth := 40) (contextual := true) [h])

@[simp] theorem pageAnswer_kept (i status : Nat) (data : List Byte) (s : State) :
    (pageAnswer i status data s).pending = s.pending ∧ (pageAnswer i status data s).now = s.now := by
  simp only [pageAnswer]; (repeat' split) <;> first | (simp; done) | simp_all

@[simp] theorem pageAnswer_mem (i status : Nat) (data : List Byte) (s : State) :
    (Memory.wf s.hbm = true → Memory.wf (pageAnswer i status data s).hbm = true) ∧
    (Memory.wf s.cellar = true → Memory.wf (pageAnswer i status data s).cellar = true) ∧
    (Memory.wf s.hostMem = true → Memory.wf (pageAnswer i status data s).hostMem = true) := by
  refine ⟨fun h => ?_, fun h => ?_, fun h => ?_⟩ <;>
    (simp only [pageAnswer]; (repeat' split) <;> simp (maxDischargeDepth := 40) (contextual := true) [h])

@[simp] theorem releaseTile_kept (p : Program) (n : Nat) (s : State) :
    (releaseTile p n s).pending = s.pending ∧ (releaseTile p n s).now = s.now := by
  simp only [releaseTile]; (repeat' split) <;> first | (simp; done) | simp_all

@[simp] theorem releaseTile_mem (p : Program) (n : Nat) (s : State) :
    (Memory.wf s.hbm = true → Memory.wf (releaseTile p n s).hbm = true) ∧
    (Memory.wf s.cellar = true → Memory.wf (releaseTile p n s).cellar = true) ∧
    (Memory.wf s.hostMem = true → Memory.wf (releaseTile p n s).hostMem = true) := by
  refine ⟨fun h => ?_, fun h => ?_, fun h => ?_⟩ <;>
    (simp only [releaseTile]; (repeat' split) <;> simp (maxDischargeDepth := 40) (contextual := true) [h])

@[simp] theorem replaceTile_kept (p : Program) (n : Nat) (s : State) :
    (replaceTile p n s).pending = s.pending ∧ (replaceTile p n s).now = s.now := by
  have h := substitute_kept n s
  simp only [replaceTile]; (repeat' split) <;> simp_all

@[simp] theorem replaceTile_mem (p : Program) (n : Nat) (s : State) :
    (Memory.wf s.hbm = true → Memory.wf (replaceTile p n s).hbm = true) ∧
    (Memory.wf s.cellar = true → Memory.wf (replaceTile p n s).cellar = true) ∧
    (Memory.wf s.hostMem = true → Memory.wf (replaceTile p n s).hostMem = true) := by
  have k := substitute_same n s
  refine ⟨fun h => ?_, fun h => ?_, fun h => ?_⟩ <;> (simp only [replaceTile]; (repeat' split) <;> simp_all)

@[simp] theorem execStepRelease_kept (t : Nat) (s : State) :
    Keeps (execStepRelease t s) s.pending (max s.now t) := by
  simp only [execStepRelease]; (repeat' split) <;> first | (simp; done) | simp_all

theorem execStepRelease_mem (t : Nat) (s : State) (h : MemOk s) :
    EndsOk (execStepRelease t s) := by
  simp only [execStepRelease]; (repeat' split) <;> simp (maxDischargeDepth := 40) (contextual := true) [h.1, h.2.1, h.2.2]

@[simp] theorem execReplayRestart_kept (t : Nat) (s : State) :
    Keeps (execReplayRestart t s) s.pending (max s.now t) := by
  simp only [execReplayRestart]; (repeat' split) <;> first | (simp; done) | simp_all

theorem execReplayRestart_mem (t : Nat) (s : State) (h : MemOk s) :
    EndsOk (execReplayRestart t s) := by
  simp only [execReplayRestart]; (repeat' split) <;> simp (maxDischargeDepth := 40) (contextual := true) [h.1, h.2.1, h.2.2]

@[simp] theorem aluEffect_kept (w : Nat) (r : Word) (c v : Option Bool) (n : Nat) (s : State) :
    (aluEffect w r c v n s).pending = s.pending ∧ (aluEffect w r c v n s).now = s.now ∧
    (aluEffect w r c v n s).hbm = s.hbm ∧ (aluEffect w r c v n s).cellar = s.cellar ∧
    (aluEffect w r c v n s).hostMem = s.hostMem := by
  simp only [aluEffect]; (repeat' split) <;> first | (simp; done) | simp_all

@[simp] theorem memEffect_kept (p : Program) (w a : Nat) (d : Word) (n : Nat) (s : State) :
    (memEffect p w a d n s).pending = s.pending ∧ (memEffect p w a d n s).now = s.now ∧
    (memEffect p w a d n s).cellar = s.cellar ∧ (memEffect p w a d n s).hostMem = s.hostMem := by
  simp only [memEffect]; (repeat' split) <;> first | (simp; done) | simp_all

@[simp] theorem memEffect_mem (p : Program) (w a : Nat) (d : Word) (n : Nat) (s : State) :
    (Memory.wf s.hbm = true → Memory.wf (memEffect p w a d n s).hbm = true) := by
  intro h; simp only [memEffect]; (repeat' split) <;> simp (maxDischargeDepth := 40) (contextual := true) [h]

@[simp] theorem issueEffect_kept (p : Program) (x0 : Tile) (w n : Nat) (s : State) :
    (issueEffect p x0 w n s).pending = s.pending ∧ (issueEffect p x0 w n s).now = s.now := by
  simp only [issueEffect]; (repeat' split) <;> first | (simp; done) | simp_all

@[simp] theorem issueEffect_same (p : Program) (x0 : Tile) (w n : Nat) (s : State) :
    (issueEffect p x0 w n s).hbm = s.hbm ∧ (issueEffect p x0 w n s).cellar = s.cellar ∧
    (issueEffect p x0 w n s).hostMem = s.hostMem := by
  simp only [issueEffect]; (repeat' split) <;> simp

@[simp] theorem lateEffect_kept (w : Nat) (r : Word) (n : Nat) (s : State) :
    (lateEffect w r n s).pending = s.pending ∧ (lateEffect w r n s).now = s.now ∧ (lateEffect w r n s).hbm = s.hbm ∧
    (lateEffect w r n s).cellar = s.cellar ∧ (lateEffect w r n s).hostMem = s.hostMem := by
  simp only [lateEffect]; (repeat' split) <;> first | (simp; done) | simp_all

@[simp] theorem sequence_kept (s0 : State) (p : Program) (x0 : Tile) (w n : Nat) (s : State) :
    (sequence s0 p x0 w n s).pending = s.pending ∧ (sequence s0 p x0 w n s).now = s.now := by
  simp only [sequence]; (repeat' split) <;> first | (simp; done) | simp_all

@[simp] theorem sequence_mem (s0 : State) (p : Program) (x0 : Tile) (w n : Nat) (s : State) :
    (Memory.wf s.hbm = true → Memory.wf (sequence s0 p x0 w n s).hbm = true) ∧
    (Memory.wf s.cellar = true → Memory.wf (sequence s0 p x0 w n s).cellar = true) ∧
    (Memory.wf s.hostMem = true → Memory.wf (sequence s0 p x0 w n s).hostMem = true) := by
  refine ⟨fun h => ?_, fun h => ?_, fun h => ?_⟩ <;>
    (simp only [sequence]; (repeat' split) <;> simp (maxDischargeDepth := 40) (contextual := true) [h])

/-- A microword that goes on leaves the queue and the local time. -/
def MicroKeeps (o : MicroOut) (s : State) : Prop :=
  match o with
  | .next u => u.pending = s.pending ∧ u.now = s.now
  | _ => True

theorem microKeeps_ite (c : Prop) [Decidable c] (a b : MicroOut) (s : State) (ha : MicroKeeps a s) (hb : MicroKeeps b s) :
    MicroKeeps (if c then a else b) s := by split <;> assumption

theorem microStep_keeps (p : Program) (n upc w : Nat) (s : State) : MicroKeeps (microStep p n upc w s) s := by
  simp only [microStep]
  split
  · exact True.intro
  · repeat' apply microKeeps_ite
    all_goals first | exact True.intro | (refine ⟨?_, ?_⟩ <;> simp)

theorem microStep_kept (p : Program) (n upc w : Nat) (s u : State) (h : microStep p n upc w s = .next u) :
    u.pending = s.pending ∧ u.now = s.now := by
  have k := microStep_keeps p n upc w s; rw [h] at k; exact k

/-- A microword that goes on keeps the memories canonical. -/
def MicroMem (o : MicroOut) : Prop :=
  match o with
  | .next u => MemOk u
  | _ => True

theorem microMem_ite (c : Prop) [Decidable c] (a b : MicroOut) (ha : MicroMem a) (hb : MicroMem b) :
    MicroMem (if c then a else b) := by split <;> assumption

theorem microStep_micro (p : Program) (n upc w : Nat) (s : State) (h : MemOk s) : MicroMem (microStep p n upc w s) := by
  obtain ⟨h1, h2, h3⟩ := h
  simp only [microStep]
  split
  · exact True.intro
  · repeat' apply microMem_ite
    all_goals first | exact True.intro | (refine ⟨?_, ?_, ?_⟩ <;> simp (maxDischargeDepth := 40) [h1, h2, h3])

theorem microStep_mem (p : Program) (n upc w : Nat) (s u : State) (k : microStep p n upc w s = .next u)
    (h : MemOk s) : MemOk u := by
  have j := microStep_micro p n upc w s h; rw [k] at j; exact j

theorem microHere_kept (p : Program) (n : Nat) (s u : State) (h : microHere p n s = .next u) :
    u.pending = s.pending ∧ u.now = s.now := microStep_kept _ _ _ _ _ _ h

theorem microRun_kept (p : Program) (n k : Nat) (s u : State)
    (h : microRun p n k s = some u) : u.pending = s.pending ∧ u.now = s.now := by
  induction k generalizing s with
  | zero => simp [microRun] at h; simp [h]
  | succ k ih =>
    simp only [microRun] at h
    split at h
    · rename_i s' hs
      have a := microHere_kept _ _ _ _ hs
      have b := ih _ h
      exact ⟨b.1.trans a.1, b.2.trans a.2⟩
    · simp at h

theorem microHere_mem (p : Program) (n : Nat) (s u : State) (k : microHere p n s = .next u) (h : MemOk s) : MemOk u :=
  microStep_mem _ _ _ _ _ _ k h

theorem microRun_mem (p : Program) (n m : Nat) (s u : State)
    (k : microRun p n m s = some u) (h : MemOk s) : MemOk u := by
  induction m generalizing s with
  | zero => simp [microRun] at k; rw [← k]; exact h
  | succ m ih =>
    simp only [microRun] at k
    split at k
    · rename_i s' hs; exact ih _ k (microHere_mem _ _ _ _ hs h)
    · simp at k

@[simp] theorem windowTrap_kept (n upc handler : Nat) (s : State) :
    (windowTrap n upc handler s).pending = s.pending ∧ (windowTrap n upc handler s).now = s.now ∧
    (windowTrap n upc handler s).hbm = s.hbm ∧ (windowTrap n upc handler s).cellar = s.cellar ∧
    (windowTrap n upc handler s).hostMem = s.hostMem := by
  simp only [windowTrap]; (repeat' split) <;> first | (simp; done) | simp_all

@[simp] theorem windowHandler_kept (p : Program) (n : Nat) (spill : Bool) (s : State) :
    (windowHandler p n spill s).pending = s.pending ∧ (windowHandler p n spill s).now = s.now := by
  simp only [windowHandler]
  (repeat' split) <;> first | (simp; done) | (rename_i h; simpa using microHere_kept _ _ _ _ h)

theorem windowHandler_mem (p : Program) (n : Nat) (spill : Bool) (s : State) (h : MemOk s) :
    MemOk (windowHandler p n spill s) := by
  obtain ⟨h1, h2, h3⟩ := h
  simp only [windowHandler]; split
  · refine ⟨?_, ?_, ?_⟩ <;> simp [h1, h2, h3]
  · split
    · rename_i k; exact microHere_mem _ _ _ _ k ⟨by simp [h1], by simp [h2], by simp [h3]⟩
    · exact ⟨by simp [h1], by simp [h2], by simp [h3]⟩

@[simp] theorem execWindowOverflow_kept (t : Nat) (tile : Fin 160) (before : Nat) (s : State) :
    Keeps (execWindowOverflow t tile before s) s.pending (max s.now t) := by
  simp only [execWindowOverflow]; split
  · simp
  · split
    · simp
    · split
      · simp
      · rename_i h; split
        · simpa using microRun_kept _ _ _ _ _ h
        · simp

theorem execWindowOverflow_mem (t : Nat) (tile : Fin 160) (before : Nat) (s : State) (h : MemOk s) :
    EndsOk (execWindowOverflow t tile before s) := by
  have hc : MemOk (clockTo t s) := h
  simp only [execWindowOverflow]; split
  · exact hc
  · split
    · exact hc
    · split
      · exact hc
      · rename_i k; split
        · have m := microRun_mem _ _ _ _ _ k hc
          exact windowHandler_mem _ _ _ _ ⟨by simp [m.1], by simp [m.2.1], by simp [m.2.2]⟩
        · exact hc

@[simp] theorem execWindowUnderflow_kept (t : Nat) (tile : Fin 160) (before : Nat) (s : State) :
    Keeps (execWindowUnderflow t tile before s) s.pending (max s.now t) := by
  simp only [execWindowUnderflow]; split
  · simp
  · split
    · simp
    · split
      · simp
      · rename_i h; split
        · simpa using microRun_kept _ _ _ _ _ h
        · simp

theorem execWindowUnderflow_mem (t : Nat) (tile : Fin 160) (before : Nat) (s : State) (h : MemOk s) :
    EndsOk (execWindowUnderflow t tile before s) := by
  have hc : MemOk (clockTo t s) := h
  simp only [execWindowUnderflow]; split
  · exact hc
  · split
    · exact hc
    · split
      · exact hc
      · rename_i k; split
        · have m := microRun_mem _ _ _ _ _ k hc
          exact windowHandler_mem _ _ _ _ ⟨by simp [m.1], by simp [m.2.1], by simp [m.2.2]⟩
        · exact hc

@[simp] theorem execRtt_kept (t : Nat) (tile : Fin 160) (s : State) :
    Keeps (execRtt t tile s) s.pending (max s.now t) := by
  simp only [execRtt]; (repeat' split) <;> first | (simp; done) | simp_all

theorem execRtt_mem (t : Nat) (tile : Fin 160) (s : State) (h : MemOk s) :
    EndsOk (execRtt t tile s) := by
  simp only [execRtt]; (repeat' split) <;> simp (maxDischargeDepth := 40) (contextual := true) [h.1, h.2.1, h.2.2]

@[simp] theorem execFaultTake_kept (t : Nat) (tile : Fin 160) (s : State) :
    Keeps (execFaultTake t tile s) s.pending (max s.now t) := by
  simp only [execFaultTake]; (repeat' split) <;> first | (simp; done) | simp_all

theorem execFaultTake_mem (t : Nat) (tile : Fin 160) (s : State) (h : MemOk s) :
    EndsOk (execFaultTake t tile s) := by
  simp only [execFaultTake]; (repeat' split) <;> simp (maxDischargeDepth := 40) (contextual := true) [h.1, h.2.1, h.2.2]

@[simp] theorem execInterruptTake_kept (t : Nat) (tile : Fin 160) (raised : Nat) (s : State) :
    Keeps (execInterruptTake t tile raised s) s.pending (max s.now t) := by
  simp only [execInterruptTake]; (repeat' split) <;> first | (simp; done) | simp_all

theorem execInterruptTake_mem (t : Nat) (tile : Fin 160) (raised : Nat) (s : State) (h : MemOk s) :
    EndsOk (execInterruptTake t tile raised s) := by
  simp only [execInterruptTake]; (repeat' split) <;> simp (maxDischargeDepth := 40) (contextual := true) [h.1, h.2.1, h.2.2]

@[simp] theorem execStationResume_kept (t : Nat) (tile : Fin 160) (s : State) :
    Keeps (execStationResume t tile s) s.pending (max s.now t) := by
  simp only [execStationResume]; (repeat' split) <;> first | (simp; done) | simp_all

theorem execStationResume_mem (t : Nat) (tile : Fin 160) (s : State) (h : MemOk s) :
    EndsOk (execStationResume t tile s) := by
  simp only [execStationResume]; (repeat' split) <;> simp (maxDischargeDepth := 40) (contextual := true) [h.1, h.2.1, h.2.2]

@[simp] theorem execStationAbandon_kept (t : Nat) (tile : Fin 160) (s : State) :
    Keeps (execStationAbandon t tile s) s.pending (max s.now t) := by
  simp only [execStationAbandon]; (repeat' split) <;> first | (simp; done) | simp_all

theorem execStationAbandon_mem (t : Nat) (tile : Fin 160) (s : State) (h : MemOk s) :
    EndsOk (execStationAbandon t tile s) := by
  simp only [execStationAbandon]; (repeat' split) <;> simp (maxDischargeDepth := 40) (contextual := true) [h.1, h.2.1, h.2.2]

@[simp] theorem rowRead_kept (n : Nat) (flips : List Nat) (s : State) :
    (rowRead n flips s).pending = s.pending ∧ (rowRead n flips s).now = s.now := by
  simp only [rowRead]; (repeat' split) <;> first | (simp; done) | simp_all

@[simp] theorem rowRead_mem (n : Nat) (flips : List Nat) (s : State) :
    (Memory.wf s.hbm = true → Memory.wf (rowRead n flips s).hbm = true) ∧
    (Memory.wf s.cellar = true → Memory.wf (rowRead n flips s).cellar = true) ∧
    (Memory.wf s.hostMem = true → Memory.wf (rowRead n flips s).hostMem = true) := by
  refine ⟨fun h => ?_, fun h => ?_, fun h => ?_⟩ <;>
    (simp only [rowRead]; (repeat' split) <;> simp (maxDischargeDepth := 40) (contextual := true) [h])

@[simp] theorem execMicroMachineCheck_kept (t : Nat) (tile : Fin 160) (found : MicroCheck) (s : State) :
    Keeps (execMicroMachineCheck t tile found s) s.pending (max s.now t) := by
  simp only [execMicroMachineCheck]; (repeat' split) <;> first | (simp; done) | simp_all

theorem execMicroMachineCheck_mem (t : Nat) (tile : Fin 160) (found : MicroCheck) (s : State) (h : MemOk s) :
    EndsOk (execMicroMachineCheck t tile found s) := by
  simp only [execMicroMachineCheck]; (repeat' split) <;> simp (maxDischargeDepth := 40) (contextual := true) [h.1, h.2.1, h.2.2]

@[simp] theorem execCsPatrolRead_kept (t : Nat) (tile : Fin 160) (flips : List Nat) (s : State) :
    Keeps (execCsPatrolRead t tile flips s) s.pending (max s.now t) := by
  simp only [execCsPatrolRead]; (repeat' split) <;> first | (simp; done) | simp_all

theorem execCsPatrolRead_mem (t : Nat) (tile : Fin 160) (flips : List Nat) (s : State) (h : MemOk s) :
    EndsOk (execCsPatrolRead t tile flips s) := by
  simp only [execCsPatrolRead]; (repeat' split) <;> simp (maxDischargeDepth := 40) (contextual := true) [h.1, h.2.1, h.2.2]

@[simp] theorem moverAccess_kept (n c sled off len : Nat) (data : Option (List Byte)) (s : State) :
    (moverAccess n c sled off len data s).pending = s.pending ∧ (moverAccess n c sled off len data s).now = s.now ∧
    (moverAccess n c sled off len data s).hbm = s.hbm ∧ (moverAccess n c sled off len data s).cellar = s.cellar ∧
    (moverAccess n c sled off len data s).hostMem = s.hostMem := by
  simp only [moverAccess]; (repeat' split) <;> first | (simp; done) | simp_all

@[simp] theorem commitRun_kept (p : Program) (n c : Nat) (kb : Nat × List Byte) (s : State) :
    (commitRun p n c kb s).pending = s.pending ∧ (commitRun p n c kb s).now = s.now := by
  simp only [commitRun]; (repeat' split) <;> first | (simp; done) | simp_all

@[simp] theorem commitRun_mem (p : Program) (n c : Nat) (kb : Nat × List Byte) (s : State) :
    (Memory.wf s.hbm = true → Memory.wf (commitRun p n c kb s).hbm = true) ∧
    (Memory.wf s.cellar = true → Memory.wf (commitRun p n c kb s).cellar = true) ∧
    (Memory.wf s.hostMem = true → Memory.wf (commitRun p n c kb s).hostMem = true) := by
  refine ⟨fun h => ?_, fun h => ?_, fun h => ?_⟩ <;>
    (simp only [commitRun]; (repeat' split) <;> simp (maxDischargeDepth := 40) (contextual := true) [h])

@[simp] theorem popCommand_kept (n c : Nat) (s : State) :
    (popCommand n c s).pending = s.pending ∧ (popCommand n c s).now = s.now ∧ (popCommand n c s).hbm = s.hbm ∧
    (popCommand n c s).cellar = s.cellar ∧ (popCommand n c s).hostMem = s.hostMem := by
  simp only [popCommand]; (repeat' split) <;> first | (simp; done) | simp_all

@[simp] theorem failChannel_kept (n c cause : Nat) (s : State) :
    (failChannel n c cause s).pending = s.pending ∧ (failChannel n c cause s).now = s.now := by
  simp only [failChannel]; (repeat' split) <;> first | (simp; done) | simp_all

@[simp] theorem failChannel_mem (n c cause : Nat) (s : State) :
    (Memory.wf s.hbm = true → Memory.wf (failChannel n c cause s).hbm = true) ∧
    (Memory.wf s.cellar = true → Memory.wf (failChannel n c cause s).cellar = true) ∧
    (Memory.wf s.hostMem = true → Memory.wf (failChannel n c cause s).hostMem = true) := by
  refine ⟨fun h => ?_, fun h => ?_, fun h => ?_⟩ <;>
    (simp only [failChannel]; (repeat' split) <;> simp (maxDischargeDepth := 40) (contextual := true) [h])

@[simp] theorem runJobs_kept (e : Setting) (c : Nat) (js : List Job) (b : Option (List Int)) (r : Run) (s : State) :
    (runJobs e c js b r s).2.pending = s.pending ∧ (runJobs e c js b r s).2.now = s.now ∧
    (runJobs e c js b r s).2.cellar = s.cellar ∧ (runJobs e c js b r s).2.hostMem = s.hostMem := by
  induction js generalizing b r s with
  | nil => simp [runJobs]
  | cons j js ih => simp only [runJobs, ih]; split <;> simp

@[simp] theorem runJobs_mem (e : Setting) (c : Nat) (js : List Job) (b : Option (List Int)) (r : Run) (s : State)
    (h : Memory.wf s.hbm = true) : Memory.wf (runJobs e c js b r s).2.hbm = true := by
  induction js generalizing b r s with
  | nil => simpa [runJobs] using h
  | cons j js ih => simp only [runJobs]; apply ih; split <;> simp [h]

@[simp] theorem runTransfer_kept (p : Program) (n c : Nat) (s : State) :
    (runTransfer p n c s).pending = s.pending ∧ (runTransfer p n c s).now = s.now := by
  simp only [runTransfer]; (repeat' split) <;> first | (simp; done) | simp_all

@[simp] theorem runTransfer_mem (p : Program) (n c : Nat) (s : State) :
    (Memory.wf s.hbm = true → Memory.wf (runTransfer p n c s).hbm = true) ∧
    (Memory.wf s.cellar = true → Memory.wf (runTransfer p n c s).cellar = true) ∧
    (Memory.wf s.hostMem = true → Memory.wf (runTransfer p n c s).hostMem = true) := by
  refine ⟨fun h => ?_, fun h => ?_, fun h => ?_⟩ <;>
    (simp only [runTransfer]; (repeat' split) <;> simp (maxDischargeDepth := 40) (contextual := true) [h])

@[simp] theorem beginTransfer_kept (p : Program) (n c : Nat) (m : MoverCmd) (s : State) :
    (beginTransfer p n c m s).pending = s.pending ∧ (beginTransfer p n c m s).now = s.now := by
  simp only [beginTransfer]; (repeat' split) <;> first | (simp; done) | simp_all

@[simp] theorem beginTransfer_mem (p : Program) (n c : Nat) (m : MoverCmd) (s : State) :
    (Memory.wf s.hbm = true → Memory.wf (beginTransfer p n c m s).hbm = true) ∧
    (Memory.wf s.cellar = true → Memory.wf (beginTransfer p n c m s).cellar = true) ∧
    (Memory.wf s.hostMem = true → Memory.wf (beginTransfer p n c m s).hostMem = true) := by
  refine ⟨fun h => ?_, fun h => ?_, fun h => ?_⟩ <;>
    (simp only [beginTransfer]; (repeat' split) <;> simp (maxDischargeDepth := 40) (contextual := true) [h])

@[simp] theorem startMover_kept (t n c k : Nat) (s : State) :
    Keeps (startMover t n c k s) s.pending (max s.now t) := by
  simp only [startMover]; (repeat' split) <;> simp

theorem startMover_mem (t n c k : Nat) (s : State) (h : MemOk s) : EndsOk (startMover t n c k s) := by
  obtain ⟨h1, h2, h3⟩ := h
  simp only [startMover]; (repeat' split) <;> simp (maxDischargeDepth := 40) [h1, h2, h3]

@[simp] theorem execBox_kept (t : Nat) (tile : Fin 160) (chan : Fin 2) (s : State) :
    Keeps (execBox t tile chan s) s.pending (max s.now t) := by
  simp only [execBox]; (repeat' split) <;> first | (simp; done) | simp_all

theorem execBox_mem (t : Nat) (tile : Fin 160) (chan : Fin 2) (s : State) (h : MemOk s) :
    EndsOk (execBox t tile chan s) := by
  simp only [execBox]; exact startMover_mem _ _ _ _ _ h

@[simp] theorem execGather_kept (t : Nat) (tile : Fin 160) (chan : Fin 2) (s : State) :
    Keeps (execGather t tile chan s) s.pending (max s.now t) := by
  simp only [execGather]; (repeat' split) <;> first | (simp; done) | simp_all

theorem execGather_mem (t : Nat) (tile : Fin 160) (chan : Fin 2) (s : State) (h : MemOk s) :
    EndsOk (execGather t tile chan s) := by
  simp only [execGather]; exact startMover_mem _ _ _ _ _ h

@[simp] theorem execScatter_kept (t : Nat) (tile : Fin 160) (chan : Fin 2) (s : State) :
    Keeps (execScatter t tile chan s) s.pending (max s.now t) := by
  simp only [execScatter]; (repeat' split) <;> first | (simp; done) | simp_all

theorem execScatter_mem (t : Nat) (tile : Fin 160) (chan : Fin 2) (s : State) (h : MemOk s) :
    EndsOk (execScatter t tile chan s) := by
  simp only [execScatter]; exact startMover_mem _ _ _ _ _ h

@[simp] theorem execPermute_kept (t : Nat) (tile : Fin 160) (chan : Fin 2) (s : State) :
    Keeps (execPermute t tile chan s) s.pending (max s.now t) := by
  simp only [execPermute]; (repeat' split) <;> first | (simp; done) | simp_all

theorem execPermute_mem (t : Nat) (tile : Fin 160) (chan : Fin 2) (s : State) (h : MemOk s) :
    EndsOk (execPermute t tile chan s) := by
  simp only [execPermute]; exact startMover_mem _ _ _ _ _ h

@[simp] theorem execMoverCommandComplete_kept (t : Nat) (tile : Fin 160) (chan : Fin 2) (s : State) :
    Keeps (execMoverCommandComplete t tile chan s) s.pending (max s.now t) := by
  simp only [execMoverCommandComplete]; (repeat' split) <;> first | (simp; done) | simp_all

theorem execMoverCommandComplete_mem (t : Nat) (tile : Fin 160) (chan : Fin 2) (s : State) (h : MemOk s) :
    EndsOk (execMoverCommandComplete t tile chan s) := by
  simp only [execMoverCommandComplete]; (repeat' split) <;> simp (maxDischargeDepth := 40) (contextual := true) [h.1, h.2.1, h.2.2]

end Sys2Proof.Machine
end

