-- ==== Sys2Proof/Laws/FramesLayers.lean ====
section
/-! SUPPORT. What each operation leaves as it was: the queue, local time and the memories it does not write; and that
the memories it writes stay canonical.  This file: the scoring arrays, the Junction, COPY and FILL. -/

namespace Sys2Proof.Machine

@[simp] theorem juncCommit_kept (out : Tab Byte) (s : State) :
    (juncCommit out s).pending = s.pending ∧ (juncCommit out s).now = s.now := by
  simp only [juncCommit]; (repeat' split) <;> first | (simp; done) | simp_all

@[simp] theorem juncCommit_mem (out : Tab Byte) (s : State) :
    (Memory.wf s.hbm = true → Memory.wf (juncCommit out s).hbm = true) ∧
    (Memory.wf s.cellar = true → Memory.wf (juncCommit out s).cellar = true) ∧
    (Memory.wf s.hostMem = true → Memory.wf (juncCommit out s).hostMem = true) := by
  refine ⟨fun h => ?_, fun h => ?_, fun h => ?_⟩ <;>
    (simp only [juncCommit]; (repeat' split) <;> simp (maxDischargeDepth := 40) (contextual := true) [h])

@[simp] theorem writeRow_kept (v : View) (t : Nat) (codes : List Nat) (s : State) :
    (writeRow v t codes s).1.pending = s.pending ∧ (writeRow v t codes s).1.now = s.now := by
  simp only [writeRow]; (repeat' split) <;> simp

@[simp] theorem writeRow_mem (v : View) (t : Nat) (codes : List Nat) (s : State) :
    (Memory.wf s.hbm = true → Memory.wf (writeRow v t codes s).1.hbm = true) ∧
    (Memory.wf s.cellar = true → Memory.wf (writeRow v t codes s).1.cellar = true) ∧
    (Memory.wf s.hostMem = true → Memory.wf (writeRow v t codes s).1.hostMem = true) := by
  refine ⟨fun h => ?_, fun h => ?_, fun h => ?_⟩ <;> (simp only [writeRow]; (repeat' split) <;> simp (maxDischargeDepth := 40) (contextual := true) [h])

@[simp] theorem modArr_kept (n : Nat) (f : Arr → Arr) (s : State) :
    (modArr n f s).pending = s.pending ∧ (modArr n f s).now = s.now ∧ (modArr n f s).hbm = s.hbm ∧
    (modArr n f s).cellar = s.cellar ∧ (modArr n f s).hostMem = s.hostMem := by
  simp only [modArr]; (repeat' split) <;> first | (simp; done) | simp_all

@[simp] theorem setPlane_kept (p : Nat) (x : Plane) (s : State) :
    (setPlane p x s).pending = s.pending ∧ (setPlane p x s).now = s.now ∧ (setPlane p x s).hbm = s.hbm ∧
    (setPlane p x s).cellar = s.cellar ∧ (setPlane p x s).hostMem = s.hostMem := by
  simp only [setPlane]; (repeat' split) <;> first | (simp; done) | simp_all

@[simp] theorem loadPlane_kept (p image h e : Nat) (s : State) :
    (loadPlane p image h e s).1.pending = s.pending ∧ (loadPlane p image h e s).1.now = s.now := by
  simp only [loadPlane]; (repeat' split) <;> simp

@[simp] theorem loadPlane_same (p image h e : Nat) (s : State) : (loadPlane p image h e s).1.hbm = s.hbm ∧
    (loadPlane p image h e s).1.cellar = s.cellar ∧ (loadPlane p image h e s).1.hostMem = s.hostMem := by
  simp only [loadPlane]; (repeat' split) <;> simp

@[simp] theorem admitOp_kept (q cls op : Nat) (s : State) :
    (admitOp q cls op s).2.pending = s.pending ∧ (admitOp q cls op s).2.now = s.now := by
  simp only [admitOp]; (repeat' split) <;> simp

@[simp] theorem admitOp_same (q cls op : Nat) (s : State) : (admitOp q cls op s).2.hbm = s.hbm ∧
    (admitOp q cls op s).2.cellar = s.cellar ∧ (admitOp q cls op s).2.hostMem = s.hostMem := by
  simp only [admitOp]; (repeat' split) <;> simp

@[simp] theorem holdGate_kept (q cls : Nat) (s : State) :
    (holdGate q cls s).pending = s.pending ∧ (holdGate q cls s).now = s.now ∧ (holdGate q cls s).hbm = s.hbm ∧
    (holdGate q cls s).cellar = s.cellar ∧ (holdGate q cls s).hostMem = s.hostMem := by
  simp only [holdGate]; (repeat' split) <;> first | (simp; done) | simp_all

@[simp] theorem finish_kept (q index status cause result : Nat) (s : State) :
    (finish q index status cause result s).pending = s.pending ∧ (finish q index status cause result s).now = s.now ∧
    (finish q index status cause result s).cellar = s.cellar := by
  simp only [finish]; (repeat' split) <;> first | (simp; done) | simp_all

@[simp] theorem finish_mem (q index status cause result : Nat) (s : State) :
    (Memory.wf s.hbm = true → Memory.wf (finish q index status cause result s).hbm = true) ∧
    (Memory.wf s.hostMem = true → Memory.wf (finish q index status cause result s).hostMem = true) := by
  refine ⟨fun h => ?_, fun h => ?_⟩ <;>
    (simp only [finish]; (repeat' split) <;> simp (maxDischargeDepth := 40) (contextual := true) [h])

@[simp] theorem execLoadRouter_kept (t : Nat) (queue : Fin 4096) (s : State) :
    Keeps (execLoadRouter t queue s) s.pending (max s.now t) := by
  have h := admitOp_kept queue.val 2 2 (clockTo t s)
  simp only [execLoadRouter]; (repeat' split) <;> simp_all

theorem execLoadRouter_mem (t : Nat) (queue : Fin 4096) (s : State) (h : MemOk s) : EndsOk (execLoadRouter t queue s) := by
  obtain ⟨h1, h2, h3⟩ := h
  have k := admitOp_same queue.val 2 2 (clockTo t s)
  simp only [execLoadRouter]; (repeat' split) <;> simp_all

@[simp] theorem reloadRounds_kept (l : Layer) (s : State) :
    (reloadRounds l s).pending = s.pending ∧ (reloadRounds l s).now = s.now ∧ (reloadRounds l s).hbm = s.hbm ∧
    (reloadRounds l s).cellar = s.cellar ∧ (reloadRounds l s).hostMem = s.hostMem := by
  simp only [reloadRounds]; (repeat' split) <;> first | (simp; done) | simp_all

@[simp] theorem writeScores_kept (l : Layer) (rows : List (List Nat)) (s : State) :
    (writeScores l rows s).pending = s.pending ∧ (writeScores l rows s).now = s.now ∧
    (writeScores l rows s).cellar = s.cellar ∧ (writeScores l rows s).hostMem = s.hostMem := by
  simp only [writeScores]; (repeat' split) <;> first | (simp; done) | simp_all

@[simp] theorem writeScores_mem (l : Layer) (rows : List (List Nat)) (s : State) :
    (Memory.wf s.hbm = true → Memory.wf (writeScores l rows s).hbm = true) := by
  intro h; simp only [writeScores]; (repeat' split) <;> simp (maxDischargeDepth := 40) (contextual := true) [h]

@[simp] theorem execScoreStage_kept (t : Nat) (s : State) :
    Keeps (execScoreStage t s) s.pending (max s.now t) := by
  simp only [execScoreStage]; (repeat' split) <;> first | (simp; done) | simp_all

theorem execScoreStage_mem (t : Nat) (s : State) (h : MemOk s) :
    EndsOk (execScoreStage t s) := by
  simp only [execScoreStage]; (repeat' split) <;> simp (maxDischargeDepth := 40) (contextual := true) [h.1, h.2.1, h.2.2]

@[simp] theorem execArrayTempDrift_kept (t : Nat) (array : Fin 32) (temp : Int) (s : State) :
    Keeps (execArrayTempDrift t array temp s) s.pending (max s.now t) := by
  simp only [execArrayTempDrift]; (repeat' split) <;> first | (simp; done) | simp_all

theorem execArrayTempDrift_mem (t : Nat) (array : Fin 32) (temp : Int) (s : State) (h : MemOk s) :
    EndsOk (execArrayTempDrift t array temp s) := by
  simp only [execArrayTempDrift]; (repeat' split) <;> simp (maxDischargeDepth := 40) (contextual := true) [h.1, h.2.1, h.2.2]

@[simp] theorem execRecalibrationStart_kept (t : Nat) (array : Fin 32) (s : State) :
    Keeps (execRecalibrationStart t array s) s.pending (max s.now t) := by
  simp only [execRecalibrationStart]; (repeat' split) <;> first | (simp; done) | simp_all

theorem execRecalibrationStart_mem (t : Nat) (array : Fin 32) (s : State) (h : MemOk s) :
    EndsOk (execRecalibrationStart t array s) := by
  simp only [execRecalibrationStart]; (repeat' split) <;> simp (maxDischargeDepth := 40) (contextual := true) [h.1, h.2.1, h.2.2]

@[simp] theorem execRecalibrationComplete_kept (t : Nat) (array : Fin 32) (passed : Bool) (s : State) :
    Keeps (execRecalibrationComplete t array passed s) s.pending (max s.now t) := by
  simp only [execRecalibrationComplete]; (repeat' split) <;> first | (simp; done) | simp_all

theorem execRecalibrationComplete_mem (t : Nat) (array : Fin 32) (passed : Bool) (s : State) (h : MemOk s) :
    EndsOk (execRecalibrationComplete t array passed s) := by
  simp only [execRecalibrationComplete]; (repeat' split) <;> simp (maxDischargeDepth := 40) (contextual := true) [h.1, h.2.1, h.2.2]

@[simp] theorem abortRecalibration_kept (s : State) :
    (abortRecalibration s).pending = s.pending ∧ (abortRecalibration s).now = s.now ∧
    (abortRecalibration s).hbm = s.hbm ∧ (abortRecalibration s).cellar = s.cellar ∧
    (abortRecalibration s).hostMem = s.hostMem := by
  simp only [abortRecalibration]; (repeat' split) <;> first | (simp; done) | simp_all

@[simp] theorem execPlaneRefresh_kept (t : Nat) (plane : Fin 2) (s : State) :
    Keeps (execPlaneRefresh t plane s) s.pending (max s.now t) := by
  simp only [execPlaneRefresh]; (repeat' split) <;> first | (simp; done) | simp_all

theorem execPlaneRefresh_mem (t : Nat) (plane : Fin 2) (s : State) (h : MemOk s) :
    EndsOk (execPlaneRefresh t plane s) := by
  simp only [execPlaneRefresh]; (repeat' split) <;> simp (maxDischargeDepth := 40) (contextual := true) [h.1, h.2.1, h.2.2]

@[simp] theorem dropSubmission_kept (q index : Nat) (s : State) :
    (dropSubmission q index s).pending = s.pending ∧ (dropSubmission q index s).now = s.now ∧
    (dropSubmission q index s).hbm = s.hbm ∧ (dropSubmission q index s).cellar = s.cellar ∧
    (dropSubmission q index s).hostMem = s.hostMem := by
  simp only [dropSubmission]; (repeat' split) <;> first | (simp; done) | simp_all

@[simp] theorem beginLayer_kept (q : Nat) (d : Desc) (b : List Byte) (x : LayerReads) (s : State) :
    (beginLayer q d b x s).pending = s.pending ∧ (beginLayer q d b x s).now = s.now ∧
    (beginLayer q d b x s).hbm = s.hbm ∧ (beginLayer q d b x s).cellar = s.cellar ∧
    (beginLayer q d b x s).hostMem = s.hostMem := by
  simp only [beginLayer]; (repeat' split) <;> first | (simp; done) | simp_all

@[simp] theorem execLayer_kept (t : Nat) (queue : Fin 4096) (s : State) :
    Keeps (execLayer t queue s) s.pending (max s.now t) := by
  have h := admitOp_kept queue.val 2 1 (clockTo t s)
  simp only [execLayer]; (repeat' split) <;> simp_all

theorem execLayer_mem (t : Nat) (queue : Fin 4096) (s : State) (h : MemOk s) : EndsOk (execLayer t queue s) := by
  obtain ⟨h1, h2, h3⟩ := h
  have k := admitOp_same queue.val 2 1 (clockTo t s)
  simp only [execLayer]; (repeat' split) <;> simp_all

@[simp] theorem execJunctionFlags_kept (t : Nat) (queue : Fin 4096) (s : State) :
    Keeps (execJunctionFlags t queue s) s.pending (max s.now t) := by
  have h := admitOp_kept queue.val 2 3 (clockTo t s)
  simp only [execJunctionFlags]; (repeat' split) <;> simp_all

theorem execJunctionFlags_mem (t : Nat) (queue : Fin 4096) (s : State) (h : MemOk s) : EndsOk (execJunctionFlags t queue s) := by
  obtain ⟨h1, h2, h3⟩ := h
  have k := admitOp_same queue.val 2 3 (clockTo t s)
  simp only [execJunctionFlags]; (repeat' split) <;> simp_all

@[simp] theorem offerItem_kept (n : Nat) (it : TapItem) (words : Nat) (s : State) :
    (offerItem n it words s).pending = s.pending ∧ (offerItem n it words s).now = s.now ∧
    (offerItem n it words s).hbm = s.hbm ∧ (offerItem n it words s).cellar = s.cellar ∧
    (offerItem n it words s).hostMem = s.hostMem := by
  simp only [offerItem]; (repeat' split) <;> first | (simp; done) | simp_all

@[simp] theorem dropItem_kept (n : Nat) (s : State) :
    (dropItem n s).pending = s.pending ∧ (dropItem n s).now = s.now ∧ (dropItem n s).hbm = s.hbm ∧
    (dropItem n s).cellar = s.cellar ∧ (dropItem n s).hostMem = s.hostMem := by
  simp only [dropItem]; (repeat' split) <;> first | (simp; done) | simp_all

@[simp] theorem setPick_kept (t : Nat) (x : List (Nat × Nat)) (s : State) :
    (setPick t x s).pending = s.pending ∧ (setPick t x s).now = s.now ∧ (setPick t x s).hbm = s.hbm ∧
    (setPick t x s).cellar = s.cellar ∧ (setPick t x s).hostMem = s.hostMem := by
  simp only [setPick]; (repeat' split) <;> first | (simp; done) | simp_all

@[simp] theorem selectToken_kept (t : Nat) (s : State) :
    (selectToken t s).pending = s.pending ∧ (selectToken t s).now = s.now ∧ (selectToken t s).hbm = s.hbm ∧
    (selectToken t s).cellar = s.cellar ∧ (selectToken t s).hostMem = s.hostMem := by
  simp only [selectToken]; (repeat' split) <;> first | (simp; done) | simp_all

@[simp] theorem offerScores_kept (n : Nat) (s : State) :
    (offerScores n s).pending = s.pending ∧ (offerScores n s).now = s.now := by
  induction n generalizing s with
  | zero => simp [offerScores]
  | succ n ih => simp only [offerScores]; (repeat' split) <;> simp [ih]

@[simp] theorem offerScores_same (n : Nat) (s : State) : (offerScores n s).hbm = s.hbm ∧ (offerScores n s).cellar = s.cellar ∧
    (offerScores n s).hostMem = s.hostMem := by
  induction n generalizing s with
  | zero => exact ⟨rfl, rfl, rfl⟩
  | succ n ih => simp only [offerScores]; (repeat' split) <;> simp [ih]

@[simp] theorem selectOn_kept (n : Nat) (s : State) :
    (selectOn n s).pending = s.pending ∧ (selectOn n s).now = s.now := by
  induction n generalizing s with
  | zero => simp [selectOn]
  | succ n ih => simp only [selectOn]; (repeat' split) <;> simp [ih]

@[simp] theorem selectOn_same (n : Nat) (s : State) : (selectOn n s).hbm = s.hbm ∧ (selectOn n s).cellar = s.cellar ∧
    (selectOn n s).hostMem = s.hostMem := by
  induction n generalizing s with
  | zero => exact ⟨rfl, rfl, rfl⟩
  | succ n ih => simp only [selectOn]; (repeat' split) <;> simp [ih]

@[simp] theorem pumpSelect_kept (s : State) :
    (pumpSelect s).pending = s.pending ∧ (pumpSelect s).now = s.now ∧ (pumpSelect s).hbm = s.hbm ∧
    (pumpSelect s).cellar = s.cellar ∧ (pumpSelect s).hostMem = s.hostMem := by
  simp only [pumpSelect]; (repeat' split) <;> first | (simp; done) | simp_all

@[simp] theorem execSelectStage_kept (t : Nat) (s : State) :
    Keeps (execSelectStage t s) s.pending (max s.now t) := by
  simp only [execSelectStage]; (repeat' split) <;> first | (simp; done) | simp_all

theorem execSelectStage_mem (t : Nat) (s : State) (h : MemOk s) :
    EndsOk (execSelectStage t s) := by
  simp only [execSelectStage]; (repeat' split) <;> simp (maxDischargeDepth := 40) (contextual := true) [h.1, h.2.1, h.2.2]

@[simp] theorem decidePair_kept (i : Nat) (f : Fate) (s : State) :
    (decidePair i f s).pending = s.pending ∧ (decidePair i f s).now = s.now ∧ (decidePair i f s).hbm = s.hbm ∧
    (decidePair i f s).cellar = s.cellar ∧ (decidePair i f s).hostMem = s.hostMem := by
  simp only [decidePair]; (repeat' split) <;> first | (simp; done) | simp_all

@[simp] theorem decideItem_kept (t e : Nat) (f : Fate) (s : State) :
    (decideItem t e f s).pending = s.pending ∧ (decideItem t e f s).now = s.now ∧ (decideItem t e f s).hbm = s.hbm ∧
    (decideItem t e f s).cellar = s.cellar ∧ (decideItem t e f s).hostMem = s.hostMem := by
  simp only [decideItem]; (repeat' split) <;> first | (simp; done) | simp_all

@[simp] theorem admitOn_kept (n : Nat) (s : State) :
    (admitOn n s).pending = s.pending ∧ (admitOn n s).now = s.now := by
  induction n generalizing s with
  | zero => simp [admitOn]
  | succ n ih => simp only [admitOn]; (repeat' split) <;> simp [ih]

@[simp] theorem admitOn_same (n : Nat) (s : State) : (admitOn n s).hbm = s.hbm ∧ (admitOn n s).cellar = s.cellar ∧
    (admitOn n s).hostMem = s.hostMem := by
  induction n generalizing s with
  | zero => exact ⟨rfl, rfl, rfl⟩
  | succ n ih => simp only [admitOn]; (repeat' split) <;> simp [ih]

@[simp] theorem renormToken_kept (t : Nat) (s : State) :
    (renormToken t s).pending = s.pending ∧ (renormToken t s).now = s.now ∧ (renormToken t s).hbm = s.hbm ∧
    (renormToken t s).cellar = s.cellar ∧ (renormToken t s).hostMem = s.hostMem := by
  simp only [renormToken]; (repeat' split) <;> first | (simp; done) | simp_all

@[simp] theorem pumpAdmit_kept (s : State) : (pumpAdmit s).pending = s.pending ∧ (pumpAdmit s).now = s.now := by
  simp only [pumpAdmit]; (repeat' split) <;> simp

@[simp] theorem pumpAdmit_same (s : State) : (pumpAdmit s).hbm = s.hbm ∧ (pumpAdmit s).cellar = s.cellar ∧
    (pumpAdmit s).hostMem = s.hostMem := by
  simp only [pumpAdmit]; (repeat' split) <;> simp

@[simp] theorem execAdmitStage_kept (t : Nat) (s : State) :
    Keeps (execAdmitStage t s) s.pending (max s.now t) := by
  simp only [execAdmitStage]; (repeat' split) <;> first | (simp; done) | simp_all

theorem execAdmitStage_mem (t : Nat) (s : State) (h : MemOk s) :
    EndsOk (execAdmitStage t s) := by
  simp only [execAdmitStage]; (repeat' split) <;> simp (maxDischargeDepth := 40) (contextual := true) [h.1, h.2.1, h.2.2]

@[simp] theorem execSortStage_kept (t : Nat) (s : State) :
    Keeps (execSortStage t s) s.pending (max s.now t) := by
  simp only [execSortStage]; (repeat' split) <;> first | (simp; done) | simp_all

theorem execSortStage_mem (t : Nat) (s : State) (h : MemOk s) :
    EndsOk (execSortStage t s) := by
  simp only [execSortStage]; (repeat' split) <;> simp (maxDischargeDepth := 40) (contextual := true) [h.1, h.2.1, h.2.2]

@[simp] theorem shipLocal_kept (l : Layer) (entries : List ListEntry) (s : State) :
    (shipLocal l entries s).pending = s.pending ∧ (shipLocal l entries s).now = s.now := by
  simp only [shipLocal]; exact forEach_kept _ _ _ fun a u => by split <;> simp

@[simp] theorem shipLocal_same (l : Layer) (entries : List ListEntry) (s : State) :
    (shipLocal l entries s).cellar = s.cellar ∧ (shipLocal l entries s).hostMem = s.hostMem := by
  simp only [shipLocal]
  exact ⟨forEach_cellar _ _ _ fun a u => by split <;> simp, forEach_hostMem _ _ _ fun a u => by split <;> simp⟩

@[simp] theorem shipLocal_mem (l : Layer) (entries : List ListEntry) (s : State) (h : Memory.wf s.hbm = true) :
    Memory.wf (shipLocal l entries s).hbm = true := by
  simp only [shipLocal]; exact forEach_hbm_wf _ _ _ (fun a u k => by split <;> simp [k]) h

@[simp] theorem execShipStage_kept (t : Nat) (s : State) : Keeps (execShipStage t s) s.pending (max s.now t) := by
  simp only [execShipStage]
  (repeat' split) <;> first | (simp; done) | (rename_i h; simpa using submitDesc_kept _ _ _ _ h)

theorem execShipStage_mem (t : Nat) (s : State) (h : MemOk s) : EndsOk (execShipStage t s) := by
  obtain ⟨h1, h2, h3⟩ := h
  simp only [execShipStage]
  (repeat' split) <;> first
    | (simp (maxDischargeDepth := 40) (contextual := true) [h1, h2, h3]; done)
    | (rename_i k; simp [submitDesc_same _ _ _ _ k, submitDesc_mem _ _ _ _ k, h1, h2, h3])

@[simp] theorem settleLayer_kept (s : State) :
    (settleLayer s).pending = s.pending ∧ (settleLayer s).now = s.now ∧ (settleLayer s).cellar = s.cellar := by
  simp only [settleLayer]; (repeat' split) <;> first | (simp; done) | simp_all

@[simp] theorem settleLayer_mem (s : State) :
    (Memory.wf s.hbm = true → Memory.wf (settleLayer s).hbm = true) ∧
    (Memory.wf s.hostMem = true → Memory.wf (settleLayer s).hostMem = true) := by
  refine ⟨fun h => ?_, fun h => ?_⟩ <;>
    (simp only [settleLayer]; (repeat' split) <;> simp (maxDischargeDepth := 40) (contextual := true) [h])

@[simp] theorem zeroRows_kept (l : Layer) (ts : List Nat) (s : State) :
    (zeroRows l ts s).1.pending = s.pending ∧ (zeroRows l ts s).1.now = s.now := by
  induction ts generalizing s with
  | nil => simp [zeroRows]
  | cons t ts ih =>
    have h := writeRow_kept l.retView t (List.replicate (l.retView.extent 0) 0) s
    simp only [zeroRows]; split <;> simp_all

@[simp] theorem zeroRows_mem (l : Layer) (ts : List Nat) (s : State) :
    (Memory.wf s.hbm = true → Memory.wf (zeroRows l ts s).1.hbm = true) ∧
    (Memory.wf s.cellar = true → Memory.wf (zeroRows l ts s).1.cellar = true) ∧
    (Memory.wf s.hostMem = true → Memory.wf (zeroRows l ts s).1.hostMem = true) := by
  induction ts generalizing s with
  | nil => exact ⟨id, id, id⟩
  | cons t ts ih =>
    have k := writeRow_mem l.retView t (List.replicate (l.retView.extent 0) 0) s
    refine ⟨fun h => ?_, fun h => ?_, fun h => ?_⟩ <;> (simp only [zeroRows]; split <;> simp_all)

@[simp] theorem execAwaitStage_kept (t : Nat) (s : State) : Keeps (execAwaitStage t s) s.pending (max s.now t) := by
  simp only [execAwaitStage]
  (repeat' split) <;> first
    | (simp; done)
    | (rename_i h; have k := congrArg (fun x => (x.1.pending, x.1.now)) h; simp at k; simp [k])

theorem execAwaitStage_mem (t : Nat) (s : State) (h : MemOk s) : EndsOk (execAwaitStage t s) := by
  obtain ⟨h1, h2, h3⟩ := h
  simp only [execAwaitStage]; split
  · simp [h1, h2, h3]
  · split
    · simp [h1, h2, h3]
    · split
      · simp [h1, h2, h3]
      · split <;> rename_i e <;>
        · have j := congrArg (fun x => x.1) e
          simp only at j; rw [← j]
          refine ⟨?_, ?_, ?_⟩ <;> simp (maxDischargeDepth := 40) [h1, h2, h3]

@[simp] theorem execGatherStage_kept (t : Nat) (s : State) : Keeps (execGatherStage t s) s.pending (max s.now t) := by
  simp only [execGatherStage]
  (repeat' split) <;> first | (simp; done) | (rename_i h; simpa using submitDesc_kept _ _ _ _ h)

theorem execGatherStage_mem (t : Nat) (s : State) (h : MemOk s) : EndsOk (execGatherStage t s) := by
  obtain ⟨h1, h2, h3⟩ := h
  simp only [execGatherStage]
  (repeat' split) <;> first
    | (simp (maxDischargeDepth := 40) (contextual := true) [h1, h2, h3]; done)
    | (rename_i k; simp [submitDesc_same _ _ _ _ k, submitDesc_mem _ _ _ _ k, h1, h2, h3])

@[simp] theorem restoreSlot_kept (slot m : Nat) (s : State) :
    (restoreSlot slot m s).pending = s.pending ∧ (restoreSlot slot m s).now = s.now := by
  simp only [restoreSlot]
  (repeat' split) <;> first
    | (simp; done)
    | (rename_i h; have k := congrArg (fun x => (x.1.pending, x.1.now)) h; simp at k; simp [k])

@[simp] theorem restoreSlot_mem (slot m : Nat) (s : State) :
    (Memory.wf s.hbm = true → Memory.wf (restoreSlot slot m s).hbm = true) ∧
    (Memory.wf s.cellar = true → Memory.wf (restoreSlot slot m s).cellar = true) ∧
    (Memory.wf s.hostMem = true → Memory.wf (restoreSlot slot m s).hostMem = true) := by
  refine ⟨fun h => ?_, fun h => ?_, fun h => ?_⟩ <;>
    (simp only [restoreSlot]; (repeat' split) <;> first
      | (simp [h]; done)
      | (rename_i e; have j := congrArg Prod.fst e; simp only at j; rw [← j]; simp [h])
      | (rename_i e; have j := congrArg Prod.fst e; simp only at j; simp [← j, h]))

@[simp] theorem execRestoreStage_kept (t : Nat) (s : State) :
    Keeps (execRestoreStage t s) s.pending (max s.now t) := by
  simp only [execRestoreStage]; (repeat' split) <;> first | (simp; done) | simp_all

theorem execRestoreStage_mem (t : Nat) (s : State) (h : MemOk s) :
    EndsOk (execRestoreStage t s) := by
  simp only [execRestoreStage]; (repeat' split) <;> simp (maxDischargeDepth := 40) (contextual := true) [h.1, h.2.1, h.2.2]

@[simp] theorem defaultItem_kept (n : Nat) (it : TapItem) (s : State) :
    (defaultItem n it s).pending = s.pending ∧ (defaultItem n it s).now = s.now := by
  simp only [defaultItem]; (repeat' split) <;> first | (simp; done) | simp_all

@[simp] theorem defaultItem_mem (n : Nat) (it : TapItem) (s : State) :
    (Memory.wf s.hbm = true → Memory.wf (defaultItem n it s).hbm = true) ∧
    (Memory.wf s.cellar = true → Memory.wf (defaultItem n it s).cellar = true) ∧
    (Memory.wf s.hostMem = true → Memory.wf (defaultItem n it s).hostMem = true) := by
  refine ⟨fun h => ?_, fun h => ?_, fun h => ?_⟩ <;>
    (simp only [defaultItem]; (repeat' split) <;> simp (maxDischargeDepth := 40) (contextual := true) [h])

@[simp] theorem bypassTap_kept (n : Nat) (s : State) :
    (bypassTap n s).pending = s.pending ∧ (bypassTap n s).now = s.now := by
  simp only [bypassTap]; (repeat' split) <;> first | (simp; done) | simp_all

@[simp] theorem bypassTap_mem (n : Nat) (s : State) :
    (Memory.wf s.hbm = true → Memory.wf (bypassTap n s).hbm = true) ∧
    (Memory.wf s.cellar = true → Memory.wf (bypassTap n s).cellar = true) ∧
    (Memory.wf s.hostMem = true → Memory.wf (bypassTap n s).hostMem = true) := by
  refine ⟨fun h => ?_, fun h => ?_, fun h => ?_⟩ <;>
    (simp only [bypassTap]; (repeat' split) <;> simp (maxDischargeDepth := 40) (contextual := true) [h])

@[simp] theorem pumpStage_kept (s : State) :
    (pumpStage s).pending = s.pending ∧ (pumpStage s).now = s.now ∧ (pumpStage s).hbm = s.hbm ∧
    (pumpStage s).cellar = s.cellar ∧ (pumpStage s).hostMem = s.hostMem := by
  simp only [pumpStage]; (repeat' split) <;> first | (simp; done) | simp_all

@[simp] theorem bypassLot_kept (lot : Nat) (s : State) :
    (bypassLot lot s).pending = s.pending ∧ (bypassLot lot s).now = s.now := by
  simp only [bypassLot]; (repeat' split) <;> first | (simp; done) | simp_all

@[simp] theorem bypassLot_mem (lot : Nat) (s : State) :
    (Memory.wf s.hbm = true → Memory.wf (bypassLot lot s).hbm = true) ∧
    (Memory.wf s.cellar = true → Memory.wf (bypassLot lot s).cellar = true) ∧
    (Memory.wf s.hostMem = true → Memory.wf (bypassLot lot s).hostMem = true) := by
  refine ⟨fun h => ?_, fun h => ?_, fun h => ?_⟩ <;>
    (simp only [bypassLot]; (repeat' split) <;> simp (maxDischargeDepth := 40) (contextual := true) [h])

@[simp] theorem fenceLot_kept (lot cause : Nat) (s : State) :
    (fenceLot lot cause s).pending = s.pending ∧ (fenceLot lot cause s).now = s.now := by
  simp only [fenceLot]; (repeat' split) <;> first | (simp; done) | simp_all

@[simp] theorem fenceLot_mem (lot cause : Nat) (s : State) :
    (Memory.wf s.hbm = true → Memory.wf (fenceLot lot cause s).hbm = true) ∧
    (Memory.wf s.cellar = true → Memory.wf (fenceLot lot cause s).cellar = true) ∧
    (Memory.wf s.hostMem = true → Memory.wf (fenceLot lot cause s).hostMem = true) := by
  refine ⟨fun h => ?_, fun h => ?_, fun h => ?_⟩ <;>
    (simp only [fenceLot]; (repeat' split) <;> simp (maxDischargeDepth := 40) (contextual := true) [h])

@[simp] theorem tapFails_kept (n cause : Nat) (s : State) :
    (tapFails n cause s).pending = s.pending ∧ (tapFails n cause s).now = s.now := by
  simp only [tapFails]; (repeat' split) <;> first | (simp; done) | simp_all

@[simp] theorem tapFails_mem (n cause : Nat) (s : State) :
    (Memory.wf s.hbm = true → Memory.wf (tapFails n cause s).hbm = true) ∧
    (Memory.wf s.cellar = true → Memory.wf (tapFails n cause s).cellar = true) ∧
    (Memory.wf s.hostMem = true → Memory.wf (tapFails n cause s).hostMem = true) := by
  refine ⟨fun h => ?_, fun h => ?_, fun h => ?_⟩ <;>
    (simp only [tapFails]; (repeat' split) <;> simp (maxDischargeDepth := 40) (contextual := true) [h])

@[simp] theorem execTapTimeout_kept (t : Nat) (tap : Fin 4) (s : State) :
    Keeps (execTapTimeout t tap s) s.pending (max s.now t) := by
  simp only [execTapTimeout]; (repeat' split) <;> first | (simp; done) | simp_all

theorem execTapTimeout_mem (t : Nat) (tap : Fin 4) (s : State) (h : MemOk s) :
    EndsOk (execTapTimeout t tap s) := by
  simp only [execTapTimeout]; (repeat' split) <;> simp (maxDischargeDepth := 40) (contextual := true) [h.1, h.2.1, h.2.2]

@[simp] theorem rejectIf_kept (b : Bool) (s : State) :
    (rejectIf b s).pending = s.pending ∧ (rejectIf b s).now = s.now ∧ (rejectIf b s).hbm = s.hbm ∧
    (rejectIf b s).cellar = s.cellar ∧ (rejectIf b s).hostMem = s.hostMem := by
  simp only [rejectIf]; (repeat' split) <;> first | (simp; done) | simp_all

@[simp] theorem applyReply_kept (l : Layer) (n : Nat) (it : TapItem) (ws : List Nat) (s : State) :
    (applyReply l n it ws s).pending = s.pending ∧ (applyReply l n it ws s).now = s.now := by
  simp only [applyReply]; (repeat' split) <;> first | (simp; done) | simp_all

@[simp] theorem applyReply_mem (l : Layer) (n : Nat) (it : TapItem) (ws : List Nat) (s : State) :
    (Memory.wf s.hbm = true → Memory.wf (applyReply l n it ws s).hbm = true) ∧
    (Memory.wf s.cellar = true → Memory.wf (applyReply l n it ws s).cellar = true) ∧
    (Memory.wf s.hostMem = true → Memory.wf (applyReply l n it ws s).hostMem = true) := by
  refine ⟨fun h => ?_, fun h => ?_, fun h => ?_⟩ <;>
    (simp only [applyReply]; (repeat' split) <;> simp (maxDischargeDepth := 40) (contextual := true) [h])

@[simp] theorem execTapReply_kept (t : Nat) (tap : Fin 4) (words : List Nat) (s : State) :
    Keeps (execTapReply t tap words s) s.pending (max s.now t) := by
  simp only [execTapReply]; (repeat' split) <;> first | (simp; done) | simp_all

theorem execTapReply_mem (t : Nat) (tap : Fin 4) (words : List Nat) (s : State) (h : MemOk s) :
    EndsOk (execTapReply t tap words s) := by
  simp only [execTapReply]; (repeat' split) <;> simp (maxDischargeDepth := 40) (contextual := true) [h.1, h.2.1, h.2.2]

@[simp] theorem spaceWrite_kept (space a : Nat) (bs : List Byte) (s : State) :
    (spaceWrite space a bs s).pending = s.pending ∧ (spaceWrite space a bs s).now = s.now := by
  simp only [spaceWrite]; (repeat' split) <;> first | (simp; done) | simp_all

@[simp] theorem spaceWrite_mem (space a : Nat) (bs : List Byte) (s : State) :
    (Memory.wf s.hbm = true → Memory.wf (spaceWrite space a bs s).hbm = true) ∧
    (Memory.wf s.cellar = true → Memory.wf (spaceWrite space a bs s).cellar = true) ∧
    (Memory.wf s.hostMem = true → Memory.wf (spaceWrite space a bs s).hostMem = true) := by
  refine ⟨fun h => ?_, fun h => ?_, fun h => ?_⟩ <;>
    (simp only [spaceWrite]; (repeat' split) <;> simp (maxDischargeDepth := 40) (contextual := true) [h])

@[simp] theorem progress_kept (q index done cause : Nat) (s : State) :
    (progress q index done cause s).pending = s.pending ∧ (progress q index done cause s).now = s.now ∧
    (progress q index done cause s).hbm = s.hbm ∧ (progress q index done cause s).cellar = s.cellar ∧
    (progress q index done cause s).hostMem = s.hostMem := by
  simp only [progress]; (repeat' split) <;> first | (simp; done) | simp_all

@[simp] theorem copyOut_kept (q index n space a : Nat) (bs : List Byte) (srcCause : Nat) (s : State) :
    (copyOut q index n space a bs srcCause s).pending = s.pending ∧
    (copyOut q index n space a bs srcCause s).now = s.now := by
  simp only [copyOut]; (repeat' split) <;> first | (simp; done) | simp_all

@[simp] theorem copyOut_mem (q index n space a : Nat) (bs : List Byte) (srcCause : Nat) (s : State) :
    (Memory.wf s.hbm = true → Memory.wf (copyOut q index n space a bs srcCause s).hbm = true) ∧
    (Memory.wf s.cellar = true → Memory.wf (copyOut q index n space a bs srcCause s).cellar = true) ∧
    (Memory.wf s.hostMem = true → Memory.wf (copyOut q index n space a bs srcCause s).hostMem = true) := by
  refine ⟨fun h => ?_, fun h => ?_, fun h => ?_⟩ <;>
    (simp only [copyOut]; (repeat' split) <;> simp (maxDischargeDepth := 40) (contextual := true) [h])

@[simp] theorem copyAccess_kept (q index sled off len : Nat) (data : Option (List Byte)) (s : State) :
    (copyAccess q index sled off len data s).pending = s.pending ∧
    (copyAccess q index sled off len data s).now = s.now ∧ (copyAccess q index sled off len data s).hbm = s.hbm ∧
    (copyAccess q index sled off len data s).cellar = s.cellar ∧
    (copyAccess q index sled off len data s).hostMem = s.hostMem := by
  simp only [copyAccess]; (repeat' split) <;> first | (simp; done) | simp_all

@[simp] theorem startCopy_kept (q : Nat) (d : Desc) (s : State) :
    (startCopy q d s).pending = s.pending ∧ (startCopy q d s).now = s.now ∧ (startCopy q d s).hbm = s.hbm ∧
    (startCopy q d s).cellar = s.cellar ∧ (startCopy q d s).hostMem = s.hostMem := by
  simp only [startCopy]; (repeat' split) <;> first | (simp; done) | simp_all

@[simp] theorem endCopy_kept (q : Nat) (d : Desc) (s : State) :
    (endCopy q d s).pending = s.pending ∧ (endCopy q d s).now = s.now := by
  simp only [endCopy]; (repeat' split) <;> first | (simp; done) | simp_all

@[simp] theorem endCopy_mem (q : Nat) (d : Desc) (s : State) :
    (Memory.wf s.hbm = true → Memory.wf (endCopy q d s).hbm = true) ∧
    (Memory.wf s.cellar = true → Memory.wf (endCopy q d s).cellar = true) ∧
    (Memory.wf s.hostMem = true → Memory.wf (endCopy q d s).hostMem = true) := by
  refine ⟨fun h => ?_, fun h => ?_, fun h => ?_⟩ <;>
    (simp only [endCopy]; (repeat' split) <;> simp (maxDischargeDepth := 40) (contextual := true) [h])

@[simp] theorem startFill_kept (q : Nat) (d : Desc) (s : State) :
    (startFill q d s).pending = s.pending ∧ (startFill q d s).now = s.now := by
  simp only [startFill]; (repeat' split) <;> first | (simp; done) | simp_all

@[simp] theorem startFill_mem (q : Nat) (d : Desc) (s : State) :
    (Memory.wf s.hbm = true → Memory.wf (startFill q d s).hbm = true) ∧
    (Memory.wf s.cellar = true → Memory.wf (startFill q d s).cellar = true) ∧
    (Memory.wf s.hostMem = true → Memory.wf (startFill q d s).hostMem = true) := by
  refine ⟨fun h => ?_, fun h => ?_, fun h => ?_⟩ <;>
    (simp only [startFill]; (repeat' split) <;> simp (maxDischargeDepth := 40) (contextual := true) [h])

end Sys2Proof.Machine
end

