-- ==== Sys2Proof/Laws/FramesFabric.lean ====
section
/-! SUPPORT. What each operation leaves as it was: the queue, local time and the memories it does not write; and that
the memories it writes stay canonical.  This file: the fabric, its loading and scrubbing, memory errors, resets and the sweep. -/

namespace Sys2Proof.Machine

@[simp] theorem execFabricNop_kept (t : Nat) (queue : Fin 4096) (s : State) :
    Keeps (execFabricNop t queue s) s.pending (max s.now t) := by
  have h := admitOp_kept queue.val 3 1 (clockTo t s)
  simp only [execFabricNop]; (repeat' split) <;> simp_all

theorem execFabricNop_mem (t : Nat) (queue : Fin 4096) (s : State) (h : MemOk s) : EndsOk (execFabricNop t queue s) := by
  obtain ⟨h1, h2, h3⟩ := h
  have k := admitOp_same queue.val 3 1 (clockTo t s)
  simp only [execFabricNop]; (repeat' split) <;> simp_all

@[simp] theorem beginStream_kept (push : Bool) (q index : Nat) (s : State) :
    (beginStream push q index s).pending = s.pending ∧ (beginStream push q index s).now = s.now := by
  have h := admitOp_kept q 3 (if push then 2 else 3) s
  simp only [beginStream]; split
  · simp
  · split
    · simp
    · split <;> rename_i heq <;> rw [heq] at h
      · simpa using h
      · (repeat' split) <;> simpa using h

@[simp] theorem beginStream_same (push : Bool) (q index : Nat) (s : State) :
    (beginStream push q index s).cellar = s.cellar := by
  have h := admitOp_same q 3 (if push then 2 else 3) s
  simp only [beginStream]; split
  · simp
  · split
    · simp
    · split <;> rename_i heq <;> rw [heq] at h
      · simpa using h.2.1
      · (repeat' split) <;> simpa using h.2.1

@[simp] theorem beginStream_mem (push : Bool) (q index : Nat) (s : State) :
    (Memory.wf s.hbm = true → Memory.wf (beginStream push q index s).hbm = true) ∧
    (Memory.wf s.hostMem = true → Memory.wf (beginStream push q index s).hostMem = true) := by
  have h := admitOp_same q 3 (if push then 2 else 3) s
  refine ⟨fun k => ?_, fun k => ?_⟩ <;>
    (simp only [beginStream]; split
     · exact k
     · split
       · exact k
       · split <;> rename_i heq <;> rw [heq] at h <;> simp only at h
         · simp [h, k]
         · (repeat' split) <;> simp [h, k])

@[simp] theorem setHead_kept (c : Nat) (x : Stream) (s : State) :
    (setHead c x s).pending = s.pending ∧ (setHead c x s).now = s.now ∧ (setHead c x s).hbm = s.hbm ∧
    (setHead c x s).cellar = s.cellar ∧ (setHead c x s).hostMem = s.hostMem := by
  simp only [setHead]; (repeat' split) <;> first | (simp; done) | simp_all

@[simp] theorem closeHead_kept (c status cause : Nat) (s : State) :
    (closeHead c status cause s).pending = s.pending ∧ (closeHead c status cause s).now = s.now ∧
    (closeHead c status cause s).cellar = s.cellar := by
  simp only [closeHead]; (repeat' split) <;> first | (simp; done) | simp_all

@[simp] theorem closeHead_mem (c status cause : Nat) (s : State) :
    (Memory.wf s.hbm = true → Memory.wf (closeHead c status cause s).hbm = true) ∧
    (Memory.wf s.hostMem = true → Memory.wf (closeHead c status cause s).hostMem = true) := by
  refine ⟨fun h => ?_, fun h => ?_⟩ <;>
    (simp only [closeHead]; (repeat' split) <;> simp (maxDischargeDepth := 40) (contextual := true) [h])

@[simp] theorem runPush_kept (q index taken : Nat) (s : State) :
    (runPush q index taken s).pending = s.pending ∧ (runPush q index taken s).now = s.now ∧
    (runPush q index taken s).cellar = s.cellar := by
  simp only [runPush]; (repeat' split) <;> first | (simp; done) | simp_all

@[simp] theorem runPush_mem (q index taken : Nat) (s : State) :
    (Memory.wf s.hbm = true → Memory.wf (runPush q index taken s).hbm = true) ∧
    (Memory.wf s.hostMem = true → Memory.wf (runPush q index taken s).hostMem = true) := by
  refine ⟨fun h => ?_, fun h => ?_⟩ <;>
    (simp only [runPush]; (repeat' split) <;> simp (maxDischargeDepth := 40) (contextual := true) [h])

@[simp] theorem execPush_kept (t : Nat) (queue : Fin 4096) (index taken : Nat) (s : State) :
    Keeps (execPush t queue index taken s) s.pending (max s.now t) := by
  simp only [execPush]; (repeat' split) <;> first | (simp; done) | simp_all

theorem execPush_mem (t : Nat) (queue : Fin 4096) (index taken : Nat) (s : State) (h : MemOk s) :
    EndsOk (execPush t queue index taken s) := by
  simp only [execPush]; (repeat' split) <;> simp (maxDischargeDepth := 40) (contextual := true) [h.1, h.2.1, h.2.2]

@[simp] theorem portBreaks_kept (c : Nat) (s : State) :
    (portBreaks c s).pending = s.pending ∧ (portBreaks c s).now = s.now := by
  simp only [portBreaks]; (repeat' split) <;> first | (simp; done) | simp_all

@[simp] theorem portBreaks_mem (c : Nat) (s : State) :
    (Memory.wf s.hbm = true → Memory.wf (portBreaks c s).hbm = true) ∧
    (Memory.wf s.cellar = true → Memory.wf (portBreaks c s).cellar = true) ∧
    (Memory.wf s.hostMem = true → Memory.wf (portBreaks c s).hostMem = true) := by
  refine ⟨fun h => ?_, fun h => ?_, fun h => ?_⟩ <;>
    (simp only [portBreaks]; (repeat' split) <;> simp (maxDischargeDepth := 40) (contextual := true) [h])

@[simp] theorem runPull_kept (q index : Nat) (words : List Nat) (s : State) :
    (runPull q index words s).pending = s.pending ∧ (runPull q index words s).now = s.now := by
  simp only [runPull]; (repeat' split) <;> first | (simp; done) | simp_all

@[simp] theorem runPull_mem (q index : Nat) (words : List Nat) (s : State) :
    (Memory.wf s.hbm = true → Memory.wf (runPull q index words s).hbm = true) ∧
    (Memory.wf s.cellar = true → Memory.wf (runPull q index words s).cellar = true) ∧
    (Memory.wf s.hostMem = true → Memory.wf (runPull q index words s).hostMem = true) := by
  refine ⟨fun h => ?_, fun h => ?_, fun h => ?_⟩ <;>
    (simp only [runPull]; (repeat' split) <;> simp (maxDischargeDepth := 40) (contextual := true) [h])

@[simp] theorem execPull_kept (t : Nat) (queue : Fin 4096) (index : Nat) (words : List Nat) (s : State) :
    Keeps (execPull t queue index words s) s.pending (max s.now t) := by
  simp only [execPull]; (repeat' split) <;> first | (simp; done) | simp_all

theorem execPull_mem (t : Nat) (queue : Fin 4096) (index : Nat) (words : List Nat) (s : State) (h : MemOk s) :
    EndsOk (execPull t queue index words s) := by
  simp only [execPull]; (repeat' split) <;> simp (maxDischargeDepth := 40) (contextual := true) [h.1, h.2.1, h.2.2]

@[simp] theorem feedOn_kept (c n : Nat) (s : State) :
    (feedOn c n s).pending = s.pending ∧ (feedOn c n s).now = s.now := by
  induction n generalizing s with
  | zero => simp [feedOn]
  | succ n ih =>
    simp only [feedOn]
    (repeat' split) <;> first | (simp [ih]; done) | (rename_i h; simpa [ih] using submitDesc_kept _ _ _ _ h)

@[simp] theorem feedOn_same (c n : Nat) (s : State) :
    (feedOn c n s).cellar = s.cellar ∧ (feedOn c n s).hostMem = s.hostMem := by
  induction n generalizing s with
  | zero => exact ⟨rfl, rfl⟩
  | succ n ih =>
    simp only [feedOn]
    (repeat' split) <;> first | (simp [ih]; done) | (rename_i h; simp [ih, submitDesc_same _ _ _ _ h])

@[simp] theorem feedOn_mem (c n : Nat) (s : State) (h : Memory.wf s.hbm = true) :
    Memory.wf (feedOn c n s).hbm = true := by
  induction n generalizing s with
  | zero => exact h
  | succ n ih =>
    simp only [feedOn]
    (repeat' split) <;> first
      | exact h
      | (rename_i k; have j := submitDesc_mem _ _ _ _ k h; exact ih _ (by simpa using j))
      | exact ih _ (by simpa using h)

@[simp] theorem execFeedSubmit_kept (t : Nat) (ctrl : Fin 128) (words : List Nat) (s : State) :
    Keeps (execFeedSubmit t ctrl words s) s.pending (max s.now t) := by
  simp only [execFeedSubmit]; (repeat' split) <;> first | (simp; done) | simp_all

theorem execFeedSubmit_mem (t : Nat) (ctrl : Fin 128) (words : List Nat) (s : State) (h : MemOk s) :
    EndsOk (execFeedSubmit t ctrl words s) := by
  simp only [execFeedSubmit]; (repeat' split) <;> simp (maxDischargeDepth := 40) (contextual := true) [h.1, h.2.1, h.2.2]

@[simp] theorem execQcStall_kept (t : Nat) (ctrl : Fin 128) (s : State) :
    Keeps (execQcStall t ctrl s) s.pending (max s.now t) := by
  simp only [execQcStall]; (repeat' split) <;> first | (simp; done) | simp_all

theorem execQcStall_mem (t : Nat) (ctrl : Fin 128) (s : State) (h : MemOk s) :
    EndsOk (execQcStall t ctrl s) := by
  simp only [execQcStall]; (repeat' split) <;> simp (maxDischargeDepth := 40) (contextual := true) [h.1, h.2.1, h.2.2]

@[simp] theorem execFabricBrownout_kept (t : Nat) (chip : Fin 4) (s : State) :
    Keeps (execFabricBrownout t chip s) s.pending (max s.now t) := by
  simp only [execFabricBrownout]; (repeat' split) <;> first | (simp; done) | simp_all

theorem execFabricBrownout_mem (t : Nat) (chip : Fin 4) (s : State) (h : MemOk s) :
    EndsOk (execFabricBrownout t chip s) := by
  simp only [execFabricBrownout]; (repeat' split) <;> simp (maxDischargeDepth := 40) (contextual := true) [h.1, h.2.1, h.2.2]

@[simp] theorem execIobFault_kept (t : Nat) (bank : Fin 4) (s : State) :
    Keeps (execIobFault t bank s) s.pending (max s.now t) := by
  simp only [execIobFault]; (repeat' split) <;> first | (simp; done) | simp_all

theorem execIobFault_mem (t : Nat) (bank : Fin 4) (s : State) (h : MemOk s) :
    EndsOk (execIobFault t bank s) := by
  simp only [execIobFault]; (repeat' split) <;> simp (maxDischargeDepth := 40) (contextual := true) [h.1, h.2.1, h.2.2]

@[simp] theorem execIobVccGood_kept (t : Nat) (bank : Fin 4) (s : State) :
    Keeps (execIobVccGood t bank s) s.pending (max s.now t) := by
  simp only [execIobVccGood]; (repeat' split) <;> first | (simp; done) | simp_all

theorem execIobVccGood_mem (t : Nat) (bank : Fin 4) (s : State) (h : MemOk s) :
    EndsOk (execIobVccGood t bank s) := by
  simp only [execIobVccGood]; (repeat' split) <;> simp (maxDischargeDepth := 40) (contextual := true) [h.1, h.2.1, h.2.2]

@[simp] theorem execSerLaneLock_kept (t : Nat) (bank : Fin 4) (lane : Fin 8) (locked : Bool) (s : State) :
    Keeps (execSerLaneLock t bank lane locked s) s.pending (max s.now t) := by
  simp only [execSerLaneLock]; (repeat' split) <;> first | (simp; done) | simp_all

theorem execSerLaneLock_mem (t : Nat) (bank : Fin 4) (lane : Fin 8) (locked : Bool) (s : State) (h : MemOk s) :
    EndsOk (execSerLaneLock t bank lane locked s) := by
  simp only [execSerLaneLock]; (repeat' split) <;> simp (maxDischargeDepth := 40) (contextual := true) [h.1, h.2.1, h.2.2]

@[simp] theorem cfgFailRecord_kept (lot err : Nat) (s : State) :
    (cfgFailRecord lot err s).pending = s.pending ∧ (cfgFailRecord lot err s).now = s.now := by
  simp only [cfgFailRecord]; (repeat' split) <;> first | (simp; done) | simp_all

@[simp] theorem cfgFailRecord_mem (lot err : Nat) (s : State) :
    (Memory.wf s.hbm = true → Memory.wf (cfgFailRecord lot err s).hbm = true) ∧
    (Memory.wf s.cellar = true → Memory.wf (cfgFailRecord lot err s).cellar = true) ∧
    (Memory.wf s.hostMem = true → Memory.wf (cfgFailRecord lot err s).hostMem = true) := by
  refine ⟨fun h => ?_, fun h => ?_, fun h => ?_⟩ <;>
    (simp only [cfgFailRecord]; (repeat' split) <;> simp (maxDischargeDepth := 40) (contextual := true) [h])

@[simp] theorem reloadFails_kept (lot err : Nat) (s : State) :
    (reloadFails lot err s).pending = s.pending ∧ (reloadFails lot err s).now = s.now := by
  simp only [reloadFails]; (repeat' split) <;> first | (simp; done) | simp_all

@[simp] theorem reloadFails_mem (lot err : Nat) (s : State) :
    (Memory.wf s.hbm = true → Memory.wf (reloadFails lot err s).hbm = true) ∧
    (Memory.wf s.cellar = true → Memory.wf (reloadFails lot err s).cellar = true) ∧
    (Memory.wf s.hostMem = true → Memory.wf (reloadFails lot err s).hostMem = true) := by
  refine ⟨fun h => ?_, fun h => ?_, fun h => ?_⟩ <;>
    (simp only [reloadFails]; (repeat' split) <;> simp (maxDischargeDepth := 40) (contextual := true) [h])

@[simp] theorem fullLoadFails_kept (lot err : Nat) (s : State) :
    (fullLoadFails lot err s).pending = s.pending ∧ (fullLoadFails lot err s).now = s.now := by
  simp only [fullLoadFails]; (repeat' split) <;> first | (simp; done) | simp_all

@[simp] theorem fullLoadFails_mem (lot err : Nat) (s : State) :
    (Memory.wf s.hbm = true → Memory.wf (fullLoadFails lot err s).hbm = true) ∧
    (Memory.wf s.cellar = true → Memory.wf (fullLoadFails lot err s).cellar = true) ∧
    (Memory.wf s.hostMem = true → Memory.wf (fullLoadFails lot err s).hostMem = true) := by
  refine ⟨fun h => ?_, fun h => ?_, fun h => ?_⟩ <;>
    (simp only [fullLoadFails]; (repeat' split) <;> simp (maxDischargeDepth := 40) (contextual := true) [h])

@[simp] theorem sectionFails_kept (c err : Nat) (s : State) :
    (sectionFails c err s).pending = s.pending ∧ (sectionFails c err s).now = s.now := by
  simp only [sectionFails]; (repeat' split) <;> first | (simp; done) | simp_all

@[simp] theorem sectionFails_mem (c err : Nat) (s : State) :
    (Memory.wf s.hbm = true → Memory.wf (sectionFails c err s).hbm = true) ∧
    (Memory.wf s.cellar = true → Memory.wf (sectionFails c err s).cellar = true) ∧
    (Memory.wf s.hostMem = true → Memory.wf (sectionFails c err s).hostMem = true) := by
  refine ⟨fun h => ?_, fun h => ?_, fun h => ?_⟩ <;>
    (simp only [sectionFails]; (repeat' split) <;> simp (maxDischargeDepth := 40) (contextual := true) [h])

@[simp] theorem abortSection_kept (c : Nat) (s : State) :
    (abortSection c s).pending = s.pending ∧ (abortSection c s).now = s.now := by
  simp only [abortSection]; (repeat' split) <;> first | (simp; done) | simp_all

@[simp] theorem abortSection_mem (c : Nat) (s : State) :
    (Memory.wf s.hbm = true → Memory.wf (abortSection c s).hbm = true) ∧
    (Memory.wf s.cellar = true → Memory.wf (abortSection c s).cellar = true) ∧
    (Memory.wf s.hostMem = true → Memory.wf (abortSection c s).hostMem = true) := by
  refine ⟨fun h => ?_, fun h => ?_, fun h => ?_⟩ <;>
    (simp only [abortSection]; (repeat' split) <;> simp (maxDischargeDepth := 40) (contextual := true) [h])

@[simp] theorem selectIr_kept (n code : Nat) (s : State) :
    (selectIr n code s).pending = s.pending ∧ (selectIr n code s).now = s.now := by
  simp only [selectIr]; (repeat' split) <;> first | (simp; done) | simp_all

@[simp] theorem selectIr_mem (n code : Nat) (s : State) :
    (Memory.wf s.hbm = true → Memory.wf (selectIr n code s).hbm = true) ∧
    (Memory.wf s.cellar = true → Memory.wf (selectIr n code s).cellar = true) ∧
    (Memory.wf s.hostMem = true → Memory.wf (selectIr n code s).hostMem = true) := by
  refine ⟨fun h => ?_, fun h => ?_, fun h => ?_⟩ <;>
    (simp only [selectIr]; (repeat' split) <;> simp (maxDischargeDepth := 40) (contextual := true) [h])

@[simp] theorem shiftOut_kept (v : Nat) (s : State) :
    (shiftOut v s).pending = s.pending ∧ (shiftOut v s).now = s.now ∧ (shiftOut v s).hbm = s.hbm ∧
    (shiftOut v s).cellar = s.cellar ∧ (shiftOut v s).hostMem = s.hostMem := by
  simp only [shiftOut]; (repeat' split) <;> first | (simp; done) | simp_all

@[simp] theorem execTestLogicReset_kept (t : Nat) (ext : Bool) (s : State) :
    Keeps (execTestLogicReset t ext s) s.pending (max s.now t) := by
  simp only [execTestLogicReset]; (repeat' split) <;> first | (simp; done) | simp_all

theorem execTestLogicReset_mem (t : Nat) (ext : Bool) (s : State) (h : MemOk s) :
    EndsOk (execTestLogicReset t ext s) := by
  simp only [execTestLogicReset]; (repeat' split) <;> simp (maxDischargeDepth := 40) (contextual := true) [h.1, h.2.1, h.2.2]

@[simp] theorem execBypass_kept (t : Nat) (ext : Bool) (tap : Fin 5) (code : Nat) (s : State) :
    Keeps (execBypass t ext tap s code) s.pending (max s.now t) := by
  simp only [execBypass]; (repeat' split) <;> first | (simp; done) | simp_all

theorem execBypass_mem (t : Nat) (ext : Bool) (tap : Fin 5) (code : Nat) (s : State) (h : MemOk s) :
    EndsOk (execBypass t ext tap s code) := by
  simp only [execBypass]; (repeat' split) <;> simp (maxDischargeDepth := 40) (contextual := true) [h.1, h.2.1, h.2.2]

@[simp] theorem execIdcode_kept (t : Nat) (ext : Bool) (tap : Fin 5) (s : State) :
    Keeps (execIdcode t ext tap s) s.pending (max s.now t) := by
  simp only [execIdcode]; (repeat' split) <;> first | (simp; done) | simp_all

theorem execIdcode_mem (t : Nat) (ext : Bool) (tap : Fin 5) (s : State) (h : MemOk s) :
    EndsOk (execIdcode t ext tap s) := by
  simp only [execIdcode]; (repeat' split) <;> simp (maxDischargeDepth := 40) (contextual := true) [h.1, h.2.1, h.2.2]

@[simp] theorem setBoundary_kept (tap v : Nat) (drives : Bool) (s : State) :
    (setBoundary tap v drives s).pending = s.pending ∧ (setBoundary tap v drives s).now = s.now ∧
    (setBoundary tap v drives s).hbm = s.hbm ∧ (setBoundary tap v drives s).cellar = s.cellar ∧
    (setBoundary tap v drives s).hostMem = s.hostMem := by
  simp only [setBoundary]; (repeat' split) <;> first | (simp; done) | simp_all

@[simp] theorem execSamplePreload_kept (t : Nat) (ext : Bool) (tap : Fin 5) (pins preload : Nat) (s : State) :
    Keeps (execSamplePreload t ext tap pins preload s) s.pending (max s.now t) := by
  simp only [execSamplePreload]; (repeat' split) <;> first | (simp; done) | simp_all

theorem execSamplePreload_mem (t : Nat) (ext : Bool) (tap : Fin 5) (pins preload : Nat) (s : State) (h : MemOk s) :
    EndsOk (execSamplePreload t ext tap pins preload s) := by
  simp only [execSamplePreload]; (repeat' split) <;> simp (maxDischargeDepth := 40) (contextual := true) [h.1, h.2.1, h.2.2]

@[simp] theorem execExtest_kept (t : Nat) (ext : Bool) (tap : Fin 5) (pins drive : Nat) (s : State) :
    Keeps (execExtest t ext tap pins drive s) s.pending (max s.now t) := by
  simp only [execExtest]; (repeat' split) <;> first | (simp; done) | simp_all

theorem execExtest_mem (t : Nat) (ext : Bool) (tap : Fin 5) (pins drive : Nat) (s : State) (h : MemOk s) :
    EndsOk (execExtest t ext tap pins drive s) := by
  simp only [execExtest]; (repeat' split) <;> simp (maxDischargeDepth := 40) (contextual := true) [h.1, h.2.1, h.2.2]

@[simp] theorem acceptFrame_kept (c lot f : Nat) (p : List Nat) (s : State) :
    (acceptFrame c lot f p s).pending = s.pending ∧ (acceptFrame c lot f p s).now = s.now ∧
    (acceptFrame c lot f p s).hbm = s.hbm ∧ (acceptFrame c lot f p s).cellar = s.cellar ∧
    (acceptFrame c lot f p s).hostMem = s.hostMem := by
  simp only [acceptFrame]; (repeat' split) <;> first | (simp; done) | simp_all

@[simp] theorem judgeHeader_kept (c : Nat) (s : State) :
    (judgeHeader c s).pending = s.pending ∧ (judgeHeader c s).now = s.now := by
  simp only [judgeHeader]; (repeat' split) <;> first | (simp; done) | simp_all

@[simp] theorem judgeHeader_mem (c : Nat) (s : State) :
    (Memory.wf s.hbm = true → Memory.wf (judgeHeader c s).hbm = true) ∧
    (Memory.wf s.cellar = true → Memory.wf (judgeHeader c s).cellar = true) ∧
    (Memory.wf s.hostMem = true → Memory.wf (judgeHeader c s).hostMem = true) := by
  refine ⟨fun h => ?_, fun h => ?_, fun h => ?_⟩ <;>
    (simp only [judgeHeader]; (repeat' split) <;> simp (maxDischargeDepth := 40) (contextual := true) [h])

@[simp] theorem feedWord_kept (c w : Nat) (s : State) :
    (feedWord c w s).pending = s.pending ∧ (feedWord c w s).now = s.now := by
  simp only [feedWord]; (repeat' split) <;> first | (simp; done) | simp_all

@[simp] theorem feedWord_mem (c w : Nat) (s : State) :
    (Memory.wf s.hbm = true → Memory.wf (feedWord c w s).hbm = true) ∧
    (Memory.wf s.cellar = true → Memory.wf (feedWord c w s).cellar = true) ∧
    (Memory.wf s.hostMem = true → Memory.wf (feedWord c w s).hostMem = true) := by
  refine ⟨fun h => ?_, fun h => ?_, fun h => ?_⟩ <;>
    (simp only [feedWord]; (repeat' split) <;> simp (maxDischargeDepth := 40) (contextual := true) [h])

@[simp] theorem beginSection_kept (c : Nat) (external : Bool) (lot : Nat) (s : State) :
    (beginSection c external lot s).pending = s.pending ∧ (beginSection c external lot s).now = s.now ∧
    (beginSection c external lot s).hbm = s.hbm ∧ (beginSection c external lot s).cellar = s.cellar ∧
    (beginSection c external lot s).hostMem = s.hostMem := by
  simp only [beginSection]; (repeat' split) <;> first | (simp; done) | simp_all

@[simp] theorem shiftSlot_kept (c lot : Nat) (s : State) :
    (shiftSlot c lot s).pending = s.pending ∧ (shiftSlot c lot s).now = s.now := by
  simp only [shiftSlot]; (repeat' split) <;> first | (simp; done) | simp_all

@[simp] theorem shiftSlot_mem (c lot : Nat) (s : State) :
    (Memory.wf s.hbm = true → Memory.wf (shiftSlot c lot s).hbm = true) ∧
    (Memory.wf s.cellar = true → Memory.wf (shiftSlot c lot s).cellar = true) ∧
    (Memory.wf s.hostMem = true → Memory.wf (shiftSlot c lot s).hostMem = true) := by
  refine ⟨fun h => ?_, fun h => ?_, fun h => ?_⟩ <;>
    (simp only [shiftSlot]; (repeat' split) <;> simp (maxDischargeDepth := 40) (contextual := true) [h])

@[simp] theorem execCfgLoad_kept (t : Nat) (ext : Bool) (chip : Fin 4) (words : List Nat) (s : State) :
    Keeps (execCfgLoad t ext chip words s) s.pending (max s.now t) := by
  simp only [execCfgLoad]; (repeat' split) <;> first | (simp; done) | simp_all

theorem execCfgLoad_mem (t : Nat) (ext : Bool) (chip : Fin 4) (words : List Nat) (s : State) (h : MemOk s) :
    EndsOk (execCfgLoad t ext chip words s) := by
  simp only [execCfgLoad]; (repeat' split) <;> simp (maxDischargeDepth := 40) (contextual := true) [h.1, h.2.1, h.2.2]

@[simp] theorem execCfgStatus_kept (t : Nat) (ext : Bool) (chip : Fin 4) (s : State) :
    Keeps (execCfgStatus t ext chip s) s.pending (max s.now t) := by
  simp only [execCfgStatus]; (repeat' split) <;> first | (simp; done) | simp_all

theorem execCfgStatus_mem (t : Nat) (ext : Bool) (chip : Fin 4) (s : State) (h : MemOk s) :
    EndsOk (execCfgStatus t ext chip s) := by
  simp only [execCfgStatus]; (repeat' split) <;> simp (maxDischargeDepth := 40) (contextual := true) [h.1, h.2.1, h.2.2]

@[simp] theorem execCfgReadback_kept (t : Nat) (ext : Bool) (chip : Fin 4) (select : Nat) (s : State) :
    Keeps (execCfgReadback t ext chip select s) s.pending (max s.now t) := by
  simp only [execCfgReadback]; (repeat' split) <;> first | (simp; done) | simp_all

theorem execCfgReadback_mem (t : Nat) (ext : Bool) (chip : Fin 4) (select : Nat) (s : State) (h : MemOk s) :
    EndsOk (execCfgReadback t ext chip select s) := by
  simp only [execCfgReadback]; (repeat' split) <;> simp (maxDischargeDepth := 40) (contextual := true) [h.1, h.2.1, h.2.2]

@[simp] theorem sectionPasses_kept (c lot : Nat) (s : State) :
    (sectionPasses c lot s).pending = s.pending ∧ (sectionPasses c lot s).now = s.now ∧
    (sectionPasses c lot s).hbm = s.hbm ∧ (sectionPasses c lot s).cellar = s.cellar ∧
    (sectionPasses c lot s).hostMem = s.hostMem := by
  simp only [sectionPasses]; (repeat' split) <;> first | (simp; done) | simp_all

@[simp] theorem execSectionVerifyComplete_kept (t : Nat) (chip : Fin 4) (s : State) :
    Keeps (execSectionVerifyComplete t chip s) s.pending (max s.now t) := by
  simp only [execSectionVerifyComplete]; (repeat' split) <;> first | (simp; done) | simp_all

theorem execSectionVerifyComplete_mem (t : Nat) (chip : Fin 4) (s : State) (h : MemOk s) :
    EndsOk (execSectionVerifyComplete t chip s) := by
  simp only [execSectionVerifyComplete]; (repeat' split) <;> simp (maxDischargeDepth := 40) (contextual := true) [h.1, h.2.1, h.2.2]

@[simp] theorem execFullLoadComplete_kept (t : Nat) (s : State) :
    Keeps (execFullLoadComplete t s) s.pending (max s.now t) := by
  simp only [execFullLoadComplete]; (repeat' split) <;> first | (simp; done) | simp_all

theorem execFullLoadComplete_mem (t : Nat) (s : State) (h : MemOk s) :
    EndsOk (execFullLoadComplete t s) := by
  simp only [execFullLoadComplete]; (repeat' split) <;> simp (maxDischargeDepth := 40) (contextual := true) [h.1, h.2.1, h.2.2]

@[simp] theorem execDeferredLotCommand_kept (t : Nat) (s : State) :
    Keeps (execDeferredLotCommand t s) s.pending (max s.now t) := by
  simp only [execDeferredLotCommand]; (repeat' split) <;> first | (simp; done) | simp_all

theorem execDeferredLotCommand_mem (t : Nat) (s : State) (h : MemOk s) :
    EndsOk (execDeferredLotCommand t s) := by
  simp only [execDeferredLotCommand]; (repeat' split) <;> simp (maxDischargeDepth := 40) (contextual := true) [h.1, h.2.1, h.2.2]

@[simp] theorem becomeSuspect_kept (c : Nat) (s : State) :
    (becomeSuspect c s).pending = s.pending ∧ (becomeSuspect c s).now = s.now := by
  simp only [becomeSuspect]; (repeat' split) <;> first | (simp; done) | simp_all

@[simp] theorem becomeSuspect_mem (c : Nat) (s : State) :
    (Memory.wf s.hbm = true → Memory.wf (becomeSuspect c s).hbm = true) ∧
    (Memory.wf s.cellar = true → Memory.wf (becomeSuspect c s).cellar = true) ∧
    (Memory.wf s.hostMem = true → Memory.wf (becomeSuspect c s).hostMem = true) := by
  refine ⟨fun h => ?_, fun h => ?_, fun h => ?_⟩ <;>
    (simp only [becomeSuspect]; (repeat' split) <;> simp (maxDischargeDepth := 40) (contextual := true) [h])

@[simp] theorem execScrubPassStart_kept (t : Nat) (chip : Fin 4) (sentinelOk : Bool) (s : State) :
    Keeps (execScrubPassStart t chip sentinelOk s) s.pending (max s.now t) := by
  simp only [execScrubPassStart]; (repeat' split) <;> first | (simp; done) | simp_all

theorem execScrubPassStart_mem (t : Nat) (chip : Fin 4) (sentinelOk : Bool) (s : State) (h : MemOk s) :
    EndsOk (execScrubPassStart t chip sentinelOk s) := by
  simp only [execScrubPassStart]; (repeat' split) <;> simp (maxDischargeDepth := 40) (contextual := true) [h.1, h.2.1, h.2.2]

@[simp] theorem flipBit_kept (l f i : Nat) (s : State) :
    (flipBit l f i s).pending = s.pending ∧ (flipBit l f i s).now = s.now ∧ (flipBit l f i s).hbm = s.hbm ∧
    (flipBit l f i s).cellar = s.cellar ∧ (flipBit l f i s).hostMem = s.hostMem := by
  simp only [flipBit]; (repeat' split) <;> first | (simp; done) | simp_all

@[simp] theorem scrubFence_kept (l cause : Nat) (s : State) :
    (scrubFence l cause s).pending = s.pending ∧ (scrubFence l cause s).now = s.now := by
  simp only [scrubFence]; (repeat' split) <;> first | (simp; done) | simp_all

@[simp] theorem scrubFence_mem (l cause : Nat) (s : State) :
    (Memory.wf s.hbm = true → Memory.wf (scrubFence l cause s).hbm = true) ∧
    (Memory.wf s.cellar = true → Memory.wf (scrubFence l cause s).cellar = true) ∧
    (Memory.wf s.hostMem = true → Memory.wf (scrubFence l cause s).hostMem = true) := by
  refine ⟨fun h => ?_, fun h => ?_, fun h => ?_⟩ <;>
    (simp only [scrubFence]; (repeat' split) <;> simp (maxDischargeDepth := 40) (contextual := true) [h])

@[simp] theorem scrubUncorrectable_kept (l : Nat) (s : State) :
    (scrubUncorrectable l s).pending = s.pending ∧ (scrubUncorrectable l s).now = s.now := by
  simp only [scrubUncorrectable]; (repeat' split) <;> first | (simp; done) | simp_all

@[simp] theorem scrubUncorrectable_mem (l : Nat) (s : State) :
    (Memory.wf s.hbm = true → Memory.wf (scrubUncorrectable l s).hbm = true) ∧
    (Memory.wf s.cellar = true → Memory.wf (scrubUncorrectable l s).cellar = true) ∧
    (Memory.wf s.hostMem = true → Memory.wf (scrubUncorrectable l s).hostMem = true) := by
  refine ⟨fun h => ?_, fun h => ?_, fun h => ?_⟩ <;>
    (simp only [scrubUncorrectable]; (repeat' split) <;> simp (maxDischargeDepth := 40) (contextual := true) [h])

@[simp] theorem scrubMismatch_kept (l f : Nat) (s : State) :
    (scrubMismatch l f s).pending = s.pending ∧ (scrubMismatch l f s).now = s.now := by
  simp only [scrubMismatch]; (repeat' split) <;> first | (simp; done) | simp_all

@[simp] theorem scrubMismatch_mem (l f : Nat) (s : State) :
    (Memory.wf s.hbm = true → Memory.wf (scrubMismatch l f s).hbm = true) ∧
    (Memory.wf s.cellar = true → Memory.wf (scrubMismatch l f s).cellar = true) ∧
    (Memory.wf s.hostMem = true → Memory.wf (scrubMismatch l f s).hostMem = true) := by
  refine ⟨fun h => ?_, fun h => ?_, fun h => ?_⟩ <;>
    (simp only [scrubMismatch]; (repeat' split) <;> simp (maxDischargeDepth := 40) (contextual := true) [h])

@[simp] theorem execScrubFrameRead_kept (t : Nat) (chip : Fin 4) (flips : List Nat) (s : State) :
    Keeps (execScrubFrameRead t chip flips s) s.pending (max s.now t) := by
  simp only [execScrubFrameRead]; (repeat' split) <;> first | (simp; done) | simp_all

theorem execScrubFrameRead_mem (t : Nat) (chip : Fin 4) (flips : List Nat) (s : State) (h : MemOk s) :
    EndsOk (execScrubFrameRead t chip flips s) := by
  simp only [execScrubFrameRead]; (repeat' split) <;> simp (maxDischargeDepth := 40) (contextual := true) [h.1, h.2.1, h.2.2]

@[simp] theorem execVoteRestore_kept (t : Nat) (chip : Fin 4) (upset : ScrubUpset) (s : State) :
    Keeps (execVoteRestore t chip upset s) s.pending (max s.now t) := by
  simp only [execVoteRestore]; (repeat' split) <;> first | (simp; done) | simp_all

theorem execVoteRestore_mem (t : Nat) (chip : Fin 4) (upset : ScrubUpset) (s : State) (h : MemOk s) :
    EndsOk (execVoteRestore t chip upset s) := by
  simp only [execVoteRestore]; (repeat' split) <;> simp (maxDischargeDepth := 40) (contextual := true) [h.1, h.2.1, h.2.2]

@[simp] theorem countCorrected_kept (cellar : Bool) (unit : Nat) (s : State) :
    (countCorrected cellar unit s).pending = s.pending ∧ (countCorrected cellar unit s).now = s.now ∧
    (countCorrected cellar unit s).hbm = s.hbm ∧ (countCorrected cellar unit s).cellar = s.cellar ∧
    (countCorrected cellar unit s).hostMem = s.hostMem := by
  simp only [countCorrected]; (repeat' split) <;> first | (simp; done) | simp_all

@[simp] theorem uncorrectable_kept (cellar : Bool) (w unit : Nat) (s : State) :
    (uncorrectable cellar w unit s).pending = s.pending ∧ (uncorrectable cellar w unit s).now = s.now ∧
    (uncorrectable cellar w unit s).hbm = s.hbm ∧ (uncorrectable cellar w unit s).cellar = s.cellar ∧
    (uncorrectable cellar w unit s).hostMem = s.hostMem := by
  simp only [uncorrectable]; (repeat' split) <;> first | (simp; done) | simp_all

@[simp] theorem dropAccesses_kept (u : PeerUser) (s : State) :
    (dropAccesses u s).pending = s.pending ∧ (dropAccesses u s).now = s.now ∧ (dropAccesses u s).hbm = s.hbm ∧
    (dropAccesses u s).cellar = s.cellar ∧ (dropAccesses u s).hostMem = s.hostMem := by
  simp only [dropAccesses]; (repeat' split) <;> first | (simp; done) | simp_all

@[simp] theorem poisonedReader_kept (cellar : Bool) (addr : Nat) (r : Reader) (s : State) :
    (poisonedReader cellar addr r s).pending = s.pending ∧ (poisonedReader cellar addr r s).now = s.now := by
  simp only [poisonedReader]; (repeat' split) <;> first | (simp; done) | simp_all

@[simp] theorem poisonedReader_mem (cellar : Bool) (addr : Nat) (r : Reader) (s : State) :
    (Memory.wf s.hbm = true → Memory.wf (poisonedReader cellar addr r s).hbm = true) ∧
    (Memory.wf s.cellar = true → Memory.wf (poisonedReader cellar addr r s).cellar = true) ∧
    (Memory.wf s.hostMem = true → Memory.wf (poisonedReader cellar addr r s).hostMem = true) := by
  refine ⟨fun h => ?_, fun h => ?_, fun h => ?_⟩ <;>
    (simp only [poisonedReader]; (repeat' split) <;> simp (maxDischargeDepth := 40) (contextual := true) [h])

@[simp] theorem execMemoryReadError_kept (t : Nat) (cellar : Bool) (addr : Nat) (uncorr : Bool) (reader : Reader) (s : State) :
    Keeps (execMemoryReadError t cellar addr uncorr reader s) s.pending (max s.now t) := by
  simp only [execMemoryReadError]; (repeat' split) <;> first | (simp; done) | simp_all

theorem execMemoryReadError_mem (t : Nat) (cellar : Bool) (addr : Nat) (uncorr : Bool) (reader : Reader) (s : State) (h : MemOk s) :
    EndsOk (execMemoryReadError t cellar addr uncorr reader s) := by
  simp only [execMemoryReadError]; (repeat' split) <;> simp (maxDischargeDepth := 40) (contextual := true) [h.1, h.2.1, h.2.2]

@[simp] theorem execMemoryPatrol_kept (t : Nat) (cellar : Bool) (errors : Nat) (s : State) :
    Keeps (execMemoryPatrol t cellar errors s) s.pending (max s.now t) := by
  simp only [execMemoryPatrol]; (repeat' split) <;> first | (simp; done) | simp_all

theorem execMemoryPatrol_mem (t : Nat) (cellar : Bool) (errors : Nat) (s : State) (h : MemOk s) :
    EndsOk (execMemoryPatrol t cellar errors s) := by
  simp only [execMemoryPatrol]; (repeat' split) <;> simp (maxDischargeDepth := 40) (contextual := true) [h.1, h.2.1, h.2.2]

@[simp] theorem fenceMemory_kept (cellar : Bool) (u cause : Nat) (s : State) :
    (fenceMemory cellar u cause s).pending = s.pending ∧ (fenceMemory cellar u cause s).now = s.now := by
  simp only [fenceMemory]; (repeat' split) <;> first | (simp; done) | simp_all

@[simp] theorem fenceMemory_mem (cellar : Bool) (u cause : Nat) (s : State) :
    (Memory.wf s.hbm = true → Memory.wf (fenceMemory cellar u cause s).hbm = true) ∧
    (Memory.wf s.cellar = true → Memory.wf (fenceMemory cellar u cause s).cellar = true) ∧
    (Memory.wf s.hostMem = true → Memory.wf (fenceMemory cellar u cause s).hostMem = true) := by
  refine ⟨fun h => ?_, fun h => ?_, fun h => ?_⟩ <;>
    (simp only [fenceMemory]; (repeat' split) <;> simp (maxDischargeDepth := 40) (contextual := true) [h])

@[simp] theorem execMemChannelFail_kept (t : Nat) (cellar : Bool) (unit : Nat) (channel : Bool) (s : State) :
    Keeps (execMemChannelFail t cellar unit channel s) s.pending (max s.now t) := by
  simp only [execMemChannelFail]; (repeat' split) <;> first | (simp; done) | simp_all

theorem execMemChannelFail_mem (t : Nat) (cellar : Bool) (unit : Nat) (channel : Bool) (s : State) (h : MemOk s) :
    EndsOk (execMemChannelFail t cellar unit channel s) := by
  simp only [execMemChannelFail]; (repeat' split) <;> simp (maxDischargeDepth := 40) (contextual := true) [h.1, h.2.1, h.2.2]

@[simp] theorem grantPages_kept (borrower offset length : Nat) (s : State) :
    (grantPages borrower offset length s).pending = s.pending ∧ (grantPages borrower offset length s).now = s.now ∧
    (grantPages borrower offset length s).hbm = s.hbm ∧ (grantPages borrower offset length s).cellar = s.cellar ∧
    (grantPages borrower offset length s).hostMem = s.hostMem := by
  simp only [grantPages]; (repeat' split) <;> first | (simp; done) | simp_all

@[simp] theorem execPeerAccess_kept (t borrower offset length : Nat) (write : Option (List Byte)) (s : State) :
    Keeps (execPeerAccess t borrower offset length write s) s.pending (max s.now t) := by
  simp only [execPeerAccess]; (repeat' split) <;> first | (simp; done) | simp_all

theorem execPeerAccess_mem (t borrower offset length : Nat) (write : Option (List Byte)) (s : State) (h : MemOk s) :
    EndsOk (execPeerAccess t borrower offset length write s) := by
  simp only [execPeerAccess]; (repeat' split) <;> simp (maxDischargeDepth := 40) (contextual := true) [h.1, h.2.1, h.2.2]

@[simp] theorem moverAnswer_kept (n c status : Nat) (a : PeerAccess) (data : List Byte) (s : State) :
    (moverAnswer n c status a data s).pending = s.pending ∧ (moverAnswer n c status a data s).now = s.now := by
  simp only [moverAnswer]; (repeat' split) <;> first | (simp; done) | simp_all

@[simp] theorem moverAnswer_mem (n c status : Nat) (a : PeerAccess) (data : List Byte) (s : State) :
    (Memory.wf s.hbm = true → Memory.wf (moverAnswer n c status a data s).hbm = true) ∧
    (Memory.wf s.cellar = true → Memory.wf (moverAnswer n c status a data s).cellar = true) ∧
    (Memory.wf s.hostMem = true → Memory.wf (moverAnswer n c status a data s).hostMem = true) := by
  refine ⟨fun h => ?_, fun h => ?_, fun h => ?_⟩ <;>
    (simp only [moverAnswer]; (repeat' split) <;> simp (maxDischargeDepth := 40) (contextual := true) [h])

@[simp] theorem copyAnswer_kept (q index status : Nat) (a : PeerAccess) (data : List Byte) (s : State) :
    (copyAnswer q index status a data s).pending = s.pending ∧ (copyAnswer q index status a data s).now = s.now := by
  simp only [copyAnswer]; (repeat' split) <;> first | (simp; done) | simp_all

@[simp] theorem copyAnswer_mem (q index status : Nat) (a : PeerAccess) (data : List Byte) (s : State) :
    (Memory.wf s.hbm = true → Memory.wf (copyAnswer q index status a data s).hbm = true) ∧
    (Memory.wf s.cellar = true → Memory.wf (copyAnswer q index status a data s).cellar = true) ∧
    (Memory.wf s.hostMem = true → Memory.wf (copyAnswer q index status a data s).hostMem = true) := by
  refine ⟨fun h => ?_, fun h => ?_, fun h => ?_⟩ <;>
    (simp only [copyAnswer]; (repeat' split) <;> simp (maxDischargeDepth := 40) (contextual := true) [h])

@[simp] theorem execPeerResponse_kept (t access status : Nat) (data : List Byte) (s : State) :
    Keeps (execPeerResponse t access status data s) s.pending (max s.now t) := by
  simp only [execPeerResponse]; (repeat' split) <;> first | (simp; done) | simp_all

theorem execPeerResponse_mem (t access status : Nat) (data : List Byte) (s : State) (h : MemOk s) :
    EndsOk (execPeerResponse t access status data s) := by
  simp only [execPeerResponse]; (repeat' split) <;> simp (maxDischargeDepth := 40) (contextual := true) [h.1, h.2.1, h.2.2]

@[simp] theorem modSession_kept (mailbox : Bool) (n : Nat) (f : Session → Session) (s : State) :
    (modSession mailbox n f s).pending = s.pending ∧ (modSession mailbox n f s).now = s.now ∧
    (modSession mailbox n f s).hbm = s.hbm ∧ (modSession mailbox n f s).cellar = s.cellar ∧
    (modSession mailbox n f s).hostMem = s.hostMem := by
  simp only [modSession]; (repeat' split) <;> first | (simp; done) | simp_all

@[simp] theorem deliver_kept (mailbox : Bool) (n client : Nat) (reply : List Byte) (s : State) :
    (deliver mailbox n client reply s).pending = s.pending ∧ (deliver mailbox n client reply s).now = s.now ∧
    (deliver mailbox n client reply s).hbm = s.hbm ∧ (deliver mailbox n client reply s).cellar = s.cellar ∧
    (deliver mailbox n client reply s).hostMem = s.hostMem := by
  simp only [deliver]; (repeat' split) <;> first | (simp; done) | simp_all

@[simp] theorem openOutcome_kept (mailbox : Bool) (n txn : Nat) (changing : Bool) (s : State) :
    (openOutcome mailbox n txn changing s).pending = s.pending ∧ (openOutcome mailbox n txn changing s).now = s.now := by
  simp only [openOutcome]; (repeat' split) <;> first | (simp; done) | simp_all

@[simp] theorem openOutcome_mem (mailbox : Bool) (n txn : Nat) (changing : Bool) (s : State) :
    (Memory.wf s.hbm = true → Memory.wf (openOutcome mailbox n txn changing s).hbm = true) ∧
    (Memory.wf s.cellar = true → Memory.wf (openOutcome mailbox n txn changing s).cellar = true) ∧
    (Memory.wf s.hostMem = true → Memory.wf (openOutcome mailbox n txn changing s).hostMem = true) := by
  refine ⟨fun h => ?_, fun h => ?_, fun h => ?_⟩ <;>
    (simp only [openOutcome]; (repeat' split) <;> simp (maxDischargeDepth := 40) (contextual := true) [h])

@[simp] theorem closeOutcome_kept (mailbox : Bool) (n txn : Nat) (reply : List Byte) (s : State) :
    (closeOutcome mailbox n txn reply s).pending = s.pending ∧ (closeOutcome mailbox n txn reply s).now = s.now := by
  simp only [closeOutcome]; (repeat' split) <;> first | (simp; done) | simp_all

@[simp] theorem closeOutcome_mem (mailbox : Bool) (n txn : Nat) (reply : List Byte) (s : State) :
    (Memory.wf s.hbm = true → Memory.wf (closeOutcome mailbox n txn reply s).hbm = true) ∧
    (Memory.wf s.cellar = true → Memory.wf (closeOutcome mailbox n txn reply s).cellar = true) ∧
    (Memory.wf s.hostMem = true → Memory.wf (closeOutcome mailbox n txn reply s).hostMem = true) := by
  refine ⟨fun h => ?_, fun h => ?_, fun h => ?_⟩ <;>
    (simp only [closeOutcome]; (repeat' split) <;> simp (maxDischargeDepth := 40) (contextual := true) [h])

@[simp] theorem answerCommit_kept (g : Staging) (txn : Nat) (reply : List Byte) (s : State) :
    (answerCommit g txn reply s).pending = s.pending ∧ (answerCommit g txn reply s).now = s.now := by
  simp only [answerCommit]; (repeat' split) <;> first | (simp; done) | simp_all

@[simp] theorem answerCommit_mem (g : Staging) (txn : Nat) (reply : List Byte) (s : State) :
    (Memory.wf s.hbm = true → Memory.wf (answerCommit g txn reply s).hbm = true) ∧
    (Memory.wf s.cellar = true → Memory.wf (answerCommit g txn reply s).cellar = true) ∧
    (Memory.wf s.hostMem = true → Memory.wf (answerCommit g txn reply s).hostMem = true) := by
  refine ⟨fun h => ?_, fun h => ?_, fun h => ?_⟩ <;>
    (simp only [answerCommit]; (repeat' split) <;> simp (maxDischargeDepth := 40) (contextual := true) [h])

@[simp] theorem cutCommit_kept (s : State) :
    (cutCommit s).pending = s.pending ∧ (cutCommit s).now = s.now := by
  simp only [cutCommit]; (repeat' split) <;> first | (simp; done) | simp_all

@[simp] theorem cutCommit_mem (s : State) :
    (Memory.wf s.hbm = true → Memory.wf (cutCommit s).hbm = true) ∧
    (Memory.wf s.cellar = true → Memory.wf (cutCommit s).cellar = true) ∧
    (Memory.wf s.hostMem = true → Memory.wf (cutCommit s).hostMem = true) := by
  refine ⟨fun h => ?_, fun h => ?_, fun h => ?_⟩ <;>
    (simp only [cutCommit]; (repeat' split) <;> simp (maxDischargeDepth := 40) (contextual := true) [h])

@[simp] theorem stopIssue_kept (s : State) :
    (stopIssue s).pending = s.pending ∧ (stopIssue s).now = s.now ∧ (stopIssue s).hbm = s.hbm ∧
    (stopIssue s).cellar = s.cellar ∧ (stopIssue s).hostMem = s.hostMem := by
  simp only [stopIssue]; (repeat' split) <;> first | (simp; done) | simp_all

@[simp] theorem abandonSweep_kept (cause : Nat) (s : State) :
    (abandonSweep cause s).pending = s.pending ∧ (abandonSweep cause s).now = s.now := by
  simp only [abandonSweep]; (repeat' split) <;> first | (simp; done) | simp_all

@[simp] theorem abandonSweep_mem (cause : Nat) (s : State) :
    (Memory.wf s.hbm = true → Memory.wf (abandonSweep cause s).hbm = true) ∧
    (Memory.wf s.cellar = true → Memory.wf (abandonSweep cause s).cellar = true) ∧
    (Memory.wf s.hostMem = true → Memory.wf (abandonSweep cause s).hostMem = true) := by
  refine ⟨fun h => ?_, fun h => ?_, fun h => ?_⟩ <;>
    (simp only [abandonSweep]; (repeat' split) <;> simp (maxDischargeDepth := 40) (contextual := true) [h])

@[simp] theorem disarmInjectors_kept (s : State) :
    (disarmInjectors s).pending = s.pending ∧ (disarmInjectors s).now = s.now ∧ (disarmInjectors s).hbm = s.hbm ∧
    (disarmInjectors s).cellar = s.cellar ∧ (disarmInjectors s).hostMem = s.hostMem := by
  simp only [disarmInjectors]; (repeat' split) <;> first | (simp; done) | simp_all

@[simp] theorem packageReset_kept (s : State) :
    (packageReset s).pending = s.pending ∧ (packageReset s).now = s.now ∧ (packageReset s).cellar = s.cellar ∧
    (packageReset s).hostMem = s.hostMem := by
  simp only [packageReset]; (repeat' split) <;> first | (simp; done) | simp_all

@[simp] theorem packageReset_mem (s : State) :
    (Memory.wf s.hbm = true → Memory.wf (packageReset s).hbm = true) := by
  intro h; simp only [packageReset]; (repeat' split) <;> simp (maxDischargeDepth := 40) (contextual := true) [h]

@[simp] theorem mainPowerLost_kept (s : State) :
    (mainPowerLost s).pending = s.pending ∧ (mainPowerLost s).now = s.now ∧ (mainPowerLost s).hostMem = s.hostMem := by
  simp only [mainPowerLost]; (repeat' split) <;> first | (simp; done) | simp_all

@[simp] theorem mainPowerLost_mem (s : State) :
    (Memory.wf s.hbm = true → Memory.wf (mainPowerLost s).hbm = true) ∧
    (Memory.wf s.cellar = true → Memory.wf (mainPowerLost s).cellar = true) := by
  refine ⟨fun h => ?_, fun h => ?_⟩ <;>
    (simp only [mainPowerLost]; (repeat' split) <;> simp (maxDischargeDepth := 40) (contextual := true) [h])

@[simp] theorem openSwitch_kept (s : State) :
    (openSwitch s).pending = s.pending ∧ (openSwitch s).now = s.now ∧ (openSwitch s).hostMem = s.hostMem := by
  simp only [openSwitch]; (repeat' split) <;> first | (simp; done) | simp_all

@[simp] theorem openSwitch_mem (s : State) :
    (Memory.wf s.hbm = true → Memory.wf (openSwitch s).hbm = true) ∧
    (Memory.wf s.cellar = true → Memory.wf (openSwitch s).cellar = true) := by
  refine ⟨fun h => ?_, fun h => ?_⟩ <;>
    (simp only [openSwitch]; (repeat' split) <;> simp (maxDischargeDepth := 40) (contextual := true) [h])

@[simp] theorem surpriseNotice_kept (cause : Nat) (s : State) :
    (surpriseNotice cause s).pending = s.pending ∧ (surpriseNotice cause s).now = s.now ∧
    (surpriseNotice cause s).hbm = s.hbm ∧ (surpriseNotice cause s).cellar = s.cellar ∧
    (surpriseNotice cause s).hostMem = s.hostMem := by
  simp only [surpriseNotice]; (repeat' split) <;> first | (simp; done) | simp_all

@[simp] theorem assertReset_kept (s : State) :
    (assertReset s).pending = s.pending ∧ (assertReset s).now = s.now ∧ (assertReset s).cellar = s.cellar ∧
    (assertReset s).hostMem = s.hostMem := by
  simp only [assertReset]; (repeat' split) <;> first | (simp; done) | simp_all

@[simp] theorem assertReset_mem (s : State) :
    (Memory.wf s.hbm = true → Memory.wf (assertReset s).hbm = true) := by
  intro h; simp only [assertReset]; (repeat' split) <;> simp (maxDischargeDepth := 40) (contextual := true) [h]

@[simp] theorem beginFullReset_kept (s : State) :
    (beginFullReset s).pending = s.pending ∧ (beginFullReset s).now = s.now := by
  simp only [beginFullReset]; (repeat' split) <;> first | (simp; done) | simp_all

@[simp] theorem beginFullReset_mem (s : State) :
    (Memory.wf s.hbm = true → Memory.wf (beginFullReset s).hbm = true) ∧
    (Memory.wf s.cellar = true → Memory.wf (beginFullReset s).cellar = true) ∧
    (Memory.wf s.hostMem = true → Memory.wf (beginFullReset s).hostMem = true) := by
  refine ⟨fun h => ?_, fun h => ?_, fun h => ?_⟩ <;>
    (simp only [beginFullReset]; (repeat' split) <;> simp (maxDischargeDepth := 40) (contextual := true) [h])

@[simp] theorem beginShutdown_kept (s : State) :
    (beginShutdown s).pending = s.pending ∧ (beginShutdown s).now = s.now ∧ (beginShutdown s).hbm = s.hbm ∧
    (beginShutdown s).cellar = s.cellar ∧ (beginShutdown s).hostMem = s.hostMem := by
  simp only [beginShutdown]; (repeat' split) <;> first | (simp; done) | simp_all

@[simp] theorem disableAllQueues_kept (s : State) :
    (disableAllQueues s).pending = s.pending ∧ (disableAllQueues s).now = s.now ∧
    (disableAllQueues s).cellar = s.cellar := by
  simp only [disableAllQueues]; (repeat' split) <;> first | (simp; done) | simp_all

@[simp] theorem disableAllQueues_mem (s : State) :
    (Memory.wf s.hbm = true → Memory.wf (disableAllQueues s).hbm = true) ∧
    (Memory.wf s.hostMem = true → Memory.wf (disableAllQueues s).hostMem = true) := by
  refine ⟨fun h => ?_, fun h => ?_⟩ <;>
    (simp only [disableAllQueues]; (repeat' split) <;> simp (maxDischargeDepth := 40) (contextual := true) [h])

@[simp] theorem enterLeft_kept (sweep : Bool) (s : State) :
    (enterLeft sweep s).pending = s.pending ∧ (enterLeft sweep s).now = s.now ∧ (enterLeft sweep s).cellar = s.cellar := by
  simp only [enterLeft]; (repeat' split) <;> first | (simp; done) | simp_all

@[simp] theorem enterLeft_mem (sweep : Bool) (s : State) :
    (Memory.wf s.hbm = true → Memory.wf (enterLeft sweep s).hbm = true) ∧
    (Memory.wf s.hostMem = true → Memory.wf (enterLeft sweep s).hostMem = true) := by
  refine ⟨fun h => ?_, fun h => ?_⟩ <;>
    (simp only [enterLeft]; (repeat' split) <;> simp (maxDischargeDepth := 40) (contextual := true) [h])

@[simp] theorem fatalRecord_kept (cause ut unit : Nat) (s : State) :
    (fatalRecord cause ut unit s).pending = s.pending ∧ (fatalRecord cause ut unit s).now = s.now := by
  simp only [fatalRecord]; (repeat' split) <;> first | (simp; done) | simp_all

@[simp] theorem fatalRecord_mem (cause ut unit : Nat) (s : State) :
    (Memory.wf s.hbm = true → Memory.wf (fatalRecord cause ut unit s).hbm = true) ∧
    (Memory.wf s.cellar = true → Memory.wf (fatalRecord cause ut unit s).cellar = true) ∧
    (Memory.wf s.hostMem = true → Memory.wf (fatalRecord cause ut unit s).hostMem = true) := by
  refine ⟨fun h => ?_, fun h => ?_, fun h => ?_⟩ <;>
    (simp only [fatalRecord]; (repeat' split) <;> simp (maxDischargeDepth := 40) (contextual := true) [h])

@[simp] theorem enterPowered_kept (held : Bool) (s : State) :
    (enterPowered held s).pending = s.pending ∧ (enterPowered held s).now = s.now ∧
    (enterPowered held s).hbm = s.hbm ∧ (enterPowered held s).cellar = s.cellar ∧
    (enterPowered held s).hostMem = s.hostMem := by
  simp only [enterPowered]; (repeat' split) <;> first | (simp; done) | simp_all

@[simp] theorem armSlot_kept (stage : SweepStage) (s : State) :
    (armSlot stage s).pending = s.pending ∧ (armSlot stage s).now = s.now ∧ (armSlot stage s).hbm = s.hbm ∧
    (armSlot stage s).cellar = s.cellar ∧ (armSlot stage s).hostMem = s.hostMem := by
  simp only [armSlot]; (repeat' split) <;> first | (simp; done) | simp_all

@[simp] theorem sweepReady_kept (s : State) :
    (sweepReady s).pending = s.pending ∧ (sweepReady s).now = s.now ∧ (sweepReady s).hbm = s.hbm ∧
    (sweepReady s).cellar = s.cellar ∧ (sweepReady s).hostMem = s.hostMem := by
  simp only [sweepReady]; (repeat' split) <;> first | (simp; done) | simp_all

@[simp] theorem clearPackage_kept (s : State) :
    (clearPackage s).pending = s.pending ∧ (clearPackage s).now = s.now ∧ (clearPackage s).hbm = s.hbm ∧
    (clearPackage s).cellar = s.cellar ∧ (clearPackage s).hostMem = s.hostMem := by
  simp only [clearPackage]; (repeat' split) <;> first | (simp; done) | simp_all

@[simp] theorem sweepBody_kept (s : State) :
    (sweepBody s).pending = s.pending ∧ (sweepBody s).now = s.now ∧ (sweepBody s).hbm = s.hbm ∧
    (sweepBody s).cellar = s.cellar ∧ (sweepBody s).hostMem = s.hostMem := by
  simp only [sweepBody]; (repeat' split) <;> first | (simp; done) | simp_all

@[simp] theorem sweepBoundary_kept (s : State) :
    (sweepBoundary s).pending = s.pending ∧ (sweepBoundary s).now = s.now ∧ (sweepBoundary s).hbm = s.hbm ∧
    (sweepBoundary s).cellar = s.cellar ∧ (sweepBoundary s).hostMem = s.hostMem := by
  simp only [sweepBoundary]; (repeat' split) <;> first | (simp; done) | simp_all

@[simp] theorem execSweepSlot_kept (t : Nat) (east west : Int) (s : State) :
    Keeps (execSweepSlot t east west s) s.pending (max s.now t) := by
  simp only [execSweepSlot]; (repeat' split) <;> first | (simp; done) | simp_all

theorem execSweepSlot_mem (t : Nat) (east west : Int) (s : State) (h : MemOk s) :
    EndsOk (execSweepSlot t east west s) := by
  simp only [execSweepSlot]; (repeat' split) <;> simp (maxDischargeDepth := 40) (contextual := true) [h.1, h.2.1, h.2.2]

@[simp] theorem abandonBody_kept (cause : Nat) (s : State) :
    (abandonBody cause s).pending = s.pending ∧ (abandonBody cause s).now = s.now := by
  simp only [abandonBody]; (repeat' split) <;> first | (simp; done) | simp_all

@[simp] theorem abandonBody_mem (cause : Nat) (s : State) :
    (Memory.wf s.hbm = true → Memory.wf (abandonBody cause s).hbm = true) ∧
    (Memory.wf s.cellar = true → Memory.wf (abandonBody cause s).cellar = true) ∧
    (Memory.wf s.hostMem = true → Memory.wf (abandonBody cause s).hostMem = true) := by
  refine ⟨fun h => ?_, fun h => ?_, fun h => ?_⟩ <;>
    (simp only [abandonBody]; (repeat' split) <;> simp (maxDischargeDepth := 40) (contextual := true) [h])

@[simp] theorem execSweepWindowCheck_kept (t : Nat) (east west : Int) (s : State) :
    Keeps (execSweepWindowCheck t east west s) s.pending (max s.now t) := by
  simp only [execSweepWindowCheck]; (repeat' split) <;> first | (simp; done) | simp_all

theorem execSweepWindowCheck_mem (t : Nat) (east west : Int) (s : State) (h : MemOk s) :
    EndsOk (execSweepWindowCheck t east west s) := by
  simp only [execSweepWindowCheck]; (repeat' split) <;> simp (maxDischargeDepth := 40) (contextual := true) [h.1, h.2.1, h.2.2]

@[simp] theorem execSweepDescent_kept (t : Nat) (s : State) :
    Keeps (execSweepDescent t s) s.pending (max s.now t) := by
  simp only [execSweepDescent]; (repeat' split) <;> first | (simp; done) | simp_all

theorem execSweepDescent_mem (t : Nat) (s : State) (h : MemOk s) :
    EndsOk (execSweepDescent t s) := by
  simp only [execSweepDescent]; (repeat' split) <;> simp (maxDischargeDepth := 40) (contextual := true) [h.1, h.2.1, h.2.2]

@[simp] theorem unitFails_kept (u : Nat × Nat) (s : State) :
    (unitFails u s).pending = s.pending ∧ (unitFails u s).now = s.now := by
  simp only [unitFails]; (repeat' split) <;> first | (simp; done) | simp_all

@[simp] theorem unitFails_mem (u : Nat × Nat) (s : State) :
    (Memory.wf s.hbm = true → Memory.wf (unitFails u s).hbm = true) ∧
    (Memory.wf s.cellar = true → Memory.wf (unitFails u s).cellar = true) ∧
    (Memory.wf s.hostMem = true → Memory.wf (unitFails u s).hostMem = true) := by
  refine ⟨fun h => ?_, fun h => ?_, fun h => ?_⟩ <;>
    (simp only [unitFails]; (repeat' split) <;> simp (maxDischargeDepth := 40) (contextual := true) [h])

@[simp] theorem sweepArrays_kept (s : State) :
    (sweepArrays s).pending = s.pending ∧ (sweepArrays s).now = s.now ∧ (sweepArrays s).hbm = s.hbm ∧
    (sweepArrays s).cellar = s.cellar ∧ (sweepArrays s).hostMem = s.hostMem := by
  simp only [sweepArrays]; (repeat' split) <;> first | (simp; done) | simp_all

@[simp] theorem afterPhase_kept (phase : Nat) (s : State) :
    (afterPhase phase s).pending = s.pending ∧ (afterPhase phase s).now = s.now ∧
    (afterPhase phase s).hostMem = s.hostMem := by
  simp only [afterPhase]; (repeat' split) <;> first | (simp; done) | simp_all

@[simp] theorem afterPhase_mem (phase : Nat) (s : State) :
    (Memory.wf s.hbm = true → Memory.wf (afterPhase phase s).hbm = true) ∧
    (Memory.wf s.cellar = true → Memory.wf (afterPhase phase s).cellar = true) := by
  refine ⟨fun h => ?_, fun h => ?_⟩ <;>
    (simp only [afterPhase]; (repeat' split) <;> simp (maxDischargeDepth := 40) (contextual := true) [h])

@[simp] theorem clearFences_kept (s : State) :
    (clearFences s).pending = s.pending ∧ (clearFences s).now = s.now ∧ (clearFences s).hbm = s.hbm ∧
    (clearFences s).cellar = s.cellar ∧ (clearFences s).hostMem = s.hostMem := by
  simp only [clearFences]; (repeat' split) <;> first | (simp; done) | simp_all

@[simp] theorem storeVerdict_kept (storeOk : Bool) (s : State) :
    (storeVerdict storeOk s).pending = s.pending ∧ (storeVerdict storeOk s).now = s.now := by
  simp only [storeVerdict]; (repeat' split) <;> first | (simp; done) | simp_all

@[simp] theorem storeVerdict_mem (storeOk : Bool) (s : State) :
    (Memory.wf s.hbm = true → Memory.wf (storeVerdict storeOk s).hbm = true) ∧
    (Memory.wf s.cellar = true → Memory.wf (storeVerdict storeOk s).cellar = true) ∧
    (Memory.wf s.hostMem = true → Memory.wf (storeVerdict storeOk s).hostMem = true) := by
  refine ⟨fun h => ?_, fun h => ?_, fun h => ?_⟩ <;>
    (simp only [storeVerdict]; (repeat' split) <;> simp (maxDischargeDepth := 40) (contextual := true) [h])

@[simp] theorem execSweepPhaseComplete_kept (t : Nat) (res margin : TestResults) (storeOk : Bool) (s : State) :
    Keeps (execSweepPhaseComplete t res storeOk s margin) s.pending (max s.now t) := by
  simp only [execSweepPhaseComplete]; (repeat' split) <;> first | (simp; done) | simp_all

theorem execSweepPhaseComplete_mem (t : Nat) (res margin : TestResults) (storeOk : Bool) (s : State) (h : MemOk s) :
    EndsOk (execSweepPhaseComplete t res storeOk s margin) := by
  simp only [execSweepPhaseComplete]; (repeat' split) <;> simp (maxDischargeDepth := 40) (contextual := true) [h.1, h.2.1, h.2.2]

@[simp] theorem execScanEnable_kept (t : Nat) (ext : Bool) (tap : Fin 5) (shift : Nat) (isolated : Bool) (s : State) :
    Keeps (execScanEnable t ext tap shift isolated s) s.pending (max s.now t) := by
  simp only [execScanEnable]; (repeat' split) <;> first | (simp; done) | simp_all

theorem execScanEnable_mem (t : Nat) (ext : Bool) (tap : Fin 5) (shift : Nat) (isolated : Bool) (s : State) (h : MemOk s) :
    EndsOk (execScanEnable t ext tap shift isolated s) := by
  simp only [execScanEnable]; (repeat' split) <;> simp (maxDischargeDepth := 40) (contextual := true) [h.1, h.2.1, h.2.2]

@[simp] theorem execSweepReport_kept (t : Nat) (ext : Bool) (s : State) :
    Keeps (execSweepReport t ext s) s.pending (max s.now t) := by
  simp only [execSweepReport]; (repeat' split) <;> first | (simp; done) | simp_all

theorem execSweepReport_mem (t : Nat) (ext : Bool) (s : State) (h : MemOk s) :
    EndsOk (execSweepReport t ext s) := by
  simp only [execSweepReport]; (repeat' split) <;> simp (maxDischargeDepth := 40) (contextual := true) [h.1, h.2.1, h.2.2]

end Sys2Proof.Machine
end

