-- ==== Sys2Proof/Laws/FramesLinks.lean ====
section
/-! SUPPORT. What each operation leaves as it was: the queue, local time and the memories it does not write; and that
the memories it writes stay canonical.  This file: the collective engine and the ports. -/

namespace Sys2Proof.Machine

@[simp] theorem tellAll_kept (g code : Nat) (c : Collective) (extra : List Byte) (s : State) :
    (tellAll g code c extra s).pending = s.pending ∧ (tellAll g code c extra s).now = s.now ∧
    (tellAll g code c extra s).hbm = s.hbm ∧ (tellAll g code c extra s).cellar = s.cellar ∧
    (tellAll g code c extra s).hostMem = s.hostMem := by
  simp only [tellAll]; (repeat' split) <;> first | (simp; done) | simp_all

@[simp] theorem abortHere_kept (g cseq cause : Nat) (s : State) :
    (abortHere g cseq cause s).pending = s.pending ∧ (abortHere g cseq cause s).now = s.now := by
  simp only [abortHere]; (repeat' split) <;> first | (simp; done) | simp_all

@[simp] theorem abortHere_mem (g cseq cause : Nat) (s : State) :
    (Memory.wf s.hbm = true → Memory.wf (abortHere g cseq cause s).hbm = true) ∧
    (Memory.wf s.cellar = true → Memory.wf (abortHere g cseq cause s).cellar = true) ∧
    (Memory.wf s.hostMem = true → Memory.wf (abortHere g cseq cause s).hostMem = true) := by
  refine ⟨fun h => ?_, fun h => ?_, fun h => ?_⟩ <;>
    (simp only [abortHere]; (repeat' split) <;> simp (maxDischargeDepth := 40) (contextual := true) [h])

@[simp] theorem badCollective_kept (g : Nat) (c : Collective) (s : State) :
    (badCollective g c s).pending = s.pending ∧ (badCollective g c s).now = s.now ∧
    (badCollective g c s).cellar = s.cellar := by
  simp only [badCollective]; (repeat' split) <;> first | (simp; done) | simp_all

@[simp] theorem badCollective_mem (g : Nat) (c : Collective) (s : State) :
    (Memory.wf s.hbm = true → Memory.wf (badCollective g c s).hbm = true) ∧
    (Memory.wf s.hostMem = true → Memory.wf (badCollective g c s).hostMem = true) := by
  refine ⟨fun h => ?_, fun h => ?_⟩ <;>
    (simp only [badCollective]; (repeat' split) <;> simp (maxDischargeDepth := 40) (contextual := true) [h])

@[simp] theorem judgeFetched_kept (q i : Nat) (s : State) :
    (judgeFetched q i s).pending = s.pending ∧ (judgeFetched q i s).now = s.now ∧
    (judgeFetched q i s).cellar = s.cellar := by
  simp only [judgeFetched]; (repeat' split) <;> first | (simp; done) | simp_all

@[simp] theorem judgeFetched_mem (q i : Nat) (s : State) :
    (Memory.wf s.hbm = true → Memory.wf (judgeFetched q i s).hbm = true) ∧
    (Memory.wf s.hostMem = true → Memory.wf (judgeFetched q i s).hostMem = true) := by
  refine ⟨fun h => ?_, fun h => ?_⟩ <;>
    (simp only [judgeFetched]; (repeat' split) <;> simp (maxDischargeDepth := 40) (contextual := true) [h])

@[simp] theorem execDescriptorFetch_kept (t : Nat) (queue : Fin 4096) (s : State) :
    Keeps (execDescriptorFetch t queue s) s.pending (max s.now t) := by
  simp only [execDescriptorFetch]; (repeat' split) <;> first | (simp; done) | simp_all

theorem execDescriptorFetch_mem (t : Nat) (queue : Fin 4096) (s : State) (h : MemOk s) :
    EndsOk (execDescriptorFetch t queue s) := by
  simp only [execDescriptorFetch]; (repeat' split) <;> simp (maxDischargeDepth := 40) (contextual := true) [h.1, h.2.1, h.2.2]

@[simp] theorem writePads_kept (g : Nat) (c : Collective) (s : State) :
    (writePads g c s).pending = s.pending ∧ (writePads g c s).now = s.now ∧ (writePads g c s).cellar = s.cellar ∧
    (writePads g c s).hostMem = s.hostMem := by
  simp only [writePads]; (repeat' split) <;> first | (simp; done) | simp_all

@[simp] theorem writePads_mem (g : Nat) (c : Collective) (s : State) :
    (Memory.wf s.hbm = true → Memory.wf (writePads g c s).hbm = true) := by
  intro h; simp only [writePads]; (repeat' split) <;> simp (maxDischargeDepth := 40) (contextual := true) [h]

@[simp] theorem checkDone_kept (g cseq : Nat) (s : State) :
    (checkDone g cseq s).pending = s.pending ∧ (checkDone g cseq s).now = s.now ∧
    (checkDone g cseq s).cellar = s.cellar := by
  simp only [checkDone]; (repeat' split) <;> first | (simp; done) | simp_all

@[simp] theorem checkDone_mem (g cseq : Nat) (s : State) :
    (Memory.wf s.hbm = true → Memory.wf (checkDone g cseq s).hbm = true) ∧
    (Memory.wf s.hostMem = true → Memory.wf (checkDone g cseq s).hostMem = true) := by
  refine ⟨fun h => ?_, fun h => ?_⟩ <;>
    (simp only [checkDone]; (repeat' split) <;> simp (maxDischargeDepth := 40) (contextual := true) [h])

@[simp] theorem checkLocal_kept (g cseq : Nat) (s : State) :
    (checkLocal g cseq s).pending = s.pending ∧ (checkLocal g cseq s).now = s.now ∧
    (checkLocal g cseq s).cellar = s.cellar := by
  simp only [checkLocal]; (repeat' split) <;> first | (simp; done) | simp_all

@[simp] theorem checkLocal_mem (g cseq : Nat) (s : State) :
    (Memory.wf s.hbm = true → Memory.wf (checkLocal g cseq s).hbm = true) ∧
    (Memory.wf s.hostMem = true → Memory.wf (checkLocal g cseq s).hostMem = true) := by
  refine ⟨fun h => ?_, fun h => ?_⟩ <;>
    (simp only [checkLocal]; (repeat' split) <;> simp (maxDischargeDepth := 40) (contextual := true) [h])

@[simp] theorem sendWindow_kept (g cseq : Nat) (s : State) :
    (sendWindow g cseq s).pending = s.pending ∧ (sendWindow g cseq s).now = s.now ∧
    (sendWindow g cseq s).hbm = s.hbm ∧ (sendWindow g cseq s).cellar = s.cellar ∧
    (sendWindow g cseq s).hostMem = s.hostMem := by
  simp only [sendWindow]; (repeat' split) <;> first | (simp; done) | simp_all

@[simp] theorem adderCheck_kept (g n : Nat) (s : State) :
    (adderCheck g n s).2.pending = s.pending ∧ (adderCheck g n s).2.now = s.now ∧ (adderCheck g n s).2.hbm = s.hbm ∧
    (adderCheck g n s).2.cellar = s.cellar ∧ (adderCheck g n s).2.hostMem = s.hostMem := by
  simp only [adderCheck]; split <;> simp [takeFree]



@[simp] theorem combineSegment_kept (g cseq slot seg : Nat) (s : State) :
    (combineSegment g cseq slot seg s).pending = s.pending ∧ (combineSegment g cseq slot seg s).now = s.now := by
  simp only [combineSegment]; (repeat' split) <;> first | (simp; done) | simp_all

@[simp] theorem combineSegment_mem (g cseq slot seg : Nat) (s : State) :
    (Memory.wf s.hbm = true → Memory.wf (combineSegment g cseq slot seg s).hbm = true) ∧
    (Memory.wf s.cellar = true → Memory.wf (combineSegment g cseq slot seg s).cellar = true) ∧
    (Memory.wf s.hostMem = true → Memory.wf (combineSegment g cseq slot seg s).hostMem = true) := by
  refine ⟨fun h => ?_, fun h => ?_, fun h => ?_⟩ <;>
    (simp only [combineSegment]; (repeat' split) <;> simp (maxDischargeDepth := 40) (contextual := true) [h])

@[simp] theorem advanceWindow_kept (g cseq : Nat) (s : State) :
    (advanceWindow g cseq s).pending = s.pending ∧ (advanceWindow g cseq s).now = s.now ∧
    (advanceWindow g cseq s).hbm = s.hbm ∧ (advanceWindow g cseq s).cellar = s.cellar ∧
    (advanceWindow g cseq s).hostMem = s.hostMem := by
  simp only [advanceWindow]; (repeat' split) <;> first | (simp; done) | simp_all

@[simp] theorem takeContribution_kept (g cseq : Nat) (x : Contribution) (s : State) :
    (takeContribution g cseq x s).pending = s.pending ∧ (takeContribution g cseq x s).now = s.now := by
  simp only [takeContribution]; (repeat' split) <;> first | (simp; done) | simp_all

@[simp] theorem takeContribution_mem (g cseq : Nat) (x : Contribution) (s : State) :
    (Memory.wf s.hbm = true → Memory.wf (takeContribution g cseq x s).hbm = true) ∧
    (Memory.wf s.cellar = true → Memory.wf (takeContribution g cseq x s).cellar = true) ∧
    (Memory.wf s.hostMem = true → Memory.wf (takeContribution g cseq x s).hostMem = true) := by
  refine ⟨fun h => ?_, fun h => ?_, fun h => ?_⟩ <;>
    (simp only [takeContribution]; (repeat' split) <;> simp (maxDischargeDepth := 40) (contextual := true) [h])

@[simp] theorem sendStream_kept (g cseq d : Nat) (s : State) :
    (sendStream g cseq d s).pending = s.pending ∧ (sendStream g cseq d s).now = s.now ∧
    (sendStream g cseq d s).cellar = s.cellar := by
  simp only [sendStream]; (repeat' split) <;> first | (simp; done) | simp_all

@[simp] theorem sendStream_mem (g cseq d : Nat) (s : State) :
    (Memory.wf s.hbm = true → Memory.wf (sendStream g cseq d s).hbm = true) ∧
    (Memory.wf s.hostMem = true → Memory.wf (sendStream g cseq d s).hostMem = true) := by
  refine ⟨fun h => ?_, fun h => ?_⟩ <;>
    (simp only [sendStream]; (repeat' split) <;> simp (maxDischargeDepth := 40) (contextual := true) [h])

@[simp] theorem sendEntry_kept (g cseq : Nat) (e : AddEntry) (s : State) :
    (sendEntry g cseq e s).pending = s.pending ∧ (sendEntry g cseq e s).now = s.now := by
  simp only [sendEntry]; (repeat' split) <;> first | (simp; done) | simp_all

@[simp] theorem sendEntry_mem (g cseq : Nat) (e : AddEntry) (s : State) :
    (Memory.wf s.hbm = true → Memory.wf (sendEntry g cseq e s).hbm = true) ∧
    (Memory.wf s.cellar = true → Memory.wf (sendEntry g cseq e s).cellar = true) ∧
    (Memory.wf s.hostMem = true → Memory.wf (sendEntry g cseq e s).hostMem = true) := by
  refine ⟨fun h => ?_, fun h => ?_, fun h => ?_⟩ <;>
    (simp only [sendEntry]; (repeat' split) <;> simp (maxDischargeDepth := 40) (contextual := true) [h])

@[simp] theorem sendEntries_kept (g cseq : Nat) (s : State) :
    (sendEntries g cseq s).pending = s.pending ∧ (sendEntries g cseq s).now = s.now := by
  simp only [sendEntries]; split
  · simp
  · simp only [checkLocal_kept]; exact forEach_kept _ _ _ fun a u => by (repeat' split) <;> simp

@[simp] theorem sendEntries_mem (g cseq : Nat) (s : State) :
    (Memory.wf s.hbm = true → Memory.wf (sendEntries g cseq s).hbm = true) ∧
    (Memory.wf s.cellar = true → Memory.wf (sendEntries g cseq s).cellar = true) ∧
    (Memory.wf s.hostMem = true → Memory.wf (sendEntries g cseq s).hostMem = true) := by
  refine ⟨fun h => ?_, fun h => ?_, fun h => ?_⟩ <;> simp only [sendEntries] <;> split
  · exact h
  · exact (checkLocal_mem _ _ _).1 (forEach_hbm_wf _ _ _ (fun a u k => by (repeat' split) <;> simp [k]) h)
  · exact h
  · rw [(checkLocal_kept _ _ _).2.2]; exact (forEach_cellar_wf _ _ _ (fun a u k => by (repeat' split) <;> simp [k]) h)
  · exact h
  · exact (checkLocal_mem _ _ _).2 (forEach_hostMem_wf _ _ _ (fun a u k => by (repeat' split) <;> simp [k]) h)

@[simp] theorem firstGrants_kept (g cseq : Nat) (s : State) :
    (firstGrants g cseq s).pending = s.pending ∧ (firstGrants g cseq s).now = s.now := by
  simp only [firstGrants]; exact forEach_kept _ _ _ fun a u => by split <;> simp

@[simp] theorem firstGrants_same (g cseq : Nat) (s : State) : (firstGrants g cseq s).hbm = s.hbm ∧
    (firstGrants g cseq s).cellar = s.cellar ∧ (firstGrants g cseq s).hostMem = s.hostMem := by
  simp only [firstGrants]
  exact ⟨forEach_hbm _ _ _ fun a u => by split <;> simp, forEach_cellar _ _ _ fun a u => by split <;> simp,
    forEach_hostMem _ _ _ fun a u => by split <;> simp⟩

@[simp] theorem ownPart_kept (g : Nat) (c : Collective) (s : State) :
    (ownPart g c s).pending = s.pending ∧ (ownPart g c s).now = s.now ∧ (ownPart g c s).cellar = s.cellar ∧
    (ownPart g c s).hostMem = s.hostMem := by
  simp only [ownPart]; (repeat' split) <;> first | (simp; done) | simp_all

@[simp] theorem ownPart_mem (g : Nat) (c : Collective) (s : State) :
    (Memory.wf s.hbm = true → Memory.wf (ownPart g c s).hbm = true) := by
  intro h; simp only [ownPart]; (repeat' split) <;> simp (maxDischargeDepth := 40) (contextual := true) [h]

@[simp] theorem takeAlley_kept (g cseq : Nat) (x : InSlab) (s : State) :
    (takeAlley g cseq x s).pending = s.pending ∧ (takeAlley g cseq x s).now = s.now := by
  simp only [takeAlley]; (repeat' split) <;> first | (simp; done) | simp_all

@[simp] theorem takeAlley_mem (g cseq : Nat) (x : InSlab) (s : State) :
    (Memory.wf s.hbm = true → Memory.wf (takeAlley g cseq x s).hbm = true) ∧
    (Memory.wf s.cellar = true → Memory.wf (takeAlley g cseq x s).cellar = true) ∧
    (Memory.wf s.hostMem = true → Memory.wf (takeAlley g cseq x s).hostMem = true) := by
  refine ⟨fun h => ?_, fun h => ?_, fun h => ?_⟩ <;>
    (simp only [takeAlley]; (repeat' split) <;> simp (maxDischargeDepth := 40) (contextual := true) [h])

@[simp] theorem runCollective_kept (g : Nat) (c : Collective) (s : State) :
    (runCollective g c s).pending = s.pending ∧ (runCollective g c s).now = s.now := by
  simp only [runCollective]; (repeat' split) <;> first | (simp; done) | simp_all

@[simp] theorem runCollective_mem (g : Nat) (c : Collective) (s : State) :
    (Memory.wf s.hbm = true → Memory.wf (runCollective g c s).hbm = true) ∧
    (Memory.wf s.cellar = true → Memory.wf (runCollective g c s).cellar = true) ∧
    (Memory.wf s.hostMem = true → Memory.wf (runCollective g c s).hostMem = true) := by
  refine ⟨fun h => ?_, fun h => ?_, fun h => ?_⟩ <;>
    (simp only [runCollective]; (repeat' split) <;> simp (maxDischargeDepth := 40) (contextual := true) [h])

@[simp] theorem startCollective_kept (op t g : Nat) (s : State) :
    (startCollective op t g s).pending = s.pending ∧ (startCollective op t g s).now = max s.now t := by
  have h := admitNext_kept (groupAt (clockTo t s) g).queue fenceSet (clockTo t s)
  simp only [startCollective]; (repeat' split) <;> simp_all

theorem startCollective_mem (op t g : Nat) (s : State) (h : MemOk s) : MemOk (startCollective op t g s) := by
  obtain ⟨h1, h2, h3⟩ := h
  have k := admitNext_same (groupAt (clockTo t s) g).queue fenceSet (clockTo t s)
  simp only [startCollective]; (repeat' split) <;> simp_all [MemOk]

@[simp] theorem execExchange_kept (t group : Nat) (s : State) :
    Keeps (execExchange t group s) s.pending (max s.now t) := by
  simp only [execExchange]; (repeat' split) <;> first | (simp; done) | simp_all

theorem execExchange_mem (t group : Nat) (s : State) (h : MemOk s) : EndsOk (execExchange t group s) :=
  startCollective_mem _ _ _ _ h

@[simp] theorem execExchangeV_kept (t group : Nat) (s : State) :
    Keeps (execExchangeV t group s) s.pending (max s.now t) := by
  simp only [execExchangeV]; (repeat' split) <;> first | (simp; done) | simp_all

theorem execExchangeV_mem (t group : Nat) (s : State) (h : MemOk s) : EndsOk (execExchangeV t group s) :=
  startCollective_mem _ _ _ _ h

@[simp] theorem execExchangeAdd_kept (t group : Nat) (s : State) :
    Keeps (execExchangeAdd t group s) s.pending (max s.now t) := by
  simp only [execExchangeAdd]; (repeat' split) <;> first | (simp; done) | simp_all

theorem execExchangeAdd_mem (t group : Nat) (s : State) (h : MemOk s) : EndsOk (execExchangeAdd t group s) :=
  startCollective_mem _ _ _ _ h

@[simp] theorem takeEnd_kept (g cseq rank pos : Nat) (data : List Byte) (s : State) :
    (takeEnd g cseq rank pos data s).pending = s.pending ∧ (takeEnd g cseq rank pos data s).now = s.now := by
  simp only [takeEnd]; (repeat' split) <;> first | (simp; done) | simp_all

@[simp] theorem takeEnd_mem (g cseq rank pos : Nat) (data : List Byte) (s : State) :
    (Memory.wf s.hbm = true → Memory.wf (takeEnd g cseq rank pos data s).hbm = true) ∧
    (Memory.wf s.cellar = true → Memory.wf (takeEnd g cseq rank pos data s).cellar = true) ∧
    (Memory.wf s.hostMem = true → Memory.wf (takeEnd g cseq rank pos data s).hostMem = true) := by
  refine ⟨fun h => ?_, fun h => ?_, fun h => ?_⟩ <;>
    (simp only [takeEnd]; (repeat' split) <;> simp (maxDischargeDepth := 40) (contextual := true) [h])

@[simp] theorem takeStream_kept (g cseq rank pos : Nat) (data : List Byte) (s : State) :
    (takeStream g cseq rank pos data s).pending = s.pending ∧ (takeStream g cseq rank pos data s).now = s.now ∧
    (takeStream g cseq rank pos data s).hbm = s.hbm ∧ (takeStream g cseq rank pos data s).cellar = s.cellar ∧
    (takeStream g cseq rank pos data s).hostMem = s.hostMem := by
  simp only [takeStream]; (repeat' split) <;> first | (simp; done) | simp_all

@[simp] theorem receiveColl_kept (x : Slab) (s : State) :
    (receiveColl x s).pending = s.pending ∧ (receiveColl x s).now = s.now := by
  simp only [receiveColl]; (repeat' split) <;> first | (simp; done) | simp_all

@[simp] theorem receiveColl_mem (x : Slab) (s : State) :
    (Memory.wf s.hbm = true → Memory.wf (receiveColl x s).hbm = true) ∧
    (Memory.wf s.cellar = true → Memory.wf (receiveColl x s).cellar = true) ∧
    (Memory.wf s.hostMem = true → Memory.wf (receiveColl x s).hostMem = true) := by
  refine ⟨fun h => ?_, fun h => ?_, fun h => ?_⟩ <;>
    (simp only [receiveColl]; (repeat' split) <;> simp (maxDischargeDepth := 40) (contextual := true) [h])

@[simp] theorem receiveAlley_kept (x : Slab) (s : State) :
    (receiveAlley x s).pending = s.pending ∧ (receiveAlley x s).now = s.now := by
  simp only [receiveAlley]; (repeat' split) <;> first | (simp; done) | simp_all

@[simp] theorem receiveAlley_mem (x : Slab) (s : State) :
    (Memory.wf s.hbm = true → Memory.wf (receiveAlley x s).hbm = true) ∧
    (Memory.wf s.cellar = true → Memory.wf (receiveAlley x s).cellar = true) ∧
    (Memory.wf s.hostMem = true → Memory.wf (receiveAlley x s).hostMem = true) := by
  refine ⟨fun h => ?_, fun h => ?_, fun h => ?_⟩ <;>
    (simp only [receiveAlley]; (repeat' split) <;> simp (maxDischargeDepth := 40) (contextual := true) [h])

@[simp] theorem receiveControl_kept (x : Slab) (s : State) :
    (receiveControl x s).pending = s.pending ∧ (receiveControl x s).now = s.now ∧ (receiveControl x s).hbm = s.hbm ∧
    (receiveControl x s).cellar = s.cellar ∧ (receiveControl x s).hostMem = s.hostMem := by
  simp only [receiveControl]; (repeat' split) <;> first | (simp; done) | simp_all

@[simp] theorem grantPlace_kept (g cseq : Nat) (s : State) :
    (grantPlace g cseq s).pending = s.pending ∧ (grantPlace g cseq s).now = s.now ∧
    (grantPlace g cseq s).hbm = s.hbm ∧ (grantPlace g cseq s).cellar = s.cellar ∧
    (grantPlace g cseq s).hostMem = s.hostMem := by
  simp only [grantPlace]; (repeat' split) <;> first | (simp; done) | simp_all

@[simp] theorem execHamperPlaceFreed_kept (t group : Nat) (s : State) :
    Keeps (execHamperPlaceFreed t group s) s.pending (max s.now t) := by
  simp only [execHamperPlaceFreed]; (repeat' split) <;> first | (simp; done) | simp_all

theorem execHamperPlaceFreed_mem (t group : Nat) (s : State) (h : MemOk s) :
    EndsOk (execHamperPlaceFreed t group s) := by
  simp only [execHamperPlaceFreed]; (repeat' split) <;> simp (maxDischargeDepth := 40) (contextual := true) [h.1, h.2.1, h.2.2]

theorem takeMessage_kept (code : Nat) (s u : State) (m : EngineMsg) (h : takeMessage code s = some (m, u)) :
    u.pending = s.pending ∧ u.now = s.now := by
  simp only [takeMessage] at h
  (repeat' split at h) <;> simp at h
  obtain ⟨-, rfl⟩ := h; simp

theorem takeMessage_same (code : Nat) (s u : State) (m : EngineMsg) (h : takeMessage code s = some (m, u)) :
    u.hbm = s.hbm ∧ u.cellar = s.cellar ∧ u.hostMem = s.hostMem := by
  simp only [takeMessage] at h
  (repeat' split at h) <;> simp at h
  obtain ⟨-, rfl⟩ := h; simp

@[simp] theorem armHelloTo_kept (g dest : Nat) (s : State) :
    (armHelloTo g dest s).pending = s.pending ∧ (armHelloTo g dest s).now = s.now ∧
    (armHelloTo g dest s).hbm = s.hbm ∧ (armHelloTo g dest s).cellar = s.cellar ∧
    (armHelloTo g dest s).hostMem = s.hostMem := by
  simp only [armHelloTo]; (repeat' split) <;> first | (simp; done) | simp_all

@[simp] theorem execArmHelloTimer_kept (t group : Nat) (s : State) :
    Keeps (execArmHelloTimer t group s) s.pending (max s.now t) := by
  simp only [execArmHelloTimer]; (repeat' split) <;> first | (simp; done) | simp_all

theorem execArmHelloTimer_mem (t group : Nat) (s : State) (h : MemOk s) :
    EndsOk (execArmHelloTimer t group s) := by
  simp only [execArmHelloTimer]; (repeat' split) <;> simp (maxDischargeDepth := 40) (contextual := true) [h.1, h.2.1, h.2.2]

@[simp] theorem checkArmed_kept (g : Nat) (s : State) :
    (checkArmed g s).pending = s.pending ∧ (checkArmed g s).now = s.now ∧ (checkArmed g s).hbm = s.hbm ∧
    (checkArmed g s).cellar = s.cellar ∧ (checkArmed g s).hostMem = s.hostMem := by
  simp only [checkArmed]; (repeat' split) <;> first | (simp; done) | simp_all

@[simp] theorem execArmHello_kept (t : Nat) (s : State) : Keeps (execArmHello t s) s.pending (max s.now t) := by
  simp only [execArmHello]; split
  · simp
  · rename_i h; have k := takeMessage_kept _ _ _ _ h; (repeat' split) <;> simp [k]

theorem execArmHello_mem (t : Nat) (s : State) (h : MemOk s) : EndsOk (execArmHello t s) := by
  obtain ⟨h1, h2, h3⟩ := h
  simp only [execArmHello]; split
  · simp [h1, h2, h3]
  · rename_i e; have k := takeMessage_same _ _ _ _ e
    (repeat' split) <;> simp (maxDischargeDepth := 40) (contextual := true) [k, h1, h2, h3]

@[simp] theorem execArmTimeout_kept (t group : Nat) (s : State) :
    Keeps (execArmTimeout t group s) s.pending (max s.now t) := by
  simp only [execArmTimeout]; (repeat' split) <;> first | (simp; done) | simp_all

theorem execArmTimeout_mem (t group : Nat) (s : State) (h : MemOk s) :
    EndsOk (execArmTimeout t group s) := by
  simp only [execArmTimeout]; (repeat' split) <;> simp (maxDischargeDepth := 40) (contextual := true) [h.1, h.2.1, h.2.2]

@[simp] theorem execFinished_kept (t : Nat) (s : State) : Keeps (execFinished t s) s.pending (max s.now t) := by
  simp only [execFinished]; split
  · simp
  · rename_i h; have k := takeMessage_kept _ _ _ _ h; (repeat' split) <;> simp [k]

theorem execFinished_mem (t : Nat) (s : State) (h : MemOk s) : EndsOk (execFinished t s) := by
  obtain ⟨h1, h2, h3⟩ := h
  simp only [execFinished]; split
  · simp [h1, h2, h3]
  · rename_i e; have k := takeMessage_same _ _ _ _ e
    (repeat' split) <;> simp (maxDischargeDepth := 40) (contextual := true) [k, h1, h2, h3]

@[simp] theorem execProgress_kept (t : Nat) (s : State) : Keeps (execProgress t s) s.pending (max s.now t) := by
  simp only [execProgress]; split
  · simp
  · rename_i h; have k := takeMessage_kept _ _ _ _ h; (repeat' split) <;> simp [k]

theorem execProgress_mem (t : Nat) (s : State) (h : MemOk s) : EndsOk (execProgress t s) := by
  obtain ⟨h1, h2, h3⟩ := h
  simp only [execProgress]; split
  · simp [h1, h2, h3]
  · rename_i e; have k := takeMessage_same _ _ _ _ e
    (repeat' split) <;> simp (maxDischargeDepth := 40) (contextual := true) [k, h1, h2, h3]

@[simp] theorem resendStream_kept (g cseq d n : Nat) (s : State) :
    (resendStream g cseq d n s).pending = s.pending ∧ (resendStream g cseq d n s).now = s.now ∧
    (resendStream g cseq d n s).hbm = s.hbm ∧ (resendStream g cseq d n s).cellar = s.cellar ∧
    (resendStream g cseq d n s).hostMem = s.hostMem := by
  simp only [resendStream]; (repeat' split) <;> first | (simp; done) | simp_all

@[simp] theorem execGrant_kept (t : Nat) (s : State) : Keeps (execGrant t s) s.pending (max s.now t) := by
  simp only [execGrant]; split
  · simp
  · rename_i h; have k := takeMessage_kept _ _ _ _ h; (repeat' split) <;> simp [k]

theorem execGrant_mem (t : Nat) (s : State) (h : MemOk s) : EndsOk (execGrant t s) := by
  obtain ⟨h1, h2, h3⟩ := h
  simp only [execGrant]; split
  · simp [h1, h2, h3]
  · rename_i e; have k := takeMessage_same _ _ _ _ e
    (repeat' split) <;> simp (maxDischargeDepth := 40) (contextual := true) [k, h1, h2, h3]

@[simp] theorem execWindow_kept (t : Nat) (s : State) : Keeps (execWindow t s) s.pending (max s.now t) := by
  simp only [execWindow]; split
  · simp
  · rename_i h; have k := takeMessage_kept _ _ _ _ h; (repeat' split) <;> simp [k]

theorem execWindow_mem (t : Nat) (s : State) (h : MemOk s) : EndsOk (execWindow t s) := by
  obtain ⟨h1, h2, h3⟩ := h
  simp only [execWindow]; split
  · simp [h1, h2, h3]
  · rename_i e; have k := takeMessage_same _ _ _ _ e
    (repeat' split) <;> simp (maxDischargeDepth := 40) (contextual := true) [k, h1, h2, h3]

@[simp] theorem execAbort_kept (t : Nat) (s : State) : Keeps (execAbort t s) s.pending (max s.now t) := by
  simp only [execAbort]; split
  · simp
  · rename_i h; have k := takeMessage_kept _ _ _ _ h; (repeat' split) <;> simp [k]

theorem execAbort_mem (t : Nat) (s : State) (h : MemOk s) : EndsOk (execAbort t s) := by
  obtain ⟨h1, h2, h3⟩ := h
  simp only [execAbort]; split
  · simp [h1, h2, h3]
  · rename_i e; have k := takeMessage_same _ _ _ _ e
    (repeat' split) <;> simp (maxDischargeDepth := 40) (contextual := true) [k, h1, h2, h3]

@[simp] theorem execReform_kept (t : Nat) (s : State) : Keeps (execReform t s) s.pending (max s.now t) := by
  simp only [execReform]; split
  · simp
  · rename_i h; have k := takeMessage_kept _ _ _ _ h; (repeat' split) <;> simp [k]

theorem execReform_mem (t : Nat) (s : State) (h : MemOk s) : EndsOk (execReform t s) := by
  obtain ⟨h1, h2, h3⟩ := h
  simp only [execReform]; split
  · simp [h1, h2, h3]
  · rename_i e; have k := takeMessage_same _ _ _ _ e
    (repeat' split) <;> simp (maxDischargeDepth := 40) (contextual := true) [k, h1, h2, h3]

@[simp] theorem lenderLost_kept (addr : Nat) (s : State) :
    (lenderLost addr s).pending = s.pending ∧ (lenderLost addr s).now = s.now := by
  simp only [lenderLost]; (repeat' split) <;> first | (simp; done) | simp_all

@[simp] theorem lenderLost_mem (addr : Nat) (s : State) :
    (Memory.wf s.hbm = true → Memory.wf (lenderLost addr s).hbm = true) ∧
    (Memory.wf s.cellar = true → Memory.wf (lenderLost addr s).cellar = true) ∧
    (Memory.wf s.hostMem = true → Memory.wf (lenderLost addr s).hostMem = true) := by
  refine ⟨fun h => ?_, fun h => ?_, fun h => ?_⟩ <;>
    (simp only [lenderLost]; (repeat' split) <;> simp (maxDischargeDepth := 40) (contextual := true) [h])

@[simp] theorem execLeave_kept (t : Nat) (s : State) : Keeps (execLeave t s) s.pending (max s.now t) := by
  simp only [execLeave]; split
  · simp
  · rename_i h; have k := takeMessage_kept _ _ _ _ h; (repeat' split) <;> simp [k]

theorem execLeave_mem (t : Nat) (s : State) (h : MemOk s) : EndsOk (execLeave t s) := by
  obtain ⟨h1, h2, h3⟩ := h
  simp only [execLeave]; split
  · simp [h1, h2, h3]
  · rename_i e; have k := takeMessage_same _ _ _ _ e
    (repeat' split) <;> simp (maxDischargeDepth := 40) (contextual := true) [k, h1, h2, h3]

@[simp] theorem execProgressTimer_kept (t group : Nat) (s : State) :
    Keeps (execProgressTimer t group s) s.pending (max s.now t) := by
  simp only [execProgressTimer]; (repeat' split) <;> first | (simp; done) | simp_all

theorem execProgressTimer_mem (t group : Nat) (s : State) (h : MemOk s) :
    EndsOk (execProgressTimer t group s) := by
  simp only [execProgressTimer]; (repeat' split) <;> simp (maxDischargeDepth := 40) (contextual := true) [h.1, h.2.1, h.2.2]

@[simp] theorem execWatchdogExpire_kept (t group : Nat) (s : State) :
    Keeps (execWatchdogExpire t group s) s.pending (max s.now t) := by
  simp only [execWatchdogExpire]; (repeat' split) <;> first | (simp; done) | simp_all

theorem execWatchdogExpire_mem (t group : Nat) (s : State) (h : MemOk s) :
    EndsOk (execWatchdogExpire t group s) := by
  simp only [execWatchdogExpire]; (repeat' split) <;> simp (maxDischargeDepth := 40) (contextual := true) [h.1, h.2.1, h.2.2]

@[simp] theorem execReformResend_kept (t group : Nat) (s : State) :
    Keeps (execReformResend t group s) s.pending (max s.now t) := by
  simp only [execReformResend]; (repeat' split) <;> first | (simp; done) | simp_all

theorem execReformResend_mem (t group : Nat) (s : State) (h : MemOk s) :
    EndsOk (execReformResend t group s) := by
  simp only [execReformResend]; (repeat' split) <;> simp (maxDischargeDepth := 40) (contextual := true) [h.1, h.2.1, h.2.2]

@[simp] theorem execReformTimeout_kept (t group : Nat) (s : State) :
    Keeps (execReformTimeout t group s) s.pending (max s.now t) := by
  simp only [execReformTimeout]; (repeat' split) <;> first | (simp; done) | simp_all

theorem execReformTimeout_mem (t group : Nat) (s : State) (h : MemOk s) :
    EndsOk (execReformTimeout t group s) := by
  simp only [execReformTimeout]; (repeat' split) <;> simp (maxDischargeDepth := 40) (contextual := true) [h.1, h.2.1, h.2.2]

@[simp] theorem countPort_kept (p sub n : Nat) (s : State) :
    (countPort p sub n s).pending = s.pending ∧ (countPort p sub n s).now = s.now ∧
    (countPort p sub n s).hbm = s.hbm ∧ (countPort p sub n s).cellar = s.cellar ∧
    (countPort p sub n s).hostMem = s.hostMem := by
  simp only [countPort]; (repeat' split) <;> first | (simp; done) | simp_all

@[simp] theorem transmit_kept (p seq : Nat) (x : Slab) (s : State) :
    (transmit p seq x s).pending = s.pending ∧ (transmit p seq x s).now = s.now ∧ (transmit p seq x s).hbm = s.hbm ∧
    (transmit p seq x s).cellar = s.cellar ∧ (transmit p seq x s).hostMem = s.hostMem := by
  simp only [transmit]; (repeat' split) <;> first | (simp; done) | simp_all

@[simp] theorem sendNew_kept (p vc : Nat) (s : State) :
    (sendNew p vc s).pending = s.pending ∧ (sendNew p vc s).now = s.now ∧ (sendNew p vc s).hbm = s.hbm ∧
    (sendNew p vc s).cellar = s.cellar ∧ (sendNew p vc s).hostMem = s.hostMem := by
  simp only [sendNew]; (repeat' split) <;> first | (simp; done) | simp_all

@[simp] theorem sendAgain_kept (p seq : Nat) (s : State) :
    (sendAgain p seq s).pending = s.pending ∧ (sendAgain p seq s).now = s.now ∧ (sendAgain p seq s).hbm = s.hbm ∧
    (sendAgain p seq s).cellar = s.cellar ∧ (sendAgain p seq s).hostMem = s.hostMem := by
  simp only [sendAgain]; (repeat' split) <;> first | (simp; done) | simp_all

@[simp] theorem sendLink_kept (p : Nat) (s : State) :
    (sendLink p s).pending = s.pending ∧ (sendLink p s).now = s.now ∧ (sendLink p s).hbm = s.hbm ∧
    (sendLink p s).cellar = s.cellar ∧ (sendLink p s).hostMem = s.hostMem := by
  simp only [sendLink]; (repeat' split) <;> first | (simp; done) | simp_all

@[simp] theorem sendIdle_kept (p : Nat) (s : State) :
    (sendIdle p s).pending = s.pending ∧ (sendIdle p s).now = s.now ∧ (sendIdle p s).hbm = s.hbm ∧
    (sendIdle p s).cellar = s.cellar ∧ (sendIdle p s).hostMem = s.hostMem := by
  simp only [sendIdle]; (repeat' split) <;> first | (simp; done) | simp_all

@[simp] theorem noteStall_kept (p : Nat) (s : State) :
    (noteStall p s).pending = s.pending ∧ (noteStall p s).now = s.now ∧ (noteStall p s).hbm = s.hbm ∧
    (noteStall p s).cellar = s.cellar ∧ (noteStall p s).hostMem = s.hostMem := by
  simp only [noteStall]; (repeat' split) <;> first | (simp; done) | simp_all

@[simp] theorem sendUp_kept (p : Nat) (s : State) :
    (sendUp p s).pending = s.pending ∧ (sendUp p s).now = s.now ∧ (sendUp p s).hbm = s.hbm ∧
    (sendUp p s).cellar = s.cellar ∧ (sendUp p s).hostMem = s.hostMem := by
  simp only [sendUp]; (repeat' split) <;> first | (simp; done) | simp_all

@[simp] theorem execSlabSend_kept (t : Nat) (port : Fin 16) (s : State) :
    Keeps (execSlabSend t port s) s.pending (max s.now t) := by
  simp only [execSlabSend]; (repeat' split) <;> first | (simp; done) | simp_all

theorem execSlabSend_mem (t : Nat) (port : Fin 16) (s : State) (h : MemOk s) :
    EndsOk (execSlabSend t port s) := by
  simp only [execSlabSend]; (repeat' split) <;> simp (maxDischargeDepth := 40) (contextual := true) [h.1, h.2.1, h.2.2]

@[simp] theorem reroute_kept (p : Nat) (s : State) :
    (reroute p s).pending = s.pending ∧ (reroute p s).now = s.now ∧ (reroute p s).hbm = s.hbm ∧
    (reroute p s).cellar = s.cellar ∧ (reroute p s).hostMem = s.hostMem := by
  simp only [reroute]; (repeat' split) <;> first | (simp; done) | simp_all

@[simp] theorem portChange_kept (p cause : Nat) (s : State) :
    (portChange p cause s).pending = s.pending ∧ (portChange p cause s).now = s.now ∧
    (portChange p cause s).hbm = s.hbm ∧ (portChange p cause s).cellar = s.cellar ∧
    (portChange p cause s).hostMem = s.hostMem := by
  simp only [portChange]; (repeat' split) <;> first | (simp; done) | simp_all

@[simp] theorem failPort_kept (p : Nat) (s : State) :
    (failPort p s).pending = s.pending ∧ (failPort p s).now = s.now := by
  simp only [failPort]; (repeat' split) <;> first | (simp; done) | simp_all

@[simp] theorem failPort_mem (p : Nat) (s : State) :
    (Memory.wf s.hbm = true → Memory.wf (failPort p s).hbm = true) ∧
    (Memory.wf s.cellar = true → Memory.wf (failPort p s).cellar = true) ∧
    (Memory.wf s.hostMem = true → Memory.wf (failPort p s).hostMem = true) := by
  refine ⟨fun h => ?_, fun h => ?_, fun h => ?_⟩ <;>
    (simp only [failPort]; (repeat' split) <;> simp (maxDischargeDepth := 40) (contextual := true) [h])

@[simp] theorem leavePort_kept (p : Nat) (s : State) :
    (leavePort p s).pending = s.pending ∧ (leavePort p s).now = s.now := by
  simp only [leavePort]; (repeat' split) <;> first | (simp; done) | simp_all

@[simp] theorem leavePort_mem (p : Nat) (s : State) :
    (Memory.wf s.hbm = true → Memory.wf (leavePort p s).hbm = true) ∧
    (Memory.wf s.cellar = true → Memory.wf (leavePort p s).cellar = true) ∧
    (Memory.wf s.hostMem = true → Memory.wf (leavePort p s).hostMem = true) := by
  refine ⟨fun h => ?_, fun h => ?_, fun h => ?_⟩ <;>
    (simp only [leavePort]; (repeat' split) <;> simp (maxDischargeDepth := 40) (contextual := true) [h])

@[simp] theorem detourWaiting_kept (p : Nat) (s : State) :
    (detourWaiting p s).pending = s.pending ∧ (detourWaiting p s).now = s.now ∧ (detourWaiting p s).hbm = s.hbm ∧
    (detourWaiting p s).cellar = s.cellar ∧ (detourWaiting p s).hostMem = s.hostMem := by
  simp only [detourWaiting]; (repeat' split) <;> first | (simp; done) | simp_all

@[simp] theorem beginRetrain_kept (p : Nat) (ask : Bool) (s : State) :
    (beginRetrain p ask s).pending = s.pending ∧ (beginRetrain p ask s).now = s.now := by
  simp only [beginRetrain]; (repeat' split) <;> first | (simp; done) | simp_all

@[simp] theorem beginRetrain_mem (p : Nat) (ask : Bool) (s : State) :
    (Memory.wf s.hbm = true → Memory.wf (beginRetrain p ask s).hbm = true) ∧
    (Memory.wf s.cellar = true → Memory.wf (beginRetrain p ask s).cellar = true) ∧
    (Memory.wf s.hostMem = true → Memory.wf (beginRetrain p ask s).hostMem = true) := by
  refine ⟨fun h => ?_, fun h => ?_, fun h => ?_⟩ <;>
    (simp only [beginRetrain]; (repeat' split) <;> simp (maxDischargeDepth := 40) (contextual := true) [h])

@[simp] theorem startReplay_kept (p : Nat) (from_ : Option Nat) (s : State) :
    (startReplay p from_ s).pending = s.pending ∧ (startReplay p from_ s).now = s.now := by
  simp only [startReplay]; (repeat' split) <;> first | (simp; done) | simp_all

@[simp] theorem startReplay_mem (p : Nat) (from_ : Option Nat) (s : State) :
    (Memory.wf s.hbm = true → Memory.wf (startReplay p from_ s).hbm = true) ∧
    (Memory.wf s.cellar = true → Memory.wf (startReplay p from_ s).cellar = true) ∧
    (Memory.wf s.hostMem = true → Memory.wf (startReplay p from_ s).hostMem = true) := by
  refine ⟨fun h => ?_, fun h => ?_, fun h => ?_⟩ <;>
    (simp only [startReplay]; (repeat' split) <;> simp (maxDischargeDepth := 40) (contextual := true) [h])

@[simp] theorem execAckTimeout_kept (t : Nat) (port : Fin 16) (s : State) :
    Keeps (execAckTimeout t port s) s.pending (max s.now t) := by
  simp only [execAckTimeout]; (repeat' split) <;> first | (simp; done) | simp_all

theorem execAckTimeout_mem (t : Nat) (port : Fin 16) (s : State) (h : MemOk s) :
    EndsOk (execAckTimeout t port s) := by
  simp only [execAckTimeout]; (repeat' split) <;> simp (maxDischargeDepth := 40) (contextual := true) [h.1, h.2.1, h.2.2]

@[simp] theorem execReplayBudgetExpire_kept (t : Nat) (port : Fin 16) (s : State) :
    Keeps (execReplayBudgetExpire t port s) s.pending (max s.now t) := by
  simp only [execReplayBudgetExpire]; (repeat' split) <;> first | (simp; done) | simp_all

theorem execReplayBudgetExpire_mem (t : Nat) (port : Fin 16) (s : State) (h : MemOk s) :
    EndsOk (execReplayBudgetExpire t port s) := by
  simp only [execReplayBudgetExpire]; (repeat' split) <;> simp (maxDischargeDepth := 40) (contextual := true) [h.1, h.2.1, h.2.2]

@[simp] theorem execFecLockLoss_kept (t : Nat) (port : Fin 16) (s : State) :
    Keeps (execFecLockLoss t port s) s.pending (max s.now t) := by
  simp only [execFecLockLoss]; (repeat' split) <;> first | (simp; done) | simp_all

theorem execFecLockLoss_mem (t : Nat) (port : Fin 16) (s : State) (h : MemOk s) :
    EndsOk (execFecLockLoss t port s) := by
  simp only [execFecLockLoss]; (repeat' split) <;> simp (maxDischargeDepth := 40) (contextual := true) [h.1, h.2.1, h.2.2]

@[simp] theorem execWidth8AttemptExpire_kept (t : Nat) (port : Fin 16) (s : State) :
    Keeps (execWidth8AttemptExpire t port s) s.pending (max s.now t) := by
  simp only [execWidth8AttemptExpire]; (repeat' split) <;> first | (simp; done) | simp_all

theorem execWidth8AttemptExpire_mem (t : Nat) (port : Fin 16) (s : State) (h : MemOk s) :
    EndsOk (execWidth8AttemptExpire t port s) := by
  simp only [execWidth8AttemptExpire]; (repeat' split) <;> simp (maxDischargeDepth := 40) (contextual := true) [h.1, h.2.1, h.2.2]

@[simp] theorem beginExchange_kept (p width : Nat) (s : State) :
    (beginExchange p width s).pending = s.pending ∧ (beginExchange p width s).now = s.now ∧
    (beginExchange p width s).hbm = s.hbm ∧ (beginExchange p width s).cellar = s.cellar ∧
    (beginExchange p width s).hostMem = s.hostMem := by
  simp only [beginExchange]; (repeat' split) <;> first | (simp; done) | simp_all

@[simp] theorem execRetrainComplete_kept (t : Nat) (port : Fin 16) (width : Nat) (s : State) :
    Keeps (execRetrainComplete t port width s) s.pending (max s.now t) := by
  simp only [execRetrainComplete]; (repeat' split) <;> first | (simp; done) | simp_all

theorem execRetrainComplete_mem (t : Nat) (port : Fin 16) (width : Nat) (s : State) (h : MemOk s) :
    EndsOk (execRetrainComplete t port width s) := by
  simp only [execRetrainComplete]; (repeat' split) <;> simp (maxDischargeDepth := 40) (contextual := true) [h.1, h.2.1, h.2.2]

@[simp] theorem execRetrainTimeout_kept (t : Nat) (port : Fin 16) (s : State) :
    Keeps (execRetrainTimeout t port s) s.pending (max s.now t) := by
  simp only [execRetrainTimeout]; (repeat' split) <;> first | (simp; done) | simp_all

theorem execRetrainTimeout_mem (t : Nat) (port : Fin 16) (s : State) (h : MemOk s) :
    EndsOk (execRetrainTimeout t port s) := by
  simp only [execRetrainTimeout]; (repeat' split) <;> simp (maxDischargeDepth := 40) (contextual := true) [h.1, h.2.1, h.2.2]

@[simp] theorem execPortInfoRepeat_kept (t : Nat) (port : Fin 16) (s : State) :
    Keeps (execPortInfoRepeat t port s) s.pending (max s.now t) := by
  simp only [execPortInfoRepeat]; (repeat' split) <;> first | (simp; done) | simp_all

theorem execPortInfoRepeat_mem (t : Nat) (port : Fin 16) (s : State) (h : MemOk s) :
    EndsOk (execPortInfoRepeat t port s) := by
  simp only [execPortInfoRepeat]; (repeat' split) <;> simp (maxDischargeDepth := 40) (contextual := true) [h.1, h.2.1, h.2.2]

@[simp] theorem startTraining_kept (p : Nat) (s : State) :
    (startTraining p s).pending = s.pending ∧ (startTraining p s).now = s.now ∧ (startTraining p s).hbm = s.hbm ∧
    (startTraining p s).cellar = s.cellar ∧ (startTraining p s).hostMem = s.hostMem := by
  simp only [startTraining]; (repeat' split) <;> first | (simp; done) | simp_all

@[simp] theorem execFailedPortRetry_kept (t : Nat) (port : Fin 16) (s : State) :
    Keeps (execFailedPortRetry t port s) s.pending (max s.now t) := by
  simp only [execFailedPortRetry]; (repeat' split) <;> first | (simp; done) | simp_all

theorem execFailedPortRetry_mem (t : Nat) (port : Fin 16) (s : State) (h : MemOk s) :
    EndsOk (execFailedPortRetry t port s) := by
  simp only [execFailedPortRetry]; (repeat' split) <;> simp (maxDischargeDepth := 40) (contextual := true) [h.1, h.2.1, h.2.2]

@[simp] theorem execPortTrainStart_kept (t : Nat) (port : Fin 16) (s : State) :
    Keeps (execPortTrainStart t port s) s.pending (max s.now t) := by
  simp only [execPortTrainStart]; (repeat' split) <;> first | (simp; done) | simp_all

theorem execPortTrainStart_mem (t : Nat) (port : Fin 16) (s : State) (h : MemOk s) :
    EndsOk (execPortTrainStart t port s) := by
  simp only [execPortTrainStart]; (repeat' split) <;> simp (maxDischargeDepth := 40) (contextual := true) [h.1, h.2.1, h.2.2]

@[simp] theorem execPortLanesTrained_kept (t : Nat) (port : Fin 16) (width : Nat) (s : State) :
    Keeps (execPortLanesTrained t port width s) s.pending (max s.now t) := by
  simp only [execPortLanesTrained]; (repeat' split) <;> first | (simp; done) | simp_all

theorem execPortLanesTrained_mem (t : Nat) (port : Fin 16) (width : Nat) (s : State) (h : MemOk s) :
    EndsOk (execPortLanesTrained t port width s) := by
  simp only [execPortLanesTrained]; (repeat' split) <;> simp (maxDischargeDepth := 40) (contextual := true) [h.1, h.2.1, h.2.2]

@[simp] theorem execPortTrainTimeout_kept (t : Nat) (port : Fin 16) (s : State) :
    Keeps (execPortTrainTimeout t port s) s.pending (max s.now t) := by
  simp only [execPortTrainTimeout]; (repeat' split) <;> first | (simp; done) | simp_all

theorem execPortTrainTimeout_mem (t : Nat) (port : Fin 16) (s : State) (h : MemOk s) :
    EndsOk (execPortTrainTimeout t port s) := by
  simp only [execPortTrainTimeout]; (repeat' split) <;> simp (maxDischargeDepth := 40) (contextual := true) [h.1, h.2.1, h.2.2]

@[simp] theorem execLanesSilent_kept (t : Nat) (port : Fin 16) (s : State) :
    Keeps (execLanesSilent t port s) s.pending (max s.now t) := by
  simp only [execLanesSilent]; (repeat' split) <;> first | (simp; done) | simp_all

theorem execLanesSilent_mem (t : Nat) (port : Fin 16) (s : State) (h : MemOk s) :
    EndsOk (execLanesSilent t port s) := by
  simp only [execLanesSilent]; (repeat' split) <;> simp (maxDischargeDepth := 40) (contextual := true) [h.1, h.2.1, h.2.2]

@[simp] theorem execCablePresenceChange_kept (t : Nat) (port : Fin 16) (present : Bool) (s : State) :
    Keeps (execCablePresenceChange t port present s) s.pending (max s.now t) := by
  simp only [execCablePresenceChange]; (repeat' split) <;> first | (simp; done) | simp_all

theorem execCablePresenceChange_mem (t : Nat) (port : Fin 16) (present : Bool) (s : State) (h : MemOk s) :
    EndsOk (execCablePresenceChange t port present s) := by
  simp only [execCablePresenceChange]; (repeat' split) <;> simp (maxDischargeDepth := 40) (contextual := true) [h.1, h.2.1, h.2.2]

@[simp] theorem trainPorts_kept (s : State) :
    (trainPorts s).pending = s.pending ∧ (trainPorts s).now = s.now ∧ (trainPorts s).hbm = s.hbm ∧
    (trainPorts s).cellar = s.cellar ∧ (trainPorts s).hostMem = s.hostMem := by
  simp only [trainPorts]; (repeat' split) <;> first | (simp; done) | simp_all

@[simp] theorem applyAck_kept (p ack : Nat) (s : State) :
    (applyAck p ack s).pending = s.pending ∧ (applyAck p ack s).now = s.now ∧ (applyAck p ack s).hbm = s.hbm ∧
    (applyAck p ack s).cellar = s.cellar ∧ (applyAck p ack s).hostMem = s.hostMem := by
  simp only [applyAck]; (repeat' split) <;> first | (simp; done) | simp_all

@[simp] theorem applyCredit_kept (p vc n : Nat) (s : State) :
    (applyCredit p vc n s).pending = s.pending ∧ (applyCredit p vc n s).now = s.now ∧
    (applyCredit p vc n s).hbm = s.hbm ∧ (applyCredit p vc n s).cellar = s.cellar ∧
    (applyCredit p vc n s).hostMem = s.hostMem := by
  simp only [applyCredit]; (repeat' split) <;> first | (simp; done) | simp_all

@[simp] theorem portUp_kept (p : Nat) (info : List Byte) (s : State) :
    (portUp p info s).pending = s.pending ∧ (portUp p info s).now = s.now := by
  simp only [portUp]; (repeat' split) <;> first | (simp; done) | simp_all

@[simp] theorem portUp_mem (p : Nat) (info : List Byte) (s : State) :
    (Memory.wf s.hbm = true → Memory.wf (portUp p info s).hbm = true) ∧
    (Memory.wf s.cellar = true → Memory.wf (portUp p info s).cellar = true) ∧
    (Memory.wf s.hostMem = true → Memory.wf (portUp p info s).hostMem = true) := by
  refine ⟨fun h => ?_, fun h => ?_, fun h => ?_⟩ <;>
    (simp only [portUp]; (repeat' split) <;> simp (maxDischargeDepth := 40) (contextual := true) [h])

@[simp] theorem takePortInfo_kept (p : Nat) (info : List Byte) (s : State) :
    (takePortInfo p info s).pending = s.pending ∧ (takePortInfo p info s).now = s.now := by
  simp only [takePortInfo]; (repeat' split) <;> first | (simp; done) | simp_all

@[simp] theorem takePortInfo_mem (p : Nat) (info : List Byte) (s : State) :
    (Memory.wf s.hbm = true → Memory.wf (takePortInfo p info s).hbm = true) ∧
    (Memory.wf s.cellar = true → Memory.wf (takePortInfo p info s).cellar = true) ∧
    (Memory.wf s.hostMem = true → Memory.wf (takePortInfo p info s).hostMem = true) := by
  refine ⟨fun h => ?_, fun h => ?_, fun h => ?_⟩ <;>
    (simp only [takePortInfo]; (repeat' split) <;> simp (maxDischargeDepth := 40) (contextual := true) [h])

@[simp] theorem takeLink_kept (p : Nat) (x : Slab) (s : State) :
    (takeLink p x s).pending = s.pending ∧ (takeLink p x s).now = s.now := by
  simp only [takeLink]; (repeat' split) <;> first | (simp; done) | simp_all

@[simp] theorem takeLink_mem (p : Nat) (x : Slab) (s : State) :
    (Memory.wf s.hbm = true → Memory.wf (takeLink p x s).hbm = true) ∧
    (Memory.wf s.cellar = true → Memory.wf (takeLink p x s).cellar = true) ∧
    (Memory.wf s.hostMem = true → Memory.wf (takeLink p x s).hostMem = true) := by
  refine ⟨fun h => ?_, fun h => ?_, fun h => ?_⟩ <;>
    (simp only [takeLink]; (repeat' split) <;> simp (maxDischargeDepth := 40) (contextual := true) [h])

@[simp] theorem sendNak_kept (p : Nat) (s : State) :
    (sendNak p s).pending = s.pending ∧ (sendNak p s).now = s.now ∧ (sendNak p s).hbm = s.hbm ∧
    (sendNak p s).cellar = s.cellar ∧ (sendNak p s).hostMem = s.hostMem := by
  simp only [sendNak]; (repeat' split) <;> first | (simp; done) | simp_all

@[simp] theorem noteNotice_kept (x : Slab) (s : State) :
    (noteNotice x s).pending = s.pending ∧ (noteNotice x s).now = s.now ∧ (noteNotice x s).hbm = s.hbm ∧
    (noteNotice x s).cellar = s.cellar ∧ (noteNotice x s).hostMem = s.hostMem := by
  simp only [noteNotice]; (repeat' split) <;> first | (simp; done) | simp_all

@[simp] theorem silencePartner_kept (addr : Nat) (s : State) :
    (silencePartner addr s).pending = s.pending ∧ (silencePartner addr s).now = s.now := by
  simp only [silencePartner]; exact forEach_kept _ _ _ fun a u => by (repeat' split) <;> simp

@[simp] theorem silencePartner_mem (addr : Nat) (s : State) :
    (Memory.wf s.hbm = true → Memory.wf (silencePartner addr s).hbm = true) ∧
    (Memory.wf s.cellar = true → Memory.wf (silencePartner addr s).cellar = true) ∧
    (Memory.wf s.hostMem = true → Memory.wf (silencePartner addr s).hostMem = true) := by
  refine ⟨fun h => ?_, fun h => ?_, fun h => ?_⟩ <;> simp only [silencePartner]
  · exact forEach_hbm_wf _ _ _ (fun a u k => by (repeat' split) <;> simp [k]) h
  · exact forEach_cellar_wf _ _ _ (fun a u k => by (repeat' split) <;> simp [k]) h
  · exact forEach_hostMem_wf _ _ _ (fun a u k => by (repeat' split) <;> simp [k]) h

@[simp] theorem takeNotice_kept (x : Slab) (s : State) :
    (takeNotice x s).pending = s.pending ∧ (takeNotice x s).now = s.now := by
  simp only [takeNotice]; (repeat' split) <;> first | (simp; done) | simp_all

@[simp] theorem takeNotice_mem (x : Slab) (s : State) :
    (Memory.wf s.hbm = true → Memory.wf (takeNotice x s).hbm = true) ∧
    (Memory.wf s.cellar = true → Memory.wf (takeNotice x s).cellar = true) ∧
    (Memory.wf s.hostMem = true → Memory.wf (takeNotice x s).hostMem = true) := by
  refine ⟨fun h => ?_, fun h => ?_, fun h => ?_⟩ <;>
    (simp only [takeNotice]; (repeat' split) <;> simp (maxDischargeDepth := 40) (contextual := true) [h])

@[simp] theorem consume_kept (x : Slab) (s : State) :
    (consume x s).pending = s.pending ∧ (consume x s).now = s.now := by
  simp only [consume]; (repeat' split) <;> first | (simp; done) | simp_all

@[simp] theorem consume_mem (x : Slab) (s : State) :
    (Memory.wf s.hbm = true → Memory.wf (consume x s).hbm = true) ∧
    (Memory.wf s.cellar = true → Memory.wf (consume x s).cellar = true) ∧
    (Memory.wf s.hostMem = true → Memory.wf (consume x s).hostMem = true) := by
  refine ⟨fun h => ?_, fun h => ?_, fun h => ?_⟩ <;>
    (simp only [consume]; (repeat' split) <;> simp (maxDischargeDepth := 40) (contextual := true) [h])

@[simp] theorem toSwitch_kept (x : Slab) (s : State) :
    (toSwitch x s).pending = s.pending ∧ (toSwitch x s).now = s.now := by
  simp only [toSwitch]; (repeat' split) <;> first | (simp; done) | simp_all

@[simp] theorem toSwitch_mem (x : Slab) (s : State) :
    (Memory.wf s.hbm = true → Memory.wf (toSwitch x s).hbm = true) ∧
    (Memory.wf s.cellar = true → Memory.wf (toSwitch x s).cellar = true) ∧
    (Memory.wf s.hostMem = true → Memory.wf (toSwitch x s).hostMem = true) := by
  refine ⟨fun h => ?_, fun h => ?_, fun h => ?_⟩ <;>
    (simp only [toSwitch]; (repeat' split) <;> simp (maxDischargeDepth := 40) (contextual := true) [h])

@[simp] theorem dropSlab_kept (x : Slab) (s : State) :
    (dropSlab x s).pending = s.pending ∧ (dropSlab x s).now = s.now := by
  simp only [dropSlab]; (repeat' split) <;> first | (simp; done) | simp_all

@[simp] theorem dropSlab_mem (x : Slab) (s : State) :
    (Memory.wf s.hbm = true → Memory.wf (dropSlab x s).hbm = true) ∧
    (Memory.wf s.cellar = true → Memory.wf (dropSlab x s).cellar = true) ∧
    (Memory.wf s.hostMem = true → Memory.wf (dropSlab x s).hostMem = true) := by
  refine ⟨fun h => ?_, fun h => ?_, fun h => ?_⟩ <;>
    (simp only [dropSlab]; (repeat' split) <;> simp (maxDischargeDepth := 40) (contextual := true) [h])

@[simp] theorem forwardTouch_kept (x : Slab) (s : State) :
    (forwardTouch x s).pending = s.pending ∧ (forwardTouch x s).now = s.now ∧ (forwardTouch x s).hbm = s.hbm ∧
    (forwardTouch x s).cellar = s.cellar ∧ (forwardTouch x s).hostMem = s.hostMem := by
  simp only [forwardTouch]; (repeat' split) <;> first | (simp; done) | simp_all

@[simp] theorem forwardSlab_kept (x : Slab) (s : State) :
    (forwardSlab x s).pending = s.pending ∧ (forwardSlab x s).now = s.now := by
  simp only [forwardSlab]; (repeat' split) <;> first | (simp; done) | simp_all

@[simp] theorem forwardSlab_mem (x : Slab) (s : State) :
    (Memory.wf s.hbm = true → Memory.wf (forwardSlab x s).hbm = true) ∧
    (Memory.wf s.cellar = true → Memory.wf (forwardSlab x s).cellar = true) ∧
    (Memory.wf s.hostMem = true → Memory.wf (forwardSlab x s).hostMem = true) := by
  refine ⟨fun h => ?_, fun h => ?_, fun h => ?_⟩ <;>
    (simp only [forwardSlab]; (repeat' split) <;> simp (maxDischargeDepth := 40) (contextual := true) [h])

@[simp] theorem execSlabForward_kept (t : Nat) (s : State) :
    Keeps (execSlabForward t s) s.pending (max s.now t) := by
  simp only [execSlabForward]; (repeat' split) <;> first | (simp; done) | simp_all

theorem execSlabForward_mem (t : Nat) (s : State) (h : MemOk s) :
    EndsOk (execSlabForward t s) := by
  simp only [execSlabForward]; (repeat' split) <;> simp (maxDischargeDepth := 40) (contextual := true) [h.1, h.2.1, h.2.2]

@[simp] theorem noteInjection_kept (p : Nat) (s : State) :
    (noteInjection p s).pending = s.pending ∧ (noteInjection p s).now = s.now ∧ (noteInjection p s).hbm = s.hbm ∧
    (noteInjection p s).cellar = s.cellar ∧ (noteInjection p s).hostMem = s.hostMem := by
  simp only [noteInjection]; (repeat' split) <;> first | (simp; done) | simp_all

@[simp] theorem releaseHeld_kept (p : Nat) (s : State) :
    (releaseHeld p s).pending = s.pending ∧ (releaseHeld p s).now = s.now := by
  simp only [releaseHeld]; (repeat' split) <;> first | (simp; done) | simp_all

@[simp] theorem releaseHeld_mem (p : Nat) (s : State) :
    (Memory.wf s.hbm = true → Memory.wf (releaseHeld p s).hbm = true) ∧
    (Memory.wf s.cellar = true → Memory.wf (releaseHeld p s).cellar = true) ∧
    (Memory.wf s.hostMem = true → Memory.wf (releaseHeld p s).hostMem = true) := by
  refine ⟨fun h => ?_, fun h => ?_, fun h => ?_⟩ <;>
    (simp only [releaseHeld]; (repeat' split) <;> simp (maxDischargeDepth := 40) (contextual := true) [h])

@[simp] theorem passAccepted_kept (p : Nat) (hold : Bool) (x : Slab) (s : State) :
    (passAccepted p hold x s).pending = s.pending ∧ (passAccepted p hold x s).now = s.now := by
  simp only [passAccepted]; (repeat' split) <;> first | (simp; done) | simp_all

@[simp] theorem passAccepted_mem (p : Nat) (hold : Bool) (x : Slab) (s : State) :
    (Memory.wf s.hbm = true → Memory.wf (passAccepted p hold x s).hbm = true) ∧
    (Memory.wf s.cellar = true → Memory.wf (passAccepted p hold x s).cellar = true) ∧
    (Memory.wf s.hostMem = true → Memory.wf (passAccepted p hold x s).hostMem = true) := by
  refine ⟨fun h => ?_, fun h => ?_, fun h => ?_⟩ <;>
    (simp only [passAccepted]; (repeat' split) <;> simp (maxDischargeDepth := 40) (contextual := true) [h])

@[simp] theorem execInjectorTrigger_kept (t : Nat) (port : Fin 16) (s : State) :
    Keeps (execInjectorTrigger t port s) s.pending (max s.now t) := by
  simp only [execInjectorTrigger]; (repeat' split) <;> first | (simp; done) | simp_all

theorem execInjectorTrigger_mem (t : Nat) (port : Fin 16) (s : State) (h : MemOk s) :
    EndsOk (execInjectorTrigger t port s) := by
  simp only [execInjectorTrigger]; (repeat' split) <;> simp (maxDischargeDepth := 40) (contextual := true) [h.1, h.2.1, h.2.2]

@[simp] theorem execReorderHoldExpire_kept (t : Nat) (port : Fin 16) (s : State) :
    Keeps (execReorderHoldExpire t port s) s.pending (max s.now t) := by
  simp only [execReorderHoldExpire]; (repeat' split) <;> first | (simp; done) | simp_all

theorem execReorderHoldExpire_mem (t : Nat) (port : Fin 16) (s : State) (h : MemOk s) :
    EndsOk (execReorderHoldExpire t port s) := by
  simp only [execReorderHoldExpire]; (repeat' split) <;> simp (maxDischargeDepth := 40) (contextual := true) [h.1, h.2.1, h.2.2]

@[simp] theorem takeSequenced_kept (p : Nat) (bs : List Byte) (pass hold : Bool) (s : State) :
    (takeSequenced p bs pass hold s).pending = s.pending ∧ (takeSequenced p bs pass hold s).now = s.now := by
  simp only [takeSequenced]; (repeat' split) <;> first | (simp; done) | simp_all

@[simp] theorem takeSequenced_mem (p : Nat) (bs : List Byte) (pass hold : Bool) (s : State) :
    (Memory.wf s.hbm = true → Memory.wf (takeSequenced p bs pass hold s).hbm = true) ∧
    (Memory.wf s.cellar = true → Memory.wf (takeSequenced p bs pass hold s).cellar = true) ∧
    (Memory.wf s.hostMem = true → Memory.wf (takeSequenced p bs pass hold s).hostMem = true) := by
  refine ⟨fun h => ?_, fun h => ?_, fun h => ?_⟩ <;>
    (simp only [takeSequenced]; (repeat' split) <;> simp (maxDischargeDepth := 40) (contextual := true) [h])

@[simp] theorem linkReceive_kept (p : Nat) (bs : List Byte) (fecOk pass hold : Bool) (s : State) :
    (linkReceive p bs fecOk pass hold s).pending = s.pending ∧ (linkReceive p bs fecOk pass hold s).now = s.now := by
  simp only [linkReceive]; (repeat' split) <;> first | (simp; done) | simp_all

@[simp] theorem linkReceive_mem (p : Nat) (bs : List Byte) (fecOk pass hold : Bool) (s : State) :
    (Memory.wf s.hbm = true → Memory.wf (linkReceive p bs fecOk pass hold s).hbm = true) ∧
    (Memory.wf s.cellar = true → Memory.wf (linkReceive p bs fecOk pass hold s).cellar = true) ∧
    (Memory.wf s.hostMem = true → Memory.wf (linkReceive p bs fecOk pass hold s).hostMem = true) := by
  refine ⟨fun h => ?_, fun h => ?_, fun h => ?_⟩ <;>
    (simp only [linkReceive]; (repeat' split) <;> simp (maxDischargeDepth := 40) (contextual := true) [h])

@[simp] theorem execSlabReceive_kept (t : Nat) (port : Fin 16) (bytes : List Byte) (corrected uncorrectable : Nat) (s : State) :
    Keeps (execSlabReceive t port bytes corrected uncorrectable s) s.pending (max s.now t) := by
  simp only [execSlabReceive]; (repeat' split) <;> first | (simp; done) | simp_all

theorem execSlabReceive_mem (t : Nat) (port : Fin 16) (bytes : List Byte) (corrected uncorrectable : Nat) (s : State) (h : MemOk s) :
    EndsOk (execSlabReceive t port bytes corrected uncorrectable s) := by
  simp only [execSlabReceive]; (repeat' split) <;> simp (maxDischargeDepth := 40) (contextual := true) [h.1, h.2.1, h.2.2]

end Sys2Proof.Machine
end

