-- ==== Sys2Proof/Laws/FramesLife.lean ====
section
/-! SUPPORT. What each operation leaves as it was: the queue, local time and the memories it does not write; and that
the memories it writes stay canonical.  This file: life states, the drop sequences, records, the boundary and the start of host work. -/

namespace Sys2Proof.Machine

@[simp] theorem execKioskStart_kept (t slotAddr : Nat) (s : State) :
    Keeps (execKioskStart t slotAddr s) s.pending (max s.now t) := by
  simp only [execKioskStart]; (repeat' split) <;> first | (simp; done) | simp_all

theorem execKioskStart_mem (t slotAddr : Nat) (s : State) (h : MemOk s) :
    EndsOk (execKioskStart t slotAddr s) := by
  simp only [execKioskStart]; (repeat' split) <;> simp (maxDischargeDepth := 40) (contextual := true) [h.1, h.2.1, h.2.2]

@[simp] theorem execStandbyPowerLoss_kept (t : Nat) (s : State) :
    Keeps (execStandbyPowerLoss t s) s.pending (max s.now t) := by
  simp only [execStandbyPowerLoss]; (repeat' split) <;> first | (simp; done) | simp_all

theorem execStandbyPowerLoss_mem (t : Nat) (s : State) (h : MemOk s) :
    EndsOk (execStandbyPowerLoss t s) := by
  simp only [execStandbyPowerLoss]; (repeat' split) <;> simp (maxDischargeDepth := 40) (contextual := true) [h.1, h.2.1, h.2.2]

@[simp] theorem execEarlyNChange_kept (t : Nat) (asserted : Bool) (s : State) :
    Keeps (execEarlyNChange t asserted s) s.pending (max s.now t) := by
  simp only [execEarlyNChange]; (repeat' split) <;> first | (simp; done) | simp_all

theorem execEarlyNChange_mem (t : Nat) (asserted : Bool) (s : State) (h : MemOk s) :
    EndsOk (execEarlyNChange t asserted s) := by
  simp only [execEarlyNChange]; (repeat' split) <;> simp (maxDischargeDepth := 40) (contextual := true) [h.1, h.2.1, h.2.2]

@[simp] theorem execPrsntNChange_kept (t : Nat) (asserted : Bool) (s : State) :
    Keeps (execPrsntNChange t asserted s) s.pending (max s.now t) := by
  simp only [execPrsntNChange]; (repeat' split) <;> first | (simp; done) | simp_all

theorem execPrsntNChange_mem (t : Nat) (asserted : Bool) (s : State) (h : MemOk s) :
    EndsOk (execPrsntNChange t asserted s) := by
  simp only [execPrsntNChange]; (repeat' split) <;> simp (maxDischargeDepth := 40) (contextual := true) [h.1, h.2.1, h.2.2]

@[simp] theorem execStartQualified_kept (t : Nat) (s : State) :
    Keeps (execStartQualified t s) s.pending (max s.now t) := by
  simp only [execStartQualified]; (repeat' split) <;> first | (simp; done) | simp_all

theorem execStartQualified_mem (t : Nat) (s : State) (h : MemOk s) :
    EndsOk (execStartQualified t s) := by
  simp only [execStartQualified]; (repeat' split) <;> simp (maxDischargeDepth := 40) (contextual := true) [h.1, h.2.1, h.2.2]

@[simp] theorem acceptDeparture_kept (code : Nat) (s : State) :
    (acceptDeparture code s).pending = s.pending ∧ (acceptDeparture code s).now = s.now := by
  simp only [acceptDeparture]; (repeat' split) <;> first | (simp; done) | simp_all

@[simp] theorem acceptDeparture_mem (code : Nat) (s : State) :
    (Memory.wf s.hbm = true → Memory.wf (acceptDeparture code s).hbm = true) ∧
    (Memory.wf s.cellar = true → Memory.wf (acceptDeparture code s).cellar = true) ∧
    (Memory.wf s.hostMem = true → Memory.wf (acceptDeparture code s).hostMem = true) := by
  refine ⟨fun h => ?_, fun h => ?_, fun h => ?_⟩ <;>
    (simp only [acceptDeparture]; (repeat' split) <;> simp (maxDischargeDepth := 40) (contextual := true) [h])

@[simp] theorem clearDeparture_kept (s : State) :
    (clearDeparture s).pending = s.pending ∧ (clearDeparture s).now = s.now ∧ (clearDeparture s).hbm = s.hbm ∧
    (clearDeparture s).cellar = s.cellar ∧ (clearDeparture s).hostMem = s.hostMem := by
  simp only [clearDeparture]; (repeat' split) <;> first | (simp; done) | simp_all

@[simp] theorem requestDeparture_kept (code : Nat) (s : State) :
    (requestDeparture code s).pending = s.pending ∧ (requestDeparture code s).now = s.now := by
  simp only [requestDeparture]; (repeat' split) <;> first | (simp; done) | simp_all

@[simp] theorem requestDeparture_mem (code : Nat) (s : State) :
    (Memory.wf s.hbm = true → Memory.wf (requestDeparture code s).hbm = true) ∧
    (Memory.wf s.cellar = true → Memory.wf (requestDeparture code s).cellar = true) ∧
    (Memory.wf s.hostMem = true → Memory.wf (requestDeparture code s).hostMem = true) := by
  refine ⟨fun h => ?_, fun h => ?_, fun h => ?_⟩ <;>
    (simp only [requestDeparture]; (repeat' split) <;> simp (maxDischargeDepth := 40) (contextual := true) [h])

@[simp] theorem cancelDeparture_kept (s : State) :
    (cancelDeparture s).pending = s.pending ∧ (cancelDeparture s).now = s.now ∧ (cancelDeparture s).hbm = s.hbm ∧
    (cancelDeparture s).cellar = s.cellar ∧ (cancelDeparture s).hostMem = s.hostMem := by
  simp only [cancelDeparture]; (repeat' split) <;> first | (simp; done) | simp_all

@[simp] theorem execLatchOpen_kept (t : Nat) (s : State) :
    Keeps (execLatchOpen t s) s.pending (max s.now t) := by
  simp only [execLatchOpen]; (repeat' split) <;> first | (simp; done) | simp_all

theorem execLatchOpen_mem (t : Nat) (s : State) (h : MemOk s) :
    EndsOk (execLatchOpen t s) := by
  simp only [execLatchOpen]; (repeat' split) <;> simp (maxDischargeDepth := 40) (contextual := true) [h.1, h.2.1, h.2.2]

@[simp] theorem execLatchClose_kept (t : Nat) (s : State) :
    Keeps (execLatchClose t s) s.pending (max s.now t) := by
  simp only [execLatchClose]; (repeat' split) <;> first | (simp; done) | simp_all

theorem execLatchClose_mem (t : Nat) (s : State) (h : MemOk s) :
    EndsOk (execLatchClose t s) := by
  simp only [execLatchClose]; (repeat' split) <;> simp (maxDischargeDepth := 40) (contextual := true) [h.1, h.2.1, h.2.2]

@[simp] theorem execPrechargeComplete_kept (t : Nat) (s : State) :
    Keeps (execPrechargeComplete t s) s.pending (max s.now t) := by
  simp only [execPrechargeComplete]; (repeat' split) <;> first | (simp; done) | simp_all

theorem execPrechargeComplete_mem (t : Nat) (s : State) (h : MemOk s) :
    EndsOk (execPrechargeComplete t s) := by
  simp only [execPrechargeComplete]; (repeat' split) <;> simp (maxDischargeDepth := 40) (contextual := true) [h.1, h.2.1, h.2.2]

@[simp] theorem flushLaunches_kept (s : State) :
    (flushLaunches s).pending = s.pending ∧ (flushLaunches s).now = s.now ∧ (flushLaunches s).cellar = s.cellar := by
  simp only [flushLaunches]; (repeat' split) <;> first | (simp; done) | simp_all

@[simp] theorem flushLaunches_mem (s : State) :
    (Memory.wf s.hbm = true → Memory.wf (flushLaunches s).hbm = true) ∧
    (Memory.wf s.hostMem = true → Memory.wf (flushLaunches s).hostMem = true) := by
  refine ⟨fun h => ?_, fun h => ?_⟩ <;>
    (simp only [flushLaunches]; (repeat' split) <;> simp (maxDischargeDepth := 40) (contextual := true) [h])

@[simp] theorem execDepartInstant_kept (t : Nat) (s : State) :
    Keeps (execDepartInstant t s) s.pending (max s.now t) := by
  simp only [execDepartInstant]; (repeat' split) <;> first | (simp; done) | simp_all

theorem execDepartInstant_mem (t : Nat) (s : State) (h : MemOk s) :
    EndsOk (execDepartInstant t s) := by
  simp only [execDepartInstant]; (repeat' split) <;> simp (maxDischargeDepth := 40) (contextual := true) [h.1, h.2.1, h.2.2]

@[simp] theorem leaveGroups_kept (s : State) :
    (leaveGroups s).pending = s.pending ∧ (leaveGroups s).now = s.now ∧ (leaveGroups s).cellar = s.cellar := by
  simp only [leaveGroups]; (repeat' split) <;> first | (simp; done) | simp_all

@[simp] theorem leaveGroups_mem (s : State) :
    (Memory.wf s.hbm = true → Memory.wf (leaveGroups s).hbm = true) ∧
    (Memory.wf s.hostMem = true → Memory.wf (leaveGroups s).hostMem = true) := by
  refine ⟨fun h => ?_, fun h => ?_⟩ <;>
    (simp only [leaveGroups]; (repeat' split) <;> simp (maxDischargeDepth := 40) (contextual := true) [h])

@[simp] theorem leaveAfterDrain_kept (s : State) :
    (leaveAfterDrain s).pending = s.pending ∧ (leaveAfterDrain s).now = s.now ∧ (leaveAfterDrain s).cellar = s.cellar := by
  simp only [leaveAfterDrain]; (repeat' split) <;> first | (simp; done) | simp_all

@[simp] theorem leaveAfterDrain_mem (s : State) :
    (Memory.wf s.hbm = true → Memory.wf (leaveAfterDrain s).hbm = true) ∧
    (Memory.wf s.hostMem = true → Memory.wf (leaveAfterDrain s).hostMem = true) := by
  refine ⟨fun h => ?_, fun h => ?_⟩ <;>
    (simp only [leaveAfterDrain]; (repeat' split) <;> simp (maxDischargeDepth := 40) (contextual := true) [h])

@[simp] theorem execDrainComplete_kept (t : Nat) (s : State) :
    Keeps (execDrainComplete t s) s.pending (max s.now t) := by
  simp only [execDrainComplete]; (repeat' split) <;> first | (simp; done) | simp_all

theorem execDrainComplete_mem (t : Nat) (s : State) (h : MemOk s) :
    EndsOk (execDrainComplete t s) := by
  simp only [execDrainComplete]; (repeat' split) <;> simp (maxDischargeDepth := 40) (contextual := true) [h.1, h.2.1, h.2.2]

@[simp] theorem execDrainTimeout_kept (t : Nat) (s : State) :
    Keeps (execDrainTimeout t s) s.pending (max s.now t) := by
  simp only [execDrainTimeout]; (repeat' split) <;> first | (simp; done) | simp_all

theorem execDrainTimeout_mem (t : Nat) (s : State) (h : MemOk s) :
    EndsOk (execDrainTimeout t s) := by
  simp only [execDrainTimeout]; (repeat' split) <;> simp (maxDischargeDepth := 40) (contextual := true) [h.1, h.2.1, h.2.2]

@[simp] theorem loadTiles_kept (s : State) :
    (loadTiles s).pending = s.pending ∧ (loadTiles s).now = s.now ∧ (loadTiles s).hbm = s.hbm ∧
    (loadTiles s).cellar = s.cellar ∧ (loadTiles s).hostMem = s.hostMem := by
  simp only [loadTiles]; (repeat' split) <;> first | (simp; done) | simp_all

@[simp] theorem enterVerdict_kept (s : State) :
    (enterVerdict s).pending = s.pending ∧ (enterVerdict s).now = s.now ∧ (enterVerdict s).hostMem = s.hostMem := by
  simp only [enterVerdict]; (repeat' split) <;> first | (simp; done) | simp_all

@[simp] theorem enterVerdict_mem (s : State) :
    (Memory.wf s.hbm = true → Memory.wf (enterVerdict s).hbm = true) ∧
    (Memory.wf s.cellar = true → Memory.wf (enterVerdict s).cellar = true) := by
  refine ⟨fun h => ?_, fun h => ?_⟩ <;>
    (simp only [enterVerdict]; (repeat' split) <;> simp (maxDischargeDepth := 40) (contextual := true) [h])

@[simp] theorem execStationFwVerified_kept (t : Nat) (aOk bOk : Bool) (s : State) :
    Keeps (execStationFwVerified t s aOk bOk) s.pending (max s.now t) := by
  simp only [execStationFwVerified]; (repeat' split) <;> first | (simp; done) | simp_all

theorem execStationFwVerified_mem (t : Nat) (aOk bOk : Bool) (s : State) (h : MemOk s) :
    EndsOk (execStationFwVerified t s aOk bOk) := by
  simp only [execStationFwVerified]; (repeat' split) <;> simp (maxDischargeDepth := 40) (contextual := true) [h.1, h.2.1, h.2.2]

@[simp] theorem clearTestedFences_kept (f : Findings) (cores : List Nat) (s : State) :
    (clearTestedFences f cores s).pending = s.pending ∧ (clearTestedFences f cores s).now = s.now ∧
    (clearTestedFences f cores s).hbm = s.hbm ∧ (clearTestedFences f cores s).cellar = s.cellar ∧
    (clearTestedFences f cores s).hostMem = s.hostMem := by
  simp only [clearTestedFences]; (repeat' split) <;> first | (simp; done) | simp_all

@[simp] theorem decideTiles_kept (f : Findings) (s : State) :
    (decideTiles f s).pending = s.pending ∧ (decideTiles f s).now = s.now ∧ (decideTiles f s).hbm = s.hbm ∧
    (decideTiles f s).cellar = s.cellar ∧ (decideTiles f s).hostMem = s.hostMem := by
  simp only [decideTiles]; (repeat' split) <;> first | (simp; done) | simp_all

@[simp] theorem decideMemory_kept (f : Findings) (s : State) :
    (decideMemory f s).pending = s.pending ∧ (decideMemory f s).now = s.now ∧ (decideMemory f s).hbm = s.hbm ∧
    (decideMemory f s).hostMem = s.hostMem := by
  simp only [decideMemory]; (repeat' split) <;> first | (simp; done) | simp_all

@[simp] theorem decideMemory_mem (f : Findings) (s : State) :
    (Memory.wf s.cellar = true → Memory.wf (decideMemory f s).cellar = true) := by
  intro h; simp only [decideMemory]; (repeat' split) <;> simp (maxDischargeDepth := 40) (contextual := true) [h]

@[simp] theorem decideArrays_kept (f : Findings) (s : State) :
    (decideArrays f s).pending = s.pending ∧ (decideArrays f s).now = s.now ∧ (decideArrays f s).hbm = s.hbm ∧
    (decideArrays f s).cellar = s.cellar ∧ (decideArrays f s).hostMem = s.hostMem := by
  simp only [decideArrays]; (repeat' split) <;> first | (simp; done) | simp_all

@[simp] theorem execVerdictComplete_kept (t : Nat) (res : TestResults) (s : State) :
    Keeps (execVerdictComplete t res s) s.pending (max s.now t) := by
  simp only [execVerdictComplete]; (repeat' split) <;> first | (simp; done) | simp_all

theorem execVerdictComplete_mem (t : Nat) (res : TestResults) (s : State) (h : MemOk s) :
    EndsOk (execVerdictComplete t res s) := by
  simp only [execVerdictComplete]; (repeat' split) <;> simp (maxDischargeDepth := 40) (contextual := true) [h.1, h.2.1, h.2.2]

@[simp] theorem execTrainingComplete_kept (t : Nat) (s : State) :
    Keeps (execTrainingComplete t s) s.pending (max s.now t) := by
  simp only [execTrainingComplete]; (repeat' split) <;> first | (simp; done) | simp_all

theorem execTrainingComplete_mem (t : Nat) (s : State) (h : MemOk s) :
    EndsOk (execTrainingComplete t s) := by
  simp only [execTrainingComplete]; (repeat' split) <;> simp (maxDischargeDepth := 40) (contextual := true) [h.1, h.2.1, h.2.2]

@[simp] theorem execResetHoldEnd_kept (t : Nat) (s : State) :
    Keeps (execResetHoldEnd t s) s.pending (max s.now t) := by
  simp only [execResetHoldEnd]; (repeat' split) <;> first | (simp; done) | simp_all

theorem execResetHoldEnd_mem (t : Nat) (s : State) (h : MemOk s) :
    EndsOk (execResetHoldEnd t s) := by
  simp only [execResetHoldEnd]; (repeat' split) <;> simp (maxDischargeDepth := 40) (contextual := true) [h.1, h.2.1, h.2.2]

@[simp] theorem execFullResetRequest_kept (t : Nat) (s : State) :
    Keeps (execFullResetRequest t s) s.pending (max s.now t) := by
  simp only [execFullResetRequest]; (repeat' split) <;> first | (simp; done) | simp_all

theorem execFullResetRequest_mem (t : Nat) (s : State) (h : MemOk s) :
    EndsOk (execFullResetRequest t s) := by
  simp only [execFullResetRequest]; (repeat' split) <;> simp (maxDischargeDepth := 40) (contextual := true) [h.1, h.2.1, h.2.2]

@[simp] theorem execPerstAssert_kept (t heldNs : Nat) (s : State) :
    Keeps (execPerstAssert t heldNs s) s.pending (max s.now t) := by
  simp only [execPerstAssert]; (repeat' split) <;> first | (simp; done) | simp_all

theorem execPerstAssert_mem (t heldNs : Nat) (s : State) (h : MemOk s) :
    EndsOk (execPerstAssert t heldNs s) := by
  simp only [execPerstAssert]; (repeat' split) <;> simp (maxDischargeDepth := 40) (contextual := true) [h.1, h.2.1, h.2.2]

@[simp] theorem execPerstDeassert_kept (t : Nat) (s : State) :
    Keeps (execPerstDeassert t s) s.pending (max s.now t) := by
  simp only [execPerstDeassert]; (repeat' split) <;> first | (simp; done) | simp_all

theorem execPerstDeassert_mem (t : Nat) (s : State) (h : MemOk s) :
    EndsOk (execPerstDeassert t s) := by
  simp only [execPerstDeassert]; (repeat' split) <;> simp (maxDischargeDepth := 40) (contextual := true) [h.1, h.2.1, h.2.2]

@[simp] theorem execHostLinkDown_kept (t : Nat) (s : State) :
    Keeps (execHostLinkDown t s) s.pending (max s.now t) := by
  simp only [execHostLinkDown]; (repeat' split) <;> first | (simp; done) | simp_all

theorem execHostLinkDown_mem (t : Nat) (s : State) (h : MemOk s) :
    EndsOk (execHostLinkDown t s) := by
  simp only [execHostLinkDown]; (repeat' split) <;> simp (maxDischargeDepth := 40) (contextual := true) [h.1, h.2.1, h.2.2]

@[simp] theorem execHotReset_kept (t : Nat) (s : State) :
    Keeps (execHotReset t s) s.pending (max s.now t) := by
  simp only [execHotReset]; (repeat' split) <;> first | (simp; done) | simp_all

theorem execHotReset_mem (t : Nat) (s : State) (h : MemOk s) :
    EndsOk (execHotReset t s) := by
  simp only [execHotReset]; (repeat' split) <;> simp (maxDischargeDepth := 40) (contextual := true) [h.1, h.2.1, h.2.2]

@[simp] theorem execHotResetExit_kept (t : Nat) (s : State) :
    Keeps (execHotResetExit t s) s.pending (max s.now t) := by
  simp only [execHotResetExit]; (repeat' split) <;> first | (simp; done) | simp_all

theorem execHotResetExit_mem (t : Nat) (s : State) (h : MemOk s) :
    EndsOk (execHotResetExit t s) := by
  simp only [execHotResetExit]; (repeat' split) <;> simp (maxDischargeDepth := 40) (contextual := true) [h.1, h.2.1, h.2.2]

@[simp] theorem execResetBtnPress_kept (t : Nat) (s : State) :
    Keeps (execResetBtnPress t s) s.pending (max s.now t) := by
  simp only [execResetBtnPress]; (repeat' split) <;> first | (simp; done) | simp_all

theorem execResetBtnPress_mem (t : Nat) (s : State) (h : MemOk s) :
    EndsOk (execResetBtnPress t s) := by
  simp only [execResetBtnPress]; (repeat' split) <;> simp (maxDischargeDepth := 40) (contextual := true) [h.1, h.2.1, h.2.2]

@[simp] theorem longPress_kept (s : State) (began : LifeState) :
    (longPress s began).pending = s.pending ∧ (longPress s began).now = s.now := by
  simp only [longPress]; (repeat' split) <;> first | (simp; done) | simp_all

@[simp] theorem longPress_mem (s : State) (began : LifeState) :
    (Memory.wf s.hbm = true → Memory.wf (longPress s began).hbm = true) ∧
    (Memory.wf s.cellar = true → Memory.wf (longPress s began).cellar = true) ∧
    (Memory.wf s.hostMem = true → Memory.wf (longPress s began).hostMem = true) := by
  refine ⟨fun h => ?_, fun h => ?_, fun h => ?_⟩ <;>
    (simp only [longPress]; (repeat' split) <;> simp (maxDischargeDepth := 40) (contextual := true) [h])

@[simp] theorem execResetBtnHold_kept (t : Nat) (s : State) :
    Keeps (execResetBtnHold t s) s.pending (max s.now t) := by
  simp only [execResetBtnHold]; (repeat' split) <;> first | (simp; done) | simp_all

theorem execResetBtnHold_mem (t : Nat) (s : State) (h : MemOk s) :
    EndsOk (execResetBtnHold t s) := by
  simp only [execResetBtnHold]; (repeat' split) <;> simp (maxDischargeDepth := 40) (contextual := true) [h.1, h.2.1, h.2.2]

@[simp] theorem endPress_kept (began : LifeState) (len : Nat) (s : State) :
    (endPress began len s).pending = s.pending ∧ (endPress began len s).now = s.now := by
  simp only [endPress]; (repeat' split) <;> first | (simp; done) | simp_all

@[simp] theorem endPress_mem (began : LifeState) (len : Nat) (s : State) :
    (Memory.wf s.hbm = true → Memory.wf (endPress began len s).hbm = true) ∧
    (Memory.wf s.cellar = true → Memory.wf (endPress began len s).cellar = true) ∧
    (Memory.wf s.hostMem = true → Memory.wf (endPress began len s).hostMem = true) := by
  refine ⟨fun h => ?_, fun h => ?_, fun h => ?_⟩ <;>
    (simp only [endPress]; (repeat' split) <;> simp (maxDischargeDepth := 40) (contextual := true) [h])

@[simp] theorem execResetBtnRelease_kept (t : Nat) (s : State) :
    Keeps (execResetBtnRelease t s) s.pending (max s.now t) := by
  simp only [execResetBtnRelease]; (repeat' split) <;> first | (simp; done) | simp_all

theorem execResetBtnRelease_mem (t : Nat) (s : State) (h : MemOk s) :
    EndsOk (execResetBtnRelease t s) := by
  simp only [execResetBtnRelease]; (repeat' split) <;> simp (maxDischargeDepth := 40) (contextual := true) [h.1, h.2.1, h.2.2]

@[simp] theorem execResetStuck_kept (t : Nat) (s : State) :
    Keeps (execResetStuck t s) s.pending (max s.now t) := by
  simp only [execResetStuck]; (repeat' split) <;> first | (simp; done) | simp_all

theorem execResetStuck_mem (t : Nat) (s : State) (h : MemOk s) :
    EndsOk (execResetStuck t s) := by
  simp only [execResetStuck]; (repeat' split) <;> simp (maxDischargeDepth := 40) (contextual := true) [h.1, h.2.1, h.2.2]

@[simp] theorem execResetStuckClear_kept (t : Nat) (s : State) :
    Keeps (execResetStuckClear t s) s.pending (max s.now t) := by
  simp only [execResetStuckClear]; (repeat' split) <;> first | (simp; done) | simp_all

theorem execResetStuckClear_mem (t : Nat) (s : State) (h : MemOk s) :
    EndsOk (execResetStuckClear t s) := by
  simp only [execResetStuckClear]; (repeat' split) <;> simp (maxDischargeDepth := 40) (contextual := true) [h.1, h.2.1, h.2.2]

@[simp] theorem freezeRecords_kept (s : State) :
    (freezeRecords s).pending = s.pending ∧ (freezeRecords s).now = s.now := by
  simp only [freezeRecords]; (repeat' split) <;> first | (simp; done) | simp_all

@[simp] theorem freezeRecords_mem (s : State) :
    (Memory.wf s.hbm = true → Memory.wf (freezeRecords s).hbm = true) ∧
    (Memory.wf s.cellar = true → Memory.wf (freezeRecords s).cellar = true) ∧
    (Memory.wf s.hostMem = true → Memory.wf (freezeRecords s).hostMem = true) := by
  refine ⟨fun h => ?_, fun h => ?_, fun h => ?_⟩ <;>
    (simp only [freezeRecords]; (repeat' split) <;> simp (maxDischargeDepth := 40) (contextual := true) [h])

@[simp] theorem beginDrop_kept (c : DropCause) (s : State) :
    (beginDrop c s).pending = s.pending ∧ (beginDrop c s).now = s.now := by
  simp only [beginDrop]; (repeat' split) <;> first | (simp; done) | simp_all

@[simp] theorem beginDrop_mem (c : DropCause) (s : State) :
    (Memory.wf s.hbm = true → Memory.wf (beginDrop c s).hbm = true) ∧
    (Memory.wf s.cellar = true → Memory.wf (beginDrop c s).cellar = true) ∧
    (Memory.wf s.hostMem = true → Memory.wf (beginDrop c s).hostMem = true) := by
  refine ⟨fun h => ?_, fun h => ?_, fun h => ?_⟩ <;>
    (simp only [beginDrop]; (repeat' split) <;> simp (maxDischargeDepth := 40) (contextual := true) [h])

@[simp] theorem recordDrop_kept (c : DropCause) (s : State) :
    (recordDrop c s).pending = s.pending ∧ (recordDrop c s).now = s.now := by
  simp only [recordDrop]; (repeat' split) <;> first | (simp; done) | simp_all

@[simp] theorem recordDrop_mem (c : DropCause) (s : State) :
    (Memory.wf s.hbm = true → Memory.wf (recordDrop c s).hbm = true) ∧
    (Memory.wf s.cellar = true → Memory.wf (recordDrop c s).cellar = true) ∧
    (Memory.wf s.hostMem = true → Memory.wf (recordDrop c s).hostMem = true) := by
  refine ⟨fun h => ?_, fun h => ?_, fun h => ?_⟩ <;>
    (simp only [recordDrop]; (repeat' split) <;> simp (maxDischargeDepth := 40) (contextual := true) [h])

@[simp] theorem secondCause_kept (c : DropCause) (d : DropSeq) (s : State) :
    (secondCause c d s).pending = s.pending ∧ (secondCause c d s).now = s.now := by
  simp only [secondCause]; (repeat' split) <;> first | (simp; done) | simp_all

@[simp] theorem secondCause_mem (c : DropCause) (d : DropSeq) (s : State) :
    (Memory.wf s.hbm = true → Memory.wf (secondCause c d s).hbm = true) ∧
    (Memory.wf s.cellar = true → Memory.wf (secondCause c d s).cellar = true) ∧
    (Memory.wf s.hostMem = true → Memory.wf (secondCause c d s).hostMem = true) := by
  refine ⟨fun h => ?_, fun h => ?_, fun h => ?_⟩ <;>
    (simp only [secondCause]; (repeat' split) <;> simp (maxDischargeDepth := 40) (contextual := true) [h])

@[simp] theorem declareDrop_kept (c : DropCause) (s : State) :
    (declareDrop c s).pending = s.pending ∧ (declareDrop c s).now = s.now := by
  simp only [declareDrop]; (repeat' split) <;> first | (simp; done) | simp_all

@[simp] theorem declareDrop_mem (c : DropCause) (s : State) :
    (Memory.wf s.hbm = true → Memory.wf (declareDrop c s).hbm = true) ∧
    (Memory.wf s.cellar = true → Memory.wf (declareDrop c s).cellar = true) ∧
    (Memory.wf s.hostMem = true → Memory.wf (declareDrop c s).hostMem = true) := by
  refine ⟨fun h => ?_, fun h => ?_, fun h => ?_⟩ <;>
    (simp only [declareDrop]; (repeat' split) <;> simp (maxDischargeDepth := 40) (contextual := true) [h])

@[simp] theorem execCurfewDeclare_kept (t : Nat) (s : State) :
    Keeps (execCurfewDeclare t s) s.pending (max s.now t) := by
  simp only [execCurfewDeclare]; (repeat' split) <;> first | (simp; done) | simp_all

theorem execCurfewDeclare_mem (t : Nat) (s : State) (h : MemOk s) :
    EndsOk (execCurfewDeclare t s) := by
  simp only [execCurfewDeclare]; (repeat' split) <;> simp (maxDischargeDepth := 40) (contextual := true) [h.1, h.2.1, h.2.2]

@[simp] theorem execRemovalDropBegin_kept (t : Nat) (s : State) :
    Keeps (execRemovalDropBegin t s) s.pending (max s.now t) := by
  simp only [execRemovalDropBegin]; (repeat' split) <;> first | (simp; done) | simp_all

theorem execRemovalDropBegin_mem (t : Nat) (s : State) (h : MemOk s) :
    EndsOk (execRemovalDropBegin t s) := by
  simp only [execRemovalDropBegin]; (repeat' split) <;> simp (maxDischargeDepth := 40) (contextual := true) [h.1, h.2.1, h.2.2]

@[simp] theorem dropEvent_kept (n t : Nat) (f : DropSeq → State → State) (s : State)
    (h : ∀ d u, (f d u).pending = u.pending ∧ (f d u).now = u.now) :
    (dropEvent n t f s).pending = s.pending ∧ (dropEvent n t f s).now = max s.now t := by
  simp only [dropEvent]; (repeat' split) <;> simp [h]

theorem dropEvent_mem (n t : Nat) (f : DropSeq → State → State) (s : State)
    (hf : ∀ d u, MemOk u → MemOk (f d u)) (h : MemOk s) : MemOk (dropEvent n t f s) := by
  simp only [dropEvent]; (repeat' split) <;> first | exact h | exact hf _ _ h

@[simp] theorem execCurfewDepartureNotice_kept (t : Nat) (s : State) :
    Keeps (execCurfewDepartureNotice t s) s.pending (max s.now t) := by
  simp only [execCurfewDepartureNotice]; (repeat' split) <;> first | (simp; done) | simp_all

theorem execCurfewDepartureNotice_mem (t : Nat) (s : State) (h : MemOk s) :
    EndsOk (execCurfewDepartureNotice t s) := by
  simp only [execCurfewDepartureNotice]
  exact dropEvent_mem _ _ _ _ (fun d u k => by
    obtain ⟨k1, k2, k3⟩ := k
    (repeat' split) <;> simp (maxDischargeDepth := 40) (contextual := true) [MemOk, k1, k2, k3]) h

@[simp] theorem execCurfewHalt_kept (t : Nat) (s : State) :
    Keeps (execCurfewHalt t s) s.pending (max s.now t) := by
  simp only [execCurfewHalt]; (repeat' split) <;> first | (simp; done) | simp_all

theorem execCurfewHalt_mem (t : Nat) (s : State) (h : MemOk s) :
    EndsOk (execCurfewHalt t s) := by
  simp only [execCurfewHalt]
  exact dropEvent_mem _ _ _ _ (fun d u k => by
    obtain ⟨k1, k2, k3⟩ := k
    (repeat' split) <;> simp (maxDischargeDepth := 40) (contextual := true) [MemOk, k1, k2, k3]) h

@[simp] theorem execCurfewLogStart_kept (t : Nat) (s : State) :
    Keeps (execCurfewLogStart t s) s.pending (max s.now t) := by
  simp only [execCurfewLogStart]; (repeat' split) <;> first | (simp; done) | simp_all

theorem execCurfewLogStart_mem (t : Nat) (s : State) (h : MemOk s) :
    EndsOk (execCurfewLogStart t s) := by
  simp only [execCurfewLogStart]
  exact dropEvent_mem _ _ _ _ (fun d u k => by
    obtain ⟨k1, k2, k3⟩ := k
    (repeat' split) <;> simp (maxDischargeDepth := 40) (contextual := true) [MemOk, k1, k2, k3]) h

@[simp] theorem execCoreRailsOff_kept (t : Nat) (s : State) :
    Keeps (execCoreRailsOff t s) s.pending (max s.now t) := by
  simp only [execCoreRailsOff]; (repeat' split) <;> first | (simp; done) | simp_all

theorem execCoreRailsOff_mem (t : Nat) (s : State) (h : MemOk s) :
    EndsOk (execCoreRailsOff t s) := by
  simp only [execCoreRailsOff]
  exact dropEvent_mem _ _ _ _ (fun d u k => by
    obtain ⟨k1, k2, k3⟩ := k
    (repeat' split) <;> simp (maxDischargeDepth := 40) (contextual := true) [MemOk, k1, k2, k3]) h

@[simp] theorem execHbmOff_kept (t : Nat) (s : State) :
    Keeps (execHbmOff t s) s.pending (max s.now t) := by
  simp only [execHbmOff]; (repeat' split) <;> first | (simp; done) | simp_all

theorem execHbmOff_mem (t : Nat) (s : State) (h : MemOk s) :
    EndsOk (execHbmOff t s) := by
  simp only [execHbmOff]
  exact dropEvent_mem _ _ _ _ (fun d u k => by
    obtain ⟨k1, k2, k3⟩ := k
    (repeat' split) <;> simp (maxDischargeDepth := 40) (contextual := true) [MemOk, k1, k2, k3]) h

@[simp] theorem execCellarFabricOff_kept (t : Nat) (s : State) :
    Keeps (execCellarFabricOff t s) s.pending (max s.now t) := by
  simp only [execCellarFabricOff]; (repeat' split) <;> first | (simp; done) | simp_all

theorem execCellarFabricOff_mem (t : Nat) (s : State) (h : MemOk s) :
    EndsOk (execCellarFabricOff t s) := by
  simp only [execCellarFabricOff]
  exact dropEvent_mem _ _ _ _ (fun d u k => by
    obtain ⟨k1, k2, k3⟩ := k
    (repeat' split) <;> simp (maxDischargeDepth := 40) (contextual := true) [MemOk, k1, k2, k3]) h

@[simp] theorem execCurfewSwitchOpen_kept (t : Nat) (s : State) :
    Keeps (execCurfewSwitchOpen t s) s.pending (max s.now t) := by
  simp only [execCurfewSwitchOpen]; (repeat' split) <;> first | (simp; done) | simp_all

theorem execCurfewSwitchOpen_mem (t : Nat) (s : State) (h : MemOk s) :
    EndsOk (execCurfewSwitchOpen t s) := by
  simp only [execCurfewSwitchOpen]
  exact dropEvent_mem _ _ _ _ (fun d u k => by
    obtain ⟨k1, k2, k3⟩ := k
    (repeat' split) <;> simp (maxDischargeDepth := 40) (contextual := true) [MemOk, k1, k2, k3]) h

@[simp] theorem appendLogs_kept (rs : List LogRecord) (s : State) :
    (appendLogs rs s).pending = s.pending ∧ (appendLogs rs s).now = s.now := by
  simp only [appendLogs]; (repeat' split) <;> first | (simp; done) | simp_all

@[simp] theorem appendLogs_mem (rs : List LogRecord) (s : State) :
    (Memory.wf s.hbm = true → Memory.wf (appendLogs rs s).hbm = true) ∧
    (Memory.wf s.cellar = true → Memory.wf (appendLogs rs s).cellar = true) ∧
    (Memory.wf s.hostMem = true → Memory.wf (appendLogs rs s).hostMem = true) := by
  refine ⟨fun h => ?_, fun h => ?_, fun h => ?_⟩ <;>
    (simp only [appendLogs]; (repeat' split) <;> simp (maxDischargeDepth := 40) (contextual := true) [h])

@[simp] theorem commitBuffer_kept (s : State) :
    (commitBuffer s).pending = s.pending ∧ (commitBuffer s).now = s.now := by
  simp only [commitBuffer]; (repeat' split) <;> first | (simp; done) | simp_all

@[simp] theorem commitBuffer_mem (s : State) :
    (Memory.wf s.hbm = true → Memory.wf (commitBuffer s).hbm = true) ∧
    (Memory.wf s.cellar = true → Memory.wf (commitBuffer s).cellar = true) ∧
    (Memory.wf s.hostMem = true → Memory.wf (commitBuffer s).hostMem = true) := by
  refine ⟨fun h => ?_, fun h => ?_, fun h => ?_⟩ <;>
    (simp only [commitBuffer]; (repeat' split) <;> simp (maxDischargeDepth := 40) (contextual := true) [h])

@[simp] theorem execEventLogComplete_kept (t : Nat) (s : State) :
    Keeps (execEventLogComplete t s) s.pending (max s.now t) := by
  simp only [execEventLogComplete]; (repeat' split) <;> first | (simp; done) | simp_all

theorem execEventLogComplete_mem (t : Nat) (s : State) (h : MemOk s) :
    EndsOk (execEventLogComplete t s) := by
  simp only [execEventLogComplete]
  exact dropEvent_mem _ _ _ _ (fun d u k => by
    obtain ⟨k1, k2, k3⟩ := k
    (repeat' split) <;> simp (maxDischargeDepth := 40) (contextual := true) [MemOk, k1, k2, k3]) h

@[simp] theorem noteOverrun_kept (s : State) :
    (noteOverrun s).pending = s.pending ∧ (noteOverrun s).now = s.now := by
  simp only [noteOverrun]; (repeat' split) <;> first | (simp; done) | simp_all

@[simp] theorem noteOverrun_mem (s : State) :
    (Memory.wf s.hbm = true → Memory.wf (noteOverrun s).hbm = true) ∧
    (Memory.wf s.cellar = true → Memory.wf (noteOverrun s).cellar = true) ∧
    (Memory.wf s.hostMem = true → Memory.wf (noteOverrun s).hostMem = true) := by
  refine ⟨fun h => ?_, fun h => ?_, fun h => ?_⟩ <;>
    (simp only [noteOverrun]; (repeat' split) <;> simp (maxDischargeDepth := 40) (contextual := true) [h])

@[simp] theorem execLogCommit_kept (t : Nat) (storeOk : Bool) (s : State) :
    Keeps (execLogCommit t storeOk s) s.pending (max s.now t) := by
  simp only [execLogCommit]; (repeat' split) <;> first | (simp; done) | simp_all

theorem execLogCommit_mem (t : Nat) (storeOk : Bool) (s : State) (h : MemOk s) :
    EndsOk (execLogCommit t storeOk s) := by
  simp only [execLogCommit]; (repeat' split) <;> simp (maxDischargeDepth := 40) (contextual := true) [h.1, h.2.1, h.2.2]

@[simp] theorem execRepeatWindowEnd_kept (t cause unitType unit : Nat) (s : State) :
    Keeps (execRepeatWindowEnd t cause unitType unit s) s.pending (max s.now t) := by
  simp only [execRepeatWindowEnd]; (repeat' split) <;> first | (simp; done) | simp_all

theorem execRepeatWindowEnd_mem (t cause unitType unit : Nat) (s : State) (h : MemOk s) :
    EndsOk (execRepeatWindowEnd t cause unitType unit s) := by
  simp only [execRepeatWindowEnd]; (repeat' split) <;> simp (maxDischargeDepth := 40) (contextual := true) [h.1, h.2.1, h.2.2]

@[simp] theorem endStarted_kept (cause : Nat) (s : State) :
    (endStarted cause s).pending = s.pending ∧ (endStarted cause s).now = s.now ∧
    (endStarted cause s).cellar = s.cellar := by
  simp only [endStarted]; (repeat' split) <;> first | (simp; done) | simp_all

@[simp] theorem endStarted_mem (cause : Nat) (s : State) :
    (Memory.wf s.hbm = true → Memory.wf (endStarted cause s).hbm = true) ∧
    (Memory.wf s.hostMem = true → Memory.wf (endStarted cause s).hostMem = true) := by
  refine ⟨fun h => ?_, fun h => ?_⟩ <;>
    (simp only [endStarted]; (repeat' split) <;> simp (maxDischargeDepth := 40) (contextual := true) [h])

@[simp] theorem sledFatal_kept (cause ut unit : Nat) (s : State) :
    (sledFatal cause ut unit s).pending = s.pending ∧ (sledFatal cause ut unit s).now = s.now := by
  simp only [sledFatal]; (repeat' split) <;> first | (simp; done) | simp_all

@[simp] theorem sledFatal_mem (cause ut unit : Nat) (s : State) :
    (Memory.wf s.hbm = true → Memory.wf (sledFatal cause ut unit s).hbm = true) ∧
    (Memory.wf s.cellar = true → Memory.wf (sledFatal cause ut unit s).cellar = true) ∧
    (Memory.wf s.hostMem = true → Memory.wf (sledFatal cause ut unit s).hostMem = true) := by
  refine ⟨fun h => ?_, fun h => ?_, fun h => ?_⟩ <;>
    (simp only [sledFatal]; (repeat' split) <;> simp (maxDischargeDepth := 40) (contextual := true) [h])

@[simp] theorem execStationWatchdogExpire_kept (t : Nat) (core : Fin 4) (machineCheck : Bool) (s : State) :
    Keeps (execStationWatchdogExpire t core machineCheck s) s.pending (max s.now t) := by
  simp only [execStationWatchdogExpire]; (repeat' split) <;> first | (simp; done) | simp_all

theorem execStationWatchdogExpire_mem (t : Nat) (core : Fin 4) (machineCheck : Bool) (s : State) (h : MemOk s) :
    EndsOk (execStationWatchdogExpire t core machineCheck s) := by
  simp only [execStationWatchdogExpire]; (repeat' split) <;> simp (maxDischargeDepth := 40) (contextual := true) [h.1, h.2.1, h.2.2]

@[simp] theorem execUnitWedged_kept (t : Nat) (unit : WedgeUnit) (waitedNs : Nat) (s : State) :
    Keeps (execUnitWedged t unit waitedNs s) s.pending (max s.now t) := by
  simp only [execUnitWedged]; (repeat' split) <;> first | (simp; done) | simp_all

theorem execUnitWedged_mem (t : Nat) (unit : WedgeUnit) (waitedNs : Nat) (s : State) (h : MemOk s) :
    EndsOk (execUnitWedged t unit waitedNs s) := by
  simp only [execUnitWedged]; (repeat' split) <;> simp (maxDischargeDepth := 40) (contextual := true) [h.1, h.2.1, h.2.2]

@[simp] theorem execBridgeFail_kept (t : Nat) (s : State) :
    Keeps (execBridgeFail t s) s.pending (max s.now t) := by
  simp only [execBridgeFail]; (repeat' split) <;> first | (simp; done) | simp_all

theorem execBridgeFail_mem (t : Nat) (s : State) (h : MemOk s) :
    EndsOk (execBridgeFail t s) := by
  simp only [execBridgeFail]; (repeat' split) <;> simp (maxDischargeDepth := 40) (contextual := true) [h.1, h.2.1, h.2.2]

@[simp] theorem sweepFloor_kept (s : State) :
    (sweepFloor s).pending = s.pending ∧ (sweepFloor s).now = s.now ∧ (sweepFloor s).hbm = s.hbm ∧
    (sweepFloor s).cellar = s.cellar ∧ (sweepFloor s).hostMem = s.hostMem := by
  simp only [sweepFloor]; (repeat' split) <;> first | (simp; done) | simp_all

@[simp] theorem startStep_kept (s : State) :
    (startStep s).pending = s.pending ∧ (startStep s).now = s.now ∧ (startStep s).hbm = s.hbm ∧
    (startStep s).cellar = s.cellar ∧ (startStep s).hostMem = s.hostMem := by
  simp only [startStep]; (repeat' split) <;> first | (simp; done) | simp_all

@[simp] theorem shutdownReset_kept (s : State) :
    (shutdownReset s).pending = s.pending ∧ (shutdownReset s).now = s.now ∧ (shutdownReset s).cellar = s.cellar ∧
    (shutdownReset s).hostMem = s.hostMem := by
  simp only [shutdownReset]; (repeat' split) <;> first | (simp; done) | simp_all

@[simp] theorem shutdownReset_mem (s : State) :
    (Memory.wf s.hbm = true → Memory.wf (shutdownReset s).hbm = true) := by
  intro h; simp only [shutdownReset]; (repeat' split) <;> simp (maxDischargeDepth := 40) (contextual := true) [h]

@[simp] theorem descentStep_kept (s : State) :
    (descentStep s).pending = s.pending ∧ (descentStep s).now = s.now ∧ (descentStep s).hostMem = s.hostMem := by
  simp only [descentStep]; (repeat' split) <;> first | (simp; done) | simp_all

@[simp] theorem descentStep_mem (s : State) :
    (Memory.wf s.hbm = true → Memory.wf (descentStep s).hbm = true) ∧
    (Memory.wf s.cellar = true → Memory.wf (descentStep s).cellar = true) := by
  refine ⟨fun h => ?_, fun h => ?_⟩ <;>
    (simp only [descentStep]; (repeat' split) <;> simp (maxDischargeDepth := 40) (contextual := true) [h])

@[simp] theorem supplyStep_kept (s : State) :
    (supplyStep s).pending = s.pending ∧ (supplyStep s).now = s.now ∧ (supplyStep s).hbm = s.hbm ∧
    (supplyStep s).cellar = s.cellar ∧ (supplyStep s).hostMem = s.hostMem := by
  simp only [supplyStep]; (repeat' split) <;> first | (simp; done) | simp_all

@[simp] theorem fabSupply_kept (s : State) :
    (fabSupply s).pending = s.pending ∧ (fabSupply s).now = s.now ∧ (fabSupply s).hbm = s.hbm ∧
    (fabSupply s).cellar = s.cellar ∧ (fabSupply s).hostMem = s.hostMem := by
  simp only [fabSupply]; (repeat' split) <;> first | (simp; done) | simp_all

@[simp] theorem execHalfCycleBoundary_kept (t : Nat) (s : State) :
    Keeps (execHalfCycleBoundary t s) s.pending (max s.now t) := by
  simp only [execHalfCycleBoundary]; (repeat' split) <;> first | (simp; done) | simp_all

theorem execHalfCycleBoundary_mem (t : Nat) (s : State) (h : MemOk s) :
    EndsOk (execHalfCycleBoundary t s) := by
  simp only [execHalfCycleBoundary]; (repeat' split) <;> simp (maxDischargeDepth := 40) (contextual := true) [h.1, h.2.1, h.2.2]

@[simp] theorem peerPages_kept (s : State) (is : List Nat) (need : Nat) :
    (peerPages s is need).2.pending = s.pending ∧ (peerPages s is need).2.now = s.now := by
  induction is generalizing s need with
  | nil => simp [peerPages]
  | cons i rest ih => simp only [peerPages]; split <;> simp [ih, takeFree]

@[simp] theorem peerPages_same (s : State) (is : List Nat) (need : Nat) : (peerPages s is need).2.hbm = s.hbm ∧
    (peerPages s is need).2.cellar = s.cellar ∧ (peerPages s is need).2.hostMem = s.hostMem := by
  induction is generalizing s need with
  | nil => exact ⟨rfl, rfl, rfl⟩
  | cons i rest ih => simp only [peerPages]; split <;> simp [ih, takeFree]

theorem place_kept (s u : State) (h : List Byte) (y : Placement) (k : place s h = some (y, u)) :
    u.pending = s.pending ∧ u.now = s.now := by
  simp only [place] at k
  split at k
  · simp at k
  · split at k
    · simp at k
    · simp at k; rw [← k.2]; exact peerPages_kept _ _ _

theorem place_same (s u : State) (h : List Byte) (y : Placement) (k : place s h = some (y, u)) :
    u.hbm = s.hbm ∧ u.cellar = s.cellar ∧ u.hostMem = s.hostMem := by
  simp only [place] at k
  split at k
  · simp at k
  · split at k
    · simp at k
    · simp at k; rw [← k.2]; exact peerPages_same _ _ _

@[simp] theorem startProgram_kept (q : Nat) (d : Desc) (y : Placement) (s : State) :
    (startProgram q d y s).pending = s.pending ∧ (startProgram q d y s).now = s.now := by
  simp only [startProgram]; (repeat' split) <;> first | (simp; done) | simp_all

@[simp] theorem startProgram_mem (q : Nat) (d : Desc) (y : Placement) (s : State) :
    (Memory.wf s.hbm = true → Memory.wf (startProgram q d y s).hbm = true) ∧
    (Memory.wf s.cellar = true → Memory.wf (startProgram q d y s).cellar = true) ∧
    (Memory.wf s.hostMem = true → Memory.wf (startProgram q d y s).hostMem = true) := by
  refine ⟨fun h => ?_, fun h => ?_, fun h => ?_⟩ <;>
    (simp only [startProgram]; (repeat' split) <;> simp (maxDischargeDepth := 40) (contextual := true) [h])

@[simp] theorem launch_kept (q : Nat) (d : Desc) (s : State) :
    (launch q d s).pending = s.pending ∧ (launch q d s).now = s.now := by
  simp only [launch]
  (repeat' split) <;> first | (simp; done) | (rename_i h; simpa using place_kept _ _ _ _ h)

@[simp] theorem launch_mem (q : Nat) (d : Desc) (s : State) :
    (Memory.wf s.hbm = true → Memory.wf (launch q d s).hbm = true) ∧
    (Memory.wf s.cellar = true → Memory.wf (launch q d s).cellar = true) ∧
    (Memory.wf s.hostMem = true → Memory.wf (launch q d s).hostMem = true) := by
  refine ⟨fun h => ?_, fun h => ?_, fun h => ?_⟩ <;> simp only [launch] <;> (repeat' split) <;> first
    | (simp [h]; done)
    | (rename_i e; simp [place_same _ _ _ _ e, h])

@[simp] theorem signal_kept (q : Nat) (d : Desc) (s : State) :
    (signal q d s).pending = s.pending ∧ (signal q d s).now = s.now := by
  simp only [signal]; (repeat' split) <;> first | (simp; done) | simp_all

@[simp] theorem signal_mem (q : Nat) (d : Desc) (s : State) :
    (Memory.wf s.hbm = true → Memory.wf (signal q d s).hbm = true) ∧
    (Memory.wf s.cellar = true → Memory.wf (signal q d s).cellar = true) ∧
    (Memory.wf s.hostMem = true → Memory.wf (signal q d s).hostMem = true) := by
  refine ⟨fun h => ?_, fun h => ?_, fun h => ?_⟩ <;>
    (simp only [signal]; (repeat' split) <;> simp (maxDischargeDepth := 40) (contextual := true) [h])

@[simp] theorem pollWait_kept (q : Nat) (d : Desc) (s : State) :
    (pollWait q d s).pending = s.pending ∧ (pollWait q d s).now = s.now ∧ (pollWait q d s).cellar = s.cellar := by
  simp only [pollWait]; (repeat' split) <;> first | (simp; done) | simp_all

@[simp] theorem pollWait_mem (q : Nat) (d : Desc) (s : State) :
    (Memory.wf s.hbm = true → Memory.wf (pollWait q d s).hbm = true) ∧
    (Memory.wf s.hostMem = true → Memory.wf (pollWait q d s).hostMem = true) := by
  refine ⟨fun h => ?_, fun h => ?_⟩ <;>
    (simp only [pollWait]; (repeat' split) <;> simp (maxDischargeDepth := 40) (contextual := true) [h])

@[simp] theorem wait_kept (q : Nat) (d : Desc) (s : State) :
    (wait q d s).pending = s.pending ∧ (wait q d s).now = s.now ∧ (wait q d s).cellar = s.cellar := by
  simp only [wait]; (repeat' split) <;> first | (simp; done) | simp_all

@[simp] theorem wait_mem (q : Nat) (d : Desc) (s : State) :
    (Memory.wf s.hbm = true → Memory.wf (wait q d s).hbm = true) ∧
    (Memory.wf s.hostMem = true → Memory.wf (wait q d s).hostMem = true) := by
  refine ⟨fun h => ?_, fun h => ?_⟩ <;>
    (simp only [wait]; (repeat' split) <;> simp (maxDischargeDepth := 40) (contextual := true) [h])

@[simp] theorem startHostWork_kept (q : Nat) (d : Desc) (s : State) :
    (startHostWork q d s).pending = s.pending ∧ (startHostWork q d s).now = s.now := by
  simp only [startHostWork]; (repeat' split) <;> first | (simp; done) | simp_all

@[simp] theorem startHostWork_mem (q : Nat) (d : Desc) (s : State) :
    (Memory.wf s.hbm = true → Memory.wf (startHostWork q d s).hbm = true) ∧
    (Memory.wf s.cellar = true → Memory.wf (startHostWork q d s).cellar = true) ∧
    (Memory.wf s.hostMem = true → Memory.wf (startHostWork q d s).hostMem = true) := by
  refine ⟨fun h => ?_, fun h => ?_, fun h => ?_⟩ <;>
    (simp only [startHostWork]; (repeat' split) <;> simp (maxDischargeDepth := 40) (contextual := true) [h])

@[simp] theorem startNextHostWork_kept (q : Nat) (s : State) :
    (startNextHostWork q s).pending = s.pending ∧ (startNextHostWork q s).now = s.now := by
  have h := admitNext_kept q hostFence s
  simp only [startNextHostWork]; (repeat' split) <;> simp_all

@[simp] theorem startNextHostWork_mem (q : Nat) (s : State) :
    (Memory.wf s.hbm = true → Memory.wf (startNextHostWork q s).hbm = true) ∧
    (Memory.wf s.cellar = true → Memory.wf (startNextHostWork q s).cellar = true) ∧
    (Memory.wf s.hostMem = true → Memory.wf (startNextHostWork q s).hostMem = true) := by
  have k := admitNext_same q hostFence s
  refine ⟨fun h => ?_, fun h => ?_, fun h => ?_⟩ <;> (simp only [startNextHostWork]; (repeat' split) <;> simp_all)

@[simp] theorem startReserved_kept (q : Nat) (s : State) :
    (startReserved q s).pending = s.pending ∧ (startReserved q s).now = s.now := by
  have h := admitNext_kept q fenceSet s
  simp only [startReserved]; (repeat' split) <;> simp_all

@[simp] theorem startReserved_same (q : Nat) (s : State) : (startReserved q s).cellar = s.cellar := by
  have k := admitNext_same q fenceSet s
  simp only [startReserved]; (repeat' split) <;> simp_all

@[simp] theorem startReserved_mem (q : Nat) (s : State) :
    (Memory.wf s.hbm = true → Memory.wf (startReserved q s).hbm = true) ∧
    (Memory.wf s.hostMem = true → Memory.wf (startReserved q s).hostMem = true) := by
  have k := admitNext_same q fenceSet s
  refine ⟨fun h => ?_, fun h => ?_⟩ <;> (simp only [startReserved]; (repeat' split) <;> simp_all)

@[simp] theorem execDescriptorStart_kept (t : Nat) (queue : Fin 4096) (s : State) :
    Keeps (execDescriptorStart t queue s) s.pending (max s.now t) := by
  simp only [execDescriptorStart]; (repeat' split) <;> first | (simp; done) | simp_all

theorem execDescriptorStart_mem (t : Nat) (queue : Fin 4096) (s : State) (h : MemOk s) :
    EndsOk (execDescriptorStart t queue s) := by
  simp only [execDescriptorStart]; (repeat' split) <;> simp (maxDischargeDepth := 40) (contextual := true) [h.1, h.2.1, h.2.2]

@[simp] theorem execWaitPoll_kept (t : Nat) (queue : Fin 4096) (index : Nat) (s : State) :
    Keeps (execWaitPoll t queue index s) s.pending (max s.now t) := by
  simp only [execWaitPoll]; (repeat' split) <;> first | (simp; done) | simp_all

theorem execWaitPoll_mem (t : Nat) (queue : Fin 4096) (index : Nat) (s : State) (h : MemOk s) :
    EndsOk (execWaitPoll t queue index s) := by
  simp only [execWaitPoll]; (repeat' split) <;> simp (maxDischargeDepth := 40) (contextual := true) [h.1, h.2.1, h.2.2]

@[simp] theorem execDescriptorComplete_kept (t : Nat) (queue : Fin 4096) (index : Nat) (s : State) :
    Keeps (execDescriptorComplete t queue index s) s.pending (max s.now t) := by
  simp only [execDescriptorComplete]; (repeat' split) <;> first | (simp; done) | simp_all

theorem execDescriptorComplete_mem (t : Nat) (queue : Fin 4096) (index : Nat) (s : State) (h : MemOk s) :
    EndsOk (execDescriptorComplete t queue index s) := by
  simp only [execDescriptorComplete]; (repeat' split) <;> simp (maxDischargeDepth := 40) (contextual := true) [h.1, h.2.1, h.2.2]

end Sys2Proof.Machine
end

