-- ==== Sys2Proof/Laws/FramesKiosk.lean ====
section
/-! SUPPORT. What each operation leaves as it was: the queue, local time and the memories it does not write; and that
the memories it writes stay canonical.  This file: the dictionary and its transactions. -/

namespace Sys2Proof.Machine

@[simp] theorem afterRead_kept (idx sub : Nat) (s : State) :
    (afterRead idx sub s).pending = s.pending ∧ (afterRead idx sub s).now = s.now ∧
    (afterRead idx sub s).hbm = s.hbm ∧ (afterRead idx sub s).cellar = s.cellar ∧
    (afterRead idx sub s).hostMem = s.hostMem := by
  simp only [afterRead]; (repeat' split) <;> first | (simp; done) | simp_all

@[simp] theorem armGroup_kept (g : Nat) (s : State) :
    (armGroup g s).pending = s.pending ∧ (armGroup g s).now = s.now := by
  have h (a q : Nat) (ps : List Nat) (bs : List Byte) (f : Queue → Queue) (k : Group → Group) :
      (modGroup g k (modQueue q f (hbmWrite a bs (markHbm true ps s)))).pending = s.pending ∧
      (modGroup g k (modQueue q f (hbmWrite a bs (markHbm true ps s)))).now = s.now := by simp
  unfold armGroup; split
  · exact h _ _ _ _ _ _
  · exact ⟨rfl, rfl⟩

@[simp] theorem armGroup_same (g : Nat) (s : State) :
    (armGroup g s).cellar = s.cellar ∧ (armGroup g s).hostMem = s.hostMem := by
  have h (a q : Nat) (ps : List Nat) (bs : List Byte) (f : Queue → Queue) (k : Group → Group) :
      (modGroup g k (modQueue q f (hbmWrite a bs (markHbm true ps s)))).cellar = s.cellar ∧
      (modGroup g k (modQueue q f (hbmWrite a bs (markHbm true ps s)))).hostMem = s.hostMem := by simp
  unfold armGroup; split
  · exact h _ _ _ _ _ _
  · exact ⟨rfl, rfl⟩

@[simp] theorem armGroup_mem (g : Nat) (s : State) (w : Memory.wf s.hbm = true) :
    Memory.wf (armGroup g s).hbm = true := by
  have h (a q : Nat) (ps : List Nat) (bs : List Byte) (f : Queue → Queue) (k : Group → Group) :
      Memory.wf (modGroup g k (modQueue q f (hbmWrite a bs (markHbm true ps s)))).hbm = true := by simp [w]
  unfold armGroup; split
  · exact h _ _ _ _ _ _
  · exact w

@[simp] theorem dissolveGroup_kept (g : Nat) (s : State) :
    (dissolveGroup g s).pending = s.pending ∧ (dissolveGroup g s).now = s.now ∧ (dissolveGroup g s).cellar = s.cellar := by
  simp only [dissolveGroup]; (repeat' split) <;> first | (simp; done) | simp_all

@[simp] theorem dissolveGroup_mem (g : Nat) (s : State) :
    (Memory.wf s.hbm = true → Memory.wf (dissolveGroup g s).hbm = true) ∧
    (Memory.wf s.hostMem = true → Memory.wf (dissolveGroup g s).hostMem = true) := by
  refine ⟨fun h => ?_, fun h => ?_⟩ <;>
    (simp only [dissolveGroup]; (repeat' split) <;> simp (maxDischargeDepth := 40) (contextual := true) [h])

@[simp] theorem releaseReform_kept (g : Nat) (s : State) :
    (releaseReform g s).pending = s.pending ∧ (releaseReform g s).now = s.now ∧ (releaseReform g s).cellar = s.cellar := by
  simp only [releaseReform]; (repeat' split) <;> first | (simp; done) | simp_all

@[simp] theorem releaseReform_mem (g : Nat) (s : State) :
    (Memory.wf s.hbm = true → Memory.wf (releaseReform g s).hbm = true) ∧
    (Memory.wf s.hostMem = true → Memory.wf (releaseReform g s).hostMem = true) := by
  refine ⟨fun h => ?_, fun h => ?_⟩ <;>
    (simp only [releaseReform]; (repeat' split) <;> simp (maxDischargeDepth := 40) (contextual := true) [h])

@[simp] theorem groupEffect_kept (g sub v : Nat) (s : State) :
    (groupEffect g sub v s).pending = s.pending ∧ (groupEffect g sub v s).now = s.now ∧
    (groupEffect g sub v s).cellar = s.cellar := by
  simp only [groupEffect]; (repeat' split) <;> first | (simp; done) | simp_all

@[simp] theorem groupEffect_mem (g sub v : Nat) (s : State) :
    (Memory.wf s.hbm = true → Memory.wf (groupEffect g sub v s).hbm = true) ∧
    (Memory.wf s.hostMem = true → Memory.wf (groupEffect g sub v s).hostMem = true) := by
  refine ⟨fun h => ?_, fun h => ?_⟩ <;>
    (simp only [groupEffect]; (repeat' split) <;> simp (maxDischargeDepth := 40) (contextual := true) [h])

@[simp] theorem writeTarget_kept (v : Nat) (s : State) :
    (writeTarget v s).pending = s.pending ∧ (writeTarget v s).now = s.now := by
  simp only [writeTarget]; (repeat' split) <;> first | (simp; done) | simp_all

@[simp] theorem writeTarget_mem (v : Nat) (s : State) :
    (Memory.wf s.hbm = true → Memory.wf (writeTarget v s).hbm = true) ∧
    (Memory.wf s.cellar = true → Memory.wf (writeTarget v s).cellar = true) ∧
    (Memory.wf s.hostMem = true → Memory.wf (writeTarget v s).hostMem = true) := by
  refine ⟨fun h => ?_, fun h => ?_, fun h => ?_⟩ <;>
    (simp only [writeTarget]; (repeat' split) <;> simp (maxDischargeDepth := 40) (contextual := true) [h])

@[simp] theorem writeDepart_kept (v : Nat) (s : State) :
    (writeDepart v s).pending = s.pending ∧ (writeDepart v s).now = s.now := by
  simp only [writeDepart]; (repeat' split) <;> first | (simp; done) | simp_all

@[simp] theorem writeDepart_mem (v : Nat) (s : State) :
    (Memory.wf s.hbm = true → Memory.wf (writeDepart v s).hbm = true) ∧
    (Memory.wf s.cellar = true → Memory.wf (writeDepart v s).cellar = true) ∧
    (Memory.wf s.hostMem = true → Memory.wf (writeDepart v s).hostMem = true) := by
  refine ⟨fun h => ?_, fun h => ?_, fun h => ?_⟩ <;>
    (simp only [writeDepart]; (repeat' split) <;> simp (maxDischargeDepth := 40) (contextual := true) [h])

@[simp] theorem writeOverride_kept (v : Nat) (s : State) :
    (writeOverride v s).pending = s.pending ∧ (writeOverride v s).now = s.now ∧ (writeOverride v s).hbm = s.hbm ∧
    (writeOverride v s).cellar = s.cellar ∧ (writeOverride v s).hostMem = s.hostMem := by
  simp only [writeOverride]; (repeat' split) <;> first | (simp; done) | simp_all

@[simp] theorem writePortEnable_kept (p : Nat) (s : State) :
    (writePortEnable p s).pending = s.pending ∧ (writePortEnable p s).now = s.now := by
  simp only [writePortEnable]; (repeat' split) <;> first | (simp; done) | simp_all

@[simp] theorem writePortEnable_mem (p : Nat) (s : State) :
    (Memory.wf s.hbm = true → Memory.wf (writePortEnable p s).hbm = true) ∧
    (Memory.wf s.cellar = true → Memory.wf (writePortEnable p s).cellar = true) ∧
    (Memory.wf s.hostMem = true → Memory.wf (writePortEnable p s).hostMem = true) := by
  refine ⟨fun h => ?_, fun h => ?_, fun h => ?_⟩ <;>
    (simp only [writePortEnable]; (repeat' split) <;> simp (maxDischargeDepth := 40) (contextual := true) [h])

@[simp] theorem writeInjArm_kept (p v : Nat) (s : State) :
    (writeInjArm p v s).pending = s.pending ∧ (writeInjArm p v s).now = s.now ∧ (writeInjArm p v s).hbm = s.hbm ∧
    (writeInjArm p v s).cellar = s.cellar ∧ (writeInjArm p v s).hostMem = s.hostMem := by
  simp only [writeInjArm]; (repeat' split) <;> first | (simp; done) | simp_all

@[simp] theorem writeLotCommand_kept (l v : Nat) (s : State) :
    (writeLotCommand l v s).pending = s.pending ∧ (writeLotCommand l v s).now = s.now ∧
    (writeLotCommand l v s).cellar = s.cellar := by
  simp only [writeLotCommand]; (repeat' split) <;> first | (simp; done) | simp_all

@[simp] theorem writeLotCommand_mem (l v : Nat) (s : State) :
    (Memory.wf s.hbm = true → Memory.wf (writeLotCommand l v s).hbm = true) ∧
    (Memory.wf s.hostMem = true → Memory.wf (writeLotCommand l v s).hostMem = true) := by
  refine ⟨fun h => ?_, fun h => ?_⟩ <;>
    (simp only [writeLotCommand]; (repeat' split) <;> simp (maxDischargeDepth := 40) (contextual := true) [h])

@[simp] theorem restoreDefaults_kept (s : State) :
    (restoreDefaults s).pending = s.pending ∧ (restoreDefaults s).now = s.now ∧ (restoreDefaults s).hbm = s.hbm ∧
    (restoreDefaults s).cellar = s.cellar ∧ (restoreDefaults s).hostMem = s.hostMem := by
  simp only [restoreDefaults]; (repeat' split) <;> first | (simp; done) | simp_all

@[simp] theorem followNominal_kept (s : State) :
    (followNominal s).pending = s.pending ∧ (followNominal s).now = s.now ∧ (followNominal s).hbm = s.hbm ∧
    (followNominal s).cellar = s.cellar ∧ (followNominal s).hostMem = s.hostMem := by
  simp only [followNominal]; (repeat' split) <;> first | (simp; done) | simp_all

@[simp] theorem clearErrorLog_kept (s : State) :
    (clearErrorLog s).pending = s.pending ∧ (clearErrorLog s).now = s.now ∧ (clearErrorLog s).hbm = s.hbm ∧
    (clearErrorLog s).cellar = s.cellar ∧ (clearErrorLog s).hostMem = s.hostMem := by
  simp only [clearErrorLog]; (repeat' split) <;> first | (simp; done) | simp_all

@[simp] theorem writeEffect_kept (idx sub v : Nat) (s : State) :
    (writeEffect idx sub v s).pending = s.pending ∧ (writeEffect idx sub v s).now = s.now := by
  simp only [writeEffect]; (repeat' split) <;> first | (simp; done) | simp_all

@[simp] theorem writeEffect_mem (idx sub v : Nat) (s : State) :
    (Memory.wf s.hbm = true → Memory.wf (writeEffect idx sub v s).hbm = true) ∧
    (Memory.wf s.cellar = true → Memory.wf (writeEffect idx sub v s).cellar = true) ∧
    (Memory.wf s.hostMem = true → Memory.wf (writeEffect idx sub v s).hostMem = true) := by
  refine ⟨fun h => ?_, fun h => ?_, fun h => ?_⟩ <;>
    (simp only [writeEffect]; (repeat' split) <;> simp (maxDischargeDepth := 40) (contextual := true) [h])

@[simp] theorem writeNum_kept (idx sub v : Nat) (s : State) :
    (writeNum idx sub v s).pending = s.pending ∧ (writeNum idx sub v s).now = s.now := by
  simp only [writeNum]; (repeat' split) <;> first | (simp; done) | simp_all

@[simp] theorem writeNum_mem (idx sub v : Nat) (s : State) :
    (Memory.wf s.hbm = true → Memory.wf (writeNum idx sub v s).hbm = true) ∧
    (Memory.wf s.cellar = true → Memory.wf (writeNum idx sub v s).cellar = true) ∧
    (Memory.wf s.hostMem = true → Memory.wf (writeNum idx sub v s).hostMem = true) := by
  refine ⟨fun h => ?_, fun h => ?_, fun h => ?_⟩ <;>
    (simp only [writeNum]; (repeat' split) <;> simp (maxDischargeDepth := 40) (contextual := true) [h])

@[simp] theorem writeValue_kept (e : Entry) (idx sub : Nat) (bs : List Byte) (s : State) :
    (writeValue e idx sub bs s).pending = s.pending ∧ (writeValue e idx sub bs s).now = s.now := by
  simp only [writeValue]; (repeat' split) <;> first | (simp; done) | simp_all

@[simp] theorem writeValue_mem (e : Entry) (idx sub : Nat) (bs : List Byte) (s : State) :
    (Memory.wf s.hbm = true → Memory.wf (writeValue e idx sub bs s).hbm = true) ∧
    (Memory.wf s.cellar = true → Memory.wf (writeValue e idx sub bs s).cellar = true) ∧
    (Memory.wf s.hostMem = true → Memory.wf (writeValue e idx sub bs s).hostMem = true) := by
  refine ⟨fun h => ?_, fun h => ?_, fun h => ?_⟩ <;>
    (simp only [writeValue]; (repeat' split) <;> simp (maxDischargeDepth := 40) (contextual := true) [h])

@[simp] theorem holdSnapshot_kept (a : Asker) (idx : Nat) (v : List Byte) (s : State) :
    (holdSnapshot a idx v s).pending = s.pending ∧ (holdSnapshot a idx v s).now = s.now ∧
    (holdSnapshot a idx v s).hbm = s.hbm ∧ (holdSnapshot a idx v s).cellar = s.cellar ∧
    (holdSnapshot a idx v s).hostMem = s.hostMem := by
  simp only [holdSnapshot]; (repeat' split) <;> first | (simp; done) | simp_all

@[simp] theorem segmentSource_kept (a : Asker) (o : Op) (s : State) :
    (segmentSource a o s).2.pending = s.pending ∧ (segmentSource a o s).2.now = s.now := by
  simp only [segmentSource]; (repeat' split) <;> simp

@[simp] theorem segmentSource_same (a : Asker) (o : Op) (s : State) : (segmentSource a o s).2.hbm = s.hbm ∧
    (segmentSource a o s).2.cellar = s.cellar ∧ (segmentSource a o s).2.hostMem = s.hostMem := by
  simp only [segmentSource]; (repeat' split) <;> simp

@[simp] theorem stage_kept (a : Asker) (o : Op) (s : State) :
    (stage a o s).pending = s.pending ∧ (stage a o s).now = s.now ∧ (stage a o s).hbm = s.hbm ∧
    (stage a o s).cellar = s.cellar ∧ (stage a o s).hostMem = s.hostMem := by
  simp only [stage]; (repeat' split) <;> first | (simp; done) | simp_all

@[simp] theorem applyOp_kept (a : Asker) (txn : Nat) (o : Op) (s : State) :
    (applyOp a txn o s).2.pending = s.pending ∧ (applyOp a txn o s).2.now = s.now := by
  simp only [applyOp]; (repeat' split) <;> simp

@[simp] theorem applyOp_mem (a : Asker) (txn : Nat) (o : Op) (s : State) :
    (Memory.wf s.hbm = true → Memory.wf (applyOp a txn o s).2.hbm = true) ∧
    (Memory.wf s.cellar = true → Memory.wf (applyOp a txn o s).2.cellar = true) ∧
    (Memory.wf s.hostMem = true → Memory.wf (applyOp a txn o s).2.hostMem = true) := by
  refine ⟨fun h => ?_, fun h => ?_, fun h => ?_⟩ <;> (simp only [applyOp]; (repeat' split) <;> simp [h])

theorem runOps_kept (a : Asker) (txn i : Nat) (ops : List Op) (acc data : List (List Byte)) (sv sv' : Option Nat)
    (s u : State) (h : runOps a txn i ops acc sv s = .passed data sv' u) : u.pending = s.pending ∧ u.now = s.now := by
  induction ops generalizing i acc sv s with
  | nil => simp [runOps] at h; simp [h.2.2]
  | cons o rest ih =>
    simp only [runOps] at h
    split at h
    · simp at h
    · have k := ih _ _ _ _ h; simpa using k

theorem runOps_mem (a : Asker) (txn i : Nat) (ops : List Op) (acc data : List (List Byte)) (sv sv' : Option Nat)
    (s u : State) (k : runOps a txn i ops acc sv s = .passed data sv' u) (h : MemOk s) : MemOk u := by
  induction ops generalizing i acc sv s with
  | nil => simp [runOps] at k; rw [← k.2.2]; exact h
  | cons o rest ih =>
    simp only [runOps] at k
    split at k
    · simp at k
    · exact ih _ _ _ _ k ⟨by simp [h.1], by simp [h.2.1], by simp [h.2.2]⟩

@[simp] theorem noteRefusedArm_kept (o : Op) (status : Nat) (s : State) :
    (noteRefusedArm o status s).pending = s.pending ∧ (noteRefusedArm o status s).now = s.now ∧
    (noteRefusedArm o status s).hbm = s.hbm ∧ (noteRefusedArm o status s).cellar = s.cellar ∧
    (noteRefusedArm o status s).hostMem = s.hostMem := by
  simp only [noteRefusedArm]; (repeat' split) <;> first | (simp; done) | simp_all

@[simp] theorem endSlots_kept (slots : List Nat) (s : State) :
    (endSlots slots s).pending = s.pending ∧ (endSlots slots s).now = s.now ∧ (endSlots slots s).hbm = s.hbm ∧
    (endSlots slots s).cellar = s.cellar ∧ (endSlots slots s).hostMem = s.hostMem := by
  simp only [endSlots]; (repeat' split) <;> first | (simp; done) | simp_all

@[simp] theorem storeFails_kept (s : State) :
    (storeFails s).pending = s.pending ∧ (storeFails s).now = s.now := by
  simp only [storeFails]; (repeat' split) <;> first | (simp; done) | simp_all

@[simp] theorem storeFails_mem (s : State) :
    (Memory.wf s.hbm = true → Memory.wf (storeFails s).hbm = true) ∧
    (Memory.wf s.cellar = true → Memory.wf (storeFails s).cellar = true) ∧
    (Memory.wf s.hostMem = true → Memory.wf (storeFails s).hostMem = true) := by
  refine ⟨fun h => ?_, fun h => ?_, fun h => ?_⟩ <;>
    (simp only [storeFails]; (repeat' split) <;> simp (maxDischargeDepth := 40) (contextual := true) [h])

@[simp] theorem runRequest_kept (a : Asker) (txn : Nat) (ops : List Op) (storeOk : Bool) (s : State) :
    (runRequest a txn ops storeOk s).2.pending = s.pending ∧ (runRequest a txn ops storeOk s).2.now = s.now := by
  simp only [runRequest]
  split
  · simp
  · split
    · rename_i i _ _; cases h : ops[i]? <;> simp [h]
    · rename_i h; have k := runOps_kept _ _ _ _ _ _ _ _ _ _ h; (repeat' split) <;> simp [k]

theorem runRequest_mem (a : Asker) (txn : Nat) (ops : List Op) (storeOk : Bool) (s : State) (h : MemOk s) :
    MemOk (runRequest a txn ops storeOk s).2 := by
  have ⟨h1, h2, h3⟩ := h
  simp only [runRequest]
  split
  · exact h
  · split
    · rename_i i _ _; cases e : ops[i]? <;> simp [MemOk, h1, h2, h3]
    · rename_i k; have m := runOps_mem _ _ _ _ _ _ _ _ _ _ k h; obtain ⟨m1, m2, m3⟩ := m
      (repeat' split) <;> simp [MemOk, m1, m2, m3, h1, h2, h3]

@[simp] theorem serve_kept (r : Request) (a : Asker) (txn : Nat) (ops : Option (List Op)) (storeOk fresh dup : Bool)
    (s : State) : (serve r a txn ops storeOk fresh dup s).pending = s.pending ∧
      (serve r a txn ops storeOk fresh dup s).now = s.now := by
  have h := fun l => runRequest_kept a txn l storeOk s
  simp only [serve]; (repeat' split) <;> simp_all

theorem serve_mem (r : Request) (a : Asker) (txn : Nat) (ops : Option (List Op)) (storeOk fresh dup : Bool)
    (s : State) (h : MemOk s) : MemOk (serve r a txn ops storeOk fresh dup s) := by
  have k := fun l => runRequest_mem a txn l storeOk s h
  have ⟨h1, h2, h3⟩ := h
  unfold MemOk at *
  simp only [serve]; (repeat' split) <;> simp_all

@[simp] theorem execute_kept (r : Request) (storeOk : Bool) (s : State) :
    (execute r storeOk s).pending = s.pending ∧ (execute r storeOk s).now = s.now := by
  simp only [execute]; (repeat' split) <;> first | (simp; done) | simp_all

theorem execute_mem (r : Request) (storeOk : Bool) (s : State) (h : MemOk s) : MemOk (execute r storeOk s) := by
  have ⟨h1, h2, h3⟩ := h
  simp only [execute]
  (repeat' split) <;> first
    | exact h
    | (simp [MemOk, h1, h2, h3]; done)
    | exact serve_mem _ _ _ _ _ _ _ _ h
    | exact serve_mem _ _ _ _ _ _ _ _ ⟨by simp [h1], by simp [h2], by simp [h3]⟩

@[simp] theorem execTransactionExecute_kept (t : Nat) (storeOk : Bool) (s : State) :
    Keeps (execTransactionExecute t storeOk s) s.pending (max s.now t) := by
  simp only [execTransactionExecute]; (repeat' split) <;> first | (simp; done) | simp_all

theorem execTransactionExecute_mem (t : Nat) (storeOk : Bool) (s : State) (h : MemOk s) :
    EndsOk (execTransactionExecute t storeOk s) := by
  simp only [execTransactionExecute]
  (repeat' split) <;> first | exact h | exact execute_mem _ _ _ h

@[simp] theorem commitImage_kept (kind : Nat) (bs : List Byte) (s : State) :
    (commitImage kind bs s).pending = s.pending ∧ (commitImage kind bs s).now = s.now ∧
    (commitImage kind bs s).hbm = s.hbm ∧ (commitImage kind bs s).cellar = s.cellar ∧
    (commitImage kind bs s).hostMem = s.hostMem := by
  simp only [commitImage]; (repeat' split) <;> first | (simp; done) | simp_all

@[simp] theorem storeSections_kept (xs : List (Nat × List Byte)) (s : State) :
    (storeSections xs s).pending = s.pending ∧ (storeSections xs s).now = s.now ∧ (storeSections xs s).hbm = s.hbm ∧
    (storeSections xs s).cellar = s.cellar ∧ (storeSections xs s).hostMem = s.hostMem := by
  simp only [storeSections]; (repeat' split) <;> first | (simp; done) | simp_all

theorem commitDomain_kept (key : Nat) (bs : List Byte) (s u : State) (h : commitDomain key bs s = some u) :
    u.pending = s.pending ∧ u.now = s.now := by
  simp only [commitDomain] at h
  (repeat' split at h) <;> simp at h
  · subst h; simp
  · obtain ⟨xs, -, rfl⟩ := h; simp
  · subst h; simp
  · subst h; simp

theorem commitDomain_same (key : Nat) (bs : List Byte) (s u : State) (h : commitDomain key bs s = some u) :
    u.hbm = s.hbm ∧ u.cellar = s.cellar ∧ u.hostMem = s.hostMem := by
  simp only [commitDomain] at h
  (repeat' split at h) <;> simp at h
  · subst h; simp
  · obtain ⟨xs, -, rfl⟩ := h; simp
  · subst h; simp
  · subst h; simp

@[simp] theorem finishCommit_kept (g : Staging) (txn : Nat) (storeOk : Bool) (s : State) :
    (finishCommit g txn storeOk s).pending = s.pending ∧ (finishCommit g txn storeOk s).now = s.now := by
  simp only [finishCommit]; split
  · simp
  · rename_i h; have k := commitDomain_kept _ _ _ _ h; (repeat' split) <;> simp [k]

theorem finishCommit_mem (g : Staging) (txn : Nat) (storeOk : Bool) (s : State) (h : MemOk s) :
    MemOk (finishCommit g txn storeOk s) := by
  obtain ⟨h1, h2, h3⟩ := h
  simp only [finishCommit]; split
  · simp [MemOk, h1, h2, h3]
  · rename_i e; have k := commitDomain_same _ _ _ _ e
    (repeat' split) <;> simp [MemOk, k, h1, h2, h3]

@[simp] theorem execDomainVerifyDone_kept (t : Nat) (storeOk : Bool) (s : State) :
    Keeps (execDomainVerifyDone t storeOk s) s.pending (max s.now t) := by
  simp only [execDomainVerifyDone]; split
  · simp
  · split
    · simp
    · rename_i g _; cases g.verifying <;> simp

theorem execDomainVerifyDone_mem (t : Nat) (storeOk : Bool) (s : State) (h : MemOk s) :
    EndsOk (execDomainVerifyDone t storeOk s) := by
  have hc : MemOk (clockTo t s) := h
  simp only [execDomainVerifyDone]; split
  · exact hc
  · split
    · exact hc
    · rename_i g _; cases g.verifying with
      | none => exact hc
      | some txn => exact finishCommit_mem _ _ _ _ hc

@[simp] theorem execStagingExpire_kept (t : Nat) (s : State) :
    Keeps (execStagingExpire t s) s.pending (max s.now t) := by
  simp only [execStagingExpire]; (repeat' split) <;> first | (simp; done) | simp_all

theorem execStagingExpire_mem (t : Nat) (s : State) (h : MemOk s) :
    EndsOk (execStagingExpire t s) := by
  simp only [execStagingExpire]; (repeat' split) <;> simp (maxDischargeDepth := 40) (contextual := true) [h.1, h.2.1, h.2.2]

@[simp] theorem mbClose_kept (s : State) :
    (mbClose s).pending = s.pending ∧ (mbClose s).now = s.now ∧ (mbClose s).hbm = s.hbm ∧
    (mbClose s).cellar = s.cellar ∧ (mbClose s).hostMem = s.hostMem := by
  simp only [mbClose]; (repeat' split) <;> first | (simp; done) | simp_all

@[simp] theorem mbOpen_kept (s : State) :
    (mbOpen s).pending = s.pending ∧ (mbOpen s).now = s.now ∧ (mbOpen s).hbm = s.hbm ∧ (mbOpen s).cellar = s.cellar ∧
    (mbOpen s).hostMem = s.hostMem := by
  simp only [mbOpen]; (repeat' split) <;> first | (simp; done) | simp_all

@[simp] theorem mbSubmit_kept (s : State) :
    (mbSubmit s).pending = s.pending ∧ (mbSubmit s).now = s.now ∧ (mbSubmit s).hbm = s.hbm ∧
    (mbSubmit s).cellar = s.cellar ∧ (mbSubmit s).hostMem = s.hostMem := by
  simp only [mbSubmit]; (repeat' split) <;> first | (simp; done) | simp_all

@[simp] theorem writeMbVector_kept (value : Nat) (s : State) :
    (writeMbVector value s).pending = s.pending ∧ (writeMbVector value s).now = s.now ∧
    (writeMbVector value s).hbm = s.hbm ∧ (writeMbVector value s).cellar = s.cellar ∧
    (writeMbVector value s).hostMem = s.hostMem := by
  simp only [writeMbVector]; (repeat' split) <;> first | (simp; done) | simp_all

@[simp] theorem execMbClose_kept (t : Nat) (s : State) :
    Keeps (execMbClose t s) s.pending (max s.now t) := by
  simp only [execMbClose]; (repeat' split) <;> first | (simp; done) | simp_all

theorem execMbClose_mem (t : Nat) (s : State) (h : MemOk s) :
    EndsOk (execMbClose t s) := by
  simp only [execMbClose]; (repeat' split) <;> simp (maxDischargeDepth := 40) (contextual := true) [h.1, h.2.1, h.2.2]

@[simp] theorem execMbOpen_kept (t : Nat) (s : State) :
    Keeps (execMbOpen t s) s.pending (max s.now t) := by
  simp only [execMbOpen]; (repeat' split) <;> first | (simp; done) | simp_all

theorem execMbOpen_mem (t : Nat) (s : State) (h : MemOk s) :
    EndsOk (execMbOpen t s) := by
  simp only [execMbOpen]; (repeat' split) <;> simp (maxDischargeDepth := 40) (contextual := true) [h.1, h.2.1, h.2.2]

@[simp] theorem execMbSubmit_kept (t : Nat) (s : State) :
    Keeps (execMbSubmit t s) s.pending (max s.now t) := by
  simp only [execMbSubmit]; (repeat' split) <;> first | (simp; done) | simp_all

theorem execMbSubmit_mem (t : Nat) (s : State) (h : MemOk s) :
    EndsOk (execMbSubmit t s) := by
  simp only [execMbSubmit]; (repeat' split) <;> simp (maxDischargeDepth := 40) (contextual := true) [h.1, h.2.1, h.2.2]

@[simp] theorem execMbVectorWrite_kept (value : Half) (s : State) :
    Keeps (execMbVectorWrite value s) s.pending s.now := by
  simp only [execMbVectorWrite]; (repeat' split) <;> first | (simp; done) | simp_all

theorem execMbVectorWrite_mem (value : Half) (s : State) (h : MemOk s) :
    EndsOk (execMbVectorWrite value s) := by
  simp only [execMbVectorWrite]; (repeat' split) <;> simp (maxDischargeDepth := 40) (contextual := true) [h.1, h.2.1, h.2.2]

@[simp] theorem releasePending_kept (s : State) :
    (releasePending s).pending = s.pending ∧ (releasePending s).now = s.now ∧ (releasePending s).hbm = s.hbm ∧
    (releasePending s).cellar = s.cellar ∧ (releasePending s).hostMem = s.hostMem := by
  simp only [releasePending]; (repeat' split) <;> first | (simp; done) | simp_all

@[simp] theorem writeMsix_kept (o : Nat) (value : List Byte) (s : State) :
    (writeMsix o value s).pending = s.pending ∧ (writeMsix o value s).now = s.now ∧
    (writeMsix o value s).hbm = s.hbm ∧ (writeMsix o value s).cellar = s.cellar ∧
    (writeMsix o value s).hostMem = s.hostMem := by
  simp only [writeMsix]; (repeat' split) <;> first | (simp; done) | simp_all

@[simp] theorem writeQcControl_kept (q v : Nat) (s : State) :
    (writeQcControl q v s).pending = s.pending ∧ (writeQcControl q v s).now = s.now ∧
    (writeQcControl q v s).cellar = s.cellar := by
  simp only [writeQcControl]; (repeat' split) <;> first | (simp; done) | simp_all

@[simp] theorem writeQcControl_mem (q v : Nat) (s : State) :
    (Memory.wf s.hbm = true → Memory.wf (writeQcControl q v s).hbm = true) ∧
    (Memory.wf s.hostMem = true → Memory.wf (writeQcControl q v s).hostMem = true) := by
  refine ⟨fun h => ?_, fun h => ?_⟩ <;>
    (simp only [writeQcControl]; (repeat' split) <;> simp (maxDischargeDepth := 40) (contextual := true) [h])

@[simp] theorem writeQueueReg_kept (q o : Nat) (value : List Byte) (s : State) :
    (writeQueueReg q o value s).pending = s.pending ∧ (writeQueueReg q o value s).now = s.now ∧
    (writeQueueReg q o value s).cellar = s.cellar := by
  simp only [writeQueueReg]; (repeat' split) <;> first | (simp; done) | simp_all

@[simp] theorem writeQueueReg_mem (q o : Nat) (value : List Byte) (s : State) :
    (Memory.wf s.hbm = true → Memory.wf (writeQueueReg q o value s).hbm = true) ∧
    (Memory.wf s.hostMem = true → Memory.wf (writeQueueReg q o value s).hostMem = true) := by
  refine ⟨fun h => ?_, fun h => ?_⟩ <;>
    (simp only [writeQueueReg]; (repeat' split) <;> simp (maxDischargeDepth := 40) (contextual := true) [h])

@[simp] theorem writeMbControl_kept (v : Nat) (s : State) :
    (writeMbControl v s).pending = s.pending ∧ (writeMbControl v s).now = s.now ∧ (writeMbControl v s).hbm = s.hbm ∧
    (writeMbControl v s).cellar = s.cellar ∧ (writeMbControl v s).hostMem = s.hostMem := by
  simp only [writeMbControl]; (repeat' split) <;> first | (simp; done) | simp_all

@[simp] theorem writeMailbox_kept (o : Nat) (value : List Byte) (s : State) :
    (writeMailbox o value s).pending = s.pending ∧ (writeMailbox o value s).now = s.now ∧
    (writeMailbox o value s).hbm = s.hbm ∧ (writeMailbox o value s).cellar = s.cellar ∧
    (writeMailbox o value s).hostMem = s.hostMem := by
  simp only [writeMailbox]; (repeat' split) <;> first | (simp; done) | simp_all

@[simp] theorem writeWord0_kept (o : Nat) (value : List Byte) (s : State) :
    (writeWord0 o value s).pending = s.pending ∧ (writeWord0 o value s).now = s.now ∧
    (writeWord0 o value s).cellar = s.cellar := by
  simp only [writeWord0]; (repeat' split) <;> first | (simp; done) | simp_all

@[simp] theorem writeWord0_mem (o : Nat) (value : List Byte) (s : State) :
    (Memory.wf s.hbm = true → Memory.wf (writeWord0 o value s).hbm = true) ∧
    (Memory.wf s.hostMem = true → Memory.wf (writeWord0 o value s).hostMem = true) := by
  refine ⟨fun h => ?_, fun h => ?_⟩ <;>
    (simp only [writeWord0]; (repeat' split) <;> simp (maxDischargeDepth := 40) (contextual := true) [h])

@[simp] theorem writeWords0_kept (n o : Nat) (bs : List Byte) (s : State) :
    (writeWords0 n o bs s).pending = s.pending ∧ (writeWords0 n o bs s).now = s.now := by
  induction n generalizing o bs s with
  | zero => simp [writeWords0]
  | succ n ih => simp only [writeWords0]; split <;> simp [ih]

@[simp] theorem writeWords0_mem (n o : Nat) (bs : List Byte) (s : State) :
    (Memory.wf s.hbm = true → Memory.wf (writeWords0 n o bs s).hbm = true) ∧
    (Memory.wf s.cellar = true → Memory.wf (writeWords0 n o bs s).cellar = true) ∧
    (Memory.wf s.hostMem = true → Memory.wf (writeWords0 n o bs s).hostMem = true) := by
  induction n generalizing o bs s with
  | zero => simp [writeWords0]
  | succ n ih =>
    simp only [writeWords0]; split
    · simp
    · have k := ih (o + (4 - o % 4)) (bs.drop (4 - o % 4)) (writeWord0 o (bs.take (4 - o % 4)) s)
      exact ⟨fun h => k.1 (by simp [h]), fun h => k.2.1 (by simp [h]), fun h => k.2.2 (by simp [h])⟩

@[simp] theorem writeDoorbell_kept (o : Nat) (value : List Byte) (s : State) :
    (writeDoorbell o value s).pending = s.pending ∧ (writeDoorbell o value s).now = s.now ∧
    (writeDoorbell o value s).cellar = s.cellar := by
  simp only [writeDoorbell]; (repeat' split) <;> first | (simp; done) | simp_all

@[simp] theorem writeDoorbell_mem (o : Nat) (value : List Byte) (s : State) :
    (Memory.wf s.hbm = true → Memory.wf (writeDoorbell o value s).hbm = true) ∧
    (Memory.wf s.hostMem = true → Memory.wf (writeDoorbell o value s).hostMem = true) := by
  refine ⟨fun h => ?_, fun h => ?_⟩ <;>
    (simp only [writeDoorbell]; (repeat' split) <;> simp (maxDischargeDepth := 40) (contextual := true) [h])

@[simp] theorem execRegisterWrite_kept (t : Nat) (bar4 : Bool) (offset : Nat) (value : List Byte) (s : State) :
    Keeps (execRegisterWrite t offset value s bar4) s.pending (max s.now t) := by
  simp only [execRegisterWrite]; (repeat' split) <;> first | (simp; done) | simp_all

theorem execRegisterWrite_mem (t : Nat) (bar4 : Bool) (offset : Nat) (value : List Byte) (s : State) (h : MemOk s) :
    EndsOk (execRegisterWrite t offset value s bar4) := by
  simp only [execRegisterWrite]; (repeat' split) <;> simp (maxDischargeDepth := 40) (contextual := true) [h.1, h.2.1, h.2.2]

@[simp] theorem hostReads_kept (bar4 : Bool) (offset length : Nat) (s : State) :
    (hostReads bar4 offset length s).pending = s.pending ∧ (hostReads bar4 offset length s).now = s.now ∧
    (hostReads bar4 offset length s).hbm = s.hbm ∧ (hostReads bar4 offset length s).cellar = s.cellar ∧
    (hostReads bar4 offset length s).hostMem = s.hostMem := by
  simp only [hostReads]; (repeat' split) <;> first | (simp; done) | simp_all

@[simp] theorem configSet_kept (r : ConfigReg) (v : Nat) (s : State) :
    (configSet r v s).pending = s.pending ∧ (configSet r v s).now = s.now ∧ (configSet r v s).hbm = s.hbm ∧
    (configSet r v s).cellar = s.cellar ∧ (configSet r v s).hostMem = s.hostMem := by
  simp only [configSet]; (repeat' split) <;> first | (simp; done) | simp_all

@[simp] theorem configAccess_kept (r : ConfigReg) (write : Option Nat) (s : State) :
    (configAccess r write s).pending = s.pending ∧ (configAccess r write s).now = s.now ∧
    (configAccess r write s).hbm = s.hbm ∧ (configAccess r write s).cellar = s.cellar ∧
    (configAccess r write s).hostMem = s.hostMem := by
  simp only [configAccess]; (repeat' split) <;> first | (simp; done) | simp_all

@[simp] theorem logAer_kept (uncorrectable : Bool) (b : Nat) (s : State) :
    (logAer uncorrectable b s).pending = s.pending ∧ (logAer uncorrectable b s).now = s.now ∧
    (logAer uncorrectable b s).hbm = s.hbm ∧ (logAer uncorrectable b s).cellar = s.cellar ∧
    (logAer uncorrectable b s).hostMem = s.hostMem := by
  simp only [logAer]; (repeat' split) <;> first | (simp; done) | simp_all

@[simp] theorem modCore_kept (c : Nat) (f : StationCore → StationCore) (s : State) :
    (modCore c f s).pending = s.pending ∧ (modCore c f s).now = s.now ∧ (modCore c f s).hbm = s.hbm ∧
    (modCore c f s).cellar = s.cellar ∧ (modCore c f s).hostMem = s.hostMem := by
  simp only [modCore]; (repeat' split) <;> first | (simp; done) | simp_all

@[simp] theorem stationWrite_kept (c : Nat) (x : StationStore) (s : State) :
    (stationWrite c x s).pending = s.pending ∧ (stationWrite c x s).now = s.now ∧
    (stationWrite c x s).cellar = s.cellar ∧ (stationWrite c x s).hostMem = s.hostMem := by
  simp only [stationWrite]; (repeat' split) <;> first | (simp; done) | simp_all

@[simp] theorem stationWrite_mem (c : Nat) (x : StationStore) (s : State) :
    (Memory.wf s.hbm = true → Memory.wf (stationWrite c x s).hbm = true) := by
  intro h; simp only [stationWrite]; (repeat' split) <;> simp (maxDischargeDepth := 40) (contextual := true) [h]

@[simp] theorem showEntry_kept (c : Nat) (x : Option StationStore) (s : State) :
    (showEntry c x s).pending = s.pending ∧ (showEntry c x s).now = s.now ∧ (showEntry c x s).cellar = s.cellar ∧
    (showEntry c x s).hostMem = s.hostMem := by
  simp only [showEntry]; (repeat' split) <;> first | (simp; done) | simp_all

@[simp] theorem showEntry_mem (c : Nat) (x : Option StationStore) (s : State) :
    (Memory.wf s.hbm = true → Memory.wf (showEntry c x s).hbm = true) := by
  intro h; simp only [showEntry]; (repeat' split) <;> simp (maxDischargeDepth := 40) (contextual := true) [h]

@[simp] theorem drainAll_kept (c : Nat) (s : State) :
    (drainAll c s).pending = s.pending ∧ (drainAll c s).now = s.now ∧ (drainAll c s).cellar = s.cellar ∧
    (drainAll c s).hostMem = s.hostMem := by
  simp only [drainAll]; (repeat' split) <;> first | (simp; done) | simp_all

@[simp] theorem drainAll_mem (c : Nat) (s : State) :
    (Memory.wf s.hbm = true → Memory.wf (drainAll c s).hbm = true) := by
  intro h; simp only [drainAll]; (repeat' split) <;> simp (maxDischargeDepth := 40) (contextual := true) [h]

@[simp] theorem storeFence_kept (c : Nat) (s : State) :
    (storeFence c s).pending = s.pending ∧ (storeFence c s).now = s.now ∧ (storeFence c s).hbm = s.hbm ∧
    (storeFence c s).cellar = s.cellar ∧ (storeFence c s).hostMem = s.hostMem := by
  simp only [storeFence]; (repeat' split) <;> first | (simp; done) | simp_all

@[simp] theorem stationDrain_kept (c n : Nat) (s : State) :
    (stationDrain c n s).pending = s.pending ∧ (stationDrain c n s).now = s.now ∧
    (stationDrain c n s).cellar = s.cellar ∧ (stationDrain c n s).hostMem = s.hostMem := by
  simp only [stationDrain]; (repeat' split) <;> first | (simp; done) | simp_all

@[simp] theorem stationDrain_mem (c n : Nat) (s : State) :
    (Memory.wf s.hbm = true → Memory.wf (stationDrain c n s).hbm = true) := by
  intro h; simp only [stationDrain]; (repeat' split) <;> simp (maxDischargeDepth := 40) (contextual := true) [h]

@[simp] theorem stationStore_kept (c : Nat) (p : StationPlace) (a : Nat) (bs : List Byte) (s : State) :
    (stationStore c p a bs s).pending = s.pending ∧ (stationStore c p a bs s).now = s.now ∧
    (stationStore c p a bs s).hbm = s.hbm ∧ (stationStore c p a bs s).cellar = s.cellar ∧
    (stationStore c p a bs s).hostMem = s.hostMem := by
  simp only [stationStore]; (repeat' split) <;> first | (simp; done) | simp_all

@[simp] theorem stationLoad_kept (c : Nat) (p : StationPlace) (a n : Nat) (s : State) :
    (stationLoad c p a n s).pending = s.pending ∧ (stationLoad c p a n s).now = s.now ∧
    (stationLoad c p a n s).hbm = s.hbm ∧ (stationLoad c p a n s).cellar = s.cellar ∧
    (stationLoad c p a n s).hostMem = s.hostMem := by
  simp only [stationLoad]; (repeat' split) <;> first | (simp; done) | simp_all

@[simp] theorem stationFence_kept (c : Nat) (predR predW succR succW tso : Bool) (s : State) :
    (stationFence c predR predW succR succW tso s).pending = s.pending ∧
    (stationFence c predR predW succR succW tso s).now = s.now ∧
    (stationFence c predR predW succR succW tso s).cellar = s.cellar ∧
    (stationFence c predR predW succR succW tso s).hostMem = s.hostMem := by
  simp only [stationFence]; (repeat' split) <;> first | (simp; done) | simp_all

@[simp] theorem stationFence_mem (c : Nat) (predR predW succR succW tso : Bool) (s : State) :
    (Memory.wf s.hbm = true → Memory.wf (stationFence c predR predW succR succW tso s).hbm = true) := by
  intro h; simp only [stationFence]; (repeat' split) <;> simp (maxDischargeDepth := 40) (contextual := true) [h]

@[simp] theorem releaseBefore_kept (c : Nat) (p : StationPlace) (a n : Nat) (rl : Bool) (s : State) :
    (releaseBefore c p a n rl s).pending = s.pending ∧ (releaseBefore c p a n rl s).now = s.now ∧
    (releaseBefore c p a n rl s).cellar = s.cellar ∧ (releaseBefore c p a n rl s).hostMem = s.hostMem := by
  simp only [releaseBefore]; (repeat' split) <;> first | (simp; done) | simp_all

@[simp] theorem releaseBefore_mem (c : Nat) (p : StationPlace) (a n : Nat) (rl : Bool) (s : State) :
    (Memory.wf s.hbm = true → Memory.wf (releaseBefore c p a n rl s).hbm = true) := by
  intro h; simp only [releaseBefore]; (repeat' split) <;> simp (maxDischargeDepth := 40) (contextual := true) [h]

@[simp] theorem aroundAfter_kept (c : Nat) (aq rl : Bool) (s : State) :
    (aroundAfter c aq rl s).pending = s.pending ∧ (aroundAfter c aq rl s).now = s.now ∧
    (aroundAfter c aq rl s).cellar = s.cellar ∧ (aroundAfter c aq rl s).hostMem = s.hostMem := by
  simp only [aroundAfter]; (repeat' split) <;> first | (simp; done) | simp_all

@[simp] theorem aroundAfter_mem (c : Nat) (aq rl : Bool) (s : State) :
    (Memory.wf s.hbm = true → Memory.wf (aroundAfter c aq rl s).hbm = true) := by
  intro h; simp only [aroundAfter]; (repeat' split) <;> simp (maxDischargeDepth := 40) (contextual := true) [h]

@[simp] theorem stationAmo_kept (c : Nat) (p : StationPlace) (a w : Nat) (op : AmoOp) (v : Nat) (aq rl : Bool) (s : State) :
    (stationAmo c p a w op v aq rl s).pending = s.pending ∧ (stationAmo c p a w op v aq rl s).now = s.now ∧
    (stationAmo c p a w op v aq rl s).cellar = s.cellar ∧ (stationAmo c p a w op v aq rl s).hostMem = s.hostMem := by
  simp only [stationAmo]; (repeat' split) <;> first | (simp; done) | simp_all

@[simp] theorem stationAmo_mem (c : Nat) (p : StationPlace) (a w : Nat) (op : AmoOp) (v : Nat) (aq rl : Bool) (s : State) :
    (Memory.wf s.hbm = true → Memory.wf (stationAmo c p a w op v aq rl s).hbm = true) := by
  intro h; simp only [stationAmo]; (repeat' split) <;> simp (maxDischargeDepth := 40) (contextual := true) [h]

@[simp] theorem stationLr_kept (c : Nat) (p : StationPlace) (a w : Nat) (aq rl : Bool) (s : State) :
    (stationLr c p a w aq rl s).pending = s.pending ∧ (stationLr c p a w aq rl s).now = s.now ∧
    (stationLr c p a w aq rl s).cellar = s.cellar ∧ (stationLr c p a w aq rl s).hostMem = s.hostMem := by
  simp only [stationLr]; (repeat' split) <;> first | (simp; done) | simp_all

@[simp] theorem stationLr_mem (c : Nat) (p : StationPlace) (a w : Nat) (aq rl : Bool) (s : State) :
    (Memory.wf s.hbm = true → Memory.wf (stationLr c p a w aq rl s).hbm = true) := by
  intro h; simp only [stationLr]; (repeat' split) <;> simp (maxDischargeDepth := 40) (contextual := true) [h]

@[simp] theorem stationSc_kept (c : Nat) (p : StationPlace) (a w v : Nat) (aq rl : Bool) (s : State) :
    (stationSc c p a w v aq rl s).pending = s.pending ∧ (stationSc c p a w v aq rl s).now = s.now ∧
    (stationSc c p a w v aq rl s).cellar = s.cellar ∧ (stationSc c p a w v aq rl s).hostMem = s.hostMem := by
  simp only [stationSc]; (repeat' split) <;> first | (simp; done) | simp_all

@[simp] theorem stationSc_mem (c : Nat) (p : StationPlace) (a w v : Nat) (aq rl : Bool) (s : State) :
    (Memory.wf s.hbm = true → Memory.wf (stationSc c p a w v aq rl s).hbm = true) := by
  intro h; simp only [stationSc]; (repeat' split) <;> simp (maxDischargeDepth := 40) (contextual := true) [h]

@[simp] theorem loadCheckpoint_kept (second : Bool) (cycle phase : Nat) (s : State) :
    (loadCheckpoint second cycle phase s).pending = s.pending ∧ (loadCheckpoint second cycle phase s).now = s.now ∧
    (loadCheckpoint second cycle phase s).hbm = s.hbm ∧ (loadCheckpoint second cycle phase s).cellar = s.cellar ∧
    (loadCheckpoint second cycle phase s).hostMem = s.hostMem := by
  simp only [loadCheckpoint]; (repeat' split) <;> first | (simp; done) | simp_all

@[simp] theorem lotMemory_kept (l m : Nat) (second : Bool) (word : Nat) (write : Option Nat) (s : State) :
    (lotMemory l m second word write s).pending = s.pending ∧ (lotMemory l m second word write s).now = s.now ∧
    (lotMemory l m second word write s).hbm = s.hbm ∧ (lotMemory l m second word write s).cellar = s.cellar ∧
    (lotMemory l m second word write s).hostMem = s.hostMem := by
  simp only [lotMemory]; (repeat' split) <;> first | (simp; done) | simp_all

@[simp] theorem linkOffer_kept (c : Nat) (words : List Nat) (s : State) :
    (linkOffer c words s).pending = s.pending ∧ (linkOffer c words s).now = s.now := by
  simp only [linkOffer]; (repeat' split) <;> first | (simp; done) | simp_all

@[simp] theorem linkOffer_mem (c : Nat) (words : List Nat) (s : State) :
    (Memory.wf s.hbm = true → Memory.wf (linkOffer c words s).hbm = true) ∧
    (Memory.wf s.cellar = true → Memory.wf (linkOffer c words s).cellar = true) ∧
    (Memory.wf s.hostMem = true → Memory.wf (linkOffer c words s).hostMem = true) := by
  refine ⟨fun h => ?_, fun h => ?_, fun h => ?_⟩ <;>
    (simp only [linkOffer]; (repeat' split) <;> simp (maxDischargeDepth := 40) (contextual := true) [h])

@[simp] theorem linkTake_kept (c n : Nat) (s : State) :
    (linkTake c n s).pending = s.pending ∧ (linkTake c n s).now = s.now ∧ (linkTake c n s).hbm = s.hbm ∧
    (linkTake c n s).cellar = s.cellar ∧ (linkTake c n s).hostMem = s.hostMem := by
  simp only [linkTake]; (repeat' split) <;> first | (simp; done) | simp_all

@[simp] theorem linkMove_kept (c : Nat) (s : State) :
    (linkMove c s).pending = s.pending ∧ (linkMove c s).now = s.now ∧ (linkMove c s).hbm = s.hbm ∧
    (linkMove c s).cellar = s.cellar ∧ (linkMove c s).hostMem = s.hostMem := by
  simp only [linkMove]; (repeat' split) <;> first | (simp; done) | simp_all

@[simp] theorem modLane_kept (b j : Nat) (f : Lane → Lane) (s : State) :
    (modLane b j f s).pending = s.pending ∧ (modLane b j f s).now = s.now ∧ (modLane b j f s).hbm = s.hbm ∧
    (modLane b j f s).cellar = s.cellar ∧ (modLane b j f s).hostMem = s.hostMem := by
  simp only [modLane]; (repeat' split) <;> first | (simp; done) | simp_all

@[simp] theorem laneReceive_kept (b j w : Nat) (s : State) :
    (laneReceive b j w s).pending = s.pending ∧ (laneReceive b j w s).now = s.now ∧
    (laneReceive b j w s).hbm = s.hbm ∧ (laneReceive b j w s).cellar = s.cellar ∧
    (laneReceive b j w s).hostMem = s.hostMem := by
  simp only [laneReceive]; (repeat' split) <;> first | (simp; done) | simp_all

@[simp] theorem laneTake_kept (b j n : Nat) (s : State) :
    (laneTake b j n s).pending = s.pending ∧ (laneTake b j n s).now = s.now ∧ (laneTake b j n s).hbm = s.hbm ∧
    (laneTake b j n s).cellar = s.cellar ∧ (laneTake b j n s).hostMem = s.hostMem := by
  simp only [laneTake]; (repeat' split) <;> first | (simp; done) | simp_all

@[simp] theorem lanePut_kept (b j w : Nat) (s : State) :
    (lanePut b j w s).pending = s.pending ∧ (lanePut b j w s).now = s.now ∧ (lanePut b j w s).hbm = s.hbm ∧
    (lanePut b j w s).cellar = s.cellar ∧ (lanePut b j w s).hostMem = s.hostMem := by
  simp only [lanePut]; (repeat' split) <;> first | (simp; done) | simp_all

@[simp] theorem laneSend_kept (b j : Nat) (s : State) :
    (laneSend b j s).pending = s.pending ∧ (laneSend b j s).now = s.now ∧ (laneSend b j s).hbm = s.hbm ∧
    (laneSend b j s).cellar = s.cellar ∧ (laneSend b j s).hostMem = s.hostMem := by
  simp only [laneSend]; (repeat' split) <;> first | (simp; done) | simp_all

@[simp] theorem runStation_kept (a : Act) (c : Nat) (s : State) :
    (runStation a c s).pending = s.pending ∧ (runStation a c s).now = s.now ∧ (runStation a c s).cellar = s.cellar ∧
    (runStation a c s).hostMem = s.hostMem := by
  simp only [runStation]; (repeat' split) <;> first | (simp; done) | simp_all

@[simp] theorem runStation_mem (a : Act) (c : Nat) (s : State) :
    (Memory.wf s.hbm = true → Memory.wf (runStation a c s).hbm = true) := by
  intro h; simp only [runStation]; (repeat' split) <;> simp (maxDischargeDepth := 40) (contextual := true) [h]

@[simp] theorem runAct_kept (a : Act) (s : State) :
    (runAct a s).pending = s.pending ∧ (runAct a s).now = s.now := by
  simp only [runAct]; (repeat' split) <;> first | (simp; done) | simp_all

@[simp] theorem runAct_mem (a : Act) (s : State) :
    (Memory.wf s.hbm = true → Memory.wf (runAct a s).hbm = true) ∧
    (Memory.wf s.cellar = true → Memory.wf (runAct a s).cellar = true) ∧
    (Memory.wf s.hostMem = true → Memory.wf (runAct a s).hostMem = true) := by
  refine ⟨fun h => ?_, fun h => ?_, fun h => ?_⟩ <;>
    (simp only [runAct]; (repeat' split) <;> simp (maxDischargeDepth := 40) (contextual := true) [h])

theorem execTick_kept (acts : List Act) (s : State) :
    ∃ u, execTick s acts = .next u ∧ u.pending = s.pending ∧ s.now ≤ u.now := by
  have k := forEach_kept runAct acts s fun a u => by simp
  simp only [execTick]; split
  · exact ⟨_, rfl, rfl, Nat.le_refl _⟩
  · exact ⟨_, rfl, (endTick_kept _).1.trans k.1, k.2 ▸ (endTick_kept _).2⟩

theorem execTick_mem (acts : List Act) (s : State) (h : MemOk s) :
    EndsOk (execTick s acts) := by
  simp only [execTick]; (repeat' split) <;> simp (maxDischargeDepth := 40) (contextual := true) [h.1, h.2.1, h.2.2]

end Sys2Proof.Machine
end

