-- ==== Sys2Proof/Tests/Slice0.lean ====
section
/-! SUPPORT. The model's own tests: for every statement with hypotheses, states and operands that meet them, clause by
clause; ill-formed commands; and results that the spec's worked examples give.  Where a value that the spec leaves open
decides whether a clause applies, its witness is given under that value. -/

namespace Sys2Proof.Tests

open Sys2Proof Sys2Proof.Machine

set_option maxRecDepth 20000
set_option Elab.async false

/-- A tile in the active set with a loaded control store. -/
def aTile (n : Nat) : Tile := { state := .active, logical := n, loaded := true }
/-- A joined sled with three tiles, two ports up, memories that hold something, and nothing running. -/
def live : State := { State.reset with
  now := 1000000000
  pins := { standby := true, prsnt := true, early := false, slotAddr := 5 }
  life := { state := .joined, since := 900000000 }
  rb := { state := .locked, cycle := 1000, phase := 700, pEst4 := 8000000, everLocked := true, form := .pulse, unnumbered := false,
          lastRaw := some 99000000, lastAccepted := 99000000, runActive := true, runLen := 9, hist := [2000000, 2000000, 2000000, 2000000],
          tickStart := 100000000 * 2 ^ 32, tickLen := 2000000 * 2 ^ 20, pkgCycle := 1000, pkgPhase := 700 }
  gov := { state := .regulating, switchClosed := true, mainMv := 54000, bulkMv := 54000, supplyGroups := 5, railsOn := true
           hbmOn := true, cellarOn := true, aMw := 600000, ceilMw := 800000, floorMw := 550000, uMw := 200000, dMw := 300000
           power := [600000, 610000], sumMw := 1210000, samples := 2 }
  net := { state := .follower, nodeId := 5, gotCycle := some 1000 }
  host := { linkUp := true, ready := true, trainAt := some 800000000 }
  tiles := [(0, aTile 0), (1, aTile 1), (2, { state := .spare, loaded := true })]
  links := { ports := [(0, { state := .up, cable := true, width := 8, partner := some (6, 1), credits := [(0, 8), (2, 4)] }), (1, { state := .up, cable := true, width := 8, partner := some (7, 2) })] }
  hbm := [(64, 7), (70, 9)], cellar := [(3, 4)], hostMem := [(100, 1)] }
/-- That sled in STANDBY and low-power listen, 117 us before its beacon instant. -/
def asleep : State := { live with
  life := { state := .standby, since := 900000000 }
  gov := {}
  rb := { live.rb with phase := 1000 }
  net := { state := .follower, nodeId := 5, lastWake := some 0, silent := 1 }
  kiosk := { live.kiosk with objects := [(0x1215 * 256, 1)] } }
/-- That sled as a segment's node in this state. -/
def node (state : NetState) (id : Nat) : State := { live with net := { live.net with state := state, nodeId := id } }
/-- A beacon's frame with these flags, of a coordinator with this EUI-64. -/
def aBeacon (flags eui : Nat) : List Byte :=
  [0x4A, 0x4F, 0x03, 0x10, 1] ++ List.replicate 3 0 ++ [32] ++ List.replicate 23 0 ++
    natLe 1000 6 ++ natLe flags 2 ++ natLe eui 8 ++ List.replicate 16 0
/-- The running sled with station firmware and this state of its core 1. -/
def station (x : StationCore) : State := { live with
  kiosk := { live.kiosk with stationRunning := true }, contain := { live.contain with cores := [(1, x)] } }
/-- An operation's bytes in a request. -/
def opBytes (code idx sub offset len : Nat) (data : List Byte) : List Byte :=
  natLe code 1 ++ natLe sub 1 ++ natLe idx 2 ++ natLe offset 4 ++ natLe len 2 ++ natLe 0 2 ++ data
/-- A request of `n` operations. -/
def reqBytes (txn n : Nat) (ops : List Byte) : List Byte :=
  natLe txn 4 ++ natLe n 1 ++ [0] ++ natLe (8 + ops.length) 2 ++ ops
/-- A WRITE of a 4-byte entry. -/
def wr4 (idx sub v : Nat) : Op := { kind := .write, idx := idx, sub := sub, offset := 0, length := 4, data := natLe v 4 }
/-- A READ. -/
def rdOp (idx sub : Nat) : Op := { kind := .read, idx := idx, sub := sub, offset := 0, length := 0, data := [] }
/-- The live sled with an open mailbox session of OPERATOR rights and this request waiting in it. -/
def asked (sess : Session) (body : List Byte) : State := { live with
  kiosk := { live.kiosk with mbSession := 9, mbSess := sess, mbQueue := [{ mailbox := true, session := 9, body := body, at_ := 5 }] } }
def aReq (body : List Byte) : Request := { mailbox := true, session := 9, body := body, at_ := 5 }
/-- A frame with a zero tag. -/
def frameOf (typ flags sess : Nat) (payload : List Byte) : List Byte := jopHeader typ flags sess payload.length [] ++ payload

/-- A station image of version 0x03010000 with no body. -/
def anImage : List Byte :=
  natLe 0x474D4946 4 ++ natLe 1 1 ++ natLe 0 3 ++ natLe 0x03010000 4 ++ natLe 0x8640 2 ++ List.replicate 146 0
/-- `n` zero bytes with fields (offset, width, value) written over them. -/
def patch (n : Nat) (l : List (Nat × Nat × Nat)) : List Byte :=
  l.foldl (fun bs f => overlay bs f.1 (natLe f.2.2 f.2.1)) (List.replicate n 0)
/-- A HOST_WORK queue of 64 entries with its completion ring in HBM at 0x10000, and these descriptors in flight. -/
def aQueue (ds : List Desc) : Queue :=
  { state := .enabled, config := 2, slots := 0x100010, cplFree := 64, cplBase := 0x10001, ringBase := 0x20001, flight := ds }
/-- The live sled with that queue as queue 3. -/
def queued (ds : List Desc) : State := { live with host := { live.host with queues := [(3, aQueue ds)] } }
/-- The live sled with another queue 3. -/
def queue3 (x : Queue) : State := { live with host := { live.host with queues := [(3, x)] } }
/-- A program image: one tile, one stream of 16 bytes at 0x60. -/
def anImageBytes : List Byte :=
  let h := patch 60 [(0, 4, 0x54494C50), (4, 2, 3), (6, 2, 0x8640), (8, 4, 112), (12, 2, 1), (24, 4, 1), (28, 4, 1), (32, 2, 1), (36, 4, 64)]
  h ++ natLe (crc32c h) 4 ++ patch 48 [(4, 4, 96), (8, 4, 1)]
def placed : State := { (queued []) with hbm := memWrite [] 0x4000 anImageBytes }
/-- A program runs on tiles 0 and 1, and tile 1's mover waits for two answers of a peer. -/
def borrowing : State := { live with
  prog := some { queue := 3, index := 5 }
  life := { live.life with state := .running }
  tiles := [(0, { aTile 0 with works := true }), (1, { aTile 1 with works := true, chan0 := { commands := [(64, 0)], started := true, moved := true, waiting := 2 } })]
  links := { live.links with accesses := [(3, some { user := .mover 1 0, sled := 6, offset := 64, length := 4, write := false }), (4, some { user := .mover 1 0, sled := 6, offset := 68, length := 4, write := false })] } }
/-- A tile instruction. -/
def ins (op rd ra rb imm : Nat) : Nat := op + rd * 2 ^ 8 + ra * 2 ^ 13 + rb * 2 ^ 18 + imm * 2 ^ 96
/-- A running program of two tiles with one overflow page. -/
def aProg : Program := { queue := 3, index := 5, tiles := 2, window := 1, windowPages := [100], arena := [.hbm 200, .hbm 201] }
/-- A tile at work with three registers set. -/
def worker : Tile := { aTile 0 with works := true, pc := 0x100, upc := 8, sregs := [(1, 0x40), (2, 7), (3, 0xFFFFFFFFFFFFFFF9)], scratch := [(0x40, 9), (0x47, 1)], flags := 0x123 }
/-- A running sled whose tile 0 is at this instruction. -/
def at0 (x : Tile) (i : Nat) : State := { (queued [{ index := 5, state := .started, data := patch 64 [(0, 1, 4)] }]) with
  life := { live.life with state := .running }
  prog := some aProg
  tiles := [(0, { x with scratch := memWrite x.scratch x.pc (natLe i 16) }), (1, { aTile 1 with works := true }),
     (2, { state := .spare, loaded := true })] }
def anOp : EngineOp := { instr := 0, dst := 0x400, srcA := 0x200, srcB := 0x300, srcC := 0, rm := 0, subn := 0, stepwise := false, wrap := false, csa := 0x3F800000, csb := 0x3F800000, csd := 0x3F800000 }
/-- An INT8 view of 16 × 4 bricks: a space, an address, extents, brick strides (64, 128, 256, 0) and a wrap byte. -/
def viewRec (space value e0 e1 wrap : Nat) : List Byte :=
  patch 64 [(0, 6, value), (12, 1, space), (13, 1, 8), (15, 1, 16), (18, 1, wrap), (20, 4, e0), (24, 4, e1), (28, 4, 2), (32, 4, 1),
     (36, 6, 64), (42, 6, 128), (48, 6, 256)]
/-- A mover command record from 0x1040 to 0x1080 over `c0 × c1` elements. -/
def moverRec (kind xform c0 c1 list param : Nat) : List Byte :=
  patch 64 [(0, 1, kind), (1, 1, xform), (4, 4, 0x1040), (8, 4, 0x1080), (44, 2, c0), (46, 2, c1), (48, 2, 1), (50, 2, 1), (52, 4, list),
     (56, 8, param)]
/-- A tile whose channel 1 holds a command with these records and this brick list at 0x10C0. -/
def mover (r sv dv : List Byte) (list : List Byte) : Tile := { worker with
  retired := 3, chan1 := { commands := [(0x1000, 3), (0x1100, 5)] }
  scratch := memWrite (memWrite (memWrite (memWrite (memWrite worker.scratch 0x2000 [1, 2, 3, 4, 5, 6,
     7]) 0x1000 r) 0x1040 sv) 0x1080 dv) 0x10C0 list }
/-- A JUNCTION queue of 64 entries with its completion ring in HBM, and these descriptors in flight. -/
def jQueue (ds : List Desc) : Queue := { (aQueue ds) with config := 0x22 }
/-- A layer record: two tokens of 16 elements, two experts, one each; scores at 0x4000, receive region at 0x5000, returns at 0x6000. -/
def layerRec (flags gate group : Nat) : List Byte :=
  patch 128 [(0, 4, 2), (4, 2, 16), (6, 2, 2), (8, 1, 1), (9, 1, flags), (10, 1, gate), (12, 2, group), (16, 8, 0x3000), (24, 8, 0x4000),
     (48, 8, 0x5000), (56, 8, 0x6000), (64, 8, 0x3040), (72, 8, 0x3100), (80, 8, 0x3108), (88, 8, 0x3140)]
/-- An FP32 view of 2 rows of 16 elements in HBM. -/
def rowsView (value : Nat) : List Byte :=
  patch 64 [(0, 6, value), (12, 1, 2), (20, 4, 16), (24, 4, 2), (28, 4, 1), (32, 4, 1), (36, 6, 64), (42, 6, 64)]
/-- HBM with that record, its views, two rows of activations and a table of scores. -/
def layerMem (flags gate group : Nat) : Memory :=
  [(0x2000, layerRec flags gate group), (0x3000, rowsView 0x7000), (0x3040, rowsView 0x8000),
     (0x4000, natLe 0x3F800000 4 ++ natLe 0x40000000 4 ++ natLe 0x40000000 4 ++ natLe 0x3F800000 4),
   (0x7000, natLe 0x3F800000 4), (0x7040, natLe 0x40400000 4), (0x6000, natLe 0x3F800000 4),
     (0x6040, natLe 0x40400000 4)].foldl (fun m x => memWrite m x.1 x.2) []
/-- A program runs and the Junction has this descriptor next on queue 3. -/
def layered (flags gate group : Nat) (d : List Byte) : State := { live with
  life := { live.life with state := .running }
  prog := some aProg
  hbm := layerMem flags gate group
  host := { live.host with queues := [(3, jQueue [{ index := 5, data := d }])] }
  kiosk := { live.kiosk with objects := [(objKey 0x6010 1, 2)] } }
/-- A layer at a stage, as its selection and admission would leave it. -/
def aLayer (stage : Nat) : Layer :=
  { queue := 3, index := 5, signalAddr := 0x3180, signalValue := 9, data := layerRec 1 0 0, resident := false, act := rowsView 0x7000, ret := rowsView 0x8000,
    members := [5], cap := 2, owners := [some (0, 0), some (0, 1)], mask := [], taps := 0, lots := [0, 1, 2, 3], tapNs := 20000,
     bypassed := 15, stage := stage }
def selected : Layer := { aLayer 3 with selectNext := 2, picks := [(0, some [(1, 0x3F800000)]), (1, some [(0, 0x3F800000)])] }
def admitted : Layer := { selected with
  stage := 4, formed := true, admitNext := 2
  pairs := [{ token := 0, expert := 1, rank := 0, gate := 0x3F800000, fate := some .admitted },
     { token := 1, expert := 0, rank := 0, gate := 0x3F800000, fate := some .admitted }] }
def sorted : Layer := { admitted with stage := 5, slots := slotOrder admitted, lists := [destinationList admitted (slotOrder admitted) 0] }
def shipped : Layer := { sorted with shipDone := true }
def gathered : Layer := { sorted with stage := 7, shipDone := true, readyWritten := true, vectors := [(0, some (patch 64 [(0, 4, 0x3F800000)])), (1, some (patch 64 [(4, 4, 0x40400000)]))] }
/-- That program with this layer running. -/
def atLayer (l : Layer) : State := let s := layered 1 0 0 (patch 64 [(0, 1, 1)]); { s with
  host := { s.host with queues := [(3, jQueue [{ index := 5, data := patch 64 [(0, 1, 1)], state := .started }])] }
  junc := { s.junc with layer := some l } }
/-- The joined sled at address 0x1111 of a 4 × 4 × 4 × 4 torus, its ports 0 and 1 up. -/
def switched : State := { live with
  kiosk := { live.kiosk with objects := [(objKey 0x7001 0, 0x1111)] }
  links := { live.links with ports := [
    (0, { state := .up, cable := true, width := 8, partner := some (0x2111, 1), credits := [(0, 8), (2, 4), (6, 3)] }),
    (1, { state := .up, cable := true, width := 8, partner := some (0x0111, 0), credits := [(0, 8)] })] } }
/-- That sled with another port 0. -/
def port0 (x : Port) : State := { switched with links := { switched.links with ports := [(0, x), (1, portAt switched 1)] } }
/-- An UP port 0. -/
def anUp : Port := portAt switched 0
/-- A slab for a sled two hops on. -/
def aSlab (kind vc : Nat) : Slab := { kind := kind, vc := vc, dest := 0x3111, src := 0x0111, payload := [1, 2, 3], inPort := some 1 }
/-- Group 1 of three sleds along W, this one of rank 0. -/
def aGroup : Group := { state := 2, members := [0x1111, 0x2111, 0x3111], page := 0x200000, queue := 4000 }
/-- The joined sled in that group, with this inbox. -/
def grouped (x : Group) (inbox : List EngineMsg) : State := { switched with
  kiosk := { live.kiosk with objects := [(objKey 0x7001 0, 0x1111), (objKey 0x7400 1, 0x1111), (objKey 0x7400 2, 0x2000), (objKey 0x7400 3, 2), (objKey 0x7400 4, 4), (objKey 0x7400 6, 100), (objKey 0x7400 8, 64)] }
  coll := { groups := [(1, x)], inbox := inbox }
  host := { live.host with queues := [(4000, { (aQueue []) with config := 0x32, group := 1, ringBase := 0x200001, cplBase := 0x201001 })] } }
/-- A message to group 1 from the sled of rank 1. -/
def aMsg (code epoch cseq : Nat) (extra : List Byte) : EngineMsg := { code := code, group := 1, epoch := epoch, cseq := cseq, rank := 1, src := 0x2111, extra := extra }
/-- An EXCHANGE of 128 bytes per rank from 0x10000 to 0x11000. -/
def aColl : Collective := { index := 0, cseq := 7, op := 1, data := patch 64 [(0, 1, 1), (8, 8, 0x10000), (16, 8, 0x11000), (24, 4, 128)] }
def runningColl : Collective := { aColl with state := .running, watch := 999000000, msAt := 999000010, out := [[[1], [2]], [[3], [4], [5]], [[6]]] }
/-- That group with these collectives in flight. -/
def colls (cs : List Collective) (inbox : List EngineMsg) : State := let s := grouped { aGroup with colls := cs, nextCseq := 9 } inbox; { s with
  hbm := memWrite live.hbm 0x10000 (List.replicate 400 5)
  host := { s.host with queues := [(4000, { (aQueue []) with config := 0x32, group := 1, ringBase := 0x200001, cplBase := 0x201001, flight := cs.map fun c => { index := c.index, data := c.data } })] } }
/-- The live sled with this fabric. -/
def fabled (f : Fabric) : State := { live with fab := f }
/-- A FABRIC queue 3 with this descriptor beside that fabric. -/
def fabQueue (f : Fabric) (d : List Byte) : State := { (fabled f) with
  hbm := memWrite live.hbm 0x20000 (List.replicate 300 7)
  host := { live.host with queues := [(3, { (aQueue [{ index := 5, data := d }]) with config := 0x32 })] } }
/-- A HELD or serving lot with controllers 0 to 7 in these modes. -/
def aLot (st : LotState) (modes : List Byte) : Lot := { state := st, config := memWrite [] 0 modes, goldenCrc := [(0, 5)] }
/-- The sled in LEFT with this sweep. -/
def sweeping (l : LifeState) (w : Sweep) (fired : Bool) : State := { live with
  life := { live.life with state := l, sweepDue := true }
  rb := { live.rb with kioskCmp := [(kcSweep, { fired := fired, cycle := 5 })] }
  sweep := w }
/-- Bank 1 on with a lane 3 of lot 5 that holds these words, sent or received. -/
def laned (tx : Nat) (ws : List Nat) : Fabric := {
  lots := [(5, { state := .inService, lanes := 8, lanesTx := tx })]
  banks := [(1, { state := 2, standard := 3, lock := 8, lanes := [(3, { fifo := ws, last := 9 })] })] }
/-- A controller's mode, when its lot serves and its configuration holds a defined mode. -/
theorem mode_of (s : State) (c m : Nat) (hr : reserved s c = false) (hs : (lotAt s (c / 8)).serves = true)
    (hq : Config.qcMode (lotAt s (c / 8)).config (c % 8) = m) (hm : ¬ 7 ≤ m) : controllerMode s c = m := by
  simp [controllerMode, hr, hs, hq, hm]
/-- A stream may run when its lot serves, no tap has the controller, and the controller is in its mode. -/
theorem streamCheck_of (s : State) (c : Nat) (x : Stream) (hs : (lotAt s (c / 8)).serves = true)
    (hb : (boundTap s c).isSome = false)
    (hq : Config.qcMode (lotAt s (c / 8)).config (c % 8) = (if x.push then 2 else 3)) : streamCheck s c x = 0 := by
  simp [streamCheck, hs, hb, hq]
/-- What holds of every pair listed. -/
theorem forall_pairs {l : List (Nat × Nat)} {P : Nat → Nat → Prop} (h : ∀ r ∈ l, P r.1 r.2) : ∀ a b, (a, b) ∈ l → P a b :=
  fun a b m => h (a, b) m
/-- A tag is 16 bytes. -/
theorem exists_tag (key x : List Byte) :
    ∃ a b c d e f g h i j k l m n o p : Byte, frameTag key x = [a, b, c, d, e, f, g, h, i, j, k, l, m, n, o, p] := by
  have hl : (frameTag key x).length = 16 := by simp [frameTag, padTo]; omega
  generalize frameTag key x = t at hl
  match t, hl with
  | [a, b, c, d, e, f, g, h, i, j, k, l, m, n, o, p], _ => exact ⟨a, b, c, d, e, f, g, h, i, j, k, l, m, n, o, p, rfl⟩
/-- A tag does not look at the frame's tag field. -/
theorem frameTag_of (key f x : List Byte) (h1 : f.take 16 = x.take 16) (h2 : f.drop 32 = x.drop 32) :
    frameTag key f = frameTag key x := by simp only [frameTag, h1, h2]
/-- A tagged frame of a session: what the rules of its type ask of it. -/
theorem tag_of (f x tag : List Byte) (hb : bit (field f 4 1) 0 = true) (h0 : (f.drop 16).take 16 = tag)
    (h1 : f.take 16 = x.take 16) (h2 : f.drop 32 = x.drop 32) (h : frameTag [] x = tag) : tagOk [] f = true := by
  simp only [tagOk, hb, h0, frameTag_of [] f x h1 h2, h, decide_true, Bool.and_self]
theorem confirm_of (s : State) (f : List Byte) (ht : field f 3 1 = 0x22)
    (hp : (tabGet {} (field f 6 2) s.kiosk.sessions).phase = 1)
    (hk : tagOk (tabGet {} (field f 6 2) s.kiosk.sessions).keyC2s f = true) : frameTagRule s f = true := by
  simp [frameTagRule, sessionRule, segmentRule, multicastType, ht, hp, hk, ftBeacon, ftStatus, ftNotice, ftConfirm]
theorem session_of (s : State) (f : List Byte) (typ : Nat) (he : field f 3 1 = typ) (ht : typ ∉ [0x10, 0x11, 0x12])
    (hp : (tabGet {} (field f 6 2) s.kiosk.sessions).phase = 2)
    (hk : tagOk (tabGet {} (field f 6 2) s.kiosk.sessions).keyC2s f = true) : frameTagRule s f = true := by
  simp only [List.mem_cons, List.not_mem_nil, or_false, not_or] at ht
  simp [frameTagRule, sessionRule, segmentRule, multicastType, he, ht, hp, hk, ftBeacon, ftStatus, ftNotice]

/-! ### States and operands that meet the hypotheses of the statements -/

theorem witness_TicksAndEvents :
    (∃ s : State, s.life.state ≠ .absent) ∧
    (∃ s : State, ∃ d : Int, s.rb.atCycleStart = true ∧ s.rb.applyD = some d ∧ d ≠ 0 ∧
      (s.rb.applyFirst = true ∨ 0 < d ∨ packagePowered s = false)) ∧
    (∃ s : State, ∃ d : Int, s.rb.atCycleStart = true ∧ s.rb.applyD = some d ∧ d < 0 ∧ s.rb.applyFirst = false ∧ packagePowered s = true) ∧
    (∃ s : State, s.rb.state = .freewheel ∧ 65536 * 4096 ≤ s.rb.freewheelTicks ∧ s.rb.freewheelLong = false) ∧
    (∃ s : State, s.rb.boundaryDue = true) ∧
    (∃ s : State, ∃ i : Nat, s.rb.boundaryDue = false ∧ nextDue s.rb = some (true, i)) ∧
    (∃ s : State, ∃ i : Nat, s.rb.boundaryDue = false ∧ nextDue s.rb = some (false, i)) :=
  ⟨⟨live, by (try dsimp only) <;> decide +kernel⟩,
   ⟨{ live with rb := { live.rb with atCycleStart := true, applyD := some 5 } }, 5, by (try dsimp only) <;> decide +kernel⟩,
   ⟨{ live with rb := { live.rb with atCycleStart := true, applyD := some (-5), applyFirst := false } }, -5,
    by (try dsimp only) <;> decide +kernel⟩,
   ⟨{ live with rb := { live.rb with state := .freewheel, freewheelTicks := 65536 * 4096 } }, by (try dsimp only) <;> decide +kernel⟩,
   ⟨{ live with rb := { live.rb with boundaryDue := true } }, by (try dsimp only) <;> decide +kernel⟩,
   ⟨{ live with rb := { live.rb with kioskCmp := [(2, { cycle := 999, busy := true, passed := true })] } }, 2,
    by (try dsimp only) <;> decide +kernel⟩,
   ⟨{ live with rb := { live.rb with pkgCmp := [(3, { cycle := 999, phase := 700, busy := true, passed := true })] } }, 3,
    by (try dsimp only) <;> decide +kernel⟩⟩

theorem witness_CrossingsFollowedAndMissed :
    (∃ t : Nat, ∃ above : Nat, ∃ last : Nat, ∃ s : State, let ts := max s.now t / 10;
      let f := classifyForm (objAt s 0x2011 0) (ts - last) above; s.life.state ≠ .absent ∧ s.rb.lastRaw = some last ∧ tracking s.rb = true ∧
      crossingAccepted s.rb ts f = true) ∧
    (∃ t : Nat, ∃ above : Nat, ∃ last : Nat, ∃ s : State, let ts := max s.now t / 10;
      let f := classifyForm (objAt s 0x2011 0) (ts - last) above; s.life.state ≠ .absent ∧ s.rb.lastRaw = some last ∧ tracking s.rb = true ∧
      crossingAccepted s.rb ts f = false) ∧
    (∃ t : Nat, ∃ above : Nat, ∃ last : Nat, ∃ s : State, let ts := max s.now t / 10;
      let f := classifyForm (objAt s 0x2011 0) (ts - last) above; s.life.state ≠ .absent ∧ s.rb.lastRaw = some last ∧ s.rb.state = .noRef ∧
      s.rb.everLocked = false ∧ periodValid s.rb (ts - last) f = true ∧ 7 ≤ s.rb.runLen) ∧
    (∃ t : Nat, ∃ s : State, tracking s.rb = true ∧ windowOver s.rb (max s.now t / 10) = true) ∧
    (∃ t : Nat, ∃ s : State, ∃ a, s.rb.lastRaw = some a ∧ s.rb.runActive = true ∧ a + 2222200 ≤ max s.now t / 10) :=
  ⟨⟨1010000000, 200000, 99000000, live, by (try dsimp only) <;> decide +kernel⟩,
   ⟨1001000000, 200000, 99000000, live, by (try dsimp only) <;> decide +kernel⟩,
   ⟨1010000000, 200000, 99000000,
    { live with rb := { live.rb with state := .noRef, everLocked := false, runLen := 7, runForm := .pulse, runHist := [2000000, 2000000, 2000000, 2000000] } },
    by (try dsimp only) <;> decide +kernel⟩,
   ⟨1020000000, live, by (try dsimp only) <;> decide +kernel⟩,
   ⟨1020000000, live, 99000000, by (try dsimp only) <;> decide +kernel⟩⟩

theorem witness_BallastAndInput :
    (∃ i : Fin 160, ∃ s : State, let x := tileAt s i.val; ballastReq s x = true) ∧
    (∃ i : Fin 160, ∃ s : State, let x := tileAt s i.val; ballastReq s x = false ∧ 0 < x.burst) ∧
    (∃ i : Fin 160, ∃ s : State, let x := tileAt s i.val; ballastReq s x = false ∧ x.burst = 0) ∧
    (∃ t : Nat, ∃ a : Nat, ∃ s : State, let n := max s.now t; s.gov.okSince = some a ∧ a + 100000000 ≤ n) ∧
    (∃ t : Nat, ∃ a : Nat, ∃ s : State, let n := max s.now t; s.gov.okSince = some a ∧ n < a + 100000000) ∧
    (∃ t : Nat, ∃ a : Nat, ∃ s : State, let n := max s.now t; s.gov.state = .regulating ∧ s.gov.brownSince = some a ∧ a + 1000000 ≤ n) ∧
    (∃ t : Nat, ∃ a : Nat, ∃ s : State, let n := max s.now t; s.gov.state = .regulating ∧ s.gov.brownSince = some a ∧ n < a + 1000000) ∧
    (∃ t : Nat, ∃ a : Nat, ∃ s : State, let n := max s.now t; s.gov.state = .brownout ∧ s.gov.brownOkSince = some a ∧ a + 100000000 ≤ n) ∧
    (∃ t : Nat, ∃ a : Nat, ∃ s : State, let n := max s.now t; s.gov.state = .brownout ∧ s.gov.brownOkSince = some a ∧ n < a + 100000000) ∧
    (∃ t : Nat, ∃ a : Nat, ∃ s : State, let n := max s.now t; measuring s.gov = true ∧ s.gov.overSince = some a ∧ s.gov.overNoted = false ∧
      a + 1000000 ≤ n) ∧
    (∃ t : Nat, ∃ a : Nat, ∃ s : State, let n := max s.now t; measuring s.gov = true ∧ s.gov.overSince = some a ∧ s.gov.overNoted = false ∧
      n < a + 1000000) ∧
    (∃ t : Nat, ∃ a : Nat, ∃ s : State, let n := max s.now t; s.life.state = .standby ∧ startConditions s = true ∧
      s.life.startSince = some a ∧ a + 100000000 ≤ n) ∧
    (∃ t : Nat, ∃ a : Nat, ∃ s : State, let n := max s.now t; s.life.state = .standby ∧ startConditions s = true ∧
      s.life.startSince = some a ∧ n < a + 100000000) :=
  ⟨⟨0, { live with gov := { live.gov with ballast := 3 } }, by (try dsimp only) <;> decide +kernel⟩,
   ⟨1, { live with tiles := [(1, { aTile 1 with burst := 3, upc := 0x40 })] }, by (try dsimp only) <;> decide +kernel⟩,
   ⟨1, live, by (try dsimp only) <;> decide +kernel⟩,
   ⟨5, 900000000, { live with gov := { live.gov with okSince := some 900000000 } }, by (try dsimp only) <;> decide +kernel⟩,
   ⟨5, 900000001, { live with gov := { live.gov with okSince := some 900000001 } }, by (try dsimp only) <;> decide +kernel⟩,
   ⟨5, 999000000, { live with gov := { live.gov with brownSince := some 999000000 } }, by (try dsimp only) <;> decide +kernel⟩,
   ⟨5, 999000001, { live with gov := { live.gov with brownSince := some 999000001 } }, by (try dsimp only) <;> decide +kernel⟩,
   ⟨5, 900000000, { live with gov := { live.gov with state := .brownout, brownOkSince := some 900000000 } },
    by (try dsimp only) <;> decide +kernel⟩,
   ⟨5, 900000001, { live with gov := { live.gov with state := .brownout, brownOkSince := some 900000001 } },
    by (try dsimp only) <;> decide +kernel⟩,
   ⟨5, 999000000, { live with gov := { live.gov with overSince := some 999000000 } }, by (try dsimp only) <;> decide +kernel⟩,
   ⟨5, 999000001, { live with gov := { live.gov with overSince := some 999000001 } }, by (try dsimp only) <;> decide +kernel⟩,
   ⟨5, 900000000, { live with life := { live.life with state := .standby, startSince := some 900000000 } },
    by (try dsimp only) <;> decide +kernel⟩,
   ⟨5, 900000001, { live with life := { live.life with state := .standby, startSince := some 900000001 } },
    by (try dsimp only) <;> decide +kernel⟩⟩

theorem witness_ControlLaw :
    ∃ s : State, s.gov.state = .regulating ∧ isMember s = true :=
  ⟨{ live with gov := { live.gov with power := List.replicate 16 600000 } }, by (try dsimp only) <;> decide +kernel⟩

theorem witness_BoundaryFixesLimits :
    (∃ s : State, s.life.state = .standby ∧ s.life.startDue = true ∧ s.rb.boundaryDue = true ∧ s.life.descent = .idle ∧ s.gov.state = .off ∧
      s.gov.overDue = false ∧ s.sweep.stage = .idle) ∧
    (∃ s : State, isMember s = true ∧ s.life.descent = .idle ∧ s.rb.boundaryDue = true ∧ s.gov.state = .regulating ∧
      s.gov.brownDue = false ∧ s.gov.overDue = false ∧ 0 < s.gov.samples ∧ s.gov.fatalCapMw = none ∧ s.gov.fatalDue = false ∧
      s.gov.fullDepth = false) :=
  ⟨⟨{ live with life := { live.life with state := .standby, startDue := true }, rb := { live.rb with boundaryDue := true }, gov := { mainMv := 54000 } },
    by (try dsimp only) <;> decide +kernel⟩,
   ⟨{ live with rb := { live.rb with boundaryDue := true } }, by (try dsimp only) <;> decide +kernel⟩⟩

theorem witness_DropSequence :
    (∃ t : Nat, ∃ s : State, ∃ a, poweredState s.life.state = true ∧ s.gov.drop = none ∧ ((s.gov.lowSince = some a ∧
      a + 200000 ≤ max s.now t ∨ s.gov.pfSince = some a ∧ a + 2000 ≤ max s.now t))) ∧
    (∃ t : Nat, ∃ s : State, ∃ a, poweredState s.life.state = true ∧ s.gov.drop = none ∧ s.pins.earlySince = some a ∧
      a + 10000 ≤ max s.now t) ∧
    (∃ d : DropSeq, ∃ s : State, s.gov.drop = some d ∧ d.event = 2) ∧
    (∃ d : DropSeq, ∃ s : State, s.gov.drop = some d ∧ d.event = 3) ∧
    (∃ d : DropSeq, ∃ s : State, s.gov.drop = some d ∧ d.event = 6) ∧
    (∃ d : DropSeq, ∃ s : State, s.gov.drop = some d ∧ d.event = 7) ∧
    (∃ d : DropSeq, ∃ s : State, s.gov.drop = some d ∧ d.event ≠ 2) ∧
    (∃ d : DropSeq, ∃ s : State, s.gov.drop = some d ∧ d.event ≠ 3) ∧
    (∃ d : DropSeq, ∃ s : State, s.gov.drop = some d ∧ d.event ≠ 6) ∧
    (∃ d : DropSeq, ∃ s : State, s.gov.drop = some d ∧ d.event ≠ 7) ∧
    (∃ d : DropSeq, ∃ s : State, s.gov.drop = some d ∧ d.event = 4 ∧ s.contain.frozen = true ∧ s.contain.windows = []) ∧
    (∃ d : DropSeq, ∃ s : State, s.gov.drop = some d ∧ d.event = 5) ∧
    (∃ d : DropSeq, ∃ s : State, s.gov.drop = some d ∧ d.event = 8) ∧
    (∃ d : DropSeq, ∃ s : State, s.gov.drop = some d ∧ d.event = 9) :=
  ⟨⟨1000000010,
    { live with gov := { live.gov with lowSince := some 999000000, ballast := 4, holdBack := 3 }, tiles := [(0, { aTile 0 with works := true })], life := { live.life with state := .running } },
    999000000, by (try dsimp only) <;> decide +kernel⟩,
   ⟨1000000010, { live with pins := { live.pins with early := true, earlySince := some 999000000 } }, 999000000,
    by (try dsimp only) <;> decide +kernel⟩,
   ⟨{ cause := .curfew, t0 := 5 }, { live with gov := { live.gov with drop := some { cause := .curfew, t0 := 5 } } },
    by (try dsimp only) <;> decide +kernel⟩,
   ⟨{ cause := .curfew, t0 := 5, event := 3 },
    { live with gov := { live.gov with drop := some { cause := .curfew, t0 := 5, event := 3 } } }, by (try dsimp only) <;> decide +kernel⟩,
   ⟨{ cause := .curfew, t0 := 5, event := 6 },
    { live with gov := { live.gov with drop := some { cause := .curfew, t0 := 5, event := 6 } } }, by (try dsimp only) <;> decide +kernel⟩,
   ⟨{ cause := .curfew, t0 := 5, event := 7 },
    { live with gov := { live.gov with drop := some { cause := .curfew, t0 := 5, event := 7 } } }, by (try dsimp only) <;> decide +kernel⟩,
   ⟨{ cause := .curfew, t0 := 5, event := 7 },
    { live with gov := { live.gov with drop := some { cause := .curfew, t0 := 5, event := 7 } } }, by (try dsimp only) <;> decide +kernel⟩,
   ⟨{ cause := .curfew, t0 := 5, event := 7 },
    { live with gov := { live.gov with drop := some { cause := .curfew, t0 := 5, event := 7 } } }, by (try dsimp only) <;> decide +kernel⟩,
   ⟨{ cause := .curfew, t0 := 5, event := 7 },
    { live with gov := { live.gov with drop := some { cause := .curfew, t0 := 5, event := 7 } } }, by (try dsimp only) <;> decide +kernel⟩,
   ⟨{ cause := .curfew, t0 := 5, event := 6 },
    { live with gov := { live.gov with drop := some { cause := .curfew, t0 := 5, event := 6 } } }, by (try dsimp only) <;> decide +kernel⟩,
   ⟨{ cause := .curfew, t0 := 5, event := 4 },
    { live with contain := { frozen := true }, gov := { live.gov with drop := some { cause := .curfew, t0 := 5, event := 4 } } },
    by (try dsimp only) <;> decide +kernel⟩,
   ⟨{ cause := .removal, t0 := 5, event := 5, both := true },
    { live with contain := { frozen := true }, gov := { live.gov with drop := some { cause := .removal, t0 := 5, event := 5, both := true } } },
    by (try dsimp only) <;> decide +kernel⟩,
   ⟨{ cause := .removal, t0 := 5, event := 8, both := true },
    { live with contain := { frozen := true }, gov := { live.gov with drop := some { cause := .removal, t0 := 5, event := 8, both := true } } },
    by (try dsimp only) <;> decide +kernel⟩,
   ⟨{ cause := .removal, t0 := 5, event := 9, both := true },
    { live with contain := { frozen := true, buffer := [{ cause := 0x2008, cls := 3 }] }, gov := { live.gov with state := .off, drop := some { cause := .removal, t0 := 5, event := 9, both := true } }, life := { live.life with state := .curfew } },
    by (try dsimp only) <;> decide +kernel⟩⟩

theorem witness_KioskStartsAndDies :
    (∃ s : State, s.life.state = .absent) ∧
    (∃ s : State, s.life.state ≠ .absent) ∧
    (∃ s : State, s.life.state ≠ .absent) :=
  ⟨⟨State.reset, by (try dsimp only) <;> decide +kernel⟩,
   ⟨live, by (try dsimp only) <;> decide +kernel⟩,
   ⟨live, by (try dsimp only) <;> decide +kernel⟩⟩

theorem witness_ContactsAndButton :
    (∃ s : State, packageRuns s = true) ∧
    (∃ s : State, packageRuns s = false) ∧
    (∃ s : State, s.life.state ≠ .absent ∧ s.pins.btn = false ∧ s.life.override = true) ∧
    (∃ s : State, s.life.state ≠ .absent ∧ s.pins.btn = false ∧ s.life.override = false ∧ s.life.press = none) ∧
    (∃ t : Nat, ∃ a : Nat, ∃ began : LifeState, ∃ s : State, let n := max s.now t; s.life.press = some (a, began) ∧ s.pins.btn = true ∧
      s.life.override = false ∧ a + 2000000000 ≤ n ∧ s.life.pressActed = false ∧ resettable began = true ∧ resettable s.life.state = true ∧
      s.life.descent ≠ .toReset) ∧
    (∃ t : Nat, ∃ a : Nat, ∃ began : LifeState, ∃ s : State, let n := max s.now t; s.life.press = some (a, began) ∧ s.pins.btn = true ∧
      s.life.override = false ∧ a + 2000000000 ≤ n ∧ s.life.pressActed = false ∧
      (began = .standby ∨ began = .off ∨ began = .precharge ∨ began = .resetHeld)) ∧
    (∃ t : Nat, ∃ a : Nat, ∃ began : LifeState, ∃ s : State, let n := max s.now t; s.life.press = some (a, began) ∧ s.pins.btn = true ∧
      s.life.override = false ∧ n < a + 2000000000) ∧
    (∃ t : Nat, ∃ a : Nat, ∃ began : LifeState, ∃ s : State, let n := max s.now t; s.life.press = some (a, began) ∧ s.pins.btn = true ∧
      s.life.override = false ∧ a + 30000000000 ≤ n ∧ s.life.stuck = false ∧ began ≠ .curfew) ∧
    (∃ t : Nat, ∃ a : Nat, ∃ began : LifeState, ∃ s : State, let n := max s.now t; s.life.state ≠ .absent ∧ s.pins.btn = true ∧
      s.life.press = some (a, began) ∧ s.life.pressActed = false ∧ a + 60000000 ≤ n ∧ resettable began = true ∧
      resettable s.life.state = true ∧ s.life.descent ≠ .toReset) ∧
    (∃ t : Nat, ∃ a : Nat, ∃ began : LifeState, ∃ s : State, let n := max s.now t; s.life.state ≠ .absent ∧ s.pins.btn = true ∧
      s.life.press = some (a, began) ∧ s.life.pressActed = false ∧ n < a + 60000000) ∧
    (∃ t : Nat, ∃ a : Nat, ∃ s : State, let n := max s.now t; s.pins.btn = false ∧ s.life.releasedSince = some a ∧ a + 1000000000 ≤ n) :=
  ⟨⟨{ live with pins := { live.pins with perst := true } }, by (try dsimp only) <;> decide +kernel⟩,
   ⟨{ live with pins := { live.pins with perst := true }, life := { live.life with state := .resetHeld } },
    by (try dsimp only) <;> decide +kernel⟩,
   ⟨{ live with life := { live.life with override := true } }, by (try dsimp only) <;> decide +kernel⟩,
   ⟨live, by (try dsimp only) <;> decide +kernel⟩,
   ⟨3000000000, 1000000000, .joined,
    { live with pins := { live.pins with btn := true }, life := { live.life with press := some (1000000000, .joined) } },
    by (try dsimp only) <;> decide +kernel⟩,
   ⟨3000000000, 1000000000, .standby,
    { live with pins := { live.pins with btn := true }, life := { live.life with state := .standby, press := some (1000000000, .standby) } },
    by (try dsimp only) <;> decide +kernel⟩,
   ⟨2999999999, 1000000000, .joined,
    { live with pins := { live.pins with btn := true }, life := { live.life with press := some (1000000000, .joined) } },
    by (try dsimp only) <;> decide +kernel⟩,
   ⟨31000000000, 1000000000, .joined,
    { live with pins := { live.pins with btn := true }, life := { live.life with press := some (1000000000, .joined) } },
    by (try dsimp only) <;> decide +kernel⟩,
   ⟨1060000000, 1000000000, .joined,
    { live with pins := { live.pins with btn := true }, life := { live.life with press := some (1000000000, .joined) } },
    by (try dsimp only) <;> decide +kernel⟩,
   ⟨1059999999, 1000000000, .joined,
    { live with pins := { live.pins with btn := true }, life := { live.life with press := some (1000000000, .joined) } },
    by (try dsimp only) <;> decide +kernel⟩,
   ⟨1500000000, 500000000, { live with life := { live.life with stuck := true, stuckHold := true, releasedSince := some 500000000 } },
    by (try dsimp only) <;> decide +kernel⟩⟩

theorem witness_DepartureAndDrain :
    (∃ s : State, s.life.latchOpen = false ∧ s.life.descent ≠ .toReset ∧
      (s.life.state = .joined ∨ s.life.state = .running ∨ s.life.state = .degraded)) ∧
    (∃ s : State, s.life.latchOpen = false ∧ s.life.descent ≠ .toReset ∧ s.life.state = .standby) ∧
    (∃ s : State, s.life.state = .departReq ∧ s.life.descent = .idle ∧ departFired s = true) ∧
    (∃ s : State, s.life.state = .draining ∧ s.life.descent = .idle ∧ drained s = true) ∧
    (∃ t : Nat, ∃ s : State, s.life.state = .draining ∧ s.life.descent = .idle ∧ s.life.since + 1000000 * objAt s 0x3013 0 ≤ max s.now t) ∧
    (∃ t : Nat, ∃ s : State, s.life.state = .draining ∧ max s.now t < s.life.since + 1000000 * objAt s 0x3013 0) ∧
    (∃ s : State, s.life.state = .draining ∧ s.life.descent = .toReset) ∧
    (∃ s : State, s.life.state = .draining ∧ s.life.descent = .toReset) :=
  ⟨⟨live, by (try dsimp only) <;> decide +kernel⟩,
   ⟨{ live with life := { live.life with state := .standby } }, by (try dsimp only) <;> decide +kernel⟩,
   ⟨{ live with life := { live.life with state := .departReq, departCode := 1, departCycle := 1000 }, rb := { live.rb with kioskCmp := [(2, { cycle := 1000, fired := true })], pkgCmp := [(62, { cycle := 1000, fired := true }), (63, { cycle := 1000, fired := true })] }, host := { live.host with queues := [(3, { config := 2, slots := 0x100010, state := .enabled, cplFree := 64, flight := [{ index := 0, data := 4 :: List.replicate 63 0 }] })] } },
    by (try dsimp only) <;> decide +kernel⟩,
   ⟨{ live with life := { live.life with state := .draining, departCode := 2 } }, by (try dsimp only) <;> decide +kernel⟩,
   ⟨90000000000, { live with life := { live.life with state := .draining, departCode := 1 } }, by (try dsimp only) <;> decide +kernel⟩,
   ⟨1000000010, { live with life := { live.life with state := .draining, departCode := 1 } }, by (try dsimp only) <;> decide +kernel⟩,
   ⟨{ live with life := { live.life with state := .draining, descent := .toReset } }, by (try dsimp only) <;> decide +kernel⟩,
   ⟨{ live with life := { live.life with state := .draining, descent := .toReset } }, by (try dsimp only) <;> decide +kernel⟩⟩

theorem witness_StartPath :
    (∃ s : State, s.life.state = .precharge ∧ s.gov.mainMv ≤ s.gov.bulkMv + 1000 ∧ s.life.departWaits = false) ∧
    (∃ s : State, ∃ aOk : Bool, ∃ bOk : Bool, let bank := pickStation aOk bOk s.kiosk; s.life.state = .powered ∧ s.life.descent = .idle ∧
      suppliesUp s.gov = true ∧ bank ≠ 0) ∧
    (∃ s : State, ∃ aOk : Bool, ∃ bOk : Bool, let bank := pickStation aOk bOk s.kiosk; s.life.state = .powered ∧ s.life.descent = .idle ∧
      suppliesUp s.gov = true ∧ bank = 0) ∧
    (∃ t : Nat, ∃ s : State, s.life.state = .resetHeld ∧ s.life.descent = .idle ∧ s.life.heldSince + 10000000 ≤ max s.now t ∧
      resetHeldBy s = false ∧ objAt s 0x3010 0 = 1) ∧
    (∃ t : Nat, ∃ s : State, s.life.state = .resetHeld ∧ s.life.descent = .idle ∧ s.life.heldSince + 10000000 ≤ max s.now t ∧
      resetHeldBy s = false ∧ objAt s 0x3010 0 ≠ 1) :=
  ⟨⟨{ live with life := { live.life with state := .precharge }, gov := { live.gov with state := .precharge, switchClosed := false, clock := 1200, supplyGroups := 0, bulkMv := 53000 } },
    by (try dsimp only) <;> decide +kernel⟩,
   ⟨{ live with life := { live.life with state := .powered }, gov := { live.gov with supplyGroups := 4, supplyMw := 418400 } }, true, true,
    by (try dsimp only) <;> decide +kernel⟩,
   ⟨{ live with life := { live.life with state := .powered }, gov := { live.gov with supplyGroups := 4, supplyMw := 418400 } }, false,
    false, by (try dsimp only) <;> decide +kernel⟩,
   ⟨1000000010, { live with life := { live.life with state := .resetHeld, heldSince := 900000000 } }, by (try dsimp only) <;> decide +kernel⟩,
   ⟨1000000010,
    { live with life := { live.life with state := .resetHeld, heldSince := 900000000 }, kiosk := { live.kiosk with objects := [(0x3010 * 256, 0)] } },
    by (try dsimp only) <;> decide +kernel⟩⟩

theorem witness_VerdictDecides :
    ((∀ n, Config.fusedOff n = false) → ∃ res : TestResults, ∃ s : State, let f := findings s res;
      let s0 := if s.life.startPath = 2 then clearTestedFences f res.cores s else s;
      let kept := (List.range 8).filter fun i => bit f.hbmStacks i && !bit s0.contain.stackFences i; s.life.descent = .idle ∧
      s.life.state = .verdict ∧ 72 ≤ (activeSet s0 f).length ∧ 4 ≤ kept.length ∧ f.bridge = true) ∧
    (∃ res : TestResults, ∃ s : State, let f := findings s res;
      let s0 := if s.life.startPath = 2 then clearTestedFences f res.cores s else s;
      let kept := (List.range 8).filter fun i => bit f.hbmStacks i && !bit s0.contain.stackFences i; s.life.descent = .idle ∧
      s.life.state = .verdict ∧ ((activeSet s0 f).length < 72 ∨ kept.length < 4 ∨ f.bridge = false)) ∧
    (∃ s : State, s.life.descent = .idle ∧ s.life.state = .training ∧ ((∀ e ∈ s.links.ports, e.2.state ≠ .training))) :=
  ⟨fun hf => ⟨{}, { live with life := { live.life with state := .verdict, startPath := 1 }, sweep := { live.sweep with verdict := List.replicate 22 0 ++ [1, 0] ++ List.replicate 40 0 ++ List.replicate 27 255 }, contain := { live.contain with stackFences := 1 } }, by
    have e : ∀ (s : State) (f : Findings), tileUsable s f = fun n => bit f.tiles n && !(tileAt s n).runFence := by
      intro s f; funext n; simp [tileUsable, hf]
    dsimp only; simp only [activeSet, usableEast, usableWest, e]; decide +kernel⟩,
   ⟨{}, { live with life := { live.life with state := .verdict, startPath := 1 } },
    by (try dsimp only); and_intros <;> first | exact .inr (.inr (by decide +kernel)) | decide +kernel⟩,
   ⟨{ live with life := { live.life with state := .training } }, by (try dsimp only) <;> decide +kernel⟩⟩

theorem witness_FullResetBegins :
    ∃ t : Nat, ∃ held : Nat, ∃ s : State, ∃ c : Instr, packageRuns s = true ∧ s.life.descent ≠ .toReset ∧ s.host.linkUp = true ∧
      100000 ≤ held ∧ objAt s 0xA011 0 = 1 ∧ (c = .fullResetRequest t ∨ c = .perstAssert t held ∨ c = .hotReset t ∨ c = .hostLinkDown t) :=
  ⟨1000000010, 100000, { live with kiosk := { live.kiosk with objects := [(0xA011 * 256, 1)] } }, .fullResetRequest 1000000010,
    by (try dsimp only) <;> decide +kernel⟩

theorem witness_TransactionAllOrNothing :
    (∃ t : Nat, ∃ i : Nat, ∃ st : Nat, ∃ s : State, ∃ r : Request, ∃ k : Kiosk, ∃ ops : List Op, let sn : State := { s with now := max s.now t };
      let s0 : State := { sn with kiosk := k }; let x := pathSession s0 r.mailbox r.session;
      let a : Asker := { mailbox := r.mailbox, session := r.session, rights := x.rights, client := r.client };
      let changing := changesAny (min 16 (field r.body 4 1)) (r.body.drop 8); let txn := field r.body 0 4; s.life.state ≠ .absent ∧
      tickSettled sn = true ∧ takeAwake (netAwake sn) s.kiosk = some (r, k) ∧ 8 ≤ r.body.length ∧ parseRequest r.body = some ops ∧
      sessionless r.mailbox r.session = false ∧ x.record.find? (fun o => o.txn = txn) = none ∧
      ((∀ h, x.high = some h → serialNewer 32 txn h = true)) ∧
      runOps a txn 0 ops [] none (openOutcome r.mailbox r.session txn changing s0) = .failed i st) ∧
    (∃ t : Nat, ∃ s : State, ∃ r : Request, ∃ k : Kiosk, ∃ ops : List Op, let sn : State := { s with now := max s.now t };
      let s0 : State := { sn with kiosk := k }; let x := pathSession s0 r.mailbox r.session; let txn := field r.body 0 4;
      ∃ o, s.life.state ≠ .absent ∧ tickSettled sn = true ∧ takeAwake (netAwake sn) s.kiosk = some (r, k) ∧ 8 ≤ r.body.length ∧
      parseRequest r.body = some ops ∧ sessionless r.mailbox r.session = false ∧ x.record.find? (fun o => o.txn = txn) = some o ∧
      o.reply ≠ [] ∧ o.changing = true) :=
  ⟨⟨1000000010, 1, 2,
    asked { phase := 2, rights := 1 } (reqBytes 5 2 (opBytes 2 0x2110 0 0 2 (natLe 300 2 ++ [0, 0]) ++ opBytes 1 0x2110 9 0 0 [])),
    aReq (reqBytes 5 2 (opBytes 2 0x2110 0 0 2 (natLe 300 2 ++ [0, 0]) ++ opBytes 1 0x2110 9 0 0 [])),
    { live.kiosk with mbSession := 9, mbSess := { phase := 2, rights := 1 }, mbQueue := [] },
    [{ kind := .write, idx := 0x2110, sub := 0, offset := 0, length := 2, data := natLe 300 2 }, rdOp 0x2110 9],
    by (try dsimp only); and_intros <;> first | (intro h e; exact nomatch (show none = some _ from e)) | decide +kernel⟩,
   ⟨1000000010,
    asked { phase := 2, rights := 1, high := some 5, record := [{ txn := 5, changing := true, reply := [1] }] } (reqBytes 5 1 (opBytes 2 0x2110 0 0 2 (natLe 300 2 ++ [0, 0]))),
    aReq (reqBytes 5 1 (opBytes 2 0x2110 0 0 2 (natLe 300 2 ++ [0, 0]))),
    { live.kiosk with mbSession := 9, mbSess := { phase := 2, rights := 1, high := some 5, record := [{ txn := 5, changing := true, reply := [1] }] }, mbQueue := [] },
    [{ kind := .write, idx := 0x2110, sub := 0, offset := 0, length := 2, data := natLe 300 2 }],
    { txn := 5, changing := true, reply := [1] }, by (try dsimp only) <;> decide +kernel⟩⟩

theorem witness_WriteTakesEffect :
    ∃ t : Nat, ∃ s : State, ∃ r : Request, ∃ k : Kiosk, ∃ o : Op, ∃ e : Entry, let sn : State := { s with now := max s.now t };
      let s0 : State := { sn with kiosk := k }; let x := pathSession s0 r.mailbox r.session; let txn := field r.body 0 4;
      s.life.state ≠ .absent ∧ tickSettled sn = true ∧ takeAwake (netAwake sn) s.kiosk = some (r, k) ∧ 8 ≤ r.body.length ∧
      parseRequest r.body = some [o] ∧ sessionless r.mailbox r.session = false ∧ curfewNow s = false ∧
      x.record.find? (fun o => o.txn = txn) = none ∧ ((∀ h, x.high = some h → serialNewer 32 txn h = true)) ∧ o.kind = .write ∧
      findEntry o.idx o.sub = some e ∧ e.ty.isBytes = false ∧
      o.idx ∉ [0x1102, 0x1210, 0x1211, 0x1222, 0x1223, 0x2012, 0x3010, 0x3011, 0x3020, 0x3021, 0x7011, 0x8811, 0x8812, 0x9004] ∧
      ((o.idx < 0x7100 ∨ 0x77FF < o.idx)) ∧
      (checkOp { mailbox := r.mailbox, session := r.session, rights := x.rights, client := r.client } o (openOutcome r.mailbox r.session txn (changesAny (min 16 (field r.body 4 1)) (r.body.drop 8)) s0) = 0) :=
  ⟨1000000010, asked { phase := 2, rights := 1 } (reqBytes 5 1 (opBytes 2 0x2110 0 0 2 (natLe 300 2 ++ [0, 0]))),
    aReq (reqBytes 5 1 (opBytes 2 0x2110 0 0 2 (natLe 300 2 ++ [0, 0]))),
    { live.kiosk with mbSession := 9, mbSess := { phase := 2, rights := 1 }, mbQueue := [] },
    { kind := .write, idx := 0x2110, sub := 0, offset := 0, length := 2, data := natLe 300 2 }, (findEntry 0x2110 0).get rfl,
    by (try dsimp only) <;> decide +kernel⟩

theorem witness_DomainCommits :
    (∃ t : Nat, ∃ s : State, ∃ g : Staging, let n := max s.now t; ∃ txn, s.kiosk.staging = some g ∧ g.verifying = some txn ∧
      (tickSettled { s with now := n } = true) ∧ imageKind g.key = 0 ∧ g.key ≠ objKey 0x8800 0 ∧ g.key ≠ objKey 0x8801 0) ∧
    (∃ t : Nat, ∃ s : State, ∃ g : Staging, let n := max s.now t; ∃ txn, s.kiosk.staging = some g ∧ g.verifying = some txn ∧
      (tickSettled { s with now := n } = true) ∧ imageKind g.key = 0 ∧ g.key ≠ objKey 0x8800 0 ∧ g.key ≠ objKey 0x8801 0 ∧
      strAt s (g.key / 256) (g.key % 256) ≠ g.data) ∧
    ((∀ k m g, Config.verifySignature k m g = true) → ∃ t : Nat, ∃ s : State, ∃ g : Staging, let n := max s.now t;
      ∃ txn, s.kiosk.staging = some g ∧ g.verifying = some txn ∧ (tickSettled { s with now := n } = true) ∧ imageKind g.key ≠ 0 ∧
      imageOk (imageKind g.key) g.data = true) ∧
    (∃ t : Nat, ∃ s : State, ∃ g : Staging, let n := max s.now t; ∃ txn, s.kiosk.staging = some g ∧ g.verifying = some txn ∧
      (tickSettled { s with now := n } = true) ∧ imageKind g.key ≠ 0 ∧ imageOk (imageKind g.key) g.data = false) ∧
    (∃ t : Nat, ∃ s : State, ∃ g : Staging, let n := max s.now t; s.kiosk.staging = some g ∧ g.verifying = none ∧
      g.seen + objAt s 0x1103 0 * 1000000 ≤ n) ∧
    (∃ t : Nat, ∃ s : State, ∃ g : Staging, let n := max s.now t; s.kiosk.staging = some g ∧ g.verifying = none ∧
      n < g.seen + objAt s 0x1103 0 * 1000000) :=
  ⟨⟨1000000010,
    { live with kiosk := { live.kiosk with staging := some { session := 3, mailbox := false, key := 0x1221 * 256, data := [1, 2], seen := 4, verifying := some 8 } } },
    { session := 3, mailbox := false, key := 0x1221 * 256, data := [1, 2], seen := 4, verifying := some 8 }, 8,
    by (try dsimp only) <;> decide +kernel⟩,
   ⟨1000000010,
    { live with kiosk := { live.kiosk with staging := some { session := 3, mailbox := false, key := 0x1221 * 256, data := [1, 2], seen := 4, verifying := some 8 } } },
    { session := 3, mailbox := false, key := 0x1221 * 256, data := [1, 2], seen := 4, verifying := some 8 }, 8,
    by (try dsimp only) <;> decide +kernel⟩,
   fun hv => ⟨1000000010, { live with kiosk := { live.kiosk with staging := some { session := 3, mailbox := false, key := 0x1300 * 256, data := anImage, seen := 4, verifying := some 8 } } }, { session := 3, mailbox := false, key := 0x1300 * 256, data := anImage, seen := 4, verifying := some 8 }, 8, by simp only [imageOk, hv, Bool.and_true]; decide +kernel⟩,
   ⟨1000000010,
    { live with kiosk := { live.kiosk with staging := some { session := 3, mailbox := false, key := 0x1300 * 256, data := [1], seen := 4, verifying := some 8 } } },
    { session := 3, mailbox := false, key := 0x1300 * 256, data := [1], seen := 4, verifying := some 8 }, 8,
    by (try dsimp only) <;> decide +kernel⟩,
   ⟨61000000010,
    { live with kiosk := { live.kiosk with staging := some { session := 3, mailbox := false, key := 0x1300 * 256, data := [1], seen := 1000000010 } } },
    { session := 3, mailbox := false, key := 0x1300 * 256, data := [1], seen := 1000000010 }, by (try dsimp only) <;> decide +kernel⟩,
   ⟨61000000009,
    { live with kiosk := { live.kiosk with staging := some { session := 3, mailbox := false, key := 0x1300 * 256, data := [1], seen := 1000000010 } } },
    { session := 3, mailbox := false, key := 0x1300 * 256, data := [1], seen := 1000000010 }, by (try dsimp only) <;> decide +kernel⟩⟩

theorem witness_MailboxAndFrames :
    (∃ s : State, hostReady s = true) ∧
    (∃ s : State, hostReady s = true) ∧
    (∃ s : State, hostReady s = true ∧ s.kiosk.mbSession ≠ 0 ∧ s.kiosk.mbBusy = false ∧ 8 ≤ s.kiosk.mbReqLength ∧ s.kiosk.mbReqLength ≤ 1280) ∧
    (∃ s : State, hostReady s = true ∧
      (s.kiosk.mbSession = 0 ∨ s.kiosk.mbBusy = true ∨ s.kiosk.mbReqLength < 8 ∨ 1280 < s.kiosk.mbReqLength)) ∧
    (∃ v : Half, ∃ s : State, hostReady s = true ∧ (1 ≤ v.toNat ∧ v.toNat ≤ 2047 ∨ v.toNat = 0xFFFF)) ∧
    (∃ v : Half, ∃ s : State, hostReady s = true ∧ (v.toNat = 0 ∨ 2047 < v.toNat ∧ v.toNat < 0xFFFF)) ∧
    (∃ t : Nat, ∃ src : NetSource, ∃ f : List Byte, ∃ s : State, let now : State := { s with now := max s.now t };
      (frameReaches now f = false ∨ sourceOk src = false)) ∧
    (∃ t : Nat, ∃ src : NetSource, ∃ f : List Byte, ∃ s : State, let now : State := { s with now := max s.now t };
      (frameReaches now f = false ∨ sourceOk src = false)) ∧
    (∃ t : Nat, ∃ src : NetSource, ∃ f : List Byte, ∃ s : State, let now : State := { s with now := max s.now t }; let n := field f 6 2;
      let x := tabGet {} n s.kiosk.sessions; frameReaches now f = true ∧ sourceOk src = true ∧ headerOk f = true ∧ frameTagRule s f = true ∧
      field f 3 1 = 1 ∧ netAwake now = true ∧ s.kiosk.jopQueue.length < 32 ∧ ((∀ o ∈ x.record, o.txn = field f 32 4 → o.reply ≠ []))) ∧
    (∃ t : Nat, ∃ src : NetSource, ∃ f : List Byte, ∃ s : State, let now : State := { s with now := max s.now t };
      frameReaches now f = true ∧ sourceOk src = true ∧ headerOk f = true ∧ frameTagRule s f = true ∧ field f 3 1 = 1 ∧
      netAwake now = true ∧ 32 ≤ s.kiosk.jopQueue.length) ∧
    (∃ t : Nat, ∃ src : NetSource, ∃ f : List Byte, ∃ s : State, let now : State := { s with now := max s.now t };
      frameReaches now f = true ∧ sourceOk src = true ∧ (headerOk f = false ∨ frameTagRule s f = false)) ∧
    (∃ t : Nat, ∃ src : NetSource, ∃ f : List Byte, ∃ s : State, let now : State := { s with now := max s.now t };
      frameReaches now f = true ∧ sourceOk src = true ∧ headerOk f = true ∧ frameTagRule s f = true) :=
  ⟨⟨asked { phase := 2, rights := 1 } [1], by (try dsimp only) <;> decide +kernel⟩,
   ⟨asked { phase := 2, rights := 1 } [1], by (try dsimp only) <;> decide +kernel⟩,
   ⟨{ live with kiosk := { live.kiosk with mbSession := 9, mbReqLength := 8, mbRequest := [(0, 5)] } },
    by (try dsimp only) <;> decide +kernel⟩,
   ⟨{ live with kiosk := { live.kiosk with mbSession := 9, mbReqLength := 7, mbRequest := [(0, 5)] } },
    by (try dsimp only) <;> decide +kernel⟩,
   ⟨2047, live, by (try dsimp only) <;> decide +kernel⟩,
   ⟨2048, live, by (try dsimp only) <;> decide +kernel⟩,
   ⟨0, { hopLimit := 254 }, frameOf 1 0 0 [1, 2, 3, 4], live, by (try dsimp only) <;> decide +kernel⟩,
   ⟨0, {}, frameOf 1 0 0 [1, 2, 3, 4], { live with net := { live.net with conflict := true } }, by (try dsimp only) <;> decide +kernel⟩,
   ⟨1000000010, { client := 5 }, frameOf 1 0 0 (reqBytes 5 1 (opBytes 1 0x2110 0 0 0 [])),
    { live with kiosk := { live.kiosk with sessions := [(3, { phase := 2, rights := 1 })] } }, by (try dsimp only) <;> decide +kernel⟩,
   ⟨1000000010, { client := 7 * 65536 + 9 }, frameOf 1 0 0 (reqBytes 5 1 (opBytes 1 0x2110 0 0 0 [])),
    { live with net := { live.net with neighbours := [(7, 3)] }, kiosk := { live.kiosk with jopQueue := List.replicate 32 { mailbox := false, session := 3, body := [], at_ := 1 } } },
    by (try dsimp only) <;> decide +kernel⟩,
   ⟨1000000010, {}, [1, 2, 3], live, by (try dsimp only) <;> decide +kernel⟩,
   ⟨1000000010, {}, frameOf 1 0 0 [1, 2, 3, 4], { live with kiosk := { live.kiosk with sessions := [(3, { phase := 2, rights := 1 })] } },
    by (try dsimp only) <;> decide +kernel⟩⟩

theorem witness_SessionsOpenAndEnd :
    (∃ t : Nat, ∃ src : NetSource, ∃ f : List Byte, ∃ s : State, let now : State := { s with now := max s.now t };
      let taken : Prop := frameReaches now f = true ∧ netAwake now = true ∧ sourceOk src = true ∧ headerOk f = true ∧ frameTagRule s f = true;
      let s1 := touchSession (field f 6 2) now; let sec := (max s.now t - s.kiosk.startedAt) / 1000000000;
      let opened := if s.kiosk.openSecond = sec then s.kiosk.openCount else 0; taken ∧ field f 3 1 = 0x20 ∧ f.length = 52 ∧ opened < 4 ∧
      credentialEnabled s (field f 32 1) = true ∧ sessionsIn s1 2 < 8 ∧ sessionsIn s1 1 < 4) ∧
    (∃ t : Nat, ∃ src : NetSource, ∃ f : List Byte, ∃ s : State, let now : State := { s with now := max s.now t };
      let taken : Prop := frameReaches now f = true ∧ netAwake now = true ∧ sourceOk src = true ∧ headerOk f = true ∧ frameTagRule s f = true;
      let s1 := touchSession (field f 6 2) now; let sec := (max s.now t - s.kiosk.startedAt) / 1000000000;
      let opened := if s.kiosk.openSecond = sec then s.kiosk.openCount else 0; taken ∧ field f 3 1 = 0x20 ∧ f.length = 52 ∧
      (4 ≤ opened ∨ credentialEnabled s (field f 32 1) = false ∨ 8 ≤ sessionsIn s1 2 ∨ 4 ≤ sessionsIn s1 1)) ∧
    (∃ t : Nat, ∃ n : Nat, ∃ src : NetSource, ∃ f : List Byte, ∃ s : State, let now : State := { s with now := max s.now t };
      let taken : Prop := frameReaches now f = true ∧ netAwake now = true ∧ sourceOk src = true ∧ headerOk f = true ∧ frameTagRule s f = true;
      taken ∧ field f 6 2 = n ∧ field f 3 1 = 0x22 ∧ (tabGet {} n s.kiosk.sessions).phase = 1 ∧ sessionsIn s 2 < 8) ∧
    (∃ t : Nat, ∃ n : Nat, ∃ src : NetSource, ∃ f : List Byte, ∃ s : State, let now : State := { s with now := max s.now t };
      let taken : Prop := frameReaches now f = true ∧ netAwake now = true ∧ sourceOk src = true ∧ headerOk f = true ∧ frameTagRule s f = true;
      taken ∧ field f 6 2 = n ∧ field f 3 1 = 0x22 ∧ (tabGet {} n s.kiosk.sessions).phase = 2) ∧
    (∃ t : Nat, ∃ n : Nat, ∃ src : NetSource, ∃ f : List Byte, ∃ s : State, let now : State := { s with now := max s.now t };
      let taken : Prop := frameReaches now f = true ∧ netAwake now = true ∧ sourceOk src = true ∧ headerOk f = true ∧ frameTagRule s f = true;
      taken ∧ field f 6 2 = n ∧ field f 3 1 = 0x23 ∧ n ≠ 0) ∧
    (∃ t : Nat, ∃ n : Nat, ∃ s : State, (tabGet {} n s.kiosk.sessions).phase = 1 ∧
      (tabGet {} n s.kiosk.sessions).seen + 2000000000 ≤ max s.now t) ∧
    (∃ t : Nat, ∃ n : Nat, ∃ s : State, (tabGet {} n s.kiosk.sessions).phase = 2 ∧
      (tabGet {} n s.kiosk.sessions).seen + objAt s 0x1220 0 * 1000000 ≤ max s.now t) :=
  ⟨⟨1000000010, {}, frameOf 0x20 0 0 (2 :: List.replicate 19 7),
    { live with kiosk := { live.kiosk with strings := [(0x1222 * 256 + 2, List.replicate 32 1)] } }, by (try dsimp only) <;> decide +kernel⟩,
   ⟨1000000010, {}, frameOf 0x20 0 0 (2 :: List.replicate 19 7), { live with kiosk := { live.kiosk with openSecond := 1, openCount := 4 } },
    by (try dsimp only) <;> decide +kernel⟩,
   by
    obtain ⟨a, b, c, d, e, f, g, h, i, j, k, l, m, n, o, p, ht⟩ := exists_tag [] (jopHeader 34 1 3 (List.replicate 16 (7 : Byte)).length [] ++ (List.replicate 16 (7 : Byte)))
    have hh : ∀ fr, fr = (jopHeader 34 1 3 (List.replicate 16 (7 : Byte)).length []).take 16 ++ [a, b, c, d, e, f, g, h, i, j, k, l, m, n,
     o, p] ++ (List.replicate 16 (7 : Byte)) →
        tagOk [] fr = true := by
      intro fr hf; subst hf
      refine tag_of _ (jopHeader 34 1 3 (List.replicate 16 (7 : Byte)).length [] ++ (List.replicate 16 (7 : Byte))) [a, b, c, d, e, f, g, h,
      i, j, k, l, m, n, o, p] ?_ ?_ ?_ ?_ ht <;> first | rfl | decide | (simp [field, jopHeader, natLe, leNat, bit])
    refine ⟨1000000010, 3, {}, _, { live with kiosk := { live.kiosk with sessions := [(3, { phase := 1, slot := 2 })] } }, ⟨?_, ?_, rfl, ?_, confirm_of _ _ rfl rfl (hh _ rfl)⟩, ?_⟩
    all_goals (try dsimp only)
    all_goals first | rfl | (and_intros <;> first | rfl | decide | decide +kernel),
   by
    obtain ⟨a, b, c, d, e, f, g, h, i, j, k, l, m, n, o, p, ht⟩ := exists_tag [] (jopHeader 34 1 3 (List.replicate 16 (7 : Byte)).length [] ++ (List.replicate 16 (7 : Byte)))
    have hh : ∀ fr, fr = (jopHeader 34 1 3 (List.replicate 16 (7 : Byte)).length []).take 16 ++ [a, b, c, d, e, f, g, h, i, j, k, l, m, n,
     o, p] ++ (List.replicate 16 (7 : Byte)) →
        tagOk [] fr = true := by
      intro fr hf; subst hf
      refine tag_of _ (jopHeader 34 1 3 (List.replicate 16 (7 : Byte)).length [] ++ (List.replicate 16 (7 : Byte))) [a, b, c, d, e, f, g, h,
      i, j, k, l, m, n, o, p] ?_ ?_ ?_ ?_ ht <;> first | rfl | decide | (simp [field, jopHeader, natLe, leNat, bit])
    refine ⟨1000000010, 3, {}, _, { live with kiosk := { live.kiosk with sessions := [(3, { phase := 2, slot := 2 })] } }, ⟨?_, ?_, rfl, ?_, session_of _ _ 34 rfl (by decide) rfl (hh _ rfl)⟩, ?_⟩
    all_goals (try dsimp only)
    all_goals first | rfl | (and_intros <;> first | rfl | decide | decide +kernel),
   by
    obtain ⟨a, b, c, d, e, f, g, h, i, j, k, l, m, n, o, p, ht⟩ := exists_tag [] (jopHeader 35 1 3 ([] : List Byte).length [] ++ ([] : List Byte))
    have hh : ∀ fr, fr = (jopHeader 35 1 3 ([] : List Byte).length []).take 16 ++ [a, b, c, d, e, f, g, h, i, j, k, l, m, n, o,
     p] ++ ([] : List Byte) →
        tagOk [] fr = true := by
      intro fr hf; subst hf
      refine tag_of _ (jopHeader 35 1 3 ([] : List Byte).length [] ++ ([] : List Byte)) [a, b, c, d, e, f, g, h, i, j, k, l, m, n, o,
      p] ?_ ?_ ?_ ?_ ht <;> first | rfl | decide | (simp [field, jopHeader, natLe, leNat, bit])
    refine ⟨1000000010, 3, {}, _, { live with kiosk := { live.kiosk with sessions := [(3, { phase := 2, slot := 2 }), (4, { phase := 2 })], jopQueue := [{ mailbox := false, session := 3, body := [], at_ := 1 }, { mailbox := false, session := 4, body := [], at_ := 1 }] } }, ⟨?_, ?_, rfl, ?_, session_of _ _ 35 rfl (by decide) rfl (hh _ rfl)⟩, ?_⟩
    all_goals (try dsimp only)
    all_goals first | rfl | (and_intros <;> first | rfl | decide | decide +kernel),
   ⟨3000000010, 3, { live with kiosk := { live.kiosk with sessions := [(3, { phase := 1, slot := 2, seen := 1000000000 })] } },
    by (try dsimp only) <;> decide +kernel⟩,
   ⟨9900000000010, 3,
    { live with kiosk := { live.kiosk with sessions := [(3, { phase := 2, slot := 2, seen := 1000000000 })], staging := some { session := 3, mailbox := false, key := 0x1300 * 256, data := [1], seen := 1000000010 } } },
    by (try dsimp only) <;> decide +kernel⟩⟩

theorem witness_CoordinatorArises :
    (∃ t : Nat, ∃ s : State, let n := max s.now t; let now : State := { s with now := n }; (tabGet {} 0 s.rb.kioskCmp).fired = true ∧
      kioskTurn 0 s.rb = true ∧ s.net.idWritten = false ∧ s.net.fallbackWritten = false ∧ s.net.state = .coordinator ∧ netMaySend now = true) ∧
    (∃ t : Nat, ∃ s : State, let n := max s.now t; let now : State := { s with now := n }; (tabGet {} 0 s.rb.kioskCmp).fired = true ∧
      kioskTurn 0 s.rb = true ∧ s.net.idWritten = false ∧ s.net.fallbackWritten = false ∧ s.net.state = .listen ∧ s.rb.state = .locked ∧
      4 ≤ s.net.listened ∧ netMaySend now = true) ∧
    (∃ s : State, (tabGet {} 0 s.rb.kioskCmp).fired = true ∧ kioskTurn 0 s.rb = true ∧ s.net.idWritten = false ∧
      s.net.fallbackWritten = false ∧ s.net.state = .listen ∧ (s.rb.state ≠ .locked ∨ s.net.listened < 4)) ∧
    (∃ s : State, (tabGet {} 0 s.rb.kioskCmp).fired = true ∧ kioskTurn 0 s.rb = true ∧ s.net.idWritten = false ∧
      s.net.fallbackWritten = false ∧ s.net.state = .follower) ∧
    (∃ s : State, s.net.claiming = true) ∧
    (∃ s : State, s.net.claiming = true) ∧
    (∃ t : Nat, ∃ s : State, let n := max s.now t; let now : State := { s with now := n }; s.net.state = .backoff ∧ s.net.claiming = false ∧
      s.net.backoffEnd ≤ n ∧ netMaySend now = true) ∧
    (∃ t : Nat, ∃ s : State, let n := max s.now t; s.net.state = .backoff ∧ s.net.claiming = false ∧ n < s.net.backoffEnd) ∧
    (∃ s : State, s.net.state = .backoff ∧ s.net.claiming = false) :=
  ⟨⟨1000000010,
    { live with net := { live.net with state := .coordinator, nodeId := 0 }, rb := { live.rb with cycle := 1000, phase := 1024, unnumbered := true, kioskCmp := [(0, { fired := true })] } },
    by (try dsimp only) <;> decide +kernel⟩,
   ⟨1000000010,
    { live with net := { live.net with state := .listen, nodeId := 0, listened := 4 }, rb := { live.rb with cycle := 1000, phase := 1024, kioskCmp := [(0, { fired := true })] } },
    by (try dsimp only) <;> decide +kernel⟩,
   ⟨{ live with net := { live.net with state := .listen, nodeId := 0, listened := 3 }, rb := { live.rb with phase := 1024, kioskCmp := [(0, { fired := true })] } },
    by (try dsimp only) <;> decide +kernel⟩,
   ⟨{ live with net := { live.net with gotCycle := none, silent := 2, statusDue := true }, rb := { live.rb with phase := 1024, kioskCmp := [(0, { fired := true })] } },
    by (try dsimp only) <;> decide +kernel⟩,
   ⟨{ live with net := { live.net with state := .listen, nodeId := 0, claiming := true } }, by (try dsimp only) <;> decide +kernel⟩,
   ⟨{ live with net := { live.net with state := .listen, nodeId := 0, claiming := true, collisions := 3 } },
    by (try dsimp only) <;> decide +kernel⟩,
   ⟨1000000010, { live with net := { live.net with state := .backoff, nodeId := 0, backoffEnd := 1000000010, collisions := 3 } },
    by (try dsimp only) <;> decide +kernel⟩,
   ⟨0, { live with net := { live.net with state := .backoff, nodeId := 0, backoffEnd := 1000000011, collisions := 3 } },
    by (try dsimp only) <;> decide +kernel⟩,
   ⟨{ live with net := { live.net with state := .backoff, nodeId := 0, collisions := 3 } }, by (try dsimp only) <;> decide +kernel⟩⟩

theorem witness_BeaconsFollowed :
    (∃ t : Nat, ∃ src : NetSource, ∃ f : List Byte, ∃ s : State, let n := max s.now t; let now : State := { s with now := n };
      let beacon : Prop := frameReaches now f = true ∧ sourceOk src = true ∧ headerOk f = true ∧ frameTagRule s f = true ∧
      field f 3 1 = 0x10 ∧ f.length = 64;
      let deferred := bit (field (f.drop 32) 6 2) 1; beacon ∧ s.net.state = .follower ∧ sleeping now = false ∧ deferred = false) ∧
    (∃ t : Nat, ∃ src : NetSource, ∃ f : List Byte, ∃ s : State, let n := max s.now t; let now : State := { s with now := n };
      let beacon : Prop := frameReaches now f = true ∧ sourceOk src = true ∧ headerOk f = true ∧ frameTagRule s f = true ∧
      field f 3 1 = 0x10 ∧ f.length = 64;
      let deferred := bit (field (f.drop 32) 6 2) 1; beacon ∧ s.net.state = .follower ∧ sleeping now = true ∧ deferred = false ∧
      inGuard now = true) ∧
    (∃ t : Nat, ∃ src : NetSource, ∃ f : List Byte, ∃ s : State, let n := max s.now t; let now : State := { s with now := n };
      let beacon : Prop := frameReaches now f = true ∧ sourceOk src = true ∧ headerOk f = true ∧ frameTagRule s f = true ∧
      field f 3 1 = 0x10 ∧ f.length = 64;
      let deferred := bit (field (f.drop 32) 6 2) 1; beacon ∧ s.net.state = .follower ∧ sleeping now = true ∧
      (deferred = true ∨ inGuard now = false)) ∧
    (∃ t : Nat, ∃ src : NetSource, ∃ f : List Byte, ∃ s : State, let n := max s.now t; let now : State := { s with now := n };
      let beacon : Prop := frameReaches now f = true ∧ sourceOk src = true ∧ headerOk f = true ∧ frameTagRule s f = true ∧
      field f 3 1 = 0x10 ∧ f.length = 64;
      let deferred := bit (field (f.drop 32) 6 2) 1; beacon ∧ s.net.state = .follower ∧ sleeping now = false ∧ deferred = true) ∧
    (∃ t : Nat, ∃ src : NetSource, ∃ f : List Byte, ∃ s : State, let n := max s.now t; let now : State := { s with now := n };
      let beacon : Prop := frameReaches now f = true ∧ sourceOk src = true ∧ headerOk f = true ∧ frameTagRule s f = true ∧
      field f 3 1 = 0x10 ∧ f.length = 64;
      let deferred := bit (field (f.drop 32) 6 2) 1; beacon ∧ s.net.state = .searching ∧ deferred = false) ∧
    (∃ t : Nat, ∃ src : NetSource, ∃ f : List Byte, ∃ s : State, let n := max s.now t; let now : State := { s with now := n };
      let beacon : Prop := frameReaches now f = true ∧ sourceOk src = true ∧ headerOk f = true ∧ frameTagRule s f = true ∧
      field f 3 1 = 0x10 ∧ f.length = 64;
      beacon ∧ s.net.state = .listen ∧ s.rb.state = .locked) ∧
    (∃ t : Nat, ∃ src : NetSource, ∃ f : List Byte, ∃ s : State, let n := max s.now t; let now : State := { s with now := n };
      let beacon : Prop := frameReaches now f = true ∧ sourceOk src = true ∧ headerOk f = true ∧ frameTagRule s f = true ∧
      field f 3 1 = 0x10 ∧ f.length = 64;
      beacon ∧ s.net.state = .listen ∧ s.rb.state ≠ .locked) ∧
    (∃ t : Nat, ∃ src : NetSource, ∃ f : List Byte, ∃ s : State, let n := max s.now t; let now : State := { s with now := n };
      let beacon : Prop := frameReaches now f = true ∧ sourceOk src = true ∧ headerOk f = true ∧ frameTagRule s f = true ∧
      field f 3 1 = 0x10 ∧ f.length = 64;
      beacon ∧ s.net.state = .backoff) ∧
    (Config.eui64 = 5 → ∃ t : Nat, ∃ src : NetSource, ∃ f : List Byte, ∃ s : State, let n := max s.now t;
      let now : State := { s with now := n };
      let beacon : Prop := frameReaches now f = true ∧ sourceOk src = true ∧ headerOk f = true ∧ frameTagRule s f = true ∧
      field f 3 1 = 0x10 ∧ f.length = 64;
      let deferred := bit (field (f.drop 32) 6 2) 1; beacon ∧ s.net.state = .coordinator ∧ deferred = true) ∧
    (Config.eui64 = 5 → ∃ t : Nat, ∃ src : NetSource, ∃ f : List Byte, ∃ s : State, let n := max s.now t;
      let now : State := { s with now := n };
      let beacon : Prop := frameReaches now f = true ∧ sourceOk src = true ∧ headerOk f = true ∧ frameTagRule s f = true ∧
      field f 3 1 = 0x10 ∧ f.length = 64;
      let deferred := bit (field (f.drop 32) 6 2) 1; beacon ∧ s.net.state = .coordinator ∧ deferred = false ∧
      field (f.drop 32) 8 8 < Config.eui64) ∧
    (Config.eui64 = 5 → ∃ t : Nat, ∃ src : NetSource, ∃ f : List Byte, ∃ s : State, let n := max s.now t;
      let now : State := { s with now := n };
      let beacon : Prop := frameReaches now f = true ∧ sourceOk src = true ∧ headerOk f = true ∧ frameTagRule s f = true ∧
      field f 3 1 = 0x10 ∧ f.length = 64;
      let deferred := bit (field (f.drop 32) 6 2) 1; beacon ∧ s.net.state = .coordinator ∧ deferred = false ∧
      Config.eui64 ≤ field (f.drop 32) 8 8) ∧
    (∃ t : Nat, ∃ s : State, let n := max s.now t; let now : State := { s with now := n }; sleeping now = true ∧ s.net.awaiting = true ∧
      guardOver now = true) ∧
    (∃ t : Nat, ∃ s : State, let n := max s.now t; let now : State := { s with now := n }; (sleeping now = false ∨ s.net.awaiting = false)) ∧
    (∃ s : State, s.net.state = .searching ∧ s.net.beaconLost = false ∧ s.net.searchFrom + 16 * 4096 ≤ s.rb.cycle * 4096 + s.rb.phase) ∧
    (∃ s : State, (s.net.state ≠ .searching ∨ s.net.beaconLost = true)) ∧
    (∃ s : State, s.net.state = .follower ∧ objAt s 0x1214 0 = 1 ∧ s.rb.state = .locked ∧ 4 ≤ s.net.silent ∧ beaconMayCome s = false) ∧
    (∃ s : State, (s.net.state ≠ .follower ∨ objAt s 0x1214 0 ≠ 1 ∨ s.rb.state ≠ .locked ∨ s.net.silent < 4)) :=
  ⟨⟨0, {}, aBeacon 0 9, { live with net := { live.net with awaiting := true, silent := 2 } }, by (try dsimp only) <;> decide +kernel⟩,
   ⟨0, {}, aBeacon 0 9, asleep, by (try dsimp only) <;> decide +kernel⟩,
   ⟨0, {}, aBeacon 2 9, asleep, by (try dsimp only) <;> decide +kernel⟩,
   ⟨0, {}, aBeacon 2 9, { live with net := { live.net with silent := 3 } }, by (try dsimp only) <;> decide +kernel⟩,
   ⟨0, {}, aBeacon 0 9,
    { live with net := { live.net with state := .searching, beaconMissed := true, beaconLost := true, missedInstants := 2 } },
    by (try dsimp only) <;> decide +kernel⟩,
   ⟨0, {}, aBeacon 0 9, node .listen 0, by (try dsimp only) <;> decide +kernel⟩,
   ⟨0, {}, aBeacon 0 9, { (node .listen 0) with rb := { live.rb with state := .coast } }, by (try dsimp only) <;> decide +kernel⟩,
   ⟨0, {}, aBeacon 2 9, node .backoff 0, by (try dsimp only) <;> decide +kernel⟩,
   fun h5 => ⟨0, {}, aBeacon 2 9, node .coordinator 0, by (try dsimp only); and_intros <;>
     first | decide +kernel | (simp only [linkLocal, h5]; decide +kernel) | (simp only [h5]; decide +kernel) | (rw [h5]; decide +kernel)⟩,
   fun h5 => ⟨0, {}, aBeacon 0 4, node .coordinator 0, by (try dsimp only); and_intros <;>
     first | decide +kernel | (simp only [linkLocal, h5]; decide +kernel) | (simp only [h5]; decide +kernel) | (rw [h5]; decide +kernel)⟩,
   fun h5 => ⟨0, {}, aBeacon 0 5, node .coordinator 0, by (try dsimp only); and_intros <;>
     first | decide +kernel | (simp only [linkLocal, h5]; decide +kernel) | (simp only [h5]; decide +kernel) | (rw [h5]; decide +kernel)⟩,
   ⟨1000000010,
    { asleep with net := { asleep.net with awaiting := true }, rb := { asleep.rb with phase := 1200, mark1024 := some (99940000 * 2 ^ 32, 1000) }, kiosk := { asleep.kiosk with jopQueue := [{ mailbox := false, session := 3, body := [], at_ := 1 }] } },
    by (try dsimp only) <;> decide +kernel⟩,
   ⟨0, live, by (try dsimp only) <;> decide +kernel⟩,
   ⟨{ live with net := { live.net with state := .searching, searchFrom := 984 } }, by (try dsimp only) <;> decide +kernel⟩,
   ⟨live, by (try dsimp only) <;> decide +kernel⟩,
   ⟨{ live with net := { live.net with silent := 4 }, kiosk := { live.kiosk with objects := [(0x1214 * 256, 1)] } },
    by (try dsimp only) <;> decide +kernel⟩,
   ⟨{ live with net := { live.net with silent := 3 }, kiosk := { live.kiosk with objects := [(0x1214 * 256, 1)] } },
    by (try dsimp only) <;> decide +kernel⟩⟩

theorem witness_SlotsAndNotices :
    (∃ s : State, s.life.state ≠ .absent ∧ s.net.statusDue = true ∧ statusSlotOver s = true) ∧
    (∃ s : State, s.life.state ≠ .absent ∧ s.net.statusDue = true ∧ statusSlotOver s = false) ∧
    (∃ t : Nat, ∃ s : State, let n := max s.now t; let now : State := { s with now := n }; s.life.state ≠ .absent ∧ s.net.statusDue = true ∧
      inStatusSlot s = true ∧ netMaySend now = true ∧ s.net.resync = none) ∧
    (∃ t : Nat, ∃ s : State, let n := max s.now t; let now : State := { s with now := n }; ∃ r, s.life.state ≠ .absent ∧
      s.net.statusDue = true ∧ inStatusSlot s = true ∧ netMaySend now = true ∧ s.net.resync = some r) ∧
    (∃ t : Nat, ∃ src : NetSource, ∃ f : List Byte, ∃ s : State, let n := max s.now t; let now : State := { s with now := n };
      s.life.state ≠ .absent ∧ frameReaches now f = true ∧ sourceOk src = true ∧ headerOk f = true ∧ frameTagRule s f = true ∧
      field f 3 1 = 0x11 ∧ f.length = 48 ∧ s.net.state = .coordinator ∧ field (f.drop 32) 8 1 < 32 ∧
      bit s.net.heardNow (field (f.drop 32) 8 1) = false) ∧
    (∃ t : Nat, ∃ s : State, let n := max s.now t; let now : State := { s with now := n }; ∃ x, ∃ rest, s.life.state ≠ .absent ∧
      netMaySend now = true ∧ quietWindow s = false ∧ s.net.notices = x :: rest ∧ x.sentOnce = false) ∧
    (∃ t : Nat, ∃ s : State, let n := max s.now t; let now : State := { s with now := n }; ∃ x, s.life.state ≠ .absent ∧
      netMaySend now = true ∧ quietWindow s = false ∧ s.net.notices = [x] ∧ x.sentOnce = true ∧ x.again = true) ∧
    (∃ t : Nat, ∃ s : State, let n := max s.now t; let now : State := { s with now := n }; ∃ e, ∃ rest, s.life.state ≠ .absent ∧
      netMaySend now = true ∧ quietWindow s = false ∧ s.net.notices = [] ∧ s.net.held = e :: rest) ∧
    (∃ t : Nat, ∃ s : State, let n := max s.now t; let now : State := { s with now := n }; s.life.state ≠ .absent ∧
      (netMaySend now = false ∨ quietWindow s = true)) ∧
    (∃ b : Bool, ∃ s : State, s.life.state ≠ .absent ∧ s.net.state ≠ .coordinator ∧
      (s.net.state ≠ .listen ∨ b = false ∨ s.rb.state ≠ .locked)) ∧
    (∃ s : State, s.life.state ≠ .absent ∧ s.net.state = .coordinator) ∧
    (∃ s : State, s.life.state ≠ .absent ∧ s.net.state = .listen ∧ s.rb.state = .locked) ∧
    (∃ t : Nat, ∃ src : NetSource, ∃ f : List Byte, ∃ s : State, let n := max s.now t; let now : State := { s with now := n };
      s.life.state ≠ .absent ∧ receiverOn now = true ∧ sleeping now = false ∧ addressUp now = true ∧ field f 0 1 = 128 ∧
      netMaySend now = true ∧ quietWindow s = false ∧ tabGet 0 (clientAddress src.client) s.net.neighbours ≠ 0) ∧
    (Config.eui64 = 5 → ∃ t : Nat, ∃ src : NetSource, ∃ f : List Byte, ∃ s : State, let n := max s.now t;
      let now : State := { s with now := n }; s.life.state ≠ .absent ∧ receiverOn now = true ∧ sleeping now = false ∧ tentative now = true ∧
      src.hopLimit = 255 ∧ field f 1 1 = 0 ∧ 24 ≤ f.length ∧ fieldBE f 8 16 = linkLocal ∧ (field f 0 1 = 136 ∨ field f 0 1 = 135 ∧
      clientAddress src.client = 0)) :=
  ⟨⟨{ live with net := { live.net with statusDue := true }, rb := { live.rb with cycle := 1001, phase := 6 * 256 } },
    by (try dsimp only) <;> decide +kernel⟩,
   ⟨{ live with net := { live.net with statusDue := true }, rb := { live.rb with cycle := 1001, phase := 6 * 256 - 1 } },
    by (try dsimp only) <;> decide +kernel⟩,
   ⟨1000000010, { live with net := { live.net with statusDue := true }, rb := { live.rb with cycle := 1001, phase := 5 * 256 + 3 } },
    by (try dsimp only) <;> decide +kernel⟩,
   ⟨1000000010,
    { live with net := { live.net with statusDue := true, resync := some { cause := 0x1005, cycle := 3 } }, rb := { live.rb with cycle := 1001, phase := 5 * 256 + 3 } },
    { cause := 0x1005, cycle := 3 }, by (try dsimp only) <;> decide +kernel⟩,
   ⟨1000000010, {}, frameOf 0x11 1 0 (List.replicate 8 0 ++ [5, 0, 0, 0, 0, 0, 0, 0]),
    { live with net := { live.net with state := .coordinator, nodeId := 0 } }, by (try dsimp only) <;> decide +kernel⟩,
   ⟨1000000010,
    { live with net := { live.net with notices := [{ cause := 1, cycle := 5 }, { cause := 2, cycle := 7, sentOnce := true }] }, rb := { live.rb with cycle := 1003 } },
    { cause := 1, cycle := 5 }, [{ cause := 2, cycle := 7, sentOnce := true }], by (try dsimp only) <;> decide +kernel⟩,
   ⟨0, { live with net := { live.net with notices := [{ cause := 1, cycle := 5, sentOnce := true, again := true }] } },
    { cause := 1, cycle := 5, sentOnce := true, again := true }, by (try dsimp only) <;> decide +kernel⟩,
   ⟨0, { live with net := { live.net with held := [.frame 255 61605 5 [1], .frame 255 61605 6 [2]] } }, .frame 255 61605 5 [1],
    [.frame 255 61605 6 [2]], by (try dsimp only) <;> decide +kernel⟩,
   ⟨0, { live with net := { live.net with gotCycle := none, notices := [{ cause := 1, cycle := 5 }] } },
    by (try dsimp only) <;> decide +kernel⟩,
   ⟨true, live, by (try dsimp only) <;> decide +kernel⟩,
   ⟨node .coordinator 0, by (try dsimp only) <;> decide +kernel⟩,
   ⟨node .listen 0, by (try dsimp only) <;> decide +kernel⟩,
   ⟨0, { client := 7 * 65536 }, [128, 0, 7, 8, 1, 2, 3], { live with net := { live.net with neighbours := [(7, 3)] } },
    by (try dsimp only) <;> decide +kernel⟩,
   fun h5 => ⟨0, {}, [136, 0] ++ List.replicate 6 0 ++ [0xFE, 0x80, 0, 0, 0, 0, 0, 0, 2, 0, 0, 0, 0, 0, 0, 5],
     { live with net := { live.net with dadUntil := 2000000000 } }, by (try dsimp only); and_intros <;>
      first | decide +kernel | (simp only [linkLocal, h5]; decide +kernel) | (simp only [h5]; decide +kernel) | (rw [h5]; decide +kernel)⟩⟩

theorem witness_QueuesOnAndOff :
    (∃ q : Fin 4096, ∃ s : State, let x := queueAt s q.val; hostReady s = true ∧ q.val < 4064 ∧ x.state = .disabled ∧ queuesReady s = false) ∧
    (∃ q : Fin 4096, ∃ s : State, let x := queueAt s q.val; hostReady s = true ∧ q.val < 4064 ∧ x.state = .disabled ∧ queuesReady s = true ∧
      contextOk x = false) ∧
    (∃ q : Fin 4096, ∃ s : State, let x := queueAt s q.val; hostReady s = true ∧ q.val < 4064 ∧ x.state = .disabled ∧ queuesReady s = true ∧
      contextOk x = true ∧ 16384 < poolReserved s + x.reserve) ∧
    (∃ q : Fin 4096, ∃ s : State, let x := queueAt s q.val; hostReady s = true ∧ q.val < 4064 ∧ x.state = .disabled ∧ queuesReady s = true ∧
      contextOk x = true ∧ poolReserved s + x.reserve ≤ 16384 ∧ x.held = []) ∧
    (∃ q : Fin 4096, 4064 ≤ q.val) ∧
    (∃ q : Fin 4096, ∃ s : State, let x := queueAt s q.val; x.state = .flushing ∧ x.flight = [] ∧ x.group = 0) ∧
    (∃ q : Fin 4096, ∃ s : State, let x := queueAt s q.val; x.state = .flushing ∧ x.flight = [] ∧ x.group ≠ 0 ∧ q.val < 4064) ∧
    (∃ q : Fin 4096, ∃ s : State, let x := queueAt s q.val; hostReady s = true ∧ q.val < 4064 ∧ x.group = 0 ∧ x.cplTail < x.entries ∧
      (x.state = .enabled ∨ x.state = .error)) ∧
    (∃ q : Fin 4096, ∃ s : State, let x := queueAt s q.val; hostReady s = true ∧ q.val < 4064 ∧ x.group = 0 ∧ x.cplTail < x.entries) :=
  ⟨⟨3, { (queue3 { (aQueue []) with state := .disabled }) with life := { live.life with state := .training } },
    by (try dsimp only) <;> decide +kernel⟩,
   ⟨3, queue3 { (aQueue []) with state := .disabled, config := 0x1D }, by (try dsimp only) <;> decide +kernel⟩,
   ⟨3,
    { live with host := { live.host with queues := [(3, { (aQueue []) with state := .disabled, slots := 0x10001000 }), (4, { (aQueue []) with slots := 0x10001000 }), (5, { (aQueue []) with slots := 0x10001000 }), (6, { (aQueue []) with slots := 0x10001000 })] } },
    by (try dsimp only) <;> decide +kernel⟩,
   ⟨3,
    { live with host := { live.host with queues := [(3, { (aQueue []) with state := .disabled, slots := 0x10001000, phase := false, head := 3, cause := 0xA003 }), (4, { (aQueue []) with slots := 0x10001000 }), (5, { (aQueue []) with slots := 0x10001000 }), (6, { (aQueue []) with slots := 0x0F000F00 })] } },
    by (try dsimp only) <;> decide +kernel⟩,
   ⟨4064, by (try dsimp only) <;> decide +kernel⟩,
   ⟨3, queue3 { (aQueue []) with state := .flushing }, by (try dsimp only) <;> decide +kernel⟩,
   ⟨3, queue3 { (aQueue []) with state := .flushing, group := 1, ringBase := 0x200001, cplBase := 0x201001 },
    by (try dsimp only) <;> decide +kernel⟩,
   ⟨3, queued [{ index := 0, data := patch 64 [(0, 1, 1)] }, { index := 1, data := patch 64 [(0, 1, 1)], state := .started }],
    by (try dsimp only) <;> decide +kernel⟩,
   ⟨3, queue3 { (aQueue []) with cplHead := 60, cplFree := 3 }, by (try dsimp only) <;> decide +kernel⟩⟩

theorem witness_QueueTakesWork :
    (∃ v : Nat, ∃ q : Fin 4096, ∃ s : State, let x := queueAt s q.val; hostReady s = true ∧ q.val < 4064 ∧ x.state = .enabled ∧
      v < x.entries) ∧
    (∃ v : Nat, ∃ b : Nat, ∃ q : Fin 4096, ∃ s : State, let x := queueAt s q.val; hostReady s = true ∧ q.val < 4064 ∧
      (b ≠ 4 ∨ x.state ≠ .enabled ∨ x.entries ≤ v)) ∧
    (∃ q : Fin 4096, ∃ s : State, let x := queueAt s q.val; x.state = .enabled ∧ x.head ≠ x.tail ∧ dropping s = false ∧
      packageRuns s = true ∧ freeSlot s x = true ∧ x.group = 0) ∧
    (∃ q : Fin 4096, ∃ s : State, let x := queueAt s q.val; x.state = .enabled ∧ x.head ≠ x.tail ∧ dropping s = false ∧
      packageRuns s = true ∧ freeSlot s x = false ∧ x.group = 0 ∧ x.stalled = false) ∧
    (∃ t : Nat, ∃ q : Fin 4096, ∃ s : State, let x := queueAt s q.val; x.irqOn = true ∧ 0 < x.irqCount ∧
      x.irqSince + x.delayNs ≤ max s.now t ∧ dropping s = false ∧ (msixByte s (16 * x.vector + 12)).toNat % 2 = 0) ∧
    (∃ q : Fin 4096, ∃ s : State, let x := queueAt s q.val; x.state = .enabled ∧ packageRuns s = true ∧ x.held = []) :=
  ⟨⟨63, 3, queued [], by (try dsimp only) <;> decide +kernel⟩,
   ⟨64, 4, 3, queued [], by (try dsimp only) <;> decide +kernel⟩,
   ⟨3, queue3 { (aQueue []) with head := 63, tail := 2 }, by (try dsimp only) <;> decide +kernel⟩,
   ⟨3, queue3 { (aQueue [{ index := 62, data := [] }]) with head := 63, tail := 2, slots := 0x10001 },
    by (try dsimp only) <;> decide +kernel⟩,
   ⟨0, 3,
    { (queue3 { (aQueue []) with irq := 0x05048007, irqCount := 2, irqSince := 900000000 }) with host := { (queue3 { (aQueue []) with irq := 0x05048007, irqCount := 2, irqSince := 900000000 }).host with msixTable := [(124, 1)] } },
    by (try dsimp only) <;> decide +kernel⟩,
   ⟨3, queued [{ index := 62, data := [] }], by (try dsimp only) <;> decide +kernel⟩⟩

theorem witness_DescriptorsRun :
    (∃ q : Fin 4096, ∃ d : Desc, ∃ s : State, let x := queueAt s q.val; packageRuns s = true ∧ dropping s = false ∧ q.val < 4064 ∧
      x.group = 0 ∧ x.cls = 0 ∧ x.state = .enabled ∧ x.flight = [d] ∧ x.held = [] ∧ 0 < x.cplFree ∧ Queue.space x.cplBase = 1 ∧
      x.cplBroken = false ∧ d.data.length = 64 ∧ d.gate = none ∧ d.stray = none ∧ field d.data 1 1 = 0 ∧ d.state = .fetched ∧
      field d.data 0 1 = 1) ∧
    (∃ q : Fin 4096, ∃ d : Desc, ∃ s : State, let x := queueAt s q.val; packageRuns s = true ∧ dropping s = false ∧ q.val < 4064 ∧
      x.group = 0 ∧ x.cls = 0 ∧ x.state = .enabled ∧ x.flight = [d] ∧ x.held = [] ∧ 0 < x.cplFree ∧ Queue.space x.cplBase = 1 ∧
      x.cplBroken = false ∧ d.data.length = 64 ∧ d.gate = none ∧ d.stray = none ∧ field d.data 1 1 = 0 ∧ d.state = .fetched ∧
      field d.data 0 1 = 5 ∧ field d.data 24 1 = 0 ∧ field d.data 8 8 % 8 = 0 ∧ s.host.linkUp = true) ∧
    (∃ q : Fin 4096, ∃ d : Desc, ∃ s : State, let x := queueAt s q.val; packageRuns s = true ∧ dropping s = false ∧ q.val < 4064 ∧
      x.group = 0 ∧ x.cls = 0 ∧ x.state = .enabled ∧ x.flight = [d] ∧ x.held = [] ∧ 0 < x.cplFree ∧ Queue.space x.cplBase = 1 ∧
      x.cplBroken = false ∧ d.data.length = 64 ∧ d.gate = none ∧ d.stray = none ∧ field d.data 1 1 = 0 ∧ d.state = .fetched ∧
      field d.data 0 1 = 6 ∧ field d.data 8 8 % 8 = 0 ∧ rangeValid (hbmValid s) (field d.data 8 8) 8 = true ∧ waitMet s d = false) ∧
    (∃ q : Fin 4096, ∃ d : Desc, ∃ s : State, let x := queueAt s q.val; packageRuns s = true ∧ dropping s = false ∧ q.val < 4064 ∧
      x.group = 0 ∧ x.cls = 0 ∧ x.state = .enabled ∧ x.flight = [d] ∧ x.held = [] ∧ 0 < x.cplFree ∧ Queue.space x.cplBase = 1 ∧
      x.cplBroken = false ∧ d.data.length = 64 ∧ d.gate = none ∧ d.stray = none ∧ field d.data 1 1 = 0 ∧ d.state = .started ∧
      field d.data 0 1 = 6 ∧ waitMet s d = true) ∧
    (∃ q : Fin 4096, ∃ d : Desc, ∃ s : State, let x := queueAt s q.val; packageRuns s = true ∧ dropping s = false ∧ q.val < 4064 ∧
      x.group = 0 ∧ x.cls = 0 ∧ x.state = .enabled ∧ x.flight = [d] ∧ x.held = [] ∧ 0 < x.cplFree ∧ Queue.space x.cplBase = 1 ∧
      x.cplBroken = false ∧ d.data.length = 64 ∧ d.gate = none ∧ d.stray = none ∧ field d.data 1 1 = 0 ∧ d.state = .started ∧
      field d.data 0 1 = 6 ∧ waitMet s d = false) :=
  ⟨⟨3, { index := 5, data := patch 64 [(0, 1, 1), (4, 4, 77)] }, queued [{ index := 5, data := patch 64 [(0, 1, 1), (4, 4, 77)] }],
    by (try dsimp only) <;> decide +kernel⟩,
   ⟨3, { index := 5, data := patch 64 [(0, 1, 5), (4, 4, 77), (8, 8, 0x900), (16, 8, 0x123456789)] },
    queued [{ index := 5, data := patch 64 [(0, 1, 5), (4, 4, 77), (8, 8, 0x900), (16, 8, 0x123456789)] }],
    by (try dsimp only) <;> decide +kernel⟩,
   ⟨3, { index := 5, data := patch 64 [(0, 1, 6), (4, 4, 77), (8, 8, 0x900), (16, 8, 5)] },
    queued [{ index := 5, data := patch 64 [(0, 1, 6), (4, 4, 77), (8, 8, 0x900), (16, 8, 5)] }], by (try dsimp only) <;> decide +kernel⟩,
   ⟨3, { index := 5, state := .started, data := patch 64 [(0, 1, 6), (4, 4, 77), (8, 8, 64), (16, 8, 5)] },
    queued [{ index := 5, state := .started, data := patch 64 [(0, 1, 6), (4, 4, 77), (8, 8, 64), (16, 8, 5)] }],
    by (try dsimp only) <;> decide +kernel⟩,
   ⟨3, { index := 5, state := .started, data := patch 64 [(0, 1, 6), (4, 4, 77), (8, 8, 0x900), (16, 8, 5)] },
    queued [{ index := 5, state := .started, data := patch 64 [(0, 1, 6), (4, 4, 77), (8, 8, 0x900), (16, 8, 5)] }],
    by (try dsimp only) <;> decide +kernel⟩⟩

theorem witness_LaunchesAndFills :
    (∃ t : Nat, ∃ q : Fin 4096, ∃ d : Desc, ∃ s : State, let x := queueAt s q.val; ∃ y, ∃ s', packageRuns s = true ∧ dropping s = false ∧
      q.val < 4064 ∧ x.group = 0 ∧ x.cls = 0 ∧ x.state = .enabled ∧ x.flight = [d] ∧ x.held = [] ∧ d.gate = none ∧ d.stray = none ∧
      field d.data 1 1 = 0 ∧ d.state = .fetched ∧ field d.data 0 1 = 4 ∧ s.prog = none ∧ s.life.state = .joined ∧ s.life.descent = .idle ∧
      field d.data 24 4 ≤ 65536 ∧ launchCause s (field d.data 8 8) = 0 ∧
      (place { s with now := max s.now t } (imageBytes s (field d.data 8 8) 0 64) = some (y, s'))) ∧
    (∃ q : Fin 4096, ∃ d : Desc, ∃ s : State, let x := queueAt s q.val; packageRuns s = true ∧ dropping s = false ∧ q.val < 4064 ∧
      x.group = 0 ∧ x.cls = 0 ∧ x.state = .enabled ∧ x.flight = [d] ∧ x.held = [] ∧ d.gate = none ∧ d.stray = none ∧ field d.data 1 1 = 0 ∧
      d.state = .fetched ∧ field d.data 0 1 = 4 ∧ s.prog = none ∧ s.life.state = .joined ∧ s.life.descent = .idle ∧
      field d.data 24 4 ≤ 65536 ∧ launchCause s (field d.data 8 8) ≠ 0) ∧
    (∃ q : Fin 4096, ∃ d : Desc, ∃ s : State, let x := queueAt s q.val; packageRuns s = true ∧ dropping s = false ∧ q.val < 4064 ∧
      x.group = 0 ∧ x.cls = 0 ∧ x.state = .enabled ∧ x.flight = [d] ∧ x.held = [] ∧ d.gate = none ∧ d.stray = none ∧ field d.data 1 1 = 0 ∧
      d.state = .fetched ∧ field d.data 0 1 = 3 ∧ field d.data 32 1 = 0 ∧ field d.data 16 8 % 8 = 0 ∧ s.host.linkUp = true) ∧
    (∃ q : Fin 4096, ∃ d : Desc, ∃ s : State, let x := queueAt s q.val; packageRuns s = true ∧ dropping s = false ∧ q.val < 4064 ∧
      x.group = 0 ∧ x.cls = 0 ∧ x.state = .enabled ∧ x.flight = [d] ∧ x.held = [] ∧ d.gate = none ∧ d.stray = none ∧ field d.data 1 1 = 0 ∧
      d.state = .started ∧ field d.data 0 1 = 3 ∧ 0 < x.cplFree ∧ Queue.space x.cplBase = 1 ∧ x.cplBroken = false ∧ d.data.length = 64) :=
  ⟨⟨1000000010, 3, { index := 5, data := patch 64 [(0, 1, 4), (4, 4, 77), (8, 8, 0x4000), (16, 8, 99)] },
    { placed with host := (queued [{ index := 5, data := patch 64 [(0, 1, 4), (4, 4, 77), (8, 8, 0x4000), (16, 8, 99)] }]).host },
    { ckpt := 68664, windows := [], arena := [.hbm 68665] },
    { placed with now := 1000000010, host := (queued [{ index := 5, data := patch 64 [(0, 1, 4), (4, 4, 77), (8, 8, 0x4000), (16, 8, 99)] }]).host },
    by (try dsimp only) <;> decide +kernel⟩,
   ⟨3, { index := 5, data := patch 64 [(0, 1, 4), (4, 4, 77), (8, 8, 0x8000), (16, 8, 99)] },
    { placed with host := (queued [{ index := 5, data := patch 64 [(0, 1, 4), (4, 4, 77), (8, 8, 0x8000), (16, 8, 99)] }]).host },
    by (try dsimp only) <;> decide +kernel⟩,
   ⟨3, { index := 5, data := patch 64 [(0, 1, 3), (4, 4, 77), (8, 8, 95), (16, 8, 24), (24, 8, 0x1122334455)] },
    queued [{ index := 5, data := patch 64 [(0, 1, 3), (4, 4, 77), (8, 8, 95), (16, 8, 24), (24, 8, 0x1122334455)] }],
    by (try dsimp only) <;> decide +kernel⟩,
   ⟨3,
    { index := 5, state := .started, result := 24, data := patch 64 [(0, 1, 3), (4, 4, 77), (8, 8, 95), (16, 8, 24), (24, 8, 0x1122334455)] },
    queued [{ index := 5, state := .started, result := 24, data := patch 64 [(0, 1, 3), (4, 4, 77), (8, 8, 95), (16, 8, 24), (24, 8, 0x1122334455)] }],
    by (try dsimp only) <;> decide +kernel⟩⟩

theorem witness_RegistersActs :
    (∃ s : State, s.host.trainAt.isSome = true ∧ packageRuns s = true) ∧
    (∃ s : State, (s.host.trainAt = none ∨ packageRuns s = false)) ∧
    (∃ s : State, hostReady s = false) ∧
    (∃ s : State, hostReady s = false) ∧
    (∃ s : State, hostReady s = false) ∧
    (∃ s : State, hostReady s = false) ∧
    (∃ s : State, hostReady s = false) ∧
    (∃ s : State, hostReady s = false) ∧
    (∃ v : Half, ∃ s : State, hostReady s = true ∧ bits v.toNat 8 0 % max 1 s.host.windowSize = 0) ∧
    (∃ v : Half, ∃ s : State, hostReady s = true ∧ bits v.toNat 8 0 % max 1 s.host.windowSize ≠ 0) ∧
    (∃ s : State, hostReady s = true) ∧
    (∃ s : State, hostReady s = true) ∧
    (∃ bs : List Byte, ∃ s : State, hostReady s = true ∧ bs.length = 4) ∧
    (∃ bs : List Byte, ∃ s : State, hostReady s = true ∧ bs.length = 4) ∧
    (∃ bs : List Byte, ∃ q : Nat, ∃ s : State, let x := queueAt s q; hostReady s = true ∧ bs.length = 4 ∧ q < 4064 ∧ x.state = .disabled) ∧
    (∃ bs : List Byte, ∃ q : Nat, ∃ s : State, let x := queueAt s q; hostReady s = true ∧ bs.length = 4 ∧ q < 4064 ∧ x.state ≠ .disabled) ∧
    (∃ bs : List Byte, ∃ s : State, hostReady s = true ∧ bs.length = 4) ∧
    (∃ bs : List Byte, ∃ q : Nat, ∃ s : State, hostReady s = true ∧ bs.length = 4 ∧ q < 4096) ∧
    (∃ bs : List Byte, ∃ q : Nat, ∃ s : State, hostReady s = true ∧ bs.length = 4 ∧ q < 4096) ∧
    (∃ bs : List Byte, ∃ q : Nat, ∃ s : State, hostReady s = true ∧ bs.length = 4 ∧ q < 4096) ∧
    (∃ off : Nat, ∃ len : Nat, ∃ s : State, let a := s.host.windowBase * 2 ^ 30 + off;
      let ok := bar2Open s && decide (off + len ≤ s.host.windowSize * 2 ^ 30) && rangeValid (hbmValid s) a len; hostReady s = true ∧
      ok = true ∧ poisoned s.tiers.hbmPoison a len = false) ∧
    (∃ off : Nat, ∃ len : Nat, ∃ bs : List Byte, ∃ s : State, let a := s.host.windowBase * 2 ^ 30 + off;
      let ok := bar2Open s && decide (off + len ≤ s.host.windowSize * 2 ^ 30) && rangeValid (hbmValid s) a len; hostReady s = true ∧
      ok = true ∧ bs.length = len) ∧
    (∃ off : Nat, ∃ len : Nat, ∃ s : State, let a := s.host.windowBase * 2 ^ 30 + off;
      let ok := bar2Open s && decide (off + len ≤ s.host.windowSize * 2 ^ 30) && rangeValid (hbmValid s) a len; hostReady s = true ∧
      ok = false) ∧
    (∃ off : Nat, ∃ len : Nat, ∃ s : State, let a := s.host.windowBase * 2 ^ 30 + off;
      let ok := bar2Open s && decide (off + len ≤ s.host.windowSize * 2 ^ 30) && rangeValid (hbmValid s) a len; hostReady s = true ∧
      ok = false) ∧
    (∃ off : Nat, ∃ len : Nat, ∃ s : State, let a := s.host.windowBase * 2 ^ 30 + off;
      let ok := bar2Open s && decide (off + len ≤ s.host.windowSize * 2 ^ 30) && rangeValid (hbmValid s) a len; hostReady s = true ∧
      ok = true ∧ poisoned s.tiers.hbmPoison a len = true) :=
  ⟨⟨{ live with host := { live.host with linkUp := false, ready := false } }, by (try dsimp only) <;> decide +kernel⟩,
   ⟨{ live with host := { live.host with trainAt := none } }, by (try dsimp only) <;> decide +kernel⟩,
   ⟨{ live with host := { live.host with ready := false } }, by (try dsimp only) <;> decide +kernel⟩,
   ⟨{ live with host := { live.host with ready := false } }, by (try dsimp only) <;> decide +kernel⟩,
   ⟨{ live with host := { live.host with ready := false } }, by (try dsimp only) <;> decide +kernel⟩,
   ⟨{ live with host := { live.host with ready := false } }, by (try dsimp only) <;> decide +kernel⟩,
   ⟨{ live with host := { live.host with ready := false } }, by (try dsimp only) <;> decide +kernel⟩,
   ⟨{ live with host := { live.host with ready := false } }, by (try dsimp only) <;> decide +kernel⟩,
   ⟨128, live, by (try dsimp only) <;> decide +kernel⟩,
   ⟨130, live, by (try dsimp only) <;> decide +kernel⟩,
   ⟨{ live with host := { live.host with eventCause := 15 } }, by (try dsimp only) <;> decide +kernel⟩,
   ⟨{ live with rb := { live.rb with pkgCycle := 0x123456789A, pkgPhase := 77 } }, by (try dsimp only) <;> decide +kernel⟩,
   ⟨[0x3F, 1, 2, 3], live, by (try dsimp only) <;> decide +kernel⟩,
   ⟨[1, 2, 3, 4], live, by (try dsimp only) <;> decide +kernel⟩,
   ⟨[0x3F, 1, 2, 3], 3, queue3 { (aQueue []) with state := .disabled }, by (try dsimp only) <;> decide +kernel⟩,
   ⟨[0x3F, 1, 2, 3], 3, queued [], by (try dsimp only) <;> decide +kernel⟩,
   ⟨[7, 0, 0, 0], { live with kiosk := { live.kiosk with mbSession := 9, mbReqLength := 8, mbRequest := [(0, 5)] } },
    by (try dsimp only) <;> decide +kernel⟩,
   ⟨[5, 0, 0, 0], 3, queued [], by (try dsimp only) <;> decide +kernel⟩,
   ⟨[5, 0, 0, 0], 3, queued [], by (try dsimp only) <;> decide +kernel⟩,
   ⟨[5, 0, 0, 0], 3, queued [], by (try dsimp only) <;> decide +kernel⟩,
   ⟨64, 8, live, by (try dsimp only) <;> decide +kernel⟩,
   ⟨64, 8, [1, 2, 3, 4, 5, 6, 7, 0], { live with tiers := { live.tiers with hbmPoison := [(8, true), (9, true)] } },
    by (try dsimp only) <;> decide +kernel⟩,
   ⟨0x2000000000, 8, live, by (try dsimp only) <;> decide +kernel⟩,
   ⟨0x20, 8, { live with contain := { live.contain with stackFences := 1 } }, by (try dsimp only) <;> decide +kernel⟩,
   ⟨64, 8, { live with tiers := { live.tiers with hbmPoison := [(8, true)] } }, by (try dsimp only) <;> decide +kernel⟩⟩

theorem witness_MemoryErrorsAndFences :
    (∃ c : Nat, ∃ s : State, ∃ p : StationPlace, ∃ a, ∃ bs : List Byte, coreRuns s c = true ∧ p ≠ .other ∧
      stationReaches s p a bs.length = true) ∧
    (∃ c : Nat, ∃ s : State, let x := coreAt s c; ∃ y, coreRuns s c = true ∧ x.buffer = [some y] ∧ y.place = .hbm) ∧
    (∃ c : Nat, ∃ s : State, ∃ p : StationPlace, ∃ a, ∃ w, coreRuns s c = true ∧ (p = .other ∨ a % w ≠ 0)) ∧
    (∃ c : Nat, ∃ s : State, let x := coreAt s c; ∃ a, ∃ w, coreRuns s c = true ∧ a % w = 0 ∧ rangeValid (hbmValid s) a w = true ∧
      poisoned s.tiers.hbmPoison a w = false ∧ x.buffer = []) ∧
    (∃ cellar : Bool, ∃ s : State, ∃ addr, packageRuns s = true ∧ memValid s cellar addr = true) ∧
    (∃ cellar : Bool, ∃ s : State, ∃ addr, ∃ c, ∃ r, ∃ out, packageRuns s = true ∧ memValid s cellar addr = true ∧
      (r, out) ∈ [(Reader.host, [Emission.hostPoison 8]), (.peer, []), (.station c, [])]) ∧
    (∃ cellar : Bool, ∃ s : State, packageRuns s = true ∧ 0 < memSize s cellar / 8) ∧
    (∃ t : Nat, ∃ cellar : Bool, ∃ s : State, ∃ unit, ∃ channel, packageRuns s = true ∧ unitServes s cellar unit = true ∧
      ((channel = true ∨ objAt s 0x5103 0 ≤ recentErrors { s with now := max s.now t } cellar unit))) :=
  ⟨⟨1, station {}, .hbm, 0x100, [1, 2, 3, 4], by (try dsimp only) <;> decide +kernel⟩,
   ⟨1, station { buffer := [some { place := .hbm, addr := 0x100, data := [1, 2, 3, 4] }] },
    { place := .hbm, addr := 0x100, data := [1, 2, 3, 4] }, by (try dsimp only) <;> decide +kernel⟩,
   ⟨1, station { buffer := [none] }, .other, 0x100, 4, by (try dsimp only) <;> decide +kernel⟩,
   ⟨1, station {}, 64, 4, by (try dsimp only) <;> decide +kernel⟩,
   ⟨true, live, 1025, by (try dsimp only) <;> decide +kernel⟩,
   ⟨false, { live with tiers := { live.tiers with hbmPoison := [(8, true)] } }, 1025, 0, .host, [Emission.hostPoison 8],
    by (try dsimp only) <;> decide +kernel⟩,
   ⟨false, live, by (try dsimp only) <;> decide +kernel⟩,
   ⟨1000000010, false, live, 0, true, by (try dsimp only) <;> decide +kernel⟩⟩

theorem witness_PeerMemory :
    (∃ offset : Nat, ∃ length : Nat, ∃ s : State, let a := lendBase s + offset;
      let inside := lends s = true ∧ 0 < length ∧ offset + length ≤ lendSize s ∧ rangeValid (hbmValid s) a length = true;
      packageRuns s = true ∧ dropping s = false ∧ (¬ inside)) ∧
    (∃ offset : Nat, ∃ length : Nat, ∃ s : State, let a := lendBase s + offset;
      let inside := lends s = true ∧ 0 < length ∧ offset + length ≤ lendSize s ∧ rangeValid (hbmValid s) a length = true;
      ∃ bs : List Byte, packageRuns s = true ∧ dropping s = false ∧ inside ∧ bs.length = length) ∧
    (∃ offset : Nat, ∃ length : Nat, ∃ s : State, let a := lendBase s + offset;
      let inside := lends s = true ∧ 0 < length ∧ offset + length ≤ lendSize s ∧ rangeValid (hbmValid s) a length = true;
      packageRuns s = true ∧ dropping s = false ∧ inside) ∧
    (∃ s : State, ∃ access, packageRuns s = true ∧ dropping s = false ∧ tabGet none access s.links.accesses = none) ∧
    (∃ s : State, ∃ access, ∃ status, ∃ x, ∃ tile, ∃ chan, ∃ p, packageRuns s = true ∧ dropping s = false ∧
      tabGet none access s.links.accesses = some x ∧ x.user = .mover tile chan ∧ s.prog = some p ∧
      ((tileAt s tile).chan chan).started = true ∧ status = 0 ∧ 1 < ((tileAt s tile).chan chan).waiting) ∧
    (∃ s : State, ∃ access, ∃ status, ∃ x, ∃ tile, ∃ chan, ∃ p, packageRuns s = true ∧ dropping s = false ∧
      tabGet none access s.links.accesses = some x ∧ x.user = .mover tile chan ∧ s.prog = some p ∧
      ((tileAt s tile).chan chan).started = true ∧ status = 2) ∧
    (∃ s : State, ∃ access, ∃ status, ∃ x, ∃ q, ∃ i, ∃ d, packageRuns s = true ∧ dropping s = false ∧
      tabGet none access s.links.accesses = some x ∧ x.user = .copy q i ∧ (queueAt s q).desc i = some d ∧ x.write = true ∧ status = 0) :=
  ⟨⟨8, 8, live, by (try dsimp only) <;> decide +kernel⟩,
   ⟨8, 8, { live with kiosk := { live.kiosk with objects := [(0x5106 * 256, 4)] } }, [1, 2, 3, 4, 5, 6, 7, 0],
    by (try dsimp only) <;> decide +kernel⟩,
   ⟨8, 8, { live with tiers := { live.tiers with lent := [(0, 9)] }, kiosk := { live.kiosk with objects := [(0x5106 * 256, 4)] } },
    by (try dsimp only) <;> decide +kernel⟩,
   ⟨live, 3, by (try dsimp only) <;> decide +kernel⟩,
   ⟨borrowing, 3, 0, { user := .mover 1 0, sled := 6, offset := 64, length := 4, write := false }, 1, 0, { queue := 3, index := 5 },
    by (try dsimp only) <;> decide +kernel⟩,
   ⟨borrowing, 3, 2, { user := .mover 1 0, sled := 6, offset := 64, length := 4, write := false }, 1, 0, { queue := 3, index := 5 },
    by (try dsimp only) <;> decide +kernel⟩,
   ⟨{ (queued [{ index := 5, state := .started, data := patch 64 [(0, 1, 2), (24, 8, 4)] }]) with links := { live.links with accesses := [(3, some { user := .copy 3 5, sled := 6, offset := 64, length := 4, write := true })] } },
    3, 0, { user := .copy 3 5, sled := 6, offset := 64, length := 4, write := true }, 3, 5,
    { index := 5, state := .started, data := patch 64 [(0, 1, 2), (24, 8, 4)] }, by (try dsimp only) <;> decide +kernel⟩⟩

theorem witness_MoverWorks :
    (∃ m : MoverCmd, ∃ y : List Nat, ∃ z : List Nat, ((m.kind = 1 ∧ (m.xform = 0 ∨ m.xform = 2)) ∨ (m.kind = 4 ∧ m.xform = 0 ∧
      ∀ a, a < 4 → ∃ i, i < 4 ∧ m.perm i = a)) ∧ y.length = 4 ∧ z.length = 4 ∧ ((∀ a, a < 4 → y.getD a 0 < m.count a)) ∧
      ((∀ i, i < 4 → z.getD i 0 = y.getD (m.sourceAxis i) 0))) ∧
    (∃ m : MoverCmd, ∃ v : View, ∃ es : List (List Nat), ∃ j, ((m.kind = 1 ∧ (m.xform = 0 ∨ m.xform = 2)) ∨ (m.kind = 4 ∧ m.xform = 0 ∧
      ∀ a, a < 4 → ∃ i, i < 4 ∧ m.perm i = a)) ∧ j ∈ jobsOf m v es) ∧
    (∃ m : MoverCmd, ∃ p, ∃ tap, ∃ u, ∃ y2, ∃ y3, m.kind = 1 ∧ m.xform = 1 ∧ p < m.count 1 ∧ tap < m.taps ∧ u < m.count 0 ∧ y2 < m.count 2 ∧
      y3 < m.count 3) ∧
    (∃ m : MoverCmd, ∃ es : List (List Nat), ∃ i : Nat, ∃ e : List Nat, es[i]? = some e ∧ m.lists = true ∧ e.getD 0 0 = 0xFFFF) ∧
    (∃ m : MoverCmd, ∃ v : View, ∃ es : List (List Nat), ∃ i : Nat, ∃ e : List Nat, ∃ u, ∃ r, es[i]? = some e ∧ e.getD 0 0 ≠ 0xFFFF ∧
      u < v.bx ∧ r < v.by_ ∧ m.kind = 2) ∧
    (∃ m : MoverCmd, ∃ v : View, ∃ es : List (List Nat), ∃ i : Nat, ∃ e : List Nat, ∃ u, ∃ r, es[i]? = some e ∧ e.getD 0 0 ≠ 0xFFFF ∧
      u < v.bx ∧ r < v.by_ ∧ m.kind = 3) ∧
    (∃ t : Nat, ∃ k : Nat, ∃ addr : Nat, ∃ stamp : Nat, ∃ tile : Fin 160, ∃ chan : Fin 2, ∃ c : Instr, ∃ p : Program, ∃ rec : List Byte,
     ∃ sv : List Byte, ∃ dv : List Byte, ∃ rest : List (Nat × Nat), ∃ s : State, let n := tile.val;
      let m := moverCmdOf rec; let x := (tileAt s n).chan chan.val; let listBytes := if m.lists then 8 * m.count 0 else 0;
      let s1 := modTile n (fun y => y.setChan chan.val fun z => { z with started := true, moved := false, waiting := 0, peer := [], held := rec ++ sv ++ dv }) (count 0x5420 1 1 { s with now := max s.now t });
      let e := settingOf s1 p n chan.val; let jobs := jobsOf m (if m.kind = 2 then e.dst else e.src) (entriesOf s1 p n m);
      let r := forEach (runJob e) jobs {};
      (c, k) ∈ [(Instr.box t tile chan, 1), (.gather t tile chan, 2), (.scatter t tile chan, 3), (.permute t tile chan, 4)] ∧
      s.prog = some p ∧ moverRuns s n = true ∧ x.commands = (addr, stamp) :: rest ∧ x.started = false ∧ stamp ≤ (tileAt s n).retired ∧
      readCtl s p n addr 64 64 = some rec ∧ m.kind = k ∧ recordOk rec = true ∧ readCtl s p n m.src 64 64 = some sv ∧
      readCtl s p n m.dst 64 64 = some dv ∧ (readCtl s p n m.list listBytes 8).isSome = true ∧
      ((∀ a len, (a, len) ∈ [(addr, 64), (m.src, 64), (m.dst, 64), (m.list, listBytes)] → 0 < len → tilePoisoned s p n a len = false)) ∧
      viewOk sv = true ∧ viewOk dv = true ∧ commandOk m (viewOf sv) (viewOf dv) (entriesOf s p n m) = true ∧
      ((∀ j ∈ jobs, jobSectors e j = [])) ∧ r.stop = none ∧ ((chan.val = 1 → hamperReady s1 (tileAt s1 n).logical = none))) ∧
    (∃ tile : Fin 160, ∃ chan : Fin 2, ∃ s : State, let x := (tileAt s tile.val).chan chan.val; moverRuns s tile.val = true ∧
      x.started = true ∧ x.fault = none ∧ x.moved = true ∧ x.waiting = 0) :=
  ⟨⟨{ kind := 1, xform := 0, src := 0, dst := 0, so := [-1, 0, 0, 0], do_ := [5, 1, 0, 0], shape := [3, 2, 2, 1], list := 0, param := 0 },
    [2, 1, 0, 0], [2, 1, 0, 0], by (try dsimp only) <;> decide +kernel⟩,
   ⟨{ kind := 1, xform := 2, src := 0, dst := 0, so := [0, 0, 0, 0], do_ := [0, 0, 0, 0], shape := [3, 2, 2, 1], list := 0, param := 0 },
    viewOf (viewRec 0 0x2000 20 6 0), [], .move (.elem [1,0,0,0]) (.elem [0,1,0,0]), by (try dsimp only) <;> decide +kernel⟩,
   ⟨{ kind := 1, xform := 1, src := 0, dst := 0, so := [0, 0, 0, 0], do_ := [0, 0, 0, 0], shape := [2, 3, 2, 1], list := 0, param := 2 + 3 * 2 ^ 16 + 5 * 2 ^ 32 },
    2, 1, 1, 1, 0, by (try dsimp only) <;> decide +kernel⟩,
   ⟨{ kind := 2, xform := 0, src := 0, dst := 0, so := [0, 0, 0, 0], do_ := [0, 0, 0, 0], shape := [2, 0, 0, 0], list := 0, param := 1 },
    [[1,0,0,0],[0xFFFF,0,0,0]], 1, [0xFFFF,0,0,0], by (try dsimp only) <;> decide +kernel⟩,
   ⟨{ kind := 2, xform := 0, src := 0, dst := 0, so := [0, 0, 0, 0], do_ := [-16, 4, 1, 0], shape := [2, 0, 0, 0], list := 0, param := 1 },
    viewOf (viewRec 0 0x2000 20 6 0), [[1,0,0,0],[2,1,0,0]], 1, [2,1,0,0], 15, 3, by (try dsimp only) <;> decide +kernel⟩,
   ⟨{ kind := 3, xform := 0, src := 0, dst := 0, so := [-16, 4, 1, 0], do_ := [0, 0, 0, 0], shape := [2, 0, 0, 0], list := 0, param := 1 },
    viewOf (viewRec 0 0x2000 20 6 0), [[1,0,0,0],[2,1,0,0]], 1, [2,1,0,0], 15, 3, by (try dsimp only) <;> decide +kernel⟩,
   ⟨1000000010, 1, 0x1000, 3, 0, 1, .box 1000000010 0 1, aProg, moverRec 1 0 20 6 0 0, viewRec 0 0x2000 20 6 0, viewRec 2 0x8000 20 6 0,
    [(0x1100, 5)], at0 (mover (moverRec 1 0 20 6 0 0) (viewRec 0 0x2000 20 6 0) (viewRec 2 0x8000 20 6 0) ([])) 0,
    by (try dsimp only); and_intros <;> first | exact forall_pairs (by decide +kernel) | decide +kernel⟩,
   ⟨0, 1, at0 { worker with chan1 := { commands := [(64, 0), (65, 1)], started := true, moved := true } } 0,
    by (try dsimp only) <;> decide +kernel⟩⟩

theorem witness_ScalarOperations :
    ∃ t : Nat, ∃ i : Nat, ∃ op : Nat, ∃ tile : Fin 160, ∃ c : Instr, ∃ f : Word → Word → Word, ∃ s : State,
     ((c, op, f) ∈ ([(.add t tile, 0x10, fun a b => a + b), (.sub t tile, 0x11, fun a b => a - b), (.and t tile, 0x12, fun a b => a &&& b),
      (.or t tile, 0x13, fun a b => a ||| b), (.xor t tile, 0x14, fun a b => a ^^^ b), (.shl t tile, 0x15, fun a b => a <<< (b.toNat % 64)),
      (.shr t tile, 0x16, fun a b => a >>> (b.toNat % 64))] : List (Instr × Nat × (Word → Word → Word)))) ∧
      Executes s tile.val i ∧ iOp i = op :=
  ⟨1000000010, ins 16 4 3 2 0, 16, 0, .add 1000000010 0, (fun a b => a + b), at0 worker (ins 16 4 3 2 0),
    by (try dsimp only); and_intros <;> first | exact List.Mem.head _ | exact ⟨aProg, by decide +kernel⟩ | decide +kernel⟩

theorem witness_LoadsAndImmediates :
    (∃ i : Nat, ∃ tile : Fin 160, ∃ s : State, Executes s tile.val i ∧ iOp i = 0x17) ∧
    (∃ i : Nat, ∃ tile : Fin 160, ∃ s : State, Executes s tile.val i ∧ iOp i = 0x18) ∧
    (∃ i : Nat, ∃ tile : Fin 160, ∃ s : State, let x := tileAt s tile.val; let a := memAddr x i; ∃ p, Executes s tile.val i ∧ iOp i = 0x19 ∧
      s.prog = some p ∧ inSaveArea a 8 = false ∧ tilePoisoned s p tile.val a 8 = false ∧ interlocked x (a, 8) false = false) ∧
    (∃ i : Nat, ∃ tile : Fin 160, ∃ s : State, let x := tileAt s tile.val; Executes s tile.val i ∧ x.ops = [] ∧ iOp i = 0x28) ∧
    (∃ i : Nat, ∃ tile : Fin 160, ∃ s : State, let x := tileAt s tile.val; Executes s tile.val i ∧ x.ops = [] ∧ iOp i = 0x29) ∧
    (∃ i : Nat, ∃ tile : Fin 160, ∃ s : State, Executes s tile.val i ∧ iOp i = 0x2A) ∧
    (∃ i : Nat, ∃ tile : Fin 160, ∃ s : State, Executes s tile.val i ∧ iOp i = 0x42) :=
  ⟨⟨ins 0x17 4 3 0 0xFFFFFFFF, 0, at0 worker (ins 0x17 4 3 0 0xFFFFFFFF),
    by (try dsimp only); and_intros <;> first | exact List.Mem.head _ | exact ⟨aProg, by decide +kernel⟩ | decide +kernel⟩,
   ⟨ins 0x18 4 0 0 0xFFFFFF00, 0, at0 worker (ins 0x18 4 0 0 0xFFFFFF00),
    by (try dsimp only); and_intros <;> first | exact List.Mem.head _ | exact ⟨aProg, by decide +kernel⟩ | decide +kernel⟩,
   ⟨ins 0x19 4 1 0 0, 0, at0 worker (ins 0x19 4 1 0 0), aProg,
    by (try dsimp only); and_intros <;> first | exact List.Mem.head _ | exact ⟨aProg, by decide +kernel⟩ | decide +kernel⟩,
   ⟨ins 0x28 4 0 0 0, 0, at0 worker (ins 0x28 4 0 0 0),
    by (try dsimp only); and_intros <;> first | exact List.Mem.head _ | exact ⟨aProg, by decide +kernel⟩ | decide +kernel⟩,
   ⟨ins 0x29 4 0 0 0, 0, at0 worker (ins 0x29 4 0 0 0),
    by (try dsimp only); and_intros <;> first | exact List.Mem.head _ | exact ⟨aProg, by decide +kernel⟩ | decide +kernel⟩,
   ⟨ins 0x2A 0 0 0 0, 0, at0 worker (ins 0x2A 0 0 0 0),
    by (try dsimp only); and_intros <;> first | exact List.Mem.head _ | exact ⟨aProg, by decide +kernel⟩ | decide +kernel⟩,
   ⟨ins 0x42 1 0 0 0x40000000, 0, at0 worker (ins 0x42 1 0 0 0x40000000),
    by (try dsimp only); and_intros <;> first | exact List.Mem.head _ | exact ⟨aProg, by decide +kernel⟩ | decide +kernel⟩⟩

theorem witness_StoreWritesOneWord :
    ∃ i : Nat, ∃ tile : Fin 160, ∃ p : Program, ∃ s : State, let x := tileAt s tile.val; let a := memAddr x i; Executes s tile.val i ∧
      s.prog = some p ∧ iOp i = 0x1A ∧ inSaveArea a 8 = false ∧ interlocked x (a, 8) true = false :=
  ⟨ins 0x1A 0 1 3 0, 0, aProg, at0 worker (ins 0x1A 0 1 3 0),
    by (try dsimp only); and_intros <;> first | exact List.Mem.head _ | exact ⟨aProg, by decide +kernel⟩ | decide +kernel⟩

theorem witness_ControlFlow :
    (∃ i : Nat, ∃ tile : Fin 160, ∃ s : State, Executes s tile.val i ∧ iOp i = 0x01) ∧
    (∃ i : Nat, ∃ tile : Fin 160, ∃ s : State, Executes s tile.val i ∧ iOp i = 0x04) ∧
    (∃ i : Nat, ∃ tile : Fin 160, ∃ s : State, Executes s tile.val i ∧ iOp i = 0x05) ∧
    (∃ i : Nat, ∃ tile : Fin 160, ∃ s : State, Executes s tile.val i ∧ iOp i = 0x06) ∧
    (∃ i : Nat, ∃ tile : Fin 160, ∃ s : State, Executes s tile.val i ∧ iOp i = 0x07) ∧
    (∃ i : Nat, ∃ tile : Fin 160, ∃ s : State, Executes s tile.val i ∧ iOp i = 0x08) ∧
    (∃ i : Nat, ∃ tile : Fin 160, ∃ s : State, Executes s tile.val i ∧ iOp i = 0x20) ∧
    (∃ i : Nat, ∃ tile : Fin 160, ∃ s : State, Executes s tile.val i ∧ iOp i = 0x21) ∧
    (∃ i : Nat, ∃ tile : Fin 160, ∃ s : State, Executes s tile.val i ∧ iOp i = 0x22) ∧
    (∃ i : Nat, ∃ tile : Fin 160, ∃ s : State, Executes s tile.val i ∧ iOp i = 0x32) ∧
    (∃ i : Nat, ∃ tile : Fin 160, ∃ s : State, Executes s tile.val i ∧ iOp i = 0x33) ∧
    (∃ i : Nat, ∃ tile : Fin 160, ∃ s : State, let x := tileAt s tile.val; let a := x.sreg (iRa i); let b := x.sreg (iRb i);
      Executes s tile.val i ∧ iOp i = 0x61 ∧ poisoned s.tiers.hbmPoison a.toNat 8 = false ∧ b.toNat ≤ hbmWord s a.toNat) ∧
    (∃ i : Nat, ∃ tile : Fin 160, ∃ s : State, let x := tileAt s tile.val; let a := x.sreg (iRa i); let b := x.sreg (iRb i);
      Executes s tile.val i ∧ iOp i = 0x61 ∧ poisoned s.tiers.hbmPoison a.toNat 8 = false ∧ hbmWord s a.toNat < b.toNat) :=
  ⟨⟨ins 1 0 0 0 0, 0, at0 worker (ins 1 0 0 0 0),
    by (try dsimp only); and_intros <;> first | exact List.Mem.head _ | exact ⟨aProg, by decide +kernel⟩ | decide +kernel⟩,
   ⟨ins 4 0 0 0 0xFFFFFFFE, 0, at0 worker (ins 4 0 0 0 0xFFFFFFFE),
    by (try dsimp only); and_intros <;> first | exact List.Mem.head _ | exact ⟨aProg, by decide +kernel⟩ | decide +kernel⟩,
   ⟨ins 5 0 1 1 4, 0, at0 worker (ins 5 0 1 1 4),
    by (try dsimp only); and_intros <;> first | exact List.Mem.head _ | exact ⟨aProg, by decide +kernel⟩ | decide +kernel⟩,
   ⟨ins 6 0 1 2 4, 0, at0 worker (ins 6 0 1 2 4),
    by (try dsimp only); and_intros <;> first | exact List.Mem.head _ | exact ⟨aProg, by decide +kernel⟩ | decide +kernel⟩,
   ⟨ins 7 0 3 2 4, 0, at0 worker (ins 7 0 3 2 4),
    by (try dsimp only); and_intros <;> first | exact List.Mem.head _ | exact ⟨aProg, by decide +kernel⟩ | decide +kernel⟩,
   ⟨ins 8 0 2 3 4, 0, at0 worker (ins 8 0 2 3 4),
    by (try dsimp only); and_intros <;> first | exact List.Mem.head _ | exact ⟨aProg, by decide +kernel⟩ | decide +kernel⟩,
   ⟨ins 0x20 0 0 0 0, 0, at0 worker (ins 0x20 0 0 0 0),
    by (try dsimp only); and_intros <;> first | exact List.Mem.head _ | exact ⟨aProg, by decide +kernel⟩ | decide +kernel⟩,
   ⟨ins 0x21 0 0 0 0, 0, at0 worker (ins 0x21 0 0 0 0),
    by (try dsimp only); and_intros <;> first | exact List.Mem.head _ | exact ⟨aProg, by decide +kernel⟩ | decide +kernel⟩,
   ⟨ins 0x22 0 0 0 0, 0, at0 worker (ins 0x22 0 0 0 0),
    by (try dsimp only); and_intros <;> first | exact List.Mem.head _ | exact ⟨aProg, by decide +kernel⟩ | decide +kernel⟩,
   ⟨ins 0x32 0 0 0 0, 0, at0 worker (ins 0x32 0 0 0 0),
    by (try dsimp only); and_intros <;> first | exact List.Mem.head _ | exact ⟨aProg, by decide +kernel⟩ | decide +kernel⟩,
   ⟨ins 0x33 0 0 0 0, 0, at0 worker (ins 0x33 0 0 0 0),
    by (try dsimp only); and_intros <;> first | exact List.Mem.head _ | exact ⟨aProg, by decide +kernel⟩ | decide +kernel⟩,
   ⟨ins 0x61 0 1 2 0, 0, { (at0 worker (ins 0x61 0 1 2 0)) with hbm := [(64, 7), (70, 9)] },
    by (try dsimp only); and_intros <;> first | exact List.Mem.head _ | exact ⟨aProg, by decide +kernel⟩ | decide +kernel⟩,
   ⟨ins 0x61 0 1 3 0, 0, at0 worker (ins 0x61 0 1 3 0),
    by (try dsimp only); and_intros <;> first | exact List.Mem.head _ | exact ⟨aProg, by decide +kernel⟩ | decide +kernel⟩⟩

theorem witness_ProgramOnTiles :
    (∃ i : Nat, ∃ tile : Fin 160, ∃ p : Program, ∃ s : State, let x := tileAt s tile.val; s.prog = some p ∧ Executes s tile.val i ∧
      x.ops = [] ∧ iOp i = 0x02) ∧
    (∃ i : Nat, ∃ tile : Fin 160, ∃ p : Program, ∃ s : State, let x := tileAt s tile.val; s.prog = some p ∧ Executes s tile.val i ∧
      x.ops = [] ∧ iOp i = 0x03) ∧
    (∃ p : Program, ∃ s : State, s.prog = some p ∧ p.replaying = none ∧ p.stepGate = 0 ∧ p.cmp = none ∧ vacated s = [] ∧
      allAtStep s p = true ∧ ((∃ n ∈ programTiles s p, (tileAt s n).atStep = true)) ∧
      ((∀ n ∈ programTiles s p, (tileAt s n).quiet = true)) ∧ packageRuns s = true ∧ dropping s = false ∧ s.life.state ≠ .draining ∧
      issueStopped s = false ∧ p.promoting = [] ∧ ((objAt s 0x5108 0 ≠ 1 ∨ p.promoted = true ∨ ∀ d o, PageLoc.peer d o ∉ p.arena))) :=
  ⟨⟨ins 2 0 2 0 0, 0, aProg, at0 worker (ins 2 0 2 0 0),
    by (try dsimp only); and_intros <;> first | exact List.Mem.head _ | exact ⟨aProg, by decide +kernel⟩ | decide +kernel⟩,
   ⟨ins 3 0 0 0 0, 0, aProg, at0 worker (ins 3 0 0 0 0),
    by (try dsimp only); and_intros <;> first | exact List.Mem.head _ | exact ⟨aProg, by decide +kernel⟩ | decide +kernel⟩,
   ⟨aProg,
    { (at0 { worker with atStep := true } (ins 3 0 0 0 0)) with tiles := [(0, { worker with atStep := true }), (1, { aTile 1 with endedAt := some 0 })] },
    by (try dsimp only); and_intros <;> first | exact .inr (.inr (by intro d o; simp [aProg])) | decide +kernel⟩⟩

theorem witness_EnginesTakeWork :
    (∃ t : Nat, ∃ i : Nat, ∃ op : Nat, ∃ tile : Fin 160, ∃ c : Instr, ∃ p : Program, ∃ s : State, Executes s tile.val i ∧ s.prog = some p ∧
      iOp i = op ∧
      (c, op) ∈ [(Instr.mma t tile, 0x40), (.mmaWrite t tile, 0x41), (.vadd t tile, 0x50), (.vmul t tile, 0x51), (.vfma t tile, 0x52),
      (.vmin t tile, 0x53), (.vmax t tile, 0x54), (.vminnum t tile, 0x55), (.vmaxnum t tile, 0x56), (.vsub t tile, 0x57),
      (.vcvt t tile, 0x58), (.vcvts t tile, 0x59)] ∧
      s.gov.holdBack < 16) ∧
    (∃ t : Nat, ∃ i : Nat, ∃ op : Nat, ∃ tile : Fin 160, ∃ c : Instr, ∃ p : Program, ∃ s : State, Executes s tile.val i ∧ s.prog = some p ∧
      iOp i = op ∧
      (c, op) ∈ [(Instr.mma t tile, 0x40), (.mmaWrite t tile, 0x41), (.vadd t tile, 0x50), (.vmul t tile, 0x51), (.vfma t tile, 0x52),
      (.vmin t tile, 0x53), (.vmax t tile, 0x54), (.vminnum t tile, 0x55), (.vmaxnum t tile, 0x56), (.vsub t tile, 0x57),
      (.vcvt t tile, 0x58), (.vcvts t tile, 0x59)] ∧
      16 ≤ s.gov.holdBack) ∧
    (∃ t : Nat, ∃ i : Nat, ∃ op : Nat, ∃ tile : Fin 160, ∃ c : Instr, ∃ p : Program, ∃ s : State, ∃ k : Nat, Executes s tile.val i ∧
      s.prog = some p ∧ iOp i = op ∧ (c, op, k) ∈ [(Instr.mov0 t tile, 0x30, 0), (.mov1 t tile, 0x31, 1)] ∧ 16 ≤ s.gov.holdBack) ∧
    (∃ t : Nat, ∃ i : Nat, ∃ op : Nat, ∃ tile : Fin 160, ∃ c : Instr, ∃ p : Program, ∃ s : State, let x := tileAt s tile.val;
      ∃ k : Nat, Executes s tile.val i ∧ s.prog = some p ∧ iOp i = op ∧
      (c, op, k) ∈ [(Instr.mov0 t tile, 0x30, 0), (.mov1 t tile, 0x31, 1)] ∧ s.gov.holdBack < 16 ∧ (x.chan k).commands.length < 8) ∧
    (∃ t : Nat, ∃ i : Nat, ∃ op : Nat, ∃ tile : Fin 160, ∃ c : Instr, ∃ p : Program, ∃ s : State, let x := tileAt s tile.val;
      ∃ k : Nat, Executes s tile.val i ∧ s.prog = some p ∧ iOp i = op ∧
      (c, op, k) ∈ [(Instr.mov0 t tile, 0x30, 0), (.mov1 t tile, 0x31, 1)] ∧ s.gov.holdBack < 16 ∧ 8 ≤ (x.chan k).commands.length ∧
      x.movStalled = false) ∧
    (∃ i : Nat, ∃ op : Nat, ∃ tile : Fin 160, ∃ p : Program, ∃ s : State, let x := tileAt s tile.val; Executes s tile.val i ∧
      s.prog = some p ∧ iOp i = op ∧ op = 0x60 ∧ tabGet 0 x.logical p.suppress ≠ 0) ∧
    (∃ i : Nat, ∃ op : Nat, ∃ tile : Fin 160, ∃ p : Program, ∃ s : State, let x := tileAt s tile.val; let q := iImm i % 4096;
      Executes s tile.val i ∧ s.prog = some p ∧ iOp i = op ∧ op = 0x60 ∧ tabGet 0 x.logical p.suppress = 0 ∧
      interlocked x (srcAOf x i, 64) false = false ∧ tilePoisoned s p tile.val (srcAOf x i) 64 = false ∧
      ((queueAt s q).tail + 1) % (queueAt s q).entries ≠ (queueAt s q).head) ∧
    (∃ i : Nat, ∃ op : Nat, ∃ tile : Fin 160, ∃ p : Program, ∃ s : State, let x := tileAt s tile.val; let q := iImm i % 4096;
      Executes s tile.val i ∧ s.prog = some p ∧ iOp i = op ∧ op = 0x60 ∧ tabGet 0 x.logical p.suppress = 0 ∧
      interlocked x (srcAOf x i, 64) false = false ∧ tilePoisoned s p tile.val (srcAOf x i) 64 = false ∧
      ((queueAt s q).tail + 1) % (queueAt s q).entries = (queueAt s q).head) :=
  ⟨⟨1000000010, ins 64 1 1 1 0 + 2 ^ 64 + 2 ^ 72, 64, 0, .mma 1000000010 0, aProg, at0 worker (ins 64 1 1 1 0 + 2 ^ 64 + 2 ^ 72),
    by (try dsimp only); and_intros <;> first | exact List.Mem.head _ | exact ⟨aProg, by decide +kernel⟩ | decide +kernel⟩,
   ⟨1000000010, ins 64 1 1 1 0 + 2 ^ 64 + 2 ^ 72, 64, 0, .mma 1000000010 0, aProg,
    { (at0 worker (ins 64 1 1 1 0 + 2 ^ 64 + 2 ^ 72)) with gov := { live.gov with holdBack := 16 } },
    by (try dsimp only); and_intros <;> first | exact List.Mem.head _ | exact ⟨aProg, by decide +kernel⟩ | decide +kernel⟩,
   ⟨1000000010, ins 0x30 0 1 0 0, 0x30, 0, .mov0 1000000010 0, aProg,
    { (at0 worker (ins 0x30 0 1 0 0)) with gov := { live.gov with holdBack := 16 } }, 0,
    by (try dsimp only); and_intros <;> first | exact List.Mem.head _ | exact ⟨aProg, by decide +kernel⟩ | decide +kernel⟩,
   ⟨1000000010, ins 0x30 0 1 0 0, 0x30, 0, .mov0 1000000010 0, aProg, at0 worker (ins 0x30 0 1 0 0), 0,
    by (try dsimp only); and_intros <;> first | exact List.Mem.head _ | exact ⟨aProg, by decide +kernel⟩ | decide +kernel⟩,
   ⟨1000000010, ins 0x31 0 1 0 0, 0x31, 0, .mov1 1000000010 0, aProg,
    at0 { worker with issued := 7, chan1 := { commands := List.replicate 8 (64, 0) } } (ins 0x31 0 1 0 0), 1,
    by (try dsimp only); and_intros <;> first | exact List.Mem.head _ | exact ⟨aProg, by decide +kernel⟩ | decide +kernel⟩,
   ⟨ins 0x60 0 1 0 9, 0x60, 0, { aProg with suppress := [(0, 2)] },
    { (at0 worker (ins 0x60 0 1 0 9)) with prog := some { aProg with suppress := [(0, 2)] }, host := { live.host with queues := [(9, { (aQueue []) with config := 0x22 })] } },
    by (try dsimp only); and_intros <;> first | exact List.Mem.head _ | exact ⟨_, rfl, by decide +kernel⟩ | decide +kernel⟩,
   ⟨ins 0x60 0 1 0 9, 0x60, 0, aProg,
    { (at0 worker (ins 0x60 0 1 0 9)) with host := { live.host with queues := [(9, { (aQueue []) with config := 0x22, tail := 63 , head := 4 })] } },
    by (try dsimp only); and_intros <;> first | exact List.Mem.head _ | exact ⟨aProg, by decide +kernel⟩ | decide +kernel⟩,
   ⟨ins 0x60 0 1 0 9, 0x60, 0, aProg,
    { (at0 worker (ins 0x60 0 1 0 9)) with host := { live.host with queues := [(9, { (aQueue []) with config := 0x22, tail := 63 , head := 0 })] } },
    by (try dsimp only); and_intros <;> first | exact List.Mem.head _ | exact ⟨aProg, by decide +kernel⟩ | decide +kernel⟩⟩

theorem witness_EngineResultsLand :
    ∃ tile : Fin 160, ∃ p : Program, ∃ o : EngineOp, ∃ rest : List EngineOp, ∃ a : Nat, ∃ bs : List Byte, ∃ s : State,
     let x := tileAt s tile.val;
      let out := engineResult (tileRead s p tile.val) s.freeCount o; s.prog = some p ∧ x.ops = o :: rest ∧ packageRuns s = true ∧
      dropping s = false ∧ ((∀ r ∈ (engineRanges o.instr o.dst o.srcA o.srcB o.srcC).1, tilePoisoned s p tile.val r.1 r.2 = false)) ∧
      out.writes = [(a, bs)] ∧ a + bs.length ≤ 0x200000 :=
  ⟨0, aProg, { anOp with instr := ins 0x50 1 1 1 0 }, [], 0x400,
    (engineResult (tileRead (at0 { worker with ops := [{ anOp with instr := ins 0x50 1 1 1 0 }] } 0) aProg 0) 0 { anOp with instr := ins 0x50 1 1 1 0 }).writes.head!.2,
    at0 { worker with ops := [{ anOp with instr := ins 0x50 1 1 1 0 }] } 0, by (try dsimp only) <;> decide +kernel⟩

theorem witness_TrapsAndWindows :
    (∃ t : Nat, ∃ before : Nat, ∃ tile : Fin 160, ∃ p : Program, ∃ s : State, ∃ s1 : State, let x := tileAt s1 tile.val; s.prog = some p ∧
      tileRuns s tile.val = true ∧ (microRun p tile.val before { s with now := max s.now t } = some s1) ∧ x.cwp < 7 ∧ x.upc < 4096 ∧
      microHere p tile.val s1 = .overflow ∧ x.spill < 30) ∧
    (∃ t : Nat, ∃ before : Nat, ∃ tile : Fin 160, ∃ p : Program, ∃ s : State, ∃ s1 : State, let x := tileAt s1 tile.val; s.prog = some p ∧
      tileRuns s tile.val = true ∧ (microRun p tile.val before { s with now := max s.now t } = some s1) ∧ x.cwp < 7 ∧ x.upc < 4096 ∧
      microHere p tile.val s1 = .underflow ∧ 0 < x.spill) ∧
    (∃ i : Nat, ∃ tile : Fin 160, ∃ p : Program, ∃ s : State, ∃ c, ∃ a, s.prog = some p ∧ tileRuns s tile.val = true ∧
      fetchInstr s p tile.val = some i ∧ faultOf s p tile.val i = some (c, a)) ∧
    (∃ tile : Fin 160, ∃ p : Program, ∃ s : State, s.prog = some p ∧ tileRuns s tile.val = true ∧ fetchInstr s p tile.val = none) ∧
    (∃ tile : Fin 160, ∃ p : Program, ∃ s : State, let x := tileAt s tile.val; ∃ raised, ∃ k, s.prog = some p ∧ x.state = .active ∧
      x.works = true ∧ x.stopped = false ∧ x.inTrap = false ∧ packageRuns s = true ∧ dropping s = false ∧
      x.irqs ||| (raised &&& 0x1A) = 2 ^ k ∧ 1 ≤ k ∧ k ≤ 4) ∧
    (∃ tile : Fin 160, ∃ p : Program, ∃ s : State, let x := tileAt s tile.val; s.prog = some p ∧ x.inTrap = true ∧ x.framed = true ∧
      x.ops = []) ∧
    (∃ tile : Fin 160, ∃ p : Program, ∃ s : State, let x := tileAt s tile.val; s.prog = some p ∧ x.inTrap = true ∧ x.framed = true ∧
      x.ops = [] ∧ x.tcause ≠ 0) ∧
    (∃ tile : Fin 160, ∃ p : Program, ∃ s : State, let x := tileAt s tile.val; s.prog = some p ∧ x.inTrap = true ∧ x.resume = true ∧
      packageRuns s = true ∧ dropping s = false) :=
  ⟨⟨1000000010, 0, 0, aProg,
    { (at0 { worker with upc := 2, occ := 7, cwp := 6, spill := 2, wregs := [(0, 55), (3, 7)] } 0) with tiers := { live.tiers with control := List.replicate 40 0 ++ natLe (2 ^ 145 + 0x123 * 2 ^ 71) 20 } },
    { (at0 { worker with upc := 2, occ := 7, cwp := 6, spill := 2, wregs := [(0, 55), (3, 7)] } 0) with now := 1000000010, tiers := { live.tiers with control := List.replicate 40 0 ++ natLe (2 ^ 145 + 0x123 * 2 ^ 71) 20 } },
    by (try dsimp only) <;> decide +kernel⟩,
   ⟨1000000010, 0, 0, aProg,
    { (at0 { worker with upc := 2, occ := 1, cwp := 0, spill := 2, wregs := [(0, 55), (3, 7)] } 0) with tiers := { live.tiers with control := List.replicate 40 0 ++ natLe (2 ^ 146 + 0x123 * 2 ^ 71) 20 } },
    { (at0 { worker with upc := 2, occ := 1, cwp := 0, spill := 2, wregs := [(0, 55), (3, 7)] } 0) with now := 1000000010, tiers := { live.tiers with control := List.replicate 40 0 ++ natLe (2 ^ 146 + 0x123 * 2 ^ 71) 20 } },
    by (try dsimp only) <;> decide +kernel⟩,
   ⟨0, 0, aProg, at0 worker (0), 0x5011, 0, by (try dsimp only) <;> decide +kernel⟩,
   ⟨0, aProg, at0 { worker with pc := 0x104 } 0, by (try dsimp only) <;> decide +kernel⟩,
   ⟨0, aProg, at0 worker 0, 8, 3, by (try dsimp only) <;> decide +kernel⟩,
   ⟨0, aProg, at0 { worker with inTrap := true, framed := true } (0), by (try dsimp only) <;> decide +kernel⟩,
   ⟨0, aProg, at0 { worker with inTrap := true, framed := true, tcause := 0x5011 } (0), by (try dsimp only) <;> decide +kernel⟩,
   ⟨0, aProg,
    at0 { worker with inTrap := true, framed := true, tcause := 0x5011, resume := true, wregs := [(127, 0x1055)], scratch := [(0x1FF008, 0x40), (0x1FF00E, 3)] } (0),
    by (try dsimp only) <;> decide +kernel⟩⟩

theorem witness_MachineChecks :
    (∃ tile : Fin 160, ∃ s : State, tileServes s tile.val = true) ∧
    (∃ a : Nat, ∃ tile : Fin 160, ∃ s : State, tileServes s tile.val = true ∧ s.tiers.ecc = true ∧ a < 169) ∧
    (∃ a : Nat, ∃ b : Nat, ∃ tile : Fin 160, ∃ s : State, let x := tileAt s tile.val; tileServes s tile.val = true ∧ s.tiers.ecc = true ∧
      a < 169 ∧ b < 169 ∧ x.state = .spare ∧ (s.prog = none ∨ (vacated s).length < (tilesIn s .spare).length)) ∧
    (∃ s : State, ∃ p, ∃ failed, s.prog = some p ∧ p.replaying = some failed ∧ packageRuns s = true ∧ dropping s = false ∧
      issueStopped s = false) :=
  ⟨⟨0, at0 { worker with patrolRow := 4095 } (0), by (try dsimp only) <;> decide +kernel⟩,
   ⟨168, 0, at0 { worker with patrolRow := 4095 } (0), by (try dsimp only) <;> decide +kernel⟩,
   ⟨168, 3, 2, at0 worker 0, by (try dsimp only) <;> decide +kernel⟩,
   ⟨{ (at0 worker (0)) with prog := some { aProg with replaying := some 1, attempts := 1 } },
    { aProg with replaying := some 1, attempts := 1 }, 1, by (try dsimp only) <;> decide +kernel⟩⟩

theorem witness_ArraysAndPlanes :
    (∃ s : State, packageRuns s = true) ∧
    (∃ s : State, ∃ array : Fin 32, let x := arrAt s array.val; packageRuns s = true ∧ dropping s = false ∧ scoreRuns s = false ∧
      ((∀ m, m < 32 → (arrAt s m).state ≠ .calibrating)) ∧ x.state = .calDue) ∧
    (∃ t : Nat, ∃ s : State, let now := max s.now t; ∃ array : Fin 32, let x := arrAt s array.val; packageRuns s = true ∧
      x.state = .calibrating ∧ x.since + 120000 ≤ now) ∧
    (∃ t : Nat, ∃ s : State, let now := max s.now t; ∃ array : Fin 32, let x := arrAt s array.val; packageRuns s = true ∧
      x.state = .calibrating ∧ x.since + 120000 ≤ now) ∧
    (∃ t : Nat, ∃ s : State, let now := max s.now t; ∃ array : Fin 32, let x := arrAt s array.val; packageRuns s = true ∧
      (x.state ≠ .calibrating ∨ now < x.since + 120000)) ∧
    (∃ t : Nat, ∃ s : State, let now := max s.now t;
      let readable (image h e : Nat) : Prop := (hbmFetch s image (65536 * (rowChunks h * columnGroups e) + 8 * e)).2 = 0;
      let sane (image h e : Nat) : Prop := (hbmWords s (image + 65536 * (rowChunks h * columnGroups e)) e).all normalPositive = true ∧
      (hbmWords s (image + 65536 * (rowChunks h * columnGroups e) + 4 * e) e).any notFinite = false;
      ∃ plane : Fin 2, let x := planeAt s plane.val; packageRuns s = true ∧ dropping s = false ∧ x.loaded = true ∧ objAt s 0x6812 0 ≠ 0 ∧
      x.written + objAt s 0x6812 0 * 1000000 ≤ now ∧ planeBusy s plane.val = false ∧ readable x.image x.hidden x.experts ∧
      sane x.image x.hidden x.experts) ∧
    (∃ s : State, let readable (image h e : Nat) : Prop := (hbmFetch s image (65536 * (rowChunks h * columnGroups e) + 8 * e)).2 = 0;
      ∃ q : Fin 4096, ∃ d : Desc, let image := field d.data 8 8; let h := field d.data 16 2 + 1; let e := field d.data 18 2 + 1;
      let p := field d.data 20 1 % 2; packageRuns s = true ∧ dropping s = false ∧ (queueAt s q.val).cls = 2 ∧
      (queueAt s q.val).next = some d ∧ field d.data 0 1 = 2 ∧ field d.data 1 1 = 0 ∧ planeBusy s p = false ∧ h ≤ 32768 ∧ e ≤ 1024 ∧
      image % 64 = 0 ∧ readable image h e) ∧
    (∃ s : State, ∃ l : Layer, packageRuns s = true ∧ dropping s = false ∧ s.junc.layer = some l ∧ l.stage = 1 ∧ l.digital = true) ∧
    (∃ t : Nat, ∃ s : State, let now := max s.now t;
      ∃ l : Layer, let sc := (List.range l.tokens).map (scoreToken { s with now := now } l (planeAt s l.plane) (sparseMode s l));
      packageRuns s = true ∧ dropping s = false ∧ s.junc.layer = some l ∧ l.stage = 1 ∧ l.digital = false ∧
      rangeValid (hbmValid s) l.scoreAddr (4 * l.experts * l.tokens) = true ∧ rowChunks l.hidden * columnGroups l.experts ≤ usableArrays s ∧
      ((∀ y ∈ sc, y.cause = 0))) :=
  ⟨⟨{ (layered 1 0 0 []) with junc := { arrays := [(3, { state := .ready, calTemp := 350 })] } }, by (try dsimp only) <;> decide +kernel⟩,
   ⟨{ (layered 1 0 0 []) with junc := { arrays := [(31, { state := .calDue, calTemp := 350 })] } }, 31,
    by (try dsimp only) <;> decide +kernel⟩,
   ⟨1000000010,
    { (layered 1 0 0 []) with junc := { arrays := [(31, { state := .calibrating, since := 999880010, calTemp := 350, temp := 400, aborts := 3 })] } },
    31, by (try dsimp only) <;> decide +kernel⟩,
   ⟨1000000010,
    { (layered 1 0 0 []) with junc := { arrays := [(31, { state := .calibrating, since := 999880010, calTemp := 350, temp := 400, aborts := 3 })] } },
    31, by (try dsimp only) <;> decide +kernel⟩,
   ⟨1000000010,
    { (layered 1 0 0 []) with junc := { arrays := [(31, { state := .calibrating, since := 999880011, calTemp := 350, temp := 400, aborts := 3 })] } },
    31, by (try dsimp only) <;> decide +kernel⟩,
   ⟨2000000000000,
    { (layered 0 0 0 []) with hbm := (memWrite (layerMem 0 0 0) 0x30000 (natLe 0x3F800000 4 ++ natLe 0x3F800000 4 ++ natLe 0 4 ++ natLe 0 4)), junc := { plane1 := { loaded := true, image := 0x20000, hidden := 16, experts := 2, written := 0, scales := [0x3F800000, 0x3F800000], biases := [0, 0], weights := [(0, 0x21)] } } },
    1, by (try dsimp only) <;> decide +kernel⟩,
   ⟨{ (layered 0 0 0 (patch 64 [(0, 1, 2), (8, 8, 0x20000), (16, 2, 15), (18, 2, 1), (20, 1, 1)])) with hbm := (memWrite (layerMem 0 0 0) 0x30000 (natLe 0x3F800000 4 ++ natLe 0x3F800000 4 ++ natLe 0 4 ++ natLe 0 4)) },
    3, { index := 5, data := patch 64 [(0, 1, 2), (8, 8, 0x20000), (16, 2, 15), (18, 2, 1), (20, 1, 1)] },
    by (try dsimp only) <;> decide +kernel⟩,
   ⟨atLayer (aLayer 1), aLayer 1, by (try dsimp only) <;> decide +kernel⟩,
   ⟨1000000010,
    { (atLayer { aLayer 1 with data := layerRec 0 0 0 }) with junc := { layer := some { aLayer 1 with data := layerRec 0 0 0 }, plane0 := { loaded := true, image := 0x20000, hidden := 16, experts := 2, written := 0, scales := [0x3F800000, 0x3F800000], biases := [0, 0], weights := [(0, 0x21)] } } },
    { aLayer 1 with data := layerRec 0 0 0 }, by (try dsimp only) <;> decide +kernel⟩⟩

theorem witness_LayersStart :
    (∃ t : Nat, ∃ q : Fin 4096, ∃ d : Desc, ∃ s : State, let now := max s.now t; let a := field d.data 8 8; let b := hbmRead s a 128;
      let x := layerReads s b;
      let good := a % 128 = 0 ∧ field d.data 16 8 % 8 = 0 ∧ field d.data 24 8 < 2 ^ 63 ∧ (hbmFetch s a 128).2 ≠ 0xA007 ∧ layerFault s b x = 0;
      packageRuns s = true ∧ dropping s = false ∧ (queueAt s q.val).cls = 2 ∧ (queueAt s q.val).next = some d ∧ field d.data 1 1 = 0 ∧
      field d.data 0 1 = 1 ∧ s.junc.layer = none ∧ s.junc.pauseUntil ≤ now ∧ layerTurn s q.val d.index = true ∧ good ∧
      (hbmFetch s a 128).2 = 0 ∧ ((∀ c ∈ x.causes, c ≠ 0x5001))) ∧
    (∃ t : Nat, ∃ q : Fin 4096, ∃ d : Desc, ∃ s : State, let now := max s.now t; let a := field d.data 8 8; let b := hbmRead s a 128;
      let x := layerReads s b;
      let good := a % 128 = 0 ∧ field d.data 16 8 % 8 = 0 ∧ field d.data 24 8 < 2 ^ 63 ∧ (hbmFetch s a 128).2 ≠ 0xA007 ∧ layerFault s b x = 0;
      packageRuns s = true ∧ dropping s = false ∧ (queueAt s q.val).cls = 2 ∧ (queueAt s q.val).next = some d ∧ field d.data 1 1 = 0 ∧
      field d.data 0 1 = 1 ∧ s.junc.layer = none ∧ s.junc.pauseUntil ≤ now ∧ layerTurn s q.val d.index = true ∧ (¬ good)) ∧
    (∃ q : Fin 4096, ∃ d : Desc, ∃ s : State, let a := field d.data 8 8;
      let mine : Submission := { queue := q.val, index := d.index, flags := true }; let x := queueAt s q.val;
      let r := x.cplBase / 32 * 32 + 32 * x.cplTail; packageRuns s = true ∧ dropping s = false ∧ (queueAt s q.val).cls = 2 ∧
      (queueAt s q.val).next = some d ∧ field d.data 1 1 = 0 ∧ field d.data 0 1 = 3 ∧
      ((∀ y ∈ s.junc.order.takeWhile (fun y => decide (y ≠ mine)), y.flags = true)) ∧ a % 8 = 0 ∧ rangeValid (hbmValid s) a 8 = true ∧
      x.group = 0 ∧ x.state = .enabled ∧ x.flight = [d] ∧ d.state = .fetched ∧ x.held = [] ∧ 0 < x.cplFree ∧ x.cplBroken = false ∧
      d.stray = none ∧ Queue.space x.cplBase = 1 ∧ d.data.length = 64 ∧ (r + 32 ≤ a ∨ a + 8 ≤ r)) :=
  ⟨⟨1000000010, 3, { index := 5, data := patch 64 [(0, 1, 1), (8, 8, 0x2000), (16, 8, 0x3180), (24, 8, 9)] },
    layered 1 0 0 (patch 64 [(0, 1, 1), (8, 8, 0x2000), (16, 8, 0x3180), (24, 8, 9)]), by (try dsimp only) <;> decide +kernel⟩,
   ⟨1000000010, 3, { index := 5, data := patch 64 [(0, 1, 1), (8, 8, 0x2000), (16, 8, 0x3180), (24, 8, 9)] },
    layered 0 0 0 (patch 64 [(0, 1, 1), (8, 8, 0x2000), (16, 8, 0x3180), (24, 8, 9)]), by (try dsimp only) <;> decide +kernel⟩,
   ⟨3, { index := 5, data := patch 64 [(0, 1, 3), (8, 8, 0x2008), (16, 1, 1)] },
    { (layered 1 0 0 (patch 64 [(0, 1, 3), (8, 8, 0x2008), (16, 1, 1)])) with junc := { flags := 0x13, order := [{ queue := 3, index := 5, flags := true }] } },
    by (try dsimp only) <;> decide +kernel⟩⟩

theorem witness_LayerStages :
    (∃ l : Layer, ∃ s : State, packageRuns s = true ∧ dropping s = false ∧ s.junc.layer = some l ∧ l.taps = 0 ∧ l.items = [] ∧ l.stage = 2 ∧
      l.scoreNext = 0 ∧ l.selectNext = 0 ∧ l.rows = [] ∧ (hbmFetch s l.scoreAddr (4 * l.experts * l.tokens)).2 = 0) ∧
    (∃ l : Layer, ∃ s : State, packageRuns s = true ∧ dropping s = false ∧ s.junc.layer = some l ∧ l.taps = 0 ∧ l.items = [] ∧ l.stage = 3 ∧
      l.formed = false ∧ l.admitNext = 0) ∧
    (∃ l : Layer, ∃ s : State, packageRuns s = true ∧ dropping s = false ∧ s.junc.layer = some l ∧ l.taps = 0 ∧ l.items = [] ∧ l.stage = 4 ∧
      rangeValid (hbmValid s) l.statsAddr (64 + 4 * l.experts) = true) ∧
    (∃ t : Nat, ∃ l : Layer, ∃ s : State, let now := max s.now t; let places := l.owned 0 * l.cap; packageRuns s = true ∧
      dropping s = false ∧ s.junc.layer = some l ∧ l.taps = 0 ∧ l.items = [] ∧ l.stage = 5 ∧ l.ship = none ∧ l.shipDone = false ∧
      l.resident = false ∧ ((∀ es ∈ l.lists, ∀ e ∈ es, (fullRecord { s with now := now } l e).2 = 0)) ∧
      rangeValid (hbmValid s) l.recvAddr (l.recordSize * places) = true) ∧
    (∃ l : Layer, ∃ s : State, packageRuns s = true ∧ dropping s = false ∧ s.junc.layer = some l ∧ l.taps = 0 ∧ l.items = [] ∧ l.stage = 5 ∧
      l.shipDone = true ∧ rangeValid (hbmValid s) l.readyAddr 8 = true ∧ ((∀ k, k < l.tokens → k ∈ l.slots))) ∧
    (∃ l : Layer, ∃ s : State, packageRuns s = true ∧ dropping s = false ∧ s.junc.layer = some l ∧ l.taps = 0 ∧ l.items = [] ∧ l.stage = 6 ∧
      (hbmFetch s l.doneAddr 8).2 = 0 ∧ hbmWord s l.doneAddr < l.signalValue) ∧
    (∃ l : Layer, ∃ s : State, let places := l.owned (l.me s) * l.members.length * l.cap; packageRuns s = true ∧ dropping s = false ∧
      s.junc.layer = some l ∧ l.taps = 0 ∧ l.items = [] ∧ l.stage = 6 ∧ (hbmFetch s l.doneAddr 8).2 = 0 ∧
      l.signalValue ≤ hbmWord s l.doneAddr ∧ l.resident = false ∧ l.restored.length < l.slots.length ∧
      (hbmFetch s l.recvAddr (l.recordSize * places)).2 = 0 ∧ (hbmFetch s l.retAddr (l.returnSize * places)).2 = 0) ∧
    (∃ t : Nat, ∃ l : Layer, ∃ s : State, let now := max s.now t;
      ∃ k, ∃ bs, let row := scaledVector l.retView.fmt (l.retView.extent 0) 0x3F800000 bs; packageRuns s = true ∧ dropping s = false ∧
      s.junc.layer = some l ∧ l.taps = 0 ∧ l.items = [] ∧ l.stage = 7 ∧ nextVector l = some k ∧ tabGet none k l.vectors = some bs ∧
      l.restored.length + 1 < l.slots.length ∧ ((writeRow l.retView (l.slots.getD k 0) row.1 { s with now := now }).2 = 0)) :=
  ⟨⟨aLayer 2, atLayer (aLayer 2), by (try dsimp only) <;> decide +kernel⟩,
   ⟨selected, atLayer (selected), by (try dsimp only) <;> decide +kernel⟩,
   ⟨admitted, atLayer (admitted), by (try dsimp only) <;> decide +kernel⟩,
   ⟨1000000010, sorted, atLayer (sorted), by (try dsimp only) <;> decide +kernel⟩,
   ⟨shipped, atLayer (shipped), by (try dsimp only) <;> decide +kernel⟩,
   ⟨{ shipped with stage := 6 }, atLayer ({ shipped with stage := 6 }), by (try dsimp only) <;> decide +kernel⟩,
   ⟨{ shipped with stage := 6, readyWritten := true },
    { (atLayer ({ shipped with stage := 6, readyWritten := true })) with hbm := memWrite (shipLocal shipped ((shipped.lists.getD 0 []).map fun e => (fullRecord (atLayer shipped) shipped e).1) (atLayer shipped)).hbm 0x3108 (natLe 9 8) },
    by (try dsimp only) <;> decide +kernel⟩,
   ⟨1000000010, gathered, atLayer gathered, 0, patch 64 [(0, 4, 0x3F800000)], by (try dsimp only) <;> decide +kernel⟩⟩

theorem witness_TapsServeLayers :
    (∃ tap : Fin 4, ∃ l : Layer, ∃ s : State, let n := tap.val; packageRuns s = true ∧ dropping s = false ∧ s.junc.layer = some l ∧
      l.tapItems n = []) ∧
    (∃ tap : Fin 4, ∃ l : Layer, ∃ s : State, let n := tap.val; packageRuns s = true ∧ dropping s = false ∧ s.junc.layer = some l ∧
      l.tapItems n = []) ∧
    (∃ t : Nat, ∃ tap : Fin 4, ∃ l : Layer, ∃ s : State, let n := tap.val; let now := max s.now t; ∃ it, ∃ rest, packageRuns s = true ∧
      dropping s = false ∧ s.junc.layer = some l ∧ l.tapItems n = it :: rest ∧ now < it.since + l.tapNs) ∧
    (∃ t : Nat, ∃ tap : Fin 4, ∃ l : Layer, ∃ s : State, let n := tap.val; let now := max s.now t; ∃ it, ∃ rest, packageRuns s = true ∧
      dropping s = false ∧ s.junc.layer = some l ∧ l.tapItems n = it :: rest ∧ it.since + l.tapNs ≤ now) ∧
    (∃ tap : Fin 4, ∃ ws : List Nat, ∃ l : Layer, ∃ s : State, let n := tap.val; ∃ it, ∃ rest, packageRuns s = true ∧ dropping s = false ∧
      s.junc.layer = some l ∧ l.tapItems n = it :: rest ∧ replyFramed l n it ws = false) ∧
    (∃ tap : Fin 4, ∃ ws : List Nat, ∃ l : Layer, ∃ s : State, let n := tap.val; ∃ it, ∃ rest, packageRuns s = true ∧ dropping s = false ∧
      s.junc.layer = some l ∧ l.tapItems n = it :: rest ∧ replyFramed l n it ws = true ∧ n = 0) ∧
    (∃ tap : Fin 4, ∃ ws : List Nat, ∃ l : Layer, ∃ s : State, let n := tap.val; ∃ it, ∃ rest, packageRuns s = true ∧ dropping s = false ∧
      s.junc.layer = some l ∧ l.tapItems n = it :: rest ∧ replyFramed l n it ws = true ∧ n = 1 ∧ it.token < l.selectNext) ∧
    (∃ tap : Fin 4, ∃ ws : List Nat, ∃ l : Layer, ∃ s : State, let n := tap.val; ∃ it, ∃ rest, packageRuns s = true ∧ dropping s = false ∧
      s.junc.layer = some l ∧ l.tapItems n = it :: rest ∧ replyFramed l n it ws = true ∧ n = 2 ∧ l.pairs.length ≤ l.admitNext) :=
  ⟨⟨0, aLayer 2, atLayer (aLayer 2), by (try dsimp only) <;> decide +kernel⟩,
   ⟨0, aLayer 2, atLayer (aLayer 2), by (try dsimp only) <;> decide +kernel⟩,
   ⟨1000000010, 0,
    { aLayer 2 with taps := 1, scoreNext := 2, items := [(0, [{ token := 0, since := 999990000 }, { token := 1, since := 999990001 }])] },
    atLayer ({ aLayer 2 with taps := 1, scoreNext := 2, items := [(0, [{ token := 0, since := 999990000 }, { token := 1, since := 999990001 }])] }),
    { token := 0, since := 999990000 }, [{ token := 1, since := 999990001 }], by (try dsimp only) <;> decide +kernel⟩,
   ⟨1000010000, 0,
    { aLayer 2 with taps := 1, scoreNext := 2, items := [(0, [{ token := 0, since := 999990000 }, { token := 1, since := 999990001 }])] },
    atLayer ({ aLayer 2 with taps := 1, scoreNext := 2, items := [(0, [{ token := 0, since := 999990000 }, { token := 1, since := 999990001 }])] }),
    { token := 0, since := 999990000 }, [{ token := 1, since := 999990001 }], by (try dsimp only) <;> decide +kernel⟩,
   ⟨0, [5],
    { aLayer 2 with taps := 1, scoreNext := 2, items := [(0, [{ token := 0, since := 999990000 }, { token := 1, since := 999990001 }])] },
    atLayer ({ aLayer 2 with taps := 1, scoreNext := 2, items := [(0, [{ token := 0, since := 999990000 }, { token := 1, since := 999990001 }])] }),
    { token := 0, since := 999990000 }, [{ token := 1, since := 999990001 }], by (try dsimp only) <;> decide +kernel⟩,
   ⟨0, [2 ^ 32 + 0, 0x40000000, 2 ^ 33 + 0x3F800000],
    { aLayer 2 with taps := 1, scoreNext := 2, items := [(0, [{ token := 0, since := 999990000 }, { token := 1, since := 999990001 }])] },
    atLayer ({ aLayer 2 with taps := 1, scoreNext := 2, items := [(0, [{ token := 0, since := 999990000 }, { token := 1, since := 999990001 }])] }),
    { token := 0, since := 999990000 }, [{ token := 1, since := 999990001 }], by (try dsimp only) <;> decide +kernel⟩,
   ⟨1, [2 ^ 32 + 0, 1, 0, 2 ^ 33 + 0x3F800000],
    { aLayer 2 with taps := 2, selectNext := 2, own := [(0, [(1, 0x3F800000)]), (1, [(0, 0x3F800000)])], items := [(1, [{ token := 0, since := 999990000 }, { token := 1, since := 999990001 }])] },
    atLayer ({ aLayer 2 with taps := 2, selectNext := 2, own := [(0, [(1, 0x3F800000)]), (1, [(0, 0x3F800000)])], items := [(1, [{ token := 0, since := 999990000 }, { token := 1, since := 999990001 }])] }),
    { token := 0, since := 999990000 }, [{ token := 1, since := 999990001 }], by (try dsimp only) <;> decide +kernel⟩,
   ⟨2, [2 ^ 32 + 0, 2 ^ 33 + 0x10001],
    { admitted with stage := 3, taps := 4, pairs := admitted.pairs.map fun p => { p with fate := none }, items := [(2, [{ token := 0, key := 1, since := 999990000 }, { token := 1, key := 0, since := 999990001 }])] },
    atLayer ({ admitted with stage := 3, taps := 4, pairs := admitted.pairs.map fun p => { p with fate := none }, items := [(2, [{ token := 0, key := 1, since := 999990000 }, { token := 1, key := 0, since := 999990001 }])] }),
    { token := 0, key := 1, since := 999990000 }, [{ token := 1, key := 0, since := 999990001 }], by (try dsimp only) <;> decide +kernel⟩⟩

theorem witness_SlabsSent :
    (∃ port : Fin 16, ∃ s : State, let p := port.val; let a := portAt s p; ∃ q, ∃ r, ∃ h, linksRun s = true ∧ a.state = .up ∧
      dropping s = false ∧ a.resend = q :: r ∧ a.unacked.find? (fun y => y.seq = q) = some h) ∧
    (∃ port : Fin 16, ∃ s : State, let p := port.val; let a := portAt s p; let open_ := a.unacked.length < 256; ∃ x, linksRun s = true ∧
      a.state = .up ∧ dropping s = false ∧ a.resend = [] ∧ open_ ∧ a.ready 0 = true ∧ a.head 0 = some x) ∧
    (∃ port : Fin 16, ∃ s : State, let p := port.val; let a := portAt s p; let open_ := a.unacked.length < 256;
      ∃ b, ∃ r, linksRun s = true ∧ a.state = .up ∧ dropping s = false ∧ a.resend = [] ∧ (¬ (open_ ∧ a.ready 0 = true)) ∧ a.linkq = b :: r) ∧
    (∃ port : Fin 16, ∃ s : State, let p := port.val; let a := portAt s p; let open_ := a.unacked.length < 256; linksRun s = true ∧
      a.state = .up ∧ dropping s = false ∧ a.resend = [] ∧ (¬ (open_ ∧ a.ready 0 = true)) ∧ a.linkq = [] ∧ open_ ∧
      (a.lastMem = 6 ∨ a.lastMem = 7) ∧ ((∃ v, 2 ≤ v ∧ v ≤ 7 ∧ a.ready v = true))) ∧
    (∃ port : Fin 16, ∃ s : State, let p := port.val; let a := portAt s p; let open_ := a.unacked.length < 256; linksRun s = true ∧
      a.state = .up ∧ dropping s = false ∧ a.resend = [] ∧ (¬ (open_ ∧ a.ready 0 = true)) ∧ a.linkq = [] ∧
      (¬ open_ ∨ (∀ v, a.ready v = false))) ∧
    (∃ s : State, ∃ x, ∃ r, ∃ o, ∃ needs, ∃ detour, linksRun s = true ∧ s.links.transit = x :: r ∧ sledAddress s ≠ 0xFFFF ∧
      switchState s = true ∧ x.dest ≠ sledAddress s ∧ route s x = .port o needs detour) ∧
    (∃ s : State, ∃ x, ∃ r, linksRun s = true ∧ s.links.transit = x :: r ∧ sledAddress s ≠ 0xFFFF ∧ switchState s = true ∧
      x.dest ≠ sledAddress s ∧ route s x = .noRoute ∧ x.kind ≠ kColl ∧ x.kind ≠ kAlley) :=
  ⟨⟨0,
    port0 { anUp with resend := [4095, 0], unacked := [{ seq := 4095, slab := aSlab 4 0, sentAt := 999999000 }, { seq := 0, slab := aSlab 5 2, sentAt := 999999900 }], nextSeq := 1 },
    4095, [0], { seq := 4095, slab := aSlab 4 0, sentAt := 999999000 }, by (try dsimp only) <;> decide +kernel⟩,
   ⟨0,
    port0 { anUp with nextSeq := 4095, unacked := [{ seq := 0, slab := aSlab 5 2, sentAt := 999999900 }], expected := 0, outq := [aSlab 5 2, aSlab 4 0, aSlab 4 0], linkq := [[1]] },
    aSlab 4 0, by (try dsimp only) <;> decide +kernel⟩,
   ⟨0, port0 { anUp with outq := [aSlab 5 2], linkq := [[3], [1]] }, [3], [[1]], by (try dsimp only) <;> decide +kernel⟩,
   ⟨0, port0 { anUp with outq := [aSlab 5 2] }, by (try dsimp only); and_intros <;> first | exact ⟨2, by decide +kernel⟩ | decide +kernel⟩,
   ⟨0, port0 { anUp with nextSeq := 4 }, by (try dsimp only); and_intros <;> first | exact .inr (fun v => rfl) | decide +kernel⟩,
   ⟨{ switched with links := { switched.links with transit := [aSlab 4 0, aSlab 4 0] } }, aSlab 4 0, [aSlab 4 0], 0, 1, false,
    by (try dsimp only) <;> decide +kernel⟩,
   ⟨{ switched with links := { switched.links with transit := [{ aSlab 4 0 with dest := 0x1211 }, aSlab 4 0] } },
    { aSlab 4 0 with dest := 0x1211 }, [aSlab 4 0], by (try dsimp only) <;> decide +kernel⟩⟩

theorem witness_SlabsReceived :
    (∃ port : Fin 16, ∃ s : State, let p := port.val; let a := portAt s p; ∃ bs : List Byte, linksRun s = true ∧ bs.length = 128 ∧
      injObj s p 8 ≠ 1 ∧ a.inj.heldSlab = none ∧ a.state ≠ .up ∧ a.exchanging = false) ∧
    (∃ port : Fin 16, ∃ s : State, let p := port.val; let a := portAt s p; ∃ bs : List Byte, let kind := field bs 0 1 % 16;
      let seq := field bs 1 2 % 4096; let good := field bs 124 4 = crc32c (bs.take 124); linksRun s = true ∧ bs.length = 128 ∧
      injObj s p 8 ≠ 1 ∧ a.inj.heldSlab = none ∧ a.state = .up ∧ 2 ≤ kind ∧ good ∧ seq = a.expected ∧
      kindAllows kind (bits (field bs 0 1) 6 4) = true ∧ kind ≠ kNotice ∧ field bs 6 2 ≠ sledAddress s) ∧
    (∃ port : Fin 16, ∃ s : State, let p := port.val; let a := portAt s p; ∃ bs : List Byte, let kind := field bs 0 1 % 16;
      let seq := field bs 1 2 % 4096; let back := (a.expected + 4096 - seq) % 4096; let good := field bs 124 4 = crc32c (bs.take 124);
      linksRun s = true ∧ bs.length = 128 ∧ injObj s p 8 ≠ 1 ∧ a.inj.heldSlab = none ∧ a.state = .up ∧ 2 ≤ kind ∧ good ∧ 1 ≤ back ∧
      back ≤ 256) ∧
    (∃ t : Nat, ∃ port : Fin 16, ∃ s : State, let now := max s.now t; let p := port.val; let a := portAt s p;
      ∃ bs : List Byte, let kind := field bs 0 1 % 16; let seq := field bs 1 2 % 4096; let back := (a.expected + 4096 - seq) % 4096;
      let good := field bs 124 4 = crc32c (bs.take 124); linksRun s = true ∧ bs.length = 128 ∧ injObj s p 8 ≠ 1 ∧ a.inj.heldSlab = none ∧
      a.state = .up ∧ 2 ≤ kind ∧ ((¬ good ∨ 256 < back)) ∧ ((∀ x, a.lastNak = some (x, a.expected) → x + 500 ≤ now))) ∧
    (∃ port : Fin 16, ∃ s : State, let p := port.val; let a := portAt s p; ∃ bs : List Byte, let kind := field bs 0 1 % 16;
      let good := field bs 124 4 = crc32c (bs.take 124); linksRun s = true ∧ bs.length = 128 ∧ injObj s p 8 ≠ 1 ∧ a.inj.heldSlab = none ∧
      a.state = .up ∧ kind = kIdle ∧ good) ∧
    (∃ t : Nat, ∃ port : Fin 16, ∃ s : State, let now := max s.now t; let p := port.val; let a := portAt s p; ∃ h, ∃ r, linksRun s = true ∧
      a.unacked = h :: r ∧ a.state = .up ∧ a.resend = [] ∧ h.sentAt + 2000 ≤ now ∧ a.replays < 7) ∧
    (∃ t : Nat, ∃ port : Fin 16, ∃ s : State, let now := max s.now t; let p := port.val; let a := portAt s p; ∃ h, ∃ r, linksRun s = true ∧
      a.unacked = h :: r ∧ a.state = .up ∧ a.resend = [] ∧ now < h.sentAt + 2000) ∧
    (∃ t : Nat, ∃ port : Fin 16, ∃ s : State, let now := max s.now t; let p := port.val; let a := portAt s p; ∃ x, linksRun s = true ∧
      a.inj.heldSlab = some x ∧ a.inj.heldAt + 10000 ≤ now ∧ kindAllows x.kind x.vc = true ∧ x.kind ≠ kNotice ∧ x.dest ≠ sledAddress s) ∧
    (∃ port : Fin 16, ∃ s : State, let p := port.val; linksRun s = true ∧ packageRuns s = true ∧ injObj s p 8 = 1 ∧ injObj s p 5 = 1 ∧
      injObj s p 6 ≤ s.rb.cycle ∧ s.rb.phase = 0) :=
  ⟨⟨3, switched, slabBytes (aSlab 4 0) 3 5 0 0, by (try dsimp only) <;> decide +kernel⟩,
   ⟨0, port0 { anUp with expected := 4095 }, slabBytes (aSlab 4 0) 4095 5 0 0, by (try dsimp only) <;> decide +kernel⟩,
   ⟨0, port0 { anUp with expected := 1 }, slabBytes (aSlab 4 0) 3841 5 0 0, by (try dsimp only) <;> decide +kernel⟩,
   ⟨1000000010, 0, port0 { anUp with expected := 1 }, slabBytes (aSlab 4 0) 3840 5 0 0,
    by (try dsimp only); and_intros <;> first | (intro h e; exact nomatch (show none = some _ from e)) | decide +kernel⟩,
   ⟨0,
    port0 { anUp with expected := 1, unacked := [{ seq := 4095, slab := aSlab 4 0, sentAt := 999999000 }, { seq := 0, slab := aSlab 5 2, sentAt := 999999900 }], replays := 3, firstReplay := some 5 },
    slabBytes ({ kind := kIdle, vc := 0, last := false }) 0 4095 2 7, by (try dsimp only) <;> decide +kernel⟩,
   ⟨1000000010, 0,
    port0 { anUp with unacked := [{ seq := 4095, slab := aSlab 4 0, sentAt := 999998010 }, { seq := 0, slab := aSlab 5 2, sentAt := 999999900 }], replays := 6 },
    { seq := 4095, slab := aSlab 4 0, sentAt := 999998010 }, [{ seq := 0, slab := aSlab 5 2, sentAt := 999999900 }],
    by (try dsimp only) <;> decide +kernel⟩,
   ⟨1000000010, 0,
    port0 { anUp with unacked := [{ seq := 4095, slab := aSlab 4 0, sentAt := 999998011 }, { seq := 0, slab := aSlab 5 2, sentAt := 999999900 }] },
    { seq := 4095, slab := aSlab 4 0, sentAt := 999998011 }, [{ seq := 0, slab := aSlab 5 2, sentAt := 999999900 }],
    by (try dsimp only) <;> decide +kernel⟩,
   ⟨1000000010, 0, port0 { anUp with inj := { heldSlab := some (aSlab 5 2), heldAt := 999990010 } }, aSlab 5 2,
    by (try dsimp only) <;> decide +kernel⟩,
   ⟨0,
    { switched with rb := { live.rb with phase := 0 }, kiosk := { switched.kiosk with objects := [(objKey 0x7001 0, 0x1111), (objKey 0x7100 5, 1), (objKey 0x7100 6, 1000), (objKey 0x7100 8, 1)] } },
    by (try dsimp only) <;> decide +kernel⟩⟩

theorem witness_PortsTrain :
    (∃ t : Nat, ∃ port : Fin 16, ∃ s : State, let now := max s.now t; let p := port.val; let a := portAt s p; ∃ c, linksRun s = true ∧
      c ∈ [Instr.fecLockLoss t port, .replayBudgetExpire t port] ∧ a.state = .up ∧ partnerDeparted s p = false ∧
      ((c = .fecLockLoss t port ∨ ∃ x, a.firstReplay = some x ∧ x + 20000 ≤ now)) ∧
      (a.retrains.filter fun x => now - x ≤ 1000000000).length < objAt s 0x7012 0 ∧ ((objAt s 0x7015 0 ≠ 1 ∨ ∀ y ∈ a.outq, y.kind ≠ kColl))) ∧
    (∃ t : Nat, ∃ port : Fin 16, ∃ s : State, let now := max s.now t; let p := port.val; let a := portAt s p; linksRun s = true ∧
      a.state = .retraining ∧ a.exchanging = false ∧ a.since + 1000000 ≤ now ∧ objAt s 0x7014 0 = 1) ∧
    (∃ t : Nat, ∃ port : Fin 16, ∃ s : State, let now := max s.now t; let p := port.val; let a := portAt s p; ∃ w, linksRun s = true ∧
      a.state = .retraining ∧ a.exchanging = false ∧ w = (if a.narrow then 4 else 8) ∧ now ≤ a.since + 2000000) ∧
    (∃ port : Fin 16, ∃ s : State, let p := port.val; let a := portAt s p; ∃ w, linksRun s = true ∧ a.state = .training ∧
      a.exchanging = false ∧ (w = 8 ∨ (w = 4 ∧ objAt s 0x7014 0 = 1))) ∧
    (∃ t : Nat, ∃ port : Fin 16, ∃ s : State, let now := max s.now t; let p := port.val; let a := portAt s p; linksRun s = true ∧
      a.exchanging = true ∧ a.infoAt + 10000 ≤ now) ∧
    (∃ t : Nat, ∃ port : Fin 16, ∃ s : State, let now := max s.now t; let p := port.val; let a := portAt s p; ∃ c, linksRun s = true ∧
      c ∈ [(Instr.retrainTimeout t port, PortState.retraining, 2000000), (.portTrainTimeout t port, .training, 800000000)] ∧
      a.state = c.2.1 ∧ a.since + c.2.2 ≤ now) ∧
    (∃ t : Nat, ∃ port : Fin 16, ∃ s : State, let now := max s.now t; let p := port.val; let a := portAt s p; ∃ c, linksRun s = true ∧
      c ∈ [(Instr.retrainTimeout t port, PortState.retraining, 2000000), (.portTrainTimeout t port, .training, 800000000)] ∧
      a.state = c.2.1 ∧ now < a.since + c.2.2) ∧
    (∃ t : Nat, ∃ port : Fin 16, ∃ s : State, let now := max s.now t; let p := port.val; let a := portAt s p; linksRun s = true ∧
      switchState s = true ∧ a.state = .failed ∧ a.since + 1000000 * objAt s 0x7013 0 ≤ now ∧ a.cable = true ∧ portDisabled s p = false) ∧
    (∃ t : Nat, ∃ port : Fin 16, ∃ s : State, let now := max s.now t; let p := port.val; let a := portAt s p; linksRun s = true ∧
      switchState s = true ∧ a.state = .failed ∧ a.since + 1000000 * objAt s 0x7013 0 ≤ now ∧ a.cable = true ∧ portDisabled s p = true) ∧
    (∃ t : Nat, ∃ port : Fin 16, ∃ s : State, let now := max s.now t; let p := port.val; let a := portAt s p; linksRun s = true ∧
      switchState s = true ∧ a.state = .failed ∧ a.since + 1000000 * objAt s 0x7013 0 ≤ now ∧ a.cable = false) ∧
    (∃ port : Fin 16, ∃ s : State, let p := port.val; let a := portAt s p; linksRun s = true ∧ mayTrain s p = true ∧ a.state ≠ .training) ∧
    (∃ port : Fin 16, ∃ s : State, let p := port.val; let a := portAt s p; linksRun s = true ∧ (a.state = .up ∨ a.state = .retraining) ∧
      partnerDeparted s p = true) ∧
    (∃ port : Fin 16, ∃ s : State, let p := port.val; let a := portAt s p; a.state ≠ .up ∧ a.state ≠ .retraining ∧ a.state ≠ .disabled) ∧
    (∃ port : Fin 16, ∃ s : State, let p := port.val; let a := portAt s p; (a.state = .up ∨ a.state = .retraining ∨ a.state = .disabled)) ∧
    (∃ port : Fin 16, ∃ s : State, let p := port.val; let a := portAt s p; a.state = .noCable ∧ linksRun s = true ∧ switchState s = true ∧
      portDisabled s p = false) ∧
    (∃ port : Fin 16, ∃ s : State, let p := port.val; let a := portAt s p; a.state ≠ .noCable) :=
  ⟨⟨1000000010, 0,
    port0 { anUp with unacked := [{ seq := 4095, slab := aSlab 4 0, sentAt := 999999000 }], outq := [aSlab 4 2], retrains := [3, 999999999, 999999999, 5, 999999999] },
    .fecLockLoss 1000000010 0, by (try dsimp only) <;> decide +kernel⟩,
   ⟨1000000010, 0, port0 { anUp with state := .retraining, since := 999000010 }, by (try dsimp only) <;> decide +kernel⟩,
   ⟨1000000010, 0, port0 { anUp with state := .retraining, since := 999000010, narrow := true }, 4, by (try dsimp only) <;> decide +kernel⟩,
   ⟨0, port0 { anUp with state := .training }, 4, by (try dsimp only) <;> decide +kernel⟩,
   ⟨1000000010, 0, port0 { anUp with state := .training, exchanging := true, infoAt := 999990010, linkq := [[7]] },
    by (try dsimp only) <;> decide +kernel⟩,
   ⟨1000000010, 0,
    port0 { anUp with state := .retraining, since := 998000010, outq := [aSlab 5 2], unacked := [{ seq := 4095, slab := aSlab 4 0, sentAt := 999999000 }] },
    (.retrainTimeout 1000000010 0, .retraining, 2000000), by (try dsimp only) <;> decide +kernel⟩,
   ⟨1000000010, 0,
    port0 { anUp with state := .retraining, since := 998000011, outq := [aSlab 5 2], unacked := [{ seq := 4095, slab := aSlab 4 0, sentAt := 999999000 }] },
    (.retrainTimeout 1000000010 0, .retraining, 2000000), by (try dsimp only) <;> decide +kernel⟩,
   ⟨20000000001, 0, port0 { anUp with state := .failed, since := 1, outq := [aSlab 5 2], retrains := [4] },
    by (try dsimp only) <;> decide +kernel⟩,
   ⟨20000000001, 8,
    { switched with links := { switched.links with ports := [(8, { state := .failed, since := 1, cable := true })] }, kiosk := { live.kiosk with objects := [(objKey 0x7001 0, 0x1111), (objKey 0x7011 9, 0)] } },
    by (try dsimp only) <;> decide +kernel⟩,
   ⟨20000000001, 0, port0 { anUp with state := .failed, since := 1, cable := false }, by (try dsimp only) <;> decide +kernel⟩,
   ⟨0, port0 { anUp with state := .up, outq := [aSlab 5 2], unacked := [{ seq := 4095, slab := aSlab 4 0, sentAt := 999999000 }] },
    by (try dsimp only) <;> decide +kernel⟩,
   ⟨0,
    (fun (x : State) => { x with links := { x.links with departed := [(0x2111, true)] } }) (port0 { anUp with outq := [aSlab 5 2], unacked := [{ seq := 4095, slab := aSlab 4 0, sentAt := 999999000 }] }),
    by (try dsimp only) <;> decide +kernel⟩,
   ⟨0, port0 { anUp with state := .training, outq := [aSlab 5 2] }, by (try dsimp only) <;> decide +kernel⟩,
   ⟨0, port0 { anUp with state := .up, outq := [aSlab 5 2] }, by (try dsimp only) <;> decide +kernel⟩,
   ⟨0, port0 { anUp with state := .noCable, cable := false }, by (try dsimp only) <;> decide +kernel⟩,
   ⟨0, port0 { anUp with state := .up, cable := false }, by (try dsimp only) <;> decide +kernel⟩⟩

theorem witness_GroupsArmAndReform :
    (∃ t : Nat, ∃ g : Nat, ∃ s : State, let now := max s.now t; let x := groupAt s g; packageRuns s = true ∧ dropping s = false ∧
      x.state = 1 ∧ x.lastSent + 1000000 ≤ now) ∧
    (∃ t : Nat, ∃ g : Nat, ∃ s : State, let now := max s.now t; let x := groupAt s g; packageRuns s = true ∧ dropping s = false ∧
      (x.state ≠ 1 ∨ now < x.lastSent + 1000000)) ∧
    (∃ t : Nat, ∃ g : Nat, ∃ s : State, let now := max s.now t; let x := groupAt s g; packageRuns s = true ∧ dropping s = false ∧
      x.state = 1 ∧ x.since + 1000000 * objAt s 0x7807 0 ≤ now) ∧
    (∃ t : Nat, ∃ g : Nat, ∃ s : State, let now := max s.now t; let x := groupAt s g; packageRuns s = true ∧ dropping s = false ∧
      x.state = 3 ∧ x.since + 1000000 * objAt s 0x7808 0 ≤ now) ∧
    (∃ t : Nat, ∃ g : Nat, ∃ s : State, let now := max s.now t; let x := groupAt s g; packageRuns s = true ∧ dropping s = false ∧
      x.state = 3 ∧ x.released = true ∧ x.lastSent + 1000000 ≤ now) ∧
    (∃ g : Nat, ∃ s : State, let x := groupAt s g; ∃ m, ∃ rest, packageRuns s = true ∧ dropping s = false ∧ s.coll.inbox = m :: rest ∧
      messageWaits s m = false ∧ m.group = g ∧ x.members.contains m.src = true ∧ m.code = 0x80 ∧ x.state = 1 ∧
      field m.extra 0 4 ≠ definitionCrc s g) ∧
    (∃ g : Nat, ∃ s : State, let x := groupAt s g; ∃ m, ∃ rest, packageRuns s = true ∧ dropping s = false ∧ s.coll.inbox = m :: rest ∧
      messageWaits s m = false ∧ m.group = g ∧ x.members.contains m.src = true ∧ m.code = 0x80 ∧ x.state = 1 ∧
      field m.extra 0 4 = definitionCrc s g) ∧
    (∃ g : Nat, ∃ s : State, let x := groupAt s g; ∃ m, ∃ rest, packageRuns s = true ∧ dropping s = false ∧ s.coll.inbox = m :: rest ∧
      messageWaits s m = false ∧ m.group = g ∧ x.members.contains m.src = true ∧ m.code = 0x80 ∧ x.state = 2 ∧ x.epoch = 0 ∧
      field m.extra 0 4 = definitionCrc s g) ∧
    (∃ g : Nat, ∃ s : State, let x := groupAt s g; let me := sledAddress s; ∃ m, ∃ rest, packageRuns s = true ∧ dropping s = false ∧
      s.coll.inbox = m :: rest ∧ messageWaits s m = false ∧ m.group = g ∧ x.members.contains m.src = true ∧ m.code = 0x86 ∧ x.state = 3 ∧
      m.epoch = x.nextEpoch ∧ field m.extra 4 1 = 0 ∧ field m.extra 0 4 = proposalCrc s g ∧ me ∉ x.lost ∧ 2 ≤ x.proposal.length ∧
      x.released = true) ∧
    (∃ g : Nat, ∃ s : State, let x := groupAt s g; let me := sledAddress s; ∃ m, ∃ rest, packageRuns s = true ∧ dropping s = false ∧
      s.coll.inbox = m :: rest ∧ messageWaits s m = false ∧ m.group = g ∧ x.members.contains m.src = true ∧ m.code = 0x87 ∧ x.state = 2 ∧
      x.colls = [] ∧ x.lost = [] ∧ m.src ≠ me ∧ groupObj s g 9 ≠ 0 ∧ 2 ≤ (x.members.filter fun a => decide (a ≠ m.src)).length) :=
  ⟨⟨1000000010, 1, grouped { aGroup with state := 1, lastSent := 999000010 } [], by (try dsimp only) <;> decide +kernel⟩,
   ⟨1000000010, 1, grouped { aGroup with state := 1, lastSent := 999000011 } [], by (try dsimp only) <;> decide +kernel⟩,
   ⟨20000000000, 1, grouped { aGroup with state := 1, since := 10000000000, helloFrom := [0x2111] } [],
    by (try dsimp only) <;> decide +kernel⟩,
   ⟨1000000010, 1, grouped { aGroup with state := 3, since := 800000010, lost := [0x2111], colls := [aColl] } [],
    by (try dsimp only) <;> decide +kernel⟩,
   ⟨1000000010, 1, grouped { aGroup with state := 3, released := true, lastSent := 999000010, lost := [0x2111] } [],
    by (try dsimp only) <;> decide +kernel⟩,
   ⟨1, grouped { aGroup with state := 1 } [aMsg 0x80 0 0 (natLe 5 4), aMsg 0x82 0 7 ([])], aMsg 0x80 0 0 (natLe 5 4), [aMsg 0x82 0 7 ([])],
    by (try dsimp only) <;> decide +kernel⟩,
   ⟨1,
    grouped { aGroup with state := 1, helloFrom := [] } [aMsg 0x80 0 0 (natLe (definitionCrc (grouped aGroup []) 1) 4), aMsg 0x82 0 7 ([])],
    aMsg 0x80 0 0 (natLe (definitionCrc (grouped aGroup []) 1) 4), [aMsg 0x82 0 7 ([])], by (try dsimp only) <;> decide +kernel⟩,
   ⟨1, grouped { aGroup with state := 2 } [aMsg 0x80 0 0 (natLe (definitionCrc (grouped aGroup []) 1) 4), aMsg 0x82 0 7 ([])],
    aMsg 0x80 0 0 (natLe (definitionCrc (grouped aGroup []) 1) 4), [aMsg 0x82 0 7 ([])], by (try dsimp only) <;> decide +kernel⟩,
   ⟨1,
    grouped { aGroup with state := 3, released := true, epoch := 65535, lost := [], reformFrom := [] } [aMsg 0x86 0 0 (natLe (proposalCrc (grouped { aGroup with state := 3, released := true, epoch := 65535, lost := [], reformFrom := [] } []) 1) 4), aMsg 0x82 0 7 ([])],
    aMsg 0x86 0 0 (natLe (proposalCrc (grouped { aGroup with state := 3, released := true, epoch := 65535, lost := [], reformFrom := [] } []) 1) 4),
    [aMsg 0x82 0 7 ([])], by (try dsimp only) <;> decide +kernel⟩,
   ⟨1,
    (fun (x : State) => { x with kiosk := { x.kiosk with objects := x.kiosk.objects ++ [(objKey 0x7400 9, 1)] }, tiers := { x.tiers with lent := [(3, 0x2111), (4, 0x3111)] } }) (grouped { aGroup with state := 2 } [aMsg 0x87 0 0 ([])]),
    aMsg 0x87 0 0 ([]), [], by (try dsimp only) <;> decide +kernel⟩⟩

theorem witness_CollectivesRun :
    (∃ q : Fin 4096, ∃ s : State, let x := queueAt s q.val; let g := x.group; let y := groupAt s g;
      let data := readRing s (Queue.space x.ringBase) (x.ringBase / 64 * 64 + 64 * x.head) 64;
      let c : Collective := { index := x.fetched, cseq := y.nextCseq, op := field data 0 1, data := data, ofLayer := false };
      packageRuns s = true ∧ dropping s = false ∧ g ≠ 0 ∧ y.queue = q.val ∧ y.state = 2 ∧ y.colls = [] ∧ x.state = .enabled ∧
      x.head ≠ x.tail ∧ freeSlot s x = true ∧ layerOwns s q.val x.fetched = false ∧ shapeOk s g c = true) ∧
    (∃ q : Fin 4096, ∃ s : State, let x := queueAt s q.val; let g := x.group; let y := groupAt s g;
      let data := readRing s (Queue.space x.ringBase) (x.ringBase / 64 * 64 + 64 * x.head) 64;
      let c : Collective := { index := x.fetched, cseq := y.nextCseq, op := field data 0 1, data := data, ofLayer := false };
      packageRuns s = true ∧ dropping s = false ∧ g ≠ 0 ∧ y.queue = q.val ∧ y.state = 2 ∧ y.colls = [] ∧ x.state = .enabled ∧
      x.head ≠ x.tail ∧ freeSlot s x = true ∧ layerOwns s q.val x.fetched = false ∧ shapeOk s g c = false) ∧
    (∃ t : Nat, ∃ g : Nat, ∃ k : Nat, ∃ i : Instr, ∃ c : Collective, ∃ more : List Collective, ∃ d : Desc, ∃ s : State, let x := groupAt s g;
      let me := myRank s g; let m := x.members.length;
      (i, k) ∈ ([(.exchange t g, 1), (.exchangeV t g, 2), (.exchangeAdd t g, 3)] : List (Instr × Nat)) ∧ packageRuns s = true ∧
      dropping s = false ∧ x.colls = c :: more ∧ ((∀ y ∈ more, y.cseq ≠ c.cseq)) ∧ x.runs = true ∧ c.op = k ∧ c.state = .armed ∧ me < m ∧
      c.limit = [] ∧ c.endSent = 0 ∧ c.windows = [] ∧ c.sentList = 0 ∧ c.alley = 0 ∧ x.alleyNext = [] ∧ (queueAt s x.queue).next = some d ∧
      d.index = c.index ∧ field d.data 1 1 = 0 ∧ c.ofLayer = true ∧ shapeOk s g c = false ∧ more = []) ∧
    (∃ t : Nat, ∃ g : Nat, ∃ k : Nat, ∃ i : Instr, ∃ c : Collective, ∃ more : List Collective, ∃ d : Desc, ∃ s : State, let x := groupAt s g;
      let me := myRank s g; let m := x.members.length;
      (i, k) ∈ ([(.exchange t g, 1), (.exchangeV t g, 2), (.exchangeAdd t g, 3)] : List (Instr × Nat)) ∧ packageRuns s = true ∧
      dropping s = false ∧ x.colls = c :: more ∧ ((∀ y ∈ more, y.cseq ≠ c.cseq)) ∧ x.runs = true ∧ c.op = k ∧ c.state = .armed ∧ me < m ∧
      c.limit = [] ∧ c.endSent = 0 ∧ c.windows = [] ∧ c.sentList = 0 ∧ c.alley = 0 ∧ x.alleyNext = [] ∧ (queueAt s x.queue).next = some d ∧
      d.index = c.index ∧ field d.data 1 1 = 0 ∧ c.ofLayer = false ∧ shapeOk s g c = true ∧ ((c.isAlley = true → otherRanks s g ≠ [])) ∧
      ((k = 3 → (∀ e ∈ addEntries s c, e.rank ≠ me) ∧ ∃ e ∈ addEntries s c, e.rank ≠ 0xFFFF))) :=
  ⟨⟨4000,
    (let s := colls [] []; { s with hbm := memWrite s.hbm 0x200000 aColl.data, host := { s.host with queues := [(4000, { (aQueue []) with config := 0x32, group := 1, ringBase := 0x200001, cplBase := 0x201001, tail := 1 })] } }),
    by (try dsimp only) <;> decide +kernel⟩,
   ⟨4000,
    (let s := colls [] []; { s with hbm := memWrite s.hbm 0x200000 (patch 64 [(0, 1, 1), (8, 8, 0x10001), (16, 8, 0x11000), (24, 4, 128)]), host := { s.host with queues := [(4000, { (aQueue []) with config := 0x32, group := 1, ringBase := 0x200001, cplBase := 0x201001, tail := 1 })] } }),
    by (try dsimp only) <;> decide +kernel⟩,
   ⟨1000000010, 1, 1, .exchange 1000000010 1,
    { aColl with ofLayer := true, data := patch 64 [(0, 1, 1), (8, 8, 0x10001), (16, 8, 0x11000), (24, 4, 128)] }, [],
    { index := 0, data := patch 64 [(0, 1, 1), (8, 8, 0x10001), (16, 8, 0x11000), (24, 4, 128)] },
    colls [{ aColl with ofLayer := true, data := patch 64 [(0, 1, 1), (8, 8, 0x10001), (16, 8, 0x11000), (24, 4, 128)] }] [],
    by (try dsimp only) <;> decide +kernel⟩,
   ⟨1000000010, 1, 1, .exchange 1000000010 1, aColl, [], { index := 0, data := (aColl).data }, colls (aColl :: []) [],
    by (try dsimp only) <;> decide +kernel⟩⟩

theorem witness_CollectivesMove :
    (∃ t : Nat, ∃ g : Nat, ∃ c : Collective, ∃ s : State, let now := max s.now t; let x := groupAt s g; packageRuns s = true ∧
      dropping s = false ∧ x.state = 2 ∧ x.colls = [c] ∧ x.lost = [] ∧ c.state ≠ .armed ∧ c.watch + 1000000 * groupObj s g 6 ≤ now) ∧
    (∃ t : Nat, ∃ g : Nat, ∃ c : Collective, ∃ s : State, let now := max s.now t; let x := groupAt s g; packageRuns s = true ∧
      dropping s = false ∧ x.state = 2 ∧ x.colls = [c] ∧ x.lost = [] ∧ c.state ≠ .armed ∧ now < c.watch + 1000000 * groupObj s g 6) ∧
    (∃ t : Nat, ∃ g : Nat, ∃ c : Collective, ∃ s : State, let now := max s.now t; let x := groupAt s g; packageRuns s = true ∧
      dropping s = false ∧ x.state = 2 ∧ x.colls = [c] ∧ x.lost = [] ∧ c.state ≠ .armed ∧ c.state = .running ∧ c.msAt + 1000000 ≤ now) ∧
    (∃ g : Nat, ∃ c : Collective, ∃ s : State, let x := groupAt s g; ∃ y : InSlab, packageRuns s = true ∧ dropping s = false ∧ x.state = 2 ∧
      x.colls = [c] ∧ x.lost = [] ∧ c.state ≠ .armed ∧ c.op = 1 ∧ c.inbox.find? (placeKnown c) = some y ∧
      ((∃ r ∈ otherRanks s g, tabGet 0 r c.ends = 0)) ∧ c.isAlley = false) ∧
    (∃ g : Nat, ∃ c : Collective, ∃ s : State, let x := groupAt s g; ∃ m, ∃ rest, packageRuns s = true ∧ dropping s = false ∧ x.state = 2 ∧
      x.colls = [c] ∧ x.lost = [] ∧ s.coll.inbox = m :: rest ∧ m.group = g ∧ m.epoch = x.epoch ∧ m.cseq = c.cseq ∧
      x.members.contains m.src = true ∧ m.code = 0x82) ∧
    (∃ g : Nat, ∃ c : Collective, ∃ s : State, let x := groupAt s g; ∃ m, ∃ rest, packageRuns s = true ∧ dropping s = false ∧ x.state = 2 ∧
      x.colls = [c] ∧ x.lost = [] ∧ s.coll.inbox = m :: rest ∧ m.group = g ∧ m.epoch = x.epoch ∧ m.cseq = c.cseq ∧
      x.members.contains m.src = true ∧ m.code = 0x83 ∧ (c.state = .armed ∨ c.op = 3)) ∧
    (∃ g : Nat, ∃ c : Collective, ∃ s : State, let x := groupAt s g;
      ∃ m, ∃ rest, let lim := max (field m.extra 0 4) (tabGet 0 m.rank c.limit); let data := c.out.getD m.rank [];
      let from_ := tabGet 0 m.rank c.sent; packageRuns s = true ∧ dropping s = false ∧ x.state = 2 ∧ x.colls = [c] ∧ x.lost = [] ∧
      s.coll.inbox = m :: rest ∧ m.group = g ∧ m.epoch = x.epoch ∧ m.cseq = c.cseq ∧ x.members.contains m.src = true ∧ m.code = 0x83 ∧
      c.state = .running ∧ c.op ≠ 3 ∧ c.isAlley = false ∧ bit c.endSent m.rank = false ∧ m.rank ∈ otherRanks s g ∧
      from_ < field m.extra 0 4 ∧ lim < data.length) ∧
    (∃ g : Nat, ∃ c : Collective, ∃ s : State, let x := groupAt s g; ∃ m, ∃ rest, let from_ := tabGet 0 m.rank c.sent;
      ∃ n, packageRuns s = true ∧ dropping s = false ∧ x.state = 2 ∧ x.colls = [c] ∧ x.lost = [] ∧ s.coll.inbox = m :: rest ∧ m.group = g ∧
      m.epoch = x.epoch ∧ m.cseq = c.cseq ∧ x.members.contains m.src = true ∧ m.code = 0x83 ∧ n = field m.extra 0 4 ∧ c.state ≠ .armed ∧
      c.op ≠ 3 ∧ 1 ≤ n ∧ n ≤ from_) ∧
    (∃ g : Nat, ∃ c : Collective, ∃ s : State, let x := groupAt s g; ∃ m, ∃ rest, packageRuns s = true ∧ dropping s = false ∧ x.state = 2 ∧
      x.colls = [c] ∧ x.lost = [] ∧ s.coll.inbox = m :: rest ∧ m.group = g ∧ m.epoch = x.epoch ∧ m.cseq = c.cseq ∧
      x.members.contains m.src = true ∧ m.code = 0x84 ∧ c.state = .armed) ∧
    (∃ g : Nat, ∃ c : Collective, ∃ s : State, let x := groupAt s g; ∃ m, ∃ rest, let fin := c.finished ||| 2 ^ m.rank;
      let all := c.state = .draining ∧ ∀ r ∈ otherRanks s g, bit fin r = true; packageRuns s = true ∧ dropping s = false ∧ x.state = 2 ∧
      x.colls = [c] ∧ x.lost = [] ∧ s.coll.inbox = m :: rest ∧ m.group = g ∧ m.epoch = x.epoch ∧ m.cseq = c.cseq ∧
      x.members.contains m.src = true ∧ m.code = 0x81 ∧ field m.extra 0 4 = shapeCrc c ∧ (¬ all)) ∧
    (∃ g : Nat, ∃ c : Collective, ∃ s : State, let x := groupAt s g; ∃ m, ∃ rest, let fin := c.finished ||| 2 ^ m.rank;
      let all := c.state = .draining ∧ ∀ r ∈ otherRanks s g, bit fin r = true; packageRuns s = true ∧ dropping s = false ∧ x.state = 2 ∧
      x.colls = [c] ∧ x.lost = [] ∧ s.coll.inbox = m :: rest ∧ m.group = g ∧ m.epoch = x.epoch ∧ m.cseq = c.cseq ∧
      x.members.contains m.src = true ∧ m.code = 0x81 ∧ field m.extra 0 4 = shapeCrc c ∧ all) ∧
    (∃ g : Nat, ∃ c : Collective, ∃ s : State, let x := groupAt s g; ∃ m, ∃ rest, packageRuns s = true ∧ dropping s = false ∧ x.state = 2 ∧
      x.colls = [c] ∧ x.lost = [] ∧ s.coll.inbox = m :: rest ∧ m.group = g ∧ m.epoch = x.epoch ∧ m.cseq = c.cseq ∧
      x.members.contains m.src = true ∧ m.code = 0x85) :=
  ⟨⟨1000000010, 1, { runningColl with watch := 900000010 }, colls [{ runningColl with watch := 900000010 }] [],
    by (try dsimp only) <;> decide +kernel⟩,
   ⟨1000000010, 1, { runningColl with watch := 900000011 }, colls [{ runningColl with watch := 900000011 }] [],
    by (try dsimp only) <;> decide +kernel⟩,
   ⟨1000000010, 1, { runningColl with msAt := 999000010, moved := true }, colls [{ runningColl with msAt := 999000010, moved := true }] [],
    by (try dsimp only) <;> decide +kernel⟩,
   ⟨1, { runningColl with inbox := [{ rank := 1, pos := 1, data := [7, 8, 9] }, { rank := 2, pos := 0, data := [1] }], grantTurn := 2 },
    colls [{ runningColl with inbox := [{ rank := 1, pos := 1, data := [7, 8, 9] }, { rank := 2, pos := 0, data := [1] }], grantTurn := 2 }] [],
    { rank := 1, pos := 1, data := [7, 8, 9] }, by (try dsimp only) <;> decide +kernel⟩,
   ⟨1, runningColl, colls [runningColl] [aMsg 0x82 0 7 [], aMsg 0x82 0 7 []], aMsg 0x82 0 7 [], [aMsg 0x82 0 7 []],
    by (try dsimp only) <;> decide +kernel⟩,
   ⟨1, aColl, colls [aColl] [aMsg 0x83 0 7 (natLe 5 4), aMsg 0x82 0 7 []], aMsg 0x83 0 7 (natLe 5 4), [aMsg 0x82 0 7 []],
    by (try dsimp only) <;> decide +kernel⟩,
   ⟨1, { runningColl with limit := [(1, 1)], sent := [(1, 1)] },
    colls [{ runningColl with limit := [(1, 1)], sent := [(1, 1)] }] [aMsg 0x83 0 7 (natLe 2 4), aMsg 0x82 0 7 []],
    aMsg 0x83 0 7 (natLe 2 4), [aMsg 0x82 0 7 []], by (try dsimp only) <;> decide +kernel⟩,
   ⟨1, { runningColl with sent := [(1, 3)], limit := [(1, 3)] },
    colls [{ runningColl with sent := [(1, 3)], limit := [(1, 3)] }] [aMsg 0x83 0 7 (natLe 2 4)], aMsg 0x83 0 7 (natLe 2 4), [], 2,
    by (try dsimp only) <;> decide +kernel⟩,
   ⟨1, aColl, colls [aColl] [aMsg 0x84 0 7 (natLe 5 4), aMsg 0x82 0 7 []], aMsg 0x84 0 7 (natLe 5 4), [aMsg 0x82 0 7 []],
    by (try dsimp only) <;> decide +kernel⟩,
   ⟨1, runningColl, colls [runningColl] [aMsg 0x81 0 7 (natLe (shapeCrc aColl) 4), aMsg 0x82 0 7 []],
    aMsg 0x81 0 7 (natLe (shapeCrc aColl) 4), [aMsg 0x82 0 7 []], by (try dsimp only) <;> decide +kernel⟩,
   ⟨1, { runningColl with state := .draining, finished := 4 },
    colls [{ runningColl with state := .draining, finished := 4 }] [aMsg 0x81 0 7 (natLe (shapeCrc aColl) 4), aMsg 0x82 0 7 []],
    aMsg 0x81 0 7 (natLe (shapeCrc aColl) 4), [aMsg 0x82 0 7 []], by (try dsimp only) <;> decide +kernel⟩,
   ⟨1, runningColl, colls [runningColl] [aMsg 0x85 0 7 (natLe 0x7012 2 ++ natLe 2 2), aMsg 0x82 0 7 []],
    aMsg 0x85 0 7 (natLe 0x7012 2 ++ natLe 2 2), [aMsg 0x82 0 7 []], by (try dsimp only) <;> decide +kernel⟩⟩

theorem witness_FabricBanksAndStreams :
    (Config.qcMode (aLot .inService [2, 3, 6, 5, 4, 0, 0, 0]).config 3 = 5 → Config.qcMode (aLot .inService [2, 3, 6, 5, 4, 0, 0,
     0]).config 4 = 4 → ∃ c : Nat, ∃ w : Nat, ∃ r : List Nat, ∃ s : State, let p := objAt s 0x8032 (c + 1);
      let crosses := p < 128 ∧ controllerMode s p = 4 ∧ (fifoAt s p).length < 256; packageRuns s = true ∧ dropping s = false ∧
      controllerMode s c = 5 ∧ fifoAt s c = w :: r ∧ crosses) ∧
    (Config.qcMode (aLot .inService [2, 3, 6, 5, 4, 0, 0, 0]).config 3 = 5 → ∃ c : Nat, ∃ w : Nat, ∃ r : List Nat, ∃ s : State,
     let p := objAt s 0x8032 (c + 1);
      let crosses := p < 128 ∧ controllerMode s p = 4 ∧ (fifoAt s p).length < 256; packageRuns s = true ∧ dropping s = false ∧
      controllerMode s c = 5 ∧ fifoAt s c = w :: r ∧ (¬ crosses)) ∧
    (∃ b : Nat, ∃ j : Nat, ∃ s : State, let y := laneAt s b j; packageRuns s = true ∧ dropping s = false ∧ laneRuns s b j = some false ∧
      y.fifo.length < 32) ∧
    (∃ b : Nat, ∃ j : Nat, ∃ s : State, let y := laneAt s b j; packageRuns s = true ∧ dropping s = false ∧ laneRuns s b j = some false ∧
      32 ≤ y.fifo.length) ∧
    (∃ b : Nat, ∃ j : Nat, ∃ s : State, packageRuns s = true ∧ dropping s = false ∧ laneRuns s b j = some true) ∧
    (∃ s : State, packageRuns s = true) ∧
    (∃ bank : Fin 4, ∃ s : State, let x := bankAt s bank.val; packageRuns s = true ∧ (x.state = 1 ∨ x.state = 2)) ∧
    (∃ bank : Fin 4, ∃ s : State, let x := bankAt s bank.val; packageRuns s = true ∧ (x.state = 1 ∨ x.state = 2)) ∧
    (∃ bank : Fin 4, ∃ s : State, let x := bankAt s bank.val; packageRuns s = true ∧ x.state = 1) ∧
    (∃ bank : Fin 4, ∃ s : State, let x := bankAt s bank.val; packageRuns s = true ∧ x.state ≠ 1) ∧
    (∃ q : Fin 4096, ∃ d : Desc, ∃ s : State, let x := queueAt s q.val; packageRuns s = true ∧ dropping s = false ∧ x.cls = 3 ∧
      x.group = 0 ∧ x.state = .enabled ∧ x.flight = [d] ∧ x.held = [] ∧ 0 < x.cplFree ∧ x.cplBroken = false ∧ d.stray = none ∧
      Queue.space x.cplBase = 1 ∧ d.gate = none ∧ d.state = .fetched ∧ field d.data 1 1 = 0 ∧ field d.data 0 1 = 1) ∧
    (Config.qcMode (aLot .inService [2, 3, 6, 1, 0, 0, 0, 0]).config 0 = 2 → ∃ t : Nat, ∃ q : Fin 4096, ∃ d : Desc, ∃ s : State,
     let now := max s.now t;
      let x := queueAt s q.val; let c := field d.data 20 1; let a := field d.data 8 8; let len := field d.data 16 4;
      let mark := bit (field d.data 21 1) 0; let f := fifoAt s c;
      let run (push : Bool) : Stream := { queue := q.val, index := d.index, push := push, addr := a, left := len, mark := mark, since := now };
      ∃ taken : Nat, let n := min (len / 4) (256 + taken - f.length); packageRuns s = true ∧ dropping s = false ∧ x.cls = 3 ∧
      x.next = some d ∧ field d.data 1 1 = 0 ∧ streamBodyOk d.data = true ∧ streamsAt s c = [] ∧
      ((∀ e ∈ s.fab.streams, ∀ y, e.2.head? = some y → y.queue ≠ q.val ∨ y.index ≠ d.index)) ∧ field d.data 0 1 = 2 ∧
      streamCheck s c (run true) = 0 ∧ 4 * n < len ∧ reachableBytes s 1 a (4 * n) = 4 * n ∧ cleanSource s 1 a (4 * n) = 4 * n) ∧
    (Config.qcMode (aLot .inService [2, 3, 6, 1, 0, 0, 0, 0]).config 1 = 3 → ∃ t : Nat, ∃ q : Fin 4096, ∃ d : Desc, ∃ s : State,
     let now := max s.now t;
      let x := queueAt s q.val; let c := field d.data 20 1; let a := field d.data 8 8; let len := field d.data 16 4;
      let mark := bit (field d.data 21 1) 0; let f := fifoAt s c;
      let run (push : Bool) : Stream := { queue := q.val, index := d.index, push := push, addr := a, left := len, mark := mark, since := now };
      ∃ words : List Nat, let all := f ++ words; let m := all.length; packageRuns s = true ∧ dropping s = false ∧ x.cls = 3 ∧
      x.next = some d ∧ field d.data 1 1 = 0 ∧ streamBodyOk d.data = true ∧ streamsAt s c = [] ∧
      ((∀ e ∈ s.fab.streams, ∀ y, e.2.head? = some y → y.queue ≠ q.val ∨ y.index ≠ d.index)) ∧ field d.data 0 1 = 3 ∧
      streamCheck s c (run false) = 0 ∧ illegalWord words = false ∧ mark = false ∧ 4 * m < len ∧ reachableBytes s 1 a (4 * m) = 4 * m) ∧
    (Config.qcMode (aLot .inService [2, 3, 6, 1, 0, 0, 0, 0]).config 2 = 6 → ∃ s : State, ∃ ctrl : Fin 128, ∃ words : List Nat,
     let all := fifoAt s ctrl.val ++ words;
      packageRuns s = true ∧ dropping s = false ∧ controllerMode s ctrl.val = 6 ∧ illegalWord words = false ∧ all.length < 16) ∧
    (Config.qcMode (aLot .inService [2, 3, 6, 1, 0, 0, 0, 0]).config 2 = 6 → ∃ s : State, ∃ ctrl : Fin 128, ∃ words : List Nat,
     let all := fifoAt s ctrl.val ++ words;
      let target := queueAt s (objAt s 0x8032 (ctrl.val + 1)); packageRuns s = true ∧ dropping s = false ∧ controllerMode s ctrl.val = 6 ∧
      illegalWord words = false ∧ 16 ≤ all.length ∧ all.length < 32 ∧ (target.state ≠ .enabled ∨ target.cls ≠ 3)) ∧
    (Config.qcMode (aLot .inService [2, 3, 6, 1, 0, 0, 0, 0]).config 2 = 6 → ∃ s : State, ∃ ctrl : Fin 128, ∃ words : List Nat,
     let all := fifoAt s ctrl.val ++ words;
      let target := queueAt s (objAt s 0x8032 (ctrl.val + 1)); packageRuns s = true ∧ dropping s = false ∧ controllerMode s ctrl.val = 6 ∧
      illegalWord words = false ∧ 16 ≤ all.length ∧ all.length < 32 ∧ target.state = .enabled ∧ target.cls = 3 ∧
      (target.tail + 1) % target.entries ≠ target.head) ∧
    (∃ t : Nat, ∃ s : State, let now := max s.now t; ∃ ctrl : Fin 128, ∃ y : Stream, ∃ rest : List Stream, packageRuns s = true ∧
      dropping s = false ∧ streamsAt s ctrl.val = y :: rest ∧ y.since + objAt s 0x8012 0 * 1000000 ≤ now ∧
      (lotAt s (ctrl.val / 8)).fenceable = true) ∧
    (∃ t : Nat, ∃ s : State, let now := max s.now t; ∃ ctrl : Fin 128, ∃ y : Stream, ∃ rest : List Stream, packageRuns s = true ∧
      dropping s = false ∧ streamsAt s ctrl.val = y :: rest ∧ now < y.since + objAt s 0x8012 0 * 1000000) :=
  ⟨fun hq hr => ⟨35, 9, [8], { (fabled { lots := [(4, aLot .inService [2, 3, 6, 5, 4, 0, 0, 0])], fifos := [(35, [9, 8])] }) with kiosk := { live.kiosk with objects := [(objKey 0x8032 36, 36)] } }, by (try dsimp only); and_intros <;> first | decide +kernel | (refine mode_of _ 35 _ ?_ ?_ ?_ ?_ <;> first | decide +kernel | exact hq) | (refine mode_of _ 36 _ ?_ ?_ ?_ ?_ <;> first | decide +kernel | exact hr)⟩,
   fun hq => ⟨35, 9, [8], { (fabled { lots := [(4, aLot .inService [2, 3, 6, 5, 4, 0, 0, 0])], fifos := [(35, [9, 8])] }) with kiosk := { live.kiosk with objects := [(objKey 0x8032 36, 128)] } }, by (try dsimp only); and_intros <;> first | decide +kernel | (refine mode_of _ 35 _ ?_ ?_ ?_ ?_ <;> first | decide +kernel | exact hq)⟩,
   ⟨1, 3, fabled (laned 0 [1]), by (try dsimp only) <;> decide +kernel⟩,
   ⟨1, 3, fabled (laned 0 (List.replicate 32 1)), by (try dsimp only) <;> decide +kernel⟩,
   ⟨1, 3, fabled (laned 8 [0x8001, 2]), by (try dsimp only) <;> decide +kernel⟩,
   ⟨fabled { lots := [(4, aLot .inService [2, 3, 6, 1, 0, 0, 0, 0]), (5, aLot .held []), (6, aLot .fenced []), (8, aLot .inService [2])] },
    by (try dsimp only) <;> decide +kernel⟩,
   ⟨3, fabled { banks := [(3, { state := 1, standard := 3, lock := 9 })] }, by (try dsimp only) <;> decide +kernel⟩,
   ⟨3, fabled { banks := [(3, { state := 1, standard := 3, lock := 0x81 })] }, by (try dsimp only) <;> decide +kernel⟩,
   ⟨3, fabled { banks := [(3, { state := 1, standard := 3, lock := 9 })] }, by (try dsimp only) <;> decide +kernel⟩,
   ⟨3, fabled { banks := [(3, { state := 3, standard := 3, lock := 9 })] }, by (try dsimp only) <;> decide +kernel⟩,
   ⟨3, { index := 5, data := patch 64 [(0, 1, 1), (4, 4, 99)] },
    fabQueue { lots := [(4, aLot .inService [2, 3, 6, 1, 0, 0, 0, 0]), (5, aLot .held []), (6, aLot .fenced []), (8, aLot .inService [2])] } (patch 64 [(0, 1, 1), (4, 4, 99)]),
    by (try dsimp only) <;> decide +kernel⟩,
   fun hq => ⟨1000000010, 3, { index := 5, data := patch 64 [(0, 1, 2), (8, 8, 0x20000), (16, 4, 2000), (20, 1, 32), (21, 1, 0)] },
     fabQueue { lots := [(4, aLot .inService [2, 3, 6, 1, 0, 0, 0, 0]), (5, aLot .held []), (6, aLot .fenced []), (8, aLot .inService [2])], fifos := [(32, [8, 9])] } (patch 64 [(0, 1, 2), (8, 8, 0x20000), (16, 4, 2000), (20, 1, 32), (21, 1, 0)]), 3, by (try dsimp only); and_intros <;> first | decide +kernel | exact streamCheck_of _ _ _ (by decide +kernel) (by decide +kernel) hq⟩,
   fun hq => ⟨1000000010, 3, { index := 5, data := patch 64 [(0, 1, 3), (8, 8, 0x30000), (16, 4, 2000), (20, 1, 33)] },
     fabQueue { lots := [(4, aLot .inService [2, 3, 6, 1, 0, 0, 0, 0]), (5, aLot .held []), (6, aLot .fenced []), (8, aLot .inService [2])], fifos := [(33, [8, 9])] } (patch 64 [(0, 1, 3), (8, 8, 0x30000), (16, 4, 2000), (20, 1, 33)]), [1, 2 ^ 33 + 7, 2 ^ 32 + 9], by (try dsimp only); and_intros <;> first | decide +kernel | exact streamCheck_of _ _ _ (by decide +kernel) (by decide +kernel) hq⟩,
   fun hq => ⟨fabQueue { lots := [(4, aLot .inService [2, 3, 6, 1, 0, 0, 0, 0]), (5, aLot .held []), (6, aLot .fenced []), (8, aLot .inService [2])], fifos := [(34, [1, 2])] } [], 34, [2 ^ 32 + 5], by (try dsimp only); and_intros <;> first | decide +kernel | (refine mode_of _ 34 _ ?_ ?_ ?_ ?_ <;> first | decide +kernel | exact hq)⟩,
   fun hq => ⟨fabQueue { lots := [(4, aLot .inService [2, 3, 6, 1, 0, 0, 0, 0]), (5, aLot .held []), (6, aLot .fenced []), (8, aLot .inService [2])], fifos := [(34, [1, 2])] } [], 34, List.replicate 15 0x123456789, by (try dsimp only); and_intros <;> first | decide +kernel | exact .inl (by decide +kernel) | (refine mode_of _ 34 _ ?_ ?_ ?_ ?_ <;> first | decide +kernel | exact .inl (by decide +kernel) | exact hq)⟩,
   fun hq => ⟨(fun (x : State) => { x with kiosk := { x.kiosk with objects := [(objKey 0x8032 35, 3)] }, host := { live.host with queues := [(3, { (aQueue []) with config := 0x32, tail := 63, head := 3 })] } }) (fabQueue { lots := [(4, aLot .inService [2, 3, 6, 1, 0, 0, 0, 0]), (5, aLot .held []), (6, aLot .fenced []), (8, aLot .inService [2])], fifos := [(34, [1, 2])] } []), 34, List.replicate 15 0x123456789, by (try dsimp only); and_intros <;> first | decide +kernel | (refine mode_of _ 34 _ ?_ ?_ ?_ ?_ <;> first | decide +kernel | exact hq)⟩,
   ⟨300000000000,
    { (fabQueue { lots := [(4, aLot .inService [2, 3, 6, 1, 0, 0, 0, 0]), (5, aLot .held []), (6, aLot .fenced []), (8, aLot .inService [2])], streams := [(32, [{ queue := 3, index := 5, push := true, addr := 0x20000, left := 64, mark := false, since := 5 }])], fifos := [(32, [1]), (64, [3])] } []) with host := { live.host with queues := [(3, { (aQueue [{ index := 5, data := [], state := .started }]) with config := 0x32 })] } },
    32, { queue := 3, index := 5, push := true, addr := 0x20000, left := 64, mark := false, since := 5 }, [],
    by (try dsimp only) <;> decide +kernel⟩,
   ⟨1000000000,
    { (fabQueue { lots := [(4, aLot .inService [2, 3, 6, 1, 0, 0, 0, 0]), (5, aLot .held []), (6, aLot .fenced []), (8, aLot .inService [2])], streams := [(32, [{ queue := 3, index := 5, push := true, addr := 0x20000, left := 64, mark := false, since := 999999999 }])], fifos := [(32, [1]), (64, [3])] } []) with host := { live.host with queues := [(3, { (aQueue [{ index := 5, data := [], state := .started }]) with config := 0x32 })] } },
    32, { queue := 3, index := 5, push := true, addr := 0x20000, left := 64, mark := false, since := 999999999 }, [],
    by (try dsimp only) <;> decide +kernel⟩⟩

theorem witness_TestPortAnswers :
    (∃ t : Nat, ∃ ext : Bool, ∃ s : State, ∃ tap : Fin 5, ∃ chip : Fin 4, ∃ a : Nat, ∃ b : Nat, ∃ code : Nat, ∃ ws : List Nat, ∃ c,
     chainDriven s ext = false ∧
      c ∈ [Instr.testLogicReset t ext, .bypass t ext tap code, .idcode t ext tap, .samplePreload t ext tap a b, .extest t ext tap a b,
      .cfgLoad t ext chip ws, .cfgStatus t ext chip, .cfgReadback t ext chip a]) ∧
    (∃ ext : Bool, ∃ s : State, chainDriven s ext = true) ∧
    (∃ ext : Bool, ∃ s : State, ∃ tap : Fin 5, chainDriven s ext = true ∧ ((tap.val = 0 ∨ (chipAt s (tap.val - 1)).engine ≠ .receiving))) ∧
    (∃ ext : Bool, ∃ s : State, ∃ tap : Fin 5, chainDriven s ext = true ∧ ((tap.val = 0 ∨ (chipAt s (tap.val - 1)).engine ≠ .receiving))) ∧
    (∃ ext : Bool, ∃ s : State, ∃ tap : Fin 5, chainDriven s ext = true ∧ ((tap.val = 0 ∨ (chipAt s (tap.val - 1)).engine ≠ .receiving))) ∧
    (∃ ext : Bool, ∃ s : State, ∃ tap : Fin 5, chainDriven s ext = true ∧ ((tap.val = 0 ∨ (chipAt s (tap.val - 1)).engine ≠ .receiving))) ∧
    (∃ ext : Bool, ∃ s : State, chainDriven s ext = true) ∧
    (∃ ext : Bool, ∃ s : State, ∃ chip : Fin 4, chainDriven s ext = true ∧ (chipAt s chip.val).engine ≠ .receiving) :=
  ⟨⟨1000000010, true, live, 3, 2, 7, 8, 0xA5, [4], .bypass 1000000010 true 3 0xA5, by (try dsimp only) <;> decide +kernel⟩,
   ⟨false,
    fabled { lots := [(4, aLot .inService [2, 3, 6, 1, 0, 0, 0, 0]), (5, aLot .held []), (6, aLot .fenced []), (8, aLot .inService [2])], chips := [(1, { engine := .receiving, external := false, target := 1, extest := true }), (2, { readSel := 0xC00, extest := true })], jobs := [5], ir := [(2, 0x20)] },
    by (try dsimp only) <;> decide +kernel⟩,
   ⟨false,
    fabled { lots := [(4, aLot .inService [2, 3, 6, 1, 0, 0, 0, 0]), (5, aLot .held []), (6, aLot .fenced []), (8, aLot .inService [2])], chips := [(1, { engine := .receiving, external := false, target := 1, extest := true }), (2, { readSel := 0xC00, extest := true })], jobs := [5], ir := [(2, 0x20)] },
    0, by (try dsimp only) <;> decide +kernel⟩,
   ⟨false,
    fabled { lots := [(4, aLot .inService [2, 3, 6, 1, 0, 0, 0, 0]), (5, aLot .held []), (6, aLot .fenced []), (8, aLot .inService [2])], chips := [(1, { engine := .receiving, external := false, target := 1, extest := true }), (2, { readSel := 0xC00, extest := true })], jobs := [5], ir := [(2, 0x20)] },
    0, by (try dsimp only) <;> decide +kernel⟩,
   ⟨false,
    fabled { lots := [(4, aLot .inService [2, 3, 6, 1, 0, 0, 0, 0]), (5, aLot .held []), (6, aLot .fenced []), (8, aLot .inService [2])], chips := [(1, { engine := .receiving, external := false, target := 1, extest := true }), (2, { readSel := 0xC00, extest := true })], jobs := [5], ir := [(2, 0x20)] },
    0, by (try dsimp only) <;> decide +kernel⟩,
   ⟨false,
    fabled { lots := [(4, aLot .inService [2, 3, 6, 1, 0, 0, 0, 0]), (5, aLot .held []), (6, aLot .fenced []), (8, aLot .inService [2])], chips := [(1, { engine := .receiving, external := false, target := 1, extest := true }), (2, { readSel := 0xC00, extest := true })], jobs := [5], ir := [(2, 0x20)] },
    0, by (try dsimp only) <;> decide +kernel⟩,
   ⟨false,
    fabled { lots := [(4, aLot .inService [2, 3, 6, 1, 0, 0, 0, 0]), (5, aLot .held []), (6, aLot .fenced []), (8, aLot .inService [2])], chips := [(1, { engine := .receiving, external := false, target := 1, extest := true }), (2, { readSel := 0xC00, extest := true })], jobs := [5], ir := [(2, 0x20)] },
    by (try dsimp only) <;> decide +kernel⟩,
   ⟨false,
    fabled { lots := [(4, aLot .inService [2, 3, 6, 1, 0, 0, 0, 0]), (5, aLot .held []), (6, aLot .fenced []), (8, aLot .inService [2])], chips := [(1, { engine := .receiving, external := false, target := 1, extest := true }), (2, { readSel := 0xC00, extest := true })], jobs := [5], ir := [(2, 0x20)] },
    2, by (try dsimp only) <;> decide +kernel⟩⟩

theorem witness_LoadsComplete :
    (∃ s : State, ∃ ext, packageRuns s = true ∧ dropping s = false ∧ s.sweep.cleared = true ∧ ext = s.fab.external) ∧
    (∃ chip : Fin 4, ∃ s : State, let c := chip.val; let x := chipAt s c; ∃ ws : List Nat, packageRuns s = true ∧ dropping s = false ∧
      s.sweep.cleared = false ∧ s.fab.external = true ∧ ((x.engine = .idle ∨ x.engine = .done)) ∧ ws.length = 16 ∧
      headerError s c none ws = 0) ∧
    (∃ chip : Fin 4, ∃ s : State, let c := chip.val; let x := chipAt s c; ∃ ws : List Nat, packageRuns s = true ∧ dropping s = false ∧
      s.sweep.cleared = false ∧ s.fab.external = true ∧ ((x.engine = .idle ∨ x.engine = .done)) ∧ ws.length = 16 ∧
      headerError s c none ws ≠ 0) ∧
    (∃ chip : Fin 4, ∃ s : State, let c := chip.val; let x := chipAt s c; ∃ l, ∃ rest, packageRuns s = true ∧ dropping s = false ∧
      s.sweep.cleared = false ∧ s.fab.external = false ∧ s.fab.jobs = l :: rest ∧ l / 4 = c ∧ x.engine ≠ .receiving ∧
      x.engine ≠ .verifying ∧ tabGet [] l s.fab.store = []) ∧
    (∃ chip : Fin 4, ∃ s : State, let c := chip.val; let x := chipAt s c; let lot := 4 * c + x.target; packageRuns s = true ∧
      dropping s = false ∧ x.engine = .verifying ∧ sectionVerifies s c lot = false) ∧
    (∃ chip : Fin 4, ∃ s : State, let c := chip.val; let x := chipAt s c; let lot := 4 * c + x.target; packageRuns s = true ∧
      dropping s = false ∧ x.engine = .verifying ∧ sectionVerifies s c lot = true) ∧
    (∃ s : State, packageRuns s = true ∧ dropping s = false ∧ s.fab.full = true ∧ s.fab.jobs = []) ∧
    (∃ s : State, packageRuns s = true ∧ dropping s = false ∧ s.fab.fullWaits = true ∧ fullLoadFree s = true) ∧
    (∃ s : State, ∃ l, packageRuns s = true ∧ dropping s = false ∧ s.fab.fullWaits = false ∧ l < 16 ∧ (lotAt s l).cmd = 2 ∧
      (lotAt s l).policyReload = false ∧ (lotAt s l).serves = true ∧ layerUsesLot s l = false ∧ (l, lotAt s l) ∈ s.fab.lots) :=
  ⟨⟨{ (fabled { jobs := [5] }) with sweep := { live.sweep with cleared := true } }, false, by (try dsimp only) <;> decide +kernel⟩,
   ⟨1,
    fabled { external := true, lots := [(4, aLot .inService [2, 3, 6, 1, 0, 0, 0, 0]), (5, aLot .held []), (6, aLot .fenced []), (8, aLot .inService [2])] },
    [0x4255524E, 0x00030000, 6, 3616, 0x8640, 0, 5, 0, 0, 0, 0, 0, 0, 0, 0, 0], by (try dsimp only) <;> decide +kernel⟩,
   ⟨1,
    fabled { external := true, lots := [(4, aLot .inService [2, 3, 6, 1, 0, 0, 0, 0]), (5, aLot .held []), (6, aLot .fenced []), (8, aLot .inService [2])] },
    [0x4255524E, 0x00030000, 4, 3616, 0x8640, 0, 5, 0, 0, 0, 0, 0, 0, 0, 0, 0], by (try dsimp only) <;> decide +kernel⟩,
   ⟨1,
    fabled { lots := [(4, aLot .inService [2, 3, 6, 1, 0, 0, 0, 0]), (5, aLot .held []), (6, aLot .fenced []), (8, aLot .inService [2])], jobs := [5], chips := [(1, { engine := .error, err := 3 })] },
    5, [], by (try dsimp only) <;> decide +kernel⟩,
   ⟨1,
    fabled { lots := [(4, aLot .inService [2, 3, 6, 1, 0, 0, 0, 0]), (5, aLot .held []), (6, aLot .fenced []), (8, aLot .inService [2])], external := true, chips := [(1, { engine := .verifying, external := true, target := 2, header := [0x4255524E, 0x00030000, 6, 3616, 0x8640, 2, 5, 0, 0, 0, 0, 0, 0, 0, 0, 0] })] },
    by (try dsimp only) <;> decide +kernel⟩,
   ⟨1,
    fabled { lots := [(4, aLot .inService [2, 3, 6, 1, 0, 0, 0, 0]), (5, aLot .held []), (6, aLot .loading [1]), (8, aLot .inService [2])], full := false, jobs := [], chips := [(1, { engine := .verifying, external := true, target := 2, header := [] })] },
    by (try dsimp only) <;> decide +kernel⟩,
   ⟨fabled { full := true, lots := [(0, { state := .held, hold := true }), (4, { state := .held }), (9, { state := .held, config := [(3, 4)] }), (10, { state := .clear })], chips := [(2, { suspect := true })] },
    by (try dsimp only) <;> decide +kernel⟩,
   ⟨fabled { lots := [(4, aLot .inService [2, 3, 6, 1, 0, 0, 0, 0]), (5, aLot .held []), (6, aLot .fenced []), (8, aLot .inService [2])], fullWaits := true, chips := [(2, { suspect := true })] },
    by (try dsimp only) <;> decide +kernel⟩,
   ⟨fabled { lots := [(4, { aLot .inService [2, 3, 6, 1, 0, 0, 0, 0] with cmd := 2 }), (5, aLot .held []), (6, aLot .fenced []), (8, aLot .inService [2])] },
    4, by (try dsimp only) <;> decide +kernel⟩⟩

theorem witness_ScrubbersWatch :
    (∃ t : Nat, ∃ chip : Fin 4, ∃ s : State, let now := max s.now t; let c := chip.val; let x := chipAt s c; packageRuns s = true ∧
      dropping s = false ∧ ((∀ a, x.passAt = some a → a + 40000000 ≤ now))) ∧
    (∃ t : Nat, ∃ chip : Fin 4, ∃ s : State, let now := max s.now t; let c := chip.val; let x := chipAt s c; packageRuns s = true ∧
      dropping s = false ∧ ((∀ a, x.passAt = some a → a + 40000000 ≤ now)) ∧ x.suspect = false) ∧
    (∃ t : Nat, ∃ chip : Fin 4, ∃ s : State, let now := max s.now t; let c := chip.val; let x := chipAt s c; ∃ a, packageRuns s = true ∧
      dropping s = false ∧ x.passAt = some a ∧ now < a + 40000000) ∧
    (∃ chip : Fin 4, ∃ s : State, let c := chip.val; let x := chipAt s c; ∃ l, ∃ rest, packageRuns s = true ∧ dropping s = false ∧
      x.passLots = l :: rest ∧ scrubbed s l = true ∧ x.passFrame < 3328 ∧ frameMatches (lotAt s l) x.passFrame = true) ∧
    (∃ chip : Fin 4, ∃ s : State, let c := chip.val; let x := chipAt s c; ∃ l, ∃ rest, ∃ i, ∃ flipped, packageRuns s = true ∧
      dropping s = false ∧ x.passLots = l :: rest ∧ scrubbed s l = true ∧ x.passFrame < 3328 ∧ i < 4096 ∧ x.suspect = false ∧
      objAt s 0x8813 (l + 1) ≠ 2 ∧ frameMatches (lotAt s l) x.passFrame = true ∧ frameSyndrome (lotAt s l) x.passFrame = 0 ∧
      flipped = flipBit l x.passFrame i s ∧ frameMatches (lotAt flipped l) x.passFrame = false) ∧
    (∃ chip : Fin 4, ∃ s : State, let c := chip.val; let x := chipAt s c; packageRuns s = true ∧ dropping s = false ∧ x.suspect = false) ∧
    (∃ chip : Fin 4, ∃ s : State, let c := chip.val; let x := chipAt s c; packageRuns s = true ∧ dropping s = false ∧ x.suspect = false) ∧
    (∃ chip : Fin 4, ∃ s : State, let c := chip.val; let x := chipAt s c; ∃ y, packageRuns s = true ∧ dropping s = false ∧
      x.suspect = false ∧ y ∈ [ScrubUpset.goldenDouble, .voteSplit]) ∧
    (∃ chip : Fin 4, ∃ s : State, let c := chip.val; let x := chipAt s c; packageRuns s = true ∧ x.suspect = true) :=
  ⟨⟨1000000010, 1,
    fabled { lots := [(4, { aLot .inService [1] with goldenCrc := [(3, frameCrc 3 (List.replicate 512 0))] }), (5, aLot .unwatched []), (9, aLot .inService [])], chips := [(1, { passAt := none })] },
    by (try dsimp only) <;> decide +kernel⟩,
   ⟨1000000010, 1,
    fabled { lots := [(4, { aLot .inService [1] with goldenCrc := [(3, frameCrc 3 (List.replicate 512 0))] }), (5, aLot .unwatched []), (9, aLot .inService [])], chips := [(1, { passAt := none })] },
    by (try dsimp only) <;> decide +kernel⟩,
   ⟨1000000010, 1,
    fabled { lots := [(4, { aLot .inService [1] with goldenCrc := [(3, frameCrc 3 (List.replicate 512 0))] }), (5, aLot .unwatched []), (9, aLot .inService [])], chips := [(1, { passAt := some 960000011 })] },
    960000011, by (try dsimp only) <;> decide +kernel⟩,
   ⟨1,
    fabled { lots := [(4, { aLot .inService [1] with goldenCrc := [(3, frameCrc 3 (List.replicate 512 0))] }), (5, aLot .unwatched []), (9, aLot .inService [])], chips := [(1, { passLots := [4], passFrame := 3 })] },
    4, [], by (try dsimp only) <;> decide +kernel⟩,
   ⟨1,
    fabled { lots := [(4, { aLot .inService [1] with goldenCrc := [(3, frameCrc 3 (List.replicate 512 0))] }), (5, aLot .unwatched []), (9, aLot .inService [])], chips := [(1, { passLots := [4], passFrame := 3 })] },
    4, [], 0,
    flipBit 4 3 0 (fabled { lots := [(4, { aLot .inService [1] with goldenCrc := [(3, frameCrc 3 (List.replicate 512 0))] }), (5, aLot .unwatched []), (9, aLot .inService [])], chips := [(1, { passLots := [4], passFrame := 3 })] }),
    by (try dsimp only) <;> decide +kernel⟩,
   ⟨1,
    fabled { lots := [(4, { aLot .inService [1] with goldenCrc := [(3, frameCrc 3 (List.replicate 512 0))] }), (5, aLot .unwatched []), (9, aLot .inService [])], chips := [(1, {  })] },
    by (try dsimp only) <;> decide +kernel⟩,
   ⟨1,
    fabled { lots := [(4, { aLot .inService [1] with goldenCrc := [(3, frameCrc 3 (List.replicate 512 0))] }), (5, aLot .unwatched []), (9, aLot .inService [])], chips := [(1, {  })] },
    by (try dsimp only) <;> decide +kernel⟩,
   ⟨1,
    fabled { lots := [(4, { aLot .inService [1] with goldenCrc := [(3, frameCrc 3 (List.replicate 512 0))] }), (5, aLot .unwatched []), (9, aLot .inService [])], chips := [(1, {  })] },
    .goldenDouble, by (try dsimp only) <;> decide +kernel⟩,
   ⟨1,
    fabled { lots := [(4, { aLot .inService [1] with goldenCrc := [(3, frameCrc 3 (List.replicate 512 0))] }), (5, aLot .unwatched []), (9, aLot .inService [])], chips := [(1, { suspect := true })] },
    by (try dsimp only) <;> decide +kernel⟩⟩

theorem witness_SweepRuns :
    (∃ east : Int, ∃ west : Int, ∃ s : State, let w := s.sweep; w.stage = .waitSlot ∧ slotFired s = true ∧ skipCause s east west = 0) ∧
    (∃ east : Int, ∃ west : Int, ∃ s : State, let w := s.sweep; w.stage = .waitSlot ∧ slotFired s = true ∧ skipCause s east west ≠ 0) ∧
    (∃ s : State, let w := s.sweep; (w.stage ≠ .waitSlot ∨ slotFired s = false)) ∧
    (∃ s : State, let w := s.sweep; ∃ res : TestResults, w.stage = .body ∧ w.phase = 1 ∧ res.clear = false) ∧
    (∃ s : State, let w := s.sweep; ∃ res : TestResults, w.stage = .body ∧ w.phase = 1 ∧ res.clear = true) ∧
    (∃ s : State, let w := s.sweep; ∃ res : TestResults, ∃ margin : TestResults, ∃ p, w.stage = .body ∧ w.phase = p ∧ 2 ≤ p ∧ p ≤ 8 ∧
      ((p = 3 ∨ p = 4 → s.gov.clock = 1800)) ∧ ((p = 2 → ∃ c, c < 4 ∧ (utCore, c) ∉ w.failures ++ sweepFailures s 2 res margin))) ∧
    (∃ s : State, let w := s.sweep; ∃ res : TestResults, w.stage = .body ∧ w.phase = 2 ∧ ((∀ c, c < 4 → c ∈ res.cores))) ∧
    (∃ s : State, let w := s.sweep; w.stage = .body ∧ w.phase = 9) ∧
    (∃ s : State, let w := s.sweep; w.stage = .body ∧ w.phase = 9) ∧
    (∃ t : Nat, ∃ east : Int, ∃ west : Int, ∃ s : State, let now := max s.now t; let w := s.sweep;
      let good := tempsInWindow east west = true ∧ 48000 ≤ s.gov.mainMv ∧ s.gov.mainMv ≤ 58000; w.stage = .body ∧
      w.checkedAt + 1000000 ≤ now ∧ good) ∧
    (∃ t : Nat, ∃ east : Int, ∃ west : Int, ∃ s : State, let now := max s.now t; let w := s.sweep;
      let good := tempsInWindow east west = true ∧ 48000 ≤ s.gov.mainMv ∧ s.gov.mainMv ≤ 58000; w.stage = .body ∧
      w.checkedAt + 1000000 ≤ now ∧ (¬ good)) ∧
    (∃ s : State, let w := s.sweep; w.stage = .waitDescent ∧ slotFired s = true) ∧
    (∃ s : State, let w := s.sweep; (w.stage ≠ .waitDescent ∨ slotFired s = false)) ∧
    (∃ s : State, ∃ ext : Bool, ∃ tap : Fin 5, chainDriven s ext = true ∧ ((tap.val = 0 ∨ (chipAt s (tap.val - 1)).engine ≠ .receiving))) ∧
    (∃ s : State, ∃ ext, chainDriven s ext = true) :=
  ⟨⟨400, 950, sweeping .left { stage := .waitSlot, slotCycle := 5, verdict := [1] } true, by (try dsimp only) <;> decide +kernel⟩,
   ⟨400, 951, sweeping .left { stage := .waitSlot, slotCycle := 5, verdict := [1] } true, by (try dsimp only) <;> decide +kernel⟩,
   ⟨sweeping .left { stage := .waitSlot, slotCycle := 5, verdict := [1] } false, by (try dsimp only) <;> decide +kernel⟩,
   ⟨sweeping .sweep { stage := .body, phase := 1, checkedAt := 999000010, verdict := [1, 2] } false, {},
    by (try dsimp only) <;> decide +kernel⟩,
   ⟨sweeping .sweep { stage := .body, phase := 1, checkedAt := 999000010, verdict := [1, 2] } false, { clear := true },
    by (try dsimp only) <;> decide +kernel⟩,
   ⟨(fun (x : State) => { x with gov := { x.gov with clock := 1800 } }) (sweeping .sweep { stage := .body, phase := 2, checkedAt := 999000010, verdict := [1, 2] } false),
    { tiles := [1, 2, 200], hbm := [3], cellar := [15], arrays := [31], lots := [3], ports := [4], cores := [1, 3], bridge := true, switch := true, adders := true },
    {}, 2, by (try dsimp only) <;> decide +kernel⟩,
   ⟨sweeping .sweep { stage := .body, phase := 2, checkedAt := 999000010, verdict := [1, 2] } false, { cores := [3, 1, 2, 0] },
    by (try dsimp only) <;> decide +kernel⟩,
   ⟨(fun (x : State) => { x with contain := { x.contain with stackFences := 5, arrayFences := 6, cores := [(1, { fenced := true })] }, tiles := [(0, { aTile 0 with runFence := true })] }) (sweeping .sweep { stage := .body, phase := 9, checkedAt := 999000010, verdict := [1, 2], failures := [(utStack, 0), (utCore, 2)] } false),
    by (try dsimp only) <;> decide +kernel⟩,
   ⟨(fun (x : State) => { x with contain := { x.contain with stackFences := 5, arrayFences := 6, cores := [(1, { fenced := true })] }, tiles := [(0, { aTile 0 with runFence := true })] }) (sweeping .sweep { stage := .body, phase := 9, checkedAt := 999000010, verdict := [1, 2], failures := [(utStack, 0), (utCore, 2)] } false),
    by (try dsimp only) <;> decide +kernel⟩,
   ⟨1000000010, 400, 950, sweeping .sweep { stage := .body, phase := 4, checkedAt := 999000010, verdict := [1, 2] } false,
    by (try dsimp only) <;> decide +kernel⟩,
   ⟨1000000010, 400, 951, sweeping .sweep { stage := .body, phase := 4, checkedAt := 999000010, verdict := [1, 2] } false,
    by (try dsimp only) <;> decide +kernel⟩,
   ⟨sweeping .sweep { stage := .waitDescent, slotCycle := 5, outcome := 1 } true, by (try dsimp only) <;> decide +kernel⟩,
   ⟨sweeping .sweep { stage := .waitDescent } false, by (try dsimp only) <;> decide +kernel⟩,
   ⟨sweeping .sweep { stage := .body, phase := 3, cleared := true, domain := [(2, 7)] } true, false, 2,
    by (try dsimp only) <;> decide +kernel⟩,
   ⟨sweeping .left { verdict := [5, 6] } true, false, by (try dsimp only) <;> decide +kernel⟩⟩

theorem witness_FaultsContained :
    (∃ s : State, s.life.state ≠ .absent ∧ dropping s = false ∧ s.contain.buffer ≠ [] ∧ s.contain.dropped = 0) ∧
    (∃ s : State, s.life.state ≠ .absent ∧ dropping s = false ∧ s.contain.buffer ≠ []) ∧
    (∃ t : Nat, ∃ s : State, let now := max s.now t; ∃ w : RepeatWindow, s.contain.windows = [w] ∧ w.start ≤ now ∧ s.life.state ≠ .absent ∧
      now < w.start + w.len) ∧
    (∃ t : Nat, ∃ s : State, let now := max s.now t; ∃ w : RepeatWindow, s.contain.windows = [w] ∧ w.start ≤ now ∧ s.life.state ≠ .absent ∧
      w.start + w.len ≤ now ∧ w.count = 0) ∧
    (∃ t : Nat, ∃ s : State, let now := max s.now t; ∃ w : RepeatWindow, s.contain.windows = [w] ∧ w.start ≤ now ∧ s.life.state ≠ .absent ∧
      w.start + w.len ≤ now ∧ w.count ≠ 0 ∧ s.contain.buffer.length < 64) ∧
    (∃ t : Nat, ∃ s : State, let now := max s.now t; ∃ core : Fin 4, ∃ mc : Bool, let x : StationCore := tabGet {} core.val s.contain.cores;
      s.kiosk.stationRunning = true ∧ packageRuns s = true ∧ dropping s = false ∧ x.fenced = false ∧
      (mc = true ∨ x.beat + 1000000 * objAt s 0x9015 0 ≤ now) ∧ ((∃ k, k < 4 ∧ k ≠ core.val ∧
      (tabGet ({} : StationCore) k s.contain.cores).fenced = false))) ∧
    (∃ t : Nat, ∃ s : State, let now := max s.now t; ∃ core : Fin 4, ∃ mc : Bool, let x : StationCore := tabGet {} core.val s.contain.cores;
      s.kiosk.stationRunning = true ∧ packageRuns s = true ∧ dropping s = false ∧ x.fenced = false ∧ mc = false ∧
      now < x.beat + 1000000 * objAt s 0x9015 0) ∧
    (∃ s : State, ∃ ns : Nat, packageRuns s = true ∧ dropping s = false ∧ ns < 1000000 * objAt s 0x9014 0) ∧
    (∃ t : Nat, ∃ s : State, ∃ unit : WedgeUnit, ∃ ns : Nat, ∃ c, packageRuns s = true ∧ dropping s = false ∧
      (c = Instr.bridgeFail t ∨ c = Instr.unitWedged t unit ns ∧ 1000000 * objAt s 0x9014 0 ≤ ns) ∧ fatalState s.life.state = false) ∧
    (∃ t : Nat, ∃ s : State, ∃ unit : WedgeUnit, ∃ ns : Nat, ∃ c, packageRuns s = true ∧ dropping s = false ∧
      (c = Instr.bridgeFail t ∨ c = Instr.unitWedged t unit ns ∧ 1000000 * objAt s 0x9014 0 ≤ ns) ∧ fatalState s.life.state = true ∧
      objAt s 0x3022 0 ≠ 1) :=
  ⟨⟨{ live with contain := { sequence := 9, buffer := [{ cause := 0x9002, cls := 2, unit := 3, sequence := 8 }, { cause := 0x9002, cls := 0, unit := 3, sequence := 8 }], errorLog := [{ cause := 0x9002, cls := 3, unit := 3, sequence := 8 }] } },
    by (try dsimp only) <;> decide +kernel⟩,
   ⟨{ live with contain := { sequence := 9, buffer := [{ cause := 0x9002, cls := 2, unit := 3, sequence := 8 }, { cause := 0x9002, cls := 0, unit := 3, sequence := 8 }], errorLog := [{ cause := 0x9002, cls := 3, unit := 3, sequence := 8 }] } },
    by (try dsimp only) <;> decide +kernel⟩,
   ⟨1000000009,
    { live with contain := { sequence := 9, windows := [{ start := 900000000, len := 100000010, count := 3, last := { cause := 0x9002, cls := 2, unit := 3, sequence := 8 } }] } },
    { start := 900000000, len := 100000010, count := 3, last := { cause := 0x9002, cls := 2, unit := 3, sequence := 8 } },
    by (try dsimp only) <;> decide +kernel⟩,
   ⟨1000000010,
    { live with contain := { sequence := 9, windows := [{ start := 900000000, len := 100000010, count := 0, last := { cause := 0x9002, cls := 2, unit := 3, sequence := 8 } }] } },
    { start := 900000000, len := 100000010, count := 0, last := { cause := 0x9002, cls := 2, unit := 3, sequence := 8 } },
    by (try dsimp only) <;> decide +kernel⟩,
   ⟨1000000010,
    { live with contain := { sequence := 9, windows := [{ start := 900000000, len := 100000010, count := 70000, last := { cause := 0x9002, cls := 2, unit := 3, sequence := 8 } }], buffer := [{ cause := 0x9002, cls := 2, unit := 3, sequence := 8 }, { cause := 0x9002, cls := 0, unit := 3, sequence := 8 }], errorLog := [{ cause := 0x9002, cls := 3, unit := 3, sequence := 8 }] } },
    { start := 900000000, len := 100000010, count := 70000, last := { cause := 0x9002, cls := 2, unit := 3, sequence := 8 } },
    by (try dsimp only) <;> decide +kernel⟩,
   ⟨60000000000,
    { live with kiosk := { live.kiosk with stationRunning := true }, contain := { cores := [(1, { beat := 5 }), (0, { fenced := true })] } },
    1, false, by (try dsimp only) <;> decide +kernel⟩,
   ⟨1000000010,
    { live with kiosk := { live.kiosk with stationRunning := true }, contain := { cores := [(1, { beat := 999999999 }), (0, { fenced := true })] } },
    1, false, by (try dsimp only) <;> decide +kernel⟩,
   ⟨at0 worker 0, 5, by (try dsimp only) <;> decide +kernel⟩,
   ⟨1000000010, { (at0 worker 0) with life := { live.life with state := .powered } }, .junction, 100000000000,
    .unitWedged 1000000010 .junction 100000000000, by (try dsimp only) <;> decide +kernel⟩,
   ⟨1000000010, at0 worker 0, .junction, 100000000000, .unitWedged 1000000010 .junction 100000000000, by (try dsimp only) <;> decide +kernel⟩⟩

theorem witness_ContextWritesIgnored :
    ∃ off : Nat, ∃ q : Fin 4096, ∃ bs : List Byte, ∃ s : State, off + bs.length ≤ 28 ∧ (queueAt s q.val).state ≠ .disabled ∧ 0 < bs.length :=
  ⟨24, 3, [1, 2, 3, 4], queued [], by (try dsimp only) <;> decide +kernel⟩

theorem witness_Bar2BeyondHbm :
    (∃ off : Nat, ∃ len : Nat, ∃ b : Nat, ∃ s : State, hostReady s = true ∧ s.host.windowBase * 2 ^ 30 + off ≤ b ∧
      b < s.host.windowBase * 2 ^ 30 + off + len ∧ (hbmSize s ≤ b ∨ bit s.contain.stackFences (unitOf s.tiers.hbmMap b) = true)) ∧
    (∃ off : Nat, ∃ len : Nat, ∃ b : Nat, ∃ s : State, hostReady s = true ∧ s.host.windowBase * 2 ^ 30 + off ≤ b ∧
      b < s.host.windowBase * 2 ^ 30 + off + len ∧ (hbmSize s ≤ b ∨ bit s.contain.stackFences (unitOf s.tiers.hbmMap b) = true)) :=
  ⟨⟨0x5F, 4, 0x60, { live with contain := { live.contain with stackFences := 1 } }, by (try dsimp only) <;> decide +kernel⟩,
   ⟨510, 4, 513, { live with contain := { live.contain with stackFences := 2 } }, by (try dsimp only) <;> decide +kernel⟩⟩

theorem witness_CountStaysInRange : ∃ s : State, RoundaboutOk s ∧ s.rb.corr = -16 ∧ s.rb.phase = 4095 :=
  ⟨{ live with rb := { live.rb with corr := -16, phase := 4095 } }, by unfold RoundaboutOk; decide +kernel⟩

theorem witness_StepRunsTheFront : ∃ s : State, s.pending = [] := ⟨live, rfl⟩



theorem witness_StepKeepsSound : ∃ s : State, Sound s ∧ s.pending ≠ [] ∧ s.hbm ≠ [] :=
  ⟨{ live with pending := [.windowClose 5] }, by unfold Sound MemOk QueueOk; decide +kernel⟩



/-! ### Ill-formed commands, one for each check -/

theorem test_wf_numbers :
    (Instr.kioskStart 0 64).wf = false ∧ (Instr.interruptTake 0 0 32).wf = false ∧ (Instr.armHelloTimer 0 0).wf = false ∧
    (Instr.armHelloTimer 0 1025).wf = false ∧ (Instr.retrainComplete 0 0 6).wf = false ∧ (Instr.portLanesTrained 0 0 16).wf = false ∧
    (Instr.endpointReady 0 12 640 true).wf = false ∧ (Instr.endpointReady 0 16 100 true).wf = false ∧
    (Instr.windowOverflow 0 0 (2 ^ 16)).wf = false ∧ (Instr.windowUnderflow 0 0 (2 ^ 16)).wf = false ∧
    (Instr.memChannelFail 0 false 8 true).wf = false ∧ (Instr.memChannelFail 0 true 8 true).wf = true := by decide
theorem test_wf_bytes :
    (Instr.bar2Access 0 4 (some [1])).wf = false ∧ (Instr.slabReceive 0 0 [1, 2] 0 0).wf = false ∧
    (Instr.registerWrite 0 0 []).wf = false ∧ (Instr.registerWrite 0 (2 ^ 24) [1] true).wf = false ∧
    (Instr.doorbellCplHead 0 0 (2 ^ 32)).wf = false ∧ (Instr.doorbellTail 0 0 2 65536).wf = false ∧
    (Instr.peerAccess 0 5 64 2 (some [1])).wf = false := by decide
theorem test_wf_words :
    (Instr.feedSubmit 0 0 [2 ^ 35]).wf = false ∧ (Instr.pull 0 0 0 [2 ^ 35]).wf = false ∧ (Instr.tapReply 0 0 [2 ^ 35]).wf = false ∧
    (Instr.cfgLoad 0 false 0 [2 ^ 32]).wf = false ∧ (Instr.cfgReadback 0 false 0 (2 ^ 32)).wf = false ∧
    (Instr.scanEnable 0 false 0 (2 ^ 32) true).wf = false ∧ (Instr.csPatrolRead 0 0 [176]).wf = false ∧
    (Instr.microMachineCheck 0 0 (.row [176])).wf = false ∧ (Instr.microMachineCheck 0 0 (.word 4096)).wf = false ∧
    (Instr.scrubFrameRead 0 0 [4096]).wf = false ∧ (Instr.samplePreload 0 false 0 (2 ^ 144) 0).wf = false ∧
    (Instr.extest 0 false 0 0 (2 ^ 144)).wf = false ∧ (Instr.repeatWindowEnd 0 65536 0 0).wf = false := by decide
theorem test_wf_sources :
    (Instr.jopRequest 0 { hopLimit := 256 } []).wf = false ∧ (Instr.beaconReceive 0 { port := 65536 } []).wf = false ∧
    (Instr.icmpv6Message 0 { hopLimit := 256 } []).wf = false ∧ (Instr.verdictComplete 0 { tiles := [160] }).wf = false ∧
    (Instr.verdictComplete 0 { cores := [4] }).wf = false ∧ (Instr.sweepPhaseComplete 0 {} true { arrays := [32] }).wf = false ∧
    (Instr.memoryReadError 0 false 0 true (.tile 160)).wf = false ∧ (Instr.memoryReadError 0 false 0 true (.copy 4096 0)).wf = false ∧
    (Instr.memoryReadError 0 false 0 true (.station 4)).wf = false := by decide
/-- BYPASS is selected by its own code and by a code that the TAP does not list: 0x20 is listed by a chiplet's TAP alone. -/
theorem test_wf_bypass :
    (Instr.bypass 0 false 0 0xFF).wf = true ∧ (Instr.bypass 0 false 0 0x20).wf = true ∧ (Instr.bypass 0 false 1 0x20).wf = false ∧
    (Instr.bypass 0 false 0 0x31).wf = false ∧ (Instr.bypass 0 false 1 256).wf = false := by decide
theorem test_wf_acts :
    ([Act.checkpoint true (2 ^ 48) 0, .checkpoint true 0 4096, .stationStore 4 .hbm 0 [1], .stationStore 0 .hbm 0 [],
     .stationLoad 0 (.scratch 160) 0 4,
      .stationFence 4 true true true true false, .stationAmo 0 .hbm 0 2 .swap 0 false false, .stationLr 4 .hbm 0 4 false false,
      .stationSc 0 .hbm 0 3 0 false false, .stationDrain 4 0, .hostRead false (2 ^ 24) 1, .hostRead true 0 0, .aerError true 32,
      .lotMemory 16 0 false 0 none, .lotMemory 0 32 false 0 none, .lotMemory 0 0 false 32768 none, .cell 0 24576 0, .cell 0 0 64,
      .stage 0 1536, .linkOffer 0 [2 ^ 35], .linkTake 128 1, .linkMove 128, .laneReceive 4 0 0, .laneTake 0 8 1, .lanePut 0 0 65536,
      .laneSend 4 0].all fun a => !(Instr.tick [a]).wf) = true ∧ (Instr.tick [.linkMove 127, .laneSend 3 7]).wf = true := by decide

/-! ### Results that the spec works out -/

/-- Chapter 09's dot product: 31 products of 2^-11, then one of 2^16. -/
def exampleDot : List (Val × Nat) :=
  List.replicate 31 (Val.mul (decodeCode .e4m3 0x01) (decodeCode .e4m3 0x28)) ++
    [Val.mul (decodeCode .e4m3 0x78) (decodeCode .e4m3 0x78)]
/-- FP32 code and flags of a value with flags. -/
def asFp32 (x : Val × Nat) : Nat × Nat := ((encodeFloat fp32 true 0 0 x.1).1, x.2)
theorem test_dot_stepwise : asFp32 (dotFp true 0 exampleDot (.zero false)) = (0x47800002, fNX) := by decide +kernel
theorem test_dot_rounded_product : asFp32 (dotFp false 0 exampleDot (.zero false)) = (0x47800000, fNX) := by decide +kernel
theorem test_dot_split_at_16 :
    asFp32 (dotFp false 0 (exampleDot.drop 16) (dotFp false 0 (exampleDot.take 16) (.zero false)).1) = (0x47800001, fNX) := by
  decide +kernel
/-- Chapter 08's block of 16 results. -/
def exampleBlock : BlockOut :=
  scaledBlock ([0x3F570A3D, 0xC019999A, 0x3E99999A, 0x3F866666, 0xBF1C28F6, 0, 0x405147AE, 0xBE19999A, 0x3FF33333, 0xBF99999A,
    0x3EE66666, 0x40233333, 0xC079999A, 0x3F3851EC, 0xBD4CCCCD, 0x3FAA3D71].map (decodeFloat fp32)) 0x3F800000 .e2m1 2 0 0
theorem test_block_scale_and_values :
    exampleBlock.scale = 0x33 ∧ packElems 4 exampleBlock.codes = [0xD2, 0x31, 0x0A, 0x86, 0xB5, 0x61, 0x2F, 0x48] ∧
    exampleBlock.flags = (fNX ||| fUF) := by decide +kernel
theorem test_block_reads_back : plazaBits (decodeElem .e2m1 0xF 2 0x33 0).1 = 0x1601840000 := by decide +kernel
/-- Chapter 11's tensor X: E4M3, 6,400 × 4,096, bricks of 128 × 32, E8M0 scales in blocks of 32. -/
def exampleX : View := viewOf (patch 64 [(13, 1, 4), (14, 1, 0x09), (15, 1, 0x2B), (20, 4, 6400), (24, 4, 4096), (28, 4, 1), (32, 4, 1),
  (36, 6, 4096), (42, 6, 204800)])
theorem test_element_and_scale_address :
    (exampleX.brickOf [3000, 1717, 0, 0] = [23, 53, 0, 0]) ∧
    ((homeOf live exampleX (exampleX.brickOf [3000, 1717, 0, 0])).map fun h =>
      (elementAddr exampleX h [3000, 1717, 0, 0], scaleAddr exampleX h 0 [3000, 1717, 0, 0])) =
      some ((0x00A71AB8, 0), 0x000538D5) := by decide +kernel
/-- Chapter 12: SYNC.SL's microword and its fields. -/
theorem test_sync_sl_word :
    uMem 0x0006000000000000000000014000000000200000 = 5 ∧ uPcOp 0x0006000000000000000000014000000000200000 = 1 ∧
    uSeq 0x0006000000000000000000014000000000200000 = 3 ∧ wordCheck 0x0006000000000000000000014000000000200000 = none := by
  decide +kernel
/-- Chapter 02: 107.73 cycles of 20.000 ms after a crossing, e is +1,106. -/
theorem test_phase_error :
    phaseError 0 215460000 { live.rb with
      phase := 2990, tickLen := 2000000 * 2 ^ 20, tickStart := 215460000 * 2 ^ 32 - 2000000 * 2 ^ 20 * 8 / 100 } = 1106 := by decide +kernel
theorem test_correction_is_clamped : clampCorr 1106 = 16 ∧ clampCorr (-17) = -16 ∧ clampCorr 2 = 2 := by decide
/-- Chapter 04: a request at cycle 5,000,013 departs at 5,000,032. -/
theorem test_depart_instant : departInstant { live with rb := { live.rb with cycle := 5000013 } } = 5000032 := by decide +kernel
/-- Chapter 19: slot 37, ready at cycle 7,000,051: the slot is 7,000,104; body over at 7,000,840: the descent is 7,000,872. -/
theorem test_stagger_slot :
    nextSlotCycle { live with pins := { live.pins with slotAddr := 37 }, rb := { live.rb with cycle := 7000051 } } = 7000104 ∧
    nextSlotCycle { live with pins := { live.pins with slotAddr := 37 }, rb := { live.rb with cycle := 7000840 } } = 7000872 := by
  decide +kernel
/-- Chapters 10 and 19: active tiles on the east die. -/
theorem test_active_east : activeEast 77 78 = 72 ∧ activeEast 78 79 = 72 := by decide
/-- Chapter 05: TXN 0x1F42 writes both slews. -/
def exampleRequest : List Byte :=
  [0x42, 0x1F, 0, 0, 2, 0, 0x28, 0] ++ [2, 0, 0x10, 0x21, 0, 0, 0, 0, 2, 0, 0, 0, 0xFA, 0, 0, 0] ++
    [2, 0, 0x11, 0x21, 0, 0, 0, 0, 2, 0, 0, 0, 0x5E, 1, 0, 0]
/-- The live sled with that request at the head of a mailbox session's queue. -/
def exampleAsked (body : List Byte) : State := asked { phase := 2, rights := 1, high := some 0x1F41 } body
theorem test_transaction_commits :
    (match exec (.transactionExecute 1000000010 true) (exampleAsked exampleRequest) with
     | .next u => decide (objAt u 0x2110 0 = 250) && decide (objAt u 0x2111 0 = 350) && decide (u.kiosk.mbSess.high = some 0x1F42) &&
        decide (u.kiosk.mbResponse.take 16 = [0x42, 0x1F, 0, 0, 0, 0, 2, 0, 0, 0, 0, 0, 0, 0, 0, 0])
     | _ => false) = true := by decide +kernel
theorem test_transaction_refused :
    (match exec (.transactionExecute 1000000010 true) (exampleAsked (reqBytes 0x1F43 2 (opBytes 2 0x2111 0 0 2 (natLe 200 4) ++
        opBytes 2 0x2112 0 0 2 (natLe 1200 4)))) with
     | .next u => decide (objAt u 0x2111 0 = 300) && decide (objAt u 0x2112 0 = 1600) &&
        decide ((u.kiosk.mbResponse.drop 4).take 2 = [7, 1])
     | _ => false) = true := by decide +kernel
/-- Chapter 14: select's pairs, in admission order, and what Admit makes of them with two places per expert. -/
def exampleLayer : Layer := { aLayer 3 with
  data := patch 128 [(0, 4, 8), (4, 2, 16), (6, 2, 8), (8, 1, 2), (9, 1, 1), (10, 1, 4)]
  members := [0x1111, 0x2111, 0x3111], cap := 2
  owners := [some (0, 0), some (0, 1), some (1, 0), some (1, 1), some (2, 0), some (2, 1), none, none]
  selectNext := 8
  picks := (numbered 0 [(2, 5), (2, 3), (2, 6), (3, 2), (2, 0), (7, 6), (4, 5), (3, 1)]).map fun x =>
    (x.1, some [(x.2.1, 0x3F000000), (x.2.2, 0x3F000000)]) }
theorem test_admit_example :
    (match exec (.admitStage 1000000010) (atLayer exampleLayer) with
     | .next u => u.junc.layer.map fun l =>
        ((l.withFate .admitted, l.withFate .capacity, l.withFate .masked, l.result), slotOrder l, l.emptyTokens)
     | _ => none) = some ((9, 4, 3, 0x0000000700000009), [4, 0, 1, 3, 7, 6], [2, 5]) := by decide +kernel
/-- Chapter 14: an equal pair of scores gives gates of 0.5 each. -/
theorem test_gates_equal : (gates (fun _ => 0) 0 [(2, 0x40000000), (3, 0x40000000)] []).1 = [0x3F000000, 0x3F000000] := by decide +kernel
/-- Chapter 15: at 0x1230 a slab for 0x3120 leaves along W by L8, the twin of W+. -/
def exampleSled (a : Nat) : State := { live with
  kiosk := { live.kiosk with objects := [(objKey 0x7001 0, a), (objKey 0x7002 1, 4), (objKey 0x7002 2, 4), (objKey 0x7002 3, 4), (objKey 0x7002 4, 4)] }
  links := { live.links with ports := [(0, { state := .up, cable := true, width := 8, partner := some (0x2230, 1), credits := [(3, 8)] }),
    (8, { state := .up, cable := true, width := 8, partner := some (0x2230, 9), credits := [(3, 8)] })] } }
theorem test_route_prefers_the_twin :
    route (exampleSled 0x1230) { kind := 5, vc := 3, dest := 0x3120, src := 0x1230, payload := [], inPort := none } = .port 8 2 false := by
  decide +kernel

end Sys2Proof.Tests
end

namespace Sys2Proof.Machine

/-! ## What each operation leaves of the Roundabout

Nearly every operation leaves the Roundabout as it is, and those that load or clear a comparator leave its count; the
few commands that move the count follow after them. -/

/-- The numbers of the Roundabout that have a range: both counts and the pending correction (R70, R86). -/
def Roundabout.count (r : Roundabout) : Nat × Nat × Nat × Nat × Int := (r.phase, r.pkgPhase, r.cycle, r.pkgCycle, r.corr)

/-- Both counts and the pending correction lie in their ranges. -/
def Roundabout.InRange (r : Roundabout) : Prop :=
  r.phase < 4096 ∧ r.pkgPhase < 4096 ∧ r.cycle < 2 ^ 48 ∧ r.pkgCycle < 2 ^ 48 ∧ r.corr.natAbs ≤ 16

@[simp] theorem ite_count (c : Prop) [Decidable c] (a b : Roundabout) :
    (if c then a else b).count = if c then a.count else b.count := apply_ite Roundabout.count c a b

/-- The answer is a next state whose Roundabout stands at the count of `r`. -/
def KeepsCount (o : Out) (r : Roundabout) : Prop :=
  match o with
  | .next u => u.rb.count = r.count
  | _ => False

@[simp] theorem keepsCount_next (u : State) (r : Roundabout) : KeepsCount (.next u) r ↔ u.rb.count = r.count := Iff.rfl

@[simp] theorem ite_rb (c : Prop) [Decidable c] (a b : State) :
    (if c then a else b).rb = if c then a.rb else b.rb := apply_ite State.rb c a b

@[simp] theorem forEach_rb {α : Type} (f : α → State → State) (xs : List α) (s : State)
    (h : ∀ a u, (f a u).rb = u.rb) : (forEach f xs s).rb = s.rb := by
  induction xs generalizing s with
  | nil => rfl
  | cons a as ih => exact (ih (f a s)).trans (h a s)

@[simp] theorem forEach_count {α : Type} (f : α → State → State) (xs : List α) (s : State)
    (h : ∀ a u, (f a u).rb.count = u.rb.count) : (forEach f xs s).rb.count = s.rb.count := by
  induction xs generalizing s with
  | nil => rfl
  | cons a as ih => exact (ih (f a s)).trans (h a s)

/-! ### Shared operations, the Roundabout, the governor, the field network, the links and the memory tiers -/

@[simp] theorem takeFree_rb (s : State) : (takeFree s).2.rb = s.rb := by simp [takeFree]

@[simp] theorem stationTrap_rb (c cause : Nat) (s : State) :
    (stationTrap c cause s).rb = s.rb := by simp [stationTrap]

@[simp] theorem armKiosk_count (i n t tag : Nat) (s : State) : (armKiosk i n t tag s).rb.count = s.rb.count := rfl

@[simp] theorem armPackage_count (i n t tag : Nat) (s : State) : (armPackage i n t tag s).rb.count = s.rb.count := rfl

@[simp] theorem clearKioskCmp_count (i : Nat) (s : State) : (clearKioskCmp i s).rb.count = s.rb.count := rfl

@[simp] theorem clearPackageCmp_count (i : Nat) (s : State) : (clearPackageCmp i s).rb.count = s.rb.count := rfl

@[simp] theorem raiseCheckpoint_rb (i : Nat) (s : State) : (raiseCheckpoint i s).rb = s.rb := by
  simp only [raiseCheckpoint]; split <;> rfl

@[simp] theorem fireNext_count (s : State) : (fireNext s).rb.count = s.rb.count := by
  simp only [fireNext]; (repeat' split) <;> simp [Roundabout.count]

@[simp] theorem fireDue_count (n : Nat) (s : State) : (fireDue n s).rb.count = s.rb.count := by
  induction n generalizing s with
  | zero => rfl
  | succ n ih => simp [fireDue, ih]

@[simp] theorem execEventFire_keepsCount (s : State) : KeepsCount (execEventFire s) s.rb := by simp [execEventFire]

@[simp] theorem noteLock_rb (s : State) : (noteLock s).rb = s.rb := by simp [noteLock]

@[simp] theorem execRunTimeout_keepsCount (t : Nat) (s : State) : KeepsCount (execRunTimeout t s) s.rb := by
  simp only [execRunTimeout]; (repeat' split) <;> simp [Roundabout.count]

@[simp] theorem execFreewheelLong_keepsCount (s : State) : KeepsCount (execFreewheelLong s) s.rb := by
  simp only [execFreewheelLong]; (repeat' split) <;> simp [Roundabout.count]

@[simp] theorem execPowerSample_keepsCount (t mainMv bulkMv powerMw : Nat) (pfWarn : Bool) (s : State) :
    KeepsCount (execPowerSample t mainMv bulkMv powerMw pfWarn s) s.rb := by
  simp only [execPowerSample]; (repeat' split) <;> simp

@[simp] theorem execMainInputQualify_keepsCount (t : Nat) (s : State) :
    KeepsCount (execMainInputQualify t s) s.rb := by
  simp only [execMainInputQualify]; split <;> simp

@[simp] theorem execBrownoutDetect_keepsCount (t : Nat) (s : State) : KeepsCount (execBrownoutDetect t s) s.rb := by
  simp only [execBrownoutDetect]; split <;> simp

@[simp] theorem execBrownoutClearQualify_keepsCount (t : Nat) (s : State) :
    KeepsCount (execBrownoutClearQualify t s) s.rb := by
  simp only [execBrownoutClearQualify]; split <;> simp

@[simp] theorem execOvervoltageNotice_keepsCount (t : Nat) (s : State) :
    KeepsCount (execOvervoltageNotice t s) s.rb := by
  simp only [execOvervoltageNotice]; split <;> simp

@[simp] theorem brownoutStep_rb (s : State) : (brownoutStep s).rb = s.rb := by simp [brownoutStep]

@[simp] theorem governorBoundary_rb (busy : Bool) (s : State) :
    (governorBoundary busy s).rb = s.rb := by simp [governorBoundary]

@[simp] theorem discardFrame_rb (f : List Byte) (s : State) : (discardFrame f s).rb = s.rb := by simp [discardFrame]

@[simp] theorem netEmit_rb (e : Emission) (s : State) : (netEmit e s).rb = s.rb := by simp [netEmit]

@[simp] theorem sendTo_rb (addr : Nat) (e : Emission) (s : State) : (sendTo addr e s).rb = s.rb := by simp [sendTo]

@[simp] theorem learnNeighbour_rb (addr mac : Nat) (s : State) :
    (learnNeighbour addr mac s).rb = s.rb := by simp [learnNeighbour]

@[simp] theorem netNotice_rb (n : NetNotice) (s : State) : (netNotice n s).rb = s.rb := by simp [netNotice]

@[simp] theorem execNoticeSend_keepsCount (t : Nat) (s : State) : KeepsCount (execNoticeSend t s) s.rb := by
  simp only [execNoticeSend]; (repeat' split) <;> simp

@[simp] theorem takeNodeId_rb (s : State) : (takeNodeId s).rb = s.rb := by simp [takeNodeId]

@[simp] theorem takeFallback_rb (s : State) : (takeFallback s).rb = s.rb := by simp [takeFallback]

@[simp] theorem yieldRole_rb (s : State) : (yieldRole s).rb = s.rb := by simp [yieldRole]

@[simp] theorem closePeriod_rb (s : State) : (closePeriod s).rb = s.rb := by simp [closePeriod]

@[simp] theorem sendBeacon_count (s : State) : (sendBeacon s).rb.count = s.rb.count := by
  simp only [sendBeacon]; split <;> simp [Roundabout.count]

@[simp] theorem sendClaim_rb (deferred : Bool) (s : State) : (sendClaim deferred s).rb = s.rb := by simp [sendClaim]

@[simp] theorem openPeriod_rb (s : State) : (openPeriod s).rb = s.rb := by simp [openPeriod]

@[simp] theorem execBeaconInstant_keepsCount (t : Nat) (s : State) : KeepsCount (execBeaconInstant t s) s.rb := by
  simp only [execBeaconInstant]; (repeat' split) <;> simp

@[simp] theorem execClaimSuccess_keepsCount (t : Nat) (s : State) : KeepsCount (execClaimSuccess t s) s.rb := by
  simp only [execClaimSuccess]; split <;> simp

@[simp] theorem execClaimCollision_keepsCount (t : Nat) (s : State) : KeepsCount (execClaimCollision t s) s.rb := by
  simp only [execClaimCollision]; split <;> simp

@[simp] theorem execBackoffExpire_keepsCount (t : Nat) (s : State) : KeepsCount (execBackoffExpire t s) s.rb := by
  simp only [execBackoffExpire]; split <;> simp

@[simp] theorem execCarrierDetectBackoff_keepsCount (t : Nat) (s : State) :
    KeepsCount (execCarrierDetectBackoff t s) s.rb := by
  simp only [execCarrierDetectBackoff]; split <;> simp

@[simp] theorem resync_rb (s : State) : (resync s).rb = s.rb := by simp [resync]

@[simp] theorem hearBeacon_rb (body : List Byte) (s : State) : (hearBeacon body s).rb = s.rb := by simp [hearBeacon]

@[simp] theorem acceptBeacon_rb (body : List Byte) (s : State) :
    (acceptBeacon body s).rb = s.rb := by simp [acceptBeacon]

@[simp] theorem hearDeferred_rb (s : State) : (hearDeferred s).rb = s.rb := by simp [hearDeferred]

@[simp] theorem execBeaconGuardClose_keepsCount (t : Nat) (s : State) :
    KeepsCount (execBeaconGuardClose t s) s.rb := by
  simp only [execBeaconGuardClose]; split <;> simp

@[simp] theorem execSearchExpire_keepsCount (t : Nat) (s : State) : KeepsCount (execSearchExpire t s) s.rb := by
  simp only [execSearchExpire]; split <;> simp

@[simp] theorem execBackupTakeover_keepsCount (t : Nat) (s : State) : KeepsCount (execBackupTakeover t s) s.rb := by
  simp only [execBackupTakeover]; split <;> simp

@[simp] theorem execStatusSlot_keepsCount (t : Nat) (slotEnded : Bool) (s : State) :
    KeepsCount (execStatusSlot t slotEnded s) s.rb := by
  simp only [execStatusSlot]
  generalize statusSlotOver (clockTo t s) = w, inStatusSlot (clockTo t s) = q
  (repeat' split) <;> simp

@[simp] theorem execStatusFrameReceive_keepsCount (t : Nat) (src : NetSource) (frame : List Byte) (s : State) :
    KeepsCount (execStatusFrameReceive t src frame s) s.rb := by
  simp only [execStatusFrameReceive]; (repeat' split) <;> simp

@[simp] theorem execPlcaBeaconChange_keepsCount (t : Nat) (heard : Bool) (s : State) :
    KeepsCount (execPlcaBeaconChange t heard s) s.rb := by
  simp only [execPlcaBeaconChange]; (repeat' split) <;> simp

@[simp] theorem takeSolicitation_rb (src : NetSource) (message : List Byte) (s : State) :
    (takeSolicitation src message s).rb = s.rb := by
  simp only [takeSolicitation]; (repeat' split) <;> simp

@[simp] theorem takeAdvertisement_rb (message : List Byte) (s : State) : (takeAdvertisement message s).rb = s.rb := by
  simp only [takeAdvertisement]; (repeat' split) <;> simp

@[simp] theorem execIcmpv6Message_keepsCount (t : Nat) (src : NetSource) (message : List Byte) (s : State) :
    KeepsCount (execIcmpv6Message t src message s) s.rb := by
  simp only [execIcmpv6Message]; (repeat' split) <;> simp

@[simp] theorem sendJop_rb (client : Nat) (f : List Byte) (s : State) :
    (sendJop client f s).rb = s.rb := by simp [sendJop]

@[simp] theorem refuseSession_rb (client code : Nat) (s : State) :
    (refuseSession client code s).rb = s.rb := by simp [refuseSession]

@[simp] theorem acceptSession_rb (client : Nat) (body : List Byte) (s : State) :
    (acceptSession client body s).rb = s.rb := by simp [acceptSession]

@[simp] theorem countOpen_rb (s : State) : (countOpen s).rb = s.rb := by simp [countOpen]

@[simp] theorem touchSession_rb (n : Nat) (s : State) : (touchSession n s).rb = s.rb := by simp [touchSession]

@[simp] theorem takeFrame_rb (src : NetSource) (f : List Byte) (awaited : Bool) (effect : State → State)
    (s : State) (h : ∀ u, (effect u).rb = u.rb) :
    (takeFrame src f awaited effect s).rb = s.rb := by
  simp only [takeFrame]; (repeat' split) <;> simp [h]

@[simp] theorem openSession_rb (client before : Nat) (body : List Byte) (s : State) :
    (openSession client before body s).rb = s.rb := by simp [openSession]

@[simp] theorem execSessionOpen_keepsCount (t : Nat) (src : NetSource) (frame : List Byte) (s : State) :
    KeepsCount (execSessionOpen t src frame s) s.rb := by simp [execSessionOpen]

@[simp] theorem endSession_rb (n : Nat) (s : State) : (endSession n s).rb = s.rb := by simp [endSession]

@[simp] theorem confirmSession_rb (n : Nat) (s : State) : (confirmSession n s).rb = s.rb := by simp [confirmSession]

@[simp] theorem execSessionConfirm_keepsCount (t : Nat) (src : NetSource) (frame : List Byte) (s : State) :
    KeepsCount (execSessionConfirm t src frame s) s.rb := by simp [execSessionConfirm]

@[simp] theorem execSessionClose_keepsCount (t : Nat) (src : NetSource) (frame : List Byte) (s : State) :
    KeepsCount (execSessionClose t src frame s) s.rb := by simp [execSessionClose]

@[simp] theorem execHalfOpenExpire_keepsCount (t session : Nat) (s : State) :
    KeepsCount (execHalfOpenExpire t session s) s.rb := by
  simp only [execHalfOpenExpire]; split <;> simp

@[simp] theorem execSessionIdleExpire_keepsCount (t session : Nat) (s : State) :
    KeepsCount (execSessionIdleExpire t session s) s.rb := by
  simp only [execSessionIdleExpire]; split <;> simp

@[simp] theorem execJopFrameDiscard_keepsCount (t : Nat) (src : NetSource) (frame : List Byte) (s : State) :
    KeepsCount (execJopFrameDiscard t src frame s) s.rb := by simp [execJopFrameDiscard]

@[simp] theorem sendReply_rb (session client : Nat) (body : List Byte) (s : State) :
    (sendReply session client body s).rb = s.rb := by simp [sendReply]

@[simp] theorem queueRequest_rb (client n : Nat) (body : List Byte) (s : State) :
    (queueRequest client n body s).rb = s.rb := by simp [queueRequest]

@[simp] theorem execJopRequest_keepsCount (t : Nat) (src : NetSource) (frame : List Byte) (s : State) :
    KeepsCount (execJopRequest t src frame s) s.rb := by simp [execJopRequest]

@[simp] theorem modPort_rb (p : Nat) (f : Port → Port) (s : State) : (modPort p f s).rb = s.rb := by simp [modPort]

@[simp] theorem submitSlab_rb (x : Slab) (s : State) : (submitSlab x s).rb = s.rb := by simp [submitSlab]

@[simp] theorem enqueue_rb (p : Nat) (x : Slab) (s : State) : (enqueue p x s).rb = s.rb := by simp [enqueue]

@[simp] theorem freePlace_rb (x : Slab) (s : State) : (freePlace x s).rb = s.rb := by
  simp only [freePlace]; split <;> simp

@[simp] theorem floodNotice_rb (x : Slab) (except : Option Nat) (s : State) :
    (floodNotice x except s).rb = s.rb := by simp [floodNotice]

@[simp] theorem portNotice_rb (cause cycle port : Nat) (s : State) :
    (portNotice cause cycle port s).rb = s.rb := by simp [portNotice]

@[simp] theorem linkNotice_rb (cause cycle : Nat) (s : State) :
    (linkNotice cause cycle s).rb = s.rb := by simp [linkNotice]

@[simp] theorem sendNotice_rb (cause cycle : Nat) (s : State) :
    (sendNotice cause cycle s).rb = s.rb := by simp [sendNotice]

@[simp] theorem hbmWrite_rb (a : Nat) (bs : List Byte) (s : State) : (hbmWrite a bs s).rb = s.rb := by simp [hbmWrite]

@[simp] theorem cellarWrite_rb (a : Nat) (bs : List Byte) (s : State) :
    (cellarWrite a bs s).rb = s.rb := by simp [cellarWrite]

@[simp] theorem hostWrite_rb (a : Nat) (bs : List Byte) (s : State) :
    (hostWrite a bs s).rb = s.rb := by simp [hostWrite]

@[simp] theorem markHbm_rb (v : Bool) (ps : List Nat) (s : State) : (markHbm v ps s).rb = s.rb := by simp [markHbm]

/-! ### Queues, groups, tiles and the fabric as other units use them -/

@[simp] theorem modQueue_rb (q : Nat) (f : Queue → Queue) (s : State) :
    (modQueue q f s).rb = s.rb := by simp [modQueue]

@[simp] theorem modDesc_rb (q index : Nat) (f : Desc → Desc) (s : State) :
    (modDesc q index f s).rb = s.rb := by simp [modDesc]

@[simp] theorem endDesc_count (q index status cause result : Nat) (s : State) :
    (endDesc q index status cause result s).rb.count = s.rb.count := by
  simp only [endDesc]; (repeat' split) <;> simp

@[simp] theorem writeRing_rb (space a : Nat) (bs : List Byte) (s : State) :
    (writeRing space a bs s).rb = s.rb := by simp [writeRing]

@[simp] theorem signalRecord_rb (q : Nat) (d : Desc) (s : State) :
    (signalRecord q d s).rb = s.rb := by simp [signalRecord]

@[simp] theorem countCompleted_rb (q : Nat) (s : State) : (countCompleted q s).rb = s.rb := by simp [countCompleted]

@[simp] theorem writeRecord_rb (q : Nat) (s : State) : (writeRecord q s).rb = s.rb := by
  simp only [writeRecord]; (repeat' split) <;> simp

@[simp] theorem writeRecords_rb (q n : Nat) (s : State) : (writeRecords q n s).rb = s.rb := by
  induction n generalizing s with
  | zero => simp [writeRecords]
  | succ n ih => simp [writeRecords, ih]

@[simp] theorem flushRecords_rb (q : Nat) (s : State) : (flushRecords q s).rb = s.rb := by simp [flushRecords]

@[simp] theorem enableQueue_rb (q : Nat) (s : State) : (enableQueue q s).rb = s.rb := by simp [enableQueue]

@[simp] theorem execQueueEnable_keepsCount (t : Nat) (queue : Fin 4096) (s : State) :
    KeepsCount (execQueueEnable t queue s) s.rb := by simp [execQueueEnable]

@[simp] theorem flushUnstarted_count (q cause : Nat) (s : State) :
    (flushUnstarted q cause s).rb.count = s.rb.count := by simp [flushUnstarted]

@[simp] theorem disableQueue_count (q : Nat) (s : State) :
    (disableQueue q s).rb.count = s.rb.count := by simp [disableQueue]

@[simp] theorem driverDisable_count (q : Nat) (s : State) :
    (driverDisable q s).rb.count = s.rb.count := by simp [driverDisable]

@[simp] theorem execQueueDisable_keepsCount (t : Nat) (queue : Fin 4096) (s : State) :
    KeepsCount (execQueueDisable t queue s) s.rb := by simp [execQueueDisable]

@[simp] theorem retireQueue_rb (q : Nat) (s : State) : (retireQueue q s).rb = s.rb := by simp [retireQueue]

@[simp] theorem execQueueFlushDone_keepsCount (t : Nat) (queue : Fin 4096) (s : State) :
    KeepsCount (execQueueFlushDone t queue s) s.rb := by
  simp only [execQueueFlushDone]; split <;> simp

@[simp] theorem writeTail_rb (q bytes value : Nat) (s : State) :
    (writeTail q bytes value s).rb = s.rb := by simp [writeTail]

@[simp] theorem execDoorbellTail_keepsCount (t : Nat) (queue : Fin 4096) (bytes value : Nat) (s : State) :
    KeepsCount (execDoorbellTail t queue bytes value s) s.rb := by simp [execDoorbellTail]

@[simp] theorem writeCplHead_rb (q value : Nat) (s : State) :
    (writeCplHead q value s).rb = s.rb := by simp [writeCplHead]

@[simp] theorem execDoorbellCplHead_keepsCount (t : Nat) (queue : Fin 4096) (value : Nat) (s : State) :
    KeepsCount (execDoorbellCplHead t queue value s) s.rb := by simp [execDoorbellCplHead]

@[simp] theorem modGroup_rb (g : Nat) (f : Group → Group) (s : State) :
    (modGroup g f s).rb = s.rb := by simp [modGroup]

@[simp] theorem enterCollective_rb (q i : Nat) (data : List Byte) (s : State) :
    (enterCollective q i data s).rb = s.rb := by simp [enterCollective]

theorem submitDesc_rb (q : Nat) (data : List Byte) (s u : State) (h : submitDesc q data s = some u) :
    u.rb = s.rb := by
  simp only [submitDesc] at h; split at h <;> simp at h; subst h; split <;> simp

@[simp] theorem takeGate_count (q : Nat) (fenced : Desc → Bool) (s : State) :
    (takeGate q fenced s).rb.count = s.rb.count := by
  simp only [takeGate]; (repeat' split) <;> simp

@[simp] theorem admitNext_count (q : Nat) (fenced : Desc → Bool) (s : State) :
    (admitNext q fenced s).2.rb.count = s.rb.count := by
  simp only [admitNext]; (repeat' split) <;> simp

@[simp] theorem startDesc_rb (q index : Nat) (s : State) : (startDesc q index s).rb = s.rb := by simp [startDesc]

@[simp] theorem fetchNext_rb (q : Nat) (s : State) : (fetchNext q s).rb = s.rb := by
  simp only [fetchNext]; (repeat' split) <;> simp

@[simp] theorem execIrqDelayExpire_keepsCount (t : Nat) (queue : Fin 4096) (s : State) :
    KeepsCount (execIrqDelayExpire t queue s) s.rb := by
  simp only [execIrqDelayExpire]; split <;> simp

@[simp] theorem breakRing_rb (q : Nat) (s : State) : (breakRing q s).rb = s.rb := by
  simp only [breakRing]; split <;> simp

@[simp] theorem execQueueFault_keepsCount (t : Nat) (queue : Fin 4096) (fetch : Bool) (s : State) :
    KeepsCount (execQueueFault t queue fetch s) s.rb := by
  simp only [execQueueFault]; split <;> simp

@[simp] theorem writeWindowBase_rb (v : Nat) (s : State) :
    (writeWindowBase v s).rb = s.rb := by simp [writeWindowBase]

@[simp] theorem execHbmWindowBaseWrite_keepsCount (value : Half) (s : State) :
    KeepsCount (execHbmWindowBaseWrite value s) s.rb := by simp [execHbmWindowBaseWrite]

@[simp] theorem clearCauses_rb (v : Nat) (s : State) : (clearCauses v s).rb = s.rb := by simp [clearCauses]

@[simp] theorem execGlEventCauseWrite_keepsCount (value : Half) (s : State) :
    KeepsCount (execGlEventCauseWrite value s) s.rb := by simp [execGlEventCauseWrite]

@[simp] theorem latchCount_rb (s : State) : (latchCount s).rb = s.rb := by simp [latchCount]

@[simp] theorem execGlRbCycleLoRead_keepsCount (s : State) : KeepsCount (execGlRbCycleLoRead s) s.rb := by
  simp only [execGlRbCycleLoRead]; split <;> simp

@[simp] theorem poisonToHost_rb (length : Nat) (s : State) :
    (poisonToHost length s).rb = s.rb := by simp [poisonToHost]

@[simp] theorem execBar2Access_keepsCount (offset length : Nat) (write : Option (List Byte)) (s : State) :
    KeepsCount (execBar2Access offset length write s) s.rb := by
  simp only [execBar2Access]; (repeat' split) <;> simp

@[simp] theorem startEndpoint_rb (s : State) : (startEndpoint s).rb = s.rb := by simp [startEndpoint]

@[simp] theorem execEndpointReady_keepsCount (t width rate : Nat) (flitMode : Bool) (s : State) :
    KeepsCount (execEndpointReady t s width rate flitMode) s.rb := by
  simp only [execEndpointReady]; (repeat' split) <;> simp

@[simp] theorem endMailboxSession_rb (s : State) : (endMailboxSession s).rb = s.rb := by simp [endMailboxSession]

@[simp] theorem dropHostQueues_count (s : State) :
    (dropHostQueues s).rb.count = s.rb.count := by simp [dropHostQueues]

@[simp] theorem modLayer_rb (f : Layer → Layer) (s : State) : (modLayer f s).rb = s.rb := by simp [modLayer]

@[simp] theorem juncFlags_rb (fl : Nat) (s : State) : (juncFlags fl s).rb = s.rb := by simp [juncFlags]

@[simp] theorem writeWord_rb (a v : Nat) (s : State) : (writeWord a v s).rb = s.rb := by simp [writeWord]

@[simp] theorem dropLayer_rb (l : Layer) (s : State) : (dropLayer l s).rb = s.rb := by simp [dropLayer]

@[simp] theorem completeLayer_count (s : State) : (completeLayer s).rb.count = s.rb.count := by
  simp only [completeLayer]; split <;> simp

@[simp] theorem abortLayer_count (cause : Nat) (s : State) : (abortLayer cause s).rb.count = s.rb.count := by
  simp only [abortLayer]; split <;> simp

@[simp] theorem layerCollDone_rb (index : Nat) (s : State) :
    (layerCollDone index s).rb = s.rb := by simp [layerCollDone]

@[simp] theorem engineTo_rb (g code epoch cseq : Nat) (extra : List Byte) (dest : Nat) (s : State) :
    (engineTo g code epoch cseq extra dest s).rb = s.rb := by simp [engineTo]

@[simp] theorem engineToAll_rb (g code epoch cseq : Nat) (extra : List Byte) (dests : List Nat) (s : State) :
    (engineToAll g code epoch cseq extra dests s).rb = s.rb := by simp [engineToAll]

@[simp] theorem modCollective_rb (g cseq : Nat) (f : Collective → Collective) (s : State) :
    (modCollective g cseq f s).rb = s.rb := by simp [modCollective]

@[simp] theorem touch_rb (g cseq : Nat) (s : State) : (touch g cseq s).rb = s.rb := by simp [touch]

@[simp] theorem tellRank_rb (g code : Nat) (c : Collective) (extra : List Byte) (d : Nat) (s : State) :
    (tellRank g code c extra d s).rb = s.rb := by simp [tellRank]

@[simp] theorem putDst_rb (a : Nat) (bs : List Byte) (s : State) : (putDst a bs s).rb = s.rb := by simp [putDst]

@[simp] theorem writeInSlab_rb (g : Nat) (c : Collective) (x : InSlab) (s : State) :
    (writeInSlab g c x s).rb = s.rb := by simp [writeInSlab]

@[simp] theorem grantAgain_rb (g : Nat) (c : Collective) (s : State) :
    (grantAgain g c s).rb = s.rb := by simp [grantAgain]

@[simp] theorem regrantGroup_rb (g : Nat) (s : State) : (regrantGroup g s).rb = s.rb := by simp [regrantGroup]

@[simp] theorem regrantAll_rb (s : State) : (regrantAll s).rb = s.rb := by simp [regrantAll]

@[simp] theorem loseShare_rb (l : Nat) (s : State) : (loseShare l s).rb = s.rb := by simp [loseShare]

@[simp] theorem hamperBrick_rb (l : Nat) (s : State) : (hamperBrick l s).rb = s.rb := by
  simp only [hamperBrick]; split <;> simp

@[simp] theorem sendReform_rb (g : Nat) (s : State) : (sendReform g s).rb = s.rb := by simp [sendReform]

@[simp] theorem undefineDst_rb (g : Nat) (c : Collective) (s : State) :
    (undefineDst g c s).rb = s.rb := by simp [undefineDst]

@[simp] theorem endCollective_count (g : Nat) (c : Collective) (status cause result : Nat) (s : State) :
    (endCollective g c status cause result s).rb.count = s.rb.count := by simp [endCollective]

@[simp] theorem giveBack_count (g : Nat) (s : State) : (giveBack g s).rb.count = s.rb.count := by simp [giveBack]

@[simp] theorem makeDefined_count (g cause : Nat) (s : State) :
    (makeDefined g cause s).rb.count = s.rb.count := by simp [makeDefined]

@[simp] theorem completeReform_count (g : Nat) (s : State) :
    (completeReform g s).rb.count = s.rb.count := by simp [completeReform]

@[simp] theorem judgeProposal_count (g : Nat) (s : State) :
    (judgeProposal g s).rb.count = s.rb.count := by simp [judgeProposal]

@[simp] theorem reformGroup_count (g : Nat) (lost : List Nat) (s : State) :
    (reformGroup g lost s).rb.count = s.rb.count := by simp [reformGroup]

@[simp] theorem countAbort_rb (cause : Nat) (s : State) : (countAbort cause s).rb = s.rb := by simp [countAbort]

@[simp] theorem abortCollective_count (g cause detector : Nat) (c : Collective) (s : State) :
    (abortCollective g cause detector c s).rb.count = s.rb.count := by simp [abortCollective]

@[simp] theorem abortAndReform_count (g cause detector : Nat) (lost : List Nat) (c : Collective) (s : State) :
    (abortAndReform g cause detector lost c s).rb.count = s.rb.count := by simp [abortAndReform]

@[simp] theorem memberLost_count (g addr : Nat) (s : State) : (memberLost g addr s).rb.count = s.rb.count := by
  simp only [memberLost]; (repeat' split) <;> simp

@[simp] theorem lostToGroups_count (addr : Nat) (s : State) :
    (lostToGroups addr s).rb.count = s.rb.count := by simp [lostToGroups]

@[simp] theorem checkReach_count (s : State) : (checkReach s).rb.count = s.rb.count := by simp [checkReach]

@[simp] theorem programEndsCollective_count (g : Nat) (s : State) :
    (programEndsCollective g s).rb.count = s.rb.count := by
  simp only [programEndsCollective]; split <;> simp

@[simp] theorem noRouteFor_count (g cseq : Nat) (s : State) : (noRouteFor g cseq s).rb.count = s.rb.count := by
  simp only [noRouteFor]; split <;> simp

@[simp] theorem modTile_rb (n : Nat) (f : Tile → Tile) (s : State) : (modTile n f s).rb = s.rb := by simp [modTile]

@[simp] theorem modProg_rb (f : Program → Program) (s : State) : (modProg f s).rb = s.rb := by simp [modProg]

@[simp] theorem renumber_rb (s : State) : (renumber s).rb = s.rb := by simp [renumber]

@[simp] theorem tilePut_rb (p : Program) (n a : Nat) (b : Byte) (s : State) :
    (tilePut p n a b s).rb = s.rb := by simp [tilePut]

@[simp] theorem tileWrite_rb (p : Program) (n a : Nat) (bs : List Byte) (s : State) :
    (tileWrite p n a bs s).rb = s.rb := by simp [tileWrite]

@[simp] theorem writeEntry_rb (p : Program) (x : Tile) (pc step : Nat) (s : State) :
    (writeEntry p x pc step s).rb = s.rb := by simp [writeEntry]

@[simp] theorem setQsubs_rb (p : Program) (l v : Nat) (s : State) : (setQsubs p l v s).rb = s.rb := by simp [setQsubs]

@[simp] theorem reloadTile_rb (p : Program) (n : Nat) (s : State) :
    (reloadTile p n s).rb = s.rb := by simp [reloadTile]

@[simp] theorem copyStream_rb (p : Program) (n : Nat) (s : State) :
    (copyStream p n s).rb = s.rb := by simp [copyStream]

@[simp] theorem startOnTile_rb (p : Program) (n : Nat) (s : State) :
    (startOnTile p n s).rb = s.rb := by simp [startOnTile]

@[simp] theorem substitute_rb (n : Nat) (s : State) : (substitute n s).1.rb = s.rb := by
  simp only [substitute]; split <;> simp

@[simp] theorem substituteAll_rb (s : State) : (substituteAll s).rb = s.rb := by simp [substituteAll]

@[simp] theorem checkCapability_rb (s : State) : (checkCapability s).rb = s.rb := by simp [checkCapability]

@[simp] theorem stopTiles_rb (ns : List Nat) (s : State) : (stopTiles ns s).rb = s.rb := by simp [stopTiles]

@[simp] theorem dropMoverAccesses_rb (s : State) : (dropMoverAccesses s).rb = s.rb := by simp [dropMoverAccesses]

@[simp] theorem releaseProgram_count (p : Program) (s : State) : (releaseProgram p s).rb.count = s.rb.count := by
  simp only [releaseProgram]; split <;> simp

@[simp] theorem endProgram_count (p : Program) (status cause : Nat) (s : State) :
    (endProgram p status cause s).rb.count = s.rb.count := by simp [endProgram]

@[simp] theorem abortProgram_count (cause detail0 detail1 : Nat) (s : State) :
    (abortProgram cause detail0 detail1 s).rb.count = s.rb.count := by
  simp only [abortProgram]; split <;> simp

@[simp] theorem abortAtStep_count (cause failed : Nat) (s : State) :
    (abortAtStep cause failed s).rb.count = s.rb.count := by
  simp only [abortAtStep]; split <;> simp

@[simp] theorem beginReplay_rb (p : Program) (n : Nat) (s : State) :
    (beginReplay p n s).rb = s.rb := by simp [beginReplay]

@[simp] theorem afterFence_count (n : Nat) (had : Tile) (s : State) : (afterFence n had s).rb.count = s.rb.count := by
  have h := substitute_rb n s
  simp only [afterFence]; (repeat' split) <;> simp_all

@[simp] theorem machineCheck_count (n subcause : Nat) (s : State) :
    (machineCheck n subcause s).rb.count = s.rb.count := by simp [machineCheck]

@[simp] theorem enterTrap_rb (n cause kind source faultAddr resume : Nat) (atWait : Bool) (s : State) :
    (enterTrap n cause kind source faultAddr resume atWait s).rb = s.rb := by simp [enterTrap]

@[simp] theorem takeFault_count (n cause addr : Nat) (s : State) :
    (takeFault n cause addr s).rb.count = s.rb.count := by simp [takeFault]

@[simp] theorem modLot_rb (l : Nat) (f : Lot → Lot) (s : State) : (modLot l f s).rb = s.rb := by simp [modLot]

@[simp] theorem modChip_rb (c : Nat) (f : Chiplet → Chiplet) (s : State) :
    (modChip c f s).rb = s.rb := by simp [modChip]

@[simp] theorem modBank_rb (b : Nat) (f : IoBank → IoBank) (s : State) :
    (modBank b f s).rb = s.rb := by simp [modBank]

@[simp] theorem setFifo_rb (c : Nat) (ws : List Nat) (s : State) : (setFifo c ws s).rb = s.rb := by simp [setFifo]

@[simp] theorem setStreams_rb (c : Nat) (xs : List Stream) (s : State) :
    (setStreams c xs s).rb = s.rb := by simp [setStreams]

@[simp] theorem endHead_count (c status cause : Nat) (s : State) :
    (endHead c status cause s).rb.count = s.rb.count := by
  simp only [endHead]; split <;> simp

@[simp] theorem settleStreams_count (c n : Nat) (s : State) : (settleStreams c n s).rb.count = s.rb.count := by
  induction n generalizing s with
  | zero => simp [settleStreams]
  | succ n ih => simp only [settleStreams]; (repeat' split) <;> simp [ih]

@[simp] theorem nextStream_count (c : Nat) (s : State) :
    (nextStream c s).rb.count = s.rb.count := by simp [nextStream]

@[simp] theorem endStreams_count (l status cause : Nat) (s : State) :
    (endStreams l status cause s).rb.count = s.rb.count := by simp [endStreams]

@[simp] theorem emptyFifos_rb (l : Nat) (s : State) : (emptyFifos l s).rb = s.rb := by simp [emptyFifos]

@[simp] theorem probeTransition_rb (l n : Nat) (s : State) :
    (probeTransition l n s).rb = s.rb := by simp [probeTransition]

@[simp] theorem setCell_rb (l n : Nat) (v : Bool) (s : State) : (setCell l n v s).rb = s.rb := by simp [setCell]

@[simp] theorem restCells_rb (l : Nat) (s : State) : (restCells l s).rb = s.rb := by simp [restCells]

@[simp] theorem runCell_rb (l n ports : Nat) (s : State) : (runCell l n ports s).rb = s.rb := by simp [runCell]

@[simp] theorem runStage_rb (l n : Nat) (s : State) : (runStage l n s).rb = s.rb := by simp [runStage]

@[simp] theorem fenceLotCore_count (l cause : Nat) (s : State) :
    (fenceLotCore l cause s).rb.count = s.rb.count := by simp [fenceLotCore]

@[simp] theorem takeOut_count (l : Nat) (st : LotState) (s : State) :
    (takeOut l st s).rb.count = s.rb.count := by simp [takeOut]

@[simp] theorem clearLot_rb (l : Nat) (s : State) : (clearLot l s).rb = s.rb := by simp [clearLot]

@[simp] theorem releaseLot_rb (l : Nat) (s : State) : (releaseLot l s).rb = s.rb := by simp [releaseLot]

@[simp] theorem startReload_count (l : Nat) (s : State) :
    (startReload l s).rb.count = s.rb.count := by simp [startReload]

@[simp] theorem startFullLoad_count (s : State) : (startFullLoad s).rb.count = s.rb.count := by simp [startFullLoad]

@[simp] theorem runLotCommand_count (l : Nat) (s : State) :
    (runLotCommand l s).rb.count = s.rb.count := by simp [runLotCommand]

@[simp] theorem askFullLoad_count (s : State) : (askFullLoad s).rb.count = s.rb.count := by simp [askFullLoad]

@[simp] theorem runWaiting_count (s : State) : (runWaiting s).rb.count = s.rb.count := by simp [runWaiting]

@[simp] theorem applyBanks_rb (s : State) : (applyBanks s).rb = s.rb := by simp [applyBanks]

@[simp] theorem fabricReset_rb (s : State) : (fabricReset s).rb = s.rb := by simp [fabricReset]

@[simp] theorem fabricVerdict_rb (s : State) : (fabricVerdict s).rb = s.rb := by simp [fabricVerdict]

@[simp] theorem execBallastBurst_keepsCount (tile : Fin 160) (s : State) :
    KeepsCount (execBallastBurst tile s) s.rb := by
  simp only [execBallastBurst]; (repeat' split) <;> simp

/-! ### Tile instructions, microwords and mover channels -/

@[simp] theorem dispatch_rb (n i : Nat) (s : State) : (dispatch n i s).rb = s.rb := by simp [dispatch]

@[simp] theorem park_rb (n : Nat) (s : State) : (park n s).rb = s.rb := by simp [park]

@[simp] theorem endBurst_rb (n : Nat) (s : State) : (endBurst n s).rb = s.rb := by simp [endBurst]

@[simp] theorem withInstr_keepsCount (t n op : Nat) (k : Program → Nat → State → State) (s : State)
    (h : ∀ p i u, (k p i u).rb.count = u.rb.count) :
    KeepsCount (withInstr t n op k s) s.rb := by
  simp only [withInstr]; (repeat' split) <;> simp [h]

@[simp] theorem retire_rb (n : Nat) (s : State) : (retire n s).rb = s.rb := by simp [retire]

@[simp] theorem jump_rb (n i : Nat) (s : State) : (jump n i s).rb = s.rb := by simp [jump]

@[simp] theorem putRd_rb (n i : Nat) (v : Word) (s : State) : (putRd n i v s).rb = s.rb := by simp [putRd]

@[simp] theorem issueEngine_rb (n : Nat) (p : Program) (i : Nat) (s : State) :
    (issueEngine n p i s).rb = s.rb := by simp [issueEngine]

@[simp] theorem execEngineOperationComplete_keepsCount (t : Nat) (tile : Fin 160) (s : State) :
    KeepsCount (execEngineOperationComplete t tile s) s.rb := by
  simp only [execEngineOperationComplete]; (repeat' split) <;> simp [execEngineOperationComplete.tilePut']

@[simp] theorem execTileNop_keepsCount (t : Nat) (tile : Fin 160) (s : State) :
    KeepsCount (execTileNop t tile s) s.rb := by simp [execTileNop]

@[simp] theorem execTileEnd_keepsCount (t : Nat) (tile : Fin 160) (s : State) :
    KeepsCount (execTileEnd t tile s) s.rb := by simp [execTileEnd]

@[simp] theorem loadGate_count (s : State) : (loadGate s).rb.count = s.rb.count := by
  simp only [loadGate]; (repeat' split) <;> simp

@[simp] theorem execTileStep_keepsCount (t : Nat) (tile : Fin 160) (s : State) :
    KeepsCount (execTileStep t tile s) s.rb := by simp [execTileStep]

@[simp] theorem execJmp_keepsCount (t : Nat) (tile : Fin 160) (s : State) :
    KeepsCount (execJmp t tile s) s.rb := by simp [execJmp]

@[simp] theorem branch_keepsCount (t n op : Nat) (c : Word → Word → Bool) (s : State) :
    KeepsCount (branch t n op c s) s.rb := by simp [branch]

@[simp] theorem execBeq_keepsCount (t : Nat) (tile : Fin 160) (s : State) :
    KeepsCount (execBeq t tile s) s.rb := by simp [execBeq]

@[simp] theorem execBne_keepsCount (t : Nat) (tile : Fin 160) (s : State) :
    KeepsCount (execBne t tile s) s.rb := by simp [execBne]

@[simp] theorem execBlt_keepsCount (t : Nat) (tile : Fin 160) (s : State) :
    KeepsCount (execBlt t tile s) s.rb := by simp [execBlt]

@[simp] theorem execBge_keepsCount (t : Nat) (tile : Fin 160) (s : State) :
    KeepsCount (execBge t tile s) s.rb := by simp [execBge]

@[simp] theorem scalarOp_keepsCount (t n op : Nat) (f : Word → Word → Word) (s : State) :
    KeepsCount (scalarOp t n op f s) s.rb := by simp [scalarOp]

@[simp] theorem execAdd_keepsCount (t : Nat) (tile : Fin 160) (s : State) :
    KeepsCount (execAdd t tile s) s.rb := by simp [execAdd]

@[simp] theorem execSub_keepsCount (t : Nat) (tile : Fin 160) (s : State) :
    KeepsCount (execSub t tile s) s.rb := by simp [execSub]

@[simp] theorem execAnd_keepsCount (t : Nat) (tile : Fin 160) (s : State) :
    KeepsCount (execAnd t tile s) s.rb := by simp [execAnd]

@[simp] theorem execOr_keepsCount (t : Nat) (tile : Fin 160) (s : State) :
    KeepsCount (execOr t tile s) s.rb := by simp [execOr]

@[simp] theorem execXor_keepsCount (t : Nat) (tile : Fin 160) (s : State) :
    KeepsCount (execXor t tile s) s.rb := by simp [execXor]

@[simp] theorem execShl_keepsCount (t : Nat) (tile : Fin 160) (s : State) :
    KeepsCount (execShl t tile s) s.rb := by simp [execShl]

@[simp] theorem execShr_keepsCount (t : Nat) (tile : Fin 160) (s : State) :
    KeepsCount (execShr t tile s) s.rb := by simp [execShr]

@[simp] theorem execAddi_keepsCount (t : Nat) (tile : Fin 160) (s : State) :
    KeepsCount (execAddi t tile s) s.rb := by simp [execAddi]

@[simp] theorem execLi_keepsCount (t : Nat) (tile : Fin 160) (s : State) :
    KeepsCount (execLi t tile s) s.rb := by simp [execLi]

@[simp] theorem execLd_keepsCount (t : Nat) (tile : Fin 160) (s : State) :
    KeepsCount (execLd t tile s) s.rb := by simp [execLd]

@[simp] theorem execSt_keepsCount (t : Nat) (tile : Fin 160) (s : State) :
    KeepsCount (execSt t tile s) s.rb := by simp [execSt]

@[simp] theorem execSyncSs_keepsCount (t : Nat) (tile : Fin 160) (s : State) :
    KeepsCount (execSyncSs t tile s) s.rb := by simp [execSyncSs]

@[simp] theorem execSyncLl_keepsCount (t : Nat) (tile : Fin 160) (s : State) :
    KeepsCount (execSyncLl t tile s) s.rb := by simp [execSyncLl]

@[simp] theorem execSyncSl_keepsCount (t : Nat) (tile : Fin 160) (s : State) :
    KeepsCount (execSyncSl t tile s) s.rb := by simp [execSyncSl]

@[simp] theorem execFlagrd_keepsCount (t : Nat) (tile : Fin 160) (s : State) :
    KeepsCount (execFlagrd t tile s) s.rb := by simp [execFlagrd]

@[simp] theorem execFlagswp_keepsCount (t : Nat) (tile : Fin 160) (s : State) :
    KeepsCount (execFlagswp t tile s) s.rb := by simp [execFlagswp]

@[simp] theorem execFlagclr_keepsCount (t : Nat) (tile : Fin 160) (s : State) :
    KeepsCount (execFlagclr t tile s) s.rb := by simp [execFlagclr]

@[simp] theorem issueMover_rb (n c addr : Nat) (s : State) : (issueMover n c addr s).1.rb = s.rb := by
  simp only [issueMover]; (repeat' split) <;> simp

@[simp] theorem movInstr_keepsCount (t n op c : Nat) (s : State) :
    KeepsCount (movInstr t n op c s) s.rb := by simp [movInstr]

@[simp] theorem execMov0_keepsCount (t : Nat) (tile : Fin 160) (s : State) :
    KeepsCount (execMov0 t tile s) s.rb := by simp [execMov0]

@[simp] theorem execMov1_keepsCount (t : Nat) (tile : Fin 160) (s : State) :
    KeepsCount (execMov1 t tile s) s.rb := by simp [execMov1]

@[simp] theorem mvwait_keepsCount (t n op c : Nat) (s : State) :
    KeepsCount (mvwait t n op c s) s.rb := by simp [mvwait]

@[simp] theorem execMvwait0_keepsCount (t : Nat) (tile : Fin 160) (s : State) :
    KeepsCount (execMvwait0 t tile s) s.rb := by simp [execMvwait0]

@[simp] theorem execMvwait1_keepsCount (t : Nat) (tile : Fin 160) (s : State) :
    KeepsCount (execMvwait1 t tile s) s.rb := by simp [execMvwait1]

@[simp] theorem engineInstr_keepsCount (t n op : Nat) (s : State) :
    KeepsCount (engineInstr t n op s) s.rb := by simp [engineInstr]

@[simp] theorem execMma_keepsCount (t : Nat) (tile : Fin 160) (s : State) :
    KeepsCount (execMma t tile s) s.rb := by simp [execMma]

@[simp] theorem execMmaWrite_keepsCount (t : Nat) (tile : Fin 160) (s : State) :
    KeepsCount (execMmaWrite t tile s) s.rb := by simp [execMmaWrite]

@[simp] theorem execSetcs_keepsCount (t : Nat) (tile : Fin 160) (s : State) :
    KeepsCount (execSetcs t tile s) s.rb := by simp [execSetcs]

@[simp] theorem execVadd_keepsCount (t : Nat) (tile : Fin 160) (s : State) :
    KeepsCount (execVadd t tile s) s.rb := by simp [execVadd]

@[simp] theorem execVmul_keepsCount (t : Nat) (tile : Fin 160) (s : State) :
    KeepsCount (execVmul t tile s) s.rb := by simp [execVmul]

@[simp] theorem execVfma_keepsCount (t : Nat) (tile : Fin 160) (s : State) :
    KeepsCount (execVfma t tile s) s.rb := by simp [execVfma]

@[simp] theorem execVmin_keepsCount (t : Nat) (tile : Fin 160) (s : State) :
    KeepsCount (execVmin t tile s) s.rb := by simp [execVmin]

@[simp] theorem execVmax_keepsCount (t : Nat) (tile : Fin 160) (s : State) :
    KeepsCount (execVmax t tile s) s.rb := by simp [execVmax]

@[simp] theorem execVminnum_keepsCount (t : Nat) (tile : Fin 160) (s : State) :
    KeepsCount (execVminnum t tile s) s.rb := by simp [execVminnum]

@[simp] theorem execVmaxnum_keepsCount (t : Nat) (tile : Fin 160) (s : State) :
    KeepsCount (execVmaxnum t tile s) s.rb := by simp [execVmaxnum]

@[simp] theorem execVsub_keepsCount (t : Nat) (tile : Fin 160) (s : State) :
    KeepsCount (execVsub t tile s) s.rb := by simp [execVsub]

@[simp] theorem execVcvt_keepsCount (t : Nat) (tile : Fin 160) (s : State) :
    KeepsCount (execVcvt t tile s) s.rb := by simp [execVcvt]

@[simp] theorem execVcvts_keepsCount (t : Nat) (tile : Fin 160) (s : State) :
    KeepsCount (execVcvts t tile s) s.rb := by simp [execVcvts]

@[simp] theorem countQsub_rb (p : Program) (l : Nat) (s : State) : (countQsub p l s).rb = s.rb := by simp [countQsub]

@[simp] theorem execQsub_keepsCount (t : Nat) (tile : Fin 160) (s : State) : KeepsCount (execQsub t tile s) s.rb := by
  simp only [execQsub]; refine withInstr_keepsCount _ _ _ _ _ fun p i u => ?_
  split
  · simp
  · split
    · simp
    · split
      · simp
      · split
        · rename_i h; simp [submitDesc_rb _ _ _ _ h]
        · simp

@[simp] theorem execQwait_keepsCount (t : Nat) (tile : Fin 160) (s : State) :
    KeepsCount (execQwait t tile s) s.rb := by simp [execQwait]

@[simp] theorem copyPage_rb (src dst : PageLoc) (s : State) : (copyPage src dst s).rb = s.rb := by
  simp only [copyPage]; split <;> simp

@[simp] theorem markPage_rb (v : Bool) (l : PageLoc) (s : State) : (markPage v l s).rb = s.rb := by
  simp only [markPage]; split <;> simp

@[simp] theorem askPage_rb (i sled page : Nat) (s : State) : (askPage i sled page s).rb = s.rb := by simp [askPage]

@[simp] theorem promotePage_rb (i : Nat) (s : State) : (promotePage i s).rb = s.rb := by
  simp only [promotePage]; (repeat' split) <;> simp

@[simp] theorem promoteAll_rb (s : State) : (promoteAll s).rb = s.rb := by
  simp only [promoteAll]; split <;> simp

@[simp] theorem pageAnswer_rb (i status : Nat) (data : List Byte) (s : State) :
    (pageAnswer i status data s).rb = s.rb := by
  simp only [pageAnswer]; (repeat' split) <;> simp

@[simp] theorem releaseTile_rb (p : Program) (n : Nat) (s : State) :
    (releaseTile p n s).rb = s.rb := by simp [releaseTile]

@[simp] theorem replaceTile_rb (p : Program) (n : Nat) (s : State) : (replaceTile p n s).rb = s.rb := by
  have h := substitute_rb n s
  simp only [replaceTile]; (repeat' split) <;> simp_all

@[simp] theorem execStepRelease_keepsCount (t : Nat) (s : State) : KeepsCount (execStepRelease t s) s.rb := by
  simp only [execStepRelease]; (repeat' split) <;> simp

@[simp] theorem execReplayRestart_keepsCount (t : Nat) (s : State) : KeepsCount (execReplayRestart t s) s.rb := by
  simp only [execReplayRestart]; (repeat' split) <;> simp

@[simp] theorem aluEffect_rb (w : Nat) (r : Word) (c v : Option Bool) (n : Nat) (s : State) :
    (aluEffect w r c v n s).rb = s.rb := by simp [aluEffect]

@[simp] theorem memEffect_rb (p : Program) (w a : Nat) (d : Word) (n : Nat) (s : State) :
    (memEffect p w a d n s).rb = s.rb := by
  simp only [memEffect]; split <;> simp

@[simp] theorem issueEffect_rb (p : Program) (x0 : Tile) (w n : Nat) (s : State) :
    (issueEffect p x0 w n s).rb = s.rb := by simp [issueEffect]

@[simp] theorem lateEffect_rb (w : Nat) (r : Word) (n : Nat) (s : State) :
    (lateEffect w r n s).rb = s.rb := by simp [lateEffect]

@[simp] theorem sequence_rb (s0 : State) (p : Program) (x0 : Tile) (w n : Nat) (s : State) :
    (sequence s0 p x0 w n s).rb = s.rb := by
  simp only [sequence]; (repeat' split) <;> simp

/-- A microword that goes on leaves the Roundabout. -/
def MicroKeepsCount (o : MicroOut) (s : State) : Prop :=
  match o with
  | .next u => u.rb = s.rb
  | _ => True

theorem microKeepsCount_ite (c : Prop) [Decidable c] (a b : MicroOut) (s : State) (ha : MicroKeepsCount a s)
    (hb : MicroKeepsCount b s) : MicroKeepsCount (if c then a else b) s := by split <;> assumption

theorem microStep_keepsCount (p : Program) (n upc w : Nat) (s : State) :
    MicroKeepsCount (microStep p n upc w s) s := by
  simp only [microStep]
  split
  · exact True.intro
  · repeat' apply microKeepsCount_ite
    all_goals simp [MicroKeepsCount]

theorem microHere_rb (p : Program) (n : Nat) (s u : State) (h : microHere p n s = .next u) : u.rb = s.rb := by
  have k := microStep_keepsCount p n (tileAt s n).upc (controlWord s (tileAt s n).upc) s
  rw [microHere] at h; rwa [h] at k

theorem microRun_rb (p : Program) (n k : Nat) (s u : State) (h : microRun p n k s = some u) : u.rb = s.rb := by
  induction k generalizing s with
  | zero => simp [microRun] at h; simp [h]
  | succ k ih =>
    simp only [microRun] at h
    split at h
    · rename_i s' hs
      exact (ih _ h).trans (microHere_rb _ _ _ _ hs)
    · simp at h

@[simp] theorem windowTrap_rb (n upc handler : Nat) (s : State) :
    (windowTrap n upc handler s).rb = s.rb := by simp [windowTrap]

@[simp] theorem windowHandler_count (p : Program) (n : Nat) (spill : Bool) (s : State) :
    (windowHandler p n spill s).rb.count = s.rb.count := by
  simp only [windowHandler]; split
  · simp
  · split
    · rename_i h; simp [microHere_rb _ _ _ _ h]
    · simp

@[simp] theorem execWindowOverflow_keepsCount (t : Nat) (tile : Fin 160) (before : Nat) (s : State) :
    KeepsCount (execWindowOverflow t tile before s) s.rb := by
  simp only [execWindowOverflow]; split
  · simp
  · split
    · simp
    · split
      · simp
      · rename_i h; split <;> simp [microRun_rb _ _ _ _ _ h]

@[simp] theorem execWindowUnderflow_keepsCount (t : Nat) (tile : Fin 160) (before : Nat) (s : State) :
    KeepsCount (execWindowUnderflow t tile before s) s.rb := by
  simp only [execWindowUnderflow]; split
  · simp
  · split
    · simp
    · split
      · simp
      · rename_i h; split <;> simp [microRun_rb _ _ _ _ _ h]

@[simp] theorem execRtt_keepsCount (t : Nat) (tile : Fin 160) (s : State) : KeepsCount (execRtt t tile s) s.rb := by
  simp only [execRtt]; split <;> simp

@[simp] theorem execFaultTake_keepsCount (t : Nat) (tile : Fin 160) (s : State) :
    KeepsCount (execFaultTake t tile s) s.rb := by
  simp only [execFaultTake]; (repeat' split) <;> simp

@[simp] theorem execInterruptTake_keepsCount (t : Nat) (tile : Fin 160) (raised : Nat) (s : State) :
    KeepsCount (execInterruptTake t tile raised s) s.rb := by
  simp only [execInterruptTake]; (repeat' split) <;> simp

@[simp] theorem execStationResume_keepsCount (t : Nat) (tile : Fin 160) (s : State) :
    KeepsCount (execStationResume t tile s) s.rb := by
  simp only [execStationResume]; split <;> simp

@[simp] theorem execStationAbandon_keepsCount (t : Nat) (tile : Fin 160) (s : State) :
    KeepsCount (execStationAbandon t tile s) s.rb := by
  simp only [execStationAbandon]; split <;> simp

@[simp] theorem rowRead_count (n : Nat) (flips : List Nat) (s : State) :
    (rowRead n flips s).rb.count = s.rb.count := by
  simp only [rowRead]; split <;> simp

@[simp] theorem execMicroMachineCheck_keepsCount (t : Nat) (tile : Fin 160) (found : MicroCheck) (s : State) :
    KeepsCount (execMicroMachineCheck t tile found s) s.rb := by
  simp only [execMicroMachineCheck]; (repeat' split) <;> simp

@[simp] theorem execCsPatrolRead_keepsCount (t : Nat) (tile : Fin 160) (flips : List Nat) (s : State) :
    KeepsCount (execCsPatrolRead t tile flips s) s.rb := by
  simp only [execCsPatrolRead]; split <;> simp

@[simp] theorem moverAccess_rb (n c sled off len : Nat) (data : Option (List Byte)) (s : State) :
    (moverAccess n c sled off len data s).rb = s.rb := by simp [moverAccess]

@[simp] theorem commitRun_rb (p : Program) (n c : Nat) (kb : Nat × List Byte) (s : State) :
    (commitRun p n c kb s).rb = s.rb := by simp [commitRun]

@[simp] theorem popCommand_rb (n c : Nat) (s : State) : (popCommand n c s).rb = s.rb := by simp [popCommand]

@[simp] theorem failChannel_count (n c cause : Nat) (s : State) :
    (failChannel n c cause s).rb.count = s.rb.count := by simp [failChannel]

@[simp] theorem runJobs_rb (e : Setting) (c : Nat) (js : List Job) (b : Option (List Int)) (r : Run) (s : State) :
    (runJobs e c js b r s).2.rb = s.rb := by
  induction js generalizing b r s with
  | nil => simp [runJobs]
  | cons j js ih => simp only [runJobs, ih]; split <;> simp

@[simp] theorem runTransfer_count (p : Program) (n c : Nat) (s : State) :
    (runTransfer p n c s).rb.count = s.rb.count := by
  simp only [runTransfer]; split <;> simp

@[simp] theorem beginTransfer_count (p : Program) (n c : Nat) (m : MoverCmd) (s : State) :
    (beginTransfer p n c m s).rb.count = s.rb.count := by simp [beginTransfer]

@[simp] theorem startMover_keepsCount (t n c k : Nat) (s : State) : KeepsCount (startMover t n c k s) s.rb := by
  simp only [startMover]; (repeat' split) <;> simp

@[simp] theorem execBox_keepsCount (t : Nat) (tile : Fin 160) (chan : Fin 2) (s : State) :
    KeepsCount (execBox t tile chan s) s.rb := by simp [execBox]

@[simp] theorem execGather_keepsCount (t : Nat) (tile : Fin 160) (chan : Fin 2) (s : State) :
    KeepsCount (execGather t tile chan s) s.rb := by simp [execGather]

@[simp] theorem execScatter_keepsCount (t : Nat) (tile : Fin 160) (chan : Fin 2) (s : State) :
    KeepsCount (execScatter t tile chan s) s.rb := by simp [execScatter]

@[simp] theorem execPermute_keepsCount (t : Nat) (tile : Fin 160) (chan : Fin 2) (s : State) :
    KeepsCount (execPermute t tile chan s) s.rb := by simp [execPermute]

@[simp] theorem execMoverCommandComplete_keepsCount (t : Nat) (tile : Fin 160) (chan : Fin 2) (s : State) :
    KeepsCount (execMoverCommandComplete t tile chan s) s.rb := by
  simp only [execMoverCommandComplete]; (repeat' split) <;> simp

/-! ### The scoring arrays, the Junction, COPY and FILL -/

@[simp] theorem juncCommit_rb (out : Tab Byte) (s : State) : (juncCommit out s).rb = s.rb := by simp [juncCommit]

@[simp] theorem writeRow_rb (v : View) (t : Nat) (codes : List Nat) (s : State) :
    (writeRow v t codes s).1.rb = s.rb := by
  simp only [writeRow]; (repeat' split) <;> simp

@[simp] theorem modArr_rb (n : Nat) (f : Arr → Arr) (s : State) : (modArr n f s).rb = s.rb := by simp [modArr]

@[simp] theorem setPlane_rb (p : Nat) (x : Plane) (s : State) : (setPlane p x s).rb = s.rb := by simp [setPlane]

@[simp] theorem loadPlane_rb (p image h e : Nat) (s : State) : (loadPlane p image h e s).1.rb = s.rb := by
  simp only [loadPlane]; (repeat' split) <;> simp

@[simp] theorem admitOp_count (q cls op : Nat) (s : State) : (admitOp q cls op s).2.rb.count = s.rb.count := by
  simp only [admitOp]; (repeat' split) <;> simp

@[simp] theorem holdGate_count (q cls : Nat) (s : State) :
    (holdGate q cls s).rb.count = s.rb.count := by simp [holdGate]

@[simp] theorem finish_count (q index status cause result : Nat) (s : State) :
    (finish q index status cause result s).rb.count = s.rb.count := by simp [finish]

@[simp] theorem execLoadRouter_keepsCount (t : Nat) (queue : Fin 4096) (s : State) :
    KeepsCount (execLoadRouter t queue s) s.rb := by
  have h := admitOp_count queue.val 2 2 (clockTo t s)
  simp only [execLoadRouter]; (repeat' split) <;> simp_all

@[simp] theorem reloadRounds_rb (l : Layer) (s : State) : (reloadRounds l s).rb = s.rb := by simp [reloadRounds]

@[simp] theorem writeScores_rb (l : Layer) (rows : List (List Nat)) (s : State) :
    (writeScores l rows s).rb = s.rb := by simp [writeScores]

@[simp] theorem execScoreStage_keepsCount (t : Nat) (s : State) : KeepsCount (execScoreStage t s) s.rb := by
  simp only [execScoreStage]; (repeat' split) <;> simp

@[simp] theorem execArrayTempDrift_keepsCount (t : Nat) (array : Fin 32) (temp : Int) (s : State) :
    KeepsCount (execArrayTempDrift t array temp s) s.rb := by
  simp only [execArrayTempDrift]; split <;> simp

@[simp] theorem execRecalibrationStart_keepsCount (t : Nat) (array : Fin 32) (s : State) :
    KeepsCount (execRecalibrationStart t array s) s.rb := by
  simp only [execRecalibrationStart]; split <;> simp

@[simp] theorem execRecalibrationComplete_keepsCount (t : Nat) (array : Fin 32) (passed : Bool) (s : State) :
    KeepsCount (execRecalibrationComplete t array passed s) s.rb := by
  simp only [execRecalibrationComplete]; (repeat' split) <;> simp

@[simp] theorem abortRecalibration_rb (s : State) : (abortRecalibration s).rb = s.rb := by simp [abortRecalibration]

@[simp] theorem execPlaneRefresh_keepsCount (t : Nat) (plane : Fin 2) (s : State) :
    KeepsCount (execPlaneRefresh t plane s) s.rb := by
  simp only [execPlaneRefresh]; split <;> simp

@[simp] theorem dropSubmission_rb (q index : Nat) (s : State) :
    (dropSubmission q index s).rb = s.rb := by simp [dropSubmission]

@[simp] theorem beginLayer_rb (q : Nat) (d : Desc) (b : List Byte) (x : LayerReads) (s : State) :
    (beginLayer q d b x s).rb = s.rb := by simp [beginLayer]

@[simp] theorem execLayer_keepsCount (t : Nat) (queue : Fin 4096) (s : State) :
    KeepsCount (execLayer t queue s) s.rb := by
  have h := admitOp_count queue.val 2 1 (clockTo t s)
  simp only [execLayer]; (repeat' split) <;> simp_all

@[simp] theorem execJunctionFlags_keepsCount (t : Nat) (queue : Fin 4096) (s : State) :
    KeepsCount (execJunctionFlags t queue s) s.rb := by
  have h := admitOp_count queue.val 2 3 (clockTo t s)
  simp only [execJunctionFlags]; (repeat' split) <;> simp_all

@[simp] theorem offerItem_rb (n : Nat) (it : TapItem) (words : Nat) (s : State) :
    (offerItem n it words s).rb = s.rb := by simp [offerItem]

@[simp] theorem dropItem_rb (n : Nat) (s : State) : (dropItem n s).rb = s.rb := by simp [dropItem]

@[simp] theorem setPick_rb (t : Nat) (x : List (Nat × Nat)) (s : State) :
    (setPick t x s).rb = s.rb := by simp [setPick]

@[simp] theorem selectToken_rb (t : Nat) (s : State) : (selectToken t s).rb = s.rb := by
  simp only [selectToken]; split <;> simp

@[simp] theorem offerScores_rb (n : Nat) (s : State) : (offerScores n s).rb = s.rb := by
  induction n generalizing s with
  | zero => simp [offerScores]
  | succ n ih => simp only [offerScores]; (repeat' split) <;> simp [ih]

@[simp] theorem selectOn_rb (n : Nat) (s : State) : (selectOn n s).rb = s.rb := by
  induction n generalizing s with
  | zero => simp [selectOn]
  | succ n ih => simp only [selectOn]; (repeat' split) <;> simp [ih]

@[simp] theorem pumpSelect_rb (s : State) : (pumpSelect s).rb = s.rb := by
  simp only [pumpSelect]; split <;> simp

@[simp] theorem execSelectStage_keepsCount (t : Nat) (s : State) : KeepsCount (execSelectStage t s) s.rb := by
  simp only [execSelectStage]; (repeat' split) <;> simp

@[simp] theorem decidePair_rb (i : Nat) (f : Fate) (s : State) : (decidePair i f s).rb = s.rb := by simp [decidePair]

@[simp] theorem decideItem_rb (t e : Nat) (f : Fate) (s : State) :
    (decideItem t e f s).rb = s.rb := by simp [decideItem]

@[simp] theorem admitOn_rb (n : Nat) (s : State) : (admitOn n s).rb = s.rb := by
  induction n generalizing s with
  | zero => simp [admitOn]
  | succ n ih => simp only [admitOn]; (repeat' split) <;> simp [ih]

@[simp] theorem renormToken_rb (t : Nat) (s : State) : (renormToken t s).rb = s.rb := by
  simp only [renormToken]; split <;> simp

@[simp] theorem pumpAdmit_rb (s : State) : (pumpAdmit s).rb = s.rb := by
  simp only [pumpAdmit]; (repeat' split) <;> simp

@[simp] theorem execAdmitStage_keepsCount (t : Nat) (s : State) : KeepsCount (execAdmitStage t s) s.rb := by
  simp only [execAdmitStage]; (repeat' split) <;> simp

@[simp] theorem execSortStage_keepsCount (t : Nat) (s : State) : KeepsCount (execSortStage t s) s.rb := by
  simp only [execSortStage]; (repeat' split) <;> simp

@[simp] theorem shipLocal_rb (l : Layer) (entries : List ListEntry) (s : State) :
    (shipLocal l entries s).rb = s.rb := by
  simp only [shipLocal]; exact forEach_rb _ _ _ fun a u => by split <;> simp

@[simp] theorem execShipStage_keepsCount (t : Nat) (s : State) : KeepsCount (execShipStage t s) s.rb := by
  simp only [execShipStage]; split
  · simp
  · split
    · simp
    · split
      · simp
      · split
        · split <;> simp
        · split
          · rename_i h; simp [submitDesc_rb _ _ _ _ h]
          · simp

@[simp] theorem settleLayer_count (s : State) : (settleLayer s).rb.count = s.rb.count := by
  simp only [settleLayer]; split <;> simp

@[simp] theorem zeroRows_rb (l : Layer) (ts : List Nat) (s : State) : (zeroRows l ts s).1.rb = s.rb := by
  induction ts generalizing s with
  | nil => simp [zeroRows]
  | cons t ts ih =>
    have h := writeRow_rb l.retView t (List.replicate (l.retView.extent 0) 0) s
    simp only [zeroRows]; split <;> simp_all

@[simp] theorem execAwaitStage_keepsCount (t : Nat) (s : State) : KeepsCount (execAwaitStage t s) s.rb := by
  simp only [execAwaitStage]; split
  · simp
  · split
    · simp
    · split
      · simp
      · split <;> rename_i h <;> (have k := congrArg (fun x => x.1.rb) h; simp at k; simp [k])

@[simp] theorem execGatherStage_keepsCount (t : Nat) (s : State) : KeepsCount (execGatherStage t s) s.rb := by
  simp only [execGatherStage]; split
  · simp
  · split
    · simp
    · split
      · simp
      · split
        · simp
        · split
          · simp
          · split
            · simp
            · split
              · rename_i h; simp [submitDesc_rb _ _ _ _ h]
              · simp

@[simp] theorem restoreSlot_count (slot m : Nat) (s : State) : (restoreSlot slot m s).rb.count = s.rb.count := by
  simp only [restoreSlot]; split
  · rfl
  · split
    · rfl
    · split <;> rename_i h <;> (have k := congrArg (fun x => x.1.rb) h; simp at k; simp [k])

@[simp] theorem execRestoreStage_keepsCount (t : Nat) (s : State) : KeepsCount (execRestoreStage t s) s.rb := by
  simp only [execRestoreStage]; (repeat' split) <;> simp

@[simp] theorem defaultItem_count (n : Nat) (it : TapItem) (s : State) :
    (defaultItem n it s).rb.count = s.rb.count := by
  simp only [defaultItem]; split <;> simp

@[simp] theorem bypassTap_count (n : Nat) (s : State) : (bypassTap n s).rb.count = s.rb.count := by
  simp only [bypassTap]; split <;> simp

@[simp] theorem pumpStage_rb (s : State) : (pumpStage s).rb = s.rb := by
  simp only [pumpStage]; split <;> simp

@[simp] theorem bypassLot_count (lot : Nat) (s : State) : (bypassLot lot s).rb.count = s.rb.count := by
  simp only [bypassLot]; split <;> simp

@[simp] theorem fenceLot_count (lot cause : Nat) (s : State) :
    (fenceLot lot cause s).rb.count = s.rb.count := by simp [fenceLot]

@[simp] theorem tapFails_count (n cause : Nat) (s : State) : (tapFails n cause s).rb.count = s.rb.count := by
  simp only [tapFails]; split <;> simp

@[simp] theorem execTapTimeout_keepsCount (t : Nat) (tap : Fin 4) (s : State) :
    KeepsCount (execTapTimeout t tap s) s.rb := by
  simp only [execTapTimeout]; (repeat' split) <;> simp

@[simp] theorem rejectIf_rb (b : Bool) (s : State) : (rejectIf b s).rb = s.rb := by simp [rejectIf]

@[simp] theorem applyReply_count (l : Layer) (n : Nat) (it : TapItem) (ws : List Nat) (s : State) :
    (applyReply l n it ws s).rb.count = s.rb.count := by simp [applyReply]

@[simp] theorem execTapReply_keepsCount (t : Nat) (tap : Fin 4) (words : List Nat) (s : State) :
    KeepsCount (execTapReply t tap words s) s.rb := by
  simp only [execTapReply]; (repeat' split) <;> simp

@[simp] theorem spaceWrite_rb (space a : Nat) (bs : List Byte) (s : State) :
    (spaceWrite space a bs s).rb = s.rb := by simp [spaceWrite]

@[simp] theorem progress_rb (q index done cause : Nat) (s : State) :
    (progress q index done cause s).rb = s.rb := by simp [progress]

@[simp] theorem copyOut_rb (q index n space a : Nat) (bs : List Byte) (srcCause : Nat) (s : State) :
    (copyOut q index n space a bs srcCause s).rb = s.rb := by simp [copyOut]

@[simp] theorem copyAccess_rb (q index sled off len : Nat) (data : Option (List Byte)) (s : State) :
    (copyAccess q index sled off len data s).rb = s.rb := by simp [copyAccess]

@[simp] theorem startCopy_rb (q : Nat) (d : Desc) (s : State) : (startCopy q d s).rb = s.rb := by simp [startCopy]

@[simp] theorem endCopy_rb (q : Nat) (d : Desc) (s : State) : (endCopy q d s).rb = s.rb := by simp [endCopy]

@[simp] theorem startFill_rb (q : Nat) (d : Desc) (s : State) : (startFill q d s).rb = s.rb := by simp [startFill]

/-! ### The fabric, its loading and scrubbing, memory errors, resets and the sweep -/

@[simp] theorem execFabricNop_keepsCount (t : Nat) (queue : Fin 4096) (s : State) :
    KeepsCount (execFabricNop t queue s) s.rb := by
  have h := admitOp_count queue.val 3 1 (clockTo t s)
  simp only [execFabricNop]; (repeat' split) <;> simp_all

@[simp] theorem beginStream_count (push : Bool) (q index : Nat) (s : State) :
    (beginStream push q index s).rb.count = s.rb.count := by
  have h := admitOp_count q 3 (if push then 2 else 3) s
  simp only [beginStream]; split
  · simp
  · split
    · simp
    · split <;> rename_i heq <;> rw [heq] at h
      · simpa using h
      · (repeat' split) <;> simpa using h

@[simp] theorem setHead_rb (c : Nat) (x : Stream) (s : State) : (setHead c x s).rb = s.rb := by simp [setHead]

@[simp] theorem closeHead_count (c status cause : Nat) (s : State) :
    (closeHead c status cause s).rb.count = s.rb.count := by simp [closeHead]

@[simp] theorem runPush_count (q index taken : Nat) (s : State) :
    (runPush q index taken s).rb.count = s.rb.count := by
  simp only [runPush]; split <;> simp

@[simp] theorem execPush_keepsCount (t : Nat) (queue : Fin 4096) (index taken : Nat) (s : State) :
    KeepsCount (execPush t queue index taken s) s.rb := by
  simp only [execPush]; split <;> simp

@[simp] theorem portBreaks_count (c : Nat) (s : State) :
    (portBreaks c s).rb.count = s.rb.count := by simp [portBreaks]

@[simp] theorem runPull_count (q index : Nat) (words : List Nat) (s : State) :
    (runPull q index words s).rb.count = s.rb.count := by
  simp only [runPull]; split <;> simp

@[simp] theorem execPull_keepsCount (t : Nat) (queue : Fin 4096) (index : Nat) (words : List Nat) (s : State) :
    KeepsCount (execPull t queue index words s) s.rb := by
  simp only [execPull]; split <;> simp

@[simp] theorem feedOn_rb (c n : Nat) (s : State) : (feedOn c n s).rb = s.rb := by
  induction n generalizing s with
  | zero => rfl
  | succ n ih =>
    simp only [feedOn]; split
    · rfl
    · split
      · simp [ih]
      · split
        · rename_i h; simp [ih, submitDesc_rb _ _ _ _ h]
        · rfl

@[simp] theorem execFeedSubmit_keepsCount (t : Nat) (ctrl : Fin 128) (words : List Nat) (s : State) :
    KeepsCount (execFeedSubmit t ctrl words s) s.rb := by
  simp only [execFeedSubmit]; (repeat' split) <;> simp

@[simp] theorem execQcStall_keepsCount (t : Nat) (ctrl : Fin 128) (s : State) :
    KeepsCount (execQcStall t ctrl s) s.rb := by
  simp only [execQcStall]; (repeat' split) <;> simp

@[simp] theorem execFabricBrownout_keepsCount (t : Nat) (chip : Fin 4) (s : State) :
    KeepsCount (execFabricBrownout t chip s) s.rb := by
  simp only [execFabricBrownout]; split <;> simp

@[simp] theorem execIobFault_keepsCount (t : Nat) (bank : Fin 4) (s : State) :
    KeepsCount (execIobFault t bank s) s.rb := by
  simp only [execIobFault]; split <;> simp

@[simp] theorem execIobVccGood_keepsCount (t : Nat) (bank : Fin 4) (s : State) :
    KeepsCount (execIobVccGood t bank s) s.rb := by
  simp only [execIobVccGood]; split <;> simp

@[simp] theorem execSerLaneLock_keepsCount (t : Nat) (bank : Fin 4) (lane : Fin 8) (locked : Bool) (s : State) :
    KeepsCount (execSerLaneLock t bank lane locked s) s.rb := by
  simp only [execSerLaneLock]; split <;> simp

@[simp] theorem cfgFailRecord_rb (lot err : Nat) (s : State) :
    (cfgFailRecord lot err s).rb = s.rb := by simp [cfgFailRecord]

@[simp] theorem reloadFails_rb (lot err : Nat) (s : State) :
    (reloadFails lot err s).rb = s.rb := by simp [reloadFails]

@[simp] theorem fullLoadFails_rb (lot err : Nat) (s : State) :
    (fullLoadFails lot err s).rb = s.rb := by simp [fullLoadFails]

@[simp] theorem sectionFails_rb (c err : Nat) (s : State) : (sectionFails c err s).rb = s.rb := by simp [sectionFails]

@[simp] theorem abortSection_rb (c : Nat) (s : State) : (abortSection c s).rb = s.rb := by simp [abortSection]

@[simp] theorem selectIr_rb (n code : Nat) (s : State) : (selectIr n code s).rb = s.rb := by simp [selectIr]

@[simp] theorem shiftOut_rb (v : Nat) (s : State) : (shiftOut v s).rb = s.rb := by simp [shiftOut]

@[simp] theorem execTestLogicReset_keepsCount (t : Nat) (ext : Bool) (s : State) :
    KeepsCount (execTestLogicReset t ext s) s.rb := by
  simp only [execTestLogicReset]; (repeat' split) <;> simp

@[simp] theorem execBypass_keepsCount (t : Nat) (ext : Bool) (tap : Fin 5) (code : Nat) (s : State) :
    KeepsCount (execBypass t ext tap s code) s.rb := by
  simp only [execBypass]; split <;> simp

@[simp] theorem execIdcode_keepsCount (t : Nat) (ext : Bool) (tap : Fin 5) (s : State) :
    KeepsCount (execIdcode t ext tap s) s.rb := by
  simp only [execIdcode]; split <;> simp

@[simp] theorem setBoundary_rb (tap v : Nat) (drives : Bool) (s : State) :
    (setBoundary tap v drives s).rb = s.rb := by simp [setBoundary]

@[simp] theorem execSamplePreload_keepsCount (t : Nat) (ext : Bool) (tap : Fin 5) (pins preload : Nat) (s : State) :
    KeepsCount (execSamplePreload t ext tap pins preload s) s.rb := by
  simp only [execSamplePreload]; split <;> simp

@[simp] theorem execExtest_keepsCount (t : Nat) (ext : Bool) (tap : Fin 5) (pins drive : Nat) (s : State) :
    KeepsCount (execExtest t ext tap pins drive s) s.rb := by
  simp only [execExtest]; (repeat' split) <;> simp

@[simp] theorem acceptFrame_rb (c lot f : Nat) (p : List Nat) (s : State) :
    (acceptFrame c lot f p s).rb = s.rb := by simp [acceptFrame]

@[simp] theorem judgeHeader_rb (c : Nat) (s : State) : (judgeHeader c s).rb = s.rb := by simp [judgeHeader]

@[simp] theorem feedWord_rb (c w : Nat) (s : State) : (feedWord c w s).rb = s.rb := by simp [feedWord]

@[simp] theorem beginSection_rb (c : Nat) (external : Bool) (lot : Nat) (s : State) :
    (beginSection c external lot s).rb = s.rb := by simp [beginSection]

@[simp] theorem shiftSlot_rb (c lot : Nat) (s : State) : (shiftSlot c lot s).rb = s.rb := by simp [shiftSlot]

@[simp] theorem execCfgLoad_keepsCount (t : Nat) (ext : Bool) (chip : Fin 4) (words : List Nat) (s : State) :
    KeepsCount (execCfgLoad t ext chip words s) s.rb := by
  simp only [execCfgLoad]; (repeat' split) <;> simp

@[simp] theorem execCfgStatus_keepsCount (t : Nat) (ext : Bool) (chip : Fin 4) (s : State) :
    KeepsCount (execCfgStatus t ext chip s) s.rb := by
  simp only [execCfgStatus]; split <;> simp

@[simp] theorem execCfgReadback_keepsCount (t : Nat) (ext : Bool) (chip : Fin 4) (select : Nat) (s : State) :
    KeepsCount (execCfgReadback t ext chip select s) s.rb := by
  simp only [execCfgReadback]; (repeat' split) <;> simp

@[simp] theorem sectionPasses_rb (c lot : Nat) (s : State) :
    (sectionPasses c lot s).rb = s.rb := by simp [sectionPasses]

@[simp] theorem execSectionVerifyComplete_keepsCount (t : Nat) (chip : Fin 4) (s : State) :
    KeepsCount (execSectionVerifyComplete t chip s) s.rb := by
  simp only [execSectionVerifyComplete]; (repeat' split) <;> simp

@[simp] theorem execFullLoadComplete_keepsCount (t : Nat) (s : State) :
    KeepsCount (execFullLoadComplete t s) s.rb := by
  simp only [execFullLoadComplete]; split <;> simp

@[simp] theorem execDeferredLotCommand_keepsCount (t : Nat) (s : State) :
    KeepsCount (execDeferredLotCommand t s) s.rb := by
  simp only [execDeferredLotCommand]; split <;> simp

@[simp] theorem becomeSuspect_rb (c : Nat) (s : State) : (becomeSuspect c s).rb = s.rb := by simp [becomeSuspect]

@[simp] theorem execScrubPassStart_keepsCount (t : Nat) (chip : Fin 4) (sentinelOk : Bool) (s : State) :
    KeepsCount (execScrubPassStart t chip sentinelOk s) s.rb := by
  simp only [execScrubPassStart]; (repeat' split) <;> simp

@[simp] theorem flipBit_rb (l f i : Nat) (s : State) : (flipBit l f i s).rb = s.rb := by simp [flipBit]

@[simp] theorem scrubFence_count (l cause : Nat) (s : State) :
    (scrubFence l cause s).rb.count = s.rb.count := by simp [scrubFence]

@[simp] theorem scrubUncorrectable_count (l : Nat) (s : State) :
    (scrubUncorrectable l s).rb.count = s.rb.count := by simp [scrubUncorrectable]

@[simp] theorem scrubMismatch_count (l f : Nat) (s : State) :
    (scrubMismatch l f s).rb.count = s.rb.count := by simp [scrubMismatch]

@[simp] theorem execScrubFrameRead_keepsCount (t : Nat) (chip : Fin 4) (flips : List Nat) (s : State) :
    KeepsCount (execScrubFrameRead t chip flips s) s.rb := by
  simp only [execScrubFrameRead]; (repeat' split) <;> simp

@[simp] theorem execVoteRestore_keepsCount (t : Nat) (chip : Fin 4) (upset : ScrubUpset) (s : State) :
    KeepsCount (execVoteRestore t chip upset s) s.rb := by
  simp only [execVoteRestore]; (repeat' split) <;> simp

@[simp] theorem countCorrected_rb (cellar : Bool) (unit : Nat) (s : State) :
    (countCorrected cellar unit s).rb = s.rb := by simp [countCorrected]

@[simp] theorem uncorrectable_rb (cellar : Bool) (w unit : Nat) (s : State) :
    (uncorrectable cellar w unit s).rb = s.rb := by simp [uncorrectable]

@[simp] theorem dropAccesses_rb (u : PeerUser) (s : State) : (dropAccesses u s).rb = s.rb := by simp [dropAccesses]

@[simp] theorem poisonedReader_count (cellar : Bool) (addr : Nat) (r : Reader) (s : State) :
    (poisonedReader cellar addr r s).rb.count = s.rb.count := by
  simp only [poisonedReader]; (repeat' split) <;> simp

@[simp] theorem execMemoryReadError_keepsCount (t : Nat) (cellar : Bool) (addr : Nat) (uncorr : Bool)
    (reader : Reader) (s : State) :
    KeepsCount (execMemoryReadError t cellar addr uncorr reader s) s.rb := by
  simp only [execMemoryReadError]; (repeat' split) <;> simp

@[simp] theorem execMemoryPatrol_keepsCount (t : Nat) (cellar : Bool) (errors : Nat) (s : State) :
    KeepsCount (execMemoryPatrol t cellar errors s) s.rb := by
  simp only [execMemoryPatrol]; (repeat' split) <;> simp

@[simp] theorem fenceMemory_count (cellar : Bool) (u cause : Nat) (s : State) :
    (fenceMemory cellar u cause s).rb.count = s.rb.count := by simp [fenceMemory]

@[simp] theorem execMemChannelFail_keepsCount (t : Nat) (cellar : Bool) (unit : Nat) (channel : Bool) (s : State) :
    KeepsCount (execMemChannelFail t cellar unit channel s) s.rb := by
  simp only [execMemChannelFail]; (repeat' split) <;> simp

@[simp] theorem grantPages_rb (borrower offset length : Nat) (s : State) :
    (grantPages borrower offset length s).rb = s.rb := by simp [grantPages]

@[simp] theorem execPeerAccess_keepsCount (t borrower offset length : Nat) (write : Option (List Byte)) (s : State) :
    KeepsCount (execPeerAccess t borrower offset length write s) s.rb := by
  simp only [execPeerAccess]; (repeat' split) <;> simp

@[simp] theorem moverAnswer_count (n c status : Nat) (a : PeerAccess) (data : List Byte) (s : State) :
    (moverAnswer n c status a data s).rb.count = s.rb.count := by
  simp only [moverAnswer]; split <;> simp

@[simp] theorem copyAnswer_rb (q index status : Nat) (a : PeerAccess) (data : List Byte) (s : State) :
    (copyAnswer q index status a data s).rb = s.rb := by
  simp only [copyAnswer]; split <;> simp

@[simp] theorem execPeerResponse_keepsCount (t access status : Nat) (data : List Byte) (s : State) :
    KeepsCount (execPeerResponse t access status data s) s.rb := by
  simp only [execPeerResponse]; (repeat' split) <;> simp

@[simp] theorem modSession_rb (mailbox : Bool) (n : Nat) (f : Session → Session) (s : State) :
    (modSession mailbox n f s).rb = s.rb := by simp [modSession]

@[simp] theorem deliver_rb (mailbox : Bool) (n client : Nat) (reply : List Byte) (s : State) :
    (deliver mailbox n client reply s).rb = s.rb := by simp [deliver]

@[simp] theorem openOutcome_rb (mailbox : Bool) (n txn : Nat) (changing : Bool) (s : State) :
    (openOutcome mailbox n txn changing s).rb = s.rb := by simp [openOutcome]

@[simp] theorem closeOutcome_rb (mailbox : Bool) (n txn : Nat) (reply : List Byte) (s : State) :
    (closeOutcome mailbox n txn reply s).rb = s.rb := by simp [closeOutcome]

@[simp] theorem answerCommit_rb (g : Staging) (txn : Nat) (reply : List Byte) (s : State) :
    (answerCommit g txn reply s).rb = s.rb := by simp [answerCommit]

@[simp] theorem cutCommit_rb (s : State) : (cutCommit s).rb = s.rb := by
  simp only [cutCommit]; (repeat' split) <;> simp

@[simp] theorem stopIssue_rb (s : State) : (stopIssue s).rb = s.rb := by simp [stopIssue]

@[simp] theorem abandonSweep_rb (cause : Nat) (s : State) : (abandonSweep cause s).rb = s.rb := by simp [abandonSweep]

@[simp] theorem disarmInjectors_rb (s : State) : (disarmInjectors s).rb = s.rb := by simp [disarmInjectors]

@[simp] theorem packageReset_count (s : State) :
    (packageReset s).rb.count = s.rb.count := by simp [packageReset, Roundabout.count]

@[simp] theorem mainPowerLost_count (s : State) : (mainPowerLost s).rb.count = s.rb.count := by simp [mainPowerLost]

@[simp] theorem openSwitch_count (s : State) : (openSwitch s).rb.count = s.rb.count := by simp [openSwitch]

@[simp] theorem surpriseNotice_rb (cause : Nat) (s : State) :
    (surpriseNotice cause s).rb = s.rb := by simp [surpriseNotice]

@[simp] theorem assertReset_count (s : State) : (assertReset s).rb.count = s.rb.count := by simp [assertReset]

@[simp] theorem beginFullReset_rb (s : State) : (beginFullReset s).rb = s.rb := by simp [beginFullReset]

@[simp] theorem beginShutdown_rb (s : State) : (beginShutdown s).rb = s.rb := by simp [beginShutdown]

@[simp] theorem disableAllQueues_count (s : State) :
    (disableAllQueues s).rb.count = s.rb.count := by simp [disableAllQueues]

@[simp] theorem enterLeft_count (sweep : Bool) (s : State) :
    (enterLeft sweep s).rb.count = s.rb.count := by simp [enterLeft]

@[simp] theorem fatalRecord_rb (cause ut unit : Nat) (s : State) :
    (fatalRecord cause ut unit s).rb = s.rb := by simp [fatalRecord]

@[simp] theorem enterPowered_rb (held : Bool) (s : State) : (enterPowered held s).rb = s.rb := by simp [enterPowered]

@[simp] theorem armSlot_count (stage : SweepStage) (s : State) :
    (armSlot stage s).rb.count = s.rb.count := by simp [armSlot]

@[simp] theorem sweepReady_count (s : State) : (sweepReady s).rb.count = s.rb.count := by simp [sweepReady]

@[simp] theorem clearPackage_rb (s : State) : (clearPackage s).rb = s.rb := by simp [clearPackage]

@[simp] theorem sweepBody_rb (s : State) : (sweepBody s).rb = s.rb := by simp [sweepBody]

@[simp] theorem sweepBoundary_count (s : State) : (sweepBoundary s).rb.count = s.rb.count := by simp [sweepBoundary]

@[simp] theorem execSweepSlot_keepsCount (t : Nat) (east west : Int) (s : State) :
    KeepsCount (execSweepSlot t east west s) s.rb := by
  simp only [execSweepSlot]; (repeat' split) <;> simp

@[simp] theorem abandonBody_count (cause : Nat) (s : State) :
    (abandonBody cause s).rb.count = s.rb.count := by simp [abandonBody]

@[simp] theorem execSweepWindowCheck_keepsCount (t : Nat) (east west : Int) (s : State) :
    KeepsCount (execSweepWindowCheck t east west s) s.rb := by
  simp only [execSweepWindowCheck]; (repeat' split) <;> simp

@[simp] theorem execSweepDescent_keepsCount (t : Nat) (s : State) : KeepsCount (execSweepDescent t s) s.rb := by
  simp only [execSweepDescent]; split <;> simp

@[simp] theorem unitFails_rb (u : Nat × Nat) (s : State) : (unitFails u s).rb = s.rb := by simp [unitFails]

@[simp] theorem sweepArrays_rb (s : State) : (sweepArrays s).rb = s.rb := by simp [sweepArrays]

@[simp] theorem afterPhase_rb (phase : Nat) (s : State) : (afterPhase phase s).rb = s.rb := by simp [afterPhase]

@[simp] theorem clearFences_rb (s : State) : (clearFences s).rb = s.rb := by simp [clearFences]

@[simp] theorem storeVerdict_count (storeOk : Bool) (s : State) :
    (storeVerdict storeOk s).rb.count = s.rb.count := by simp [storeVerdict]

@[simp] theorem execSweepPhaseComplete_keepsCount (t : Nat) (res margin : TestResults) (storeOk : Bool) (s : State) :
    KeepsCount (execSweepPhaseComplete t res storeOk s margin) s.rb := by
  simp only [execSweepPhaseComplete]; (repeat' split) <;> simp

@[simp] theorem execScanEnable_keepsCount (t : Nat) (ext : Bool) (tap : Fin 5) (shift : Nat) (isolated : Bool)
    (s : State) :
    KeepsCount (execScanEnable t ext tap shift isolated s) s.rb := by
  simp only [execScanEnable]; (repeat' split) <;> simp

@[simp] theorem execSweepReport_keepsCount (t : Nat) (ext : Bool) (s : State) :
    KeepsCount (execSweepReport t ext s) s.rb := by
  simp only [execSweepReport]; split <;> simp

/-! ### The collective engine and the ports -/

@[simp] theorem tellAll_rb (g code : Nat) (c : Collective) (extra : List Byte) (s : State) :
    (tellAll g code c extra s).rb = s.rb := by simp [tellAll]

@[simp] theorem abortHere_count (g cseq cause : Nat) (s : State) :
    (abortHere g cseq cause s).rb.count = s.rb.count := by
  simp only [abortHere]; split <;> simp

@[simp] theorem badCollective_count (g : Nat) (c : Collective) (s : State) :
    (badCollective g c s).rb.count = s.rb.count := by simp [badCollective]

@[simp] theorem judgeFetched_count (q i : Nat) (s : State) : (judgeFetched q i s).rb.count = s.rb.count := by
  simp only [judgeFetched]; (repeat' split) <;> simp

@[simp] theorem execDescriptorFetch_keepsCount (t : Nat) (queue : Fin 4096) (s : State) :
    KeepsCount (execDescriptorFetch t queue s) s.rb := by simp [execDescriptorFetch]

@[simp] theorem writePads_rb (g : Nat) (c : Collective) (s : State) :
    (writePads g c s).rb = s.rb := by simp [writePads]

@[simp] theorem checkDone_count (g cseq : Nat) (s : State) : (checkDone g cseq s).rb.count = s.rb.count := by
  simp only [checkDone]; split <;> simp

@[simp] theorem checkLocal_count (g cseq : Nat) (s : State) : (checkLocal g cseq s).rb.count = s.rb.count := by
  simp only [checkLocal]; split <;> simp

@[simp] theorem sendWindow_rb (g cseq : Nat) (s : State) : (sendWindow g cseq s).rb = s.rb := by
  simp only [sendWindow]; split <;> simp

@[simp] theorem adderCheck_rb (g n : Nat) (s : State) : (adderCheck g n s).2.rb = s.rb := by
  simp only [adderCheck]; split <;> simp [takeFree]

@[simp] theorem combineSegment_count (g cseq slot seg : Nat) (s : State) :
    (combineSegment g cseq slot seg s).rb.count = s.rb.count := by
  simp only [combineSegment]; (repeat' split) <;> simp

@[simp] theorem advanceWindow_rb (g cseq : Nat) (s : State) : (advanceWindow g cseq s).rb = s.rb := by
  simp only [advanceWindow]; (repeat' split) <;> simp

@[simp] theorem takeContribution_count (g cseq : Nat) (x : Contribution) (s : State) :
    (takeContribution g cseq x s).rb.count = s.rb.count := by
  simp only [takeContribution]; split <;> simp

@[simp] theorem sendStream_count (g cseq d : Nat) (s : State) : (sendStream g cseq d s).rb.count = s.rb.count := by
  simp only [sendStream]; split <;> simp

@[simp] theorem sendEntry_count (g cseq : Nat) (e : AddEntry) (s : State) :
    (sendEntry g cseq e s).rb.count = s.rb.count := by
  simp only [sendEntry]; split <;> simp

@[simp] theorem sendEntries_count (g cseq : Nat) (s : State) : (sendEntries g cseq s).rb.count = s.rb.count := by
  simp only [sendEntries]; split
  · rfl
  · simp only [checkLocal_count]; exact forEach_count _ _ _ fun a u => by (repeat' split) <;> simp

@[simp] theorem firstGrants_rb (g cseq : Nat) (s : State) : (firstGrants g cseq s).rb = s.rb := by
  simp only [firstGrants]; exact forEach_rb _ _ _ fun a u => by split <;> simp

@[simp] theorem ownPart_rb (g : Nat) (c : Collective) (s : State) : (ownPart g c s).rb = s.rb := by simp [ownPart]

@[simp] theorem takeAlley_count (g cseq : Nat) (x : InSlab) (s : State) :
    (takeAlley g cseq x s).rb.count = s.rb.count := by
  simp only [takeAlley]; split <;> simp

@[simp] theorem runCollective_count (g : Nat) (c : Collective) (s : State) :
    (runCollective g c s).rb.count = s.rb.count := by simp [runCollective]

@[simp] theorem startCollective_count (op t g : Nat) (s : State) :
    (startCollective op t g s).rb.count = s.rb.count := by
  have h := admitNext_count (groupAt (clockTo t s) g).queue fenceSet (clockTo t s)
  simp only [startCollective]; (repeat' split) <;> simp_all

@[simp] theorem execExchange_keepsCount (t group : Nat) (s : State) :
    KeepsCount (execExchange t group s) s.rb := by simp [execExchange]

@[simp] theorem execExchangeV_keepsCount (t group : Nat) (s : State) :
    KeepsCount (execExchangeV t group s) s.rb := by simp [execExchangeV]

@[simp] theorem execExchangeAdd_keepsCount (t group : Nat) (s : State) :
    KeepsCount (execExchangeAdd t group s) s.rb := by simp [execExchangeAdd]

@[simp] theorem takeEnd_count (g cseq rank pos : Nat) (data : List Byte) (s : State) :
    (takeEnd g cseq rank pos data s).rb.count = s.rb.count := by
  simp only [takeEnd]; split <;> simp

@[simp] theorem takeStream_rb (g cseq rank pos : Nat) (data : List Byte) (s : State) :
    (takeStream g cseq rank pos data s).rb = s.rb := by
  simp only [takeStream]; split <;> simp

@[simp] theorem receiveColl_count (x : Slab) (s : State) : (receiveColl x s).rb.count = s.rb.count := by
  simp only [receiveColl]; (repeat' split) <;> simp

@[simp] theorem receiveAlley_count (x : Slab) (s : State) : (receiveAlley x s).rb.count = s.rb.count := by
  simp only [receiveAlley]; (repeat' split) <;> simp

@[simp] theorem receiveControl_rb (x : Slab) (s : State) : (receiveControl x s).rb = s.rb := by simp [receiveControl]

@[simp] theorem grantPlace_rb (g cseq : Nat) (s : State) : (grantPlace g cseq s).rb = s.rb := by
  simp only [grantPlace]; (repeat' split) <;> simp

@[simp] theorem execHamperPlaceFreed_keepsCount (t group : Nat) (s : State) :
    KeepsCount (execHamperPlaceFreed t group s) s.rb := by
  simp only [execHamperPlaceFreed]; (repeat' split) <;> simp

theorem takeMessage_rb (code : Nat) (s u : State) (m : EngineMsg) (h : takeMessage code s = some (m, u)) :
    u.rb = s.rb := by
  simp only [takeMessage] at h
  (repeat' split at h) <;> simp at h
  obtain ⟨-, rfl⟩ := h; simp

@[simp] theorem armHelloTo_rb (g dest : Nat) (s : State) : (armHelloTo g dest s).rb = s.rb := by simp [armHelloTo]

@[simp] theorem execArmHelloTimer_keepsCount (t group : Nat) (s : State) :
    KeepsCount (execArmHelloTimer t group s) s.rb := by
  simp only [execArmHelloTimer]; split <;> simp

@[simp] theorem checkArmed_rb (g : Nat) (s : State) : (checkArmed g s).rb = s.rb := by simp [checkArmed]

@[simp] theorem execArmHello_keepsCount (t : Nat) (s : State) : KeepsCount (execArmHello t s) s.rb := by
  simp only [execArmHello]; split
  · simp
  · rename_i h; have k := takeMessage_rb _ _ _ _ h; (repeat' split) <;> simp [k]

@[simp] theorem execArmTimeout_keepsCount (t group : Nat) (s : State) :
    KeepsCount (execArmTimeout t group s) s.rb := by
  simp only [execArmTimeout]; split <;> simp

@[simp] theorem execFinished_keepsCount (t : Nat) (s : State) : KeepsCount (execFinished t s) s.rb := by
  simp only [execFinished]; split
  · simp
  · rename_i h; have k := takeMessage_rb _ _ _ _ h; (repeat' split) <;> simp [k]

@[simp] theorem execProgress_keepsCount (t : Nat) (s : State) : KeepsCount (execProgress t s) s.rb := by
  simp only [execProgress]; split
  · simp
  · rename_i h; have k := takeMessage_rb _ _ _ _ h; (repeat' split) <;> simp [k]

@[simp] theorem resendStream_rb (g cseq d n : Nat) (s : State) : (resendStream g cseq d n s).rb = s.rb := by
  simp only [resendStream]; split <;> simp

@[simp] theorem execGrant_keepsCount (t : Nat) (s : State) : KeepsCount (execGrant t s) s.rb := by
  simp only [execGrant]; split
  · simp
  · rename_i h; have k := takeMessage_rb _ _ _ _ h; (repeat' split) <;> simp [k]

@[simp] theorem execWindow_keepsCount (t : Nat) (s : State) : KeepsCount (execWindow t s) s.rb := by
  simp only [execWindow]; split
  · simp
  · rename_i h; have k := takeMessage_rb _ _ _ _ h; (repeat' split) <;> simp [k]

@[simp] theorem execAbort_keepsCount (t : Nat) (s : State) : KeepsCount (execAbort t s) s.rb := by
  simp only [execAbort]; split
  · simp
  · rename_i h; have k := takeMessage_rb _ _ _ _ h; (repeat' split) <;> simp [k]

@[simp] theorem execReform_keepsCount (t : Nat) (s : State) : KeepsCount (execReform t s) s.rb := by
  simp only [execReform]; split
  · simp
  · rename_i h; have k := takeMessage_rb _ _ _ _ h; (repeat' split) <;> simp [k]

@[simp] theorem lenderLost_count (addr : Nat) (s : State) : (lenderLost addr s).rb.count = s.rb.count := by
  simp only [lenderLost]; split <;> simp

@[simp] theorem execLeave_keepsCount (t : Nat) (s : State) : KeepsCount (execLeave t s) s.rb := by
  simp only [execLeave]; split
  · simp
  · rename_i h; have k := takeMessage_rb _ _ _ _ h; (repeat' split) <;> simp [k]

@[simp] theorem execProgressTimer_keepsCount (t group : Nat) (s : State) :
    KeepsCount (execProgressTimer t group s) s.rb := by
  simp only [execProgressTimer]; (repeat' split) <;> simp

@[simp] theorem execWatchdogExpire_keepsCount (t group : Nat) (s : State) :
    KeepsCount (execWatchdogExpire t group s) s.rb := by
  simp only [execWatchdogExpire]; (repeat' split) <;> simp

@[simp] theorem execReformResend_keepsCount (t group : Nat) (s : State) :
    KeepsCount (execReformResend t group s) s.rb := by
  simp only [execReformResend]; split <;> simp

@[simp] theorem execReformTimeout_keepsCount (t group : Nat) (s : State) :
    KeepsCount (execReformTimeout t group s) s.rb := by
  simp only [execReformTimeout]; split <;> simp

@[simp] theorem countPort_rb (p sub n : Nat) (s : State) : (countPort p sub n s).rb = s.rb := by simp [countPort]

@[simp] theorem transmit_rb (p seq : Nat) (x : Slab) (s : State) :
    (transmit p seq x s).rb = s.rb := by simp [transmit]

@[simp] theorem sendNew_rb (p vc : Nat) (s : State) : (sendNew p vc s).rb = s.rb := by
  simp only [sendNew]; split <;> simp

@[simp] theorem sendAgain_rb (p seq : Nat) (s : State) : (sendAgain p seq s).rb = s.rb := by
  simp only [sendAgain]; split <;> simp

@[simp] theorem sendLink_rb (p : Nat) (s : State) : (sendLink p s).rb = s.rb := by
  simp only [sendLink]; split <;> simp

@[simp] theorem sendIdle_rb (p : Nat) (s : State) : (sendIdle p s).rb = s.rb := by simp [sendIdle]

@[simp] theorem noteStall_rb (p : Nat) (s : State) : (noteStall p s).rb = s.rb := by simp [noteStall]

@[simp] theorem sendUp_rb (p : Nat) (s : State) : (sendUp p s).rb = s.rb := by
  simp only [sendUp]; (repeat' split) <;> simp

@[simp] theorem execSlabSend_keepsCount (t : Nat) (port : Fin 16) (s : State) :
    KeepsCount (execSlabSend t port s) s.rb := by
  simp only [execSlabSend]; (repeat' split) <;> simp

@[simp] theorem reroute_rb (p : Nat) (s : State) : (reroute p s).rb = s.rb := by simp [reroute]

@[simp] theorem portChange_rb (p cause : Nat) (s : State) : (portChange p cause s).rb = s.rb := by simp [portChange]

@[simp] theorem failPort_count (p : Nat) (s : State) : (failPort p s).rb.count = s.rb.count := by simp [failPort]

@[simp] theorem leavePort_count (p : Nat) (s : State) : (leavePort p s).rb.count = s.rb.count := by
  simp only [leavePort]; split <;> simp

@[simp] theorem detourWaiting_rb (p : Nat) (s : State) : (detourWaiting p s).rb = s.rb := by simp [detourWaiting]

@[simp] theorem beginRetrain_count (p : Nat) (ask : Bool) (s : State) :
    (beginRetrain p ask s).rb.count = s.rb.count := by simp [beginRetrain]

@[simp] theorem startReplay_count (p : Nat) (from_ : Option Nat) (s : State) :
    (startReplay p from_ s).rb.count = s.rb.count := by simp [startReplay]

@[simp] theorem execAckTimeout_keepsCount (t : Nat) (port : Fin 16) (s : State) :
    KeepsCount (execAckTimeout t port s) s.rb := by
  simp only [execAckTimeout]; (repeat' split) <;> simp

@[simp] theorem execReplayBudgetExpire_keepsCount (t : Nat) (port : Fin 16) (s : State) :
    KeepsCount (execReplayBudgetExpire t port s) s.rb := by
  simp only [execReplayBudgetExpire]; (repeat' split) <;> simp

@[simp] theorem execFecLockLoss_keepsCount (t : Nat) (port : Fin 16) (s : State) :
    KeepsCount (execFecLockLoss t port s) s.rb := by
  simp only [execFecLockLoss]; split <;> simp

@[simp] theorem execWidth8AttemptExpire_keepsCount (t : Nat) (port : Fin 16) (s : State) :
    KeepsCount (execWidth8AttemptExpire t port s) s.rb := by
  simp only [execWidth8AttemptExpire]; split <;> simp

@[simp] theorem beginExchange_rb (p width : Nat) (s : State) :
    (beginExchange p width s).rb = s.rb := by simp [beginExchange]

@[simp] theorem execRetrainComplete_keepsCount (t : Nat) (port : Fin 16) (width : Nat) (s : State) :
    KeepsCount (execRetrainComplete t port width s) s.rb := by
  simp only [execRetrainComplete]; (repeat' split) <;> simp

@[simp] theorem execRetrainTimeout_keepsCount (t : Nat) (port : Fin 16) (s : State) :
    KeepsCount (execRetrainTimeout t port s) s.rb := by
  simp only [execRetrainTimeout]; split <;> simp

@[simp] theorem execPortInfoRepeat_keepsCount (t : Nat) (port : Fin 16) (s : State) :
    KeepsCount (execPortInfoRepeat t port s) s.rb := by
  simp only [execPortInfoRepeat]; split <;> simp

@[simp] theorem startTraining_rb (p : Nat) (s : State) : (startTraining p s).rb = s.rb := by simp [startTraining]

@[simp] theorem execFailedPortRetry_keepsCount (t : Nat) (port : Fin 16) (s : State) :
    KeepsCount (execFailedPortRetry t port s) s.rb := by
  simp only [execFailedPortRetry]; (repeat' split) <;> simp

@[simp] theorem execPortTrainStart_keepsCount (t : Nat) (port : Fin 16) (s : State) :
    KeepsCount (execPortTrainStart t port s) s.rb := by
  simp only [execPortTrainStart]; split <;> simp

@[simp] theorem execPortLanesTrained_keepsCount (t : Nat) (port : Fin 16) (width : Nat) (s : State) :
    KeepsCount (execPortLanesTrained t port width s) s.rb := by
  simp only [execPortLanesTrained]; split <;> simp

@[simp] theorem execPortTrainTimeout_keepsCount (t : Nat) (port : Fin 16) (s : State) :
    KeepsCount (execPortTrainTimeout t port s) s.rb := by
  simp only [execPortTrainTimeout]; split <;> simp

@[simp] theorem execLanesSilent_keepsCount (t : Nat) (port : Fin 16) (s : State) :
    KeepsCount (execLanesSilent t port s) s.rb := by
  simp only [execLanesSilent]; split <;> simp

@[simp] theorem execCablePresenceChange_keepsCount (t : Nat) (port : Fin 16) (present : Bool) (s : State) :
    KeepsCount (execCablePresenceChange t port present s) s.rb := by
  simp only [execCablePresenceChange]; (repeat' split) <;> simp

@[simp] theorem trainPorts_rb (s : State) : (trainPorts s).rb = s.rb := by simp [trainPorts]

@[simp] theorem applyAck_rb (p ack : Nat) (s : State) : (applyAck p ack s).rb = s.rb := by
  simp only [applyAck]; split <;> simp

@[simp] theorem applyCredit_rb (p vc n : Nat) (s : State) : (applyCredit p vc n s).rb = s.rb := by simp [applyCredit]

@[simp] theorem portUp_rb (p : Nat) (info : List Byte) (s : State) : (portUp p info s).rb = s.rb := by simp [portUp]

@[simp] theorem takePortInfo_rb (p : Nat) (info : List Byte) (s : State) :
    (takePortInfo p info s).rb = s.rb := by simp [takePortInfo]

@[simp] theorem takeLink_count (p : Nat) (x : Slab) (s : State) : (takeLink p x s).rb.count = s.rb.count := by
  simp only [takeLink]; split <;> simp

@[simp] theorem sendNak_rb (p : Nat) (s : State) : (sendNak p s).rb = s.rb := by simp [sendNak]

@[simp] theorem noteNotice_rb (x : Slab) (s : State) : (noteNotice x s).rb = s.rb := by simp [noteNotice]

@[simp] theorem silencePartner_count (addr : Nat) (s : State) : (silencePartner addr s).rb.count = s.rb.count := by
  simp only [silencePartner]; exact forEach_count _ _ _ fun a u => by (repeat' split) <;> simp

@[simp] theorem takeNotice_count (x : Slab) (s : State) :
    (takeNotice x s).rb.count = s.rb.count := by simp [takeNotice]

@[simp] theorem consume_count (x : Slab) (s : State) : (consume x s).rb.count = s.rb.count := by simp [consume]

@[simp] theorem toSwitch_count (x : Slab) (s : State) : (toSwitch x s).rb.count = s.rb.count := by simp [toSwitch]

@[simp] theorem dropSlab_count (x : Slab) (s : State) : (dropSlab x s).rb.count = s.rb.count := by simp [dropSlab]

@[simp] theorem forwardTouch_rb (x : Slab) (s : State) : (forwardTouch x s).rb = s.rb := by simp [forwardTouch]

@[simp] theorem forwardSlab_count (x : Slab) (s : State) : (forwardSlab x s).rb.count = s.rb.count := by
  simp only [forwardSlab]; (repeat' split) <;> simp

@[simp] theorem execSlabForward_keepsCount (t : Nat) (s : State) : KeepsCount (execSlabForward t s) s.rb := by
  simp only [execSlabForward]; (repeat' split) <;> simp

@[simp] theorem noteInjection_rb (p : Nat) (s : State) : (noteInjection p s).rb = s.rb := by simp [noteInjection]

@[simp] theorem releaseHeld_count (p : Nat) (s : State) : (releaseHeld p s).rb.count = s.rb.count := by
  simp only [releaseHeld]; split <;> simp

@[simp] theorem passAccepted_count (p : Nat) (hold : Bool) (x : Slab) (s : State) :
    (passAccepted p hold x s).rb.count = s.rb.count := by
  simp only [passAccepted]; split <;> simp

@[simp] theorem execInjectorTrigger_keepsCount (t : Nat) (port : Fin 16) (s : State) :
    KeepsCount (execInjectorTrigger t port s) s.rb := by
  simp only [execInjectorTrigger]; split <;> simp

@[simp] theorem execReorderHoldExpire_keepsCount (t : Nat) (port : Fin 16) (s : State) :
    KeepsCount (execReorderHoldExpire t port s) s.rb := by
  simp only [execReorderHoldExpire]; split <;> simp

@[simp] theorem takeSequenced_count (p : Nat) (bs : List Byte) (pass hold : Bool) (s : State) :
    (takeSequenced p bs pass hold s).rb.count = s.rb.count := by simp [takeSequenced]

@[simp] theorem linkReceive_count (p : Nat) (bs : List Byte) (fecOk pass hold : Bool) (s : State) :
    (linkReceive p bs fecOk pass hold s).rb.count = s.rb.count := by simp [linkReceive]

@[simp] theorem execSlabReceive_keepsCount (t : Nat) (port : Fin 16) (bytes : List Byte)
    (corrected uncorrectable : Nat) (s : State) :
    KeepsCount (execSlabReceive t port bytes corrected uncorrectable s) s.rb := by
  simp only [execSlabReceive]; (repeat' split) <;> simp

/-! ### Life states, the drop sequences, records, the boundary and the start of host work -/

@[simp] theorem execEarlyNChange_keepsCount (t : Nat) (asserted : Bool) (s : State) :
    KeepsCount (execEarlyNChange t asserted s) s.rb := by simp [execEarlyNChange]

@[simp] theorem execPrsntNChange_keepsCount (t : Nat) (asserted : Bool) (s : State) :
    KeepsCount (execPrsntNChange t asserted s) s.rb := by simp [execPrsntNChange]

@[simp] theorem execStartQualified_keepsCount (t : Nat) (s : State) : KeepsCount (execStartQualified t s) s.rb := by
  simp only [execStartQualified]; split <;> simp

@[simp] theorem acceptDeparture_count (code : Nat) (s : State) :
    (acceptDeparture code s).rb.count = s.rb.count := by simp [acceptDeparture]

@[simp] theorem clearDeparture_count (s : State) :
    (clearDeparture s).rb.count = s.rb.count := by simp [clearDeparture]

@[simp] theorem requestDeparture_count (code : Nat) (s : State) :
    (requestDeparture code s).rb.count = s.rb.count := by
  simp only [requestDeparture]; (repeat' split) <;> simp

@[simp] theorem cancelDeparture_count (s : State) :
    (cancelDeparture s).rb.count = s.rb.count := by simp [cancelDeparture]

@[simp] theorem execLatchOpen_keepsCount (t : Nat) (s : State) : KeepsCount (execLatchOpen t s) s.rb := by
  simp only [execLatchOpen]; split <;> simp

@[simp] theorem execLatchClose_keepsCount (t : Nat) (s : State) :
    KeepsCount (execLatchClose t s) s.rb := by simp [execLatchClose]

@[simp] theorem execPrechargeComplete_keepsCount (t : Nat) (s : State) :
    KeepsCount (execPrechargeComplete t s) s.rb := by
  simp only [execPrechargeComplete]; split <;> simp

@[simp] theorem flushLaunches_count (s : State) : (flushLaunches s).rb.count = s.rb.count := by simp [flushLaunches]

@[simp] theorem execDepartInstant_keepsCount (t : Nat) (s : State) : KeepsCount (execDepartInstant t s) s.rb := by
  simp only [execDepartInstant]; split <;> simp

@[simp] theorem leaveGroups_count (s : State) : (leaveGroups s).rb.count = s.rb.count := by simp [leaveGroups]

@[simp] theorem leaveAfterDrain_count (s : State) :
    (leaveAfterDrain s).rb.count = s.rb.count := by simp [leaveAfterDrain]

@[simp] theorem execDrainComplete_keepsCount (t : Nat) (s : State) : KeepsCount (execDrainComplete t s) s.rb := by
  simp only [execDrainComplete]; split <;> simp

@[simp] theorem execDrainTimeout_keepsCount (t : Nat) (s : State) : KeepsCount (execDrainTimeout t s) s.rb := by
  simp only [execDrainTimeout]; split <;> simp

@[simp] theorem loadTiles_rb (s : State) : (loadTiles s).rb = s.rb := by simp [loadTiles]

@[simp] theorem enterVerdict_rb (s : State) : (enterVerdict s).rb = s.rb := by simp [enterVerdict]

@[simp] theorem execStationFwVerified_keepsCount (t : Nat) (aOk bOk : Bool) (s : State) :
    KeepsCount (execStationFwVerified t s aOk bOk) s.rb := by
  simp only [execStationFwVerified]; (repeat' split) <;> simp

@[simp] theorem clearTestedFences_rb (f : Findings) (cores : List Nat) (s : State) :
    (clearTestedFences f cores s).rb = s.rb := by simp [clearTestedFences]

@[simp] theorem decideTiles_rb (f : Findings) (s : State) : (decideTiles f s).rb = s.rb := by simp [decideTiles]

@[simp] theorem decideMemory_rb (f : Findings) (s : State) : (decideMemory f s).rb = s.rb := by simp [decideMemory]

@[simp] theorem decideArrays_rb (f : Findings) (s : State) : (decideArrays f s).rb = s.rb := by simp [decideArrays]

@[simp] theorem execVerdictComplete_keepsCount (t : Nat) (res : TestResults) (s : State) :
    KeepsCount (execVerdictComplete t res s) s.rb := by
  simp only [execVerdictComplete]; (repeat' split) <;> simp

@[simp] theorem execTrainingComplete_keepsCount (t : Nat) (s : State) :
    KeepsCount (execTrainingComplete t s) s.rb := by
  simp only [execTrainingComplete]; split <;> simp

@[simp] theorem execResetHoldEnd_keepsCount (t : Nat) (s : State) : KeepsCount (execResetHoldEnd t s) s.rb := by
  simp only [execResetHoldEnd]; (repeat' split) <;> simp

@[simp] theorem execFullResetRequest_keepsCount (t : Nat) (s : State) :
    KeepsCount (execFullResetRequest t s) s.rb := by simp [execFullResetRequest]

@[simp] theorem execPerstAssert_keepsCount (t heldNs : Nat) (s : State) :
    KeepsCount (execPerstAssert t heldNs s) s.rb := by
  simp only [execPerstAssert]; split <;> simp

@[simp] theorem execPerstDeassert_keepsCount (t : Nat) (s : State) : KeepsCount (execPerstDeassert t s) s.rb := by
  simp only [execPerstDeassert]; split <;> simp

@[simp] theorem execHostLinkDown_keepsCount (t : Nat) (s : State) : KeepsCount (execHostLinkDown t s) s.rb := by
  simp only [execHostLinkDown]; split <;> simp

@[simp] theorem execHotReset_keepsCount (t : Nat) (s : State) : KeepsCount (execHotReset t s) s.rb := by
  simp only [execHotReset]; split <;> simp

@[simp] theorem execHotResetExit_keepsCount (t : Nat) (s : State) :
    KeepsCount (execHotResetExit t s) s.rb := by simp [execHotResetExit]

@[simp] theorem execResetBtnPress_keepsCount (t : Nat) (s : State) : KeepsCount (execResetBtnPress t s) s.rb := by
  simp only [execResetBtnPress]; (repeat' split) <;> simp

@[simp] theorem longPress_rb (s : State) (began : LifeState) : (longPress s began).rb = s.rb := by
  simp only [longPress]; (repeat' split) <;> simp

@[simp] theorem execResetBtnHold_keepsCount (t : Nat) (s : State) : KeepsCount (execResetBtnHold t s) s.rb := by
  simp only [execResetBtnHold]; (repeat' split) <;> simp

@[simp] theorem endPress_rb (began : LifeState) (len : Nat) (s : State) :
    (endPress began len s).rb = s.rb := by simp [endPress]

@[simp] theorem execResetBtnRelease_keepsCount (t : Nat) (s : State) : KeepsCount (execResetBtnRelease t s) s.rb := by
  simp only [execResetBtnRelease]; (repeat' split) <;> simp

@[simp] theorem execResetStuck_keepsCount (t : Nat) (s : State) : KeepsCount (execResetStuck t s) s.rb := by
  simp only [execResetStuck]; (repeat' split) <;> simp

@[simp] theorem execResetStuckClear_keepsCount (t : Nat) (s : State) : KeepsCount (execResetStuckClear t s) s.rb := by
  simp only [execResetStuckClear]; split <;> simp

@[simp] theorem freezeRecords_rb (s : State) : (freezeRecords s).rb = s.rb := by simp [freezeRecords]

@[simp] theorem beginDrop_count (c : DropCause) (s : State) :
    (beginDrop c s).rb.count = s.rb.count := by simp [beginDrop]

@[simp] theorem recordDrop_rb (c : DropCause) (s : State) : (recordDrop c s).rb = s.rb := by simp [recordDrop]

@[simp] theorem secondCause_rb (c : DropCause) (d : DropSeq) (s : State) :
    (secondCause c d s).rb = s.rb := by simp [secondCause]

@[simp] theorem declareDrop_count (c : DropCause) (s : State) : (declareDrop c s).rb.count = s.rb.count := by
  simp only [declareDrop]; split <;> simp

@[simp] theorem execCurfewDeclare_keepsCount (t : Nat) (s : State) : KeepsCount (execCurfewDeclare t s) s.rb := by
  simp only [execCurfewDeclare]; split <;> simp

@[simp] theorem execRemovalDropBegin_keepsCount (t : Nat) (s : State) :
    KeepsCount (execRemovalDropBegin t s) s.rb := by
  simp only [execRemovalDropBegin]; split <;> simp

@[simp] theorem dropEvent_count (n t : Nat) (f : DropSeq → State → State) (s : State)
    (h : ∀ d u, (f d u).rb.count = u.rb.count) : (dropEvent n t f s).rb.count = s.rb.count := by
  simp only [dropEvent]; (repeat' split) <;> simp [h]

@[simp] theorem execCurfewDepartureNotice_keepsCount (t : Nat) (s : State) :
    KeepsCount (execCurfewDepartureNotice t s) s.rb := by simp [execCurfewDepartureNotice]

@[simp] theorem execCurfewHalt_keepsCount (t : Nat) (s : State) :
    KeepsCount (execCurfewHalt t s) s.rb := by simp [execCurfewHalt]

@[simp] theorem execCurfewLogStart_keepsCount (t : Nat) (s : State) :
    KeepsCount (execCurfewLogStart t s) s.rb := by simp [execCurfewLogStart]

@[simp] theorem execCoreRailsOff_keepsCount (t : Nat) (s : State) :
    KeepsCount (execCoreRailsOff t s) s.rb := by simp [execCoreRailsOff]

@[simp] theorem execHbmOff_keepsCount (t : Nat) (s : State) : KeepsCount (execHbmOff t s) s.rb := by simp [execHbmOff]

@[simp] theorem execCellarFabricOff_keepsCount (t : Nat) (s : State) :
    KeepsCount (execCellarFabricOff t s) s.rb := by simp [execCellarFabricOff]

@[simp] theorem execCurfewSwitchOpen_keepsCount (t : Nat) (s : State) :
    KeepsCount (execCurfewSwitchOpen t s) s.rb := by simp [execCurfewSwitchOpen]

@[simp] theorem appendLogs_rb (rs : List LogRecord) (s : State) : (appendLogs rs s).rb = s.rb := by simp [appendLogs]

@[simp] theorem commitBuffer_rb (s : State) : (commitBuffer s).rb = s.rb := by simp [commitBuffer]

@[simp] theorem execEventLogComplete_keepsCount (t : Nat) (s : State) :
    KeepsCount (execEventLogComplete t s) s.rb := by simp [execEventLogComplete]

@[simp] theorem noteOverrun_rb (s : State) : (noteOverrun s).rb = s.rb := by simp [noteOverrun]

@[simp] theorem execLogCommit_keepsCount (t : Nat) (storeOk : Bool) (s : State) :
    KeepsCount (execLogCommit t storeOk s) s.rb := by
  simp only [execLogCommit]; (repeat' split) <;> simp

@[simp] theorem execRepeatWindowEnd_keepsCount (t cause unitType unit : Nat) (s : State) :
    KeepsCount (execRepeatWindowEnd t cause unitType unit s) s.rb := by
  simp only [execRepeatWindowEnd]; (repeat' split) <;> simp

@[simp] theorem endStarted_count (cause : Nat) (s : State) : (endStarted cause s).rb.count = s.rb.count := by
  simp only [endStarted]; split <;> simp

@[simp] theorem sledFatal_count (cause ut unit : Nat) (s : State) :
    (sledFatal cause ut unit s).rb.count = s.rb.count := by simp [sledFatal]

@[simp] theorem execStationWatchdogExpire_keepsCount (t : Nat) (core : Fin 4) (machineCheck : Bool) (s : State) :
    KeepsCount (execStationWatchdogExpire t core machineCheck s) s.rb := by
  simp only [execStationWatchdogExpire]; (repeat' split) <;> simp

@[simp] theorem execUnitWedged_keepsCount (t : Nat) (unit : WedgeUnit) (waitedNs : Nat) (s : State) :
    KeepsCount (execUnitWedged t unit waitedNs s) s.rb := by
  simp only [execUnitWedged]; split <;> simp

@[simp] theorem execBridgeFail_keepsCount (t : Nat) (s : State) : KeepsCount (execBridgeFail t s) s.rb := by
  simp only [execBridgeFail]; split <;> simp

@[simp] theorem sweepFloor_rb (s : State) : (sweepFloor s).rb = s.rb := by simp [sweepFloor]

@[simp] theorem startStep_rb (s : State) : (startStep s).rb = s.rb := by simp [startStep]

@[simp] theorem shutdownReset_count (s : State) : (shutdownReset s).rb.count = s.rb.count := by simp [shutdownReset]

@[simp] theorem descentStep_count (s : State) : (descentStep s).rb.count = s.rb.count := by
  simp only [descentStep]; split <;> simp

@[simp] theorem supplyStep_rb (s : State) : (supplyStep s).rb = s.rb := by simp [supplyStep]

@[simp] theorem fabSupply_rb (s : State) : (fabSupply s).rb = s.rb := by simp [fabSupply]

@[simp] theorem execHalfCycleBoundary_keepsCount (t : Nat) (s : State) :
    KeepsCount (execHalfCycleBoundary t s) s.rb := by
  simp only [execHalfCycleBoundary]; split
  · simp
  · simp; rfl

@[simp] theorem peerPages_rb (s : State) (is : List Nat) (need : Nat) : (peerPages s is need).2.rb = s.rb := by
  induction is generalizing s need with
  | nil => simp [peerPages]
  | cons i rest ih => simp only [peerPages]; split <;> simp [ih, takeFree]

theorem place_rb (s u : State) (h : List Byte) (y : Placement) (k : place s h = some (y, u)) : u.rb = s.rb := by
  simp only [place] at k
  split at k
  · simp at k
  · split at k
    · simp at k
    · simp at k; rw [← k.2]; exact peerPages_rb _ _ _

@[simp] theorem startProgram_rb (q : Nat) (d : Desc) (y : Placement) (s : State) :
    (startProgram q d y s).rb = s.rb := by simp [startProgram]

@[simp] theorem launch_count (q : Nat) (d : Desc) (s : State) : (launch q d s).rb.count = s.rb.count := by
  simp only [launch]; split
  · simp
  · split
    · simp
    · split
      · simp
      · rename_i h; simp [place_rb _ _ _ _ h]

@[simp] theorem signal_count (q : Nat) (d : Desc) (s : State) :
    (signal q d s).rb.count = s.rb.count := by simp [signal]

@[simp] theorem pollWait_count (q : Nat) (d : Desc) (s : State) :
    (pollWait q d s).rb.count = s.rb.count := by simp [pollWait]

@[simp] theorem wait_count (q : Nat) (d : Desc) (s : State) : (wait q d s).rb.count = s.rb.count := by simp [wait]

@[simp] theorem startHostWork_count (q : Nat) (d : Desc) (s : State) :
    (startHostWork q d s).rb.count = s.rb.count := by
  simp only [startHostWork]; split <;> simp

@[simp] theorem startNextHostWork_count (q : Nat) (s : State) : (startNextHostWork q s).rb.count = s.rb.count := by
  have h := admitNext_count q hostFence s
  simp only [startNextHostWork]; (repeat' split) <;> simp_all

@[simp] theorem startReserved_count (q : Nat) (s : State) : (startReserved q s).rb.count = s.rb.count := by
  have h := admitNext_count q fenceSet s
  simp only [startReserved]; (repeat' split) <;> simp_all

@[simp] theorem execDescriptorStart_keepsCount (t : Nat) (queue : Fin 4096) (s : State) :
    KeepsCount (execDescriptorStart t queue s) s.rb := by
  simp only [execDescriptorStart]; (repeat' split) <;> simp

@[simp] theorem execWaitPoll_keepsCount (t : Nat) (queue : Fin 4096) (index : Nat) (s : State) :
    KeepsCount (execWaitPoll t queue index s) s.rb := by
  simp only [execWaitPoll]; (repeat' split) <;> simp

@[simp] theorem execDescriptorComplete_keepsCount (t : Nat) (queue : Fin 4096) (index : Nat) (s : State) :
    KeepsCount (execDescriptorComplete t queue index s) s.rb := by
  simp only [execDescriptorComplete]; (repeat' split) <;> simp

/-! ### The dictionary and its transactions -/

@[simp] theorem afterRead_rb (idx sub : Nat) (s : State) : (afterRead idx sub s).rb = s.rb := by simp [afterRead]

@[simp] theorem armGroup_rb (g : Nat) (s : State) : (armGroup g s).rb = s.rb := by
  unfold armGroup; split
  · simp only [modGroup, modQueue]; rfl
  · rfl

@[simp] theorem dissolveGroup_count (g : Nat) (s : State) :
    (dissolveGroup g s).rb.count = s.rb.count := by simp [dissolveGroup]

@[simp] theorem releaseReform_count (g : Nat) (s : State) :
    (releaseReform g s).rb.count = s.rb.count := by simp [releaseReform]

@[simp] theorem groupEffect_count (g sub v : Nat) (s : State) :
    (groupEffect g sub v s).rb.count = s.rb.count := by simp [groupEffect]

@[simp] theorem writeTarget_count (v : Nat) (s : State) : (writeTarget v s).rb.count = s.rb.count := by
  simp only [writeTarget]; split <;> simp

@[simp] theorem writeDepart_count (v : Nat) (s : State) :
    (writeDepart v s).rb.count = s.rb.count := by simp [writeDepart]

@[simp] theorem writeOverride_rb (v : Nat) (s : State) : (writeOverride v s).rb = s.rb := by simp [writeOverride]

@[simp] theorem writePortEnable_count (p : Nat) (s : State) :
    (writePortEnable p s).rb.count = s.rb.count := by simp [writePortEnable]

@[simp] theorem writeInjArm_rb (p v : Nat) (s : State) : (writeInjArm p v s).rb = s.rb := by simp [writeInjArm]

@[simp] theorem writeLotCommand_count (l v : Nat) (s : State) :
    (writeLotCommand l v s).rb.count = s.rb.count := by simp [writeLotCommand]

@[simp] theorem restoreDefaults_rb (s : State) : (restoreDefaults s).rb = s.rb := by simp [restoreDefaults]

@[simp] theorem followNominal_count (s : State) : (followNominal s).rb.count = s.rb.count := by
  simp only [followNominal]; split <;> rfl

@[simp] theorem clearErrorLog_rb (s : State) : (clearErrorLog s).rb = s.rb := by simp [clearErrorLog]

@[simp] theorem writeEffect_count (idx sub v : Nat) (s : State) :
    (writeEffect idx sub v s).rb.count = s.rb.count := by
  simp only [writeEffect]; (repeat' split) <;> simp

@[simp] theorem writeNum_count (idx sub v : Nat) (s : State) : (writeNum idx sub v s).rb.count = s.rb.count := by
  simp only [writeNum]; split <;> simp

@[simp] theorem writeValue_count (e : Entry) (idx sub : Nat) (bs : List Byte) (s : State) :
    (writeValue e idx sub bs s).rb.count = s.rb.count := by simp [writeValue]

@[simp] theorem holdSnapshot_rb (a : Asker) (idx : Nat) (v : List Byte) (s : State) :
    (holdSnapshot a idx v s).rb = s.rb := by simp [holdSnapshot]

@[simp] theorem segmentSource_rb (a : Asker) (o : Op) (s : State) : (segmentSource a o s).2.rb = s.rb := by
  simp only [segmentSource]; (repeat' split) <;> simp

@[simp] theorem stage_rb (a : Asker) (o : Op) (s : State) : (stage a o s).rb = s.rb := by simp [stage]

@[simp] theorem applyOp_count (a : Asker) (txn : Nat) (o : Op) (s : State) :
    (applyOp a txn o s).2.rb.count = s.rb.count := by
  simp only [applyOp]; (repeat' split) <;> simp

theorem runOps_count (a : Asker) (txn i : Nat) (ops : List Op) (acc data : List (List Byte)) (sv sv' : Option Nat)
    (s u : State) (h : runOps a txn i ops acc sv s = .passed data sv' u) :
    u.rb.count = s.rb.count := by
  induction ops generalizing i acc sv s with
  | nil => simp [runOps] at h; simp [h.2.2]
  | cons o rest ih =>
    simp only [runOps] at h
    split at h
    · simp at h
    · have k := ih _ _ _ _ h; simpa using k

@[simp] theorem noteRefusedArm_rb (o : Op) (status : Nat) (s : State) :
    (noteRefusedArm o status s).rb = s.rb := by simp [noteRefusedArm]

@[simp] theorem endSlots_rb (slots : List Nat) (s : State) : (endSlots slots s).rb = s.rb := by simp [endSlots]

@[simp] theorem storeFails_rb (s : State) : (storeFails s).rb = s.rb := by simp [storeFails]

@[simp] theorem runRequest_count (a : Asker) (txn : Nat) (ops : List Op) (storeOk : Bool) (s : State) :
    (runRequest a txn ops storeOk s).2.rb.count = s.rb.count := by
  simp only [runRequest]
  split
  · simp
  · split
    · rename_i i _ _; cases ops[i]? <;> simp
    · rename_i h; have k := runOps_count _ _ _ _ _ _ _ _ _ _ h; (repeat' split) <;> simp [k]

@[simp] theorem serve_count (r : Request) (a : Asker) (txn : Nat) (ops : Option (List Op))
    (storeOk fresh dup : Bool) (s : State) :
    (serve r a txn ops storeOk fresh dup s).rb.count = s.rb.count := by
  have h := fun l => runRequest_count a txn l storeOk s
  simp only [serve]; (repeat' split) <;> simp_all

@[simp] theorem execute_count (r : Request) (storeOk : Bool) (s : State) :
    (execute r storeOk s).rb.count = s.rb.count := by
  simp only [execute]; (repeat' split) <;> simp

@[simp] theorem execTransactionExecute_keepsCount (t : Nat) (storeOk : Bool) (s : State) :
    KeepsCount (execTransactionExecute t storeOk s) s.rb := by
  simp only [execTransactionExecute]; (repeat' split) <;> simp

@[simp] theorem commitImage_rb (kind : Nat) (bs : List Byte) (s : State) :
    (commitImage kind bs s).rb = s.rb := by simp [commitImage]

@[simp] theorem storeSections_rb (xs : List (Nat × List Byte)) (s : State) :
    (storeSections xs s).rb = s.rb := by simp [storeSections]

theorem commitDomain_rb (key : Nat) (bs : List Byte) (s u : State) (h : commitDomain key bs s = some u) :
    u.rb = s.rb := by
  simp only [commitDomain] at h
  (repeat' split at h) <;> simp at h
  · subst h; simp
  · obtain ⟨xs, -, rfl⟩ := h; simp
  · subst h; simp
  · subst h; simp

@[simp] theorem finishCommit_rb (g : Staging) (txn : Nat) (storeOk : Bool) (s : State) :
    (finishCommit g txn storeOk s).rb = s.rb := by
  simp only [finishCommit]; split
  · simp
  · rename_i h; have k := commitDomain_rb _ _ _ _ h; (repeat' split) <;> simp [k]

@[simp] theorem execDomainVerifyDone_keepsCount (t : Nat) (storeOk : Bool) (s : State) :
    KeepsCount (execDomainVerifyDone t storeOk s) s.rb := by
  simp only [execDomainVerifyDone]; split
  · simp
  · split
    · simp
    · rename_i g _; cases g.verifying <;> simp

@[simp] theorem execStagingExpire_keepsCount (t : Nat) (s : State) : KeepsCount (execStagingExpire t s) s.rb := by
  simp only [execStagingExpire]; (repeat' split) <;> simp

@[simp] theorem mbClose_rb (s : State) : (mbClose s).rb = s.rb := by simp [mbClose]

@[simp] theorem mbOpen_rb (s : State) : (mbOpen s).rb = s.rb := by simp [mbOpen]

@[simp] theorem mbSubmit_rb (s : State) : (mbSubmit s).rb = s.rb := by simp [mbSubmit]

@[simp] theorem writeMbVector_rb (value : Nat) (s : State) :
    (writeMbVector value s).rb = s.rb := by simp [writeMbVector]

@[simp] theorem execMbClose_keepsCount (t : Nat) (s : State) :
    KeepsCount (execMbClose t s) s.rb := by simp [execMbClose]

@[simp] theorem execMbOpen_keepsCount (t : Nat) (s : State) : KeepsCount (execMbOpen t s) s.rb := by simp [execMbOpen]

@[simp] theorem execMbSubmit_keepsCount (t : Nat) (s : State) :
    KeepsCount (execMbSubmit t s) s.rb := by simp [execMbSubmit]

@[simp] theorem execMbVectorWrite_keepsCount (value : Half) (s : State) :
    KeepsCount (execMbVectorWrite value s) s.rb := by simp [execMbVectorWrite]

@[simp] theorem releasePending_rb (s : State) : (releasePending s).rb = s.rb := by
  simp only [releasePending]; split <;> simp

@[simp] theorem writeMsix_rb (o : Nat) (value : List Byte) (s : State) :
    (writeMsix o value s).rb = s.rb := by simp [writeMsix]

@[simp] theorem writeQcControl_count (q v : Nat) (s : State) :
    (writeQcControl q v s).rb.count = s.rb.count := by simp [writeQcControl]

@[simp] theorem writeQueueReg_count (q o : Nat) (value : List Byte) (s : State) :
    (writeQueueReg q o value s).rb.count = s.rb.count := by simp [writeQueueReg]

@[simp] theorem writeMbControl_rb (v : Nat) (s : State) : (writeMbControl v s).rb = s.rb := by simp [writeMbControl]

@[simp] theorem writeMailbox_rb (o : Nat) (value : List Byte) (s : State) :
    (writeMailbox o value s).rb = s.rb := by simp [writeMailbox]

@[simp] theorem writeWord0_count (o : Nat) (value : List Byte) (s : State) :
    (writeWord0 o value s).rb.count = s.rb.count := by simp [writeWord0]

@[simp] theorem writeWords0_count (n o : Nat) (bs : List Byte) (s : State) :
    (writeWords0 n o bs s).rb.count = s.rb.count := by
  induction n generalizing o bs s with
  | zero => simp [writeWords0]
  | succ n ih => simp only [writeWords0]; split <;> simp [ih]

@[simp] theorem writeDoorbell_rb (o : Nat) (value : List Byte) (s : State) :
    (writeDoorbell o value s).rb = s.rb := by simp [writeDoorbell]

@[simp] theorem execRegisterWrite_keepsCount (t : Nat) (bar4 : Bool) (offset : Nat) (value : List Byte) (s : State) :
    KeepsCount (execRegisterWrite t offset value s bar4) s.rb := by
  simp only [execRegisterWrite]; (repeat' split) <;> simp

@[simp] theorem hostReads_rb (bar4 : Bool) (offset length : Nat) (s : State) :
    (hostReads bar4 offset length s).rb = s.rb := by simp [hostReads]

@[simp] theorem configSet_rb (r : ConfigReg) (v : Nat) (s : State) :
    (configSet r v s).rb = s.rb := by simp [configSet]

@[simp] theorem configAccess_rb (r : ConfigReg) (write : Option Nat) (s : State) :
    (configAccess r write s).rb = s.rb := by
  simp only [configAccess]; (repeat' split) <;> simp

@[simp] theorem logAer_rb (uncorrectable : Bool) (b : Nat) (s : State) :
    (logAer uncorrectable b s).rb = s.rb := by simp [logAer]

@[simp] theorem modCore_rb (c : Nat) (f : StationCore → StationCore) (s : State) :
    (modCore c f s).rb = s.rb := by simp [modCore]

@[simp] theorem stationWrite_rb (c : Nat) (x : StationStore) (s : State) : (stationWrite c x s).rb = s.rb := by
  simp only [stationWrite]; split <;> simp

@[simp] theorem showEntry_rb (c : Nat) (x : Option StationStore) (s : State) : (showEntry c x s).rb = s.rb := by
  simp only [showEntry]; split <;> simp

@[simp] theorem drainAll_rb (c : Nat) (s : State) : (drainAll c s).rb = s.rb := by simp [drainAll]

@[simp] theorem storeFence_rb (c : Nat) (s : State) : (storeFence c s).rb = s.rb := by simp [storeFence]

@[simp] theorem stationDrain_rb (c n : Nat) (s : State) : (stationDrain c n s).rb = s.rb := by
  simp only [stationDrain]; split <;> simp

@[simp] theorem stationStore_rb (c : Nat) (p : StationPlace) (a : Nat) (bs : List Byte) (s : State) :
    (stationStore c p a bs s).rb = s.rb := by simp [stationStore]

@[simp] theorem stationLoad_rb (c : Nat) (p : StationPlace) (a n : Nat) (s : State) :
    (stationLoad c p a n s).rb = s.rb := by simp [stationLoad]

@[simp] theorem stationFence_rb (c : Nat) (predR predW succR succW tso : Bool) (s : State) :
    (stationFence c predR predW succR succW tso s).rb = s.rb := by simp [stationFence]

@[simp] theorem releaseBefore_rb (c : Nat) (p : StationPlace) (a n : Nat) (rl : Bool) (s : State) :
    (releaseBefore c p a n rl s).rb = s.rb := by simp [releaseBefore]

@[simp] theorem aroundAfter_rb (c : Nat) (aq rl : Bool) (s : State) :
    (aroundAfter c aq rl s).rb = s.rb := by simp [aroundAfter]

@[simp] theorem stationAmo_rb (c : Nat) (p : StationPlace) (a w : Nat) (op : AmoOp) (v : Nat) (aq rl : Bool)
    (s : State) :
    (stationAmo c p a w op v aq rl s).rb = s.rb := by simp [stationAmo]

@[simp] theorem stationLr_rb (c : Nat) (p : StationPlace) (a w : Nat) (aq rl : Bool) (s : State) :
    (stationLr c p a w aq rl s).rb = s.rb := by simp [stationLr]

@[simp] theorem stationSc_rb (c : Nat) (p : StationPlace) (a w v : Nat) (aq rl : Bool) (s : State) :
    (stationSc c p a w v aq rl s).rb = s.rb := by simp [stationSc]

@[simp] theorem loadCheckpoint_count (second : Bool) (cycle phase : Nat) (s : State) :
    (loadCheckpoint second cycle phase s).rb.count = s.rb.count := by simp [loadCheckpoint]

@[simp] theorem lotMemory_rb (l m : Nat) (second : Bool) (word : Nat) (write : Option Nat) (s : State) :
    (lotMemory l m second word write s).rb = s.rb := by
  simp only [lotMemory]; (repeat' split) <;> simp

@[simp] theorem linkOffer_count (c : Nat) (words : List Nat) (s : State) :
    (linkOffer c words s).rb.count = s.rb.count := by simp [linkOffer]

@[simp] theorem linkTake_rb (c n : Nat) (s : State) : (linkTake c n s).rb = s.rb := by simp [linkTake]

@[simp] theorem linkMove_rb (c : Nat) (s : State) : (linkMove c s).rb = s.rb := by
  simp only [linkMove]; split <;> simp

@[simp] theorem modLane_rb (b j : Nat) (f : Lane → Lane) (s : State) :
    (modLane b j f s).rb = s.rb := by simp [modLane]

@[simp] theorem laneReceive_rb (b j w : Nat) (s : State) : (laneReceive b j w s).rb = s.rb := by simp [laneReceive]

@[simp] theorem laneTake_rb (b j n : Nat) (s : State) : (laneTake b j n s).rb = s.rb := by simp [laneTake]

@[simp] theorem lanePut_rb (b j w : Nat) (s : State) : (lanePut b j w s).rb = s.rb := by simp [lanePut]

@[simp] theorem laneSend_rb (b j : Nat) (s : State) : (laneSend b j s).rb = s.rb := by simp [laneSend]

@[simp] theorem runStation_rb (a : Act) (c : Nat) (s : State) : (runStation a c s).rb = s.rb := by
  simp only [runStation]; (repeat' split) <;> simp

@[simp] theorem runAct_count (a : Act) (s : State) : (runAct a s).rb.count = s.rb.count := by
  simp only [runAct]; split <;> simp

/-! ### The operations that move the count -/

theorem roundaboutOk_iff (s : State) : RoundaboutOk s ↔ s.rb.InRange := Iff.rfl

theorem Roundabout.inRange_of_count {r r' : Roundabout} (e : r'.count = r.count) (h : r.InRange) : r'.InRange := by
  simp only [Roundabout.count, Prod.mk.injEq] at e
  obtain ⟨hp, hpp, hc, hpc, hk⟩ := e
  simpa only [Roundabout.InRange, hp, hpp, hc, hpc, hk] using h

theorem copyCount_inRange (powered : Bool) {r : Roundabout} (h : r.InRange) : (copyCount powered r).InRange := by
  cases powered
  · exact h
  · obtain ⟨hp, -, hc, -, hk⟩ := h
    exact ⟨hp, hp, hc, hc, hk⟩

/-- A correction point takes one tick of a pending correction, toward zero (R87). -/
theorem takeOne_natAbs {c : Int} (h : c.natAbs ≤ 16) : (c - if 0 < c then 1 else -1).natAbs ≤ 16 := by
  split <;> omega

theorem tickRb_inRange (off : Nat) {r : Roundabout} (h : r.InRange) : (tickRb off r).InRange := by
  obtain ⟨-, hpp, hc, hpc, hk⟩ := h
  refine ⟨Nat.mod_lt _ (by decide), hpp, ?_, hpc, ?_⟩
  · simp only [tickRb]; split
    · exact Nat.mod_lt _ (by decide)
    · exact hc
  · simp only [tickRb]; split
    · exact takeOne_natAbs hk
    · exact hk

theorem takeCorrection_inRange (e : Int) {r : Roundabout} (h : r.InRange) : (takeCorrection e r).InRange := by
  obtain ⟨hp, hpp, hc, hpc, -⟩ := h
  refine ⟨hp, hpp, hc, hpc, ?_⟩
  simp only [takeCorrection, clampCorr]; omega

theorem firstLockStep_cycle_lt (off ts : Nat) (e : Int) {r : Roundabout} (h : r.cycle < 2 ^ 48) :
    (firstLockStep off ts e r).cycle < 2 ^ 48 := by
  have wraps (n : Nat) : n % 2 ^ 48 < 2 ^ 48 := Nat.mod_lt _ (by decide)
  simp only [firstLockStep]
  split <;> split
  · exact wraps _
  · exact h
  · exact wraps _
  · exact h

theorem firstLockStep_corr (off ts : Nat) (e : Int) (r : Roundabout) : (firstLockStep off ts e r).corr = 0 := rfl

theorem firstLockStep_inRange (off ts : Nat) (e : Int) {r : Roundabout} (h : r.InRange) :
    (firstLockStep off ts e r).InRange := by
  obtain ⟨-, hpp, hc, hpc, -⟩ := h
  exact ⟨Nat.mod_lt _ (by decide), hpp, firstLockStep_cycle_lt off ts e hc, hpc, by rw [firstLockStep_corr]; decide⟩

theorem declareLock_inRange (off ts : Nat) {r : Roundabout} (h : r.InRange) : (declareLock off ts r).InRange := by
  simp only [declareLock]; split
  · exact takeCorrection_inRange _ h
  · exact firstLockStep_inRange _ _ _ h

theorem acceptCrossing_inRange (off ts : Nat) {r : Roundabout} (h : r.InRange) : (acceptCrossing off ts r).InRange :=
  takeCorrection_inRange _ h

@[simp] theorem followRun_count (ts : Nat) (valid : Bool) (len : Nat) (f : RefForm) (r : Roundabout) :
    (followRun ts valid len f r).count = r.count := by
  cases valid <;> rfl

theorem addCycles_lt (c : Nat) (d : Int) : addCycles c d < 2 ^ 48 := by
  unfold addCycles; omega

@[simp] theorem rearmBeacon_count (r : Roundabout) : (rearmBeacon r).count = r.count := by
  simp only [rearmBeacon]; split <;> rfl

theorem stepCycle_inRange (d : Int) {s : State} (h : s.rb.InRange) : (stepCycle d s).rb.InRange := by
  have k : (copyCount (packagePowered s) { s.rb with
      cycle := addCycles s.rb.cycle d, applyD := none, applyFirst := false, mismatch := false, pendingNeg := 0
      mark1024 := s.rb.mark1024.map fun (u, c) => (u, addCycles c d) }).InRange := by
    obtain ⟨hp, hpp, -, hpc, hk⟩ := h
    exact copyCount_inRange _ ⟨hp, hpp, addCycles_lt _ _, hpc, hk⟩
  refine Roundabout.inRange_of_count ?_ k
  simp only [stepCycle]; (repeat' split) <;> simp

theorem applyDue_inRange {s : State} (h : s.rb.InRange) : (applyDue s).rb.InRange := by
  simp only [applyDue]
  split
  · exact h
  · split <;> split
    · exact stepCycle_inRange _ h
    · exact Roundabout.inRange_of_count (by simp [Roundabout.count]) h
    · exact stepCycle_inRange _ h
    · exact h

theorem useBeacon_inRange (n : Nat) {s : State} (h : s.rb.InRange) : (useBeacon n s).rb.InRange := by
  simp only [useBeacon]
  split
  · exact h
  · refine Roundabout.inRange_of_count ?_ (applyDue_inRange h)
    (repeat' split) <;> simp [Roundabout.count]

theorem followBeacon_inRange (body : List Byte) {s : State} (h : s.rb.InRange) : (followBeacon body s).rb.InRange :=
  useBeacon_inRange _ (by simpa using h)

theorem takeBeacon_inRange (body : List Byte) {s : State} (h : s.rb.InRange) : (takeBeacon body s).rb.InRange := by
  have stands {u : State} (e : u.rb = s.rb) : u.rb.InRange := by rw [e]; exact h
  simp only [takeBeacon]
  split
  case h_1 | h_2 | h_3 => exact stands (by (repeat' split) <;> simp)
  case h_4 =>
    split
    · exact h
    · split
      · exact stands (by simp [hearDeferred])
      · exact followBeacon_inRange _ h
  all_goals
    split
    · exact stands (by simp [hearDeferred])
    · exact followBeacon_inRange _ h

theorem endTick_inRange {s : State} (h : s.rb.InRange) : (endTick s).rb.InRange := by
  simpa [endTick] using copyCount_inRange _ (tickRb_inRange _ h)

theorem freshRoundabout_inRange (now nominal : Nat) : (freshRoundabout now nominal).InRange := by
  simp [freshRoundabout, Roundabout.InRange]

/-- The answer is a next state whose Roundabout lies in its ranges. -/
def AnswersInRange (o : Out) : Prop :=
  match o with
  | .next u => u.rb.InRange
  | _ => False

@[simp] theorem answersInRange_next (u : State) : AnswersInRange (.next u) ↔ u.rb.InRange := Iff.rfl

theorem AnswersInRange.answers {o : Out} (h : AnswersInRange o) : ∃ u, o = .next u ∧ RoundaboutOk u := by
  cases o with
  | next u => exact ⟨u, rfl, h⟩
  | fault r => exact h.elim
  | refused r => exact h.elim

/-- A command that leaves the count leaves it in its ranges. -/
theorem KeepsCount.inRange {o : Out} {r : Roundabout} (k : KeepsCount o r) (h : r.InRange) : AnswersInRange o := by
  cases o with
  | next u => exact Roundabout.inRange_of_count k h
  | fault r => exact k
  | refused r => exact k

theorem execTick_inRange (acts : List Act) {s : State} (h : s.rb.InRange) : AnswersInRange (execTick s acts) := by
  simp only [execTick]; split
  · exact h
  · exact endTick_inRange (Roundabout.inRange_of_count (by simp) h)

theorem execApplyBeaconDelta_inRange {s : State} (h : s.rb.InRange) : AnswersInRange (execApplyBeaconDelta s) :=
  applyDue_inRange h

theorem execBeaconReceive_inRange (t : Nat) (src : NetSource) (frame : List Byte) {s : State} (h : s.rb.InRange) :
    AnswersInRange (execBeaconReceive t src frame s) := by
  simp only [execBeaconReceive]
  (repeat' split)
  · exact h
  · simpa using h
  · exact h
  · exact takeBeacon_inRange _ h

theorem execWindowClose_inRange (t : Nat) {s : State} (h : s.rb.InRange) : AnswersInRange (execWindowClose t s) := by
  obtain ⟨hp, hpp, hc, hpc, hk⟩ := h
  simp only [execWindowClose]; split
  · split
    · simpa using ⟨hp, hpp, hc, hpc, hk⟩
    · simpa using ⟨hp, hpp, hc, hpc, Nat.zero_le 16⟩
  · exact ⟨hp, hpp, hc, hpc, hk⟩

theorem execMainsCrossing_inRange (t above : Nat) {s : State} (h : s.rb.InRange) :
    AnswersInRange (execMainsCrossing t above s) := by
  have run (ts : Nat) (valid : Bool) (len : Nat) (f : RefForm) : (followRun ts valid len f s.rb).InRange :=
    Roundabout.inRange_of_count (followRun_count ts valid len f s.rb) h
  cases hr : s.rb.lastRaw
  all_goals
    simp only [execMainsCrossing, clockTo_fields, changeRb_rb, hr]
    split
    · exact h
    · split <;> split
      · simp only [answersInRange_next, noteLock_rb, count_fields, changeRb_rb]
        refine copyCount_inRange _ (declareLock_inRange _ _ (Roundabout.inRange_of_count ?_ h))
        split <;> simp
      · simpa using run _ _ _ _
      · simpa using acceptCrossing_inRange _ _ (run _ _ _ _)
      · simpa using run _ _ _ _

theorem execKioskStart_inRange (t slotAddr : Nat) {s : State} (h : s.rb.InRange) :
    AnswersInRange (execKioskStart t slotAddr s) := by
  simp only [execKioskStart]; split
  · exact h
  · refine Roundabout.inRange_of_count ?_ (freshRoundabout_inRange (max s.now t) (objAt (clockTo t s) 0x2012 0))
    simp

theorem execStandbyPowerLoss_inRange (t : Nat) {s : State} (h : s.rb.InRange) :
    AnswersInRange (execStandbyPowerLoss t s) := by
  simp only [execStandbyPowerLoss]; split
  · exact h
  · simp [Roundabout.InRange]

/-- Every command keeps the ranges: all but a few leave the count itself. -/
theorem exec_inRange (c : Instr) {s : State} (h : s.rb.InRange) : AnswersInRange (exec c s) := by
  cases c with
  | tick acts => exact execTick_inRange acts h
  | applyBeaconDelta => exact execApplyBeaconDelta_inRange h
  | beaconReceive t src frame => exact execBeaconReceive_inRange t src frame h
  | windowClose t => exact execWindowClose_inRange t h
  | mainsCrossing t above => exact execMainsCrossing_inRange t above h
  | kioskStart t slot => exact execKioskStart_inRange t slot h
  | standbyPowerLoss t => exact execStandbyPowerLoss_inRange t h
  | _ => exact KeepsCount.inRange (by simp [exec]) h

/-- Settles O56: by `exec_inRange` for the front command; an empty queue leaves the state. -/
theorem countStaysInRange : Obligations.CountStaysInRange := by
  intro s h
  unfold step
  split
  · exact ⟨s, rfl, h⟩
  · next c rest _ =>
    have k : AnswersInRange (exec c { s with pending := rest }) := exec_inRange c h
    exact k.answers

end Sys2Proof.Machine

namespace Sys2Proof.Machine

/-! ## What records, interrupt causes and changes of the Roundabout may touch -/

/-- The kiosk and the host interface but for what a record or an interrupt cause may change. -/
def State.unnoted (s : State) : Kiosk × HostIf :=
  ({ s.kiosk with counters := [] }, { s.host with eventCause := 0, pending := [] })

theorem noted_iff (s u : State) : Noted s u ↔ u.unnoted = s.unnoted := by
  constructor
  · rintro ⟨hk, hh⟩
    rw [State.unnoted, State.unnoted, hk, hh]
  · intro h
    have hk := congrArg (fun x : Kiosk × HostIf => { x.1 with counters := u.kiosk.counters }) h
    have hh := congrArg (fun x : Kiosk × HostIf =>
      { x.2 with eventCause := u.host.eventCause, pending := u.host.pending }) h
    exact ⟨hk, hh⟩

theorem Noted.objAt_eq {s u : State} (h : Noted s u) (i a : Nat) : objAt u i a = objAt s i a := by
  unfold objAt; rw [h.1]

@[simp] theorem modRb_unnoted (f : Roundabout → Roundabout) (s : State) : (s.modRb f).unnoted = s.unnoted := rfl

@[simp] theorem modNet_unnoted (f : Net → Net) (s : State) : (s.modNet f).unnoted = s.unnoted := rfl

@[simp] theorem modContain_unnoted (f : Contain → Contain) (s : State) : (s.modContain f).unnoted = s.unnoted := rfl

@[simp] theorem emit_unnoted (e : Emission) (s : State) : (emit e s).unnoted = s.unnoted := rfl

@[simp] theorem count_unnoted (idx sub n : Nat) (s : State) : (count idx sub n s).unnoted = s.unnoted := rfl

@[simp] theorem raiseVector_unnoted (v : Nat) (s : State) : (raiseVector v s).unnoted = s.unnoted := by
  simp only [raiseVector]; split
  · rfl
  · split <;> rfl

@[simp] theorem glCause_unnoted (b : Nat) (s : State) : (glCause b s).unnoted = s.unnoted := by
  simp only [glCause]; split
  · rfl
  · split
    · rfl
    · split
      · rfl
      · rw [raiseVector_unnoted]; rfl

@[simp] theorem changeRb_unnoted (f : Roundabout → Roundabout) (s : State) : (changeRb f s).unnoted = s.unnoted := by
  simp only [changeRb]; split <;> simp

@[simp] theorem placeRecord_unnoted (r : LogRecord) (s : State) : (placeRecord r s).unnoted = s.unnoted := by
  simp only [placeRecord]; (repeat' split) <;> simp

@[simp] theorem endWindow_unnoted (w : RepeatWindow) (s : State) : (endWindow w s).unnoted = s.unnoted := by
  simp only [endWindow]; split <;> simp

@[simp] theorem record_unnoted (r : LogRecord) (s : State) : (record r s).unnoted = s.unnoted := by
  simp only [record]; (repeat' split) <;> simp

@[simp] theorem noteRecord_unnoted (cause ut unit : Nat) (s : State) :
    (noteRecord cause ut unit s).unnoted = s.unnoted := record_unnoted _ s

/-! ## Ticks, the numbering of cycles and scheduled events (R70, R88 to R111) -/

/-- A change that shows in no flag raises no interrupt cause. -/
theorem changeRb_of_flags_eq {f : Roundabout → Roundabout} {s : State} (h : rbFlags (f s.rb) = rbFlags s.rb) :
    changeRb f s = s.modRb f := if_pos h

@[simp] theorem copyCount_fields (p : Bool) (r : Roundabout) :
    (copyCount p r).phase = r.phase ∧ (copyCount p r).cycle = r.cycle ∧ (copyCount p r).tickStart = r.tickStart ∧
    (copyCount p r).pEst4 = r.pEst4 ∧ (copyCount p r).state = r.state ∧ (copyCount p r).applyD = r.applyD ∧
    (copyCount p r).mismatch = r.mismatch := by
  cases p <;> simp [copyCount]

theorem copyCount_powered (r : Roundabout) :
    (copyCount true r).pkgCycle = r.cycle ∧ (copyCount true r).pkgPhase = r.phase := ⟨rfl, rfl⟩

theorem rbFlags_tick (p : Bool) (off : Nat) (r : Roundabout) : rbFlags (copyCount p (tickRb off r)) = rbFlags r := by
  cases p <;> rfl

theorem endTick_rb (s : State) : (endTick s).rb = copyCount (packagePowered s) (tickRb (objAt s 0x2010 0) s.rb) := by
  simp [endTick]

theorem endTick_frame (s : State) : endTick s = { s with rb := (endTick s).rb, now := (endTick s).now } := by
  have e := changeRb_of_flags_eq (f := fun r => copyCount (packagePowered s) (tickRb (objAt s 0x2010 0) r)) (s := s)
    (rbFlags_tick _ _ _)
  apply State.ext_fields <;> simp [endTick, e]

theorem tickRb_cycle (off : Nat) (r : Roundabout) :
    (tickRb off r).cycle = if 4096 ≤ r.phase + tickMove r then (r.cycle + 1) % 2 ^ 48 else r.cycle := by
  simp [tickRb]

theorem tickRb_phase (off : Nat) (r : Roundabout) : (tickRb off r).phase = (r.phase + tickMove r) % 4096 := rfl

theorem tick_advances (acts : List Act) (s : State) (h : s.life.state ≠ .absent) :
    ∃ v u, v = forEach runAct acts s ∧ (acts = [] → v = s) ∧
       exec (.tick acts) s = .next u ∧ u = { v with rb := u.rb, now := u.now } ∧
       (v.rb.corrHere = 0 → u.rb.phase = (v.rb.phase + 1) % 4096 ∧
         u.rb.cycle = if 4095 ≤ v.rb.phase then (v.rb.cycle + 1) % 2 ^ 48 else v.rb.cycle) ∧
       (v.rb.corrHere = 1 → u.rb.phase = (v.rb.phase + 2) % 4096) ∧
       (v.rb.corrHere = -1 → u.rb.phase = v.rb.phase % 4096) ∧
       (packagePowered v = true → u.rb.pkgCycle = u.rb.cycle ∧ u.rb.pkgPhase = u.rb.phase) ∧
       u.rb.tickStart = v.rb.tickStart + v.rb.tickLen ∧ u.rb.pEst4 = v.rb.pEst4 ∧ u.rb.state = v.rb.state := by
  refine ⟨_, endTick (forEach runAct acts s), rfl, ?_, if_neg h, endTick_frame _, ?_⟩
  · rintro rfl; rfl
  generalize forEach runAct acts s = v
  rw [endTick_rb]
  refine ⟨fun hc => ?_, fun hc => ?_, fun hc => ?_, fun hp => ?_, ?_, ?_, ?_⟩
  · simp [tickRb_phase, tickRb_cycle, tickMove, hc]
  · simp [tickRb_phase, tickMove, hc]
  · simp [tickRb_phase, tickMove, hc]
  · simp [hp, copyCount_powered]
  all_goals simp [tickRb]

theorem stepCycle_rb (d : Int) (s : State) : (stepCycle d s).rb.cycle = addCycles s.rb.cycle d ∧
    (stepCycle d s).rb.phase = s.rb.phase ∧ (stepCycle d s).rb.applyD = none ∧ (stepCycle d s).rb.mismatch = false ∧
    (packagePowered s = true → (stepCycle d s).rb.pkgCycle = (stepCycle d s).rb.cycle) := by
  have rearm (r : Roundabout) : (rearmBeacon r).cycle = r.cycle ∧ (rearmBeacon r).phase = r.phase ∧
      (rearmBeacon r).pkgCycle = r.pkgCycle ∧ (rearmBeacon r).applyD = r.applyD ∧
      (rearmBeacon r).mismatch = r.mismatch := by
    simp only [rearmBeacon]; split <;> simp
  simp only [stepCycle]
  split <;> split <;> simp +contextual [rearm, copyCount_powered]

theorem stepCycle_frame (d : Int) (s : State) : stepCycle d s = { s with
    rb := (stepCycle d s).rb, kiosk := (stepCycle d s).kiosk, host := (stepCycle d s).host
    outbox := (stepCycle d s).outbox } := by
  simp only [stepCycle]
  split <;> apply State.ext_fields <;> simp

theorem stepCycle_counted {d : Int} (h : d ≠ 0) (s : State) : Counted 0x2020 6 1 s (stepCycle d s) := by
  simp only [stepCycle, if_neg h]
  exact (counted_count _).congr (by simp) rfl

theorem applyBeaconDelta_steps {d : Int} {s : State} (hs : s.rb.atCycleStart = true) (hd : s.rb.applyD = some d)
    (h0 : d ≠ 0) (h : s.rb.applyFirst = true ∨ 0 < d ∨ packagePowered s = false) :
    ∃ u, exec .applyBeaconDelta s = .next u ∧ u.rb.cycle = (((s.rb.cycle : Int) + d) % (2 ^ 48 : Int)).toNat ∧
      u.rb.applyD = none ∧ u.rb.mismatch = false ∧ u.rb.phase = s.rb.phase ∧ Counted 0x2020 6 1 s u ∧
      (packagePowered s = true → u.rb.pkgCycle = u.rb.cycle) ∧
      u = { s with rb := u.rb, kiosk := u.kiosk, host := u.host, outbox := u.outbox } := by
  have run : exec .applyBeaconDelta s = .next (stepCycle d s) := by
    have h' : s.rb.applyFirst = true ∨ 0 ≤ d ∨ packagePowered s = false := h.imp_right (Or.imp_left Int.le_of_lt)
    simp only [exec, execApplyBeaconDelta, applyDue, hs, hd, if_pos h']
    rfl
  obtain ⟨hc, hp, ha, hm, hk⟩ := stepCycle_rb d s
  exact ⟨_, run, hc, ha, hm, hp, stepCycle_counted h0 s, hk, stepCycle_frame d s⟩

theorem applyBeaconDelta_keeps_negative {d : Int} {s : State} (hs : s.rb.atCycleStart = true)
    (hd : s.rb.applyD = some d) (h0 : d < 0) (hf : s.rb.applyFirst = false) (hp : packagePowered s = true) :
    ∃ u, exec .applyBeaconDelta s = .next u ∧ u.rb.cycle = s.rb.cycle ∧ u.rb.phase = s.rb.phase ∧ u.rb.applyD = none ∧
      u.rb.mismatch = true ∧ u.rb.pendingNeg = d.natAbs ∧ Noted s u ∧
      u = { s with rb := u.rb, contain := u.contain, kiosk := u.kiosk, host := u.host, outbox := u.outbox } := by
  have h' : ¬(s.rb.applyFirst = true ∨ 0 ≤ d ∨ packagePowered s = false) := by simp [hf, hp]; omega
  have run : exec .applyBeaconDelta s = .next (noteRecord 0x2003 utMains 0 (changeRb (fun r => { r with
      mismatch := true, pendingNeg := d.natAbs, applyD := none }) s)) := by
    simp only [exec, execApplyBeaconDelta, applyDue, hs, hd, if_neg h']
    rfl
  refine ⟨_, run, ?_, ?_, ?_, ?_, ?_, (noted_iff _ _).mpr (by simp), ?_⟩
  · simp
  · simp
  · simp
  · simp
  · simp
  · apply State.ext_fields <;> simp

theorem freewheelLong_shows {s : State} (hs : s.rb.state = .freewheel) (ht : 65536 * 4096 ≤ s.rb.freewheelTicks)
    (hl : s.rb.freewheelLong = false) :
    ∃ u, exec .freewheelLong s = .next u ∧ u.rb = { s.rb with freewheelLong := true } ∧
      u.gov = s.gov ∧ u.life = s.life ∧ u.net = s.net ∧ SameWork s u ∧ SameMemories s u ∧ u.now = s.now :=
  ⟨_, if_pos ⟨hs, ht, hl⟩, by simp, by simp, by simp, by simp, by simp [SameWork], by simp [SameMemories], by simp⟩

theorem raiseCheckpoint_frame (i : Nat) (s : State) :
    raiseCheckpoint i s = { s with tiles := (raiseCheckpoint i s).tiles } := by
  simp only [raiseCheckpoint]; split <;> rfl

theorem raiseCheckpoint_keys (i : Nat) (s : State) : (raiseCheckpoint i s).tiles.map (·.1) = s.tiles.map (·.1) := by
  simp only [raiseCheckpoint]; split <;> simp

theorem raiseCheckpoint_other {i : Nat} (s : State) (h0 : i ≠ 60) (h1 : i ≠ 61) : raiseCheckpoint i s = s :=
  if_neg (by simp [h0, h1])

theorem eventFire_waits {s : State} (h : s.rb.boundaryDue = true) : exec .eventFire s = .next s := by
  simp [exec, execEventFire, h]

/-- What a comparator's firing adds to the state that it leaves: the count of a late one. -/
def countLate (c : Comparator) (s : State) : State := if c.passed then count 0x2020 5 1 s else s

theorem countLate_frame (c : Comparator) (s : State) : countLate c s = { s with kiosk := (countLate c s).kiosk } := by
  simp only [countLate]; split <;> rfl

theorem countLate_counted {c : Comparator} (s : State) (h : c.passed = true) : Counted 0x2020 5 1 s (countLate c s) := by
  simp only [countLate, if_pos h]; exact counted_count s

theorem eventFire_kiosk {s : State} {i : Nat} (hb : s.rb.boundaryDue = false) (hn : nextDue s.rb = some (true, i)) :
    ∃ u c, exec .eventFire s = .next u ∧ c = tabGet ({} : Comparator) i u.rb.kioskCmp ∧ c.busy = false ∧ c.fired = true ∧
      c.late = (tabGet ({} : Comparator) i s.rb.kioskCmp).passed ∧
      (∀ j, j ≠ i → tabGet ({} : Comparator) j u.rb.kioskCmp = tabGet ({} : Comparator) j s.rb.kioskCmp) ∧
      (c.late = true → Counted 0x2020 5 1 s u) ∧
      u = { s with rb := { s.rb with kioskCmp := u.rb.kioskCmp }, kiosk := u.kiosk } := by
  let c := tabGet ({} : Comparator) i s.rb.kioskCmp
  let v := s.modRb fun r => { r with kioskCmp := tabPut {} i (fireComparator c) r.kioskCmp }
  have run : exec .eventFire s = .next (countLate c v) := by
    simp only [exec, execEventFire, hb, fireNext, hn]; rfl
  have hr : (countLate c v).rb = v.rb := by rw [countLate_frame]
  refine ⟨_, fireComparator c, run, ?_, rfl, rfl, rfl, fun j hj => ?_, fun hl => ?_, ?_⟩
  · rw [hr]; exact (tabGet_put_same _ _ _ _).symm
  · rw [hr]; exact tabGet_put_other _ _ _ _ _ _ hj
  · exact (countLate_counted v hl).congr rfl rfl
  · rw [hr]; exact countLate_frame c v

theorem eventFire_package {s : State} {i : Nat} (hb : s.rb.boundaryDue = false) (hn : nextDue s.rb = some (false, i)) :
    ∃ u c, exec .eventFire s = .next u ∧ c = tabGet ({} : Comparator) i u.rb.pkgCmp ∧ c.busy = false ∧ c.fired = true ∧
      c.late = (tabGet ({} : Comparator) i s.rb.pkgCmp).passed ∧
      (∀ j, j ≠ i → tabGet ({} : Comparator) j u.rb.pkgCmp = tabGet ({} : Comparator) j s.rb.pkgCmp) ∧
      (c.late = true → Counted 0x2020 5 1 s u) ∧
      (i ≠ 60 → i ≠ 61 → u.tiles = s.tiles) ∧ u.tiles.map (·.1) = s.tiles.map (·.1) ∧
      u = { s with rb := { s.rb with pkgCmp := u.rb.pkgCmp }, tiles := u.tiles, kiosk := u.kiosk } := by
  let c := tabGet ({} : Comparator) i s.rb.pkgCmp
  let v := s.modRb fun r => { r with pkgCmp := tabPut {} i (fireComparator c) r.pkgCmp }
  let w := raiseCheckpoint i v
  have run : exec .eventFire s = .next (countLate c w) := by
    simp only [exec, execEventFire, hb, fireNext, hn]; rfl
  have hr : (countLate c w).rb = v.rb := by rw [countLate_frame]; exact raiseCheckpoint_rb i v
  have ht : (countLate c w).tiles = w.tiles := by rw [countLate_frame]
  have hk : w.kiosk = s.kiosk := by simp only [w]; rw [raiseCheckpoint_frame]; rfl
  refine ⟨_, fireComparator c, run, ?_, rfl, rfl, rfl, fun j hj => ?_, fun hl => ?_, fun h0 h1 => ?_, ?_, ?_⟩
  · rw [hr]; exact (tabGet_put_same _ _ _ _).symm
  · rw [hr]; exact tabGet_put_other _ _ _ _ _ _ hj
  · exact (countLate_counted w hl).congr (by rw [hk]) rfl
  · rw [ht]; simp only [w]; rw [raiseCheckpoint_other v h0 h1]; rfl
  · rw [ht]; exact raiseCheckpoint_keys i v
  · rw [hr, ht]
    exact (countLate_frame c w).trans
      (congrArg (fun x : State => { x with kiosk := (countLate c w).kiosk }) (raiseCheckpoint_frame i v))

/-- Settles O1: a tick by `tick_advances`, the numbering of cycles by `stepCycle`'s lemmas, a firing by the comparator it
writes back. -/
theorem ticksAndEvents : Obligations.TicksAndEvents :=
  ⟨tick_advances,
   fun _ => ⟨fun _ hs hd h0 h => applyBeaconDelta_steps hs hd h0 h,
     fun _ hs hd h0 hf hp => applyBeaconDelta_keeps_negative hs hd h0 hf hp,
     fun hs ht hl => freewheelLong_shows hs ht hl⟩,
   fun _ _ => ⟨eventFire_waits, eventFire_kiosk, eventFire_package⟩⟩

end Sys2Proof.Machine

namespace Sys2Proof.Machine

/-! ## Crossings: a lock that an accepted crossing reaches lifts the bar to low-power listen (R327) -/

/-- A sled in COAST with the bar that a resolved miss sets to low-power listen, one nominal period after its last accepted
crossing and at the very instant of its offset. -/
def crossingAfterMiss : State :=
  { now := 1010000000
    life := { state := .joined }
    rb := { state := .coast, everLocked := true, form := .pulse, lastRaw := some 99000000, lastAccepted := 99000000
            pEst4 := 8000000, tickStart := 101000000 * 2 ^ 32 }
    net := { afterMiss := true } }

/-- The crossing of `crossingAfterMiss` is accepted, and the lock it reaches lifts the bar. -/
theorem mainsCrossing_lifts_bar (u : State) (h : exec (.mainsCrossing 1010000000 200000) crossingAfterMiss = .next u) :
    u.net.afterMiss = false := by
  have k : (match exec (.mainsCrossing 1010000000 200000) crossingAfterMiss with
    | .next u => u.net.afterMiss
    | _ => true) = false := by decide +kernel
  rwa [h] at k

/-- Refutes O2: the statement's frame keeps the whole field network, but a crossing accepted while tracking that reaches
LOCKED clears `afterMiss` there (R327). -/
theorem not_crossingsFollowedAndMissed : ¬ Obligations.CrossingsFollowedAndMissed := by
  unfold Obligations.CrossingsFollowedAndMissed
  intro h
  obtain ⟨accepted, -⟩ := h.1 1010000000 200000 99000000 crossingAfterMiss (by decide) rfl
  obtain ⟨u, run, frame, -⟩ := accepted (by decide) (by decide +kernel)
  have stands : u.net = crossingAfterMiss.net := by rw [frame]
  have lifted := mainsCrossing_lifts_bar u run
  rw [stands] at lifted
  exact absurd lifted (by decide)

end Sys2Proof.Machine

namespace Sys2Proof.Machine

/-! ## Standby power: the kiosk's start and what its loss leaves (R72, R121, R180, R237, R266) -/

theorem tabGet_keepSaved {α : Type} (d : α) (k : Nat) (t : Tab α) :
    tabGet d k (keepSaved t) = if isSaved k then tabGet d k t else d := by
  induction t with
  | nil => simp [keepSaved, tabGet]
  | cons x t ih =>
    obtain ⟨j, v⟩ := x
    simp only [keepSaved] at ih
    by_cases hj : isSaved j = true <;> by_cases e : j = k <;> simp_all [keepSaved, tabGet]

@[simp] theorem counterAt_modContain (f : Contain → Contain) (s : State) (j b : Nat) :
    counterAt (s.modContain f) j b = counterAt s j b := rfl

@[simp] theorem counterAt_modNet (f : Net → Net) (s : State) (j b : Nat) :
    counterAt (s.modNet f) j b = counterAt s j b := rfl

@[simp] theorem counterAt_glCause (c : Nat) (s : State) (j b : Nat) : counterAt (glCause c s) j b = counterAt s j b := by
  simp [counterAt]

section
variable {j b : Nat} (folded : objKey j b ≠ objKey 0x9020 1) (dropped : objKey j b ≠ objKey 0x9020 2)
include dropped

theorem counterAt_placeRecord_other (r : LogRecord) (s : State) : counterAt (placeRecord r s) j b = counterAt s j b := by
  simp only [placeRecord]; (repeat' split) <;> simp [counterAt_count_other _ dropped]

theorem counterAt_endWindow_other (w : RepeatWindow) (s : State) : counterAt (endWindow w s) j b = counterAt s j b := by
  simp only [endWindow]; split <;> simp [counterAt_placeRecord_other dropped]

include folded

/-- A record counts in 0x9020:01 and 0x9020:02 alone. -/
theorem counterAt_record_other (r : LogRecord) (s : State) : counterAt (record r s) j b = counterAt s j b := by
  simp only [record]
  (repeat' split) <;> simp [counterAt_count_other _ folded, counterAt_placeRecord_other dropped,
    counterAt_endWindow_other dropped]

theorem counterAt_takeNodeId_other (s : State) : counterAt (takeNodeId s) j b = counterAt s j b := by
  simp only [takeNodeId]; (repeat' split) <;> simp [noteRecord, counterAt_record_other folded dropped]

end

theorem exec_kioskStart_running (t slot : Nat) {s : State} (h : s.life.state ≠ .absent) :
    exec (.kioskStart t slot) s = .next { s with now := max s.now t } := if_pos h

theorem exec_standbyPowerLoss (t : Nat) {s : State} (h : s.life.state ≠ .absent) :
      ∃ u, exec (.standbyPowerLoss t) s = .next u ∧ u.life.state = .absent ∧ u.pins.standby = false ∧
        (∀ i a, objAt u i a = if isSaved (objKey i a) then objAt s i a else objDefault (objKey i a)) ∧
        (∀ i a, counterAt u i a = if isSaved (objKey i a) then counterAt s i a else 0) ∧
        (∀ i a, strAt u i a = if isSaved (objKey i a) then strAt s i a else []) ∧
        u.contain.errorLog = s.contain.errorLog ∧ u.contain.eventLog = s.contain.eventLog ∧
        u.contain.sequence = s.contain.sequence ∧ u.contain.buffer = [] ∧
        u.life.latchOpen = s.life.latchOpen ∧ u.life.stuckHold = s.life.stuckHold ∧ u.life.unfit = s.life.unfit ∧
        u.contain.stackFences = s.contain.stackFences ∧ u.kiosk.policyA = s.kiosk.policyA ∧
        u.kiosk.stationB = s.kiosk.stationB ∧ u.fab.store = s.fab.store ∧ u.sweep.verdict = s.sweep.verdict ∧
        u.rb = {} ∧ u.gov = {} ∧ u.net = {} ∧ u.host = {} ∧ u.prog = none ∧ u.coll = {} ∧ u.junc = {} ∧ u.tiers = {} ∧
        u.hbm = [] ∧ u.cellar = [] ∧ u.hostMem = s.hostMem ∧ u.outbox = s.outbox := by
  refine ⟨_, if_neg h, rfl, rfl, fun i a => ?_, fun i a => ?_, fun i a => ?_, rfl, rfl, rfl, rfl, rfl, rfl, rfl, rfl, rfl,
    rfl, rfl, rfl, rfl, rfl, rfl, rfl, rfl, rfl, rfl, rfl, rfl, rfl, rfl, rfl⟩ <;> exact tabGet_keepSaved _ _ _

@[simp] theorem takeNodeId_fields (s : State) :
    (takeNodeId s).now = s.now ∧ (takeNodeId s).pins = s.pins ∧ (takeNodeId s).gov = s.gov ∧
    (takeNodeId s).life = s.life ∧ (takeNodeId s).tiles = s.tiles ∧ (takeNodeId s).tiers = s.tiers ∧
    (takeNodeId s).prog = s.prog ∧ (takeNodeId s).links = s.links ∧ (takeNodeId s).coll = s.coll ∧
    (takeNodeId s).junc = s.junc ∧ (takeNodeId s).fab = s.fab ∧ (takeNodeId s).sweep = s.sweep ∧
    (takeNodeId s).hostMem = s.hostMem ∧ (takeNodeId s).hbm = s.hbm ∧ (takeNodeId s).cellar = s.cellar ∧
    (takeNodeId s).freeCount = s.freeCount ∧ (takeNodeId s).pending = s.pending ∧
    (takeNodeId s).unnoted = s.unnoted := by
  simp only [takeNodeId]; (repeat' split) <;> simp

/-- The kiosk as it begins to run: its Roundabout fresh, SLOT_ADDR sampled, its start counted. -/
def kioskRuns (t slotAddr : Nat) (s : State) : State :=
  let s : State := { clockTo t s with rb := freshRoundabout (max s.now t) (objAt s 0x2012 0) }
  let s := s.modKiosk fun k => { k with startedAt := s.now, kioskBank := pickBank k.kioskA k.kioskB }
  let s := s.modPins fun p => { p with standby := true, slotAddr := slotAddr % 64 }
  count 0x1009 0 1 (s.modLife fun l => { l with
    state := .standby, since := s.now, press := if s.pins.btn then some (s.now, .standby) else none })

/-- The kiosk with its node ID taken and its own address solicited. -/
def kioskOnNet (s : State) : State :=
  let s := takeNodeId (s.modNet fun n => { n with fallback := objAt s 0x1211 0, dadUntil := s.now + 1000000000 })
  if s.net.nodeIdInvalid then s else emit dadSolicitation s

theorem exec_kioskStart_absent (t slot : Nat) {s : State} (h : s.life.state = .absent) :
    exec (.kioskStart t slot) s = .next (settle (armKiosk kcBeacon 0 1024 0 (kioskOnNet (kioskRuns t slot s)))) :=
  if_neg fun absent => absent h

theorem kioskRuns_counted (t slot : Nat) (s : State) : Counted 0x1009 0 1 s (kioskRuns t slot s) :=
  (counted_count _).congr rfl rfl

@[simp] theorem kioskOnNet_fields (s : State) :
    (kioskOnNet s).now = s.now ∧ (kioskOnNet s).pins = s.pins ∧ (kioskOnNet s).gov = s.gov ∧
    (kioskOnNet s).rb = s.rb ∧ (kioskOnNet s).life = s.life ∧ (kioskOnNet s).tiles = s.tiles ∧
    (kioskOnNet s).tiers = s.tiers ∧ (kioskOnNet s).prog = s.prog ∧ (kioskOnNet s).links = s.links ∧
    (kioskOnNet s).coll = s.coll ∧ (kioskOnNet s).junc = s.junc ∧ (kioskOnNet s).fab = s.fab ∧
    (kioskOnNet s).sweep = s.sweep ∧ (kioskOnNet s).hostMem = s.hostMem ∧ (kioskOnNet s).hbm = s.hbm ∧
    (kioskOnNet s).cellar = s.cellar ∧ (kioskOnNet s).freeCount = s.freeCount ∧
    (kioskOnNet s).pending = s.pending ∧ (kioskOnNet s).unnoted = s.unnoted := by
  simp only [kioskOnNet]; split <;> simp

theorem kioskOnNet_noted (s : State) : Noted s (kioskOnNet s) := (noted_iff _ _).mpr (by simp)

theorem kioskOnNet_starts (s : State) : counterAt (kioskOnNet s) 0x1009 0 = counterAt s 0x1009 0 := by
  have taken (u : State) : counterAt (takeNodeId u) 0x1009 0 = counterAt u 0x1009 0 :=
    counterAt_takeNodeId_other (by decide) (by decide) u
  simp only [kioskOnNet]
  split
  · simp [taken]
  · exact (taken _).trans rfl

theorem armKiosk_busy (i n t tag : Nat) (s : State) :
    (tabGet {} i (armKiosk i n t tag s).rb.kioskCmp).busy = true := by
  simp [armKiosk, tabGet_put_same, loadComparator]

theorem settle_from_standby {s : State} (h : s.life.state = .standby) :
    (settle s).life.state = if startInhibited s then .off else .standby := by
  cases hi : startInhibited s <;> simp [settle, h, hi]

theorem startInhibited_kioskRuns (t slot : Nat) (s : State) :
    startInhibited (armKiosk kcBeacon 0 1024 0 (kioskOnNet (kioskRuns t slot s))) = startInhibited s := by
  have target : objAt (kioskOnNet (kioskRuns t slot s)) 0x3010 0 = objAt s 0x3010 0 :=
    ((kioskOnNet_noted _).objAt_eq _ _).trans rfl
  have life : (kioskOnNet (kioskRuns t slot s)).life = (kioskRuns t slot s).life := by simp
  have gov : (kioskOnNet (kioskRuns t slot s)).gov = s.gov := by simp [kioskRuns]
  show (decide (objAt (kioskOnNet (kioskRuns t slot s)) 0x3010 0 ≠ 1) || (kioskOnNet (kioskRuns t slot s)).life.unfit ||
    (kioskOnNet (kioskRuns t slot s)).life.fwInvalid || (kioskOnNet (kioskRuns t slot s)).gov.drop.isSome) = _
  rw [target, life, gov]; rfl

theorem startInhibited_eq_false (s : State) : startInhibited s = false ↔
    objAt s 0x3010 0 = 1 ∧ s.life.unfit = false ∧ s.life.fwInvalid = false ∧ s.gov.drop = none := by
  simp [startInhibited, and_assoc]

theorem exec_kioskStart (t slot : Nat) {s : State} (h : s.life.state = .absent) :
      ∃ u, exec (.kioskStart t slot) s = .next u ∧
        u.life.state = (if objAt s 0x3010 0 = 1 ∧ s.life.unfit = false ∧ s.life.fwInvalid = false ∧ s.gov.drop = none
          then .standby else .off) ∧
        u.rb.state = .noRef ∧ u.rb.cycle = 0 ∧ u.rb.phase = 0 ∧ u.rb.unnumbered = true ∧ u.pins.standby = true ∧
        u.pins.slotAddr = slot % 64 ∧ u.kiosk.startedAt = max s.now t ∧ Counted 0x1009 0 1 s u ∧
        (tabGet {} 0 u.rb.kioskCmp).busy = true ∧
        u = { s with
          now := max s.now t, pins := u.pins, rb := u.rb, net := u.net, life := u.life, kiosk := u.kiosk
          contain := u.contain, host := u.host, outbox := u.outbox } := by
  let w := kioskOnNet (kioskRuns t slot s)
  have rb : (settle (armKiosk kcBeacon 0 1024 0 w)).rb = (armKiosk kcBeacon 0 1024 0 (kioskRuns t slot s)).rb := by
    simp [w, armKiosk]
  have kiosk : (settle (armKiosk kcBeacon 0 1024 0 w)).kiosk = w.kiosk := by simp [armKiosk]
  have pins : (settle (armKiosk kcBeacon 0 1024 0 w)).pins = (kioskRuns t slot s).pins := by simp [w, armKiosk]
  refine ⟨_, exec_kioskStart_absent t slot h, ?_, ?_, ?_, ?_, ?_, ?_, ?_, ?_, ?_, ?_, ?_⟩
  · rw [settle_from_standby (by simp [armKiosk, kioskRuns]), startInhibited_kioskRuns]
    simp only [← startInhibited_eq_false]
    cases startInhibited s <;> rfl
  · rw [rb]; rfl
  · rw [rb]; rfl
  · rw [rb]; rfl
  · rw [rb]; rfl
  · rw [pins]; rfl
  · rw [pins]; rfl
  · rw [kiosk, (kioskOnNet_noted (kioskRuns t slot s)).1]; rfl
  · have starts : counterAt (settle (armKiosk kcBeacon 0 1024 0 w)) 0x1009 0 = counterAt (kioskRuns t slot s) 0x1009 0 := by
      rw [counterAt, kiosk]; exact kioskOnNet_starts _
    exact starts.trans (kioskRuns_counted t slot s)
  · rw [rb]; exact armKiosk_busy _ _ _ _ _
  · apply State.ext_fields <;> simp [armKiosk, kioskRuns]

/-- Settles O7: the kiosk's start by `exec_kioskStart`, the loss of standby power field by field. -/
theorem kioskStartsAndDies : Obligations.KioskStartsAndDies :=
  fun t slot _ => ⟨exec_kioskStart t slot, exec_kioskStart_running t slot, exec_standbyPowerLoss t⟩

end Sys2Proof.Machine

namespace Sys2Proof.Machine

/-! ## Ballast bursts and conditions of the input (R127, R141, R142, R167 to R170, R182, R665) -/

@[simp] theorem tileAt_modTile_same (n : Nat) (f : Tile → Tile) (s : State) : tileAt (modTile n f s) n = f (tileAt s n) :=
  tabGet_put_same _ _ _ _

theorem tileAt_modTile_other {n m : Nat} (f : Tile → Tile) (s : State) (h : m ≠ n) :
    tileAt (modTile n f s) m = tileAt s m := tabGet_put_other _ _ _ _ _ _ h

/-- A condition has lasted once its time has run from the moment it began. -/
theorem lasted_iff (s : State) {since : Option Nat} {a ns : Nat} (h : since = some a) (hns : 0 < ns) :
    lasted s since ns = true ↔ a + ns ≤ s.now := by
  subst h; simp only [lasted, decide_eq_true_eq]; omega

theorem ballastBurst_acts (i : Fin 160) (s : State) :
    let x := tileAt s i.val
    (ballastReq s x = true → exec (.ballastBurst i) s =
      .next (modTile i.val (fun x => { x with burst := s.gov.ballast, upc := if x.works then x.upc else 0x040 }) s)) ∧
    (ballastReq s x = false → 0 < x.burst → ∃ u, exec (.ballastBurst i) s = .next u ∧ u = { s with tiles := u.tiles } ∧
      tileAt u i.val = { x with burst := 0, upc := if x.works then x.upc else 4 } ∧
      ∀ j, j ≠ i.val → tileAt u j = tileAt s j) ∧
    (ballastReq s x = false → x.burst = 0 → exec (.ballastBurst i) s = .next s) := by
  intro x
  refine ⟨fun req => if_pos req, fun req running => ?_, fun req ended => ?_⟩
  · have stops : exec (.ballastBurst i) s =
        .next (modTile i.val (fun x => { x with burst := 0, upc := if x.works then x.upc else 0x004 }) s) :=
      (if_neg (by simpa using req)).trans (if_neg (Nat.ne_of_gt running))
    exact ⟨_, stops, rfl, tileAt_modTile_same _ _ _, fun j hj => tileAt_modTile_other _ _ hj⟩
  · exact (if_neg (by simpa using req)).trans (if_pos ended)

section
variable (t : Nat) {a : Nat} {s : State}

theorem mainInputQualify_waits (h : s.gov.okSince = some a) :
    (a + 100000000 ≤ max s.now t → exec (.mainInputQualify t) s =
      .next { s with now := max s.now t, gov := { s.gov with inputOk := true } }) ∧
    (max s.now t < a + 100000000 → exec (.mainInputQualify t) s = .next { s with now := max s.now t }) := by
  have held := lasted_iff (clockTo t s) h (ns := 100000000) (by decide)
  exact ⟨fun le => if_pos (held.mpr le), fun lt => if_neg fun l => Nat.not_le.mpr lt (held.mp l)⟩

theorem brownoutDetect_waits (hs : s.gov.state = .regulating) (h : s.gov.brownSince = some a) :
    (a + 1000000 ≤ max s.now t → exec (.brownoutDetect t) s =
      .next { s with now := max s.now t, gov := { s.gov with brownDue := true } }) ∧
    (max s.now t < a + 1000000 → exec (.brownoutDetect t) s = .next { s with now := max s.now t }) := by
  have held := lasted_iff (clockTo t s) h (ns := 1000000) (by decide)
  exact ⟨fun le => if_pos ⟨hs, held.mpr le⟩, fun lt => if_neg fun l => Nat.not_le.mpr lt (held.mp l.2)⟩

theorem brownoutClearQualify_waits (hs : s.gov.state = .brownout) (h : s.gov.brownOkSince = some a) :
    (a + 100000000 ≤ max s.now t → exec (.brownoutClearQualify t) s =
      .next { s with now := max s.now t, gov := { s.gov with brownClearDue := true } }) ∧
    (max s.now t < a + 100000000 → exec (.brownoutClearQualify t) s = .next { s with now := max s.now t }) := by
  have held := lasted_iff (clockTo t s) h (ns := 100000000) (by decide)
  exact ⟨fun le => if_pos ⟨hs, held.mpr le⟩, fun lt => if_neg fun l => Nat.not_le.mpr lt (held.mp l.2)⟩

theorem overvoltageNotice_waits (hm : measuring s.gov = true) (h : s.gov.overSince = some a)
    (hn : s.gov.overNoted = false) :
    (a + 1000000 ≤ max s.now t → exec (.overvoltageNotice t) s =
      .next { s with now := max s.now t, gov := { s.gov with overDue := true, overNoted := true } }) ∧
    (max s.now t < a + 1000000 → exec (.overvoltageNotice t) s = .next { s with now := max s.now t }) := by
  have held := lasted_iff (clockTo t s) h (ns := 1000000) (by decide)
  exact ⟨fun le => if_pos ⟨hm, held.mpr le, hn⟩, fun lt => if_neg fun l => Nat.not_le.mpr lt (held.mp l.2.1)⟩

theorem startQualified_waits (hs : s.life.state = .standby) (hc : startConditions s = true)
    (h : s.life.startSince = some a) :
    (a + 100000000 ≤ max s.now t → exec (.startQualified t) s =
      .next { s with now := max s.now t, life := { s.life with startDue := true } }) ∧
    (max s.now t < a + 100000000 → exec (.startQualified t) s = .next { s with now := max s.now t }) := by
  have held := lasted_iff (clockTo t s) h (ns := 100000000) (by decide)
  exact ⟨fun le => if_pos ⟨hs, hc, held.mpr le⟩, fun lt => if_neg fun l => Nat.not_le.mpr lt (held.mp l.2.2)⟩

end

/-- Settles O3: a burst by the three cases of `execBallastBurst`, each condition of the input by `lasted_iff`. -/
theorem ballastAndInput : Obligations.BallastAndInput :=
  ⟨ballastBurst_acts, fun t _ _ => ⟨mainInputQualify_waits t, brownoutDetect_waits t, brownoutClearQualify_waits t,
    overvoltageNotice_waits t, startQualified_waits t⟩⟩

end Sys2Proof.Machine

namespace Sys2Proof.Machine

/-! ## The control law (R128, R130, R141 to R145) -/

/-- Outside STANDBY and OFF the inhibits move nothing, and no start is timed. -/
theorem settle_elsewhere {s : State} (hs : s.life.state ≠ .standby) (ho : s.life.state ≠ .off) :
    settle s = s.modLife fun l => { l with startSince := none, startDue := false } := by
  simp [settle, hs, ho, track]

@[simp] theorem modGov_unnoted (f : Governor → Governor) (s : State) : (s.modGov f).unnoted = s.unnoted := rfl

theorem isMember_not_waiting {s : State} (h : isMember s = true) :
    s.life.state ≠ .absent ∧ s.life.state ≠ .standby ∧ s.life.state ≠ .off := by
  refine ⟨?_, ?_, ?_⟩ <;> intro e <;> simp [isMember, e] at h

/-- hold_back's rule with its two conditions as propositions, so that a proof can split on them without evaluating them. -/
def holdStep (hot falls : Prop) [Decidable hot] [Decidable falls] (g : Governor) : Governor :=
  let g :=
    if hot then { g with holdBack := min 16 (g.holdBack + 1) }
    else if falls then { g with holdBack := g.holdBack - 1, holdTimer := 0 }
    else g
  { g with heldThis := g.heldThis || decide (0 < g.holdBack), holdSum := g.holdSum + g.holdBack }

theorem holdLaw_eq_step (g : Governor) : holdLaw g =
    holdStep (decide (16 * g.ceilMw < p16Sum g + 320000) = true)
      (decide (p16Sum g + 640000 < 16 * g.ceilMw) = true ∧ 0 < g.holdBack ∧ 4 ≤ min (g.holdTimer + 1) 4)
      { g with holdTimer := min (g.holdTimer + 1) 4 } := rfl

section
variable (hot falls : Prop) [Decidable hot] [Decidable falls] (g : Governor)

theorem holdStep_holdBack : (holdStep hot falls g).holdBack =
    if hot then min 16 (g.holdBack + 1) else if falls then g.holdBack - 1 else g.holdBack := by
  by_cases h : hot <;> by_cases f : falls <;> simp [holdStep, h, f]

/-- hold_back's rule moves nothing that ballast's rule reads. -/
theorem holdStep_fields :
    (holdStep hot falls g).power = g.power ∧ (holdStep hot falls g).sumMw = g.sumMw ∧
    (holdStep hot falls g).samples = g.samples ∧ (holdStep hot falls g).mainMv = g.mainMv ∧
    (holdStep hot falls g).ceilMw = g.ceilMw ∧ (holdStep hot falls g).floorMw = g.floorMw ∧
    (holdStep hot falls g).clock = g.clock ∧ (holdStep hot falls g).ballast = g.ballast ∧
    (holdStep hot falls g).ballastTimer = g.ballastTimer := by
  by_cases h : hot <;> by_cases f : falls <;> simp [holdStep, h, f]

end

@[simp] theorem holdLaw_fields (g : Governor) :
    (holdLaw g).power = g.power ∧ (holdLaw g).sumMw = g.sumMw ∧ (holdLaw g).samples = g.samples ∧
    (holdLaw g).mainMv = g.mainMv ∧ (holdLaw g).ceilMw = g.ceilMw ∧ (holdLaw g).floorMw = g.floorMw ∧
    (holdLaw g).clock = g.clock ∧ (holdLaw g).ballast = g.ballast ∧ (holdLaw g).ballastTimer = g.ballastTimer := by
  rw [holdLaw_eq_step]; exact holdStep_fields _ _ _

@[simp] theorem p16Sum_holdLaw (g : Governor) : p16Sum (holdLaw g) = p16Sum g := by
  rw [p16Sum, (holdLaw_fields g).1]; rfl

/-- hold_back after one sample: up within 20 W of the ceiling, down more than 40 W below it and four samples on. -/
theorem holdLaw_holdBack (g : Governor) : (holdLaw g).holdBack =
    if 16 * g.ceilMw < p16Sum g + 320000 then min 16 (g.holdBack + 1)
    else if p16Sum g + 640000 < 16 * g.ceilMw ∧ 0 < g.holdBack ∧ 3 ≤ g.holdTimer then g.holdBack - 1
    else g.holdBack := by
  have timed : 4 ≤ min (g.holdTimer + 1) 4 ↔ 3 ≤ g.holdTimer := by omega
  rw [holdLaw_eq_step, holdStep_holdBack]
  exact if_congr decide_eq_true_iff rfl (if_congr (and_congr decide_eq_true_iff (and_congr Iff.rfl timed)) rfl rfl)

@[simp] theorem ballastLaw_fields (works : Bool) (n p : Nat) (g : Governor) :
    (ballastLaw works n p g).power = g.power ∧ (ballastLaw works n p g).sumMw = g.sumMw ∧
    (ballastLaw works n p g).samples = g.samples ∧ (ballastLaw works n p g).mainMv = g.mainMv ∧
    (ballastLaw works n p g).ceilMw = g.ceilMw ∧ (ballastLaw works n p g).floorMw = g.floorMw ∧
    (ballastLaw works n p g).clock = g.clock ∧ (ballastLaw works n p g).holdBack = g.holdBack := by
  simp only [ballastLaw]; (repeat' split) <;> simp

/-- ballast_level after one sample: its three rules in their order. -/
theorem ballastLaw_ballast (works : Bool) (n p : Nat) (g : Governor) : (ballastLaw works n p g).ballast =
    if 16 * g.ceilMw < p16Sum g + 320000 ∧ 0 < g.ballast ∧ works = false then g.ballast - 1
    else if p16Sum g < 16 * (g.floorMw + 20000) ∧ 0 < n then
      min 15 (g.ballast + max 1 ((g.floorMw + 20000 - p + n * ballastInc g.clock - 1) / (n * ballastInc g.clock)))
    else if 16 * (g.floorMw + 60000) < p16Sum g ∧ 0 < g.ballast ∧ 7 ≤ g.ballastTimer then g.ballast - 1
    else g.ballast := by
  have timed : 8 ≤ min (g.ballastTimer + 1) 8 ↔ 7 ≤ g.ballastTimer := by omega
  simp only [ballastLaw, decide_eq_true_eq, timed, apply_ite Governor.ballast]

theorem idleTiles_congr {s u : State} (life : u.life.state = s.life.state) (descent : u.life.descent = s.life.descent)
    (rails : u.gov.railsOn = s.gov.railsOn) (spares : u.gov.sparesNow = s.gov.sparesNow) (tiles : u.tiles = s.tiles) :
    idleTiles u = idleTiles s := by
  have runs : packageRuns u = packageRuns s := by unfold packageRuns; rw [life, descent]
  simp only [idleTiles, runs, rails, spares, tiles]

/-- A sample's voltages, tracked (R127, R128). -/
def voltagesTaken (t mainMv bulkMv : Nat) (pf : Bool) (s : State) : State :=
  let s := (clockTo t s).modPins fun x => { x with pfWarn := pf }
  s.modGov fun g =>
    trackInput s.now mainMv pf { g with mainMv := mainMv, bulkMv := bulkMv, volts := (mainMv :: g.volts).take 16 }

/-- A sample's power, in p16 and in the half-cycle's sums (R128, R130). -/
def powerTaken (p : Nat) (s : State) : State :=
  s.modGov fun g => { g with power := (p :: g.power).take 16, sumMw := g.sumMw + p, samples := g.samples + 1 }

/-- The envelope's test (R132, R156). -/
def envelopeTested (s : State) : State :=
  if measuring s.gov && outsideEnvelope s.gov then noteRecord 0x2004 utInput 0 (count 0x2130 3 1 s) else s

@[simp] theorem envelopeTested_fields (s : State) :
    (envelopeTested s).now = s.now ∧ (envelopeTested s).pins = s.pins ∧ (envelopeTested s).rb = s.rb ∧
    (envelopeTested s).life = s.life ∧ (envelopeTested s).net = s.net ∧
    (envelopeTested s).tiles = s.tiles ∧ (envelopeTested s).tiers = s.tiers ∧ (envelopeTested s).prog = s.prog ∧
    (envelopeTested s).links = s.links ∧ (envelopeTested s).coll = s.coll ∧ (envelopeTested s).junc = s.junc ∧
    (envelopeTested s).fab = s.fab ∧ (envelopeTested s).sweep = s.sweep ∧ (envelopeTested s).hostMem = s.hostMem ∧
    (envelopeTested s).hbm = s.hbm ∧ (envelopeTested s).cellar = s.cellar ∧
    (envelopeTested s).freeCount = s.freeCount ∧ (envelopeTested s).pending = s.pending := by
  simp only [envelopeTested]; split <;> simp

@[simp] theorem envelopeTested_gov (s : State) : (envelopeTested s).gov = s.gov := by
  simp only [envelopeTested]; split <;> simp

@[simp] theorem envelopeTested_unnoted (s : State) : (envelopeTested s).unnoted = s.unnoted := by
  simp only [envelopeTested]; split <;> simp

/-- The ballast energy counted (R147). -/
def energyCounted (s : State) : State :=
  let nj := s.gov.ballastNj + ballastEnergy s
  count 0x2130 1 (nj / 1000000) (s.modGov fun g => { g with ballastNj := nj % 1000000 })

/-- The control law applied to a sample. -/
def lawApplied (p : Nat) (s : State) : State :=
  s.modGov fun g => ballastLaw (anyTileWorks s) (idleTiles s) p (holdLaw g)

section
variable (t mainMv bulkMv p : Nat) (pf : Bool) (s : State)

/-- A member with a sample taken, but for the envelope's record, the ballast energy and the control law. -/
def sampleTaken : State := { s with
  now := max s.now t, pins := { s.pins with pfWarn := pf }
  gov := { trackInput (max s.now t) mainMv pf
      { s.gov with mainMv := mainMv, bulkMv := bulkMv, volts := (mainMv :: s.gov.volts).take 16 } with
    power := (p :: s.gov.power).take 16, sumMw := s.gov.sumMw + p, samples := s.gov.samples + 1 }
  life := { s.life with startSince := none, startDue := false } }

/-- A member after a sample. -/
def afterSample : State := lawApplied p (energyCounted (envelopeTested (sampleTaken t mainMv bulkMv p pf s)))

variable {s} (hg : s.gov.state = .regulating) (hm : isMember s = true)
include hm

theorem powerTaken_settle : powerTaken p (settle (voltagesTaken t mainMv bulkMv pf s)) =
    sampleTaken t mainMv bulkMv p pf s := by
  rw [settle_elsewhere (s := voltagesTaken t mainMv bulkMv pf s) (isMember_not_waiting hm).2.1
    (isMember_not_waiting hm).2.2]
  rfl

include hg

theorem exec_powerSample : exec (.powerSample t mainMv bulkMv p pf) s = .next (afterSample t mainMv bulkMv p pf s) := by
  let settled := settle (voltagesTaken t mainMv bulkMv pf s)
  have state : settled.gov.state = .regulating := by simpa [settled, voltagesTaken, trackInput] using hg
  have sampled : ¬ (!sampling settled.gov) = true := by rw [sampling, state]; decide
  have law : ¬ (!regulating (envelopeTested (powerTaken p settled)).gov) = true := by
    rw [envelopeTested_gov, regulating, show (powerTaken p settled).gov.state = .regulating from state]
    decide
  rw [afterSample, ← powerTaken_settle t mainMv bulkMv p pf hm]
  exact (if_neg (isMember_not_waiting hm).1).trans ((if_neg sampled).trans (if_neg law))

end

section
variable (t mainMv bulkMv p : Nat) (pf : Bool) (s : State)

theorem afterSample_frame : afterSample t mainMv bulkMv p pf s = { s with
    now := max s.now t, pins := { s.pins with pfWarn := pf }, gov := (afterSample t mainMv bulkMv p pf s).gov
    life := (afterSample t mainMv bulkMv p pf s).life, contain := (afterSample t mainMv bulkMv p pf s).contain
    kiosk := (afterSample t mainMv bulkMv p pf s).kiosk, host := (afterSample t mainMv bulkMv p pf s).host
    outbox := (afterSample t mainMv bulkMv p pf s).outbox } := by
  apply State.ext_fields <;> simp [afterSample, lawApplied, energyCounted, sampleTaken]

theorem afterSample_noted : Noted s (afterSample t mainMv bulkMv p pf s) := by
  let tested := envelopeTested (sampleTaken t mainMv bulkMv p pf s)
  refine (noted_iff _ _).mpr ?_
  calc (afterSample t mainMv bulkMv p pf s).unnoted
    _ = (energyCounted tested).unnoted := modGov_unnoted _ _
    _ = tested.unnoted := (count_unnoted _ _ _ _).trans (modGov_unnoted _ _)
    _ = s.unnoted := envelopeTested_unnoted _

/-- The control law acts on the sampled governor, with the tiles that work and that may run ballast as they stand. -/
theorem afterSample_gov : ∃ nj, (afterSample t mainMv bulkMv p pf s).gov =
    ballastLaw (anyTileWorks s) (idleTiles s) p
      (holdLaw { (sampleTaken t mainMv bulkMv p pf s).gov with ballastNj := nj }) := by
  let w := energyCounted (envelopeTested (sampleTaken t mainMv bulkMv p pf s))
  have tiles : w.tiles = s.tiles := by simp [w, energyCounted, sampleTaken]
  have works : anyTileWorks w = anyTileWorks s := by rw [anyTileWorks, tiles]; rfl
  have idle : idleTiles w = idleTiles s :=
    idleTiles_congr (by simp [w, energyCounted, sampleTaken]) (by simp [w, energyCounted, sampleTaken])
      (by simp [w, energyCounted, sampleTaken, trackInput]) (by simp [w, energyCounted, sampleTaken, trackInput]) tiles
  refine ⟨w.gov.ballastNj, ?_⟩
  rw [← works, ← idle, ← envelopeTested_gov (sampleTaken t mainMv bulkMv p pf s)]
  simp [afterSample, lawApplied, w, energyCounted]

end

/-- Settles O4: the sample by `afterSample`, hold_back and ballast_level by the equations of their two laws. -/
theorem controlLaw : Obligations.ControlLaw := by
  intro t mainMv bulkMv p pf s hg hm sum hot cool low high ease unit
  obtain ⟨nj, law⟩ := afterSample_gov t mainMv bulkMv p pf s
  refine ⟨_, exec_powerSample t mainMv bulkMv p pf hg hm, afterSample_frame .., afterSample_noted .., ?_⟩
  rw [law]
  simp only [ballastLaw_fields, holdLaw_fields]
  refine ⟨rfl, rfl, rfl, rfl, rfl, rfl, rfl, ?_, ?_, ?_, ?_, ?_, ?_, ?_⟩ <;>
    simp only [holdLaw_holdBack, ballastLaw_ballast, holdLaw_fields, p16Sum_holdLaw]
  · exact fun h => if_pos h
  · exact fun h hc hp ht => (if_neg h).trans (if_pos ⟨hc, hp, ht⟩)
  · exact fun h hf => (if_neg h).trans (if_neg hf)
  · exact fun h => if_pos h
  · exact fun h hl hi => (if_neg h).trans (if_pos ⟨hl, hi⟩)
  · exact fun h hl hh hp ht => (if_neg h).trans ((if_neg hl).trans (if_pos ⟨hh, hp, ht⟩))
  · exact fun h hl hh => (if_neg h).trans ((if_neg hl).trans (if_neg hh))

end Sys2Proof.Machine

namespace Sys2Proof.Machine

/-! ## The half-cycle boundary (R130, R133, R134, R138, R148 to R152, R183) -/

theorem clockLaw_frame (sum n : Nat) (g : Governor) : clockLaw sum n g = { g with clock := (clockLaw sum n g).clock } := by
  simp only [clockLaw]; (repeat' split) <;> rfl

theorem clockLaw_down {sum n : Nat} {g : Governor} (high : 4 * n < sum) (floor : g.clock ≠ g.clockFloorNow)
    (above : 1200 < g.clock) : (clockLaw sum n g).clock = g.clock - 200 := by
  rw [clockLaw, if_pos ⟨high, floor, above⟩]

theorem clockLaw_up {sum n : Nat} {g : Governor} (low : ¬ 4 * n < sum) (halves : 4 ≤ g.lowHalves)
    (below : g.clock < 1800) : (clockLaw sum n g).clock = g.clock + 200 := by
  rw [clockLaw, if_neg fun h => low h.1, if_pos ⟨halves, below⟩]

theorem clockLaw_stands {sum n : Nat} {g : Governor} (low : ¬ 4 * n < sum) (halves : ¬ 4 ≤ g.lowHalves) :
    (clockLaw sum n g).clock = g.clock := by
  rw [clockLaw, if_neg fun h => low h.1, if_neg fun h => halves h.1]

/-- The half-cycles in a row with a low mean, as the boundary counts the one just ended (R152). -/
theorem closeHalf_lowHalves (g : Governor) :
    (closeHalf g).lowHalves = if g.holdSum < g.samples then min 4 (g.lowHalves + 1) else 0 := rfl

/-- The governor as a boundary leaves it, where no record of the input is due. -/
def boundaryGov (busy : Bool) (s : State) : Governor :=
  fixLimits (if s.gov.workThis || busy then 0 else s.gov.idleHalf + 1)
    (clockLaw s.gov.holdSum s.gov.samples (loadPolicy s (closeHalf s.gov)))

/-- A half-cycle in which hold_back was above zero, counted (0x2130:02). -/
def heldCounted (s : State) : State := if s.gov.heldThis then count 0x2130 2 1 s else s

theorem heldCounted_frame (s : State) : heldCounted s =
    { s with kiosk := { s.kiosk with counters := (heldCounted s).kiosk.counters } } := by
  simp only [heldCounted]; split <;> rfl

@[simp] theorem heldCounted_gov (s : State) : (heldCounted s).gov = s.gov := by rw [heldCounted_frame]

theorem loadPolicy_heldCounted (s : State) (g : Governor) : loadPolicy (heldCounted s) g = loadPolicy s g := by
  rw [heldCounted_frame]; rfl

/-- Brownout neither begins nor ends. -/
theorem brownoutStep_steady {s : State} (hb : s.gov.brownDue = false ∨ s.gov.state ≠ .regulating)
    (hc : s.gov.state ≠ .brownout) : brownoutStep s = s := by
  have begins : ¬ (s.gov.brownDue = true ∧ s.gov.state = .regulating) := by
    rintro ⟨due, state⟩
    exact hb.elim (by simp [due]) (fun h => h state)
  rw [brownoutStep, if_neg begins, if_neg fun h => hc h.2]

theorem governorBoundary_quiet (busy : Bool) {s : State} (hb : s.gov.brownDue = false ∨ s.gov.state ≠ .regulating)
    (hc : s.gov.state ≠ .brownout) (ho : s.gov.overDue = false) :
    governorBoundary busy s = (heldCounted s).modGov fun _ => boundaryGov busy s := by
  have steady : brownoutStep (heldCounted s) = heldCounted s :=
    brownoutStep_steady (by rwa [heldCounted_gov]) (by rwa [heldCounted_gov])
  have quiet : ¬ (heldCounted s).gov.overDue = true := by simp [ho]
  unfold governorBoundary
  extract_lets idle s1 s2 s3
  have same : s3 = heldCounted s := by
    rw [← steady] at quiet
    exact (if_neg quiet).trans steady
  rw [same]
  simp [State.modGov, loadPolicy_heldCounted, boundaryGov, idle]

/-- FAB_VDD moves nothing but the chiplets. -/
theorem forEach_modChip_frame (f : Nat → State → Chiplet → Chiplet) (xs : List Nat) (s : State) :
    forEach (fun c s => modChip c (f c s) s) xs s = { s with
      fab := { s.fab with chips := (forEach (fun c s => modChip c (f c s) s) xs s).fab.chips } } := by
  induction xs generalizing s with
  | nil => rfl
  | cons c cs ih => exact ih (modChip c (f c s) s)

theorem fabSupply_frame (s : State) :
    fabSupply s = { s with fab := { s.fab with chips := (fabSupply s).fab.chips } } := by
  simp only [fabSupply]; split
  · exact forEach_modChip_frame _ _ s
  · rfl

/-- What the sled does at a boundary after the governor's part. -/
def boundaryRest (s : State) : State := fabSupply (supplyStep (sweepBoundary (descentStep (startStep (sweepFloor s)))))

theorem descentStep_idle {s : State} (h : s.life.descent = .idle) : descentStep s = s := by
  simp only [descentStep, h]

theorem sweepBoundary_elsewhere {s : State} (hl : s.life.state ≠ .left) (hs : s.life.state ≠ .sweep) :
    sweepBoundary s = s := by
  have ready : sweepReady s = s := if_neg fun h => hl h.1
  rw [sweepBoundary, ready]
  exact if_neg fun h => hs h.1

/-- A member that does not descend: beside the governor only FAB_VDD follows. -/
theorem boundaryRest_member {s : State} (hm : isMember s = true) (hd : s.life.descent = .idle) :
    boundaryRest s = fabSupply s := by
  have state : s.life.state ≠ .sweep ∧ s.life.state ≠ .standby ∧ s.life.state ≠ .left ∧ s.life.state ≠ .powered := by
    refine ⟨?_, ?_, ?_, ?_⟩ <;> intro e <;> simp [isMember, e] at hm
  obtain ⟨sweep, standby, left, powered⟩ := state
  have floor : sweepFloor s = s := if_neg fun h => sweep h.1
  have start : startStep s = s := if_neg fun h => standby h.1
  have supply : supplyStep s = s := if_neg fun h => powered h.1
  rw [boundaryRest, floor, start, descentStep_idle hd, sweepBoundary_elsewhere left sweep, supply]

/-- A boundary from STANDBY with a qualified start enters PRECHARGE, and there nothing else of a boundary applies. -/
theorem boundaryRest_start {s : State} (hs : s.life.state = .standby) (hq : s.life.startDue = true)
    (hd : s.life.descent = .idle) : boundaryRest s = startStep s := by
  have floor : sweepFloor s = s := if_neg fun h => by simp [hs] at h
  have start : startStep s = enterLife .precharge
      ((s.modGov fun g => { g with state := .precharge }).modLife fun l => { l with startDue := false }) :=
    if_pos ⟨hs, hq⟩
  have life : (startStep s).life.state = .precharge ∧ (startStep s).life.descent = .idle := by simp [start, hd]
  have supply : supplyStep (startStep s) = startStep s := if_neg fun h => by simp [life.1] at h
  have fabric : fabSupply (startStep s) = startStep s := if_neg fun h => by simp [packageRuns, life.1] at h
  rw [boundaryRest, floor, descentStep_idle life.2, sweepBoundary_elsewhere (by simp [life.1]) (by simp [life.1]),
    supply, fabric]

theorem exec_halfCycleBoundary (t : Nat) {s : State} (hb : s.rb.boundaryDue = true) (ha : s.life.state ≠ .absent) :
    exec (.halfCycleBoundary t) s = .next (boundaryRest (governorBoundary (hostBusy s)
      ((clockTo t s).modRb fun r => { r with boundaryDue := false }))) :=
  if_neg fun h => h.elim (fun e => Bool.noConfusion (e.symm.trans hb)) ha

/-- The sled after the governor's part of a boundary at which no record of the input is due. -/
def governed (t : Nat) (s : State) : State := { s with
  now := max s.now t, rb := { s.rb with boundaryDue := false }, gov := boundaryGov (hostBusy s) s
  kiosk := { s.kiosk with counters := (heldCounted s).kiosk.counters } }

theorem exec_halfCycleBoundary_quiet (t : Nat) {s : State} (hd : s.rb.boundaryDue = true) (ha : s.life.state ≠ .absent)
    (hb : s.gov.brownDue = false ∨ s.gov.state ≠ .regulating) (hc : s.gov.state ≠ .brownout)
    (ho : s.gov.overDue = false) : exec (.halfCycleBoundary t) s = .next (boundaryRest (governed t s)) := by
  let w := (clockTo t s).modRb fun r => { r with boundaryDue := false }
  have counted : (heldCounted w).kiosk.counters = (heldCounted s).kiosk.counters := by
    have gov : w.gov = s.gov := rfl
    simp only [heldCounted, gov]; split <;> rfl
  have quiet : governorBoundary (hostBusy s) w = governed t s := by
    rw [governorBoundary_quiet (s := w) (hostBusy s) hb hc ho, heldCounted_frame, counted]; rfl
  rw [exec_halfCycleBoundary t hd ha, ← quiet]

/-! ### The limits and the tile clock that a boundary fixes -/

section
variable (busy : Bool) (s : State)

theorem boundaryGov_eq : boundaryGov busy s =
    fixLimits (if s.gov.workThis || busy then 0 else s.gov.idleHalf + 1)
      { loadPolicy s (closeHalf s.gov) with
        clock := (clockLaw s.gov.holdSum s.gov.samples (loadPolicy s (closeHalf s.gov))).clock } := by
  rw [boundaryGov, clockLaw_frame]

theorem boundaryGov_clock : (boundaryGov busy s).clock =
    (clockLaw s.gov.holdSum s.gov.samples (loadPolicy s (closeHalf s.gov))).clock := by rw [boundaryGov_eq]; rfl

theorem boundaryGov_dMw : (boundaryGov busy s).dMw = 1000 * min (objAt s 0x2111 0) 800 := by rw [boundaryGov_eq]; rfl

theorem boundaryGov_uMw : (boundaryGov busy s).uMw =
    1000 * (if s.gov.state = .brownout ∨ s.gov.overVolt = true then 0 else min (objAt s 0x2110 0) 800) := by
  rw [boundaryGov_eq]; rfl

theorem boundaryGov_ceilMw (h : (closeHalf s.gov).fatalCapMw = none) : (boundaryGov busy s).ceilMw =
    max (min ((closeHalf s.gov).aMw + (boundaryGov busy s).uMw) (1000 * objAt s 0x2112 0))
      ((closeHalf s.gov).aMw - (boundaryGov busy s).dMw) := by
  rw [boundaryGov_eq]; simp only [fixLimits, loadPolicy, h]

theorem boundaryGov_floorMw (h : s.gov.fullDepth = false) : (boundaryGov busy s).floorMw =
    min ((closeHalf s.gov).aMw - (if objAt s 0x2114 0 ≤ (boundaryGov busy s).idleHalf then (boundaryGov busy s).dMw
      else min (1000 * objAt s 0x2113 0) (boundaryGov busy s).dMw)) (boundaryGov busy s).ceilMw := by
  have shallow : (closeHalf s.gov).fullDepth = false := h
  rw [boundaryGov_eq]; simp only [fixLimits, loadPolicy, shallow, Bool.or_false, decide_eq_true_eq]

theorem fixLimits_floor_le_ceil (idle : Nat) (g : Governor) : (fixLimits idle g).floorMw ≤ (fixLimits idle g).ceilMw :=
  Nat.min_le_right _ _

end

theorem boundary_startsPrecharge (t : Nat) (s : State) (hs : s.life.state = .standby) (hq : s.life.startDue = true)
    (hb : s.rb.boundaryDue = true) (hd : s.life.descent = .idle) (hg : s.gov.state = .off) (ho : s.gov.overDue = false) :
    ∃ u, exec (.halfCycleBoundary t) s = .next u ∧ u.life.state = .precharge ∧ u.gov.state = .precharge ∧
      u.gov.dMw = 1000 * min (objAt s 0x2111 0) 800 ∧ u.gov.floorMw ≤ u.gov.ceilMw ∧
      (s.gov.overVolt = false → u.gov.uMw = 1000 * min (objAt s 0x2110 0) 800) ∧ u.rb = { s.rb with boundaryDue := false } ∧
      SameMemories s u ∧ SameWork s u := by
  have start : boundaryRest (governed t s) = { governed t s with
      gov := { boundaryGov (hostBusy s) s with state := .precharge }
      life := { s.life with state := .precharge, since := max s.now t, dropOff := false, startDue := false } } := by
    rw [boundaryRest_start (s := governed t s) hs hq hd]; exact if_pos ⟨hs, hq⟩
  refine ⟨_, exec_halfCycleBoundary_quiet t hb (by simp [hs]) (.inr (by simp [hg])) (by simp [hg]) ho, ?_⟩
  rw [start]
  refine ⟨rfl, rfl, boundaryGov_dMw (hostBusy s) s, fixLimits_floor_le_ceil _ _, fun hv => ?_, rfl, fun _ => ⟨rfl, rfl, rfl⟩,
    rfl, rfl, rfl, rfl, rfl, rfl⟩
  exact (boundaryGov_uMw (hostBusy s) s).trans (by simp [hg, hv])

theorem boundary_fixesLimits (t : Nat) (s : State) (hm : isMember s = true) (hd : s.life.descent = .idle)
    (hb : s.rb.boundaryDue = true) (hg : s.gov.state = .regulating) (hw : s.gov.brownDue = false)
    (ho : s.gov.overDue = false) :
    exec (.halfCycleBoundary t) s = .next (fabSupply (governed t s)) := by
  rw [exec_halfCycleBoundary_quiet t hb (isMember_not_waiting hm).1 (.inl hw) (by simp [hg]) ho,
    boundaryRest_member (s := governed t s) hm hd]

/-- Settles O5: the boundary's governor by `boundaryGov` and the lemmas on its limits, the rest by `boundaryRest_start` and
`boundaryRest_member`. -/
theorem boundaryFixesLimits : Obligations.BoundaryFixesLimits := by
  refine ⟨fun t s hs hq hb hd hg ho _ => boundary_startsPrecharge t s hs hq hb hd hg ho, ?_⟩
  intro t s hm hd hb hg hw ho hn hcap hfatal hdepth a up down ceiling idle depth
  refine ⟨_, boundary_fixesLimits t s hm hd hb hg hw ho, ?_⟩
  have gov : (fabSupply (governed t s)).gov = boundaryGov (hostBusy s) s := by rw [fabSupply_frame]; rfl
  rw [gov]
  have closed : (closeHalf s.gov).aMw = a ∧ (closeHalf s.gov).fatalCapMw = none := by
    simp [closeHalf, hcap, hfatal, a, Nat.ne_of_gt hn]
  have stays : ¬ s.gov.state = .brownout := by simp [hg]
  have average : (boundaryGov (hostBusy s) s).aMw = a := by rw [boundaryGov_eq]; exact closed.1
  have raise : (boundaryGov (hostBusy s) s).uMw = up := by rw [boundaryGov_uMw]; simp [stays, up]
  have lower : (boundaryGov (hostBusy s) s).dMw = down := boundaryGov_dMw (hostBusy s) s
  have top : (boundaryGov (hostBusy s) s).ceilMw = ceiling := by
    rw [boundaryGov_ceilMw _ _ closed.2, raise, lower, closed.1]
  have idles : (boundaryGov (hostBusy s) s).idleHalf = idle := by rw [boundaryGov_eq]; rfl
  refine ⟨by rw [fabSupply_frame]; rfl, average, raise, lower, top, ?_, idles, ?_, ?_, ?_, ?_, ?_, ?_, ?_, ?_, ?_, ?_⟩
  · rw [boundaryGov_floorMw _ _ hdepth, closed.1, lower, top, idles]
  · rw [boundaryGov_eq]; simp [fixLimits, loadPolicy]
  · rw [boundaryGov_eq]; rfl
  · rw [boundaryGov_eq]; rfl
  · rw [boundaryGov_eq]; rfl
  · rw [boundaryGov_eq]; exact hg
  · rw [boundaryGov_eq]; rfl
  · rw [boundaryGov_eq]; rfl
  · intro high floor above
    rw [boundaryGov_clock]; exact clockLaw_down high floor above
  · intro low rising halves below
    rw [boundaryGov_clock]
    exact clockLaw_up (by omega) (by simp only [loadPolicy, closeHalf_lowHalves, if_pos rising]; omega) below
  · intro low steady
    rw [boundaryGov_clock]
    exact clockLaw_stands (by omega) (by simp [loadPolicy, closeHalf_lowHalves, Nat.not_lt.mpr steady])

end Sys2Proof.Machine

namespace Sys2Proof.Machine

/-! ## The drop: a commit that event 2 cuts short is answered over the field network (R288, R313) -/

/-- A follower in the quiet window before the beacon of cycle 1,000, with PF_WARN_N asserted since 1 ms: an open JOP session's
image commit is still being verified. -/
def commitInQuietWindow : State :=
  { now := 1000000
    life := { state := .joined }
    rb := { state := .locked, cycle := 1000, phase := 700 }
    gov := { state := .regulating, pfSince := some 1000000 }
    net := { state := .follower, nodeId := 5, gotCycle := some 992, neighbours := [(7, 9)] }
    kiosk := { sessions := [(3, { phase := 2, rights := 2, slot := 1 })]
               staging := some { session := 3, mailbox := false, key := objKey 0x1302 0, data := [], seen := 0,
                                 verifying := some 11, client := 7 * 65536 + 61605 } } }

/-- The curfew cuts the commit of `commitInQuietWindow` short, and its CURFEW reply waits for the end of the quiet window. -/
theorem curfewDeclare_holds_reply (u : State) (h : exec (.curfewDeclare 1002000) commitInQuietWindow = .next u) :
    u.net.held.length = 1 := by
  have k : (match exec (.curfewDeclare 1002000) commitInQuietWindow with
    | .next u => u.net.held.length
    | _ => 0) = 1 := by decide +kernel
  rwa [h] at k

/-- Refutes O6: the statement's frame keeps the whole field network at event 2, but the reply to a commit that curfew cuts
short is held back there in the quiet window (R288, R313). -/
theorem not_dropSequence : ¬ Obligations.DropSequence := by
  unfold Obligations.DropSequence
  intro h
  obtain ⟨declared, -⟩ := h.1 1002000 commitInQuietWindow (by decide) (by decide)
  obtain ⟨u, run, -, -, -, -, -, -, -, -, -, -, -, -, frame⟩ := declared 1000000 (.inr (by decide))
  have stands : u.net = commitInQuietWindow.net := by rw [frame]
  have held := curfewDeclare_holds_reply u run
  rw [stands] at held
  exact absurd held (by decide)

end Sys2Proof.Machine

namespace Sys2Proof.Machine

/-! ## Notices and the beginning of a full reset (R176, R207, R209, R217) -/

theorem forEach_changes_links {α : Type} (f : α → State → State) (h : ∀ a u, ∃ l, f a u = { u with links := l })
    (xs : List α) (s : State) : ∃ l, forEach f xs s = { s with links := l } := by
  induction xs generalizing s with
  | nil => exact ⟨_, rfl⟩
  | cons a as ih =>
    obtain ⟨l, hl⟩ := h a s
    obtain ⟨l', hl'⟩ := ih (f a s)
    exact ⟨l', hl'.trans (by rw [hl])⟩

theorem floodNotice_changes_links (x : Slab) (except : Option Nat) (s : State) :
    ∃ l, floodNotice x except s = { s with links := l } :=
  forEach_changes_links _ (fun p u => by split <;> exact ⟨_, rfl⟩) _ _

theorem linkNotice_changes_links (cause cycle : Nat) (s : State) : ∃ l, linkNotice cause cycle s = { s with links := l } := by
  simp only [linkNotice, portNotice]
  generalize noticeSlab _ _ _ = x
  obtain ⟨l, hl⟩ := floodNotice_changes_links x none (s.modLinks fun l => { l with noticeCount := l.noticeCount + 1 })
  exact ⟨l, hl⟩

/-- A notice moves the links' queues and the field network's, and nothing else. -/
theorem sendNotice_frame (cause cycle : Nat) (s : State) : ∃ n l, sendNotice cause cycle s = { s with net := n, links := l } := by
  obtain ⟨l, hl⟩ := linkNotice_changes_links cause cycle s
  simp only [sendNotice, netNotice, hl]
  split <;> exact ⟨_, _, rfl⟩

@[simp] theorem sendNotice_fields (cause cycle : Nat) (s : State) :
    (sendNotice cause cycle s).now = s.now ∧ (sendNotice cause cycle s).pins = s.pins ∧
    (sendNotice cause cycle s).gov = s.gov ∧ (sendNotice cause cycle s).life = s.life ∧
    (sendNotice cause cycle s).contain = s.contain ∧ (sendNotice cause cycle s).kiosk = s.kiosk ∧
    (sendNotice cause cycle s).host = s.host ∧ (sendNotice cause cycle s).tiles = s.tiles ∧
    (sendNotice cause cycle s).tiers = s.tiers ∧ (sendNotice cause cycle s).prog = s.prog ∧
    (sendNotice cause cycle s).coll = s.coll ∧ (sendNotice cause cycle s).junc = s.junc ∧
    (sendNotice cause cycle s).fab = s.fab ∧ (sendNotice cause cycle s).sweep = s.sweep ∧
    (sendNotice cause cycle s).hostMem = s.hostMem ∧ (sendNotice cause cycle s).hbm = s.hbm ∧
    (sendNotice cause cycle s).cellar = s.cellar ∧ (sendNotice cause cycle s).outbox = s.outbox ∧
    (sendNotice cause cycle s).freeCount = s.freeCount ∧ (sendNotice cause cycle s).pending = s.pending := by
  obtain ⟨n, l, h⟩ := sendNotice_frame cause cycle s
  simp [h]

@[simp] theorem sendNotice_unnoted (cause cycle : Nat) (s : State) : (sendNotice cause cycle s).unnoted = s.unnoted := by
  obtain ⟨n, l, h⟩ := sendNotice_frame cause cycle s
  rw [h]; rfl

@[simp] theorem surpriseNotice_fields (cause : Nat) (s : State) :
    (surpriseNotice cause s).now = s.now ∧ (surpriseNotice cause s).pins = s.pins ∧
    (surpriseNotice cause s).rb = s.rb ∧ (surpriseNotice cause s).gov = s.gov ∧
    (surpriseNotice cause s).life = s.life ∧ (surpriseNotice cause s).contain = s.contain ∧
    (surpriseNotice cause s).host = s.host ∧ (surpriseNotice cause s).tiles = s.tiles ∧
    (surpriseNotice cause s).tiers = s.tiers ∧ (surpriseNotice cause s).prog = s.prog ∧
    (surpriseNotice cause s).coll = s.coll ∧ (surpriseNotice cause s).junc = s.junc ∧
    (surpriseNotice cause s).fab = s.fab ∧ (surpriseNotice cause s).sweep = s.sweep ∧
    (surpriseNotice cause s).hostMem = s.hostMem ∧ (surpriseNotice cause s).hbm = s.hbm ∧
    (surpriseNotice cause s).cellar = s.cellar ∧ (surpriseNotice cause s).outbox = s.outbox ∧
    (surpriseNotice cause s).freeCount = s.freeCount ∧ (surpriseNotice cause s).pending = s.pending := by
  simp only [surpriseNotice]; split <;> simp

@[simp] theorem surpriseNotice_unnoted (cause : Nat) (s : State) : (surpriseNotice cause s).unnoted = s.unnoted := by
  simp only [surpriseNotice]; split <;> simp

theorem surpriseNotice_counted (cause : Nat) {s : State} (h : isMember s = true) :
    Counted 0x3030 7 1 s (surpriseNotice cause s) := by
  simp only [surpriseNotice, if_pos h]
  exact (counted_count _).congr (by simp) rfl

@[simp] theorem stopIssue_fields (s : State) :
    (stopIssue s).now = s.now ∧ (stopIssue s).pins = s.pins ∧ (stopIssue s).rb = s.rb ∧
    (stopIssue s).life = s.life ∧ (stopIssue s).contain = s.contain ∧ (stopIssue s).kiosk = s.kiosk ∧
    (stopIssue s).net = s.net ∧ (stopIssue s).host = s.host ∧ (stopIssue s).tiers = s.tiers ∧
    (stopIssue s).prog = s.prog ∧ (stopIssue s).links = s.links ∧ (stopIssue s).coll = s.coll ∧
    (stopIssue s).junc = s.junc ∧ (stopIssue s).fab = s.fab ∧ (stopIssue s).sweep = s.sweep ∧
    (stopIssue s).hostMem = s.hostMem ∧ (stopIssue s).hbm = s.hbm ∧ (stopIssue s).cellar = s.cellar ∧
    (stopIssue s).outbox = s.outbox ∧ (stopIssue s).freeCount = s.freeCount ∧ (stopIssue s).pending = s.pending := by
  simp [stopIssue]

@[simp] theorem stopIssue_unnoted (s : State) : (stopIssue s).unnoted = s.unnoted := rfl

theorem stopIssue_idles (s : State) : ∀ e ∈ (stopIssue s).tiles, e.2.works = false := by
  intro e he
  obtain ⟨x, -, rfl⟩ := List.mem_map.mp he
  rfl

@[simp] theorem abandonSweep_fields (cause : Nat) (s : State) :
    (abandonSweep cause s).now = s.now ∧ (abandonSweep cause s).pins = s.pins ∧ (abandonSweep cause s).rb = s.rb ∧
    (abandonSweep cause s).gov = s.gov ∧ (abandonSweep cause s).life = { s.life with sweepDue := false } ∧
    (abandonSweep cause s).net = s.net ∧ (abandonSweep cause s).tiles = s.tiles ∧
    (abandonSweep cause s).tiers = s.tiers ∧ (abandonSweep cause s).prog = s.prog ∧
    (abandonSweep cause s).links = s.links ∧ (abandonSweep cause s).coll = s.coll ∧
    (abandonSweep cause s).junc = s.junc ∧ (abandonSweep cause s).fab = s.fab ∧
    (abandonSweep cause s).hostMem = s.hostMem ∧ (abandonSweep cause s).hbm = s.hbm ∧
    (abandonSweep cause s).cellar = s.cellar ∧ (abandonSweep cause s).freeCount = s.freeCount ∧
    (abandonSweep cause s).pending = s.pending := by
  simp only [abandonSweep]; split <;> simp

@[simp] theorem abandonSweep_unnoted (cause : Nat) (s : State) : (abandonSweep cause s).unnoted = s.unnoted := by
  simp only [abandonSweep]; split
  · exact (count_unnoted _ _ _ _).trans (noteRecord_unnoted _ _ _ _)
  · rfl


theorem counterAt_abandonSweep_other {j b : Nat} (folded : objKey j b ≠ objKey 0x9020 1)
    (dropped : objKey j b ≠ objKey 0x9020 2) (abandoned : objKey j b ≠ objKey 0x3120 3) (cause : Nat) (s : State) :
    counterAt (abandonSweep cause s) j b = counterAt s j b := by
  have recorded (u : State) : counterAt (noteRecord 0x300A utSled 0 u) j b = counterAt u j b :=
    counterAt_record_other folded dropped _ _
  simp only [abandonSweep]; split
  · exact (counterAt_count_other _ abandoned).trans (recorded _)
  · rfl

/-- The steps of a full reset's beginning before its descent is entered. -/
def resetAnnounced (s : State) : State :=
  stopIssue (abandonSweep 8 (noteRecord 0x3004 utSled 0 (surpriseNotice 0x3004 s)))

theorem beginFullReset_eq {s : State} (hr : resettable s.life.state = true) (hd : s.life.descent ≠ .toReset) :
    beginFullReset s = ((resetAnnounced s).modGov fun g => { g with fullDepth := true }).modLife fun l => { l with
      descent := .toReset, lastCause := 0x3004, departCycle := 0, sweepDue := false } :=
  if_neg fun h => h.elim (by simp [hr]) hd

section
variable {s : State} (hr : resettable s.life.state = true) (hd : s.life.descent ≠ .toReset)
include hr hd

theorem beginFullReset_life : (beginFullReset s).life = { s.life with
    descent := .toReset, lastCause := 0x3004, departCycle := 0, sweepDue := false } := by
  simp [beginFullReset_eq hr hd, resetAnnounced]

theorem beginFullReset_fullDepth : (beginFullReset s).gov.fullDepth = true := by simp [beginFullReset_eq hr hd]

theorem beginFullReset_idles : ∀ e ∈ (beginFullReset s).tiles, e.2.works = false := by
  have tiles : (beginFullReset s).tiles = (resetAnnounced s).tiles := by simp [beginFullReset_eq hr hd]
  rw [tiles]; exact stopIssue_idles _

theorem beginFullReset_noted : Noted s (beginFullReset s) := by
  rw [noted_iff]
  calc (beginFullReset s).unnoted
    _ = (resetAnnounced s).unnoted := by rw [beginFullReset_eq hr hd]; rfl
    _ = s.unnoted := by simp [resetAnnounced]

theorem beginFullReset_counted (h : isMember s = true) : Counted 0x3030 7 1 s (beginFullReset s) := by
  have stands : counterAt (beginFullReset s) 0x3030 7 = counterAt (surpriseNotice 0x3004 s) 0x3030 7 :=
    calc counterAt (beginFullReset s) 0x3030 7
      _ = counterAt (resetAnnounced s) 0x3030 7 := by rw [beginFullReset_eq hr hd]; rfl
      _ = counterAt (noteRecord 0x3004 utSled 0 (surpriseNotice 0x3004 s)) 0x3030 7 :=
        counterAt_abandonSweep_other (by decide) (by decide) (by decide) _ _
      _ = _ := counterAt_record_other (by decide) (by decide) _ _
  exact stands.trans (surpriseNotice_counted _ h)

end

/-- A full reset's beginning leaves the package's memories and units but its tiles, and the Roundabout, as they are. -/
@[simp] theorem beginFullReset_fields (s : State) :
    (beginFullReset s).now = s.now ∧ (beginFullReset s).pins = s.pins ∧ (beginFullReset s).rb = s.rb ∧
    (beginFullReset s).tiers = s.tiers ∧ (beginFullReset s).prog = s.prog ∧ (beginFullReset s).coll = s.coll ∧
    (beginFullReset s).junc = s.junc ∧ (beginFullReset s).fab = s.fab ∧ (beginFullReset s).hostMem = s.hostMem ∧
    (beginFullReset s).hbm = s.hbm ∧ (beginFullReset s).cellar = s.cellar ∧
    (beginFullReset s).freeCount = s.freeCount ∧ (beginFullReset s).pending = s.pending := by
  simp only [beginFullReset]; split <;> simp

theorem packageRuns_resettable {s : State} (h : packageRuns s = true) : resettable s.life.state = true := by
  unfold packageRuns at h
  unfold resettable
  split at h <;> simp_all

/-- What begins with a full reset, whatever asked for it: `v` is the sled as the request finds it. -/
theorem beginFullReset_begins {s v : State} (life : v.life = s.life)
    (counters : counterAt v 0x3030 7 = counterAt s 0x3030 7) (hr : resettable s.life.state = true)
    (hd : s.life.descent ≠ .toReset) :
    (beginFullReset v).life.descent = .toReset ∧ (beginFullReset v).life.state = s.life.state ∧
    (beginFullReset v).life.lastCause = 0x3004 ∧ (beginFullReset v).gov.fullDepth = true ∧
    (∀ e ∈ (beginFullReset v).tiles, e.2.works = false) ∧
    (isMember s = true → Counted 0x3030 7 1 s (beginFullReset v)) := by
  rw [← life] at hr hd ⊢
  rw [beginFullReset_life hr hd]
  refine ⟨rfl, rfl, rfl, beginFullReset_fullDepth hr hd, beginFullReset_idles hr hd, fun member => ?_⟩
  have counted := beginFullReset_counted hr hd (by unfold isMember at member ⊢; rwa [life])
  rwa [Counted, counters] at counted

/-- The host interface and the kiosk as the data link's loss leaves them, before the reset or the queues' end (R405). -/
def linkLost (t : Nat) (s : State) : State :=
  setObj 0x5105 0 0 (count 0xA020 5 1 (endMailboxSession ((clockTo t s).modHost fun h => { h with
    linkUp := false, ready := false, linkWidth := 0, linkRate := 0 })))

section
variable (t : Nat) {held : Nat} {s : State}

theorem exec_perstAssert (long : 100000 ≤ held) (runs : packageRuns s = true) : exec (.perstAssert t held) s =
    .next (beginFullReset ((clockTo t s).modPins fun p => { p with perst := true })) := if_pos ⟨long, runs⟩

theorem exec_hotReset (runs : packageRuns s = true) (up : s.host.linkUp = true) : exec (.hotReset t) s =
    .next (beginFullReset ((clockTo t s).modPins fun p => { p with hotReset := true })) := if_pos ⟨runs, up⟩

theorem exec_hostLinkDown (runs : packageRuns s = true) (up : s.host.linkUp = true) (asks : objAt s 0xA011 0 = 1) :
    exec (.hostLinkDown t) s = .next (beginFullReset (linkLost t s)) := by
  have stands : objAt (linkLost t s) 0xA011 0 = 1 := (objAt_setObj_other _ (by decide)).trans asks
  have acts : ¬ (packageRuns s = false ∨ s.host.linkUp = false) := by simp [runs, up]
  exact (if_neg acts).trans (congrArg Host.Outcome.next (if_pos stands))

theorem linkLost_counter : counterAt (linkLost t s) 0x3030 7 = counterAt s 0x3030 7 :=
  counterAt_count_other _ (by decide)

end

/-- Settles O12: each of the four commands leads to `beginFullReset`, and `beginFullReset_begins` says what begins. -/
theorem fullResetBegins : Obligations.FullResetBegins := by
  intro t held s runs idle up long asks c hc
  have begins (v : State) (life : v.life = s.life) (counters : counterAt v 0x3030 7 = counterAt s 0x3030 7) :=
    beginFullReset_begins life counters (packageRuns_resettable runs) idle
  rcases hc with rfl | rfl | rfl | rfl
  · obtain ⟨h1, h2, h3, h4, h5, h6⟩ := begins (clockTo t s) rfl rfl
    refine ⟨_, rfl, h1, h2, h3, h4, h5, h6, by simp, by simp, by simp, by simp, ?_⟩
    apply State.ext_fields <;> simp
  · obtain ⟨h1, h2, h3, h4, h5, h6⟩ := begins ((clockTo t s).modPins fun p => { p with perst := true }) rfl rfl
    refine ⟨_, exec_perstAssert t long runs, h1, h2, h3, h4, h5, h6, by simp, by simp, by simp, by simp, ?_⟩
    apply State.ext_fields <;> simp
  · obtain ⟨h1, h2, h3, h4, h5, h6⟩ := begins ((clockTo t s).modPins fun p => { p with hotReset := true }) rfl rfl
    refine ⟨_, exec_hotReset t runs up, h1, h2, h3, h4, h5, h6, by simp, by simp, by simp, by simp, ?_⟩
    apply State.ext_fields <;> simp
  · obtain ⟨h1, h2, h3, h4, h5, h6⟩ := begins (linkLost t s) rfl (linkLost_counter t)
    have noted : Noted (linkLost t s) (beginFullReset (linkLost t s)) :=
      beginFullReset_noted (packageRuns_resettable runs) idle
    refine ⟨_, exec_hostLinkDown t runs up asks, h1, h2, h3, h4, h5, h6, by simp, by simp, fun _ => ?_, by simp, ?_⟩
    · refine ⟨?_, ?_, ?_, ?_⟩
      · rw [noted.2]; rfl
      · rw [noted.2]; rfl
      · rw [noted.objAt_eq]; exact objAt_setObj_same _
      · simp [linkLost, endMailboxSession]
    · apply State.ext_fields <;> simp [linkLost, endMailboxSession]

end Sys2Proof.Machine

namespace Sys2Proof.Machine

/-! ## Contacts, straps and the button (R171, R182, R210 to R214, R349, R408, R1099, R1104) -/

/-- STANDBY and OFF follow the inhibits; the press, the holds and the descent stand. -/
@[simp] theorem settle_life_kept (s : State) :
    (settle s).life.press = s.life.press ∧ (settle s).life.pressActed = s.life.pressActed ∧
    (settle s).life.btnHold = s.life.btnHold ∧ (settle s).life.stuck = s.life.stuck ∧
    (settle s).life.stuckHold = s.life.stuckHold ∧ (settle s).life.descent = s.life.descent := by
  simp only [settle]; (repeat' split) <;> simp

theorem settle_powered {s : State} (h : poweredState s.life.state = true) :
    (settle s).life.state = s.life.state ∧ (settle s).life.since = s.life.since := by
  have waits : s.life.state ≠ .standby ∧ s.life.state ≠ .off := by
    constructor <;> intro e <;> simp [poweredState, e] at h
  rw [settle_elsewhere waits.1 waits.2]; exact ⟨rfl, rfl⟩

/-- A contact or strap changes: while standby power holds, the inhibits follow. -/
def contactFollowed (s : State) : State := if s.life.state = .absent then s else settle s

@[simp] theorem contactFollowed_fields (s : State) :
    (contactFollowed s).now = s.now ∧ (contactFollowed s).pins = s.pins ∧ (contactFollowed s).rb = s.rb ∧
    (contactFollowed s).gov = s.gov ∧ (contactFollowed s).contain = s.contain ∧
    (contactFollowed s).kiosk = s.kiosk ∧ (contactFollowed s).net = s.net ∧ (contactFollowed s).tiles = s.tiles ∧
    (contactFollowed s).tiers = s.tiers ∧ (contactFollowed s).prog = s.prog ∧ (contactFollowed s).links = s.links ∧
    (contactFollowed s).coll = s.coll ∧ (contactFollowed s).junc = s.junc ∧ (contactFollowed s).fab = s.fab ∧
    (contactFollowed s).sweep = s.sweep ∧ (contactFollowed s).hostMem = s.hostMem ∧
    (contactFollowed s).hbm = s.hbm ∧ (contactFollowed s).cellar = s.cellar ∧
    (contactFollowed s).freeCount = s.freeCount ∧ (contactFollowed s).pending = s.pending := by
  simp only [contactFollowed]; split <;> simp

theorem contactFollowed_powered {s : State} (h : poweredState s.life.state = true) :
    (contactFollowed s).life.state = s.life.state ∧ (contactFollowed s).life.since = s.life.since := by
  simp only [contactFollowed]; split
  · exact ⟨rfl, rfl⟩
  · exact settle_powered h

theorem earlyNChange_follows (t : Nat) (b : Bool) (s : State) :
    ∃ u, exec (.earlyNChange t b) s = .next u ∧ u.pins = { s.pins with early := b, earlySince := u.pins.earlySince } ∧
      (b = false → u.pins.earlySince = none) ∧ (b = true → s.pins.earlySince = none → u.pins.earlySince = some (max s.now t)) ∧
      (b = true → ∀ a, s.pins.earlySince = some a → u.pins.earlySince = some a) ∧
      (poweredState s.life.state = true → u.life.state = s.life.state ∧ u.life.since = s.life.since) ∧
      u = { s with now := max s.now t, pins := u.pins, life := u.life, host := u.host, outbox := u.outbox } := by
  let v := (clockTo t s).modPins fun p => { p with early := b, earlySince := track b (clockTo t s).now p.earlySince }
  have pins : (contactFollowed v).pins = v.pins := by simp
  refine ⟨contactFollowed v, rfl, ?_, ?_, ?_, ?_, contactFollowed_powered (s := v), ?_⟩
  · rw [pins]; rfl
  · rintro rfl; rw [pins]; rfl
  · rintro rfl unset; rw [pins]; simp [v, track, unset]
  · rintro rfl a set; rw [pins]; simp [v, track, set]
  · apply State.ext_fields <;> simp [v]

theorem prsntNChange_follows (t : Nat) (b : Bool) (s : State) :
    ∃ u, exec (.prsntNChange t b) s = .next u ∧ u.pins = { s.pins with prsnt := b } ∧
      (poweredState s.life.state = true → u.life.state = s.life.state ∧ u.life.since = s.life.since) ∧
      u = { s with now := max s.now t, pins := u.pins, life := u.life, host := u.host, outbox := u.outbox } := by
  let v := (clockTo t s).modPins fun p => { p with prsnt := b }
  refine ⟨contactFollowed v, rfl, by simp [v], contactFollowed_powered (s := v), ?_⟩
  apply State.ext_fields <;> simp [v]

/-! ### A press, its two seconds, its end, and a stuck line -/

section
variable (t : Nat) {a : Nat} {began : LifeState} {s : State}

theorem resetBtnPress_overridden (ha : s.life.state ≠ .absent) (hb : s.pins.btn = false) (ho : s.life.override = true) :
    ∃ u, exec (.resetBtnPress t) s = .next u ∧ Counted 0x3030 4 1 s u ∧
      u = { s with now := max s.now t, pins := { s.pins with btn := true }, kiosk := u.kiosk } := by
  refine ⟨_, (if_neg (by simp [hb])).trans ((if_neg ha).trans (if_pos ho)), ?_, rfl⟩
  exact (counted_count _).congr rfl rfl

theorem resetBtnPress_begins (ha : s.life.state ≠ .absent) (hb : s.pins.btn = false) (ho : s.life.override = false)
    (hp : s.life.press = none) : ∃ u, exec (.resetBtnPress t) s = .next u ∧
      u.life.press = some (max s.now t, s.life.state) ∧ u.life.pressActed = false ∧
      u = { s with
        now := max s.now t, pins := { s.pins with btn := true }, life := u.life, host := u.host, outbox := u.outbox } := by
  refine ⟨_, (if_neg (by simp [hb])).trans ((if_neg ha).trans (if_neg (by simp [ho]))), ?_, ?_, ?_⟩
  · simp [hp]
  · simp [hp]
  · apply State.ext_fields <;> simp

/-- A press has been going on for a time once it has run from its beginning. -/
theorem pressLasts_iff (hp : s.life.press = some (a, began)) (hb : s.pins.btn = true) (ns : Nat) :
    pressLasts s ns = true ↔ a + ns ≤ s.now := by simp [pressLasts, hp, hb]

section
variable (hp : s.life.press = some (a, began))
include hp

theorem exec_resetBtnHold : exec (.resetBtnHold t) s =
    if pressLasts (clockTo t s) 2000000000 = true ∧ s.life.pressActed = false ∧ s.life.override = false then
      .next (settle (longPress (clockTo t s) began))
    else .next (clockTo t s) := by
  simp only [exec, execResetBtnHold, clockTo_fields, hp]

theorem exec_resetStuck : exec (.resetStuck t) s =
    if pressLasts (clockTo t s) 30000000000 = true ∧ s.life.stuck = false ∧ s.life.override = false ∧ began ≠ .curfew then
      .next (settle ((record { cause := 0x3007, cls := 2, unitType := utButton, unit := 0 }
        (count 0x3030 5 1 (clockTo t s))).modLife fun l => { l with stuck := true, stuckHold := true, pressActed := true }))
    else .next (clockTo t s) := by
  simp only [exec, execResetStuck, clockTo_fields, hp]

/-- The line as its deassertion for 10 ms leaves it. -/
def btnReleased (t : Nat) (s : State) : State :=
  ((clockTo t s).modPins fun p => { p with btn := false }).modLife fun l => { l with
    releasedSince := some (max s.now t - 10000000) }

theorem exec_resetBtnRelease (ha : s.life.state ≠ .absent) (hb : s.pins.btn = true) : exec (.resetBtnRelease t) s =
    .next (settle (endPress began (max s.now t - 10000000 - a) (btnReleased t s))) := by
  refine (if_neg ha).trans ((if_neg (by simp [hb])).trans ?_)
  simp only [State.modLife_fields, State.modPins_fields, clockTo_fields, hp]
  rfl

section
variable (hb : s.pins.btn = true)
include hb

theorem resetBtnHold_long (ho : s.life.override = false) (ha : s.life.pressActed = false) (long : a + 2000000000 ≤ max s.now t) :
    exec (.resetBtnHold t) s = .next (settle (longPress (clockTo t s) began)) :=
  (exec_resetBtnHold t hp).trans (if_pos ⟨(pressLasts_iff (s := clockTo t s) hp hb _).mpr long, ha, ho⟩)

theorem resetBtnHold_early (short : max s.now t < a + 2000000000) :
    exec (.resetBtnHold t) s = .next { s with now := max s.now t } := by
  have early : ¬ pressLasts (clockTo t s) 2000000000 = true := fun h =>
    absurd ((pressLasts_iff (s := clockTo t s) hp hb _).mp h) (Nat.not_le.mpr short)
  exact (exec_resetBtnHold t hp).trans (if_neg fun h => early h.1)

theorem resetBtnHold_resets (ho : s.life.override = false) (ha : s.life.pressActed = false)
    (long : a + 2000000000 ≤ max s.now t) (rb : resettable began = true) (rs : resettable s.life.state = true)
    (hd : s.life.descent ≠ .toReset) :
    ∃ u, exec (.resetBtnHold t) s = .next u ∧ u.life.btnHold = true ∧ u.life.pressActed = true ∧
      u.life.descent = .toReset ∧ (∀ e ∈ u.tiles, e.2.works = false) ∧ SameMemories s u ∧ u.prog = s.prog := by
  let v := (clockTo t s).modLife fun l => { l with pressActed := true, btnHold := true }
  have resets : longPress (clockTo t s) began = beginFullReset v := if_pos rb
  have life := beginFullReset_life (s := v) rs hd
  refine ⟨_, (resetBtnHold_long t hp hb ho ha long).trans (by rw [resets]), ?_, ?_, ?_, ?_, ?_, ?_⟩
  · simp [life, v]
  · simp [life, v]
  · simp [life]
  · simp only [settle_fields]; exact beginFullReset_idles rs hd
  · simp [SameMemories, v]
  · simp [v]

theorem resetBtnHold_holds (ho : s.life.override = false) (ha : s.life.pressActed = false)
    (long : a + 2000000000 ≤ max s.now t)
    (waiting : began = .standby ∨ began = .off ∨ began = .precharge ∨ began = .resetHeld) :
    ∃ u, exec (.resetBtnHold t) s = .next u ∧ u.life.btnHold = true ∧ u.life.pressActed = true ∧
      u.gov = s.gov ∧ u.tiles = s.tiles ∧ SameMemories s u := by
  have holds : longPress (clockTo t s) began =
      (clockTo t s).modLife fun l => { l with pressActed := true, btnHold := true } := by
    rcases waiting with rfl | rfl | rfl | rfl <;> rfl
  refine ⟨_, (resetBtnHold_long t hp hb ho ha long).trans (by rw [holds]), ?_, ?_, ?_, ?_, ?_⟩ <;> simp [SameMemories]

theorem resetStuck_holds (ho : s.life.override = false) (long : a + 30000000000 ≤ max s.now t)
    (hs : s.life.stuck = false) (hc : began ≠ .curfew) :
    ∃ u, exec (.resetStuck t) s = .next u ∧ u.life.stuck = true ∧ u.life.stuckHold = true ∧ Counted 0x3030 5 1 s u ∧
      u = { s with
        now := max s.now t, life := u.life, contain := u.contain, kiosk := u.kiosk, host := u.host, outbox := u.outbox } := by
  have lasts := (pressLasts_iff (s := clockTo t s) hp hb 30000000000).mpr long
  refine ⟨_, (exec_resetStuck t hp).trans (if_pos ⟨lasts, hs, ho, hc⟩), by simp, by simp, ?_, ?_⟩
  · have stands (r : LogRecord) : Counted 0x3030 5 1 s (record r (count 0x3030 5 1 (clockTo t s))) :=
      (counterAt_record_other (by decide) (by decide) _ _).trans (counted_count (clockTo t s))
    exact (stands { cause := 0x3007, cls := 2, unitType := utButton, unit := 0 }).congr rfl (by simp)
  · apply State.ext_fields <;> simp

section
variable (hl : s.life.state ≠ .absent) (ha : s.life.pressActed = false)
include hl ha

theorem resetBtnRelease_resets (long : a + 60000000 ≤ max s.now t) (rb : resettable began = true)
    (rs : resettable s.life.state = true) (hd : s.life.descent ≠ .toReset) :
    ∃ u, exec (.resetBtnRelease t) s = .next u ∧ u.pins.btn = false ∧ u.life.press = none ∧
      u.life.descent = .toReset ∧ u.life.btnHold = false ∧ SameMemories s u := by
  let v := (btnReleased t s).modLife fun l => { l with press := none, pressActed := false, btnHold := false }
  have resets : endPress began (max s.now t - 10000000 - a) (btnReleased t s) = beginFullReset v :=
    (if_neg (by simp [btnReleased, ha])).trans (if_pos ⟨by omega, rb, rs, hd⟩)
  have life := beginFullReset_life (s := v) rs hd
  refine ⟨_, (exec_resetBtnRelease t hp hl hb).trans (by rw [resets]), ?_, ?_, ?_, ?_, ?_⟩
  · simp [v, btnReleased]
  · simp [life, v]
  · simp [life]
  · simp [life, v]
  · simp [SameMemories, v, btnReleased]

theorem resetBtnRelease_counts (short : max s.now t < a + 60000000) :
    ∃ u, exec (.resetBtnRelease t) s = .next u ∧ u.pins.btn = false ∧ u.life.press = none ∧
      Counted 0x3030 4 1 s u ∧ u.gov = s.gov ∧ u.tiles = s.tiles ∧ SameMemories s u := by
  let v := (btnReleased t s).modLife fun l => { l with press := none, pressActed := false, btnHold := false }
  have counts : endPress began (max s.now t - 10000000 - a) (btnReleased t s) = count 0x3030 4 1 v :=
    (if_neg (by simp [btnReleased, ha])).trans (if_neg fun h => by omega)
  refine ⟨_, (exec_resetBtnRelease t hp hl hb).trans (by rw [counts]), ?_, ?_, ?_, ?_, ?_, ?_⟩
  · simp [v, btnReleased]
  · simp [v]
  · exact (counted_count v).congr rfl (by simp)
  · simp [v, btnReleased]
  · simp [v, btnReleased]
  · simp [SameMemories, v, btnReleased]

end

end

end

theorem resetStuckClear_clears (hb : s.pins.btn = false) (hr : s.life.releasedSince = some a)
    (long : a + 1000000000 ≤ max s.now t) :
    exec (.resetStuckClear t) s = .next { s with now := max s.now t, life := { s.life with stuck := false } } := by
  have released : lasted (clockTo t s) (clockTo t s).life.releasedSince 1000000000 = true := by
    simp [lasted, hr]; omega
  exact if_pos ⟨hb, released⟩

theorem perstDeassert_trains (runs : packageRuns s = true) : exec (.perstDeassert t) s = .next { s with
    now := max s.now t, pins := { s.pins with perst := false }
    host := { s.host with
      linkUp := false, trainAt := some (max s.now t), ready := false, flitRequired := false, linkWidth := 0, linkRate := 0
      windowSize := objAt s 0xA010 0, windowBase := 0 } } := if_pos runs

theorem perstDeassert_clears (stands : packageRuns s = false) :
    exec (.perstDeassert t) s = .next { s with now := max s.now t, pins := { s.pins with perst := false } } :=
  if_neg (ne_true_of_eq_false stands)

end

/-- Settles O8, command by command. -/
theorem contactsAndButton : Obligations.ContactsAndButton := by
  refine ⟨fun t b s => ?_, fun t a began s => ?_⟩
  · exact ⟨earlyNChange_follows t b s, prsntNChange_follows t b s, rfl, rfl, perstDeassert_trains t, perstDeassert_clears t⟩
  · refine ⟨fun hl hb => ?_, fun hp hb ho => ?_, fun hl hb hp ha => ?_, resetStuckClear_clears t⟩
    · exact ⟨resetBtnPress_overridden t hl hb, resetBtnPress_begins t hl hb⟩
    · exact ⟨fun long ha => resetBtnHold_resets t hp hb ho ha long, fun long ha => resetBtnHold_holds t hp hb ho ha long,
        resetBtnHold_early t hp hb, resetStuck_holds t hp hb ho⟩
    · exact ⟨resetBtnRelease_resets t hp hb hl ha, resetBtnRelease_counts t hp hb hl ha⟩

end Sys2Proof.Machine

namespace Sys2Proof.Machine

/-! ## The start path (R126, R150, R180, R184, R185, R209, R218) -/

/-- Changing one part of the state again and again changes that part. -/
theorem forEach_changes {α β : Type} (get : State → β) (put : β → State → State) (put_get : ∀ u, put (get u) u = u)
    (put_put : ∀ b c u, put c (put b u) = put c u) (f : α → State → State) (h : ∀ a u, ∃ b, f a u = put b u)
    (xs : List α) (s : State) : ∃ b, forEach f xs s = put b s := by
  induction xs generalizing s with
  | nil => exact ⟨_, (put_get s).symm⟩
  | cons a as ih =>
    obtain ⟨b, hb⟩ := h a s
    obtain ⟨c, hc⟩ := ih (f a s)
    exact ⟨c, hc.trans (by rw [hb, put_put])⟩

/-- What no single action touches, their sequence leaves. -/
theorem forEach_keeps {α β : Type} (get : State → β) (f : α → State → State) (h : ∀ a u, get (f a u) = get u)
    (xs : List α) (s : State) : get (forEach f xs s) = get s := by
  induction xs generalizing s with
  | nil => rfl
  | cons a as ih => exact (ih _).trans (h a s)

/-! ### POWERED: the injectors and the endpoint -/

theorem disarmInjectors_frame (s : State) : ∃ o, disarmInjectors s = { s with kiosk := { s.kiosk with objects := o } } :=
  forEach_changes (fun u => u.kiosk.objects) (fun o u => { u with kiosk := { u.kiosk with objects := o } })
    (fun _ => rfl) (fun _ _ _ => rfl) _ (fun _ _ => ⟨_, rfl⟩) _ s

/-- An entry that stands at zero, or is written to zero in its turn, ends at zero. -/
theorem objAt_forEach_disarm (p : Nat) (xs : List Nat) (s : State) (h : p ∈ xs ∨ objAt s (0x7100 + p) 8 = 0) :
    objAt (forEach (fun p s => setObj (0x7100 + p) 8 0 s) xs s) (0x7100 + p) 8 = 0 := by
  induction xs generalizing s with
  | nil => simpa [forEach] using h
  | cons a as ih =>
    refine ih _ ?_
    by_cases e : p = a
    · subst e; exact .inr (objAt_setObj_same s)
    · have other : objKey (0x7100 + p) 8 ≠ objKey (0x7100 + a) 8 := by simp only [objKey]; omega
      rw [objAt_setObj_other s other]
      simpa [e] using h

theorem objAt_disarmInjectors {p : Nat} (hp : p < 16) (s : State) : objAt (disarmInjectors s) (0x7100 + p) 8 = 0 :=
  objAt_forEach_disarm p _ s (.inl (List.mem_range.mpr hp))

/-- The governor as entering POWERED leaves it. -/
def poweredGov (held : Bool) (g : Governor) : Governor :=
  let g := { g with
    clock := 1800, lowHalves := 0, state := if g.state = .brownout then .brownout else .regulating
    switchClosed := true, fullDepth := false }
  if held then enableGroup 4 g else g

/-- The sled in POWERED before its endpoint starts. -/
def poweredSled (held : Bool) (s : State) : State :=
  disarmInjectors ((((enterLife .powered s).modGov (poweredGov held)).modLife fun l => { l with
    fromHeld := held, descent := .idle, packageAt := s.now }).modKiosk fun k => { k with
    policyBank := pickBank k.policyA k.policyB, stationNew := 0 })

theorem enterPowered_eq (held : Bool) (s : State) :
    enterPowered held s = if s.pins.perst then poweredSled held s else startEndpoint (poweredSled held s) := by
  have pins : (poweredSled held s).pins = s.pins := by
    obtain ⟨o, h⟩ := disarmInjectors_frame ((((enterLife .powered s).modGov (poweredGov held)).modLife fun l => { l with
      fromHeld := held, descent := .idle, packageAt := s.now }).modKiosk fun k => { k with
      policyBank := pickBank k.policyA k.policyB, stationNew := 0 })
    rw [poweredSled, h]; simp
  rw [← pins]; rfl

/-- Entering POWERED changes the governor, the life cycle, the dictionary and the endpoint, and nothing else. -/
theorem enterPowered_frame (held : Bool) (s : State) : ∃ h o, enterPowered held s = { s with
    gov := poweredGov held s.gov, host := h
    life := { s.life with
      state := .powered, since := s.now, dropOff := false, fromHeld := held, descent := .idle, packageAt := s.now }
    kiosk := { s.kiosk with
      policyBank := pickBank s.kiosk.policyA s.kiosk.policyB, stationNew := 0, objects := o } } := by
  obtain ⟨o, h⟩ : ∃ o, poweredSled held s = _ := disarmInjectors_frame _
  rw [enterPowered_eq, h]
  split
  · exact ⟨s.host, o, rfl⟩
  · exact ⟨_, o, rfl⟩

theorem objAt_startEndpoint (i a : Nat) (s : State) : objAt (startEndpoint s) i a = objAt s i a := rfl

theorem objAt_enterPowered {p : Nat} (hp : p < 16) (held : Bool) (s : State) :
    objAt (enterPowered held s) (0x7100 + p) 8 = 0 := by
  have disarmed : objAt (poweredSled held s) (0x7100 + p) 8 = 0 := objAt_disarmInjectors hp _
  rw [enterPowered_eq]; split
  · exact disarmed
  · rw [objAt_startEndpoint]; exact disarmed

theorem prechargeComplete_powers (t : Nat) (s : State) (hs : s.life.state = .precharge)
    (hv : s.gov.mainMv ≤ s.gov.bulkMv + 1000) (hd : s.life.departWaits = false) :
    ∃ u, exec (.prechargeComplete t) s = .next u ∧ u.life.state = .powered ∧ u.gov.switchClosed = true ∧
      u.gov.clock = 1800 ∧ u.gov.fullDepth = false ∧ (s.gov.state ≠ .brownout → u.gov.state = .regulating) ∧
      (∀ p, p < 16 → objAt u (0x7100 + p) 8 = 0) ∧ u.kiosk.policyBank = pickBank s.kiosk.policyA s.kiosk.policyB ∧
      u.contain = s.contain ∧ u.net = s.net ∧ SameMemories s u ∧ SameWork s u := by
  obtain ⟨h, o, frame⟩ := enterPowered_frame false (clockTo t s)
  have departs : ¬ (enterPowered false (clockTo t s)).life.departWaits = true := by simp [frame, hd]
  have powers : exec (.prechargeComplete t) s = .next (enterPowered false (clockTo t s)) :=
    (if_pos ⟨hs, hv⟩).trans (congrArg Host.Outcome.next (if_neg departs))
  refine ⟨_, powers, ?_, ?_, ?_, ?_, fun hb => ?_, fun p hp => objAt_enterPowered hp _ _, ?_⟩
  · rw [frame]
  · rw [frame]; rfl
  · rw [frame]; rfl
  · rw [frame]; rfl
  · rw [frame]; exact if_neg hb
  · rw [frame]; exact ⟨rfl, rfl, rfl, fun _ => ⟨rfl, rfl, rfl⟩, rfl, rfl, rfl, rfl, rfl, rfl⟩

section
variable (t : Nat) (s : State) (hs : s.life.state = .resetHeld) (hd : s.life.descent = .idle)
  (ht : s.life.heldSince + 10000000 ≤ max s.now t) (hr : resetHeldBy s = false)
include hs hd ht hr

theorem exec_resetHoldEnd : exec (.resetHoldEnd t) s =
    if objAt s 0x3010 0 = 1 then .next (enterPowered true (clockTo t s))
    else .next ((clockTo t s).modLife fun l => { l with descent := .resetAsserted }) := by
  refine if_neg ?_
  rintro (h | h | h | h)
  · exact h hs
  · exact h hd
  · exact absurd ht (Nat.not_le.mpr h)
  · exact absurd h (ne_true_of_eq_false hr)

theorem resetHoldEnd_powers (on : objAt s 0x3010 0 = 1) :
    ∃ u, exec (.resetHoldEnd t) s = .next u ∧ u.life.state = .powered ∧ u.life.fromHeld = true ∧
      u.gov.clock = 1800 ∧ u.gov.supplyGroups = 4 ∧ u.cellar = s.cellar ∧ SameWork s u := by
  obtain ⟨h, o, frame⟩ := enterPowered_frame true (clockTo t s)
  refine ⟨_, (exec_resetHoldEnd t s hs hd ht hr).trans (if_pos on), ?_⟩
  rw [frame]
  exact ⟨rfl, rfl, rfl, rfl, rfl, rfl, rfl, rfl, rfl, rfl, rfl⟩

theorem resetHoldEnd_opens (off : objAt s 0x3010 0 ≠ 1) : exec (.resetHoldEnd t) s =
    .next { s with now := max s.now t, life := { s.life with descent := .resetAsserted } } :=
  (exec_resetHoldEnd t s hs hd ht hr).trans (if_neg off)

end

/-! ### VERDICT: the station image runs -/

theorem fabricVerdict_frame (s : State) : ∃ b, fabricVerdict s = { s with fab := b } := by
  obtain ⟨b, h⟩ := forEach_changes (fun u => u.fab) (fun b u => { u with fab := b }) (fun _ => rfl) (fun _ _ _ => rfl)
    (fun b u => modBank b (fun _ => {
      state := if objAt u 0x8020 (b + 1) = 0 then 0 else 1, standard := objAt u 0x8020 (b + 1)
      rate := objAt u 0x8023 (b + 1) }) u) (fun _ _ => ⟨_, rfl⟩) (List.range 4)
    ((fabricReset s).modFab fun b => { b with
      chips := (List.range 4).foldl (fun t c => tabPut {} c ({ vdd := min 800 (objAt s 0x8010 0) } : Chiplet) t) b.chips })
  exact ⟨b, h⟩

theorem loadTiles_frame (s : State) : ∃ x y, loadTiles s = { s with tiles := x, tiers := y } := by
  obtain ⟨x, h⟩ := forEach_changes (fun u => u.tiles) (fun x u => { u with tiles := x }) (fun _ => rfl) (fun _ _ _ => rfl)
    (fun n u => if Config.fusedOff n then u else modTile n (fun x => { x with loaded := true, upc := 4 }) u)
    (fun n u => by split <;> exact ⟨_, rfl⟩) (List.range 160)
    (s.modTiers fun x => { x with control := (Config.microSection
      (if s.kiosk.stationBank = 2 then s.kiosk.stationB.data else s.kiosk.stationA.data)).take 81920 })
  exact ⟨x, _, h⟩

/-- Whether VERDICT keeps the cellar: the package was held in reset, and object 0x3023 asks for it. -/
def keepsCellar (s : State) : Bool := s.life.fromHeld && decide (objAt s 0x3023 0 = 1)

theorem enterVerdict_frame (s : State) : ∃ b x y, enterVerdict s =
    { count 0x3030 (if quickPath s then 1 else 2) 1 (enterLife .verdict s) with
      gov := enableGroup 5 s.gov, hbm := [], cellar := if keepsCellar s then s.cellar else []
      life := { s.life with
        state := .verdict, since := s.now, dropOff := false, startPath := if quickPath s then 1 else 2
        cellarRetained := keepsCellar s }
      sweep := { s.sweep with fresh := false }, fab := b, tiles := x, tiers := y } := by
  rw [enterVerdict]
  obtain ⟨b, hb⟩ := fabricVerdict_frame _
  rw [hb]
  obtain ⟨x, y, hl⟩ := loadTiles_frame _
  rw [hl]
  exact ⟨b, x, y, rfl⟩

/-- The package with a station image's four cores started. -/
def stationRuns (t : Nat) (aOk bOk : Bool) (s : State) : State :=
  (((clockTo t s).modKiosk (voidStation aOk bOk)).modKiosk fun k => { k with
    stationBank := pickStation aOk bOk s.kiosk, stationRunning := true }).modContain fun c => { c with
    cores := (List.range 4).foldl (fun a n => tabPut {} n { tabGet {} n a with beat := max s.now t } a) c.cores }

/-- The sled on its way to VERDICT: a verdict that is no longer valid is recorded and no longer fresh. -/
def verdictChecked (s : State) : State :=
  if s.sweep.fresh && !verdictValid s.sweep.verdict then
    noteRecord 0x300B utSled 0 (s.modSweep fun w => { w with fresh := false }) else s

@[simp] theorem verdictChecked_fields (s : State) :
    (verdictChecked s).life = s.life ∧ (verdictChecked s).gov = s.gov ∧ (verdictChecked s).prog = s.prog ∧
    (verdictChecked s).coll = s.coll ∧ (verdictChecked s).links = s.links ∧ (verdictChecked s).net = s.net ∧
    (verdictChecked s).cellar = s.cellar ∧ (verdictChecked s).sweep.verdict = s.sweep.verdict := by
  simp only [verdictChecked]; split <;> simp

theorem verdictChecked_kiosk (s : State) :
    (verdictChecked s).kiosk = { s.kiosk with counters := (verdictChecked s).kiosk.counters } := by
  simp only [verdictChecked]; split
  · exact ((noted_iff _ _).mpr (noteRecord_unnoted 0x300B utSled 0 (s.modSweep fun w => { w with fresh := false }))).1
  · rfl

theorem counterAt_verdictChecked {j b : Nat} (folded : objKey j b ≠ objKey 0x9020 1)
    (dropped : objKey j b ≠ objKey 0x9020 2) (s : State) : counterAt (verdictChecked s) j b = counterAt s j b := by
  simp only [verdictChecked]; split
  · exact counterAt_record_other folded dropped _ _
  · rfl

/-- Withdrawing the freshness of an invalid verdict changes no path: an invalid verdict never gives the quick one. -/
theorem quickPath_verdictChecked (s : State) : quickPath (verdictChecked s) = quickPath s := by
  simp only [verdictChecked]; split
  · next stale =>
    obtain ⟨-, invalid⟩ := Bool.and_eq_true_iff.mp stale
    simp only [Bool.not_eq_true'] at invalid
    simp [quickPath, invalid]
  · rfl

/-! ### LEFT: no bank holds a station image that verifies -/

/-- What ending a queue's work stands apart from: the life cycle, the program, the collectives, the cellar and the count of
fatal errors. -/
def State.unqueued (s : State) : Life × Option Program × Coll × Memory × Nat :=
  (s.life, s.prog, s.coll, s.cellar, counterAt s 0x9020 4)

@[simp] theorem modQueue_unqueued (q : Nat) (f : Queue → Queue) (s : State) : (modQueue q f s).unqueued = s.unqueued := rfl

@[simp] theorem hbmWrite_unqueued (a : Nat) (bs : List Byte) (s : State) : (hbmWrite a bs s).unqueued = s.unqueued := rfl

@[simp] theorem clearPackageCmp_unqueued (i : Nat) (s : State) : (clearPackageCmp i s).unqueued = s.unqueued := rfl

@[simp] theorem raiseVector_unqueued (v : Nat) (s : State) : (raiseVector v s).unqueued = s.unqueued := by
  simp [State.unqueued, counterAt]

/-- The queues' own counters lie in object 0xA020. -/
@[simp] theorem count_unqueued (b : Nat) (s : State) : (count 0xA020 b 1 s).unqueued = s.unqueued := by
  have other : objKey 0x9020 4 ≠ objKey 0xA020 b := by simp only [objKey]; omega
  simp [State.unqueued, counterAt_count_other s other]

@[simp] theorem endDesc_unqueued (q index status cause result : Nat) (s : State) :
    (endDesc q index status cause result s).unqueued = s.unqueued := by
  simp only [endDesc, modQueue_unqueued]
  (repeat' split) <;> simp

@[simp] theorem signalRecord_unqueued (q : Nat) (d : Desc) (s : State) : (signalRecord q d s).unqueued = s.unqueued := by
  simp only [signalRecord]; (repeat' split) <;> simp

@[simp] theorem countCompleted_unqueued (q : Nat) (s : State) : (countCompleted q s).unqueued = s.unqueued := by
  simp only [countCompleted]; split <;> simp

@[simp] theorem writeRing_unqueued (space a : Nat) (bs : List Byte) (s : State) :
    (writeRing space a bs s).unqueued = s.unqueued := by
  simp only [writeRing]; split
  · rfl
  · simp

@[simp] theorem writeRecord_unqueued (q : Nat) (s : State) : (writeRecord q s).unqueued = s.unqueued := by
  simp only [writeRecord]; (repeat' split) <;> simp

@[simp] theorem flushRecords_unqueued (q : Nat) (s : State) : (flushRecords q s).unqueued = s.unqueued := by
  have writes (n : Nat) (u : State) : (writeRecords q n u).unqueued = u.unqueued := by
    induction n generalizing u with
    | zero => rfl
    | succ n ih => exact (ih _).trans (writeRecord_unqueued q u)
  exact writes _ s

@[simp] theorem flushUnstarted_unqueued (q cause : Nat) (s : State) : (flushUnstarted q cause s).unqueued = s.unqueued :=
  forEach_keeps State.unqueued _ (fun _ u => by split <;> simp) _ s

@[simp] theorem disableQueue_unqueued (q : Nat) (s : State) : (disableQueue q s).unqueued = s.unqueued := by
  simp only [disableQueue]; split
  · simp only [flushRecords_unqueued, flushUnstarted_unqueued, modQueue_unqueued]; rfl
  · rfl

@[simp] theorem disableAllQueues_unqueued (s : State) : (disableAllQueues s).unqueued = s.unqueued :=
  (forEach_keeps State.unqueued _ (fun _ u => disableQueue_unqueued _ u) _ _).trans
    (forEach_keeps State.unqueued _ (fun _ u => disableQueue_unqueued _ u) _ s)

/-- Leaving without a sweep disables the queues and begins the shutdown. -/
theorem enterLeft_unqueued (s : State) : (enterLeft false s).unqueued =
    ({ s.life with state := .left, since := s.now, dropOff := false, sweepDue := false, descent := .toOff },
      s.prog, s.coll, s.cellar, counterAt s 0x9020 4) := by
  have queues : (disableAllQueues (enterLife .left s)).unqueued =
      ({ s.life with state := .left, since := s.now, dropOff := false }, s.prog, s.coll, s.cellar, counterAt s 0x9020 4) := by
    rw [disableAllQueues_unqueued]; simp [State.unqueued, counterAt]
  have shuts (u : State) : (beginShutdown (u.modLife fun l => { l with sweepDue := false })).unqueued =
      ({ u.unqueued.1 with sweepDue := false, descent := .toOff }, u.unqueued.2) := by
    simp [beginShutdown, State.unqueued, counterAt]
  simp only [enterLeft, Bool.false_eq_true, if_false, shuts, queues]

theorem fatalRecord_counted (cause ut unit : Nat) (s : State) : Counted 0x9020 4 1 s (fatalRecord cause ut unit s) := by
  have recorded (r : LogRecord) : counterAt (record r s) 0x9020 4 = counterAt s 0x9020 4 :=
    counterAt_record_other (by decide) (by decide) r s
  have counts := counted_count (idx := 0x9020) (sub := 4) (n := 1)
    (record { cause := cause, cls := 5, unitType := ut, unit := unit } s)
  unfold Counted at counts ⊢
  rwa [recorded] at counts

section
variable (t : Nat) (s : State) (hs : s.life.state = .powered) (hd : s.life.descent = .idle) (hp : suppliesUp s.gov = true)
  (aOk bOk : Bool)
include hs hd hp

theorem exec_stationFwVerified : exec (.stationFwVerified t aOk bOk) s =
    if pickStation aOk bOk s.kiosk = 0 then
      .next (enterLeft false ((fatalRecord 0x3006 utSled 0 ((clockTo t s).modKiosk (voidStation aOk bOk))).modLife fun l =>
        { l with fwInvalid := true, fwWritten := false }))
    else .next (enterVerdict (verdictChecked (stationRuns t aOk bOk s))) := by
  refine if_neg ?_
  rintro (h | h | h)
  · exact h hs
  · exact h hd
  · exact absurd hp (ne_true_of_eq_false h)

theorem stationFwVerified_verdict (hb : pickStation aOk bOk s.kiosk ≠ 0) :
    ∃ u, exec (.stationFwVerified t aOk bOk) s = .next u ∧ u.life.state = .verdict ∧
      u.life.startPath = (if quickPath s then 1 else 2) ∧ u.kiosk.stationRunning = true ∧
      u.kiosk.stationBank = pickStation aOk bOk s.kiosk ∧ u.sweep.fresh = false ∧ u.sweep.verdict = s.sweep.verdict ∧
      u.hbm = [] ∧ u.gov.supplyGroups = 5 ∧ Counted 0x3030 (if quickPath s then 1 else 2) 1 s u ∧
      (s.life.fromHeld = false → u.cellar = []) ∧ u.prog = s.prog ∧ u.coll = s.coll ∧ u.links = s.links ∧
      u.net = s.net := by
  let v := verdictChecked (stationRuns t aOk bOk s)
  have path : quickPath v = quickPath s := quickPath_verdictChecked _
  have kiosk : v.kiosk = { (stationRuns t aOk bOk s).kiosk with counters := v.kiosk.counters } := verdictChecked_kiosk _
  have running : v.kiosk.stationRunning = true := by rw [kiosk]; rfl
  have bank : v.kiosk.stationBank = pickStation aOk bOk s.kiosk := by rw [kiosk]; rfl
  obtain ⟨b, x, y, frame⟩ := enterVerdict_frame v
  rw [path] at frame
  refine ⟨_, (exec_stationFwVerified t s hs hd hp aOk bOk).trans (if_neg hb), ?_⟩
  rw [show enterVerdict (verdictChecked (stationRuns t aOk bOk s)) = _ from frame]
  have counted : Counted 0x3030 (if quickPath s then 1 else 2) 1 s
      (count 0x3030 (if quickPath s then 1 else 2) 1 (enterLife .verdict v)) := by
    have stands : counterAt v 0x3030 (if quickPath s then 1 else 2) = counterAt s 0x3030 (if quickPath s then 1 else 2) :=
      counterAt_verdictChecked (by split <;> decide) (by split <;> decide) _
    have counts := (counted_count (idx := 0x3030) (sub := if quickPath s then 1 else 2) (n := 1) (enterLife .verdict v)).congr
      (s' := v) (by simp) rfl
    unfold Counted at counts ⊢
    rwa [stands] at counts
  refine ⟨rfl, rfl, ?_, ?_, rfl, ?_, rfl, rfl, counted, fun held => ?_, ?_, ?_, ?_, ?_⟩
  · simp [count, setCounter, running]
  · simp [count, setCounter, bank]
  · simp [v, stationRuns]
  · simp [keepsCellar, v, stationRuns, held]
  · simp [v, stationRuns]
  · simp [v, stationRuns]
  · simp [v, stationRuns]
  · simp [v, stationRuns]

theorem stationFwVerified_left (hb : pickStation aOk bOk s.kiosk = 0) :
    ∃ u, exec (.stationFwVerified t aOk bOk) s = .next u ∧ u.life.state = .left ∧ u.life.fwInvalid = true ∧
      u.life.fwWritten = false ∧ u.life.descent = .toOff ∧ Counted 0x9020 4 1 s u ∧ u.cellar = s.cellar ∧
      u.prog = s.prog ∧ u.coll = s.coll := by
  have left := enterLeft_unqueued
    ((fatalRecord 0x3006 utSled 0 ((clockTo t s).modKiosk (voidStation aOk bOk))).modLife fun l =>
      { l with fwInvalid := true, fwWritten := false })
  simp only [State.unqueued, Prod.mk.injEq] at left
  obtain ⟨life, prog, coll, cellar, counter⟩ := left
  have counted := fatalRecord_counted 0x3006 utSled 0 ((clockTo t s).modKiosk (voidStation aOk bOk))
  refine ⟨_, (exec_stationFwVerified t s hs hd hp aOk bOk).trans (if_pos hb), ?_, ?_, ?_, ?_, ?_, ?_, ?_, ?_⟩
  · rw [life]
  · rw [life]; rfl
  · rw [life]; rfl
  · rw [life]
  · rw [Counted, counter]; exact counted.congr (by simp [voidStation]) (by simp)
  · rw [cellar]; simp [fatalRecord]
  · rw [prog]; simp [fatalRecord]
  · rw [coll]; simp [fatalRecord]

end

/-- Settles O10, step by step: the end of PRECHARGE, the station image's verdict, the end of a reset's hold. -/
theorem startPath : Obligations.StartPath := by
  intro t s
  refine ⟨prechargeComplete_powers t s, fun hs hd hp aOk bOk => ?_, fun hs hd ht hr => ?_⟩
  · exact ⟨stationFwVerified_verdict t s hs hd hp aOk bOk, stationFwVerified_left t s hs hd hp aOk bOk⟩
  · exact ⟨resetHoldEnd_powers t s hs hd ht hr, resetHoldEnd_opens t s hs hd ht hr⟩

end Sys2Proof.Machine

namespace Sys2Proof.Machine

/-! ## Work for the engines, movers and queues (R138, R139, R369, R591, R662, R663, R669, R670, R1077) -/

/-! ### An instruction that executes -/

theorem tileAt_congr {s u : State} (h : u.tiles = s.tiles) (n : Nat) : tileAt u n = tileAt s n := by
  unfold tileAt; rw [h]

@[simp] theorem tileAt_clockTo (t n : Nat) (s : State) : tileAt (clockTo t s) n = tileAt s n := rfl

@[simp] theorem tileAt_modGov (f : Governor → Governor) (n : Nat) (s : State) : tileAt (s.modGov f) n = tileAt s n := rfl

@[simp] theorem tileAt_count (i a k n : Nat) (s : State) : tileAt (count i a k s) n = tileAt s n := rfl

@[simp] theorem tileAt_modProg (f : Program → Program) (n : Nat) (s : State) : tileAt (modProg f s) n = tileAt s n := rfl

@[simp] theorem tileAt_countQsub (p : Program) (l n : Nat) (s : State) : tileAt (countQsub p l s) n = tileAt s n := rfl

/-- A tile as dispatching leaves it: its ballast ends only after the instruction. -/
def Tile.dispatched (x : Tile) (i : Nat) : Tile := { x.after i x.pc with burst := x.burst }

@[simp] theorem tileAt_dispatch (n i : Nat) (s : State) : tileAt (dispatch n i s) n = (tileAt s n).dispatched i :=
  tileAt_modTile_same _ _ _

theorem tileAt_dispatch_other {n m : Nat} (i : Nat) (s : State) (h : m ≠ n) : tileAt (dispatch n i s) m = tileAt s m :=
  tileAt_modTile_other _ _ h

@[simp] theorem tileAt_retire (n : Nat) (s : State) :
    tileAt (retire n s) n = { tileAt s n with pc := ((tileAt s n).pc + 16) % 2 ^ 32 } := tileAt_modTile_same _ _ _

theorem tileAt_retire_other {n m : Nat} (s : State) (h : m ≠ n) : tileAt (retire n s) m = tileAt s m :=
  tileAt_modTile_other _ _ h

theorem endBurst_parked {n : Nat} {s : State} (h : (tileAt s n).waits = true) : endBurst n s = s := if_pos (.inr h)

theorem endBurst_frame (n : Nat) (s : State) : endBurst n s = { s with tiles := (endBurst n s).tiles } := by
  simp only [endBurst]; split <;> rfl

theorem tileAt_endBurst_other {n m : Nat} (s : State) (h : m ≠ n) : tileAt (endBurst n s) m = tileAt s m := by
  simp only [endBurst]; split
  · rfl
  · exact tileAt_modTile_other _ _ h

theorem tileAt_endBurst {n : Nat} {s : State} (h : (tileAt s n).waits = false) :
    tileAt (endBurst n s) n = { tileAt s n with burst := 0 } := by
  simp only [endBurst]; split
  · next ended =>
    have zero : (tileAt s n).burst = 0 := ended.elim id fun w => absurd w (ne_true_of_eq_false h)
    rw [← zero]
  · exact tileAt_modTile_same _ _ _

/-- The state in which an executing instruction does its work. -/
def dispatchedState (t n i : Nat) (s : State) : State := dispatch n i (clockTo t s)

theorem dispatchedState_frame (t n i : Nat) (s : State) :
    dispatchedState t n i s = { s with now := max s.now t, tiles := (dispatchedState t n i s).tiles } := rfl

@[simp] theorem tileAt_dispatchedState (t n i : Nat) (s : State) :
    tileAt (dispatchedState t n i s) n = (tileAt s n).dispatched i := tileAt_dispatch _ _ _

theorem tileAt_dispatchedState_other {n m : Nat} (t i : Nat) (s : State) (h : m ≠ n) :
    tileAt (dispatchedState t n i s) m = tileAt s m := tileAt_dispatch_other _ _ h

/-- A tile's work for a mover instruction on channel `c`. -/
def moverWork (n c : Nat) (_ : Program) (i : Nat) (s : State) : State :=
  let issued := issueMover n c (srcAOf (tileAt s n) i) s
  if issued.2 then retire n issued.1 else issued.1

/-- A tile's channel with one more command. -/
def Tile.queueMove (c a : Nat) (x : Tile) : Tile :=
  { x.setChan c (fun ch => { ch with commands := ch.commands ++ [(a, x.issued)] }) with movStalled := false }

@[simp] theorem withheld_dispatchedState (t n i : Nat) (s : State) :
    withheld (dispatchedState t n i s) = decide (16 ≤ s.gov.holdBack) := rfl

section
variable {t n i op : Nat} {p : Program} {s : State} (hx : Executes s n i) (hp : s.prog = some p) (ho : iOp i = op)
include hx hp ho

theorem withInstr_executes (k : Program → Nat → State → State) :
    withInstr t n op k s = .next (endBurst n (k p i (dispatchedState t n i s))) := by
  obtain ⟨p', hp', runs, fetched, sound⟩ := hx
  obtain rfl : p' = p := Option.some.inj (hp'.symm.trans hp)
  have runs' : tileRuns (clockTo t s) n = true := runs
  have fetched' : fetchInstr (clockTo t s) p' n = some i := fetched
  have sound' : faultOf (clockTo t s) p' n i = none := sound
  simp [withInstr, dispatchedState, hp, runs', fetched', sound', ho]

/-- An instruction that does not park its tile ends the tile's ballast, and does beside that what its work does. -/
theorem withInstr_finishes (k : Program → Nat → State → State) {v : State} (hv : k p i (dispatchedState t n i s) = v)
    (awake : (tileAt v n).waits = false) (others : ∀ m, m ≠ n → tileAt v m = tileAt s m) :
    ∃ u, withInstr t n op k s = .next u ∧ (∀ m, m ≠ n → tileAt u m = tileAt s m) ∧
      tileAt u n = { tileAt v n with burst := 0 } ∧ u = { v with tiles := u.tiles } :=
  ⟨endBurst n v, (withInstr_executes hx hp ho k).trans (by rw [hv]), fun m hm => (tileAt_endBurst_other v hm).trans (others m hm),
    tileAt_endBurst awake, endBurst_frame n v⟩

/-- An instruction that does nothing is executed again. -/
theorem withInstr_repeats (k : Program → Nat → State → State)
    (hk : k p i (dispatchedState t n i s) = dispatchedState t n i s) :
    ∃ u, withInstr t n op k s = .next u ∧ OneTile n t s u ∧ tileAt u n = (tileAt s n).after i (tileAt s n).pc := by
  obtain ⟨u, runs, others, tile, frame⟩ := withInstr_finishes hx hp ho k hk (by simp [Tile.dispatched, Tile.after])
    fun m hm => tileAt_dispatchedState_other t i s hm
  exact ⟨u, runs, ⟨frame, others⟩, tile.trans (by rw [tileAt_dispatchedState]; rfl)⟩

/-! ### Matrix and vector instructions, and movers -/

theorem engineInstr_issues (opens : s.gov.holdBack < 16) :
    ∃ u, engineInstr t n op s = .next u ∧ (∀ m, m ≠ n → tileAt u m = tileAt s m) ∧
      tileAt u n = { (tileAt s n).after i (((tileAt s n).pc + 16) % 2 ^ 32) with
        ops := (tileAt s n).ops ++ [engineOp p (tileAt s n) i], issued := (tileAt s n).issued + 1 } ∧
      u = { s with now := max s.now t, tiles := u.tiles, gov := { s.gov with workThis := true } } := by
  have issues : issueEngine n p i (dispatchedState t n i s) = retire n ((modTile n (fun x => { x with
      ops := x.ops ++ [engineOp p x i], issued := x.issued + 1 }) (dispatchedState t n i s)).modGov fun g =>
      { g with workThis := true }) := if_neg (by simpa using opens)
  obtain ⟨u, runs, others, tile, frame⟩ := withInstr_finishes hx hp ho (fun p i s => issueEngine n p i s) issues
    (by simp [Tile.dispatched, Tile.after])
    fun m hm => by simp [tileAt_retire_other _ hm, tileAt_modTile_other _ _ hm, tileAt_dispatchedState_other _ _ _ hm]
  exact ⟨u, runs, others, tile.trans (by simp [Tile.dispatched, Tile.after]; rfl), frame⟩

theorem engineInstr_waits (shut : 16 ≤ s.gov.holdBack) :
    ∃ u, engineInstr t n op s = .next u ∧ OneTile n t s u ∧ tileAt u n = (tileAt s n).after i (tileAt s n).pc :=
  withInstr_repeats hx hp ho _ (if_pos (decide_eq_true shut))

section
variable (c : Nat)

omit hx hp ho in
/-- A mover instruction retires when its command is taken. -/
theorem moverWork_eq {v : State} {ok : Bool}
    (h : issueMover n c (srcAOf (tileAt s n) i) (dispatchedState t n i s) = (v, ok)) :
    moverWork n c p i (dispatchedState t n i s) = if ok then retire n v else v := by
  have srcA : srcAOf ((tileAt s n).dispatched i) i = srcAOf (tileAt s n) i := rfl
  simp [moverWork, srcA, h]

omit hx hp ho in
theorem queueMove_keeps (a : Nat) (x : Tile) : (x.queueMove c a).waits = x.waits ∧ (x.queueMove c a).pc = x.pc := by
  simp only [Tile.queueMove, Tile.setChan]; split <;> exact ⟨rfl, rfl⟩

theorem movInstr_waits (shut : 16 ≤ s.gov.holdBack) :
    ∃ u, movInstr t n op c s = .next u ∧ OneTile n t s u ∧ tileAt u n = (tileAt s n).after i (tileAt s n).pc := by
  have held : issueMover n c (srcAOf (tileAt s n) i) (dispatchedState t n i s) = (dispatchedState t n i s, false) :=
    if_pos (decide_eq_true shut)
  exact withInstr_repeats hx hp ho (moverWork n c) (moverWork_eq c held)

theorem movInstr_issues (opens : s.gov.holdBack < 16) (room : ((tileAt s n).chan c).commands.length < 8) :
    ∃ u, movInstr t n op c s = .next u ∧ (∀ m, m ≠ n → tileAt u m = tileAt s m) ∧
      tileAt u n = { ((tileAt s n).after i (((tileAt s n).pc + 16) % 2 ^ 32)).setChan c (fun ch => { ch with
        commands := ch.commands ++ [(srcAOf (tileAt s n) i, (tileAt s n).issued)] }) with movStalled := false } ∧
      u = { s with now := max s.now t, tiles := u.tiles, gov := { s.gov with workThis := true } } := by
  let a := srcAOf (tileAt s n) i
  let d := dispatchedState t n i s
  let added := (modTile n (Tile.queueMove c a) d).modGov fun g => { g with workThis := true }
  have issues : issueMover n c a d = (added, true) := by
    have free : ¬ 8 ≤ ((tileAt d n).chan c).commands.length := by
      simp only [d, tileAt_dispatchedState]; exact Nat.not_le.mpr room
    exact (if_neg (by simpa [d] using opens)).trans (if_neg free)
  obtain ⟨u, runs, others, tile, frame⟩ := withInstr_finishes (v := retire n added) hx hp ho
    (moverWork n c) (moverWork_eq c issues)
    (by simp [added, d, queueMove_keeps, Tile.dispatched, Tile.after])
    fun m hm => by simp [tileAt_retire_other _ hm, added, tileAt_modTile_other _ _ hm, d, tileAt_dispatchedState_other _ _ _ hm]
  refine ⟨u, runs, others, tile.trans ?_, frame⟩
  simp only [tileAt_retire, added, tileAt_modGov, tileAt_modTile_same, d, tileAt_dispatchedState, Tile.queueMove, Tile.setChan]
  split <;> rfl

theorem movInstr_stalls (opens : s.gov.holdBack < 16) (full : 8 ≤ ((tileAt s n).chan c).commands.length)
    (first : (tileAt s n).movStalled = false) :
    ∃ u, movInstr t n op c s = .next u ∧ (∀ m, m ≠ n → tileAt u m = tileAt s m) ∧ Counted 0x5420 6 1 s u ∧
      tileAt u n = { (tileAt s n).after i (tileAt s n).pc with movStalled := true } ∧
      u = { s with now := max s.now t, tiles := u.tiles, kiosk := { s.kiosk with counters := u.kiosk.counters } } := by
  let a := srcAOf (tileAt s n) i
  let d := dispatchedState t n i s
  let stalled := modTile n (fun x => { x with movStalled := true }) d
  have stalls : issueMover n c a d = (count 0x5420 6 1 stalled, false) := by
    have none : 8 ≤ ((tileAt d n).chan c).commands.length := by simp only [d, tileAt_dispatchedState]; exact full
    have fresh : ¬ (tileAt d n).movStalled = true := by
      simp only [d, tileAt_dispatchedState]; exact ne_true_of_eq_false first
    exact (if_neg (by simpa [d] using opens)).trans ((if_pos none).trans (congrArg (·, false) (if_neg fresh)))
  obtain ⟨u, runs, others, tile, frame⟩ := withInstr_finishes (v := count 0x5420 6 1 stalled) hx hp ho
    (moverWork n c) (moverWork_eq c stalls)
    (by simp [stalled, d, Tile.dispatched, Tile.after])
    fun m hm => by simp [stalled, tileAt_modTile_other _ _ hm, d, tileAt_dispatchedState_other _ _ _ hm]
  refine ⟨u, runs, others, ?_, tile.trans (by simp [stalled, d, Tile.dispatched, Tile.after]), frame.trans ?_⟩
  · exact (counted_count stalled).congr rfl (by rw [frame])
  · rw [frame]; rfl

end

end

/-! ### QSUB -/

/-- The tile's work for QSUB: its descriptor comes from the record's address. -/
def qsubWork (n : Nat) (p : Program) (i : Nat) (s : State) : State :=
  let x := tileAt s n
  let a := srcAOf x i
  let left := tabGet 0 x.logical p.suppress
  if left ≠ 0 then
    retire n (countQsub p x.logical (modProg (fun p => { p with suppress := tabPut 0 x.logical (left - 1) p.suppress }) s))
  else if interlocked x (a, 64) false then s
  else if tilePoisoned s p n a 64 then machineCheck n 8 s
  else match submitDesc (iImm i % 4096) (tileRead s p n a 64) s with
    | some s => retire n (countQsub p x.logical s)
    | none => park n s

theorem exec_qsub (t : Nat) (tile : Fin 160) (s : State) :
    exec (.qsub t tile) s = withInstr t tile.val 0x60 (fun p i s => qsubWork tile.val p i s) s := rfl

theorem queueAt_congr {s u : State} (host : u.host = s.host) (life : u.life = s.life) (q : Nat) : queueAt u q = queueAt s q := by
  have shut : queuesShut u = queuesShut s := by unfold queuesShut; rw [host, life]
  simp only [queueAt, host, shut]

theorem queueAt_modQueue_other {q r : Nat} (f : Queue → Queue) (s : State) (h : r ≠ q) :
    queueAt (modQueue q f s) r = queueAt s r := by
  have stands : tabGet (queueDefault r) r (modQueue q f s).host.queues = tabGet (queueDefault r) r s.host.queues :=
    tabGet_put_other _ _ _ _ _ _ h
  simp only [queueAt, stands]; rfl

/-- The queue as one more descriptor leaves it. -/
def Queue.submitted (x : Queue) : Queue := { x with tail := (x.tail + 1) % x.entries }

theorem queueAt_modQueue_submitted (q : Nat) (s : State) :
    queueAt (modQueue q Queue.submitted s) q = (queueAt s q).submitted := by
  have moves : tabGet (queueDefault q) q (modQueue q Queue.submitted s).host.queues =
      (tabGet (queueDefault q) q s.host.queues).submitted := tabGet_put_same _ _ _ _
  have shut : queuesShut (modQueue q Queue.submitted s) = queuesShut s := rfl
  simp only [queueAt, moves, shut]; split <;> rfl

/-- A descriptor that finds room moves its queue's tail, and touches beside the queues only HBM and the Junction's order. -/
theorem submitDesc_submits {q : Nat} (data : List Byte) {s : State}
    (room : ((queueAt s q).tail + 1) % (queueAt s q).entries ≠ (queueAt s q).head) :
    ∃ u, submitDesc q data s = some u ∧ u.host = (modQueue q Queue.submitted s).host ∧ u.life = s.life ∧
      u.tiles = s.tiles ∧ u.prog = s.prog ∧ u.cellar = s.cellar ∧ u.hostMem = s.hostMem := by
  refine ⟨_, if_neg room, ?_⟩
  split <;> exact ⟨rfl, rfl, rfl, rfl, rfl, rfl⟩

section
variable {t i : Nat} {tile : Fin 160} {p : Program} {s : State} (hx : Executes s tile.val i) (hp : s.prog = some p)
  (ho : iOp i = 0x60)
include hx hp ho

theorem qsub_suppressed (left : tabGet 0 (tileAt s tile.val).logical p.suppress ≠ 0) :
    let x := tileAt s tile.val
    ∃ u, exec (.qsub t tile) s = .next u ∧ (∀ m, m ≠ tile.val → tileAt u m = tileAt s m) ∧
      tileAt u tile.val = x.after i ((x.pc + 16) % 2 ^ 32) ∧ u.host = s.host ∧ u.junc = s.junc ∧
      (u.prog.map fun p => tabGet 0 x.logical p.suppress) = some (tabGet 0 x.logical p.suppress - 1) := by
  intro x
  have work : qsubWork tile.val p i (dispatchedState t tile.val i s) = retire tile.val (countQsub p x.logical
      (modProg (fun q => { q with suppress := tabPut 0 x.logical (tabGet 0 x.logical p.suppress - 1) q.suppress })
        (dispatchedState t tile.val i s))) := by
    simp only [qsubWork, tileAt_dispatchedState]
    exact if_pos left
  obtain ⟨u, runs, others, at', frame⟩ := withInstr_finishes hx hp ho (fun p i s => qsubWork tile.val p i s) work
    (by simp [Tile.dispatched, Tile.after])
    fun m hm => by simp [tileAt_retire_other _ hm, tileAt_dispatchedState_other _ _ _ hm]
  refine ⟨u, runs, others, at'.trans (by simp [x, Tile.dispatched, Tile.after]), by rw [frame]; rfl, by rw [frame]; rfl, ?_⟩
  have program : u.prog = (s.prog.map fun q => { q with
      suppress := tabPut 0 x.logical (tabGet 0 x.logical p.suppress - 1) q.suppress }) := by rw [frame]; rfl
  simp [program, hp, tabGet_put_same]

section
variable (left : tabGet 0 (tileAt s tile.val).logical p.suppress = 0)
  (clear : interlocked (tileAt s tile.val) (srcAOf (tileAt s tile.val) i, 64) false = false)
  (sound : tilePoisoned s p tile.val (srcAOf (tileAt s tile.val) i) 64 = false)
include left clear sound

omit hx hp ho in
/-- A QSUB that nothing holds back submits its descriptor, or parks its tile when the ring is full. -/
theorem qsubWork_submits : ∃ data,
    (∀ u, submitDesc (iImm i % 4096) data (dispatchedState t tile.val i s) = some u →
      qsubWork tile.val p i (dispatchedState t tile.val i s) =
        retire tile.val (countQsub p (tileAt s tile.val).logical u)) ∧
    (submitDesc (iImm i % 4096) data (dispatchedState t tile.val i s) = none →
      qsubWork tile.val p i (dispatchedState t tile.val i s) = park tile.val (dispatchedState t tile.val i s)) := by
  have logical : ((tileAt s tile.val).dispatched i).logical = (tileAt s tile.val).logical := rfl
  have srcA : srcAOf ((tileAt s tile.val).dispatched i) i = srcAOf (tileAt s tile.val) i := rfl
  have clear' : interlocked ((tileAt s tile.val).dispatched i) (srcAOf (tileAt s tile.val) i, 64) false = false := clear
  have sound' : tilePoisoned (dispatchedState t tile.val i s) p tile.val (srcAOf (tileAt s tile.val) i) 64 = false := by
    rw [← sound]
    simp only [tilePoisoned, tileAt_dispatchedState]; rfl
  refine ⟨tileRead (dispatchedState t tile.val i s) p tile.val (srcAOf (tileAt s tile.val) i) 64, fun u submits => ?_,
    fun refused => ?_⟩
  · simp [qsubWork, logical, srcA, left, clear', sound', submits]
  · simp [qsubWork, logical, srcA, left, clear', sound', refused]

theorem qsub_submits (room : ((queueAt s (iImm i % 4096)).tail + 1) % (queueAt s (iImm i % 4096)).entries ≠
      (queueAt s (iImm i % 4096)).head) :
    let x := tileAt s tile.val
    ∃ u, exec (.qsub t tile) s = .next u ∧ (∀ m, m ≠ tile.val → tileAt u m = tileAt s m) ∧
      tileAt u tile.val = x.after i ((x.pc + 16) % 2 ^ 32) ∧ u.prog = s.prog ∧
      queueAt u (iImm i % 4096) = (queueAt s (iImm i % 4096)).submitted ∧
      (∀ r, r ≠ iImm i % 4096 → queueAt u r = queueAt s r) ∧ u.cellar = s.cellar ∧ u.hostMem = s.hostMem := by
  intro x
  obtain ⟨data, work, -⟩ := qsubWork_submits (t := t) left clear sound
  obtain ⟨v, submits, host, life, tiles, prog, cellar, hostMem⟩ :=
    submitDesc_submits data (s := dispatchedState t tile.val i s) room
  have at' (m : Nat) : tileAt v m = tileAt (dispatchedState t tile.val i s) m := tileAt_congr tiles m
  obtain ⟨u, runs, others, here, frame⟩ := withInstr_finishes hx hp ho (fun p i s => qsubWork tile.val p i s) (work v submits)
    (by simp [at', Tile.dispatched, Tile.after])
    fun m hm => by simp [tileAt_retire_other _ hm, at', tileAt_dispatchedState_other _ _ _ hm]
  have queues (r : Nat) : queueAt u r = queueAt (modQueue (iImm i % 4096) Queue.submitted s) r :=
    queueAt_congr (by rw [frame]; exact host) (by rw [frame]; exact life) r
  refine ⟨u, runs, others, here.trans (by simp [at', x, Tile.dispatched, Tile.after]), by rw [frame]; exact prog, ?_,
    fun r hr => ?_, by rw [frame]; exact cellar, by rw [frame]; exact hostMem⟩
  · rw [queues, queueAt_modQueue_submitted]
  · rw [queues, queueAt_modQueue_other _ _ hr]

theorem qsub_parks (full : ((queueAt s (iImm i % 4096)).tail + 1) % (queueAt s (iImm i % 4096)).entries =
      (queueAt s (iImm i % 4096)).head) :
    let x := tileAt s tile.val
    ∃ u, exec (.qsub t tile) s = .next u ∧ OneTile tile.val t s u ∧
      tileAt u tile.val = { x.after i x.pc with waits := true, burst := x.burst } := by
  intro x
  let d := dispatchedState t tile.val i s
  obtain ⟨data, -, work⟩ := qsubWork_submits (t := t) left clear sound
  have refused : submitDesc (iImm i % 4096) data d = none := if_pos full
  have parked : (tileAt (park tile.val d) tile.val).waits = true := by simp [park]
  refine ⟨park tile.val d, ?_, ⟨rfl, fun m hm => ?_⟩, ?_⟩
  · exact (withInstr_executes hx hp ho fun p i s => qsubWork tile.val p i s).trans (by rw [work refused, endBurst_parked parked])
  · exact (tileAt_modTile_other _ _ hm).trans (tileAt_dispatchedState_other _ _ _ hm)
  · simp [park, d, x, Tile.dispatched]

end

end

/-! ### The instructions -/

theorem exec_engine (t : Nat) (tile : Fin 160) (s : State) : ∀ e ∈ [(Instr.mma t tile, 0x40), (.mmaWrite t tile, 0x41),
    (.vadd t tile, 0x50), (.vmul t tile, 0x51), (.vfma t tile, 0x52), (.vmin t tile, 0x53), (.vmax t tile, 0x54),
    (.vminnum t tile, 0x55), (.vmaxnum t tile, 0x56), (.vsub t tile, 0x57), (.vcvt t tile, 0x58), (.vcvts t tile, 0x59)],
    exec e.1 s = engineInstr t tile.val e.2 s := by
  simp only [List.forall_mem_cons]
  exact ⟨rfl, rfl, rfl, rfl, rfl, rfl, rfl, rfl, rfl, rfl, rfl, rfl, List.forall_mem_nil _⟩

theorem exec_mover (t : Nat) (tile : Fin 160) (s : State) :
    ∀ e ∈ [(Instr.mov0 t tile, 0x30, 0), (.mov1 t tile, 0x31, 1)], exec e.1 s = movInstr t tile.val e.2.1 e.2.2 s := by
  simp only [List.forall_mem_cons]
  exact ⟨rfl, rfl, List.forall_mem_nil _⟩

/-- Settles O34: each instruction's work between its dispatch and the end of its tile's ballast. -/
theorem enginesTakeWork : Obligations.EnginesTakeWork := by
  intro t i op tile c p s hx hp ho x y others
  refine ⟨fun listed => ?_, fun k listed => ?_, fun qsub => ?_⟩
  · rw [show exec c s = engineInstr t tile.val op s from exec_engine t tile s _ listed]
    exact ⟨engineInstr_issues hx hp ho, engineInstr_waits hx hp ho⟩
  · rw [show exec c s = movInstr t tile.val op k s from exec_mover t tile s _ listed]
    exact ⟨movInstr_waits hx hp ho k, movInstr_issues hx hp ho k, movInstr_stalls hx hp ho k⟩
  · have ho : iOp i = 0x60 := ho.trans qsub
    exact ⟨qsub_suppressed hx hp ho, qsub_submits hx hp ho, qsub_parks hx hp ho⟩

end Sys2Proof.Machine

namespace Sys2Proof.Machine

/-! ## What ending descriptors and collectives leaves as it was

The end of a descriptor, a collective or a group touches queues, rings, host memory, HBM, the collectives, the Junction's
layer and the slabs that wait for the switch.  `State.quiet` is the rest: an operation keeps it when its state before and its
state after agree on it. -/

/-- The state without what the end of a descriptor, a collective or a group may touch.  Of the counters it keeps that of the
drain timeouts, 0x3030:08, which only a drain's timeout moves. -/
def State.quiet (s : State) : State := { s with
  rb := { s.rb with pkgCmp := [] }, host := {}, hbm := [], hostMem := [], coll := {}, junc := {}, outbox := [], freeCount := 0
  tiers := { s.tiers with hbmPoison := [], hbmUsed := [] }
  kiosk := { s.kiosk with counters := [(objKey 0x3030 8, counterAt s 0x3030 8)] }
  links := { s.links with transit := [] } }

theorem quiet_objAt {s u : State} (h : u.quiet = s.quiet) (i a : Nat) : objAt u i a = objAt s i a :=
  (congrArg (fun x => objAt x i a) h :)

theorem counterAt_quiet (s : State) : counterAt s.quiet 0x3030 8 = counterAt s 0x3030 8 := by
  simp [State.quiet, counterAt, tabGet]

@[simp] theorem ite_quiet (c : Prop) [Decidable c] (a b : State) :
    (if c then a else b).quiet = if c then a.quiet else b.quiet := apply_ite State.quiet c a b

theorem forEach_quiet {α : Type} (f : α → State → State) (xs : List α) (s : State)
    (h : ∀ a u, (f a u).quiet = u.quiet) : (forEach f xs s).quiet = s.quiet := forEach_keeps State.quiet f h xs s

@[simp] theorem modQueue_quiet (q : Nat) (f : Queue → Queue) (s : State) : (modQueue q f s).quiet = s.quiet := rfl

@[simp] theorem modDesc_quiet (q i : Nat) (f : Desc → Desc) (s : State) : (modDesc q i f s).quiet = s.quiet := rfl

@[simp] theorem modGroup_quiet (g : Nat) (f : Group → Group) (s : State) : (modGroup g f s).quiet = s.quiet := rfl

@[simp] theorem modHost_quiet (f : HostIf → HostIf) (s : State) : (s.modHost f).quiet = s.quiet := rfl

@[simp] theorem modJunc_quiet (f : Junction → Junction) (s : State) : (s.modJunc f).quiet = s.quiet := rfl

@[simp] theorem emit_quiet (e : Emission) (s : State) : (emit e s).quiet = s.quiet := rfl

@[simp] theorem takeFree_quiet (s : State) : (takeFree s).2.quiet = s.quiet := rfl

@[simp] theorem hbmWrite_quiet (a : Nat) (bs : List Byte) (s : State) : (hbmWrite a bs s).quiet = s.quiet := rfl

@[simp] theorem hostWrite_quiet (a : Nat) (bs : List Byte) (s : State) : (hostWrite a bs s).quiet = s.quiet := rfl

@[simp] theorem markHbm_quiet (v : Bool) (ps : List Nat) (s : State) : (markHbm v ps s).quiet = s.quiet := rfl

@[simp] theorem clearPackageCmp_quiet (i : Nat) (s : State) : (clearPackageCmp i s).quiet = s.quiet := rfl

@[simp] theorem submitSlab_quiet (x : Slab) (s : State) : (submitSlab x s).quiet = s.quiet := rfl

/-- The objects that count such ends have higher indices than 0x3030. -/
@[simp] theorem count_quiet {i : Nat} (h : 0x3030 < i) (a n : Nat) (s : State) : (count i a n s).quiet = s.quiet := by
  have other : objKey 0x3030 8 ≠ objKey i a := by simp only [objKey]; omega
  simp only [State.quiet, counterAt_count_other s other]
  rfl

@[simp] theorem raiseVector_quiet (v : Nat) (s : State) : (raiseVector v s).quiet = s.quiet := by
  simp only [raiseVector]; (repeat' split) <;> simp

@[simp] theorem glCause_quiet (b : Nat) (s : State) : (glCause b s).quiet = s.quiet := by
  simp only [glCause]; (repeat' split) <;> simp

/-! ### Queues -/

@[simp] theorem endDesc_quiet (q index status cause result : Nat) (s : State) :
    (endDesc q index status cause result s).quiet = s.quiet := by
  simp only [endDesc, modQueue_quiet]; (repeat' split) <;> simp

@[simp] theorem writeRing_quiet (space a : Nat) (bs : List Byte) (s : State) :
    (writeRing space a bs s).quiet = s.quiet := by
  simp only [writeRing]; split <;> simp

@[simp] theorem signalRecord_quiet (q : Nat) (d : Desc) (s : State) : (signalRecord q d s).quiet = s.quiet := by
  simp only [signalRecord]; (repeat' split) <;> simp

@[simp] theorem countCompleted_quiet (q : Nat) (s : State) : (countCompleted q s).quiet = s.quiet := by
  simp only [countCompleted]; split <;> simp

@[simp] theorem writeRecord_quiet (q : Nat) (s : State) : (writeRecord q s).quiet = s.quiet := by
  simp only [writeRecord]; (repeat' split) <;> simp

@[simp] theorem flushRecords_quiet (q : Nat) (s : State) : (flushRecords q s).quiet = s.quiet := by
  have writes (n : Nat) (u : State) : (writeRecords q n u).quiet = u.quiet := by
    induction n generalizing u with
    | zero => rfl
    | succ n ih => exact (ih _).trans (writeRecord_quiet q u)
  exact writes _ s

@[simp] theorem finish_quiet (q index status cause result : Nat) (s : State) :
    (finish q index status cause result s).quiet = s.quiet := by simp [finish]

@[simp] theorem flushUnstarted_quiet (q cause : Nat) (s : State) : (flushUnstarted q cause s).quiet = s.quiet :=
  forEach_quiet _ _ s fun _ u => by split <;> simp

@[simp] theorem disableQueue_quiet (q : Nat) (s : State) : (disableQueue q s).quiet = s.quiet := by
  simp only [disableQueue]; split
  · simp only [flushRecords_quiet, flushUnstarted_quiet, modQueue_quiet]; rfl
  · rfl

@[simp] theorem disableAllQueues_quiet (s : State) : (disableAllQueues s).quiet = s.quiet :=
  (forEach_quiet _ _ _ fun _ u => disableQueue_quiet _ u).trans (forEach_quiet _ _ s fun _ u => disableQueue_quiet _ u)

@[simp] theorem retireQueue_quiet (q : Nat) (s : State) : (retireQueue q s).quiet = s.quiet := by
  simp only [retireQueue]; split <;> simp

/-! ### The running layer and the collectives -/

@[simp] theorem writeWord_quiet (a v : Nat) (s : State) : (writeWord a v s).quiet = s.quiet := by simp [writeWord]

@[simp] theorem dropLayer_quiet (l : Layer) (s : State) : (dropLayer l s).quiet = s.quiet := rfl

@[simp] theorem layerCollDone_quiet (index : Nat) (s : State) : (layerCollDone index s).quiet = s.quiet := rfl

@[simp] theorem abortLayer_quiet (cause : Nat) (s : State) : (abortLayer cause s).quiet = s.quiet := by
  simp only [abortLayer]; split <;> simp

@[simp] theorem engineTo_quiet (g code epoch cseq : Nat) (extra : List Byte) (dest : Nat) (s : State) :
    (engineTo g code epoch cseq extra dest s).quiet = s.quiet := rfl

@[simp] theorem engineToAll_quiet (g code epoch cseq : Nat) (extra : List Byte) (dests : List Nat) (s : State) :
    (engineToAll g code epoch cseq extra dests s).quiet = s.quiet :=
  forEach_quiet _ _ s fun _ u => by split <;> simp

@[simp] theorem undefineDst_quiet (g : Nat) (c : Collective) (s : State) : (undefineDst g c s).quiet = s.quiet :=
  forEach_quiet _ _ s fun _ u => by simp

@[simp] theorem endCollective_quiet (g : Nat) (c : Collective) (status cause result : Nat) (s : State) :
    (endCollective g c status cause result s).quiet = s.quiet := by
  simp only [endCollective]; (repeat' split) <;> simp

@[simp] theorem giveBack_quiet (g : Nat) (s : State) : (giveBack g s).quiet = s.quiet := by
  simp only [giveBack, modGroup_quiet]; (repeat' split) <;> simp

/-- Ending every collective of a group keeps what ending one keeps. -/
theorem endCollectives_quiet (g status cause result : Nat) (cs : List Collective) (s : State) :
    (forEach (fun c s => endCollective g c status cause result s) cs s).quiet = s.quiet :=
  forEach_quiet _ _ s fun _ _ => endCollective_quiet _ _ _ _ _ _

@[simp] theorem makeDefined_quiet (g cause : Nat) (s : State) : (makeDefined g cause s).quiet = s.quiet := by
  simp [makeDefined, endCollectives_quiet]

@[simp] theorem completeReform_quiet (g : Nat) (s : State) : (completeReform g s).quiet = s.quiet := by
  simp [completeReform, endCollectives_quiet]

@[simp] theorem judgeProposal_quiet (g : Nat) (s : State) : (judgeProposal g s).quiet = s.quiet := by
  simp only [judgeProposal]; (repeat' split) <;> simp

@[simp] theorem sendReform_quiet (g : Nat) (s : State) : (sendReform g s).quiet = s.quiet := by
  simp only [sendReform]; split <;> simp

@[simp] theorem reformGroup_quiet (g : Nat) (lost : List Nat) (s : State) : (reformGroup g lost s).quiet = s.quiet := by
  simp only [reformGroup]; (repeat' split) <;> simp

@[simp] theorem countAbort_quiet (cause : Nat) (s : State) : (countAbort cause s).quiet = s.quiet := by
  simp only [countAbort]; (repeat' split) <;> simp

/-! ### Aborts: records are formed, and a program that ends leaves its tiles, its pages and its accesses -/

/-- The quiet state without what a record or the end of a program may touch, but for the life state. -/
def State.unrun (s : State) : State := { s with
  contain := {}, tiles := [], prog := none, tiers := {}, links := { s.links with accesses := [] } }

@[simp] theorem ite_unrun (c : Prop) [Decidable c] (a b : State) :
    (if c then a else b).unrun = if c then a.unrun else b.unrun := apply_ite State.unrun c a b

theorem forEach_unrun {α : Type} (f : α → State → State) (xs : List α) (s : State)
    (h : ∀ a u, (f a u).quiet.unrun = u.quiet.unrun) : (forEach f xs s).quiet.unrun = s.quiet.unrun :=
  forEach_keeps (fun s => s.quiet.unrun) f h xs s

@[simp] theorem modContain_unrun (f : Contain → Contain) (s : State) :
    (s.modContain f).quiet.unrun = s.quiet.unrun := rfl

@[simp] theorem modTiers_unrun (f : Tiers → Tiers) (s : State) : (s.modTiers f).quiet.unrun = s.quiet.unrun := rfl

@[simp] theorem modTile_unrun (n : Nat) (f : Tile → Tile) (s : State) :
    (modTile n f s).quiet.unrun = s.quiet.unrun := rfl

@[simp] theorem renumber_unrun (s : State) : (renumber s).quiet.unrun = s.quiet.unrun := rfl

@[simp] theorem dropMoverAccesses_unrun (s : State) : (dropMoverAccesses s).quiet.unrun = s.quiet.unrun := rfl

@[simp] theorem placeRecord_unrun (r : LogRecord) (s : State) : (placeRecord r s).quiet.unrun = s.quiet.unrun := by
  simp only [placeRecord]; (repeat' split) <;> simp

@[simp] theorem endWindow_unrun (w : RepeatWindow) (s : State) : (endWindow w s).quiet.unrun = s.quiet.unrun := by
  simp only [endWindow]; split <;> simp

@[simp] theorem record_unrun (r : LogRecord) (s : State) : (record r s).quiet.unrun = s.quiet.unrun := by
  simp only [record]; (repeat' split) <;> simp

@[simp] theorem abortCollective_unrun (g cause detector : Nat) (c : Collective) (s : State) :
    (abortCollective g cause detector c s).quiet.unrun = s.quiet.unrun := by simp [abortCollective]

@[simp] theorem programEndsCollective_unrun (g : Nat) (s : State) :
    (programEndsCollective g s).quiet.unrun = s.quiet.unrun := by
  simp only [programEndsCollective, abortAndReform]; (repeat' split) <;> simp

@[simp] theorem checkReach_unrun (s : State) : (checkReach s).quiet.unrun = s.quiet.unrun := by
  refine forEach_unrun _ _ s fun _ u => ?_
  dsimp only
  split
  · rw [reformGroup_quiet]; exact forEach_unrun _ _ u fun _ _ => abortCollective_unrun _ _ _ _ _
  · rfl

@[simp] theorem stopTiles_unrun (ns : List Nat) (s : State) : (stopTiles ns s).quiet.unrun = s.quiet.unrun :=
  forEach_unrun _ _ s fun _ u => modTile_unrun _ _ u

@[simp] theorem regrantGroup_quiet (g : Nat) (s : State) : (regrantGroup g s).quiet = s.quiet := by
  have tells (c : Collective) (u : State) : (grantAgain g c u).quiet = u.quiet := forEach_quiet _ _ u fun _ _ => rfl
  simp only [regrantGroup]; split
  · exact forEach_quiet _ _ s fun c u => by split <;> simp [modCollective, tells]
  · rfl

@[simp] theorem regrantAll_quiet (s : State) : (regrantAll s).quiet = s.quiet :=
  forEach_quiet _ _ s fun _ u => regrantGroup_quiet _ u

@[simp] theorem substitute_unrun (n : Nat) (s : State) : (substitute n s).1.quiet.unrun = s.quiet.unrun := by
  simp only [substitute]; split <;> simp

@[simp] theorem substituteAll_unrun (s : State) : (substituteAll s).quiet.unrun = s.quiet.unrun :=
  forEach_unrun _ _ s fun _ u => substitute_unrun _ u

/-- The life state aside, nothing of the quiet state has changed but what a program's end may touch; and the life state only
follows a sled that was JOINED or RUNNING. -/
def ProgramGone (s u : State) : Prop :=
  ∃ l, u.quiet.unrun = { s.quiet.unrun with life := l } ∧ (s.life.state ≠ .joined → s.life.state ≠ .running → l = s.life)

theorem ProgramGone.refl (s : State) : ProgramGone s s := ⟨s.life, rfl, fun _ _ => rfl⟩

theorem ProgramGone.drainTimeouts {s u : State} (h : ProgramGone s u) :
    counterAt u 0x3030 8 = counterAt s 0x3030 8 := by
  obtain ⟨l, frame, -⟩ := h
  have same : counterAt u.quiet 0x3030 8 = counterAt s.quiet 0x3030 8 :=
    (congrArg (fun x => counterAt x 0x3030 8) frame :)
  rwa [counterAt_quiet, counterAt_quiet] at same

/-- What keeps the quiet state may go before a program's end and after it. -/
theorem ProgramGone.around {s v w u : State} (h : ProgramGone v w) (before : v.quiet.unrun = s.quiet.unrun)
    (after : u.quiet.unrun = w.quiet.unrun) : ProgramGone s u := by
  obtain ⟨l, frame, life⟩ := h
  have same : v.life = s.life := (congrArg State.life before :)
  exact ⟨l, by rw [after, frame, before], by rwa [same] at life⟩

theorem ProgramGone.trans {s v u : State} (h : ProgramGone s v) (k : ProgramGone v u) : ProgramGone s u := by
  obtain ⟨l, frame, life⟩ := h
  obtain ⟨m, frame', life'⟩ := k
  have last : v.life = l := (congrArg State.life frame :)
  refine ⟨m, by rw [frame', frame], fun hj hr => ?_⟩
  have stays := life hj hr
  rw [last, stays] at life'
  exact life' hj hr

/-- A sled that is JOINED or RUNNING takes another member state. -/
theorem programGone_enterLife {c : Prop} [Decidable c] {l : LifeState} (hl : l = .joined ∨ l = .degraded) (s : State)
    (from_ : c → s.life.state = .joined ∨ s.life.state = .running) :
    ProgramGone s (if c then enterLife l s else s) := by
  split
  · next hc =>
    refine ⟨{ s.life with state := l, since := s.now, dropOff := false }, ?_, fun hj hr => ?_⟩
    · rw [enterLife, if_neg (by rcases hl with rfl | rfl <;> simp)]; rfl
    · exact absurd (from_ hc) (by simp [hj, hr])
  · exact .refl s

theorem programGone_checkCapability (s : State) : ProgramGone s (checkCapability s) :=
  programGone_enterLife (.inr rfl) s And.left

/-- A program's release: its pages and its comparator return, then the life state follows, then the indices. -/
theorem releaseProgram_order (p : Program) (s : State) : ∃ v w, v.quiet.unrun = s.quiet.unrun ∧
    w = (if v.life.state = .running then enterLife .joined v else v) ∧ releaseProgram p s =
      checkCapability (if numberingGap (substituteAll w) then renumber (substituteAll w) else substituteAll w) := by
  refine ⟨_, _, ?_, rfl, rfl⟩
  cases p.cmp <;> rfl

theorem programGone_releaseProgram (p : Program) (s : State) : ProgramGone s (releaseProgram p s) := by
  obtain ⟨v, w, freed, rfl, order⟩ := releaseProgram_order p s
  have joins : ProgramGone v (if v.life.state = .running then enterLife .joined v else v) :=
    programGone_enterLife (.inl rfl) v .inr
  rw [order]
  refine (joins.around freed rfl).trans ((programGone_checkCapability _).around ?_ rfl)
  split <;> simp

theorem programGone_endProgram (p : Program) (status cause : Nat) (s : State) :
    ProgramGone s (endProgram p status cause s) :=
  (programGone_releaseProgram p _).around (by simp) rfl

theorem programGone_abortAtStep (cause failed : Nat) (s : State) : ProgramGone s (abortAtStep cause failed s) := by
  simp only [abortAtStep, abortProgram]
  split
  · split
    · exact .refl s
    · refine (programGone_endProgram _ _ _ _).around ?_ (by rw [flushRecords_quiet])
      split <;> simp
  · exact .refl s

/-- A lender's departure ends the program that holds its pages. -/
theorem programGone_lenderLost (addr : Nat) (s : State) : ProgramGone s (lenderLost addr s) := by
  have unlent (v : State) (h : v.quiet.unrun = s.quiet.unrun) : ProgramGone s v :=
    (ProgramGone.refl s).around rfl h
  simp only [lenderLost]
  split
  · split
    · exact (programGone_abortAtStep _ _ _).around (modTiers_unrun _ _) rfl
    · exact unlent _ (modTiers_unrun _ _)
  · exact unlent _ (modTiers_unrun _ _)

end Sys2Proof.Machine

namespace Sys2Proof.Machine

/-! ## Ports train, retrain, fail and are left (R193, R774, R781, R788, R794 to R802) -/

@[simp] theorem portAt_modPort_same (p : Nat) (f : Port → Port) (s : State) :
    portAt (modPort p f s) p = f (portAt s p) := tabGet_put_same _ _ _ _

theorem portAt_modPort_other {p m : Nat} (f : Port → Port) (s : State) (h : m ≠ p) :
    portAt (modPort p f s) m = portAt s m := tabGet_put_other _ _ _ _ _ _ h

/-- What no single action breaks, their sequence does not break. -/
theorem forEach_preserves {α : Type} {P : State → Prop} {f : α → State → State} (h : ∀ a u, P u → P (f a u)) (xs : List α)
    {s : State} (hs : P s) : P (forEach f xs s) := by
  induction xs generalizing s with
  | nil => exact hs
  | cons a as ih => exact ih (h a s hs)

/-- One port has changed, with the slabs that wait for the switch and local time. -/
def OnePort (t p : Nat) (s u : State) : Prop :=
  (∀ m, m ≠ p → portAt u m = portAt s m) ∧
  u = { s with now := max s.now t, links := { s.links with ports := u.links.ports, transit := u.links.transit } }

theorem onePort_modPort (t p : Nat) (f : Port → Port) (s : State) : OnePort t p s (modPort p f (clockTo t s)) :=
  ⟨fun _ hm => portAt_modPort_other f _ hm, rfl⟩

theorem OnePort.modPort {t p : Nat} {s u : State} (h : OnePort t p s u) (f : Port → Port) :
    OnePort t p s (modPort p f u) := by
  obtain ⟨others, frame⟩ := h
  refine ⟨fun m hm => (portAt_modPort_other f u hm).trans (others m hm), ?_⟩
  conv_lhs => rw [frame]
  rfl

/-- A command that changes one port alone. -/
theorem becomes_modPort {c : Instr} {t p : Nat} {s : State} (f : Port → Port)
    (run : exec c s = .next (modPort p f (clockTo t s))) :
    ∃ u, exec c s = .next u ∧ portAt u p = f (portAt s p) ∧ OnePort t p s u :=
  ⟨_, run, portAt_modPort_same p f (clockTo t s), onePort_modPort t p f s⟩

/-! ### The exchange of PORT_INFO (R795, R797 to R799) -/

/-- PORT_INFO says of its own port the width and the expected SEQ alone. -/
theorem portInfo_congr {s u : State} {p : Nat} (kiosk : u.kiosk = s.kiosk) (width : (portAt u p).width = (portAt s p).width)
    (expected : (portAt u p).expected = (portAt s p).expected) : portInfo u p = portInfo s p := by
  have obj (i a : Nat) : objAt u i a = objAt s i a := by unfold objAt; rw [kiosk]
  simp only [portInfo, sledAddress, expressWord, obj, width, expected]

theorem becomes_beginExchange {c : Instr} {t p w : Nat} {s : State}
    (run : exec c s = .next (beginExchange p w (clockTo t s))) :
    ∃ u, exec c s = .next u ∧ portAt u p = { portAt s p with
        exchanging := true, width := w, infoAt := max s.now t
        linkq := [portInfo (modPort p (fun b => { b with width := w }) { s with now := max s.now t }) p] } ∧
      OnePort t p s u := by
  let sn := clockTo t s
  let v := modPort p (fun a => { a with exchanging := true, width := w, infoAt := sn.now }) sn
  have info : portInfo v p = portInfo (modPort p (fun b => { b with width := w }) { s with now := max s.now t }) p := by
    have here : portAt v p = { portAt s p with exchanging := true, width := w, infoAt := max s.now t } :=
      portAt_modPort_same _ _ sn
    have there := portAt_modPort_same p (fun b => { b with width := w }) { s with now := max s.now t }
    exact portInfo_congr rfl (by rw [here, there]) (by rw [here, there]; rfl)
  refine ⟨_, run, ?_, (onePort_modPort t p _ s).modPort _⟩
  rw [← info]
  exact (portAt_modPort_same _ _ v).trans (by rw [portAt_modPort_same]; rfl)

/-! ### Training starts anew, a port fails, a partner leaves (R193, R800 to R802) -/

/-- A port whose waiting slabs have been routed again. -/
def Port.emptied (a : Port) : Port :=
  { a with outq := [], linkq := [], unacked := [], resend := [], inj := { a.inj with heldSlab := none } }

theorem reroute_frame (p : Nat) (s : State) :
    ∃ xs, reroute p s = (modPort p Port.emptied s).modLinks fun l => { l with transit := xs } :=
  forEach_changes (fun u => u.links.transit) (fun xs u => u.modLinks fun l => { l with transit := xs }) (fun _ => rfl)
    (fun _ _ _ => rfl) _ (fun _ _ => ⟨_, rfl⟩) _ _

theorem portAt_modLinks_transit (xs : List Slab) (s : State) (m : Nat) :
    portAt (s.modLinks fun l => { l with transit := xs }) m = portAt s m := rfl

@[simp] theorem portAt_reroute_same (p : Nat) (s : State) : portAt (reroute p s) p = (portAt s p).emptied := by
  obtain ⟨xs, h⟩ := reroute_frame p s
  rw [h, portAt_modLinks_transit, portAt_modPort_same]

theorem onePort_reroute (t p : Nat) (s : State) : OnePort t p s (reroute p (clockTo t s)) := by
  obtain ⟨xs, h⟩ := reroute_frame p (clockTo t s)
  rw [h]
  exact ⟨fun m hm => portAt_modPort_other _ _ hm, rfl⟩

/-- A port at the beginning of its initial training (R781, R794). -/
def Port.restarted (now : Nat) (a : Port) : Port :=
  { cable := a.cable, state := .training, since := now, inj := { a.inj with heldSlab := none }, retrains := a.retrains }

@[simp] theorem portAt_startTraining (p : Nat) (s : State) :
    portAt (startTraining p s) p = (portAt s p).restarted s.now := by
  have now : (reroute p s).now = s.now := by
    obtain ⟨xs, h⟩ := reroute_frame p s
    rw [h]; rfl
  simp only [startTraining, portAt_modPort_same, portAt_reroute_same, now]
  rfl

theorem onePort_startTraining (t p : Nat) (s : State) : OnePort t p s (startTraining p (clockTo t s)) :=
  (onePort_reroute t p s).modPort _

/-- What the standby domain, the governor and the fabric keep while ports come and go. -/
def PortsApart (s u : State) : Prop :=
  u.pins = s.pins ∧ u.gov = s.gov ∧ u.net = s.net ∧ u.fab = s.fab ∧ u.sweep = s.sweep

theorem PortsApart.trans {s v u : State} (h : PortsApart s v) (k : PortsApart v u) : PortsApart s u := by
  obtain ⟨h1, h2, h3, h4, h5⟩ := h
  obtain ⟨k1, k2, k3, k4, k5⟩ := k
  exact ⟨k1.trans h1, k2.trans h2, k3.trans h3, k4.trans h4, k5.trans h5⟩

theorem OnePort.apart {t p : Nat} {s u : State} (h : OnePort t p s u) : PortsApart s u := by
  rw [h.2]; exact ⟨rfl, rfl, rfl, rfl, rfl⟩

theorem ProgramGone.apart {s u : State} (h : ProgramGone s u) : PortsApart s u := by
  obtain ⟨l, frame, -⟩ := h
  exact ⟨(congrArg State.pins frame :), (congrArg State.gov frame :), (congrArg State.net frame :),
    (congrArg State.fab frame :), (congrArg State.sweep frame :)⟩

/-- A program's end moves no port. -/
theorem ProgramGone.portAt {s u : State} (h : ProgramGone s u) (m : Nat) : portAt u m = portAt s m := by
  obtain ⟨l, frame, -⟩ := h
  exact (congrArg (fun x => Machine.portAt x m) frame :)

theorem programGone_checkReach (s : State) : ProgramGone s (checkReach s) :=
  (ProgramGone.refl s).around rfl (checkReach_unrun s)

/-- A notice reaches no port that is not UP. -/
theorem portAt_portChange {p : Nat} (cause : Nat) {s : State} (h : (portAt s p).state ≠ .up) :
    portAt (portChange p cause s) p = portAt s p := by
  simp only [portChange, portNotice]
  generalize noticeSlab _ _ _ = x
  refine forEach_preserves (P := fun u => portAt u p = portAt s p) (fun m u hu => ?_) _ rfl
  split
  · next sends =>
    have other : p ≠ m := fun e => h (by rw [← hu, e]; exact sends.1)
    exact (portAt_modPort_other _ _ other).trans hu
  · exact hu

theorem portChange_apart (p cause : Nat) (s : State) : PortsApart s (portChange p cause s) := by
  simp only [portChange, portNotice]
  obtain ⟨l, h⟩ := floodNotice_changes_links (noticeSlab _ _ _) none _
  rw [h]; exact ⟨rfl, rfl, rfl, rfl, rfl⟩

theorem record_apart (r : LogRecord) (s : State) : PortsApart s (record r s) := by simp [PortsApart]

theorem portAt_record (r : LogRecord) (s : State) (m : Nat) : portAt (record r s) m = portAt s m := by simp [portAt]

theorem clockTo_now (s : State) : clockTo s.now s = s := by simp [clockTo]

theorem failPort_fails (p : Nat) (s : State) :
    portAt (failPort p s) p =
      { (portAt s p).emptied with state := .failed, since := s.now, exchanging := false, width := 0 } ∧
    PortsApart s (failPort p s) := by
  let v := modPort p (fun a => { a with state := .failed, since := (reroute p s).now, exchanging := false, width := 0 })
    (reroute p s)
  let w := record { cause := 0x7001, cls := 2, unitType := utPort, unit := p } v
  have one : OnePort s.now p s v := by
    have h := (onePort_reroute s.now p s).modPort
      (fun a => { a with state := .failed, since := (reroute p s).now, exchanging := false, width := 0 })
    rwa [clockTo_now] at h
  have failed : portAt w p =
      { (portAt s p).emptied with state := .failed, since := s.now, exchanging := false, width := 0 } := by
    simp [w, portAt_record, v]
  have told : portAt (portChange p 0x7001 w) p = portAt w p := portAt_portChange _ (by simp [failed])
  have gone := programGone_checkReach (portChange p 0x7001 w)
  exact ⟨(gone.portAt p).trans (told.trans failed),
    one.apart.trans ((record_apart _ v).trans ((portChange_apart p 0x7001 w).trans gone.apart))⟩

theorem leavePort_leaves (p : Nat) (s : State) :
    portAt (leavePort p s) p =
      { (portAt s p).emptied with state := .partnerLeft, exchanging := false, width := 0 } ∧
    PortsApart s (leavePort p s) := by
  let v := modPort p (fun a => { a with state := .partnerLeft, exchanging := false, width := 0 }) (reroute p s)
  have one : OnePort s.now p s v := by
    have h := (onePort_reroute s.now p s).modPort
      (fun a => { a with state := .partnerLeft, exchanging := false, width := 0 })
    rwa [clockTo_now] at h
  have left : portAt v p = { (portAt s p).emptied with state := .partnerLeft, exchanging := false, width := 0 } := by
    simp [v]
  simp only [leavePort]
  split
  · next addr _ _ =>
    have gone := (programGone_lenderLost addr v).trans (programGone_checkReach _)
    exact ⟨(gone.portAt p).trans left, one.apart.trans gone.apart⟩
  · exact ⟨left, one.apart⟩

/-! ### A retrain begins (R788, R796, R811) -/

/-- Without COLL slabs to route again, the ports' slabs stand. -/
theorem detourWaiting_stands {p : Nat} {s : State}
    (h : objAt s 0x7015 0 ≠ 1 ∨ ∀ y ∈ (portAt s p).outq, y.kind ≠ kColl) :
    (∀ m, portAt (detourWaiting p s) m = portAt s m) ∧
    detourWaiting p s = { s with links := { s.links with ports := (detourWaiting p s).links.ports } } := by
  simp only [detourWaiting]
  split
  · exact ⟨fun _ => rfl, rfl⟩
  · next asked =>
    have others : ∀ y ∈ (portAt s p).outq, y.kind ≠ kColl := h.resolve_left (fun h => asked h)
    have none_ : (portAt s p).outq.filter (fun x => decide (x.kind = kColl)) = [] :=
      List.filter_eq_nil_iff.mpr fun y hy => by simpa using others y hy
    have all : (portAt s p).outq.filter (fun x => decide (x.kind ≠ kColl)) = (portAt s p).outq :=
      List.filter_eq_self.mpr fun y hy => by simpa using others y hy
    rw [none_]
    refine ⟨fun m => ?_, rfl⟩
    by_cases hm : m = p
    · subst hm; exact (portAt_modPort_same _ _ s).trans (by rw [all])
    · exact portAt_modPort_other _ s hm

/-- The retrains that a port began within the last second. -/
def recentRetrains (p : Nat) (s : State) : List Nat := (portAt s p).retrains.filter fun x => s.now - x ≤ 1000000000

/-- A port as its retrain begins. -/
def Port.retraining (recent : List Nat) (now : Nat) (a : Port) : Port := { a with
  state := .retraining, since := now, narrow := false, exchanging := false, replays := 0, firstReplay := none
  resend := [], linkq := [], lastNak := none, creditTurn := (a.creditTurn + 1) % 7, retrains := recent ++ [now] }

/-- The sled as a port's retrain begins: the retrain is counted, and the partner is asked to retrain too. -/
def retrainBegun (p : Nat) (s : State) : State :=
  modPort p (fun a => { a with
    state := .retraining, since := s.now, narrow := false, exchanging := false, replays := 0, firstReplay := none
    resend := [], linkq := [], lastNak := none })
    (modPort p (fun a => { a with retrains := recentRetrains p s ++ [s.now] })
      (transmit p 0 (linkSlab (natLe 3 1)) (countPort p 9 1 s)))

theorem retrainBegun_port (p : Nat) (s : State) :
    portAt (retrainBegun p s) p = (portAt s p).retraining (recentRetrains p s) s.now := by
  have sends : portAt (transmit p 0 (linkSlab (natLe 3 1)) (countPort p 9 1 s)) p =
      { portAt s p with creditTurn := ((portAt s p).creditTurn + 1) % 7 } :=
    portAt_modPort_same p (fun a => { a with creditTurn := (a.creditTurn + 1) % 7 }) (countPort p 9 1 s)
  simp only [retrainBegun, portAt_modPort_same, sends]
  rfl

theorem retrainBegun_other {p m : Nat} (s : State) (hm : m ≠ p) : portAt (retrainBegun p s) m = portAt s m :=
  (portAt_modPort_other _ _ hm).trans ((portAt_modPort_other _ _ hm).trans
    (portAt_modPort_other (fun a => { a with creditTurn := (a.creditTurn + 1) % 7 }) (countPort p 9 1 s) hm))

theorem retrainBegun_counted (p : Nat) (s : State) : Counted (0x7030 + p) 9 1 s (retrainBegun p s) :=
  (counted_count s).congr rfl rfl

theorem beginRetrain_begins {p : Nat} {s : State} (up : (portAt s p).state = .up) (here : partnerDeparted s p = false)
    (few : (recentRetrains p s).length < objAt s 0x7012 0) :
    beginRetrain p true s = detourWaiting p (retrainBegun p s) :=
  (if_neg (by simp [up])).trans ((if_neg (by simp [here])).trans (if_neg (Nat.not_le.mpr few)))

section
variable (t : Nat) (port : Fin 16) {s : State}

/-- Losing FEC lock, and a replay budget that is over, begin a retrain. -/
theorem exec_beginsRetrain (runs : linksRun s = true) (up : (portAt s port.val).state = .up) {c : Instr}
    (listed : c ∈ [Instr.fecLockLoss t port, .replayBudgetExpire t port])
    (due : c = .fecLockLoss t port ∨ ∃ x, (portAt s port.val).firstReplay = some x ∧ x + 20000 ≤ max s.now t) :
    exec c s = .next (beginRetrain port.val true (clockTo t s)) := by
  have cases_ : c = .fecLockLoss t port ∨ c = .replayBudgetExpire t port := by simpa using listed
  rcases cases_ with rfl | rfl
  · exact if_pos runs
  · obtain ⟨x, first, late⟩ := due.resolve_left (by simp)
    have first' : (portAt (clockTo t s) port.val).firstReplay = some x := first
    have ended : linksRun (clockTo t s) = true ∧ (portAt (clockTo t s) port.val).state = .up ∧
        x + 20000 ≤ (clockTo t s).now := ⟨runs, up, late⟩
    simp only [exec, execReplayBudgetExpire, first', if_pos ended]

theorem retrain_begins (runs : linksRun s = true) {c : Instr}
    (listed : c ∈ [Instr.fecLockLoss t port, .replayBudgetExpire t port]) (up : (portAt s port.val).state = .up)
    (here : partnerDeparted s port.val = false)
    (due : c = .fecLockLoss t port ∨ ∃ x, (portAt s port.val).firstReplay = some x ∧ x + 20000 ≤ max s.now t)
    (few : ((portAt s port.val).retrains.filter fun x => max s.now t - x ≤ 1000000000).length < objAt s 0x7012 0)
    (calm : objAt s 0x7015 0 ≠ 1 ∨ ∀ y ∈ (portAt s port.val).outq, y.kind ≠ kColl) :
    ∃ u, exec c s = .next u ∧ (portAt u port.val).state = .retraining ∧ (portAt u port.val).since = max s.now t ∧
      (portAt u port.val).unacked = (portAt s port.val).unacked ∧ (portAt u port.val).outq = (portAt s port.val).outq ∧
      (portAt u port.val).credits = (portAt s port.val).credits ∧ Counted (0x7030 + port.val) 9 1 s u ∧
      (∀ m, m ≠ port.val → portAt u m = portAt s m) ∧
      u = { s with
        now := max s.now t, links := { s.links with ports := u.links.ports }, outbox := u.outbox
        kiosk := { s.kiosk with counters := u.kiosk.counters } } := by
  let p := port.val
  let v := retrainBegun p (clockTo t s)
  have here' : portAt v p = (portAt s p).retraining (recentRetrains p (clockTo t s)) (max s.now t) :=
    retrainBegun_port p (clockTo t s)
  obtain ⟨stands, frame⟩ := detourWaiting_stands (p := p) (s := v) (calm.imp_right fun h => by rw [here']; exact h)
  have at' := (stands p).trans here'
  refine ⟨detourWaiting p v, (exec_beginsRetrain t port runs up listed due).trans
    (congrArg Host.Outcome.next (beginRetrain_begins (s := clockTo t s) up here few)), ?_, ?_, ?_, ?_, ?_, ?_, ?_, ?_⟩
  · rw [at']; rfl
  · rw [at']; rfl
  · rw [at']; rfl
  · rw [at']; rfl
  · rw [at']; rfl
  · exact (retrainBegun_counted p (clockTo t s)).congr rfl (by rw [frame])
  · exact fun m hm => (stands m).trans (retrainBegun_other (clockTo t s) hm)
  · rw [frame]; rfl

/-! ### The commands -/

theorem retrain_tries (runs : linksRun s = true) (hs : (portAt s port.val).state = .retraining)
    (he : (portAt s port.val).exchanging = false) :
    ((portAt s port.val).since + 1000000 ≤ max s.now t → objAt s 0x7014 0 = 1 →
      ∃ u, exec (.width8AttemptExpire t port) s = .next u ∧ portAt u port.val = { portAt s port.val with narrow := true } ∧
        OnePort t port.val s u) ∧
    (∀ w, w = (if (portAt s port.val).narrow then 4 else 8) → max s.now t ≤ (portAt s port.val).since + 2000000 →
      ∃ u, exec (.retrainComplete t port w) s = .next u ∧ portAt u port.val = { portAt s port.val with
          exchanging := true, width := w, infoAt := max s.now t
          linkq := [portInfo (modPort port.val (fun b => { b with width := w }) { s with now := max s.now t }) port.val] } ∧
        OnePort t port.val s u) := by
  refine ⟨fun ended may => ?_, fun _ hw soon => becomes_beginExchange (if_pos ⟨runs, hs, he, hw, soon⟩)⟩
  have narrows : exec (.width8AttemptExpire t port) s =
      .next (modPort port.val (fun a => { a with narrow := true }) (clockTo t s)) := if_pos ⟨runs, hs, he, ended, may⟩
  exact becomes_modPort _ narrows

theorem portInfo_repeats (runs : linksRun s = true) (he : (portAt s port.val).exchanging = true)
    (late : (portAt s port.val).infoAt + 10000 ≤ max s.now t) :
    ∃ u, exec (.portInfoRepeat t port) s = .next u ∧ portAt u port.val = { portAt s port.val with
        infoAt := max s.now t
        linkq := (portAt s port.val).linkq ++ [portInfo { s with now := max s.now t } port.val] } ∧
      OnePort t port.val s u := by
  have repeats : exec (.portInfoRepeat t port) s = .next (modPort port.val (fun a => { a with
      infoAt := max s.now t, linkq := a.linkq ++ [portInfo (clockTo t s) port.val] }) (clockTo t s)) :=
    if_pos ⟨runs, he, late⟩
  exact becomes_modPort _ repeats

/-- A retrain and an initial training that take too long fail the port. -/
theorem training_times_out (runs : linksRun s = true) {c : Instr × PortState × Nat}
    (listed : c ∈ [(Instr.retrainTimeout t port, PortState.retraining, 2000000),
      (.portTrainTimeout t port, .training, 800000000)]) (hs : (portAt s port.val).state = c.2.1) :
    ((portAt s port.val).since + c.2.2 ≤ max s.now t → ∃ u, exec c.1 s = .next u ∧ PortsApart s u ∧
      (portAt u port.val).state = .failed ∧ (portAt u port.val).since = max s.now t ∧ (portAt u port.val).width = 0 ∧
      (portAt u port.val).outq = [] ∧ (portAt u port.val).unacked = []) ∧
    (max s.now t < (portAt s port.val).since + c.2.2 → exec c.1 s = .next { s with now := max s.now t }) := by
  have answers : exec c.1 s = if (portAt s port.val).since + c.2.2 ≤ max s.now t
      then .next (failPort port.val (clockTo t s)) else .next (clockTo t s) := by
    have runs' : linksRun (clockTo t s) = true := runs
    have at' : portAt (clockTo t s) port.val = portAt s port.val := rfl
    have cases_ : c = (Instr.retrainTimeout t port, PortState.retraining, 2000000) ∨
        c = (.portTrainTimeout t port, .training, 800000000) := by simpa using listed
    rcases cases_ with rfl | rfl
    · simp [exec, execRetrainTimeout, runs', at', hs]
    · simp [exec, execPortTrainTimeout, runs', at', hs]
  refine ⟨fun late => ?_, fun soon => answers.trans (if_neg (Nat.not_le.mpr soon))⟩
  obtain ⟨failed, apart⟩ := failPort_fails port.val (clockTo t s)
  exact ⟨_, answers.trans (if_pos late), apart, by rw [failed], by rw [failed]; rfl, by rw [failed], by rw [failed]; rfl,
    by rw [failed]; rfl⟩

/-- A port whose initial training begins anew, as the statement lists it. -/
theorem restarted_cleared (now : Nat) (a : Port) :
    (a.restarted now).state = .training ∧ (a.restarted now).nextSeq = 0 ∧ (a.restarted now).expected = 0 ∧
    (a.restarted now).unacked = [] ∧ (a.restarted now).outq = [] ∧ (a.restarted now).credits = [] ∧
    (a.restarted now).freed = [] ∧ (a.restarted now).cable = a.cable ∧ (a.restarted now).since = now :=
  ⟨rfl, rfl, rfl, rfl, rfl, rfl, rfl, rfl, rfl⟩

theorem failedPort_retries (runs : linksRun s = true) (sw : switchState s = true) (hs : (portAt s port.val).state = .failed)
    (late : (portAt s port.val).since + 1000000 * objAt s 0x7013 0 ≤ max s.now t) :
    exec (.failedPortRetry t port) s =
      if (portAt s port.val).cable = false then .next (modPort port.val (fun a => { a with state := .noCable }) (clockTo t s))
      else if portDisabled s port.val then .next (modPort port.val (fun a => { a with state := .disabled }) (clockTo t s))
      else .next (startTraining port.val (clockTo t s)) := by
  refine if_neg ?_
  rintro (h | h | h | h)
  · exact absurd runs (ne_true_of_eq_false h)
  · exact absurd sw (ne_true_of_eq_false h)
  · exact h hs
  · exact absurd late (Nat.not_le.mpr h)

theorem portTrainStart_restarts (may : mayTrain s port.val = true) (hs : (portAt s port.val).state ≠ .training) :
    ∃ u, exec (.portTrainStart t port) s = .next u ∧ PortsApart s u ∧
      portAt u port.val = (portAt s port.val).restarted (max s.now t) := by
  have gone := programGone_checkReach (startTraining port.val (clockTo t s))
  exact ⟨_, if_pos ⟨may, .inl hs⟩, (onePort_startTraining t port.val s).apart.trans gone.apart,
    (gone.portAt _).trans (portAt_startTraining _ _)⟩

theorem lanesSilent_leaves (runs : linksRun s = true)
    (hs : (portAt s port.val).state = .up ∨ (portAt s port.val).state = .retraining)
    (gone : partnerDeparted s port.val = true) :
    ∃ u, exec (.lanesSilent t port) s = .next u ∧ PortsApart s u ∧ (portAt u port.val).state = .partnerLeft ∧
      (portAt u port.val).width = 0 ∧ (portAt u port.val).outq = [] := by
  obtain ⟨left, apart⟩ := leavePort_leaves port.val (clockTo t s)
  exact ⟨_, if_pos ⟨runs, hs, gone⟩, apart, by rw [left], by rw [left], by rw [left]; rfl⟩

/-! ### The cage (R193, R794) -/

/-- A cage that stops reporting a cable: a port in use waits for its lanes. -/
theorem exec_cableLost (s : State) : exec (.cablePresenceChange t port false) s =
    let v := modPort port.val (fun a => { a with cable := false }) (clockTo t s)
    if (portAt v port.val).state = .up ∨ (portAt v port.val).state = .retraining ∨ (portAt v port.val).state = .disabled
    then .next v else .next (modPort port.val (fun a => { a with state := .noCable, exchanging := false }) v) := rfl

/-- A cage that starts to report a cable: a port without one trains where it may. -/
theorem exec_cableFound (s : State) : exec (.cablePresenceChange t port true) s =
    let v := modPort port.val (fun a => { a with cable := true }) (clockTo t s)
    if (portAt v port.val).state = .noCable ∧ mayTrain v port.val = true then .next (startTraining port.val v)
    else .next v := rfl

theorem cableLost_unused (h : ¬ ((portAt s port.val).state = .up ∨ (portAt s port.val).state = .retraining ∨
      (portAt s port.val).state = .disabled)) :
    ∃ u, exec (.cablePresenceChange t port false) s = .next u ∧
      portAt u port.val = { portAt s port.val with cable := false, state := .noCable, exchanging := false } ∧
      OnePort t port.val s u := by
  let v := modPort port.val (fun a => { a with cable := false }) (clockTo t s)
  have at' : portAt v port.val = { portAt s port.val with cable := false } := portAt_modPort_same _ _ _
  exact ⟨_, (exec_cableLost t port s).trans (if_neg (by rw [at']; exact h)),
    (portAt_modPort_same _ _ v).trans (by rw [at']), (onePort_modPort t _ _ s).modPort _⟩

theorem cableLost_used (h : (portAt s port.val).state = .up ∨ (portAt s port.val).state = .retraining ∨
      (portAt s port.val).state = .disabled) :
    ∃ u, exec (.cablePresenceChange t port false) s = .next u ∧
      portAt u port.val = { portAt s port.val with cable := false } ∧ OnePort t port.val s u := by
  have at' := portAt_modPort_same port.val (fun a => { a with cable := false }) (clockTo t s)
  exact becomes_modPort _ ((exec_cableLost t port s).trans (if_pos (by rw [at']; exact h)))

theorem cableFound_trains (hs : (portAt s port.val).state = .noCable) (runs : linksRun s = true)
    (sw : switchState s = true) (on : portDisabled s port.val = false) :
    ∃ u, exec (.cablePresenceChange t port true) s = .next u ∧ (portAt u port.val).state = .training ∧
      (portAt u port.val).cable = true ∧ (portAt u port.val).since = max s.now t ∧
      (∀ m, m ≠ port.val → portAt u m = portAt s m) := by
  let v := modPort port.val (fun a => { a with cable := true }) (clockTo t s)
  have at' : portAt v port.val = { portAt s port.val with cable := true } := portAt_modPort_same _ _ _
  have may : mayTrain v port.val = true := by
    have runs' : linksRun v = true := runs
    have sw' : switchState v = true := sw
    have on' : portDisabled v port.val = false := on
    simp [mayTrain, runs', sw', on', at']
  have trains : exec (.cablePresenceChange t port true) s = .next (startTraining port.val v) :=
    (exec_cableFound t port s).trans (if_pos ⟨by rw [at']; exact hs, may⟩)
  have one := onePort_startTraining v.now port.val v
  rw [clockTo_now] at one
  refine ⟨_, trains, ?_, ?_, ?_, fun m hm => (one.1 m hm).trans (portAt_modPort_other _ _ hm)⟩
  · rw [portAt_startTraining]; rfl
  · rw [portAt_startTraining, at']; rfl
  · rw [portAt_startTraining]; rfl

theorem cableFound_noted (hs : (portAt s port.val).state ≠ .noCable) :
    ∃ u, exec (.cablePresenceChange t port true) s = .next u ∧
      portAt u port.val = { portAt s port.val with cable := true } ∧ OnePort t port.val s u := by
  have at' := portAt_modPort_same port.val (fun a => { a with cable := true }) (clockTo t s)
  exact becomes_modPort _ ((exec_cableFound t port s).trans (if_neg fun h => hs (by rw [at'] at h; exact h.1)))

end

/-- Settles O44, row by row of the port state table. -/
theorem portsTrain : Obligations.PortsTrain := by
  intro t port s now p a becomes standby cleared
  refine ⟨fun runs => ⟨?_, ?_, ?_, ?_, ?_, ?_, ?_, ?_⟩, fun hu hr hd => ?_, cableLost_used t port, cableFound_trains t port,
    cableFound_noted t port⟩
  · exact fun c listed up here due few calm => retrain_begins t port runs listed up here due few calm
  · exact retrain_tries t port runs
  · exact fun hs he w hw => becomes_beginExchange (if_pos ⟨runs, hs, he, hw⟩)
  · exact portInfo_repeats t port runs
  · exact fun c listed hs => training_times_out t port runs listed hs
  · intro sw hs late
    have answers := failedPort_retries t port runs sw hs late
    refine ⟨fun cable on => ?_, fun cable off => ?_, fun none_ => ?_⟩
    · refine ⟨_, (answers.trans (if_neg (by simp [a, p] at cable; simp [cable]))).trans
        (if_neg (by simp [p] at on; simp [on])), ?_, ?_⟩
      · rw [portAt_startTraining]; exact restarted_cleared _ _
      · exact onePort_startTraining t p s
    · exact becomes_modPort _ ((answers.trans (if_neg (by simp [a, p] at cable; simp [cable]))).trans (if_pos off))
    · exact becomes_modPort _ (answers.trans (if_pos none_))
  · intro may hs
    obtain ⟨u, runs, apart, restarted⟩ := portTrainStart_restarts t port may hs
    exact ⟨u, runs, apart, by rw [restarted]; exact restarted_cleared _ _⟩
  · exact fun hs gone => lanesSilent_leaves t port runs hs gone
  · exact cableLost_unused t port fun h => h.elim hu fun h => h.elim hr hd

end Sys2Proof.Machine

namespace Sys2Proof.Machine

/-! ## Departures (R198 to R200, R1099) -/

section
variable (t : Nat) {s : State} (hl : s.life.latchOpen = false) (hd : s.life.descent ≠ .toReset)

/-- The sled with its latch open. -/
def latchOpened (t : Nat) (s : State) : State := (clockTo t s).modLife fun l => { l with latchOpen := true }

include hl in
theorem exec_latchOpen (ha : s.life.state ≠ .absent) :
    exec (.latchOpen t) s = .next (requestDeparture 1 (latchOpened t s)) :=
  (if_neg (by simp [hl])).trans (congrArg Host.Outcome.next (if_neg ha))

omit hl in
include hd in
theorem requestDeparture_standby (hs : s.life.state = .standby) :
    requestDeparture 1 s = settle (setObj 0x3010 0 0 s) := by
  rw [requestDeparture, if_neg hd, hs]

omit hl in
include hd in
theorem requestDeparture_member (hs : s.life.state = .joined ∨ s.life.state = .running ∨ s.life.state = .degraded) :
    requestDeparture 1 s = acceptDeparture 1 s := by
  rw [requestDeparture, if_neg hd]
  rcases hs with hs | hs | hs <;> rw [hs]

end

/-- The departure instant is the first multiple of eight cycles with the lead (R199). -/
theorem departInstant_first (s : State) : departInstant s % 8 = 0 ∧ s.rb.cycle + objAt s 0x3012 0 ≤ departInstant s ∧
    departInstant s < s.rb.cycle + objAt s 0x3012 0 + 8 := by
  simp only [departInstant]; omega

/-- The sled as a departure with code 1 has been announced, its comparators not yet loaded. -/
def departureAnnounced (s : State) : State :=
  noteRecord 0x3002 utSled 0 (sendNotice 0x3002 (departInstant s) (count 0x3030 6 1 (setObj 0x3010 0 0 (s.modLife fun l =>
    { l with
      departCode := 1, departCycle := departInstant s, prevState := l.state, prevTarget := objAt s 0x3010 0
      lastCause := 0x3002 }))))

/-- The three comparators of a departure, loaded. -/
def departureLoaded (n : Nat) (s : State) : State :=
  armPackage pcDrain n 0 0 (armPackage pcDepart n 0 0 (armKiosk kcDepart n 0 0 s))

theorem acceptDeparture_eq (s : State) :
    acceptDeparture 1 s = enterLife .departReq (departureLoaded (departInstant s) (departureAnnounced s)) := rfl

@[simp] theorem departureLoaded_fields (n : Nat) (s : State) :
    (departureLoaded n s).now = s.now ∧ (departureLoaded n s).gov = s.gov ∧ (departureLoaded n s).life = s.life ∧
    (departureLoaded n s).kiosk = s.kiosk ∧ (departureLoaded n s).tiles = s.tiles ∧
    (departureLoaded n s).tiers = s.tiers ∧ (departureLoaded n s).prog = s.prog ∧
    (departureLoaded n s).coll = s.coll ∧ (departureLoaded n s).junc = s.junc ∧ (departureLoaded n s).fab = s.fab ∧
    (departureLoaded n s).hostMem = s.hostMem ∧ (departureLoaded n s).hbm = s.hbm ∧
    (departureLoaded n s).cellar = s.cellar := by simp [departureLoaded, armKiosk, armPackage]

theorem departureLoaded_kiosk (n : Nat) (s : State) :
    (tabGet {} 2 (departureLoaded n s).rb.kioskCmp).busy = true ∧
    (tabGet {} 2 (departureLoaded n s).rb.kioskCmp).cycle = n := by
  simp [departureLoaded, armKiosk, armPackage, kcDepart, tabGet_put_same, loadComparator]

theorem departureLoaded_package (n i : Nat) (s : State) (hi : i = 62 ∨ i = 63) :
    (tabGet {} i (departureLoaded n s).rb.pkgCmp).busy = true ∧
    (tabGet {} i (departureLoaded n s).rb.pkgCmp).cycle = n := by
  rcases hi with rfl | rfl
  · simp [departureLoaded, armPackage, pcDepart, pcDrain, tabGet_put_same, tabGet_put_other, loadComparator]
  · simp [departureLoaded, armPackage, pcDrain, tabGet_put_same, loadComparator]

theorem departureAnnounced_target (s : State) : objAt (departureAnnounced s) 0x3010 0 = 0 := by
  have told (c n : Nat) (u : State) : objAt (sendNotice c n u) 0x3010 0 = objAt u 0x3010 0 := by simp [objAt]
  rw [departureAnnounced, noteRecord, objAt_record, told, objAt_count, objAt_setObj_same]

theorem departureAnnounced_counted (s : State) : Counted 0x3030 6 1 s (departureAnnounced s) := by
  have told (c n : Nat) (u : State) : counterAt (sendNotice c n u) 0x3030 6 = counterAt u 0x3030 6 := by simp [counterAt]
  have recorded (r : LogRecord) (u : State) : counterAt (record r u) 0x3030 6 = counterAt u 0x3030 6 :=
    counterAt_record_other (by decide) (by decide) r u
  rw [Counted, departureAnnounced, noteRecord, recorded, told]
  exact counted_count _

theorem latchOpen_departs (t : Nat) {s : State} (hl : s.life.latchOpen = false) (hd : s.life.descent ≠ .toReset)
    (hs : s.life.state = .joined ∨ s.life.state = .running ∨ s.life.state = .degraded) :
    ∃ u, exec (.latchOpen t) s = .next u ∧ u.life.state = .departReq ∧ u.life.departCode = 1 ∧
      u.life.departCycle % 8 = 0 ∧ s.rb.cycle + objAt s 0x3012 0 ≤ u.life.departCycle ∧
      u.life.departCycle < s.rb.cycle + objAt s 0x3012 0 + 8 ∧ u.life.prevState = s.life.state ∧
      u.life.prevTarget = objAt s 0x3010 0 ∧ objAt u 0x3010 0 = 0 ∧ u.life.lastCause = 0x3002 ∧
      u.life.latchOpen = true ∧ Counted 0x3030 6 1 s u ∧
      (tabGet {} 2 u.rb.kioskCmp).busy = true ∧ (tabGet {} 2 u.rb.kioskCmp).cycle = u.life.departCycle ∧
      (∀ i, i = 62 ∨ i = 63 → (tabGet {} i u.rb.pkgCmp).busy = true ∧ (tabGet {} i u.rb.pkgCmp).cycle = u.life.departCycle) ∧
      u.gov = s.gov ∧ SameMemories s u ∧ SameWork s u := by
  let v := latchOpened t s
  let w := departureAnnounced v
  let n := departInstant v
  have accepts : exec (.latchOpen t) s = .next (enterLife .departReq (departureLoaded n w)) := by
    rw [exec_latchOpen t hl (by rcases hs with h | h | h <;> simp [h]), requestDeparture_member (s := v) hd hs,
      acceptDeparture_eq]
  obtain ⟨multiple, early, late⟩ := departInstant_first v
  have life : (enterLife .departReq (departureLoaded n w)).life = { s.life with
      latchOpen := true, departCode := 1, departCycle := n, prevState := s.life.state, prevTarget := objAt s 0x3010 0
      lastCause := 0x3002, state := .departReq, since := max s.now t, dropOff := false } := by
    simp [w, v, n, departureAnnounced, latchOpened, setObj, count, setCounter]
    rfl
  refine ⟨_, accepts, ?_⟩
  rw [life]
  refine ⟨rfl, rfl, multiple, early, late, rfl, rfl, ?_, rfl, rfl, ?_, ?_, ?_, ?_, ?_, ?_, ?_⟩
  · have stands : objAt (enterLife .departReq (departureLoaded n w)) 0x3010 0 = objAt w 0x3010 0 := by simp [objAt]
    exact stands.trans (departureAnnounced_target v)
  · exact (departureAnnounced_counted v).congr rfl (by simp [w])
  · simp [departureLoaded_kiosk]
  · simp [departureLoaded_kiosk]
  · intro i hi
    simp [departureLoaded_package n i w hi]
  · simp [w, v, departureAnnounced, latchOpened]
  · simp [SameMemories, w, v, departureAnnounced, latchOpened]
  · simp [SameWork, w, v, departureAnnounced, latchOpened]

theorem latchOpen_turnsOff (t : Nat) {s : State} (hl : s.life.latchOpen = false) (hd : s.life.descent ≠ .toReset)
    (hs : s.life.state = .standby) :
    ∃ u, exec (.latchOpen t) s = .next u ∧ u.life.state = .off ∧ objAt u 0x3010 0 = 0 ∧ u.life.latchOpen = true ∧
      u.gov = s.gov ∧ u.rb = s.rb ∧ SameMemories s u ∧ SameWork s u := by
  let v := setObj 0x3010 0 0 (latchOpened t s)
  have target : objAt v 0x3010 0 = 0 := objAt_setObj_same _
  have settles : exec (.latchOpen t) s = .next (settle v) := by
    rw [exec_latchOpen t hl (by simp [hs]), requestDeparture_standby (s := latchOpened t s) hd hs]
  have inhibited : startInhibited v = true := by simp [startInhibited, target]
  have waits : v.life.state = .standby := hs
  have settled : settle v = (enterLife .off v).modLife fun l =>
      { l with startSince := track false v.now l.startSince, startDue := false } := by
    simp [settle, waits, inhibited]
  have life : (settle v).life.state = .off ∧ (settle v).life.latchOpen = true := by rw [settled]; exact ⟨rfl, rfl⟩
  refine ⟨_, settles, life.1, ?_, life.2, ?_, ?_, ?_, ?_⟩
  · have stands : objAt (settle v) 0x3010 0 = objAt v 0x3010 0 := by simp [objAt]
    exact stands.trans target
  · simp [v, latchOpened]
  · simp [v, latchOpened]
  · simp [SameMemories, v, latchOpened]
  · simp [SameWork, v, latchOpened]

/-! ## The departure instant (R180, R202, R402, R403) -/

/-- Package comparator `i` holds no firing. -/
def Unfired (i : Nat) (s : State) : Prop := (tabGet {} i s.rb.pkgCmp).fired = false

theorem clearPackageCmp_unfired (i : Nat) (s : State) : Unfired i (clearPackageCmp i s) := by
  simp [Unfired, clearPackageCmp, tabGet_put_same, releaseComparator]

theorem Unfired.clearPackageCmp {i : Nat} {s : State} (h : Unfired i s) (j : Nat) : Unfired i (clearPackageCmp j s) := by
  by_cases e : i = j
  · subst e; exact clearPackageCmp_unfired i s
  · have stands := tabGet_put_other ({} : Comparator) ({} : Comparator) j i
      (releaseComparator (tabGet {} j s.rb.pkgCmp)) s.rb.pkgCmp e
    exact (congrArg Comparator.fired stands).trans h

/-- The end of a descriptor may give a comparator back. -/
theorem Unfired.endDesc {i : Nat} {s : State} (h : Unfired i s) (q index status cause result : Nat) :
    Unfired i (endDesc q index status cause result s) := by
  have given (u : State) (f : Queue → Queue) (hu : Unfired i u) : Unfired i (modQueue q f u) := hu
  have counted : Unfired i (if status = 3 then count 0xA020 2 1 s else s) := by split <;> exact h
  simp only [Machine.endDesc]
  refine given _ _ ?_
  split
  · split
    · split
      · exact counted.clearPackageCmp _
      · exact counted
    · exact counted
  · exact counted

theorem Unfired.flushRecords {i : Nat} {s : State} (h : Unfired i s) (q : Nat) : Unfired i (flushRecords q s) := by
  rw [Unfired, flushRecords_rb]; exact h

/-- The LAUNCHes of a queue that have not started end FLUSHED. -/
def flushLaunchesOf (q : Nat) (x : Queue) (s : State) : State :=
  forEach (fun (d : Desc) s =>
    if (d.state = .fetched ∨ d.state = .gated) ∧ field d.data 0 1 = 4 then endDesc q d.index 4 0x3002 0 s else s) x.flight s

theorem flushLaunches_eq (s : State) : flushLaunches s = forEach (fun (qx : Nat × Queue) s =>
    if qx.2.cls ≠ 0 ∨ 4064 ≤ qx.1 then s else flushRecords qx.1 (flushLaunchesOf qx.1 qx.2 s)) s.host.queues s := rfl

theorem flushLaunches_quiet (s : State) : (flushLaunches s).quiet = s.quiet := by
  have flushes (q : Nat) (x : Queue) (u : State) : (flushLaunchesOf q x u).quiet = u.quiet :=
    forEach_quiet _ _ u fun _ u => by split <;> simp
  rw [flushLaunches_eq]
  exact forEach_quiet _ _ s fun _ u => by split <;> simp [flushes]

theorem flushLaunches_unqueued (s : State) : (flushLaunches s).unqueued = s.unqueued := by
  have flushes (q : Nat) (x : Queue) (u : State) : (flushLaunchesOf q x u).unqueued = u.unqueued :=
    forEach_keeps State.unqueued _ (fun _ u => by split <;> simp) _ u
  rw [flushLaunches_eq]
  exact forEach_keeps State.unqueued _ (fun _ u => by split <;> simp [flushes]) _ s

theorem Unfired.flushLaunches {i : Nat} {s : State} (h : Unfired i s) : Unfired i (flushLaunches s) := by
  have flushes (q : Nat) (x : Queue) (u : State) (hu : Unfired i u) : Unfired i (flushLaunchesOf q x u) :=
    forEach_preserves (fun _ u hu => by split; exacts [hu.endDesc _ _ _ _ _, hu]) _ hu
  rw [flushLaunches_eq]
  exact forEach_preserves (fun _ u hu => by split; exacts [hu, (flushes _ _ u hu).flushRecords _]) _ h

theorem clearDeparture_unfired (s : State) : (tabGet {} 2 (clearDeparture s).rb.kioskCmp).fired = false ∧
    Unfired 62 (clearDeparture s) ∧ Unfired 63 (clearDeparture s) := by
  refine ⟨?_, (clearPackageCmp_unfired 62 _).clearPackageCmp 63, clearPackageCmp_unfired 63 _⟩
  simp [clearDeparture, clearPackageCmp, clearKioskCmp, kcDepart, tabGet_put_same, releaseComparator]

theorem departInstant_drains (t : Nat) {s : State} (hs : s.life.state = .departReq) (hd : s.life.descent = .idle)
    (hf : departFired s = true) :
    ∃ u, exec (.departInstant t) s = .next u ∧ u.life.state = .draining ∧ u.life.since = max s.now t ∧
      u.life.drainTimedOut = false ∧ (tabGet {} 2 u.rb.kioskCmp).fired = false ∧
      (tabGet {} 62 u.rb.pkgCmp).fired = false ∧ (tabGet {} 63 u.rb.pkgCmp).fired = false ∧ u.gov = s.gov ∧ u.prog = s.prog ∧
      u.coll = s.coll ∧ u.tiles = s.tiles ∧ u.cellar = s.cellar := by
  let v := (clearDeparture (clockTo t s)).modLife fun l => { l with drainTimedOut := false }
  let w := enterLife .draining v
  obtain ⟨kiosk, depart, drain⟩ := clearDeparture_unfired (clockTo t s)
  have rb : w.rb = (clearDeparture (clockTo t s)).rb := by simp [w, v]
  have quiet := flushLaunches_quiet w
  have unqueued := flushLaunches_unqueued w
  simp only [State.unqueued, Prod.mk.injEq] at unqueued
  obtain ⟨life, prog, coll, cellar, -⟩ := unqueued
  have kept : w.gov = s.gov ∧ w.prog = s.prog ∧ w.coll = s.coll ∧ w.tiles = s.tiles ∧ w.cellar = s.cellar := by
    simp [w, v, clearDeparture, clearPackageCmp, clearKioskCmp]
  obtain ⟨gov', prog', coll', tiles', cellar'⟩ := kept
  refine ⟨flushLaunches w, if_pos ⟨hs, hd, hf⟩, ?_, ?_, ?_, ?_, ?_, ?_, ?_, prog.trans prog', coll.trans coll', ?_,
    cellar.trans cellar'⟩
  · rw [life]; simp [w]
  · rw [life]; simp [w, v, clearDeparture, clearPackageCmp, clearKioskCmp]
  · rw [life]; simp [w, v]
  · have stands : (flushLaunches w).rb.kioskCmp = w.rb.kioskCmp := (congrArg (fun x => x.rb.kioskCmp) quiet :)
    rw [stands, rb]; exact kiosk
  · exact Unfired.flushLaunches (i := 62) (by rw [Unfired, rb]; exact depart)
  · exact Unfired.flushLaunches (i := 63) (by rw [Unfired, rb]; exact drain)
  · exact (congrArg State.gov quiet :).trans gov'
  · exact (congrArg State.tiles quiet :).trans tiles'

/-! ## The drain's end and LEFT (R180, R202 to R204, R217, R404) -/

/-- The sled in LEFT, its queues disabled. -/
def leftQueuesOff (s : State) : State := disableAllQueues (enterLife .left s)

theorem leftQueuesOff_quiet (s : State) :
    (leftQueuesOff s).quiet = { s.quiet with life := { s.life with state := .left, since := s.now, dropOff := false } } := by
  rw [leftQueuesOff, disableAllQueues_quiet, enterLife, if_pos (.inr (.inr rfl)), glCause_quiet]
  rfl

/-- What every entry into LEFT does after its queues: nothing issues, and ballast may fall through the whole depth. -/
def idleInLeft (sweep : Bool) (s : State) : State :=
  ((stopIssue s).modGov fun g => { g with fullDepth := true }).modLife fun l => { l with
    sweepDue := sweep, descent := if sweep then l.descent else .toOff }

theorem enterLeft_eq (sweep : Bool) (s : State) : enterLeft sweep s = idleInLeft sweep (leftQueuesOff s) := by
  have ends (u : State) : (if sweep then
      ((stopIssue u).modGov fun g => { g with fullDepth := true }).modLife fun l => { l with sweepDue := true }
      else beginShutdown (u.modLife fun l => { l with sweepDue := false })) = idleInLeft sweep u := by
    cases sweep <;> rfl
  exact ends (leftQueuesOff s)

theorem drainTimeouts_of_kiosk {s u : State} (h : u.quiet.kiosk = s.quiet.kiosk) :
    counterAt u 0x3030 8 = counterAt s 0x3030 8 := by
  rw [← counterAt_quiet u, ← counterAt_quiet s, counterAt, counterAt, h]

theorem enterLeft_leaves (sweep : Bool) (s : State) :
    (enterLeft sweep s).life = { s.life with
      state := .left, since := s.now, dropOff := false, sweepDue := sweep
      descent := if sweep then s.life.descent else .toOff } ∧
    (enterLeft sweep s).gov.fullDepth = true ∧ (∀ e ∈ (enterLeft sweep s).tiles, e.2.works = false) ∧
    (enterLeft sweep s).prog = s.prog ∧ (enterLeft sweep s).cellar = s.cellar ∧ (enterLeft sweep s).fab = s.fab ∧
    (enterLeft sweep s).contain = s.contain ∧ counterAt (enterLeft sweep s) 0x3030 8 = counterAt s 0x3030 8 := by
  have quiet := leftQueuesOff_quiet s
  rw [enterLeft_eq]
  generalize leftQueuesOff s = u at quiet
  have life : u.life = { s.life with state := .left, since := s.now, dropOff := false } := (congrArg State.life quiet :)
  have kiosk : u.quiet.kiosk = s.quiet.kiosk := (congrArg State.kiosk quiet :)
  refine ⟨?_, rfl, stopIssue_idles u, (congrArg State.prog quiet :), (congrArg State.cellar quiet :),
    (congrArg State.fab quiet :), (congrArg State.contain quiet :), drainTimeouts_of_kiosk kiosk⟩
  have idles : (idleInLeft sweep u).life = { u.life with
    sweepDue := sweep, descent := if sweep then u.life.descent else .toOff } := rfl
  rw [idles, life]

@[simp] theorem leaveGroups_quiet (s : State) : (leaveGroups s).quiet = s.quiet :=
  forEach_quiet _ _ s fun _ u => by split <;> simp

/-- The sweep that a drain's end makes due (R204). -/
def sweepAfterDrain (s : State) : Bool := decide (s.life.departCode = 2) || decide (objAt s 0x3014 0 = 1)

theorem drainComplete_leaves (t : Nat) {s : State} (hs : s.life.state = .draining) (hd : s.life.descent = .idle)
    (done : drained s = true) :
    ∃ u, exec (.drainComplete t) s = .next u ∧ u.life.state = .left ∧ u.life.sweepDue = sweepAfterDrain s ∧
      u.life.descent = (if sweepAfterDrain s then s.life.descent else .toOff) ∧ u.gov.fullDepth = true ∧
      (∀ e ∈ u.tiles, e.2.works = false) ∧ u.prog = s.prog ∧ u.cellar = s.cellar ∧ u.fab = s.fab ∧ u.contain = s.contain := by
  let v := leaveGroups (clockTo t s)
  have quiet : v.quiet = (clockTo t s).quiet := leaveGroups_quiet _
  have life : v.life = s.life := (congrArg State.life quiet :)
  have sweep : sweepAfterDrain v = sweepAfterDrain s := by
    rw [sweepAfterDrain, life, quiet_objAt quiet]; rfl
  obtain ⟨life', depth, idle, prog, cellar, fab, contain, -⟩ := enterLeft_leaves (sweepAfterDrain v) v
  refine ⟨enterLeft (sweepAfterDrain v) v, if_pos ⟨hs, hd, done⟩, ?_, ?_, ?_, depth, idle,
    prog.trans (congrArg State.prog quiet :), cellar.trans (congrArg State.cellar quiet :),
    fab.trans (congrArg State.fab quiet :), contain.trans (congrArg State.contain quiet :)⟩
  · rw [life']
  · rw [life']; exact sweep
  · rw [life', sweep, life]

/-- A drain that has lasted too long: the program is aborted and the notice sent. -/
def drainAborted (t : Nat) (s : State) : State :=
  (sendNotice 0x3003 s.rb.cycle (abortAtStep 0x3003 0 (clockTo t s))).modLife fun l =>
    { l with drainTimedOut := true, lastCause := 0x3003 }

theorem exec_drainTimeout (t : Nat) (s : State) : exec (.drainTimeout t) s =
    if s.life.state = .draining ∧ s.life.descent = .idle ∧ s.life.since + 1000000 * objAt s 0x3013 0 ≤ max s.now t then
      .next (leaveAfterDrain (count 0x3030 8 1 (drainAborted t s)))
    else .next (clockTo t s) := by
  unfold exec execDrainTimeout drainAborted
  rfl

/-- The program's end leaves a draining sled's life, its cellar, its fabric, its settings and the count of drain timeouts. -/
theorem drainAborted_keeps (t : Nat) {s : State} (hs : s.life.state = .draining) :
    (drainAborted t s).life = { s.life with drainTimedOut := true, lastCause := 0x3003 } ∧
    (drainAborted t s).cellar = s.cellar ∧ (drainAborted t s).fab = s.fab ∧
    objAt (drainAborted t s) 0x3014 0 = objAt s 0x3014 0 ∧
    counterAt (drainAborted t s) 0x3030 8 = counterAt s 0x3030 8 := by
  have gone := programGone_abortAtStep 0x3003 0 (clockTo t s)
  have counter := gone.drainTimeouts
  obtain ⟨l, frame, life⟩ := gone
  have stays : l = s.life := life (by simp [hs]) (by simp [hs])
  have life' : (abortAtStep 0x3003 0 (clockTo t s)).life = l := (congrArg State.life frame :)
  have obj : objAt (abortAtStep 0x3003 0 (clockTo t s)) 0x3014 0 = objAt s 0x3014 0 :=
    (congrArg (fun x => objAt x 0x3014 0) frame :)
  refine ⟨?_, ?_, ?_, ?_, ?_⟩
  · simp [drainAborted, life', stays]
  · have kept : (abortAtStep 0x3003 0 (clockTo t s)).cellar = s.cellar := (congrArg State.cellar frame :)
    simpa [drainAborted] using kept
  · have kept : (abortAtStep 0x3003 0 (clockTo t s)).fab = s.fab := (congrArg State.fab frame :)
    simpa [drainAborted] using kept
  · simpa [drainAborted, objAt] using obj
  · simpa [drainAborted, counterAt] using counter

theorem drainTimeout_leaves (t : Nat) {s : State} (hs : s.life.state = .draining) (hd : s.life.descent = .idle)
    (late : s.life.since + 1000000 * objAt s 0x3013 0 ≤ max s.now t) :
    ∃ u, exec (.drainTimeout t) s = .next u ∧ u.life.state = .left ∧ u.life.sweepDue = sweepAfterDrain s ∧
      u.life.drainTimedOut = true ∧ u.life.lastCause = 0x3003 ∧ u.gov.fullDepth = true ∧ Counted 0x3030 8 1 s u ∧
      (∀ e ∈ u.tiles, e.2.works = false) ∧ u.cellar = s.cellar ∧ u.fab = s.fab := by
  obtain ⟨life, cellar, fab, obj, counter⟩ := drainAborted_keeps t hs
  have enters := (exec_drainTimeout t s).trans (if_pos ⟨hs, hd, late⟩)
  generalize drainAborted t s = v at life cellar fab obj counter enters
  have counts : Counted 0x3030 8 1 v (count 0x3030 8 1 v) := counted_count v
  have kept : (count 0x3030 8 1 v).life = v.life ∧ (count 0x3030 8 1 v).cellar = v.cellar ∧
      (count 0x3030 8 1 v).fab = v.fab := ⟨rfl, rfl, rfl⟩
  have obj' : objAt (count 0x3030 8 1 v) 0x3014 0 = objAt s 0x3014 0 := (objAt_count ..).trans obj
  generalize count 0x3030 8 1 v = w at counts kept obj' enters
  obtain ⟨keptLife, keptCellar, keptFab⟩ := kept
  have sweep : sweepAfterDrain w = sweepAfterDrain s := by rw [sweepAfterDrain, obj', keptLife, life, sweepAfterDrain]
  obtain ⟨life', depth, idle, -, cellar', fab', -, counter'⟩ := enterLeft_leaves (sweepAfterDrain w) w
  refine ⟨_, enters, ?_, ?_, ?_, ?_, depth, ?_, idle, (cellar'.trans keptCellar).trans cellar,
    (fab'.trans keptFab).trans fab⟩
  · exact congrArg Life.state life'
  · exact (congrArg Life.sweepDue life').trans sweep
  · exact (congrArg Life.drainTimedOut life').trans (by simp [keptLife, life])
  · exact (congrArg Life.lastCause life').trans (by simp [keptLife, life])
  · rw [Counted, counter] at counts
    exact counter'.trans counts

/-- Settles O9: the latch by `requestDeparture`, the instant by `flushLaunches`' lemmas, the drain's two ends by
`enterLeft_leaves`. -/
theorem departureAndDrain : Obligations.DepartureAndDrain := by
  refine ⟨fun t s hl hd => ⟨latchOpen_departs t hl hd, latchOpen_turnsOff t hl hd⟩, fun t s => ?_⟩
  intro sweep
  refine ⟨departInstant_drains t, drainComplete_leaves t, drainTimeout_leaves t, fun _ early => ?_, fun _ reset => ⟨?_, ?_⟩⟩
  · exact (exec_drainTimeout t s).trans (if_neg fun h => absurd h.2.2 (Nat.not_le.mpr early))
  · exact if_neg fun h => by simp [reset] at h
  · exact (exec_drainTimeout t s).trans (if_neg fun h => by simp [reset] at h)

end Sys2Proof.Machine

namespace Sys2Proof.Machine

/-! ## A queue that holds one descriptor (R377 to R381) -/

/-- A host queue's context, as the table has it. -/
theorem queueAt_host {q : Nat} (hq : q < 4064) (s : State) : queueAt s q = tabGet {} q s.host.queues := by
  have low : queueDefault q = {} := if_neg (by omega)
  rw [queueAt, if_neg (by omega), low]

theorem queueAt_modQueue {q : Nat} (hq : q < 4064) (f : Queue → Queue) (s : State) :
    queueAt (modQueue q f s) q = f (queueAt s q) := by
  have low : queueDefault q = {} := if_neg (by omega)
  rw [queueAt_host hq, queueAt_host hq]
  exact (congrArg (fun e => tabGet {} q (tabPut e q (f (tabGet e q s.host.queues)) s.host.queues)) low).trans
    (tabGet_put_same ({} : Queue) q _ _)

theorem queueAt_of_queues {q : Nat} (hq : q < 4064) {s u : State} (h : u.host.queues = s.host.queues) :
    queueAt u q = queueAt s q := by rw [queueAt_host hq, queueAt_host hq, h]

/-- Changing the one descriptor of a queue. -/
theorem flight_modDesc {q : Nat} (hq : q < 4064) {d : Desc} (f : Desc → Desc) {s : State}
    (h : (queueAt s q).flight = [d]) : (queueAt (modDesc q d.index f s) q).flight = [f d] := by
  simp [modDesc, queueAt_modQueue hq, h]

/-- A HOST_WORK queue whose one descriptor has no flags and was never stray. -/
structure OnlyDesc (q : Nat) (d : Desc) (s : State) : Prop where
  low : q < 4064
  ungrouped : (queueAt s q).group = 0
  hostClass : (queueAt s q).cls = 0
  alone : (queueAt s q).flight = [d]
  kept : d.stray = none
  plain : field d.data 1 1 = 0

section
variable {q : Nat} {d : Desc} {s : State} (only : OnlyDesc q d s) (fetched : d.state = .fetched)
include only fetched

theorem OnlyDesc.next : (queueAt s q).next = some d := by
  simp [Queue.next, only.alone, fetched]

/-- Nothing is before the descriptor, and it is not gated. -/
theorem OnlyDesc.admitNext (fenced : Desc → Bool) : Machine.admitNext q fenced s = (some d, s) := by
  have fence : fenceMet (queueAt s q) d (fenced d) = true := by simp [fenceMet, only.alone, only.kept]
  simp [Machine.admitNext, only.next fetched, fence, only.plain, bit]

theorem OnlyDesc.startNextHostWork (free : field d.data 0 1 = 4 → s.prog = none ∧ issueStopped s = false ∧
    s.life.state = .joined) : Machine.startNextHostWork q s = startHostWork q d s := by
  have unblocked : waitBlocks (queueAt s q) = false := by simp [waitBlocks, only.alone, fetched]
  have unflushed : ¬ (field d.data 0 1 = 4 ∧ (s.life.state = .draining ∨ s.life.state = .left)) := by
    rintro ⟨h, state⟩
    simp [(free h).2.2] at state
  have unheld : launchWaits s d = false := by
    by_cases h : field d.data 0 1 = 4
    · simp [launchWaits, (free h).1, (free h).2.1]
    · simp [launchWaits, h]
  simp [Machine.startNextHostWork, unblocked, only.next fetched, if_neg unflushed, unheld, only.admitNext fetched]

end

theorem exec_descriptorStart (t : Nat) {q : Fin 4096} {d : Desc} {s : State} (runs : packageRuns s = true)
    (still : dropping s = false) (only : OnlyDesc q.val d s) (fetched : d.state = .fetched)
    (free : field d.data 0 1 = 4 → s.prog = none ∧ issueStopped s = false ∧ s.life.state = .joined) :
    exec (.descriptorStart t q) s = .next (startHostWork q.val d (clockTo t s)) := by
  have only' : OnlyDesc q.val d (clockTo t s) :=
    ⟨only.low, only.ungrouped, only.hostClass, only.alone, only.kept, only.plain⟩
  have awake : ¬ (packageRuns (clockTo t s) = false ∨ dropping (clockTo t s) = true ∨ 4064 ≤ q.val) := by
    have runs' : packageRuns (clockTo t s) = true := runs
    have still' : dropping (clockTo t s) = false := still
    have low := only.low
    simp [runs', still']; omega
  rw [← only'.startNextHostWork fetched free]
  exact (if_neg awake).trans (if_pos ⟨only'.hostClass, only'.ungrouped⟩)

/-! ## LAUNCH (R180, R538, R620, R625, R1082) -/

/-- What a program's start leaves beside its pages, its tiles and its queue. -/
def State.launchFrame (s : State) : Tab Queue × Life × Option Program × Memory × Memory :=
  (s.host.queues, s.life, s.prog, s.cellar, s.hostMem)

theorem markPage_launchFrame (v : Bool) (l : PageLoc) (s : State) : (markPage v l s).launchFrame = s.launchFrame := by
  cases l <;> rfl

@[simp] theorem modTile_launchFrame (n : Nat) (f : Tile → Tile) (s : State) :
    (modTile n f s).launchFrame = s.launchFrame := rfl

@[simp] theorem count_launchFrame (i a n : Nat) (s : State) : (count i a n s).launchFrame = s.launchFrame := rfl

@[simp] theorem copyStream_launchFrame (p : Program) (n : Nat) (s : State) :
    (copyStream p n s).launchFrame = s.launchFrame := by simp [copyStream]

@[simp] theorem writeEntry_launchFrame (p : Program) (x : Tile) (pc step : Nat) (s : State) :
    (writeEntry p x pc step s).launchFrame = s.launchFrame := rfl

theorem startOnTile_launchFrame (p : Program) (n : Nat) (s : State) : (startOnTile p n s).launchFrame = s.launchFrame := by
  simp only [startOnTile, writeEntry_launchFrame, modTile_launchFrame, copyStream_launchFrame]
  split <;> rfl

theorem peerPages_launchFrame (is : List Nat) (need : Nat) (s : State) :
    (peerPages s is need).2.launchFrame = s.launchFrame := by
  induction is generalizing s need with
  | nil => rfl
  | cons i rest ih =>
    simp only [peerPages]
    split
    · exact ih need s
    · exact ih _ _

theorem place_launchFrame {s u : State} {h : List Byte} {y : Placement} (k : place s h = some (y, u)) :
    u.launchFrame = s.launchFrame := by
  simp only [place, Option.ite_none_left_eq_some, Option.some.injEq, Prod.mk.injEq] at k
  obtain ⟨-, -, -, rfl⟩ := k
  exact peerPages_launchFrame _ _ s

theorem startDesc_launchFrame (q i : Nat) {s u : State} (h : u.launchFrame = s.launchFrame) :
    (startDesc q i u).launchFrame = (startDesc q i s).launchFrame := by
  simp only [State.launchFrame, Prod.mk.injEq] at h
  obtain ⟨queues, life, prog, cellar, hostMem⟩ := h
  simp [State.launchFrame, startDesc, modDesc, modQueue, State.modHost, queues, life, prog, cellar, hostMem]

/-- A program's start, the life state aside: the pages are taken, the descriptor starts, and the tiles do. -/
theorem startProgram_order (q : Nat) (d : Desc) (y : Placement) (s : State) :
    ∃ p v, p.queue = q ∧ p.index = d.index ∧ p.image = field d.data 8 8 ∧ p.argument = field d.data 16 8 ∧ p.step = 0 ∧
      p.arena = y.arena ∧ p.ckpt = y.ckpt ∧
      v.launchFrame = ((startDesc q d.index s).host.queues, s.life, some p, s.cellar, s.hostMem) ∧
      startProgram q d y s = if v.life.state = .joined then enterLife .running v else v := by
  let pages := forEach (markPage true) y.arena (markHbm true (y.ckpt :: y.windows) s)
  have paged : pages.launchFrame = s.launchFrame := forEach_keeps _ _ (markPage_launchFrame true) _ _
  have started := startDesc_launchFrame q d.index paged
  simp only [State.launchFrame, Prod.mk.injEq] at started
  obtain ⟨queues, life, -, cellar, hostMem⟩ := started
  refine ⟨newProgram s q d y, _, rfl, rfl, rfl, rfl, rfl, rfl, rfl, ?_, rfl⟩
  rw [forEach_keeps State.launchFrame _ (startOnTile_launchFrame _)]
  exact congrArg₂ Prod.mk queues (congrArg₂ Prod.mk life (congrArg₂ Prod.mk rfl (congrArg₂ Prod.mk cellar hostMem)))

/-- A LAUNCH that no cause refuses and that finds its pages starts its program. -/
theorem launch_starts {q : Nat} (hq : q < 4064) {d : Desc} {s s' : State} {y : Placement}
    (alone : (queueAt s q).flight = [d]) (joined : s.life.state = .joined) (bytes : field d.data 24 4 ≤ 65536)
    (accepted : launchCause s (field d.data 8 8) = 0) (placed : place s (imageBytes s (field d.data 8 8) 0 64) = some (y, s')) :
    ∃ p, (launch q d s).prog = some p ∧ p.queue = q ∧ p.index = d.index ∧ p.image = field d.data 8 8 ∧
      p.argument = field d.data 16 8 ∧ p.step = 0 ∧ p.arena = y.arena ∧ p.ckpt = y.ckpt ∧
      (launch q d s).life.state = .running ∧ (launch q d s).cellar = s.cellar ∧ (launch q d s).hostMem = s.hostMem ∧
      (queueAt (launch q d s) q).flight = [{ d with state := .started }] := by
  have frame := place_launchFrame placed
  simp only [State.launchFrame, Prod.mk.injEq] at frame
  obtain ⟨queues', life', -, cellar', hostMem'⟩ := frame
  obtain ⟨p, v, hq', hi, himage, harg, hstep, harena, hckpt, started, starts⟩ := startProgram_order q d y s'
  simp only [State.launchFrame, Prod.mk.injEq] at started
  obtain ⟨queues, life, prog, cellar, hostMem⟩ := started
  have launches : launch q d s = enterLife .running v := by
    have runs : v.life.state = .joined := by rw [life, life', joined]
    rw [if_pos runs] at starts
    simp [launch, Nat.not_lt.mpr bytes, accepted, placed, starts]
  have quiet : (enterLife .running v).prog = v.prog ∧ (enterLife .running v).life.state = .running ∧
      (enterLife .running v).cellar = v.cellar ∧ (enterLife .running v).hostMem = v.hostMem ∧
      (enterLife .running v).host.queues = v.host.queues := ⟨rfl, rfl, rfl, rfl, rfl⟩
  obtain ⟨prog'', running, cellar'', hostMem'', queues''⟩ := quiet
  rw [launches]
  refine ⟨p, prog''.trans prog, hq', hi, himage, harg, hstep, harena, hckpt, running, by rw [cellar'', cellar, cellar'],
    by rw [hostMem'', hostMem, hostMem'], ?_⟩
  rw [queueAt_of_queues hq (queues''.trans queues)]
  exact flight_modDesc hq _ ((congrArg Queue.flight (queueAt_of_queues hq queues')).trans alone)

/-! ## FILL (R384, R523) -/

/-- Where every granule can be reached, every byte can. -/
theorem goodPrefix_all {ok : Nat → Bool} (reach : ∀ a, ok a = true) (fuel a n : Nat)
    (enough : n = 0 ∨ a % 512 + n ≤ 512 * fuel) : goodPrefix ok a fuel n = n := by
  induction fuel generalizing a n with
  | zero => simp only [goodPrefix]; omega
  | succ fuel ih =>
    by_cases h : n = 0
    · simp [goodPrefix, h]
    · have rest := ih (a + min n (512 - a % 512)) (n - min n (512 - a % 512)) (by omega)
      simp only [goodPrefix, h, reach, false_or, Bool.true_eq_false, if_false, rest]
      omega

/-- The host memory can be reached while the link is up. -/
theorem reachableBytes_host {s : State} (up : s.host.linkUp = true) (a n : Nat) : reachableBytes s 0 a n = n :=
  goodPrefix_all (fun _ => by simp [spaceValid, up]) _ _ _ (.inr (by omega))

theorem length_natLe (v n : Nat) : (natLe v n).length = n := by
  induction n generalizing v with
  | zero => rfl
  | succ n ih => simp [natLe, ih]

theorem length_fillBytes (pattern : Nat) {n : Nat} (words : n % 8 = 0) : (fillBytes pattern n).length = n := by
  simp [fillBytes, length_natLe]; omega

/-- A FILL of host memory writes its bytes and notes them. -/
theorem startFill_host {q : Nat} {d : Desc} {s : State} (space : field d.data 32 1 = 0) (words : field d.data 16 8 % 8 = 0)
    (up : s.host.linkUp = true) : startFill q d s = progress q d.index (field d.data 16 8) 0
      (hostWrite (field d.data 8 8) (fillBytes (field d.data 24 8) (field d.data 16 8)) s) := by
  have length := length_fillBytes (field d.data 24 8) words
  simp [startFill, copyOut, space, reachableBytes_host up, length, spaceWrite, List.take_of_length_le]

theorem descriptorStart_fills (t : Nat) {q : Fin 4096} {d : Desc} {s : State} (runs : packageRuns s = true)
    (still : dropping s = false) (only : OnlyDesc q.val d s) (fetched : d.state = .fetched) (op : field d.data 0 1 = 3)
    (space : field d.data 32 1 = 0) (words : field d.data 16 8 % 8 = 0) (up : s.host.linkUp = true) :
    ∃ u, exec (.descriptorStart t q) s = .next u ∧
      memRead u.hostMem (field d.data 8 8) (field d.data 16 8) = fillBytes (field d.data 24 8) (field d.data 16 8) ∧
      (∀ b, b < field d.data 8 8 ∨ field d.data 8 8 + field d.data 16 8 ≤ b → memGet u.hostMem b = memGet s.hostMem b) ∧
      (queueAt u q.val).flight = [{ d with state := .started, result := field d.data 16 8, status := 0, cause := 0 }] ∧
      u = { s with now := max s.now t, hostMem := u.hostMem, host := { s.host with queues := u.host.queues } } := by
  let bs := fillBytes (field d.data 24 8) (field d.data 16 8)
  let v := hostWrite (field d.data 8 8) bs (startDesc q.val d.index (clockTo t s))
  have length : bs.length = field d.data 16 8 := length_fillBytes _ words
  have fills : exec (.descriptorStart t q) s = .next (progress q.val d.index (field d.data 16 8) 0 v) := by
    have ok : fillOk d.data = true := by simp [fillOk, words, space]
    have up' : (startDesc q.val d.index (clockTo t s)).host.linkUp = true := up
    rw [exec_descriptorStart t runs still only fetched (by simp [op]), ← startFill_host space words up']
    simp [startHostWork, op, ok]
  have started : (queueAt v q.val).flight = [{ d with state := .started }] :=
    (congrArg Queue.flight (queueAt_of_queues only.low rfl)).trans (flight_modDesc (s := clockTo t s) only.low _ only.alone)
  refine ⟨_, fills, ?_, fun b hb => ?_, flight_modDesc (d := { d with state := .started }) only.low _ started, rfl⟩
  · have wrote := memRead_write s.hostMem (field d.data 8 8) bs
    rwa [length] at wrote
  · exact memGet_write_outside s.hostMem _ b bs (by rwa [length])

/-! ## DESCRIPTOR_COMPLETE (R384, R385, R396) -/

/-- The descriptor as its end fixes it. -/
def Desc.endedAt (d : Desc) (s : State) : Desc :=
  { d with state := .ended, endCycle := s.rb.pkgCycle, endPhase := s.rb.pkgPhase }

/-- A queue whose one descriptor, of index `i`, is `e` and waits for its record. -/
def Queue.holding (x : Queue) (i : Nat) (e : Desc) : Queue := { x with held := [i], flight := [e] }

/-- A queue as the end of its descriptor `index` leaves it. -/
def Queue.ends (x : Queue) (index status cause result cycle phase : Nat) : Queue := { x with
  held := if x.held.contains index then x.held else x.held ++ [index]
  flight := x.flight.map fun d => if d.index = index then
    { d with state := .ended, status := status, cause := cause, result := result, endCycle := cycle, endPhase := phase }
    else d }

/-- The end of a started descriptor. -/
theorem endDesc_started {q index : Nat} {d : Desc} {s : State} (found : (queueAt s q).desc index = some d)
    (started : d.state = .started) (status cause result : Nat) : endDesc q index status cause result s =
      modQueue q (fun x => x.ends index status cause result s.rb.pkgCycle s.rb.pkgPhase)
        (if status = 3 then count 0xA020 2 1 s else s) := by
  have counted : (queueAt (count 0xA020 2 1 s) q).desc index = some d := found
  by_cases bad : status = 3 <;> cases gate : d.gate <;> simp [endDesc, bad, found, counted, gate, started, Queue.ends]

/-- The only descriptor of a queue ends. -/
theorem endDesc_alone {q : Nat} (hq : q < 4064) {d : Desc} {s : State} (alone : (queueAt s q).flight = [d])
    (unheld : (queueAt s q).held = []) (started : d.state = .started) :
    queueAt (endDesc q d.index d.status d.cause d.result s) q = (queueAt s q).holding d.index (d.endedAt s) := by
  have found : (queueAt s q).desc d.index = some d := by simp [Queue.desc, alone]
  have queue : queueAt (if d.status = 3 then count 0xA020 2 1 s else s) q = queueAt s q :=
    queueAt_of_queues hq (by split <;> rfl)
  rw [endDesc_started found started, queueAt_modQueue hq, queue]
  simp [Queue.ends, alone, unheld, Queue.holding, Desc.endedAt]

/-- A record signalled moves at most its queue's interrupt count. -/
theorem signalRecord_flight {q : Nat} (hq : q < 4064) (d : Desc) (s : State) :
    (queueAt (signalRecord q d s) q).flight = (queueAt s q).flight := by
  have raised (v : Nat) (u : State) : queueAt (raiseVector v u) q = queueAt u q := by
    refine queueAt_of_queues hq ?_
    simp only [raiseVector]; (repeat' split) <;> rfl
  simp only [signalRecord]
  (repeat' split) <;> simp [raised, queueAt_modQueue hq]

theorem length_completionBytes (q : Nat) (x : Queue) {d : Desc} (data : d.data.length = 64) :
    (completionBytes q x d).length = 32 := by simp [completionBytes, length_natLe, data]

section
variable {q : Nat} (hq : q < 4064) {s : State} {x : Queue} {i : Nat} {e : Desc} (queue : queueAt s q = x.holding i e)
  (index : e.index = i) (still : dropping s = false) (ungrouped : x.group = 0) (hbmRing : Queue.space x.cplBase = 1)
  (whole : x.cplBroken = false) (room : 0 < x.cplFree) (kept : e.stray = none)
include hq queue index still ungrouped hbmRing whole room kept

/-- The one record that waits for an HBM ring with room is written and signalled, and its descriptor is gone. -/
theorem writeRecord_signals : ∃ u, writeRecord q s = signalRecord q e u ∧ (queueAt u q).flight = [] ∧
    u.hostMem = s.hostMem ∧
    u.hbm = memWrite s.hbm (x.cplBase / 32 * 32 + 32 * x.cplTail) (completionBytes q x e) := by
  let w := hbmWrite (x.cplBase / 32 * 32 + 32 * x.cplTail) (completionBytes q x e) s
  have queue' : queueAt w q = x.holding i e := (queueAt_of_queues hq rfl).trans queue
  have stays : recordLost s (x.holding i e) e = false := by simp [recordLost, Queue.holding, hbmRing, whole, kept]
  have found : (x.holding i e).desc i = some e := by simp [Queue.desc, Queue.holding, index]
  have uncounted (gone : Queue → Queue) (h : (gone (x.holding i e)).group = x.group) :
      countCompleted q (modQueue q gone w) = modQueue q gone w := by
    simp [countCompleted, queueAt_modQueue hq, queue', h, ungrouped]
  have writes : ∃ gone : Queue → Queue, writeRecord q s = signalRecord q e (countCompleted q (modQueue q gone w)) ∧
      (gone (x.holding i e)).group = x.group ∧ (gone (x.holding i e)).flight = [] := by
    have held : (x.holding i e).held = [i] := rfl
    have notFull : ¬ (x.holding i e).cplFree = 0 := by simp [Queue.holding]; omega
    have ring : Queue.space (x.holding i e).cplBase = 1 := hbmRing
    have record (a : Nat) : writeRing 1 a (completionBytes q (x.holding i e) e) s = hbmWrite a (completionBytes q x e) s := rfl
    rw [writeRecord, queue]
    simp only [held, found, still, stays, notFull, ring, kept, record, Bool.false_eq_true, if_false, Option.isNone_none, if_true]
    exact ⟨_, rfl, rfl, by simp [Queue.holding, index]⟩
  obtain ⟨gone, writes, group, empty⟩ := writes
  refine ⟨modQueue q gone w, by rw [writes, uncounted gone group], ?_, rfl, rfl⟩
  rw [queueAt_modQueue hq, queue', empty]

theorem writeRecord_alone (data : e.data.length = 64) :
    memRead (writeRecord q s).hbm (x.cplBase / 32 * 32 + 32 * x.cplTail) 32 = completionBytes q x e ∧
      (queueAt (writeRecord q s) q).flight = [] ∧ (writeRecord q s).hostMem = s.hostMem := by
  obtain ⟨u, writes, empty, hostMem, hbm⟩ :=
    writeRecord_signals hq queue index still ungrouped hbmRing whole room kept
  obtain ⟨-, -, hbm', -, hostMem'⟩ := signalRecord_kept q e u
  rw [writes, hbm', hostMem', hbm, signalRecord_flight hq]
  have wrote := memRead_write s.hbm (x.cplBase / 32 * 32 + 32 * x.cplTail) (completionBytes q x e)
  rw [length_completionBytes q x data] at wrote
  exact ⟨wrote, empty, hostMem⟩

end

theorem descriptorComplete_fill (t : Nat) {q : Fin 4096} {d : Desc} {s : State} (runs : packageRuns s = true)
    (still : dropping s = false) (only : OnlyDesc q.val d s) (unheld : (queueAt s q.val).held = [])
    (started : d.state = .started) (op : field d.data 0 1 = 3) (room : 0 < (queueAt s q.val).cplFree)
    (hbmRing : Queue.space (queueAt s q.val).cplBase = 1) (whole : (queueAt s q.val).cplBroken = false)
    (data : d.data.length = 64) :
    ∃ u, exec (.descriptorComplete t q d.index) s = .next u ∧
      memRead u.hbm ((queueAt s q.val).cplBase / 32 * 32 + 32 * (queueAt s q.val).cplTail) 32 =
        completionBytes q.val (queueAt s q.val) (d.endedAt s) ∧
      (queueAt u q.val).flight = [] ∧ u.hostMem = s.hostMem ∧ u.prog = s.prog := by
  let v := endDesc q.val d.index d.status d.cause d.result (clockTo t s)
  have queue : queueAt v q.val = (queueAt s q.val).holding d.index (d.endedAt s) :=
    endDesc_alone (s := clockTo t s) only.low only.alone unheld started
  have quiet : v.quiet = (clockTo t s).quiet := endDesc_quiet _ _ _ _ _ _
  have still' : dropping v = false := (congrArg dropping quiet :).trans still
  have hostMem : v.hostMem = s.hostMem := by simp [v]
  have flushes : finish q.val d.index d.status d.cause d.result (clockTo t s) = writeRecord q.val v := by
    have one : (queueAt v q.val).held.length = 1 := by rw [queue]; rfl
    rw [finish, flushRecords, one]; rfl
  have completes : exec (.descriptorComplete t q d.index) s = .next (writeRecord q.val v) := by
    have found : startedDesc (clockTo t s) q.val d.index = some d := by
      have only' : (queueAt (clockTo t s) q.val).flight = [d] := only.alone
      simp [startedDesc, Queue.desc, only', started]
    have host : hostWork (queueAt (clockTo t s) q.val) d = true := by
      have cls : (queueAt (clockTo t s) q.val).cls = 0 := only.hostClass
      have group : (queueAt (clockTo t s) q.val).group = 0 := only.ungrouped
      simp [hostWork, cls, group]
    have runs' : packageRuns (clockTo t s) = true := runs
    have still'' : dropping (clockTo t s) = false := still
    rw [← flushes]
    show execDescriptorComplete t q d.index s = _
    simp [execDescriptorComplete, found, host, runs', still'', op]
  obtain ⟨bytes, empty, memory⟩ := writeRecord_alone only.low queue rfl still' only.ungrouped hbmRing whole room only.kept data
  refine ⟨_, completes, bytes, empty, memory.trans hostMem, ?_⟩
  exact (congrArg State.prog ((writeRecord_quiet q.val v).trans quiet) :)

theorem descriptorStart_launches (t : Nat) {q : Fin 4096} {d : Desc} {s : State} (runs : packageRuns s = true)
    (still : dropping s = false) (only : OnlyDesc q.val d s) (fetched : d.state = .fetched) (op : field d.data 0 1 = 4)
    (idle : s.prog = none) (joined : s.life.state = .joined) (calm : s.life.descent = .idle) :
    exec (.descriptorStart t q) s = .next (launch q.val d (clockTo t s)) := by
  rw [exec_descriptorStart t runs still only fetched fun _ => ⟨idle, by simp [issueStopped, calm, joined], joined⟩]
  simp [startHostWork, op]

/-- A cause against a LAUNCH ends it, and starts nothing. -/
theorem launch_refused {q : Nat} {d : Desc} {s : State} (bytes : field d.data 24 4 ≤ 65536)
    (refused : launchCause s (field d.data 8 8) ≠ 0) :
    (launch q d s).prog = s.prog ∧ (launch q d s).tiles = s.tiles ∧ (launch q d s).life = s.life := by
  have ends : launch q d s = finish q d.index 2 (launchCause s (field d.data 8 8)) 0 s := by
    simp [launch, Nat.not_lt.mpr bytes, refused]
  have quiet := finish_quiet q d.index 2 (launchCause s (field d.data 8 8)) 0 s
  rw [ends]
  exact ⟨(congrArg State.prog quiet :), (congrArg State.tiles quiet :), (congrArg State.life quiet :)⟩

/-- Settles O24: the one descriptor starts by `OnlyDesc.startNextHostWork`; a program by the frame of its start, a FILL by
what a write reads back, and the record by `writeRecord_alone`. -/
theorem launchesAndFills : Obligations.LaunchesAndFills := by
  intro t q d s x runs still low ungrouped hostClass _ alone unheld _ kept plain
  have only : OnlyDesc q.val d s := ⟨low, ungrouped, hostClass, alone, kept, plain⟩
  refine ⟨fun fetched op idle joined calm bytes => ?_,
    fun fetched op space words up => descriptorStart_fills t runs still only fetched op space words up,
    fun started op room hbmRing whole data =>
      descriptorComplete_fill t runs still only unheld started op room hbmRing whole data⟩
  have starts := descriptorStart_launches t runs still only fetched op idle joined calm
  refine ⟨fun y s' accepted placed => ?_, fun refused => ?_⟩
  · obtain ⟨p, prog, rest⟩ := launch_starts (s := clockTo t s) low alone joined bytes accepted placed
    exact ⟨_, p, starts, prog, rest⟩
  · obtain ⟨prog, tiles, life⟩ := launch_refused (q := q.val) (s := clockTo t s) bytes refused
    exact ⟨_, starts, prog.trans idle, tiles, life⟩

end Sys2Proof.Machine

namespace Sys2Proof.Machine

/-! ## Tables that are filled in order -/

/-- Dropping a key that no entry has. -/
theorem tabErase_absent {α : Type} {k : Nat} {t : Tab α} (h : ∀ e ∈ t, e.1 < k) : tabErase k t = t := by
  induction t with
  | nil => rfl
  | cons e t ih =>
    have low : e.1 ≠ k := Nat.ne_of_lt (h e (by simp))
    simp [tabErase, low, ih fun x hx => h x (by simp [hx])]

/-- Listing a key above every entry. -/
theorem tabInsert_above {α : Type} {k : Nat} (v : α) {t : Tab α} (h : ∀ e ∈ t, e.1 < k) : tabInsert k v t = t ++ [(k, v)] := by
  induction t with
  | nil => rfl
  | cons e t ih =>
    have low := h e (by simp)
    simp [tabInsert, Nat.not_lt.mpr low.le, low.ne', ih fun x hx => h x (by simp [hx])]

/-- A table filled with `v` at the keys below `n`, in rising order. -/
def tabFill {α : Type} [DecidableEq α] (d : α) (v : Nat → α) (n : Nat) : Tab α :=
  (List.range n).foldl (fun t i => tabPut d i (v i) t) []

section
variable {α : Type} [DecidableEq α] (d : α) (v : Nat → α)

theorem tabFill_succ (n : Nat) : tabFill d v (n + 1) = tabPut d n (v n) (tabFill d v n) := by
  simp [tabFill, List.range_succ]

/-- The entries are the values that are not the default. -/
theorem tabFill_eq (n : Nat) :
    tabFill d v n = ((List.range n).filter fun i => decide (v i ≠ d)).map fun i => (i, v i) := by
  induction n with
  | zero => rfl
  | succ n ih =>
    have low : ∀ e ∈ tabFill d v n, e.1 < n := by
      rw [ih]
      intro e he
      obtain ⟨i, hi, rfl⟩ := List.mem_map.mp he
      exact List.mem_range.mp (List.mem_filter.mp hi).1
    rw [tabFill_succ, tabPut, List.range_succ, List.filter_append, List.map_append, ← ih]
    by_cases h : v n = d
    · simp [h, tabErase_absent low]
    · simp [h, tabInsert_above (v n) low]

theorem tabGet_fill {i n : Nat} (h : i < n) : tabGet d i (tabFill d v n) = v i := by
  induction n with
  | zero => omega
  | succ n ih =>
    rw [tabFill_succ]
    by_cases e : i = n
    · subst e; exact tabGet_put_same d i (v i) _
    · rw [tabGet_put_other d d n i _ _ e, ih (by omega)]

/-- Entries with a property that the default lacks are the keys whose value has it. -/
theorem length_filter_fill (p : α → Bool) (h : p d = false) (n : Nat) :
    ((tabFill d v n).filter fun e => p e.2).length = ((List.range n).filter fun i => p (v i)).length := by
  have listed (i : Nat) : (p (v i) && decide (v i ≠ d)) = p (v i) := by
    by_cases e : v i = d <;> simp [e, h]
  rw [tabFill_eq, List.filter_map, List.length_map, List.filter_filter]
  exact congrArg List.length (List.filter_congr fun i _ => listed i)

end

/-! ## The active set (R187, R513 to R515) -/

/-- Numbering the active tiles moves no tile's state. -/
theorem renumber_go_states (k n : Nat) (t : Tab Tile) :
    (tabGet {} n (renumber.go k t)).state = (tabGet ({} : Tile) n t).state := by
  induction t generalizing k with
  | nil => rfl
  | cons e t ih =>
    simp only [renumber.go]
    split <;> simp only [tabGet] <;> split <;> first | rfl | exact ih _

theorem length_active_go (k : Nat) (t : Tab Tile) :
    ((renumber.go k t).filter fun (_, x) => x.state = .active).length =
      (t.filter fun (_, x) => x.state = .active).length := by
  induction t generalizing k with
  | nil => rfl
  | cons e t ih =>
    by_cases h : e.2.state = .active <;> simp [renumber.go, h, ih]

theorem tileAt_renumber (n : Nat) (s : State) : (tileAt (renumber s) n).state = (tileAt s n).state :=
  renumber_go_states 0 n s.tiles

theorem activeTiles_renumber (s : State) : activeTiles (renumber s) = activeTiles s := length_active_go 0 s.tiles

section
variable (s : State) (f : Findings)

/-- An active tile is one of the usable ones. -/
theorem usable_of_mem_activeSet {n : Nat} (h : n ∈ activeSet s f) : n < 160 ∧ tileUsable s f n = true := by
  simp only [activeSet, List.mem_append] at h
  rcases h with h | h
  · have east := List.mem_filter.mp (List.mem_of_mem_take h)
    exact ⟨by have := List.mem_range.mp east.1; omega, east.2⟩
  · obtain ⟨west, usable⟩ := List.mem_filter.mp (List.mem_of_mem_take h)
    obtain ⟨i, hi, rfl⟩ := List.mem_map.mp west
    exact ⟨by have := List.mem_range.mp hi; omega, usable⟩

theorem nodup_activeSet : (activeSet s f).Nodup := by
  have east : (usableEast s f).Nodup := List.nodup_range.filter _
  have west : (usableWest s f).Nodup := (List.nodup_range.map fun i j h => by simpa using h).filter _
  refine List.nodup_append'.mpr ⟨east.sublist (List.take_sublist _ _), west.sublist (List.take_sublist _ _), ?_⟩
  intro n he hw
  have low := List.mem_range.mp (List.mem_filter.mp (List.mem_of_mem_take he)).1
  obtain ⟨i, -, rfl⟩ := List.mem_map.mp (List.mem_filter.mp (List.mem_of_mem_take hw)).1
  omega

/-- The tiles that start ACTIVE are those of the active set. -/
theorem startState_active (n : Nat) : startState s f (activeSet s f) n = .active ↔ n ∈ activeSet s f := by
  constructor
  · intro h
    simp only [startState] at h
    (repeat' split at h) <;> simp_all
  · intro h
    have usable := (usable_of_mem_activeSet s f h).2
    simp only [tileUsable, Bool.and_eq_true, Bool.not_eq_true'] at usable
    simp [startState, usable.1.1, usable.1.2, usable.2, h]

theorem length_startState_active :
    ((List.range 160).filter fun n => decide (startState s f (activeSet s f) n = .active)).length = (activeSet s f).length := by
  refine List.Perm.length_eq ((List.perm_ext_iff_of_nodup (List.nodup_range.filter _) (nodup_activeSet s f)).mpr fun n => ?_)
  simp only [List.mem_filter, List.mem_range, decide_eq_true_eq, startState_active, and_iff_right_iff_imp]
  exact fun h => (usable_of_mem_activeSet s f h).1

/-- A tile as the start decides it. -/
def tileDecided (n : Nat) : Tile := { tileAt s n with state := startState s f (activeSet s f) n }

theorem decideTiles_eq : decideTiles f s = renumber { s with tiles := tabFill {} (tileDecided s f) 160 } := rfl

theorem decideTiles_state {n : Nat} (h : n < 160) :
    (tileAt (decideTiles f s) n).state = startState s f (activeSet s f) n := by
  rw [decideTiles_eq, tileAt_renumber]
  exact congrArg Tile.state (tabGet_fill {} (tileDecided s f) h)

theorem activeTiles_decideTiles : activeTiles (decideTiles f s) = (activeSet s f).length := by
  rw [decideTiles_eq, activeTiles_renumber]
  exact (length_filter_fill {} (tileDecided s f) (fun x => decide (x.state = .active)) rfl 160).trans
    (length_startState_active s f)

end

/-! ## Loads of the fabric and the training of ports -/

/-- The quiet state without the fabric. -/
def State.unloaded (s : State) : State := { s.quiet with fab := {} }

theorem forEach_unloaded {α : Type} (f : α → State → State) (h : ∀ a u, (f a u).unloaded = u.unloaded) (xs : List α)
    (s : State) : (forEach f xs s).unloaded = s.unloaded := forEach_keeps State.unloaded f h xs s

theorem unloaded_of_quiet {s u : State} (h : u.quiet = s.quiet) : u.unloaded = s.unloaded :=
  congrArg (fun v => { v with fab := {} }) h

@[simp] theorem modFab_unloaded (f : Fabric → Fabric) (s : State) : (s.modFab f).unloaded = s.unloaded := rfl

@[simp] theorem modLot_unloaded (l : Nat) (f : Lot → Lot) (s : State) : (modLot l f s).unloaded = s.unloaded := rfl

@[simp] theorem modChip_unloaded (c : Nat) (f : Chiplet → Chiplet) (s : State) : (modChip c f s).unloaded = s.unloaded := rfl

@[simp] theorem setStreams_unloaded (c : Nat) (xs : List Stream) (s : State) :
    (setStreams c xs s).unloaded = s.unloaded := rfl

theorem probeTransition_unloaded (l n : Nat) (s : State) : (probeTransition l n s).unloaded = s.unloaded :=
  forEach_unloaded _ (fun k u => by
    split
    · rw [modFab_unloaded]
      exact unloaded_of_quiet (count_quiet (by decide) k 1 u)
    · rfl) _ s

theorem setCell_unloaded (l n : Nat) (v : Bool) (s : State) : (setCell l n v s).unloaded = s.unloaded := by
  simp only [setCell]; split
  · rfl
  · exact probeTransition_unloaded _ _ _

theorem restCells_unloaded (l : Nat) (s : State) : (restCells l s).unloaded = s.unloaded :=
  forEach_unloaded _ (fun _ _ => setCell_unloaded _ _ _ _) _ s

theorem endHead_unloaded (c status cause : Nat) (s : State) : (endHead c status cause s).unloaded = s.unloaded := by
  simp only [endHead]; split
  · rfl
  · next x rest _ =>
    have ended := (flushRecords_quiet x.queue _).trans (endDesc_quiet x.queue x.index status cause x.done (setStreams c rest s))
    exact (unloaded_of_quiet ended).trans (setStreams_unloaded c rest s)

theorem endStreams_unloaded (l status cause : Nat) (s : State) : (endStreams l status cause s).unloaded = s.unloaded :=
  forEach_unloaded _ (fun c u => forEach_unloaded _ (fun _ _ => endHead_unloaded c status cause _) _ u) _ s

theorem emptyFifos_unloaded (l : Nat) (s : State) : (emptyFifos l s).unloaded = s.unloaded :=
  forEach_unloaded _ (fun _ u => modFab_unloaded _ u) _ s

theorem takeOut_unloaded (l : Nat) (st : LotState) (s : State) : (takeOut l st s).unloaded = s.unloaded := by
  rw [takeOut, emptyFifos_unloaded, modLot_unloaded, restCells_unloaded, endStreams_unloaded]

theorem startFullLoad_unloaded (s : State) : (startFullLoad s).unloaded = s.unloaded := by
  simp only [startFullLoad]
  rw [forEach_unloaded _ (fun _ _ => modChip_unloaded _ _ _), forEach_unloaded _ (fun l u => takeOut_unloaded l .loading u),
    modFab_unloaded]

/-- A full load touches the fabric, and the queues of the streams that it ends. -/
theorem askFullLoad_unloaded (s : State) : (askFullLoad s).unloaded = s.unloaded := by
  simp only [askFullLoad]; split
  · exact startFullLoad_unloaded s
  · rfl

theorem startTraining_changes_links (p : Nat) (s : State) : ∃ l, startTraining p s = { s with links := l } := by
  obtain ⟨xs, h⟩ := reroute_frame p s
  rw [startTraining, h]
  exact ⟨_, rfl⟩

theorem trainPorts_changes_links (s : State) : ∃ l, trainPorts s = { s with links := l } :=
  forEach_changes_links _ (fun p u => by
    (repeat' split)
    · exact ⟨_, rfl⟩
    · exact startTraining_changes_links p u
    · exact ⟨_, rfl⟩) _ s

/-! ## VERDICT_COMPLETE (R180, R187, R188, R191) -/

section
variable (t : Nat) (res : TestResults) (s : State)

/-- The sled with the fences that a slow path's test cleared. -/
def testedFences : State := if s.life.startPath = 2 then clearTestedFences (findings s res) res.cores s else s

/-- The stacks that the address map lists. -/
def keptStacks : List Nat :=
  (List.range 8).filter fun i => bit (findings s res).hbmStacks i && !bit (testedFences res s).contain.stackFences i

/-- The sled with its tiles, its memories and its arrays decided. -/
def verdictDecided : State :=
  decideArrays (findings s res) (decideMemory (findings s res) (decideTiles (findings s res) (testedFences res s)))

/-- Too little is usable. -/
def startUnfit : Prop :=
  (activeSet (testedFences res s) (findings s res)).length < 72 ∨ (keptStacks res s).length < 4 ∨
    (findings s res).bridge = false

theorem testedFences_clockTo : testedFences res (clockTo t s) = clockTo t (testedFences res s) := by
  have path : (clockTo t s).life = s.life := rfl
  simp only [testedFences, path]
  split <;> rfl

theorem testedFences_keeps : (testedFences res s).prog = s.prog ∧
    (testedFences res s).sweep = s.sweep ∧ (testedFences res s).kiosk = s.kiosk := by
  simp only [testedFences]; split <;> exact ⟨rfl, rfl, rfl⟩

/-- Deciding touches the tiles, the memories' maps and the arrays. -/
theorem verdictDecided_keeps : (verdictDecided res s).tiles = (decideTiles (findings s res) (testedFences res s)).tiles ∧
    (verdictDecided res s).tiers.hbmMap = keptStacks res s ∧
    (verdictDecided res s).prog = s.prog ∧ (verdictDecided res s).sweep = s.sweep ∧
    (verdictDecided res s).kiosk = s.kiosk := by
  obtain ⟨prog, sweep, kiosk⟩ := testedFences_keeps res s
  have arrays (f : Findings) (u : State) : ∃ j, decideArrays f u = { u with junc := j } :=
    forEach_changes (fun u => u.junc) (fun j u => { u with junc := j }) (fun _ => rfl) (fun _ _ _ => rfl) _
      (fun _ _ => ⟨_, rfl⟩) _ _
  obtain ⟨j, decided⟩ := arrays (findings s res)
    (decideMemory (findings s res) (decideTiles (findings s res) (testedFences res s)))
  rw [verdictDecided, decided]
  exact ⟨rfl, rfl, prog, sweep, kiosk⟩

theorem activeTiles_verdictDecided :
    activeTiles (verdictDecided res s) = (activeSet (testedFences res s) (findings s res)).length := by
  rw [activeTiles, (verdictDecided_keeps res s).1]
  exact activeTiles_decideTiles _ _

/-- The fabric's full load at a start, where object 0x8810 asks for it. -/
def loadAtStart (s : State) : State := if objAt s 0x8810 0 = 1 then askFullLoad s else s

theorem loadAtStart_unloaded (s : State) : (loadAtStart s).unloaded = s.unloaded := by
  simp only [loadAtStart]; split
  · exact askFullLoad_unloaded s
  · rfl

/-- TRAINING as a fit sled enters it. -/
def trainingEntered (s : State) : State :=
  loadAtStart (trainPorts (enterLife .training (s.modContain fun c => { c with memoryLost := false })))

/-- LEFT as an unfit sled enters it. -/
def unfitLeft (s : State) : State :=
  enterLeft false ((fatalRecord 0x3005 utSled 0 s).modLife fun l => { l with unfit := true })

theorem exec_verdictComplete (hs : s.life.state = .verdict) (hd : s.life.descent = .idle) :
    (startUnfit res s → exec (.verdictComplete t res) s = .next (unfitLeft (verdictDecided res (clockTo t s)))) ∧
    (¬ startUnfit res s → exec (.verdictComplete t res) s = .next (trainingEntered (verdictDecided res (clockTo t s)))) := by
  have proceeds : ¬ ((clockTo t s).life.state ≠ .verdict ∨ (clockTo t s).life.descent ≠ .idle) := by
    simp [hs, hd]
  have unfit : activeTiles (verdictDecided res (clockTo t s)) < 72 ∨
      (verdictDecided res (clockTo t s)).tiers.hbmMap.length < 4 ∨ (findings (clockTo t s) res).bridge = false ↔
      startUnfit res s := by
    rw [activeTiles_verdictDecided, (verdictDecided_keeps res (clockTo t s)).2.1]
    rw [startUnfit, keptStacks, keptStacks, testedFences_clockTo]
    exact Iff.rfl
  exact ⟨fun h => (if_neg proceeds).trans (if_pos (unfit.mpr h)),
    fun h => (if_neg proceeds).trans (if_neg fun k => h (unfit.mp k))⟩

theorem unfitLeft_leaves (s : State) : (unfitLeft s).life.state = .left ∧ (unfitLeft s).life.unfit = true ∧
    (unfitLeft s).life.descent = .toOff ∧ Counted 0x9020 4 1 s (unfitLeft s) := by
  have left := enterLeft_unqueued ((fatalRecord 0x3005 utSled 0 s).modLife fun l => { l with unfit := true })
  simp only [State.unqueued, Prod.mk.injEq] at left
  obtain ⟨life, -, -, -, counter⟩ := left
  refine ⟨congrArg Life.state life, congrArg Life.unfit life, congrArg Life.descent life, ?_⟩
  rw [Counted, unfitLeft, counter]
  exact (fatalRecord_counted 0x3005 utSled 0 s).congr rfl (by simp)

theorem trainingEntered_keeps (s : State) : (trainingEntered s).life.state = .training ∧
    (trainingEntered s).tiers.hbmMap = s.tiers.hbmMap ∧ (trainingEntered s).tiles = s.tiles ∧
    (trainingEntered s).contain.memoryLost = false ∧ (trainingEntered s).prog = s.prog ∧
    (trainingEntered s).sweep = s.sweep := by
  obtain ⟨l, trains⟩ := trainPorts_changes_links (enterLife .training (s.modContain fun c => { c with memoryLost := false }))
  have frame := loadAtStart_unloaded (trainPorts (enterLife .training (s.modContain fun c => { c with memoryLost := false })))
  rw [trains] at frame
  rw [trainingEntered, trains]
  generalize loadAtStart _ = u at frame ⊢
  exact ⟨(congrArg (fun v => v.life.state) frame :), (congrArg (fun v => v.tiers.hbmMap) frame :),
    (congrArg State.tiles frame :), (congrArg (fun v => v.contain.memoryLost) frame :), (congrArg State.prog frame :),
    (congrArg State.sweep frame :)⟩

end

/-! ## TRAINING_COMPLETE (R193 to R195) -/

theorem sendNotice_noticeCount (cause cycle : Nat) (s : State) :
    (sendNotice cause cycle s).links.noticeCount = s.links.noticeCount + 1 := by
  have flood (x : Slab) (u : State) : (floodNotice x none u).links.noticeCount = u.links.noticeCount := by
    simp only [floodNotice]
    refine forEach_keeps (fun v => v.links.noticeCount) _ (fun p v => ?_) _ u
    split <;> rfl
  have told (n : NetNotice) (u : State) : (netNotice n u).links = u.links := by simp only [netNotice]; split <;> rfl
  rw [sendNotice, told, linkNotice, portNotice, flood]
  rfl

/-- The arrival of a member (R195). -/
def arrived (l : LifeState) (s : State) : State :=
  noteRecord 0x3001 utSled 0 (sendNotice 0x3001 (enterLife l s).rb.cycle (enterLife l s))

theorem exec_trainingComplete (t : Nat) {s : State} (hs : s.life.state = .training) (hd : s.life.descent = .idle)
    (trained : ∀ e ∈ s.links.ports, e.2.state ≠ .training) : exec (.trainingComplete t) s =
      .next (arrived (if fullCapability s then .joined else .degraded) (clockTo t s)) := by
  have ended : s.links.ports.any (fun e => decide (e.2.state = .training)) = false := by
    simpa using trained
  exact if_neg fun h => by
    rcases h with h | h | h
    · exact h hs
    · exact h hd
    · exact absurd (h.symm.trans ended) (by decide)

theorem arrived_keeps (l : LifeState) (s : State) :
    (arrived l s).life.state = l ∧ (arrived l s).links.noticeCount = s.links.noticeCount + 1 ∧ (arrived l s).gov = s.gov ∧
    (arrived l s).rb = s.rb ∧ SameMemories s (arrived l s) ∧ SameWork s (arrived l s) := by
  have links : (enterLife l s).links = s.links := by simp
  have counted : (arrived l s).links.noticeCount = s.links.noticeCount + 1 := by
    simp [arrived, sendNotice_noticeCount]
  refine ⟨?_, counted, ?_, ?_, ?_, ?_⟩
  · simp [arrived]
  · simp [arrived]
  · simp [arrived]
  · simp [arrived, SameMemories]
  · simp [arrived, SameWork]

/-- Settles O11: the tiles' states and their number by the table that the start fills, the rest by what deciding, training
and loading leave alone. -/
theorem verdictDecides : Obligations.VerdictDecides := by
  intro t res s hd
  refine ⟨fun hs => ?_, fun hs trained => ⟨_, exec_trainingComplete t hs hd trained, arrived_keeps _ (clockTo t s)⟩⟩
  obtain ⟨leaves, enters⟩ := exec_verdictComplete t res s hs hd
  obtain ⟨tiles, map, prog, sweep, kiosk⟩ := verdictDecided_keeps res (clockTo t s)
  rw [testedFences_clockTo] at tiles
  intro f s0 kept
  refine ⟨fun active mapped bridge => ?_, fun unfit => ?_⟩
  · have fit : ¬ startUnfit res s := by
      rintro (h | h | h)
      · exact absurd active (Nat.not_le.mpr h)
      · exact absurd mapped (Nat.not_le.mpr h)
      · exact absurd (bridge.symm.trans h) (by decide)
    obtain ⟨life, map', tiles', found, prog', sweep'⟩ := trainingEntered_keeps (verdictDecided res (clockTo t s))
    refine ⟨_, enters fit, life, ?_, fun i hi => ?_, found, prog'.trans prog, sweep'.trans sweep⟩
    · rw [map', map, keptStacks, testedFences_clockTo]; rfl
    · rw [tileAt, tiles', tiles]
      exact decideTiles_state (clockTo t s0) f hi
  · obtain ⟨life, unfit', descent, counted⟩ := unfitLeft_leaves (verdictDecided res (clockTo t s))
    exact ⟨_, leaves unfit, life, unfit', descent, counted.congr (congrArg Kiosk.counters kiosk).symm rfl⟩

end Sys2Proof.Machine

namespace Sys2Proof.Machine

/-! ## What answering a request leaves as it was (R246, R248, R260, R261, R277, R293, R329)

The answer to a request moves the sessions and their recorded outcomes, the mailbox's response registers, the counters, the
field network's queues, the host interface and what leaves the sled.  `State.unanswered` is the rest. -/

/-- The kiosk without what answering a request may touch. -/
def Kiosk.unanswered (k : Kiosk) : Kiosk := { k with
  counters := [], sessions := [], mbSess := {}, mbResponse := [], mbRspLength := 0, mbDone := false, mbBusy := false }

/-- The state without what answering a request may touch. -/
def State.unanswered (s : State) : State := { s with kiosk := s.kiosk.unanswered, net := {}, host := {}, outbox := [] }

section
variable {s u : State} (h : u.unanswered = s.unanswered)
include h

theorem unanswered_frame : u = { s with kiosk := u.kiosk, net := u.net, host := u.host, outbox := u.outbox } :=
  (congrArg (fun x : State => { x with kiosk := u.kiosk, net := u.net, host := u.host, outbox := u.outbox }) h :)

theorem unanswered_kiosk : u.kiosk.unanswered = s.kiosk.unanswered := (congrArg State.kiosk h :)

/-- The dictionary's values, the staging and the waiting requests stand. -/
theorem unanswered_entries : u.kiosk.objects = s.kiosk.objects ∧ u.kiosk.strings = s.kiosk.strings ∧
    u.kiosk.staging = s.kiosk.staging ∧ u.kiosk.jopQueue = s.kiosk.jopQueue ∧ u.kiosk.mbQueue = s.kiosk.mbQueue := by
  have kept := unanswered_kiosk h
  exact ⟨(congrArg Kiosk.objects kept :), (congrArg Kiosk.strings kept :), (congrArg Kiosk.staging kept :),
    (congrArg Kiosk.jopQueue kept :), (congrArg Kiosk.mbQueue kept :)⟩

theorem unanswered_banks : u.kiosk.stationA = s.kiosk.stationA ∧ u.kiosk.stationB = s.kiosk.stationB ∧
    u.kiosk.kioskA = s.kiosk.kioskA ∧ u.kiosk.kioskB = s.kiosk.kioskB ∧
    u.kiosk.policyA = s.kiosk.policyA ∧ u.kiosk.policyB = s.kiosk.policyB := by
  have kept := unanswered_kiosk h
  exact ⟨(congrArg Kiosk.stationA kept :), (congrArg Kiosk.stationB kept :), (congrArg Kiosk.kioskA kept :),
    (congrArg Kiosk.kioskB kept :), (congrArg Kiosk.policyA kept :), (congrArg Kiosk.policyB kept :)⟩

theorem unanswered_bankOf (kind bank : Nat) : bankOf u.kiosk kind bank = bankOf s.kiosk kind bank :=
  (congrArg (fun k => bankOf k kind bank) (unanswered_kiosk h) :)

theorem unanswered_objAt (i a : Nat) : objAt u i a = objAt s i a := (congrArg (fun x => objAt x i a) h :)

theorem unanswered_strAt (i a : Nat) : strAt u i a = strAt s i a := (congrArg (fun x => strAt x i a) h :)

end

@[simp] theorem count_unanswered (i a n : Nat) (s : State) : (count i a n s).unanswered = s.unanswered := rfl

@[simp] theorem modSession_unanswered (mb : Bool) (n : Nat) (f : Session → Session) (s : State) :
    (modSession mb n f s).unanswered = s.unanswered := by cases mb <;> rfl

@[simp] theorem counterAt_modSession (mb : Bool) (n : Nat) (f : Session → Session) (s : State) (j b : Nat) :
    counterAt (modSession mb n f s) j b = counterAt s j b := by cases mb <;> rfl

@[simp] theorem raiseVector_unanswered (v : Nat) (s : State) : (raiseVector v s).unanswered = s.unanswered := by
  simp only [raiseVector]; (repeat' split) <;> rfl

theorem netEmit_frame (e : Emission) (s : State) : ∃ n o, netEmit e s = { s with net := n, outbox := o } := by
  simp only [netEmit]; (repeat' split) <;> exact ⟨_, _, rfl⟩

/-- A unicast packet waits or leaves, and changes nothing beside. -/
theorem sendTo_frame (addr : Nat) (e : Emission) (s : State) : ∃ n o, sendTo addr e s = { s with net := n, outbox := o } := by
  simp only [sendTo]
  split
  · exact ⟨_, _, rfl⟩
  split
  · exact netEmit_frame e s
  split
  · exact ⟨_, _, rfl⟩
  · obtain ⟨n, o, sent⟩ := netEmit_frame (solicitation addr)
      (s.modNet fun n => { n with unresolved := n.unresolved ++ [(addr, e)] })
    exact ⟨n, o, sent⟩

theorem sendReply_frame (n client : Nat) (body : List Byte) (s : State) :
    ∃ x o, sendReply n client body s = { s with net := x, outbox := o } := by
  simp only [sendReply, sendJop]
  split
  · exact sendTo_frame _ _ s
  split
  · exact sendTo_frame _ _ s
  · exact ⟨_, _, rfl⟩

@[simp] theorem deliver_unanswered (mb : Bool) (n client : Nat) (reply : List Byte) (s : State) :
    (deliver mb n client reply s).unanswered = s.unanswered := by
  cases mb with
  | true =>
    simp only [deliver, if_true]
    split
    · rfl
    · exact raiseVector_unanswered _ _
  | false =>
    obtain ⟨x, o, sent⟩ := sendReply_frame n client reply s
    exact (congrArg State.unanswered sent).trans rfl

@[simp] theorem counterAt_deliver (mb : Bool) (n client : Nat) (reply : List Byte) (s : State) (j b : Nat) :
    counterAt (deliver mb n client reply s) j b = counterAt s j b := by
  cases mb with
  | true => simp only [deliver, if_true]; split <;> simp [counterAt]
  | false =>
    obtain ⟨x, o, sent⟩ := sendReply_frame n client reply s
    exact (congrArg (fun u => counterAt u j b) sent).trans rfl

@[simp] theorem openOutcome_unanswered (mb : Bool) (n txn : Nat) (changing : Bool) (s : State) :
    (openOutcome mb n txn changing s).unanswered = s.unanswered := by simp [openOutcome]

theorem openOutcome_counted (mb : Bool) (n txn : Nat) (changing : Bool) (s : State) :
    Counted 0x1110 1 1 s (openOutcome mb n txn changing s) :=
  (counted_count _).trans (by rw [counterAt_modSession])

@[simp] theorem closeOutcome_unanswered (mb : Bool) (n txn : Nat) (reply : List Byte) (s : State) :
    (closeOutcome mb n txn reply s).unanswered = s.unanswered := by simp only [closeOutcome]; split <;> simp

theorem counterAt_closeOutcome_other {j b : Nat} (other : objKey j b ≠ objKey 0x1110 5) (mb : Bool) (n txn : Nat)
    (reply : List Byte) (s : State) : counterAt (closeOutcome mb n txn reply s) j b = counterAt s j b := by
  simp only [closeOutcome]; split <;> simp [counterAt_count_other _ other]

/-- Answering a commit whose session has ended only counts the failure and clears MB_STATUS.BUSY. -/
@[simp] theorem answerCommit_unanswered (g : Staging) (txn : Nat) (reply : List Byte) (s : State) :
    (answerCommit g txn reply s).unanswered = s.unanswered := by
  have counted (u : State) : (if field reply 4 1 = 0 then u else count 0x1110 5 1 u).unanswered = u.unanswered := by
    split <;> rfl
  simp only [answerCommit]
  split
  · split
    · exact counted s
    · exact counted s
  · rw [deliver_unanswered, closeOutcome_unanswered]

theorem counterAt_answerCommit_other {j b : Nat} (other : objKey j b ≠ objKey 0x1110 5) (g : Staging) (txn : Nat)
    (reply : List Byte) (s : State) : counterAt (answerCommit g txn reply s) j b = counterAt s j b := by
  have counted (u : State) : counterAt (if field reply 4 1 = 0 then u else count 0x1110 5 1 u) j b = counterAt u j b := by
    split
    · rfl
    · exact counterAt_count_other _ other
  simp only [answerCommit]
  split
  · split
    · exact counted s
    · exact counted s
  · rw [counterAt_deliver, counterAt_closeOutcome_other other]

/-- A record changes the records, the counters, the host interface and what leaves the sled. -/
theorem noteRecord_frame (cause ut unit : Nat) (s : State) : noteRecord cause ut unit s = { s with
    contain := (noteRecord cause ut unit s).contain
    kiosk := { s.kiosk with counters := (noteRecord cause ut unit s).kiosk.counters }
    host := (noteRecord cause ut unit s).host, outbox := (noteRecord cause ut unit s).outbox } := by
  obtain ⟨kiosk, -⟩ := (noted_iff s _).mpr (noteRecord_unnoted cause ut unit s)
  apply State.ext_fields (h6 := kiosk) <;> simp

end Sys2Proof.Machine

namespace Sys2Proof.Machine

/-! ## Committing a staged DOMAIN and its expiry (R273, R274, R284, R285, R290) -/

/-- The store fails: counted in 0x1110:08, and recorded. -/
theorem storeFails_counted (s : State) : Counted 0x1110 8 1 s (storeFails s) :=
  (counterAt_record_other (by decide) (by decide) _ _).trans (counted_count s)

/-- Beside what an answer may touch, a failed store changes the records. -/
theorem storeFails_unanswered (s : State) : ∃ c, (storeFails s).unanswered = ({ s with contain := c } : State).unanswered :=
  ⟨(storeFails s).contain, (congrArg State.unanswered (noteRecord_frame 0x1001 utKiosk 0 (count 0x1110 8 1 s))).trans rfl⟩

theorem strAt_setStr_same (i a : Nat) (v : List Byte) (s : State) : strAt (setStr i a v s) i a = v :=
  tabGet_put_same _ _ _ _

theorem strAt_setStr_other {i a j b : Nat} (v : List Byte) (s : State) (h : objKey j b ≠ objKey i a) :
    strAt (setStr i a v s) j b = strAt s j b := tabGet_put_other _ _ _ _ _ _ h

theorem imageKind_cases (key : Nat) : imageKind key = 0 ∨ imageKind key = 1 ∨ imageKind key = 2 ∨ imageKind key = 3 := by
  simp only [imageKind]; (repeat' split) <;> simp

theorem targetBank_cases (k : Kiosk) (kind : Nat) : targetBank k kind = 1 ∨ targetBank k kind = 2 := by
  simp only [targetBank]; split <;> simp

/-- A written bank reads as written, and the other bank of the kind as before. -/
theorem bankOf_setBank {kind bank : Nat} (hk : kind = 1 ∨ kind = 2 ∨ kind = 3) (hb : bank = 1 ∨ bank = 2) (x : Bank)
    (k : Kiosk) : bankOf (setBank kind bank x k) kind bank = x ∧
      bankOf (setBank kind bank x k) kind (3 - bank) = bankOf k kind (3 - bank) := by
  rcases hk with rfl | rfl | rfl <;> rcases hb with rfl | rfl <;> exact ⟨rfl, rfl⟩

theorem setBank_entries (kind bank : Nat) (x : Bank) (k : Kiosk) :
    (setBank kind bank x k).objects = k.objects ∧ (setBank kind bank x k).strings = k.strings := by
  simp only [setBank]; split <;> exact ⟨rfl, rfl⟩

theorem commitImage_entries (kind : Nat) (data : List Byte) (s : State) :
    (commitImage kind data s).kiosk.objects = s.kiosk.objects ∧ (commitImage kind data s).kiosk.strings = s.kiosk.strings :=
  setBank_entries kind _ _ s.kiosk

/-- A committed image is read from the bank that does not run, and the running bank stands. -/
theorem bankOf_commitImage {kind : Nat} (hk : kind = 1 ∨ kind = 2 ∨ kind = 3) (data : List Byte) (s : State) :
    bankOf (commitImage kind data s).kiosk kind (targetBank s.kiosk kind) = { version := field data 8 4, data := data } ∧
    bankOf (commitImage kind data s).kiosk kind (3 - targetBank s.kiosk kind) =
      bankOf s.kiosk kind (3 - targetBank s.kiosk kind) := by
  exact bankOf_setBank hk (targetBank_cases s.kiosk kind) _ s.kiosk

/-- The staging is gone. -/
def stagingEnded (s : State) : State := s.modKiosk fun k => { k with staging := none }

/-- A store is counted unless the DOMAIN's value is the one it had. -/
def storeCounted (same : Bool) (s : State) : State := if same then s else count 0x1110 7 1 s

theorem storeCounted_unanswered (same : Bool) (s : State) : (storeCounted same s).unanswered = s.unanswered := by
  cases same <;> rfl

theorem stagingEnded_unanswered {s u : State} (h : u.unanswered = s.unanswered) :
    (stagingEnded u).unanswered = (stagingEnded s).unanswered :=
  (congrArg (fun v : State => { v with kiosk := { v.kiosk with staging := none } }) h :)

section
variable {g : Staging} {txn : Nat} {s v : State}

/-- A value that verifies and is stored: the staging ends, and the commit is answered. -/
theorem finishCommit_stored (verifies : commitDomain g.key g.data s = some v) : finishCommit g txn true s =
    answerCommit g txn (replyWith txn 0 0 [(0, [])]) (stagingEnded (storeCounted (sameValue g.key g.data s) v)) := by
  simp only [finishCommit, verifies, Bool.true_or, if_true, stagingEnded, storeCounted]

theorem finishCommit_unstored (verifies : commitDomain g.key g.data s = some v) (differs : sameValue g.key g.data s = false) :
    finishCommit g txn false s = answerCommit g txn (replyFailed txn 0x10 0 1) (storeFails (s.modKiosk fun k => { k with
      staging := if g.orphan then none else some { g with verifying := none, busy := false } })) := by
  simp [finishCommit, verifies, differs]

theorem finishCommit_refused (storeOk : Bool) (fails : commitDomain g.key g.data s = none) :
    finishCommit g txn storeOk s = answerCommit g txn (replyFailed txn 0x0F 0 1) (stagingEnded s) := by
  simp only [finishCommit, fails, stagingEnded]

/-- What is stored, and the end of its staging, is all that a stored commit changes beside its answer. -/
theorem finishCommit_stored_unanswered (verifies : commitDomain g.key g.data s = some v) :
    (finishCommit g txn true s).unanswered = (stagingEnded v).unanswered := by
  rw [finishCommit_stored verifies, answerCommit_unanswered]
  exact stagingEnded_unanswered (storeCounted_unanswered _ _)

end

theorem commitDomain_plain {key : Nat} (data : List Byte) (s : State) (plain : imageKind key = 0)
    (notFabric : key ≠ objKey 0x8800 0) (notSection : key ≠ objKey 0x8801 0) :
    commitDomain key data s = some (setStr (key / 256) (key % 256) data s) := by
  simp [commitDomain, plain, notFabric, notSection]

theorem commitDomain_image {key : Nat} {data : List Byte} (s : State) (image : imageKind key ≠ 0)
    (ok : imageOk (imageKind key) data = true) : commitDomain key data s = some (commitImage (imageKind key) data s) := by
  simp [commitDomain, image, ok]

theorem commitDomain_badImage {key : Nat} {data : List Byte} (s : State) (image : imageKind key ≠ 0)
    (bad : imageOk (imageKind key) data = false) : commitDomain key data s = none := by
  simp [commitDomain, image, bad]

theorem exec_domainVerifyDone (t : Nat) (storeOk : Bool) {s : State} {g : Staging} {txn : Nat}
    (staged : s.kiosk.staging = some g) (verifying : g.verifying = some txn) (settled : tickSettled (clockTo t s) = true) :
    exec (.domainVerifyDone t storeOk) s = .next (finishCommit g txn storeOk (clockTo t s)) := by
  simp [exec, execDomainVerifyDone, settled, staged, verifying]

section
variable (t : Nat) {s : State} {g : Staging} {txn : Nat} (staged : s.kiosk.staging = some g)
include staged

section
variable (verifying : g.verifying = some txn) (settled : tickSettled (clockTo t s) = true)
include verifying settled

section
variable (plain : imageKind g.key = 0) (notFabric : g.key ≠ objKey 0x8800 0) (notSection : g.key ≠ objKey 0x8801 0)
include plain notFabric notSection

theorem domainVerifyDone_replaces : ∃ u, exec (.domainVerifyDone t true) s = .next u ∧
    strAt u (g.key / 256) (g.key % 256) = g.data ∧ u.kiosk.staging = none ∧ u.kiosk.objects = s.kiosk.objects ∧
    (∀ i a, objKey i a ≠ objKey (g.key / 256) (g.key % 256) → strAt u i a = strAt s i a) ∧
    u = { s with now := max s.now t, kiosk := u.kiosk, net := u.net, host := u.host, outbox := u.outbox } := by
  have kept := finishCommit_stored_unanswered (txn := txn) (commitDomain_plain g.data (clockTo t s) plain notFabric notSection)
  obtain ⟨objects, -, ends, -, -⟩ := unanswered_entries kept
  refine ⟨_, exec_domainVerifyDone t true staged verifying settled, ?_, ends, objects, fun i a other => ?_, ?_⟩
  · exact (unanswered_strAt kept _ _).trans (strAt_setStr_same _ _ _ (clockTo t s))
  · exact (unanswered_strAt kept _ _).trans (strAt_setStr_other _ (clockTo t s) other)
  · exact unanswered_frame kept

theorem domainVerifyDone_storeFails (differs : strAt s (g.key / 256) (g.key % 256) ≠ g.data) :
    ∃ u, exec (.domainVerifyDone t false) s = .next u ∧ u.kiosk.strings = s.kiosk.strings ∧
      u.kiosk.objects = s.kiosk.objects ∧ Counted 0x1110 8 1 s u ∧
      u.kiosk.staging = (if g.orphan then none else some { g with verifying := none, busy := false }) ∧
      u = { s with
        now := max s.now t, kiosk := u.kiosk, net := u.net, contain := u.contain, host := u.host, outbox := u.outbox } := by
  have new : sameValue g.key g.data (clockTo t s) = false := by
    have stands : strAt (clockTo t s) (g.key / 256) (g.key % 256) ≠ g.data := differs
    simp [sameValue, stands]
  have run := finishCommit_unstored (txn := txn) (commitDomain_plain g.data (clockTo t s) plain notFabric notSection) new
  obtain ⟨c, failed⟩ := storeFails_unanswered ((clockTo t s).modKiosk fun k => { k with
    staging := if g.orphan then none else some { g with verifying := none, busy := false } })
  have kept := (congrArg State.unanswered run).trans ((answerCommit_unanswered _ _ _ _).trans failed)
  have counted : Counted 0x1110 8 1 s (finishCommit g txn false (clockTo t s)) := by
    rw [run, Counted, counterAt_answerCommit_other (by decide)]
    exact storeFails_counted _
  refine ⟨_, exec_domainVerifyDone t false staged verifying settled, ?_⟩
  generalize finishCommit g txn false (clockTo t s) = u at kept counted ⊢
  obtain ⟨objects, strings, staging, -, -⟩ := unanswered_entries kept
  have contain : u.contain = c := (congrArg State.contain kept :)
  refine ⟨strings, objects, counted, staging, ?_⟩
  rw [contain]
  exact unanswered_frame kept

end

section
variable (image : imageKind g.key ≠ 0)
include image

theorem domainVerifyDone_replacesBank (ok : imageOk (imageKind g.key) g.data = true) :
    let b := targetBank s.kiosk (imageKind g.key)
    ∃ u, exec (.domainVerifyDone t true) s = .next u ∧ u.kiosk.staging = none ∧
      bankOf u.kiosk (imageKind g.key) b = { version := field g.data 8 4, data := g.data } ∧
      bankOf u.kiosk (imageKind g.key) (3 - b) = bankOf s.kiosk (imageKind g.key) (3 - b) ∧
      u.kiosk.objects = s.kiosk.objects ∧ u.kiosk.strings = s.kiosk.strings ∧
      u = { s with
        now := max s.now t, kiosk := u.kiosk, net := u.net, life := u.life, host := u.host, outbox := u.outbox } := by
  intro b
  have kept := finishCommit_stored_unanswered (txn := txn) (commitDomain_image (clockTo t s) image ok)
  refine ⟨_, exec_domainVerifyDone t true staged verifying settled, ?_⟩
  generalize finishCommit g txn true (clockTo t s) = u at kept ⊢
  obtain ⟨objects, strings, ends, -, -⟩ := unanswered_entries kept
  obtain ⟨objects', strings'⟩ := commitImage_entries (imageKind g.key) g.data (clockTo t s)
  obtain ⟨written, other⟩ := bankOf_commitImage ((imageKind_cases g.key).resolve_left image) g.data (clockTo t s)
  have life : u.life = _ := (congrArg State.life kept :)
  refine ⟨ends, (unanswered_bankOf kept _ _).trans written, (unanswered_bankOf kept _ _).trans other,
    objects.trans objects', strings.trans strings', ?_⟩
  rw [life]
  exact unanswered_frame kept

theorem domainVerifyDone_refusesImage (bad : imageOk (imageKind g.key) g.data = false) (storeOk : Bool) :
    ∃ u, exec (.domainVerifyDone t storeOk) s = .next u ∧ u.kiosk.staging = none ∧
      u.kiosk.stationA = s.kiosk.stationA ∧ u.kiosk.stationB = s.kiosk.stationB ∧ u.kiosk.kioskA = s.kiosk.kioskA ∧
      u.kiosk.kioskB = s.kiosk.kioskB ∧ u.kiosk.policyA = s.kiosk.policyA ∧ u.kiosk.policyB = s.kiosk.policyB ∧
      u = { s with now := max s.now t, kiosk := u.kiosk, net := u.net, host := u.host, outbox := u.outbox } := by
  have kept : (finishCommit g txn storeOk (clockTo t s)).unanswered = (stagingEnded (clockTo t s)).unanswered := by
    rw [finishCommit_refused storeOk (commitDomain_badImage _ image bad), answerCommit_unanswered]
  obtain ⟨-, -, ends, -, -⟩ := unanswered_entries kept
  obtain ⟨a, b, c, d, e, f⟩ := unanswered_banks kept
  exact ⟨_, exec_domainVerifyDone t storeOk staged verifying settled, ends, a, b, c, d, e, f, unanswered_frame kept⟩

end

end

section
variable (idle : g.verifying = none)
include idle

theorem exec_stagingExpire : exec (.stagingExpire t) s =
    if g.seen + objAt s 0x1103 0 * 1000000 ≤ max s.now t then .next (count 0x1110 6 1 (stagingEnded (clockTo t s)))
    else .next (clockTo t s) := by
  simp only [exec, execStagingExpire, clockTo_fields, staged, idle, Option.isNone_none, true_and]
  rfl

theorem stagingExpire_ends (late : g.seen + objAt s 0x1103 0 * 1000000 ≤ max s.now t) :
    ∃ u, exec (.stagingExpire t) s = .next u ∧ u.kiosk.staging = none ∧ Counted 0x1110 6 1 s u ∧
      u = { s with now := max s.now t, kiosk := { s.kiosk with staging := none, counters := u.kiosk.counters } } :=
  ⟨_, (exec_stagingExpire t staged idle).trans (if_pos late), rfl, (counted_count _).congr rfl rfl, rfl⟩

end

end

/-- Settles O15: a commit by what `commitDomain` answers, an expiry by its time. -/
theorem domainCommits : Obligations.DomainCommits := by
  intro t s g staged
  refine ⟨fun txn verifying settled => ⟨fun plain notFabric notSection => ⟨?_, ?_⟩, ?_, ?_⟩, fun idle => ⟨?_, fun waits => ?_⟩⟩
  · exact domainVerifyDone_replaces t staged verifying settled plain notFabric notSection
  · exact domainVerifyDone_storeFails t staged verifying settled plain notFabric notSection
  · exact domainVerifyDone_replacesBank t staged verifying settled
  · exact fun image bad => domainVerifyDone_refusesImage t staged verifying settled image bad
  · exact stagingExpire_ends t staged idle
  · exact (exec_stagingExpire t staged idle).trans (if_neg (Nat.not_le.mpr waits))

end Sys2Proof.Machine

namespace Sys2Proof.Machine

/-! ## The mailbox's control bits (R266, R275, R276, R278, R1149) -/

section
variable {s : State} (ready : hostReady s = true)
include ready

section
variable (t : Nat)

theorem exec_mbClose : exec (.mbClose t) s = .next (endMailboxSession (clockTo t s)) :=
  congrArg Host.Outcome.next (if_neg (ne_false_of_eq_true (show hostReady (clockTo t s) = true from ready)))

theorem mbClose_ends : ∃ u, exec (.mbClose t) s = .next u ∧ u = { s with now := max s.now t, kiosk := u.kiosk } ∧
    u.kiosk.mbSession = 0 ∧ u.kiosk.mbQueue = [] ∧ u.kiosk.mbDone = false ∧ u.kiosk.mbRspLength = 0 ∧
    u.kiosk.objects = s.kiosk.objects ∧ u.kiosk.sessions = s.kiosk.sessions :=
  ⟨_, exec_mbClose ready t, rfl, rfl, rfl, rfl, rfl, rfl, rfl⟩

theorem mbOpen_opens : ∃ u, exec (.mbOpen t) s = .next u ∧ u = { s with now := max s.now t, kiosk := u.kiosk } ∧
    u.kiosk.mbSession = freshSession s ∧ u.kiosk.mbSess.phase = 2 ∧ u.kiosk.mbSess.rights = objAt s 0x1101 0 ∧
    u.kiosk.mbSess.high = none ∧ u.kiosk.mbSess.record = [] ∧ u.kiosk.mbQueue = [] ∧
    u.kiosk.objects = s.kiosk.objects ∧ u.kiosk.sessions = s.kiosk.sessions :=
  ⟨_, congrArg Host.Outcome.next (if_neg (ne_false_of_eq_true (show hostReady (clockTo t s) = true from ready))),
    rfl, rfl, rfl, rfl, rfl, rfl, rfl, rfl, rfl⟩

theorem mbSubmit_queues (session : s.kiosk.mbSession ≠ 0) (idle : s.kiosk.mbBusy = false) (least : 8 ≤ s.kiosk.mbReqLength)
    (most : s.kiosk.mbReqLength ≤ 1280) : exec (.mbSubmit t) s = .next { s with
      now := max s.now t
      kiosk := { s.kiosk with
        mbDone := false, mbFault := false, mbBusy := true
        mbQueue := s.kiosk.mbQueue ++ [({ mailbox := true, session := s.kiosk.mbSession
                                          body := memRead s.kiosk.mbRequest 0 s.kiosk.mbReqLength
                                          at_ := max s.now t } : Request)] } } := by
  have reached : ¬ (hostReady (clockTo t s) = false) := ne_false_of_eq_true ready
  have fit : ¬ (s.kiosk.mbSession = 0 ∨ s.kiosk.mbBusy = true ∨ s.kiosk.mbReqLength < 8 ∨ 1280 < s.kiosk.mbReqLength) := by
    simp [session, idle]; omega
  exact congrArg Host.Outcome.next ((if_neg reached).trans (if_neg fit))

theorem mbSubmit_faults (unfit : s.kiosk.mbSession = 0 ∨ s.kiosk.mbBusy = true ∨ s.kiosk.mbReqLength < 8 ∨
    1280 < s.kiosk.mbReqLength) :
    exec (.mbSubmit t) s = .next { s with now := max s.now t, kiosk := { s.kiosk with mbFault := true } } := by
  have reached : ¬ (hostReady (clockTo t s) = false) := ne_false_of_eq_true ready
  exact congrArg Host.Outcome.next ((if_neg reached).trans (if_pos unfit))

end

theorem mbVectorWrite_takes {v : Half} (named : 1 ≤ v.toNat ∧ v.toNat ≤ 2047 ∨ v.toNat = 0xFFFF) :
    exec (.mbVectorWrite v) s = .next { s with kiosk := { s.kiosk with mbVector := v.toNat } } := by
  have low : v.toNat % 65536 = v.toNat := Nat.mod_eq_of_lt (by omega)
  simp only [exec, execMbVectorWrite, writeMbVector, low, if_pos (And.intro ready named)]
  rfl

end

theorem mbVectorWrite_discards {v : Half} (s : State) (other : v.toNat = 0 ∨ 2047 < v.toNat ∧ v.toNat < 0xFFFF) :
    exec (.mbVectorWrite v) s = .next s := by
  have low : v.toNat % 65536 = v.toNat := Nat.mod_eq_of_lt (by omega)
  have unnamed : ¬ (hostReady s = true ∧ (1 ≤ v.toNat ∧ v.toNat ≤ 2047 ∨ v.toNat = 0xFFFF)) := by omega
  simp only [exec, execMbVectorWrite, writeMbVector, low, if_neg unnamed]

/-! ## Received JOP frames (R258, R264, R294, R295, R328, R329, R336, R339) -/

section
variable {src : NetSource} {f : List Byte} {awaited : Bool} {effect : State → State} {s : State}

theorem takeFrame_missed (missed : frameReaches s f = false ∨ sourceOk src = false) :
    takeFrame src f awaited effect s = s := if_pos missed

variable (reaches : frameReaches s f = true) (source : sourceOk src = true)
include reaches source

theorem takeFrame_discarded (bad : headerOk f = false ∨ frameTagRule s f = false) :
    takeFrame src f awaited effect s = discardFrame f s := by
  simp only [takeFrame, reaches, source, Bool.true_eq_false, or_self, if_false, if_pos bad]

theorem takeFrame_verified (header : headerOk f = true) (tag : frameTagRule s f = true) :
    takeFrame src f awaited effect s = if netAwake s = false then s
      else if awaited then effect (touchSession (field f 6 2) s) else touchSession (field f 6 2) s := by
  simp only [takeFrame, reaches, source, header, tag, Bool.true_eq_false, or_self, if_false]

end

theorem touchSession_frame (n : Nat) (s : State) : touchSession n s = { s with
    kiosk := { s.kiosk with sessions := (touchSession n s).kiosk.sessions } } := by
  simp only [touchSession]; split <;> rfl

/-- A touched session differs in its idle time alone. -/
theorem touchSession_record (n : Nat) (s : State) :
    (tabGet {} n (touchSession n s).kiosk.sessions).record = (tabGet {} n s.kiosk.sessions).record := by
  simp only [touchSession]; split
  · simp [tabGet_put_same]
  · rfl

theorem touchSession_open {n : Nat} {s : State} (opened : (tabGet {} n s.kiosk.sessions).phase = 2) :
    tabGet {} n (touchSession n s).kiosk.sessions = { tabGet {} n s.kiosk.sessions with seen := s.now } := by
  simp [touchSession, opened, tabGet_put_same]

/-- A request's TXN is the first field of its frame's payload. -/
theorem field_payload (f : List Byte) (n : Nat) : field (f.drop 32) 0 n = field f 32 n := rfl

section
variable {client n : Nat} {body : List Byte} {s : State}

theorem queueRequest_queues (room : s.kiosk.jopQueue.length < 32)
    (done : ∀ o ∈ (tabGet {} n s.kiosk.sessions).record, o.txn = field body 0 4 → o.reply ≠ []) :
    queueRequest client n body s = s.modKiosk fun k => { k with
      jopQueue := k.jopQueue ++ [({ mailbox := false, session := n, body := body, at_ := s.now, client := client } : Request)] } := by
  have answered : (tabGet {} n s.kiosk.sessions).record.any (fun o => decide (o.txn = field body 0 4) && o.reply.isEmpty) =
      false := by simpa using done
  have fresh : ¬ (n ≠ 0 ∧ 8 ≤ body.length ∧ (tabGet {} n s.kiosk.sessions).record.any
      (fun o => decide (o.txn = field body 0 4) && o.reply.isEmpty) = true) := by simp [answered]
  exact (if_neg (Nat.not_le.mpr room)).trans (if_neg fresh)

theorem queueRequest_busy (full : 32 ≤ s.kiosk.jopQueue.length) :
    queueRequest client n body s = sendReply n client (wholeReply (field body 0 4) 0x0C) s := if_pos full

/-- Outside any session the reply leaves from the JOP port at once, where the sled may send and knows its client's address. -/
theorem sendReply_sessionless (may : netMaySend s = true) (loud : quietWindow s = false)
    (known : tabGet 0 (clientAddress client) s.net.neighbours ≠ 0) :
    (sendReply 0 client body s).outbox = s.outbox ++ [.frame 255 61605 client (buildFrame none 0x02 0 body)] := by
  simp [sendReply, sendJop, sendTo, netEmit, may, loud, known, jopPacket, ftReply]

end

theorem discardFrame_counted (f : List Byte) (s : State) : Counted 0x1230 5 1 s (discardFrame f s) := by
  simp only [discardFrame]
  split
  · exact (counterAt_record_other (by decide) (by decide) _ _).trans (counted_count s)
  · exact counted_count s

/-- The first failing tag of an open session marks it and is recorded. -/
theorem discardFrame_frame (f : List Byte) (s : State) : discardFrame f s = { s with
    contain := (discardFrame f s).contain
    kiosk := { s.kiosk with
      counters := (discardFrame f s).kiosk.counters, sessions := (discardFrame f s).kiosk.sessions }
    host := (discardFrame f s).host, outbox := (discardFrame f s).outbox } := by
  simp only [discardFrame]
  split
  · rw [noteRecord_frame]; rfl
  · rfl

theorem discardFrame_sessions (f : List Byte) (s : State) :
    (discardFrame f s).kiosk.sessions = if headerOk f = true ∧ field f 6 2 ≠ 0 ∧
      (tabGet {} (field f 6 2) s.kiosk.sessions).phase = 2 ∧ (tabGet {} (field f 6 2) s.kiosk.sessions).tagFailed = false
      then tabPut {} (field f 6 2) { tabGet {} (field f 6 2) s.kiosk.sessions with tagFailed := true } s.kiosk.sessions
      else s.kiosk.sessions := by
  have counts : (count 0x1230 5 1 s).kiosk.sessions = s.kiosk.sessions := rfl
  simp only [discardFrame, counts]
  split
  · rw [noteRecord_frame]; rfl
  · rfl

section
variable (t : Nat) {src : NetSource} {f : List Byte} {s : State}

theorem jopFrame_missed (missed : frameReaches (clockTo t s) f = false ∨ sourceOk src = false) :
    exec (.jopRequest t src f) s = .next (clockTo t s) ∧ exec (.jopFrameDiscard t src f) s = .next (clockTo t s) :=
  ⟨congrArg Host.Outcome.next (takeFrame_missed missed), congrArg Host.Outcome.next (takeFrame_missed missed)⟩

variable (reaches : frameReaches (clockTo t s) f = true) (source : sourceOk src = true)
include reaches source

theorem jopFrameDiscard_discards (bad : headerOk f = false ∨ frameTagRule s f = false) :
    ∃ u, exec (.jopFrameDiscard t src f) s = .next u ∧ Counted 0x1230 5 1 s u ∧
      u.kiosk.jopQueue = s.kiosk.jopQueue ∧ u.kiosk.objects = s.kiosk.objects ∧
      (tabGet {} (field f 6 2) u.kiosk.sessions = tabGet {} (field f 6 2) s.kiosk.sessions ∨
        tabGet {} (field f 6 2) u.kiosk.sessions = { tabGet {} (field f 6 2) s.kiosk.sessions with tagFailed := true }) ∧
      (headerOk f = true → field f 6 2 ≠ 0 → (tabGet {} (field f 6 2) s.kiosk.sessions).phase = 2 →
        (tabGet {} (field f 6 2) u.kiosk.sessions).tagFailed = true) ∧
      u = { s with now := max s.now t, kiosk := u.kiosk, contain := u.contain, host := u.host, outbox := u.outbox } := by
  have frame := discardFrame_frame f (clockTo t s)
  have sessions := discardFrame_sessions f (clockTo t s)
  have counted : Counted 0x1230 5 1 s (discardFrame f (clockTo t s)) := discardFrame_counted f (clockTo t s)
  refine ⟨_, congrArg Host.Outcome.next (takeFrame_discarded reaches source bad), counted, ?_, ?_, ?_, ?_, ?_⟩
  · rw [frame]; rfl
  · rw [frame]; rfl
  · rw [sessions]
    split
    · exact .inr (tabGet_put_same _ _ _ _)
    · exact .inl rfl
  · intro header session opened
    rw [sessions]
    split
    next => rw [tabGet_put_same]
    next marked =>
      have failed : (tabGet {} (field f 6 2) s.kiosk.sessions).tagFailed ≠ false := fun h =>
        marked ⟨header, session, opened, h⟩
      simpa using failed
  · rw [frame]; rfl

variable (header : headerOk f = true) (tag : frameTagRule s f = true)
include header tag

theorem jopFrameDiscard_keeps : ∃ u, exec (.jopFrameDiscard t src f) s = .next u ∧
    ((tabGet {} (field f 6 2) s.kiosk.sessions).phase = 2 → netAwake (clockTo t s) = true →
      tabGet {} (field f 6 2) u.kiosk.sessions = { tabGet {} (field f 6 2) s.kiosk.sessions with seen := max s.now t }) ∧
    u = { s with now := max s.now t, kiosk := { s.kiosk with sessions := u.kiosk.sessions } } := by
  have taken := takeFrame_verified (awaited := false) (effect := id) reaches source header tag
  cases awake : netAwake (clockTo t s) with
  | false =>
    have run := taken.trans (if_pos awake)
    exact ⟨_, congrArg Host.Outcome.next run, fun _ h => absurd h (by decide), rfl⟩
  | true =>
    have run := taken.trans (if_neg (ne_false_of_eq_true awake))
    exact ⟨_, congrArg Host.Outcome.next run, fun opened _ => touchSession_open (s := clockTo t s) opened,
      touchSession_frame _ _⟩

variable (type : field f 3 1 = 1) (awake : netAwake (clockTo t s) = true)
include type awake

theorem exec_jopRequest : exec (.jopRequest t src f) s =
    .next (queueRequest src.client (field f 6 2) (f.drop 32) (touchSession (field f 6 2) (clockTo t s))) := by
  have awaited : decide (field f 3 1 = ftRequest) = true := decide_eq_true type
  refine congrArg Host.Outcome.next ((takeFrame_verified reaches source header tag).trans ?_)
  rw [if_neg (ne_false_of_eq_true awake), awaited, if_pos rfl]

theorem jopRequest_queues (room : s.kiosk.jopQueue.length < 32)
    (done : ∀ o ∈ (tabGet {} (field f 6 2) s.kiosk.sessions).record, o.txn = field f 32 4 → o.reply ≠ []) :
    ∃ u, exec (.jopRequest t src f) s = .next u ∧
      u.kiosk.jopQueue = s.kiosk.jopQueue ++
        [{ mailbox := false, session := field f 6 2, body := f.drop 32, at_ := max s.now t, client := src.client }] ∧
      u = { s with now := max s.now t, kiosk := { s.kiosk with sessions := u.kiosk.sessions, jopQueue := u.kiosk.jopQueue } } := by
  have frame := touchSession_frame (field f 6 2) (clockTo t s)
  have room' : (touchSession (field f 6 2) (clockTo t s)).kiosk.jopQueue.length < 32 := by rw [frame]; exact room
  have done' : ∀ o ∈ (tabGet {} (field f 6 2) (touchSession (field f 6 2) (clockTo t s)).kiosk.sessions).record,
      o.txn = field (f.drop 32) 0 4 → o.reply ≠ [] := by rw [touchSession_record, field_payload]; exact done
  refine ⟨_, (exec_jopRequest t reaches source header tag type awake).trans
    (congrArg Host.Outcome.next (queueRequest_queues room' done')), ?_, ?_⟩
  · rw [frame]; rfl
  · rw [frame]; rfl

theorem jopRequest_busy (full : 32 ≤ s.kiosk.jopQueue.length) : ∃ u, exec (.jopRequest t src f) s = .next u ∧
    (field f 6 2 = 0 → netMaySend (clockTo t s) = true → quietWindow s = false →
      tabGet 0 (clientAddress src.client) s.net.neighbours ≠ 0 → u.outbox = s.outbox ++
        [.frame 255 61605 src.client (buildFrame none 0x02 0 (wholeReply (field f 32 4) 0x0C))]) ∧
    u = { s with
      now := max s.now t, kiosk := { s.kiosk with sessions := u.kiosk.sessions }, net := u.net, outbox := u.outbox } := by
  have frame := touchSession_frame (field f 6 2) (clockTo t s)
  generalize touched : touchSession (field f 6 2) (clockTo t s) = w at frame
  have full' : 32 ≤ w.kiosk.jopQueue.length := by rw [frame]; exact full
  have run := exec_jopRequest t reaches source header tag type awake
  rw [touched, queueRequest_busy full', field_payload] at run
  refine ⟨_, run, fun session may loud known => ?_, ?_⟩
  · have may' : netMaySend w = true := by rw [frame]; exact may
    have loud' : quietWindow w = false := by rw [frame]; exact loud
    have known' : tabGet 0 (clientAddress src.client) w.net.neighbours ≠ 0 := by rw [frame]; exact known
    rw [session, sendReply_sessionless may' loud' known', frame]
    rfl
  · obtain ⟨x, o, sent⟩ := sendReply_frame (field f 6 2) src.client (wholeReply (field f 32 4) 0x0C) w
    rw [sent, frame]
    rfl

end

/-- Settles O16: the mailbox's bits one by one, and a frame by what its checks say. -/
theorem mailboxAndFrames : Obligations.MailboxAndFrames := by
  refine ⟨fun t v s ready => ?_, fun t src f s => ?_⟩
  · exact ⟨mbClose_ends ready t, mbOpen_opens ready t, mbSubmit_queues ready t, mbSubmit_faults ready t,
      mbVectorWrite_takes ready, mbVectorWrite_discards s⟩
  · refine ⟨jopFrame_missed t, fun reaches source header tag type awake => ⟨?_, ?_⟩, ?_, ?_⟩
    · exact jopRequest_queues t reaches source header tag type awake
    · exact jopRequest_busy t reaches source header tag type awake
    · exact jopFrameDiscard_discards t
    · exact jopFrameDiscard_keeps t

end Sys2Proof.Machine

namespace Sys2Proof.Machine

/-! ## Transactions: all or nothing, and no second execution (R251 to R254, R260, R837) -/

theorem takeRequest_frame {k k' : Kiosk} {r : Request} (taken : takeRequest k = some (r, k')) :
    k' = { k with jopQueue := k'.jopQueue, mbQueue := k'.mbQueue, turn := k'.turn } := by
  simp only [takeRequest] at taken
  split at taken
  next => cases taken
  next mb _ =>
    obtain ⟨_, -, rest⟩ := Option.map_eq_some_iff.mp taken
    obtain ⟨-, rfl⟩ := Prod.mk.inj rest
    cases mb <;> rfl

/-- Taking a request moves the waiting requests and the turn. -/
theorem takeAwake_frame {awake : Bool} {k k' : Kiosk} {r : Request} (taken : takeAwake awake k = some (r, k')) :
    k' = { k with jopQueue := k'.jopQueue, mbQueue := k'.mbQueue, turn := k'.turn } := by
  cases awake with
  | true => exact takeRequest_frame taken
  | false =>
    obtain ⟨⟨r', x⟩, took, rest⟩ := Option.map_eq_some_iff.mp taken
    obtain ⟨-, rfl⟩ := Prod.mk.inj rest
    rw [takeRequest_frame took]

theorem takeAwake_entries {awake : Bool} {k k' : Kiosk} {r : Request} (taken : takeAwake awake k = some (r, k')) :
    k'.objects = k.objects ∧ k'.strings = k.strings ∧ k'.counters = k.counters := by
  rw [takeAwake_frame taken]; exact ⟨rfl, rfl, rfl⟩

/-! ### The status of a refused operation -/

theorem groupConflict_le (s : State) (g sub v : Nat) : groupConflict s g sub v ≤ 0x11 := by
  simp only [groupConflict]; (repeat' split) <;> decide

theorem lotConflict_le (s : State) (l v : Nat) : lotConflict s l v ≤ 0x11 := by
  simp only [lotConflict]; (repeat' split) <;> decide

theorem writeConflict_le (s : State) (idx sub v : Nat) : writeConflict s idx sub v ≤ 0x11 := by
  simp only [writeConflict]
  (repeat' split) <;> simp [groupConflict_le, lotConflict_le]

theorem segmentCheck_le (a : Asker) (o : Op) (s : State) : segmentCheck a o s ≤ 0x11 := by
  simp only [segmentCheck]; (repeat' split) <;> decide

theorem checkEntry_le (a : Asker) (o : Op) (e : Entry) (s : State) : checkEntry a o e s ≤ 0x11 := by
  simp only [checkEntry]
  (repeat' split) <;> simp [writeConflict_le, segmentCheck_le]

/-- Every status is one of the table of R248. -/
theorem checkOp_le (a : Asker) (o : Op) (s : State) : checkOp a o s ≤ 0x11 := by
  simp only [checkOp]
  split
  · decide
  split
  · decide
  · exact checkEntry_le _ _ _ _

/-- A refused operation's status is none of success. -/
theorem runOps_status {a : Asker} {txn i j st : Nat} {ops : List Op} {acc : List (List Byte)} {sv : Option Nat} {s : State}
    (refused : runOps a txn i ops acc sv s = .failed j st) : st ≠ 0 ∧ st ≤ 0x11 := by
  induction ops generalizing i acc sv s with
  | nil => cases refused
  | cons o rest ih =>
    simp only [runOps] at refused
    split at refused
    next bad =>
      obtain ⟨-, rfl⟩ := OpsOut.failed.inj refused
      exact ⟨bad, checkOp_le a o s⟩
    next => exact ih refused

theorem field_status (txn status failOp : Nat) (entries : List (Nat × List Byte)) :
    field (replyWith txn status failOp entries) 4 1 = status % 256 := by
  simp [replyWith, natLe, field, leNat]

theorem field_wholeReply (txn status : Nat) : field (wholeReply txn status) 4 1 = status % 256 := by
  simp [wholeReply, natLe, field, leNat]

theorem noteRefusedArm_frame (o : Op) (st : Nat) (s : State) :
    ∃ gs, noteRefusedArm o st s = { s with coll := { s.coll with groups := gs } } := by
  simp only [noteRefusedArm]; split <;> exact ⟨_, rfl⟩

/-- A request with a refused operation is answered with the refusal, and keeps all but the cause of a refused ARM (R837). -/
theorem runRequest_refused {a : Asker} {txn i st : Nat} {ops : List Op} (storeOk : Bool) {s : State}
    (refused : runOps a txn 0 ops [] none s = .failed i st) : ∃ reply gs,
      runRequest a txn ops storeOk s = (some reply, { s with coll := { s.coll with groups := gs } }) ∧
      field reply 4 1 ≠ 0 := by
  obtain ⟨bad, low⟩ := runOps_status refused
  simp only [runRequest, refused]
  split
  · exact ⟨_, s.coll.groups, rfl, by rw [field_wholeReply]; decide⟩
  · have status : field (replyFailed txn st i ops.length) 4 1 ≠ 0 := by rw [replyFailed, field_status]; omega
    cases ops[i]? with
    | none => exact ⟨_, s.coll.groups, rfl, status⟩
    | some o =>
      obtain ⟨gs, noted⟩ := noteRefusedArm_frame o st s
      exact ⟨_, gs, congrArg (Prod.mk _) noted, status⟩

theorem endSlots_nil (s : State) : endSlots [] s = s := forEach_keeps id _ (fun _ _ => rfl) s.kiosk.sessions s

/-- An executed request is recorded and answered; where its success writes no credential slot, no session ends (R339). -/
theorem serve_answered {r : Request} {a : Asker} {txn : Nat} {ops : List Op} {storeOk : Bool} {reply : List Byte} {s v : State}
    (ran : runRequest a txn ops storeOk s = (some reply, v)) (stays : field reply 4 1 = 0 → writtenSlots ops = []) :
    serve r a txn (some ops) storeOk true false s =
      deliver r.mailbox r.session r.client reply (closeOutcome r.mailbox r.session txn reply v) := by
  simp only [serve, ran, Option.getD_some, if_true, Bool.false_eq_true, if_false]
  split
  next ok => rw [stays ok, endSlots_nil]
  next => rfl

/-! ### Executing the request that was taken -/

/-- The sled as a request taken at local time `t` finds it. -/
def requestTaken (t : Nat) (k : Kiosk) (s : State) : State := { clockTo t s with kiosk := k }

/-- Who asks, as the request names it. -/
def askerOf (r : Request) (s : State) : Asker :=
  { mailbox := r.mailbox, session := r.session, rights := (pathSession s r.mailbox r.session).rights, client := r.client }

/-- The state with a new request's outcome opened in its session's record. -/
def outcomeOpened (r : Request) (s : State) : State :=
  openOutcome r.mailbox r.session (field r.body 0 4) (changesAny (min 16 (field r.body 4 1)) (r.body.drop 8)) s

theorem outcomeOpened_unanswered (r : Request) (s : State) : (outcomeOpened r s).unanswered = s.unanswered :=
  openOutcome_unanswered _ _ _ _ s

/-- The request's TXN is on no record of its session, and newer than the newest executed one (R260, R261). -/
def NewTxn (r : Request) (s : State) : Prop :=
  (pathSession s r.mailbox r.session).record.find? (fun o => o.txn = field r.body 0 4) = none ∧
  ∀ h, (pathSession s r.mailbox r.session).high = some h → serialNewer 32 (field r.body 0 4) h = true

theorem exec_transactionExecute (t : Nat) (storeOk : Bool) {s : State} {r : Request} {k : Kiosk}
    (up : s.life.state ≠ .absent) (settled : tickSettled (clockTo t s) = true)
    (taken : takeAwake (netAwake (clockTo t s)) s.kiosk = some (r, k)) :
    exec (.transactionExecute t storeOk) s = .next (execute r storeOk (requestTaken t k s)) := by
  simp [exec, execTransactionExecute, up, settled, taken, requestTaken]

section
variable {r : Request} {s : State} {ops : Option (List Op)} (whole : 8 ≤ r.body.length)
  (session : sessionless r.mailbox r.session = false)
include whole session

theorem execute_new (storeOk : Bool) (parsed : parseRequest r.body = ops) (new : NewTxn r s) :
    execute r storeOk s = serve r (askerOf r s) (field r.body 0 4) ops storeOk true false (outcomeOpened r s) := by
  obtain ⟨unknown, newer⟩ := new
  have fresh := (Option.all_eq_true _ _).mpr newer
  have long : ¬ r.body.length < 8 := Nat.not_lt.mpr whole
  simp only [execute, if_neg long, session, Bool.false_eq_true, if_false, unknown, if_pos fresh, parsed]
  rfl

theorem execute_repeated (storeOk : Bool) {o : TxnOutcome}
    (known : (pathSession s r.mailbox r.session).record.find? (fun o => o.txn = field r.body 0 4) = some o)
    (answered : o.reply ≠ []) (changes : o.changing = true) : execute r storeOk s =
      deliver r.mailbox r.session r.client (markDuplicate o.reply) (count 0x1110 2 1 s) := by
  have long : ¬ r.body.length < 8 := Nat.not_lt.mpr whole
  simp only [execute, if_neg long, session, Bool.false_eq_true, if_false, known, if_neg answered, changes, if_true]

end

section
variable (t : Nat) {s : State} {r : Request} {k : Kiosk} (up : s.life.state ≠ .absent)
  (settled : tickSettled (clockTo t s) = true) (taken : takeAwake (netAwake (clockTo t s)) s.kiosk = some (r, k))
  (whole : 8 ≤ r.body.length) (session : sessionless r.mailbox r.session = false)
include up settled taken whole session

theorem transactionExecute_repeated (storeOk : Bool) {o : TxnOutcome}
    (known : (pathSession (requestTaken t k s) r.mailbox r.session).record.find? (fun o => o.txn = field r.body 0 4) =
      some o) (answered : o.reply ≠ []) (changes : o.changing = true) :
    ∃ u, exec (.transactionExecute t storeOk) s = .next u ∧
      u.kiosk.objects = s.kiosk.objects ∧ u.kiosk.strings = s.kiosk.strings ∧ Counted 0x1110 2 1 s u ∧
      u = { s with now := max s.now t, kiosk := u.kiosk, net := u.net, host := u.host, outbox := u.outbox } := by
  have run := exec_transactionExecute t storeOk up settled taken
  rw [execute_repeated whole session storeOk known answered changes] at run
  have kept := deliver_unanswered r.mailbox r.session r.client (markDuplicate o.reply) (count 0x1110 2 1 (requestTaken t k s))
  obtain ⟨objects', strings', counters⟩ := takeAwake_entries taken
  obtain ⟨objects, strings, -⟩ := unanswered_entries kept
  refine ⟨_, run, objects.trans objects', strings.trans strings', ?_, unanswered_frame kept⟩
  rw [Counted, counterAt_deliver]
  exact (counted_count (requestTaken t k s)).congr counters.symm rfl

variable (new : NewTxn r (requestTaken t k s))
include new

/-- A new request that is answered once executed: what it leaves beside its answer, and that its execution counts. -/
theorem transactionExecute_new {storeOk : Bool} {ops : List Op} {reply : List Byte} {v : State}
    (parsed : parseRequest r.body = some ops)
    (ran : runRequest (askerOf r (requestTaken t k s)) (field r.body 0 4) ops storeOk (outcomeOpened r (requestTaken t k s)) =
      (some reply, v)) (stays : field reply 4 1 = 0 → writtenSlots ops = [])
    (counts : counterAt v 0x1110 1 = counterAt (outcomeOpened r (requestTaken t k s)) 0x1110 1) :
    ∃ u, exec (.transactionExecute t storeOk) s = .next u ∧ u.unanswered = v.unanswered ∧ Counted 0x1110 1 1 s u := by
  refine ⟨_, (exec_transactionExecute t storeOk up settled taken).trans (congrArg Host.Outcome.next
    ((execute_new whole session storeOk parsed new).trans (serve_answered ran stays))), ?_, ?_⟩
  · rw [deliver_unanswered, closeOutcome_unanswered]
  · obtain ⟨-, -, counters⟩ := takeAwake_entries taken
    rw [Counted, counterAt_deliver, counterAt_closeOutcome_other (by decide), counts]
    exact (openOutcome_counted r.mailbox r.session _ _ (requestTaken t k s)).congr counters.symm rfl

theorem transactionExecute_refused (storeOk : Bool) {ops : List Op} {i st : Nat} (parsed : parseRequest r.body = some ops)
    (refused : runOps (askerOf r (requestTaken t k s)) (field r.body 0 4) 0 ops [] none
      (outcomeOpened r (requestTaken t k s)) = .failed i st) :
    ∃ u, exec (.transactionExecute t storeOk) s = .next u ∧
      u.kiosk.objects = s.kiosk.objects ∧ u.kiosk.strings = s.kiosk.strings ∧ u.kiosk.staging = k.staging ∧
      u.kiosk.jopQueue = k.jopQueue ∧ u.kiosk.mbQueue = k.mbQueue ∧ Counted 0x1110 1 1 s u ∧
      u = { s with
        now := max s.now t, kiosk := u.kiosk, net := u.net, coll := { s.coll with groups := u.coll.groups }, host := u.host
        outbox := u.outbox } := by
  obtain ⟨reply, gs, ran, bad⟩ := runRequest_refused storeOk refused
  obtain ⟨u, run, same, counted⟩ := transactionExecute_new t up settled taken whole session new parsed ran
    (fun ok => absurd ok bad) rfl
  have opened := outcomeOpened_unanswered r (requestTaken t k s)
  have kept : u.unanswered = ({ s with
      now := max s.now t, kiosk := k, coll := { s.coll with groups := gs } } : State).unanswered :=
    same.trans (congrArg (fun x : State => { x with coll := { x.coll with groups := gs } }) opened :)
  obtain ⟨objects', strings', -⟩ := takeAwake_entries taken
  obtain ⟨objects, strings, staging, jop, mb⟩ := unanswered_entries kept
  have coll : u.coll = { s.coll with groups := gs } := (congrArg State.coll kept :)
  refine ⟨u, run, objects.trans objects', strings.trans strings', staging, jop, mb, counted, ?_⟩
  rw [coll]; exact unanswered_frame kept

end

/-- Settles O13: a refused operation by `runRequest_refused`, a repeated request by `execute_repeated`. -/
theorem transactionAllOrNothing : Obligations.TransactionAllOrNothing := by
  intro t i st storeOk s r k ops sn up settled taken whole parsed session s0 x a changing txn
  exact ⟨fun unknown newer refused =>
      transactionExecute_refused t up settled taken whole session ⟨unknown, newer⟩ storeOk parsed refused,
    fun o known answered changes => transactionExecute_repeated t up settled taken whole session storeOk known answered changes⟩

end Sys2Proof.Machine

namespace Sys2Proof.Machine

/-! ## A plain WRITE (R237, R240, R241, R251, R254, R261) -/

/-- The indices whose WRITE has an effect of its own, beside those of the injectors and the groups (0x7100 to 0x77FF). -/
def effectful : List Nat := [0x1102, 0x1210, 0x1211, 0x1222, 0x1223, 0x2012, 0x3010, 0x3011, 0x3020, 0x3021, 0x7011, 0x8811,
  0x8812, 0x9004]

section
variable {idx : Nat} (plain : idx ∉ effectful)
include plain

theorem writeNum_plain (sub v : Nat) (s : State) : writeNum idx sub v s = writeEffect idx sub v (setObj idx sub v s) := by
  simp only [writeNum]
  split <;> simp [effectful] at plain ⊢

/-- Beside its value, a plain entry's write zeroes at most the counter of transitions of a probe (0x8041). -/
theorem writeEffect_plain (outside : idx < 0x7100 ∨ 0x77FF < idx) (sub v : Nat) (s : State) :
    writeEffect idx sub v s = s ∨ writeEffect idx sub v s = setCounter 0x8041 sub 0 s := by
  have group : ¬ (0x7400 ≤ idx ∧ idx ≤ 0x77FF) := by omega
  have injector : ¬ (0x7100 ≤ idx ∧ idx ≤ 0x710F) := by omega
  simp only [writeEffect, if_neg group, if_neg injector]
  split <;> simp [effectful] at plain ⊢

theorem writtenSlots_plain {o : Op} (named : o.idx = idx) : writtenSlots [o] = [] := by
  subst named
  simp [effectful] at plain
  simp [writtenSlots, plain]

end

/-- A plain entry's write changes its value, and beside it nothing that outlives an answer. -/
theorem writeNum_plain_kept {idx : Nat} (plain : idx ∉ effectful) (outside : idx < 0x7100 ∨ 0x77FF < idx) (sub v : Nat)
    (s : State) : (writeNum idx sub v s).unanswered = (setObj idx sub v s).unanswered ∧
      counterAt (writeNum idx sub v s) 0x1110 1 = counterAt s 0x1110 1 := by
  rw [writeNum_plain plain]
  rcases writeEffect_plain plain outside sub v (setObj idx sub v s) with same | zeroed
  · rw [same]; exact ⟨rfl, rfl⟩
  · have other : objKey 0x1110 1 ≠ objKey 0x8041 sub := by simp only [objKey]; omega
    rw [zeroed]
    exact ⟨rfl, tabGet_put_other 0 0 _ _ 0 s.kiosk.counters other⟩

theorem counterAt_storeCounted {j b : Nat} (other : objKey j b ≠ objKey 0x1110 7) (same : Bool) (s : State) :
    counterAt (storeCounted same s) j b = counterAt s j b := by
  cases same with
  | true => rfl
  | false => exact counterAt_count_other s other

theorem runOps_write {a : Asker} {txn : Nat} {o : Op} {e : Entry} {s : State} (kind : o.kind = .write)
    (entry : findEntry o.idx o.sub = some e) (number : e.ty.isBytes = false) (passes : checkOp a o s = 0) :
    ∃ sv, runOps a txn 0 [o] [] none s = .passed [[]] sv (writeNum o.idx o.sub (leNat o.data) s) := by
  simp [runOps, passes, applyOp, entry, kind, writeValue, number]

/-- A single WRITE that passes its checks is answered with success, and its store is counted when a saved value changed. -/
theorem runRequest_write {a : Asker} {txn : Nat} {o : Op} {e : Entry} {s : State} (kind : o.kind = .write)
    (entry : findEntry o.idx o.sub = some e) (number : e.ty.isBytes = false) (passes : checkOp a o s = 0)
    (noCurfew : curfewNow s = false) : ∃ same, runRequest a txn [o] true s =
      (some (replyWith txn 0 0 [(0, [])]), storeCounted same (writeNum o.idx o.sub (leNat o.data) s)) := by
  obtain ⟨sv, ran⟩ := runOps_write (txn := txn) kind entry number passes
  refine ⟨decide (savedPart s = savedPart (writeNum o.idx o.sub (leNat o.data) s)), ?_⟩
  simp only [runRequest, noCurfew, Bool.and_false, Bool.false_eq_true, if_false, ran]
  have commits : [o].any (fun o => decide (o.kind = .commit)) = false := by simp [kind]
  simp only [commits, Bool.false_eq_true, if_false, if_true, storeCounted, decide_eq_true_eq]
  split <;> rfl

section
variable (t : Nat) {s : State} {r : Request} {k : Kiosk} (up : s.life.state ≠ .absent)
  (settled : tickSettled (clockTo t s) = true) (taken : takeAwake (netAwake (clockTo t s)) s.kiosk = some (r, k))
  (whole : 8 ≤ r.body.length) (session : sessionless r.mailbox r.session = false)
  (new : NewTxn r (requestTaken t k s))
include up settled taken whole session new

theorem transactionExecute_writes {o : Op} {e : Entry} (parsed : parseRequest r.body = some [o])
    (noCurfew : curfewNow s = false) (kind : o.kind = .write) (entry : findEntry o.idx o.sub = some e)
    (number : e.ty.isBytes = false) (plain : o.idx ∉ effectful) (outside : o.idx < 0x7100 ∨ 0x77FF < o.idx)
    (passes : checkOp (askerOf r (requestTaken t k s)) o (outcomeOpened r (requestTaken t k s)) = 0) :
    ∃ u, exec (.transactionExecute t true) s = .next u ∧ objAt u o.idx o.sub = leNat o.data ∧
      (∀ j b, objKey j b ≠ objKey o.idx o.sub → objAt u j b = objAt s j b) ∧ u.kiosk.strings = s.kiosk.strings ∧
      Counted 0x1110 1 1 s u ∧ u.kiosk.jopQueue = k.jopQueue ∧ u.kiosk.mbQueue = k.mbQueue ∧
      u = { s with now := max s.now t, kiosk := u.kiosk, net := u.net, host := u.host, outbox := u.outbox } := by
  have opened := outcomeOpened_unanswered r (requestTaken t k s)
  have still : curfewNow (outcomeOpened r (requestTaken t k s)) = false := (congrArg curfewNow opened :).trans noCurfew
  obtain ⟨same, ran⟩ := runRequest_write (txn := field r.body 0 4) kind entry number passes still
  obtain ⟨written, counts⟩ := writeNum_plain_kept plain outside o.sub (leNat o.data) (outcomeOpened r (requestTaken t k s))
  obtain ⟨u, run, after, counted⟩ := transactionExecute_new t up settled taken whole session new parsed ran
    (fun _ => writtenSlots_plain plain rfl) ((counterAt_storeCounted (by decide) _ _).trans counts)
  have kept : u.unanswered = (setObj o.idx o.sub (leNat o.data) (requestTaken t k s)).unanswered :=
    after.trans ((storeCounted_unanswered _ _).trans (written.trans (congrArg (setObj o.idx o.sub (leNat o.data)) opened :)))
  obtain ⟨objects, strings', -⟩ := takeAwake_entries taken
  have stands (j b : Nat) : objAt (requestTaken t k s) j b = objAt s j b := by rw [objAt, requestTaken, objects]; rfl
  obtain ⟨-, strings, -, jop, mb⟩ := unanswered_entries kept
  refine ⟨u, run, ?_, fun j b other => ?_, strings.trans strings', counted, jop, mb, unanswered_frame kept⟩
  · exact (unanswered_objAt kept _ _).trans (objAt_setObj_same _)
  · exact (unanswered_objAt kept _ _).trans ((objAt_setObj_other _ other).trans (stands j b))

end

/-- Settles O14: the request runs as one write by `runRequest_write`, and its answer leaves the value. -/
theorem writeTakesEffect : Obligations.WriteTakesEffect := by
  intro t s r k o e sn up settled taken whole parsed session noCurfew s0 x txn unknown newer kind entry number plain outside
    passes
  exact transactionExecute_writes t up settled taken whole session ⟨unknown, newer⟩ parsed noCurfew kind entry number plain
    outside passes

end Sys2Proof.Machine

namespace Sys2Proof.Machine

/-! ## Sessions are accepted half-open, confirmed, closed and timed out (R331, R333, R335, R337, R339, R1150) -/

theorem touchSession_unopened {n : Nat} {s : State} (unopened : (tabGet {} n s.kiosk.sessions).phase ≠ 2) :
    touchSession n s = s := if_neg unopened

theorem touchSession_other {n m : Nat} (other : m ≠ n) (s : State) :
    tabGet {} m (touchSession n s).kiosk.sessions = tabGet {} m s.kiosk.sessions := by
  simp only [touchSession]; split
  · exact tabGet_put_other _ _ _ _ _ _ other
  · rfl

theorem touchSession_countOpen (n : Nat) (s : State) : touchSession n (countOpen s) = countOpen (touchSession n s) := by
  have stands : (countOpen s).kiosk.sessions = s.kiosk.sessions := rfl
  simp only [touchSession, stands]; split <;> rfl

theorem sendJop_eq (client : Nat) (f : List Byte) (s : State) : sendJop client f s =
    { s with net := (sendJop client f s).net, outbox := (sendJop client f s).outbox } := by
  obtain ⟨n, o, sent⟩ := sendTo_frame (clientAddress client) (jopPacket client f) s
  rw [sendJop, sent]

/-- The frame reaches an awake sled, and its path, its header and its tag pass. -/
def FrameTaken (src : NetSource) (f : List Byte) (s : State) : Prop :=
  frameReaches s f = true ∧ netAwake s = true ∧ sourceOk src = true ∧ headerOk f = true ∧ frameTagRule s f = true

theorem FrameTaken.takeFrame {src : NetSource} {f : List Byte} {s : State} (taken : FrameTaken src f s)
    (effect : State → State) : takeFrame src f true effect s = effect (touchSession (field f 6 2) s) := by
  obtain ⟨reaches, awake, source, header, tag⟩ := taken
  rw [takeFrame_verified reaches source header tag, if_neg (ne_false_of_eq_true awake), if_pos rfl]

/-! ### SESSION_OPEN -/

section
variable {client before : Nat} {body : List Byte} {s : State}

theorem openSession_accepts (rate : before < 4) (enabled : credentialEnabled s (field body 0 1) = true)
    (opened : sessionsIn s 2 < 8) (half : sessionsIn s 1 < 4) :
    openSession client before body s = acceptSession client body s := by
  have room : ¬ (8 ≤ sessionsIn s 2 ∨ 4 ≤ sessionsIn s 1) := by omega
  simp only [openSession, if_neg (Nat.not_le.mpr rate), enabled, if_neg room, Bool.true_eq_false, if_false]

theorem openSession_refuses (bad : 4 ≤ before ∨ credentialEnabled s (field body 0 1) = false ∨ 8 ≤ sessionsIn s 2 ∨
    4 ≤ sessionsIn s 1) : ∃ code, openSession client before body s = refuseSession client code s := by
  by_cases fast : 4 ≤ before
  · exact ⟨3, if_pos fast⟩
  by_cases disabled : credentialEnabled s (field body 0 1) = false
  · exact ⟨2, (if_neg fast).trans (if_pos disabled)⟩
  have full : 8 ≤ sessionsIn s 2 ∨ 4 ≤ sessionsIn s 1 := (bad.resolve_left fast).resolve_left disabled
  exact ⟨1, (if_neg fast).trans ((if_neg disabled).trans (if_pos full))⟩

end

/-- An accepted session is half-open under the fresh number, without rights; the accept leaves or waits. -/
theorem acceptSession_frame (client : Nat) (body : List Byte) (s : State) : ∃ x next net out,
    x.phase = 1 ∧ x.slot = field body 0 1 ∧ x.rights = 0 ∧ acceptSession client body s = { s with
      kiosk := { s.kiosk with nextSession := next, sessions := tabPut {} (freshSession s) x s.kiosk.sessions }
      net := net, freeCount := s.freeCount + 1, outbox := out } := by
  simp only [acceptSession, takeFree]
  exact ⟨_, _, _, _, rfl, rfl, rfl, sendJop_eq _ _ _⟩

theorem refuseSession_counted (client code : Nat) (s : State) : Counted 0x1230 8 1 s (refuseSession client code s) :=
  (counted_count _).congr (by rw [sendJop_eq]) rfl

theorem refuseSession_frame (client code : Nat) (s : State) : ∃ net out counters, refuseSession client code s =
    { s with kiosk := { s.kiosk with counters := counters }, net := net, outbox := out } := by
  rw [refuseSession, sendJop_eq]
  exact ⟨_, _, _, rfl⟩

section
variable (t : Nat) {src : NetSource} {f : List Byte} {s : State} (taken : FrameTaken src f (clockTo t s))
include taken

theorem exec_sessionOpen (type : field f 3 1 = 0x20) (length : f.length = 52) : exec (.sessionOpen t src f) s =
    .next (openSession src.client (opensBefore (clockTo t s)) (f.drop 32)
      (countOpen (touchSession (field f 6 2) (clockTo t s)))) := by
  have ⟨reaches, _, source, _, _⟩ := taken
  have port : src.port = 61605 := by simp [sourceOk] at source; exact source.2
  have awaited : (decide (field f 3 1 = ftOpen) && decide (f.length = 52)) = true := by simp [type, length, ftOpen]
  have counts : (frameReaches (clockTo t s) f && decide (src.port = 61605) && decide (field f 3 1 = ftOpen)) = true := by
    simp [reaches, port, type, ftOpen]
  have taken' : FrameTaken src f (countOpen (clockTo t s)) := taken
  simp only [exec, execSessionOpen, counts, awaited, if_true, taken'.takeFrame, touchSession_countOpen]

theorem sessionOpen_accepts (type : field f 3 1 = 0x20) (length : f.length = 52) (rate : opensBefore (clockTo t s) < 4)
    (enabled : credentialEnabled s (field f 32 1) = true)
    (opened : sessionsIn (touchSession (field f 6 2) (clockTo t s)) 2 < 8)
    (half : sessionsIn (touchSession (field f 6 2) (clockTo t s)) 1 < 4) :
    let s1 := touchSession (field f 6 2) (clockTo t s)
    ∃ u, exec (.sessionOpen t src f) s = .next u ∧
      (tabGet {} (freshSession s1) u.kiosk.sessions).phase = 1 ∧
      (tabGet {} (freshSession s1) u.kiosk.sessions).slot = field f 32 1 ∧
      (tabGet {} (freshSession s1) u.kiosk.sessions).rights = 0 ∧
      u.kiosk.openCount = opensBefore (clockTo t s) + 1 ∧
      (∀ m, m ≠ freshSession s1 → tabGet {} m u.kiosk.sessions = tabGet {} m s1.kiosk.sessions) ∧
      u.freeCount = s.freeCount + 1 ∧
      u = { s with now := max s.now t, kiosk := u.kiosk, net := u.net, freeCount := u.freeCount, outbox := u.outbox } := by
  have frame := touchSession_frame (field f 6 2) (clockTo t s)
  have run := exec_sessionOpen t taken type length
  generalize touched : touchSession (field f 6 2) (clockTo t s) = v at frame run opened half ⊢
  have before : opensBefore v = opensBefore (clockTo t s) := by rw [frame]; rfl
  have enabled' : credentialEnabled v (field (f.drop 32) 0 1) = true := by rw [frame]; exact enabled
  rw [openSession_accepts (s := countOpen v) rate enabled' opened half] at run
  obtain ⟨x, next, net, out, phase, slot, rights, accepted⟩ := acceptSession_frame src.client (f.drop 32) (countOpen v)
  have entry : tabGet {} (freshSession v) (acceptSession src.client (f.drop 32) (countOpen v)).kiosk.sessions = x := by
    rw [accepted]; exact tabGet_put_same _ _ _ _
  refine ⟨_, run, ?_, ?_, ?_, ?_, fun m other => ?_, ?_, ?_⟩
  · rw [entry, phase]
  · rw [entry, slot]; rfl
  · rw [entry, rights]
  · rw [accepted, ← before]; rfl
  · rw [accepted]; exact tabGet_put_other _ _ _ _ _ _ other
  · rw [accepted, frame]; rfl
  · rw [accepted, frame]; rfl

theorem sessionOpen_refuses (type : field f 3 1 = 0x20) (length : f.length = 52)
    (bad : 4 ≤ opensBefore (clockTo t s) ∨ credentialEnabled s (field f 32 1) = false ∨
      8 ≤ sessionsIn (touchSession (field f 6 2) (clockTo t s)) 2 ∨
      4 ≤ sessionsIn (touchSession (field f 6 2) (clockTo t s)) 1) :
    ∃ u, exec (.sessionOpen t src f) s = .next u ∧ Counted 0x1230 8 1 s u ∧
      u.kiosk.sessions = (touchSession (field f 6 2) (clockTo t s)).kiosk.sessions ∧
      u.kiosk.openCount = opensBefore (clockTo t s) + 1 ∧
      u = { s with now := max s.now t, kiosk := u.kiosk, net := u.net, outbox := u.outbox } := by
  have frame := touchSession_frame (field f 6 2) (clockTo t s)
  have run := exec_sessionOpen t taken type length
  generalize touched : touchSession (field f 6 2) (clockTo t s) = v at frame run bad ⊢
  have before : opensBefore v = opensBefore (clockTo t s) := by rw [frame]; rfl
  have bad' : 4 ≤ opensBefore (clockTo t s) ∨ credentialEnabled (countOpen v) (field (f.drop 32) 0 1) = false ∨
      8 ≤ sessionsIn (countOpen v) 2 ∨ 4 ≤ sessionsIn (countOpen v) 1 := by
    have enabled : credentialEnabled (countOpen v) (field (f.drop 32) 0 1) = credentialEnabled s (field f 32 1) := by
      rw [frame]; rfl
    rw [enabled]; exact bad
  obtain ⟨code, refused⟩ := openSession_refuses (client := src.client) bad'
  rw [refused] at run
  obtain ⟨net, out, counters, left⟩ := refuseSession_frame src.client code (countOpen v)
  refine ⟨_, run, (refuseSession_counted _ _ _).congr (by rw [frame]; rfl) rfl, ?_, ?_, ?_⟩
  · rw [left]; rfl
  · rw [left, ← before]; rfl
  · rw [left, frame]; rfl

/-! ### SESSION_CONFIRM -/

theorem exec_sessionConfirm (type : field f 3 1 = 0x22) : exec (.sessionConfirm t src f) s =
    .next (confirmSession (field f 6 2) (touchSession (field f 6 2) (clockTo t s))) := by
  have awaited : decide (field f 3 1 = ftConfirm) = true := decide_eq_true type
  simp only [exec, execSessionConfirm, awaited, taken.takeFrame]

theorem sessionConfirm_opens (type : field f 3 1 = 0x22)
    (half : (tabGet {} (field f 6 2) s.kiosk.sessions).phase = 1) (room : sessionsIn s 2 < 8) :
    ∃ u, exec (.sessionConfirm t src f) s = .next u ∧ (tabGet {} (field f 6 2) u.kiosk.sessions).phase = 2 ∧
      (tabGet {} (field f 6 2) u.kiosk.sessions).rights =
        objAt s 0x1223 (tabGet {} (field f 6 2) s.kiosk.sessions).slot ∧
      (∀ m, m ≠ field f 6 2 → tabGet {} m u.kiosk.sessions = tabGet {} m s.kiosk.sessions) ∧
      u = { s with now := max s.now t, kiosk := { s.kiosk with sessions := u.kiosk.sessions } } := by
  have run := exec_sessionConfirm t taken type
  have unopened : (tabGet {} (field f 6 2) (clockTo t s).kiosk.sessions).phase ≠ 2 := ne_of_eq_of_ne half (by decide)
  rw [touchSession_unopened unopened, confirmSession, if_pos ⟨half, room⟩] at run
  refine ⟨_, run, ?_, ?_, fun m other => ?_, rfl⟩
  · simp [tabGet_put_same]
  · simp [tabGet_put_same, objAt]
  · simp [tabGet_put_other _ _ _ _ _ _ other]

theorem sessionConfirm_touches (type : field f 3 1 = 0x22)
    (opened : (tabGet {} (field f 6 2) s.kiosk.sessions).phase = 2) :
    exec (.sessionConfirm t src f) s = .next (touchSession (field f 6 2) (clockTo t s)) := by
  have stands : (tabGet {} (field f 6 2) (touchSession (field f 6 2) (clockTo t s)).kiosk.sessions).phase = 2 := by
    rw [touchSession_open (s := clockTo t s) opened]; exact opened
  have confirmed : ¬ ((tabGet {} (field f 6 2) (touchSession (field f 6 2) (clockTo t s)).kiosk.sessions).phase = 1 ∧
      sessionsIn (touchSession (field f 6 2) (clockTo t s)) 2 < 8) := by simp [stands]
  rw [exec_sessionConfirm t taken type, confirmSession, if_neg confirmed]

/-! ### The end of a session -/

theorem exec_sessionClose (type : field f 3 1 = 0x23) (session : field f 6 2 ≠ 0) : exec (.sessionClose t src f) s =
    .next (endSession (field f 6 2) (touchSession (field f 6 2) (clockTo t s))) := by
  have awaited : (decide (field f 3 1 = ftClose) && decide (field f 6 2 ≠ 0)) = true := by simp [type, session, ftClose]
  simp only [exec, execSessionClose, awaited, taken.takeFrame]

end

/-- Session `n` has ended, and its waiting requests with it; the other sessions and the dictionary stand. -/
def SessionEnded (n t : Nat) (s u : State) : Prop :=
  tabGet {} n u.kiosk.sessions = {} ∧ (∀ r ∈ u.kiosk.jopQueue, r.session ≠ n) ∧
  (∀ m, m ≠ n → tabGet {} m u.kiosk.sessions = tabGet {} m s.kiosk.sessions) ∧
  u.kiosk.objects = s.kiosk.objects ∧ u = { s with now := max s.now t, kiosk := u.kiosk }

theorem endSession_sessions (n : Nat) (s : State) :
    (endSession n s).kiosk.sessions = tabPut {} n {} s.kiosk.sessions := rfl

/-- `v` is the sled as the end finds it, its local time and its sessions' idle times brought up to date. -/
theorem endSession_ends (n : Nat) {t : Nat} {s v : State}
    (frame : v = { s with now := max s.now t, kiosk := { s.kiosk with sessions := v.kiosk.sessions } })
    (others : ∀ m, m ≠ n → tabGet {} m v.kiosk.sessions = tabGet {} m s.kiosk.sessions) :
    SessionEnded n t s (endSession n v) := by
  refine ⟨?_, fun r waits => of_decide_eq_true (List.mem_filter.mp waits).2, fun m other => ?_, ?_, ?_⟩
  · rw [endSession_sessions, tabGet_put_same]
  · rw [endSession_sessions, tabGet_put_other _ _ _ _ _ _ other, others m other]
  · rw [frame]; rfl
  · rw [frame]; rfl

section
variable (t : Nat) {n : Nat} {s : State}

theorem exec_halfOpenExpire (half : (tabGet {} n s.kiosk.sessions).phase = 1)
    (late : (tabGet {} n s.kiosk.sessions).seen + 2000000000 ≤ max s.now t) :
    exec (.halfOpenExpire t n) s = .next (endSession n (clockTo t s)) := if_pos ⟨half, late⟩

theorem exec_sessionIdleExpire (opened : (tabGet {} n s.kiosk.sessions).phase = 2)
    (late : (tabGet {} n s.kiosk.sessions).seen + objAt s 0x1220 0 * 1000000 ≤ max s.now t) :
    exec (.sessionIdleExpire t n) s = .next (endSession n (clockTo t s)) := if_pos ⟨opened, late⟩

end

/-- Settles O17: a frame that is taken has its effect on the touched session, and `SessionEnded` says what an end leaves. -/
theorem sessionsOpenAndEnd : Obligations.SessionsOpenAndEnd := by
  intro t n src f s now taken s1 ended sec opened
  refine ⟨fun frame type length => ⟨?_, ?_⟩, ?_, fun half late => ?_, fun opened late => ?_⟩
  · exact sessionOpen_accepts t frame type length
  · exact sessionOpen_refuses t frame type length
  · rintro frame rfl
    refine ⟨sessionConfirm_opens t frame, sessionConfirm_touches t frame, fun type session => ?_⟩
    exact ⟨_, exec_sessionClose t frame type session,
      endSession_ends _ (touchSession_frame _ _) fun _ other => touchSession_other other _⟩
  · exact ⟨_, exec_halfOpenExpire t half late, endSession_ends n rfl fun _ _ => rfl⟩
  · exact ⟨_, exec_sessionIdleExpire t opened late, endSession_ends n rfl fun _ _ => rfl⟩

end Sys2Proof.Machine

namespace Sys2Proof.Machine

/-! ## The coordinator arises (R295, R300 to R307, R309, R312, R317) -/

theorem segmentPacket_eq (f : List Byte) : segmentPacket f = .frame 255 61605 (allNodes * 65536 + 61605) f := rfl

/-! ### What interrupt causes add to what leaves the sled -/

theorem raiseVector_outbox (v : Nat) (s : State) : ∃ rest, (raiseVector v s).outbox = s.outbox ++ rest := by
  simp only [raiseVector]
  split
  · exact ⟨[], (List.append_nil _).symm⟩
  split
  · exact ⟨[], (List.append_nil _).symm⟩
  · exact ⟨_, rfl⟩

theorem glCause_outbox (b : Nat) (s : State) : ∃ rest, (glCause b s).outbox = s.outbox ++ rest := by
  simp only [glCause]
  split
  · exact ⟨[], (List.append_nil _).symm⟩
  split
  · exact ⟨[], (List.append_nil _).symm⟩
  split
  · exact ⟨[], (List.append_nil _).symm⟩
  · exact raiseVector_outbox 0 _

theorem changeRb_outbox (f : Roundabout → Roundabout) (s : State) :
    ∃ rest, (changeRb f s).outbox = s.outbox ++ rest := by
  simp only [changeRb]
  split
  · exact ⟨[], (List.append_nil _).symm⟩
  · exact glCause_outbox 3 _

/-! ### Beacons and claims -/

theorem beaconBody_eq (s : State) (flags : Nat) :
    ∃ rest, beaconBody s flags = natLe s.rb.cycle 6 ++ (natLe flags 2 ++ rest) := by
  simp only [beaconBody, List.append_assoc]
  exact ⟨_, rfl⟩

theorem beaconBody_cycle (s : State) (flags : Nat) : (beaconBody s flags).take 6 = natLe s.rb.cycle 6 := by
  obtain ⟨rest, body⟩ := beaconBody_eq s flags
  rw [body]
  exact List.take_left' (length_natLe _ _)

theorem beaconBody_flags (s : State) {flags : Nat} (fits : flags < 65536) : field (beaconBody s flags) 6 2 = flags := by
  obtain ⟨rest, body⟩ := beaconBody_eq s flags
  rw [field, body, List.drop_left' (length_natLe _ _), List.take_left' (length_natLe _ _)]
  simp [natLe, leNat]
  omega

/-- The coordinator with its period closed and its beacon sent. -/
def beaconSent (s : State) : State :=
  emit (segmentPacket (buildFrame (segmentKey s) ftBeacon 0 (beaconBody (closePeriod s) (flag (beaconFreewheel s) 2))))
    (closePeriod s)

section
variable {s : State} (may : netMaySend s = true)
include may

theorem sendBeacon_eq : sendBeacon s =
    count 0x1230 1 1 ((changeRb (fun r => { r with unnumbered := false }) (beaconSent s)).modNet fun n => { n with
      coordinatorEui := Config.eui64, awaiting := false, silent := 0, gotCycle := some s.rb.cycle
      notices := n.notices.map fun x => { x with again := x.sentOnce } }) := by
  simp only [sendBeacon, may, Bool.true_eq_false, if_false, changeRb_rb]
  rfl

/-- The beacon that is sent carries the present cycle. -/
theorem sendBeacon_outbox : ∃ body rest, (sendBeacon s).outbox = s.outbox ++
      .frame 255 61605 (allNodes * 65536 + 61605) (buildFrame (segmentKey s) 0x10 0 body) :: rest ∧
    body.take 6 = natLe s.rb.cycle 6 := by
  rw [sendBeacon_eq may]
  obtain ⟨rest, added⟩ := changeRb_outbox (fun r => { r with unnumbered := false }) (beaconSent s)
  refine ⟨_, rest, ?_, beaconBody_cycle (closePeriod s) (flag (beaconFreewheel s) 2)⟩
  calc _ = (beaconSent s).outbox ++ rest := added
    _ = _ := by simp [beaconSent, closePeriod, segmentPacket_eq, ftBeacon]

theorem sendBeacon_counted : Counted 0x1230 1 1 s (sendBeacon s) := by
  rw [sendBeacon_eq may]
  refine (counted_count _).congr ?_ rfl
  simp [beaconSent, closePeriod]

theorem sendBeacon_rb : (sendBeacon s).rb = { s.rb with unnumbered := false } := by
  rw [sendBeacon_eq may]
  simp [beaconSent]

theorem sendBeacon_net : (sendBeacon s).net.state = s.net.state ∧ (sendBeacon s).net.gotCycle = some s.rb.cycle := by
  rw [sendBeacon_eq may]
  simp [beaconSent, closePeriod]

theorem sendBeacon_frame : sendBeacon s = { s with
    rb := (sendBeacon s).rb, net := (sendBeacon s).net, kiosk := (sendBeacon s).kiosk, host := (sendBeacon s).host
    outbox := (sendBeacon s).outbox } := by
  rw [sendBeacon_eq may]
  apply State.ext_fields <;> simp [beaconSent, closePeriod]

/-- A claim is a beacon that leaves at once; its DEFERRED flag says whether a backoff came before it. -/
theorem sendClaim_eq (deferred : Bool) : ∃ body, bit (field body 6 2) 1 = deferred ∧ sendClaim deferred s = { s with
    net := { s.net with claiming := true }
    outbox := s.outbox ++ [.frame 255 61605 (allNodes * 65536 + 61605) (buildFrame (segmentKey s) 0x10 0 body)] } := by
  have fits : 1 + flag deferred 1 + flag (beaconFreewheel s) 2 < 65536 := by
    cases deferred <;> cases beaconFreewheel s <;> decide
  refine ⟨beaconBody s (1 + flag deferred 1 + flag (beaconFreewheel s) 2), ?_, if_neg (ne_false_of_eq_true may)⟩
  rw [beaconBody_flags s fits]
  cases deferred <;> cases beaconFreewheel s <;> decide

end

/-! ### BEACON_INSTANT -/

theorem openPeriod_net (s : State) : (openPeriod s).net = { s.net with
    silent := if gotBeacon s then 0 else s.net.silent + 1
    awaiting := !gotBeacon s
    missedInstants := if s.net.beaconMissed && s.net.awaiting then s.net.missedInstants + 1 else s.net.missedInstants
    statusDue := !s.net.nodeIdInvalid } := by
  simp only [openPeriod]
  split <;> rfl

theorem openPeriod_counters (s : State) :
    counterAt (openPeriod s) = counterAt (if s.net.statusDue then count 0x1230 7 1 s else s) := rfl

theorem openPeriod_frame (s : State) : openPeriod s = { s with
    net := (openPeriod s).net, kiosk := { s.kiosk with counters := (openPeriod s).kiosk.counters } } := by
  simp only [openPeriod]
  split <;> rfl

/-- The sled with its next beacon instant loaded. -/
def instantLoaded (t : Nat) (s : State) : State := armKiosk kcBeacon (s.rb.cycle / 8 * 8 + 8) 1024 0 (clockTo t s)

/-- The sled once its beacon instant has been taken: the next one is loaded and a new period is open. -/
def beaconPeriod (t : Nat) (s : State) : State := openPeriod (instantLoaded t s)

theorem beaconPeriod_net (t : Nat) (s : State) : (beaconPeriod t s).net = { s.net with
    silent := if gotBeacon s then 0 else s.net.silent + 1
    awaiting := !gotBeacon s
    missedInstants := if s.net.beaconMissed && s.net.awaiting then s.net.missedInstants + 1 else s.net.missedInstants
    statusDue := !s.net.nodeIdInvalid } := openPeriod_net _

theorem beaconPeriod_frame (t : Nat) (s : State) : beaconPeriod t s = { s with
    now := max s.now t, rb := { s.rb with kioskCmp := (beaconPeriod t s).rb.kioskCmp }, net := (beaconPeriod t s).net
    kiosk := { s.kiosk with counters := (beaconPeriod t s).kiosk.counters } } := by
  rw [beaconPeriod, openPeriod_frame]
  rfl

theorem beaconPeriod_missesSlot (t : Nat) {s : State} (due : s.net.statusDue = true) :
    Counted 0x1230 7 1 s (beaconPeriod t s) := by
  rw [Counted, beaconPeriod, openPeriod_counters]
  split
  next => exact counted_count s
  next idle => exact absurd due idle

theorem beaconPeriod_beacons (t : Nat) (s : State) : counterAt (beaconPeriod t s) 0x1230 1 = counterAt s 0x1230 1 := by
  rw [beaconPeriod, openPeriod_counters]
  split
  · exact counterAt_count_other _ (by decide)
  · rfl

theorem beaconPeriod_maySend (t : Nat) (s : State) : netMaySend (beaconPeriod t s) = netMaySend (clockTo t s) := by
  rw [beaconPeriod_frame, beaconPeriod_net]
  rfl

/-- The beacon's comparator is loaded for tick 1,024 of the next cycle that is a multiple of eight. -/
def BeaconArmed (s u : State) : Prop :=
  (tabGet {} 0 u.rb.kioskCmp).cycle = s.rb.cycle / 8 * 8 + 8 ∧ (tabGet {} 0 u.rb.kioskCmp).phase = 1024 ∧
  (tabGet {} 0 u.rb.kioskCmp).busy = true

theorem beaconPeriod_armed (t : Nat) (s : State) : BeaconArmed s (beaconPeriod t s) := by
  have loaded : (beaconPeriod t s).rb = (instantLoaded t s).rb := openPeriod_rb _
  simp [BeaconArmed, loaded, instantLoaded, armKiosk, kcBeacon, tabGet_put_same, loadComparator]

/-- What each role does at a beacon instant, once the period is open. -/
def instantOfRole (s : State) : Out :=
  match s.net.state with
  | .coordinator => .next (sendBeacon s)
  | .listen =>
    if s.rb.state ≠ .locked then .next (s.modNet fun n => { n with listened := 0 })
    else if 4 ≤ s.net.listened then .next (sendClaim false s)
    else .next (s.modNet fun n => { n with listened := n.listened + 1 })
  | .down | .backoff | .follower | .searching => .next s

section
variable (t : Nat) {s : State} (fired : (tabGet {} 0 s.rb.kioskCmp).fired = true) (turn : kioskTurn 0 s.rb = true)
  (noId : s.net.idWritten = false) (noFallback : s.net.fallbackWritten = false)
include fired turn noId noFallback

theorem exec_beaconInstant : exec (.beaconInstant t) s = instantOfRole (beaconPeriod t s) := by
  have acts : ¬ ((tabGet {} 0 s.rb.kioskCmp).fired = false ∨ kioskTurn 0 s.rb = false) := by simp [fired, turn]
  have oldFallback : (instantLoaded t s).net.fallbackWritten = false := noFallback
  have oldId : (instantLoaded t s).net.idWritten = false := noId
  refine (if_neg acts).trans ?_
  rw [instantLoaded] at oldFallback oldId
  simp only [clockTo_fields, oldFallback, oldId, Bool.false_eq_true, if_false]
  rfl

theorem beaconInstant_sendsBeacon (role : s.net.state = .coordinator) (may : netMaySend (clockTo t s) = true) :
    ∃ u body rest, exec (.beaconInstant t) s = .next u ∧ BeaconArmed s u ∧
      u.outbox = s.outbox ++ .frame 255 61605 (allNodes * 65536 + 61605) (buildFrame (segmentKey s) 0x10 0 body) :: rest ∧
      body.take 6 = natLe s.rb.cycle 6 ∧ u.rb.unnumbered = false ∧ u.rb.cycle = s.rb.cycle ∧ Counted 0x1230 1 1 s u ∧
      u.net.state = .coordinator ∧ u.net.gotCycle = some s.rb.cycle ∧
      u = { s with
        now := max s.now t, rb := u.rb, net := u.net, kiosk := u.kiosk, host := u.host, outbox := u.outbox } := by
  have frame := beaconPeriod_frame t s
  have stands : (beaconPeriod t s).net.state = .coordinator := by rw [beaconPeriod_net]; exact role
  have armed := beaconPeriod_armed t s
  have beacons := beaconPeriod_beacons t s
  have may' : netMaySend (beaconPeriod t s) = true := (beaconPeriod_maySend t s).trans may
  have run := exec_beaconInstant t fired turn noId noFallback
  generalize beaconPeriod t s = p at frame stands armed beacons may' run
  have cycle : p.rb.cycle = s.rb.cycle := by rw [frame]
  have key : segmentKey p = segmentKey s := by rw [frame]; rfl
  have outbox : p.outbox = s.outbox := by rw [frame]
  have sends : instantOfRole p = .next (sendBeacon p) := by simp only [instantOfRole, stands]
  have rb := sendBeacon_rb may'
  obtain ⟨state, got⟩ := sendBeacon_net may'
  obtain ⟨body, rest, sent, numbered⟩ := sendBeacon_outbox may'
  refine ⟨_, body, rest, run.trans sends, ?_, ?_, ?_, ?_, ?_, ?_, ?_, ?_, ?_⟩
  · rw [BeaconArmed, rb]; exact armed
  · rw [sent, key, outbox]
  · rw [numbered, cycle]
  · rw [rb]
  · rw [rb]; exact cycle
  · rw [Counted, ← beacons]; exact sendBeacon_counted may'
  · rw [state, stands]
  · rw [got, cycle]
  · rw [sendBeacon_frame may', frame]

theorem beaconInstant_claims (role : s.net.state = .listen) (locked : s.rb.state = .locked) (heard : 4 ≤ s.net.listened)
    (may : netMaySend (clockTo t s) = true) :
    ∃ u body, exec (.beaconInstant t) s = .next u ∧ BeaconArmed s u ∧
      u.outbox = s.outbox ++ [.frame 255 61605 (allNodes * 65536 + 61605) (buildFrame (segmentKey s) 0x10 0 body)] ∧
      u.net.claiming = true ∧ u.net.state = .listen ∧
      u = { s with
        now := max s.now t, rb := { s.rb with kioskCmp := u.rb.kioskCmp }, net := u.net
        kiosk := { s.kiosk with counters := u.kiosk.counters }, outbox := u.outbox } := by
  have frame := beaconPeriod_frame t s
  have net := beaconPeriod_net t s
  have armed := beaconPeriod_armed t s
  have may' : netMaySend (beaconPeriod t s) = true := (beaconPeriod_maySend t s).trans may
  have run := exec_beaconInstant t fired turn noId noFallback
  generalize beaconPeriod t s = p at frame net armed may' run
  have state : p.net.state = .listen := by rw [net]; exact role
  have listened : 4 ≤ p.net.listened := by rw [net]; exact heard
  have rb : ¬ (p.rb.state ≠ .locked) := by rw [frame]; exact not_not.mpr locked
  have claims : instantOfRole p = .next (sendClaim false p) := by
    simp only [instantOfRole, state, if_neg rb, if_pos listened]
  obtain ⟨body, -, sent⟩ := sendClaim_eq may' false
  rw [claims, sent] at run
  refine ⟨_, body, run, armed, ?_, rfl, state, ?_⟩
  · rw [frame]; rfl
  · rw [frame]

theorem beaconInstant_listens (role : s.net.state = .listen) (unready : s.rb.state ≠ .locked ∨ s.net.listened < 4) :
    ∃ u, exec (.beaconInstant t) s = .next u ∧ BeaconArmed s u ∧
      u.net.listened = (if s.rb.state = .locked then s.net.listened + 1 else 0) ∧ u.net.state = .listen ∧
      u.outbox = s.outbox ∧ u = { s with
        now := max s.now t, rb := { s.rb with kioskCmp := u.rb.kioskCmp }, net := u.net
        kiosk := { s.kiosk with counters := u.kiosk.counters } } := by
  have frame := beaconPeriod_frame t s
  have net := beaconPeriod_net t s
  have armed := beaconPeriod_armed t s
  have run := exec_beaconInstant t fired turn noId noFallback
  generalize beaconPeriod t s = p at frame net armed run
  have state : p.net.state = .listen := by rw [net]; exact role
  have listened : p.net.listened = s.net.listened := by rw [net]
  have rb : p.rb.state = s.rb.state := by rw [frame]
  have counts : instantOfRole p = .next (p.modNet fun n => { n with
      listened := if s.rb.state = .locked then s.net.listened + 1 else 0 }) := by
    simp only [instantOfRole, state, rb, listened]
    by_cases locked : s.rb.state = .locked
    · have few : ¬ 4 ≤ s.net.listened := Nat.not_le.mpr (unready.resolve_left (not_not.mpr locked))
      rw [if_neg (not_not.mpr locked), if_neg few, if_pos locked, ← listened]
      rfl
    · rw [if_pos locked, if_neg locked]
  refine ⟨_, run.trans counts, armed, rfl, state, ?_, ?_⟩
  · rw [frame]; rfl
  · rw [frame]; rfl

theorem beaconInstant_follows (role : s.net.state = .follower) :
    ∃ u, exec (.beaconInstant t) s = .next u ∧ BeaconArmed s u ∧
      u.net.silent = (if gotBeacon s then 0 else s.net.silent + 1) ∧ u.net.awaiting = !gotBeacon s ∧
      (s.net.nodeIdInvalid = false → u.net.statusDue = true) ∧ (s.net.statusDue = true → Counted 0x1230 7 1 s u) ∧
      u.outbox = s.outbox ∧ u = { s with
        now := max s.now t, rb := { s.rb with kioskCmp := u.rb.kioskCmp }, net := u.net
        kiosk := { s.kiosk with counters := u.kiosk.counters } } := by
  have frame := beaconPeriod_frame t s
  have state : (beaconPeriod t s).net.state = .follower := by rw [beaconPeriod_net]; exact role
  have waits : instantOfRole (beaconPeriod t s) = .next (beaconPeriod t s) := by simp only [instantOfRole, state]
  have run := (exec_beaconInstant t fired turn noId noFallback).trans waits
  refine ⟨_, run, beaconPeriod_armed t s, ?_, ?_, fun valid => ?_, beaconPeriod_missesSlot t, ?_, frame⟩
  · rw [beaconPeriod_net]
  · rw [beaconPeriod_net]
  · rw [beaconPeriod_net, valid]; rfl
  · rw [frame]

end

/-! ### Claims, collisions and the backoff -/

section
variable (t : Nat) {s : State}

theorem claimSuccess_leads (claiming : s.net.claiming = true) : ∃ u, exec (.claimSuccess t) s = .next u ∧
    u.net.state = .coordinator ∧ u.net.nodeId = 0 ∧ u.net.plca = true ∧ u.net.claiming = false ∧ u.net.collisions = 0 ∧
    u = { s with now := max s.now t, net := u.net } :=
  ⟨_, if_pos claiming, rfl, rfl, rfl, rfl, rfl, rfl⟩

theorem claimCollision_backsOff (claiming : s.net.claiming = true) : ∃ u, exec (.claimCollision t) s = .next u ∧
    u.net.state = .backoff ∧ u.net.claiming = false ∧ u.net.collisions = s.net.collisions + 1 ∧
    u.net.backoffEnd = max s.now t + backoffBits s.net.collisions * 20000 ∧ Counted 0x1230 4 1 s u ∧
    u = { s with now := max s.now t, net := u.net, kiosk := { s.kiosk with counters := u.kiosk.counters } } :=
  ⟨_, if_pos claiming, rfl, rfl, rfl, rfl, (counted_count _).congr rfl rfl, rfl⟩

theorem backoffExpire_claims (role : s.net.state = .backoff) (idle : s.net.claiming = false)
    (late : s.net.backoffEnd ≤ max s.now t) (may : netMaySend (clockTo t s) = true) :
    ∃ u body, exec (.backoffExpire t) s = .next u ∧
      u.outbox = s.outbox ++ [.frame 255 61605 (allNodes * 65536 + 61605) (buildFrame (segmentKey s) 0x10 0 body)] ∧
      bit (field body 6 2) 1 = true ∧ u.net = { s.net with claiming := true } ∧
      u = { s with now := max s.now t, net := u.net, outbox := u.outbox } := by
  obtain ⟨body, deferred, sent⟩ := sendClaim_eq may true
  have run : exec (.backoffExpire t) s = .next (sendClaim true (clockTo t s)) := if_pos ⟨role, idle, late⟩
  rw [sent] at run
  exact ⟨_, body, run, rfl, deferred, rfl, rfl⟩

theorem backoffExpire_waits (early : max s.now t < s.net.backoffEnd) : exec (.backoffExpire t) s = .next (clockTo t s) :=
  if_neg fun ⟨_, _, late⟩ => absurd early (Nat.not_lt.mpr late)

end

/-! ### Yielding the role (R303) -/

theorem netNotice_net (n : NetNotice) (s : State) :
    ∃ notices, (netNotice n s).net = { s.net with notices := notices } := by
  simp only [netNotice]
  split <;> exact ⟨_, rfl⟩

theorem netNotice_frame (n : NetNotice) (s : State) : netNotice n s = { s with net := (netNotice n s).net } := by
  simp only [netNotice]
  split <;> rfl

/-- A sled that yields follows under its fallback ID. -/
theorem yieldRole_net (s : State) : ∃ notices, (yieldRole s).net = { s.net with
    state := .follower, nodeId := s.net.fallback, duplicate := true, listened := 0, collisions := 0, claiming := false
    notices := notices } := by
  simp only [yieldRole]
  generalize marked : noteRecord 0x1003 utNet 0 _ = v
  obtain ⟨notices, net⟩ := netNotice_net { cause := 0x1003, cycle := v.rb.cycle } v
  refine ⟨notices, net.trans ?_⟩
  rw [← marked]
  simp

theorem yieldRole_frame (s : State) : yieldRole s = { s with
    net := (yieldRole s).net, contain := (yieldRole s).contain, kiosk := (yieldRole s).kiosk, host := (yieldRole s).host
    outbox := (yieldRole s).outbox } := by
  simp only [yieldRole]
  rw [netNotice_frame, noteRecord_frame]
  rfl

@[simp] theorem yieldRole_unnoted (s : State) : (yieldRole s).unnoted = s.unnoted := by
  simp only [yieldRole]
  rw [netNotice_frame]
  exact noteRecord_unnoted _ _ _ _

theorem carrierDetectBackoff_yields (t : Nat) {s : State} (role : s.net.state = .backoff) (idle : s.net.claiming = false) :
    ∃ u, exec (.carrierDetectBackoff t) s = .next u ∧ u.net.state = .follower ∧ u.net.nodeId = s.net.fallback ∧
      u.net.duplicate = true ∧ u.net.collisions = 0 ∧ Noted s u ∧
      u = { s with
        now := max s.now t, net := u.net, contain := u.contain, kiosk := u.kiosk, host := u.host, outbox := u.outbox } := by
  obtain ⟨notices, net⟩ := yieldRole_net (clockTo t s)
  have run : exec (.carrierDetectBackoff t) s = .next (yieldRole (clockTo t s)) := if_pos ⟨role, idle⟩
  have noted : Noted s (yieldRole (clockTo t s)) := (noted_iff _ _).mpr (yieldRole_unnoted (clockTo t s))
  refine ⟨_, run, ?_, ?_, ?_, ?_, noted, yieldRole_frame (clockTo t s)⟩
  all_goals rw [net]
  rfl

/-- Settles O18: BEACON_INSTANT opens a period and then acts by the role; claims and the backoff command by command. -/
theorem coordinatorArises : Obligations.CoordinatorArises := by
  intro t s n now
  refine ⟨fun fired turn noId noFallback => ⟨?_, ?_, ?_, ?_⟩, fun claiming => ⟨?_, ?_⟩, fun role idle => ⟨?_, ?_, ?_⟩⟩
  · exact beaconInstant_sendsBeacon t fired turn noId noFallback
  · exact beaconInstant_claims t fired turn noId noFallback
  · exact beaconInstant_listens t fired turn noId noFallback
  · exact beaconInstant_follows t fired turn noId noFallback
  · exact claimSuccess_leads t claiming
  · exact claimCollision_backsOff t claiming
  · exact backoffExpire_claims t role idle
  · exact backoffExpire_waits t
  · exact carrierDetectBackoff_yields t role idle

end Sys2Proof.Machine

namespace Sys2Proof.Machine

/-! ## Beacons are followed, and their absence (R99, R302, R303, R308, R310, R319, R322 to R326, R343)

A beacon moves the Roundabout, the field network, the records, the kiosk's counters, the host interface and what leaves
the sled.  `State.unheard` is the rest. -/

/-- The state without what a beacon may touch. -/
def State.unheard (s : State) : State :=
  { s with rb := {}, net := {}, contain := {}, kiosk := { s.kiosk with counters := [] }, host := {}, outbox := [] }

theorem unheard_frame {s u : State} (h : u.unheard = s.unheard) : u = { s with
    rb := u.rb, net := u.net, contain := u.contain, kiosk := u.kiosk, host := u.host, outbox := u.outbox } :=
  (congrArg (fun x : State => { x with
    rb := u.rb, net := u.net, contain := u.contain, kiosk := u.kiosk, host := u.host, outbox := u.outbox }) h :)

@[simp] theorem modRb_unheard (f : Roundabout → Roundabout) (s : State) : (s.modRb f).unheard = s.unheard := rfl

@[simp] theorem modNet_unheard (f : Net → Net) (s : State) : (s.modNet f).unheard = s.unheard := rfl

@[simp] theorem count_unheard (idx sub n : Nat) (s : State) : (count idx sub n s).unheard = s.unheard := rfl

@[simp] theorem changeRb_unheard (f : Roundabout → Roundabout) (s : State) : (changeRb f s).unheard = s.unheard := by
  simp [State.unheard]

@[simp] theorem noteRecord_unheard (cause ut unit : Nat) (s : State) : (noteRecord cause ut unit s).unheard = s.unheard := by
  rw [noteRecord_frame]; rfl

@[simp] theorem yieldRole_unheard (s : State) : (yieldRole s).unheard = s.unheard := by
  simp only [yieldRole]
  rw [netNotice_frame]
  exact noteRecord_unheard _ _ _ _

@[simp] theorem stepCycle_unheard (d : Int) (s : State) : (stepCycle d s).unheard = s.unheard := by
  simp only [stepCycle]; split <;> simp

@[simp] theorem applyDue_unheard (s : State) : (applyDue s).unheard = s.unheard := by
  simp only [applyDue]; (repeat' split) <;> simp

@[simp] theorem useBeacon_unheard (n : Nat) (s : State) : (useBeacon n s).unheard = s.unheard := by
  simp only [useBeacon]; (repeat' split) <;> simp

@[simp] theorem resync_unheard (s : State) : (resync s).unheard = s.unheard := by
  simp only [resync]; split <;> simp

@[simp] theorem hearBeacon_unheard (body : List Byte) (s : State) : (hearBeacon body s).unheard = s.unheard := by
  simp [hearBeacon]

@[simp] theorem acceptBeacon_unheard (body : List Byte) (s : State) : (acceptBeacon body s).unheard = s.unheard := by
  simp [acceptBeacon]

@[simp] theorem hearDeferred_unheard (s : State) : (hearDeferred s).unheard = s.unheard := rfl

@[simp] theorem followBeacon_unheard (body : List Byte) (s : State) : (followBeacon body s).unheard = s.unheard := by
  simp [followBeacon]

/-! ### Numbering leaves the field network and the phase (R98 to R105) -/

@[simp] theorem stepCycle_net (d : Int) (s : State) : (stepCycle d s).net = s.net := by
  rw [stepCycle_frame]

@[simp] theorem applyDue_net (s : State) : (applyDue s).net = s.net := by
  simp only [applyDue]; (repeat' split) <;> simp

@[simp] theorem useBeacon_net (n : Nat) (s : State) : (useBeacon n s).net = s.net := by
  simp only [useBeacon]; (repeat' split) <;> simp

@[simp] theorem stepCycle_phase (d : Int) (s : State) : (stepCycle d s).rb.phase = s.rb.phase := (stepCycle_rb d s).2.1

@[simp] theorem applyDue_phase (s : State) : (applyDue s).rb.phase = s.rb.phase := by
  simp only [applyDue]; (repeat' split) <;> simp

@[simp] theorem useBeacon_phase (n : Nat) (s : State) : (useBeacon n s).rb.phase = s.rb.phase := by
  simp only [useBeacon]; (repeat' split) <;> simp

section
variable {j b : Nat} (folded : objKey j b ≠ objKey 0x9020 1) (dropped : objKey j b ≠ objKey 0x9020 2)
include folded dropped

theorem counterAt_noteRecord_other (cause ut unit : Nat) (s : State) :
    counterAt (noteRecord cause ut unit s) j b = counterAt s j b := counterAt_record_other folded dropped _ s

theorem counterAt_resync_other (other : objKey j b ≠ objKey 0x1230 6) (s : State) :
    counterAt (resync s) j b = counterAt s j b := by
  simp only [resync]
  split
  · rw [counterAt_count_other _ other, counterAt_noteRecord_other folded dropped]; rfl
  · rfl

variable (stepped : objKey j b ≠ objKey 0x2020 6)
include stepped

omit folded dropped in
theorem counterAt_stepCycle_other (d : Int) (s : State) : counterAt (stepCycle d s) j b = counterAt s j b := by
  simp only [stepCycle]
  split
  · simp [counterAt]
  · rw [counterAt_count_other _ stepped]; simp [counterAt]

theorem counterAt_applyDue_other (s : State) : counterAt (applyDue s) j b = counterAt s j b := by
  have changed (f : Roundabout → Roundabout) : counterAt (changeRb f s) j b = counterAt s j b := by simp [counterAt]
  simp only [applyDue]
  (repeat' split) <;> simp [counterAt_noteRecord_other folded dropped, counterAt_stepCycle_other stepped, changed]

/-- Numbering counts the step of the count, and what records count. -/
theorem counterAt_useBeacon_other (n : Nat) (s : State) : counterAt (useBeacon n s) j b = counterAt s j b := by
  have changed (f : Roundabout → Roundabout) (u : State) : counterAt (changeRb f u) j b = counterAt u j b := by
    simp [counterAt]
  have taken (f : Roundabout → Roundabout) : counterAt ((applyDue s).modRb f) j b = counterAt s j b :=
    counterAt_applyDue_other folded dropped stepped s
  simp only [useBeacon]
  (repeat' split) <;> simp [counterAt_noteRecord_other folded dropped, changed, taken]

end

/-! ### Hearing a beacon -/

/-- A miss is resolved: the RESYNC notice waits for the own slot. -/
theorem resync_missed {s : State} (missed : s.net.beaconMissed = true) : (resync s).net = { s.net with
    beaconMissed := false, beaconLost := false
    state := if s.net.state = .searching then .follower else s.net.state
    afterMiss := decide (s.rb.state ≠ .locked)
    resync := some { cause := 0x1005, cycle := s.rb.cycle, phase := s.rb.phase, missed := s.net.missedInstants } } := by
  simp [resync, missed]

theorem resync_unmissed {s : State} (heard : s.net.beaconMissed = false) : resync s = s :=
  if_neg (ne_true_of_eq_false heard)

theorem resync_counted {s : State} (missed : s.net.beaconMissed = true) : Counted 0x1230 6 1 s (resync s) := by
  rw [resync, if_pos missed]
  exact (counted_count _).trans (by rw [counterAt_noteRecord_other (by decide) (by decide)]; rfl)

theorem hearBeacon_net (body : List Byte) (s : State) :
    (hearBeacon body s).net.awaiting = false ∧ (hearBeacon body s).net.silent = 0 ∧
    (hearBeacon body s).net.gotCycle = some s.rb.cycle ∧ (hearBeacon body s).net.lastWake = some (field body 20 4) ∧
    (hearBeacon body s).net.beaconMissed = false ∧ (hearBeacon body s).net.fallback = s.net.fallback ∧
    (hearBeacon body s).net.state =
      if s.net.beaconMissed = true ∧ s.net.state = .searching then .follower else s.net.state := by
  cases missed : s.net.beaconMissed with
  | true => simp [hearBeacon, resync_missed, missed]
  | false => simp [hearBeacon, resync_unmissed, missed]

theorem hearBeacon_state {s : State} (role : s.net.state ≠ .searching) (body : List Byte) :
    (hearBeacon body s).net.state = s.net.state := by
  obtain ⟨-, -, -, -, -, -, state⟩ := hearBeacon_net body s
  rw [state, if_neg fun ⟨_, searching⟩ => role searching]

theorem hearBeacon_resync {s : State} (missed : s.net.beaconMissed = true) (body : List Byte) :
    (hearBeacon body s).net.resync.isSome = true := by
  simp [hearBeacon, resync_missed, missed]

theorem acceptBeacon_net (body : List Byte) (s : State) :
    (acceptBeacon body s).net = { (hearBeacon body s).net with coordinatorEui := field body 8 8 } := rfl

theorem acceptBeacon_counted (body : List Byte) (s : State) : Counted 0x1230 2 1 s (acceptBeacon body s) := by
  have stands : counterAt (hearBeacon body s) 0x1230 2 = counterAt s 0x1230 2 :=
    counterAt_resync_other (by decide) (by decide) (by decide) _
  exact (counted_count _).trans (by rw [counterAt_modNet, stands])

theorem acceptBeacon_resyncs {s : State} (missed : s.net.beaconMissed = true) (body : List Byte) :
    Counted 0x1230 6 1 s (acceptBeacon body s) :=
  (counterAt_count_other _ (by decide)).trans (resync_counted (s := s.modNet _) missed)

theorem followBeacon_net (body : List Byte) (s : State) : (followBeacon body s).net = (acceptBeacon body s).net :=
  useBeacon_net _ _

theorem counterAt_followBeacon (body : List Byte) (s : State) {b : Nat} (folded : objKey 0x1230 b ≠ objKey 0x9020 1)
    (dropped : objKey 0x1230 b ≠ objKey 0x9020 2) (stepped : objKey 0x1230 b ≠ objKey 0x2020 6) :
    counterAt (followBeacon body s) 0x1230 b = counterAt (acceptBeacon body s) 0x1230 b :=
  counterAt_useBeacon_other folded dropped stepped _ _

theorem followBeacon_counted (body : List Byte) (s : State) : Counted 0x1230 2 1 s (followBeacon body s) :=
  (counterAt_followBeacon body s (by decide) (by decide) (by decide)).trans (acceptBeacon_counted body s)

theorem followBeacon_resyncs {s : State} (missed : s.net.beaconMissed = true) (body : List Byte) :
    Counted 0x1230 6 1 s (followBeacon body s) :=
  (counterAt_followBeacon body s (by decide) (by decide) (by decide)).trans (acceptBeacon_resyncs missed body)

/-! ### What each role makes of a beacon -/

section
variable {body : List Byte} {s : State}

theorem takeBeacon_followed (role : s.net.state = .follower) (live : bit (field body 6 2) 1 = false)
    (attentive : sleeping s = false ∨ inGuard s = true) : takeBeacon body s = followBeacon body s := by
  have awake : (sleeping s && (false || !inGuard s)) = false := by rcases attentive with h | h <;> simp [h]
  simp only [takeBeacon, role, live, awake, Bool.false_eq_true, if_false]

theorem takeBeacon_slept (role : s.net.state = .follower) (asleep : sleeping s = true)
    (closed : bit (field body 6 2) 1 = true ∨ inGuard s = false) : takeBeacon body s = s := by
  have ignored : (sleeping s && (bit (field body 6 2) 1 || !inGuard s)) = true := by
    rcases closed with h | h <;> simp [h, asleep]
  simp only [takeBeacon, role, ignored, if_true]

theorem takeBeacon_deferred (role : s.net.state = .follower) (awake : sleeping s = false)
    (deferred : bit (field body 6 2) 1 = true) : takeBeacon body s = hearDeferred s := by
  simp only [takeBeacon, role, awake, deferred, Bool.false_and, Bool.false_eq_true, if_false, if_true]

theorem takeBeacon_found (role : s.net.state = .searching) (live : bit (field body 6 2) 1 = false) :
    takeBeacon body s = followBeacon body s := by
  simp only [takeBeacon, role, live, Bool.false_eq_true, if_false]

/-- What a beacon tells a sled that yields: all that it carries, or only that a coordinator exists. -/
def beaconEvidence (body : List Byte) (s : State) : State :=
  if bit (field body 6 2) 1 then hearDeferred s else acceptBeacon body s

theorem takeBeacon_candidate (role : s.net.state = .listen) (locked : s.rb.state = .locked) :
    takeBeacon body s = yieldRole (beaconEvidence body s) := by
  simp only [takeBeacon, role, locked, if_true]
  rfl

theorem takeBeacon_claimant (role : s.net.state = .backoff) : takeBeacon body s = yieldRole (beaconEvidence body s) := by
  simp only [takeBeacon, role]
  rfl

theorem takeBeacon_listener (role : s.net.state = .listen) (unlocked : s.rb.state ≠ .locked) :
    takeBeacon body s = if bit (field body 6 2) 1 then hearDeferred s else hearBeacon body s := by
  simp only [takeBeacon, role, if_neg unlocked]

theorem takeBeacon_keepsRole (role : s.net.state = .coordinator) (deferred : bit (field body 6 2) 1 = true) :
    takeBeacon body s = s := by
  simp only [takeBeacon, role, deferred, if_true]

theorem takeBeacon_lower (role : s.net.state = .coordinator) (live : bit (field body 6 2) 1 = false)
    (lower : field body 8 8 < Config.eui64) : takeBeacon body s = yieldRole (beaconEvidence body s) := by
  simp only [takeBeacon, role, live, lower, beaconEvidence, Bool.false_eq_true, if_false, if_true]

theorem takeBeacon_higher (role : s.net.state = .coordinator) (live : bit (field body 6 2) 1 = false)
    (higher : Config.eui64 ≤ field body 8 8) : takeBeacon body s = hearBeacon body s := by
  simp only [takeBeacon, role, live, if_neg (Nat.not_lt.mpr higher), Bool.false_eq_true, if_false]

theorem beaconEvidence_keeps (body : List Byte) (s : State) : (beaconEvidence body s).rb = s.rb ∧
    (beaconEvidence body s).net.fallback = s.net.fallback ∧ (beaconEvidence body s).unheard = s.unheard := by
  obtain ⟨-, -, -, -, -, fallback, -⟩ := hearBeacon_net body s
  simp only [beaconEvidence]
  split
  · exact ⟨rfl, rfl, rfl⟩
  · exact ⟨acceptBeacon_rb body s, fallback, acceptBeacon_unheard body s⟩

end

/-! ### BEACON_RECEIVE -/

/-- A beacon frame reaches the sled, and its path, its header and its tag pass. -/
def BeaconTaken (src : NetSource) (f : List Byte) (s : State) : Prop :=
  frameReaches s f = true ∧ sourceOk src = true ∧ headerOk f = true ∧ frameTagRule s f = true ∧ field f 3 1 = 0x10 ∧
  f.length = 64

/-- A beacon changes nothing else. -/
def BeaconTouches (t : Nat) (s u : State) : Prop := u = { s with
  now := max s.now t, rb := u.rb, net := u.net, contain := u.contain, kiosk := u.kiosk, host := u.host, outbox := u.outbox }

theorem beaconTouches_of_unheard {t : Nat} {s u : State} (kept : u.unheard = (clockTo t s).unheard) :
    BeaconTouches t s u := unheard_frame kept

/-- The sled yields on a beacon, which serves no numbering. -/
def BeaconYields (t : Nat) (s u : State) : Prop :=
  u.net.state = .follower ∧ u.net.nodeId = s.net.fallback ∧ u.net.duplicate = true ∧ u.rb = s.rb ∧ BeaconTouches t s u

theorem yieldRole_beaconEvidence_yields (body : List Byte) (t : Nat) (s : State) :
    BeaconYields t s (yieldRole (beaconEvidence body (clockTo t s))) := by
  obtain ⟨rb, fallback, kept⟩ := beaconEvidence_keeps body (clockTo t s)
  obtain ⟨notices, net⟩ := yieldRole_net (beaconEvidence body (clockTo t s))
  refine ⟨?_, ?_, ?_, (yieldRole_rb _).trans rb, beaconTouches_of_unheard ((yieldRole_unheard _).trans kept)⟩
  · rw [net]
  · rw [net]; exact fallback
  · rw [net]

section
variable (t : Nat) {src : NetSource} {f : List Byte} {s : State} (beacon : BeaconTaken src f (clockTo t s))
include beacon

theorem exec_beaconReceive {u : State} (takes : takeBeacon (f.drop 32) (clockTo t s) = u) :
    exec (.beaconReceive t src f) s = .next u := by
  obtain ⟨reaches, source, header, tag, type, length⟩ := beacon
  simp only [exec, execBeaconReceive, reaches, source, header, tag, type, length, ftBeacon, Bool.true_eq_false, ne_eq,
    not_true, or_self, if_false, takes]

theorem beaconReceive_follows (role : s.net.state = .follower) (live : bit (field (f.drop 32) 6 2) 1 = false)
    (attentive : sleeping (clockTo t s) = false ∨ inGuard (clockTo t s) = true) :
    ∃ u, exec (.beaconReceive t src f) s = .next u ∧ Counted 0x1230 2 1 s u ∧ u.net.awaiting = false ∧ u.net.silent = 0 ∧
      u.net.coordinatorEui = field (f.drop 32) 8 8 ∧ u.net.lastWake = some (field (f.drop 32) 20 4) ∧
      u.net.beaconMissed = false ∧ u.net.gotCycle = some s.rb.cycle ∧ u.rb.phase = s.rb.phase ∧ BeaconTouches t s u := by
  have run := exec_beaconReceive t beacon (takeBeacon_followed role live attentive)
  obtain ⟨awaiting, silent, got, wake, missed, -, -⟩ := hearBeacon_net (f.drop 32) (clockTo t s)
  refine ⟨_, run, followBeacon_counted _ (clockTo t s), ?_, ?_, ?_, ?_, ?_, ?_, ?_, beaconTouches_of_unheard (by simp)⟩
  · rw [followBeacon_net]; exact awaiting
  · rw [followBeacon_net]; exact silent
  · rw [followBeacon_net]; rfl
  · rw [followBeacon_net]; exact wake
  · rw [followBeacon_net]; exact missed
  · rw [followBeacon_net]; exact got
  · simp [followBeacon]

theorem beaconReceive_sleeps (role : s.net.state = .follower) (asleep : sleeping (clockTo t s) = true)
    (closed : bit (field (f.drop 32) 6 2) 1 = true ∨ inGuard (clockTo t s) = false) :
    exec (.beaconReceive t src f) s = .next (clockTo t s) :=
  exec_beaconReceive t beacon (takeBeacon_slept role asleep closed)

theorem beaconReceive_deferred (role : s.net.state = .follower) (awake : sleeping (clockTo t s) = false)
    (deferred : bit (field (f.drop 32) 6 2) 1 = true) :
    exec (.beaconReceive t src f) s = .next (hearDeferred (clockTo t s)) :=
  exec_beaconReceive t beacon (takeBeacon_deferred role awake deferred)

theorem beaconReceive_found (role : s.net.state = .searching) (live : bit (field (f.drop 32) 6 2) 1 = false) :
    ∃ u, exec (.beaconReceive t src f) s = .next u ∧ Counted 0x1230 2 1 s u ∧
      (s.net.beaconMissed = true → u.net.state = .follower ∧ u.net.resync.isSome = true ∧ Counted 0x1230 6 1 s u) ∧
      u.net.beaconMissed = false ∧ BeaconTouches t s u := by
  have run := exec_beaconReceive t beacon (takeBeacon_found role live)
  obtain ⟨-, -, -, -, ended, -, state⟩ := hearBeacon_net (f.drop 32) (clockTo t s)
  refine ⟨_, run, followBeacon_counted _ (clockTo t s), fun missed => ⟨?_, ?_, ?_⟩, ?_,
    beaconTouches_of_unheard (by simp)⟩
  · rw [followBeacon_net]; exact state.trans (if_pos ⟨missed, role⟩)
  · rw [followBeacon_net]; exact hearBeacon_resync (s := clockTo t s) missed _
  · exact followBeacon_resyncs (s := clockTo t s) missed _
  · rw [followBeacon_net]; exact ended

theorem beaconReceive_yields (yields : takeBeacon (f.drop 32) (clockTo t s) =
    yieldRole (beaconEvidence (f.drop 32) (clockTo t s))) :
    ∃ u, exec (.beaconReceive t src f) s = .next u ∧ BeaconYields t s u :=
  ⟨_, exec_beaconReceive t beacon yields, yieldRole_beaconEvidence_yields _ t s⟩

/-- A candidate that is not locked keeps listening. -/
theorem beaconReceive_listens (role : s.net.state = .listen) (unlocked : s.rb.state ≠ .locked) :
    ∃ u, exec (.beaconReceive t src f) s = .next u ∧ u.net.state = .listen ∧ u.rb = s.rb ∧ BeaconTouches t s u := by
  have run := exec_beaconReceive t beacon (takeBeacon_listener role unlocked)
  refine ⟨_, run, ?_⟩
  split
  · exact ⟨role, rfl, rfl⟩
  · exact ⟨(hearBeacon_state (s := clockTo t s) (ne_of_eq_of_ne role (by decide)) _).trans role, by simp,
      beaconTouches_of_unheard (by simp)⟩

theorem beaconReceive_keepsRole (role : s.net.state = .coordinator) (live : bit (field (f.drop 32) 6 2) 1 = false)
    (higher : Config.eui64 ≤ field (f.drop 32) 8 8) :
    ∃ u, exec (.beaconReceive t src f) s = .next u ∧ u.net.state = .coordinator ∧ u.rb = s.rb ∧ BeaconTouches t s u := by
  have run := exec_beaconReceive t beacon (takeBeacon_higher role live higher)
  exact ⟨_, run, (hearBeacon_state (s := clockTo t s) (ne_of_eq_of_ne role (by decide)) _).trans role, by simp,
    beaconTouches_of_unheard (by simp)⟩

end

/-! ### Missed beacons -/

section
variable (t : Nat) {s : State}

theorem beaconGuardClose_misses (asleep : sleeping (clockTo t s) = true) (awaiting : s.net.awaiting = true)
    (passed : guardOver (clockTo t s) = true) :
    ∃ u, exec (.beaconGuardClose t) s = .next u ∧ u.net.state = .searching ∧ u.net.beaconMissed = true ∧
      u.net.missedInstants = 1 ∧ u.net.searchFrom = s.rb.cycle * 4096 + s.rb.phase ∧ u.net.awaiting = false ∧
      u.kiosk.jopQueue = [] ∧ Counted 0x1230 3 1 s u ∧
      u = { s with
        now := max s.now t, net := u.net, kiosk := { s.kiosk with jopQueue := [], counters := u.kiosk.counters } } :=
  ⟨_, if_pos ⟨asleep, awaiting, passed⟩, rfl, rfl, rfl, rfl, rfl, rfl, (counted_count _).congr rfl rfl, rfl⟩

theorem beaconGuardClose_stands (h : sleeping (clockTo t s) = false ∨ s.net.awaiting = false) :
    exec (.beaconGuardClose t) s = .next (clockTo t s) :=
  if_neg fun ⟨asleep, awaiting, _⟩ => h.elim (ne_false_of_eq_true asleep) (ne_false_of_eq_true awaiting)

theorem searchExpire_loses (role : s.net.state = .searching) (unlost : s.net.beaconLost = false)
    (long : s.net.searchFrom + 16 * 4096 ≤ s.rb.cycle * 4096 + s.rb.phase) :
    ∃ u, exec (.searchExpire t) s = .next u ∧ u.net = { s.net with beaconLost := true } ∧ Noted s u ∧
      u = { s with
        now := max s.now t, net := u.net, contain := u.contain, kiosk := u.kiosk, host := u.host, outbox := u.outbox } := by
  have run : exec (.searchExpire t) s =
      .next (noteRecord 0x1004 utNet 0 ((clockTo t s).modNet fun n => { n with beaconLost := true })) :=
    if_pos ⟨role, unlost, long⟩
  refine ⟨_, run, by simp, (noted_iff _ _).mpr (noteRecord_unnoted _ _ _ _), ?_⟩
  apply State.ext_fields <;> simp

theorem searchExpire_stands (h : s.net.state ≠ .searching ∨ s.net.beaconLost = true) :
    exec (.searchExpire t) s = .next (clockTo t s) :=
  if_neg fun ⟨role, unlost, _⟩ => h.elim (· role) (ne_true_of_eq_false unlost)

theorem backupTakeover_stands
    (h : s.net.state ≠ .follower ∨ objAt s 0x1214 0 ≠ 1 ∨ s.rb.state ≠ .locked ∨ s.net.silent < 4) :
    exec (.backupTakeover t) s = .next (clockTo t s) := by
  refine if_neg fun ⟨role, backup, locked, silent, _⟩ => ?_
  rcases h with other | plain | unlocked | heard
  · exact other role
  · exact plain backup
  · exact unlocked locked
  · exact absurd silent (Nat.not_le.mpr heard)

end

/-- Settles O19: a beacon by what each role makes of it, and each way of missing one by the condition of its command. -/
theorem beaconsFollowed : Obligations.BeaconsFollowed := by
  intro t src f s n now beacon deferred touches yielded
  refine ⟨?_, ?_, ?_, ?_, ?_, ?_, ?_, ?_, ?_, ?_, ?_, ?_, ?_, ?_, ?_⟩
  · exact fun taken role awake live => beaconReceive_follows t taken role live (.inl awake)
  · intro taken role asleep live guard
    obtain ⟨u, run, counted, awaiting, silent, -, -, -, -, phase, frame⟩ :=
      beaconReceive_follows t taken role live (.inr guard)
    exact ⟨u, run, counted, awaiting, silent, phase, frame⟩
  · exact beaconReceive_sleeps t
  · exact beaconReceive_deferred t
  · exact beaconReceive_found t
  · exact fun taken role locked => beaconReceive_yields t taken (takeBeacon_candidate role locked)
  · exact beaconReceive_listens t
  · exact fun taken role => beaconReceive_yields t taken (takeBeacon_claimant role)
  · refine fun taken role => ⟨fun deferred => ?_, fun live lower => ?_, ?_⟩
    · exact exec_beaconReceive t taken (takeBeacon_keepsRole role deferred)
    · exact beaconReceive_yields t taken (takeBeacon_lower role live lower)
    · exact beaconReceive_keepsRole t taken role
  · exact beaconGuardClose_misses t
  · exact beaconGuardClose_stands t
  · exact searchExpire_loses t
  · exact searchExpire_stands t
  · exact fun role backup locked silent past => if_pos ⟨role, backup, locked, silent, past⟩
  · exact backupTakeover_stands t

end Sys2Proof.Machine

namespace Sys2Proof.Machine

/-! ## Status slots, notices and neighbours (R292, R293, R302, R303, R313, R316 to R318, R326, R341) -/

section
variable (t : Nat) {s : State}

/-! ### STATUS_SLOT and STATUS_FRAME_RECEIVE -/

theorem statusSlot_missed (due : s.net.statusDue = true) (passed : statusSlotOver s = true) :
    ∃ u, exec (.statusSlot t true) s = .next u ∧ u.net = { s.net with statusDue := false } ∧ Counted 0x1230 7 1 s u ∧
      u = { s with now := max s.now t, net := u.net, kiosk := { s.kiosk with counters := u.kiosk.counters } } :=
  ⟨_, (if_neg (ne_false_of_eq_true due)).trans ((if_pos rfl).trans (if_pos passed)), rfl,
    (counted_count _).congr rfl rfl, rfl⟩

theorem statusSlot_lasts (due : s.net.statusDue = true) (lasts : statusSlotOver s = false) :
    exec (.statusSlot t true) s = .next (clockTo t s) :=
  (if_neg (ne_false_of_eq_true due)).trans ((if_pos rfl).trans (if_neg (ne_true_of_eq_false lasts)))

theorem statusSlot_sends (due : s.net.statusDue = true) (slot : inStatusSlot s = true)
    (may : netMaySend (clockTo t s) = true) : exec (.statusSlot t false) s = .next { s with
      now := max s.now t, net := { s.net with resync := none, statusDue := false }
      outbox := s.outbox ++ [segmentPacket (slotFrame (clockTo t s))] } := by
  have sends : ¬ (inStatusSlot (clockTo t s) = false ∨ netMaySend (clockTo t s) = false) :=
    fun h => h.elim (ne_false_of_eq_true slot) (ne_false_of_eq_true may)
  exact (if_neg (ne_false_of_eq_true due)).trans ((if_neg Bool.false_ne_true).trans (if_neg sends))

theorem slotFrame_status (noResync : s.net.resync = none) :
    slotFrame s = buildFrame (segmentKey s) 0x11 0 (statusBody s) := by
  simp only [slotFrame, noResync, ftStatus]

theorem slotFrame_resync {r : NetNotice} (waits : s.net.resync = some r) : slotFrame s = noticeFrame s r := by
  simp only [slotFrame, waits]

theorem statusSlot_sendsStatus (due : s.net.statusDue = true) (slot : inStatusSlot s = true)
    (may : netMaySend (clockTo t s) = true) (noResync : s.net.resync = none) :
    ∃ u, exec (.statusSlot t false) s = .next u ∧
      u.outbox = s.outbox ++ [.frame 255 61605 (allNodes * 65536 + 61605)
        (buildFrame (segmentKey s) 0x11 0 (statusBody (clockTo t s)))] ∧
      u = { s with now := max s.now t, net := { s.net with statusDue := false }, outbox := u.outbox } := by
  have run := statusSlot_sends t due slot may
  rw [slotFrame_status (s := clockTo t s) noResync, ← noResync] at run
  exact ⟨_, run, rfl, rfl⟩

theorem statusSlot_sendsResync (due : s.net.statusDue = true) (slot : inStatusSlot s = true)
    (may : netMaySend (clockTo t s) = true) {r : NetNotice} (waits : s.net.resync = some r) :
    ∃ u, exec (.statusSlot t false) s = .next u ∧
      u.outbox = s.outbox ++ [.frame 255 61605 (allNodes * 65536 + 61605) (noticeFrame s r)] ∧
      u = { s with now := max s.now t, net := { s.net with statusDue := false, resync := none }, outbox := u.outbox } := by
  have run := statusSlot_sends t due slot may
  rw [slotFrame_resync (s := clockTo t s) waits] at run
  exact ⟨_, run, rfl, rfl⟩

theorem statusFrameReceive_marks {src : NetSource} {f : List Byte} (reaches : frameReaches (clockTo t s) f = true)
    (source : sourceOk src = true) (header : headerOk f = true) (tag : frameTagRule s f = true) (type : field f 3 1 = 0x11)
    (length : f.length = 48) (role : s.net.state = .coordinator) (listed : field (f.drop 32) 8 1 < 32)
    (unheard : bit s.net.heardNow (field (f.drop 32) 8 1) = false) :
    ∃ u, exec (.statusFrameReceive t src f) s = .next u ∧
      u.net.heardNow = s.net.heardNow + 2 ^ field (f.drop 32) 8 1 ∧
      (bit s.net.membership (field (f.drop 32) 8 1) = true → u.net.membership = s.net.membership) ∧
      (bit s.net.membership (field (f.drop 32) 8 1) = false →
        u.net.membership = s.net.membership + 2 ^ field (f.drop 32) 8 1) ∧
      u = { s with
        now := max s.now t, net := { s.net with heardNow := u.net.heardNow, membership := u.net.membership } } := by
  have received : ¬ (frameReaches (clockTo t s) f = false ∨ sourceOk src = false) :=
    fun h => h.elim (ne_false_of_eq_true reaches) (ne_false_of_eq_true source)
  have passes : ¬ (headerOk f = false ∨ frameTagRule (clockTo t s) f = false) :=
    fun h => h.elim (ne_false_of_eq_true header) (ne_false_of_eq_true tag)
  have status : ¬ (field f 3 1 ≠ ftStatus ∨ f.length ≠ 48 ∨ (clockTo t s).net.state ≠ .coordinator) := by
    simp [type, length, role, ftStatus]
  have fresh : ¬ (32 ≤ field (f.drop 32) 8 1 ∨ bit (clockTo t s).net.heardNow (field (f.drop 32) 8 1) = true) :=
    fun h => h.elim (Nat.not_le.mpr listed) (ne_true_of_eq_false unheard)
  exact ⟨_, (if_neg received).trans ((if_neg passes).trans ((if_neg status).trans (if_neg fresh))), rfl,
    fun present => if_pos present, fun absent => if_neg (ne_true_of_eq_false absent), rfl⟩

/-! ### NOTICE_SEND -/

section
variable (may : netMaySend (clockTo t s) = true) (loud : quietWindow s = false)
include may loud

theorem noticeSend_acts : ¬ (netMaySend (clockTo t s) = false ∨ quietWindow (clockTo t s) = true) :=
  fun h => h.elim (ne_false_of_eq_true may) (ne_true_of_eq_false loud)

/-- The first notice goes out for the first time and is kept for its second. -/
theorem noticeSend_sendsFirst {x : NetNotice} {rest : List NetNotice} (waits : s.net.notices = x :: rest)
    (unsent : x.sentOnce = false) : ∃ u, exec (.noticeSend t) s = .next u ∧
      u.outbox = s.outbox ++ [.frame 255 61605 (allNodes * 65536 + 61605) (noticeFrame s x)] ∧
      u = { s with
        now := max s.now t, net := { s.net with notices := rest ++ [{ x with sentOnce := true }] }, outbox := u.outbox } := by
  have first : splitFirst (fun n : NetNotice => !n.sentOnce) (clockTo t s).net.notices = some (x, rest) := by
    simp [waits, splitFirst, unsent]
  have run : exec (.noticeSend t) s = .next (emit (segmentPacket (noticeFrame s x))
      ((clockTo t s).modNet fun n => { n with notices := rest ++ [{ x with sentOnce := true }] })) := by
    refine (if_neg (noticeSend_acts t may loud)).trans ?_
    rw [first]
    rfl
  exact ⟨_, run, rfl, rfl⟩

/-- A notice that is due again goes out for the last time. -/
theorem noticeSend_sendsAgain {x : NetNotice} (waits : s.net.notices = [x]) (sent : x.sentOnce = true)
    (again : x.again = true) : ∃ u, exec (.noticeSend t) s = .next u ∧
      u.outbox = s.outbox ++ [.frame 255 61605 (allNodes * 65536 + 61605) (noticeFrame s x)] ∧
      u = { s with now := max s.now t, net := { s.net with notices := [] }, outbox := u.outbox } := by
  have first : splitFirst (fun n : NetNotice => !n.sentOnce) (clockTo t s).net.notices = none := by
    simp [waits, splitFirst, sent]
  have second : splitFirst (fun n : NetNotice => n.again) (clockTo t s).net.notices = some (x, []) := by
    simp [waits, splitFirst, again]
  have run : exec (.noticeSend t) s = .next (emit (segmentPacket (noticeFrame s x))
      ((clockTo t s).modNet fun n => { n with notices := [] })) := by
    refine (if_neg (noticeSend_acts t may loud)).trans ?_
    rw [first, second]
    rfl
  exact ⟨_, run, rfl, rfl⟩

theorem noticeSend_sendsHeld {e : Emission} {rest : List Emission} (idle : s.net.notices = [])
    (held : s.net.held = e :: rest) : exec (.noticeSend t) s = .next { s with
      now := max s.now t, net := { s.net with held := rest }, outbox := s.outbox ++ [e] } := by
  have empty (p : NetNotice → Bool) : splitFirst p (clockTo t s).net.notices = none := by simp [idle, splitFirst]
  have held' : (clockTo t s).net.held = e :: rest := held
  refine (if_neg (noticeSend_acts t may loud)).trans ?_
  rw [empty, empty, held']
  rfl

end

theorem noticeSend_waits (h : netMaySend (clockTo t s) = false ∨ quietWindow s = true) :
    exec (.noticeSend t) s = .next (clockTo t s) := if_pos h

/-! ### PLCA_BEACON_CHANGE -/

section
variable {heard : Bool}

theorem plcaBeaconChange_keeps (present : s.life.state ≠ .absent) (role : s.net.state ≠ .coordinator)
    (stays : s.net.state ≠ .listen ∨ heard = false ∨ s.rb.state ≠ .locked) : exec (.plcaBeaconChange t heard) s =
      .next { s with now := max s.now t, net := { s.net with plca := heard } } := by
  have hears : ¬ (s.life.state = .absent ∨ s.net.state = .coordinator) := fun h => h.elim present role
  have candidate : ¬ (heard = true ∧ s.net.state = .listen ∧ s.rb.state = .locked) := by
    rintro ⟨hears, listens, locked⟩
    rcases stays with other | unheard | unlocked
    · exact other listens
    · exact ne_true_of_eq_false unheard hears
    · exact unlocked locked
  exact (if_neg hears).trans (if_neg candidate)

theorem plcaBeaconChange_coordinator (role : s.net.state = .coordinator) :
    exec (.plcaBeaconChange t heard) s = .next (clockTo t s) := if_pos (.inr role)

theorem plcaBeaconChange_yields (present : s.life.state ≠ .absent) (role : s.net.state = .listen)
    (locked : s.rb.state = .locked) : ∃ u, exec (.plcaBeaconChange t true) s = .next u ∧ u.net.plca = true ∧
      u.net.state = .follower ∧ u.net.nodeId = s.net.fallback ∧ u.net.duplicate = true ∧ Noted s u ∧
      u = { s with
        now := max s.now t, net := u.net, contain := u.contain, kiosk := u.kiosk, host := u.host, outbox := u.outbox } := by
  have hears : ¬ (s.life.state = .absent ∨ s.net.state = .coordinator) := by simp [present, role]
  have run : exec (.plcaBeaconChange t true) s =
      .next (yieldRole ((clockTo t s).modNet fun n => { n with plca := true })) :=
    (if_neg hears).trans (if_pos ⟨rfl, role, locked⟩)
  obtain ⟨notices, net⟩ := yieldRole_net ((clockTo t s).modNet fun n => { n with plca := true })
  have noted : Noted s (yieldRole ((clockTo t s).modNet fun n => { n with plca := true })) :=
    (noted_iff _ _).mpr (yieldRole_unnoted _)
  have frame := yieldRole_frame ((clockTo t s).modNet fun n => { n with plca := true })
  refine ⟨_, run, ?_, ?_, ?_, ?_, noted, ?_⟩
  · rw [net]; rfl
  · rw [net]
  · rw [net]; rfl
  · rw [net]
  · rw [frame]; rfl

end

/-! ### ICMPV6_MESSAGE -/

section
variable {src : NetSource} {f : List Byte} (present : s.life.state ≠ .absent) (on : receiverOn (clockTo t s) = true)
  (awake : sleeping (clockTo t s) = false)
include present on awake

theorem icmpv6Message_reaches : ¬ ((clockTo t s).life.state = .absent ∨ receiverOn (clockTo t s) = false ∨
    sleeping (clockTo t s) = true) := by
  simp [present, on, awake]

theorem icmpv6Message_echoes (up : addressUp (clockTo t s) = true) (type : field f 0 1 = 128)
    (may : netMaySend (clockTo t s) = true) (loud : quietWindow s = false)
    (known : tabGet 0 (clientAddress src.client) s.net.neighbours ≠ 0) : exec (.icmpv6Message t src f) s = .next { s with
      now := max s.now t
      outbox := s.outbox ++ [icmpPacket linkLocal (clientAddress src.client) 129 (f.drop 4)] } := by
  have loud' : quietWindow (clockTo t s) = false := loud
  have sent (e : Emission) : sendTo (clientAddress src.client) e (clockTo t s) = emit e (clockTo t s) := by
    simp [sendTo, netEmit, may, loud', known]
  refine (if_neg (icmpv6Message_reaches t present on awake)).trans ((if_pos ⟨type, up⟩).trans ?_)
  exact congrArg Host.Outcome.next (sent _)

/-- Another node claims the tentative address, by an advertisement or by its own detection. -/
theorem icmpv6Message_conflicts (detecting : tentative (clockTo t s) = true) (hops : src.hopLimit = 255)
    (code : field f 1 1 = 0) (length : 24 ≤ f.length) (target : fieldBE f 8 16 = linkLocal)
    (claims : field f 0 1 = 136 ∨ field f 0 1 = 135 ∧ clientAddress src.client = 0) :
    exec (.icmpv6Message t src f) s = .next { s with now := max s.now t, net := { s.net with conflict := true } } := by
  have nd : (decide (src.hopLimit = 255) && decide (field f 1 1 = 0) && decide (24 ≤ f.length)) = true := by
    simp [hops, code, length]
  refine (if_neg (icmpv6Message_reaches t present on awake)).trans ?_
  rcases claims with advertised | ⟨solicited, unspecified⟩
  · have taken : takeAdvertisement f (clockTo t s) = (clockTo t s).modNet fun n => { n with conflict := true } :=
      (if_pos target).trans (if_pos detecting)
    simp only [advertised, nd, taken]
    rfl
  · have taken : takeSolicitation src f (clockTo t s) = (clockTo t s).modNet fun n => { n with conflict := true } :=
      (if_pos detecting).trans (if_pos unspecified)
    simp only [solicited, nd, target, taken]
    rfl

end

end

/-- Settles O20: command by command, by the conditions under which each acts. -/
theorem slotsAndNotices : Obligations.SlotsAndNotices := by
  intro t src f b s present n now sent
  refine ⟨fun due => ⟨?_, ?_, fun slot may => ⟨?_, fun r => ?_⟩⟩, ?_,
    fun may loud => ⟨fun x rest => ?_, fun x => ?_, fun e rest => ?_⟩, ?_, ?_, ?_, ?_, ?_, ?_⟩
  · exact statusSlot_missed t due
  · exact statusSlot_lasts t due
  · exact statusSlot_sendsStatus t due slot may
  · exact statusSlot_sendsResync t due slot may
  · exact statusFrameReceive_marks t
  · exact noticeSend_sendsFirst t may loud
  · exact noticeSend_sendsAgain t may loud
  · exact noticeSend_sendsHeld t may loud
  · exact noticeSend_waits t
  · exact plcaBeaconChange_keeps t present
  · exact plcaBeaconChange_coordinator t
  · exact plcaBeaconChange_yields t present
  · exact fun on awake up type may loud known => icmpv6Message_echoes t present on awake up type may loud known
  · exact fun on awake => icmpv6Message_conflicts t present on awake

end Sys2Proof.Machine

namespace Sys2Proof.Machine

/-! ## Host accesses by register and by BAR2 (R344, R345, R350 to R358, R363, R1149)

### A range with a byte that does not exist, or that lies on a fenced stack (R356) -/

/-- An HBM byte address and its granule exist, or are fenced, together. -/
theorem hbmValid_granule (s : State) {a b : Nat} (same : a / 512 = b / 512) : hbmValid s a = hbmValid s b := by
  have size : (a < hbmSize s) = (b < hbmSize s) := by
    simp only [hbmSize, eq_iff_iff]; omega
  simp only [hbmValid, unitOf, size, same]

/-- A byte of the range outside HBM refuses the whole range. -/
theorem rangeValid_false {s : State} {a n b : Nat} (from_ : a ≤ b) (to_ : b < a + n) (bad : hbmValid s b = false) :
    rangeValid (hbmValid s) a n = false := by
  let i := b / 512 - a / 512
  have inside : i < (a + n - 1) / 512 - a / 512 + 1 := by omega
  have granule : max a (min (512 * (a / 512 + i)) (a + n - 1)) / 512 = b / 512 := by omega
  have nonempty : n ≠ 0 := by omega
  simp only [rangeValid, nonempty, decide_false, Bool.false_or, List.all_eq_false, List.mem_range]
  exact ⟨i, inside, by rw [hbmValid_granule s granule, bad]; simp⟩

/-! ### BAR2 -/

/-- The host reaches HBM through BAR2 at `off`, over `len` bytes. -/
def bar2Reaches (s : State) (off len : Nat) : Bool :=
  bar2Open s && decide (off + len ≤ s.host.windowSize * 2 ^ 30) &&
    rangeValid (hbmValid s) (s.host.windowBase * 2 ^ 30 + off) len

section
variable {off len : Nat} {s : State} (ready : hostReady s = true)
include ready

theorem bar2Access_reads (reaches : bar2Reaches s off len = true)
    (clean : poisoned s.tiers.hbmPoison (s.host.windowBase * 2 ^ 30 + off) len = false) :
    exec (.bar2Access off len none) s = .next { s with
      outbox := s.outbox ++ [.hostRead (memRead s.hbm (s.host.windowBase * 2 ^ 30 + off) len)] } := by
  have unpoisoned : ¬ (bar2Reaches s off len = true ∧
      poisoned s.tiers.hbmPoison (s.host.windowBase * 2 ^ 30 + off) len = true) :=
    fun h => ne_true_of_eq_false clean h.2
  exact (if_neg (ne_false_of_eq_true ready)).trans ((if_neg unpoisoned).trans (if_pos reaches))

theorem bar2Access_poisoned (reaches : bar2Reaches s off len = true)
    (poison : poisoned s.tiers.hbmPoison (s.host.windowBase * 2 ^ 30 + off) len = true) :
    exec (.bar2Access off len none) s = .next { s with
      outbox := s.outbox ++ [.hostPoison len], host := { s.host with aerUncor := s.host.aerUncor ||| 2 ^ 12 } } :=
  (if_neg (ne_false_of_eq_true ready)).trans (if_pos ⟨reaches, poison⟩)

theorem bar2Access_writes {bs : List Byte} (reaches : bar2Reaches s off len = true) (length : bs.length = len) :
    exec (.bar2Access off len (some bs)) s = .next (hbmWrite (s.host.windowBase * 2 ^ 30 + off) bs s) := by
  have whole : bs.take len = bs := by rw [← length, List.take_length]
  refine (if_neg (ne_false_of_eq_true ready)).trans ((if_pos reaches).trans ?_)
  rw [whole]

theorem bar2Access_readsOnes (misses : bar2Reaches s off len = false) :
    exec (.bar2Access off len none) s = .next (emit (.hostRead (List.replicate len 0xFF)) (count 0xA020 3 1 s)) := by
  have missed : ¬ bar2Reaches s off len = true := ne_true_of_eq_false misses
  exact (if_neg (ne_false_of_eq_true ready)).trans ((if_neg fun h => missed h.1).trans (if_neg missed))

theorem bar2Access_discards (bs : List Byte) (misses : bar2Reaches s off len = false) :
    exec (.bar2Access off len (some bs)) s = .next (count 0xA020 3 1 s) :=
  (if_neg (ne_false_of_eq_true ready)).trans (if_neg (ne_true_of_eq_false misses))

theorem bar2Access_missed (bs : List Byte) (misses : bar2Reaches s off len = false) :
    (∃ u, exec (.bar2Access off len none) s = .next u ∧ Counted 0xA020 3 1 s u ∧
      u = { s with
        kiosk := { s.kiosk with counters := u.kiosk.counters }
        outbox := s.outbox ++ [.hostRead (List.replicate len 0xFF)] }) ∧
    (∃ u, exec (.bar2Access off len (some bs)) s = .next u ∧ Counted 0xA020 3 1 s u ∧
      u = { s with kiosk := { s.kiosk with counters := u.kiosk.counters } }) :=
  ⟨⟨_, bar2Access_readsOnes ready misses, counted_count s, rfl⟩,
    _, bar2Access_discards ready bs misses, counted_count s, rfl⟩

end

/-- Settles O55: the range holds a byte that HBM does not serve, so the access is refused whole. -/
theorem bar2BeyondHbm : Obligations.Bar2BeyondHbm := by
  intro off len b bs s ready from_ to_ outside
  have bad : hbmValid s b = false := by
    rcases outside with beyond | fenced
    · simp [hbmValid, Nat.not_lt.mpr beyond]
    · simp [hbmValid, fenced]
  have misses : bar2Reaches s off len = false := by
    rw [bar2Reaches, rangeValid_false from_ to_ bad, Bool.and_false]
  exact bar2Access_missed ready bs misses

/-! ### Writes to BAR0 and BAR4 (R353, R358, R363) -/

theorem registerWrite_bar0 (t off : Nat) (bs : List Byte) {s : State} (ready : hostReady s = true) :
    exec (.registerWrite t off bs false) s = .next (writeWords0 (bs.length + 1) off bs (clockTo t s)) :=
  (if_neg (ne_false_of_eq_true ready)).trans (if_neg Bool.false_ne_true)

theorem registerWrite_bar4 (t off : Nat) (bs : List Byte) {s : State} (ready : hostReady s = true) :
    exec (.registerWrite t off bs true) s = .next (writeDoorbell off bs (clockTo t s)) :=
  (if_neg (ne_false_of_eq_true ready)).trans (if_pos rfl)

theorem registerWrite_unready (t off : Nat) (bs : List Byte) (b : Bool) {s : State} (shut : hostReady s = false) :
    exec (.registerWrite t off bs b) s = .next { s with now := max s.now t } := if_pos shut

theorem writeWord0_queue {q o : Nat} (hq : q < 4096) (ho : o < 64) (bs : List Byte) (s : State) :
    writeWord0 (0x100000 + 64 * q + o) bs s = writeQueueReg q o bs s := by
  have queue : (0x100000 + 64 * q + o - 0x100000) / 64 = q := by omega
  have register : (0x100000 + 64 * q + o - 0x100000) % 64 = o := by omega
  rw [writeWord0, if_neg (by omega), if_neg (by omega), if_neg (by omega), if_neg (by omega), if_pos (by omega), queue,
    register]

theorem writeQueueReg_ignored {q o : Nat} (ho : o < 28) (bs : List Byte) {s : State}
    (enabled : (queueAt s q).state ≠ .disabled) : writeQueueReg q o bs s = s :=
  (if_neg (by omega)).trans (if_pos (.inr enabled))

/-- A write inside the context of a queue that is not DISABLED leaves the state, word by word. -/
theorem writeWords0_ignored {q : Nat} (hq : q < 4096) {s : State} (enabled : (queueAt s q).state ≠ .disabled) (n : Nat)
    {o : Nat} {bs : List Byte} (inside : o + bs.length ≤ 28) : writeWords0 n (0x100000 + 64 * q + o) bs s = s := by
  induction n generalizing o bs with
  | zero => rfl
  | succ n ih =>
    by_cases empty : bs = []
    · exact if_pos empty
    have length : 0 < bs.length := List.length_pos_of_ne_nil empty
    let k := 4 - (0x100000 + 64 * q + o) % 4
    have word : writeWord0 (0x100000 + 64 * q + o) (bs.take k) s = s := by
      rw [writeWord0_queue hq (by omega), writeQueueReg_ignored (by omega) _ enabled]
    have rest : writeWords0 n (0x100000 + 64 * q + o + k) (bs.drop k) s = s := by
      by_cases more : k < bs.length
      · rw [Nat.add_assoc]
        exact ih (by rw [List.length_drop]; omega)
      · rw [List.drop_eq_nil_of_le (Nat.not_lt.mp more)]
        cases n with
        | zero => rfl
        | succ n => exact if_pos rfl
    exact (if_neg empty).trans ((congrArg (writeWords0 n _ _) word).trans rest)

/-- Settles O54: while the endpoint is not ready no register is written; then `writeWords0_ignored`. -/
theorem contextWritesIgnored : Obligations.ContextWritesIgnored := by
  intro t off q bs s inside enabled _
  cases ready : hostReady s with
  | false => exact registerWrite_unready t _ bs false ready
  | true =>
    rw [registerWrite_bar0 t _ bs ready, writeWords0_ignored (s := clockTo t s) q.isLt enabled _ inside]
    rfl

end Sys2Proof.Machine

namespace Sys2Proof.Machine

/-! ### A change of one queue at local time `t` -/

/-- Nothing has changed but one queue and local time. -/
def OnlyQueue (t q : Nat) (s u : State) : Prop :=
  (∀ r, r ≠ q → queueAt u r = queueAt s r) ∧
    u = { s with now := max s.now t, host := { s.host with queues := u.host.queues } }

theorem onlyQueue_modQueue (t q : Nat) (f : Queue → Queue) (s : State) : OnlyQueue t q s (modQueue q f (clockTo t s)) :=
  ⟨fun _ other => queueAt_modQueue_other f (clockTo t s) other, rfl⟩

/-! ### A write of one word -/

/-- No other offset of a doorbell page holds a register. -/
theorem registerWrite_noDoorbell (t q : Nat) (bs : List Byte) {s : State} (ready : hostReady s = true) :
    exec (.registerWrite t (4096 * q + 4) bs true) s =
      .next { s with now := max s.now t } := by
  have place : (4096 * q + 4) % 4096 = 4 := by omega
  simp [registerWrite_bar4 t _ bs ready, writeDoorbell, place, clockTo]

section
variable {bs : List Byte} (length : bs.length = 4)
include length

theorem writeWords0_word {o : Nat} (aligned : o % 4 = 0) (s : State) :
    writeWords0 (bs.length + 1) o bs s = writeWord0 o bs s := by
  have some_ : bs ≠ [] := List.ne_nil_of_length_pos (by omega)
  have whole : bs.length ≤ 4 - o % 4 := by omega
  rw [writeWords0, if_neg some_]
  simp only [List.drop_eq_nil_of_le whole, List.take_of_length_le whole, length, writeWords0, if_true]

theorem regWrite_word (old base : Nat) : regWrite old base 4 base bs = leNat bs := by
  have past : (natLe old 4).drop 4 = [] := List.drop_eq_nil_of_le (length_natLe old 4).le
  simp [regWrite, overlay, length_natLe, length, List.take_of_length_le, past]

theorem registerWrite_word (t : Nat) {o : Nat} (aligned : o % 4 = 0) {s : State} (ready : hostReady s = true) :
    exec (.registerWrite t o bs false) s = .next (writeWord0 o bs (clockTo t s)) := by
  rw [registerWrite_bar0 t o bs ready, writeWords0_word length aligned]

theorem registerWrite_eventMask (t : Nat) {s : State} (ready : hostReady s = true) :
    exec (.registerWrite t 0x24 bs false) s = .next { s with
      now := max s.now t, host := { s.host with eventMask := leNat bs % 32 } } := by
  rw [registerWrite_word length t (by decide) ready, writeWord0, if_neg (by decide), if_pos (by decide)]
  simp only [regWrite_word length]
  rfl

/-- GL_STATUS is read-only. -/
theorem registerWrite_glStatus (t : Nat) {s : State} (ready : hostReady s = true) :
    exec (.registerWrite t 0x04 bs false) s = .next { s with now := max s.now t } := by
  rw [registerWrite_word length t (by decide) ready]
  rfl

theorem registerWrite_mbControl (t : Nat) {s : State} (ready : hostReady s = true) :
    exec (.registerWrite t 0xFF0000 bs false) s = .next (writeMbControl (leNat bs) (clockTo t s)) := by
  rw [registerWrite_word length t (by decide) ready, ← regWrite_word length 0 0]
  rfl

section
variable (t : Nat) {q o : Nat} (hq : q < 4064) (ho : o < 28) (aligned : o % 4 = 0) {s : State} (ready : hostReady s = true)
include hq ho aligned ready

theorem registerWrite_context : exec (.registerWrite t (0x100000 + 64 * q + o) bs false) s =
    .next (writeQueueReg q o bs (clockTo t s)) := by
  rw [registerWrite_word length t (by omega) ready, writeWord0_queue (by omega) (by omega)]

theorem registerWrite_disabled (disabled : (queueAt s q).state = .disabled) :
    ∃ u, exec (.registerWrite t (0x100000 + 64 * q + o) bs false) s = .next u ∧
      queueAt u q = writeContext o bs (queueAt s q) ∧ OnlyQueue t q s u := by
  have open_ : ¬ (4064 ≤ q ∨ (queueAt (clockTo t s) q).state ≠ .disabled) :=
    fun h => h.elim (Nat.not_le.mpr hq) fun h => h disabled
  have writes : writeQueueReg q o bs (clockTo t s) = modQueue q (writeContext o bs) (clockTo t s) :=
    (if_neg (by omega)).trans (if_neg open_)
  exact ⟨_, (registerWrite_context length t hq ho aligned ready).trans (congrArg Host.Outcome.next writes),
    queueAt_modQueue hq _ (clockTo t s), onlyQueue_modQueue t q _ s⟩

theorem registerWrite_enabled (enabled : (queueAt s q).state ≠ .disabled) :
    ∃ u, exec (.registerWrite t (0x100000 + 64 * q + o) bs false) s = .next u ∧
      queueAt u q = queueAt s q ∧ OnlyQueue t q s u :=
  ⟨_, (registerWrite_context length t hq ho aligned ready).trans
    (congrArg Host.Outcome.next (writeQueueReg_ignored (s := clockTo t s) ho bs enabled)), rfl, fun _ _ => rfl, rfl⟩

end

/-! ### The doorbells (R358) -/

section
variable (t : Nat) {q : Nat} (hq : q < 4096) {s : State} (ready : hostReady s = true)
include hq ready

theorem registerWrite_tail : exec (.registerWrite t (4096 * q) bs true) s =
    .next (writeTail q 4 (leNat bs) (clockTo t s)) := by
  have page : 4096 * q / 4096 % 4096 = q := by omega
  have start : 4096 * q % 4096 = 0 := by omega
  simp only [registerWrite_bar4 t _ bs ready, writeDoorbell, page, start, length, Nat.ofNat_pos, if_true]

theorem registerWrite_cplHead : exec (.registerWrite t (4096 * q + 8) bs true) s =
    .next (writeCplHead q (leNat bs) (clockTo t s)) := by
  have page : (4096 * q + 8) / 4096 % 4096 = q := by omega
  have place : (4096 * q + 8) % 4096 = 8 := by omega
  simp [registerWrite_bar4 t _ bs ready, writeDoorbell, page, place, length]

end

end

/-! ### Event causes (R354) -/

theorem bit_eq_testBit (v i : Nat) : bit v i = v.testBit i := by
  rw [bit, Nat.testBit_eq_decide_div_mod_eq]
  rfl

theorem sumTo_flags_lt (p : Nat → Bool) (n : Nat) : sumTo n (fun i => flag (p i) i) < 2 ^ n := by
  induction n with
  | zero => exact Nat.one_pos
  | succ n ih =>
    have more : flag (p n) n ≤ 2 ^ n := by unfold flag; split <;> omega
    rw [sumTo, Nat.pow_succ]
    omega

/-- A sum of flags has the flags as its bits. -/
theorem bit_sumTo_flags (p : Nat → Bool) {n i : Nat} (hi : i < n) : bit (sumTo n fun i => flag (p i) i) i = p i := by
  induction n with
  | zero => omega
  | succ n ih =>
    have low := Nat.testBit_lt_two_pow (sumTo_flags_lt p n)
    rw [bit_eq_testBit] at ih ⊢
    rw [sumTo, Nat.add_comm]
    rcases Nat.lt_or_eq_of_le (Nat.le_of_lt_succ hi) with earlier | rfl
    · cases set : p n with
      | false => rw [flag, if_neg Bool.false_ne_true, Nat.zero_add, ih earlier]
      | true => rw [flag, if_pos rfl, Nat.testBit_two_pow_add_gt earlier, ih earlier]
    · cases set : p i with
      | false => rw [flag, if_neg Bool.false_ne_true, Nat.zero_add, low]
      | true => rw [flag, if_pos rfl, Nat.testBit_two_pow_add_eq, low]; rfl

theorem glEventCauseWrite_clears (v : Half) {s : State} (ready : hostReady s = true) :
    ∃ u, exec (.glEventCauseWrite v) s = .next u ∧
      (∀ i, i < 5 → bit u.host.eventCause i = (bit s.host.eventCause i && !bit v.toNat i)) ∧
      u = { s with host := { s.host with eventCause := u.host.eventCause } } :=
  ⟨_, congrArg Host.Outcome.next (if_pos ready), fun _ hi =>
    bit_sumTo_flags (fun i => bit s.host.eventCause i && !bit v.toNat i) hi, rfl⟩

/-! ### The rest of the block -/

theorem endpointReady_trains (t width rate : Nat) (flit : Bool) {s : State} (training : s.host.trainAt.isSome = true)
    (runs : packageRuns s = true) : exec (.endpointReady t width rate flit) s = .next { s with
      now := max s.now t
      host := { s.host with
        linkUp := flit, ready := flit, flitRequired := !flit, linkWidth := if flit then width else 0
        linkRate := if flit then rate else 0 } } := by
  have trains : ¬ ((clockTo t s).host.trainAt.isNone = true ∨ packageRuns (clockTo t s) = false) :=
    fun h => h.elim (fun h => by simp_all [clockTo]) (ne_false_of_eq_true runs)
  cases flit
  · exact (if_neg trains).trans (if_neg Bool.false_ne_true)
  · exact (if_neg trains).trans (if_pos rfl)

theorem endpointReady_ignored (t width rate : Nat) (flit : Bool) {s : State}
    (idle : s.host.trainAt = none ∨ packageRuns s = false) :
    exec (.endpointReady t width rate flit) s = .next { s with now := max s.now t } :=
  if_pos (idle.imp_left fun h => Option.isNone_iff_eq_none.mpr h)

/-- Settles O25: each register by the equation of its write. -/
theorem registersActs : Obligations.RegistersActs := by
  refine ⟨fun t width rate flit s => ?_, fun t off b bs v s shut => ?_, fun t off len v bs q s ready => ?_⟩
  · exact ⟨endpointReady_trains t width rate flit, endpointReady_ignored t width rate flit⟩
  · have window : writeWindowBase v.toNat s = s := if_pos (.inl shut)
    have causes : clearCauses v.toNat s = s := if_neg (ne_true_of_eq_false shut)
    exact ⟨congrArg Host.Outcome.next window, congrArg Host.Outcome.next causes, if_neg (ne_true_of_eq_false shut), if_pos shut,
      if_pos shut, registerWrite_unready t off bs b shut⟩
  refine ⟨fun aligned => ?_, fun skewed => ?_, glEventCauseWrite_clears v ready, if_pos ready,
    fun length => registerWrite_eventMask length t ready, fun length => registerWrite_glStatus length t ready,
    fun length hq => ⟨fun disabled => ?_, fun enabled => ?_⟩, fun length => registerWrite_mbControl length t ready,
    fun length hq => registerWrite_tail length t hq ready, fun length hq => registerWrite_cplHead length t hq ready,
    fun _ _ => registerWrite_noDoorbell t q bs ready, ?_⟩
  · have open_ : ¬ (hostReady s = false ∨ bits v.toNat 8 0 % max 1 s.host.windowSize ≠ 0) :=
      fun h => h.elim (ne_false_of_eq_true ready) fun h => h aligned
    exact congrArg Host.Outcome.next (if_neg open_)
  · exact congrArg Host.Outcome.next (if_pos (.inr skewed))
  · have written {o : Nat} (ho : o < 28) (aligned : o % 4 = 0) :=
      registerWrite_disabled length t hq ho aligned ready disabled
    have config := written (o := 0x10) (by decide) (by decide)
    have slots := written (o := 0x14) (by decide) (by decide)
    have irq := written (o := 0x18) (by decide) (by decide)
    simp only [writeContext, regWrite_word length] at config slots irq
    exact ⟨written (by decide) (by decide), written (by decide) (by decide), config, slots, irq⟩
  · have ignored {o : Nat} (ho : o < 28) (aligned : o % 4 = 0) :=
      registerWrite_enabled length t hq ho aligned ready enabled
    exact ⟨ignored (by decide) (by decide), ignored (by decide) (by decide), ignored (by decide) (by decide),
      ignored (by decide) (by decide), ignored (by decide) (by decide)⟩
  · refine ⟨fun reaches clean => bar2Access_reads ready reaches clean, fun reaches length => ?_, fun misses => ?_,
      fun reaches poison => bar2Access_poisoned ready reaches poison⟩
    · subst length
      exact ⟨_, bar2Access_writes ready reaches rfl, memRead_write _ _ _, fun b outside =>
        memGet_write_outside s.hbm _ b bs outside, rfl⟩
    · obtain ⟨⟨u, reads, counts, frame⟩, writes⟩ := bar2Access_missed ready bs misses
      exact ⟨⟨u, reads, counts, by rw [frame], by rw [frame]; exact fun a => ⟨rfl, rfl, rfl⟩⟩, writes⟩

end Sys2Proof.Machine

namespace Sys2Proof.Machine

/-! ## Queues as they are read after a change

A queue reads as the table has it, but for a FIRMWARE queue before the sled has left TRAINING, which reads DISABLED (R351). -/

/-- A FIRMWARE queue that reads otherwise than DISABLED reads as the table has it. -/
def ReadsPlain (s : State) (q : Nat) : Prop := ¬ (4064 ≤ q ∧ queuesShut s = true)

theorem readsPlain_of_host {q : Nat} (hq : q < 4064) (s : State) : ReadsPlain s q := fun h => by omega

theorem readsPlain_of_state {s : State} {q : Nat} (enabled : (queueAt s q).state ≠ .disabled) : ReadsPlain s q :=
  fun shut => enabled (by simp only [queueAt, if_pos shut])

theorem queueAt_modQueue_plain {s : State} {q : Nat} (plain : ReadsPlain s q) (f : Queue → Queue) :
    queueAt (modQueue q f s) q = f (queueAt s q) := by
  have stands : queueAt s q = tabGet (queueDefault q) q s.host.queues := if_neg plain
  rw [stands]
  exact (if_neg plain).trans (tabGet_put_same _ _ _ _)

/-- A change that leaves the state of a queue reads as it is made, whatever the queue reads as. -/
theorem queueAt_modQueue_stateless (q : Nat) (s : State) {f : Queue → Queue}
    (h : ∀ x, f { x with state := .disabled } = { f x with state := .disabled }) :
    queueAt (modQueue q f s) q = f (queueAt s q) := by
  by_cases shut : 4064 ≤ q ∧ queuesShut s = true
  · have stands : queueAt s q = { tabGet (queueDefault q) q s.host.queues with state := .disabled } := if_pos shut
    rw [stands, h]
    exact (if_pos shut).trans (congrArg (fun x : Queue => { x with state := .disabled }) (tabGet_put_same _ _ _ _))
  · exact queueAt_modQueue_plain shut f

/-- Records and interrupt causes leave the queues. -/
theorem queueAt_of_unnoted {s u : State} (noted : u.unnoted = s.unnoted) (life : u.life = s.life) (r : Nat) :
    queueAt u r = queueAt s r := by
  have queues : u.host.queues = s.host.queues := (congrArg (fun x => x.2.queues) noted :)
  have ready : u.host.ready = s.host.ready := (congrArg (fun x => x.2.ready) noted :)
  have shut : queuesShut u = queuesShut s := by unfold queuesShut; rw [ready, life]
  simp only [queueAt, queues, shut]

@[simp] theorem queueAt_raiseVector (v r : Nat) (s : State) : queueAt (raiseVector v s) r = queueAt s r :=
  queueAt_of_unnoted (raiseVector_unnoted v s) (by simp) r

@[simp] theorem queueAt_glCause (b r : Nat) (s : State) : queueAt (glCause b s) r = queueAt s r :=
  queueAt_of_unnoted (glCause_unnoted b s) (by simp) r

@[simp] theorem queueAt_record (x : LogRecord) (r : Nat) (s : State) : queueAt (record x s) r = queueAt s r :=
  queueAt_of_unnoted (record_unnoted x s) (by simp) r

@[simp] theorem queueAt_count (i a n r : Nat) (s : State) : queueAt (count i a n s) r = queueAt s r := rfl

@[simp] theorem queueAt_writeRing (space a r : Nat) (bs : List Byte) (s : State) :
    queueAt (writeRing space a bs s) r = queueAt s r := by
  simp only [writeRing]; split <;> rfl

/-! ## Writing the records that wait (R370, R385 to R391, R396)

### The signal of a record -/

/-- A queue's count of unsignalled records, and when it began. -/
def Queue.signalled (n since : Nat) (x : Queue) : Queue := { x with irqCount := n, irqSince := since }

/-- Signalling a record moves its queue's count. -/
theorem queueAt_signalRecord (q : Nat) (d : Desc) (s : State) :
    ∃ n since, queueAt (signalRecord q d s) q = (queueAt s q).signalled n since := by
  simp only [signalRecord]
  split
  · exact ⟨_, _, rfl⟩
  split
  · rw [queueAt_raiseVector, queueAt_modQueue_stateless q s fun _ => rfl]
    exact ⟨0, (queueAt s q).irqSince, rfl⟩
  · rw [queueAt_modQueue_stateless q s fun _ => rfl]
    exact ⟨_, _, rfl⟩

theorem queueAt_signalRecord_other {q r : Nat} (d : Desc) (s : State) (other : r ≠ q) :
    queueAt (signalRecord q d s) r = queueAt s r := by
  simp only [signalRecord]
  (repeat' split) <;> simp [queueAt_modQueue_other _ _ other]

/-! ### One record -/

/-- The queue without the descriptor of index `i`; the records in `rest` still wait. -/
def Queue.without (i : Nat) (rest : List Nat) (x : Queue) : Queue :=
  { x with held := rest, flight := x.flight.filter fun y => y.index ≠ i }

/-- Where the next record goes (R386). -/
def Queue.place (x : Queue) : Nat := x.cplBase / 32 * 32 + 32 * x.cplTail

/-- The queue past a record: `last` when it took the ring's last entry, `at_` its address and what stood there. -/
def Queue.recorded (at_ : Nat × List Byte) (last : Bool) (x : Queue) : Queue := { x with
  lastRecord := some at_
  cplTail := if last then 0 else x.cplTail + 1
  phase := if last then !x.phase else x.phase
  cplFree := x.cplFree - 1 }

/-- The record of descriptor `d`, the first that waits, stands in the ring. -/
def recordPlaced (q : Nat) (rest : List Nat) (i : Nat) (d : Desc) (s : State) : State :=
  let x := queueAt s q
  modQueue q (fun y => (y.without i rest).recorded (x.place, readRing s (Queue.space x.cplBase) x.place 32)
    (decide (x.cplTail + 1 = x.entries)))
    (writeRing (Queue.space x.cplBase) x.place (completionBytes q x d) s)

/-- A record that waits, is not lost and finds room is placed, counted for its group and signalled. -/
theorem writeRecord_places {q i : Nat} {rest : List Nat} {d : Desc} {s : State} (held : (queueAt s q).held = i :: rest)
    (found : (queueAt s q).desc i = some d) (still : dropping s = false) (kept : recordLost s (queueAt s q) d = false)
    (room : (queueAt s q).cplFree ≠ 0) : writeRecord q s = signalRecord q d
      (if d.stray.isNone then countCompleted q (recordPlaced q rest i d s) else recordPlaced q rest i d s) := by
  simp only [writeRecord, held, found, still, kept, room, Bool.false_eq_true, if_false]
  rfl

/-- What writing a queue's first waiting record can do: nothing; the record of no descriptor is forgotten; the record is
discarded; or it is placed. -/
theorem writeRecord_cases (q : Nat) (s : State) :
    writeRecord q s = s ∨
    (∃ rest, writeRecord q s = modQueue q (fun x => { x with held := rest }) s) ∨
    (∃ i rest, writeRecord q s = count 0xA020 4 1 (modQueue q (Queue.without i rest) s)) ∨
    ∃ i rest d, writeRecord q s = signalRecord q d
      (if d.stray.isNone then countCompleted q (recordPlaced q rest i d s) else recordPlaced q rest i d s) := by
  cases held : (queueAt s q).held with
  | nil => exact .inl (by simp only [writeRecord, held])
  | cons i rest =>
    cases found : (queueAt s q).desc i with
    | none => exact .inr (.inl ⟨rest, by simp only [writeRecord, held, found]⟩)
    | some d =>
      cases still : dropping s with
      | true => exact .inl (by simp only [writeRecord, held, found, still, if_true])
      | false =>
        cases lost : recordLost s (queueAt s q) d with
        | true =>
          refine .inr (.inr (.inl ⟨i, rest, ?_⟩))
          simp only [writeRecord, held, found, still, lost, Bool.false_eq_true, if_false, if_true]
          rfl
        | false =>
          by_cases full : (queueAt s q).cplFree = 0
          · exact .inl (by simp only [writeRecord, held, found, still, lost, full, Bool.false_eq_true, if_false, if_true])
          · exact .inr (.inr (.inr ⟨i, rest, d, writeRecord_places held found still lost full⟩))

/-! ### What writing records leaves -/

/-- What writing its records leaves of a queue. -/
def Queue.context (x : Queue) : Queue := { x with
  held := [], flight := [], cplTail := 0, phase := true, cplFree := 0, lastRecord := none, irqCount := 0, irqSince := 0 }

theorem Queue.entries_of_context {x y : Queue} (h : y.context = x.context) : y.entries = x.entries :=
  (congrArg Queue.entries h :)

/-- A byte address outside a queue's completion ring. -/
def Queue.OffRing (x : Queue) (a : Nat) : Prop :=
  a < x.cplBase / 32 * 32 ∨ x.cplBase / 32 * 32 + 32 * x.entries ≤ a

theorem Queue.offRing_of_context {x y : Queue} (h : y.context = x.context) {a : Nat} (off : x.OffRing a) : y.OffRing a := by
  have base : y.cplBase = x.cplBase := (congrArg Queue.cplBase h :)
  rwa [Queue.OffRing, base, Queue.entries_of_context h]

/-- Between two states only records of a queue without a group have been written: its context stands, no descriptor has been
added or changed, and every byte off its ring. -/
structure RecordsOnly (q : Nat) (s u : State) : Prop where
  context : (queueAt u q).context = (queueAt s q).context
  flight : ∀ d ∈ (queueAt u q).flight, d ∈ (queueAt s q).flight
  inRing : (queueAt s q).cplTail < (queueAt s q).entries → (queueAt u q).cplTail < (queueAt u q).entries
  memory : (queueAt s q).cplTail < (queueAt s q).entries → ∀ a, (queueAt s q).OffRing a →
    memGet u.hbm a = memGet s.hbm a ∧ memGet u.hostMem a = memGet s.hostMem a

theorem RecordsOnly.refl (q : Nat) (s : State) : RecordsOnly q s s := ⟨rfl, fun _ => id, id, fun _ _ _ => ⟨rfl, rfl⟩⟩

theorem RecordsOnly.trans {q : Nat} {s v u : State} (h : RecordsOnly q s v) (k : RecordsOnly q v u) : RecordsOnly q s u where
  context := k.context.trans h.context
  flight d hd := h.flight d (k.flight d hd)
  inRing tail := k.inRing (h.inRing tail)
  memory tail a off := by
    obtain ⟨hbm, hostMem⟩ := h.memory tail a off
    obtain ⟨hbm', hostMem'⟩ := k.memory (h.inRing tail) a (Queue.offRing_of_context h.context off)
    exact ⟨hbm'.trans hbm, hostMem'.trans hostMem⟩

/-- A change of the queue that no byte of memory sees. -/
theorem RecordsOnly.of_queue {q : Nat} {s u : State} (context : (queueAt u q).context = (queueAt s q).context)
    (flight : ∀ d ∈ (queueAt u q).flight, d ∈ (queueAt s q).flight) (tail : (queueAt u q).cplTail = (queueAt s q).cplTail)
    (hbm : u.hbm = s.hbm) (hostMem : u.hostMem = s.hostMem) : RecordsOnly q s u where
  context := context
  flight := flight
  inRing inside := by rwa [tail, Queue.entries_of_context context]
  memory _ a _ := by rw [hbm, hostMem]; exact ⟨rfl, rfl⟩

theorem recordsOnly_signalRecord (q : Nat) (d : Desc) (s : State) : RecordsOnly q s (signalRecord q d s) := by
  obtain ⟨n, since, queue⟩ := queueAt_signalRecord q d s
  obtain ⟨-, -, hbm, -, hostMem⟩ := signalRecord_kept q d s
  exact .of_queue (by rw [queue]; rfl) (by rw [queue]; exact fun _ => id) (by rw [queue]; rfl) hbm hostMem

theorem length_completionBytes_le (q : Nat) (x : Queue) (d : Desc) : (completionBytes q x d).length ≤ 32 := by
  simp [completionBytes, length_natLe]

theorem memGet_writeRing_outside (space a : Nat) (bs : List Byte) (s : State) {b : Nat} (off : b < a ∨ a + bs.length ≤ b) :
    memGet (writeRing space a bs s).hbm b = memGet s.hbm b ∧
      memGet (writeRing space a bs s).hostMem b = memGet s.hostMem b := by
  simp only [writeRing]
  split
  · exact ⟨rfl, memGet_write_outside s.hostMem a b bs off⟩
  · exact ⟨memGet_write_outside s.hbm a b bs off, rfl⟩

/-- A queue without a group counts no record for one. -/
theorem countCompleted_ungrouped {q : Nat} {s : State} (ungrouped : (queueAt s q).group = 0) :
    countCompleted q s = s := if_pos ungrouped

section
variable {q : Nat} (hq : q < 4064)
include hq

theorem recordsOnly_modQueue (s : State) {f : Queue → Queue} (context : ∀ x, (f x).context = x.context)
    (flight : ∀ x, ∀ d ∈ (f x).flight, d ∈ x.flight) (tail : ∀ x, (f x).cplTail = x.cplTail) :
    RecordsOnly q s (modQueue q f s) := by
  have queue := queueAt_modQueue hq f s
  exact .of_queue (by rw [queue, context]) (by rw [queue]; exact flight _) (by rw [queue, tail]) rfl rfl

theorem queueAt_recordPlaced (rest : List Nat) (i : Nat) (d : Desc) (s : State) :
    queueAt (recordPlaced q rest i d s) q = ((queueAt s q).without i rest).recorded
      ((queueAt s q).place, readRing s (Queue.space (queueAt s q).cplBase) (queueAt s q).place 32)
      (decide ((queueAt s q).cplTail + 1 = (queueAt s q).entries)) := by
  rw [recordPlaced, queueAt_modQueue hq, queueAt_writeRing]

theorem recordsOnly_recordPlaced (rest : List Nat) (i : Nat) (d : Desc) (s : State) :
    RecordsOnly q s (recordPlaced q rest i d s) := by
  have queue := queueAt_recordPlaced hq rest i d s
  refine ⟨by rw [queue]; rfl, by rw [queue]; exact fun _ hd => (List.mem_filter.mp hd).1, fun tail => ?_, fun tail a off => ?_⟩
  · rw [queue]
    show (if decide ((queueAt s q).cplTail + 1 = (queueAt s q).entries) then 0 else (queueAt s q).cplTail + 1) <
      (queueAt s q).entries
    split
    · omega
    · next more => have := of_decide_eq_false (Bool.eq_false_iff.mpr more); omega
  · have bytes := length_completionBytes_le q (queueAt s q) d
    refine memGet_writeRing_outside _ _ _ s ?_
    simp only [Queue.OffRing] at off
    simp only [Queue.place]
    omega

theorem recordsOnly_writeRecord {s : State} (ungrouped : (queueAt s q).group = 0) : RecordsOnly q s (writeRecord q s) := by
  rcases writeRecord_cases q s with same | ⟨rest, forgets⟩ | ⟨i, rest, discards⟩ | ⟨i, rest, d, places⟩
  · rw [same]; exact .refl q s
  · rw [forgets]; exact recordsOnly_modQueue hq s (fun _ => rfl) (fun _ _ => id) fun _ => rfl
  · rw [discards]
    have gone := recordsOnly_modQueue hq s (f := Queue.without i rest) (fun _ => rfl)
      (fun _ _ hd => (List.mem_filter.mp hd).1) fun _ => rfl
    exact gone.trans (.of_queue rfl (fun _ => id) rfl rfl rfl)
  · have placed := recordsOnly_recordPlaced hq rest i d s
    have group : (queueAt (recordPlaced q rest i d s) q).group = 0 := (congrArg Queue.group placed.context :).trans ungrouped
    rw [places, countCompleted_ungrouped group, ite_self]
    exact placed.trans (recordsOnly_signalRecord q d _)

theorem recordsOnly_flushRecords {s : State} (ungrouped : (queueAt s q).group = 0) : RecordsOnly q s (flushRecords q s) := by
  have writes (n : Nat) {v : State} (group : (queueAt v q).group = 0) : RecordsOnly q v (writeRecords q n v) := by
    induction n generalizing v with
    | zero => exact .refl q v
    | succ n ih =>
      have first := recordsOnly_writeRecord hq group
      exact first.trans (ih ((congrArg Queue.group first.context :).trans group))
  exact writes _ ungrouped

end

theorem flushRecords_none {q : Nat} {s : State} (unheld : (queueAt s q).held = []) : flushRecords q s = s := by
  rw [flushRecords, unheld]; rfl

end Sys2Proof.Machine

namespace Sys2Proof.Machine

/-! ## Queues are enabled, disabled and flushed (R351, R352, R359, R362, R364, R365, R374, R386) -/

/-! ### QUEUE_ENABLE -/

section
variable (t : Nat) {q : Fin 4096} {s : State} (ready : hostReady s = true) (low : q.val < 4064)
  (disabled : (queueAt s q.val).state = .disabled)
include ready low disabled

/-- The driver may enable the queue; what follows are the checks of its context. -/
theorem queueEnable_checks : exec (.queueEnable t q) s = .next
    (if queuesReady s = false then modQueue q.val (fun x => { x with cause := 0xA001 }) (clockTo t s)
    else if contextOk (queueAt s q.val) = false then modQueue q.val (fun x => { x with cause := 0xA002 }) (clockTo t s)
    else if 16384 < poolReserved s + (queueAt s q.val).reserve then
      modQueue q.val (fun x => { x with cause := 0xA003 }) (clockTo t s)
    else flushRecords q.val (modQueue q.val freshQueue (clockTo t s))) := by
  have may : ¬ (hostReady (clockTo t s) = false ∨ 4064 ≤ q.val ∨ (queueAt (clockTo t s) q.val).state ≠ .disabled) := by
    rintro (shut | high | enabled)
    · exact ne_false_of_eq_true ready shut
    · omega
    · exact enabled disabled
  exact congrArg Host.Outcome.next (if_neg may)

theorem queueEnable_early (early : queuesReady s = false) : ∃ u, exec (.queueEnable t q) s = .next u ∧
    OnlyQueue t q.val s u ∧ queueAt u q.val = { queueAt s q.val with cause := 0xA001 } := by
  refine ⟨_, queueEnable_checks t ready low disabled, ?_⟩
  rw [if_pos early]
  exact ⟨onlyQueue_modQueue t q.val _ s, queueAt_modQueue low _ (clockTo t s)⟩

theorem queueEnable_badContext (serves : queuesReady s = true) (bad : contextOk (queueAt s q.val) = false) :
    ∃ u, exec (.queueEnable t q) s = .next u ∧
      OnlyQueue t q.val s u ∧ queueAt u q.val = { queueAt s q.val with cause := 0xA002 } := by
  refine ⟨_, queueEnable_checks t ready low disabled, ?_⟩
  rw [if_neg (ne_false_of_eq_true serves), if_pos bad]
  exact ⟨onlyQueue_modQueue t q.val _ s, queueAt_modQueue low _ (clockTo t s)⟩

section
variable (serves : queuesReady s = true) (good : contextOk (queueAt s q.val) = true)
include serves good

theorem queueEnable_noSlots (full : 16384 < poolReserved s + (queueAt s q.val).reserve) :
    ∃ u, exec (.queueEnable t q) s = .next u ∧
      OnlyQueue t q.val s u ∧ queueAt u q.val = { queueAt s q.val with cause := 0xA003 } := by
  refine ⟨_, queueEnable_checks t ready low disabled, ?_⟩
  rw [if_neg (ne_false_of_eq_true serves), if_neg (ne_false_of_eq_true good), if_pos full]
  exact ⟨onlyQueue_modQueue t q.val _ s, queueAt_modQueue low _ (clockTo t s)⟩

theorem queueEnable_fresh (room : poolReserved s + (queueAt s q.val).reserve ≤ 16384)
    (unheld : (queueAt s q.val).held = []) : ∃ u, exec (.queueEnable t q) s = .next u ∧
      OnlyQueue t q.val s u ∧ queueAt u q.val = freshQueue (queueAt s q.val) := by
  have queue : queueAt (modQueue q.val freshQueue (clockTo t s)) q.val = freshQueue (queueAt s q.val) :=
    queueAt_modQueue low _ (clockTo t s)
  refine ⟨_, queueEnable_checks t ready low disabled, ?_⟩
  rw [if_neg (ne_false_of_eq_true serves), if_neg (ne_false_of_eq_true good), if_neg (Nat.not_lt.mpr room),
    flushRecords_none (by rw [queue]; exact unheld)]
  exact ⟨onlyQueue_modQueue t q.val _ s, queue⟩

end

end

/-- A FIRMWARE queue takes no ENABLE. -/
theorem queueEnable_firmware (t : Nat) {q : Fin 4096} {s : State} (firmware : 4064 ≤ q.val) :
    exec (.queueEnable t q) s = .next { s with now := max s.now t } :=
  congrArg Host.Outcome.next (if_pos (.inr (.inl firmware)))

/-! ### QUEUE_FLUSH_DONE -/

section
variable (t : Nat) {q : Fin 4096} {s : State} (flushing : (queueAt s q.val).state = .flushing)
  (empty : (queueAt s q.val).flight = [])
include flushing empty

theorem queueFlushDone_retires : exec (.queueFlushDone t q) s = .next (retireQueue q.val (clockTo t s)) :=
  if_pos ⟨flushing, empty⟩

theorem queueFlushDone_disables (ungrouped : (queueAt s q.val).group = 0) : ∃ u,
    exec (.queueFlushDone t q) s = .next u ∧ OnlyQueue t q.val s u ∧
      queueAt u q.val = { queueAt s q.val with state := .disabled } := by
  have retires : retireQueue q.val (clockTo t s) = modQueue q.val (fun x => { x with state := .disabled }) (clockTo t s) :=
    if_pos ungrouped
  have plain : ReadsPlain (clockTo t s) q.val := readsPlain_of_state (s := s) (by rw [flushing]; decide)
  exact ⟨_, (queueFlushDone_retires t flushing empty).trans (congrArg Host.Outcome.next retires),
    onlyQueue_modQueue t q.val _ s, queueAt_modQueue_plain plain _⟩

theorem queueFlushDone_returns (grouped : (queueAt s q.val).group ≠ 0) (low : q.val < 4064) : ∃ u,
    exec (.queueFlushDone t q) s = .next u ∧ queueAt u q.val = { fetched := (queueAt s q.val).fetched } ∧
      tabGet false ((queueAt s q.val).ringBase / 64 * 64 / 2097152) u.tiers.hbmUsed = false ∧ SameMemories s u ∧
      u.prog = s.prog ∧ u.coll = s.coll ∧ u.tiles = s.tiles := by
  let v := markHbm false [(queueAt s q.val).ringBase / 64 * 64 / pageBytes] (clockTo t s)
  have retires : retireQueue q.val (clockTo t s) = modQueue q.val (fun x => { fetched := x.fetched }) v := if_neg grouped
  have freed : tabGet false ((queueAt s q.val).ringBase / 64 * 64 / 2097152) v.tiers.hbmUsed = false :=
    tabGet_put_same false _ false s.tiers.hbmUsed
  exact ⟨_, (queueFlushDone_retires t flushing empty).trans (congrArg Host.Outcome.next retires), queueAt_modQueue low _ v,
    freed, fun _ => ⟨rfl, rfl, rfl⟩, rfl, rfl, rfl⟩

end

/-! ### Descriptors that have not started end (R365) -/

/-- Fetched and not started. -/
def Desc.unstarted (d : Desc) : Prop := d.state = .fetched ∨ d.state = .gated

/-- What the end of a descriptor leaves of its queue. -/
def Queue.unheld (x : Queue) : Queue := { x with held := [], flight := [] }

/-- The end of a descriptor as its queue sees it. -/
theorem queueAt_endDesc {q : Nat} (hq : q < 4064) (i status cause result : Nat) (s : State) : ∃ cycle phase,
    queueAt (endDesc q i status cause result s) q = (queueAt s q).ends i status cause result cycle phase := by
  have queues (v : State) (h : v.host.queues = s.host.queues) : ∃ cycle phase,
      queueAt (modQueue q (fun x => x.ends i status cause result v.rb.pkgCycle v.rb.pkgPhase) v) q =
        (queueAt s q).ends i status cause result cycle phase :=
    ⟨_, _, by rw [queueAt_modQueue hq, queueAt_of_queues hq h]⟩
  refine queues _ ?_
  (repeat' split) <;> rfl

/-- The end of one descriptor of those that are flushed. -/
def flushOne (q cause : Nat) (d : Desc) (s : State) : State :=
  if d.state = .fetched ∨ d.state = .gated then endDesc q d.index 4 cause 0 s else s

theorem flushUnstarted_eq (q cause : Nat) (s : State) :
    flushUnstarted q cause s = forEach (flushOne q cause) (queueAt s q).flight s := rfl

section
variable {q : Nat} (hq : q < 4064) (cause : Nat)
include hq

/-- Flushing a queue's descriptors leaves the rest of the queue. -/
theorem unheld_flushUnstarted (s : State) : (queueAt (flushUnstarted q cause s) q).unheld = (queueAt s q).unheld := by
  rw [flushUnstarted_eq]
  refine forEach_keeps (fun s => (queueAt s q).unheld) (flushOne q cause) (fun d u => ?_) _ s
  simp only [flushOne]
  split
  · obtain ⟨cycle, phase, queue⟩ := queueAt_endDesc hq d.index 4 cause 0 u
    rw [queue]; rfl
  · rfl

/-- What one end leaves unstarted was so before, and is another descriptor. -/
theorem unstarted_of_flushOne {a d : Desc} {s : State} (waits : d.unstarted)
    (flies : d ∈ (queueAt (flushOne q cause a s) q).flight) : d ∈ (queueAt s q).flight ∧ d ≠ a := by
  by_cases ends : a.state = .fetched ∨ a.state = .gated
  · obtain ⟨cycle, phase, queue⟩ := queueAt_endDesc hq a.index 4 cause 0 s
    rw [flushOne, if_pos ends, queue] at flies
    obtain ⟨e, he, image⟩ := List.mem_map.mp flies
    by_cases same : e.index = a.index
    · rw [if_pos same] at image
      subst image
      simp [Desc.unstarted] at waits
    · rw [if_neg same] at image
      subst image
      exact ⟨he, fun h => same (congrArg Desc.index h)⟩
  · rw [flushOne, if_neg ends] at flies
    exact ⟨flies, fun h => ends (h ▸ waits)⟩

theorem unstarted_of_forEach (xs : List Desc) {s : State} {d : Desc} (waits : d.unstarted)
    (flies : d ∈ (queueAt (forEach (flushOne q cause) xs s) q).flight) : d ∈ (queueAt s q).flight ∧ d ∉ xs := by
  induction xs generalizing s with
  | nil => exact ⟨flies, List.not_mem_nil⟩
  | cons a as ih =>
    obtain ⟨after, rest⟩ := ih flies
    obtain ⟨before, other⟩ := unstarted_of_flushOne hq cause waits after
    exact ⟨before, List.not_mem_cons_of_ne_of_not_mem other rest⟩

/-- A flush leaves no descriptor unstarted. -/
theorem flushUnstarted_started (s : State) {d : Desc} (flies : d ∈ (queueAt (flushUnstarted q cause s) q).flight) :
    ¬ d.unstarted := by
  intro waits
  rw [flushUnstarted_eq] at flies
  obtain ⟨before, after⟩ := unstarted_of_forEach hq cause (queueAt s q).flight waits flies
  exact after before

end

/-- Ending unstarted descriptors writes no memory. -/
theorem flushUnstarted_memories (q cause : Nat) (s : State) : (flushUnstarted q cause s).hbm = s.hbm ∧
    (flushUnstarted q cause s).hostMem = s.hostMem := by
  have kept := forEach_keeps (fun s => (s.hbm, s.hostMem)) (flushOne q cause)
    (fun d u => by simp only [flushOne]; split <;> simp) (queueAt s q).flight s
  rw [flushUnstarted_eq]
  exact ⟨congrArg Prod.fst kept, congrArg Prod.snd kept⟩

/-! ### QUEUE_DISABLE and DOORBELL_CPL_HEAD (R359, R365, R370) -/

/-- Of a write of the driver that lets records be written: the rest of the sled stands, and every byte off the ring. -/
def RingOnly (x : Queue) (s u : State) : Prop :=
  u.cellar = s.cellar ∧ u.tiles = s.tiles ∧ u.prog = s.prog ∧ u.life = s.life ∧ u.contain = s.contain ∧
    ∀ a, a < x.cplBase / 32 * 32 ∨ x.cplBase / 32 * 32 + 32 * x.entries ≤ a →
      memGet u.hbm a = memGet s.hbm a ∧ memGet u.hostMem a = memGet s.hostMem a

/-- What keeps the quiet state and writes only into the ring. -/
theorem RingOnly.of_quiet {x : Queue} {s u : State} (quiet : u.quiet = s.quiet)
    (memory : ∀ a, x.OffRing a → memGet u.hbm a = memGet s.hbm a ∧ memGet u.hostMem a = memGet s.hostMem a) : RingOnly x s u :=
  ⟨(congrArg State.cellar quiet :), (congrArg State.tiles quiet :), (congrArg State.prog quiet :),
    (congrArg State.life quiet :), (congrArg State.contain quiet :), memory⟩

/-- The queue as a CPL_HEAD of `value` leaves it (R370). -/
def Queue.consumed (value : Nat) (x : Queue) : Queue := { x with
  cplHead := value % x.entries
  cplFree := min x.entries (x.cplFree + (value % x.entries + x.entries - x.cplHead) % x.entries) }

theorem writeCplHead_flushes (q value : Nat) {s : State} (ready : hostReady s = true) :
    writeCplHead q value s = flushRecords q (modQueue q (Queue.consumed value) s) := if_neg (ne_false_of_eq_true ready)

section
variable {q : Nat} (hq : q < 4064) {s : State} (ungrouped : (queueAt s q).group = 0)
  (tail : (queueAt s q).cplTail < (queueAt s q).entries)
include hq ungrouped tail

theorem disableQueue_flushes (on : (queueAt s q).state = .enabled ∨ (queueAt s q).state = .error) :
    (queueAt (disableQueue q s) q).state = .flushing ∧ RingOnly (queueAt s q) s (disableQueue q s) ∧
      ∀ d ∈ (queueAt (disableQueue q s) q).flight, ¬ d.unstarted := by
  let v := modQueue q (fun x => { x with state := .flushing })
    { s with junc := { s.junc with order := s.junc.order.filter fun y => decide (y.queue ≠ q) || layerRuns s y } }
  let w := flushUnstarted q 0 v
  have disables : disableQueue q s = flushRecords q w := if_pos on
  have ended : (queueAt w q).unheld = { (queueAt s q).unheld with state := .flushing } := by
    rw [unheld_flushUnstarted hq, queueAt_modQueue hq]; rfl
  have sameGroup : (queueAt w q).group = (queueAt s q).group := (congrArg Queue.group ended :)
  have sameTail : (queueAt w q).cplTail = (queueAt s q).cplTail := (congrArg Queue.cplTail ended :)
  have sameBase : (queueAt w q).cplBase = (queueAt s q).cplBase := (congrArg Queue.cplBase ended :)
  have sameEntries : (queueAt w q).entries = (queueAt s q).entries := (congrArg Queue.entries ended :)
  have flushes : (queueAt w q).state = .flushing := (congrArg Queue.state ended :)
  have written := recordsOnly_flushRecords hq (sameGroup.trans ungrouped)
  obtain ⟨hbm, hostMem⟩ := flushUnstarted_memories q 0 v
  have quiet := disableQueue_quiet q s
  rw [disables] at quiet ⊢
  refine ⟨(congrArg Queue.state written.context :).trans flushes, .of_quiet quiet fun a off => ?_,
    fun d hd => flushUnstarted_started hq 0 v (written.flight d hd)⟩
  have bytes := written.memory (by rwa [sameTail, sameEntries]) a (by rwa [Queue.OffRing, sameBase, sameEntries])
  rwa [hbm, hostMem] at bytes

/-- CPL_HEAD frees entries; then what waited is written. -/
theorem writeCplHead_frees (value : Nat) (ready : hostReady s = true) :
    (queueAt (writeCplHead q value s) q).cplHead = value % (queueAt s q).entries ∧
      RingOnly (queueAt s q) s (writeCplHead q value s) ∧
      (queueAt (writeCplHead q value s) q).state = (queueAt s q).state := by
  let v := modQueue q (Queue.consumed value) s
  have queue : queueAt v q = (queueAt s q).consumed value := queueAt_modQueue hq _ s
  have written := recordsOnly_flushRecords (s := v) hq (by rw [queue]; exact ungrouped)
  have quiet : (flushRecords q v).quiet = s.quiet := (flushRecords_quiet q v).trans (modQueue_quiet q _ s)
  rw [writeCplHead_flushes q value ready]
  refine ⟨(congrArg Queue.cplHead written.context :).trans (by rw [queue]; rfl), .of_quiet quiet fun a off => ?_,
    (congrArg Queue.state written.context :).trans (by rw [queue]; rfl)⟩
  exact written.memory (by rw [queue]; exact tail) a (by rw [queue]; exact off)

end

theorem writeCplHead_unheld (t value : Nat) {q : Nat} (hq : q < 4064) {s : State} (ready : hostReady s = true)
    (unheld : (queueAt s q).held = []) :
    (queueAt (writeCplHead q value (clockTo t s)) q).cplFree = ((queueAt s q).consumed value).cplFree ∧
    writeCplHead q value (clockTo t s) = { s with
      now := max s.now t, host := { s.host with queues := (writeCplHead q value (clockTo t s)).host.queues } } := by
  have queue : queueAt (modQueue q (Queue.consumed value) (clockTo t s)) q = (queueAt s q).consumed value :=
    queueAt_modQueue hq _ (clockTo t s)
  have frees : writeCplHead q value (clockTo t s) = modQueue q (Queue.consumed value) (clockTo t s) :=
    (writeCplHead_flushes q value (s := clockTo t s) ready).trans (flushRecords_none (by rw [queue]; exact unheld))
  rw [frees]
  exact ⟨by rw [queue], rfl⟩

/-- Settles O21: an ENABLE check by check, a flushed queue by `retireQueue`, and the two writes of the driver by
`recordsOnly_flushRecords`, which says what writing records leaves. -/
theorem queuesOnAndOff : Obligations.QueuesOnAndOff := by
  refine ⟨fun t q s => ⟨fun ready low disabled => ⟨?_, ?_, ?_, ?_⟩, queueEnable_firmware t, ?_, ?_⟩,
    fun t v q s ready low ungrouped tail => ⟨fun on => ?_, ?_⟩⟩
  · exact queueEnable_early t ready low disabled
  · exact queueEnable_badContext t ready low disabled
  · exact queueEnable_noSlots t ready low disabled
  · exact queueEnable_fresh t ready low disabled
  · exact queueFlushDone_disables t
  · exact fun flushing empty grouped low => queueFlushDone_returns t flushing empty grouped low
  · have disables : exec (.queueDisable t q) s = .next (disableQueue q.val (clockTo t s)) := by
      have may : ¬ (hostReady (clockTo t s) = false ∨ 4064 ≤ q.val) :=
        fun h => h.elim (ne_false_of_eq_true ready) (Nat.not_le.mpr low)
      exact congrArg Host.Outcome.next (if_neg may)
    obtain ⟨flushing, ring, started⟩ := disableQueue_flushes (s := clockTo t s) low ungrouped tail on
    exact ⟨_, disables, flushing, ring, fun d hd => not_or.mp (started d hd)⟩
  · obtain ⟨head, ring, state⟩ := writeCplHead_frees (s := clockTo t s) low ungrouped tail v ready
    exact ⟨_, rfl, head, ring, state, writeCplHead_unheld t v low ready⟩

end Sys2Proof.Machine

namespace Sys2Proof.Machine

/-! ## Queues take work and fail (R367, R368, R372, R375, R390, R400, R401) -/

/-! ### DOORBELL_TAIL and DESCRIPTOR_FETCH -/

section
variable (t : Nat) {q : Fin 4096} {s : State}

theorem doorbellTail_moves {value : Nat} (ready : hostReady s = true) (low : q.val < 4064)
    (enabled : (queueAt s q.val).state = .enabled) (inside : value < (queueAt s q.val).entries) :
    ∃ u, exec (.doorbellTail t q 4 value) s = .next u ∧ OnlyQueue t q.val s u ∧
      queueAt u q.val = { queueAt s q.val with tail := value } := by
  have taken : ¬ (4 ≠ 4 ∨ (queueAt s q.val).state ≠ .enabled ∨ (queueAt s q.val).entries ≤ value) := by
    rintro (width | off | beyond)
    · exact width rfl
    · exact off enabled
    · omega
  exact ⟨_, congrArg Host.Outcome.next ((if_neg (ne_false_of_eq_true ready)).trans (if_neg taken)), onlyQueue_modQueue t q.val _ s,
    queueAt_modQueue low _ (clockTo t s)⟩

theorem doorbellTail_discarded {bytes value : Nat} (ready : hostReady s = true)
    (bad : bytes ≠ 4 ∨ (queueAt s q.val).state ≠ .enabled ∨ (queueAt s q.val).entries ≤ value) :
    ∃ u, exec (.doorbellTail t q bytes value) s = .next u ∧ Counted 0xA020 1 1 s u ∧
      u = { s with now := max s.now t, kiosk := { s.kiosk with counters := u.kiosk.counters } } :=
  ⟨_, congrArg Host.Outcome.next ((if_neg (ne_false_of_eq_true ready)).trans (if_pos bad)),
    (counted_count (clockTo t s)).congr rfl rfl, rfl⟩

section
variable (enabled : (queueAt s q.val).state = .enabled) (more : (queueAt s q.val).head ≠ (queueAt s q.val).tail)
  (still : dropping s = false) (runs : packageRuns s = true) (ungrouped : (queueAt s q.val).group = 0)
include enabled more still runs

theorem fetchNext_proceeds : ¬ ((queueAt s q.val).state ≠ .enabled ∨ (queueAt s q.val).head = (queueAt s q.val).tail ∨
    dropping s = true ∨ packageRuns s = false) := by
  simp [enabled, more, still, runs]

include ungrouped

/-- A queue without a group enters no collective, and none is judged. -/
theorem descriptorFetch_takes (room : freeSlot s (queueAt s q.val) = true) :
    ∃ u, exec (.descriptorFetch t q) s = .next u ∧ OnlyQueue t q.val s u ∧ queueAt u q.val = { queueAt s q.val with
      head := ((queueAt s q.val).head + 1) % (queueAt s q.val).entries, fetched := (queueAt s q.val).fetched + 1
      stalled := false
      flight := (queueAt s q.val).flight ++ [{
        index := (queueAt s q.val).fetched
        data := readRing s (Queue.space (queueAt s q.val).ringBase)
          ((queueAt s q.val).ringBase / 64 * 64 + 64 * (queueAt s q.val).head) 64 }] } := by
  have proceeds := fetchNext_proceeds (q := q) (s := clockTo t s) enabled more still runs
  have room' : freeSlot (clockTo t s) (queueAt (clockTo t s) q.val) = true := room
  have plain : ReadsPlain (clockTo t s) q.val := readsPlain_of_state (s := s) (by rw [enabled]; decide)
  let taken (x : Queue) : Queue := { x with
    head := (x.head + 1) % x.entries, fetched := x.fetched + 1, stalled := false
    flight := x.flight ++ [{
      index := x.fetched
      data := readRing s (Queue.space (queueAt s q.val).ringBase)
        ((queueAt s q.val).ringBase / 64 * 64 + 64 * (queueAt s q.val).head) 64 }] }
  have queue : queueAt (modQueue q.val taken (clockTo t s)) q.val = taken (queueAt s q.val) :=
    queueAt_modQueue_plain plain taken
  have group : (queueAt (modQueue q.val taken (clockTo t s)) q.val).group = 0 := by rw [queue]; exact ungrouped
  have fetches : fetchNext q.val (clockTo t s) = modQueue q.val taken (clockTo t s) := by
    simp only [fetchNext, if_neg proceeds, room']
    exact if_pos group
  have judges : execDescriptorFetch t q s = .next (modQueue q.val taken (clockTo t s)) := by
    simp only [execDescriptorFetch, fetches]
    exact congrArg Host.Outcome.next (if_pos group)
  exact ⟨_, judges, onlyQueue_modQueue t q.val _ s, queue⟩

theorem descriptorFetch_stalls (full : freeSlot s (queueAt s q.val) = false) (first : (queueAt s q.val).stalled = false) :
    ∃ u, exec (.descriptorFetch t q) s = .next u ∧ Counted 0xA020 6 1 s u ∧
      queueAt u q.val = { queueAt s q.val with stalled := true } ∧ (∀ r, r ≠ q.val → queueAt u r = queueAt s r) := by
  have proceeds := fetchNext_proceeds (q := q) (s := clockTo t s) enabled more still runs
  have full' : freeSlot (clockTo t s) (queueAt (clockTo t s) q.val) = false := full
  have first' : (queueAt (clockTo t s) q.val).stalled = false := first
  have plain : ReadsPlain (clockTo t s) q.val := readsPlain_of_state (s := s) (by rw [enabled]; decide)
  let v := modQueue q.val (fun x => { x with stalled := true }) (clockTo t s)
  have queue : queueAt v q.val = { queueAt s q.val with stalled := true } := queueAt_modQueue_plain plain _
  have group : (queueAt (count 0xA020 6 1 v) q.val).group = 0 := by rw [queueAt_count, queue]; exact ungrouped
  have fetches : fetchNext q.val (clockTo t s) = count 0xA020 6 1 v := by
    simp only [fetchNext, if_neg proceeds, full', first', Bool.false_eq_true, if_false]
    rfl
  have judges : execDescriptorFetch t q s = .next (count 0xA020 6 1 v) := by
    simp only [execDescriptorFetch, fetches]
    exact congrArg Host.Outcome.next (if_pos group)
  refine ⟨_, judges, (counted_count v).congr rfl rfl, queue, fun r other => ?_⟩
  rw [queueAt_count]
  exact queueAt_modQueue_other _ (clockTo t s) other

end

/-! ### IRQ_DELAY_EXPIRE -/

/-- An unmasked vector leaves as a message. -/
theorem raiseVector_sends {v : Nat} {s : State} (still : dropping s = false)
    (unmasked : (msixByte s (16 * v + 12)).toNat % 2 = 0) : raiseVector v s = emit (.msi v) s :=
  (if_neg (ne_true_of_eq_false still)).trans (if_neg (by omega))

theorem irqDelayExpire_sends (on : (queueAt s q.val).irqOn = true) (counts : 0 < (queueAt s q.val).irqCount)
    (passed : (queueAt s q.val).irqSince + (queueAt s q.val).delayNs ≤ max s.now t) (still : dropping s = false)
    (unmasked : (msixByte s (16 * (queueAt s q.val).vector + 12)).toNat % 2 = 0) :
    ∃ u, exec (.irqDelayExpire t q) s = .next u ∧ u.outbox = s.outbox ++ [.msi (queueAt s q.val).vector] ∧
      queueAt u q.val = { queueAt s q.val with irqCount := 0 } ∧
      u = { s with now := max s.now t, host := { s.host with queues := u.host.queues }, outbox := u.outbox } := by
  let v := modQueue q.val (fun x => { x with irqCount := 0 }) (clockTo t s)
  have sends : raiseVector (queueAt s q.val).vector v = emit (.msi (queueAt s q.val).vector) v :=
    raiseVector_sends (s := v) still unmasked
  have expires : exec (.irqDelayExpire t q) s = .next (raiseVector (queueAt s q.val).vector v) := if_pos ⟨on, counts, passed⟩
  have queue : queueAt v q.val = { queueAt s q.val with irqCount := 0 } :=
    queueAt_modQueue_stateless q.val (clockTo t s) (f := fun x => { x with irqCount := 0 }) fun _ => rfl
  exact ⟨_, expires.trans (congrArg Host.Outcome.next sends), rfl, queue, rfl⟩

end

/-! ### QUEUE_FAULT -/

theorem SameMemories.trans {s v u : State} (h : SameMemories s v) (k : SameMemories v u) : SameMemories s u := fun a =>
  have ⟨hbm, cellar, hostMem⟩ := h a
  have ⟨hbm', cellar', hostMem'⟩ := k a
  ⟨hbm'.trans hbm, cellar'.trans cellar, hostMem'.trans hostMem⟩

theorem SameWork.trans {s v u : State} (h : SameWork s v) (k : SameWork v u) : SameWork s u :=
  have ⟨tiles, prog, tiers, junc, coll, fab⟩ := h
  have ⟨tiles', prog', tiers', junc', coll', fab'⟩ := k
  ⟨tiles'.trans tiles, prog'.trans prog, tiers'.trans tiers, junc'.trans junc, coll'.trans coll, fab'.trans fab⟩

theorem raiseVector_eventCause (v : Nat) (s : State) : (raiseVector v s).host.eventCause = s.host.eventCause := by
  simp only [raiseVector]; (repeat' split) <;> rfl

/-- A cause that arises while the package runs stands in GL_EVENT_CAUSE. -/
theorem glCause_sets (b : Nat) {s : State} (runs : packageRuns s = true) : bit (glCause b s).host.eventCause b = true := by
  have stopped : ¬ (!packageRuns s) = true := by simp [runs]
  rw [glCause, if_neg stopped]
  cases set : bit s.host.eventCause b with
  | true => exact set
  | false =>
    have sets : bit (s.host.eventCause + 2 ^ b) b = true := by
      rw [bit_eq_testBit] at set ⊢
      rw [Nat.add_comm, Nat.testBit_two_pow_add_eq, set]; rfl
    rw [if_neg Bool.false_ne_true]
    dsimp only
    split
    · exact sets
    · rw [raiseVector_eventCause]; exact sets

/-- A queue goes to ERROR with its cause, a record and the error cause bit (R400). -/
def faultRaised (q cause : Nat) (s : State) : State :=
  glCause 2 (record { cause := cause, cls := 2, unitType := utQueue, unit := q, queue := q }
    (modQueue q (fun x => { x with state := .error, cause := cause }) s))

section
variable {q : Nat} (cause : Nat) (s : State)

theorem queueAt_faultRaised (plain : ReadsPlain s q) :
    queueAt (faultRaised q cause s) q = { queueAt s q with state := .error, cause := cause } := by
  rw [faultRaised, queueAt_glCause, queueAt_record, queueAt_modQueue_plain plain]

theorem queueAt_faultRaised_other {r : Nat} (other : r ≠ q) : queueAt (faultRaised q cause s) r = queueAt s r := by
  rw [faultRaised, queueAt_glCause, queueAt_record, queueAt_modQueue_other _ _ other]

theorem faultRaised_frame : (faultRaised q cause s).life = s.life ∧ (faultRaised q cause s).prog = s.prog ∧
    SameMemories s (faultRaised q cause s) ∧ SameWork s (faultRaised q cause s) := by
  simp [faultRaised, SameMemories, SameWork, modQueue]

theorem faultRaised_sets (runs : packageRuns s = true) : bit (faultRaised q cause s).host.eventCause 2 = true := by
  refine glCause_sets 2 ?_
  have life : (record { cause := cause, cls := 2, unitType := utQueue, unit := q, queue := q }
      (modQueue q (fun x => { x with state := .error, cause := cause }) s)).life = s.life := by simp [modQueue]
  rwa [packageRuns, life]

/-- The records' own counters are others. -/
theorem counterAt_faultRaised : counterAt (faultRaised q cause s) 0xA020 4 = counterAt s 0xA020 4 := by
  have raised (v : State) : counterAt (glCause 2 v) 0xA020 4 = counterAt v 0xA020 4 := by simp [counterAt]
  rw [faultRaised, raised, counterAt_record_other (by decide) (by decide)]
  rfl

/-- A queue none of whose records wait has only its fault. -/
theorem flushRecords_faultRaised (plain : ReadsPlain s q) (unheld : (queueAt s q).held = []) :
    flushRecords q (faultRaised q cause s) = faultRaised q cause s :=
  flushRecords_none (by rw [queueAt_faultRaised cause s plain]; exact unheld)

end

/-- The ring given up: no record's write can be taken back from it. -/
def Queue.broken (x : Queue) : Queue := { x with cplBroken := true, lastRecord := none }

theorem breakRing_clean {q : Nat} {s : State} (clean : (queueAt s q).lastRecord = none) :
    breakRing q s = modQueue q Queue.broken s := by
  simp only [breakRing, clean]; rfl

theorem breakRing_lost {q : Nat} {s : State} {w : Nat × List Byte} (last : (queueAt s q).lastRecord = some w) :
    breakRing q s = modQueue q Queue.broken
      (count 0xA020 4 1 (writeRing (Queue.space (queueAt s q).cplBase) w.1 w.2 s)) := by
  simp only [breakRing, last]; rfl

/-- A failed record's write gives up the ring, and puts back what stood in the last record's place. -/
theorem breakRing_queues {q : Nat} {s : State} (plain : ReadsPlain s q) : queueAt (breakRing q s) q = (queueAt s q).broken ∧
    (∀ r, r ≠ q → queueAt (breakRing q s) r = queueAt s r) ∧ (breakRing q s).life = s.life ∧ (breakRing q s).prog = s.prog ∧
    (∀ w, (queueAt s q).lastRecord = some w → Counted 0xA020 4 1 s (breakRing q s)) ∧
    ((queueAt s q).lastRecord = none → SameMemories s (breakRing q s) ∧ SameWork s (breakRing q s)) := by
  cases last : (queueAt s q).lastRecord with
  | none =>
    rw [breakRing_clean last]
    exact ⟨queueAt_modQueue_plain plain _, fun r other => queueAt_modQueue_other _ s other, rfl, rfl, nofun,
      fun _ => ⟨fun _ => ⟨rfl, rfl, rfl⟩, rfl, rfl, rfl, rfl, rfl, rfl⟩⟩
  | some w =>
    let v := writeRing (Queue.space (queueAt s q).cplBase) w.1 w.2 s
    have quiet : v.quiet = s.quiet := writeRing_quiet _ _ _ s
    have reads (r : Nat) : queueAt v r = queueAt s r := queueAt_writeRing _ _ r _ s
    have host : v.host = s.host := by simp only [v, writeRing]; split <;> rfl
    have kiosk : v.kiosk = s.kiosk := by simp only [v, writeRing]; split <;> rfl
    have life : v.life = s.life := (congrArg State.life quiet :)
    have plain' : ReadsPlain (count 0xA020 4 1 v) q := by
      show ¬ (4064 ≤ q ∧ queuesShut v = true)
      rwa [queuesShut, host, life]
    rw [breakRing_lost last]
    refine ⟨(queueAt_modQueue_plain plain' _).trans (congrArg Queue.broken (reads q)), fun r other => ?_, life,
      (congrArg State.prog quiet :), fun _ _ => ?_, nofun⟩
    · rw [queueAt_modQueue_other _ _ other, queueAt_count, reads]
    · exact (counted_count v).congr (by rw [kiosk]) rfl

section
variable (t : Nat) {q : Fin 4096} {s : State} (enabled : (queueAt s q.val).state = .enabled) (runs : packageRuns s = true)
include enabled runs

theorem queueFault_raises (fetch : Bool) : exec (.queueFault t q fetch) s = .next (flushRecords q.val
    (faultRaised q.val (if fetch then 0xA004 else 0xA005) (if fetch then clockTo t s else breakRing q.val (clockTo t s)))) := by
  have acts : ¬ ((queueAt (clockTo t s) q.val).state = .disabled ∨ ((queueAt (clockTo t s) q.val).state = .error ∧
      (fetch || (queueAt (clockTo t s) q.val).cplBroken) = true) ∨ packageRuns (clockTo t s) = false) := by
    have enabled' : (queueAt (clockTo t s) q.val).state = .enabled := enabled
    have runs' : packageRuns (clockTo t s) = true := runs
    simp [enabled', runs']
  exact if_neg acts

variable (unheld : (queueAt s q.val).held = [])
include unheld

theorem queueFault_fetch : ∃ u, exec (.queueFault t q true) s = .next u ∧
    queueAt u q.val = { queueAt s q.val with state := .error, cause := 0xA004 } ∧ SameMemories s u ∧ SameWork s u ∧
      bit u.host.eventCause 2 = true ∧ (∀ r, r ≠ q.val → queueAt u r = queueAt s r) ∧ u.life = s.life ∧ u.prog = s.prog := by
  have plain : ReadsPlain (clockTo t s) q.val := readsPlain_of_state (s := s) (by rw [enabled]; decide)
  have raises : exec (.queueFault t q true) s = .next (faultRaised q.val 0xA004 (clockTo t s)) :=
    (queueFault_raises t enabled runs true).trans
      (congrArg Host.Outcome.next (flushRecords_faultRaised 0xA004 (clockTo t s) plain unheld))
  obtain ⟨life, prog, memories, work⟩ := faultRaised_frame (q := q.val) 0xA004 (clockTo t s)
  exact ⟨_, raises, queueAt_faultRaised 0xA004 (clockTo t s) plain, memories, work, faultRaised_sets _ (clockTo t s) runs,
    fun r other => queueAt_faultRaised_other _ (clockTo t s) other, life, prog⟩

theorem queueFault_completion : ∃ u, exec (.queueFault t q false) s = .next u ∧ queueAt u q.val =
      { queueAt s q.val with state := .error, cause := 0xA005, cplBroken := true, lastRecord := none } ∧
    (∀ w, (queueAt s q.val).lastRecord = some w → Counted 0xA020 4 1 s u) ∧
    ((queueAt s q.val).lastRecord = none → SameMemories s u ∧ SameWork s u) ∧
    bit u.host.eventCause 2 = true ∧ (∀ r, r ≠ q.val → queueAt u r = queueAt s r) ∧ u.life = s.life ∧ u.prog = s.prog := by
  let v := breakRing q.val (clockTo t s)
  have plain : ReadsPlain (clockTo t s) q.val := readsPlain_of_state (s := s) (by rw [enabled]; decide)
  obtain ⟨queue, others, life, prog, counted, clean⟩ := breakRing_queues plain
  have plain' : ReadsPlain v q.val := readsPlain_of_state (by rw [queue]; exact (enabled ▸ nofun))
  have unheld' : (queueAt v q.val).held = [] := by rw [queue]; exact unheld
  have runs' : packageRuns v = true := by rw [packageRuns, life]; exact runs
  have raises : exec (.queueFault t q false) s = .next (faultRaised q.val 0xA005 v) :=
    (queueFault_raises t enabled runs false).trans
      (congrArg Host.Outcome.next (flushRecords_faultRaised 0xA005 v plain' unheld'))
  obtain ⟨life', prog', memories, work⟩ := faultRaised_frame (q := q.val) 0xA005 v
  refine ⟨_, raises, (queueAt_faultRaised 0xA005 v plain').trans (by rw [queue]; rfl), fun w last => ?_, fun unwritten => ?_,
    faultRaised_sets _ v runs', fun r other => (queueAt_faultRaised_other _ v other).trans (others r other),
    life'.trans life, prog'.trans prog⟩
  · exact (counterAt_faultRaised 0xA005 v).trans (counted w last)
  · obtain ⟨memories', work'⟩ := clean unwritten
    exact ⟨memories'.trans memories, work'.trans work⟩

end

/-- Settles O22: a doorbell, a fetch and a delay by the conditions under which each acts; a fault by `faultRaised`, after
`breakRing` where a record's write failed. -/
theorem queueTakesWork : Obligations.QueueTakesWork := by
  intro t v b q fetch s x only
  refine ⟨fun ready low => ⟨doorbellTail_moves t ready low, doorbellTail_discarded t ready⟩,
    fun enabled more still runs => ⟨fun room ungrouped => ?_, fun full ungrouped first => ?_⟩, irqDelayExpire_sends t,
    fun enabled runs unheld => ?_⟩
  · exact descriptorFetch_takes t enabled more still runs ungrouped room
  · exact descriptorFetch_stalls t enabled more still runs ungrouped full first
  cases fetch with
  | true =>
    obtain ⟨u, faults, queue, memories, work, rest⟩ := queueFault_fetch t enabled runs unheld
    exact ⟨u, faults, fun _ => queue, nofun, nofun, fun _ => ⟨memories, work⟩, rest⟩
  | false =>
    obtain ⟨u, faults, queue, counted, clean, rest⟩ := queueFault_completion t enabled runs unheld
    exact ⟨u, faults, nofun, fun _ => queue, fun w _ => counted w, fun h => clean (h.resolve_left Bool.false_ne_true), rest⟩

end Sys2Proof.Machine

namespace Sys2Proof.Machine

/-! ## Descriptors run and their records land (R377, R382, R384 to R387, R397)

### The record of a queue's only descriptor -/

/-- A HOST_WORK queue's only descriptor ends ungated, and its HBM ring has room for the record. -/
structure RingTakes (q : Nat) (d : Desc) (s : State) : Prop extends OnlyDesc q d s where
  unheld : (queueAt s q).held = []
  room : 0 < (queueAt s q).cplFree
  hbmRing : Queue.space (queueAt s q).cplBase = 1
  whole : (queueAt s q).cplBroken = false
  data : d.data.length = 64
  ungated : d.gate = none
  still : dropping s = false

theorem RingTakes.congr {q : Nat} {d : Desc} {s u : State} (h : RingTakes q d s) (queues : u.host.queues = s.host.queues)
    (gov : u.gov = s.gov) : RingTakes q d u := by
  have queue : queueAt u q = queueAt s q := queueAt_of_queues h.low queues
  have still : dropping u = false := by rw [dropping, gov]; exact h.still
  exact ⟨⟨h.low, by rw [queue]; exact h.ungrouped, by rw [queue]; exact h.hostClass, by rw [queue]; exact h.alone, h.kept,
    h.plain⟩, by rw [queue]; exact h.unheld, by rw [queue]; exact h.room, by rw [queue]; exact h.hbmRing,
    by rw [queue]; exact h.whole, h.data, h.ungated, still⟩

/-- The descriptor as a successful end fixes it. -/
def Desc.doneAt (d : Desc) (s : State) : Desc := { d with
  state := .ended, status := 0, cause := 0, result := 0, endCycle := s.rb.pkgCycle, endPhase := s.rb.pkgPhase }

/-- Between two states the only descriptor of a queue has ended with success and its record stands at the tail of the ring; of
the rest only the interrupt of the record may have been raised. -/
structure RecordLands (q : Nat) (d : Desc) (s u : State) : Prop where
  bytes : memRead u.hbm (queueAt s q).place 32 = completionBytes q (queueAt s q) (d.doneAt s)
  outside : ∀ b, b < (queueAt s q).place ∨ (queueAt s q).place + 32 ≤ b → memGet u.hbm b = memGet s.hbm b
  cellar : u.cellar = s.cellar
  flight : (queueAt u q).flight = []
  held : (queueAt u q).held = []
  free : (queueAt u q).cplFree = (queueAt s q).cplFree - 1
  tail : (queueAt u q).cplTail =
    if (queueAt s q).cplTail + 1 = (queueAt s q).entries then 0 else (queueAt s q).cplTail + 1
  others : ∀ r, r ≠ q → queueAt u r = queueAt s r
  prog : u.prog = s.prog
  tiles : u.tiles = s.tiles
  rb : u.rb = s.rb
  life : u.life = s.life
  hostMem : u.hostMem = s.hostMem

/-- The end of a descriptor that holds no comparator. -/
theorem endDesc_ungated {q index : Nat} {d : Desc} {s : State} (found : (queueAt s q).desc index = some d)
    (ungated : d.gate = none) (cause result : Nat) : endDesc q index 0 cause result s =
      modQueue q (fun x => x.ends index 0 cause result s.rb.pkgCycle s.rb.pkgPhase) s := by
  simp [endDesc, found, ungated, Queue.ends]

/-- A record in an HBM ring. -/
theorem recordPlaced_hbm {q : Nat} (rest : List Nat) (i : Nat) (e : Desc) {s : State}
    (ring : Queue.space (queueAt s q).cplBase = 1) :
    (recordPlaced q rest i e s).hbm = memWrite s.hbm (queueAt s q).place (completionBytes q (queueAt s q) e) ∧
      (recordPlaced q rest i e s).hostMem = s.hostMem ∧ (recordPlaced q rest i e s).rb = s.rb := by
  simp only [recordPlaced, ring]
  exact ⟨rfl, rfl, rfl⟩

section
variable {q : Nat} {d : Desc} {s : State} (takes : RingTakes q d s)
include takes

/-- The descriptor's end, its record in the ring, and the record's signal. -/
theorem RingTakes.finish_places : ∃ v, queueAt v q = (queueAt s q).holding d.index (d.doneAt s) ∧
    (∀ r, r ≠ q → queueAt v r = queueAt s r) ∧ v.hbm = s.hbm ∧ v.hostMem = s.hostMem ∧ v.rb = s.rb ∧
    finish q d.index 0 0 0 s = signalRecord q (d.doneAt s) (recordPlaced q [] d.index (d.doneAt s) v) := by
  have found : (queueAt s q).desc d.index = some d := by simp [Queue.desc, takes.alone]
  let ended (x : Queue) : Queue := x.ends d.index 0 0 0 s.rb.pkgCycle s.rb.pkgPhase
  let v := modQueue q ended s
  have queue : queueAt v q = (queueAt s q).holding d.index (d.doneAt s) := by
    rw [queueAt_modQueue takes.low]
    simp [ended, Queue.ends, takes.alone, takes.unheld, Queue.holding, Desc.doneAt]
  have found' : (queueAt v q).desc d.index = some (d.doneAt s) := by
    simp [queue, Queue.desc, Queue.holding, Desc.doneAt]
  have stands : recordLost v (queueAt v q) (d.doneAt s) = false := by
    simp [recordLost, queue, Queue.holding, Desc.doneAt, takes.hbmRing, takes.whole, takes.kept]
  have room : (queueAt v q).cplFree ≠ 0 := by rw [queue]; exact Nat.ne_of_gt takes.room
  have one : (queueAt v q).held.length = 1 := by rw [queue]; rfl
  have ungrouped : (queueAt (recordPlaced q [] d.index (d.doneAt s) v) q).group = 0 := by
    rw [queueAt_recordPlaced takes.low, queue]; exact takes.ungrouped
  have places := writeRecord_places (by rw [queue]; rfl) found' takes.still stands room
  rw [countCompleted_ungrouped ungrouped, ite_self] at places
  refine ⟨v, queue, fun r other => queueAt_modQueue_other _ s other, rfl, rfl, rfl, ?_⟩
  rw [finish, endDesc_ungated found takes.ungated, flushRecords, one]
  exact places

theorem RingTakes.finish : RecordLands q d s (finish q d.index 0 0 0 s) := by
  obtain ⟨v, queue, others, hbm, hostMem, rb, places⟩ := takes.finish_places
  let bytes := completionBytes q (queueAt s q) (d.doneAt s)
  let w := recordPlaced q [] d.index (d.doneAt s) v
  have length : bytes.length = 32 := length_completionBytes q _ takes.data
  have ring : Queue.space (queueAt v q).cplBase = 1 := by rw [queue]; exact takes.hbmRing
  obtain ⟨wrote, unwritten, wrb⟩ := recordPlaced_hbm [] d.index (d.doneAt s) ring
  rw [hbm, queue] at wrote
  obtain ⟨n, since, signalled⟩ := queueAt_signalRecord q (d.doneAt s) w
  rw [queueAt_recordPlaced takes.low, queue] at signalled
  obtain ⟨-, -, hbm', -, hostMem'⟩ := signalRecord_kept q (d.doneAt s) w
  have quiet := finish_quiet q d.index 0 0 0 s
  rw [places] at quiet ⊢
  refine ⟨?_, fun b off => ?_, (congrArg State.cellar quiet :), ?_, ?_, ?_, ?_, fun r other => ?_,
    (congrArg State.prog quiet :), (congrArg State.tiles quiet :), (signalRecord_rb _ _ w).trans (wrb.trans rb),
    (congrArg State.life quiet :), hostMem'.trans (unwritten.trans hostMem)⟩
  · have reads := memRead_write s.hbm (queueAt s q).place bytes
    rw [length] at reads
    rw [hbm', wrote]
    exact reads
  · rw [hbm', wrote]
    exact memGet_write_outside s.hbm _ b bytes (by rwa [length])
  · rw [signalled]
    simp [Queue.signalled, Queue.recorded, Queue.without, Queue.holding, Desc.doneAt]
  · rw [signalled]; rfl
  · rw [signalled]; rfl
  · rw [signalled]
    by_cases wraps : (queueAt s q).cplTail + 1 = (queueAt s q).entries
    · exact (if_pos (decide_eq_true wraps)).trans (if_pos wraps).symm
    · exact (if_neg fun h => wraps (of_decide_eq_true h)).trans (if_neg wraps).symm
  · rw [queueAt_signalRecord_other _ w other, ← others r other]
    exact (queueAt_modQueue_other _ _ other).trans (queueAt_writeRing _ _ r _ v)

end

/-! ### NOP and SIGNAL -/

/-- A SIGNAL to host memory that the link reaches writes its value and ends. -/
theorem signal_host {q : Nat} {d : Desc} {s : State} (space : field d.data 24 1 = 0) (aligned : field d.data 8 8 % 8 = 0)
    (up : s.host.linkUp = true) : signal q d s =
      finish q d.index 0 0 0 (hostWrite (field d.data 8 8) (natLe (field d.data 16 8) 8) s) := by
  simp [signal, space, aligned, reachableBytes_host up, spaceWrite]

section
variable (t : Nat) {q : Fin 4096} {d : Desc} {s : State} (runs : packageRuns s = true) (takes : RingTakes q.val d s)
include runs takes

theorem descriptorStart_nop (fetched : d.state = .fetched) (op : field d.data 0 1 = 1) :
    ∃ u, exec (.descriptorStart t q) s = .next u ∧ RecordLands q.val d s u := by
  have starts : exec (.descriptorStart t q) s = .next (finish q.val d.index 0 0 0 (clockTo t s)) := by
    rw [exec_descriptorStart t runs takes.still takes.toOnlyDesc fetched (by simp [op])]
    simp [startHostWork, op]
  have lands := (takes.congr (u := clockTo t s) rfl rfl).finish
  exact ⟨_, starts, { lands with }⟩

theorem descriptorStart_signals (fetched : d.state = .fetched) (op : field d.data 0 1 = 5) (space : field d.data 24 1 = 0)
    (aligned : field d.data 8 8 % 8 = 0) (up : s.host.linkUp = true) :
    ∃ u, exec (.descriptorStart t q) s = .next u ∧
      RecordLands q.val d (hostWrite (field d.data 8 8) (natLe (field d.data 16 8) 8) s) u := by
  let v := hostWrite (field d.data 8 8) (natLe (field d.data 16 8) 8) (clockTo t s)
  have starts : exec (.descriptorStart t q) s = .next (finish q.val d.index 0 0 0 v) := by
    rw [exec_descriptorStart t runs takes.still takes.toOnlyDesc fetched (by simp [op]),
      ← signal_host (s := clockTo t s) space aligned up]
    simp [startHostWork, op]
  have lands := (takes.congr (u := v) rfl rfl).finish
  exact ⟨_, starts, { lands with }⟩

/-! ### WAIT -/

theorem descriptorStart_waits (fetched : d.state = .fetched) (op : field d.data 0 1 = 6)
    (aligned : field d.data 8 8 % 8 = 0) (valid : rangeValid (hbmValid s) (field d.data 8 8) 8 = true)
    (unmet : waitMet s d = false) :
    ∃ u, exec (.descriptorStart t q) s = .next u ∧
      (queueAt u q.val).flight = [{ d with state := .started, polled := max s.now t }] ∧
      u = { s with now := max s.now t, host := { s.host with queues := u.host.queues } } := by
  let v := startDesc q.val d.index (clockTo t s)
  have unmet' : waitMet v d = false := unmet
  have valid' : rangeValid (hbmValid (clockTo t s)) (field d.data 8 8) 8 = true := valid
  have polls : pollWait q.val d v = modDesc q.val d.index (fun d => { d with polled := v.now }) v :=
    if_neg (ne_true_of_eq_false unmet')
  have starts : exec (.descriptorStart t q) s = .next (pollWait q.val d v) := by
    rw [exec_descriptorStart t runs takes.still takes.toOnlyDesc fetched (by simp [op])]
    simp [startHostWork, op, wait, aligned, valid', v]
  have started : (queueAt v q.val).flight = [{ d with state := .started }] :=
    flight_modDesc (s := clockTo t s) takes.low _ takes.alone
  exact ⟨_, starts.trans (congrArg Host.Outcome.next polls),
    flight_modDesc (d := { d with state := .started }) takes.low _ started, rfl⟩

theorem waitPoll_polls (started : d.state = .started) (op : field d.data 0 1 = 6) :
    exec (.waitPoll t q d.index) s = .next (pollWait q.val d (clockTo t s)) := by
  have found : startedDesc (clockTo t s) q.val d.index = some d := by
    have alone : (queueAt (clockTo t s) q.val).flight = [d] := takes.alone
    simp [startedDesc, Queue.desc, alone, started]
  have host : hostWork (queueAt (clockTo t s) q.val) d = true := by
    have cls : (queueAt (clockTo t s) q.val).cls = 0 := takes.hostClass
    have group : (queueAt (clockTo t s) q.val).group = 0 := takes.ungrouped
    simp [hostWork, cls, group]
  have runs' : packageRuns (clockTo t s) = true := runs
  have still' : dropping (clockTo t s) = false := takes.still
  show execWaitPoll t q d.index s = _
  simp [execWaitPoll, found, host, op, runs', still']

theorem waitPoll_completes (started : d.state = .started) (op : field d.data 0 1 = 6) (met : waitMet s d = true) :
    ∃ u, exec (.waitPoll t q d.index) s = .next u ∧ RecordLands q.val d s u := by
  have ends : pollWait q.val d (clockTo t s) = finish q.val d.index 0 0 0 (clockTo t s) := if_pos met
  have lands := (takes.congr (u := clockTo t s) rfl rfl).finish
  exact ⟨_, (waitPoll_polls t runs takes started op).trans (congrArg Host.Outcome.next ends), { lands with }⟩

theorem waitPoll_waits (started : d.state = .started) (op : field d.data 0 1 = 6) (unmet : waitMet s d = false) :
    ∃ u, exec (.waitPoll t q d.index) s = .next u ∧ (queueAt u q.val).flight = [{ d with polled := max s.now t }] ∧
      u = { s with now := max s.now t, host := { s.host with queues := u.host.queues } } := by
  have polls : pollWait q.val d (clockTo t s) = modDesc q.val d.index (fun d => { d with polled := max s.now t })
      (clockTo t s) := if_neg (ne_true_of_eq_false unmet)
  exact ⟨_, (waitPoll_polls t runs takes started op).trans (congrArg Host.Outcome.next polls),
    flight_modDesc (s := clockTo t s) takes.low _ takes.alone, rfl⟩

end

/-- Settles O23: the one descriptor starts by `exec_descriptorStart`, and its end by `RingTakes.finish`. -/
theorem descriptorsRun : Obligations.DescriptorsRun := by
  intro t q d s x a ended recorded runs still low ungrouped hostClass _ alone unheld room hbmRing whole data ungated kept plain
  have takes : RingTakes q.val d s :=
    ⟨⟨low, ungrouped, hostClass, alone, kept, plain⟩, unheld, room, hbmRing, whole, data, ungated, still⟩
  refine ⟨fun fetched op => ?_, fun fetched op space aligned up => ?_, descriptorStart_waits t runs takes,
    fun started op met => ?_, waitPoll_waits t runs takes⟩
  · obtain ⟨u, starts, ⟨bytes, outside, cellar, flight, held, free, tail, others, prog, tiles, rb, life, hostMem⟩⟩ :=
      descriptorStart_nop t runs takes fetched op
    exact ⟨u, starts, ⟨bytes, outside, cellar, flight, held, free, tail, others, prog, tiles, rb, life⟩, hostMem⟩
  · obtain ⟨u, starts, ⟨bytes, outside, cellar, flight, held, free, tail, others, prog, tiles, rb, life, hostMem⟩⟩ :=
      descriptorStart_signals t runs takes fetched op space aligned up
    have wrote := memRead_write s.hostMem (field d.data 8 8) (natLe (field d.data 16 8) 8)
    rw [length_natLe] at wrote
    refine ⟨u, starts, ⟨bytes, outside, cellar, flight, held, free, tail, others, prog, tiles, rb, life⟩, ?_, fun b off => ?_⟩
    · rw [hostMem]; exact wrote
    · rw [hostMem]; exact memGet_write_outside s.hostMem _ b _ (by rwa [length_natLe])
  · obtain ⟨u, polls, lands⟩ := waitPoll_completes t runs takes started op met
    exact ⟨u, polls, lands.bytes, lands.flight, lands.hostMem, lands.outside⟩

end Sys2Proof.Machine

namespace Sys2Proof.Machine

/-! ## Peer memory (R384, R523, R544 to R547)

### PEER_ACCESS -/

/-- The range lies in the lend region, and the sled lends it (R545). -/
def PeerInside (s : State) (offset length : Nat) : Prop :=
  lends s = true ∧ 0 < length ∧ offset + length ≤ lendSize s ∧ rangeValid (hbmValid s) (lendBase s + offset) length = true

theorem not_peerInside_iff (s : State) (offset length : Nat) : ¬ PeerInside s offset length ↔
    lends s = false ∨ length = 0 ∨ lendSize s < offset + length ∨
      rangeValid (hbmValid s) (lendBase s + offset) length = false := by
  simp only [PeerInside, not_and_or, Bool.not_eq_true, Nat.not_lt, Nat.le_zero, Nat.not_le]

/-- A page that no borrower holds goes to the one that asks (R546). -/
def lendTo (borrower : Nat) (lent : Tab Nat) (page : Nat) : Tab Nat :=
  if tabGet 0xFFFF page lent = 0xFFFF then tabPut 0xFFFF page borrower lent else lent

theorem tabGet_lendTo (borrower : Nat) (lent : Tab Nat) (p page : Nat) : tabGet 0xFFFF page (lendTo borrower lent p) =
    if page = p ∧ tabGet 0xFFFF page lent = 0xFFFF then borrower else tabGet 0xFFFF page lent := by
  by_cases same : page = p
  · subst same
    by_cases free : tabGet 0xFFFF page lent = 0xFFFF
    · rw [lendTo, if_pos free, if_pos ⟨rfl, free⟩, tabGet_put_same]
    · rw [lendTo, if_neg free, if_neg fun h => free h.2]
  · rw [if_neg fun h => same h.1, lendTo]
    split
    · exact tabGet_put_other _ _ _ _ _ _ same
    · rfl

/-- Of a list of pages the borrower gets those that are free. -/
theorem tabGet_lendAll (borrower : Nat) (pages : List Nat) (lent : Tab Nat) (page : Nat) :
    tabGet 0xFFFF page (pages.foldl (lendTo borrower) lent) =
      if page ∈ pages ∧ tabGet 0xFFFF page lent = 0xFFFF then borrower else tabGet 0xFFFF page lent := by
  induction pages generalizing lent with
  | nil => simp
  | cons p ps ih =>
    rw [List.foldl_cons, ih, tabGet_lendTo]
    by_cases free : tabGet 0xFFFF page lent = 0xFFFF
    · by_cases same : page = p
      · subst same; simp [free]
      · simp [same]
    · simp [free]

/-- Who holds a page of the lend region; 0xFFFF none. -/
def pageOwner (s : State) (page : Nat) : Nat := tabGet 0xFFFF page s.tiers.lent

/-- The free pages of the range have gone to the borrower, and no other page has changed hands. -/
def PagesGranted (borrower offset length : Nat) (s u : State) : Prop :=
  (∀ page, pageOwner s page ≠ 0xFFFF ∨ page ∉ lendPages offset length ∨ s.life.state = .departReq →
    pageOwner u page = pageOwner s page) ∧
  (∀ page, page ∈ lendPages offset length → pageOwner s page = 0xFFFF → s.life.state ≠ .departReq →
    pageOwner u page = borrower)

theorem grantPages_grants (borrower offset length : Nat) (s : State) :
    PagesGranted borrower offset length s (grantPages borrower offset length s) := by
  by_cases departs : s.life.state = .departReq
  · rw [grantPages, if_pos departs]
    exact ⟨fun _ _ => rfl, fun _ _ _ stays => absurd departs stays⟩
  · have owner (page : Nat) : pageOwner (grantPages borrower offset length s) page =
        if page ∈ lendPages offset length ∧ pageOwner s page = 0xFFFF then borrower else pageOwner s page := by
      rw [grantPages, if_neg departs]
      exact tabGet_lendAll borrower (lendPages offset length) s.tiers.lent page
    refine ⟨fun page held => (owner page).trans (if_neg ?_), fun page asked free _ => (owner page).trans (if_pos ⟨asked, free⟩)⟩
    rintro ⟨asked, free⟩
    rcases held with held | unasked | leaves
    · exact held free
    · exact unasked asked
    · exact departs leaves

/-- Granting touches the owners alone. -/
theorem grantPages_lends (borrower offset length : Nat) (s : State) :
    ∃ lent, grantPages borrower offset length s = { s with tiers := { s.tiers with lent := lent } } := by
  simp only [grantPages]; split
  · exact ⟨s.tiers.lent, rfl⟩
  · exact ⟨_, rfl⟩

theorem padTo_self (bs : List Byte) : padTo bs bs.length = bs := by simp [padTo]

theorem length_padTo (bs : List Byte) (n : Nat) : (padTo bs n).length = n := by simp [padTo]; omega

theorem peerAccess_accepted (t : Nat) {offset length : Nat} {s : State} (inside : PeerInside s offset length) :
    ¬ (lends (clockTo t s) = false ∨ length = 0 ∨ lendSize (clockTo t s) < offset + length ∨
      rangeValid (hbmValid (clockTo t s)) (lendBase (clockTo t s) + offset) length = false) :=
  fun h => (not_peerInside_iff (clockTo t s) offset length).mpr h inside

section
variable (t borrower offset : Nat) {length : Nat} {s : State} (runs : packageRuns s = true) (still : dropping s = false)
include runs still

theorem peerAccess_arrives : ¬ (packageRuns (clockTo t s) = false ∨ dropping (clockTo t s) = true) :=
  fun h => h.elim (ne_false_of_eq_true runs) (ne_true_of_eq_false still)

theorem peerAccess_refused (write : Option (List Byte)) (outside : ¬ PeerInside s offset length) :
    exec (.peerAccess t borrower offset length write) s =
      .next { s with now := max s.now t, outbox := s.outbox ++ [.peerReply borrower 1 []] } :=
  (if_neg (peerAccess_arrives t runs still)).trans (if_pos ((not_peerInside_iff (clockTo t s) offset length).mp outside))

variable (inside : PeerInside s offset length)
include inside

theorem peerAccess_writes {bs : List Byte} (whole : bs.length = length) :
    ∃ u, exec (.peerAccess t borrower offset length (some bs)) s = .next u ∧
      memRead u.hbm (lendBase s + offset) length = bs ∧
      (∀ b, b < lendBase s + offset ∨ lendBase s + offset + length ≤ b → memGet u.hbm b = memGet s.hbm b) ∧
      PagesGranted borrower offset length s u ∧
      u = { s with
        now := max s.now t, hbm := u.hbm, outbox := s.outbox ++ [.peerReply borrower 0 []]
        tiers := { s.tiers with
          lent := u.tiers.lent, hbmPoison := clearPoison (lendBase s + offset) length s.tiers.hbmPoison } } := by
  subst whole
  obtain ⟨lent, lends⟩ := grantPages_lends borrower offset bs.length (clockTo t s)
  have granted := grantPages_grants borrower offset bs.length (clockTo t s)
  rw [lends] at granted
  have writes : exec (.peerAccess t borrower offset bs.length (some bs)) s = .next (emit (.peerReply borrower 0 [])
      (hbmWrite (lendBase s + offset) bs
        { clockTo t s with tiers := { (clockTo t s).tiers with lent := lent } })) := by
    show execPeerAccess t borrower offset bs.length (some bs) s = _
    simp only [execPeerAccess, if_neg (peerAccess_arrives t runs still), if_neg (peerAccess_accepted t inside), lends,
      padTo_self]
    rfl
  exact ⟨_, writes, memRead_write s.hbm _ bs, fun b off => memGet_write_outside s.hbm _ b bs off, granted, rfl⟩

theorem peerAccess_reads : ∃ u, exec (.peerAccess t borrower offset length none) s = .next u ∧
    PagesGranted borrower offset length s u ∧
    u = { s with
      now := max s.now t, tiers := { s.tiers with lent := u.tiers.lent }
      outbox := s.outbox ++ [if poisoned s.tiers.hbmPoison (lendBase s + offset) length then .peerReply borrower 2 []
        else .peerReply borrower 0 (memRead s.hbm (lendBase s + offset) length)] } := by
  obtain ⟨lent, lends⟩ := grantPages_lends borrower offset length (clockTo t s)
  have granted := grantPages_grants borrower offset length (clockTo t s)
  rw [lends] at granted
  have reads : exec (.peerAccess t borrower offset length none) s = .next (emit
      (if poisoned s.tiers.hbmPoison (lendBase s + offset) length then .peerReply borrower 2 []
        else .peerReply borrower 0 (memRead s.hbm (lendBase s + offset) length))
      { clockTo t s with tiers := { (clockTo t s).tiers with lent := lent } }) := by
    show execPeerAccess t borrower offset length none s = _
    simp only [execPeerAccess, if_neg (peerAccess_arrives t runs still), if_neg (peerAccess_accepted t inside), lends]
    rw [apply_ite (fun e => emit e { clockTo t s with tiers := { (clockTo t s).tiers with lent := lent } }),
      apply_ite Host.Outcome.next]
    rfl
  exact ⟨_, reads, granted, rfl⟩

end

/-! ### The end of a program that reads poison (R523, R562) -/

theorem enterLife_prog (l : LifeState) (s : State) : (enterLife l s).prog = s.prog := by simp

theorem substituteAll_prog (s : State) : (substituteAll s).prog = s.prog := by
  refine forEach_keeps State.prog (fun n s => (substitute n s).1) (fun n u => ?_) _ s
  simp only [substitute]
  split
  · rfl
  · exact (congrArg State.prog (regrantAll_quiet _) :)

theorem checkCapability_prog (s : State) : (checkCapability s).prog = s.prog := by
  simp only [checkCapability]; split
  · exact enterLife_prog _ s
  · rfl

/-- A release forgets the program first; the life state and the indices follow. -/
theorem releaseProgram_forgets (p : Program) (s : State) : ∃ v w, v.prog = none ∧
    w = (if v.life.state = .running then enterLife .joined v else v) ∧ releaseProgram p s =
      checkCapability (if numberingGap (substituteAll w) then renumber (substituteAll w) else substituteAll w) :=
  ⟨_, _, rfl, rfl, rfl⟩

/-- A program that has been released runs no more. -/
theorem releaseProgram_prog (p : Program) (s : State) : (releaseProgram p s).prog = none := by
  obtain ⟨v, w, stopped, follows, released⟩ := releaseProgram_forgets p s
  have stopped' : w.prog = none := by
    rw [follows]; split
    · exact (enterLife_prog _ v).trans stopped
    · exact stopped
  rw [released, checkCapability_prog]
  split <;> exact (substituteAll_prog w).trans stopped'

theorem endProgram_prog (p : Program) (status cause : Nat) (s : State) : (endProgram p status cause s).prog = none := by
  simp only [endProgram, releaseProgram_prog]

theorem flushRecords_prog (q : Nat) (s : State) : (flushRecords q s).prog = s.prog :=
  (congrArg State.prog (flushRecords_quiet q s) :)

/-- An abort is the end of the program that runs, after its record and its collectives' ends. -/
theorem abortProgram_ends (cause detail0 detail1 : Nat) {s : State} {p : Program} (program : s.prog = some p) :
    (abortProgram cause detail0 detail1 s).prog = none ∧ ProgramGone s (abortProgram cause detail0 detail1 s) := by
  simp only [abortProgram, program]
  refine ⟨by rw [flushRecords_prog, endProgram_prog],
    (programGone_endProgram p _ _ _).around ?_ (by rw [flushRecords_quiet])⟩
  split <;> simp

/-! ### PEER_RESPONSE -/

@[simp] theorem Tile.chan_setChan (x : Tile) (c : Nat) (f : Channel → Channel) : (x.setChan c f).chan c = f (x.chan c) := by
  by_cases first : c = 0 <;> simp [Tile.chan, Tile.setChan, first]

/-- The access has its answer and is waited for no more. -/
def accessAnswered (t access : Nat) (s : State) : State :=
  (clockTo t s).modLinks fun l => { l with accesses := tabPut none access none l.accesses }

theorem accessAnswered_gone (t access : Nat) (s : State) :
    tabGet none access (accessAnswered t access s).links.accesses = none :=
  tabGet_put_same none access none s.links.accesses

section
variable (t : Nat) {access status : Nat} {data : List Byte} {s : State} (runs : packageRuns s = true)
  (still : dropping s = false) {a : PeerAccess} (waits : tabGet none access s.links.accesses = some a)
include runs still waits

theorem peerResponse_mover {tile chan : Nat} (user : a.user = .mover tile chan) :
    exec (.peerResponse t access status data) s =
      .next (moverAnswer tile chan status a data (accessAnswered t access s)) := by
  have waits' : tabGet none access (clockTo t s).links.accesses = some a := waits
  show execPeerResponse t access status data s = _
  simp only [execPeerResponse, waits', if_neg (peerAccess_arrives t runs still), user]
  rfl

theorem peerResponse_copy {q i : Nat} (user : a.user = .copy q i) :
    exec (.peerResponse t access status data) s =
      .next (copyAnswer q i status a data (accessAnswered t access s)) := by
  have waits' : tabGet none access (clockTo t s).links.accesses = some a := waits
  show execPeerResponse t access status data s = _
  simp only [execPeerResponse, waits', if_neg (peerAccess_arrives t runs still), user]
  rfl

section
variable {tile chan : Nat} {p : Program} (user : a.user = .mover tile chan) (program : s.prog = some p)
  (started : ((tileAt s tile).chan chan).started = true)
include user program started

/-- A served access leaves one fewer to wait for, and a read's bytes with the command. -/
theorem peerResponse_served (more : 1 < ((tileAt s tile).chan chan).waiting) :
    ∃ u, exec (.peerResponse t access 0 data) s = .next u ∧ tabGet none access u.links.accesses = none ∧
      (∀ k, k ≠ access → tabGet none k u.links.accesses = tabGet none k s.links.accesses) ∧
      (∀ m, m ≠ tile → tileAt u m = tileAt s m) ∧
      ((tileAt u tile).chan chan).waiting + 1 = ((tileAt s tile).chan chan).waiting ∧
      (a.write = false → memRead ((tileAt u tile).chan chan).peer (a.sled * 2 ^ 48 + a.offset) a.length =
        padTo data a.length) ∧
      u = { s with now := max s.now t, tiles := u.tiles, links := { s.links with accesses := u.links.accesses } } := by
  let v := accessAnswered t access s
  let took (ch : Channel) : Channel := { ch with
    waiting := ch.waiting - 1
    peer := if a.write then ch.peer else memWrite ch.peer (a.sled * 2 ^ 48 + a.offset) (padTo data a.length) }
  let u := modTile tile (fun x => x.setChan chan took) v
  have channel : (tileAt u tile).chan chan = took ((tileAt s tile).chan chan) := by
    simp only [u, tileAt_modTile_same, Tile.chan_setChan]; rfl
  have waiting : ((tileAt u tile).chan chan).waiting + 1 = ((tileAt s tile).chan chan).waiting := by
    rw [channel]; exact Nat.sub_add_cancel (by omega)
  have answers : moverAnswer tile chan 0 a data v = u := by
    have program' : v.prog = some p := program
    have started' : ¬ ((tileAt v tile).chan chan).started = false := ne_false_of_eq_true started
    have unfinished : ¬ (((tileAt u tile).chan chan).waiting = 0 ∧ ((tileAt u tile).chan chan).moved = false) := by omega
    simp only [moverAnswer, program', if_neg started']
    exact if_neg unfinished
  refine ⟨u, (peerResponse_mover t runs still waits user).trans (congrArg Host.Outcome.next answers),
    accessAnswered_gone t access s, fun k other => tabGet_put_other none none access k none s.links.accesses other,
    fun m other => tileAt_modTile_other _ v other, waiting, fun read => ?_, rfl⟩
  have bytes := memRead_write ((tileAt s tile).chan chan).peer (a.sled * 2 ^ 48 + a.offset) (padTo data a.length)
  rw [length_padTo] at bytes
  simpa only [channel, took, read, Bool.false_eq_true, if_false] using bytes

/-- A poisoned answer ends the program. -/
theorem peerResponse_poisoned : ∃ u, exec (.peerResponse t access 2 data) s = .next u ∧ u.prog = none ∧ u.pins = s.pins ∧
    u.gov = s.gov ∧ u.net = s.net ∧ u.fab = s.fab ∧ u.sweep = s.sweep := by
  let v := accessAnswered t access s
  have program' : v.prog = some p := program
  have started' : ¬ ((tileAt v tile).chan chan).started = false := ne_false_of_eq_true started
  have aborts : moverAnswer tile chan 2 a data v = abortProgram 0x5001 a.offset 3 v := by
    simp only [moverAnswer, program', if_neg started']
    rfl
  obtain ⟨prog, l, frame, -⟩ := abortProgram_ends 0x5001 a.offset 3 program'
  exact ⟨_, (peerResponse_mover t runs still waits user).trans (congrArg Host.Outcome.next aborts), prog,
    (congrArg State.pins frame :), (congrArg State.gov frame :), (congrArg State.net frame :), (congrArg State.fab frame :),
    (congrArg State.sweep frame :)⟩

end

/-- A COPY's write that was served is its progress. -/
theorem peerResponse_written {q i : Nat} {d : Desc} (user : a.user = .copy q i) (found : (queueAt s q).desc i = some d)
    (write : a.write = true) : ∃ u, exec (.peerResponse t access 0 data) s = .next u ∧
      tabGet none access u.links.accesses = none ∧
      u = { s with now := max s.now t, host := u.host, links := { s.links with accesses := u.links.accesses } } := by
  let v := accessAnswered t access s
  have found' : (queueAt v q).desc i = some d := found
  have answers : copyAnswer q i 0 a data v = progress q i a.length 0 v := by
    simp only [copyAnswer, found']
    exact if_pos write
  exact ⟨_, (peerResponse_copy t runs still waits user).trans (congrArg Host.Outcome.next answers),
    accessAnswered_gone t access s, rfl⟩

end

/-- Settles O27: an access by `PeerInside` and by what granting its pages leaves, a response by who waits for it. -/
theorem peerMemory : Obligations.PeerMemory := by
  intro t borrower offset length s runs still
  refine ⟨fun w outside => peerAccess_refused t borrower offset runs still w outside,
    fun bs inside whole => peerAccess_writes t borrower offset runs still inside whole,
    fun inside => peerAccess_reads t borrower offset runs still inside,
    fun access status data => ⟨fun unknown => ?_, fun a tile chan p waits user program started =>
      ⟨fun served more => ?_, fun poison => ?_⟩, fun a q i d waits user found write served => ?_⟩⟩
  · have unknown' : tabGet none access (clockTo t s).links.accesses = none := unknown
    show execPeerResponse t access status data s = _
    simp only [execPeerResponse, unknown']
    rfl
  · subst served
    exact peerResponse_served t runs still waits user program started more
  · subst poison
    exact peerResponse_poisoned t runs still waits user program started
  · subst served
    exact peerResponse_written t runs still waits user found write

end Sys2Proof.Machine

namespace Sys2Proof.Machine

/-! ## Loads, immediates and the flag sets (R502 to R504, R630, R633, R669)

Each of these instructions changes its own tile alone, between its dispatch and the end of its tile's ballast. -/

/-! ### Changes of one tile -/

theorem OneTile.modTile {n t : Nat} {s u : State} (h : OneTile n t s u) (f : Tile → Tile) :
    OneTile n t s (modTile n f u) := by
  obtain ⟨frame, others⟩ := h
  refine ⟨?_, fun m hm => (tileAt_modTile_other f u hm).trans (others m hm)⟩
  rw [frame]; rfl

theorem OneTile.retire {n t : Nat} {s u : State} (h : OneTile n t s u) : OneTile n t s (retire n u) := h.modTile _

theorem OneTile.putRd {n t : Nat} {s u : State} (h : OneTile n t s u) (i : Nat) (v : Word) :
    OneTile n t s (putRd n i v u) := (h.modTile _).retire

theorem dispatchedState_oneTile (t n i : Nat) (s : State) : OneTile n t s (dispatchedState t n i s) :=
  ⟨dispatchedState_frame t n i s, fun _ hm => tileAt_dispatchedState_other t i s hm⟩

@[simp] theorem tileAt_putRd (n i : Nat) (v : Word) (s : State) : tileAt (putRd n i v s) n =
    { (tileAt s n).setS (iRd i) v with pc := ((tileAt s n).pc + 16) % 2 ^ 32 } := by
  simp [putRd, Tile.setS]

@[simp] theorem Tile.sreg_setS_same (r : Nat) (v : Word) (x : Tile) : (x.setS r v).sreg r = v :=
  tabGet_put_same _ _ _ _

theorem Tile.sreg_setS_other {r q : Nat} (v : Word) (x : Tile) (h : q ≠ r) : (x.setS r v).sreg q = x.sreg q :=
  tabGet_put_other _ _ _ _ _ _ h

/-! ### An instruction that changes one tile -/

/-- A tile that has retired its instruction and ended its ballast. -/
def Tile.advanced (x : Tile) : Tile := { x with pc := (x.pc + 16) % 2 ^ 32, burst := 0 }

/-- The tile's work for an instruction that retires with a change of its tile. -/
def changeWork (n : Nat) (f : Nat → Tile → Tile) (_ : Program) (i : Nat) (s : State) : State := retire n (modTile n (f i) s)

theorem tileAt_changeWork (n : Nat) (f : Nat → Tile → Tile) (p : Program) (i : Nat) (s : State) :
    tileAt (changeWork n f p i s) n = { f i (tileAt s n) with pc := ((f i (tileAt s n)).pc + 16) % 2 ^ 32 } := by
  simp [changeWork]

section
variable {t n i op : Nat} {p : Program} {s : State} (hx : Executes s n i) (hp : s.prog = some p) (ho : iOp i = op)
include hx hp ho

/-- An instruction whose work changes its tile alone, and does not park it, does that and ends the tile's ballast. -/
theorem withInstr_oneTile (k : Program → Nat → State → State) {v : State} (hk : k p i (dispatchedState t n i s) = v)
    (only : OneTile n t s v) (awake : (tileAt v n).waits = false) :
    ∃ u, withInstr t n op k s = .next u ∧ OneTile n t s u ∧ tileAt u n = { tileAt v n with burst := 0 } := by
  obtain ⟨frame, others⟩ := only
  obtain ⟨u, runs, others', tile, frame'⟩ := withInstr_finishes hx hp ho k hk awake others
  exact ⟨u, runs, ⟨by rw [frame', frame], others'⟩, tile⟩

/-- An instruction that writes S[RD] retires with that register written, over flag sets that its work may have changed. -/
theorem withInstr_putRd (k : Program → Nat → State → State) {w : State} {v : Word} {flags : Nat}
    (hk : k p i (dispatchedState t n i s) = putRd n i v w) (only : OneTile n t s w)
    (tile : tileAt w n = { (tileAt s n).dispatched i with flags := flags }) :
    ∃ u, withInstr t n op k s = .next u ∧ OneTile n t s u ∧
      tileAt u n = { (tileAt s n).after i (((tileAt s n).pc + 16) % 2 ^ 32) with
        sregs := (tileAt u n).sregs, flags := flags } ∧
      (tileAt u n).sreg (iRd i) = v ∧ ∀ r, r ≠ iRd i → (tileAt u n).sreg r = (tileAt s n).sreg r := by
  obtain ⟨u, runs, one, here⟩ := withInstr_oneTile hx hp ho k hk (only.putRd i v) (by
    simp [tile, Tile.setS, Tile.dispatched, Tile.after])
  have written : tileAt u n = { ((tileAt s n).after i (((tileAt s n).pc + 16) % 2 ^ 32)).setS (iRd i) v with
      flags := flags } := by
    rw [here, tileAt_putRd, tile]; rfl
  refine ⟨u, runs, one, by rw [written]; rfl, ?_, fun r hr => ?_⟩
  · rw [written]; exact Tile.sreg_setS_same _ _ _
  · rw [written]; exact Tile.sreg_setS_other v _ hr

/-- An instruction that makes another change to its tile retires with that change made. -/
theorem withInstr_changeWork (f : Nat → Tile → Tile) (awake : (f i ((tileAt s n).dispatched i)).waits = false) :
    ∃ u, withInstr t n op (changeWork n f) s = .next u ∧ OneTile n t s u ∧
      tileAt u n = (f i ((tileAt s n).dispatched i)).advanced := by
  have tile : tileAt (changeWork n f p i (dispatchedState t n i s)) n = _ := tileAt_changeWork n f p i _
  rw [tileAt_dispatchedState] at tile
  obtain ⟨u, runs, one, here⟩ := withInstr_oneTile hx hp ho (changeWork n f) rfl
    ((dispatchedState_oneTile t n i s).modTile (f i)).retire (by rw [tile]; exact awake)
  exact ⟨u, runs, one, here.trans (by rw [tile]; rfl)⟩

end

/-! ### The instructions -/

theorem tilePoisoned_dispatchedState (t i a len : Nat) (p : Program) (n : Nat) (s : State) :
    tilePoisoned (dispatchedState t n i s) p n a len = tilePoisoned s p n a len := by
  simp only [tilePoisoned, tileAt_dispatchedState]; rfl

theorem tileRead_dispatchedState (t i a len : Nat) (p : Program) (n : Nat) (s : State) :
    tileRead (dispatchedState t n i s) p n a len = tileRead s p n a len := by
  simp only [tileRead, tileByte, tileAt_dispatchedState]; rfl

/-- The tile's work for LD. -/
def loadWork (n : Nat) (p : Program) (i : Nat) (s : State) : State :=
  let x := tileAt s n
  let a := memAddr x i
  if inSaveArea a 8 then machineCheck n 7 s
  else if tilePoisoned s p n a 8 then machineCheck n 8 s
  else if interlocked x (a, 8) false then s
  else putRd n i (BitVec.ofNat 64 (leNat (tileRead s p n a 8))) s

theorem exec_ld (t : Nat) (tile : Fin 160) (s : State) :
    exec (.ld t tile) s = withInstr t tile.val 0x19 (loadWork tile.val) s := rfl

/-- A load that nothing holds back writes the word that the state before dispatch holds. -/
theorem loadWork_loads {t n i : Nat} {p : Program} {s : State} (outside : inSaveArea (memAddr (tileAt s n) i) 8 = false)
    (sound : tilePoisoned s p n (memAddr (tileAt s n) i) 8 = false)
    (clear : interlocked (tileAt s n) (memAddr (tileAt s n) i, 8) false = false) :
    loadWork n p i (dispatchedState t n i s) =
      putRd n i (BitVec.ofNat 64 (leNat (tileRead s p n (memAddr (tileAt s n) i) 8))) (dispatchedState t n i s) := by
  have addr : memAddr ((tileAt s n).dispatched i) i = memAddr (tileAt s n) i := rfl
  have clear' : interlocked ((tileAt s n).dispatched i) (memAddr (tileAt s n) i, 8) false = false := clear
  simp [loadWork, addr, outside, tilePoisoned_dispatchedState, sound, clear', tileRead_dispatchedState]

/-- The tile's work for ADDI. -/
def addWork (n : Nat) (_ : Program) (i : Nat) (s : State) : State :=
  putRd n i ((tileAt s n).sreg (iRa i) + BitVec.ofInt 64 (immInt i)) s

theorem exec_addi (t : Nat) (tile : Fin 160) (s : State) :
    exec (.addi t tile) s = withInstr t tile.val 0x17 (addWork tile.val) s := rfl

theorem addWork_adds (t n i : Nat) (p : Program) (s : State) : addWork n p i (dispatchedState t n i s) =
    putRd n i ((tileAt s n).sreg (iRa i) + BitVec.ofInt 64 (immInt i)) (dispatchedState t n i s) := by
  simp only [addWork, tileAt_dispatchedState]; rfl

/-- The tile with its flag sets cleared. -/
def Tile.clearFlags (x : Tile) : Tile := { x with flags := 0 }

/-- The tile's work for an instruction that reads the flag sets and then changes the state by `f`. -/
def flagsWork (n : Nat) (f : State → State) (_ : Program) (i : Nat) (s : State) : State :=
  if (tileAt s n).ops = [] then putRd n i (BitVec.ofNat 64 (tileAt s n).flags) (f s) else s

theorem exec_flagrd (t : Nat) (tile : Fin 160) (s : State) :
    exec (.flagrd t tile) s = withInstr t tile.val 0x28 (flagsWork tile.val id) s := rfl

theorem exec_flagswp (t : Nat) (tile : Fin 160) (s : State) :
    exec (.flagswp t tile) s = withInstr t tile.val 0x29 (flagsWork tile.val (modTile tile.val Tile.clearFlags)) s := rfl

/-- Once every engine operation has retired, the sets that the state before dispatch holds are read (R503). -/
theorem flagsWork_reads (t : Nat) {n : Nat} (i : Nat) (f : State → State) (p : Program) {s : State}
    (idle : (tileAt s n).ops = []) : flagsWork n f p i (dispatchedState t n i s) =
      putRd n i (BitVec.ofNat 64 (tileAt s n).flags) (f (dispatchedState t n i s)) := by
  simp only [flagsWork, tileAt_dispatchedState]
  exact if_pos idle

/-- The tile with the coarse scale that SETCS names replaced. -/
def Tile.setCoarse (i : Nat) (x : Tile) : Tile :=
  if iRd i = 0 then { x with csa := iImm i } else if iRd i = 1 then { x with csb := iImm i } else { x with csd := iImm i }

theorem Tile.setCoarse_a {i : Nat} (h : iRd i = 0) (x : Tile) : x.setCoarse i = { x with csa := iImm i } := if_pos h

theorem Tile.setCoarse_b {i : Nat} (h : iRd i = 1) (x : Tile) : x.setCoarse i = { x with csb := iImm i } := by
  simp [Tile.setCoarse, h]

theorem Tile.setCoarse_d {i : Nat} (h : iRd i = 2) (x : Tile) : x.setCoarse i = { x with csd := iImm i } := by
  simp [Tile.setCoarse, h]

theorem Tile.setCoarse_waits (i : Nat) (x : Tile) : (x.setCoarse i).waits = x.waits := by
  simp only [Tile.setCoarse]; (repeat' split) <;> rfl

theorem exec_flagclr (t : Nat) (tile : Fin 160) (s : State) :
    exec (.flagclr t tile) s = withInstr t tile.val 0x2A (changeWork tile.val fun _ => Tile.clearFlags) s := rfl

theorem exec_setcs (t : Nat) (tile : Fin 160) (s : State) :
    exec (.setcs t tile) s = withInstr t tile.val 0x42 (changeWork tile.val Tile.setCoarse) s := rfl

/-- Settles O30: each instruction's work on the dispatched tile, by `withInstr_putRd` where it writes S[RD] and by
`withInstr_changeWork` where it changes the flag sets or a coarse scale. -/
theorem loadsAndImmediates : Obligations.LoadsAndImmediates := by
  intro t i tile s hx x y a wrote
  have ⟨p, hp, _⟩ := hx
  have only := dispatchedState_oneTile t tile.val i s
  have stands := tileAt_dispatchedState t tile.val i s
  refine ⟨fun ho => ?addi, fun ho => ?li, fun ho q hq outside sound clear => ?ld,
    fun idle => ⟨fun ho => ?flagrd, fun ho => ?flagswp⟩, fun ho => ?flagclr, fun ho => ?setcs⟩
  case addi =>
    rw [exec_addi]
    exact withInstr_putRd hx hp ho _ (addWork_adds t tile.val i p s) only stands
  case li => exact withInstr_putRd hx hp ho _ rfl only stands
  case ld =>
    rw [exec_ld]
    exact withInstr_putRd hx hq ho _ (loadWork_loads outside sound clear) only stands
  case flagrd =>
    rw [exec_flagrd]
    exact withInstr_putRd hx hp ho _ (flagsWork_reads t i id p idle) only stands
  case flagswp =>
    rw [exec_flagswp]
    exact withInstr_putRd hx hp ho _ (flagsWork_reads t i _ p idle) (only.modTile Tile.clearFlags)
      ((tileAt_modTile_same _ _ _).trans (congrArg Tile.clearFlags stands))
  case flagclr =>
    rw [exec_flagclr]
    exact withInstr_changeWork hx hp ho (fun _ => Tile.clearFlags) rfl
  case setcs =>
    rw [exec_setcs]
    obtain ⟨u, runs, one, here⟩ := withInstr_changeWork (t := t) hx hp ho Tile.setCoarse (Tile.setCoarse_waits i _)
    exact ⟨u, runs, one, fun rd => here.trans (congrArg Tile.advanced (Tile.setCoarse_a rd _)),
      fun rd => here.trans (congrArg Tile.advanced (Tile.setCoarse_b rd _)),
      fun rd => here.trans (congrArg Tile.advanced (Tile.setCoarse_d rd _))⟩

end Sys2Proof.Machine

namespace Sys2Proof.Machine

/-! ## A finished engine operation (R488, R501, R503, R662) -/

/-- A tile with bytes written into its scratchpad. -/
def Tile.stored (a : Nat) (bs : List Byte) (x : Tile) : Tile := { x with scratch := memWrite x.scratch a bs }

theorem tileWrite_scratchpad (p : Program) (n : Nat) {a : Nat} {bs : List Byte} (s : State) (h : a + bs.length ≤ 0x200000) :
    tileWrite p n a bs s = modTile n (Tile.stored a bs) s := if_pos h

/-- A tile whose oldest engine operation retires, leaving `rest` in the queue, with flags for its engine's set. -/
def Tile.completed (o : EngineOp) (rest : List EngineOp) (flags : Nat) (x : Tile) : Tile :=
  { x with ops := rest, retired := x.retired + 1, flags := x.flags ||| (if isMatrix o.instr then flags else 256 * flags) }

/-- The state in which a finished operation's result lands. -/
def completionState (t free : Nat) (s : State) : State := { clockTo t s with freeCount := s.freeCount + free }

/-- An operation over unpoisoned sources whose result is one run of bytes in the scratchpad stores it, then retires. -/
theorem exec_engineOperationComplete (t : Nat) (tile : Fin 160) {p : Program} {o : EngineOp} {rest : List EngineOp} {a : Nat}
    {bs : List Byte} {s : State} (hp : s.prog = some p) (oldest : (tileAt s tile.val).ops = o :: rest)
    (runs : packageRuns s = true) (still : dropping s = false)
    (sound : ∀ r ∈ (engineRanges o.instr o.dst o.srcA o.srcB o.srcC).1, tilePoisoned s p tile.val r.1 r.2 = false)
    (run : (engineResult (tileRead s p tile.val) s.freeCount o).writes = [(a, bs)]) (fits : a + bs.length ≤ 0x200000) :
    let out := engineResult (tileRead s p tile.val) s.freeCount o
    exec (.engineOperationComplete t tile) s = .next (modTile tile.val (Tile.completed o rest out.flags)
      (modTile tile.val (Tile.stored a bs) (completionState t out.free s))) := by
  intro out
  have unpoisoned : ¬ ((engineRanges o.instr o.dst o.srcA o.srcB o.srcC).1.any fun r =>
      tilePoisoned (clockTo t s) p tile.val r.1 r.2) = true := fun found =>
    let ⟨r, reads, bad⟩ := List.any_eq_true.mp found
    absurd bad (ne_true_of_eq_false (sound r reads))
  have ready : ¬ (packageRuns s = false ∨ dropping s = true) := by simp [runs, still]
  have lands : forEach (fun w u => execEngineOperationComplete.tilePut' p tile.val w u) out.writes
      (completionState t out.free s) = modTile tile.val (Tile.stored a bs) (completionState t out.free s) := by
    rw [run]; exact tileWrite_scratchpad p tile.val _ fits
  rw [← lands]
  have hp' : (clockTo t s).prog = some p := hp
  show execEngineOperationComplete t tile s = _
  simp only [execEngineOperationComplete, hp', tileAt_clockTo, oldest]
  rw [← hp']
  exact (if_neg ready).trans (if_neg unpoisoned)

/-- Settles O35: the tile stores the run of bytes and then retires the operation. -/
theorem engineResultsLand : Obligations.EngineResultsLand := by
  intro t tile p o rest a bs s x out hp oldest runs still sound run fits
  refine ⟨_, exec_engineOperationComplete t tile hp oldest runs still sound run fits, ?_⟩
  have here : tileAt (modTile tile.val (Tile.completed o rest out.flags)
      (modTile tile.val (Tile.stored a bs) (completionState t out.free s))) tile.val =
      (x.stored a bs).completed o rest out.flags := by
    rw [tileAt_modTile_same, tileAt_modTile_same]; rfl
  rw [here]
  refine ⟨memRead_write x.scratch a bs, fun b outside => memGet_write_outside x.scratch a b bs outside, rfl, fun m hm => ?_, rfl⟩
  rw [tileAt_modTile_other _ _ hm, tileAt_modTile_other _ _ hm]; rfl

end Sys2Proof.Machine

namespace Sys2Proof.Machine

/-! ## Errors and fences of the memories, and station cores (R522 to R528, R531, R532, R551, R553 to R555)

### Station cores -/

/-- A change of a table's entries that leaves the entry of a key leaves what the key reads as. -/
theorem tabGet_map_fixed {α : Type} (d : α) {k : Nat} {f : Nat × α → Nat × α} (keys : ∀ e, (f e).1 = e.1)
    (fixed : ∀ v, f (k, v) = (k, v)) (t : Tab α) : tabGet d k (t.map f) = tabGet d k t := by
  induction t with
  | nil => rfl
  | cons e es ih =>
    obtain ⟨j, v⟩ := e
    have key : (f (j, v)).1 = j := keys (j, v)
    by_cases here : j = k
    · subst here
      simp [tabGet, fixed]
    · simp [tabGet, key, here, ih]

@[simp] theorem coreAt_modCore_same (c : Nat) (f : StationCore → StationCore) (s : State) :
    coreAt (modCore c f s) c = f (coreAt s c) := tabGet_put_same _ _ _ _

theorem coreAt_modCore_other {c d : Nat} (f : StationCore → StationCore) (s : State) (h : d ≠ c) :
    coreAt (modCore c f s) d = coreAt s d := tabGet_put_other _ _ _ _ _ _ h

theorem coreAt_mapCores {c : Nat} {f : Nat × StationCore → Nat × StationCore} (keys : ∀ e, (f e).1 = e.1)
    (fixed : ∀ y, f (c, y) = (c, y)) (s : State) :
    coreAt (s.modContain fun k => { k with cores := k.cores.map f }) c = coreAt s c := by
  rw [coreAt, State.modContain]
  exact tabGet_map_fixed {} keys fixed s.contain.cores

/-- A store ends no reservation of its own core. -/
theorem coreAt_stationWrite_own (c : Nat) (x : StationStore) (s : State) : coreAt (stationWrite c x s) c = coreAt s c := by
  refine (coreAt_mapCores ?_ ?_ _).trans ?_
  · exact fun _ => rfl
  · refine fun y => congrArg (Prod.mk c) ?_
    split
    · exact if_neg fun h => h.1 rfl
    · rfl
  · cases x.place <;> rfl

/-- A store to HBM touches HBM, poison there and reservations. -/
theorem stationWrite_hbm (c : Nat) {x : StationStore} (s : State) (h : x.place = .hbm) :
    ∃ cores, stationWrite c x s = { hbmWrite x.addr x.data s with contain := { s.contain with cores := cores } } :=
  ⟨_, by rw [stationWrite, h]; rfl⟩

/-- A core whose buffer is empty has nothing to make visible. -/
theorem drainAll_empty {c : Nat} {s : State} (h : (coreAt s c).buffer = []) :
    drainAll c s = modCore c (fun y => { y with buffer := [] }) s := by
  rw [drainAll, h, forEach]

theorem drainAll_single {c : Nat} {y : StationStore} {s : State} (h : (coreAt s c).buffer = [some y]) :
    drainAll c s = modCore c (fun y => { y with buffer := [] }) (stationWrite c y s) := by
  rw [drainAll, h]; rfl

theorem releaseBefore_empty (p : StationPlace) (a n : Nat) (rl : Bool) {c : Nat} {s : State} (h : (coreAt s c).buffer = []) :
    (releaseBefore c p a n rl s).hbm = s.hbm ∧ (coreAt (releaseBefore c p a n rl s) c).buffer = [] := by
  rw [releaseBefore, drainAll_empty h]
  split
  · exact ⟨rfl, by rw [coreAt_modCore_same]⟩
  · exact ⟨rfl, h⟩

theorem aroundAfter_empty (aq rl : Bool) {c : Nat} {s : State} (h : (coreAt s c).buffer = []) :
    (aroundAfter c aq rl s).hbm = s.hbm ∧ (coreAt (aroundAfter c aq rl s) c).loaded = (coreAt s c).loaded := by
  rw [aroundAfter, drainAll_empty h]
  split
  · exact ⟨rfl, by rw [coreAt_modCore_same]⟩
  · exact ⟨rfl, rfl⟩

/-- An atomic on a word of HBM that the core reaches loads the old value and writes the operation's result. -/
theorem stationAmo_hbm {c a w : Nat} (op : AmoOp) (v : Nat) (aq rl : Bool) {s : State} (aligned : a % w = 0)
    (valid : rangeValid (hbmValid s) a w = true) (sound : poisoned s.tiers.hbmPoison a w = false)
    (empty : (coreAt s c).buffer = []) :
    let u := stationAmo c .hbm a w op v aq rl s
    (coreAt u c).loaded = memRead s.hbm a w ∧
      u.hbm = memWrite s.hbm a (natLe (amoResult op (8 * w) (leNat (memRead s.hbm a w)) (v % 2 ^ (8 * w))) w) := by
  intro u
  let s1 := releaseBefore c .hbm a w rl s
  let old := stationMemory s1 .hbm a w
  let x : StationStore := { place := .hbm, addr := a, data := natLe (amoResult op (8 * w) (leNat old) (v % 2 ^ (8 * w))) w }
  let s2 := modCore c (fun y => { y with loaded := old }) (stationWrite c x s1)
  have reaches : atomicReaches s .hbm a w = true := by
    simp [atomicReaches, aligned, stationReaches, valid, stationPoison, sound]
  have result : u = aroundAfter c aq rl s2 := if_neg (ne_false_of_eq_true reaches)
  obtain ⟨hbm1, empty1⟩ := releaseBefore_empty .hbm a w rl empty
  have core2 : coreAt s2 c = { coreAt s1 c with loaded := old } := by
    rw [coreAt_modCore_same, coreAt_stationWrite_own]
  obtain ⟨hbm2, loaded2⟩ := aroundAfter_empty (s := s2) aq rl (by rw [core2]; exact empty1)
  obtain ⟨cores, write⟩ := stationWrite_hbm c s1 (x := x) rfl
  have stood : old = memRead s.hbm a w := congrArg (memRead · a w) hbm1
  have hbm : s2.hbm = memWrite s1.hbm a x.data := (congrArg State.hbm write :)
  rw [result, loaded2, hbm2, core2, hbm, hbm1, ← stood]
  exact ⟨rfl, rfl⟩

/-! ### An act of a station core in a tick -/

section
variable {c : Nat} {s : State} (runs : coreRuns s c = true)
include runs

theorem coreRuns_notAbsent : s.life.state ≠ .absent := by
  intro absent
  simp [coreRuns, packageRuns, absent] at runs

theorem tick_runs (a : Act) {v : State} (act : runAct a s = v) :
    ∃ u, exec (.tick [a]) s = .next u ∧ u = { v with rb := u.rb, now := u.now } := by
  subst act
  exact ⟨endTick (runAct a s), if_neg (coreRuns_notAbsent runs), endTick_frame _⟩

/-- An act that changes its own core alone. -/
theorem tick_modCore (a : Act) (f : StationCore → StationCore) (act : runAct a s = modCore c f s) :
    ∃ u, exec (.tick [a]) s = .next u ∧ coreAt u c = f (coreAt s c) ∧ (∀ d, d ≠ c → coreAt u d = coreAt s d) ∧
      u = { s with rb := u.rb, now := u.now, contain := { s.contain with cores := u.contain.cores } } := by
  obtain ⟨u, ticks, frame⟩ := tick_runs runs a act
  have cores (d : Nat) : coreAt u d = coreAt (modCore c f s) d := by rw [frame]; rfl
  refine ⟨u, ticks, (cores c).trans (coreAt_modCore_same c f s),
    fun d hd => (cores d).trans (coreAt_modCore_other f s hd), ?_⟩
  rw [frame]; rfl

theorem runAct_stationStore {p : StationPlace} {a : Nat} {bs : List Byte} (memory : p ≠ .other)
    (reaches : stationReaches s p a bs.length = true) : runAct (.stationStore c p a bs) s =
      modCore c (fun y => { y with buffer := y.buffer ++ [some { place := p, addr := a, data := bs }] }) s :=
  (if_neg (ne_false_of_eq_true runs)).trans ((if_neg memory).trans (if_neg (ne_false_of_eq_true reaches)))

theorem runAct_stationFence (r w : Bool) : runAct (.stationFence c r true true w false) s = drainAll c s :=
  if_neg (ne_false_of_eq_true runs)

theorem runAct_stationAmo (p : StationPlace) (a w : Nat) (op : AmoOp) (v : Nat) (aq rl : Bool) :
    runAct (.stationAmo c p a w op v aq rl) s = stationAmo c p a w op v aq rl s :=
  if_neg (ne_false_of_eq_true runs)

theorem tick_stationFence {y : StationStore} (r w : Bool) (buffered : (coreAt s c).buffer = [some y]) (hbm : y.place = .hbm) :
    ∃ u, exec (.tick [.stationFence c r true true w false]) s = .next u ∧ (coreAt u c).buffer = [] ∧
      memRead u.hbm y.addr y.data.length = y.data ∧
      (∀ b, b < y.addr ∨ y.addr + y.data.length ≤ b → memGet u.hbm b = memGet s.hbm b) ∧ u.tiles = s.tiles := by
  let emptied (x : StationCore) : StationCore := { x with buffer := [] }
  obtain ⟨u, ticks, frame⟩ := tick_runs runs _ ((runAct_stationFence runs r w).trans (drainAll_single buffered))
  obtain ⟨cores, write⟩ := stationWrite_hbm c s hbm
  have core : coreAt u c = emptied (coreAt (stationWrite c y s) c) := by
    rw [frame]; exact coreAt_modCore_same c emptied _
  have written : u.hbm = memWrite s.hbm y.addr y.data := by
    rw [frame]; exact (congrArg State.hbm write :)
  refine ⟨u, ticks, by rw [core], ?_, fun b outside => ?_, ?_⟩
  · rw [written]; exact memRead_write _ _ _
  · rw [written]; exact memGet_write_outside _ _ _ _ outside
  · rw [frame]; exact (congrArg State.tiles write :)

theorem tick_stationAmo_traps {p : StationPlace} {a w : Nat} (op : AmoOp) (v : Nat) (aq rl : Bool)
    (bad : p = .other ∨ a % w ≠ 0) : ∃ u, exec (.tick [.stationAmo c p a w op v aq rl]) s = .next u ∧
      coreAt u c = { coreAt s c with trap := some 7 } ∧
      u = { s with rb := u.rb, now := u.now, contain := { s.contain with cores := u.contain.cores } } := by
  have unreached : atomicReaches s p a w = false := by
    rcases bad with other | misaligned
    · simp [atomicReaches, other]
    · simp [atomicReaches, misaligned]
  obtain ⟨u, ticks, core, -, frame⟩ := tick_modCore runs (.stationAmo c p a w op v aq rl)
    (fun y => { y with trap := some 7 }) ((runAct_stationAmo runs p a w op v aq rl).trans (if_pos unreached))
  exact ⟨u, ticks, core, frame⟩

theorem tick_stationAmo_hbm {a w : Nat} (op : AmoOp) (v : Nat) (aq rl : Bool) (aligned : a % w = 0)
    (valid : rangeValid (hbmValid s) a w = true) (sound : poisoned s.tiers.hbmPoison a w = false)
    (empty : (coreAt s c).buffer = []) :
    ∃ u, exec (.tick [.stationAmo c .hbm a w op v aq rl]) s = .next u ∧ (coreAt u c).loaded = memRead s.hbm a w ∧
      memRead u.hbm a w = natLe (amoResult op (8 * w) (leNat (memRead s.hbm a w)) (v % 2 ^ (8 * w))) w ∧
      (∀ b, b < a ∨ a + w ≤ b → memGet u.hbm b = memGet s.hbm b) := by
  obtain ⟨u, ticks, frame⟩ := tick_runs runs _ (runAct_stationAmo runs .hbm a w op v aq rl)
  obtain ⟨loaded, written⟩ := stationAmo_hbm op v aq rl aligned valid sound empty
  have core : coreAt u c = coreAt (stationAmo c .hbm a w op v aq rl s) c := by rw [frame]; rfl
  have hbm : u.hbm = (stationAmo c .hbm a w op v aq rl s).hbm := by rw [frame]
  have length := length_natLe (amoResult op (8 * w) (leNat (memRead s.hbm a w)) (v % 2 ^ (8 * w))) w
  have bytes := memRead_write s.hbm a (natLe (amoResult op (8 * w) (leNat (memRead s.hbm a w)) (v % 2 ^ (8 * w))) w)
  rw [length] at bytes
  refine ⟨u, ticks, core ▸ loaded, ?_, fun b outside => ?_⟩
  · rwa [hbm, written]
  · rw [hbm, written]; exact memGet_write_outside _ _ _ _ (by rwa [length])

end

/-! ### Read errors (R522, R523, R526) -/

/-- What errors of the memories may touch: poison, errors and their counts, the patrols, and who reads. -/
def ErrorsTouch (t : Nat) (s u : State) : Prop := u = { s with
  now := max s.now t
  tiers := { s.tiers with
    hbmPoison := u.tiers.hbmPoison, cellarPoison := u.tiers.cellarPoison
    hbmErrors := u.tiers.hbmErrors, cellarErrors := u.tiers.cellarErrors
    hbmPatrol := u.tiers.hbmPatrol, cellarPatrol := u.tiers.cellarPatrol }
  kiosk := { s.kiosk with counters := u.kiosk.counters }, outbox := u.outbox
  host := { s.host with aerUncor := u.host.aerUncor }, contain := { s.contain with cores := u.contain.cores } }

theorem ErrorsTouch.count {t : Nat} {s u : State} (h : ErrorsTouch t s u) (i a n : Nat) :
    ErrorsTouch t s (count i a n u) := by
  unfold ErrorsTouch at h ⊢
  rw [h]; rfl

theorem ErrorsTouch.uncorrectable {t : Nat} {s u : State} (h : ErrorsTouch t s u) (cellar : Bool) (w unit : Nat) :
    ErrorsTouch t s (uncorrectable cellar w unit u) := by
  unfold ErrorsTouch at h ⊢
  rw [h]
  cases cellar <;> rfl

theorem ErrorsTouch.poisonToHost {t : Nat} {s u : State} (h : ErrorsTouch t s u) (length : Nat) :
    ErrorsTouch t s (poisonToHost length u) := by
  unfold ErrorsTouch at h ⊢
  rw [h]; rfl

theorem ErrorsTouch.modCore {t : Nat} {s u : State} (h : ErrorsTouch t s u) (c : Nat) (f : StationCore → StationCore) :
    ErrorsTouch t s (modCore c f u) := by
  unfold ErrorsTouch at h ⊢
  rw [h]; rfl

/-- One word of a memory is poisoned, and the others are as they were. -/
def PoisonsWord (cellar : Bool) (w : Nat) (s u : State) : Prop :=
  wordPoisoned u cellar w = true ∧ ∀ v, v ≠ w → wordPoisoned u cellar v = wordPoisoned s cellar v

theorem wordPoisoned_uncorrectable (cellar : Bool) (w unit v : Nat) (s : State) :
    wordPoisoned (uncorrectable cellar w unit s) cellar v =
      tabGet false v (tabPut false w true (if cellar then s.tiers.cellarPoison else s.tiers.hbmPoison)) := by
  cases cellar <;> rfl

theorem uncorrectable_poisons (cellar : Bool) (w unit : Nat) (s : State) :
    PoisonsWord cellar w s (uncorrectable cellar w unit s) :=
  ⟨(wordPoisoned_uncorrectable cellar w unit w s).trans (tabGet_put_same _ _ _ _), fun v hv =>
    (wordPoisoned_uncorrectable cellar w unit v s).trans (tabGet_put_other _ _ _ _ _ _ hv)⟩

theorem uncorrectable_counted (cellar : Bool) (w unit : Nat) (s : State) :
    Counted (if cellar then 0x5033 else 0x5023) (unit + 1) 1 s (uncorrectable cellar w unit s) :=
  (counted_count _).congr rfl rfl

section
variable (t : Nat) (cellar : Bool) {s : State} (runs : packageRuns s = true) {addr : Nat}
  (valid : memValid s cellar addr = true)
include runs valid

/-- The command finds a package that runs and an address that is valid. -/
theorem memoryReadError_arrives : ¬ (packageRuns (clockTo t s) = false ∨ memValid (clockTo t s) cellar addr = false) :=
  fun h => h.elim (ne_false_of_eq_true runs) (ne_false_of_eq_true valid)

theorem exec_memoryReadError_corrected (r : Reader) : exec (.memoryReadError t cellar addr false r) s =
    .next (countCorrected cellar (memUnit s cellar addr) (clockTo t s)) :=
  if_neg (memoryReadError_arrives t cellar runs valid)

theorem exec_memoryReadError_uncorrectable (r : Reader) : exec (.memoryReadError t cellar addr true r) s =
    .next (poisonedReader cellar addr r (uncorrectable cellar (addr / 8) (memUnit s cellar addr) (clockTo t s))) :=
  if_neg (memoryReadError_arrives t cellar runs valid)

theorem memoryReadError_corrected (r : Reader) : ∃ u, exec (.memoryReadError t cellar addr false r) s = .next u ∧
    Counted (if cellar then 0x5032 else 0x5022) (memUnit s cellar addr + 1) 1 s u ∧ u.tiers = s.tiers ∧
    u.outbox = s.outbox ∧ u.host = s.host ∧ u.contain = s.contain ∧ ErrorsTouch t s u :=
  ⟨_, exec_memoryReadError_corrected t cellar runs valid r, (counted_count _).congr rfl rfl, rfl, rfl, rfl, rfl, rfl⟩

/-- What the host, a peer and a station core receive (R523). -/
theorem memoryReadError_uncorrectable {c : Nat} {r : Reader} {out : List Emission}
    (reader : (r, out) ∈ [(Reader.host, [Emission.hostPoison 8]), (.peer, []), (.station c, [])]) :
    ∃ u, exec (.memoryReadError t cellar addr true r) s = .next u ∧
      Counted (if cellar then 0x5033 else 0x5023) (memUnit s cellar addr + 1) 1 s u ∧ PoisonsWord cellar (addr / 8) s u ∧
      u.outbox = s.outbox ++ out ∧ ErrorsTouch t s u ∧ (r ≠ .host → u.host = s.host) ∧
      (r = .station c → (coreAt u c).trap = some 5 ∧ ∀ d, d ≠ c → coreAt u d = coreAt s d) ∧
      (r ≠ .station c → u.contain = s.contain) := by
  have counted := uncorrectable_counted cellar (addr / 8) (memUnit s cellar addr) (clockTo t s)
  have poisons := uncorrectable_poisons cellar (addr / 8) (memUnit s cellar addr) (clockTo t s)
  have arrived : ErrorsTouch t s (clockTo t s) := rfl
  have touches := arrived.uncorrectable cellar (addr / 8) (memUnit s cellar addr)
  let trapped (y : StationCore) : StationCore := { y with trap := some 5 }
  refine ⟨_, exec_memoryReadError_uncorrectable t cellar runs valid r, ?_⟩
  simp only [List.mem_cons, Prod.mk.injEq, List.not_mem_nil, or_false] at reader
  rcases reader with ⟨rfl, rfl⟩ | ⟨rfl, rfl⟩ | ⟨rfl, rfl⟩
  · exact ⟨counted.congr rfl rfl, poisons, rfl, touches.poisonToHost 8, fun h => absurd rfl h, nofun, fun _ => rfl⟩
  · exact ⟨counted, poisons, (List.append_nil _).symm, touches, fun _ => rfl, nofun, fun _ => rfl⟩
  · exact ⟨counted.congr rfl rfl, poisons, (List.append_nil _).symm, touches.modCore c trapped, fun _ => rfl,
      fun _ => ⟨congrArg StationCore.trap (coreAt_modCore_same c trapped _), fun d hd => coreAt_modCore_other trapped _ hd⟩,
      fun h => absurd rfl h⟩

end

/-! ### The patrol (R525) -/

/-- The word that the patrol of a memory reads next. -/
def patrolOf (cellar : Bool) (s : State) : Nat := if cellar then s.tiers.cellarPatrol else s.tiers.hbmPatrol

/-- The patrol of a memory goes on to a word. -/
def patrolTo (cellar : Bool) (w : Nat) (s : State) : State :=
  s.modTiers fun t => if cellar then { t with cellarPatrol := w } else { t with hbmPatrol := w }

theorem patrolTo_spec (cellar : Bool) (w : Nat) (s : State) : patrolOf cellar (patrolTo cellar w s) = w ∧
    (∀ v, wordPoisoned (patrolTo cellar w s) cellar v = wordPoisoned s cellar v) ∧
    (∀ a, memValid (patrolTo cellar w s) cellar a = memValid s cellar a) ∧
    ∀ a, memUnit (patrolTo cellar w s) cellar a = memUnit s cellar a := by
  cases cellar <;> exact ⟨rfl, fun _ => rfl, fun _ => rfl, fun _ => rfl⟩

theorem errorsTouch_patrolTo (t : Nat) (cellar : Bool) (w : Nat) (s : State) :
    ErrorsTouch t s (patrolTo cellar w (clockTo t s)) := by
  cases cellar <;> rfl

theorem patrolOf_uncorrectable (cellar : Bool) (w unit : Nat) (s : State) :
    patrolOf cellar (uncorrectable cellar w unit s) = patrolOf cellar s := by
  cases cellar <;> rfl

/-- A word that the patrol can read and that is not poisoned. -/
def patrolReads (cellar : Bool) (w : Nat) (s : State) : Prop :=
  memValid s cellar (8 * w) = true ∧ wordPoisoned s cellar w = false

/-- What the patrol does about the errors that it finds in its word. -/
def patrolFound (cellar : Bool) (w errors : Nat) (s : State) : State :=
  if memValid s cellar (8 * w) = false ∨ wordPoisoned s cellar w = true ∨ errors = 0 then s
  else if errors = 1 then countCorrected cellar (memUnit s cellar (8 * w)) s
  else uncorrectable cellar w (memUnit s cellar (8 * w)) s

theorem patrolFound_passes {cellar : Bool} {w errors : Nat} {s : State} (h : ¬ patrolReads cellar w s ∨ errors = 0) :
    patrolFound cellar w errors s = s := by
  refine if_pos ?_
  simpa only [patrolReads, not_and_or, Bool.not_eq_true, Bool.not_eq_false, or_assoc] using h

theorem patrolFound_reads {cellar : Bool} {w errors : Nat} {s : State} (h : patrolReads cellar w s) (found : errors ≠ 0) :
    patrolFound cellar w errors s = if errors = 1 then countCorrected cellar (memUnit s cellar (8 * w)) s
      else uncorrectable cellar w (memUnit s cellar (8 * w)) s := by
  obtain ⟨valid, sound⟩ := h
  refine if_neg ?_
  simp [valid, sound, found]

section
variable (t : Nat) (cellar : Bool) {s : State} (runs : packageRuns s = true)
include runs

theorem exec_memoryPatrol (errors : Nat) (words : 0 < memSize s cellar / 8) : exec (.memoryPatrol t cellar errors) s =
    .next (patrolFound cellar (patrolOf cellar s % (memSize s cellar / 8)) errors
      (patrolTo cellar ((patrolOf cellar s % (memSize s cellar / 8) + 1) % (memSize s cellar / 8)) (clockTo t s))) := by
  have arrives : ¬ (packageRuns (clockTo t s) = false ∨ memSize (clockTo t s) cellar / 8 = 0) :=
    fun h => h.elim (ne_false_of_eq_true runs) (Nat.ne_of_gt words)
  refine (if_neg arrives).trans ?_
  simp only [patrolFound, apply_ite Host.Outcome.next]
  rfl

theorem memoryPatrol_patrols (errors : Nat) (words : 0 < memSize s cellar / 8) :
    let w := patrolOf cellar s % (memSize s cellar / 8)
    ∃ u, exec (.memoryPatrol t cellar errors) s = .next u ∧ patrolOf cellar u = (w + 1) % (memSize s cellar / 8) ∧
      ErrorsTouch t s u ∧ u.outbox = s.outbox ∧ u.host = s.host ∧ u.contain = s.contain ∧
      (¬ patrolReads cellar w s ∨ errors = 0 →
        u.kiosk = s.kiosk ∧ ∀ v, wordPoisoned u cellar v = wordPoisoned s cellar v) ∧
      (patrolReads cellar w s → errors = 1 →
        Counted (if cellar then 0x5032 else 0x5022) (memUnit s cellar (8 * w) + 1) 1 s u ∧
          ∀ v, wordPoisoned u cellar v = wordPoisoned s cellar v) ∧
      (patrolReads cellar w s → 1 < errors →
        Counted (if cellar then 0x5033 else 0x5023) (memUnit s cellar (8 * w) + 1) 1 s u ∧ PoisonsWord cellar w s u) := by
  intro w
  let m := patrolTo cellar ((w + 1) % (memSize s cellar / 8)) (clockTo t s)
  have patrols : exec (.memoryPatrol t cellar errors) s = .next (patrolFound cellar w errors m) :=
    exec_memoryPatrol t cellar runs errors words
  obtain ⟨goes, word, valid, unit⟩ := patrolTo_spec cellar ((w + 1) % (memSize s cellar / 8)) (clockTo t s)
  have touches : ErrorsTouch t s m := errorsTouch_patrolTo t cellar _ s
  have reads : patrolReads cellar w m ↔ patrolReads cellar w s := by rw [patrolReads, valid, word]; rfl
  by_cases passes : ¬ patrolReads cellar w s ∨ errors = 0
  · have clean (r : patrolReads cellar w s) : errors = 0 := passes.resolve_left (not_not.mpr r)
    rw [patrolFound_passes (by rwa [reads])] at patrols
    refine ⟨m, patrols, goes, touches, rfl, rfl, rfl, fun _ => ⟨rfl, word⟩, fun r one => ?_, fun r more => ?_⟩
    · exact absurd (clean r) (by omega)
    · exact absurd (clean r) (by omega)
  · obtain ⟨r, found⟩ := not_or.mp passes
    rw [not_not] at r
    rw [patrolFound_reads (reads.mpr r) found] at patrols
    by_cases one : errors = 1
    · rw [if_pos one] at patrols
      refine ⟨_, patrols, goes, touches.count _ _ _, rfl, rfl, rfl, fun h => absurd h passes, fun _ _ => ⟨?_, word⟩,
        fun _ more => by omega⟩
      exact unit _ ▸ (counted_count m).congr rfl rfl
    · rw [if_neg one] at patrols
      refine ⟨_, patrols, (patrolOf_uncorrectable cellar _ _ m).trans goes, touches.uncorrectable cellar _ _, rfl, rfl, rfl,
        fun h => absurd h passes, fun _ h => absurd h one, fun _ _ => ⟨?_, ?_⟩⟩
      · exact unit _ ▸ (uncorrectable_counted cellar w _ m).congr rfl rfl
      · obtain ⟨poisoned, others⟩ := uncorrectable_poisons cellar w (memUnit m cellar (8 * w)) m
        exact ⟨poisoned, fun v hv => (others v hv).trans (word v)⟩

end

/-! ### What the end of a program leaves of the memories -/

/-- Which units of the memories there are, which of them are fenced, and whether contents were lost. -/
structure MemoryMap where
  hbm : List Nat
  cellar : List Nat
  hbmFences : Nat
  cellarFences : Nat
  lost : Bool

def State.memoryMap (s : State) : MemoryMap :=
  ⟨s.tiers.hbmMap, s.tiers.cellarMap, s.contain.stackFences, s.contain.cellarFences, s.contain.memoryLost⟩

theorem memoryMap_of_quiet {s u : State} (h : u.quiet = s.quiet) : u.memoryMap = s.memoryMap :=
  (congrArg State.memoryMap h :)

@[simp] theorem placeRecord_memoryMap (r : LogRecord) (s : State) : (placeRecord r s).memoryMap = s.memoryMap := by
  simp only [placeRecord]; (repeat' split) <;> simp [State.memoryMap]

@[simp] theorem endWindow_memoryMap (w : RepeatWindow) (s : State) : (endWindow w s).memoryMap = s.memoryMap := by
  simp only [endWindow]
  split
  · rfl
  · rw [placeRecord_memoryMap]; rfl

@[simp] theorem count_memoryMap (i a n : Nat) (s : State) : (count i a n s).memoryMap = s.memoryMap := rfl

@[simp] theorem modWindows_memoryMap (f : Contain → List RepeatWindow) (s : State) :
    (s.modContain fun c => { c with windows := f c }).memoryMap = s.memoryMap := rfl

@[simp] theorem record_memoryMap (r : LogRecord) (s : State) : (record r s).memoryMap = s.memoryMap := by
  simp only [record]; (repeat' split) <;> simp

@[simp] theorem abortCollective_memoryMap (g cause detector : Nat) (c : Collective) (s : State) :
    (abortCollective g cause detector c s).memoryMap = s.memoryMap := by
  simp only [abortCollective]
  rw [memoryMap_of_quiet (endCollective_quiet _ _ _ _ _ _), memoryMap_of_quiet (countAbort_quiet _ _), record_memoryMap,
    memoryMap_of_quiet (engineToAll_quiet _ _ _ _ _ _ _)]

@[simp] theorem programEndsCollective_memoryMap (g : Nat) (s : State) :
    (programEndsCollective g s).memoryMap = s.memoryMap := by
  simp only [programEndsCollective]
  split
  · split
    · rw [abortAndReform, memoryMap_of_quiet (reformGroup_quiet _ _ _), abortCollective_memoryMap]
    · rfl
  · rfl

theorem stopTiles_memoryMap (ns : List Nat) (s : State) : (stopTiles ns s).memoryMap = s.memoryMap := by
  refine forEach_keeps State.memoryMap _ (fun _ _ => ?_) ns s
  rfl

@[simp] theorem enterLife_memoryMap (l : LifeState) (s : State) : (enterLife l s).memoryMap = s.memoryMap := by
  simp [State.memoryMap]

@[simp] theorem checkCapability_memoryMap (s : State) : (checkCapability s).memoryMap = s.memoryMap := by
  simp only [checkCapability]; split <;> simp

@[simp] theorem substituteAll_memoryMap (s : State) : (substituteAll s).memoryMap = s.memoryMap := by
  refine forEach_keeps State.memoryMap (fun n s => (substitute n s).1) (fun n u => ?_) _ s
  simp only [substitute]
  split
  · rfl
  · rw [memoryMap_of_quiet (regrantAll_quiet _), count_memoryMap]; rfl

/-- A member that works, with its full capability or without. -/
def Serving (s : State) : Prop := s.life.state = .joined ∨ s.life.state = .running ∨ s.life.state = .degraded

/-- What is valid stands, and a member goes on as one. -/
def KeepsMap (s u : State) : Prop := u.memoryMap = s.memoryMap ∧ (Serving s → Serving u)

theorem KeepsMap.trans {s v u : State} (h : KeepsMap s v) (k : KeepsMap v u) : KeepsMap s u :=
  ⟨k.1.trans h.1, k.2 ∘ h.2⟩

theorem keepsMap_of_life {s u : State} (map : u.memoryMap = s.memoryMap) (life : u.life = s.life) : KeepsMap s u :=
  ⟨map, fun h => by unfold Serving; rwa [life]⟩

theorem keepsMap_of_quiet {s u : State} (h : u.quiet = s.quiet) : KeepsMap s u :=
  keepsMap_of_life (memoryMap_of_quiet h) (congrArg State.life h :)

theorem keepsMap_enterLife {c : Prop} [Decidable c] {l : LifeState} (hl : l = .joined ∨ l = .degraded) (s : State) :
    KeepsMap s (if c then enterLife l s else s) := by
  split
  · refine ⟨enterLife_memoryMap l s, fun _ => ?_⟩
    rw [Serving, enterLife_life]
    exact hl.imp_right .inr
  · exact ⟨rfl, id⟩

/-- A program's release frees what it held; then the life state, the spares and the indices follow. -/
theorem releaseProgram_frees (p : Program) (s : State) : ∃ v w, v.memoryMap = s.memoryMap ∧ v.life = s.life ∧
    w = substituteAll (if v.life.state = .running then enterLife .joined v else v) ∧
    releaseProgram p s = checkCapability (if numberingGap w then renumber w else w) := by
  refine ⟨_, _, ?_, ?_, rfl, rfl⟩ <;> cases p.cmp <;> rfl

theorem keepsMap_releaseProgram (p : Program) (s : State) : KeepsMap s (releaseProgram p s) := by
  obtain ⟨v, w, map, life, follows, released⟩ := releaseProgram_frees p s
  have replaced : KeepsMap (if v.life.state = .running then enterLife .joined v else v) w := by
    rw [follows]
    exact keepsMap_of_life (substituteAll_memoryMap _) (congrArg State.life (substituteAll_unrun _) :)
  have numbered : KeepsMap w (if numberingGap w then renumber w else w) := by
    split <;> exact keepsMap_of_life rfl rfl
  rw [released]
  exact ((((keepsMap_of_life map life).trans (keepsMap_enterLife (.inl rfl) v)).trans replaced).trans numbered).trans
    (keepsMap_enterLife (.inr rfl) _)

/-- The end of a program stops its tiles and ends its descriptor, and then releases it. -/
theorem keepsMap_endProgram (p : Program) (status cause : Nat) (s : State) : KeepsMap s (endProgram p status cause s) := by
  have stops (ns : List Nat) (u : State) : KeepsMap u (dropMoverAccesses (stopTiles ns u)) :=
    keepsMap_of_life (stopTiles_memoryMap ns u) (congrArg State.life (stopTiles_unrun ns u) :)
  have lastFlags (f : Nat) : KeepsMap s (s.modTiers fun t => { t with lastFlags := f }) := ⟨rfl, id⟩
  have ends (q i result : Nat) (f : Desc → Desc) (u : State) :
      KeepsMap u (endDesc q i status cause result (modDesc q i f u)) :=
    keepsMap_of_quiet (by simp)
  exact (((lastFlags _).trans (stops _ _)).trans (ends _ _ _ _ _)).trans (keepsMap_releaseProgram p _)

theorem keepsMap_abortProgram (cause detail0 detail1 : Nat) (s : State) :
    KeepsMap s (abortProgram cause detail0 detail1 s) := by
  have records (r : LogRecord) : KeepsMap s (record r s) := keepsMap_of_life (record_memoryMap r s) (by simp)
  have collective (g : Nat) (u : State) : KeepsMap u (if g = 0 then u else programEndsCollective g u) := by
    split
    · exact ⟨rfl, id⟩
    · exact keepsMap_of_life (programEndsCollective_memoryMap g u) (congrArg State.life (programEndsCollective_unrun g u) :)
  simp only [abortProgram]
  split
  · exact ⟨rfl, id⟩
  · exact (((records _).trans (collective _ _)).trans (keepsMap_endProgram _ _ _ _)).trans
      (keepsMap_of_quiet (flushRecords_quiet _ _))

theorem keepsMap_abortAtStep (cause failed : Nat) (s : State) : KeepsMap s (abortAtStep cause failed s) := by
  simp only [abortAtStep]
  split
  · exact keepsMap_abortProgram _ _ _ s
  · exact ⟨rfl, id⟩

theorem abortAtStep_prog (cause failed : Nat) (s : State) : (abortAtStep cause failed s).prog = none := by
  simp only [abortAtStep]
  split
  · next program => exact (abortProgram_ends _ _ _ program).1
  · next idle => exact idle

/-! ### Fences (R526 to R528, R531, R532) -/

theorem bit_or_two_pow (v u i : Nat) : bit (v ||| 2 ^ u) i = (bit v i || decide (u = i)) := by
  rw [bit_eq_testBit, bit_eq_testBit, Nat.testBit_or, Nat.testBit_two_pow]

/-- Which addresses are valid depends on the maps and the fences alone. -/
theorem memValid_congr {s u : State} (h : u.memoryMap = s.memoryMap) (cellar : Bool) (a : Nat) :
    memValid u cellar a = memValid s cellar a := by
  simp only [State.memoryMap, MemoryMap.mk.injEq] at h
  obtain ⟨hbm, cel, hbmFences, cellarFences, -⟩ := h
  unfold memValid hbmValid cellarValid hbmSize cellarSize
  rw [hbm, cel, hbmFences, cellarFences]

/-- A stack or package is out of service, and its contents are lost. -/
def fenceUnit (cellar : Bool) (unit : Nat) (s : State) : State := s.modContain fun c => { c with
  stackFences := if cellar then c.stackFences else c.stackFences ||| 2 ^ unit
  cellarFences := if cellar then c.cellarFences ||| 2 ^ unit else c.cellarFences
  memoryLost := true }

theorem memValid_fenceUnit (cellar : Bool) (unit a : Nat) (s : State) : memValid (fenceUnit cellar unit s) cellar a =
    (memValid s cellar a && decide (unit ≠ memUnit s cellar a)) := by
  cases cellar
  case false =>
    show (decide (a < hbmSize s) && !bit (s.contain.stackFences ||| 2 ^ unit) (unitOf s.tiers.hbmMap a)) = _
    rw [bit_or_two_pow]
    simp [memValid, hbmValid, memUnit, Bool.and_assoc]
  case true =>
    show (decide (a < cellarSize s) && !bit (s.contain.cellarFences ||| 2 ^ unit) (unitOf s.tiers.cellarMap a)) = _
    rw [bit_or_two_pow]
    simp [memValid, cellarValid, memUnit, Bool.and_assoc]

/-- A sled with a fenced stack has lost capability (R194). -/
theorem fullCapability_of_fenced {unit : Nat} {s u : State} (h : u.memoryMap = (fenceUnit false unit s).memoryMap) :
    fullCapability u = false := by
  have fences : u.contain.stackFences = s.contain.stackFences ||| 2 ^ unit := congrArg MemoryMap.hbmFences h
  simp [fullCapability, fences]

theorem checkCapability_degrades {s : State} (lost : fullCapability s = false) (serves : Serving s) :
    (checkCapability s).life.state = .degraded := by
  rw [checkCapability]
  split
  · rw [enterLife_life]
  · next stays =>
    exact serves.elim (fun j => absurd ⟨.inl j, lost⟩ stays) (Or.elim · (fun r => absurd ⟨.inr r, lost⟩ stays) id)

/-- A fence is recorded, takes its unit out of service and ends the program that runs. -/
theorem fenceMemory_order (cellar : Bool) (unit cause : Nat) (s : State) : ∃ r, fenceMemory cellar unit cause s =
    checkCapability (abortAtStep 0x5002 0 (fenceUnit cellar unit (record r s))) := ⟨_, rfl⟩

theorem fenceMemory_fences (cellar : Bool) (unit cause : Nat) (s : State) :
    let u := fenceMemory cellar unit cause s
    u.contain.memoryLost = true ∧ u.prog = none ∧ (∀ a, memUnit s cellar a = unit → memValid u cellar a = false) ∧
      (∀ a, memUnit s cellar a ≠ unit → memValid u cellar a = memValid s cellar a) ∧
      (cellar = false → s.life.state = .joined ∨ s.life.state = .running → u.life.state = .degraded) ∧
      PortsApart s u := by
  obtain ⟨r, order⟩ := fenceMemory_order cellar unit cause s
  let v := fenceUnit cellar unit (record r s)
  let w := abortAtStep 0x5002 0 v
  intro u
  have last : u = checkCapability w := order
  have before : KeepsMap v w := keepsMap_abortAtStep 0x5002 0 v
  have map : u.memoryMap = v.memoryMap := by rw [last, checkCapability_memoryMap, before.1]
  have same (a : Nat) : memUnit (record r s) cellar a = memUnit s cellar a := by simp [memUnit]
  have valid (a : Nat) : memValid u cellar a = (memValid s cellar a && decide (unit ≠ memUnit s cellar a)) := by
    rw [memValid_congr map, memValid_fenceUnit, memValid_congr (record_memoryMap r s), same]
  refine ⟨congrArg MemoryMap.lost map, ?_, fun a on => ?_, fun a off => ?_, fun stack member => ?_, ?_⟩
  · rw [last, checkCapability_prog, abortAtStep_prog]
  · rw [valid, on]; simp
  · rw [valid, decide_eq_true (Ne.symm off), Bool.and_true]
  · subst stack
    have serves : Serving v := by
      have life : v.life = s.life := by simp [v, fenceUnit]
      rw [Serving, life]
      exact member.imp_right .inl
    rw [last]
    exact checkCapability_degrades (fullCapability_of_fenced before.1) (before.2 serves)
  · rw [last]
    exact (((programGone_abortAtStep 0x5002 0 v).trans (programGone_checkCapability w)).around
      ((modContain_unrun _ _).trans (record_unrun r s)) rfl).apart

theorem memChannelFail_fences (t : Nat) {cellar : Bool} {unit : Nat} {channel : Bool} {s : State}
    (runs : packageRuns s = true) (serves : unitServes s cellar unit = true)
    (fails : channel = true ∨ objAt s 0x5103 0 ≤ recentErrors { s with now := max s.now t } cellar unit) :
    ∃ cause, exec (.memChannelFail t cellar unit channel) s = .next (fenceMemory cellar unit cause (clockTo t s)) := by
  have arrives : ¬ (packageRuns (clockTo t s) = false ∨ unitServes (clockTo t s) cellar unit = false) :=
    fun h => h.elim (ne_false_of_eq_true runs) (ne_false_of_eq_true serves)
  by_cases failed : channel = true
  · exact ⟨0x9007, (if_neg arrives).trans (if_pos failed)⟩
  · exact ⟨0x9008, (if_neg arrives).trans ((if_neg failed).trans (if_pos (fails.resolve_left failed)))⟩

/-- Settles O26: a station core's acts in a tick one by one, a read's error and the patrol's by what poisons and counts, a
fence by what the end of a program leaves of the memories' map. -/
theorem memoryErrorsAndFences : Obligations.MemoryErrorsAndFences := by
  refine ⟨fun c s runs => ?stations, fun t cellar s runs => ?memories⟩
  case stations =>
    exact ⟨fun p a bs memory reaches => tick_modCore runs _ _ (runAct_stationStore runs memory reaches),
      fun y r w buffered hbm => tick_stationFence runs r w buffered hbm,
      fun p a w op v aq rl bad => tick_stationAmo_traps runs op v aq rl bad,
      fun a w op v aq rl aligned valid sound empty => tick_stationAmo_hbm runs op v aq rl aligned valid sound empty⟩
  case memories =>
    refine ⟨fun addr valid => ⟨memoryReadError_corrected t cellar runs valid, fun c r out reader =>
        memoryReadError_uncorrectable t cellar runs valid reader⟩,
      fun errors words => memoryPatrol_patrols t cellar runs errors words, fun unit channel serves fails => ?_⟩
    obtain ⟨cause, fences⟩ := memChannelFail_fences t runs serves fails
    exact ⟨_, fences, fenceMemory_fences cellar unit cause (clockTo t s)⟩

end Sys2Proof.Machine

namespace Sys2Proof.Machine

/-! ## Stores (R512, R630, R631, R633, R669) -/

/-! ### Bytes scattered over a memory -/

/-- A memory in which every index of a list has put its byte at its address. -/
def scatter (addr : Nat → Nat) (byte : Nat → Byte) (xs : List Nat) (m : Memory) : Memory :=
  xs.foldl (fun m i => memPut m (addr i) (byte i)) m

theorem memGet_scatter_other (addr : Nat → Nat) (byte : Nat → Byte) {xs : List Nat} (m : Memory) {h : Nat}
    (apart : ∀ i ∈ xs, h ≠ addr i) : memGet (scatter addr byte xs m) h = memGet m h := by
  induction xs generalizing m with
  | nil => rfl
  | cons i is ih =>
    obtain ⟨first, rest⟩ := List.forall_mem_cons.mp apart
    exact (ih (memPut m (addr i) (byte i)) rest).trans (tabGet_put_other 0 0 _ _ _ m first)

/-- Where no two indices share an address, each byte reads back. -/
theorem memGet_scatter_same (addr : Nat → Nat) (byte : Nat → Byte) {xs : List Nat} (m : Memory)
    (distinct : xs.Pairwise fun i j => addr i ≠ addr j) {i : Nat} (listed : i ∈ xs) :
    memGet (scatter addr byte xs m) (addr i) = byte i := by
  induction xs generalizing m with
  | nil => exact absurd listed List.not_mem_nil
  | cons j js ih =>
    obtain ⟨first, rest⟩ := List.pairwise_cons.mp distinct
    rcases List.mem_cons.mp listed with rfl | later
    · exact (memGet_scatter_other addr byte _ first).trans (tabGet_put_same 0 _ _ m)
    · exact ih _ rest later

/-! ### Writing a tile's local memory -/

theorem windowAddr_mod (p : Program) (l a : Nat) :
    windowAddr p l a % pageBytes = (l * (65536 * p.window) + (a - 0x200000)) % pageBytes := by
  rw [windowAddr, Nat.mul_add_mod_self_right, Nat.mod_mod]

/-- Within a page, addresses of the overflow window differ where their bytes do. -/
theorem windowAddr_injective (p : Program) (l : Nat) {a i j : Nat} (window : 0x200000 ≤ a) (hi : i < pageBytes)
    (hj : j < pageBytes) (same : windowAddr p l (a + i) = windowAddr p l (a + j)) : i = j := by
  have offsets : windowAddr p l (a + i) % pageBytes = windowAddr p l (a + j) % pageBytes := by rw [same]
  rw [windowAddr_mod, windowAddr_mod] at offsets
  simp only [pageBytes] at offsets hi hj
  generalize l * (65536 * p.window) = c at offsets
  omega

theorem length_memRead (m : Memory) (a n : Nat) : (memRead m a n).length = n := by
  induction n generalizing a with
  | zero => rfl
  | succ n ih => exact congrArg (· + 1) (ih (a + 1))

theorem length_tileRead (s : State) (p : Program) (n a len : Nat) : (tileRead s p n a len).length = len := by
  rw [tileRead]
  split
  · exact length_memRead _ a len
  · simp

theorem tileRead_window (s : State) (p : Program) (n : Nat) {a len i : Nat} (window : 0x200000 ≤ a)
    (h : i < (tileRead s p n a len).length) :
    (tileRead s p n a len)[i] = memGet s.hbm (windowAddr p (tileAt s n).logical (a + i)) := by
  have i_lt : i < len := by rwa [length_tileRead] at h
  have beyond : ¬ a + len ≤ 0x200000 := by omega
  have byte : ¬ a + i < 0x200000 := by omega
  simp [tileRead, beyond, tileByte, byte]

theorem tileRead_congr {s u : State} {n : Nat} (scratch : (tileAt u n).scratch = (tileAt s n).scratch)
    (logical : (tileAt u n).logical = (tileAt s n).logical) (hbm : u.hbm = s.hbm) (p : Program) (a len : Nat) :
    tileRead u p n a len = tileRead s p n a len := by
  simp only [tileRead, tileByte, scratch, logical, hbm]

/-- The tile's local memory holds the bytes at the address, and nothing but them has changed. -/
structure TileStored (p : Program) (n a : Nat) (bs : List Byte) (s u : State) : Prop where
  bytes : tileRead u p n a bs.length = bs
  tile : tileAt u n = { tileAt s n with scratch := (tileAt u n).scratch }
  scratch : ∀ b, b < 0x200000 → b < a ∨ a + bs.length ≤ b →
    memGet (tileAt u n).scratch b = memGet (tileAt s n).scratch b
  hbm : ∀ h, (a < 0x200000 ∨ ∀ k, k < bs.length → h ≠ windowAddr p (tileAt s n).logical (a + k)) →
    memGet u.hbm h = memGet s.hbm h
  others : ∀ m, m ≠ n → tileAt u m = tileAt s m
  frame : u = { s with tiles := u.tiles, hbm := u.hbm, tiers := { s.tiers with hbmPoison := u.tiers.hbmPoison } }

theorem tileWrite_stores_scratchpad (p : Program) (n : Nat) {a : Nat} {bs : List Byte} (s : State)
    (fits : a + bs.length ≤ 0x200000) : TileStored p n a bs s (tileWrite p n a bs s) := by
  rw [tileWrite_scratchpad p n s fits]
  have tile := tileAt_modTile_same n (Tile.stored a bs) s
  refine ⟨?_, by rw [tile]; rfl, fun b _ outside => ?_, fun _ _ => rfl, fun m hm => tileAt_modTile_other _ s hm, rfl⟩
  · rw [tileRead, if_pos fits, tile]
    exact memRead_write _ a bs
  · rw [tile]
    exact memGet_write_outside _ a b bs outside

/-- Bytes put into the overflow window scatter over HBM. -/
theorem tilePuts_window (p : Program) (n : Nat) {a : Nat} (byte : Nat → Byte) (window : 0x200000 ≤ a) (xs : List Nat)
    (s : State) : ∃ poison, forEach (fun i s => tilePut p n (a + i) (byte i) s) xs s = { s with
      hbm := scatter (fun i => windowAddr p (tileAt s n).logical (a + i)) byte xs s.hbm
      tiers := { s.tiers with hbmPoison := poison } } := by
  induction xs generalizing s with
  | nil => exact ⟨s.tiers.hbmPoison, rfl⟩
  | cons i is ih =>
    have put : tilePut p n (a + i) (byte i) s = hbmWrite (windowAddr p (tileAt s n).logical (a + i)) [byte i] s :=
      if_neg (by omega)
    obtain ⟨poison, rest⟩ := ih (hbmWrite (windowAddr p (tileAt s n).logical (a + i)) [byte i] s)
    exact ⟨poison, by rw [forEach, put, rest]; rfl⟩

theorem tileWrite_window (p : Program) (n : Nat) {a : Nat} {bs : List Byte} (s : State) (window : 0x200000 ≤ a)
    (nonempty : 0 < bs.length) : ∃ poison, tileWrite p n a bs s = { s with
      hbm := scatter (fun i => windowAddr p (tileAt s n).logical (a + i)) (bs.getD · 0) (List.range bs.length) s.hbm
      tiers := { s.tiers with hbmPoison := poison } } := by
  obtain ⟨poison, puts⟩ := tilePuts_window p n (bs.getD · 0) window (List.range bs.length) s
  have beyond : ¬ a + bs.length ≤ 0x200000 := by omega
  exact ⟨_, by rw [tileWrite, if_neg beyond, puts]⟩

theorem tileWrite_stores_window (p : Program) (n : Nat) {a : Nat} {bs : List Byte} (s : State) (window : 0x200000 ≤ a)
    (nonempty : 0 < bs.length) (short : bs.length ≤ pageBytes) : TileStored p n a bs s (tileWrite p n a bs s) := by
  obtain ⟨poison, writes⟩ := tileWrite_window p n s window nonempty
  have distinct : (List.range bs.length).Pairwise fun i j =>
      windowAddr p (tileAt s n).logical (a + i) ≠ windowAddr p (tileAt s n).logical (a + j) :=
    List.nodup_range.imp_of_mem fun hi hj differ same => differ (windowAddr_injective p _ window
      (Nat.lt_of_lt_of_le (List.mem_range.mp hi) short) (Nat.lt_of_lt_of_le (List.mem_range.mp hj) short) same)
  rw [writes]
  refine ⟨List.ext_getElem ?_ fun i hi here => ?_, rfl, fun _ _ _ => rfl, fun h apart => ?_, fun _ _ => rfl, rfl⟩
  · exact length_tileRead _ _ _ _ _
  · rw [tileRead_window _ p n window hi, ← List.getD_eq_getElem bs 0]
    exact memGet_scatter_same (fun i => windowAddr p (tileAt s n).logical (a + i)) (bs.getD · 0) s.hbm distinct
      (List.mem_range.mpr here)
  · exact memGet_scatter_other _ _ _ fun i hi => apart.resolve_left (by omega) i (List.mem_range.mp hi)

/-- A word outside the save area lies in the scratchpad or in the window whole. -/
theorem tileWrite_stores_word (p : Program) (n : Nat) {a : Nat} {bs : List Byte} (s : State) (word : bs.length = 8)
    (outside : inSaveArea a 8 = false) : TileStored p n a bs s (tileWrite p n a bs s) := by
  have whole : a + 8 ≤ 0x200000 ∨ 0x200000 ≤ a := by
    simp only [inSaveArea, Bool.and_eq_false_iff, decide_eq_false_iff_not] at outside
    omega
  rcases whole with pad | window
  · exact tileWrite_stores_scratchpad p n s (by omega)
  · exact tileWrite_stores_window p n s window (by omega) (by rw [word]; decide)

/-! ### The instruction -/

/-- The tile's work for ST. -/
def storeWork (n : Nat) (p : Program) (i : Nat) (s : State) : State :=
  let x := tileAt s n
  let a := memAddr x i
  if inSaveArea a 8 then machineCheck n 7 s
  else if interlocked x (a, 8) true then s
  else retire n (tileWrite p n a (natLe (x.sreg (iRb i)).toNat 8) s)

theorem exec_st (t : Nat) (tile : Fin 160) (s : State) :
    exec (.st t tile) s = withInstr t tile.val 0x1A (storeWork tile.val) s := rfl

/-- A store that nothing holds back writes the register that the state before dispatch holds. -/
theorem storeWork_stores {t n i : Nat} {p : Program} {s : State} (outside : inSaveArea (memAddr (tileAt s n) i) 8 = false)
    (clear : interlocked (tileAt s n) (memAddr (tileAt s n) i, 8) true = false) :
    storeWork n p i (dispatchedState t n i s) = retire n (tileWrite p n (memAddr (tileAt s n) i)
      (natLe ((tileAt s n).sreg (iRb i)).toNat 8) (dispatchedState t n i s)) := by
  have addr : memAddr ((tileAt s n).dispatched i) i = memAddr (tileAt s n) i := rfl
  have value : ((tileAt s n).dispatched i).sreg (iRb i) = (tileAt s n).sreg (iRb i) := rfl
  have clear' : interlocked ((tileAt s n).dispatched i) (memAddr (tileAt s n) i, 8) true = false := clear
  simp [storeWork, addr, value, outside, clear']

/-- Settles O31: the store writes its word into the dispatched tile, and `TileStored` says what else stands. -/
theorem storeWritesOneWord : Obligations.StoreWritesOneWord := by
  intro t i tile p s hx hp ho x a outside clear
  let bs := natLe (x.sreg (iRb i)).toNat 8
  let d := dispatchedState t tile.val i s
  let w := tileWrite p tile.val a bs d
  have word : bs.length = 8 := length_natLe _ 8
  have stored : TileStored p tile.val a bs d w := tileWrite_stores_word p tile.val d word outside
  have before : tileAt d tile.val = x.dispatched i := tileAt_dispatchedState t tile.val i s
  have writes : tileAt w tile.val = { x.dispatched i with scratch := (tileAt w tile.val).scratch } := by
    rw [← before]; exact stored.tile
  obtain ⟨u, runs, others, here, frame⟩ := withInstr_finishes (t := t) hx hp ho (storeWork tile.val)
    (storeWork_stores outside clear) (by rw [tileAt_retire, writes]; rfl) fun m hm =>
      ((tileAt_retire_other _ hm).trans (stored.others m hm)).trans (tileAt_dispatchedState_other t i s hm)
  rw [tileAt_retire] at here
  have scratch : (tileAt u tile.val).scratch = (tileAt w tile.val).scratch := by rw [here]
  have hbm : u.hbm = w.hbm := by rw [frame]; rfl
  refine ⟨u, runs, ?_, ?_, fun b pad apart => ?_, fun h apart => ?_, others, ?_⟩
  · rw [tileRead_congr scratch (by rw [here]) hbm, ← word]
    exact stored.bytes
  · rw [scratch, here, writes]; rfl
  · rw [scratch, stored.scratch b pad (by rwa [word]), before]; rfl
  · rw [hbm, stored.hbm h (by rwa [word, before])]; rfl
  · rw [show u = { w with tiles := u.tiles } from frame, stored.frame]
    rfl

end Sys2Proof.Machine

namespace Sys2Proof.Machine

/-! ## Jumps, branches, fences and waits (R549 to R553, R669, R671) -/

/-! ### Where an instruction goes on -/

/-- The PC that RETIRE leaves. -/
def Tile.nextPc (x : Tile) : Nat := (x.pc + 16) % 2 ^ 32

/-- The PC that RETIRE_JUMP leaves. -/
def Tile.jumpPc (x : Tile) (i : Nat) : Nat := (((x.pc : Int) + 16 * immInt i) % (2 ^ 32 : Int)).toNat

section
variable {t n i op : Nat} {p : Program} {s : State} (hx : Executes s n i) (hp : s.prog = some p) (ho : iOp i = op)
include hx hp ho

/-- An instruction whose work only moves the PC of its tile. -/
theorem withInstr_moves (k : Program → Nat → State → State) (f : Tile → Tile) {pc : Nat}
    (hk : k p i (dispatchedState t n i s) = modTile n f (dispatchedState t n i s))
    (hf : f ((tileAt s n).dispatched i) = { (tileAt s n).dispatched i with pc := pc }) :
    ∃ u, withInstr t n op k s = .next u ∧ OneTile n t s u ∧ tileAt u n = (tileAt s n).after i pc := by
  have tile : tileAt (modTile n f (dispatchedState t n i s)) n = { (tileAt s n).dispatched i with pc := pc } := by
    rw [tileAt_modTile_same, tileAt_dispatchedState, hf]
  obtain ⟨u, runs, one, here⟩ := withInstr_oneTile hx hp ho k hk ((dispatchedState_oneTile t n i s).modTile f)
    (by rw [tile]; rfl)
  exact ⟨u, runs, one, here.trans (by rw [tile]; rfl)⟩

theorem withInstr_retires (k : Program → Nat → State → State)
    (hk : k p i (dispatchedState t n i s) = retire n (dispatchedState t n i s)) :
    ∃ u, withInstr t n op k s = .next u ∧ OneTile n t s u ∧ tileAt u n = (tileAt s n).after i (tileAt s n).nextPc :=
  withInstr_moves hx hp ho k _ hk rfl

theorem withInstr_jumps (k : Program → Nat → State → State)
    (hk : k p i (dispatchedState t n i s) = jump n i (dispatchedState t n i s)) :
    ∃ u, withInstr t n op k s = .next u ∧ OneTile n t s u ∧ tileAt u n = (tileAt s n).after i ((tileAt s n).jumpPc i) :=
  withInstr_moves hx hp ho k _ hk rfl

/-! ### Branches and waits -/

omit hx hp ho in
/-- What a branch's work compares stands as before dispatch. -/
theorem sreg_dispatched (r : Nat) : ((tileAt s n).dispatched i).sreg r = (tileAt s n).sreg r := rfl

/-- A branch goes by what its two registers hold. -/
theorem branch_goes (c : Word → Word → Bool) {pc : Nat}
    (goes : (if c ((tileAt s n).sreg (iRa i)) ((tileAt s n).sreg (iRb i)) then (tileAt s n).jumpPc i
      else (tileAt s n).nextPc) = pc) :
    ∃ u, branch t n op c s = .next u ∧ OneTile n t s u ∧ tileAt u n = (tileAt s n).after i pc := by
  rw [← goes]
  split
  · next taken =>
    exact withInstr_jumps hx hp ho _ (by simp only [tileAt_dispatchedState, sreg_dispatched, if_pos taken])
  · next untaken =>
    exact withInstr_retires hx hp ho _ (by simp only [tileAt_dispatchedState, sreg_dispatched, if_neg untaken])

/-- An instruction that waits for a condition on its tile is executed again until the condition holds. -/
theorem withInstr_awaits (c : Tile → Prop) [DecidablePred c] {met : Prop} [Decidable met]
    (hc : c ((tileAt s n).dispatched i) ↔ met) :
    ∃ u, withInstr t n op (fun _ _ s => if c (tileAt s n) then retire n s else s) s = .next u ∧ OneTile n t s u ∧
      tileAt u n = (tileAt s n).after i (if met then (tileAt s n).nextPc else (tileAt s n).pc) := by
  split
  · next holds => exact withInstr_retires hx hp ho _ (if_pos (by rwa [tileAt_dispatchedState, hc]))
  · next fails => exact withInstr_repeats hx hp ho _ (if_neg (by rwa [tileAt_dispatchedState, hc]))

end

theorem not_slt_iff (a b : Word) : (!a.slt b) = true ↔ ¬ a.toInt < b.toInt := by
  rw [Bool.not_eq_true', ← Bool.not_eq_true, BitVec.slt_iff_toInt_lt]

/-! ### QWAIT -/

/-- The tile's work for QWAIT. -/
def qwaitWork (n : Nat) (_ : Program) (i : Nat) (s : State) : State :=
  let x := tileAt s n
  let a := srcAOf x i
  if poisoned s.tiers.hbmPoison a 8 then machineCheck n 8 s
  else if (x.sreg (iRb i)).toNat ≤ hbmWord s a then retire n s else park n s

theorem exec_qwait (t : Nat) (tile : Fin 160) (s : State) :
    exec (.qwait t tile) s = withInstr t tile.val 0x61 (qwaitWork tile.val) s := rfl

/-- A QWAIT that reads no poison compares the word that HBM holds. -/
theorem qwaitWork_compares (t : Nat) {n i : Nat} (p : Program) {s : State}
    (sound : poisoned s.tiers.hbmPoison ((tileAt s n).sreg (iRa i)).toNat 8 = false) :
    qwaitWork n p i (dispatchedState t n i s) =
      if ((tileAt s n).sreg (iRb i)).toNat ≤ hbmWord s ((tileAt s n).sreg (iRa i)).toNat
      then retire n (dispatchedState t n i s) else park n (dispatchedState t n i s) := by
  simp only [qwaitWork, srcAOf, tileAt_dispatchedState, sreg_dispatched]
  exact if_neg (ne_true_of_eq_false sound)

section
variable {t i : Nat} {tile : Fin 160} {p : Program} {s : State} (hx : Executes s tile.val i) (hp : s.prog = some p)
  (ho : iOp i = 0x61) (sound : poisoned s.tiers.hbmPoison ((tileAt s tile.val).sreg (iRa i)).toNat 8 = false)
include hx hp ho sound

theorem qwait_retires (reached : ((tileAt s tile.val).sreg (iRb i)).toNat ≤
      hbmWord s ((tileAt s tile.val).sreg (iRa i)).toNat) :
    ∃ u, exec (.qwait t tile) s = .next u ∧ OneTile tile.val t s u ∧
      tileAt u tile.val = (tileAt s tile.val).after i (tileAt s tile.val).nextPc := by
  rw [exec_qwait]
  exact withInstr_retires hx hp ho _ ((qwaitWork_compares t p sound).trans (if_pos reached))

theorem qwait_parks (below : hbmWord s ((tileAt s tile.val).sreg (iRa i)).toNat <
      ((tileAt s tile.val).sreg (iRb i)).toNat) :
    ∃ u, exec (.qwait t tile) s = .next u ∧ OneTile tile.val t s u ∧ tileAt u tile.val =
      { (tileAt s tile.val).after i (tileAt s tile.val).pc with waits := true, burst := (tileAt s tile.val).burst } := by
  let d := dispatchedState t tile.val i s
  have parks : qwaitWork tile.val p i d = park tile.val d :=
    (qwaitWork_compares t p sound).trans (if_neg (Nat.not_le.mpr below))
  have parked : (tileAt (park tile.val d) tile.val).waits = true := by simp [park]
  refine ⟨park tile.val d, ?_, (dispatchedState_oneTile t tile.val i s).modTile _, by simp [park, d, Tile.dispatched]⟩
  rw [exec_qwait, withInstr_executes hx hp ho, parks, endBurst_parked parked]

end

/-! ### The instructions -/

/-- Settles O32: each instruction by where its work moves the PC. -/
theorem controlFlow : Obligations.ControlFlow := by
  intro t i tile s hx x a b goes jumped next
  have ⟨p, hp, _⟩ := hx
  refine ⟨fun ho => ?nop, fun ho => ?jmp, fun ho => ?beq, fun ho => ?bne, fun ho => ?blt, fun ho => ?bge, fun ho => ?syncSs,
    fun ho => ?syncLl, fun ho => ?syncSl, fun ho => ?mvwait0, fun ho => ?mvwait1,
    fun ho sound => ⟨qwait_retires hx hp ho sound, qwait_parks hx hp ho sound⟩⟩
  case nop => exact withInstr_retires hx hp ho _ rfl
  case jmp => exact withInstr_jumps hx hp ho _ rfl
  case beq => exact branch_goes hx hp ho (fun a b => a == b) (if_congr beq_iff_eq rfl rfl)
  case bne => exact branch_goes hx hp ho (fun a b => a != b) ((if_congr bne_iff_ne rfl rfl).trans (ite_not _ _ _))
  case blt => exact branch_goes hx hp ho (fun a b => a.slt b) (if_congr BitVec.slt_iff_toInt_lt rfl rfl)
  case bge => exact branch_goes hx hp ho (fun a b => !a.slt b) ((if_congr (not_slt_iff a b) rfl rfl).trans (ite_not _ _ _))
  case syncSs => exact withInstr_retires hx hp ho _ rfl
  case syncLl => exact withInstr_retires hx hp ho _ rfl
  case syncSl => exact withInstr_awaits hx hp ho (fun x => x.ops = []) Iff.rfl
  case mvwait0 => exact withInstr_awaits hx hp ho (fun x => (x.chan 0).idle = true) List.isEmpty_iff
  case mvwait1 => exact withInstr_awaits hx hp ho (fun x => (x.chan 1).idle = true) List.isEmpty_iff

end Sys2Proof.Machine

namespace Sys2Proof.Machine

/-! ## What mover commands move (R595, R597, R599, R602, R605, R607) -/

/-! ### Offsets in a box (R596) -/

theorem getD_map_range {α : Type} (f : Nat → α) (d : α) {n i : Nat} (h : i < n) :
    ((List.range n).map f).getD i d = f i := by
  simp [List.getD_eq_getElem?_getD, h]

/-- Adding an offset reads its four coordinates alone. -/
theorem plus_congr (o : List Int) {y z : List Nat} (h : ∀ i, i < 4 → y.getD i 0 = z.getD i 0) : plus o y = plus o z :=
  List.map_congr_left fun i hi => by rw [h i (List.mem_range.mp hi)]

/-- The index of an offset of a box, a0 fastest. -/
def offsetIndex (n z : Nat → Nat) : Nat := z 0 + n 0 * (z 1 + n 1 * (z 2 + n 2 * z 3))

/-- A digit below `n` and a number below `m` make one below their product. -/
theorem digit_lt {z n r m : Nat} (low : z < n) (high : r < m) : z + n * r < n * m :=
  calc z + n * r < n + n * r := Nat.add_lt_add_right low _
    _ = n * (r + 1) := by rw [Nat.mul_succ, Nat.add_comm]
    _ ≤ n * m := Nat.mul_le_mul_left n high

theorem digit_mod {z n : Nat} (low : z < n) (r : Nat) : (z + n * r) % n = z := by
  rw [Nat.add_mul_mod_self_left, Nat.mod_eq_of_lt low]

theorem digit_div {z n : Nat} (low : z < n) (r : Nat) : (z + n * r) / n = r := by
  rw [Nat.add_mul_div_left _ _ (Nat.zero_lt_of_lt low), Nat.div_eq_of_lt low, Nat.zero_add]

section
variable {n z : Nat → Nat} (inside : ∀ i, i < 4 → z i < n i)
include inside

theorem offsetIndex_lt : offsetIndex n z < n 0 * n 1 * n 2 * n 3 := by
  rw [Nat.mul_assoc (n 0 * n 1), Nat.mul_assoc (n 0)]
  exact digit_lt (inside 0 (by decide))
    (digit_lt (inside 1 (by decide)) (digit_lt (inside 2 (by decide)) (inside 3 (by decide))))

theorem offsets_offsetIndex : offsets n (offsetIndex n z) = [z 0, z 1, z 2, z 3] := by
  have h0 := inside 0 (by decide)
  have h1 := inside 1 (by decide)
  have h2 := inside 2 (by decide)
  simp only [offsets, offsetIndex, ← Nat.div_div_eq_div_mul, digit_mod h0, digit_div h0, digit_mod h1, digit_div h1,
    digit_mod h2, digit_div h2]

end

/-- The offsets below the size of a box lie in it. -/
theorem offsets_lt {n : Nat → Nat} {k : Nat} (h : k < n 0 * n 1 * n 2 * n 3) {i : Nat} (hi : i < 4) :
    (offsets n k).getD i 0 < n i := by
  have filled : 0 < n 0 * n 1 * n 2 * n 3 := Nat.zero_lt_of_lt h
  have h012 := Nat.pos_of_mul_pos_right filled
  have h01 := Nat.pos_of_mul_pos_right h012
  match i, hi with
  | 0, _ => exact Nat.mod_lt _ (Nat.pos_of_mul_pos_right h01)
  | 1, _ => exact Nat.mod_lt _ (Nat.pos_of_mul_pos_left h01)
  | 2, _ => exact Nat.mod_lt _ (Nat.pos_of_mul_pos_left h012)
  | 3, _ => exact Nat.div_lt_of_lt_mul h

/-! ### BOX without WINDOW, and PERMUTE -/

/-- The source axes of the four destination axes are the four axes. -/
structure MoverCmd.Permutes (m : MoverCmd) : Prop where
  axis : ∀ i, i < 4 → m.sourceAxis i < 4
  all : ∀ a, a < 4 → ∃ i, i < 4 ∧ m.sourceAxis i = a

theorem MoverCmd.Permutes.injective {m : MoverCmd} (h : m.Permutes) {i j : Nat} (hi : i < 4) (hj : j < 4)
    (same : m.sourceAxis i = m.sourceAxis j) : i = j := by
  let f : Fin 4 → Fin 4 := fun i => ⟨m.sourceAxis i, h.axis i i.isLt⟩
  have onto : f.Surjective := fun a =>
    have ⟨i, hi, ha⟩ := h.all a a.isLt
    ⟨⟨i, hi⟩, Fin.ext ha⟩
  exact Fin.mk.inj_iff.mp (Finite.injective_iff_surjective.mpr onto (a₁ := ⟨i, hi⟩) (a₂ := ⟨j, hj⟩) (Fin.ext same))

theorem permutes_of_box {m : MoverCmd} (kind : m.kind = 1) : m.Permutes := by
  by_cases swaps : m.xform = 2
  · have axis : m.sourceAxis = fun i => if i ≤ 1 then 1 - i else i := by
      funext i; simp [MoverCmd.sourceAxis, kind, swaps]
    exact ⟨by rw [axis]; decide, by rw [axis]; decide⟩
  · have axis : m.sourceAxis = fun i => i := by
      funext i; simp [MoverCmd.sourceAxis, kind, swaps]
    exact ⟨by rw [axis]; decide, by rw [axis]; decide⟩

theorem permutes_of_permute {m : MoverCmd} (kind : m.kind = 4) (all : ∀ a, a < 4 → ∃ i, i < 4 ∧ m.perm i = a) :
    m.Permutes := by
  have axis : m.sourceAxis = m.perm := by funext i; exact if_pos kind
  refine ⟨fun i _ => ?_, by rwa [axis]⟩
  have width : 2 * i + 1 + 1 - 2 * i = 2 := by omega
  rw [axis, MoverCmd.perm, bits, width]
  exact Nat.mod_lt _ (by decide)

/-- The source offset of a destination offset. -/
def MoverCmd.sourceOffset (m : MoverCmd) (z : List Nat) : List Nat :=
  (List.range 4).map fun a => ((List.range 4).find? fun i => m.sourceAxis i = a).elim 0 fun i => z.getD i 0

theorem boxJobs_plain {m : MoverCmd} (plain : m.xform ≠ 1) :
    boxJobs m = (List.range (m.dstCount 0 * m.dstCount 1 * m.dstCount 2 * m.dstCount 3)).map fun k =>
      .move (.elem (plus m.so (m.sourceOffset (offsets m.dstCount k)))) (.elem (plus m.do_ (offsets m.dstCount k))) := by
  simp only [boxJobs, if_neg plain]
  rfl

theorem boxJobs_window {m : MoverCmd} (window : m.xform = 1) :
    boxJobs m = (List.range (m.dstCount 0 * m.dstCount 1 * m.dstCount 2 * m.dstCount 3)).map fun k =>
      let z := offsets m.dstCount k
      .move (.elem (plus m.so [z.getD 0 0 % m.count 0, z.getD 1 0 * m.step + z.getD 0 0 / m.count 0 * m.dilation,
        z.getD 2 0, z.getD 3 0])) (.elem (plus m.do_ z)) := by
  simp only [boxJobs, if_pos window]

theorem dstCount_plain {m : MoverCmd} (plain : m.xform ≠ 1) (i : Nat) : m.dstCount i = m.count (m.sourceAxis i) :=
  if_neg fun h => plain h.1

theorem jobsOf_box {m : MoverCmd} (kind : m.kind = 1 ∨ m.kind = 4) (v : View) (es : List (List Nat)) :
    jobsOf m v es = boxJobs m := by
  have unlisted : m.lists = false := by rcases kind with h | h <;> simp [MoverCmd.lists, h]
  simp [jobsOf, unlisted]

section
variable {m : MoverCmd} (permutes : m.Permutes)
include permutes

theorem find?_sourceAxis {i : Nat} (hi : i < 4) :
    ((List.range 4).find? fun j => m.sourceAxis j = m.sourceAxis i) = some i := by
  cases found : (List.range 4).find? fun j => m.sourceAxis j = m.sourceAxis i with
  | none => exact absurd (decide_eq_true rfl) (List.find?_eq_none.mp found i (List.mem_range.mpr hi))
  | some j =>
    have same : m.sourceAxis j = m.sourceAxis i := by simpa using List.find?_some found
    rw [permutes.injective (List.mem_range.mp (List.mem_of_find?_eq_some found)) hi same]

theorem getD_sourceOffset (z : List Nat) {i : Nat} (hi : i < 4) :
    (m.sourceOffset z).getD (m.sourceAxis i) 0 = z.getD i 0 := by
  rw [MoverCmd.sourceOffset, getD_map_range _ _ (permutes.axis i hi), find?_sourceAxis permutes hi]
  rfl

variable (plain : m.xform ≠ 1)
include plain

/-- Every offset of the box is moved, to its coordinates in destination order. -/
theorem mem_boxJobs {y z : List Nat} (inside : ∀ a, a < 4 → y.getD a 0 < m.count a)
    (reordered : ∀ i, i < 4 → z.getD i 0 = y.getD (m.sourceAxis i) 0) :
    .move (.elem (plus m.so y)) (.elem (plus m.do_ z)) ∈ boxJobs m := by
  have inside' (i : Nat) (hi : i < 4) : z.getD i 0 < m.dstCount i := by
    rw [reordered i hi, dstCount_plain plain]
    exact inside _ (permutes.axis i hi)
  have coordinates : offsets m.dstCount (offsetIndex m.dstCount (z.getD · 0)) = (List.range 4).map (z.getD · 0) :=
    offsets_offsetIndex inside'
  have dst : plus m.do_ ((List.range 4).map (z.getD · 0)) = plus m.do_ z :=
    plus_congr _ fun i hi => getD_map_range _ _ hi
  have src : plus m.so (m.sourceOffset ((List.range 4).map (z.getD · 0))) = plus m.so y := by
    refine plus_congr _ fun a ha => ?_
    obtain ⟨i, hi, rfl⟩ := permutes.all a ha
    rw [getD_sourceOffset permutes _ hi, getD_map_range _ _ hi, reordered i hi]
  rw [boxJobs_plain plain]
  exact List.mem_map.mpr ⟨_, List.mem_range.mpr (offsetIndex_lt inside'), by rw [coordinates, src, dst]⟩

/-- Every job moves an offset of the box. -/
theorem of_mem_boxJobs {j : Job} (listed : j ∈ boxJobs m) :
    ∃ y z : List Nat, j = .move (.elem (plus m.so y)) (.elem (plus m.do_ z)) ∧
      (∀ a, a < 4 → y.getD a 0 < m.count a) ∧ ∀ i, i < 4 → z.getD i 0 = y.getD (m.sourceAxis i) 0 := by
  rw [boxJobs_plain plain] at listed
  obtain ⟨k, low, rfl⟩ := List.mem_map.mp listed
  refine ⟨_, _, rfl, fun a ha => ?_, fun i hi => (getD_sourceOffset permutes _ hi).symm⟩
  obtain ⟨i, hi, rfl⟩ := permutes.all a ha
  rw [getD_sourceOffset permutes _ hi, ← dstCount_plain plain]
  exact offsets_lt (List.mem_range.mp low) hi

end

/-! ### BOX with WINDOW (R602) -/

/-- Every position, tap, element and row of a window is moved. -/
theorem mem_boxJobs_window {m : MoverCmd} (kind : m.kind = 1) (window : m.xform = 1) {p tap u y2 y3 : Nat}
    (hp : p < m.count 1) (ht : tap < m.taps) (hu : u < m.count 0) (h2 : y2 < m.count 2) (h3 : y3 < m.count 3) :
    .move (.elem (plus m.so [u, p * m.step + tap * m.dilation, y2, y3]))
      (.elem (plus m.do_ [tap * m.count 0 + u, p, y2, y3])) ∈ boxJobs m := by
  let z := [u + m.count 0 * tap, p, y2, y3]
  have axis (i : Nat) (hi : i ≠ 0) : m.dstCount i = m.count i := by
    simp [MoverCmd.dstCount, MoverCmd.sourceAxis, kind, window, hi]
  have first : m.dstCount 0 = m.count 0 * m.taps := by simp [MoverCmd.dstCount, window, Nat.mul_comm]
  have inside : ∀ i, i < 4 → z.getD i 0 < m.dstCount i := by
    intro i hi
    match i, hi with
    | 0, _ => rw [first]; exact digit_lt hu ht
    | 1, _ => rwa [axis 1 (by decide)]
    | 2, _ => rwa [axis 2 (by decide)]
    | 3, _ => rwa [axis 3 (by decide)]
  have coordinates : offsets m.dstCount (offsetIndex m.dstCount (z.getD · 0)) = z := offsets_offsetIndex inside
  have column : z.getD 0 0 % m.count 0 = u := digit_mod hu tap
  have taps : z.getD 0 0 / m.count 0 = tap := digit_div hu tap
  rw [Nat.add_comm (tap * m.count 0), Nat.mul_comm tap (m.count 0), boxJobs_window window]
  refine List.mem_map.mpr ⟨_, List.mem_range.mpr (offsetIndex_lt inside), ?_⟩
  simp only [coordinates, column, taps]
  rfl

/-! ### GATHER and SCATTER (R597, R599) -/

theorem mem_numbered {α : Type} {es : List α} {i : Nat} {e : α} (h : es[i]? = some e) (n : Nat) :
    (n + i, e) ∈ numbered n es := by
  induction es generalizing n i with
  | nil => simp at h
  | cons a as ih =>
    cases i with
    | zero =>
      obtain rfl : a = e := by simpa using h
      exact List.mem_cons_self
    | succ i =>
      have later := ih (i := i) (by simpa using h) (n + 1)
      rw [Nat.add_right_comm] at later
      exact List.mem_cons_of_mem _ later

theorem mem_jobsOf_entry {m : MoverCmd} (lists : m.lists = true) {v : View} {es : List (List Nat)} {i : Nat}
    {e : List Nat} (h : es[i]? = some e) {j : Job} (listed : j ∈ entryJobs m v i e) : j ∈ jobsOf m v es := by
  rw [jobsOf, if_pos lists]
  have numbered := mem_numbered h 0
  rw [Nat.zero_add] at numbered
  exact List.mem_flatMap.mpr ⟨(i, e), numbered, listed⟩

/-- The brick at the origin that an entry belongs to. -/
def MoverCmd.entryBrick (m : MoverCmd) (v : View) (o : List Int) (i : Nat) : List Int :=
  (List.range 4).map fun a => o.getD a 0 / (v.brick a : Int) + (if a = m.stackAxis then (i : Int) else 0)

/-- The brick that an entry lists. -/
def listedBrick (e : List Nat) : List Int := e.map fun (x : Nat) => (x : Int)

theorem mem_cells {bx h u r : Nat} (hu : u < bx) (hr : r < h) (f : Nat → Nat → Job) :
    f u r ∈ (List.range (bx * h)).map fun k => f (k % bx) (k / bx) :=
  List.mem_map.mpr ⟨u + bx * r, List.mem_range.mpr (digit_lt hu hr), by rw [digit_mod hu, digit_div hu]⟩

theorem mem_entryJobs_null {m : MoverCmd} (v : View) (i : Nat) {e : List Nat} (null : e.getD 0 0 = 0xFFFF) :
    .nullEntry ∈ entryJobs m v i e := by
  simp only [entryJobs, if_pos null]
  exact List.mem_cons_self

section
variable {m : MoverCmd} {v : View} {e : List Nat} (listed : e.getD 0 0 ≠ 0xFFFF) (i : Nat) {u r : Nat} (hu : u < v.bx)
  (hr : r < v.by_)
include listed hu hr

theorem mem_entryJobs_gather (kind : m.kind = 2) :
    .move (.cell (listedBrick e) u r) (.cell (m.entryBrick v m.do_ i) u r) ∈ entryJobs m v i e := by
  simp only [entryJobs, if_neg listed, if_pos kind]
  exact mem_cells hu hr fun u r => .move (.cell (listedBrick e) u r) (.cell (m.entryBrick v m.do_ i) u r)

theorem mem_entryJobs_scatter (kind : m.kind = 3) :
    .move (.cell (m.entryBrick v m.so i) u r) (.cell (listedBrick e) u r) ∈ entryJobs m v i e := by
  have other : m.kind ≠ 2 := by rw [kind]; decide
  simp only [entryJobs, if_neg listed, if_neg other]
  exact mem_cells hu hr fun u r => .move (.cell (m.entryBrick v m.so i) u r) (.cell (listedBrick e) u r)

end

end Sys2Proof.Machine

namespace Sys2Proof.Machine

/-! ## The bytes that a mover command writes (R523, R569, R573, R578, R594) -/

/-! ### Tables with rising keys -/

/-- The keys of a table rise strictly. -/
def Tab.Rises {α : Type} (t : Tab α) : Prop := t.Pairwise fun x y => x.1 < y.1

theorem mem_tabInsert {α : Type} {k : Nat} {v : α} {t : Tab α} {e : Nat × α} (h : e ∈ tabInsert k v t) :
    e = (k, v) ∨ e ∈ t := by
  induction t with
  | nil => exact .inl (List.mem_singleton.mp h)
  | cons x t ih =>
    simp only [tabInsert] at h
    split at h
    · exact List.mem_cons.mp h
    · split at h
      · exact (List.mem_cons.mp h).imp_right (List.mem_cons_of_mem x)
      · rcases List.mem_cons.mp h with first | later
        · exact .inr (first ▸ List.mem_cons_self)
        · exact (ih later).imp_right (List.mem_cons_of_mem x)

theorem Tab.Rises.insert {α : Type} {t : Tab α} (h : Tab.Rises t) (k : Nat) (v : α) : Tab.Rises (tabInsert k v t) := by
  induction t with
  | nil => exact List.pairwise_singleton _ _
  | cons x t ih =>
    obtain ⟨above, rest⟩ := List.pairwise_cons.mp h
    simp only [tabInsert]
    split
    · next low => exact List.pairwise_cons.mpr ⟨fun e he => (List.mem_cons.mp he).elim (fun same => same ▸ low)
        fun later => Nat.lt_trans low (above e later), h⟩
    · split
      · next same => exact List.pairwise_cons.mpr ⟨fun e he => same ▸ above e he, rest⟩
      · next notLow notSame =>
        have high : x.1 < k := by omega
        exact List.pairwise_cons.mpr ⟨fun e he => (mem_tabInsert he).elim (fun new => new ▸ high) (above e), ih rest⟩

theorem tabGet_unlisted {α : Type} (d : α) {k : Nat} {t : Tab α} (h : ∀ e ∈ t, e.1 ≠ k) : tabGet d k t = d := by
  induction t with
  | nil => rfl
  | cons e t ih =>
    obtain ⟨first, rest⟩ := List.forall_mem_cons.mp h
    exact (if_neg first).trans (ih rest)

/-! ### A run keeps the keys of its bytes rising -/

/-- What no single step breaks, their sequence does not break, whatever it runs over. -/
theorem forEach_invariant {σ α : Type} {P : σ → Prop} {f : α → σ → σ} (h : ∀ a u, P u → P (f a u)) (xs : List α)
    {s : σ} (hs : P s) : P (forEach f xs s) := by
  induction xs generalizing s with
  | nil => exact hs
  | cons a as ih => exact ih (h a s hs)

/-- The bytes that a run has to write have rising keys. -/
def Run.Rises (r : Run) : Prop := Tab.Rises r.out

section
variable (e : Setting) (h : Home)

theorem runRead_out (a : Int) (k : Nat) (r : Run) : (runRead e h a k r).1.out = r.out := by
  induction k generalizing a r with
  | zero => rfl
  | succ k ih => simp only [runRead]; (repeat' split) <;> simp [ih]

theorem getScale_out (f : Ref) (r : Run) : (getScale e f r).1.out = r.out := by
  simp only [getScale]
  split
  · rfl
  · split
    · exact runRead_out e _ _ _ r
    · rfl

theorem getCode_out (f : Ref) (r : Run) : (getCode e f r).1.out = r.out := by
  simp only [getCode]
  (repeat' split) <;> first | exact runRead_out e _ _ _ r | rfl

theorem Run.Rises.runWrite {r : Run} (rises : r.Rises) (a : Int) (bs : List Byte) : (runWrite e h a bs r).Rises := by
  induction bs generalizing a r with
  | nil => exact rises
  | cons b bs ih =>
    simp only [Machine.runWrite]
    split
    · exact rises
    · next x _ =>
      have inserted : Run.Rises { r with out := tabInsert (spotKey x) b r.out } := Tab.Rises.insert rises _ b
      exact ih inserted (a + 1)

theorem Run.Rises.putCode {r : Run} (rises : r.Rises) (x : List Nat) (code : Nat) : (putCode e h x code r).Rises :=
  rises.runWrite e h _ _

theorem Run.Rises.putScale {r : Run} (rises : r.Rises) (x : List Nat) (code : Nat) : (putScale e h x code r).Rises := by
  simp only [Machine.putScale]
  split
  · exact rises.runWrite e h _ _
  · exact rises

theorem Run.Rises.padBrick {r : Run} (rises : r.Rises) (x : List Nat) : (padBrick e h x r).Rises := by
  simp only [Machine.padBrick]
  split
  · exact rises
  · refine forEach_invariant (fun k r rises => ?_) _ rises
    split
    · exact rises
    · split
      · split
        · exact rises.putCode e h _ 0
        · exact (rises.putCode e h _ 0).putScale e h _ _
      · exact rises.putCode e h _ 0

end

/-- A job only writes once it has read its element and its scale. -/
theorem Run.Rises.runJob {r : Run} (rises : r.Rises) (e : Setting) (j : Job) : (runJob e j r).Rises := by
  cases j with
  | nullEntry => simp only [Machine.runJob]; split <;> exact rises
  | move f g =>
    obtain ⟨read, code, reads⟩ : ∃ read code, getCode e f r = (read, code) := ⟨_, _, rfl⟩
    obtain ⟨scaled, scale, scales⟩ : ∃ scaled scale, getScale e f read = (scaled, scale) := ⟨_, _, rfl⟩
    have read_out : read.out = r.out := by rw [← getCode_out e f r, reads]
    have scaled_out : scaled.out = r.out := by rw [← read_out, ← getScale_out e f read, scales]
    have moved (k : Nat) : Run.Rises { scaled with moved := k } := by rw [Run.Rises, scaled_out]; exact rises
    simp only [Machine.runJob, reads, scales]
    split
    · exact rises
    split
    · rw [Run.Rises, read_out]; exact rises
    split
    · rw [Run.Rises, scaled_out]; exact rises
    split
    · exact (((moved _).padBrick e _ _).putCode e _ _ _).putScale e _ _ _
    · exact (moved _).padBrick e _ _
    · split <;> exact moved 0

theorem forEach_runJob_rises (e : Setting) (jobs : List Job) : (forEach (runJob e) jobs {}).Rises :=
  forEach_invariant (fun j _ rises => rises.runJob e j) jobs List.Pairwise.nil

end Sys2Proof.Machine

namespace Sys2Proof.Machine

/-! ## The bytes that a mover command writes reach their memory (R523, R570, R590) -/

/-! ### Runs of bytes -/

/-- A memory with the bytes of a table put at their keys less `base`. -/
def putBytes (base : Nat) : Tab Byte → Memory → Memory
  | [], m => m
  | (k, b) :: t, m => putBytes base t (memPut m (k - base) b)

theorem putBytes_append (base : Nat) (t u : Tab Byte) (m : Memory) :
    putBytes base (t ++ u) m = putBytes base u (putBytes base t m) := by
  induction t generalizing m with
  | nil => rfl
  | cons e t ih => exact ih _

/-- A byte reads as the table has it, where the table has it. -/
theorem memGet_putBytes {base : Nat} {t : Tab Byte} (rises : Tab.Rises t) (above : ∀ e ∈ t, base ≤ e.1) (m : Memory)
    (a : Nat) : memGet (putBytes base t m) a = tabGet (memGet m a) (base + a) t := by
  induction t generalizing m with
  | nil => rfl
  | cons e t ih =>
    obtain ⟨low, rises⟩ := List.pairwise_cons.mp rises
    obtain ⟨first, above⟩ := List.forall_mem_cons.mp above
    have rest := ih rises above (memPut m (e.1 - base) e.2)
    by_cases here : e.1 = base + a
    · have place : e.1 - base = a := by omega
      have later : ∀ x ∈ t, x.1 ≠ base + a := fun x hx => here ▸ (low x hx).ne'
      have put : memGet (memPut m (e.1 - base) e.2) a = e.2 := by rw [place]; exact tabGet_put_same 0 a e.2 m
      rw [tabGet_unlisted _ later, put] at rest
      exact rest.trans (if_pos here).symm
    · have elsewhere : a ≠ e.1 - base := by omega
      have stands : memGet (memPut m (e.1 - base) e.2) a = memGet m a := tabGet_put_other 0 0 _ a e.2 m elsewhere
      rw [stands] at rest
      exact rest.trans (if_neg here).symm

theorem memWrite_eq_putBytes {base k : Nat} (h : base ≤ k) (bs : List Byte) (m : Memory) :
    memWrite m (k - base) bs = putBytes base (numbered k bs) m := by
  induction bs generalizing k m with
  | nil => rfl
  | cons b bs ih =>
    have next := ih (Nat.le_succ_of_le h) (memPut m (k - base) b)
    rw [Nat.succ_sub h] at next
    exact next

theorem runsOf_cons (k : Nat) (b : Byte) (t : Tab Byte) : runsOf ((k, b) :: t) = (k, [b]) :: runsOf t ∨
    ∃ bs r, runsOf t = (k + 1, bs) :: r ∧ runsOf ((k, b) :: t) = (k, b :: bs) :: r := by
  cases later : runsOf t with
  | nil => exact .inl (by simp only [runsOf, later])
  | cons x r =>
    obtain ⟨j, bs⟩ := x
    by_cases joins : j = k + 1
    · subst joins
      exact .inr ⟨bs, r, rfl, by simp only [runsOf, later, if_true]⟩
    · exact .inl (by simp only [runsOf, later, if_neg joins])

/-- The runs spell out the table. -/
theorem flatMap_numbered_runsOf (t : Tab Byte) : ((runsOf t).flatMap fun kb => numbered kb.1 kb.2) = t := by
  induction t with
  | nil => rfl
  | cons e t ih =>
    rcases runsOf_cons e.1 e.2 t with apart | ⟨bs, r, later, joined⟩
    · rw [apart, List.flatMap_cons, ih]; rfl
    · rw [later] at ih
      rw [joined, ← ih]; rfl

theorem runsOf_nonempty (t : Tab Byte) : ∀ kb ∈ runsOf t, kb.2 ≠ [] := by
  induction t with
  | nil => exact fun _ h => absurd h List.not_mem_nil
  | cons e t ih =>
    rcases runsOf_cons e.1 e.2 t with apart | ⟨bs, r, later, joined⟩
    · rw [apart]
      exact List.forall_mem_cons.mpr ⟨List.cons_ne_nil _ _, ih⟩
    · rw [later] at ih
      rw [joined]
      exact List.forall_mem_cons.mpr ⟨List.cons_ne_nil _ _, (List.forall_mem_cons.mp ih).2⟩

/-- The keys of a run of bytes in a range of keys. -/
theorem run_within {kb : Nat × List Byte} {lo hi : Nat} (nonempty : kb.2 ≠ [])
    (within : ∀ e ∈ numbered kb.1 kb.2, lo ≤ e.1 ∧ e.1 < hi) : lo ≤ kb.1 ∧ kb.1 + kb.2.length ≤ hi := by
  have length : 0 < kb.2.length := List.length_pos_of_ne_nil nonempty
  have key (i : Nat) (hi' : i < kb.2.length) : lo ≤ kb.1 + i ∧ kb.1 + i < hi :=
    within _ (mem_numbered (List.getElem?_eq_getElem hi') kb.1)
  have first := key 0 length
  have last := key (kb.2.length - 1) (by omega)
  omega

/-! ### One memory -/

/-- A run whose keys lie in a range is written to one memory, and what `rest` shows of the state stands. -/
def CommitsTo {β : Type} (p : Program) (n c lo hi : Nat) (mem : State → Memory) (rest : State → β) : Prop :=
  ∀ k bs s, lo ≤ k → k + bs.length ≤ hi → bs ≠ [] →
    mem (commitRun p n c (k, bs) s) = memWrite (mem s) (k - lo) bs ∧ rest (commitRun p n c (k, bs) s) = rest s

theorem CommitsTo.forEach {β : Type} {p : Program} {n c lo hi : Nat} {mem : State → Memory} {rest : State → β}
    (one : CommitsTo p n c lo hi mem rest) {rs : List (Nat × List Byte)} (nonempty : ∀ kb ∈ rs, kb.2 ≠ [])
    (within : ∀ e ∈ rs.flatMap (fun kb => numbered kb.1 kb.2), lo ≤ e.1 ∧ e.1 < hi) (s : State) :
    mem (forEach (commitRun p n c) rs s) = putBytes lo (rs.flatMap fun kb => numbered kb.1 kb.2) (mem s) ∧
      rest (forEach (commitRun p n c) rs s) = rest s := by
  induction rs generalizing s with
  | nil => exact ⟨rfl, rfl⟩
  | cons kb rs ih =>
    rw [List.flatMap_cons] at within
    obtain ⟨here, later⟩ := List.forall_mem_append.mp within
    obtain ⟨filled, others⟩ := List.forall_mem_cons.mp nonempty
    obtain ⟨low, high⟩ := run_within filled here
    obtain ⟨writes, keeps⟩ := one kb.1 kb.2 s low high filled
    obtain ⟨memory, stands⟩ := ih others later (commitRun p n c kb s)
    rw [List.flatMap_cons, putBytes_append, ← memWrite_eq_putBytes low, ← writes]
    exact ⟨memory, stands.trans keeps⟩

/-- Committing a table of bytes whose keys lie in one memory's range. -/
theorem CommitsTo.spreads {β : Type} {p : Program} {n c lo hi : Nat} {mem : State → Memory} {rest : State → β}
    (one : CommitsTo p n c lo hi mem rest) {t : Tab Byte} (rises : Tab.Rises t)
    (within : ∀ e ∈ t, lo ≤ e.1 ∧ e.1 < hi) (s : State) :
    (∀ a, memGet (mem (Machine.forEach (commitRun p n c) (runsOf t) s)) a = tabGet (memGet (mem s) a) (lo + a) t) ∧
      rest (Machine.forEach (commitRun p n c) (runsOf t) s) = rest s := by
  have spelled := flatMap_numbered_runsOf t
  obtain ⟨memory, stands⟩ := one.forEach (runsOf_nonempty t) (by rw [spelled]; exact within) s
  rw [spelled] at memory
  exact ⟨fun a => by rw [memory, memGet_putBytes rises fun e he => (within e he).1], stands⟩

section
variable (p : Program) (n c : Nat)

theorem commitsTo_hbm : CommitsTo p n c 0 (2 ^ 63) State.hbm fun s => (s.cellar, s.hostMem) := by
  intro k bs s _ high _
  have kind : k / 2 ^ 64 = 0 := by omega
  have address : k % 2 ^ 64 = k := by omega
  simp only [commitRun, kind, address, if_true]
  exact ⟨rfl, rfl⟩

theorem commitsTo_cellar : CommitsTo p n c (2 ^ 64) (2 ^ 64 + 2 ^ 63) State.cellar fun s => (s.hbm, s.hostMem) := by
  intro k bs s low high nonempty
  have length : 0 < bs.length := List.length_pos_of_ne_nil nonempty
  have kind : k / 2 ^ 64 = 1 := by omega
  have address : k % 2 ^ 64 = k - 2 ^ 64 := by omega
  simp only [commitRun, kind, address, one_ne_zero, if_false, if_true]
  exact ⟨rfl, rfl⟩

theorem commitsTo_scratchpad {d : Nat} (hd : d < 160) : CommitsTo p n c ((16 + d) * 2 ^ 64) ((16 + d) * 2 ^ 64 + 0x200000)
    (fun s => (tileAt s d).scratch) fun s => (s.hbm, s.cellar, s.hostMem) := by
  intro k bs s low high nonempty
  have length : 0 < bs.length := List.length_pos_of_ne_nil nonempty
  have kind : k / 2 ^ 64 = 16 + d := by omega
  have address : k % 2 ^ 64 = k - (16 + d) * 2 ^ 64 := by omega
  have tile : commitRun p n c (k, bs) s = tileWrite p d (k - (16 + d) * 2 ^ 64) bs s := by
    simp only [commitRun, kind, address]
    rw [if_neg (by omega), if_neg (by omega), if_neg (by omega), if_pos (by omega), Nat.add_sub_cancel_left]
  rw [tile, tileWrite_scratchpad p d s (by omega)]
  exact ⟨congrArg Tile.scratch (tileAt_modTile_same d _ s), rfl⟩

end

/-! ### What committing leaves -/

/-- The state without what a mover command may touch. -/
def State.unmoved (s : State) : State := { s with
  tiles := [], hbm := [], cellar := [], hostMem := [], outbox := []
  links := { s.links with accesses := [], nextAccess := 0 }
  tiers := { s.tiers with hbmPoison := [], cellarPoison := [] }
  kiosk := { s.kiosk with counters := [] } }

theorem frame_of_unmoved {s u : State} (h : u.unmoved = s.unmoved) : u = { s with
    tiles := u.tiles, hbm := u.hbm, cellar := u.cellar, hostMem := u.hostMem, outbox := u.outbox
    links := { s.links with accesses := u.links.accesses, nextAccess := u.links.nextAccess }
    tiers := { s.tiers with hbmPoison := u.tiers.hbmPoison, cellarPoison := u.tiers.cellarPoison }
    kiosk := { s.kiosk with counters := u.kiosk.counters } } :=
  (congrArg (fun v : State => { v with
    tiles := u.tiles, hbm := u.hbm, cellar := u.cellar, hostMem := u.hostMem, outbox := u.outbox
    links := { v.links with accesses := u.links.accesses, nextAccess := u.links.nextAccess }
    tiers := { v.tiers with hbmPoison := u.tiers.hbmPoison, cellarPoison := u.tiers.cellarPoison }
    kiosk := { v.kiosk with counters := u.kiosk.counters } }) h :)

@[simp] theorem count_unmoved (i a k : Nat) (s : State) : (count i a k s).unmoved = s.unmoved := rfl

@[simp] theorem modTile_unmoved (n : Nat) (f : Tile → Tile) (s : State) : (modTile n f s).unmoved = s.unmoved := rfl

/-- What a channel knows of its command, peer accesses aside. -/
def Channel.plan (x : Channel) : Channel := { x with waiting := 0, peer := [] }

/-- What committing bytes keeps: the counters, what a mover command may not touch, and the command of a channel. -/
structure CommitFrame where
  counters : Tab Nat
  unmoved : State
  plan : Channel

def State.commitFrame (n c : Nat) (s : State) : CommitFrame :=
  ⟨s.kiosk.counters, s.unmoved, ((tileAt s n).chan c).plan⟩

theorem modTile_commitFrame {n c m : Nat} {f : Tile → Tile} {s : State}
    (h : m = n → ((f (tileAt s n)).chan c).plan = ((tileAt s n).chan c).plan) :
    (modTile m f s).commitFrame n c = s.commitFrame n c := by
  have plan : ((tileAt (modTile m f s) n).chan c).plan = ((tileAt s n).chan c).plan := by
    by_cases same : m = n
    · subst same; rw [tileAt_modTile_same]; exact h rfl
    · rw [tileAt_modTile_other f s (Ne.symm same)]
  exact congrArg (CommitFrame.mk s.kiosk.counters s.unmoved) plan

section
variable (p : Program) (n c : Nat)

theorem tilePut_commitFrame (m a : Nat) (b : Byte) (s : State) :
    (tilePut p m a b s).commitFrame n c = s.commitFrame n c := by
  simp only [tilePut]
  split
  · exact modTile_commitFrame fun _ => rfl
  · rfl

theorem tileWrite_commitFrame (m a : Nat) (bs : List Byte) (s : State) :
    (tileWrite p m a bs s).commitFrame n c = s.commitFrame n c := by
  simp only [tileWrite]
  split
  · exact modTile_commitFrame fun _ => rfl
  · exact (forEach_keeps (State.commitFrame n c) _ (fun i u => tilePut_commitFrame p n c m _ _ u) _ s :)

theorem moverAccess_commitFrame (sled off len : Nat) (data : Option (List Byte)) (s : State) :
    (moverAccess n c sled off len data s).commitFrame n c = s.commitFrame n c := by
  refine (modTile_commitFrame fun _ => ?_).trans rfl
  rw [Tile.chan_setChan]; rfl

theorem commitRun_commitFrame (kb : Nat × List Byte) (s : State) :
    (commitRun p n c kb s).commitFrame n c = s.commitFrame n c := by
  simp only [commitRun]
  split
  · rfl
  split
  · rfl
  split
  · rfl
  split
  · exact tileWrite_commitFrame p n c _ _ _ s
  · exact moverAccess_commitFrame n c _ _ _ _ s

end

end Sys2Proof.Machine

namespace Sys2Proof.Machine

/-! ## Mover commands start, move and complete (R556, R577, R579, R590, R591, R599) -/

/-! ### The start (R587, R590) -/

/-- The bytes of the list that a command names. -/
def MoverCmd.listBytes (m : MoverCmd) : Nat := if m.lists then 8 * m.count 0 else 0

/-- The oldest command of a channel is due under kind `k`, and what its start reads is there, unpoisoned and legal. -/
structure CommandDue (s : State) (p : Program) (n c k : Nat) (rec sv dv : List Byte) : Prop where
  program : s.prog = some p
  runs : moverRuns s n = true
  waits : ((tileAt s n).chan c).started = false
  kind : (moverCmdOf rec).kind = k
  legal : recordOk rec = true
  head : ∃ addr stamp rest, ((tileAt s n).chan c).commands = (addr, stamp) :: rest ∧ stamp ≤ (tileAt s n).retired ∧
    readCtl s p n addr 64 64 = some rec ∧
    ∀ r ∈ [(addr, 64), ((moverCmdOf rec).src, 64), ((moverCmdOf rec).dst, 64),
      ((moverCmdOf rec).list, (moverCmdOf rec).listBytes)], 0 < r.2 → tilePoisoned s p n r.1 r.2 = false
  source : readCtl s p n (moverCmdOf rec).src 64 64 = some sv
  destination : readCtl s p n (moverCmdOf rec).dst 64 64 = some dv
  list : (readCtl s p n (moverCmdOf rec).list (moverCmdOf rec).listBytes 8).isSome = true
  sourceOk : viewOk sv = true
  destinationOk : viewOk dv = true
  agrees : commandOk (moverCmdOf rec) (viewOf sv) (viewOf dv) (entriesOf s p n (moverCmdOf rec)) = true

/-- A channel as the start leaves it, with the record and views as read. -/
def Channel.begun (held : List Byte) (x : Channel) : Channel :=
  { x with started := true, moved := false, waiting := 0, peer := [], held := held }

/-- The state in which a started command transfers. -/
def commandStarted (t n c : Nat) (held : List Byte) (s : State) : State :=
  modTile n (fun x => x.setChan c (Channel.begun held)) (count 0x5420 1 1 (clockTo t s))

theorem recordOk_kind {rec : List Byte} (legal : recordOk rec = true) :
    1 ≤ (moverCmdOf rec).kind ∧ (moverCmdOf rec).kind ≤ 4 := by
  simp only [recordOk, Bool.and_eq_true, decide_eq_true_eq] at legal
  tauto

theorem readCtl_counted (t : Nat) (s : State) : readCtl (count 0x5420 1 1 (clockTo t s)) = readCtl s := rfl

theorem startMover_begins (t : Nat) {s : State} {p : Program} {n c k : Nat} {rec sv dv : List Byte}
    (due : CommandDue s p n c k rec sv dv) : startMover t n c k s =
      .next (beginTransfer p n c (moverCmdOf rec) (commandStarted t n c (rec ++ sv ++ dv) s)) := by
  obtain ⟨program, runs, waits, kind, legal, ⟨addr, stamp, rest, commands, retired, record, sound⟩, source,
    destination, list, sourceOk, destinationOk, agrees⟩ := due
  obtain ⟨listed, list⟩ := Option.isSome_iff_exists.mp list
  obtain ⟨kind_pos, kind_le⟩ := recordOk_kind legal
  have program' : (clockTo t s).prog = some p := program
  have starts : ¬ (moverRuns (clockTo t s) n = false ∨ ((tileAt s n).chan c).started = true ∨
      (tileAt s n).retired < stamp) := by
    have runs' : moverRuns (clockTo t s) n = true := runs
    simp [runs', waits, retired]
  have under : ¬ (if 2 ≤ (moverCmdOf rec).kind ∧ (moverCmdOf rec).kind ≤ 4 then (moverCmdOf rec).kind else 1) ≠ k := by
    split <;> omega
  have unpoisoned : ([(addr, 64), ((moverCmdOf rec).src, 64), ((moverCmdOf rec).dst, 64),
      ((moverCmdOf rec).list, (moverCmdOf rec).listBytes)].find? fun r => decide (0 < r.2) &&
        (badRange (count 0x5420 1 1 (clockTo t s)) p n [r]).isNone &&
        tilePoisoned (count 0x5420 1 1 (clockTo t s)) p n r.1 r.2) = none := by
    refine List.find?_eq_none.mpr fun r hr => ?_
    have sound' (read : 0 < r.2) : tilePoisoned (count 0x5420 1 1 (clockTo t s)) p n r.1 r.2 = false := sound r hr read
    simp only [Bool.and_eq_true, decide_eq_true_eq]
    exact fun bad => absurd bad.2 (ne_true_of_eq_false (sound' bad.1.1))
  have agrees' : commandOk (moverCmdOf rec) (viewOf sv) (viewOf dv)
      (entriesOf (count 0x5420 1 1 (clockTo t s)) p n (moverCmdOf rec)) = true := agrees
  rw [MoverCmd.listBytes] at list unpoisoned
  have record' : readCtl (clockTo t s) p n addr 64 64 = some rec := record
  simp only [startMover, program', tileAt_clockTo, commands, if_neg starts, record', if_neg under, legal, if_true,
    unpoisoned, readCtl_counted, source, destination, list, sourceOk, destinationOk, agrees']
  rfl

/-! ### The transfer (R523, R570, R577, R579, R590) -/

theorem hamperBrick_none {l : Nat} {s : State} (none : hamperReady s l = none) : hamperBrick l s = s := by
  simp only [hamperBrick, none]

/-- Where no hamper transfer goes before them, the jobs run in the state that the command started in. -/
theorem runJobs_alone {e : Setting} {c : Nat} (alone : c = 1 → hamperReady e.s (tileAt e.s e.n).logical = none)
    (jobs : List Job) (b : Option (List Int)) (r : Run) : runJobs e c jobs b r e.s = (forEach (runJob e) jobs r, e.s) := by
  induction jobs generalizing b r with
  | nil => rfl
  | cons j js ih =>
    have stays : (if c = 1 ∧ b ≠ some (jobBrick e.dst j) ∧ r.stop = none then hamperBrick (tileAt e.s e.n).logical e.s
        else e.s) = e.s := by
      split
      · next goes => exact hamperBrick_none (alone goes.1)
      · rfl
    simp only [runJobs, stays]
    exact ih _ _

/-- The counters of a transfer: padded elements, discarded elements, null entries, and elements of a PERMUTE. -/
def transferCounted (m : MoverCmd) (r : Run) (s : State) : State :=
  let s := count 0x5420 2 r.padded (count 0x5420 3 r.discarded (count 0x5420 4 r.nulls s))
  if m.kind = 4 then count 0x5420 5 r.moved s else s

/-- The jobs of a channel's started command. -/
def settingJobs (e : Setting) (m : MoverCmd) : List Job :=
  jobsOf m (if m.kind = 2 then e.dst else e.src) (entriesOf e.s e.p e.n m)

/-- The state after a transfer: what the run has to write is committed and counted. -/
def transferred (p : Program) (n c : Nat) (m : MoverCmd) (r : Run) (s : State) : State :=
  transferCounted m r (forEach (commitRun p n c) (runsOf r.out)
    (modTile n (fun x => x.setChan c fun y => { y with moved := true, peer := [] }) s))

/-- A command that reads no peer memory, that no hamper transfer goes before, and that nothing stops transfers at once. -/
theorem beginTransfer_transfers {p : Program} {n c : Nat} {s : State} {m : MoverCmd}
    (held : moverCmdOf (((tileAt s n).chan c).held.take 64) = m)
    (near : ∀ j ∈ settingJobs (settingOf s p n c) m, jobSectors (settingOf s p n c) j = [])
    (alone : c = 1 → hamperReady s (tileAt s n).logical = none)
    (completes : (forEach (runJob (settingOf s p n c)) (settingJobs (settingOf s p n c) m) {}).stop = none) :
    beginTransfer p n c m s =
      transferred p n c m (forEach (runJob (settingOf s p n c)) (settingJobs (settingOf s p n c) m) {}) s := by
  have near' : (settingJobs (settingOf s p n c) m).flatMap (jobSectors (settingOf s p n c)) = [] :=
    List.flatMap_eq_nil_iff.mpr near
  have begins : beginTransfer p n c m s = runTransfer p n c s :=
    if_pos (by rw [List.isEmpty_iff]; exact congrArg List.eraseDups near')
  have runs := runJobs_alone (e := settingOf s p n c) alone (settingJobs (settingOf s p n c) m) none {}
  have runs' : runJobs (settingOf s p n c) c (jobsOf m (if m.kind = 2 then (settingOf s p n c).dst
      else (settingOf s p n c).src) (entriesOf s p n m)) none {} s = _ := runs
  rw [begins]
  simp only [runTransfer, held, runs', completes]
  rfl

/-! ### What a transfer leaves -/

theorem counterAt_count (i a b k : Nat) (s : State) : counterAt (count i a k s) i b =
    if b = a then min (counterAt s i a + k) (counterMax i a) else counterAt s i b := by
  split
  · next same => subst same; exact counted_count s
  · next other => exact counterAt_count_other s fun same => other (Nat.add_left_cancel same)

@[simp] theorem transferCounted_unmoved (m : MoverCmd) (r : Run) (s : State) :
    (transferCounted m r s).unmoved = s.unmoved := by
  simp only [transferCounted]; split <;> simp

theorem transferCounted_memories (m : MoverCmd) (r : Run) (s : State) : (transferCounted m r s).tiles = s.tiles ∧
    (transferCounted m r s).hbm = s.hbm ∧ (transferCounted m r s).cellar = s.cellar ∧
    (transferCounted m r s).hostMem = s.hostMem := by
  simp only [transferCounted]; split <;> simp

/-- A transfer counts beside the start, which has been counted before. -/
theorem transferCounted_counts (m : MoverCmd) (r : Run) {s v : State}
    (started : v.kiosk.counters = (count 0x5420 1 1 s).kiosk.counters) :
    let u := transferCounted m r v
    Counted 0x5420 1 1 s u ∧ Counted 0x5420 2 r.padded s u ∧ Counted 0x5420 3 r.discarded s u ∧
      Counted 0x5420 4 r.nulls s u ∧ (m.kind = 4 → Counted 0x5420 5 r.moved s u) := by
  have before (b : Nat) : counterAt v 0x5420 b =
      if b = 1 then min (counterAt s 0x5420 1 + 1) (counterMax 0x5420 1) else counterAt s 0x5420 b := by
    rw [← counterAt_count, counterAt, started]; rfl
  by_cases permutes : m.kind = 4
  · simp [transferCounted, permutes, Counted, counterAt_count, before]
  · simp [transferCounted, permutes, Counted, counterAt_count, before]

end Sys2Proof.Machine

namespace Sys2Proof.Machine

/-! ### A command that starts and transfers -/

theorem length_readCtl {s : State} {p : Program} {n a len align : Nat} {b : List Byte}
    (read : readCtl s p n a len align = some b) : b.length = len := by
  simp only [readCtl] at read
  split at read
  · rw [← Option.some.inj read, length_tileRead]
  · cases read

theorem chan_commandStarted (t n c : Nat) (held : List Byte) (s : State) :
    (tileAt (commandStarted t n c held s) n).chan c = ((tileAt s n).chan c).begun held := by
  rw [commandStarted, tileAt_modTile_same, Tile.chan_setChan]; rfl

/-- Changing a channel leaves the scratchpads. -/
theorem scratch_modChan (n c : Nat) (f : Channel → Channel) (s : State) (d : Nat) :
    (tileAt (modTile n (fun x => x.setChan c f) s) d).scratch = (tileAt s d).scratch := by
  by_cases same : d = n
  · subst same
    rw [tileAt_modTile_same, Tile.setChan]
    split <;> rfl
  · rw [tileAt_modTile_other _ s same]

section
variable (p : Program) (t n c : Nat) (held : List Byte) (m : MoverCmd) (r : Run) (s : State)

/-- The state in which a transfer commits its bytes. -/
def commitState : State :=
  modTile n (fun x => x.setChan c fun y => { y with moved := true, peer := [] }) (commandStarted t n c held s)

theorem scratch_commitState (d : Nat) : (tileAt (commitState t n c held s) d).scratch = (tileAt s d).scratch :=
  (scratch_modChan n c _ (commandStarted t n c held s) d).trans (scratch_modChan n c _ _ d)

theorem plan_commitState : ((tileAt (commitState t n c held s) n).chan c).plan =
    { ((tileAt s n).chan c).begun held with moved := true } := by
  rw [commitState, tileAt_modTile_same, Tile.chan_setChan, chan_commandStarted]; rfl

theorem committed_commitFrame : (forEach (commitRun p n c) (runsOf r.out) (commitState t n c held s)).commitFrame n c =
    ⟨(count 0x5420 1 1 s).kiosk.counters, (clockTo t s).unmoved,
      { ((tileAt s n).chan c).begun held with moved := true }⟩ := by
  have plan := plan_commitState t n c held s
  rw [forEach_keeps (State.commitFrame n c) _ (commitRun_commitFrame p n c), State.commitFrame, plan]
  rfl

/-- What of the command a transfer leaves, what it counts and what it may touch. -/
theorem transferred_frame :
    let u := transferred p n c m r (commandStarted t n c held s)
    ((tileAt u n).chan c).plan = { ((tileAt s n).chan c).begun held with moved := true } ∧
      u.unmoved = (clockTo t s).unmoved ∧
      Counted 0x5420 1 1 s u ∧ Counted 0x5420 2 r.padded s u ∧ Counted 0x5420 3 r.discarded s u ∧
      Counted 0x5420 4 r.nulls s u ∧ (m.kind = 4 → Counted 0x5420 5 r.moved s u) := by
  let v := forEach (commitRun p n c) (runsOf r.out) (commitState t n c held s)
  have frame : v.commitFrame n c = _ := committed_commitFrame p t n c held r s
  have counters : v.kiosk.counters = (count 0x5420 1 1 s).kiosk.counters := congrArg CommitFrame.counters frame
  have unmoved : v.unmoved = (clockTo t s).unmoved := congrArg CommitFrame.unmoved frame
  have plan : ((tileAt v n).chan c).plan = { ((tileAt s n).chan c).begun held with moved := true } :=
    congrArg CommitFrame.plan frame
  intro u
  have tiles : tileAt u n = tileAt v n := tileAt_congr (transferCounted_memories m r v).1 n
  exact ⟨by rw [tiles]; exact plan, (transferCounted_unmoved m r v).trans unmoved, transferCounted_counts m r counters⟩

/-- Bytes for one memory reach it and leave the others. -/
theorem transferred_spreads (rises : r.Rises) :
    let u := transferred p n c m r (commandStarted t n c held s)
    let spread (base : Nat) (before after : Memory) : Prop :=
      ∀ a, a < 2 ^ 63 → memGet after a = tabGet (memGet before a) (base + a) r.out
    ((∀ q ∈ r.out, q.1 < 2 ^ 63) → spread 0 s.hbm u.hbm ∧ u.cellar = s.cellar ∧ u.hostMem = s.hostMem) ∧
      ((∀ q ∈ r.out, 2 ^ 64 ≤ q.1 ∧ q.1 < 2 ^ 64 + 2 ^ 63) →
        spread (2 ^ 64) s.cellar u.cellar ∧ u.hbm = s.hbm ∧ u.hostMem = s.hostMem) ∧
      (∀ d, d < 160 → (∀ q ∈ r.out, (16 + d) * 2 ^ 64 ≤ q.1 ∧ q.1 < (16 + d) * 2 ^ 64 + 0x200000) →
        spread ((16 + d) * 2 ^ 64) (tileAt s d).scratch (tileAt u d).scratch ∧ u.hbm = s.hbm ∧ u.cellar = s.cellar ∧
        u.hostMem = s.hostMem) := by
  let v := forEach (commitRun p n c) (runsOf r.out) (commitState t n c held s)
  intro u spread
  obtain ⟨tiles, hbm, cellar, hostMem⟩ :
      u.tiles = v.tiles ∧ u.hbm = v.hbm ∧ u.cellar = v.cellar ∧ u.hostMem = v.hostMem := transferCounted_memories m r v
  refine ⟨fun keys => ?_, fun keys => ?_, fun d hd keys => ?_⟩
  · obtain ⟨written, others⟩ := (commitsTo_hbm p n c).spreads rises (fun q hq => ⟨q.1.zero_le, keys q hq⟩)
      (commitState t n c held s)
    obtain ⟨cellar', hostMem'⟩ := Prod.mk.inj others
    exact ⟨fun a _ => by rw [hbm]; exact written a, cellar.trans cellar', hostMem.trans hostMem'⟩
  · obtain ⟨written, others⟩ := (commitsTo_cellar p n c).spreads rises keys (commitState t n c held s)
    obtain ⟨hbm', hostMem'⟩ := Prod.mk.inj others
    exact ⟨fun a _ => by rw [cellar]; exact written a, hbm.trans hbm', hostMem.trans hostMem'⟩
  · obtain ⟨written, others⟩ := (commitsTo_scratchpad p n c hd).spreads rises keys (commitState t n c held s)
    obtain ⟨hbm', others⟩ := Prod.mk.inj others
    obtain ⟨cellar', hostMem'⟩ := Prod.mk.inj others
    refine ⟨fun a _ => ?_, hbm.trans hbm', cellar.trans cellar', hostMem.trans hostMem'⟩
    have scratch := written a
    rw [scratch_commitState] at scratch
    rw [tileAt_congr tiles]
    exact scratch

end

/-- A due command that reads no peer memory and that no hamper transfer goes before starts and transfers at once. -/
theorem startMover_transfers (t : Nat) {s : State} {p : Program} {n c k : Nat} {rec sv dv : List Byte}
    (due : CommandDue s p n c k rec sv dv) :
    let started := commandStarted t n c (rec ++ sv ++ dv) s
    let e := settingOf started p n c
    let r := forEach (runJob e) (settingJobs e (moverCmdOf rec)) {}
    (∀ j ∈ settingJobs e (moverCmdOf rec), jobSectors e j = []) → r.stop = none →
      (c = 1 → hamperReady started (tileAt started n).logical = none) →
      startMover t n c k s = .next (transferred p n c (moverCmdOf rec) r started) := by
  intro started e r near completes alone
  obtain ⟨addr, stamp, rest, -, -, record, -⟩ := due.head
  have held : moverCmdOf (((tileAt started n).chan c).held.take 64) = moverCmdOf rec := by
    have kept : ((tileAt started n).chan c).held = rec ++ (sv ++ dv) := by
      rw [chan_commandStarted, ← List.append_assoc]; rfl
    rw [kept, List.take_left' (length_readCtl record)]
  rw [startMover_begins t due, beginTransfer_transfers held near alone completes]

/-- The four instructions start the commands of their kinds. -/
theorem exec_startMover {t k : Nat} {tile : Fin 160} {chan : Fin 2} {c : Instr}
    (starts : (c, k) ∈ [(Instr.box t tile chan, 1), (.gather t tile chan, 2), (.scatter t tile chan, 3),
      (.permute t tile chan, 4)]) (s : State) : exec c s = startMover t tile.val chan.val k s := by
  simp only [List.mem_cons, Prod.mk.injEq, List.not_mem_nil, or_false] at starts
  rcases starts with ⟨rfl, rfl⟩ | ⟨rfl, rfl⟩ | ⟨rfl, rfl⟩ | ⟨rfl, rfl⟩ <;> rfl

/-! ### MOVER_COMMAND_COMPLETE (R556, R591) -/

theorem moverCommandComplete_frees (t : Nat) (tile : Fin 160) (chan : Fin 2) {s : State} (runs : moverRuns s tile.val = true)
    (started : ((tileAt s tile.val).chan chan.val).started = true)
    (sound : ((tileAt s tile.val).chan chan.val).fault = none)
    (moved : ((tileAt s tile.val).chan chan.val).moved = true)
    (answered : ((tileAt s tile.val).chan chan.val).waiting = 0) :
    exec (.moverCommandComplete t tile chan) s = .next (popCommand tile.val chan.val (clockTo t s)) := by
  have runs' : moverRuns (clockTo t s) tile.val = true := runs
  show execMoverCommandComplete t tile chan s = _
  simp [execMoverCommandComplete, runs', started, sound, moved, answered]

/-! ### The instructions -/

/-- Without WINDOW a BOX or a PERMUTE follows a permutation of the axes. -/
theorem jobsOf_permuting (m : MoverCmd) (v : View) (es : List (List Nat)) :
    (m.kind = 1 ∧ (m.xform = 0 ∨ m.xform = 2)) ∨
      (m.kind = 4 ∧ m.xform = 0 ∧ ∀ a, a < 4 → ∃ i, i < 4 ∧ m.perm i = a) →
    m.Permutes ∧ m.xform ≠ 1 ∧ jobsOf m v es = boxJobs m := by
  rintro (⟨kind, xform⟩ | ⟨kind, xform, all⟩)
  · exact ⟨permutes_of_box kind, by omega, jobsOf_box (.inl kind) v es⟩
  · exact ⟨permutes_of_permute kind all, by omega, jobsOf_box (.inr kind) v es⟩

/-- Settles O28: a command's moves by the digits of an offset's index and the permutation of its axes; its transfer by the
runs that its bytes, with rising keys, fall into. -/
theorem moverWorks : Obligations.MoverWorks := by
  refine ⟨fun m v es => ⟨fun plain => ?boxes, fun kind window p tap u y2 y3 hp ht hu h2 h3 => ?window,
    fun i e entry => ?entries⟩, ?starts, ?completes⟩
  case boxes =>
    obtain ⟨permutes, plain, jobs⟩ := jobsOf_permuting m v es plain
    rw [jobs]
    exact ⟨fun y z _ _ inside reordered => mem_boxJobs permutes plain inside reordered,
      fun j listed => of_mem_boxJobs permutes plain listed⟩
  case window =>
    rw [jobsOf_box (.inl kind)]
    exact mem_boxJobs_window kind window hp ht hu h2 h3
  case entries =>
    refine ⟨fun lists null => mem_jobsOf_entry lists entry (mem_entryJobs_null v i null), fun listed u r hu hr =>
      ⟨fun kind => ?_, fun kind => ?_⟩⟩
    · exact mem_jobsOf_entry (by simp [MoverCmd.lists, kind]) entry (mem_entryJobs_gather listed i hu hr kind)
    · exact mem_jobsOf_entry (by simp [MoverCmd.lists, kind]) entry (mem_entryJobs_scatter listed i hu hr kind)
  case starts =>
    intro t k addr stamp tile chan c p rec sv dv rest s starts n m x listBytes program runs commands waits retired record
      kind legal source destination list sound sourceOk destinationOk agrees s1 e jobs r spread near completes alone
    have due : CommandDue s p n chan.val k rec sv dv := ⟨program, runs, waits, kind, legal,
      ⟨addr, stamp, rest, commands, retired, record, fun q hq => sound q.1 q.2 hq⟩, source, destination, list, sourceOk,
      destinationOk, agrees⟩
    have transfers := startMover_transfers t due near completes alone
    obtain ⟨plan, unmoved, started, padded, discarded, nulls, moved⟩ :=
      transferred_frame p t n chan.val (rec ++ sv ++ dv) m r s
    obtain ⟨hbm, cellar, scratch⟩ :=
      transferred_spreads p t n chan.val (rec ++ sv ++ dv) m r s (forEach_runJob_rises e jobs)
    exact ⟨_, (exec_startMover starts s).trans transfers, started, padded, discarded, nulls, moved,
      (congrArg Channel.commands plan :), (congrArg Channel.started plan :), (congrArg Channel.moved plan :),
      (congrArg Channel.held plan :), hbm, cellar, scratch, frame_of_unmoved unmoved⟩
  case completes =>
    intro t tile chan s x runs started sound moved answered
    exact ⟨_, moverCommandComplete_frees t tile chan runs started sound moved answered,
      ⟨rfl, fun k other => tileAt_modTile_other _ (clockTo t s) other⟩, tileAt_modTile_same _ _ _⟩

end Sys2Proof.Machine

namespace Sys2Proof.Machine

/-! ## Scalar register operations (R651, R669) -/

/-- The tile's work for an instruction that computes S[RD] from S[RA] and S[RB]. -/
def scalarWork (n : Nat) (f : Word → Word → Word) (_ : Program) (i : Nat) (s : State) : State :=
  putRd n i (f ((tileAt s n).sreg (iRa i)) ((tileAt s n).sreg (iRb i))) s

/-- The operands are those of the state before dispatch. -/
theorem scalarWork_computes (t n i : Nat) (f : Word → Word → Word) (p : Program) (s : State) :
    scalarWork n f p i (dispatchedState t n i s) =
      putRd n i (f ((tileAt s n).sreg (iRa i)) ((tileAt s n).sreg (iRb i))) (dispatchedState t n i s) := by
  simp only [scalarWork, tileAt_dispatchedState]; rfl

/-- The seven instructions and the functions they compute (R669). -/
theorem exec_scalarOp {t op : Nat} {tile : Fin 160} {c : Instr} {f : Word → Word → Word}
    (listed : (c, op, f) ∈ ([(.add t tile, 0x10, fun a b => a + b), (.sub t tile, 0x11, fun a b => a - b),
      (.and t tile, 0x12, fun a b => a &&& b), (.or t tile, 0x13, fun a b => a ||| b), (.xor t tile, 0x14, fun a b => a ^^^ b),
      (.shl t tile, 0x15, fun a b => a <<< (b.toNat % 64)), (.shr t tile, 0x16, fun a b => a >>> (b.toNat % 64))] :
        List (Instr × Nat × (Word → Word → Word)))) (s : State) :
    exec c s = withInstr t tile.val op (scalarWork tile.val f) s := by
  simp only [List.mem_cons, Prod.mk.injEq, List.not_mem_nil, or_false] at listed
  rcases listed with ⟨rfl, rfl, rfl⟩ | ⟨rfl, rfl, rfl⟩ | ⟨rfl, rfl, rfl⟩ | ⟨rfl, rfl, rfl⟩ | ⟨rfl, rfl, rfl⟩ |
    ⟨rfl, rfl, rfl⟩ | ⟨rfl, rfl, rfl⟩ <;> rfl

/-- Settles O29: the seven share `scalarWork`, whose write of S[RD] is `withInstr_putRd`'s. -/
theorem scalarOperations : Obligations.ScalarOperations := by
  intro t i op tile c f s listed hx ho x
  have ⟨p, hp, _⟩ := hx
  rw [exec_scalarOp listed]
  exact withInstr_putRd hx hp ho _ (scalarWork_computes t tile.val i f p s) (dispatchedState_oneTile t tile.val i s)
    (tileAt_dispatchedState t tile.val i s)

end Sys2Proof.Machine

namespace Sys2Proof.Machine

/-! ## END, STEP and the step release (R540, R541, R624, R669, R671, R1074) -/

/-! ### END -/

/-- A tile on which its program has ended in a step. -/
def Tile.ended (step : Nat) (x : Tile) : Tile := { x with works := false, endedAt := some step, upc := 4 }

/-- The program with its exit word. -/
def Program.exits (v : Word) (p : Program) : Program := { p with exit := v }

/-- The tile's work for END. -/
def endWork (n : Nat) (p : Program) (i : Nat) (s : State) : State :=
  let x := tileAt s n
  if x.ops ≠ [] then s
  else if x.logical = 0 then modProg (Program.exits (x.sreg (iRa i))) (modTile n (Tile.ended p.step) s)
  else modTile n (Tile.ended p.step) s

theorem exec_tileEnd (t : Nat) (tile : Fin 160) (s : State) :
    exec (.tileEnd t tile) s = withInstr t tile.val 0x02 (endWork tile.val) s := rfl

/-- Once its engine operations have landed the program ends on the tile; index 0 gives the exit word. -/
theorem endWork_ends (t i : Nat) {n : Nat} (p : Program) {s : State} (idle : (tileAt s n).ops = []) :
    endWork n p i (dispatchedState t n i s) =
      if (tileAt s n).logical = 0 then
        modProg (Program.exits ((tileAt s n).sreg (iRa i))) (modTile n (Tile.ended p.step) (dispatchedState t n i s))
      else modTile n (Tile.ended p.step) (dispatchedState t n i s) := by
  simp only [endWork, tileAt_dispatchedState]
  exact if_neg (not_not_intro idle)

section
variable {t i : Nat} {tile : Fin 160} {p : Program} {s : State} (hx : Executes s tile.val i) (hp : s.prog = some p)
  (idle : (tileAt s tile.val).ops = [])
include hx hp idle

theorem tileEnd_ends (ho : iOp i = 0x02) :
    ∃ u, exec (.tileEnd t tile) s = .next u ∧
      tileAt u tile.val = { (tileAt s tile.val).after i (tileAt s tile.val).pc with
        works := false, endedAt := some p.step, upc := 4 } ∧
      ((tileAt s tile.val).logical = 0 → u.prog = some { p with exit := (tileAt s tile.val).sreg (iRa i) }) ∧
      ((tileAt s tile.val).logical ≠ 0 → u.prog = some p) ∧ (∀ m, m ≠ tile.val → tileAt u m = tileAt s m) ∧
      u = { s with now := max s.now t, tiles := u.tiles, prog := u.prog } := by
  let d := dispatchedState t tile.val i s
  let v := modTile tile.val (Tile.ended p.step) d
  have work : endWork tile.val p i d = _ := endWork_ends t i p idle
  have here : tileAt v tile.val = ((tileAt s tile.val).dispatched i).ended p.step := by
    rw [tileAt_modTile_same, tileAt_dispatchedState]
  have others (m : Nat) (hm : m ≠ tile.val) : tileAt v m = tileAt s m :=
    (tileAt_modTile_other _ d hm).trans (tileAt_dispatchedState_other t i s hm)
  rw [exec_tileEnd]
  by_cases first : (tileAt s tile.val).logical = 0
  · rw [if_pos first] at work
    obtain ⟨u, runs, others', tile', frame⟩ := withInstr_finishes hx hp ho _ work (congrArg Tile.waits here :) others
    have exits : u.prog = (modProg (Program.exits ((tileAt s tile.val).sreg (iRa i))) v).prog := (congrArg State.prog frame :)
    have given : u.prog = some { p with exit := (tileAt s tile.val).sreg (iRa i) } :=
      exits.trans (congrArg (Option.map _) hp)
    refine ⟨u, runs, tile'.trans (by rw [tileAt_modProg, here]; rfl), fun _ => given, fun other => absurd first other,
      others', ?_⟩
    rw [exits]; exact frame
  · rw [if_neg first] at work
    obtain ⟨u, runs, others', tile', frame⟩ := withInstr_finishes hx hp ho _ work (congrArg Tile.waits here :) others
    have stands : u.prog = s.prog := (congrArg State.prog frame :)
    refine ⟨u, runs, tile'.trans (by rw [here]; rfl), fun same => absurd same first, fun _ => stands.trans hp, others', ?_⟩
    rw [stands]; exact frame

end

/-! ### STEP -/

/-- Loading the gate arms a comparator of the package and notes it in the program. -/
theorem loadGate_frame (s : State) :
    ∃ q c, loadGate s = { s with prog := q, rb := { s.rb with pkgCmp := c } } := by
  simp only [loadGate]
  (repeat' split) <;> exact ⟨_, _, rfl⟩

/-- A tile that waits at the step barrier. -/
def Tile.arrived (x : Tile) : Tile := { x with atStep := true }

/-- The tile's work for STEP. -/
def stepWork (n : Nat) (_ : Program) (_ : Nat) (s : State) : State :=
  if (tileAt s n).ops ≠ [] then s else loadGate (modTile n Tile.arrived s)

theorem exec_tileStep (t : Nat) (tile : Fin 160) (s : State) :
    exec (.tileStep t tile) s = withInstr t tile.val 0x03 (stepWork tile.val) s := rfl

theorem tileStep_waits {t i : Nat} {tile : Fin 160} {p : Program} {s : State} (hx : Executes s tile.val i)
    (hp : s.prog = some p) (idle : (tileAt s tile.val).ops = []) (ho : iOp i = 0x03) :
    ∃ u, exec (.tileStep t tile) s = .next u ∧
      tileAt u tile.val = { (tileAt s tile.val).after i (tileAt s tile.val).pc with atStep := true } ∧
      (∀ m, m ≠ tile.val → tileAt u m = tileAt s m) ∧
      u = { s with now := max s.now t, tiles := u.tiles, prog := u.prog, rb := { s.rb with pkgCmp := u.rb.pkgCmp } } := by
  let d := dispatchedState t tile.val i s
  let v := modTile tile.val Tile.arrived d
  obtain ⟨q, c, gate⟩ := loadGate_frame v
  have work : stepWork tile.val p i d = loadGate v :=
    if_neg (not_not_intro (by rw [tileAt_dispatchedState]; exact idle))
  have tiles : (loadGate v).tiles = v.tiles := by rw [gate]
  have here : tileAt (loadGate v) tile.val = ((tileAt s tile.val).dispatched i).arrived := by
    rw [tileAt_congr tiles, tileAt_modTile_same, tileAt_dispatchedState]
  rw [exec_tileStep]
  obtain ⟨u, runs, others, tile', frame⟩ := withInstr_finishes hx hp ho _ work (congrArg Tile.waits here :) fun m hm => by
    rw [tileAt_congr tiles]
    exact (tileAt_modTile_other _ d hm).trans (tileAt_dispatchedState_other t i s hm)
  refine ⟨u, runs, tile'.trans (by rw [here]; rfl), others, ?_⟩
  rw [frame, gate]; rfl

/-! ### Promotion at a step boundary (R540, R541) -/

/-- What promotion and the release of tiles leave as it was. -/
def State.boundaryFrame (s : State) : Life × HostIf × Memory × Coll := (s.life, s.host, s.hostMem, s.coll)

theorem exists_page_of_head {ps : List Nat} {tier : Nat → PageLoc} {d : PageLoc} (h : ps.head?.map tier = some d) :
    ∃ page, d = tier page :=
  (Option.map_eq_some_iff.mp h).imp fun _ free => free.2.symm

/-- A page that no peer holds moves into HBM or the cellar, if it moves. -/
theorem fasterPage_local {s : State} {l d : PageLoc} (owned : ∀ sled page, l ≠ .peer sled page)
    (faster : fasterPage s l = some d) : (∃ page, d = .hbm page) ∨ ∃ page, d = .cellar page := by
  unfold fasterPage at faster
  generalize freeHbm s 1 = hbm, freeCellar s 1 = cellar at faster
  cases l with
  | hbm page => cases faster
  | cellar page => exact .inl (exists_page_of_head faster)
  | host page =>
    cases hbm with
    | nil => exact .inr (exists_page_of_head faster)
    | cons free rest => exact .inl ⟨free, (Option.some.inj faster).symm⟩
  | peer sled page => exact absurd rfl (owned sled page)

@[simp] theorem markPage_boundaryFrame (v : Bool) (l : PageLoc) (s : State) :
    (markPage v l s).boundaryFrame = s.boundaryFrame := by cases l <;> rfl

theorem markPage_tiles (v : Bool) (l : PageLoc) (s : State) : (markPage v l s).tiles = s.tiles := by cases l <;> rfl

theorem markPage_prog (v : Bool) (l : PageLoc) (s : State) : (markPage v l s).prog = s.prog := by cases l <;> rfl

/-- The promotions of a program of which no peer holds a page: its pages may move, and nothing more. -/
structure Promoting (p : Program) (s u : State) : Prop where
  prog : ∃ arena, u.prog = some { p with promoted := true, arena := arena } ∧ arena.length = p.arena.length ∧
    ∀ d o, PageLoc.peer d o ∉ arena
  tiles : u.tiles = s.tiles
  frame : u.boundaryFrame = s.boundaryFrame

/-- A page that moves within the sled is copied, and its place in the arena changes. -/
theorem promotePage_moves {u : State} {q : Program} {i : Nat} {l d : PageLoc} (prog : u.prog = some q)
    (page : q.arena[i]? = some l) (owned : ∀ sled page, l ≠ .peer sled page) (faster : fasterPage u l = some d) :
    promotePage i u = modProg (fun p => { p with arena := p.arena.set i d })
      (count 0x5120 2 1 (markPage false l (copyPage l d (markPage true d u)))) := by
  have found : (u.prog.bind fun p => p.arena[i]?) = some l := by rw [prog]; exact page
  simp only [promotePage, found, faster]
  cases l with
  | peer sled at_ => exact absurd rfl (owned sled at_)
  | hbm _ | cellar _ | host _ => rfl

theorem copyPage_local {d : PageLoc} (inside : (∃ page, d = .hbm page) ∨ ∃ page, d = .cellar page) (l : PageLoc) (s : State) :
    (copyPage l d s).boundaryFrame = s.boundaryFrame ∧ (copyPage l d s).tiles = s.tiles ∧
      (copyPage l d s).prog = s.prog := by
  rcases inside with ⟨page, rfl⟩ | ⟨page, rfl⟩ <;> exact ⟨rfl, rfl, rfl⟩

theorem Promoting.page {p : Program} {s u : State} (h : Promoting p s u) (i : Nat) : Promoting p s (promotePage i u) := by
  obtain ⟨⟨arena, prog, length, owned⟩, tiles, frame⟩ := h
  cases page : arena[i]? with
  | none =>
    have stays : promotePage i u = u := by simp [promotePage, prog, page]
    rw [stays]
    exact ⟨⟨arena, prog, length, owned⟩, tiles, frame⟩
  | some l =>
    have listed : l ∈ arena := List.mem_of_getElem? page
    have owned' (sled page : Nat) : l ≠ .peer sled page := fun held => owned sled page (held ▸ listed)
    cases faster : fasterPage u l with
    | none =>
      have stays : promotePage i u = u := by simp [promotePage, prog, page, faster]
      rw [stays]
      exact ⟨⟨arena, prog, length, owned⟩, tiles, frame⟩
    | some d =>
      have inside := fasterPage_local owned' faster
      obtain ⟨frame', tiles', prog'⟩ := copyPage_local inside l (markPage true d u)
      rw [promotePage_moves prog page owned' faster]
      refine ⟨⟨arena.set i d, ?_, by rw [List.length_set, length], fun sled page held => ?_⟩, ?_, ?_⟩
      · show ((markPage false l _).prog).map _ = _
        rw [markPage_prog, prog', markPage_prog, prog]; rfl
      · rcases List.mem_or_eq_of_mem_set held with old | new
        · exact owned sled page old
        · rcases inside with ⟨_, rfl⟩ | ⟨_, rfl⟩ <;> cases new
      · show (markPage false l _).tiles = _
        rw [markPage_tiles, tiles', markPage_tiles, tiles]
      · show (markPage false l _).boundaryFrame = _
        rw [markPage_boundaryFrame, frame', markPage_boundaryFrame, frame]

/-- The promotions of a step boundary, none of them from a peer, leave the program's other fields and all tiles. -/
theorem promoteAll_moves {p : Program} {s : State} (program : s.prog = some p)
    (near : objAt s 0x5108 0 ≠ 1 ∨ p.promoted = true ∨ ∀ d o, PageLoc.peer d o ∉ p.arena) :
    ∃ arena promoted, (promoteAll s).prog = some { p with promoted := promoted, arena := arena } ∧
      arena.length = p.arena.length ∧ (promoteAll s).tiles = s.tiles ∧ (promoteAll s).boundaryFrame = s.boundaryFrame ∧
      (objAt s 0x5108 0 ≠ 1 → promoteAll s = s ∧ arena = p.arena) := by
  by_cases done : p.promoted = true ∨ objAt s 0x5108 0 ≠ 1
  · have stays : promoteAll s = s := by simp only [promoteAll, program]; exact if_pos done
    rw [stays]
    exact ⟨p.arena, p.promoted, program, rfl, rfl, rfl, fun _ => ⟨rfl, rfl⟩⟩
  · obtain ⟨fresh, on⟩ := not_or.mp done
    have owned := (near.resolve_left on).resolve_left fresh
    have begins : Promoting p s (modProg (fun p => { p with promoted := true }) s) :=
      ⟨⟨p.arena, congrArg (Option.map _) program, rfl, owned⟩, rfl, rfl⟩
    have moves : promoteAll s = forEach promotePage (List.range p.arena.length)
        (modProg (fun p => { p with promoted := true }) s) := by
      simp only [promoteAll, program]; exact if_neg done
    obtain ⟨⟨arena, prog, length, -⟩, tiles, frame⟩ :=
      forEach_preserves (P := Promoting p s) (fun i _ h => h.page i) (List.range p.arena.length) begins
    rw [moves]
    exact ⟨arena, true, prog, length, tiles, frame, fun off => absurd off on⟩

/-! ### Tiles go on behind their STEP (R1074) -/

/-- A waiting tile, released. -/
def Tile.goesOn (x : Tile) : Tile :=
  { x with atStep := false, works := decide (x.state = .active), burst := 0, pc := (x.pc + 16) % 2 ^ 32, upc := 8 }

/-- A tile as the step release leaves it. -/
def Tile.released (x : Tile) : Tile := if x.atStep = false then x else x.goesOn

theorem Tile.released_waiting {x : Tile} (waits : x.atStep = true) : x.released = x.goesOn :=
  if_neg (ne_false_of_eq_true waits)

/-- A released tile no longer waits, so a second release leaves it. -/
theorem Tile.released_released (x : Tile) : x.released.released = x.released := by
  by_cases waits : x.atStep = true
  · rw [Tile.released_waiting waits]; exact if_pos rfl
  · have goes : x.released = x := if_pos (Bool.not_eq_true _ ▸ waits)
    rw [goes, goes]

section
variable (p : Program)

/-- The release of a waiting tile also writes its entry of the checkpoint page. -/
theorem releaseTile_eq (n : Nat) (s : State) : releaseTile p n s =
    if (tileAt s n).atStep = false then s
    else writeEntry p (tileAt (modTile n Tile.goesOn s) n) (tileAt (modTile n Tile.goesOn s) n).pc (p.step + 1)
      (modTile n Tile.goesOn s) := rfl

theorem tileAt_writeEntry (x : Tile) (pc step n : Nat) (s : State) : tileAt (writeEntry p x pc step s) n = tileAt s n := rfl

theorem tileAt_releaseTile (n : Nat) (s : State) : tileAt (releaseTile p n s) n = (tileAt s n).released := by
  rw [releaseTile_eq, Tile.released]
  split
  · rfl
  · rw [tileAt_writeEntry, tileAt_modTile_same]

theorem tileAt_releaseTile_other {n m : Nat} (s : State) (h : m ≠ n) :
    tileAt (releaseTile p n s) m = tileAt s m := by
  rw [releaseTile_eq]
  split
  · rfl
  · rw [tileAt_writeEntry, tileAt_modTile_other _ s h]

/-- Releasing tiles releases each tile that is listed. -/
theorem tileAt_releaseTiles (ns : List Nat) (n : Nat) (s : State) :
    tileAt (forEach (releaseTile p) ns s) n = if n ∈ ns then (tileAt s n).released else tileAt s n := by
  induction ns generalizing s with
  | nil => rfl
  | cons m ms ih =>
    rw [forEach, ih]
    by_cases same : n = m
    · subst same
      simp [tileAt_releaseTile, Tile.released_released]
    · simp [tileAt_releaseTile_other p s same, same]

theorem releaseTile_prog (n : Nat) (s : State) : (releaseTile p n s).prog = s.prog := by
  simp only [releaseTile]; split <;> rfl

theorem releaseTile_boundaryFrame (n : Nat) (s : State) : (releaseTile p n s).boundaryFrame = s.boundaryFrame := by
  simp only [releaseTile]; split <;> rfl

theorem releaseTile_cellar (n : Nat) (s : State) : (releaseTile p n s).cellar = s.cellar := by
  simp only [releaseTile]; split <;> rfl

end

/-! ### Tiles that have been vacated (R516) -/

theorem mem_tabErase {α : Type} {k : Nat} {t : Tab α} {e : Nat × α} (h : e ∈ tabErase k t) : e ∈ t := by
  induction t with
  | nil => exact h
  | cons x t ih =>
    simp only [tabErase] at h
    split at h
    · exact List.mem_cons_of_mem x (ih h)
    · exact List.mem_cons.mpr ((List.mem_cons.mp h).imp_right ih)

theorem mem_tabPut {α : Type} [DecidableEq α] {d v : α} {k : Nat} {t : Tab α} {e : Nat × α} (h : e ∈ tabPut d k v t) :
    e = (k, v) ∨ e ∈ t := by
  rw [tabPut] at h
  split at h
  · exact .inr (mem_tabErase h)
  · exact mem_tabInsert h

/-- What a table gives is its default or one of its entries. -/
theorem tabGet_listed {α : Type} (d : α) (k : Nat) (t : Tab α) : tabGet d k t = d ∨ (k, tabGet d k t) ∈ t := by
  induction t with
  | nil => exact .inl rfl
  | cons e t ih =>
    obtain ⟨j, v⟩ := e
    simp only [tabGet]
    split
    · next same => exact .inr (same ▸ List.mem_cons_self)
    · exact ih.imp_right (List.mem_cons_of_mem _)

/-- A fenced tile that still holds a logical index. -/
def Tile.Vacated (x : Tile) : Prop := x.state = .fencedRun ∧ x.logical ≠ 0xFF

theorem vacated_eq_nil_iff (s : State) : vacated s = [] ↔ ∀ e ∈ s.tiles, ¬ e.2.Vacated := by
  simp [vacated, Tile.Vacated]

/-- A change that vacates no tile leaves none vacated. -/
theorem vacated_modTile {n : Nat} {f : Tile → Tile} (keeps : ∀ x, (f x).Vacated → x.Vacated) {s : State}
    (none : vacated s = []) : vacated (modTile n f s) = [] := by
  rw [vacated_eq_nil_iff] at none ⊢
  intro e he
  rcases mem_tabPut he with rfl | old
  · intro vac
    rcases tabGet_listed ({} : Tile) n s.tiles with unlisted | listed
    · exact absurd (keeps _ vac).1 (by rw [unlisted]; decide)
    · exact none _ listed (keeps _ vac)
  · exact none e old

theorem vacated_releaseTiles (p : Program) (ns : List Nat) {s : State} (none : vacated s = []) :
    vacated (forEach (releaseTile p) ns s) = [] := by
  refine forEach_preserves (P := fun u => vacated u = []) (fun n u h => ?_) ns none
  rw [releaseTile_eq]
  split
  · exact h
  · exact (vacated_modTile (f := Tile.goesOn) (n := n) (fun _ vac => vac) h :)

/-! ### STEP_RELEASE -/

/-- The program at its next step, with no replay of it begun and no promotion. -/
def Program.nextStep (p : Program) : Program :=
  { p with step := p.step + 1, attempts := 0, gateLoaded := false, promoted := false, suppress := [] }

/-- Nothing holds the release of a program's step, and no fenced tile waits for a spare. -/
structure StepReady (p : Program) (s : State) : Prop where
  program : s.prog = some p
  noReplay : p.replaying = none
  ungated : p.stepGate = 0
  noComparator : p.cmp = none
  noneVacated : vacated s = []
  arrived : allAtStep s p = true
  waits : ∃ n ∈ programTiles s p, (tileAt s n).atStep = true
  quiet : ∀ n ∈ programTiles s p, (tileAt s n).quiet = true
  runs : packageRuns s = true
  still : dropping s = false
  stays : s.life.state ≠ .draining
  issues : issueStopped s = false
  answered : p.promoting = []
  near : objAt s 0x5108 0 ≠ 1 ∨ p.promoted = true ∨ ∀ d o, PageLoc.peer d o ∉ p.arena

/-- The tiles of a program go on, and its next step begins. -/
def stepBegun (p : Program) (ns : List Nat) (s : State) : State :=
  let v := modProg Program.nextStep (forEach (releaseTile p) ns s)
  { v with junc := { v.junc with stepTaps := 0 } }

theorem StepReady.exec {p : Program} {s : State} (ready : StepReady p s) (t : Nat) :
    exec (.stepRelease t) s = .next (stepBegun p (programTiles s p) (promoteAll (clockTo t s))) := by
  let c := clockTo t s
  have program : c.prog = some p := ready.program
  obtain ⟨arena, promoted, prog, -, tiles, -, -⟩ := promoteAll_moves program ready.near
  have waits : (programTiles c p).any (fun n => (tileAt c n).atStep) = true := List.any_eq_true.mpr ready.waits
  have quiet : (programTiles c p).all (fun n => (tileAt c n).quiet) = true := List.all_eq_true.mpr ready.quiet
  have passes : ¬ (p.replaying.isSome ∨ (programTiles c p).any (fun n => (tileAt c n).atStep) = false ∨
      allAtStep c p = false ∨ (programTiles c p).all (fun n => (tileAt c n).quiet) = false ∨ gateFired c p = false ∨
      packageRuns c = false ∨ dropping c = true ∨ c.life.state = .draining ∨ issueStopped c = true) := by
    have arrived : allAtStep c p = true := ready.arrived
    have runs : packageRuns c = true := ready.runs
    have still : dropping c = false := ready.still
    have stays : c.life.state ≠ .draining := ready.stays
    have issues : issueStopped c = false := ready.issues
    simp [ready.noReplay, waits, quiet, arrived, runs, still, stays, issues, gateFired, ready.ungated]
  have noneVacated : vacated (forEach (releaseTile p) (programTiles c p) (promoteAll c)) = [] :=
    vacated_releaseTiles p _ ((congrArg (fun ts => vacated { c with tiles := ts }) tiles :).trans ready.noneVacated)
  have answered : ¬ (promoteAll c).prog.map (fun p => p.promoting.isEmpty) = some false := by
    rw [prog]; simp [ready.answered]
  show execStepRelease t s = _
  simp only [execStepRelease, show (clockTo t s).prog = some p from program]
  refine (if_neg passes).trans ((if_neg answered).trans ?_)
  simp only [ready.noComparator]
  rw [noneVacated]
  rfl

/-- What the next step's beginning leaves. -/
theorem StepReady.begins {p : Program} {s : State} (ready : StepReady p s) (t : Nat) :
    let u := stepBegun p (programTiles s p) (promoteAll (clockTo t s))
    ∃ p', u.prog = some p' ∧ p' = { p.nextStep with arena := p'.arena } ∧ p'.arena.length = p.arena.length ∧
      u.junc.stepTaps = 0 ∧ (objAt s 0x5108 0 ≠ 1 → p'.arena = p.arena ∧ u.cellar = s.cellar) ∧
      (∀ n ∈ programTiles s p, tileAt u n = (tileAt s n).released) ∧ u.boundaryFrame = s.boundaryFrame := by
  let c := clockTo t s
  let v := promoteAll c
  let w := forEach (releaseTile p) (programTiles s p) v
  intro u
  obtain ⟨arena, promoted, prog, length, tiles, frame, off⟩ := promoteAll_moves (s := c) ready.program ready.near
  have prog' : w.prog = v.prog := forEach_keeps State.prog _ (releaseTile_prog p) _ v
  have cellar : w.cellar = v.cellar := forEach_keeps State.cellar _ (releaseTile_cellar p) _ v
  have frame' : w.boundaryFrame = v.boundaryFrame := forEach_keeps State.boundaryFrame _ (releaseTile_boundaryFrame p) _ v
  refine ⟨Program.nextStep { p with promoted := promoted, arena := arena }, ?_, rfl, length, rfl, fun unpromoted => ?_,
    fun n listed => ?_, frame'.trans frame⟩
  · show w.prog.map _ = _
    rw [prog', prog]; rfl
  · obtain ⟨stays, same⟩ := off unpromoted
    exact ⟨same, cellar.trans (congrArg State.cellar stays :)⟩
  · show tileAt w n = _
    rw [tileAt_releaseTiles, if_pos listed, tileAt_congr tiles]; rfl

/-- Settles O33: END and STEP by their work on the dispatched tile, the release by `StepReady.begins`. -/
theorem programOnTiles : Obligations.ProgramOnTiles := by
  intro t i tile p s program x
  refine ⟨fun hx idle => ⟨tileEnd_ends hx program idle, tileStep_waits hx program idle⟩, ?_⟩
  intro noReplay ungated noComparator noneVacated arrived waits quiet runs still stays issues answered near
  have ready : StepReady p s := ⟨program, noReplay, ungated, noComparator, noneVacated, arrived, waits, quiet, runs, still,
    stays, issues, answered, near⟩
  obtain ⟨p', prog, fields, length, taps, unpromoted, tiles, frame⟩ := ready.begins t
  simp only [State.boundaryFrame, Prod.mk.injEq] at frame
  obtain ⟨life, host, hostMem, coll⟩ := frame
  refine ⟨_, p', ready.exec t, prog, fields, length, taps, unpromoted, fun n listed waiting => ?_, life, host, hostMem, coll⟩
  rw [tiles n listed, Tile.released_waiting waiting]
  exact ⟨rfl, rfl, rfl, rfl, rfl⟩

end Sys2Proof.Machine

namespace Sys2Proof.Machine

/-! ## Machine checks and the restart of a replay (R516, R636 to R643, R1076 to R1081) -/

/-! ### What a row read finds (R636, R640, R641) -/

theorem checkRow_nil (ecc : Bool) : checkRow ecc [] = .clean := by cases ecc <;> decide

theorem checkRow_one {a : Nat} (h : a < 169) : checkRow true [a] = .corrected := by simp [checkRow, h]

theorem checkRow_two {a b : Nat} (ha : a < 169) (hb : b < 169) : checkRow true [a, b] = .check 2 := by
  simp [checkRow, ha, hb]

/-! ### Counting -/

/-- Whether an entry has counted depends on that entry alone. -/
theorem Counted.of_counterAt {i a n : Nat} {s s' u u' : State} (h : Counted i a n s u)
    (hs : counterAt s' i a = counterAt s i a) (hu : counterAt u' i a = counterAt u i a) : Counted i a n s' u' := by
  unfold Counted at h ⊢
  rw [hs, hu]; exact h

/-- A change of one tile that is counted. -/
theorem OneTile.counts {n t : Nat} {s v : State} (only : OneTile n t s v) (i a k : Nat) :
    let u := count i a k v
    Counted i a k s u ∧ tileAt u n = tileAt v n ∧ (∀ m, m ≠ n → tileAt u m = tileAt s m) ∧
      u = { s with now := max s.now t, tiles := u.tiles, kiosk := { s.kiosk with counters := u.kiosk.counters } } := by
  obtain ⟨frame, others⟩ := only
  have kiosk : v.kiosk = s.kiosk := by rw [frame]
  refine ⟨(counted_count v).congr (by rw [kiosk]) rfl, rfl, others, ?_⟩
  rw [frame]; rfl

/-! ### CS_PATROL_READ (R642) -/

/-- A tile whose patrol has moved on to its next row. -/
def Tile.patrolled (x : Tile) : Tile := { x with patrolRow := (x.patrolRow + 1) % 4096 }

theorem exec_csPatrolRead (t : Nat) {tile : Fin 160} (flips : List Nat) {s : State} (serves : tileServes s tile.val = true) :
    exec (.csPatrolRead t tile flips) s =
      .next (rowRead tile.val flips (modTile tile.val Tile.patrolled (clockTo t s))) :=
  if_neg (ne_false_of_eq_true serves)

theorem rowRead_clean {n : Nat} {flips : List Nat} {s : State} (h : checkRow s.tiers.ecc flips = .clean) :
    rowRead n flips s = s := by simp [rowRead, h]

theorem rowRead_corrected {n : Nat} {flips : List Nat} {s : State} (h : checkRow s.tiers.ecc flips = .corrected) :
    rowRead n flips s = count 0x5811 (n + 1) 1 s := by simp [rowRead, h]

theorem rowRead_check {n k : Nat} {flips : List Nat} {s : State} (h : checkRow s.tiers.ecc flips = .check k) :
    rowRead n flips s = machineCheck n k s := by simp [rowRead, h]

theorem patrolled_oneTile (t n : Nat) (s : State) : OneTile n t s (modTile n Tile.patrolled (clockTo t s)) ∧
    tileAt (modTile n Tile.patrolled (clockTo t s)) n = (tileAt s n).patrolled :=
  ⟨⟨rfl, fun _ hm => tileAt_modTile_other _ (clockTo t s) hm⟩, tileAt_modTile_same _ _ (clockTo t s)⟩

section
variable (t : Nat) {tile : Fin 160} {s : State} (serves : tileServes s tile.val = true)
include serves

theorem csPatrolRead_clean : ∃ u, exec (.csPatrolRead t tile []) s = .next u ∧ OneTile tile.val t s u ∧
    tileAt u tile.val = (tileAt s tile.val).patrolled :=
  ⟨_, (exec_csPatrolRead t [] serves).trans (congrArg Host.Outcome.next (rowRead_clean (checkRow_nil _))),
    patrolled_oneTile t tile.val s⟩

theorem csPatrolRead_corrected (ecc : s.tiers.ecc = true) {a : Nat} (ha : a < 169) :
    ∃ u, exec (.csPatrolRead t tile [a]) s = .next u ∧ Counted 0x5811 (tile.val + 1) 1 s u ∧
      tileAt u tile.val = (tileAt s tile.val).patrolled ∧
      u = { s with now := max s.now t, tiles := u.tiles, kiosk := { s.kiosk with counters := u.kiosk.counters } } := by
  have found : checkRow (modTile tile.val Tile.patrolled (clockTo t s)).tiers.ecc [a] = .corrected :=
    (congrArg (checkRow · [a]) ecc).trans (checkRow_one ha)
  obtain ⟨only, here⟩ := patrolled_oneTile t tile.val s
  obtain ⟨counted, same, -, frame⟩ := only.counts 0x5811 (tile.val + 1) 1
  exact ⟨_, (exec_csPatrolRead t [a] serves).trans (congrArg Host.Outcome.next (rowRead_corrected found)), counted,
    same.trans here, frame⟩

end

/-! ### The number of entries with a property, as one entry is written -/

section
variable {α : Type} (q : Nat × α → Bool) {k : Nat} {v : α}

theorem countP_tabInsert_le (t : Tab α) : t.countP q ≤ (tabInsert k v t).countP q + 1 := by
  induction t with
  | nil => exact Nat.zero_le _
  | cons e t ih =>
    obtain ⟨j, x⟩ := e
    simp only [tabInsert]
    split
    · simp only [List.countP_cons]; omega
    · split <;> simp only [List.countP_cons]
      · split <;> omega
      · omega

theorem countP_tabInsert_of_not (lacks : q (k, v) = false) (t : Tab α) : (tabInsert k v t).countP q ≤ t.countP q := by
  have none : (if q (k, v) = true then 1 else 0) = 0 := if_neg (ne_true_of_eq_false lacks)
  induction t with
  | nil => simp [tabInsert, lacks]
  | cons e t ih =>
    obtain ⟨j, x⟩ := e
    simp only [tabInsert]
    split
    · simp only [List.countP_cons, none]; omega
    · split <;> simp only [List.countP_cons, none] <;> omega

end

/-! ### A spare tile is fenced (R516, R643) -/

/-- A spare tile as a machine check fences it. -/
def Tile.fenced (subcause : Nat) (x : Tile) : Tile := { x with
  state := .fencedRun, runFence := true, logical := 0xFF, lastCheck := x.upc + 4096 * subcause
  ops := [], chan0 := {}, chan1 := {}, burst := 0, works := false, waits := false, atStep := x.atStep && x.works }

/-- Writing a tile that is not as a fused one lists it. -/
theorem modTile_tiles {n : Nat} {f : Tile → Tile} {s : State} (used : (f (tileAt s n)).state ≠ .fused) :
    (modTile n f s).tiles = tabInsert n (f (tileAt s n)) s.tiles :=
  if_neg fun fused => used (congrArg Tile.state fused)

/-- With more spares than vacated tiles, the fence of a spare leaves enough of them. -/
theorem sparesExhausted_fenced (n k : Nat) {s : State} (enough : (vacated s).length < (tilesIn s .spare).length) :
    sparesExhausted (modTile n (Tile.fenced k) s) = false := by
  have tiles : (modTile n (Tile.fenced k) s).tiles = tabInsert n ((tileAt s n).fenced k) s.tiles :=
    modTile_tiles (fun h => TileState.noConfusion h)
  have spares : (tilesIn s .spare).length ≤ (tilesIn (modTile n (Tile.fenced k) s) .spare).length + 1 := by
    simp only [tilesIn, tiles, List.length_map, ← List.countP_eq_length_filter]
    exact countP_tabInsert_le _ _
  have waiting : (vacated (modTile n (Tile.fenced k) s)).length ≤ (vacated s).length := by
    simp only [vacated, tiles, List.length_map, ← List.countP_eq_length_filter]
    exact countP_tabInsert_of_not _ (by simp [Tile.fenced]) _
  simp only [sparesExhausted, decide_eq_false_iff_not]
  omega

theorem record_frame (r : LogRecord) (s : State) : record r s = { s with
    contain := (record r s).contain, kiosk := (record r s).kiosk, host := (record r s).host
    outbox := (record r s).outbox } := by
  apply State.ext_fields <;> simp

/-- A machine check of a spare that no vacated tile needs is counted and recorded, and fences the tile. -/
theorem machineCheck_spare {n : Nat} (k : Nat) {s : State} (spare : (tileAt s n).state = .spare)
    (enough : s.prog = none ∨ (vacated s).length < (tilesIn s .spare).length) :
    ∃ r, machineCheck n k s = modTile n (Tile.fenced k) (record r (count 0x5820 1 1 s)) := by
  have recorded (r : LogRecord) : ¬ ((record r (count 0x5820 1 1 s)).prog.isSome = true ∧
      sparesExhausted (modTile n (Tile.fenced k) (record r (count 0x5820 1 1 s))) = true) := by
    have prog : (record r (count 0x5820 1 1 s)).prog = s.prog := by rw [record_frame]; rfl
    have vac : vacated (record r (count 0x5820 1 1 s)) = vacated s := by rw [record_frame]; rfl
    have spares : tilesIn (record r (count 0x5820 1 1 s)) .spare = tilesIn s .spare := by rw [record_frame]; rfl
    rcases enough with idle | enough
    · rw [prog, idle]; simp
    · rw [sparesExhausted_fenced n k (by rwa [vac, spares])]; simp
  have inactive : ¬ decide ((tileAt s n).state = .active) = true := by rw [spare]; decide
  simp only [machineCheck, if_neg inactive]
  exact ⟨_, if_neg (recorded _)⟩

section
variable (t : Nat) {a b : Nat} {tile : Fin 160} {s : State} (serves : tileServes s tile.val = true)
  (ecc : s.tiers.ecc = true)
include serves ecc

/-- Two flipped bits of a row under ECC are a machine check (R640). -/
theorem microMachineCheck_two (ha : a < 169) (hb : b < 169) :
    exec (.microMachineCheck t tile (.row [a, b])) s = .next (machineCheck tile.val 2 (clockTo t s)) := by
  have found : checkRow (clockTo t s).tiers.ecc [a, b] = .check 2 := by
    rw [show (clockTo t s).tiers.ecc = true from ecc]; exact checkRow_two ha hb
  exact (if_neg (ne_false_of_eq_true serves)).trans (congrArg Host.Outcome.next (rowRead_check found))

theorem microMachineCheck_fences (ha : a < 169) (hb : b < 169) (spare : (tileAt s tile.val).state = .spare)
    (enough : s.prog = none ∨ (vacated s).length < (tilesIn s .spare).length) :
    ∃ u, exec (.microMachineCheck t tile (.row [a, b])) s = .next u ∧ Counted 0x5820 1 1 s u ∧
      tileAt u tile.val = (tileAt s tile.val).fenced 2 ∧ (∀ m, m ≠ tile.val → tileAt u m = tileAt s m) ∧ Noted s u ∧
      u = { s with
        now := max s.now t, tiles := u.tiles, contain := u.contain, kiosk := u.kiosk, host := u.host, outbox := u.outbox } := by
  obtain ⟨r, fences⟩ := machineCheck_spare (s := clockTo t s) 2 spare enough
  let c := count 0x5820 1 1 (clockTo t s)
  have tiles : (record r c).tiles = s.tiles := by rw [record_frame]; rfl
  have counts : counterAt (record r c) 0x5820 1 = counterAt c 0x5820 1 :=
    counterAt_record_other (by decide) (by decide) r c
  refine ⟨_, (microMachineCheck_two t serves ecc ha hb).trans (congrArg Host.Outcome.next fences),
    (counted_count (clockTo t s)).of_counterAt rfl counts, ?_, fun m hm => ?_, (noted_iff _ _).mpr (record_unnoted r c), ?_⟩
  · rw [tileAt_modTile_same, tileAt_congr tiles]
  · rw [tileAt_modTile_other _ _ hm, tileAt_congr tiles]
  · rw [record_frame]; rfl

end

/-! ### REPLAY_RESTART (R1076 to R1081) -/

/-- What the restart of a replay leaves while it replaces and reloads tiles, the collectives aside. -/
def State.replayFrame (s : State) : Life × Memory × Memory × Option Program × Nat :=
  (s.life, s.cellar, s.hostMem, s.prog, counterAt s 0x9020 3)

/-- What a counted record leaves. -/
theorem count_record_fields (i a k : Nat) (r : LogRecord) (s : State) :
    (count i a k (record r s)).life = s.life ∧ (count i a k (record r s)).cellar = s.cellar ∧
    (count i a k (record r s)).hostMem = s.hostMem ∧ (count i a k (record r s)).prog = s.prog ∧
    (count i a k (record r s)).coll = s.coll := by simp

@[simp] theorem modTile_replayFrame (n : Nat) (f : Tile → Tile) (s : State) :
    (modTile n f s).replayFrame = s.replayFrame := rfl

@[simp] theorem reloadTile_replayFrame (p : Program) (n : Nat) (s : State) :
    (reloadTile p n s).replayFrame = s.replayFrame := rfl

@[simp] theorem copyStream_replayFrame (p : Program) (n : Nat) (s : State) :
    (copyStream p n s).replayFrame = s.replayFrame := rfl

@[simp] theorem setQsubs_replayFrame (p : Program) (l v : Nat) (s : State) :
    (setQsubs p l v s).replayFrame = s.replayFrame := rfl

theorem regrantGroup_replayFrame (g : Nat) (s : State) : (regrantGroup g s).replayFrame = s.replayFrame := by
  have tells (c : Collective) (u : State) : (grantAgain g c u).replayFrame = u.replayFrame := by
    refine forEach_keeps State.replayFrame _ (fun _ _ => ?_) _ u
    rfl
  simp only [regrantGroup]
  split
  · refine forEach_keeps State.replayFrame _ (fun c u => ?_) _ s
    split
    · rfl
    · exact tells c u
  · rfl

theorem substitute_replayFrame (n : Nat) (s : State) : (substitute n s).1.replayFrame = s.replayFrame := by
  have counts (u : State) : (count 0x5120 3 1 u).replayFrame = u.replayFrame := by
    simp only [State.replayFrame, counterAt_count_other u (show objKey 0x9020 3 ≠ objKey 0x5120 3 by decide)]
    rfl
  simp only [substitute]
  split
  · rfl
  · rw [regrantAll, forEach_keeps State.replayFrame _ (fun _ u => regrantGroup_replayFrame _ u), counts]
    rfl

theorem replaceTile_replayFrame (p : Program) (n : Nat) (s : State) :
    (replaceTile p n s).replayFrame = s.replayFrame := by
  rw [← substitute_replayFrame n s]
  simp only [replaceTile]
  split
  · next u m found => rw [found]; split <;> simp
  · next u found => rw [found]

/-- The program as its replay goes on. -/
def Program.restarted (suppress : Tab Nat) (p : Program) : Program :=
  { p with replaying := none, replayed := true, suppress := suppress }

/-- The restart of a replay: the tiles are replaced and reloaded, then the program goes on, and that is recorded and
counted. -/
theorem replayRestart_restarts (t : Nat) {p : Program} {failed : Nat} {s : State} (program : s.prog = some p)
    (replays : p.replaying = some failed) (runs : packageRuns s = true) (still : dropping s = false)
    (issues : issueStopped s = false) : ∃ r suppress v, exec (.replayRestart t) s =
      .next (count 0x9020 3 1 (record r (modProg (Program.restarted suppress) v))) ∧ v.replayFrame = s.replayFrame ∧
      (vacated s = [] → v.coll = s.coll) := by
  let c := clockTo t s
  have program' : c.prog = some p := program
  have passes : ¬ (packageRuns c = false ∨ dropping c = true ∨ issueStopped c = true) := by
    have runs' : packageRuns c = true := runs
    have still' : dropping c = false := still
    have issues' : issueStopped c = false := issues
    simp [runs', still', issues']
  let w := forEach (replaceTile p) (vacated c) c
  have replaced : w.replayFrame = s.replayFrame := forEach_keeps State.replayFrame _ (replaceTile_replayFrame p) _ c
  let reload (n : Nat) (u : State) : State :=
    if (tileAt u n).endedAt.isSome ∧ (tileAt u n).endedAt ≠ some p.step then modTile n (fun x => { x with stopped := false }) u
    else reloadTile p n u
  let counts := ((programTiles c p).map fun n => (tileAt c n).logical).map fun l => (l, qsubsOf c p l)
  let v := forEach (fun (lc : Nat × Nat) u => setQsubs p lc.1 0 u) counts (forEach reload (programTiles w p) w)
  have goesOn : ∃ r suppress, exec (.replayRestart t) s =
      .next (count 0x9020 3 1 (record r (modProg (Program.restarted suppress) v))) := by
    show ∃ r suppress, execReplayRestart t s = _
    simp only [execReplayRestart, show (clockTo t s).prog = some p from program, replays]
    exact ⟨_, _, if_neg passes⟩
  obtain ⟨r, suppress, goesOn⟩ := goesOn
  refine ⟨r, suppress, v, goesOn, ?_, fun none => ?_⟩
  · rw [← replaced]
    refine (forEach_keeps State.replayFrame _ (fun lc u => setQsubs_replayFrame p lc.1 0 u) counts _).trans ?_
    refine forEach_keeps State.replayFrame reload (fun n u => ?_) _ w
    simp only [reload]
    split <;> simp
  · have noneReplaced : w = c := by
      show forEach (replaceTile p) (vacated s) c = c
      rw [none]; rfl
    refine (forEach_keeps State.coll _ (fun lc u => ?_) counts _).trans ?_
    · rfl
    · rw [noneReplaced]
      refine forEach_keeps State.coll reload (fun n u => ?_) _ c
      simp only [reload]
      split <;> rfl

/-- Settles O37: a row read by what it finds, the fence of a spare by `machineCheck_spare`, the restart by what its parts
leave. -/
theorem machineChecks : Obligations.MachineChecks := by
  intro t a b tile s x
  refine ⟨fun serves => ⟨csPatrolRead_clean t serves, fun ecc ha => csPatrolRead_corrected t serves ecc ha,
      fun ecc ha hb spare enough => ?fence⟩,
    fun p failed program replays runs still issues => ?restart⟩
  case fence =>
    obtain ⟨u, checks, counted, here, others, noted, frame⟩ := microMachineCheck_fences t serves ecc ha hb spare enough
    have prog : u.prog = s.prog := (congrArg State.prog frame :)
    refine ⟨u, checks, counted, ?_, ?_, ?_, ?_, ?_, ?_, others, prog, noted, frame⟩ <;> rw [here] <;> rfl
  case restart =>
    obtain ⟨r, suppress, v, restarts, kept, coll⟩ := replayRestart_restarts t program replays runs still issues
    simp only [State.replayFrame, Prod.mk.injEq] at kept
    obtain ⟨life, cellar, hostMem, prog, counter⟩ := kept
    let w := modProg (Program.restarted suppress) v
    have prog' : w.prog = some (p.restarted suppress) := congrArg (Option.map _) (prog.trans program)
    have before : counterAt (record r w) 0x9020 3 = counterAt s 0x9020 3 :=
      (counterAt_record_other (by decide) (by decide) r w).trans counter
    have counted : Counted 0x9020 3 1 s (count 0x9020 3 1 (record r w)) :=
      (counted_count (record r w)).of_counterAt before.symm rfl
    obtain ⟨life', cellar', hostMem', prog'', coll'⟩ := count_record_fields 0x9020 3 1 r w
    exact ⟨_, p.restarted suppress, restarts, prog''.trans prog', rfl, rfl, rfl, rfl, counted, life'.trans life,
      fun none => coll'.trans (coll none), cellar'.trans cellar, hostMem'.trans hostMem⟩

end Sys2Proof.Machine

namespace Sys2Proof.Machine

/-! ## Traps: faults, interrupts, the station's orders and the return (R646, R648, R652 to R661) -/

/-! ### Window registers -/

/-- Loading window registers changes nothing but window registers. -/
theorem foldl_setW_frame (w : Tile → Nat) (v : Nat → Word) (rs : List Nat) (x : Tile) :
    rs.foldl (fun y r => y.setW (w y) r (v r)) x =
      { x with wregs := (rs.foldl (fun y r => y.setW (w y) r (v r)) x).wregs } := by
  induction rs generalizing x with
  | nil => rfl
  | cons r rs ih => exact ih (x.setW (w x) r (v r))

theorem wreg_setW_other {w k r q : Nat} (other : k ≠ w) (hr : r < 16) (hq : q < 16) (v : Word) (x : Tile) :
    (x.setW w r v).wreg k q = x.wreg k q := tabGet_put_other _ _ _ _ _ _ (by omega)

/-- Loading one window's registers leaves every other window. -/
theorem wreg_foldl_setW_other {w k q : Nat} (other : k ≠ w) (hq : q < 16) (v : Nat → Word) {rs : List Nat}
    (low : ∀ r ∈ rs, r < 16) (x : Tile) : (rs.foldl (fun y r => y.setW w r (v r)) x).wreg k q = x.wreg k q := by
  induction rs generalizing x with
  | nil => rfl
  | cons r rs ih =>
    obtain ⟨first, rest⟩ := List.forall_mem_cons.mp low
    exact (ih rest _).trans (wreg_setW_other other first hq (v r) x)

/-! ### Entering a trap (R657, R660) -/

theorem length_trapFrame (p : Option Program) (x : Tile) (cause kind source faultAddr : Nat) (atWait : Bool) :
    (trapFrame p x cause kind source faultAddr atWait).length = 256 := by
  simp [trapFrame, length_natLe]

/-- A tile that has entered a trap. -/
def Tile.trapped (frame : List Byte) (cause back : Nat) (x : Tile) : Tile :=
  { x.setW 7 15 (BitVec.ofNat 64 back) with
    scratch := memWrite x.scratch 0x1FF000 frame, inTrap := true, framed := true, resume := false, tcause := cause
    upc := 0x010, atStep := false, waits := false, burst := 0 }

theorem Tile.wreg_trapped (frame : List Byte) (cause back : Nat) (x : Tile) :
    (x.trapped frame cause back).wreg 7 15 = BitVec.ofNat 64 back := tabGet_put_same _ _ _ _

theorem inTrap_of_tileRuns {s : State} {n : Nat} (runs : tileRuns s n = true) : (tileAt s n).inTrap = false := by
  simp only [tileRuns, Bool.and_eq_true, Bool.not_eq_true'] at runs
  exact runs.1.1.2

/-- Outside a handler a fault enters the trap and is counted. -/
theorem takeFault_traps (n cause addr : Nat) {s : State} (outside : (tileAt s n).inTrap = false) :
    ∃ frame, frame.length = 256 ∧ takeFault n cause addr s =
      count 0x5820 5 1 (modTile n (Tile.trapped frame cause (tileAt s n).upc) s) := by
  refine ⟨_, length_trapFrame s.prog (tileAt s n) cause 1 0 (if cause = cIllegal then 0 else addr) false, ?_⟩
  exact if_neg (ne_true_of_eq_false outside)

/-! ### FAULT_TAKE (R652) -/

section
variable (t : Nat) {tile : Fin 160} {p : Program} {s : State} (program : s.prog = some p)
  (runs : tileRuns s tile.val = true)
include program runs

theorem exec_faultTake_faults {i c a : Nat} (fetched : fetchInstr s p tile.val = some i)
    (faults : faultOf s p tile.val i = some (c, a)) :
    exec (.faultTake t tile) s = .next (takeFault tile.val c a (dispatchedState t tile.val i s)) := by
  have program' : (clockTo t s).prog = some p := program
  have runs' : ¬ tileRuns (clockTo t s) tile.val = false := ne_false_of_eq_true runs
  have fetched' : fetchInstr (clockTo t s) p tile.val = some i := fetched
  have faults' : faultOf (clockTo t s) p tile.val i = some (c, a) := faults
  show execFaultTake t tile s = _
  simp only [execFaultTake, program', if_neg runs', fetched', faults']
  rfl

theorem exec_faultTake_outside (unfetched : fetchInstr s p tile.val = none) :
    exec (.faultTake t tile) s = .next (takeFault tile.val 0x5012 (tileAt s tile.val).pc (clockTo t s)) := by
  have program' : (clockTo t s).prog = some p := program
  have runs' : ¬ tileRuns (clockTo t s) tile.val = false := ne_false_of_eq_true runs
  have unfetched' : fetchInstr (clockTo t s) p tile.val = none := unfetched
  show execFaultTake t tile s = _
  simp only [execFaultTake, program', if_neg runs', unfetched']
  rfl

end

/-- A fault outside a handler is counted, and the tile, as it stood at the fault, enters the trap. -/
theorem takeFault_oneTile {t n : Nat} (c a : Nat) {s v : State} (only : OneTile n t s v)
    (outside : (tileAt v n).inTrap = false) :
    let u := takeFault n c a v
    Counted 0x5820 5 1 s u ∧ (∃ frame, frame.length = 256 ∧ tileAt u n = (tileAt v n).trapped frame c (tileAt v n).upc) ∧
      (∀ m, m ≠ n → tileAt u m = tileAt s m) ∧
      u = { s with now := max s.now t, tiles := u.tiles, kiosk := { s.kiosk with counters := u.kiosk.counters } } := by
  obtain ⟨frame, length, traps⟩ := takeFault_traps n c a outside
  obtain ⟨counted, here, others, rest⟩ := (only.modTile (Tile.trapped frame c (tileAt v n).upc)).counts 0x5820 5 1
  intro u
  rw [show u = _ from traps]
  exact ⟨counted, ⟨frame, length, here.trans (tileAt_modTile_same _ _ v)⟩, others, rest⟩

/-! ### INTERRUPT_TAKE (R654 to R657) -/

/-- A tile with more interrupt sources pending. -/
def Tile.pending (irqs : Nat) (x : Tile) : Tile := { x with irqs := x.irqs ||| irqs }

/-- A tile with one interrupt source fewer. -/
def Tile.taken (k : Nat) (x : Tile) : Tile := { x with irqs := x.irqs - 2 ^ k }

/-- A single pending source is the one that is taken. -/
theorem firstIrq_two_pow {k : Nat} (low : 1 ≤ k) (high : k ≤ 4) : firstIrq (2 ^ k) = some k := by
  interval_cases k <;> rfl

/-- The one pending source of a tile that works outside a handler is taken. -/
theorem exec_interruptTake (t raised : Nat) {tile : Fin 160} {p : Program} {s : State} {k : Nat}
    (program : s.prog = some p) (active : (tileAt s tile.val).state = .active) (works : (tileAt s tile.val).works = true)
    (goes : (tileAt s tile.val).stopped = false) (outside : (tileAt s tile.val).inTrap = false)
    (runs : packageRuns s = true) (still : dropping s = false)
    (one : (tileAt s tile.val).irqs ||| (raised &&& 0x1A) = 2 ^ k) (low : 1 ≤ k) (high : k ≤ 4) :
    ∃ frame, exec (.interruptTake t tile raised) s = .next (count 0x5820 4 1 (modTile tile.val
      (Tile.trapped frame 0 (if p.trapMode then (tileAt s tile.val).upc else 8)) (modTile tile.val (Tile.taken k)
        (modTile tile.val (Tile.pending (raised &&& 0x1A)) (clockTo t s))))) := by
  let v := modTile tile.val (Tile.pending (raised &&& 0x1A)) (clockTo t s)
  have here : tileAt v tile.val = (tileAt s tile.val).pending (raised &&& 0x1A) := tileAt_modTile_same _ _ _
  have source : firstIrq (tileAt v tile.val).irqs = some k := by
    rw [here]; exact (congrArg firstIrq one).trans (firstIrq_two_pow low high)
  have outside' : ¬ (tileAt v tile.val).inTrap = true := by rw [here]; exact ne_true_of_eq_false outside
  have passes : ¬ ((clockTo t s).prog.isNone = true ∨ (tileAt (clockTo t s) tile.val).state ≠ .active ∨
      (tileAt (clockTo t s) tile.val).works = false ∨ (tileAt (clockTo t s) tile.val).stopped = true ∨
      packageRuns (clockTo t s) = false ∨ dropping (clockTo t s) = true) := by
    have runs' : packageRuns (clockTo t s) = true := runs
    have still' : dropping (clockTo t s) = false := still
    simp [program, active, works, goes, runs', still']
  have trapMode : (v.prog.map (·.trapMode)).getD false = p.trapMode := by rw [show v.prog = some p from program]; rfl
  have upc : (tileAt v tile.val).upc = (tileAt s tile.val).upc := by rw [here]; rfl
  refine ⟨trapFrame v.prog (tileAt (modTile tile.val (Tile.taken k) v) tile.val) 0 2 k 0 (tileAt v tile.val).atStep, ?_⟩
  show execInterruptTake t tile raised s = _
  refine (if_neg passes).trans ((if_neg outside').trans ?_)
  show (match firstIrq (tileAt v tile.val).irqs with | none => _ | some k => _) = _
  rw [source, ← trapMode, ← upc]
  rfl

/-! ### The station's orders and RTT (R658, R661) -/

/-- RTT from a trap without a frame changes how the tile goes on, and nothing else. -/
theorem returnFromTrap_unframed {x : Tile} (unframed : x.framed = false) : returnFromTrap x =
    { x with inTrap := false, framed := false, resume := false, upc := (x.wreg 7 15).toNat % 4096 } := by
  simp [returnFromTrap, unframed]

/-- RTT from a trap with a frame reloads PC, LC, G and the current window from it. -/
theorem returnFromTrap_framed {x : Tile} (framed : x.framed = true) : ∃ wregs gregs lc, returnFromTrap x =
    { x with
      inTrap := false, framed := false, resume := false, upc := (x.wreg 7 15).toNat % 4096
      pc := leNat (memRead x.scratch 0x1FF008 8) % 2 ^ 32, wregs := wregs, gregs := gregs, lc := lc } := by
  have pc : (BitVec.ofNat 64 (leNat (memRead x.scratch (0x1FF000 + 8) 8))).toNat % 2 ^ 32 =
      leNat (memRead x.scratch 0x1FF008 8) % 2 ^ 32 := by
    rw [BitVec.toNat_ofNat]; exact Nat.mod_mod_of_dvd _ (by decide)
  rw [← pc]
  simp only [returnFromTrap, if_pos framed]
  rw [foldl_setW_frame (fun y => y.cwp)]
  exact ⟨_, _, _, rfl⟩

section
variable (t : Nat) {tile : Fin 160} {s : State} (inTrap : (tileAt s tile.val).inTrap = true)
include inTrap

theorem stationResume_marks (framed : (tileAt s tile.val).framed = true) (idle : (tileAt s tile.val).ops = []) :
    ∃ u, exec (.stationResume t tile) s = .next u ∧ OneTile tile.val t s u ∧
      tileAt u tile.val = { tileAt s tile.val with resume := true } := by
  refine ⟨_, if_pos ⟨inTrap, framed, idle⟩, ⟨rfl, fun m hm => ?_⟩, ?_⟩
  · exact tileAt_modTile_other _ (clockTo t s) hm
  · exact tileAt_modTile_same _ _ (clockTo t s)

theorem stationAbandon_aborts (framed : (tileAt s tile.val).framed = true) (idle : (tileAt s tile.val).ops = [])
    (fault : (tileAt s tile.val).tcause ≠ 0) : ∃ u, exec (.stationAbandon t tile) s = .next u ∧ u.prog = none ∧
      u.cellar = s.cellar ∧ u.gov = s.gov := by
  obtain ⟨l, frame, -⟩ := programGone_abortAtStep (tileAt s tile.val).tcause 0 (clockTo t s)
  exact ⟨_, if_pos ⟨inTrap, framed, idle, fault⟩, abortAtStep_prog _ _ _, (congrArg State.cellar frame :),
    (congrArg State.gov frame :)⟩

theorem rtt_returns (resume : (tileAt s tile.val).resume = true) (runs : packageRuns s = true) (still : dropping s = false) :
    ∃ u, exec (.rtt t tile) s = .next u ∧ OneTile tile.val t s u ∧
      tileAt u tile.val = returnFromTrap (tileAt s tile.val) := by
  refine ⟨_, if_pos ⟨inTrap, resume, runs, still⟩, ⟨rfl, fun m hm => ?_⟩, ?_⟩
  · exact tileAt_modTile_other _ (clockTo t s) hm
  · exact tileAt_modTile_same _ _ (clockTo t s)

end

end Sys2Proof.Machine

namespace Sys2Proof.Machine

/-! ## A microword that a window trap interrupts is executed again (R629, R645 to R649) -/

/-! ### What a microword reads -/

/-- A tile without what a window trap may touch. -/
def Tile.unwindowed (x : Tile) : Tile := { x with
  wregs := [], scratch := [], occ := 0, spill := 0, upc := 0, inTrap := false, framed := false, resume := false
  waits := false, burst := 0 }

/-- Outside a handler a register select names the current window or something that no window trap touches. -/
theorem Tile.sel_congr {x y : Tile} (same : y.unwindowed = x.unwindowed) (hx : x.inTrap = false) (hy : y.inTrap = false)
    (regs : ∀ r, r < 16 → y.wreg y.cwp r = x.wreg x.cwp r) (r : Nat) : y.sel r = x.sel r := by
  by_cases low : r < 0x10
  · simp only [Tile.sel, if_pos low, Tile.window, hx, hy]
    exact regs r low
  · have plain (z : Tile) : z.sel r = z.unwindowed.sel r := by
      simp only [Tile.sel, if_neg low]; rfl
    exact (plain y).trans ((congrArg (Tile.sel · r) same).trans (plain x).symm)

theorem irField_congr {x y : Tile} (same : y.unwindowed = x.unwindowed) (p : Program) (f : Nat) :
    irField p y f = irField p x f :=
  have plain (z : Tile) : irField p z f = irField p z.unwindowed f := rfl
  (plain y).trans ((congrArg (irField p · f) same).trans (plain x).symm)

/-- A state that a window trap has led to: only counters and one tile differ, and that tile, outside a handler, in nothing
that its microword reads but the number of its windows. -/
structure Rereads (n : Nat) (s u : State) : Prop where
  frame : u = { s with tiles := u.tiles, kiosk := { s.kiosk with counters := u.kiosk.counters } }
  others : ∀ m, m ≠ n → tileAt u m = tileAt s m
  tile : (tileAt u n).unwindowed = (tileAt s n).unwindowed
  before : (tileAt s n).inTrap = false
  after : (tileAt u n).inTrap = false
  regs : ∀ r, r < 16 → (tileAt u n).wreg (tileAt u n).cwp r = (tileAt s n).wreg (tileAt s n).cwp r
  occ : ((tileAt s n).occ = 7 → (tileAt u n).occ ≠ 7) ∧ ((tileAt s n).occ = 1 → (tileAt u n).occ ≠ 1)

section
variable {n : Nat} {s u : State} (h : Rereads n s u)
include h

theorem Rereads.sel (r : Nat) : (tileAt u n).sel r = (tileAt s n).sel r :=
  Tile.sel_congr h.tile h.before h.after h.regs r

theorem Rereads.irField (p : Program) (f : Nat) : irField p (tileAt u n) f = irField p (tileAt s n) f :=
  irField_congr h.tile p f

theorem Rereads.ops : (tileAt u n).ops = (tileAt s n).ops := (congrArg Tile.ops h.tile :)

theorem Rereads.chan (c : Nat) : (tileAt u n).chan c = (tileAt s n).chan c := (congrArg (Tile.chan · c) h.tile :)

theorem Rereads.interlocked (r : Nat × Nat) (writes : Bool) :
    interlocked (tileAt u n) r writes = interlocked (tileAt s n) r writes := by
  simp only [Machine.interlocked, h.ops]

theorem Rereads.inProgram (p : Program) (a k : Nat) : inProgram u p a k = inProgram s p a k := by rw [h.frame]; rfl

theorem Rereads.withheld : withheld u = withheld s := by rw [h.frame]; rfl

theorem Rereads.controlWord (upc : Nat) : controlWord u upc = controlWord s upc := by rw [h.frame]; rfl

theorem Rereads.logical : (tileAt u n).logical = (tileAt s n).logical := (congrArg Tile.logical h.tile :)

theorem Rereads.tileReachable (p : Program) (a k : Nat) : tileReachable u p n a k = tileReachable s p n a k := by
  have valid : hbmValid u = hbmValid s := by rw [h.frame]; rfl
  simp only [Machine.tileReachable, h.logical, valid]

theorem Rereads.tilePoisoned (p : Program) (a k : Nat) : tilePoisoned u p n a k = tilePoisoned s p n a k := by
  have tiers : u.tiers = s.tiers := by rw [h.frame]
  simp only [Machine.tilePoisoned, h.logical, tiers]

end

/-! ### The checks of a microword -/

/-- The tile as the microword at an address begins. -/
def Tile.begun (upc : Nat) (x : Tile) : Tile := { x with upc := upc, waits := false, burst := 0 }

theorem Rereads.begun {n : Nat} {s u : State} (h : Rereads n s u) (upc : Nat) :
    Rereads n (modTile n (Tile.begun upc) s) (modTile n (Tile.begun upc) u) := by
  obtain ⟨frame, others, tile, before, after, regs, occ⟩ := h
  have hs := tileAt_modTile_same n (Tile.begun upc) s
  have hu := tileAt_modTile_same n (Tile.begun upc) u
  refine ⟨by rw [frame]; rfl, fun m hm => ?_, by rw [hs, hu]; exact tile, by rw [hs]; exact before, by rw [hu]; exact after,
    by rw [hs, hu]; exact regs, by rw [hs, hu]; exact occ⟩
  rw [tileAt_modTile_other _ _ hm, tileAt_modTile_other _ _ hm, others m hm]

/-- The second operand of a microword's ALU. -/
def microB (p : Program) (x : Tile) (w : Nat) : Word :=
  if uBsel w = 0 then x.sel (uSrcB w) else if uBsel w = 1 then BitVec.ofNat 64 (uLit w) else irField p x (uIfield w)

/-- A microword's ALU result, carry and overflow. -/
def microAlu (p : Program) (x : Tile) (w : Nat) : Word × Option Bool × Option Bool :=
  alu (uAlu w) (x.sel (uSrcA w)) (microB p x w)

/-- What a microword that completes does before its sequencing. -/
def microWork (p : Program) (n w : Nat) (s : State) : State :=
  let x := tileAt s n
  let r := microAlu p x w
  lateEffect w r.1 n (issueEffect p x w n (memEffect p w (x.sel (uMemAddr w)).toNat (x.sel (uMemData w)) n
    (aluEffect w r.1 r.2.1 r.2.2 n s)))

/-- What a microword that completes does. -/
def microDone (p : Program) (n upc w : Nat) (s : State) : State :=
  let v := modTile n (Tile.begun upc) s
  sequence v p (tileAt v n) w n (microWork p n w v)

/-- What keeps a microword from its sequencing, if anything does (R628 to R635, R649, R650, R664). -/
def microStop (p : Program) (n w : Nat) (s : State) : Option MicroOut :=
  let x := tileAt s n
  let r := (microAlu p x w).1
  let ma := (x.sel (uMemAddr w)).toNat
  let fault (cause addr : Nat) : MicroOut := if x.inTrap then .check 3 else .fault cause addr
  match wordCheck w with
  | some k => some (.check k)
  | none =>
    if (uMem w = 6 ∨ uMem w = 7) ∧ x.inTrap = false then some (.check 7)
    else if uMem w = 6 ∧ x.spill = 30 then some (.check 4)
    else if (uMem w = 1 ∨ uMem w = 2) ∧ inSaveArea ma 8 = true ∧ x.inTrap = false then some (.check 7)
    else if uTrap w = 1 then some (fault cIllegal 0)
    else if uTrap w = 2 then some (fault cAccess r.toNat)
    else if (uMem w = 1 ∨ uMem w = 2) ∧ inSaveArea ma 8 = false ∧
        (ma % 8 ≠ 0 ∨ inProgram s p ma 8 = false ∨ tileReachable s p n ma 8 = false) then some (fault cAccess r.toNat)
    else if uMem w = 1 ∧ tilePoisoned s p n ma 8 = true then some (.check 8)
    else if (uMem w = 1 ∨ uMem w = 2) ∧ interlocked x (ma, 8) (uMem w = 2) = true then some .stall
    else if uMv w ≠ 0 ∧ 8 ≤ (x.chan (uMv w - 1)).commands.length then some .stall
    else if (uMu w = 1 ∨ uMu w = 2 ∨ uVu w = 1 ∨ uMv w ≠ 0) ∧ withheld s = true then some .stall
    else if (uFlag w = 1 ∨ uFlag w = 2) ∧ x.ops ≠ [] then some .stall
    else if uSeq w = 4 ∧ condBits s p x w = 0 then some .stall
    else none

/-- What a microword that nothing stops comes to, by the windows of its tile (R645 to R648, R650). -/
def microGo (p : Program) (n w : Nat) (s : State) : MicroOut :=
  let x := tileAt s n
  if uSeq w = 1 ∧ x.inTrap = true then .check 3
  else if uSeq w = 1 ∧ x.occ = 7 then .overflow
  else if uSeq w = 2 ∧ x.occ = 1 ∧ x.spill = 0 then .check 5
  else if uSeq w = 2 ∧ x.occ = 1 then if x.inTrap then .check 3 else .underflow
  else .next (sequence s p x w n (microWork p n w s))

theorem getD_ite_some {c : Prop} [Decidable c] (a k : MicroOut) (o : Option MicroOut) :
    (if c then some a else o).getD k = if c then a else o.getD k := by split <;> rfl

/-- A microword is checked, and then sequenced. -/
theorem microStep_eq (p : Program) (n upc w : Nat) (s : State) :
    let v := modTile n (Tile.begun upc) s
    microStep p n upc w s = (microStop p n w v).getD (microGo p n w v) := by
  intro v
  cases check : wordCheck w with
  | some k => simp only [microStep, microStop, check, Option.getD_some]
  | none =>
    simp only [microStep, microStop, check, getD_ite_some, Option.getD_none]
    rfl

theorem ite_ne {α : Type} {c : Prop} [Decidable c] {a b o : α} (ha : a ≠ o) (hb : b ≠ o) : (if c then a else b) ≠ o := by
  split
  · exact ha
  · exact hb

/-- No check of a microword is a window trap. -/
theorem microStop_ne {stop : MicroOut} (trap : stop = .overflow ∨ stop = .underflow) (p : Program) (n w : Nat) (s : State) :
    microStop p n w s ≠ some stop := by
  have check (k : Nat) : some (MicroOut.check k) ≠ some stop := by rcases trap with rfl | rfl <;> simp
  have fault (c a : Nat) : some (if (tileAt s n).inTrap then .check 3 else .fault c a) ≠ some stop := by
    rcases trap with rfl | rfl <;> split <;> simp
  have stall : some MicroOut.stall ≠ some stop := by rcases trap with rfl | rfl <;> simp
  have passes : none ≠ some stop := (Option.some_ne_none stop).symm
  simp only [microStop]
  split
  · exact check _
  · exact ite_ne (check 7) (ite_ne (check 4) (ite_ne (check 7) (ite_ne (fault _ _) (ite_ne (fault _ _) (ite_ne (fault _ _)
      (ite_ne (check 8) (ite_ne stall (ite_ne stall (ite_ne stall (ite_ne stall (ite_ne stall passes)))))))))))

/-- Outside a handler, SPILL and FILL are stopped. -/
theorem microStop_none {p : Program} {n w : Nat} {s : State} (passes : microStop p n w s = none)
    (outside : (tileAt s n).inTrap = false) : uMem w ≠ 6 ∧ uMem w ≠ 7 := by
  refine not_or.mp fun moves => ?_
  simp only [microStop, if_pos (And.intro moves outside)] at passes
  split at passes <;> cases passes

/-- A microword that a full or an empty window stops is a CALL or a RETURN outside a handler. -/
structure WindowTrapped (stop : MicroOut) (w : Nat) (x : Tile) : Prop where
  outside : x.inTrap = false
  trap : stop = .overflow ∧ uSeq w = 1 ∧ x.occ = 7 ∨ stop = .underflow ∧ uSeq w = 2 ∧ x.occ = 1

theorem microGo_trapped {p : Program} {n w : Nat} {s : State} {stop : MicroOut} (trap : stop = .overflow ∨ stop = .underflow)
    (h : microGo p n w s = stop) : WindowTrapped stop w (tileAt s n) := by
  simp only [microGo] at h
  split at h
  · subst h; simp at trap
  · next notMw7 =>
    split at h
    · next full => exact ⟨by simpa [full.1] using notMw7, .inl ⟨h.symm, full⟩⟩
    · split at h
      · subst h; simp at trap
      · split at h
        · next empty =>
          split at h
          · subst h; simp at trap
          · next outside => exact ⟨Bool.not_eq_true _ ▸ outside, .inr ⟨h.symm, empty⟩⟩
        · subst h; simp at trap

/-- A microword that a window trap stops has passed every check before. -/
theorem microStep_trapped {p : Program} {n upc w : Nat} {s : State} {stop : MicroOut}
    (trap : stop = .overflow ∨ stop = .underflow) (h : microStep p n upc w s = stop) :
    let v := modTile n (Tile.begun upc) s
    microStop p n w v = none ∧ WindowTrapped stop w (tileAt v n) := by
  intro v
  rw [microStep_eq] at h
  cases checked : microStop p n w v with
  | some o =>
    rw [show modTile n (Tile.begun upc) s = v from rfl, checked] at h
    exact absurd (checked.trans (congrArg some h)) (microStop_ne trap p n w v)
  | none =>
    rw [show modTile n (Tile.begun upc) s = v from rfl, checked] at h
    exact ⟨rfl, microGo_trapped trap h⟩

/-- A CALL or a RETURN that a window trap interrupted is checked again with the same result. -/
theorem Rereads.microStop {n : Nat} {s u : State} (h : Rereads n s u) {p : Program} {w : Nat} (spill : uMem w ≠ 6)
    (seq : uSeq w ≠ 4) : microStop p n w u = microStop p n w s := by
  have alu : microAlu p (tileAt u n) w = microAlu p (tileAt s n) w := by simp only [microAlu, microB, h.sel, h.irField]
  simp only [Machine.microStop, alu, h.sel, h.before, h.after, h.inProgram, h.tileReachable, h.tilePoisoned, h.interlocked,
    h.chan, h.withheld, h.ops, spill, seq, false_and, if_false]

/-- Executed again once its window trap has been handled, a microword completes. -/
theorem Rereads.completes {n : Nat} {s u : State} (h : Rereads n s u) {p : Program} {upc w : Nat} {stop : MicroOut}
    (trap : stop = .overflow ∨ stop = .underflow) (trapped : microStep p n upc w s = stop) :
    microStep p n upc w u = .next (microDone p n upc w u) ∧ uMem w ≠ 6 ∧ uMem w ≠ 7 := by
  obtain ⟨passes, outside, cause⟩ := microStep_trapped trap trapped
  obtain ⟨spill, fill⟩ := microStop_none passes outside
  have begun := h.begun upc
  have seq : uSeq w ≠ 4 := by rcases cause with ⟨-, seq, -⟩ | ⟨-, seq, -⟩ <;> omega
  have go : microGo p n w (modTile n (Tile.begun upc) u) = .next (microDone p n upc w u) := by
    have room := begun.occ
    rcases cause with ⟨-, call, full⟩ | ⟨-, ret, empty⟩
    · have free := room.1 full
      simp only [microGo, begun.after, call, free, Bool.false_eq_true, and_false, Nat.reduceEqDiff, false_and, if_false]
      rfl
    · have held := room.2 empty
      simp only [microGo, ret, held, Nat.reduceEqDiff, false_and, and_false, if_false]
      rfl
  refine ⟨?_, spill, fill⟩
  rw [microStep_eq, begun.microStop spill seq, passes]
  exact go

/-! ### What a microword leaves (R629) -/

/-- What a microword changes only by its sequencing. -/
def Tile.control (x : Tile) : Nat × Nat × Nat × Bool := (x.cwp, x.occ, x.spill, x.inTrap)

/-- A microword's work before its sequencing: the program, the other tiles, the windows and the counts of traps stand. -/
structure MicroWorks (n : Nat) (s u : State) : Prop where
  control : (tileAt u n).control = (tileAt s n).control
  others : ∀ m, m ≠ n → tileAt u m = tileAt s m
  prog : u.prog = s.prog
  counts : ∀ a, a < 256 → counterAt u 0x5820 a = counterAt s 0x5820 a

theorem MicroWorks.refl (n : Nat) (s : State) : MicroWorks n s s := ⟨rfl, fun _ _ => rfl, rfl, fun _ _ => rfl⟩

theorem MicroWorks.trans {n : Nat} {s v u : State} (h : MicroWorks n s v) (k : MicroWorks n v u) : MicroWorks n s u :=
  ⟨k.control.trans h.control, fun m hm => (k.others m hm).trans (h.others m hm), k.prog.trans h.prog,
    fun a ha => (k.counts a ha).trans (h.counts a ha)⟩

theorem MicroWorks.ite {n : Nat} {s u v : State} {c : Prop} [Decidable c] (h : MicroWorks n s u) (k : MicroWorks n s v) :
    MicroWorks n s (if c then u else v) := by
  split
  · exact h
  · exact k

section
variable {n : Nat} {s v u : State} (h : MicroWorks n s v)
include h

theorem MicroWorks.tile {f : Tile → Tile} (keeps : ∀ x, (f x).control = x.control) : MicroWorks n s (modTile n f v) :=
  h.trans ⟨by rw [tileAt_modTile_same]; exact keeps _, fun _ hm => tileAt_modTile_other f v hm, rfl, fun _ _ => rfl⟩

theorem MicroWorks.elsewhere (tiles : u.tiles = v.tiles) (prog : u.prog = v.prog) (kiosk : u.kiosk = v.kiosk) :
    MicroWorks n s u :=
  h.trans ⟨by rw [tileAt_congr tiles], fun _ _ => tileAt_congr tiles _, prog, fun a _ => by simp only [counterAt, kiosk]⟩

theorem MicroWorks.counts_other {i a k : Nat} (ha : a < 256) (other : i ≠ 0x5820) : MicroWorks n s (count i a k v) :=
  h.trans ⟨by rw [tileAt_count], fun m _ => tileAt_count i a k m v, by simp,
    fun _ hb => counterAt_count_other _ (objKey_ne hb ha (.inl other.symm))⟩

/-- Issuing work is work. -/
theorem MicroWorks.issued {f : Tile → Tile} (keeps : ∀ x, (f x).control = x.control) :
    MicroWorks n s ((modTile n f v).modGov fun g => { g with workThis := true }) :=
  (h.tile keeps).elsewhere rfl rfl rfl

end

theorem Tile.put_control (r : Nat) (v : Word) (x : Tile) : (x.put r v).control = x.control := by
  simp only [Tile.put]
  (repeat' split) <;> rfl

theorem microWorks_tilePut (p : Program) (n a : Nat) (b : Byte) (s : State) : MicroWorks n s (tilePut p n a b s) := by
  simp only [tilePut]
  split
  · exact (MicroWorks.refl n s).tile fun _ => rfl
  · exact (MicroWorks.refl n s).elsewhere rfl rfl rfl

theorem microWorks_tileWrite (p : Program) (n a : Nat) (bs : List Byte) (s : State) :
    MicroWorks n s (tileWrite p n a bs s) := by
  simp only [tileWrite]
  split
  · exact (MicroWorks.refl n s).tile fun _ => rfl
  · exact (forEach_preserves (P := MicroWorks n s) (fun _ _ h => h.trans (microWorks_tilePut p n _ _ _)) _
      (MicroWorks.refl n s)).elsewhere rfl rfl rfl

theorem microWorks_aluEffect (w : Nat) (r : Word) (c v : Option Bool) (n : Nat) (s : State) :
    MicroWorks n s (aluEffect w r c v n s) := by
  simp only [aluEffect]
  refine .ite (.refl n s) (.tile ?_ fun x => ?_)
  · exact (MicroWorks.refl n s).elsewhere rfl rfl rfl
  split
  · rfl
  · exact Tile.put_control _ _ _

theorem microWorks_memEffect (p : Program) {w : Nat} (spill : uMem w ≠ 6) (fill : uMem w ≠ 7) (a : Nat) (d : Word) (n : Nat)
    (s : State) : MicroWorks n s (memEffect p w a d n s) := by
  simp only [memEffect]
  split
  · exact (MicroWorks.refl n s).tile (Tile.put_control _ _)
  · exact microWorks_tileWrite p n a _ s
  · next h => exact absurd h spill
  · next h => exact absurd h fill
  · exact .refl n s

theorem microWorks_issueMover (n c addr : Nat) (s : State) : MicroWorks n s (issueMover n c addr s).1 := by
  have queued (ch : Channel → Channel) (x : Tile) :
      ({ x.setChan c ch with movStalled := false } : Tile).control = x.control := by
    simp only [Tile.setChan]; split <;> rfl
  simp only [issueMover]
  split
  · exact .refl n s
  split
  · split
    · exact .refl n s
    · refine MicroWorks.counts_other (.tile (.refl n s) fun _ => ?_) (by decide) (by decide)
      rfl
  · exact (MicroWorks.refl n s).issued fun x => queued _ x

theorem microWorks_issueEffect (p : Program) (x0 : Tile) (w n : Nat) (s : State) :
    MicroWorks n s (issueEffect p x0 w n s) := by
  have matrixUnit (f : Tile → Tile) (keeps : ∀ x, (f x).control = x.control) : MicroWorks n s
      (if uMu w = 1 ∨ uMu w = 2 then (modTile n f s).modGov fun g => { g with workThis := true }
        else if uMu w = 3 then modTile n (fun x => { x with burst := s.gov.ballast }) s else s) :=
    .ite ((MicroWorks.refl n s).issued keeps) (.ite ((MicroWorks.refl n s).tile fun _ => rfl) (.refl n s))
  simp only [issueEffect]
  refine .ite ?_ (.trans ?_ (microWorks_issueMover n _ _ _))
  all_goals
    refine .ite (.issued (matrixUnit _ fun _ => ?_) fun _ => ?_) (matrixUnit _ fun _ => ?_) <;> rfl

theorem microWorks_lateEffect (w : Nat) (r : Word) (n : Nat) (s : State) : MicroWorks n s (lateEffect w r n s) := by
  have flag (y : Tile) : (match uFlag w with
      | 1 => y.put (uDst w) (BitVec.ofNat 64 y.flags)
      | 2 => { y.put (uDst w) (BitVec.ofNat 64 y.flags) with flags := 0 }
      | 3 => { y with flags := 0 }
      | _ => y).control = y.control := by
    split
    · exact Tile.put_control _ _ y
    · exact Tile.put_control _ _ y
    · rfl
    · rfl
  have loop (y : Tile) : (match uLoop w with
      | 1 => { y with lc := r }
      | 2 => { y with lc := if y.lc = 0 then 0 else y.lc - 1 }
      | _ => y).control = y.control := by split <;> rfl
  have pc (y : Tile) : (match uPcOp w with
      | 1 => { y with pc := (y.pc + 16) % 2 ^ 32 }
      | 2 => { y with pc := r.toNat % 2 ^ 32 }
      | _ => y).control = y.control := by split <;> rfl
  exact (MicroWorks.refl n s).tile fun x => (pc _).trans ((loop _).trans (flag x))

/-! ### The window's move (R645, R646) -/

theorem microWorks_microWork (p : Program) {w : Nat} (spill : uMem w ≠ 6) (fill : uMem w ≠ 7) (n : Nat) (s : State) :
    MicroWorks n s (microWork p n w s) :=
  (((microWorks_aluEffect w _ _ _ n s).trans (microWorks_memEffect p spill fill _ _ n _)).trans
    (microWorks_issueEffect p _ w n _)).trans (microWorks_lateEffect w _ n _)

/-- A tile that has called: it enters the next window, which holds where to return. -/
def Tile.called (back entry : Nat) (x : Tile) : Tile := { x.setW ((x.cwp + 1) % 7) 15 (BitVec.ofNat 64 back) with
  cwp := (x.cwp + 1) % 7, occ := x.occ + 1, upc := entry }

/-- A tile that has returned to the window before. -/
def Tile.returned (x : Tile) : Tile :=
  { x with upc := (x.wreg x.cwp 15).toNat % 4096, cwp := (x.cwp + 6) % 7, occ := x.occ - 1 }

theorem sequence_call (s0 : State) (p : Program) (x0 : Tile) {w : Nat} (call : uSeq w = 1) (n : Nat) (s : State) :
    sequence s0 p x0 w n s = modTile n (Tile.called (uNext w ||| condBits s0 p x0 w) (uLit w % 4096)) s := by
  simp only [sequence, call]; rfl

theorem sequence_return (s0 : State) (p : Program) (x0 : Tile) {w : Nat} (ret : uSeq w = 2) (n : Nat) (s : State) :
    sequence s0 p x0 w n s = modTile n Tile.returned s := by
  simp only [sequence, ret]; rfl

section
variable (p : Program) (n upc : Nat) {w : Nat} (spill : uMem w ≠ 6) (fill : uMem w ≠ 7) (s : State)
include spill fill

theorem microWorks_begun_microWork : MicroWorks n s (microWork p n w (modTile n (Tile.begun upc) s)) := by
  have begins : MicroWorks n s (modTile n (Tile.begun upc) s) := by
    refine (MicroWorks.refl n s).tile (fun x => ?_)
    rfl
  exact begins.trans (microWorks_microWork p spill fill n _)

theorem microDone_call (call : uSeq w = 1) :
    ∃ v back, MicroWorks n s v ∧ microDone p n upc w s = modTile n (Tile.called back (uLit w % 4096)) v :=
  ⟨_, _, microWorks_begun_microWork p n upc spill fill s, sequence_call _ p _ call n _⟩

theorem microDone_return (ret : uSeq w = 2) :
    ∃ v, MicroWorks n s v ∧ microDone p n upc w s = modTile n Tile.returned v :=
  ⟨_, microWorks_begun_microWork p n upc spill fill s, sequence_return _ p _ ret n _⟩

end

@[simp] theorem counterAt_modTile (n : Nat) (f : Tile → Tile) (s : State) (i a : Nat) :
    counterAt (modTile n f s) i a = counterAt s i a := rfl

@[simp] theorem modTile_prog (n : Nat) (f : Tile → Tile) (s : State) : (modTile n f s).prog = s.prog := rfl

/-! ### The handler of a window trap (R647, R648) -/

/-- A tile in a window trap. -/
def Tile.windowTrapped (handler : Nat) (x : Tile) : Tile :=
  { x.setW 7 15 (BitVec.ofNat 64 x.upc) with inTrap := true, framed := false, upc := handler }

/-- A tile that is back from a window trap at the microword that raised it, with a given number of windows in the save area
and of windows occupied. -/
structure Tile.Handled (spill occ : Nat) (x y : Tile) : Prop where
  tile : y.unwindowed = x.unwindowed
  outside : y.inTrap = false
  upc : y.upc = x.upc
  spill : y.spill = spill
  occ : y.occ = occ
  regs : ∀ r, r < 16 → y.wreg y.cwp r = x.wreg x.cwp r

/-- A handler that leaves the current window and the trap's own is undone by RTT but for the windows it moved. -/
theorem returnFromTrap_windowTrapped {x : Tile} (window : x.cwp < 7) (low : x.upc < 4096) (handler : Nat) {wregs : Tab Word}
    (keeps : ∀ k, k = x.cwp ∨ k = 7 → ∀ q, q < 16 → tabGet 0 (16 * k + q) wregs = (x.windowTrapped handler).wreg k q)
    (scratch : Memory) (spill occ : Nat) : Tile.Handled spill occ x
      (returnFromTrap { x.windowTrapped handler with wregs := wregs, scratch := scratch, spill := spill, occ := occ }) := by
  have back : (tabGet 0 (16 * 7 + 15) wregs).toNat % 4096 = x.upc := by
    rw [keeps 7 (.inr rfl) 15 (by decide)]
    simp only [Tile.wreg, Tile.windowTrapped, Tile.setW, tabGet_put_same, BitVec.toNat_ofNat]
    omega
  rw [returnFromTrap_unframed rfl]
  exact ⟨rfl, rfl, back, rfl, rfl, fun r hr =>
    (keeps x.cwp (.inl rfl) r hr).trans (wreg_setW_other (by omega) (by decide) hr _ x)⟩

theorem spillWindow_eq (x : Tile) : ∃ scratch, spillWindow x =
    { x with wregs := x.wregs, scratch := scratch, spill := x.spill + 1, occ := x.occ - 1 } := by
  simp only [spillWindow]
  exact ⟨_, rfl⟩

/-- Loading one window's registers leaves everything else. -/
theorem foldl_setW_loads (w : Nat) (v : Nat → Word) {rs : List Nat} (low : ∀ r ∈ rs, r < 16) (x : Tile) :
    ∃ wregs, rs.foldl (fun y r => y.setW w r (v r)) x = { x with wregs := wregs } ∧
      ∀ k, k ≠ w → ∀ q, q < 16 → tabGet 0 (16 * k + q) wregs = x.wreg k q :=
  ⟨_, foldl_setW_frame (fun _ => w) v rs x, fun _ other _ hq => wreg_foldl_setW_other other hq v low x⟩

theorem fillWindow_eq (x : Tile) : ∃ wregs, fillWindow x =
    { x with wregs := wregs, scratch := x.scratch, spill := x.spill - 1, occ := x.occ + 1 } ∧
      ∀ k, k ≠ (x.cwp + 6) % 7 → ∀ q, q < 16 → tabGet 0 (16 * k + q) wregs = x.wreg k q := by
  obtain ⟨wregs, loads, keeps⟩ := foldl_setW_loads ((x.cwp + 6) % 7)
    (fun r => BitVec.ofNat 64 (leNat (memRead x.scratch (slotAddr (x.spill - 1) + 8 * r) 8)))
    (fun r (hr : r ∈ List.range 16) => List.mem_range.mp hr) x
  exact ⟨wregs, by simp only [fillWindow, loads], keeps⟩

theorem spillWindow_handled {x : Tile} (window : x.cwp < 7) (low : x.upc < 4096) (handler : Nat) :
    Tile.Handled (x.spill + 1) (x.occ - 1) x (returnFromTrap (spillWindow (x.windowTrapped handler))) := by
  obtain ⟨scratch, spills⟩ := spillWindow_eq (x.windowTrapped handler)
  rw [spills]
  exact returnFromTrap_windowTrapped window low handler (fun _ _ _ _ => rfl) scratch _ _

theorem fillWindow_handled {x : Tile} (window : x.cwp < 7) (low : x.upc < 4096) (handler : Nat) :
    Tile.Handled (x.spill - 1) (x.occ + 1) x (returnFromTrap (fillWindow (x.windowTrapped handler))) := by
  obtain ⟨wregs, fills, keeps⟩ := fillWindow_eq (x.windowTrapped handler)
  rw [fills]
  refine returnFromTrap_windowTrapped window low handler (fun k here => keeps k ?_) _ _ _
  show k ≠ (x.cwp + 6) % 7
  omega

/-- The state in which the microword that a window trap interrupted is executed again. -/
def windowBack (n handler entry : Nat) (move : Tile → Tile) (s : State) : State :=
  modTile n (fun x => returnFromTrap (move x)) (windowTrap n (tileAt s n).upc handler (count 0x5820 entry 1 s))

theorem modTile_modTile_count_frame (n i a k : Nat) (f g : Tile → Tile) (s : State) :
    let u := modTile n g (modTile n f (count i a k s))
    u = { s with tiles := u.tiles, kiosk := { s.kiosk with counters := u.kiosk.counters } } := rfl

section
variable {n handler entry spill occ : Nat} {move : Tile → Tile} {s : State}
  (handled : (tileAt s n).Handled spill occ (returnFromTrap (move ((tileAt s n).windowTrapped handler))))

theorem tileAt_windowBack : tileAt (windowBack n handler entry move s) n =
    returnFromTrap (move ((tileAt s n).windowTrapped handler)) := by
  simp only [windowBack, windowTrap, tileAt_modTile_same, tileAt_count]
  rfl

theorem tileAt_windowBack_other {m : Nat} (other : m ≠ n) :
    tileAt (windowBack n handler entry move s) m = tileAt s m := by
  simp only [windowBack, windowTrap, tileAt_modTile_other _ _ other, tileAt_count]

theorem prog_windowBack : (windowBack n handler entry move s).prog = s.prog := by
  simp only [windowBack, windowTrap, modTile_prog, count_fields]

theorem counted_windowBack : Counted 0x5820 entry 1 s (windowBack n handler entry move s) := by
  refine (counted_count s).of_counterAt rfl ?_
  simp only [windowBack, windowTrap, counterAt_modTile]

include handled in
theorem rereads_windowBack (outside : (tileAt s n).inTrap = false)
    (moved : ((tileAt s n).occ = 7 → occ ≠ 7) ∧ ((tileAt s n).occ = 1 → occ ≠ 1)) :
    Rereads n s (windowBack n handler entry move s) where
  frame := modTile_modTile_count_frame n _ _ _ _ _ s
  others _ other := tileAt_windowBack_other other
  tile := by rw [tileAt_windowBack]; exact handled.tile
  before := outside
  after := by rw [tileAt_windowBack]; exact handled.outside
  regs := by rw [tileAt_windowBack]; exact handled.regs
  occ := by rw [tileAt_windowBack, handled.occ]; exact moved

include handled in
/-- The microword completes once its window trap has been handled. -/
theorem microHere_windowBack {p : Program} {stop : MicroOut} (trap : stop = .overflow ∨ stop = .underflow)
    (trapped : microHere p n s = stop)
    (moved : ((tileAt s n).occ = 7 → occ ≠ 7) ∧ ((tileAt s n).occ = 1 → occ ≠ 1)) :
    let x := tileAt s n
    let w := controlWord s x.upc
    let u := windowBack n handler entry move s
    WindowTrapped stop w x ∧ uMem w ≠ 6 ∧ uMem w ≠ 7 ∧ microHere p n u = .next (microDone p n x.upc w u) := by
  intro x w u
  obtain ⟨-, cause⟩ := microStep_trapped trap trapped
  rw [tileAt_modTile_same] at cause
  have cause : WindowTrapped stop w x := ⟨cause.outside, cause.trap⟩
  have again := rereads_windowBack (entry := entry) handled cause.outside moved
  obtain ⟨completes, spill, fill⟩ := again.completes trap trapped
  have upc : (tileAt u n).upc = x.upc := (congrArg Tile.upc tileAt_windowBack).trans handled.upc
  refine ⟨cause, spill, fill, ?_⟩
  rw [microHere, upc, again.controlWord]
  exact completes

end

theorem windowHandler_completes {p : Program} {n : Nat} {spill : Bool} {s u : State}
    (room : ¬ (spill = true ∧ (tileAt s n).spill = 30))
    (next : microHere p n (modTile n (fun x => returnFromTrap (if spill then spillWindow x else fillWindow x)) s) = .next u) :
    windowHandler p n spill s = u := by
  simp only [windowHandler, if_neg room, next]

/-! ### WINDOW_OVERFLOW and WINDOW_UNDERFLOW -/

/-- What a window trap and its microword come to: one window moved, the program, the other tiles and the counts but one
stand. -/
structure WindowMoved (n entry spill occ cwp : Nat) (s u : State) : Prop where
  counted : Counted 0x5820 entry 1 s u
  spill : (tileAt u n).spill = spill
  occ : (tileAt u n).occ = occ
  outside : (tileAt u n).inTrap = false
  cwp : (tileAt u n).cwp = cwp
  prog : u.prog = s.prog
  others : ∀ m, m ≠ n → tileAt u m = tileAt s m

section
variable {n handler entry spill occ : Nat} {move : Tile → Tile} {s v : State}
  (handled : (tileAt s n).Handled spill occ (returnFromTrap (move ((tileAt s n).windowTrapped handler))))
  (works : MicroWorks n (windowBack n handler entry move s) v)
include handled works

theorem control_of_handled : (tileAt v n).control = ((tileAt s n).cwp, occ, spill, false) := by
  rw [works.control, tileAt_windowBack, ← handled.spill, ← handled.occ, ← handled.outside]
  rw [← show _ = (tileAt s n).cwp from (congrArg Tile.cwp handled.tile :)]
  rfl

/-- The end of the microword moves the window. -/
theorem windowMoved_modTile (low : entry < 256) {f : Tile → Tile}
    (keeps : ∀ x, (f x).spill = x.spill ∧ (f x).inTrap = x.inTrap) {occ' cwp' : Nat}
    (moves : ∀ x : Tile, x.occ = occ → x.cwp = (tileAt s n).cwp → (f x).occ = occ' ∧ (f x).cwp = cwp') :
    WindowMoved n entry spill occ' cwp' s (modTile n f v) := by
  have here := tileAt_modTile_same n f v
  have control := control_of_handled handled works
  simp only [Tile.control, Prod.mk.injEq] at control
  obtain ⟨cwp, occ, spill, outside⟩ := control
  obtain ⟨keepsSpill, keepsTrap⟩ := keeps (tileAt v n)
  obtain ⟨occ', cwp'⟩ := moves (tileAt v n) occ cwp
  refine ⟨?_, ?_, ?_, ?_, ?_, ?_, fun m other => ?_⟩
  · exact counted_windowBack.of_counterAt rfl ((counterAt_modTile n f v _ _).trans (works.counts entry low))
  · rw [here, keepsSpill, spill]
  · rw [here, occ']
  · rw [here, keepsTrap, outside]
  · rw [here, cwp']
  · exact works.prog.trans prog_windowBack
  · rw [tileAt_modTile_other _ _ other, works.others m other, tileAt_windowBack_other other]

end

section
variable (t before : Nat) {tile : Fin 160} {p : Program} {s s1 : State} (program : s.prog = some p)
  (runs : tileRuns s tile.val = true) (reached : microRun p tile.val before (clockTo t s) = some s1)
include program runs reached

theorem exec_windowOverflow (overflow : microHere p tile.val s1 = .overflow) :
    exec (.windowOverflow t tile before) s = .next (windowHandler p tile.val true
      (windowTrap tile.val (tileAt s1 tile.val).upc 0x020 (count 0x5820 2 1 s1))) := by
  have program' : (clockTo t s).prog = some p := program
  have runs' : ¬ tileRuns (clockTo t s) tile.val = false := ne_false_of_eq_true runs
  show execWindowOverflow t tile before s = _
  simp only [execWindowOverflow, program', if_neg runs', reached, overflow]

theorem exec_windowUnderflow (underflow : microHere p tile.val s1 = .underflow) :
    exec (.windowUnderflow t tile before) s = .next (windowHandler p tile.val false
      (windowTrap tile.val (tileAt s1 tile.val).upc 0x030 (count 0x5820 3 1 s1))) := by
  have program' : (clockTo t s).prog = some p := program
  have runs' : ¬ tileRuns (clockTo t s) tile.val = false := ne_false_of_eq_true runs
  show execWindowUnderflow t tile before s = _
  simp only [execWindowUnderflow, program', if_neg runs', reached, underflow]

variable (window : (tileAt s1 tile.val).cwp < 7) (low : (tileAt s1 tile.val).upc < 4096)
include window low

/-- A CALL with seven windows occupied spills the oldest and completes. -/
theorem windowOverflow_moves (overflow : microHere p tile.val s1 = .overflow) (room : (tileAt s1 tile.val).spill < 30) :
    ∃ u, exec (.windowOverflow t tile before) s = .next u ∧
      WindowMoved tile.val 2 ((tileAt s1 tile.val).spill + 1) 7 (((tileAt s1 tile.val).cwp + 1) % 7) s1 u ∧
      (tileAt u tile.val).upc = uLit (controlWord s1 (tileAt s1 tile.val).upc) % 4096 := by
  have handled := spillWindow_handled window low 0x020
  obtain ⟨cause, spill, fill, next⟩ := microHere_windowBack (entry := 2) handled (.inl rfl) overflow (by omega)
  obtain ⟨-, call, full⟩ : _ ∧ uSeq _ = 1 ∧ (tileAt s1 tile.val).occ = 7 :=
    cause.trap.resolve_right fun h => MicroOut.noConfusion h.1
  obtain ⟨v, back, works, done⟩ := microDone_call p tile.val (tileAt s1 tile.val).upc spill fill _ call
  rw [done] at next
  have notFull : ¬ (true = true ∧ (tileAt (windowTrap tile.val (tileAt s1 tile.val).upc 0x020 (count 0x5820 2 1 s1))
      tile.val).spill = 30) := by
    rw [windowTrap, tileAt_modTile_same, tileAt_count]
    exact fun h => absurd h.2 (Nat.ne_of_lt room)
  refine ⟨_, (exec_windowOverflow t before program runs reached overflow).trans
    (congrArg Host.Outcome.next (windowHandler_completes notFull next)), ?_, ?_⟩
  · refine windowMoved_modTile (f := Tile.called back _) handled works (by decide) (fun _ => ⟨rfl, rfl⟩) fun x occ cwp => ⟨?_, ?_⟩
    · show x.occ + 1 = 7
      omega
    · show (x.cwp + 1) % 7 = _
      rw [cwp]
  · rw [tileAt_modTile_same]; rfl

/-- A RETURN with no window to return to fills one and completes. -/
theorem windowUnderflow_moves (underflow : microHere p tile.val s1 = .underflow) :
    ∃ u, exec (.windowUnderflow t tile before) s = .next u ∧
      WindowMoved tile.val 3 ((tileAt s1 tile.val).spill - 1) 1 (((tileAt s1 tile.val).cwp + 6) % 7) s1 u := by
  have handled := fillWindow_handled window low 0x030
  obtain ⟨cause, spill, fill, next⟩ := microHere_windowBack (entry := 3) handled (.inr rfl) underflow (by omega)
  obtain ⟨-, ret, empty⟩ : _ ∧ uSeq _ = 2 ∧ (tileAt s1 tile.val).occ = 1 :=
    cause.trap.resolve_left fun h => MicroOut.noConfusion h.1
  obtain ⟨v, works, done⟩ := microDone_return p tile.val (tileAt s1 tile.val).upc spill fill _ ret
  rw [done] at next
  refine ⟨_, (exec_windowUnderflow t before program runs reached underflow).trans
    (congrArg Host.Outcome.next (windowHandler_completes (fun h => Bool.noConfusion h.1) next)), ?_⟩
  refine windowMoved_modTile (f := Tile.returned) handled works (by decide) (fun _ => ⟨rfl, rfl⟩) fun x occ cwp => ⟨?_, ?_⟩
  · show x.occ - 1 = 1
    omega
  · show (x.cwp + 6) % 7 = _
    rw [cwp]

end

/-! ### The obligation -/

section
variable (t : Nat) {tile : Fin 160} {p : Program} {s : State} (program : s.prog = some p)
  (runs : tileRuns s tile.val = true)
include program runs

/-- A fault of the instruction at PC traps in the microprogram that the instruction entered. -/
theorem faultTake_faults {i c a : Nat} (fetched : fetchInstr s p tile.val = some i)
    (faults : faultOf s p tile.val i = some (c, a)) :
    ∃ u, exec (.faultTake t tile) s = .next u ∧ Counted 0x5820 5 1 s u ∧ (∃ frame, frame.length = 256 ∧
      tileAt u tile.val = ((tileAt s tile.val).dispatched i).trapped frame c (0x800 + 4 * iOp i)) ∧
      (∀ m, m ≠ tile.val → tileAt u m = tileAt s m) ∧
      u = { s with now := max s.now t, tiles := u.tiles, kiosk := { s.kiosk with counters := u.kiosk.counters } } := by
  have here := tileAt_dispatchedState t tile.val i s
  have outside : (tileAt (dispatchedState t tile.val i s) tile.val).inTrap = false := by
    rw [here]; exact inTrap_of_tileRuns runs
  obtain ⟨counted, traps, others, frame⟩ := takeFault_oneTile c a (dispatchedState_oneTile t tile.val i s) outside
  rw [here] at traps
  exact ⟨_, exec_faultTake_faults t program runs fetched faults, counted, traps, others, frame⟩

/-- An instruction that cannot be fetched traps before it is entered. -/
theorem faultTake_outside (unfetched : fetchInstr s p tile.val = none) :
    ∃ u, exec (.faultTake t tile) s = .next u ∧ Counted 0x5820 5 1 s u ∧ (∃ frame, frame.length = 256 ∧
      tileAt u tile.val = (tileAt s tile.val).trapped frame 0x5012 (tileAt s tile.val).upc) ∧
      (∀ m, m ≠ tile.val → tileAt u m = tileAt s m) ∧
      u = { s with now := max s.now t, tiles := u.tiles, kiosk := { s.kiosk with counters := u.kiosk.counters } } :=
  have only : OneTile tile.val t s (clockTo t s) := ⟨rfl, fun _ _ => rfl⟩
  ⟨_, exec_faultTake_outside t program runs unfetched, takeFault_oneTile 0x5012 _ only (inTrap_of_tileRuns (s := s) runs)⟩

end

/-- The one pending interrupt source of a tile is taken with a trap, and counted. -/
theorem interruptTake_traps (t raised : Nat) {tile : Fin 160} {p : Program} {s : State} {k : Nat}
    (program : s.prog = some p) (active : (tileAt s tile.val).state = .active) (works : (tileAt s tile.val).works = true)
    (goes : (tileAt s tile.val).stopped = false) (outside : (tileAt s tile.val).inTrap = false)
    (runs : packageRuns s = true) (still : dropping s = false)
    (one : (tileAt s tile.val).irqs ||| (raised &&& 0x1A) = 2 ^ k) (low : 1 ≤ k) (high : k ≤ 4) :
    ∃ u, exec (.interruptTake t tile raised) s = .next u ∧ Counted 0x5820 4 1 s u ∧ (∃ frame, tileAt u tile.val =
      (((tileAt s tile.val).pending (raised &&& 0x1A)).taken k).trapped frame 0
        (if p.trapMode then (tileAt s tile.val).upc else 8)) ∧
      u = { s with now := max s.now t, tiles := u.tiles, kiosk := { s.kiosk with counters := u.kiosk.counters } } := by
  obtain ⟨frame, takes⟩ := exec_interruptTake t raised program active works goes outside runs still one low high
  have only : OneTile tile.val t s (clockTo t s) := ⟨rfl, fun _ _ => rfl⟩
  obtain ⟨counted, here, -, rest⟩ := (((only.modTile (Tile.pending (raised &&& 0x1A))).modTile (Tile.taken k)).modTile
    (Tile.trapped frame 0 (if p.trapMode then (tileAt s tile.val).upc else 8))).counts 0x5820 4 1
  refine ⟨_, takes, counted, ⟨frame, here.trans ?_⟩, rest⟩
  simp only [tileAt_modTile_same]
  rfl

/-- Settles O36: a window trap by the microword executed again, a fault and an interrupt by the trap they enter, the
station's orders and RTT by what they leave. -/
theorem trapsAndWindows : Obligations.TrapsAndWindows := by
  refine ⟨fun t before tile p s s1 program runs reached => ?windows, fun t i tile p s program => ?traps⟩
  case windows =>
    intro x w window low
    refine ⟨fun overflow room => ?_, fun underflow held => ?_⟩
    · obtain ⟨u, goes, ⟨counted, spill, occ, outside, cwp, prog, others⟩, upc⟩ :=
        windowOverflow_moves t before program runs reached window low overflow room
      exact ⟨u, goes, counted, spill, occ, outside, cwp, upc, prog, others⟩
    · obtain ⟨u, goes, counted, spill, occ, outside, cwp, prog, others⟩ :=
        windowUnderflow_moves t before program runs reached window low underflow
      exact ⟨u, goes, counted, spill, occ, outside, cwp, prog, others⟩
  case traps =>
    intro x
    refine ⟨fun c a runs fetched faults => ?fault, fun runs unfetched => ?outside,
      fun raised k active works goes outside runs still one low high => ?interrupt,
      fun inTrap framed idle => ⟨stationResume_marks t inTrap framed idle, stationAbandon_aborts t inTrap framed idle⟩,
      fun inTrap resume runs still => ?rtt⟩
    case fault =>
      obtain ⟨u, goes, counted, ⟨frame, length, here⟩, others, rest⟩ := faultTake_faults t program runs fetched faults
      have scratch (b : Nat) (hb : b < 0x1FF000 ∨ 0x1FF100 ≤ b) :
          memGet (tileAt u tile.val).scratch b = memGet x.scratch b := by
        rw [here]
        exact memGet_write_outside _ _ _ frame (by rw [length]; exact hb)
      have back : (tileAt u tile.val).wreg 7 15 = BitVec.ofNat 64 (0x800 + 4 * iOp i) := by
        rw [here]
        exact Tile.wreg_trapped frame c _ _
      refine ⟨u, goes, counted, ?_, ?_, ?_, ?_, back, ?_, ?_, ?_, scratch, others, rest⟩ <;> rw [here] <;> rfl
    case outside =>
      obtain ⟨u, goes, counted, ⟨frame, length, here⟩, others, rest⟩ := faultTake_outside t program runs unfetched
      refine ⟨u, goes, counted, ?_, ?_, ?_, ?_, ?_, ?_, others, rest⟩ <;> rw [here] <;> rfl
    case interrupt =>
      obtain ⟨u, goes, counted, ⟨frame, here⟩, rest⟩ :=
        interruptTake_traps t raised program active works goes outside runs still one low high
      have back : (tileAt u tile.val).wreg 7 15 = BitVec.ofNat 64 (if p.trapMode then x.upc else 8) := by
        rw [here]
        exact Tile.wreg_trapped frame 0 _ _
      have irqs : (tileAt u tile.val).irqs = 0 := by
        rw [here]
        exact (congrArg (· - 2 ^ k) one).trans (Nat.sub_self _)
      refine ⟨u, goes, counted, ?_, ?_, ?_, irqs, ?_, ?_, back, ?_, ?_, rest⟩ <;> rw [here] <;> rfl
    case rtt =>
      obtain ⟨u, goes, only, here⟩ := rtt_returns t inTrap resume runs still
      refine ⟨u, goes, only, ?_⟩
      rw [here]
      cases framed : x.framed with
      | false =>
        rw [returnFromTrap_unframed framed]
        exact ⟨rfl, rfl, rfl, rfl, rfl, rfl, fun h => Bool.noConfusion h, fun _ => rfl⟩
      | true =>
        obtain ⟨wregs, gregs, lc, returns⟩ := returnFromTrap_framed framed
        rw [returns]
        exact ⟨rfl, rfl, rfl, rfl, rfl, rfl, fun _ => rfl, fun h => Bool.noConfusion h⟩

end Sys2Proof.Machine

namespace Sys2Proof.Machine

/-! ## Descriptors of the JUNCTION queues start and end (R376 to R381, R385 to R387, R722)

### Admission -/

/-- A JUNCTION descriptor without flags is admitted as it stands. -/
theorem admitOp_plain {q op : Nat} {d : Desc} {s : State} (runs : packageRuns s = true) (still : dropping s = false)
    (cls : (queueAt s q).cls = 2) (next : (queueAt s q).next = some d) (plain : field d.data 1 1 = 0)
    (opcode : field d.data 0 1 = op) : admitOp q 2 op s = (some d, s) := by
  have unfenced : fenceMet (queueAt s q) d (fenceSet d) = true := by simp [fenceMet, fenceSet, plain, bit]
  have admits : admitNext q fenceSet s = (some d, s) := by simp [admitNext, next, unfenced, plain, bit]
  simp [admitOp, runs, still, cls, next, opcode, admits]

/-! ### What a descriptor's end leaves of the Junction -/

/-- What the end of a descriptor stands apart from: the Junction, the collectives, the links and the count of plane loads. -/
def State.unended (s : State) : Junction × Coll × Links × Nat := (s.junc, s.coll, s.links, counterAt s 0x6820 7)

@[simp] theorem modQueue_unended (q : Nat) (f : Queue → Queue) (s : State) : (modQueue q f s).unended = s.unended := rfl

@[simp] theorem clearPackageCmp_unended (i : Nat) (s : State) : (clearPackageCmp i s).unended = s.unended := rfl

@[simp] theorem raiseVector_unended (v : Nat) (s : State) : (raiseVector v s).unended = s.unended := by
  simp [State.unended, counterAt]

/-- The queues' own counters lie in object 0xA020. -/
@[simp] theorem count_unended (b : Nat) (s : State) : (count 0xA020 b 1 s).unended = s.unended := by
  have other : objKey 0x6820 7 ≠ objKey 0xA020 b := by simp only [objKey]; omega
  simp [State.unended, counterAt_count_other s other]

@[simp] theorem endDesc_unended (q index status cause result : Nat) (s : State) :
    (endDesc q index status cause result s).unended = s.unended := by
  simp only [endDesc, modQueue_unended]
  (repeat' split) <;> simp

@[simp] theorem signalRecord_unended (q : Nat) (d : Desc) (s : State) : (signalRecord q d s).unended = s.unended := by
  simp only [signalRecord]; (repeat' split) <;> simp

@[simp] theorem countCompleted_unended (q : Nat) (s : State) : (countCompleted q s).unended = s.unended := by
  simp only [countCompleted]; split <;> rfl

@[simp] theorem recordPlaced_unended (q : Nat) (rest : List Nat) (i : Nat) (d : Desc) (s : State) :
    (recordPlaced q rest i d s).unended = s.unended := by
  simp only [recordPlaced, modQueue_unended, writeRing]; split <;> rfl

theorem writeRecord_unended (q : Nat) (s : State) : (writeRecord q s).unended = s.unended := by
  rcases writeRecord_cases q s with same | ⟨rest, forgets⟩ | ⟨i, rest, discards⟩ | ⟨i, rest, d, places⟩
  · rw [same]
  · rw [forgets, modQueue_unended]
  · rw [discards, count_unended, modQueue_unended]
  · rw [places, signalRecord_unended]; split <;> simp

@[simp] theorem finish_unended (q index status cause result : Nat) (s : State) :
    (finish q index status cause result s).unended = s.unended := by
  have writes (n : Nat) (u : State) : (writeRecords q n u).unended = u.unended := by
    induction n generalizing u with
    | zero => rfl
    | succ n ih => exact (ih _).trans (writeRecord_unended q u)
  rw [finish, flushRecords, writes, endDesc_unended]

/-- The end of a descriptor leaves the Junction and every unit that a descriptor can have work of. -/
theorem finish_leaves (q index status cause result : Nat) (s : State) :
    let u := finish q index status cause result s
    u.junc = s.junc ∧ u.coll = s.coll ∧ u.links = s.links ∧ counterAt u 0x6820 7 = counterAt s 0x6820 7 ∧
      u.prog = s.prog ∧ u.tiles = s.tiles ∧ u.life = s.life ∧ u.fab = s.fab ∧ u.cellar = s.cellar := by
  have apart := finish_unended q index status cause result s
  have quiet := finish_quiet q index status cause result s
  simp only [State.unended, Prod.mk.injEq] at apart
  obtain ⟨junc, coll, links, loads⟩ := apart
  exact ⟨junc, coll, links, loads, (congrArg State.prog quiet :), (congrArg State.tiles quiet :),
    (congrArg State.life quiet :), (congrArg State.fab quiet :), (congrArg State.cellar quiet :)⟩

/-! ### The record of a queue's only descriptor, which ends as it starts -/

/-- The end of a descriptor that was not gated, with success. -/
theorem endDesc_fetched {q : Nat} {d : Desc} {s : State} (alone : (queueAt s q).flight = [d]) (fetched : d.state = .fetched) :
    endDesc q d.index 0 0 0 s = modQueue q (fun x => x.ends d.index 0 0 0 s.rb.pkgCycle s.rb.pkgPhase) s := by
  have found : (queueAt s q).desc d.index = some d := by simp [Queue.desc, alone]
  cases gate : d.gate <;> simp [endDesc, found, gate, fetched, Queue.ends]

/-- A queue of any class whose only descriptor has been fetched, and whose HBM ring has room for its record. -/
structure RecordFits (q : Nat) (d : Desc) (s : State) : Prop where
  ungrouped : (queueAt s q).group = 0
  alone : (queueAt s q).flight = [d]
  fetched : d.state = .fetched
  unheld : (queueAt s q).held = []
  room : 0 < (queueAt s q).cplFree
  whole : (queueAt s q).cplBroken = false
  kept : d.stray = none
  hbmRing : Queue.space (queueAt s q).cplBase = 1
  data : d.data.length = 64
  still : dropping s = false

section
variable {q : Nat} {d : Desc} {s : State} (fits : RecordFits q d s)
include fits

/-- The descriptor's end, its record in the ring, and the record's signal. -/
theorem RecordFits.finish_places : ∃ v, queueAt v q = (queueAt s q).holding d.index (d.doneAt s) ∧ v.hbm = s.hbm ∧
    v.hostMem = s.hostMem ∧
    finish q d.index 0 0 0 s = signalRecord q (d.doneAt s) (recordPlaced q [] d.index (d.doneAt s) v) := by
  let v := modQueue q (fun x => x.ends d.index 0 0 0 s.rb.pkgCycle s.rb.pkgPhase) s
  have queue : queueAt v q = (queueAt s q).holding d.index (d.doneAt s) := by
    rw [queueAt_modQueue_stateless q s fun _ => rfl]
    simp [Queue.ends, fits.alone, fits.unheld, Queue.holding, Desc.doneAt]
  have found : (queueAt v q).desc d.index = some (d.doneAt s) := by simp [queue, Queue.desc, Queue.holding, Desc.doneAt]
  have stands : recordLost v (queueAt v q) (d.doneAt s) = false := by
    simp [recordLost, queue, Queue.holding, Desc.doneAt, fits.hbmRing, fits.whole, fits.kept]
  have room : (queueAt v q).cplFree ≠ 0 := by rw [queue]; exact Nat.ne_of_gt fits.room
  have one : (queueAt v q).held.length = 1 := by rw [queue]; rfl
  have ungrouped : (queueAt (recordPlaced q [] d.index (d.doneAt s) v) q).group = 0 := by
    rw [recordPlaced, queueAt_modQueue_stateless q _ fun _ => rfl, queueAt_writeRing, queue]
    exact fits.ungrouped
  have places := writeRecord_places (by rw [queue]; rfl) found fits.still stands room
  rw [countCompleted_ungrouped ungrouped, ite_self] at places
  refine ⟨v, queue, rfl, rfl, ?_⟩
  rw [finish, endDesc_fetched fits.alone fits.fetched, flushRecords, one]
  exact places

/-- The record is the only write of the descriptor's end. -/
theorem RecordFits.finish_hbm : (finish q d.index 0 0 0 s).hbm =
      memWrite s.hbm (queueAt s q).place (completionBytes q (queueAt s q) (d.doneAt s)) ∧
    (finish q d.index 0 0 0 s).hostMem = s.hostMem := by
  obtain ⟨v, queue, hbm, hostMem, places⟩ := fits.finish_places
  have ring : Queue.space (queueAt v q).cplBase = 1 := by rw [queue]; exact fits.hbmRing
  obtain ⟨wrote, unwritten, -⟩ := recordPlaced_hbm [] d.index (d.doneAt s) ring
  obtain ⟨-, -, hbm', -, hostMem'⟩ := signalRecord_kept q (d.doneAt s) (recordPlaced q [] d.index (d.doneAt s) v)
  rw [places, hbm', hostMem', wrote, unwritten, queue, hbm, hostMem]
  exact ⟨rfl, rfl⟩

end

end Sys2Proof.Machine

namespace Sys2Proof.Machine

/-! ## The state of one array (R681, R712 to R714) -/

theorem arrAt_modArr_same (n : Nat) (f : Arr → Arr) (s : State) : arrAt (modArr n f s) n = f (arrAt s n) :=
  tabGet_put_same _ _ _ _

theorem arrAt_modArr_other {n m : Nat} (f : Arr → Arr) (s : State) (h : m ≠ n) : arrAt (modArr n f s) m = arrAt s m :=
  tabGet_put_other _ _ _ _ _ _ h

/-- Nothing has changed but one array, local time, and what counting and recording may touch. -/
def OneArray (n t : Nat) (s u : State) : Prop :=
  u = { s with
    now := max s.now t, junc := { s.junc with arrays := u.junc.arrays }, kiosk := u.kiosk, contain := u.contain
    host := u.host, outbox := u.outbox } ∧ ∀ m, m ≠ n → arrAt u m = arrAt s m

theorem oneArray_clockTo (n t : Nat) (s : State) : OneArray n t s (clockTo t s) := ⟨rfl, fun _ _ => rfl⟩

section
variable {n t : Nat} {s v : State} (only : OneArray n t s v)
include only

theorem OneArray.modArr (f : Arr → Arr) : OneArray n t s (modArr n f v) := by
  obtain ⟨frame, others⟩ := only
  refine ⟨?_, fun m hm => (arrAt_modArr_other f v hm).trans (others m hm)⟩
  rw [frame]; rfl

theorem OneArray.count (i a k : Nat) : OneArray n t s (count i a k v) := by
  obtain ⟨frame, others⟩ := only
  refine ⟨?_, others⟩
  rw [frame]; rfl

theorem OneArray.record (r : LogRecord) : OneArray n t s (record r v) := by
  obtain ⟨frame, others⟩ := only
  have recorded := record_frame r v
  refine ⟨?_, fun m hm => ?_⟩
  · rw [recorded, frame]
  · rw [recorded]; exact others m hm

theorem OneArray.modContain (f : Contain → Contain) : OneArray n t s (v.modContain f) := by
  obtain ⟨frame, others⟩ := only
  refine ⟨?_, others⟩
  rw [frame]; rfl

end

/-! ### Records fence no array -/

@[simp] theorem placeRecord_arrayFences (r : LogRecord) (s : State) :
    (placeRecord r s).contain.arrayFences = s.contain.arrayFences := by
  simp only [placeRecord]; (repeat' split) <;> simp

@[simp] theorem endWindow_arrayFences (w : RepeatWindow) (s : State) :
    (endWindow w s).contain.arrayFences = s.contain.arrayFences := by
  simp only [endWindow]; split <;> simp

@[simp] theorem record_arrayFences (r : LogRecord) (s : State) :
    (record r s).contain.arrayFences = s.contain.arrayFences := by
  simp only [record]; (repeat' split) <;> simp

/-! ### How a calibration ends (R713, R715) -/

/-- Array `n` is ready with the trims of its calibration. -/
def calibrationPasses (n : Nat) (s : State) : State :=
  modArr n (fun x => { x with state := .ready, calTemp := x.temp, trims := calibrated s n, aborts := 0 }) s

/-- The failure of a calibration. -/
def calibrationRecord (n : Nat) : LogRecord := { cause := 0x6011, cls := 2, unitType := utArray, unit := n }

/-- The failure is recorded and array `n` fenced. -/
def calibrationFails (n : Nat) (s : State) : State :=
  modArr n (fun x => { x with state := .failedRecal })
    ((record (calibrationRecord n) s).modContain fun c => { c with arrayFences := c.arrayFences ||| 2 ^ n })

theorem arrAt_calibrationPasses (n : Nat) (s : State) : arrAt (calibrationPasses n s) n =
    { arrAt s n with state := .ready, calTemp := (arrAt s n).temp, trims := calibrated s n, aborts := 0 } :=
  arrAt_modArr_same n _ s

theorem length_calibrated (s : State) (n : Nat) : (calibrated s n).length = 258 := by
  simp only [calibrated, padTo, List.length_take, List.length_append, List.length_replicate]
  omega

theorem arrAt_calibrationFails (n : Nat) (s : State) :
    arrAt (calibrationFails n s) n = { arrAt s n with state := .failedRecal } := by
  have arrays : arrAt (record (calibrationRecord n) s) n = arrAt s n := by rw [record_frame]; rfl
  exact (arrAt_modArr_same n _ _).trans (congrArg (fun y : Arr => { y with state := .failedRecal }) arrays)

theorem bit_calibrationFails (n m : Nat) (s : State) : bit (calibrationFails n s).contain.arrayFences m =
    (bit s.contain.arrayFences m || decide (n = m)) := by
  have fences := record_arrayFences (calibrationRecord n) s
  exact (bit_or_two_pow _ n m).trans (by rw [fences])

/-! ### ARRAY_TEMP_DRIFT and RECALIBRATION_START (R712, R713) -/

section
variable (t : Nat) {array : Fin 32} {s : State} (runs : packageRuns s = true)
include runs

theorem exec_arrayTempDrift (temp : Int) : exec (.arrayTempDrift t array temp) s =
    .next (modArr array.val (fun x => { x with
      temp := temp
      state := if x.state = .ready ∧ 10 * objAt s 0x6811 0 < (temp - x.calTemp).natAbs then .calDue else x.state })
      (clockTo t s)) :=
  if_neg (ne_false_of_eq_true runs)

theorem exec_recalibrationStart (still : dropping s = false) (idle : scoreRuns s = false)
    (free : ∀ m, m < 32 → (arrAt s m).state ≠ .calibrating) (due : (arrAt s array.val).state = .calDue) :
    exec (.recalibrationStart t array) s =
      .next (modArr array.val (fun x => { x with state := .calibrating, since := max s.now t }) (clockTo t s)) := by
  have quiet : ((List.range 32).any fun n => decide ((arrAt s n).state = .calibrating)) = false := by
    simpa using free
  refine if_neg ?_
  rintro (h | h | h | h | h)
  · exact ne_false_of_eq_true runs h
  · exact ne_true_of_eq_false still h
  · exact ne_true_of_eq_false idle h
  · exact ne_true_of_eq_false quiet h
  · exact h due

/-! ### RECALIBRATION_COMPLETE (R713, R715) -/

variable (calibrates : (arrAt s array.val).state = .calibrating) (ended : (arrAt s array.val).since + 120000 ≤ max s.now t)
include calibrates ended

/-- A calibration that its 120 us are over for ends, either way, and is counted. -/
theorem exec_recalibrationComplete (passed : Bool) : exec (.recalibrationComplete t array passed) s =
    .next (if passed then calibrationPasses array.val (count 0x6820 4 1 (clockTo t s))
      else calibrationFails array.val (count 0x6820 4 1 (clockTo t s))) := by
  have ends : ¬ (packageRuns (clockTo t s) = false ∨ (arrAt (clockTo t s) array.val).state ≠ .calibrating ∨
      (clockTo t s).now < (arrAt (clockTo t s) array.val).since + 120000) := by
    rintro (h | h | h)
    · exact ne_false_of_eq_true runs h
    · exact h calibrates
    · exact Nat.not_lt.mpr ended h
  refine (if_neg ends).trans ?_
  cases passed <;> rfl

theorem recalibrationComplete_passes : ∃ u, exec (.recalibrationComplete t array true) s = .next u ∧
    OneArray array.val t s u ∧ Counted 0x6820 4 1 s u ∧
    arrAt u array.val = { arrAt s array.val with
      state := .ready, calTemp := (arrAt s array.val).temp, aborts := 0, trims := (arrAt u array.val).trims } ∧
    (arrAt u array.val).trims.length = 258 ∧ u.contain = s.contain := by
  let v := count 0x6820 4 1 (clockTo t s)
  have here := arrAt_calibrationPasses array.val v
  refine ⟨calibrationPasses array.val v, exec_recalibrationComplete t runs calibrates ended true,
    ((oneArray_clockTo array.val t s).count 0x6820 4 1).modArr _, counted_count (clockTo t s), ?_, ?_, rfl⟩
  · rw [here]; rfl
  · rw [here]; exact length_calibrated v array.val

theorem recalibrationComplete_fails : ∃ u, exec (.recalibrationComplete t array false) s = .next u ∧
    OneArray array.val t s u ∧ Counted 0x6820 4 1 s u ∧
    arrAt u array.val = { arrAt s array.val with state := .failedRecal } ∧
    bit u.contain.arrayFences array.val = true ∧
    ∀ m, m ≠ array.val → bit u.contain.arrayFences m = bit s.contain.arrayFences m := by
  let v := count 0x6820 4 1 (clockTo t s)
  have fences (m : Nat) := bit_calibrationFails array.val m v
  refine ⟨calibrationFails array.val v, exec_recalibrationComplete t runs calibrates ended false,
    ((((oneArray_clockTo array.val t s).count 0x6820 4 1).record _).modContain _).modArr _,
    (counted_count (clockTo t s)).of_counterAt rfl (counterAt_record_other (by decide) (by decide) _ v),
    arrAt_calibrationFails array.val v, ?_, fun m hm => ?_⟩
  · rw [fences, decide_eq_true rfl, Bool.or_true]
  · rw [fences, decide_eq_false hm.symm, Bool.or_false]; rfl

end

/-- A completion that is not awaited, or comes too early, only passes the time. -/
theorem recalibrationComplete_early (t : Nat) {array : Fin 32} {s : State}
    (early : (arrAt s array.val).state ≠ .calibrating ∨ max s.now t < (arrAt s array.val).since + 120000) (passed : Bool) :
    exec (.recalibrationComplete t array passed) s = .next { s with now := max s.now t } :=
  if_pos (.inr early)

end Sys2Proof.Machine

namespace Sys2Proof.Machine

/-! ## The weights that a plane takes from its image (R679 to R683)

### Writes that agree -/

/-- The byte at an index of what is read. -/
theorem getElem_memRead (m : Memory) (a : Nat) {n i : Nat} (h : i < (memRead m a n).length) :
    (memRead m a n)[i] = memGet m (a + i) := by
  induction n generalizing a i with
  | zero => simp [memRead] at h
  | succ n ih =>
    cases i with
    | zero => rfl
    | succ i =>
      have later := ih (a + 1) (i := i) (by simpa [memRead] using h)
      rw [show a + (i + 1) = a + 1 + i by omega, ← later]; rfl

/-- A read apart from a write finds what stood there. -/
theorem memRead_write_outside (m : Memory) (bs : List Byte) {a r n : Nat} (apart : r + bs.length ≤ a ∨ a + n ≤ r) :
    memRead (memWrite m r bs) a n = memRead m a n := by
  refine List.ext_getElem (by simp only [length_memRead]) fun i h _ => ?_
  rw [length_memRead] at h
  rw [getElem_memRead, getElem_memRead, memGet_write_outside m r (a + i) bs (by omega)]

theorem length_numbered {α : Type} (n : Nat) (l : List α) : (numbered n l).length = l.length := by
  induction l generalizing n with
  | nil => rfl
  | cons a l ih => exact congrArg (· + 1) (ih (n + 1))

theorem getElem_numbered {α : Type} (n : Nat) (l : List α) {i : Nat} (h : i < (numbered n l).length) :
    (numbered n l)[i] = (n + i, l[i]'(length_numbered n l ▸ h)) := by
  induction l generalizing n i with
  | nil => simp [numbered] at h
  | cons a l ih =>
    cases i with
    | zero => rfl
    | succ i =>
      have later := ih (n + 1) (i := i) (by simpa [numbered] using h)
      rw [show n + (i + 1) = n + 1 + i by omega]
      exact later

/-- Bytes written one block after another. -/
def writeBlocks {ι : Type} (place : ι → Nat) (bytes : ι → List Byte) (xs : List ι) (m : Memory) : Memory :=
  xs.foldl (fun m x => memWrite m (place x) (bytes x)) m

section
variable {ι : Type} (place : ι → Nat) (bytes : ι → List Byte)

/-- A block covers an address. -/
def Covers (b : Nat) (x : ι) : Prop := place x ≤ b ∧ b < place x + (bytes x).length

theorem memGet_writeBlocks_outside {xs : List ι} {b : Nat} (out : ∀ x ∈ xs, ¬ Covers place bytes b x) (m : Memory) :
    memGet (writeBlocks place bytes xs m) b = memGet m b := by
  induction xs generalizing m with
  | nil => rfl
  | cons x xs ih =>
    obtain ⟨here, later⟩ := List.forall_mem_cons.mp out
    refine (ih later _).trans (memGet_write_outside m (place x) b (bytes x) ?_)
    unfold Covers at here; omega

/-- Where every block holds the byte that `val` gives its address, an address that a block covers reads so. -/
theorem memGet_writeBlocks_covered {val : Nat → Byte} {xs : List ι}
    (agree : ∀ x ∈ xs, ∀ k (h : k < (bytes x).length), (bytes x)[k] = val (place x + k)) {b : Nat}
    (covered : ∃ x ∈ xs, Covers place bytes b x) (m : Memory) : memGet (writeBlocks place bytes xs m) b = val b := by
  induction xs generalizing m with
  | nil => obtain ⟨x, none, -⟩ := covered; exact absurd none List.not_mem_nil
  | cons x xs ih =>
    obtain ⟨first, agrees⟩ := List.forall_mem_cons.mp agree
    by_cases later : ∃ y ∈ xs, Covers place bytes b y
    · exact ih agrees later _
    · have here : Covers place bytes b x := by
        obtain ⟨y, listed, covers⟩ := covered
        rcases List.mem_cons.mp listed with rfl | rest
        · exact covers
        · exact absurd ⟨y, rest, covers⟩ later
      obtain ⟨low, high⟩ := here
      obtain ⟨k, rfl⟩ := Nat.exists_eq_add_of_le low
      have inside : k < (bytes x).length := by omega
      refine (memGet_writeBlocks_outside place bytes (fun y hy covers => later ⟨y, hy, covers⟩) _).trans ?_
      exact (memGet_write_inside m (place x) k (bytes x) inside).trans (first k inside)

end

/-! ### Rows of weights -/

/-- The nibble of a byte that a column of a slot holds. -/
def nibble (j : Nat) (b : Byte) : Nat := if j % 2 = 0 then b.toNat % 16 else b.toNat / 16

/-- Byte `k` of a row of column group `c` as loaded, columns beyond E zero (R681). -/
def loadedByte (c e k : Nat) (b : Byte) : Byte :=
  BitVec.ofNat 8 ((if 128 * c + 2 * k < e then b.toNat % 16 else 0) + 16 * (if 128 * c + 2 * k + 1 < e then b.toNat / 16 else 0))

theorem nibble_loadedByte (c e j : Nat) (b : Byte) :
    nibble j (loadedByte c e (j / 2) b) = if 128 * c + j < e then nibble j b else 0 := by
  have byte := b.isLt
  simp only [nibble, loadedByte, BitVec.toNat_ofNat]
  rcases Nat.mod_two_eq_zero_or_one j with even | odd
  · have column : 2 * (j / 2) = j := by omega
    simp only [even, if_true, column]
    split <;> split <;> omega
  · have column : 128 * c + 2 * (j / 2) + 1 = 128 * c + j := by omega
    simp only [odd, one_ne_zero, if_false, column]
    split <;> split <;> omega

theorem length_loadedRow (bs : List Byte) (c e : Nat) : (loadedRow bs c e).length = bs.length := by
  rw [loadedRow, List.length_map, length_numbered]

theorem getElem_loadedRow (bs : List Byte) (c e : Nat) {k : Nat} (h : k < (loadedRow bs c e).length) :
    (loadedRow bs c e)[k] = loadedByte c e k (bs[k]'(length_loadedRow bs c e ▸ h)) := by
  simp only [loadedRow, List.getElem_map, getElem_numbered, Nat.zero_add]
  rfl

/-! ### The grid of slots -/

/-- Where row `i` of column group `c` stands in an image of H rows, and in the plane. -/
def rowPlace (h : Nat) (x : Nat × Nat) : Nat := 65536 * (x.1 * rowChunks h + x.2 / 1024) + 64 * (x.2 % 1024)

/-- The bytes that a load puts there. -/
def rowBytesOf (s : State) (image h e : Nat) (x : Nat × Nat) : List Byte :=
  loadedRow (hbmRead s (image + rowPlace h x) 64) x.1 e

/-- The byte of a loaded plane at an address that a row below H covers. -/
def planeByte (s : State) (image h e a : Nat) : Byte :=
  loadedByte (a / 65536 / rowChunks h) e (a % 64) (memGet s.hbm (image + a))

theorem loadedWeights_eq (s : State) (image h e : Nat) : loadedWeights s image h e =
    writeBlocks (rowPlace h) (rowBytesOf s image h e) (List.range (columnGroups e) ×ˢ List.range h) [] := by
  simp only [SProd.sprod, List.product, writeBlocks, List.foldl_flatMap, List.foldl_map]
  rfl

theorem length_rowBytesOf (s : State) (image h e : Nat) (x : Nat × Nat) : (rowBytesOf s image h e x).length = 64 := by
  rw [rowBytesOf, length_loadedRow, hbmRead, length_memRead]

theorem chunk_lt {i h : Nat} (hi : i < h) : i / 1024 < rowChunks h := by unfold rowChunks; omega

/-- The slot of an address in a slot's rows. -/
theorem slot_of_place {slot i k : Nat} (hi : i < 1024) (hk : k < 64) : (65536 * slot + 64 * i + k) / 65536 = slot := by omega

theorem getElem_rowBytesOf (s : State) (image : Nat) {h e : Nat} {x : Nat × Nat} (row : x.2 < h) {k : Nat}
    (hk : k < (rowBytesOf s image h e x).length) :
    (rowBytesOf s image h e x)[k] = planeByte s image h e (rowPlace h x + k) := by
  have low : k < 64 := by rwa [length_rowBytesOf] at hk
  have slot : (rowPlace h x + k) / 65536 = x.1 * rowChunks h + x.2 / 1024 :=
    slot_of_place (Nat.mod_lt _ (by decide)) low
  have group : (rowPlace h x + k) / 65536 / rowChunks h = x.1 := by
    rw [slot, Nat.add_comm, Nat.mul_comm, digit_div (chunk_lt row)]
  have byte : (rowPlace h x + k) % 64 = k := by unfold rowPlace; omega
  simp only [rowBytesOf, getElem_loadedRow, hbmRead, getElem_memRead, planeByte, group, byte, Nat.add_assoc]

section
variable (s : State) (image : Nat) {h e r c i : Nat} (hr : r < rowChunks h) (hi : i < 1024) {k : Nat}
  (hk : k < 64)
include hr hi hk

theorem memGet_loadedWeights_row (hc : c < columnGroups e) (row : 1024 * r + i < h) :
    memGet (loadedWeights s image h e) (65536 * (c * rowChunks h + r) + 64 * i + k) =
      loadedByte c e k (memGet s.hbm (image + 65536 * (c * rowChunks h + r) + 64 * i + k)) := by
  have listed : (c, 1024 * r + i) ∈ List.range (columnGroups e) ×ˢ List.range h :=
    List.mem_product.mpr ⟨List.mem_range.mpr hc, List.mem_range.mpr row⟩
  have place : rowPlace h (c, 1024 * r + i) = 65536 * (c * rowChunks h + r) + 64 * i := by
    have chunk : (1024 * r + i) / 1024 = r := by omega
    have rest : (1024 * r + i) % 1024 = i := by omega
    simp only [rowPlace, chunk, rest]
  have covers : Covers (rowPlace h) (rowBytesOf s image h e) (65536 * (c * rowChunks h + r) + 64 * i + k) (c, 1024 * r + i) := by
    simp only [Covers, place, length_rowBytesOf]; omega
  have slot : (65536 * (c * rowChunks h + r) + 64 * i + k) / 65536 = c * rowChunks h + r := slot_of_place hi hk
  have group : (c * rowChunks h + r) / rowChunks h = c := by rw [Nat.add_comm, Nat.mul_comm, digit_div hr]
  have byte : (65536 * (c * rowChunks h + r) + 64 * i + k) % 64 = k := by omega
  rw [loadedWeights_eq, memGet_writeBlocks_covered _ _
    (fun x hx k hk => getElem_rowBytesOf s image (List.mem_range.mp (List.mem_product.mp hx).2) hk) ⟨_, listed, covers⟩]
  rw [planeByte, slot, group, byte, ← Nat.add_assoc, ← Nat.add_assoc]

theorem memGet_loadedWeights_beyond (beyond : h ≤ 1024 * r + i) :
    memGet (loadedWeights s image h e) (65536 * (c * rowChunks h + r) + 64 * i + k) = 0 := by
  rw [loadedWeights_eq]
  refine memGet_writeBlocks_outside _ _ (fun x hx covers => ?_) []
  have row : x.2 < h := List.mem_range.mp (List.mem_product.mp hx).2
  simp only [Covers, rowPlace, length_rowBytesOf] at covers
  have slots : x.2 / 1024 + rowChunks h * x.1 = r + rowChunks h * c := by
    rw [Nat.mul_comm _ x.1, Nat.mul_comm _ c]; omega
  have chunks : x.2 / 1024 = r := by
    have digits := congrArg (· % rowChunks h) slots
    rwa [digit_mod (chunk_lt row), digit_mod hr] at digits
  have part := Nat.div_add_mod x.2 1024
  rw [chunks] at part
  omega

end

/-- Every weight of a loaded plane comes from its image, or is zero beyond H and E. -/
theorem weight_loadedWeights (s : State) (image h e : Nat) {x : Plane} (loaded : x.weights = loadedWeights s image h e)
    {r c i j : Nat} (hr : r < rowChunks h) (hc : c < columnGroups e) (hi : i < 1024) (hj : j < 128) :
    x.weight (c * rowChunks h + r) i j =
      if 1024 * r + i < h ∧ 128 * c + j < e then
        signed (nibble j (memGet s.hbm (image + 65536 * (c * rowChunks h + r) + 64 * i + j / 2))) 4
      else 0 := by
  have half : j / 2 < 64 := by omega
  have reads : x.weight (c * rowChunks h + r) i j =
      signed (nibble j (memGet (loadedWeights s image h e) (65536 * (c * rowChunks h + r) + 64 * i + j / 2))) 4 := by
    rw [← loaded]; rfl
  rw [reads]
  by_cases row : 1024 * r + i < h
  · rw [memGet_loadedWeights_row s image hr hi half hc row, nibble_loadedByte]
    by_cases column : 128 * c + j < e
    · rw [if_pos column, if_pos ⟨row, column⟩]
    · rw [if_neg column, if_neg fun both => column both.2]; rfl
  · rw [memGet_loadedWeights_beyond s image hr hi half (Nat.not_lt.mp row), if_neg fun both => row both.1]
    simp [nibble, signed]

end Sys2Proof.Machine

namespace Sys2Proof.Machine

/-! ## Planes are loaded and refreshed (R682, R683, R716, R718, R724) -/

theorem planeAt_setPlane_same (p : Nat) (x : Plane) (s : State) : planeAt (setPlane p x s) p = x := by
  by_cases first : p = 0 <;> simp [planeAt, setPlane, first]

theorem planeAt_setPlane_other {p : Nat} (hp : p < 2) (x : Plane) (s : State) :
    planeAt (setPlane p x s) (1 - p) = planeAt s (1 - p) := by
  by_cases first : p = 0
  · simp [planeAt, setPlane, first]
  · have second : 1 - p = 0 := by omega
    simp [planeAt, setPlane, first, second]

theorem setPlane_frame (p : Nat) (x : Plane) (s : State) : setPlane p x s = { s with
    junc := { s.junc with plane0 := (setPlane p x s).junc.plane0, plane1 := (setPlane p x s).junc.plane1 } } := by
  by_cases first : p = 0 <;> simp [setPlane, State.modJunc, first]

/-- The image of a plane can be read whole. -/
def ImageReads (s : State) (image h e : Nat) : Prop :=
  (hbmFetch s image (65536 * (rowChunks h * columnGroups e) + 8 * e)).2 = 0

/-- The scales of an image are normal and positive, and its biases finite (R683). -/
def ImageSane (s : State) (image h e : Nat) : Prop :=
  (hbmWords s (image + 65536 * (rowChunks h * columnGroups e)) e).all normalPositive = true ∧
  (hbmWords s (image + 65536 * (rowChunks h * columnGroups e) + 4 * e) e).any notFinite = false

/-- A plane as a load from an image leaves it. -/
def loadedPlane (s : State) (image h e : Nat) : Plane := {
  loaded := true, image := image, hidden := h, experts := e, weights := loadedWeights s image h e
  scales := hbmWords s (image + 65536 * (rowChunks h * columnGroups e)) e
  biases := hbmWords s (image + 65536 * (rowChunks h * columnGroups e) + 4 * e) e, written := s.now }

section
variable (p : Nat) {s : State} {image h e : Nat} (reads : ImageReads s image h e)
include reads

theorem loadPlane_sane (sane : ImageSane s image h e) :
    loadPlane p image h e s = (setPlane p (loadedPlane s image h e) s, 0) := by
  obtain ⟨scales, biases⟩ := sane
  refine (if_neg (not_not_intro reads)).trans (if_neg ?_)
  rintro (h | h)
  · exact ne_false_of_eq_true scales h
  · exact ne_true_of_eq_false biases h

theorem loadPlane_insane (insane : ¬ ImageSane s image h e) : loadPlane p image h e s = (s, 0x6010) := by
  refine (if_neg (not_not_intro reads)).trans (if_pos ?_)
  by_cases scales : (hbmWords s (image + 65536 * (rowChunks h * columnGroups e)) e).all normalPositive = true
  · exact .inr (Bool.eq_true_of_not_eq_false fun biases => insane ⟨scales, biases⟩)
  · exact .inl (Bool.eq_false_of_not_eq_true scales)

end

/-- A plane has been loaded from an image at a moment, and the load is counted. -/
def PlaneLoads (now : Nat) (s u : State) (p image h e : Nat) : Prop :=
  (planeAt u p).loaded = true ∧ (planeAt u p).image = image ∧ (planeAt u p).hidden = h ∧ (planeAt u p).experts = e ∧
  (planeAt u p).written = now ∧ Counted 0x6820 7 1 s u ∧
  (planeAt u p).scales = hbmWords s (image + 65536 * (rowChunks h * columnGroups e)) e ∧
  (planeAt u p).biases = hbmWords s (image + 65536 * (rowChunks h * columnGroups e) + 4 * e) e ∧
  ∀ r c i j, r < rowChunks h → c < columnGroups e → i < 1024 → j < 128 →
    (planeAt u p).weight (c * rowChunks h + r) i j =
      if 1024 * r + i < h ∧ 128 * c + j < e then
        signed (nibble j (memGet s.hbm (image + 65536 * (c * rowChunks h + r) + 64 * i + j / 2))) 4
      else 0

theorem planeLoads_of_planeAt {t : Nat} {s u : State} {p image h e : Nat}
    (plane : planeAt u p = loadedPlane (clockTo t s) image h e) (counted : Counted 0x6820 7 1 s u) :
    PlaneLoads (max s.now t) s u p image h e := by
  unfold PlaneLoads
  rw [plane]
  exact ⟨rfl, rfl, rfl, rfl, rfl, counted, rfl, rfl,
    fun r c i j hr hc hi hj => weight_loadedWeights (clockTo t s) image h e rfl hr hc hi hj⟩

/-! ### PLANE_REFRESH -/

theorem planeRefresh_loads (t : Nat) {plane : Fin 2} {s : State} {x : Plane} (here : planeAt s plane.val = x)
    (runs : packageRuns s = true) (still : dropping s = false) (loaded : x.loaded = true) (period : objAt s 0x6812 0 ≠ 0)
    (due : x.written + objAt s 0x6812 0 * 1000000 ≤ max s.now t) (free : planeBusy s plane.val = false)
    (reads : ImageReads s x.image x.hidden x.experts) (sane : ImageSane s x.image x.hidden x.experts) :
    ∃ u, exec (.planeRefresh t plane) s = .next u ∧ PlaneLoads (max s.now t) s u plane.val x.image x.hidden x.experts ∧
      planeAt u (1 - plane.val) = planeAt s (1 - plane.val) ∧
      u = { s with
        now := max s.now t, kiosk := { s.kiosk with counters := u.kiosk.counters }
        junc := { s.junc with plane0 := u.junc.plane0, plane1 := u.junc.plane1 } } := by
  let v := setPlane plane.val (loadedPlane (clockTo t s) x.image x.hidden x.experts) (clockTo t s)
  have loads := loadPlane_sane (s := clockTo t s) plane.val reads sane
  have starts : exec (.planeRefresh t plane) s = .next (count 0x6820 7 1 v) := by
    have here' : planeAt (clockTo t s) plane.val = x := here
    have goes : ¬ (packageRuns (clockTo t s) = false ∨ dropping (clockTo t s) = true ∨ x.loaded = false ∨
        objAt (clockTo t s) 0x6812 0 * 1000000 = 0 ∨ (clockTo t s).now < x.written + objAt (clockTo t s) 0x6812 0 * 1000000 ∨
        planeBusy (clockTo t s) plane.val = true) := by
      rintro (h | h | h | h | h | h)
      · exact ne_false_of_eq_true runs h
      · exact ne_true_of_eq_false still h
      · exact ne_false_of_eq_true loaded h
      · exact period ((Nat.mul_eq_zero.mp h).resolve_right (by decide))
      · exact Nat.not_le.mpr h due
      · exact ne_true_of_eq_false free h
    show execPlaneRefresh t plane s = _
    simp only [execPlaneRefresh, here', if_neg goes, loads, if_true]
    rfl
  refine ⟨_, starts, planeLoads_of_planeAt (planeAt_setPlane_same _ _ _) ((counted_count v).congr ?_ rfl),
    planeAt_setPlane_other plane.isLt _ (clockTo t s), ?_⟩
  · rw [show v = _ from setPlane_frame _ _ _]; rfl
  · rw [show v = _ from setPlane_frame _ _ _]; rfl

/-! ### LOAD_ROUTER -/

section
variable (t : Nat) {q : Fin 4096} {d : Desc} {s : State} (runs : packageRuns s = true) (still : dropping s = false)
  (cls : (queueAt s q.val).cls = 2) (next : (queueAt s q.val).next = some d) (plain : field d.data 1 1 = 0)
include runs still cls next plain

/-- A LOAD_ROUTER whose operands pass loads its plane or not, and ends at once. -/
theorem exec_loadRouter (op : field d.data 0 1 = 2) (free : planeBusy s (field d.data 20 1 % 2) = false)
    (rows : field d.data 16 2 + 1 ≤ 32768) (columns : field d.data 18 2 + 1 ≤ 1024) (aligned : field d.data 8 8 % 64 = 0)
    {v : State} {c : Nat}
    (loads : loadPlane (field d.data 20 1 % 2) (field d.data 8 8) (field d.data 16 2 + 1) (field d.data 18 2 + 1)
      (clockTo t s) = (v, c)) :
    exec (.loadRouter t q) s = .next (finish q.val d.index (if c = 0 then 0 else if c = 0x6010 then 1 else 5) c 0
      (if c = 0 then count 0x6820 7 1 v else v)) := by
  have next' : (queueAt (clockTo t s) q.val).next = some d := next
  have free' : planeBusy (clockTo t s) (field d.data 20 1 % 2) = false := free
  have admits := admitOp_plain (s := clockTo t s) runs still cls next plain op
  have fits : ¬ (32768 < field d.data 16 2 + 1 ∨ 1024 < field d.data 18 2 + 1 ∨ field d.data 8 8 % 64 ≠ 0) := by omega
  show execLoadRouter t q s = _
  simp only [execLoadRouter, next', free', op, admits, if_neg fits, loads, Bool.false_eq_true, and_false, if_false]

theorem loadRouter_loads (op : field d.data 0 1 = 2) (free : planeBusy s (field d.data 20 1 % 2) = false)
    (rows : field d.data 16 2 + 1 ≤ 32768) (columns : field d.data 18 2 + 1 ≤ 1024) (aligned : field d.data 8 8 % 64 = 0)
    (reads : ImageReads s (field d.data 8 8) (field d.data 16 2 + 1) (field d.data 18 2 + 1)) :
    let image := field d.data 8 8
    let h := field d.data 16 2 + 1
    let e := field d.data 18 2 + 1
    let p := field d.data 20 1 % 2
    ∃ u, exec (.loadRouter t q) s = .next u ∧
      (ImageSane s image h e → PlaneLoads (max s.now t) s u p image h e ∧ planeAt u (1 - p) = planeAt s (1 - p)) ∧
      (¬ ImageSane s image h e → u.junc = s.junc) ∧ u.prog = s.prog ∧ u.tiles = s.tiles ∧ u.life = s.life ∧
      u.coll = s.coll ∧ u.fab = s.fab ∧ u.links = s.links ∧ u.cellar = s.cellar := by
  intro image h e p
  have goes {v : State} {c : Nat} := exec_loadRouter t runs still cls next plain op free rows columns aligned (v := v) (c := c)
  by_cases sane : ImageSane s image h e
  · let v := setPlane p (loadedPlane (clockTo t s) image h e) (clockTo t s)
    obtain ⟨junc, coll, links, loads, prog, tiles, life, fab, cellar⟩ :=
      finish_leaves q.val d.index 0 0 0 (count 0x6820 7 1 v)
    have frame : v = _ := setPlane_frame _ _ _
    have planes (n : Nat) : planeAt (finish q.val d.index 0 0 0 (count 0x6820 7 1 v)) n = planeAt v n := by
      unfold planeAt; rw [junc]; rfl
    have counted : Counted 0x6820 7 1 s (finish q.val d.index 0 0 0 (count 0x6820 7 1 v)) :=
      (counted_count v).of_counterAt (by rw [frame]; rfl) loads
    refine ⟨_, goes (loadPlane_sane (s := clockTo t s) p reads sane), fun _ => ⟨planeLoads_of_planeAt ?_ counted, ?_⟩,
      absurd sane, prog.trans ?_, tiles.trans ?_, life.trans ?_, coll.trans ?_, fab.trans ?_, links.trans ?_,
      cellar.trans ?_⟩
    · rw [if_pos rfl, if_pos rfl, planes, planeAt_setPlane_same]
    · rw [if_pos rfl, if_pos rfl, planes, planeAt_setPlane_other (Nat.mod_lt _ (by decide))]; rfl
    all_goals (rw [frame]; rfl)
  · obtain ⟨junc, coll, links, -, prog, tiles, life, fab, cellar⟩ := finish_leaves q.val d.index 1 0x6010 0 (clockTo t s)
    exact ⟨_, goes (loadPlane_insane (s := clockTo t s) p reads sane), fun h => absurd h sane, fun _ => junc, prog, tiles,
      life, coll, fab, links, cellar⟩

end

end Sys2Proof.Machine

namespace Sys2Proof.Machine

/-! ## The Score stage (R685, R690, R698, R704, R734) -/

theorem length_rowBytes (row : List Nat) : (rowBytes row).length = 4 * row.length := by
  induction row with
  | nil => rfl
  | cons c row ih =>
    simp only [rowBytes] at ih
    simp only [rowBytes, List.flatMap_cons, List.length_append, length_natLe, List.length_cons, ih]
    omega

theorem length_flatMap_rowBytes {rows : List (List Nat)} {e : Nat} (full : ∀ r ∈ rows, r.length = e) :
    (rows.flatMap rowBytes).length = 4 * e * rows.length := by
  induction rows with
  | nil => rfl
  | cons r rows ih =>
    obtain ⟨first, rest⟩ := List.forall_mem_cons.mp full
    simp only [List.flatMap_cons, List.length_append, List.length_cons, length_rowBytes, first, ih rest, Nat.mul_succ]
    omega

theorem length_row_ite {c : Prop} [Decidable c] {a b : Scored} {n : Nat} (ha : a.row.length = n) (hb : b.row.length = n) :
    (if c then a else b).row.length = n := by split <;> assumption

/-- A token's row has a score for every expert, whether it is evaluated or not (R690, R698). -/
theorem length_scoreToken_row (s : State) (l : Layer) (x : Plane) (sparse : Bool) (k : Nat) :
    (scoreToken s l x sparse k).row.length = l.experts := by
  simp only [scoreToken]
  exact length_row_ite List.length_replicate (by simp only [List.length_map, length_numbered, List.length_range])

theorem firstCause_of_zero {l : List Nat} (zero : ∀ c ∈ l, c = 0) : firstCause l = 0 := by
  have none : l.find? (fun c => c ≠ 0) = none := List.find?_eq_none.mpr fun c hc => by simp [zero c hc]
  rw [firstCause, none]; rfl

/-- Every token's row, flags, counts and cause. -/
def scores (s : State) (l : Layer) : List Scored :=
  (List.range l.tokens).map (scoreToken s l (planeAt s l.plane) (sparseMode s l))

/-- Scoring is counted, and its flags are raised. -/
def scoresNoted (l : Layer) (sc : List Scored) (s : State) : State :=
  count 0x6820 3 ((sc.map (·.skips)).foldl (· + ·) 0) (count 0x6820 2 ((sc.map (·.saturated)).foldl (· + ·) 0)
    (count 0x6820 1 ((sc.filter (·.evaluated)).length * (rowChunks l.hidden * columnGroups l.experts))
      (juncFlags (sc.foldl (fun a y => a ||| y.flags) 0) { s with freeCount := s.freeCount + 2 ^ 128 })))

theorem counted_scoresNoted (l : Layer) (sc : List Scored) (s : State) :
    Counted 0x6820 1 ((sc.filter (·.evaluated)).length * (rowChunks l.hidden * columnGroups l.experts)) s
      (scoresNoted l sc s) := by
  refine (counted_count (juncFlags (sc.foldl (fun a y => a ||| y.flags) 0)
    { s with freeCount := s.freeCount + 2 ^ 128 })).of_counterAt rfl ?_
  rw [scoresNoted, counterAt_count_other _ (by decide), counterAt_count_other _ (by decide)]

/-- The scores are written and noted, and the layer goes on to Select. -/
def scoresWritten (l : Layer) (sc : List Scored) (s : State) : State :=
  modLayer (fun l => { l with stage := 2 }) (writeScores l (sc.map (·.row)) (scoresNoted l sc s))

/-- Nothing has changed but the free values used, the counters and the Junction's flags. -/
def ScoreNotes (s u : State) : Prop := ∃ free counters flags, u = { s with
  freeCount := free, kiosk := { s.kiosk with counters := counters }, junc := { s.junc with flags := flags } }

theorem ScoreNotes.count {s u : State} (h : ScoreNotes s u) (i a n : Nat) : ScoreNotes s (count i a n u) := by
  obtain ⟨free, counters, flags, rfl⟩ := h
  exact ⟨_, _, _, rfl⟩

theorem scoreNotes_scoresNoted (l : Layer) (sc : List Scored) (s : State) : ScoreNotes s (scoresNoted l sc s) := by
  have flags : ScoreNotes s (juncFlags (sc.foldl (fun a y => a ||| y.flags) 0)
    { s with freeCount := s.freeCount + 2 ^ 128 }) := ⟨_, _, _, rfl⟩
  exact ((flags.count _ _ _).count _ _ _).count _ _ _

/-- What writing the scores changes: the bytes at SCORE_ADDR, the layer's stage, and what noting them does. -/
theorem scoresWritten_frame {l : Layer} (sc : List Scored) {s : State} (layer : s.junc.layer = some l) :
    ∃ poison free counters flags, scoresWritten l sc s = { s with
      hbm := memWrite s.hbm l.scoreAddr ((sc.map (·.row)).flatMap rowBytes), tiers := { s.tiers with hbmPoison := poison }
      freeCount := free, kiosk := { s.kiosk with counters := counters }
      junc := { s.junc with layer := some { l with stage := 2 }, flags := flags } } := by
  obtain ⟨free, counters, flags, noted⟩ := scoreNotes_scoresNoted l sc s
  rw [scoresWritten, noted]
  simp only [modLayer, State.modJunc, writeScores, hbmWrite, layer, Option.map_some]
  exact ⟨_, _, _, _, rfl⟩

theorem length_scores (s : State) (l : Layer) :
    (((scores s l).map (·.row)).flatMap rowBytes).length = 4 * l.experts * l.tokens := by
  have full : ∀ r ∈ (scores s l).map (·.row), r.length = l.experts := by
    intro r hr
    simp only [scores, List.map_map, List.mem_map] at hr
    obtain ⟨k, -, rfl⟩ := hr
    exact length_scoreToken_row _ _ _ _ k
  have rows : ((scores s l).map (·.row)).length = l.tokens := by simp only [scores, List.length_map, List.length_range]
  rw [length_flatMap_rowBytes full, rows]

section
variable (t : Nat) {l : Layer} {s : State} (runs : packageRuns s = true) (still : dropping s = false)
  (layer : s.junc.layer = some l) (stage : l.stage = 1)
include runs still layer stage

theorem scoreStage_digital (digital : l.digital = true) : exec (.scoreStage t) s =
    .next { s with now := max s.now t, junc := { s.junc with layer := some { l with stage := 2 } } } := by
  have layer' : (clockTo t s).junc.layer = some l := layer
  have goes : ¬ (l.stage ≠ 1 ∨ packageRuns (clockTo t s) = false ∨ dropping (clockTo t s) = true) := by
    simp [stage, show packageRuns (clockTo t s) = true from runs, show dropping (clockTo t s) = false from still]
  have advances : modLayer (fun l => { l with stage := 2 }) (clockTo t s) =
      { s with now := max s.now t, junc := { s.junc with layer := some { l with stage := 2 } } } := by
    simp [modLayer, State.modJunc, clockTo, layer]
  show execScoreStage t s = _
  simp only [execScoreStage, layer', if_neg goes, digital, if_true, advances]

/-- Where the arrays hold the whole plane at once and no read fails, the scores are written and noted. -/
theorem exec_scoreStage (analog : l.digital = false)
    (valid : rangeValid (hbmValid s) l.scoreAddr (4 * l.experts * l.tokens) = true)
    (fits : rowChunks l.hidden * columnGroups l.experts ≤ usableArrays s)
    (sound : ∀ y ∈ scores (clockTo t s) l, y.cause = 0) : exec (.scoreStage t) s =
      .next (scoresWritten l (scores (clockTo t s) l) (clockTo t s)) := by
  have layer' : (clockTo t s).junc.layer = some l := layer
  have goes : ¬ (l.stage ≠ 1 ∨ packageRuns (clockTo t s) = false ∨ dropping (clockTo t s) = true) := by
    simp [stage, show packageRuns (clockTo t s) = true from runs, show dropping (clockTo t s) = false from still]
  have valid' : rangeValid (hbmValid (clockTo t s)) l.scoreAddr (4 * l.experts * l.tokens) = true := valid
  have once : reloadRounds l (clockTo t s) = clockTo t s := if_pos (.inl fits)
  have clean : ¬ firstCause ((scores (clockTo t s) l).map (·.cause)) ≠ 0 := by
    refine not_not_intro (firstCause_of_zero fun c hc => ?_)
    obtain ⟨y, listed, rfl⟩ := List.mem_map.mp hc
    exact sound y listed
  show execScoreStage t s = _
  simp only [execScoreStage, layer', if_neg goes, analog, valid', once, Bool.false_eq_true, Bool.true_eq_false, if_false]
  exact if_neg clean

theorem scoreStage_writes (analog : l.digital = false)
    (valid : rangeValid (hbmValid s) l.scoreAddr (4 * l.experts * l.tokens) = true)
    (fits : rowChunks l.hidden * columnGroups l.experts ≤ usableArrays s)
    (sound : ∀ y ∈ scores (clockTo t s) l, y.cause = 0) :
    ∃ u, exec (.scoreStage t) s = .next u ∧ u.junc.layer = some { l with stage := 2 } ∧
      memRead u.hbm l.scoreAddr (4 * l.experts * l.tokens) =
        ((scores (clockTo t s) l).map (·.row)).flatMap rowBytes ∧
      (∀ b, b < l.scoreAddr ∨ l.scoreAddr + 4 * l.experts * l.tokens ≤ b → memGet u.hbm b = memGet s.hbm b) ∧
      Counted 0x6820 1 (((scores (clockTo t s) l).filter (·.evaluated)).length *
        (rowChunks l.hidden * columnGroups l.experts)) s u ∧
      u = { s with
        now := max s.now t, hbm := u.hbm, tiers := { s.tiers with hbmPoison := u.tiers.hbmPoison }, freeCount := u.freeCount
        kiosk := { s.kiosk with counters := u.kiosk.counters }
        junc := { s.junc with layer := u.junc.layer, flags := u.junc.flags } } := by
  have length := length_scores (clockTo t s) l
  have exec := exec_scoreStage t runs still layer stage analog valid fits sound
  have counted := counted_scoresNoted l (scores (clockTo t s) l) (clockTo t s)
  obtain ⟨poison, free, counters, flags, frame⟩ := scoresWritten_frame (scores (clockTo t s) l) (s := clockTo t s) layer
  generalize scores (clockTo t s) l = sc at *
  refine ⟨_, exec, by rw [frame], ?_, fun b off => ?_, counted.of_counterAt rfl rfl, by rw [frame]; rfl⟩
  · have reads := memRead_write s.hbm l.scoreAddr ((sc.map (·.row)).flatMap rowBytes)
    rw [length] at reads
    rw [frame]; exact reads
  · rw [frame]; exact memGet_write_outside s.hbm l.scoreAddr b _ (by rwa [length])

end

/-! ### The obligation -/

/-- Settles O38: one array's changes by `OneArray`, a plane's load by `weight_loadedWeights`, which says where each weight comes
from, and the Score stage by the length of its rows and what a write reads back. -/
theorem arraysAndPlanes : Obligations.ArraysAndPlanes := by
  intro t s runs now
  refine ⟨fun array => ?arrays, fun still => ?work⟩
  case arrays =>
    intro x only
    have drifts (f : Arr → Arr) : only (modArr array.val f (clockTo t s)) := (oneArray_clockTo array.val t s).modArr f
    refine ⟨fun temp => ⟨_, exec_arrayTempDrift t runs temp, drifts _, rfl, arrAt_modArr_same _ _ _⟩,
      fun still idle free due => ⟨_, exec_recalibrationStart t runs still idle free due, drifts _, rfl,
        arrAt_modArr_same _ _ _⟩, fun calibrates ended => ⟨?_, ?_⟩, fun early => recalibrationComplete_early t early⟩
    · exact recalibrationComplete_passes t runs calibrates ended
    · exact recalibrationComplete_fails t runs calibrates ended
  case work =>
    intro loads readable sane
    refine ⟨?refresh, ?load, ?score⟩
    case refresh =>
      intro plane x loaded period due free reads sane
      exact planeRefresh_loads t rfl runs still loaded period due free reads sane
    case load =>
      intro q d image h e p cls next op plain free rows columns aligned reads
      exact loadRouter_loads t runs still cls next plain op free rows columns aligned reads
    case score =>
      refine fun l layer stage => ⟨scoreStage_digital t runs still layer stage, fun analog valid fits => ?_⟩
      intro sc n sound
      exact scoreStage_writes t runs still layer stage analog valid fits sound

end Sys2Proof.Machine

namespace Sys2Proof.Machine

/-! ## LAYER starts and FLAGS reads (R714, R721 to R730)

### Calibrations are aborted (R714) -/

/-- The calibration of array `n` is aborted, if one is running. -/
def abortOne (n : Nat) (s : State) : State :=
  let x := arrAt s n
  if x.state ≠ .calibrating then s
  else
    let s := count 0x6820 5 1 (modArr n (fun x => { x with state := .calDue, aborts := x.aborts + 1 }) s)
    if (x.aborts + 1) % 64 = 0 then s.modJunc fun j => { j with pauseUntil := s.now + 120000 } else s

theorem abortRecalibration_eq (s : State) : abortRecalibration s = forEach abortOne (List.range 32) s := rfl

/-- The state with other counters and arrays, and another end of the pause. -/
def State.aborted (counters : Tab Nat) (arrays : Tab Arr) (pause : Nat) (s : State) : State := { s with
  kiosk := { s.kiosk with counters := counters }, junc := { s.junc with arrays := arrays, pauseUntil := pause } }

theorem abortOne_frame (n : Nat) (s : State) : ∃ counters arrays pause, abortOne n s = s.aborted counters arrays pause := by
  simp only [abortOne]
  split
  · exact ⟨_, _, _, rfl⟩
  · split <;> exact ⟨_, _, _, rfl⟩

theorem abortRecalibration_frame (s : State) :
    ∃ counters arrays pause, abortRecalibration s = s.aborted counters arrays pause := by
  refine forEach_invariant (P := fun u => ∃ counters arrays pause, u = s.aborted counters arrays pause) ?_ _ ⟨_, _, _, rfl⟩
  rintro n _ ⟨c, a, p, rfl⟩
  obtain ⟨c', a', p', step⟩ := abortOne_frame n (s.aborted c a p)
  exact ⟨c', a', p', step⟩

/-- An abort leaves its array not calibrating, and makes no other calibrate. -/
theorem abortOne_uncalibrated {n m : Nat} {s : State} (h : m = n ∨ (arrAt s m).state ≠ .calibrating) :
    (arrAt (abortOne n s) m).state ≠ .calibrating := by
  by_cases calibrates : (arrAt s n).state = .calibrating
  · have arrays : arrAt (abortOne n s) m =
        arrAt (modArr n (fun x => { x with state := .calDue, aborts := x.aborts + 1 }) s) m := by
      simp only [abortOne, if_neg (not_not_intro calibrates)]
      split <;> rfl
    rw [arrays]
    by_cases same : m = n
    · rw [same, arrAt_modArr_same]
      exact fun h => ArrState.noConfusion h
    · rw [arrAt_modArr_other _ s same]; exact h.resolve_left same
  · have stands : abortOne n s = s := if_pos calibrates
    rw [stands]
    exact h.elim (fun same => same ▸ calibrates) id

theorem abortRecalibration_uncalibrated (s : State) {n : Nat} (hn : n < 32) :
    (arrAt (abortRecalibration s) n).state ≠ .calibrating := by
  have all (xs : List Nat) (u : State) (h : n ∈ xs ∨ (arrAt u n).state ≠ .calibrating) :
      (arrAt (forEach abortOne xs u) n).state ≠ .calibrating := by
    induction xs generalizing u with
    | nil => exact h.resolve_left List.not_mem_nil
    | cons m ms ih =>
      refine ih (abortOne m u) ?_
      by_cases later : n ∈ ms
      · exact .inl later
      · exact .inr (abortOne_uncalibrated (h.imp_left fun listed => (List.mem_cons.mp listed).resolve_right later))
  exact all _ s (.inl (List.mem_range.mpr hn))

/-! ### LAYER -/

theorem startDesc_junc (q i : Nat) (f : Junction → Junction) (s : State) :
    (startDesc q i (s.modJunc f)).junc = f s.junc := rfl

/-- A layer begins with its record, its operands and what was read with them, once no array calibrates. -/
theorem beginLayer_order (q : Nat) (d : Desc) (b : List Byte) (x : LayerReads) (s : State) :
    ∃ y, beginLayer q d b x s =
        startDesc q d.index ((abortRecalibration s).modJunc fun j => { j with layer := some y }) ∧
      y.stage = 1 ∧ y.queue = q ∧ y.index = d.index ∧ y.data = b ∧ y.act = x.act ∧ y.ret = x.ret ∧ y.mask = x.mask ∧
      y.signalAddr = field d.data 16 8 ∧ y.signalValue = field d.data 24 8 ∧
      y.cap = objAt s 0x6010 (field b 11 1 + 1) ∧ y.pairs = [] ∧ y.picks = [] := by
  have objects : objAt (abortRecalibration s) 0x6010 (field b 11 1 + 1) = objAt s 0x6010 (field b 11 1 + 1) := by
    obtain ⟨c, a, p, aborted⟩ := abortRecalibration_frame s
    rw [aborted]; rfl
  simp only [beginLayer]
  exact ⟨_, rfl, rfl, rfl, rfl, rfl, rfl, rfl, rfl, rfl, rfl, by dsimp only; exact objects, rfl, rfl⟩

theorem beginLayer_uncalibrated (q : Nat) (d : Desc) (b : List Byte) (x : LayerReads) (s : State) {n : Nat} (hn : n < 32) :
    (arrAt (beginLayer q d b x s) n).state ≠ .calibrating := by
  obtain ⟨y, begins, -⟩ := beginLayer_order q d b x s
  have arrays : (beginLayer q d b x s).junc.arrays = (abortRecalibration s).junc.arrays := by rw [begins, startDesc_junc]
  have same : arrAt (beginLayer q d b x s) n = arrAt (abortRecalibration s) n := by simp only [arrAt, arrays]
  rw [same]
  exact abortRecalibration_uncalibrated s hn

theorem beginLayer_frame (q : Nat) (d : Desc) (b : List Byte) (x : LayerReads) (s : State) :
    let u := beginLayer q d b x s
    u = { s with
      host := u.host, kiosk := { s.kiosk with counters := u.kiosk.counters }
      junc := { s.junc with layer := u.junc.layer, arrays := u.junc.arrays, pauseUntil := u.junc.pauseUntil } } := by
  obtain ⟨c, a, p, aborted⟩ := abortRecalibration_frame s
  obtain ⟨y, begins, -⟩ := beginLayer_order q d b x s
  rw [aborted] at begins
  simp only [begins]
  rfl

/-- The operands of a LAYER descriptor, the place of its record and the record itself pass every check. -/
def LayerPasses (s : State) (d : Desc) : Prop :=
  field d.data 8 8 % 128 = 0 ∧ field d.data 16 8 % 8 = 0 ∧ field d.data 24 8 < 2 ^ 63 ∧
  (hbmFetch s (field d.data 8 8) 128).2 ≠ 0xA007 ∧
  layerFault s (hbmRead s (field d.data 8 8) 128) (layerReads s (hbmRead s (field d.data 8 8) 128)) = 0

/-- The cause of the first check of a LAYER that fails, 0 when none does. -/
def layerCause (s : State) (d : Desc) : Nat :=
  if field d.data 8 8 % 128 ≠ 0 ∨ field d.data 16 8 % 8 ≠ 0 ∨ 2 ^ 63 ≤ field d.data 24 8 ∨
      (hbmFetch s (field d.data 8 8) 128).2 = 0xA007 then 0x6001
  else layerFault s (hbmRead s (field d.data 8 8) 128) (layerReads s (hbmRead s (field d.data 8 8) 128))

theorem layerCause_eq_zero_iff (s : State) (d : Desc) : layerCause s d = 0 ↔ LayerPasses s d := by
  simp only [layerCause, LayerPasses]
  split
  · next bad =>
    refine iff_of_false (by decide) ?_
    rintro ⟨record, signal, value, fetched, -⟩
    rcases bad with h | h | h | h
    · exact h record
    · exact h signal
    · exact Nat.not_lt.mpr h value
    · exact fetched h
  · next fine =>
    simp only [not_or, not_not, Nat.not_le] at fine
    obtain ⟨record, signal, value, fetched⟩ := fine
    exact ⟨fun sound => ⟨record, signal, value, fetched, sound⟩, fun ⟨_, _, _, _, sound⟩ => sound⟩

section
variable (t : Nat) {q : Fin 4096} {d : Desc} {s : State} (runs : packageRuns s = true) (still : dropping s = false)
  (cls : (queueAt s q.val).cls = 2) (next : (queueAt s q.val).next = some d) (plain : field d.data 1 1 = 0)
  (op : field d.data 0 1 = 1) (idle : s.junc.layer = none) (unpaused : s.junc.pauseUntil ≤ max s.now t)
  (turn : layerTurn s q.val d.index = true)
include runs still cls next plain op idle unpaused turn

/-- A LAYER whose turn it is ends by the first check that fails, or begins. -/
theorem exec_layer : exec (.layer t q) s =
    let v := clockTo t s
    let b := hbmRead v (field d.data 8 8) 128
    let x := layerReads v b
    .next (if layerCause v d ≠ 0 then finish q.val d.index 3 (layerCause v d) 0 (dropSubmission q.val d.index v)
      else if decide ((hbmFetch v (field d.data 8 8) 128).2 = 0x5001) || x.causes.any fun c => decide (c = 0x5001) then
        abortLayer 0x5001 (beginLayer q.val d b x v)
      else beginLayer q.val d b x v) := by
  have next' : (queueAt (clockTo t s) q.val).next = some d := next
  have admits := admitOp_plain (s := clockTo t s) runs still cls next plain op
  have goes : ¬ ((clockTo t s).junc.layer.isSome = true ∨ (clockTo t s).now < (clockTo t s).junc.pauseUntil ∨
      layerTurn (clockTo t s) q.val d.index = false) := by
    rintro (h | h | h)
    · rw [show (clockTo t s).junc.layer = none from idle] at h
      exact Bool.noConfusion h
    · exact Nat.not_lt.mpr unpaused h
    · exact ne_false_of_eq_true turn h
  have known : ¬ field d.data 0 1 ≠ 1 := not_not_intro op
  show execLayer t q s = _
  simp only [execLayer, next', if_neg known, if_neg goes, admits]
  by_cases refused : layerCause (clockTo t s) d ≠ 0
  · exact (if_pos refused).trans (congrArg Host.Outcome.next (if_pos refused).symm)
  · exact (if_neg refused).trans (congrArg Host.Outcome.next (if_neg refused).symm)

theorem layer_begins (good : LayerPasses s d) (sound : (hbmFetch s (field d.data 8 8) 128).2 = 0)
    (clean : ∀ c ∈ (layerReads s (hbmRead s (field d.data 8 8) 128)).causes, c ≠ 0x5001) :
    exec (.layer t q) s = .next (beginLayer q.val d (hbmRead s (field d.data 8 8) 128)
      (layerReads s (hbmRead s (field d.data 8 8) 128)) (clockTo t s)) := by
  have passes : ¬ layerCause (clockTo t s) d ≠ 0 := not_not_intro ((layerCause_eq_zero_iff (clockTo t s) d).mpr good)
  have unpoisoned : ¬ (decide ((hbmFetch (clockTo t s) (field d.data 8 8) 128).2 = 0x5001) ||
      (layerReads (clockTo t s) (hbmRead (clockTo t s) (field d.data 8 8) 128)).causes.any
        fun c => decide (c = 0x5001)) = true := by
    have clean' : ∀ c ∈ (layerReads (clockTo t s) (hbmRead (clockTo t s) (field d.data 8 8) 128)).causes, c ≠ 0x5001 := clean
    rw [show (hbmFetch (clockTo t s) (field d.data 8 8) 128).2 = 0 from sound]
    simpa using fun h => clean' _ h rfl
  exact (exec_layer t runs still cls next plain op idle unpaused turn).trans
    (congrArg Host.Outcome.next ((if_neg passes).trans (if_neg unpoisoned)))

/-- A LAYER that fails a check ends BAD_DESCRIPTOR with the cause of the first that fails, and waits no more. -/
theorem layer_refused (bad : ¬ LayerPasses s d) : exec (.layer t q) s =
    .next (finish q.val d.index 3 (layerCause s d) 0 (dropSubmission q.val d.index (clockTo t s))) := by
  have fails : layerCause (clockTo t s) d ≠ 0 := mt (layerCause_eq_zero_iff (clockTo t s) d).mp bad
  exact (exec_layer t runs still cls next plain op idle unpaused turn).trans (congrArg Host.Outcome.next (if_pos fails))

end

/-! ### FLAGS -/

/-- The flag set is in memory, the descriptor no longer waits, and the set is cleared if asked. -/
def flagsRead (q : Nat) (d : Desc) (s : State) : State :=
  let v := hbmWrite (field d.data 8 8) (natLe (s.junc.flags % 32) 8) (dropSubmission q d.index s)
  if bit (field d.data 16 1) 0 then v.modJunc fun j => { j with flags := 0 } else v

/-- Reading the flags leaves everything but the Junction and the bytes at the address. -/
theorem flagsRead_frame (q : Nat) (d : Desc) (s : State) : ∃ order tiers, flagsRead q d s = { s with
    hbm := memWrite s.hbm (field d.data 8 8) (natLe (s.junc.flags % 32) 8), tiers := tiers
    junc := { s.junc with order := order, flags := if bit (field d.data 16 1) 0 then 0 else s.junc.flags } } := by
  simp only [flagsRead]
  split <;> exact ⟨_, _, rfl⟩

section
variable {q : Nat} {d : Desc} {s : State} (fits : RecordFits q d s)
include fits

/-- Reading the flags leaves the queue as its record needs it. -/
theorem recordFits_flagsRead : RecordFits q d (flagsRead q d s) := by
  obtain ⟨order, tiers, frame⟩ := flagsRead_frame q d s
  obtain ⟨ungrouped, alone, fetched, unheld, room, whole, kept, hbmRing, data, still⟩ := fits
  rw [frame]
  exact ⟨ungrouped, alone, fetched, unheld, room, whole, kept, hbmRing, data, still⟩

/-- HBM after a FLAGS has the flags and the record. -/
theorem hbm_finish_flagsRead : (finish q d.index 0 0 0 (flagsRead q d s)).hbm =
    memWrite (memWrite s.hbm (field d.data 8 8) (natLe (s.junc.flags % 32) 8)) (queueAt s q).place
      (completionBytes q (queueAt s q) (d.doneAt s)) := by
  obtain ⟨order, tiers, frame⟩ := flagsRead_frame q d s
  obtain ⟨hbm, -⟩ := (recordFits_flagsRead fits).finish_hbm
  rw [hbm, frame]; rfl

/-- What a FLAGS leaves when its two writes lie apart. -/
theorem finish_flagsRead (apart : (queueAt s q).place + 32 ≤ field d.data 8 8 ∨ field d.data 8 8 + 8 ≤ (queueAt s q).place) :
    let u := finish q d.index 0 0 0 (flagsRead q d s)
    memRead u.hbm (field d.data 8 8) 8 = natLe (s.junc.flags % 32) 8 ∧
      memRead u.hbm (queueAt s q).place 32 = completionBytes q (queueAt s q) (d.doneAt s) ∧
      (∀ b, b < field d.data 8 8 ∨ field d.data 8 8 + 8 ≤ b → b < (queueAt s q).place ∨ (queueAt s q).place + 32 ≤ b →
        memGet u.hbm b = memGet s.hbm b) ∧ u.hostMem = s.hostMem ∧
      u.junc.flags = (if bit (field d.data 16 1) 0 then 0 else s.junc.flags) ∧ u.junc.layer = s.junc.layer ∧
      u.junc.arrays = s.junc.arrays ∧ u.prog = s.prog ∧ u.tiles = s.tiles ∧ u.life = s.life ∧ u.coll = s.coll ∧
      u.fab = s.fab ∧ u.cellar = s.cellar := by
  intro u
  have hbm : u.hbm = _ := hbm_finish_flagsRead fits
  obtain ⟨-, hostMem⟩ := (recordFits_flagsRead fits).finish_hbm
  obtain ⟨junc, coll, -, -, prog, tiles, life, fab, cellar⟩ := finish_leaves q d.index 0 0 0 (flagsRead q d s)
  obtain ⟨order, tiers, frame⟩ := flagsRead_frame q d s
  have flagBytes := length_natLe (s.junc.flags % 32) 8
  have recordBytes := length_completionBytes q (queueAt s q) (d := d.doneAt s) fits.data
  have flagsBack := memRead_write s.hbm (field d.data 8 8) (natLe (s.junc.flags % 32) 8)
  have recordBack := memRead_write (memWrite s.hbm (field d.data 8 8) (natLe (s.junc.flags % 32) 8)) (queueAt s q).place
    (completionBytes q (queueAt s q) (d.doneAt s))
  rw [flagBytes] at flagsBack
  rw [recordBytes] at recordBack
  refine ⟨?_, by rw [hbm]; exact recordBack, fun b offFlags offRecord => ?_, ?_⟩
  · rw [hbm, memRead_write_outside _ _ (by rwa [recordBytes]), flagsBack]
  · rw [hbm, memGet_write_outside _ _ b _ (by rwa [recordBytes]), memGet_write_outside _ _ b _ (by rwa [flagBytes])]
  · rw [hostMem, junc, prog, tiles, life, coll, fab, cellar, frame]
    exact ⟨rfl, rfl, rfl, rfl, rfl, rfl, rfl, rfl, rfl, rfl⟩

end

section
variable (t : Nat) {q : Fin 4096} {d : Desc} {s : State} (runs : packageRuns s = true) (still : dropping s = false)
  (cls : (queueAt s q.val).cls = 2) (next : (queueAt s q.val).next = some d) (plain : field d.data 1 1 = 0)
include runs still cls next plain

/-- A FLAGS with no LAYER before it reads the flags and ends. -/
theorem exec_junctionFlags (op : field d.data 0 1 = 3)
    (first : ∀ y ∈ s.junc.order.takeWhile (fun y =>
      decide (y ≠ ({ queue := q.val, index := d.index, flags := true } : Submission))), y.flags = true)
    (aligned : field d.data 8 8 % 8 = 0) (valid : rangeValid (hbmValid s) (field d.data 8 8) 8 = true) :
    exec (.junctionFlags t q) s = .next (finish q.val d.index 0 0 0 (flagsRead q.val d (clockTo t s))) := by
  have next' : (queueAt (clockTo t s) q.val).next = some d := next
  have admits := admitOp_plain (s := clockTo t s) runs still cls next plain op
  have known : ¬ field d.data 0 1 ≠ 3 := not_not_intro op
  have unblocked : ¬ ((clockTo t s).junc.order.takeWhile fun y =>
      decide (y ≠ ({ queue := q.val, index := d.index, flags := true } : Submission))).any (fun y => !y.flags) = true := by
    intro h
    obtain ⟨y, listed, layer⟩ := List.any_eq_true.mp h
    simp [first y listed] at layer
  have placed : ¬ field d.data 8 8 % 8 ≠ 0 := not_not_intro aligned
  have valid' : ¬ rangeValid (hbmValid (dropSubmission q.val d.index (clockTo t s))) (field d.data 8 8) 8 = false :=
    ne_false_of_eq_true valid
  show execJunctionFlags t q s = _
  simp only [execJunctionFlags, next', if_neg known, if_neg unblocked, admits, if_neg placed, if_neg valid']
  rfl

end

/-- Settles O39: a LAYER's start by what aborting calibrations leaves, its refusal by what a descriptor's end leaves, and FLAGS by
two writes to HBM that lie apart, the flags and the record. -/
theorem layersStart : Obligations.LayersStart := by
  intro t q d s runs still cls next plain now
  refine ⟨fun op idle unpaused turn => ?layer, fun op => ?flags⟩
  case layer =>
    intro a b x good
    refine ⟨fun passes sound clean => ?_, fun bad => ?_⟩
    · obtain ⟨y, begins, stage, queue, index, data, act, ret, mask, signalAddr, signalValue, cap, pairs, picks⟩ :=
        beginLayer_order q.val d b x (clockTo t s)
      have layer : (beginLayer q.val d b x (clockTo t s)).junc.layer = some y := by rw [begins, startDesc_junc]
      exact ⟨_, y, layer_begins t runs still cls next plain op idle unpaused turn passes sound clean, layer, stage, queue,
        index, data, act, ret, mask, signalAddr, signalValue, cap, pairs, picks,
        fun n hn => beginLayer_uncalibrated q.val d b x (clockTo t s) hn, beginLayer_frame q.val d b x (clockTo t s)⟩
    · obtain ⟨junc, coll, -, -, prog, tiles, life, fab, cellar⟩ :=
        finish_leaves q.val d.index 3 (layerCause s d) 0 (dropSubmission q.val d.index (clockTo t s))
      exact ⟨_, layer_refused t runs still cls next plain op idle unpaused turn bad, junc, prog, tiles, life, coll, fab, cellar⟩
  case flags =>
    intro a mine x r first aligned valid ungrouped _ alone fetched unheld room whole kept hbmRing data apart
    have fits : RecordFits q.val d (clockTo t s) :=
      ⟨ungrouped, alone, fetched, unheld, room, whole, kept, hbmRing, data, still⟩
    exact ⟨_, exec_junctionFlags t runs still cls next plain op first aligned valid, finish_flagsRead fits apart⟩

end Sys2Proof.Machine
